-- ==== Sys2Proof/Word.lean ====
section
/-! DEFINITION. The word types of the K4 and their plainest arithmetic (spec 00 R3, R4). -/

namespace Sys2Proof

/-- One byte of memory or of a vector lane. -/
abbrev Byte := BitVec 8
/-- A scalar register, an address or a witness. -/
abbrev W64 := BitVec 64
/-- A vector register: 256 byte lanes (R51). -/
abbrev Vec := BitVec 2048
/-- A bundle (R112). -/
abbrev BundleWord := BitVec 256
/-- A slot's leaf mask: bit i is set when the slot executes under leaf i + 1 (R121). -/
abbrev Mask := BitVec 5
/-- One code unit of the stream (R124). -/
abbrev Unit16 := BitVec 16

end Sys2Proof
end

