-- ==== Sys2Proof/Operand.lean ====
section
/-! DEFINITION. The operand shapes that the forms of the syntax carry (05 R115 to R117, 06 R168, 07 R182). -/

namespace Sys2Proof

/-- Operand B of the S slot (06 R168): a register, the immediate 0 to 63, one literal unit or two. -/
inductive SOp where
  | reg (r : BitVec 6)
  | imm (u : BitVec 6)
  | lit16 (l : BitVec 16)
  | lit32 (l : BitVec 32)
  deriving DecidableEq, Repr

/-- The four address modes of the M slot (05 R117, 07 R182). -/
inductive AMode where
  | base
  | off16 (l : BitVec 16)
  | post16 (l : BitVec 16)
  | off32 (l : BitVec 32)
  deriving DecidableEq, Repr

/-- A memory operand: base register and address mode (07 R182). -/
structure MAddr where
  base : BitVec 6
  mode : AMode
  deriving DecidableEq, Repr

/-- The fields that every M form shares (05 R117). -/
structure MQual where
  mask  : Mask
  ord   : BitVec 2
  scope : BitVec 3
  evict : BitVec 3
  wit   : BitVec 4
  pred  : BitVec 4
  deriving DecidableEq, Repr

/-- A leaf of a branch tree (05 R115, R123): fall through, a direct target, an indirect target through a scalar
register, or a direct call. -/
inductive Leaf where
  | fall
  | direct (d : BitVec 32)
  | indirect (r : BitVec 6)
  | call (d : BitVec 32)
  deriving DecidableEq, Repr

end Sys2Proof
end

