-- ==== Sys2Proof/Syntax.lean ====
section
/-! DEFINITION. The whole syntax of the K4: one constructor for each row of spec/opcode_table.json.
The slot forms carry the fields of their slot (05 R114 to R120); the system steps carry what they act upon. -/

namespace Sys2Proof

/-- The instructions: the 181 level-1 forms and the steps of the package, one constructor for each row of the opcode
table. The rows without operands stand last (the compiler's tags for constructors with fields end at 244). -/
inductive Instr where
  /-- BUNDLE_ISSUE (R146). A context issues its next bundle at a tick: all its executing slots commit together and the next code position is chosen. -/
  | bundleIssue (a : Nat)
  /-- REPEAT_PREFIX (R126). A repeat group issues one bundle n times on consecutive ticks, adding k times each step to its stepped fields. -/
  | repeatPrefix (c : BitVec 8)
  /-- RESULT_LANDING (R132). A register result lands at its landing tick and is seen by every read issued from then on. -/
  | resultLanding (a : Nat)
  /-- LOAD_VALUE_ARRIVAL (R137). A loaded value arrives from memory; it ends a landing stall or fills its shadow result buffer entry. -/
  | loadValueArrival (i : Nat)
  /-- ISSUE_SELECTION (R340). In each cycle the core gives the issue to the previous context while it is ready, and otherwise to the ready context of highest priority. -/
  | issueSelection (core : Nat)
  /-- STARVATION_GRANT (R341). A ready context whose wait count reaches 4,096 reference cycles receives the issue in the next cycle. -/
  | starvationGrant (core : Nat)
  /-- YIELD_PASS_END (R162). A yielding context becomes eligible again once every other ready context has issued or 64 reference cycles have passed. -/
  | yieldPassEnd (a : Nat)
  /-- HELD_BUNDLE_RELEASE (R157). A bundle held by a waiting form, a witness, a record fill, a window entry or the keystone issues once its condition holds. -/
  | heldBundleRelease (a : Nat)
  /-- SEGMENT_PREFETCH (R128). The prefetch engine follows next and expands the following segment into the free half of the loop buffer. -/
  | segmentPrefetch (a : Nat)
  /-- PAGE_WALK (R357). A translation unit walks a domain's page tables after an L2 miss and fills the line with the leaf's permissions. -/
  | pageWalk (dom : Nat) (va : Nat)
  /-- TRANSPARENT_FAULT_RESOLVE (R356). The firmware puts a backed entry in force for a transparent fault, and the waiting access goes on. -/
  | transparentFaultResolve (dom : Nat) (va : Nat)
  /-- DELIVERED_FAULT (R184). A delivered PAGE or PROTECTION fault of an access stops the context, keeps its unperformed accesses and traps. -/
  | deliveredFault (i : Nat)
  /-- WITNESS_FAILURE_DELIVERY (R191). A form whose input witness fails after the check at issue faults WIT_FAILED as a delivered fault. -/
  | witnessFailureDelivery (i : Nat)
  /-- STORE_VISIBLE (R309). A store, atomic or engine write becomes visible at a scope when it is performed at its home or written to DRAM. -/
  | storeVisible (i : Nat) (lvl : Nat)
  /-- EPOCH_CLOSE (R312). An epoch of a domain closes at a scope once every form of the domain numbered in it is visible or has failed. -/
  | epochClose (dom : Nat) (scope : Nat)
  /-- SC_STAMP (R199). A sequentially consistent operation is stamped at its agent's next wheel position once its context's earlier stores are visible at package scope. -/
  | scStamp (i : Nat)
  /-- SC_PERFORM (R199). An L2 slice performs a stamped operation at its stamp plus 2,048 reference cycles, in stamp order. -/
  | scPerform (i : Nat)
  /-- SYNC_ARRIVE (R204). An arrival at a sync word merges its witness, adds its bytes and advances the generation when the target is reached. -/
  | syncArrive (i : Nat)
  /-- BARRIER_RELEASE (R160). When every member has arrived at a barrier or has exited, all held members are released with the merged witness. -/
  | barrierRelease (task : Nat) (inst : Nat) (gang : Bool) (team : Nat) (b : Nat)
  /-- TILE_ENGINE_CLAIM (R247). A free engine takes the oldest ready operation of its class, VT0 before VT1, with epilogues first. -/
  | tileEngineClaim (a : Nat) (q : Nat)
  /-- TILE_OP_COMPLETE (R248). A tile operation completes on its engine; operations retire in issue order and release their bindings and window entries. -/
  | tileOpComplete (a : Nat) (q : Nat)
  /-- EPILOGUE_SERVE (R265). A vector-tile engine performs a queued trestle epilogue on the finished result. -/
  | epilogueServe (core : Nat)
  /-- TILE_SINK (R242). The copy engine moves a tile from the deck to the pier, or from the pier to the footing. -/
  | tileSink (a : Nat) (tile : Nat)
  /-- TILE_RISE (R242). The copy engine raises a bound or anticipated tile into the deck, exchanging it with a sinking tile where needed. -/
  | tileRise (a : Nat) (tile : Nat)
  /-- BANK_VACATE (R44). Deck granules in the banks of a slot being bound are vacated before the arriving context issues. -/
  | bankVacate (core : Nat) (slot : Nat)
  /-- UNWIND (R250). A delivered fault of a tile operation lets the older operations retire, cancels the rest into the replay list, restores the stack and traps. -/
  | unwind (a : Nat)
  /-- GRAD_CONTRIBUTION (R104). An update unit applies one contribution to the blocks of a gradient line's accumulator. -/
  | gradContribution (i : Nat)
  /-- UPDATE_LINE_COMPLETE (R107). A line whose count reaches the expected number is converted, runs its optimizer, writes the master, state and copy, and arrives at the completion word. -/
  | updateLineComplete (i : Nat)
  /-- COLLECTIVE_RUN (R299). A collective engine combines the sources of each element, writes the destinations, and arrives at the sync word. -/
  | collectiveRun (i : Nat)
  /-- RECORD_FILL (R274). A die's record cache fills a tensor record from its L2 home for a form held before issue. -/
  | recordFill (die : Nat) (dom : Nat) (id : Nat)
  /-- RECORD_DROP_COMPLETE (R210). An RCFENCE drop of a record and its lines completes on all four dies. -/
  | recordDropComplete (i : Nat)
  /-- NOTICE_APPEND (R285). Once a TSENDQ's last byte is visible, the engine appends a notice and advances wr, or counts the notice as lost. -/
  | noticeAppend (i : Nat)
  /-- TAIL_WRITE (R333). A host write to a queue's tail register accepts a new tail, unless it would make more than the ring's size pending. -/
  | tailWrite (q : Nat) (v : BitVec 64)
  /-- QUEUE_VISIT (R334). The command stream processor visits a queue and reads, accepts or refuses one packet. -/
  | queueVisit (q : Nat)
  /-- LAUNCH_QUEUE_APPEND (R212). A packet waiting in the hardware launch queue is appended to its command queue's ring when room exists. -/
  | launchQueueAppend (i : Nat)
  /-- INSTANCE_PLACEMENT (R338). A ready gang instance that fits is placed on a die, and its contexts are launched. -/
  | instancePlacement (task : Nat) (inst : Nat) (die : Nat) (span : Nat) (core : Nat)
  /-- PRIORITY_AGEING (R338). A ready instance that stays unplaced rises one effective priority every 2 ms, up to 4. -/
  | priorityAgeing (task : Nat) (inst : Nat)
  /-- FORCED_PREEMPTION (R338). After an instance has waited 2 ms at priority 4, the scheduler pre-empts lower-priority instances so that it fits. -/
  | forcedPreemption (task : Nat) (inst : Nat)
  /-- PREEMPT (R346). A whole gang instance is pre-empted: issue stops, windows and stores drain, tiles sink and the images are saved. -/
  | preempt (task : Nat) (inst : Nat)
  /-- RESUME (R347). A pre-empted instance is restored all at once on a die that fits it, with raised witnesses and its save witness as floor. -/
  | resume (task : Nat) (inst : Nat) (die : Nat) (span : Nat) (core : Nat)
  /-- SCRATCH_SHARE_RELEASE (R348). A retired team's scratchpad shares are released once every copy into or out of them has performed its last access. -/
  | scratchShareRelease (task : Nat) (inst : Nat) (team : Nat)
  /-- TASK_COMPLETE (R349). A task completes once its instances have retired and its stores are visible at system scope; its successors are then acted on. -/
  | taskComplete (task : Nat)
  /-- COPY_TASK (R337). A ready kind-2 task copies bytes through a collective engine until they are visible at system scope. -/
  | copyTask (task : Nat)
  /-- SIGNAL_TASK (R336). A ready kind-3 task releases the oldest held task of its handle, or keeps a release credit. -/
  | signalTask (task : Nat)
  /-- WAIT_TASK (R337). A kind-4 task completes once its sync word's gen differs from g. -/
  | waitTask (task : Nat)
  /-- RECORD_FENCE_TASK (R337). A kind-5 task drops a record, or every record, of its domain from all dies. -/
  | recordFenceTask (task : Nat)
  /-- JOURNAL_MARK (R385). A kind-7 task completes at once and copies its value into the journal record. -/
  | journalMark (task : Nat)
  /-- SELF_TEST_RUN (R389). A self-test is placed once its span is empty, runs its tests, clears the span, and withdraws or derates on failure. -/
  | selfTestRun (task : Nat)
  /-- CODE_LOAD (R362). A kind-8 task checks, places and maps a Choley object and writes the load result area. -/
  | codeLoad (task : Nat)
  /-- CODE_UNLOAD (R364). A kind-9 task waits until its object is unused, raises the code generation, unmaps the object and frees its pages. -/
  | codeUnload (task : Nat)
  /-- CODEGEN_PASS (R365). A core passes a code generation once no prefetch engine or loop-buffer half holds units fetched before it. -/
  | codegenPass (core : Nat)
  /-- DEADLOCK_QUEUE_GROWTH (R343). After 256 reference cycles without progress while a queue is full, the die adds a 4 KiB chunk to its smallest full queue. -/
  | deadlockQueueGrowth (die : Nat) (qu : Nat)
  /-- CORRECTED_ERROR (R380). A correctable SRAM or DRAM error is corrected in place and counted. -/
  | correctedError (u : BitVec 32) (dram : Bool) (addr : Nat) (dom : Nat)
  /-- UNCORRECTABLE_ERROR (R381). An uncorrectable error poisons its word or burst. -/
  | uncorrectableError (u : BitVec 32) (dram : Bool) (addr : Nat) (dom : Nat)
  /-- LANE_RETRAIN (R390). A Tamvan lane retrains, is counted, and writes an error record of kind 5. -/
  | laneRetrain (port : Nat)
  /-- UNKNOWN_MAILBOX_COMMAND (R404). An mcmd write of an unlisted code gives result 1. -/
  | unknownMailboxCommand (code : Nat)
  /-- REGISTER_WRITE (R403). A write to a management register without behaviour of its own, such as marg, stores the value or is discarded. -/
  | registerWrite (off : Nat) (v : BitVec 64)
  /-- BR (R148). A branch tree chooses one of five leaves from condition bits and falls through, jumps, jumps indirectly or calls. -/
  | br (sh : BitVec 4) (ta : BitVec 6) (tb : BitVec 6) (tc : BitVec 6) (td : BitVec 6) (l1 : Leaf) (l2 : Leaf) (l3 : Leaf) (l4 : Leaf)
  /-- LOOP (R153). Opens a hardware loop with an immediate count. -/
  | loop (chain : BitVec 12) (n : BitVec 20) (e : BitVec 10)
  /-- LOOPS (R153). Opens a hardware loop with a count read from a scalar register. -/
  | loops (chain : BitVec 12) (sa : BitVec 6) (e : BitVec 10)
  /-- FMTW (R156). Writes fmt from an immediate and a literal, landing at t + 5. -/
  | fmtw (low : BitVec 32) (mask : BitVec 16)
  /-- FMTS (R156). Writes fmt from a scalar register, landing at t + 5. -/
  | fmts (sa : BitVec 6)
  /-- SBAR (R160). Arrives at a team or gang barrier and receives the merged witness at release. -/
  | sbar (w : BitVec 4) (gang : Bool) (b : BitVec 2)
  /-- WWAIT (R159). Holds until a witness register is satisfied, or faults on a bad witness. -/
  | wwait (w : BitVec 4)
  /-- TRAP (R163). Commits the other slots and raises cause TRAP with n. -/
  | trap (n : BitVec 16)
  /-- BRK (R163). Raises cause BRK, to a firmware debugger first. -/
  | brk (n : BitVec 16)
  /-- JMP (R150). Continues issue at a direct target. -/
  | jmp (d : BitVec 32)
  /-- CALL (R150). Sets lk to the sequential position and continues at a direct target. -/
  | call (d : BitVec 32)
  /-- ADD (R170). Lands A + B modulo 2^64. -/
  | add (m : Mask) (sd : BitVec 6) (sa : BitVec 6) (b : SOp)
  /-- SUB (R170). Lands A − B modulo 2^64. -/
  | sub (m : Mask) (sd : BitVec 6) (sa : BitVec 6) (b : SOp)
  /-- MUL (R170). Lands the low 64 bits of A × B. -/
  | mul (m : Mask) (sd : BitVec 6) (sa : BitVec 6) (b : SOp)
  /-- MULH (R170). Lands the high 64 bits of the signed product. -/
  | mulh (m : Mask) (sd : BitVec 6) (sa : BitVec 6) (b : SOp)
  /-- MULHN (R170). Lands the high 64 bits of the unsigned product. -/
  | mulhn (m : Mask) (sd : BitVec 6) (sa : BitVec 6) (b : SOp)
  /-- DIV (R171). Lands the signed quotient rounded toward zero, never trapping. -/
  | div (m : Mask) (sd : BitVec 6) (sa : BitVec 6) (b : SOp)
  /-- DIVN (R171). Lands the unsigned quotient, never trapping. -/
  | divn (m : Mask) (sd : BitVec 6) (sa : BitVec 6) (b : SOp)
  /-- REM (R171). Lands the signed remainder, with the sign of A. -/
  | rem (m : Mask) (sd : BitVec 6) (sa : BitVec 6) (b : SOp)
  /-- REMN (R171). Lands the unsigned remainder. -/
  | remn (m : Mask) (sd : BitVec 6) (sa : BitVec 6) (b : SOp)
  /-- AND (R170). Lands A and B. -/
  | and (m : Mask) (sd : BitVec 6) (sa : BitVec 6) (b : SOp)
  /-- OR (R170). Lands A or B. -/
  | or (m : Mask) (sd : BitVec 6) (sa : BitVec 6) (b : SOp)
  /-- XOR (R170). Lands A xor B. -/
  | xor (m : Mask) (sd : BitVec 6) (sa : BitVec 6) (b : SOp)
  /-- ANDN (R170). Lands A and not B. -/
  | andn (m : Mask) (sd : BitVec 6) (sa : BitVec 6) (b : SOp)
  /-- SHL (R170). Lands A shifted left by B[5:0]. -/
  | shl (m : Mask) (sd : BitVec 6) (sa : BitVec 6) (b : SOp)
  /-- SHR (R170). Lands A shifted right logically by B[5:0]. -/
  | shr (m : Mask) (sd : BitVec 6) (sa : BitVec 6) (b : SOp)
  /-- SAR (R170). Lands A shifted right arithmetically by B[5:0]. -/
  | sar (m : Mask) (sd : BitVec 6) (sa : BitVec 6) (b : SOp)
  /-- MIN (R170). Lands the signed smaller of A and B. -/
  | min (m : Mask) (sd : BitVec 6) (sa : BitVec 6) (b : SOp)
  /-- MINN (R170). Lands the unsigned smaller of A and B. -/
  | minn (m : Mask) (sd : BitVec 6) (sa : BitVec 6) (b : SOp)
  /-- MAX (R170). Lands the signed larger of A and B. -/
  | max (m : Mask) (sd : BitVec 6) (sa : BitVec 6) (b : SOp)
  /-- MAXN (R170). Lands the unsigned larger of A and B. -/
  | maxn (m : Mask) (sd : BitVec 6) (sa : BitVec 6) (b : SOp)
  /-- CLZ (R170). Lands the count of leading zeros of A. -/
  | clz (m : Mask) (sd : BitVec 6) (sa : BitVec 6)
  /-- POPC (R170). Lands the count of set bits of A. -/
  | popc (m : Mask) (sd : BitVec 6) (sa : BitVec 6)
  /-- BFX (R172). Extracts a bit field and sign-extends it. -/
  | bfx (m : Mask) (sd : BitVec 6) (sa : BitVec 6) (b : SOp)
  /-- BFXN (R172). Extracts a bit field and zero-extends it. -/
  | bfxn (m : Mask) (sd : BitVec 6) (sa : BitVec 6) (b : SOp)
  /-- BFI (R172). Inserts a field of A into SD. -/
  | bfi (m : Mask) (sd : BitVec 6) (sa : BitVec 6) (b : SOp)
  /-- LI (R173). Lands operand B in SD; also serves as the scalar move. -/
  | li (m : Mask) (sd : BitVec 6) (b : SOp)
  /-- SEL (R173). Lands A when a condition test holds, and otherwise SD's old value. -/
  | sel (m : Mask) (sd : BitVec 6) (t : BitVec 6) (sa : BitVec 6)
  /-- CEQ (R174). Sets a condition bit to A = B. -/
  | ceq (m : Mask) (qd : BitVec 5) (sa : BitVec 6) (b : SOp)
  /-- CNE (R174). Sets a condition bit to A ≠ B. -/
  | cne (m : Mask) (qd : BitVec 5) (sa : BitVec 6) (b : SOp)
  /-- CLT (R174). Sets a condition bit to A < B, signed. -/
  | clt (m : Mask) (qd : BitVec 5) (sa : BitVec 6) (b : SOp)
  /-- CLTN (R174). Sets a condition bit to A < B, unsigned. -/
  | cltn (m : Mask) (qd : BitVec 5) (sa : BitVec 6) (b : SOp)
  /-- CLE (R174). Sets a condition bit to A ≤ B, signed. -/
  | cle (m : Mask) (qd : BitVec 5) (sa : BitVec 6) (b : SOp)
  /-- CLEN (R174). Sets a condition bit to A ≤ B, unsigned. -/
  | clen (m : Mask) (qd : BitVec 5) (sa : BitVec 6) (b : SOp)
  /-- QAND (R175). Sets a condition bit to the and of two tests. -/
  | qand (m : Mask) (qd : BitVec 5) (ta : BitVec 6) (tb : BitVec 6)
  /-- QOR (R175). Sets a condition bit to the or of two tests. -/
  | qor (m : Mask) (qd : BitVec 5) (ta : BitVec 6) (tb : BitVec 6)
  /-- QXOR (R175). Sets a condition bit to the xor of two tests. -/
  | qxor (m : Mask) (qd : BitVec 5) (ta : BitVec 6) (tb : BitVec 6)
  /-- QGET (R175). Lands all condition bits in a scalar register. -/
  | qget (m : Mask) (sd : BitVec 6)
  /-- QSET (R175). Writes q1 to q31 from a scalar register. -/
  | qset (m : Mask) (sa : BitVec 6)
  /-- SGET (R176). Samples a special register at issue and lands it at t + 2. -/
  | sget (m : Mask) (sd : BitVec 6) (i : BitVec 6)
  /-- SSET (R176). Writes a special register from t + 1, with the clamps and refusals of R54. -/
  | sset (m : Mask) (i : BitVec 6) (sa : BitVec 6)
  /-- FADD (R177). FP32 addition rounded by vrnd. -/
  | fadd (m : Mask) (sd : BitVec 6) (sa : BitVec 6) (b : SOp)
  /-- FSUB (R177). FP32 subtraction. -/
  | fsub (m : Mask) (sd : BitVec 6) (sa : BitVec 6) (b : SOp)
  /-- FMUL (R177). FP32 multiplication. -/
  | fmul (m : Mask) (sd : BitVec 6) (sa : BitVec 6) (b : SOp)
  /-- FFMA (R177). FP32 A × B + SD, rounded once. -/
  | ffma (m : Mask) (sd : BitVec 6) (sa : BitVec 6) (b : SOp)
  /-- FMIN (R177). The smaller FP32 value under R71. -/
  | fmin (m : Mask) (sd : BitVec 6) (sa : BitVec 6) (b : SOp)
  /-- FMAX (R177). The larger FP32 value under R71. -/
  | fmax (m : Mask) (sd : BitVec 6) (sa : BitVec 6) (b : SOp)
  /-- FCLT (R177). Sets a condition bit to A < B in FP32. -/
  | fclt (m : Mask) (qd : BitVec 5) (sa : BitVec 6) (b : SOp)
  /-- FCEQ (R177). Sets a condition bit to A = B in FP32. -/
  | fceq (m : Mask) (qd : BitVec 5) (sa : BitVec 6) (b : SOp)
  /-- FTOI (R177). Converts FP32 to a signed 64-bit integer, clamped. -/
  | ftoi (m : Mask) (sd : BitVec 6) (sa : BitVec 6)
  /-- ITOF (R177). Converts a signed 64-bit integer to FP32. -/
  | itof (m : Mask) (sd : BitVec 6) (sa : BitVec 6)
  /-- WJOIN (R179). Merges two witness registers under R178. -/
  | wjoin (m : Mask) (wd : BitVec 4) (wa : BitVec 4) (wb : BitVec 4)
  /-- WTOS (R179). Copies a witness into a scalar register. -/
  | wtos (m : Mask) (sd : BitVec 6) (wa : BitVec 4)
  /-- STOW (R179). Places 64 scalar bits into a witness register unchecked. -/
  | stow (m : Mask) (wd : BitVec 4) (sa : BitVec 6)
  /-- LD (R192). Scalar load from global memory, landing at t + 40. -/
  | ld (q : MQual) (sx : Bool) (sz : BitVec 2) (sd : BitVec 6) (a : MAddr)
  /-- ST (R192). Scalar store to global memory, with a witness at t + 1. -/
  | st (q : MQual) (sz : BitVec 2) (sv : BitVec 6) (a : MAddr)
  /-- LDP (R192). Scalar load from the scratchpad. -/
  | ldp (q : MQual) (sx : Bool) (sz : BitVec 2) (sd : BitVec 6) (a : MAddr)
  /-- STP (R192). Scalar store to the scratchpad. -/
  | stp (q : MQual) (sz : BitVec 2) (sv : BitVec 6) (a : MAddr)
  /-- VLD (R194). 256-byte predicated vector load from global memory. -/
  | vld (q : MQual) (vr : BitVec 10) (a : MAddr)
  /-- VST (R194). 256-byte predicated vector store to global memory. -/
  | vst (q : MQual) (vr : BitVec 10) (a : MAddr)
  /-- VLDP (R194). 256-byte predicated vector load from the scratchpad. -/
  | vldp (q : MQual) (vr : BitVec 10) (a : MAddr)
  /-- VSTP (R194). 256-byte predicated vector store to the scratchpad. -/
  | vstp (q : MQual) (vr : BitVec 10) (a : MAddr)
  /-- VGATHP (R195). Gathers elements from the scratchpad by index. -/
  | vgathp (q : MQual) (vr : BitVec 10) (a : MAddr)
  /-- VSCATP (R195). Scatters elements to the scratchpad by index. -/
  | vscatp (q : MQual) (vr : BitVec 10) (a : MAddr)
  /-- AADD (R196). Atomic add, landing the old value. -/
  | aadd (q : MQual) (sz : BitVec 2) (sv : BitVec 6) (a : MAddr)
  /-- AMIN (R196). Atomic signed minimum. -/
  | amin (q : MQual) (sz : BitVec 2) (sv : BitVec 6) (a : MAddr)
  /-- AMINN (R196). Atomic unsigned minimum. -/
  | aminn (q : MQual) (sz : BitVec 2) (sv : BitVec 6) (a : MAddr)
  /-- AMAX (R196). Atomic signed maximum. -/
  | amax (q : MQual) (sz : BitVec 2) (sv : BitVec 6) (a : MAddr)
  /-- AMAXN (R196). Atomic unsigned maximum. -/
  | amaxn (q : MQual) (sz : BitVec 2) (sv : BitVec 6) (a : MAddr)
  /-- ASWP (R196). Atomic swap. -/
  | aswp (q : MQual) (sz : BitVec 2) (sv : BitVec 6) (a : MAddr)
  /-- ACAS (R197). Atomic compare and swap. -/
  | acas (q : MQual) (sz : BitVec 2) (sv : BitVec 6) (a : MAddr)
  /-- AFADD (R198). Atomic FP32 add. -/
  | afadd (q : MQual) (sz : BitVec 2) (sv : BitVec 6) (a : MAddr)
  /-- WCHECK (R200). Tests a witness without waiting, and lands 1, 0 or a cause code. -/
  | wcheck (q : MQual) (sd : BitVec 6)
  /-- WALL (R201). Writes a witness covering every earlier numbered form of the context. -/
  | wall (q : MQual)
  /-- SWINIT (R205). Initialises a sync word in one action. -/
  | swinit (q : MQual) (sv : BitVec 6) (a : MAddr)
  /-- SWARR (R206). Arrives at a sync word with bytes and a merged witness. -/
  | swarr (q : MQual) (sv : BitVec 6) (a : MAddr)
  /-- SWWAIT (R207). Holds while a sync word's gen equals a value, then lands gen and a witness. -/
  | swwait (q : MQual) (sv : BitVec 6) (a : MAddr)
  /-- SWPOLL (R208). Lands a sync word's gen and count without waiting. -/
  | swpoll (q : MQual) (sd : BitVec 6) (a : MAddr)
  /-- LLOCK (R209). Pins a flat-view line at its L2 home and lands a status. -/
  | llock (q : MQual) (sd : BitVec 6) (a : MAddr)
  /-- LUNLOCK (R209). Releases the context's lock on a line. -/
  | lunlock (q : MQual) (a : MAddr)
  /-- RCFENCE (R210). Drops a tensor record, or all records of the domain, from every record cache once its witness is satisfied. -/
  | rcfence (q : MQual) (sv : BitVec 6)
  /-- XPLD (R211). Loads a crossbar pattern register with its validity mask. -/
  | xpld (q : MQual) (xp : BitVec 3) (a : MAddr)
  /-- LAUNCH (R212). Submits a task packet from device memory to a command queue. -/
  | launch (q : MQual) (sv : BitVec 6) (a : MAddr)
  /-- PREF (R213). Prefetches a line into L2, and into L1 for low scopes, never faulting. -/
  | pref (q : MQual) (a : MAddr)
  /-- BTW (R214). Writes 32 bytes of a vector register as a bundle-table entry. -/
  | btw (q : MQual) (vr : BitVec 10) (a : MAddr)
  /-- VADD (R220). Element-wise addition. -/
  | vadd (m : Mask) (ty : BitVec 3) (vd : BitVec 10) (va : BitVec 10) (vb : BitVec 10) (p : BitVec 4)
  /-- VSUB (R220). Element-wise subtraction. -/
  | vsub (m : Mask) (ty : BitVec 3) (vd : BitVec 10) (va : BitVec 10) (vb : BitVec 10) (p : BitVec 4)
  /-- VMUL (R220). Element-wise multiplication. -/
  | vmul (m : Mask) (ty : BitVec 3) (vd : BitVec 10) (va : BitVec 10) (vb : BitVec 10) (p : BitVec 4)
  /-- VFMA (R220). Element-wise fused multiply-add with the destination as addend. -/
  | vfma (m : Mask) (ty : BitVec 3) (vd : BitVec 10) (va : BitVec 10) (vb : BitVec 10) (p : BitVec 4)
  /-- VMIN (R220). Element-wise minimum. -/
  | vmin (m : Mask) (ty : BitVec 3) (vd : BitVec 10) (va : BitVec 10) (vb : BitVec 10) (p : BitVec 4)
  /-- VMAX (R220). Element-wise maximum. -/
  | vmax (m : Mask) (ty : BitVec 3) (vd : BitVec 10) (va : BitVec 10) (vb : BitVec 10) (p : BitVec 4)
  /-- VMINN (R220). Element-wise unsigned minimum. -/
  | vminn (m : Mask) (ty : BitVec 3) (vd : BitVec 10) (va : BitVec 10) (vb : BitVec 10) (p : BitVec 4)
  /-- VMAXN (R220). Element-wise unsigned maximum. -/
  | vmaxn (m : Mask) (ty : BitVec 3) (vd : BitVec 10) (va : BitVec 10) (vb : BitVec 10) (p : BitVec 4)
  /-- VAND (R220). Element-wise and. -/
  | vand (m : Mask) (ty : BitVec 3) (vd : BitVec 10) (va : BitVec 10) (vb : BitVec 10) (p : BitVec 4)
  /-- VOR (R220). Element-wise or. -/
  | vor (m : Mask) (ty : BitVec 3) (vd : BitVec 10) (va : BitVec 10) (vb : BitVec 10) (p : BitVec 4)
  /-- VXOR (R220). Element-wise xor. -/
  | vxor (m : Mask) (ty : BitVec 3) (vd : BitVec 10) (va : BitVec 10) (vb : BitVec 10) (p : BitVec 4)
  /-- VSHL (R220). Element-wise shift left. -/
  | vshl (m : Mask) (ty : BitVec 3) (vd : BitVec 10) (va : BitVec 10) (vb : BitVec 10) (p : BitVec 4)
  /-- VSHR (R220). Element-wise logical shift right. -/
  | vshr (m : Mask) (ty : BitVec 3) (vd : BitVec 10) (va : BitVec 10) (vb : BitVec 10) (p : BitVec 4)
  /-- VSAR (R220). Element-wise arithmetic shift right. -/
  | vsar (m : Mask) (ty : BitVec 3) (vd : BitVec 10) (va : BitVec 10) (vb : BitVec 10) (p : BitVec 4)
  /-- VSEL (R224). Selects each element from A or B by predicate. -/
  | vsel (m : Mask) (ty : BitVec 3) (vd : BitVec 10) (va : BitVec 10) (vb : BitVec 10) (p : BitVec 4)
  /-- VSPLAT (R224). Broadcasts one element of A, chosen by a scalar, to every element. -/
  | vsplat (m : Mask) (ty : BitVec 3) (vd : BitVec 10) (va : BitVec 10) (vb : BitVec 10) (p : BitVec 4)
  /-- VLNADD (R227). Adds pairs of log-number words through the Gaussian logarithms. -/
  | vlnadd (m : Mask) (ty : BitVec 3) (vd : BitVec 10) (va : BitVec 10) (vb : BitVec 10) (p : BitVec 4)
  /-- VABS (R221). Element-wise absolute value. -/
  | vabs (m : Mask) (ty : BitVec 3) (vd : BitVec 10) (va : BitVec 10) (p : BitVec 4)
  /-- VNEG (R221). Element-wise negation. -/
  | vneg (m : Mask) (ty : BitVec 3) (vd : BitVec 10) (va : BitVec 10) (p : BitVec 4)
  /-- VRSUM (R228). Sums the elements over a fixed tree into element 0. -/
  | vrsum (m : Mask) (ty : BitVec 3) (vd : BitVec 10) (va : BitVec 10) (p : BitVec 4)
  /-- VRMAX (R228). Takes the maximum of the elements over a fixed tree into element 0. -/
  | vrmax (m : Mask) (ty : BitVec 3) (vd : BitVec 10) (va : BitVec 10) (p : BitVec 4)
  /-- VLOG (R226). Converts floating elements into log-number words. -/
  | vlog (m : Mask) (ty : BitVec 3) (vd : BitVec 10) (va : BitVec 10) (p : BitVec 4)
  /-- VEXP (R226). Converts log-number words into floating elements. -/
  | vexp (m : Mask) (ty : BitVec 3) (vd : BitVec 10) (va : BitVec 10) (p : BitVec 4)
  /-- VMOV (R224). Copies A with merging. -/
  | vmov (m : Mask) (ty : BitVec 3) (vd : BitVec 10) (va : BitVec 10) (p : BitVec 4)
  /-- VCEQ (R222). Element-wise equality into a predicate. -/
  | vceq (m : Mask) (ty : BitVec 3) (pd : BitVec 4) (va : BitVec 10) (vb : BitVec 10) (p : BitVec 4)
  /-- VCLT (R222). Element-wise less-than into a predicate. -/
  | vclt (m : Mask) (ty : BitVec 3) (pd : BitVec 4) (va : BitVec 10) (vb : BitVec 10) (p : BitVec 4)
  /-- VCLE (R222). Element-wise less-or-equal into a predicate. -/
  | vcle (m : Mask) (ty : BitVec 3) (pd : BitVec 4) (va : BitVec 10) (vb : BitVec 10) (p : BitVec 4)
  /-- VCLTN (R222). Element-wise unsigned less-than into a predicate. -/
  | vcltn (m : Mask) (ty : BitVec 3) (pd : BitVec 4) (va : BitVec 10) (vb : BitVec 10) (p : BitVec 4)
  /-- VCVT (R225). Converts elements between vector types. -/
  | vcvt (m : Mask) (ty : BitVec 3) (vd : BitVec 10) (va : BitVec 10) (st : BitVec 3) (p : BitVec 4)
  /-- VCMPR (R229). Compresses the predicated elements to the bottom and lands their count. -/
  | vcmpr (m : Mask) (ty : BitVec 3) (vd : BitVec 10) (va : BitVec 10) (sc : BitVec 6) (p : BitVec 4)
  /-- VEXPD (R230). Expands the low elements into the predicated places and lands their count. -/
  | vexpd (m : Mask) (ty : BitVec 3) (vd : BitVec 10) (va : BitVec 10) (sc : BitVec 6) (p : BitVec 4)
  /-- VANY (R223). Sets a condition bit when any predicated element is non-zero. -/
  | vany (m : Mask) (ty : BitVec 3) (qd : BitVec 5) (va : BitVec 10) (p : BitVec 4)
  /-- XPERM (R233). Permutes elements by a validated pattern register. -/
  | xperm (m : Mask) (vd : BitVec 10) (va : BitVec 10) (k : BitVec 3) (sz : BitVec 2)
  /-- XBCAST (R232). Broadcasts the first element of each group. -/
  | xbcast (m : Mask) (vd : BitVec 10) (va : BitVec 10) (k : BitVec 3) (sz : BitVec 2)
  /-- XSLIDE (R232). Rotates the elements toward element 0 by 2^k. -/
  | xslide (m : Mask) (vd : BitVec 10) (va : BitVec 10) (k : BitVec 3) (sz : BitVec 2)
  /-- XTRN (R232). Transposes the elements read as rows. -/
  | xtrn (m : Mask) (vd : BitVec 10) (va : BitVec 10) (k : BitVec 3) (sz : BitVec 2)
  /-- XREV (R232). Reverses the elements. -/
  | xrev (m : Mask) (vd : BitVec 10) (va : BitVec 10) (sz : BitVec 2)
  /-- XZIP (R232). Interleaves the two halves. -/
  | xzip (m : Mask) (vd : BitVec 10) (va : BitVec 10) (sz : BitVec 2)
  /-- XUNZIP (R232). De-interleaves into two halves. -/
  | xunzip (m : Mask) (vd : BitVec 10) (va : BitVec 10) (sz : BitVec 2)
  /-- TDUP (R255). Pushes a second reference to the top tile. -/
  | tdup (m : Mask)
  /-- TDROP (R255). Pops n stack entries. -/
  | tdrop (m : Mask) (n : BitVec 8)
  /-- TSWAP (R255). Swaps the top two entries. -/
  | tswap (m : Mask)
  /-- TPICK (R255). Pushes a reference to the entry at depth d. -/
  | tpick (m : Mask) (d : BitVec 8)
  /-- TROT (R255). Rotates entry n − 1 to the top. -/
  | trot (m : Mask) (n : BitVec 8)
  /-- TZERO (R258). Pushes a zero tile of a given shape. -/
  | tzero (m : Mask) (sp : BitVec 6)
  /-- TINFO (R257). Lands the shape word of the tile at depth d. -/
  | tinfo (m : Mask) (sd : BitVec 6) (d : BitVec 8)
  /-- TSHAPE (R256). Re-describes the top tile with a new shape of equal size. -/
  | tshape (m : Mask) (sp : BitVec 6)
  /-- TSCALE (R256). Adds k to the top tile's scale exponent. -/
  | tscale (m : Mask) (k : BitVec 8)
  /-- TLDS (R261). Reads a tile from the scratchpad and pushes it. -/
  | tlds (m : Mask) (sp : BitVec 6) (w : BitVec 4)
  /-- TSTS (R262). Pops a tile and writes it to the scratchpad. -/
  | tsts (m : Mask) (sp : BitVec 6) (w : BitVec 4)
  /-- TFROMV (R259). Pushes a tile whose image is taken from vector registers. -/
  | tfromv (m : Mask) (v : BitVec 10) (sp : BitVec 6)
  /-- TTOV (R260). Copies part of the top tile's image into vector registers. -/
  | ttov (m : Mask) (v : BitVec 10) (sp : BitVec 6) (n : BitVec 8)
  /-- MWL (R263). Pops a weight tile into a trestle plane. -/
  | mwl (m : Mask) (pl : Bool)
  /-- MFW (R264). Forward trestle product X·W. -/
  | mfw (m : Mask) (e : BitVec 8) (pl : Bool)
  /-- MFWA (R264). Forward trestle product accumulated onto C_in. -/
  | mfwa (m : Mask) (e : BitVec 8) (pl : Bool)
  /-- MBK (R264). Backward trestle product G·Wᵀ. -/
  | mbk (m : Mask) (e : BitVec 8) (pl : Bool)
  /-- MBKA (R264). Backward trestle product accumulated onto D_in. -/
  | mbka (m : Mask) (e : BitVec 8) (pl : Bool)
  /-- MWREL (R263). Releases a plane's binding. -/
  | mwrel (m : Mask) (pl : Bool)
  /-- TADD (R266). Element-wise tile addition. -/
  | tadd (m : Mask)
  /-- TSUB (R266). Element-wise tile subtraction. -/
  | tsub (m : Mask)
  /-- TMUL (R266). Element-wise tile multiplication. -/
  | tmul (m : Mask)
  /-- TMAX (R266). Element-wise tile maximum. -/
  | tmax (m : Mask)
  /-- TMIN (R266). Element-wise tile minimum. -/
  | tmin (m : Mask)
  /-- TFMA (R267). Tile A × B + C, rounded once. -/
  | tfma (m : Mask)
  /-- TCVT (R268). Converts a tile to another format and scale. -/
  | tcvt (m : Mask) (k : BitVec 8) (f : BitVec 6)
  /-- TACT (R269). Applies a log-domain function to a floating tile. -/
  | tact (m : Mask) (f : BitVec 8)
  /-- TRSUM (R270). Pushes the row sums of a tile. -/
  | trsum (m : Mask)
  /-- TCSUM (R270). Pushes the column sums of a tile. -/
  | tcsum (m : Mask)
  /-- TXP (R271). Transposes a tile. -/
  | txp (m : Mask)
  /-- TGET (R283). Reads a box through a tensor record and pushes it as a tile. -/
  | tget (m : Mask) (sp : BitVec 6) (w : BitVec 4)
  /-- TSEND (R284). Pops a tile and writes it to a box through a tensor record. -/
  | tsend (m : Mask) (sp : BitVec 6) (w : BitVec 4)
  /-- TSENDQ (R285). TSEND followed by a notice appended to a queue. -/
  | tsendq (m : Mask) (sp : BitVec 6) (w : BitVec 4)
  /-- ACOPY (R286). Copies a box from memory into the scratchpad, with an optional arrival. -/
  | acopy (m : Mask) (sp : BitVec 6) (w : BitVec 4)
  /-- ACOPYW (R286). Copies a scratchpad image into a box in memory, with an optional arrival. -/
  | acopyw (m : Mask) (sp : BitVec 6) (w : BitVec 4)
  /-- STASH (R290). Pops a tile and encodes it into stash blocks. -/
  | stash (m : Mask) (sp : BitVec 6) (w : BitVec 4)
  /-- RESTORE (R291). Decodes stash blocks and pushes the tile. -/
  | restore (m : Mask) (sp : BitVec 6) (w : BitVec 4)
  /-- RECOMP (R294). Marks a tensor as recomputed in the provenance latch. -/
  | recomp (m : Mask) (sp : BitVec 6)
  /-- GRAD (R295). Pops an f32 tile and sends contributions to the update units. -/
  | grad (m : Mask) (sp : BitVec 6) (w : BitVec 4)
  /-- COLL (R298). Hands a reduction to a collective engine. -/
  | coll (m : Mask) (op : BitVec 4) (sp : BitVec 6) (w : BitVec 4)
  /-- HOST_MEMORY_ACCESS (R396). The host reads or writes device memory over CXL.mem as host-managed device memory with back-invalidate. -/
  | hostMemoryAccess (addr : Nat) (wr : Option (List Byte))
  /-- PEER_MEMORY_ACCESS (R308). A Tamvan peer reads or writes this device's memory through the keystone. -/
  | peerMemoryAccess (port : Nat) (addr : Nat) (wr : Option (List Byte))
  /-- TAMVAN_LINK_DOWN (R398). A Tamvan port's link goes down, so later accesses through it are unresolvable translation faults delivered as PAGE. -/
  | tamvanLinkDown (port : Nat)
  /-- TAMVAN_LINK_UP (R398). A Tamvan port's link comes back, and accesses through its peer windows proceed again. -/
  | tamvanLinkUp (port : Nat)
  /-- LINK_LAYER_RETRY (R390). A Tamvan link retransmits a flit under link-layer retry, and the port's retry counter advances. -/
  | linkLayerRetry (port : Nat)
  /-- EPOCH_TICK (R312). The witness directory's epoch count advances by one every 1,024 reference cycles. -/
  | epochTick
  /-- LINE_AGING_SWEEP (R315). A sweep marks as aged every line whose stamp lies 2^20 epoch ticks or more behind the current epoch. -/
  | lineAgingSweep
  /-- WHEEL_ADVANCE (R199). The slot wheel advances one of its 768 positions every reference cycle. -/
  | wheelAdvance
  /-- ENERGY_INTERVAL (R367). At each boundary of 1,050,000 reference cycles a core's static energy is shared among the contexts resident in the interval. -/
  | energyInterval
  /-- ERROR_LOG_COALESCE (R382). Corrected errors are written as one error record per unit and kind for each 1,050,000 reference cycles. -/
  | errorLogCoalesce
  /-- COUNTER_SAMPLE (R390). Every 1,050,000,000 reference cycles the firmware samples the predictive counters and predicts each die's life. -/
  | counterSample
  /-- FUNDAMENTAL_RESET (R400). PERST# resets only the host port: the link retrains and unaccepted host transactions are dropped. -/
  | fundamentalReset
  /-- HOST_LINK_RETURN (R400). When the host link returns, interrupted device accesses to host memory are retried. -/
  | hostLinkReturn
  /-- HOST_LINK_TIMEOUT (R400). When the host link does not return within 1 s, each interrupted access is delivered as an unresolvable translation fault. -/
  | hostLinkTimeout
  /-- PACKAGE_RESET (R400). Removal of the supplies ends every context and task and clears the counters. -/
  | packageReset
  /-- BOOT (R401). After reset the security engine verifies the firmware and runs it, or enters recovery. -/
  | boot
  /-- CONFIGURE_QUEUE (R406). Mailbox command 1 sets a command queue's state and returns the state that results. -/
  | configureQueue
  /-- CHANGE_PAGE_ENTRY (R358). Mailbox command 2 replaces a page-table entry of a domain, with invalidation where a mapping narrows. -/
  | changePageEntry
  /-- PLACEMENT_POLICY (R406). Mailbox command 3 sets a domain's allowed dies and its exclusive cores or spans. -/
  | placementPolicy
  /-- REGISTER_CODE_KEY (R370). Mailbox command 4 registers a domain's code-signing public key. -/
  | registerCodeKey
  /-- CANCEL_TASK (R405). Mailbox command 5 cancels the oldest task of a queue and tag that has not ended. -/
  | cancelTask
  /-- RETURN_WITHDRAWN (R389). Mailbox command 6 returns a withdrawn span or die to placement. -/
  | returnWithdrawn
  /-- SET_DERATE (R391). Mailbox command 7 sets a die's derate threshold or lifts its derate. -/
  | setDerate
  /-- READ_COUNTERS (R406). Mailbox command 8 returns the counters, the life prediction and the limiting counter. -/
  | readCounters
  /-- READ_ENERGY_ACCOUNT (R369). Mailbox command 9 returns a domain's energy account and its count of saturated contexts. -/
  | readEnergyAccount
  /-- ATTESTATION_REPORT (R402). Mailbox command 10 returns a report over the host's nonce, signed with the device key. -/
  | attestationReport
  /-- READ_QUEUE_HEAD (R406). Mailbox command 11 returns a queue's head and tail. -/
  | readQueueHead
  /-- RESET_COMMAND (R400). Mailbox command 12 with the reset word resets the package. -/
  | resetCommand
  /-- WRITE_FIRMWARE (R406). Mailbox command 13 writes a firmware image to flash when it passes verification. -/
  | writeFirmware
  /-- LBREAK (R155). Pops the innermost loop and continues after its end bundle. -/
  | lbreak
  /-- TWAIT (R158). Holds until every older tile operation of the context has completed. -/
  | twait
  /-- YIELD (R162). Lets the core pass over the context in issue selection for a while. -/
  | yield
  /-- TRET (R165). Ends a handler: replays the tile list and kept accesses, restores the capture, and resumes. -/
  | tret
  /-- EXIT (R166). Ends the context once its results have arrived and its non-copy tile operations have completed. -/
  | exit
  /-- STATF (R167). Holds until every earlier statistics record has been written. -/
  | statf
  /-- RET (R150). Continues issue at the code position held in lk. -/
  | ret
  deriving DecidableEq, Repr

end Sys2Proof
end

