-- ==== Sys2Proof/Fields.lean ====
section
/-! DEFINITION. The fields of the six slots and of the header as they stand in a bundle (05 Tables 5-1 to 5-9), and
what decoding a bundle can answer. -/

namespace Sys2Proof

/-- The fields of the C slot, from the highest bit down (40 bits). -/
structure CF where
  cls : BitVec 4
  sub : BitVec 4
  opnd : BitVec 32
  deriving DecidableEq, Repr

/-- The fields of the S slot, from the highest bit down (31 bits). -/
structure SF where
  mask : BitVec 5
  op : BitVec 6
  sd : BitVec 6
  sa : BitVec 6
  sb : BitVec 6
  mode : BitVec 2
  deriving DecidableEq, Repr

/-- The fields of the M slot, from the highest bit down (45 bits). -/
structure MF where
  mask : BitVec 5
  op : BitVec 6
  vr : BitVec 10
  base : BitVec 6
  ord : BitVec 2
  scope : BitVec 3
  evict : BitVec 3
  wit : BitVec 4
  pred : BitVec 4
  mode : BitVec 2
  deriving DecidableEq, Repr

/-- The fields of the V slot, from the highest bit down (47 bits). -/
structure VF where
  mask : BitVec 5
  fam : BitVec 5
  ty : BitVec 3
  vd : BitVec 10
  va : BitVec 10
  vb : BitVec 10
  pred : BitVec 4
  deriving DecidableEq, Repr

/-- The fields of the X slot, from the highest bit down (36 bits). -/
structure XF where
  mask : BitVec 5
  op : BitVec 4
  vd : BitVec 10
  va : BitVec 10
  pat : BitVec 3
  size : BitVec 4
  deriving DecidableEq, Repr

/-- The fields of the T slot, from the highest bit down (45 bits). -/
structure TF where
  mask : BitVec 5
  op : BitVec 8
  a : BitVec 8
  sp : BitVec 6
  e : BitVec 8
  w : BitVec 4
  f : BitVec 6
  deriving DecidableEq, Repr

/-- The seven places of a bundle that a slot mask names (R131). -/
inductive Slot where
  | c | s | m | v | x | t
  deriving DecidableEq, Repr

/-- The forms of a bundle's non-empty slots. -/
structure Slots where
  c : Option Instr := none
  s : Option Instr := none
  m : Option Instr := none
  v : Option Instr := none
  x : Option Instr := none
  t : Option Instr := none
  deriving DecidableEq, Repr

/-- What decoding a bundle word with its literal units answers (R113, R130, R131): a reserved major, an illegal bundle
with the slot mask of the offenders and the forms of its other slots, or the forms of its slots with the entry bit. -/
inductive Decoded where
  | reserved (major : BitVec 4)
  | illegal (slots : BitVec 8) (rest : Slots)
  | ok (entry : Bool) (slots : Slots)
  deriving DecidableEq, Repr

/-- What a code unit is, where a reference, a prefix or a segment end is expected (Table 5-11). -/
inductive CodeUnit where
  | ref (idx : BitVec 9) (lits : BitVec 3)
  | repeat (count : BitVec 8)
  | segEnd
  | bad
  deriving DecidableEq, Repr

end Sys2Proof
end

