-- ==== Sys2Proof/WellFormed.lean ====
section
/-! DEFINITION. Which field values of a form the K4 accepts: every other value makes the bundle illegal
(05 R114 to R120, R130; 02 R51; 07 R181; 09 R253; 10 R278). -/

namespace Sys2Proof

namespace Wf

/-- A non-empty slot has a non-zero leaf mask (R121). -/
def mask (m : Mask) : Bool := m != 0
/-- s58 to s63 may not be named as a destination (R51). -/
def dst (r : BitVec 6) : Bool := r.toNat ≤ 57
/-- q0 may not be written (R51). -/
def qd (q : BitVec 5) : Bool := q != 0
/-- A destination vector register (R51). -/
def vreg (v : BitVec 10) : Bool := v.toNat < 768
/-- A vector source: a register or a broadcast scalar (R216). -/
def vsrc (v : BitVec 10) : Bool := v.toNat < 832
/-- A parameter block of k registers from sp ends at s63 or before (R253). -/
def block (sp : BitVec 6) (k : Nat) : Bool := sp.toNat + k ≤ 64
/-- A floating scalar form has no immediate mode (R177). -/
def fop : SOp → Bool
  | .imm _ => false
  | _ => true
/-- A post-increment may not name a loop index as its base (R182). -/
def addr (a : MAddr) : Bool :=
  match a.mode with
  | .post16 _ => a.base.toNat ≤ 57
  | _ => true
/-- The memory qualifiers of a form, as ranges (Table 7-2). -/
def qual (q : MQual) (ord scope evict pred : Bool) : Bool :=
  mask q.mask && ord && scope && evict && pred
/-- Qualifiers of a form with plain ordering, context scope and no eviction field. -/
def plain (q : MQual) : Bool :=
  qual q (q.ord == 0) (q.scope == 0) (q.evict == 0) (q.pred == 0)
/-- Sync-word forms may select the scratchpad with predicate 1 (R181). -/
def sync (q : MQual) : Bool :=
  qual q (q.ord == 0) (q.scope == 0) (q.evict == 0) (q.pred.toNat ≤ 1)
/-- Atomics, global or scratchpad (Table 7-2), with a size of 4 or 8 (Table 7-1). -/
def atomic (q : MQual) (sz : BitVec 2) : Bool :=
  2 ≤ sz.toNat && mask q.mask &&
  ((q.pred == 0 && ((q.ord == 0 && q.scope.toNat ≤ 5) || (q.ord == 2 && q.scope == 4))) ||
   (q.pred == 1 && q.ord == 0 && q.scope.toNat ≤ 2 && q.evict == 0))
/-- Vector types of a family: all, integer or floating (Table 5-19). -/
def tyInt (t : BitVec 3) : Bool := t.toNat ≤ 3
def tyFloat (t : BitVec 3) : Bool := 4 ≤ t.toNat
/-- An S form with a scalar destination. -/
def sForm (m : Mask) (sd : BitVec 6) : Bool := mask m && dst sd
/-- A V form with two vector sources. -/
def v2 (m : Mask) (vd va vb : BitVec 10) : Bool := mask m && vreg vd && vsrc va && vsrc vb
/-- A V form with one vector source. -/
def v1 (m : Mask) (vd va : BitVec 10) : Bool := mask m && vreg vd && vsrc va
/-- A V compare. -/
def vcmp (m : Mask) (pd : BitVec 4) (va vb : BitVec 10) : Bool := mask m && pd != 0 && vsrc va && vsrc vb
/-- The epilogue field of the trestle forms (Table 9-6). -/
def epi (e : BitVec 8) : Bool := e.toNat / 16 ≤ 2 && e.toNat % 16 ≤ 3
/-- The special registers that SSET may name: not read-only, not above 17; ecount and esat decode and trap (R52). -/
def ssetIdx (i : BitVec 6) : Bool :=
  i.toNat ≤ 17 && !(i == 0 || i == 3 || i == 4 || i == 7 || i == 8 || i == 17)

end Wf

open Wf in
/-- The K4 accepts the field values of this form. A system step is always well formed. Of an `ACAS` the register is its sv:
57 is accepted, and the replacement is then s58 (DESIGN CHOICE, R181, log 30). -/
def Instr.wf : Instr → Bool
  -- C slot (Table 6-1)
  | .br sh _ _ _ _ _ _ _ _ => sh.toNat ≤ 13
  -- S slot (Tables 6-4 to 6-7)
  | .add m sd _ _ | .sub m sd _ _ | .mul m sd _ _ | .mulh m sd _ _ | .mulhn m sd _ _
  | .div m sd _ _ | .divn m sd _ _ | .rem m sd _ _ | .remn m sd _ _
  | .and m sd _ _ | .or m sd _ _ | .xor m sd _ _ | .andn m sd _ _
  | .shl m sd _ _ | .shr m sd _ _ | .sar m sd _ _
  | .min m sd _ _ | .minn m sd _ _ | .max m sd _ _ | .maxn m sd _ _
  | .bfx m sd _ _ | .bfxn m sd _ _ | .bfi m sd _ _ => sForm m sd
  | .clz m sd _ | .popc m sd _ | .li m sd _ | .sel m sd _ _ => sForm m sd
  | .ceq m qd _ _ | .cne m qd _ _ | .clt m qd _ _ | .cltn m qd _ _ | .cle m qd _ _ | .clen m qd _ _
  | .qand m qd _ _ | .qor m qd _ _ | .qxor m qd _ _ => mask m && Wf.qd qd
  | .qget m sd => sForm m sd
  | .qset m _ => mask m
  | .sget m sd _ => sForm m sd
  | .sset m i _ => mask m && ssetIdx i
  | .fadd m sd _ b | .fsub m sd _ b | .fmul m sd _ b | .ffma m sd _ b | .fmin m sd _ b | .fmax m sd _ b =>
    sForm m sd && fop b
  | .fclt m qd _ b | .fceq m qd _ b => mask m && Wf.qd qd && fop b
  | .ftoi m sd _ | .itof m sd _ => sForm m sd
  | .wjoin m _ _ _ => mask m
  | .wtos m sd _ => sForm m sd
  | .stow m _ _ => mask m
  -- M slot (Tables 7-1 and 7-2)
  | .ld q _ _ sd a =>
    qual q (q.ord.toNat ≤ 2) (if q.ord == 2 then q.scope == 4 else q.scope == 0) true (q.pred == 0) && dst sd && addr a
  | .st q _ _ a =>
    qual q (q.ord == 0 || q.ord == 2) (if q.ord == 2 then q.scope == 4 else q.scope.toNat ≤ 5) true (q.pred == 0) && addr a
  | .ldp q _ _ sd a => plain q && dst sd && addr a
  | .stp q _ _ a => qual q (q.ord == 0) (q.scope.toNat ≤ 2) (q.evict == 0) (q.pred == 0) && addr a
  | .vld q vr a => qual q (q.ord.toNat ≤ 1) (q.scope == 0) true true && vreg vr && addr a
  | .vst q vr a => qual q (q.ord == 0) (q.scope.toNat ≤ 5) true true && vreg vr && addr a
  | .vldp q vr a => qual q (q.ord == 0) (q.scope == 0) (q.evict == 0) true && vreg vr && addr a
  | .vstp q vr a => qual q (q.ord == 0) (q.scope.toNat ≤ 2) (q.evict == 0) true && vreg vr && addr a
  | .vgathp q vr a => qual q (q.ord == 0) (q.scope == 0) (q.evict.toNat ≤ 3) true && vr.toNat < 767 && addr a
  | .vscatp q vr a => qual q (q.ord == 0) (q.scope.toNat ≤ 2) (q.evict.toNat ≤ 3) true && vr.toNat < 767 && addr a
  | .aadd q sz sv a | .amin q sz sv a | .aminn q sz sv a | .amax q sz sv a | .amaxn q sz sv a | .aswp q sz sv a
  | .acas q sz sv a => atomic q sz && dst sv && addr a
  | .afadd q sz sv a => atomic q sz && sz == 2 && dst sv && addr a
  | .wcheck q sd => plain q && dst sd
  | .wall q => qual q (q.ord == 0) (q.scope.toNat ≤ 5) (q.evict == 0) (q.pred == 0)
  | .swinit q _ a =>
    qual q (q.ord == 0) (if q.pred == 1 then q.scope.toNat ≤ 2 else q.scope.toNat ≤ 5) (q.evict == 0) (q.pred.toNat ≤ 1) && addr a
  | .swarr q _ a => sync q && addr a
  | .swwait q sv a => sync q && dst sv && addr a
  | .swpoll q sd a => sync q && q.wit == 0 && dst sd && addr a
  | .llock q sd a => plain q && q.wit == 0 && dst sd && addr a
  | .lunlock q a => plain q && q.wit == 0 && addr a
  | .rcfence q _ => plain q
  | .xpld q _ a => qual q (q.ord == 0) (q.scope == 0) true (q.pred == 0) && addr a
  | .launch q _ a => plain q && addr a
  | .pref q a =>
    qual q (q.ord == 0) (q.scope == 0 || q.scope == 1 || q.scope == 4) true (q.pred == 0) && q.wit == 0 && addr a
  | .btw q vr a => plain q && q.wit == 0 && vreg vr && addr a
  -- V slot (Table 5-19)
  | .vadd m _ vd va vb _ | .vsub m _ vd va vb _ | .vmul m _ vd va vb _ | .vmin m _ vd va vb _ | .vmax m _ vd va vb _
  | .vsel m _ vd va vb _ => v2 m vd va vb
  | .vfma m ty vd va vb _ => v2 m vd va vb && tyFloat ty
  | .vminn m ty vd va vb _ | .vmaxn m ty vd va vb _ | .vand m ty vd va vb _ | .vor m ty vd va vb _
  | .vxor m ty vd va vb _ | .vshl m ty vd va vb _ | .vshr m ty vd va vb _ | .vsar m ty vd va vb _ =>
    v2 m vd va vb && tyInt ty
  | .vlnadd m ty vd va vb _ => v2 m vd va vb && ty == 2
  | .vsplat m _ vd va vb _ => v2 m vd va vb && 768 ≤ vb.toNat
  | .vabs m _ vd va _ | .vneg m _ vd va _ | .vrsum m _ vd va _ | .vrmax m _ vd va _ | .vmov m _ vd va _ => v1 m vd va
  | .vlog m ty vd va _ | .vexp m ty vd va _ => v1 m vd va && tyFloat ty
  | .vceq m _ pd va vb _ | .vclt m _ pd va vb _ | .vcle m _ pd va vb _ => vcmp m pd va vb
  | .vcltn m ty pd va vb _ => vcmp m pd va vb && tyInt ty
  | .vcvt m _ vd va _ _ => v1 m vd va
  | .vcmpr m ty vd va sc _ | .vexpd m ty vd va sc _ => v1 m vd va && tyInt ty && dst sc
  | .vany m ty qd va _ => mask m && tyInt ty && Wf.qd qd && vsrc va
  -- X slot (R231)
  | .xperm m vd va _ _ | .xbcast m vd va _ _ | .xslide m vd va _ _ | .xtrn m vd va _ _ => v1 m vd va
  | .xrev m vd va _ | .xzip m vd va _ | .xunzip m vd va _ => v1 m vd va
  -- T slot (Tables 9-4 and 10-3)
  | .tdup m | .tswap m | .tadd m | .tsub m | .tmul m | .tmax m | .tmin m | .tfma m | .trsum m | .tcsum m | .txp m => mask m
  | .tdrop m n => mask m && n != 0
  | .tpick m _ => mask m
  | .trot m n => mask m && n != 0 && n.toNat ≤ 16
  | .tzero m _ | .tshape m _ => mask m
  | .tinfo m sd _ => mask m && dst sd
  | .tscale m _ => mask m
  | .tlds m sp _ => mask m && block sp 3
  | .tsts m sp _ => mask m && block sp 2
  | .tfromv m v _ => mask m && vreg v
  | .ttov m v _ n => mask m && n.toNat ≤ 63 && v.toNat + n.toNat < 768
  | .mwl m _ | .mwrel m _ => mask m
  | .mfw m e _ | .mfwa m e _ | .mbk m e _ | .mbka m e _ => mask m && epi e
  | .tcvt m _ _ => mask m
  | .tact m f => mask m && f.toNat ≤ 5
  | .tget m sp _ | .tsend m sp _ | .grad m sp _ => mask m && block sp 4
  | .tsendq m sp _ | .acopy m sp _ | .acopyw m sp _ => mask m && block sp 6
  | .stash m sp _ => mask m && block sp 2
  | .restore m sp _ => mask m && block sp 3
  | .recomp m _ => mask m
  | .coll m op sp _ => mask m && op.toNat ≤ 3 && block sp 4
  -- the C forms without restricted values, and the system steps
  | .bundleIssue _ | .repeatPrefix _ | .resultLanding _ | .loadValueArrival _ | .issueSelection _
  | .starvationGrant _ | .yieldPassEnd _ | .heldBundleRelease _ | .segmentPrefetch _ | .pageWalk _ _
  | .transparentFaultResolve _ _ | .deliveredFault _ | .witnessFailureDelivery _ | .storeVisible _ _
  | .epochTick | .epochClose _ _ | .lineAgingSweep | .wheelAdvance | .scStamp _ | .scPerform _ | .syncArrive _
  | .barrierRelease _ _ _ _ _ | .tileEngineClaim _ _ | .tileOpComplete _ _ | .epilogueServe _ | .tileSink _ _
  | .tileRise _ _ | .bankVacate _ _ | .unwind _ | .gradContribution _ | .updateLineComplete _ | .collectiveRun _
  | .recordFill _ _ _ | .recordDropComplete _ | .noticeAppend _ | .tailWrite _ _ | .queueVisit _
  | .launchQueueAppend _ | .instancePlacement _ _ _ _ _ | .priorityAgeing _ _ | .forcedPreemption _ _
  | .preempt _ _ | .resume _ _ _ _ _ | .scratchShareRelease _ _ _ | .taskComplete _ | .copyTask _
  | .signalTask _ | .waitTask _ | .recordFenceTask _ | .journalMark _ | .selfTestRun _ | .codeLoad _
  | .codeUnload _ | .codegenPass _ | .deadlockQueueGrowth _ _ | .energyInterval | .correctedError _ _ _ _
  | .uncorrectableError _ _ _ _ | .errorLogCoalesce | .counterSample | .laneRetrain _ | .fundamentalReset
  | .hostLinkReturn | .hostLinkTimeout | .packageReset | .boot | .configureQueue | .changePageEntry
  | .placementPolicy | .registerCodeKey | .cancelTask | .returnWithdrawn | .setDerate | .readCounters
  | .readEnergyAccount | .attestationReport | .readQueueHead | .resetCommand | .writeFirmware
  | .unknownMailboxCommand _ | .registerWrite _ _ | .loop _ _ _ | .loops _ _ _ | .lbreak | .fmtw _ _ | .fmts _
  | .twait | .sbar _ _ _ | .yield | .wwait _ | .trap _ | .brk _ | .tret | .exit | .statf | .jmp _ | .call _
  | .ret | .hostMemoryAccess _ _ | .peerMemoryAccess _ _ _ | .tamvanLinkDown _ | .tamvanLinkUp _
  | .linkLayerRetry _ => true

end Sys2Proof
end

