-- ==== Sys2Proof/Decode.lean ====
section
/-! DEFINITION. The decoder, total on any bundle word and any code unit, rejecting by slot (05 R112 to R130, R139 to
R144), and after it the encoder written from the same tables. -/

namespace Sys2Proof

/-- The C slot's fields taken from its 40 bits. -/
def CF.unpack (w : BitVec 40) : CF where
  cls := w.extractLsb' 36 4
  sub := w.extractLsb' 32 4
  opnd := w.extractLsb' 0 32

/-- The C slot's 40 bits made from its fields. -/
def CF.pack (f : CF) : BitVec 40 :=
  f.cls ++ f.sub ++ f.opnd

/-- The S slot's fields taken from its 31 bits. -/
def SF.unpack (w : BitVec 31) : SF where
  mask := w.extractLsb' 26 5
  op := w.extractLsb' 20 6
  sd := w.extractLsb' 14 6
  sa := w.extractLsb' 8 6
  sb := w.extractLsb' 2 6
  mode := w.extractLsb' 0 2

/-- The S slot's 31 bits made from its fields. -/
def SF.pack (f : SF) : BitVec 31 :=
  f.mask ++ f.op ++ f.sd ++ f.sa ++ f.sb ++ f.mode

/-- The M slot's fields taken from its 45 bits. -/
def MF.unpack (w : BitVec 45) : MF where
  mask := w.extractLsb' 40 5
  op := w.extractLsb' 34 6
  vr := w.extractLsb' 24 10
  base := w.extractLsb' 18 6
  ord := w.extractLsb' 16 2
  scope := w.extractLsb' 13 3
  evict := w.extractLsb' 10 3
  wit := w.extractLsb' 6 4
  pred := w.extractLsb' 2 4
  mode := w.extractLsb' 0 2

/-- The M slot's 45 bits made from its fields. -/
def MF.pack (f : MF) : BitVec 45 :=
  f.mask ++ f.op ++ f.vr ++ f.base ++ f.ord ++ f.scope ++ f.evict ++ f.wit ++ f.pred ++ f.mode

/-- The V slot's fields taken from its 47 bits. -/
def VF.unpack (w : BitVec 47) : VF where
  mask := w.extractLsb' 42 5
  fam := w.extractLsb' 37 5
  ty := w.extractLsb' 34 3
  vd := w.extractLsb' 24 10
  va := w.extractLsb' 14 10
  vb := w.extractLsb' 4 10
  pred := w.extractLsb' 0 4

/-- The V slot's 47 bits made from its fields. -/
def VF.pack (f : VF) : BitVec 47 :=
  f.mask ++ f.fam ++ f.ty ++ f.vd ++ f.va ++ f.vb ++ f.pred

/-- The X slot's fields taken from its 36 bits. -/
def XF.unpack (w : BitVec 36) : XF where
  mask := w.extractLsb' 31 5
  op := w.extractLsb' 27 4
  vd := w.extractLsb' 17 10
  va := w.extractLsb' 7 10
  pat := w.extractLsb' 4 3
  size := w.extractLsb' 0 4

/-- The X slot's 36 bits made from its fields. -/
def XF.pack (f : XF) : BitVec 36 :=
  f.mask ++ f.op ++ f.vd ++ f.va ++ f.pat ++ f.size

/-- The T slot's fields taken from its 45 bits. -/
def TF.unpack (w : BitVec 45) : TF where
  mask := w.extractLsb' 40 5
  op := w.extractLsb' 32 8
  a := w.extractLsb' 24 8
  sp := w.extractLsb' 18 6
  e := w.extractLsb' 10 8
  w := w.extractLsb' 6 4
  f := w.extractLsb' 0 6

/-- The T slot's 45 bits made from its fields. -/
def TF.pack (f : TF) : BitVec 45 :=
  f.mask ++ f.op ++ f.a ++ f.sp ++ f.e ++ f.w ++ f.f

/-- The 32-bit word of two literal units, low unit first (R123, R168). -/
def litPair (lo hi : Unit16) : BitVec 32 := hi ++ lo

/-- Operand B of the S slot from its field, mode and literals (R168). In the literal modes the SB field is not used,
and no rule makes a non-zero value of it illegal. -/
def decodeSOp (sb : BitVec 6) (mode : BitVec 2) (lits : List Unit16) : Option SOp :=
  match mode.toNat, lits with
  | 0, [] => some (.reg sb)
  | 1, [] => some (.imm sb)
  | 2, [l] => some (.lit16 l)
  | 3, [l, h] => some (.lit32 (litPair l h))
  | _, _ => none

/-- The address of an M form from its base, mode and literals (R182). -/
def decodeAddr (base : BitVec 6) (mode : BitVec 2) (lits : List Unit16) : Option MAddr :=
  match mode.toNat, lits with
  | 0, [] => some ⟨base, .base⟩
  | 1, [l] => some ⟨base, .off16 l⟩
  | 2, [l] => some ⟨base, .post16 l⟩
  | 3, [l, h] => some ⟨base, .off32 (litPair l h)⟩
  | _, _ => none

/-- Keep a form only when its field values are ones the K4 accepts. -/
def guardWf (i : Instr) : Option Instr := if i.wf then some i else none

/-- A leaf of a branch tree from its mode, taking its literals from the front of the list (R123, R125). -/
def decodeLeaf (mode : BitVec 2) (lits : List Unit16) : Option (Leaf × List Unit16) :=
  match mode.toNat, lits with
  | 0, ls => some (.fall, ls)
  | 1, l :: h :: ls => some (.direct (litPair l h), ls)
  | 2, l :: ls => if l.toNat < 64 then some (.indirect (l.extractLsb' 0 6), ls) else none
  | 3, l :: h :: ls => some (.call (litPair l h), ls)
  | _, _ => none

/-- A branch tree (R115). -/
def decodeBr (f : CF) (lits : List Unit16) : Option Instr := do
  let o := f.opnd
  let (l1, ls) ← decodeLeaf (o.extractLsb' 6 2) lits
  let (l2, ls) ← decodeLeaf (o.extractLsb' 4 2) ls
  let (l3, ls) ← decodeLeaf (o.extractLsb' 2 2) ls
  let (l4, ls) ← decodeLeaf (o.extractLsb' 0 2) ls
  if ls = [] then
    guardWf (.br f.sub (o.extractLsb' 26 6) (o.extractLsb' 20 6) (o.extractLsb' 14 6) (o.extractLsb' 8 6) l1 l2 l3 l4)
  else none

/-- A loop's end unit index from its literal: bits [15:10] must be zero (Table 6-1). -/
def decodeEnd (l : Unit16) : Option (BitVec 10) := if l.toNat < 1024 then some (l.extractLsb' 0 10) else none

/-- The form of a non-empty C slot (Tables 5-16 and 6-1). -/
def decodeC (f : CF) (lits : List Unit16) : Option Instr :=
  let o := f.opnd
  match f.cls.toNat, f.sub.toNat, lits with
  | 1, _, ls => decodeBr f ls
  | 2, 0, [l] => (decodeEnd l).map fun e => .loop (o.extractLsb' 20 12) (o.extractLsb' 0 20) e
  | 2, 1, [l] => if o.extractLsb' 6 14 = 0 then
      (decodeEnd l).map fun e => .loops (o.extractLsb' 20 12) (o.extractLsb' 0 6) e else none
  | 2, 2, [] => if o = 0 then some .lbreak else none
  | 3, 0, [l] => some (.fmtw o l)
  | 3, 1, [] => if o.extractLsb' 6 26 = 0 then some (.fmts (o.extractLsb' 0 6)) else none
  | 4, 0, [] => if o = 0 then some .twait else none
  | 4, 1, [] => if o.extractLsb' 7 25 = 0 then
      some (.sbar (o.extractLsb' 3 4) (o.getLsbD 2) (o.extractLsb' 0 2)) else none
  | 4, 2, [] => if o = 0 then some .yield else none
  | 4, 3, [] => if o.extractLsb' 4 28 = 0 then some (.wwait (o.extractLsb' 0 4)) else none
  | 5, 0, [] => if o.extractLsb' 16 16 = 0 then some (.trap (o.extractLsb' 0 16)) else none
  | 5, 1, [] => if o.extractLsb' 16 16 = 0 then some (.brk (o.extractLsb' 0 16)) else none
  | 5, 2, [] => if o = 0 then some .tret else none
  | 5, 3, [] => if o = 0 then some .exit else none
  | 5, 4, [] => if o = 0 then some .statf else none
  | 6, 0, [l, h] => if o = 0 then some (.jmp (litPair l h)) else none
  | 6, 1, [l, h] => if o = 0 then some (.call (litPair l h)) else none
  | 6, 2, [] => if o = 0 then some .ret else none
  | _, _, _ => none

/-- The literal units a C slot consumes (Table 5-12). -/
def litsC (f : CF) : Nat :=
  let leaf (m : BitVec 2) : Nat := match m.toNat with | 0 => 0 | 2 => 1 | _ => 2
  match f.cls.toNat, f.sub.toNat with
  | 1, _ => leaf (f.opnd.extractLsb' 6 2) + leaf (f.opnd.extractLsb' 4 2) + leaf (f.opnd.extractLsb' 2 2) +
      leaf (f.opnd.extractLsb' 0 2)
  | 2, 0 | 2, 1 | 3, 0 => 1
  | 6, 0 | 6, 1 => 2
  | _, _ => 0

/-- The literal units an S slot consumes (Table 5-12). -/
def litsS (f : SF) : Nat := match f.mode.toNat with | 2 => 1 | 3 => 2 | _ => 0

/-- The literal units an M slot consumes (Table 5-12). -/
def litsM (f : MF) : Nat := match f.mode.toNat with | 0 => 0 | 3 => 2 | _ => 1

/-- The form of a non-empty S slot (Table 5-17; field use of Tables 6-4 to 6-7). -/
def decodeS (f : SF) (lits : List Unit16) : Option Instr :=
  let bin (mk : SOp → Instr) : Option Instr := (decodeSOp f.sb f.mode lits).bind fun b => guardWf (mk b)
  let cmp (mk : BitVec 5 → SOp → Instr) : Option Instr :=
    if f.sd.getLsbD 5 then none else bin (mk (f.sd.extractLsb' 0 5))
  let none00 (ok : Bool) (i : Instr) : Option Instr := if f.mode = 0 ∧ lits = [] ∧ ok then guardWf i else none
  let imm01 (ok : Bool) (i : Instr) : Option Instr := if f.mode = 1 ∧ lits = [] ∧ ok then guardWf i else none
  let q5 := f.sd.extractLsb' 0 5
  let low4 (r : BitVec 6) : BitVec 4 := r.extractLsb' 0 4
  match f.op.toNat with
  | 0 => bin fun b => .add f.mask f.sd f.sa b
  | 1 => bin fun b => .sub f.mask f.sd f.sa b
  | 2 => bin fun b => .mul f.mask f.sd f.sa b
  | 3 => bin fun b => .mulh f.mask f.sd f.sa b
  | 4 => bin fun b => .mulhn f.mask f.sd f.sa b
  | 5 => bin fun b => .div f.mask f.sd f.sa b
  | 6 => bin fun b => .divn f.mask f.sd f.sa b
  | 7 => bin fun b => .rem f.mask f.sd f.sa b
  | 8 => bin fun b => .remn f.mask f.sd f.sa b
  | 9 => bin fun b => .and f.mask f.sd f.sa b
  | 10 => bin fun b => .or f.mask f.sd f.sa b
  | 11 => bin fun b => .xor f.mask f.sd f.sa b
  | 12 => bin fun b => .andn f.mask f.sd f.sa b
  | 13 => bin fun b => .shl f.mask f.sd f.sa b
  | 14 => bin fun b => .shr f.mask f.sd f.sa b
  | 15 => bin fun b => .sar f.mask f.sd f.sa b
  | 16 => bin fun b => .min f.mask f.sd f.sa b
  | 17 => bin fun b => .minn f.mask f.sd f.sa b
  | 18 => bin fun b => .max f.mask f.sd f.sa b
  | 19 => bin fun b => .maxn f.mask f.sd f.sa b
  | 20 => none00 (f.sb = 0) (.clz f.mask f.sd f.sa)
  | 21 => none00 (f.sb = 0) (.popc f.mask f.sd f.sa)
  | 22 => bin fun b => .bfx f.mask f.sd f.sa b
  | 23 => bin fun b => .bfxn f.mask f.sd f.sa b
  | 24 => bin fun b => .bfi f.mask f.sd f.sa b
  | 25 => if f.sa = 0 then bin fun b => .li f.mask f.sd b else none
  | 26 => imm01 true (.sel f.mask f.sd f.sb f.sa)
  | 27 => cmp fun q b => .ceq f.mask q f.sa b
  | 28 => cmp fun q b => .cne f.mask q f.sa b
  | 29 => cmp fun q b => .clt f.mask q f.sa b
  | 30 => cmp fun q b => .cltn f.mask q f.sa b
  | 31 => cmp fun q b => .cle f.mask q f.sa b
  | 32 => cmp fun q b => .clen f.mask q f.sa b
  | 33 => none00 (!f.sd.getLsbD 5) (.qand f.mask q5 f.sa f.sb)
  | 34 => none00 (!f.sd.getLsbD 5) (.qor f.mask q5 f.sa f.sb)
  | 35 => none00 (!f.sd.getLsbD 5) (.qxor f.mask q5 f.sa f.sb)
  | 36 => none00 (f.sa = 0 && f.sb = 0) (.qget f.mask f.sd)
  | 37 => none00 (f.sd = 0 && f.sb = 0) (.qset f.mask f.sa)
  | 38 => imm01 (f.sa = 0) (.sget f.mask f.sd f.sb)
  | 39 => imm01 (f.sd = 0) (.sset f.mask f.sb f.sa)
  | 40 => bin fun b => .fadd f.mask f.sd f.sa b
  | 41 => bin fun b => .fsub f.mask f.sd f.sa b
  | 42 => bin fun b => .fmul f.mask f.sd f.sa b
  | 43 => bin fun b => .ffma f.mask f.sd f.sa b
  | 44 => bin fun b => .fmin f.mask f.sd f.sa b
  | 45 => bin fun b => .fmax f.mask f.sd f.sa b
  | 46 => cmp fun q b => .fclt f.mask q f.sa b
  | 47 => cmp fun q b => .fceq f.mask q f.sa b
  | 48 => none00 (f.sb = 0) (.ftoi f.mask f.sd f.sa)
  | 49 => none00 (f.sb = 0) (.itof f.mask f.sd f.sa)
  | 50 => none00 (f.sd.toNat < 16 && f.sa.toNat < 16 && f.sb.toNat < 16) (.wjoin f.mask (low4 f.sd) (low4 f.sa) (low4 f.sb))
  | 51 => none00 (f.sa.toNat < 16 && f.sb = 0) (.wtos f.mask f.sd (low4 f.sa))
  | 52 => none00 (f.sd.toNat < 16 && f.sb = 0) (.stow f.mask (low4 f.sd) f.sa)
  | _ => none

/-- The form of a non-empty M slot (Tables 5-18, 7-1 and 7-2). -/
def decodeM (f : MF) (lits : List Unit16) : Option Instr :=
  let q : MQual := ⟨f.mask, f.ord, f.scope, f.evict, f.wit, f.pred⟩
  let at' (ok : Bool) (mk : MAddr → Instr) : Option Instr :=
    if ok then (decodeAddr f.base f.mode lits).bind fun a => guardWf (mk a) else none
  let noAddr (ok : Bool) (i : Instr) : Option Instr :=
    if f.base = 0 ∧ f.mode = 0 ∧ lits = [] ∧ ok then guardWf i else none
  let r := f.vr.extractLsb' 0 6
  let sz := f.vr.extractLsb' 6 2
  let sx := f.vr.getLsbD 8
  let scalar := !f.vr.getLsbD 9
  let store := !f.vr.getLsbD 9 && !f.vr.getLsbD 8
  let only := f.vr.toNat < 64
  match f.op.toNat with
  | 0 => at' scalar fun a => .ld q sx sz r a
  | 1 => at' store fun a => .st q sz r a
  | 2 => at' scalar fun a => .ldp q sx sz r a
  | 3 => at' store fun a => .stp q sz r a
  | 4 => at' true fun a => .vld q f.vr a
  | 5 => at' true fun a => .vst q f.vr a
  | 6 => at' true fun a => .vldp q f.vr a
  | 7 => at' true fun a => .vstp q f.vr a
  | 8 => at' true fun a => .vgathp q f.vr a
  | 9 => at' true fun a => .vscatp q f.vr a
  | 10 => at' store fun a => .aadd q sz r a
  | 11 => at' store fun a => .amin q sz r a
  | 12 => at' store fun a => .aminn q sz r a
  | 13 => at' store fun a => .amax q sz r a
  | 14 => at' store fun a => .amaxn q sz r a
  | 15 => at' store fun a => .aswp q sz r a
  | 16 => at' store fun a => .acas q sz r a
  | 17 => at' store fun a => .afadd q sz r a
  | 18 => noAddr only (.wcheck q r)
  | 19 => noAddr (f.vr = 0) (.wall q)
  | 20 => at' only fun a => .swinit q r a
  | 21 => at' only fun a => .swarr q r a
  | 22 => at' only fun a => .swwait q r a
  | 23 => at' only fun a => .swpoll q r a
  | 24 => at' only fun a => .llock q r a
  | 25 => at' (f.vr = 0) fun a => .lunlock q a
  | 26 => noAddr only (.rcfence q r)
  | 27 => at' (f.vr.toNat < 8) fun a => .xpld q (f.vr.extractLsb' 0 3) a
  | 28 => at' only fun a => .launch q r a
  | 29 => at' (f.vr = 0) fun a => .pref q a
  | 30 => at' true fun a => .btw q f.vr a
  | _ => none

/-- The form of a non-empty V slot (Tables 5-7 and 5-19). -/
def decodeV (f : VF) : Option Instr :=
  let un (i : Instr) : Option Instr := if f.vb = 0 then guardWf i else none
  let cmp (mk : BitVec 4 → Instr) : Option Instr :=
    if f.vd.toNat < 16 then guardWf (mk (f.vd.extractLsb' 0 4)) else none
  let cnt (mk : BitVec 6 → Instr) : Option Instr :=
    if f.vb.toNat < 64 then guardWf (mk (f.vb.extractLsb' 0 6)) else none
  match f.fam.toNat with
  | 0 => guardWf (.vadd f.mask f.ty f.vd f.va f.vb f.pred)
  | 1 => guardWf (.vsub f.mask f.ty f.vd f.va f.vb f.pred)
  | 2 => guardWf (.vmul f.mask f.ty f.vd f.va f.vb f.pred)
  | 3 => guardWf (.vfma f.mask f.ty f.vd f.va f.vb f.pred)
  | 4 => guardWf (.vmin f.mask f.ty f.vd f.va f.vb f.pred)
  | 5 => guardWf (.vmax f.mask f.ty f.vd f.va f.vb f.pred)
  | 6 => guardWf (.vminn f.mask f.ty f.vd f.va f.vb f.pred)
  | 7 => guardWf (.vmaxn f.mask f.ty f.vd f.va f.vb f.pred)
  | 8 => un (.vabs f.mask f.ty f.vd f.va f.pred)
  | 9 => un (.vneg f.mask f.ty f.vd f.va f.pred)
  | 10 => guardWf (.vand f.mask f.ty f.vd f.va f.vb f.pred)
  | 11 => guardWf (.vor f.mask f.ty f.vd f.va f.vb f.pred)
  | 12 => guardWf (.vxor f.mask f.ty f.vd f.va f.vb f.pred)
  | 13 => guardWf (.vshl f.mask f.ty f.vd f.va f.vb f.pred)
  | 14 => guardWf (.vshr f.mask f.ty f.vd f.va f.vb f.pred)
  | 15 => guardWf (.vsar f.mask f.ty f.vd f.va f.vb f.pred)
  | 16 => cmp fun pd => .vceq f.mask f.ty pd f.va f.vb f.pred
  | 17 => cmp fun pd => .vclt f.mask f.ty pd f.va f.vb f.pred
  | 18 => cmp fun pd => .vcle f.mask f.ty pd f.va f.vb f.pred
  | 19 => cmp fun pd => .vcltn f.mask f.ty pd f.va f.vb f.pred
  | 20 => guardWf (.vsel f.mask f.ty f.vd f.va f.vb f.pred)
  | 21 => if f.vb.toNat < 8 then guardWf (.vcvt f.mask f.ty f.vd f.va (f.vb.extractLsb' 0 3) f.pred) else none
  | 22 => un (.vrsum f.mask f.ty f.vd f.va f.pred)
  | 23 => un (.vrmax f.mask f.ty f.vd f.va f.pred)
  | 24 => cnt fun sc => .vcmpr f.mask f.ty f.vd f.va sc f.pred
  | 25 => cnt fun sc => .vexpd f.mask f.ty f.vd f.va sc f.pred
  | 26 => un (.vlog f.mask f.ty f.vd f.va f.pred)
  | 27 => un (.vexp f.mask f.ty f.vd f.va f.pred)
  | 28 => un (.vmov f.mask f.ty f.vd f.va f.pred)
  | 29 => guardWf (.vsplat f.mask f.ty f.vd f.va f.vb f.pred)
  | 30 => if f.vd.toNat < 32 then un (.vany f.mask f.ty (f.vd.extractLsb' 0 5) f.va f.pred) else none
  | 31 => guardWf (.vlnadd f.mask f.ty f.vd f.va f.vb f.pred)
  | _ => none

/-- The log2 of a crossbar element size: 1, 2, 4 or 8 bytes (R119). -/
def decodeSize (z : BitVec 4) : Option (BitVec 2) :=
  match z.toNat with
  | 1 => some 0
  | 2 => some 1
  | 4 => some 2
  | 8 => some 3
  | _ => none

/-- The form of a non-empty X slot (R143, R231). -/
def decodeX (f : XF) : Option Instr :=
  (decodeSize f.size).bind fun z =>
  match f.op.toNat with
  | 0 => guardWf (.xperm f.mask f.vd f.va f.pat z)
  | 1 => if f.pat = 0 then guardWf (.xrev f.mask f.vd f.va z) else none
  | 2 => if f.pat = 0 then guardWf (.xzip f.mask f.vd f.va z) else none
  | 3 => if f.pat = 0 then guardWf (.xunzip f.mask f.vd f.va z) else none
  | 4 => guardWf (.xbcast f.mask f.vd f.va f.pat z)
  | 5 => guardWf (.xslide f.mask f.vd f.va f.pat z)
  | 6 => guardWf (.xtrn f.mask f.vd f.va f.pat z)
  | _ => none

/-- The form of a non-empty T slot: a field its entry does not define must be zero (R120, Tables 9-4 and 10-3). -/
def decodeT (f : TF) : Option Instr :=
  let only (a sp e w fl : Bool) (i : Instr) : Option Instr :=
    if (a || f.a == 0) && (sp || f.sp == 0) && (e || f.e == 0) && (w || f.w == 0) && (fl || f.f == 0) then guardWf i
    else none
  let v : BitVec 10 := f.e ++ f.f.extractLsb' 0 2
  let pl := f.f.getLsbD 5
  let plane (i : Instr) (e : Bool) : Option Instr := if f.f.extractLsb' 0 5 = 0 then only false false e false true i else none
  let vec (a : Bool) (i : Instr) : Option Instr := if f.f.extractLsb' 2 4 = 0 then only a true true false true i else none
  match f.op.toNat with
  | 0 => only false false false false false (.tdup f.mask)
  | 1 => only true false false false false (.tdrop f.mask f.a)
  | 2 => only false false false false false (.tswap f.mask)
  | 3 => only true false false false false (.tpick f.mask f.a)
  | 4 => only true false false false false (.trot f.mask f.a)
  | 5 => only false true false false false (.tzero f.mask f.sp)
  | 6 => only true true false false false (.tinfo f.mask f.sp f.a)
  | 7 => only false true false false false (.tshape f.mask f.sp)
  | 8 => only true false false false false (.tscale f.mask f.a)
  | 9 => only false true false true false (.tlds f.mask f.sp f.w)
  | 10 => only false true false true false (.tsts f.mask f.sp f.w)
  | 11 => vec false (.tfromv f.mask v f.sp)
  | 12 => vec true (.ttov f.mask v f.sp f.a)
  | 13 => plane (.mwl f.mask pl) false
  | 14 => plane (.mfw f.mask f.e pl) true
  | 15 => plane (.mfwa f.mask f.e pl) true
  | 16 => plane (.mbk f.mask f.e pl) true
  | 17 => plane (.mbka f.mask f.e pl) true
  | 18 => plane (.mwrel f.mask pl) false
  | 19 => only false false false false false (.tadd f.mask)
  | 20 => only false false false false false (.tsub f.mask)
  | 21 => only false false false false false (.tmul f.mask)
  | 22 => only false false false false false (.tmax f.mask)
  | 23 => only false false false false false (.tmin f.mask)
  | 24 => only false false false false false (.tfma f.mask)
  | 25 => if f.e.toNat < 64 then only true false true false false (.tcvt f.mask f.a (f.e.extractLsb' 0 6)) else none
  | 26 => only true false false false false (.tact f.mask f.a)
  | 27 => only false false false false false (.trsum f.mask)
  | 28 => only false false false false false (.tcsum f.mask)
  | 29 => only false false false false false (.txp f.mask)
  | 30 => only false true false true false (.tget f.mask f.sp f.w)
  | 31 => only false true false true false (.tsend f.mask f.sp f.w)
  | 32 => only false true false true false (.tsendq f.mask f.sp f.w)
  | 33 => only false true false true false (.acopy f.mask f.sp f.w)
  | 34 => only false true false true false (.acopyw f.mask f.sp f.w)
  | 35 => only false true false true false (.stash f.mask f.sp f.w)
  | 36 => only false true false true false (.restore f.mask f.sp f.w)
  | 37 => only false true false false false (.recomp f.mask f.sp)
  | 38 => only false true false true false (.grad f.mask f.sp f.w)
  | 39 => if f.e.toNat < 16 then only false true true true false (.coll f.mask (f.e.extractLsb' 0 4) f.sp f.w) else none
  | _ => none

/-- The regions of a bundle (Table 5-1). -/
def BundleWord.header (w : BundleWord) : BitVec 12 := w.extractLsb' 244 12
def BundleWord.slotC (w : BundleWord) : CF := CF.unpack (w.extractLsb' 204 40)
def BundleWord.slotS (w : BundleWord) : SF := SF.unpack (w.extractLsb' 173 31)
def BundleWord.slotM (w : BundleWord) : MF := MF.unpack (w.extractLsb' 128 45)
def BundleWord.slotV (w : BundleWord) : VF := VF.unpack (w.extractLsb' 81 47)
def BundleWord.slotX (w : BundleWord) : XF := XF.unpack (w.extractLsb' 45 36)
def BundleWord.slotT (w : BundleWord) : TF := TF.unpack (w.extractLsb' 0 45)

/-- A slot's answer: empty with all its other bits zero, a form, or illegal (R114, R121). -/
def slotOr (empty zero : Bool) (d : Option Instr) : Option (Option Instr) :=
  if empty then (if zero then some none else none) else d.map some

/-- Bit of a slot in a slot mask (R131). -/
def Slot.bit : Slot → Nat
  | .c => 5
  | .s => 4
  | .m => 3
  | .v => 2
  | .x => 1
  | .t => 0

/-- One slot-mask bit, when the condition holds. -/
def maskBit (n : Nat) (b : Bool) : BitVec 8 := if b then 1#8 <<< n else 0

/-- The literal units that a bundle's slots consume together (R125). -/
def litCount (w : BundleWord) : Nat :=
  litsC w.slotC + (if w.slotS.mask = 0 then 0 else litsS w.slotS) + (if w.slotM.mask = 0 then 0 else litsM w.slotM)

/-- Decode a bundle with its literal units (R113 to R120, R125, R130, R131). -/
def decodeBundle (w : BundleWord) (lits : List Unit16) : Decoded :=
  let h := w.header
  let major := h.extractLsb' 8 4
  if 2 ≤ major.toNat then .reserved major else
  let c := w.slotC
  let s := w.slotS
  let m := w.slotM
  let nC := litsC c
  let nS := if s.mask = 0 then 0 else litsS s
  let nM := if m.mask = 0 then 0 else litsM m
  let badCount := lits.length != nC + nS + nM
  let ls := if badCount then lits ++ List.replicate 16 0 else lits
  let dc := slotOr (c.cls = 0) (w.extractLsb' 204 36 = 0) (decodeC c (ls.take nC))
  let ds := slotOr (s.mask = 0) (w.extractLsb' 173 31 = 0) (decodeS s ((ls.drop nC).take nS))
  let dm := slotOr (m.mask = 0) (w.extractLsb' 128 45 = 0) (decodeM m ((ls.drop (nC + nS)).take nM))
  let dv := slotOr (w.slotV.mask = 0) (w.extractLsb' 81 47 = 0) (decodeV w.slotV)
  let dx := slotOr (w.slotX.mask = 0) (w.extractLsb' 45 36 = 0) (decodeX w.slotX)
  let dt := slotOr (w.slotT.mask = 0) (w.extractLsb' 0 45 = 0) (decodeT w.slotT)
  let wheel := m.mask != 0 && m.ord == 2
  let badHead := major != 1 || h.extractLsb' 0 6 != 0 || h.getLsbD 6 != wheel
  match badCount, badHead, dc, ds, dm, dv, dx, dt with
  | false, false, some c', some s', some m', some v', some x', some t' => .ok (h.getLsbD 7) ⟨c', s', m', v', x', t'⟩
  | _, _, _, _, _, _, _, _ =>
    .illegal (maskBit 7 badCount ||| maskBit 6 badHead ||| maskBit 5 dc.isNone ||| maskBit 4 ds.isNone |||
      maskBit 3 dm.isNone ||| maskBit 2 dv.isNone ||| maskBit 1 dx.isNone ||| maskBit 0 dt.isNone)
      ⟨dc.join, ds.join, dm.join, dv.join, dx.join, dt.join⟩

/-- Read a code unit where a reference, a repeat prefix or a segment end is expected (Table 5-11). -/
def decodeUnit (u : Unit16) : CodeUnit :=
  if u.getLsbD 15 = false then (if u.extractLsb' 0 3 = 0 then .ref (u.extractLsb' 6 9) (u.extractLsb' 3 3) else .bad)
  else if u.extractLsb' 13 3 = 4 then (if u.extractLsb' 0 5 = 0 then .repeat (u.extractLsb' 5 8) else .bad)
  else if u.extractLsb' 13 3 = 5 then (if u.extractLsb' 0 13 = 0 then .segEnd else .bad)
  else .bad

/-- The slot that a form belongs to; a system step has none. -/
def Instr.slot : Instr → Option Slot
  | .br _ _ _ _ _ _ _ _ _ | .loop _ _ _ | .loops _ _ _ | .lbreak | .fmtw _ _ | .fmts _ | .twait | .sbar _ _ _
  | .yield | .wwait _ | .trap _ | .brk _ | .tret | .exit | .statf | .jmp _ | .call _ | .ret => some .c
  | .add _ _ _ _ | .sub _ _ _ _ | .mul _ _ _ _ | .mulh _ _ _ _ | .mulhn _ _ _ _ | .div _ _ _ _ | .divn _ _ _ _
  | .rem _ _ _ _ | .remn _ _ _ _ | .and _ _ _ _ | .or _ _ _ _ | .xor _ _ _ _ | .andn _ _ _ _ | .shl _ _ _ _
  | .shr _ _ _ _ | .sar _ _ _ _ | .min _ _ _ _ | .minn _ _ _ _ | .max _ _ _ _ | .maxn _ _ _ _ | .clz _ _ _
  | .popc _ _ _ | .bfx _ _ _ _ | .bfxn _ _ _ _ | .bfi _ _ _ _ | .li _ _ _ | .sel _ _ _ _ | .ceq _ _ _ _
  | .cne _ _ _ _ | .clt _ _ _ _ | .cltn _ _ _ _ | .cle _ _ _ _ | .clen _ _ _ _ | .qand _ _ _ _ | .qor _ _ _ _
  | .qxor _ _ _ _ | .qget _ _ | .qset _ _ | .sget _ _ _ | .sset _ _ _ | .fadd _ _ _ _ | .fsub _ _ _ _
  | .fmul _ _ _ _ | .ffma _ _ _ _ | .fmin _ _ _ _ | .fmax _ _ _ _ | .fclt _ _ _ _ | .fceq _ _ _ _ | .ftoi _ _ _
  | .itof _ _ _ | .wjoin _ _ _ _ | .wtos _ _ _ | .stow _ _ _ => some .s
  | .ld _ _ _ _ _ | .st _ _ _ _ | .ldp _ _ _ _ _ | .stp _ _ _ _ | .vld _ _ _ | .vst _ _ _ | .vldp _ _ _
  | .vstp _ _ _ | .vgathp _ _ _ | .vscatp _ _ _ | .aadd _ _ _ _ | .amin _ _ _ _ | .aminn _ _ _ _ | .amax _ _ _ _
  | .amaxn _ _ _ _ | .aswp _ _ _ _ | .acas _ _ _ _ | .afadd _ _ _ _ | .wcheck _ _ | .wall _ | .swinit _ _ _
  | .swarr _ _ _ | .swwait _ _ _ | .swpoll _ _ _ | .llock _ _ _ | .lunlock _ _ | .rcfence _ _ | .xpld _ _ _
  | .launch _ _ _ | .pref _ _ | .btw _ _ _ => some .m
  | .vadd _ _ _ _ _ _ | .vsub _ _ _ _ _ _ | .vmul _ _ _ _ _ _ | .vfma _ _ _ _ _ _ | .vmin _ _ _ _ _ _
  | .vmax _ _ _ _ _ _ | .vminn _ _ _ _ _ _ | .vmaxn _ _ _ _ _ _ | .vand _ _ _ _ _ _ | .vor _ _ _ _ _ _
  | .vxor _ _ _ _ _ _ | .vshl _ _ _ _ _ _ | .vshr _ _ _ _ _ _ | .vsar _ _ _ _ _ _ | .vsel _ _ _ _ _ _
  | .vsplat _ _ _ _ _ _ | .vlnadd _ _ _ _ _ _ | .vabs _ _ _ _ _ | .vneg _ _ _ _ _ | .vrsum _ _ _ _ _
  | .vrmax _ _ _ _ _ | .vlog _ _ _ _ _ | .vexp _ _ _ _ _ | .vmov _ _ _ _ _ | .vceq _ _ _ _ _ _
  | .vclt _ _ _ _ _ _ | .vcle _ _ _ _ _ _ | .vcltn _ _ _ _ _ _ | .vcvt _ _ _ _ _ _ | .vcmpr _ _ _ _ _ _
  | .vexpd _ _ _ _ _ _ | .vany _ _ _ _ _ => some .v
  | .xperm _ _ _ _ _ | .xbcast _ _ _ _ _ | .xslide _ _ _ _ _ | .xtrn _ _ _ _ _ | .xrev _ _ _ _ | .xzip _ _ _ _
  | .xunzip _ _ _ _ => some .x
  | .tdup _ | .tdrop _ _ | .tswap _ | .tpick _ _ | .trot _ _ | .tzero _ _ | .tinfo _ _ _ | .tshape _ _
  | .tscale _ _ | .tlds _ _ _ | .tsts _ _ _ | .tfromv _ _ _ | .ttov _ _ _ _ | .mwl _ _ | .mfw _ _ _
  | .mfwa _ _ _ | .mbk _ _ _ | .mbka _ _ _ | .mwrel _ _ | .tadd _ | .tsub _ | .tmul _ | .tmax _ | .tmin _
  | .tfma _ | .tcvt _ _ _ | .tact _ _ | .trsum _ | .tcsum _ | .txp _ | .tget _ _ _ | .tsend _ _ _
  | .tsendq _ _ _ | .acopy _ _ _ | .acopyw _ _ _ | .stash _ _ _ | .restore _ _ _ | .recomp _ _ | .grad _ _ _
  | .coll _ _ _ _ => some .t
  | .bundleIssue _ | .repeatPrefix _ | .resultLanding _ | .loadValueArrival _ | .issueSelection _
  | .starvationGrant _ | .yieldPassEnd _ | .heldBundleRelease _ | .segmentPrefetch _ | .pageWalk _ _
  | .transparentFaultResolve _ _ | .deliveredFault _ | .witnessFailureDelivery _ | .storeVisible _ _
  | .epochClose _ _ | .scStamp _ | .scPerform _ | .syncArrive _ | .barrierRelease _ _ _ _ _
  | .tileEngineClaim _ _ | .tileOpComplete _ _ | .epilogueServe _ | .tileSink _ _ | .tileRise _ _
  | .bankVacate _ _ | .unwind _ | .gradContribution _ | .updateLineComplete _ | .collectiveRun _
  | .recordFill _ _ _ | .recordDropComplete _ | .noticeAppend _ | .tailWrite _ _ | .queueVisit _
  | .launchQueueAppend _ | .instancePlacement _ _ _ _ _ | .priorityAgeing _ _ | .forcedPreemption _ _
  | .preempt _ _ | .resume _ _ _ _ _ | .scratchShareRelease _ _ _ | .taskComplete _ | .copyTask _
  | .signalTask _ | .waitTask _ | .recordFenceTask _ | .journalMark _ | .selfTestRun _ | .codeLoad _
  | .codeUnload _ | .codegenPass _ | .deadlockQueueGrowth _ _ | .correctedError _ _ _ _
  | .uncorrectableError _ _ _ _ | .laneRetrain _ | .unknownMailboxCommand _ | .registerWrite _ _
  | .hostMemoryAccess _ _ | .peerMemoryAccess _ _ _ | .tamvanLinkDown _ | .tamvanLinkUp _ | .linkLayerRetry _
  | .epochTick | .lineAgingSweep | .wheelAdvance | .energyInterval | .errorLogCoalesce | .counterSample
  | .fundamentalReset | .hostLinkReturn | .hostLinkTimeout | .packageReset | .boot | .configureQueue
  | .changePageEntry | .placementPolicy | .registerCodeKey | .cancelTask | .returnWithdrawn | .setDerate
  | .readCounters | .readEnergyAccount | .attestationReport | .readQueueHead | .resetCommand | .writeFirmware => none

/-- The instruction of a table word (only the repeat prefix has a word of its own in the opcode table: a 16-bit code
unit): nbits bits of w, the bits above them zero. -/
def decodeTableWord (nbits w : Nat) : Option Instr :=
  let u : Unit16 := BitVec.ofNat 16 (w % 2 ^ nbits)
  match decodeUnit u with
  | .repeat c => some (.repeatPrefix c)
  | _ => none

/-! ## The encoder -/

/-- Operand B as field, mode and literal units. -/
def encodeSOp : SOp → BitVec 6 × BitVec 2 × List Unit16
  | .reg r => (r, 0, [])
  | .imm u => (u, 1, [])
  | .lit16 l => (0, 2, [l])
  | .lit32 l => (0, 3, [l.extractLsb' 0 16, l.extractLsb' 16 16])

/-- A memory operand's mode and literal units. -/
def encodeMode : AMode → BitVec 2 × List Unit16
  | .base => (0, [])
  | .off16 l => (1, [l])
  | .post16 l => (2, [l])
  | .off32 l => (3, [l.extractLsb' 0 16, l.extractLsb' 16 16])

/-- A leaf's mode and literal units. -/
def encodeLeaf : Leaf → BitVec 2 × List Unit16
  | .fall => (0, [])
  | .direct d => (1, [d.extractLsb' 0 16, d.extractLsb' 16 16])
  | .indirect r => (2, [r.zeroExtend 16])
  | .call d => (3, [d.extractLsb' 0 16, d.extractLsb' 16 16])

/-- The fields and literal units of a C form. -/
def encodeC : Instr → Option (CF × List Unit16)
  | .br sh ta tb tc td l1 l2 l3 l4 =>
    let (m1, u1) := encodeLeaf l1
    let (m2, u2) := encodeLeaf l2
    let (m3, u3) := encodeLeaf l3
    let (m4, u4) := encodeLeaf l4
    some (⟨1, sh, ta ++ tb ++ tc ++ td ++ m1 ++ m2 ++ m3 ++ m4⟩, u1 ++ u2 ++ u3 ++ u4)
  | .loop chain n e => some (⟨2, 0, chain ++ n⟩, [e.zeroExtend 16])
  | .loops chain sa e => some (⟨2, 1, chain ++ (0 : BitVec 14) ++ sa⟩, [e.zeroExtend 16])
  | .lbreak => some (⟨2, 2, 0⟩, [])
  | .fmtw low mask => some (⟨3, 0, low⟩, [mask])
  | .fmts sa => some (⟨3, 1, sa.zeroExtend 32⟩, [])
  | .twait => some (⟨4, 0, 0⟩, [])
  | .sbar w g b => some (⟨4, 1, (0 : BitVec 25) ++ w ++ BitVec.ofBool g ++ b⟩, [])
  | .yield => some (⟨4, 2, 0⟩, [])
  | .wwait w => some (⟨4, 3, w.zeroExtend 32⟩, [])
  | .trap n => some (⟨5, 0, n.zeroExtend 32⟩, [])
  | .brk n => some (⟨5, 1, n.zeroExtend 32⟩, [])
  | .tret => some (⟨5, 2, 0⟩, [])
  | .exit => some (⟨5, 3, 0⟩, [])
  | .statf => some (⟨5, 4, 0⟩, [])
  | .jmp o => some (⟨6, 0, 0⟩, [o.extractLsb' 0 16, o.extractLsb' 16 16])
  | .call o => some (⟨6, 1, 0⟩, [o.extractLsb' 0 16, o.extractLsb' 16 16])
  | .ret => some (⟨6, 2, 0⟩, [])
  | _ => none

/-- The fields and literal units of an S form. -/
def encodeS : Instr → Option (SF × List Unit16)
  | .add m sd sa b => some (⟨m, 0, sd, sa, (encodeSOp b).1, (encodeSOp b).2.1⟩, (encodeSOp b).2.2)
  | .sub m sd sa b => some (⟨m, 1, sd, sa, (encodeSOp b).1, (encodeSOp b).2.1⟩, (encodeSOp b).2.2)
  | .mul m sd sa b => some (⟨m, 2, sd, sa, (encodeSOp b).1, (encodeSOp b).2.1⟩, (encodeSOp b).2.2)
  | .mulh m sd sa b => some (⟨m, 3, sd, sa, (encodeSOp b).1, (encodeSOp b).2.1⟩, (encodeSOp b).2.2)
  | .mulhn m sd sa b => some (⟨m, 4, sd, sa, (encodeSOp b).1, (encodeSOp b).2.1⟩, (encodeSOp b).2.2)
  | .div m sd sa b => some (⟨m, 5, sd, sa, (encodeSOp b).1, (encodeSOp b).2.1⟩, (encodeSOp b).2.2)
  | .divn m sd sa b => some (⟨m, 6, sd, sa, (encodeSOp b).1, (encodeSOp b).2.1⟩, (encodeSOp b).2.2)
  | .rem m sd sa b => some (⟨m, 7, sd, sa, (encodeSOp b).1, (encodeSOp b).2.1⟩, (encodeSOp b).2.2)
  | .remn m sd sa b => some (⟨m, 8, sd, sa, (encodeSOp b).1, (encodeSOp b).2.1⟩, (encodeSOp b).2.2)
  | .and m sd sa b => some (⟨m, 9, sd, sa, (encodeSOp b).1, (encodeSOp b).2.1⟩, (encodeSOp b).2.2)
  | .or m sd sa b => some (⟨m, 10, sd, sa, (encodeSOp b).1, (encodeSOp b).2.1⟩, (encodeSOp b).2.2)
  | .xor m sd sa b => some (⟨m, 11, sd, sa, (encodeSOp b).1, (encodeSOp b).2.1⟩, (encodeSOp b).2.2)
  | .andn m sd sa b => some (⟨m, 12, sd, sa, (encodeSOp b).1, (encodeSOp b).2.1⟩, (encodeSOp b).2.2)
  | .shl m sd sa b => some (⟨m, 13, sd, sa, (encodeSOp b).1, (encodeSOp b).2.1⟩, (encodeSOp b).2.2)
  | .shr m sd sa b => some (⟨m, 14, sd, sa, (encodeSOp b).1, (encodeSOp b).2.1⟩, (encodeSOp b).2.2)
  | .sar m sd sa b => some (⟨m, 15, sd, sa, (encodeSOp b).1, (encodeSOp b).2.1⟩, (encodeSOp b).2.2)
  | .min m sd sa b => some (⟨m, 16, sd, sa, (encodeSOp b).1, (encodeSOp b).2.1⟩, (encodeSOp b).2.2)
  | .minn m sd sa b => some (⟨m, 17, sd, sa, (encodeSOp b).1, (encodeSOp b).2.1⟩, (encodeSOp b).2.2)
  | .max m sd sa b => some (⟨m, 18, sd, sa, (encodeSOp b).1, (encodeSOp b).2.1⟩, (encodeSOp b).2.2)
  | .maxn m sd sa b => some (⟨m, 19, sd, sa, (encodeSOp b).1, (encodeSOp b).2.1⟩, (encodeSOp b).2.2)
  | .clz m sd sa => some (⟨m, 20, sd, sa, 0, 0⟩, [])
  | .popc m sd sa => some (⟨m, 21, sd, sa, 0, 0⟩, [])
  | .bfx m sd sa b => some (⟨m, 22, sd, sa, (encodeSOp b).1, (encodeSOp b).2.1⟩, (encodeSOp b).2.2)
  | .bfxn m sd sa b => some (⟨m, 23, sd, sa, (encodeSOp b).1, (encodeSOp b).2.1⟩, (encodeSOp b).2.2)
  | .bfi m sd sa b => some (⟨m, 24, sd, sa, (encodeSOp b).1, (encodeSOp b).2.1⟩, (encodeSOp b).2.2)
  | .li m sd b => some (⟨m, 25, sd, 0, (encodeSOp b).1, (encodeSOp b).2.1⟩, (encodeSOp b).2.2)
  | .sel m sd t sa => some (⟨m, 26, sd, sa, t, 1⟩, [])
  | .ceq m qd sa b => some (⟨m, 27, qd.zeroExtend 6, sa, (encodeSOp b).1, (encodeSOp b).2.1⟩, (encodeSOp b).2.2)
  | .cne m qd sa b => some (⟨m, 28, qd.zeroExtend 6, sa, (encodeSOp b).1, (encodeSOp b).2.1⟩, (encodeSOp b).2.2)
  | .clt m qd sa b => some (⟨m, 29, qd.zeroExtend 6, sa, (encodeSOp b).1, (encodeSOp b).2.1⟩, (encodeSOp b).2.2)
  | .cltn m qd sa b => some (⟨m, 30, qd.zeroExtend 6, sa, (encodeSOp b).1, (encodeSOp b).2.1⟩, (encodeSOp b).2.2)
  | .cle m qd sa b => some (⟨m, 31, qd.zeroExtend 6, sa, (encodeSOp b).1, (encodeSOp b).2.1⟩, (encodeSOp b).2.2)
  | .clen m qd sa b => some (⟨m, 32, qd.zeroExtend 6, sa, (encodeSOp b).1, (encodeSOp b).2.1⟩, (encodeSOp b).2.2)
  | .qand m qd ta tb => some (⟨m, 33, qd.zeroExtend 6, ta, tb, 0⟩, [])
  | .qor m qd ta tb => some (⟨m, 34, qd.zeroExtend 6, ta, tb, 0⟩, [])
  | .qxor m qd ta tb => some (⟨m, 35, qd.zeroExtend 6, ta, tb, 0⟩, [])
  | .qget m sd => some (⟨m, 36, sd, 0, 0, 0⟩, [])
  | .qset m sa => some (⟨m, 37, 0, sa, 0, 0⟩, [])
  | .sget m sd i => some (⟨m, 38, sd, 0, i, 1⟩, [])
  | .sset m i sa => some (⟨m, 39, 0, sa, i, 1⟩, [])
  | .fadd m sd sa b => some (⟨m, 40, sd, sa, (encodeSOp b).1, (encodeSOp b).2.1⟩, (encodeSOp b).2.2)
  | .fsub m sd sa b => some (⟨m, 41, sd, sa, (encodeSOp b).1, (encodeSOp b).2.1⟩, (encodeSOp b).2.2)
  | .fmul m sd sa b => some (⟨m, 42, sd, sa, (encodeSOp b).1, (encodeSOp b).2.1⟩, (encodeSOp b).2.2)
  | .ffma m sd sa b => some (⟨m, 43, sd, sa, (encodeSOp b).1, (encodeSOp b).2.1⟩, (encodeSOp b).2.2)
  | .fmin m sd sa b => some (⟨m, 44, sd, sa, (encodeSOp b).1, (encodeSOp b).2.1⟩, (encodeSOp b).2.2)
  | .fmax m sd sa b => some (⟨m, 45, sd, sa, (encodeSOp b).1, (encodeSOp b).2.1⟩, (encodeSOp b).2.2)
  | .fclt m qd sa b => some (⟨m, 46, qd.zeroExtend 6, sa, (encodeSOp b).1, (encodeSOp b).2.1⟩, (encodeSOp b).2.2)
  | .fceq m qd sa b => some (⟨m, 47, qd.zeroExtend 6, sa, (encodeSOp b).1, (encodeSOp b).2.1⟩, (encodeSOp b).2.2)
  | .ftoi m sd sa => some (⟨m, 48, sd, sa, 0, 0⟩, [])
  | .itof m sd sa => some (⟨m, 49, sd, sa, 0, 0⟩, [])
  | .wjoin m wd wa wb => some (⟨m, 50, wd.zeroExtend 6, wa.zeroExtend 6, wb.zeroExtend 6, 0⟩, [])
  | .wtos m sd wa => some (⟨m, 51, sd, wa.zeroExtend 6, 0, 0⟩, [])
  | .stow m wd sa => some (⟨m, 52, wd.zeroExtend 6, sa, 0, 0⟩, [])
  | _ => none

/-- The fields and literal units of an M form. -/
def encodeM : Instr → Option (MF × List Unit16) :=
  let mk (op : BitVec 6) (q : MQual) (vr : BitVec 10) (a : MAddr) : Option (MF × List Unit16) :=
    some (⟨q.mask, op, vr, a.base, q.ord, q.scope, q.evict, q.wit, q.pred, (encodeMode a.mode).1⟩, (encodeMode a.mode).2)
  let sc (sx : Bool) (sz : BitVec 2) (r : BitVec 6) : BitVec 10 := (0 : BitVec 1) ++ BitVec.ofBool sx ++ sz ++ r
  let none' : MAddr := ⟨0, .base⟩
  fun i => match i with
  | .ld q sx sz sd a => mk 0 q (sc sx sz sd) a
  | .st q sz sv a => mk 1 q (sc false sz sv) a
  | .ldp q sx sz sd a => mk 2 q (sc sx sz sd) a
  | .stp q sz sv a => mk 3 q (sc false sz sv) a
  | .vld q vr a => mk 4 q vr a
  | .vst q vr a => mk 5 q vr a
  | .vldp q vr a => mk 6 q vr a
  | .vstp q vr a => mk 7 q vr a
  | .vgathp q vr a => mk 8 q vr a
  | .vscatp q vr a => mk 9 q vr a
  | .aadd q sz sv a => mk 10 q (sc false sz sv) a
  | .amin q sz sv a => mk 11 q (sc false sz sv) a
  | .aminn q sz sv a => mk 12 q (sc false sz sv) a
  | .amax q sz sv a => mk 13 q (sc false sz sv) a
  | .amaxn q sz sv a => mk 14 q (sc false sz sv) a
  | .aswp q sz sv a => mk 15 q (sc false sz sv) a
  | .acas q sz sv a => mk 16 q (sc false sz sv) a
  | .afadd q sz sv a => mk 17 q (sc false sz sv) a
  | .wcheck q sd => mk 18 q (sd.zeroExtend 10) none'
  | .wall q => mk 19 q 0 none'
  | .swinit q sv a => mk 20 q (sv.zeroExtend 10) a
  | .swarr q sv a => mk 21 q (sv.zeroExtend 10) a
  | .swwait q sv a => mk 22 q (sv.zeroExtend 10) a
  | .swpoll q sd a => mk 23 q (sd.zeroExtend 10) a
  | .llock q sd a => mk 24 q (sd.zeroExtend 10) a
  | .lunlock q a => mk 25 q 0 a
  | .rcfence q sv => mk 26 q (sv.zeroExtend 10) none'
  | .xpld q xp a => mk 27 q (xp.zeroExtend 10) a
  | .launch q sv a => mk 28 q (sv.zeroExtend 10) a
  | .pref q a => mk 29 q 0 a
  | .btw q vr a => mk 30 q vr a
  | _ => none

/-- The fields of a V form. -/
def encodeV : Instr → Option VF
  | .vadd m ty vd va vb p => some ⟨m, 0, ty, vd, va, vb, p⟩
  | .vsub m ty vd va vb p => some ⟨m, 1, ty, vd, va, vb, p⟩
  | .vmul m ty vd va vb p => some ⟨m, 2, ty, vd, va, vb, p⟩
  | .vfma m ty vd va vb p => some ⟨m, 3, ty, vd, va, vb, p⟩
  | .vmin m ty vd va vb p => some ⟨m, 4, ty, vd, va, vb, p⟩
  | .vmax m ty vd va vb p => some ⟨m, 5, ty, vd, va, vb, p⟩
  | .vminn m ty vd va vb p => some ⟨m, 6, ty, vd, va, vb, p⟩
  | .vmaxn m ty vd va vb p => some ⟨m, 7, ty, vd, va, vb, p⟩
  | .vabs m ty vd va p => some ⟨m, 8, ty, vd, va, 0, p⟩
  | .vneg m ty vd va p => some ⟨m, 9, ty, vd, va, 0, p⟩
  | .vand m ty vd va vb p => some ⟨m, 10, ty, vd, va, vb, p⟩
  | .vor m ty vd va vb p => some ⟨m, 11, ty, vd, va, vb, p⟩
  | .vxor m ty vd va vb p => some ⟨m, 12, ty, vd, va, vb, p⟩
  | .vshl m ty vd va vb p => some ⟨m, 13, ty, vd, va, vb, p⟩
  | .vshr m ty vd va vb p => some ⟨m, 14, ty, vd, va, vb, p⟩
  | .vsar m ty vd va vb p => some ⟨m, 15, ty, vd, va, vb, p⟩
  | .vceq m ty pd va vb p => some ⟨m, 16, ty, pd.zeroExtend 10, va, vb, p⟩
  | .vclt m ty pd va vb p => some ⟨m, 17, ty, pd.zeroExtend 10, va, vb, p⟩
  | .vcle m ty pd va vb p => some ⟨m, 18, ty, pd.zeroExtend 10, va, vb, p⟩
  | .vcltn m ty pd va vb p => some ⟨m, 19, ty, pd.zeroExtend 10, va, vb, p⟩
  | .vsel m ty vd va vb p => some ⟨m, 20, ty, vd, va, vb, p⟩
  | .vcvt m ty vd va st p => some ⟨m, 21, ty, vd, va, st.zeroExtend 10, p⟩
  | .vrsum m ty vd va p => some ⟨m, 22, ty, vd, va, 0, p⟩
  | .vrmax m ty vd va p => some ⟨m, 23, ty, vd, va, 0, p⟩
  | .vcmpr m ty vd va sc p => some ⟨m, 24, ty, vd, va, sc.zeroExtend 10, p⟩
  | .vexpd m ty vd va sc p => some ⟨m, 25, ty, vd, va, sc.zeroExtend 10, p⟩
  | .vlog m ty vd va p => some ⟨m, 26, ty, vd, va, 0, p⟩
  | .vexp m ty vd va p => some ⟨m, 27, ty, vd, va, 0, p⟩
  | .vmov m ty vd va p => some ⟨m, 28, ty, vd, va, 0, p⟩
  | .vsplat m ty vd va vb p => some ⟨m, 29, ty, vd, va, vb, p⟩
  | .vany m ty qd va p => some ⟨m, 30, ty, qd.zeroExtend 10, va, 0, p⟩
  | .vlnadd m ty vd va vb p => some ⟨m, 31, ty, vd, va, vb, p⟩
  | _ => none

/-- The fields of an X form. -/
def encodeX : Instr → Option XF :=
  let z (s : BitVec 2) : BitVec 4 := 1#4 <<< s.toNat
  fun i => match i with
  | .xperm m vd va k sz => some ⟨m, 0, vd, va, k, z sz⟩
  | .xrev m vd va sz => some ⟨m, 1, vd, va, 0, z sz⟩
  | .xzip m vd va sz => some ⟨m, 2, vd, va, 0, z sz⟩
  | .xunzip m vd va sz => some ⟨m, 3, vd, va, 0, z sz⟩
  | .xbcast m vd va k sz => some ⟨m, 4, vd, va, k, z sz⟩
  | .xslide m vd va k sz => some ⟨m, 5, vd, va, k, z sz⟩
  | .xtrn m vd va k sz => some ⟨m, 6, vd, va, k, z sz⟩
  | _ => none

/-- The fields of a T form. -/
def encodeT : Instr → Option TF
  | .tdup m => some ⟨m, 0, 0, 0, 0, 0, 0⟩
  | .tdrop m n => some ⟨m, 1, n, 0, 0, 0, 0⟩
  | .tswap m => some ⟨m, 2, 0, 0, 0, 0, 0⟩
  | .tpick m d => some ⟨m, 3, d, 0, 0, 0, 0⟩
  | .trot m n => some ⟨m, 4, n, 0, 0, 0, 0⟩
  | .tzero m sp => some ⟨m, 5, 0, sp, 0, 0, 0⟩
  | .tinfo m sd d => some ⟨m, 6, d, sd, 0, 0, 0⟩
  | .tshape m sp => some ⟨m, 7, 0, sp, 0, 0, 0⟩
  | .tscale m k => some ⟨m, 8, k, 0, 0, 0, 0⟩
  | .tlds m sp w => some ⟨m, 9, 0, sp, 0, w, 0⟩
  | .tsts m sp w => some ⟨m, 10, 0, sp, 0, w, 0⟩
  | .tfromv m v sp => some ⟨m, 11, 0, sp, v.extractLsb' 2 8, 0, (v.extractLsb' 0 2).zeroExtend 6⟩
  | .ttov m v sp n => some ⟨m, 12, n, sp, v.extractLsb' 2 8, 0, (v.extractLsb' 0 2).zeroExtend 6⟩
  | .mwl m pl => some ⟨m, 13, 0, 0, 0, 0, BitVec.ofBool pl ++ (0 : BitVec 5)⟩
  | .mfw m e pl => some ⟨m, 14, 0, 0, e, 0, BitVec.ofBool pl ++ (0 : BitVec 5)⟩
  | .mfwa m e pl => some ⟨m, 15, 0, 0, e, 0, BitVec.ofBool pl ++ (0 : BitVec 5)⟩
  | .mbk m e pl => some ⟨m, 16, 0, 0, e, 0, BitVec.ofBool pl ++ (0 : BitVec 5)⟩
  | .mbka m e pl => some ⟨m, 17, 0, 0, e, 0, BitVec.ofBool pl ++ (0 : BitVec 5)⟩
  | .mwrel m pl => some ⟨m, 18, 0, 0, 0, 0, BitVec.ofBool pl ++ (0 : BitVec 5)⟩
  | .tadd m => some ⟨m, 19, 0, 0, 0, 0, 0⟩
  | .tsub m => some ⟨m, 20, 0, 0, 0, 0, 0⟩
  | .tmul m => some ⟨m, 21, 0, 0, 0, 0, 0⟩
  | .tmax m => some ⟨m, 22, 0, 0, 0, 0, 0⟩
  | .tmin m => some ⟨m, 23, 0, 0, 0, 0, 0⟩
  | .tfma m => some ⟨m, 24, 0, 0, 0, 0, 0⟩
  | .tcvt m k f => some ⟨m, 25, k, 0, f.zeroExtend 8, 0, 0⟩
  | .tact m f => some ⟨m, 26, f, 0, 0, 0, 0⟩
  | .trsum m => some ⟨m, 27, 0, 0, 0, 0, 0⟩
  | .tcsum m => some ⟨m, 28, 0, 0, 0, 0, 0⟩
  | .txp m => some ⟨m, 29, 0, 0, 0, 0, 0⟩
  | .tget m sp w => some ⟨m, 30, 0, sp, 0, w, 0⟩
  | .tsend m sp w => some ⟨m, 31, 0, sp, 0, w, 0⟩
  | .tsendq m sp w => some ⟨m, 32, 0, sp, 0, w, 0⟩
  | .acopy m sp w => some ⟨m, 33, 0, sp, 0, w, 0⟩
  | .acopyw m sp w => some ⟨m, 34, 0, sp, 0, w, 0⟩
  | .stash m sp w => some ⟨m, 35, 0, sp, 0, w, 0⟩
  | .restore m sp w => some ⟨m, 36, 0, sp, 0, w, 0⟩
  | .recomp m sp => some ⟨m, 37, 0, sp, 0, 0, 0⟩
  | .grad m sp w => some ⟨m, 38, 0, sp, 0, w, 0⟩
  | .coll m op sp w => some ⟨m, 39, 0, sp, op.zeroExtend 8, w, 0⟩
  | _ => none

/-- The fields of an empty slot. -/
def emptyS : SF := ⟨0, 0, 0, 0, 0, 0⟩
def emptyM : MF := ⟨0, 0, 0, 0, 0, 0, 0, 0, 0, 0⟩
def emptyV : VF := ⟨0, 0, 0, 0, 0, 0, 0⟩
def emptyX : XF := ⟨0, 0, 0, 0, 0, 0⟩
def emptyT : TF := ⟨0, 0, 0, 0, 0, 0, 0⟩
def emptyC : CF := ⟨0, 0, 0⟩

/-- A bundle word from its header and slots (Table 5-1). -/
def packBundle (h : BitVec 12) (c : CF) (s : SF) (m : MF) (v : VF) (x : XF) (t : TF) : BundleWord :=
  h ++ c.pack ++ s.pack ++ m.pack ++ v.pack ++ x.pack ++ t.pack

/-- The header of a legal bundle: major space 1, the entry bit, and the wheel bit (R113). -/
def packHeader (entry wheel : Bool) : BitVec 12 := (1 : BitVec 4) ++ BitVec.ofBool entry ++ BitVec.ofBool wheel ++ (0 : BitVec 6)

/-- The bundle word and literal units of the bundle that holds these slots; a form in the wrong slot has none. -/
def encodeSlots (entry : Bool) (z : Slots) : Option (BundleWord × List Unit16) := do
  let (c, lc) ← match z.c with | none => some (emptyC, []) | some i => encodeC i
  let (s, ls) ← match z.s with | none => some (emptyS, []) | some i => encodeS i
  let (m, lm) ← match z.m with | none => some (emptyM, []) | some i => encodeM i
  let v ← match z.v with | none => some emptyV | some i => encodeV i
  let x ← match z.x with | none => some emptyX | some i => encodeX i
  let t ← match z.t with | none => some emptyT | some i => encodeT i
  some (packBundle (packHeader entry (m.mask != 0 && m.ord == 2)) c s m v x t, lc ++ ls ++ lm)

/-- The slots of a bundle whose only non-empty slot holds the form. -/
def Instr.alone (i : Instr) : Slots :=
  match i.slot with
  | some .c => { c := some i }
  | some .s => { s := some i }
  | some .m => { m := some i }
  | some .v => { v := some i }
  | some .x => { x := some i }
  | some .t => { t := some i }
  | none => {}

/-- The words of a form: the bundle that holds it alone, with its literal units. -/
def encode (i : Instr) : Option (BundleWord × List Unit16) := if i.slot.isSome then encodeSlots false i.alone else none

/-- The code unit of a bundle reference (R124). -/
def encodeRef (idx : BitVec 9) (lits : BitVec 3) : Unit16 := (0 : BitVec 1) ++ idx ++ lits ++ (0 : BitVec 3)

/-- The code unit of a repeat prefix (R124). -/
def encodeRepeat (c : BitVec 8) : Unit16 := (4 : BitVec 3) ++ c ++ (0 : BitVec 5)

/-- The code unit of a segment end (R124). -/
def encodeSegEnd : Unit16 := (5 : BitVec 3) ++ (0 : BitVec 13)

end Sys2Proof
end

