-- ==== Sys2Proof/Machine/Num.lean ====
section
/-! DEFINITION. The number formats and the rounding into them (03 R66 to R83, R88, R89), with the arithmetic events
each rounding meets (04 R109). -/

namespace Sys2Proof.Machine

/-- A decoded value: NaN, an infinity, or the finite value (-1)^neg * m * 2^e. A zero keeps its sign. -/
inductive FVal where
  | nan
  | inf (neg : Bool)
  | fin (neg : Bool) (m : Nat) (e : Int)
  deriving DecidableEq, Repr

/-- A number format: an integer format of bits bits, or a floating format of exponent width w, mb trailing
significand bits and the given bias (Tables 3-1, 3-2 and R73). -/
structure NFmt where
  isInt  : Bool
  bits   : Nat
  signed : Bool
  w      : Nat
  mb     : Nat
  bias   : Int
  hasInf : Bool
  b8     : Bool
  deriving DecidableEq, Repr

/-- The integer formats of Table 3-1. -/
def NFmt.int (bits : Nat) (signed : Bool) : NFmt := ⟨true, bits, signed, 0, 0, 0, false, false⟩
/-- FP32 (Table 3-2). -/
def NFmt.f32 : NFmt := ⟨false, 32, true, 8, 23, 127, true, false⟩
/-- BF16 (Table 3-2). -/
def NFmt.bf16 : NFmt := ⟨false, 16, true, 8, 7, 127, true, false⟩
/-- FP16 (Table 3-2). -/
def NFmt.f16 : NFmt := ⟨false, 16, true, 5, 10, 15, true, false⟩
/-- The binary8 format of a code of Table 3-3 (R72, R73). -/
def NFmt.ofB8 (code : BitVec 6) : NFmt :=
  let p := (code.extractLsb' 0 3).toNat
  let uns := code.getLsbD 4
  let w := if uns then 9 - p else 8 - p
  ⟨false, 8, !uns, w, p - 1, ((2 ^ (w - 1) : Nat) : Int), code.getLsbD 3, true⟩

/-- 2^k for an integer k that is not negative, and 1 otherwise. -/
def pow2 (k : Int) : Nat := 2 ^ k.toNat

/-- The bits of a natural number, 0 for 0. -/
def bitLen (m : Nat) : Nat := if m = 0 then 0 else Nat.log2 m + 1

/-- floor_log2 of m * 2^e for m > 0 (R90). -/
def floorLog2 (m : Nat) (e : Int) : Int := (Nat.log2 m : Int) + e

/-- The integer of an n-bit two's complement pattern (R39). -/
def sextNat (n v : Nat) : Int :=
  let u := v % 2 ^ n
  if u < 2 ^ (n - 1) then (u : Int) else (u : Int) - (2 ^ n : Nat)

/-- The n-bit pattern of an integer, modulo 2^n (R68). -/
def wrapNat (n : Nat) (v : Int) : Nat := (v % ((2 ^ n : Nat) : Int)).toNat

/-- The value that a finite floating encoding has under R69 and R73: magnitude, exponent, subnormal. -/
def NFmt.fields (F : NFmt) (u : Nat) : Bool × Nat × Int × Bool :=
  let s := F.signed && (u >>> (F.w + F.mb)) % 2 == 1
  let ef := (u >>> F.mb) % 2 ^ F.w
  let f := u % 2 ^ F.mb
  if ef = 0 then (s, f, 1 - F.bias - (F.mb : Int), f != 0)
  else (s, f + 2 ^ F.mb, (ef : Int) - F.bias - (F.mb : Int), false)

/-- The encoding of the largest finite value (Tables 3-2, 3-5, 3-6), sign 0. -/
def NFmt.maxCode (F : NFmt) : Nat :=
  if F.b8 then (if F.signed then (if F.hasInf then 0x7E else 0x7F) else (if F.hasInf then 0xFD else 0xFE))
  else (2 ^ F.w - 1) * 2 ^ F.mb - 1

/-- The largest finite value as magnitude and exponent. -/
def NFmt.maxFin (F : NFmt) : Nat × Int := let r := F.fields F.maxCode; (r.2.1, r.2.2.1)

/-- The smallest and largest integers of an integer format (Table 3-1). -/
def NFmt.minInt (F : NFmt) : Int := if F.signed then -((2 ^ (F.bits - 1) : Nat) : Int) else 0
def NFmt.maxInt (F : NFmt) : Int := if F.signed then ((2 ^ (F.bits - 1) : Nat) : Int) - 1 else ((2 ^ F.bits : Nat) : Int) - 1

/-- A finite value from an integer and an exponent. -/
def FVal.ofInt (v : Int) (e : Int) : FVal := .fin (decide (v < 0)) v.natAbs e

/-- decode(F, bits, e) of R89, after the input rule of R83; the second part tells whether the input was flushed. -/
def NFmt.decode (F : NFmt) (u : Nat) (e : Int) (flush : Bool) : FVal × Bool :=
  let u := u % 2 ^ F.bits
  if F.isInt then (FVal.ofInt (if F.signed then sextNat F.bits u else (u : Int)) e, false)
  else if F.b8 && u == 0 then (.fin false 0 0, false)
  else if F.b8 && F.signed && u == 0x80 then (.nan, false)
  else if F.b8 && F.signed && F.hasInf && (u == 0x7F || u == 0xFF) then (.inf (u == 0xFF), false)
  else if F.b8 && !F.signed && u == 0xFF then (.nan, false)
  else if F.b8 && !F.signed && F.hasInf && u == 0xFE then (.inf false, false)
  else if !F.b8 && (u >>> F.mb) % 2 ^ F.w == 2 ^ F.w - 1 then
    (if u % 2 ^ F.mb == 0 then .inf ((u >>> (F.w + F.mb)) % 2 == 1) else .nan, false)
  else
    let r := F.fields u
    if r.2.2.2 && flush then (.fin (if F.b8 then false else r.1) 0 0, true)
    else (.fin r.1 r.2.1 (r.2.2.1 + e), false)

/-- Multiply a value by 2^k (R79, R88). -/
def FVal.scale (x : FVal) (k : Int) : FVal :=
  match x with
  | .fin s m e => .fin s m (e + k)
  | y => y

/-- What a rounding delivers: the value in the format, and the events it met as bits of Table 4-7. -/
structure Rnd where
  val : FVal
  ev  : Nat
  deriving DecidableEq, Repr

/-- The event bits of Table 4-7. -/
def ev (code : Nat) : Nat := 2 ^ code

/-- The grid exponent of round (R81). -/
def NFmt.grid (F : NFmt) (m : Nat) (e : Int) : Int :=
  if F.isInt then 0 else max (floorLog2 m e) (1 - F.bias) - (F.mb : Int)

/-- parity(v, F) of R81 for v = n * 2^q. -/
def NFmt.odd (F : NFmt) (n : Nat) (q : Int) : Bool :=
  if F.isInt || F.mb ≥ 1 then n % 2 == 1
  else if n = 0 then false else (floorLog2 n q + F.bias) % 2 == 1

/-- The multiple of the grid that round chooses for (-1)^s * m * 2^e, and whether it is inexact (R81). -/
def NFmt.pick (F : NFmt) (mode : Nat) (s : Bool) (m : Nat) (e q : Int) : Nat × Bool :=
  if q ≤ e then (m * pow2 (e - q), false)
  else
    let d := pow2 (q - e)
    let n := m / d
    let rem := m % d
    if rem = 0 then (n, false)
    else
      let up := match mode with
        | 1 => false
        | 2 => !s
        | 3 => s
        | _ => if 2 * rem = d then F.odd n q else decide (d < 2 * rem)
      (if up then n + 1 else n, true)

/-- m1 * 2^e1 < m2 * 2^e2. -/
def magLt (m1 : Nat) (e1 : Int) (m2 : Nat) (e2 : Int) : Bool :=
  let q := min e1 e2
  decide (m1 * pow2 (e1 - q) < m2 * pow2 (e2 - q))

/-- overflow(x, F, mode, sat) of R82 for a floating format. -/
def NFmt.overflow (F : NFmt) (mode : Nat) (sat : Bool) (s : Bool) : Rnd :=
  if sat || mode == 1 || (mode == 2 && s) || (mode == 3 && !s) then ⟨.fin s F.maxFin.1 F.maxFin.2, ev 3 ||| ev 7⟩
  else if F.hasInf then ⟨.inf s, ev 2 ||| ev 7⟩
  else ⟨.nan, 0⟩

/-- inf_rule(x, F, sat) of R82 for a floating format. Table 4-7 names no event for an infinity of the wrong sign that
becomes 0 in an unsigned binary8 format: none is posted (log 30). DESIGN CHOICE. -/
def NFmt.infRule (F : NFmt) (sat : Bool) (s : Bool) : Rnd :=
  if !F.signed && s then (if sat then ⟨.fin false 0 0, 0⟩ else ⟨.nan, 0⟩)
  else if sat then ⟨.fin s F.maxFin.1 F.maxFin.2, ev 3⟩
  else if F.hasInf then ⟨.inf s, 0⟩
  else ⟨.nan, 0⟩

/-- An integer destination: the value clamped to the range of the format (R88). A clamp is inexact as well, which the
manual leaves open (R109, log 30). DESIGN CHOICE. -/
def NFmt.clamp (F : NFmt) (v : Int) (inexact : Bool) : Rnd :=
  let c := max F.minInt (min v F.maxInt)
  ⟨FVal.ofInt c 0, (if c = v then 0 else ev 4) ||| (if inexact || c ≠ v then ev 7 else 0)⟩

/-- round(x, F, mode, sat) of R81 and R82, with R88's rule for integer destinations. A negative value that an unsigned
format turns into 0 is inexact, which the manual leaves open (R109, log 30). DESIGN CHOICE. -/
def NFmt.round (F : NFmt) (mode : Nat) (sat : Bool) (x : FVal) : Rnd :=
  match x with
  | .nan => if F.isInt then ⟨.fin false 0 0, ev 4⟩ else ⟨.nan, 0⟩
  | .inf s =>
    if F.isInt then ⟨FVal.ofInt (if s then F.minInt else F.maxInt) 0, ev 4⟩ else F.infRule sat s
  | .fin s m e =>
    if m = 0 then ⟨.fin (if F.isInt || F.b8 then false else s) 0 0, 0⟩
    else
      let q := F.grid m e
      let r := F.pick mode s m e q
      let ix := if r.2 then ev 7 else 0
      let zr := if r.1 = 0 then ev 5 else 0
      if F.isInt then
        let c := F.clamp (if s then -(r.1 : Int) else (r.1 : Int)) r.2
        ⟨c.val, c.ev ||| zr⟩
      else if r.1 = 0 then ⟨.fin (if F.b8 then false else s) 0 0, ix ||| zr⟩
      else if !F.signed && s then (if sat then ⟨.fin false 0 0, ev 7⟩ else ⟨.nan, 0⟩)
      else if magLt F.maxFin.1 F.maxFin.2 r.1 q then F.overflow mode sat s
      else ⟨.fin s r.1 q, ix⟩

/-- m * 2^e as an integer, for a value known to be one. -/
def shiftNat (m : Nat) (e : Int) : Nat := if 0 ≤ e then m * pow2 e else m / pow2 (-e)

/-- encode(F, v) of R89 for a value that round delivered in F. -/
def NFmt.encode (F : NFmt) (x : FVal) : Nat :=
  if F.isInt then
    match x with
    | .fin s m e => wrapNat F.bits (if s then -(shiftNat m e : Int) else (shiftNat m e : Int))
    | _ => 0
  else
    let top := 2 ^ (F.w + F.mb)
    match x with
    | .nan =>
      if F.b8 then (if F.signed then 0x80 else 0xFF) else (2 ^ F.w - 1) * 2 ^ F.mb + 2 ^ (F.mb - 1)
    | .inf s =>
      if F.b8 then (if F.signed then (if s then 0xFF else 0x7F) else 0xFE)
      else (if s then top else 0) + (2 ^ F.w - 1) * 2 ^ F.mb
    | .fin s m e =>
      if m = 0 then (if F.b8 then 0 else if s then top else 0)
      else
        let sb := if F.signed && s then top else 0
        let E := floorLog2 m e
        if E < 1 - F.bias then sb + shiftNat m (e - (1 - F.bias - (F.mb : Int)))
        else sb + (E + F.bias).toNat * 2 ^ F.mb + (shiftNat m (e - (E - (F.mb : Int))) - 2 ^ F.mb)

/-! ## Exact operations (R71, R91) -/

/-- The signed integer of a finite value on the grid 2^q, q at most its exponent. -/
def signedMant (s : Bool) (m : Nat) (e q : Int) : Int :=
  let v : Int := ((m * pow2 (e - q) : Nat) : Int)
  if s then -v else v

/-- The exact sum, with R71's rule for an exact zero sum under the mode. -/
def FVal.add (mode : Nat) (a b : FVal) : FVal :=
  match a, b with
  | .nan, _ => .nan
  | .inf _, .nan => .nan
  | .fin _ _ _, .nan => .nan
  | .inf s, .inf t => if s = t then .inf s else .nan
  | .inf s, .fin _ _ _ => .inf s
  | .fin _ _ _, .inf t => .inf t
  | .fin s m e, .fin t n f =>
    if m = 0 && n = 0 then .fin (if s = t then s else mode == 3) 0 0
    else if m = 0 then .fin t n f
    else if n = 0 then .fin s m e
    else
      let q := min e f
      let v := signedMant s m e q + signedMant t n f q
      if v = 0 then .fin (mode == 3) 0 0 else FVal.ofInt v q

/-- The negated value (R221). -/
def FVal.neg (a : FVal) : FVal :=
  match a with
  | .nan => .nan
  | .inf s => .inf (!s)
  | .fin s m e => .fin (!s) m e

/-- The absolute value. -/
def FVal.abs (a : FVal) : FVal :=
  match a with
  | .nan => .nan
  | .inf _ => .inf false
  | .fin _ m e => .fin false m e

/-- The exact difference. -/
def FVal.sub (mode : Nat) (a b : FVal) : FVal := FVal.add mode a b.neg

/-- The exact product; 0 times an infinity is invalid (R71). -/
def FVal.mul (a b : FVal) : FVal :=
  match a, b with
  | .nan, _ => .nan
  | .inf _, .nan => .nan
  | .fin _ _ _, .nan => .nan
  | .inf s, .inf t => .inf (s != t)
  | .inf s, .fin t n _ => if n = 0 then .nan else .inf (s != t)
  | .fin s m _, .inf t => if m = 0 then .nan else .inf (s != t)
  | .fin s m e, .fin t n f => .fin (s != t) (m * n) (e + f)

/-- a * b + c with an exact product (R71, R91). -/
def FVal.fma (mode : Nat) (a b c : FVal) : FVal := FVal.add mode (FVal.mul a b) c

/-- Whether a value is NaN. -/
def FVal.isNan (a : FVal) : Bool := a == .nan

/-- Whether a value is zero. -/
def FVal.isZero (a : FVal) : Bool :=
  match a with
  | .fin _ m _ => m == 0
  | _ => false

/-- The order of two values that are no NaN; zeros compare equal. -/
def FVal.cmp (a b : FVal) : Ordering :=
  match a, b with
  | .inf true, .inf true => .eq
  | .inf false, .inf false => .eq
  | .inf true, _ => .lt
  | .inf false, _ => .gt
  | _, .inf true => .gt
  | _, .inf false => .lt
  | .fin s m e, .fin t n f =>
    let q := min e f
    let x := signedMant s m e q
    let y := signedMant t n f q
    if x < y then .lt else if x = y then .eq else .gt
  | _, _ => .eq

/-- The sign of a value, false for NaN. -/
def FVal.sign (a : FVal) : Bool :=
  match a with
  | .nan => false
  | .inf s => s
  | .fin s _ _ => s

/-- The smaller of two values: a NaN operand gives NaN, and -0 orders below +0 (R71). -/
def FVal.min (a b : FVal) : FVal :=
  if a.isNan || b.isNan then .nan
  else match FVal.cmp a b with
    | .lt => a
    | .gt => b
    | .eq => if b.sign && !a.sign then b else a

/-- The larger of two values (R71). -/
def FVal.max (a b : FVal) : FVal :=
  if a.isNan || b.isNan then .nan
  else match FVal.cmp a b with
    | .lt => b
    | .gt => a
    | .eq => if a.sign && !b.sign then b else a

/-! ## One rounded result with its events -/

/-- The events of an operation that met the inputs ins and gave the rounded result r: an input NaN is event 1, a NaN
from inputs that are none is event 0 (Table 4-7, log 23). -/
def opEvents (ins : List FVal) (r : Rnd) : Nat :=
  if ins.any FVal.isNan then r.ev ||| ev 1
  else if r.val == .nan then r.ev ||| ev 0 else r.ev

/-- The bits of round(x * 2^(-e), F, mode, sat) with the events of an operation on ins (R88, R91, R218). -/
def NFmt.finish (F : NFmt) (e : Int) (mode : Nat) (sat : Bool) (ins : List FVal) (x : FVal) : Nat × Nat :=
  let r := F.round mode sat (x.scale (-e))
  (F.encode r.val, opEvents ins r)

/-- convert of R89: one rounding of the scaled source value (R88). -/
def convertBits (Fs : NFmt) (es : Int) (Fd : NFmt) (ed : Int) (mode : Nat) (sat flush : Bool) (u : Nat) : Nat × Nat :=
  let x := Fs.decode u es flush
  let r := Fd.finish ed mode sat [x.1] x.1
  (r.1, r.2 ||| (if x.2 then ev 6 else 0))

/-- A value rounded into FP32 under a mode, saturation off, as a value. -/
def toF32 (mode : Nat) (x : FVal) : FVal := (NFmt.f32.round mode false x).val

/-- round_rne32 of R89. -/
def roundRne32 (x : FVal) : BitVec 32 := BitVec.ofNat 32 (NFmt.f32.encode (toF32 0 x))

/-- The value of an FP32 pattern, not flushed. -/
def f32Val (u : BitVec 32) : FVal := (NFmt.f32.decode u.toNat 0 false).1

/-! ## Integer helpers of R90 -/

/-- rne_int(n / d) for naturals, d > 0. -/
def rneDiv (n d : Nat) : Nat :=
  let q := n / d
  let r := n % d
  if 2 * r > d || (2 * r == d && q % 2 == 1) then q + 1 else q

/-- rne_int(m * 2^e) of a magnitude. -/
def rneMag (m : Nat) (e : Int) : Nat := if 0 ≤ e then m * pow2 e else rneDiv m (pow2 (-e))

/-- shr_rne(m, n): rne_int(m / 2^n) for an integer. -/
def shrRne (m : Int) (n : Nat) : Int :=
  let r : Int := (rneDiv m.natAbs (2 ^ n) : Nat)
  if m < 0 then -r else r

/-- interp(T, i, u, n) of Table 4-1. -/
def interp (T : List Int) (i u n : Nat) : Int :=
  T.getD i 0 + ((T.getD (i + 1) 0 - T.getD i 0) * (u : Int) + ((2 ^ (n - 1) : Nat) : Int)) / ((2 ^ n : Nat) : Int)

/-- The integer square root by bits: r grows by 2^k from the top. -/
def isqrtFrom (n : Nat) (k r : Nat) : Nat :=
  match k with
  | 0 => r
  | j + 1 => if (r + 2 ^ j) * (r + 2 ^ j) ≤ n then isqrtFrom n j (r + 2 ^ j) else isqrtFrom n j r

/-- sqrt32 of Table 4-1 with the events of its one rounding: the exact square root, kept exact by a sticky bit. -/
def sqrtRnd (u : BitVec 32) : Rnd :=
  match f32Val u with
  | .nan => ⟨.nan, 0⟩
  | .inf s => ⟨if s then .nan else .inf false, 0⟩
  | .fin s m e =>
    if m = 0 then ⟨.fin s 0 0, 0⟩
    else if s then ⟨.nan, 0⟩
    else
      let odd := e % 2 == 1
      let m' := if odd then 2 * m else m
      let e' := if odd then e - 1 else e
      let big := m' * 2 ^ 96
      let r := isqrtFrom big 62 0
      NFmt.f32.round 0 false (.fin false (2 * r + (if r * r = big then 0 else 1)) (e' / 2 - 49))

/-- sqrt32 of Table 4-1. -/
def sqrt32 (u : BitVec 32) : BitVec 32 := BitVec.ofNat 32 (NFmt.f32.encode (sqrtRnd u).val)

/-- div32 of Table 4-1 with the events of its one rounding: the exact quotient, with the special cases of R71. -/
def divRnd (a b : BitVec 32) : Rnd :=
  match f32Val a, f32Val b with
  | .nan, _ => ⟨.nan, 0⟩
  | .inf _, .nan => ⟨.nan, 0⟩
  | .fin _ _ _, .nan => ⟨.nan, 0⟩
  | .inf _, .inf _ => ⟨.nan, 0⟩
  | .inf s, .fin t _ _ => ⟨.inf (s != t), 0⟩
  | .fin s _ _, .inf t => ⟨.fin (s != t) 0 0, 0⟩
  | .fin s m e, .fin t n f =>
    if n = 0 then ⟨if m = 0 then .nan else .inf (s != t), 0⟩
    else if m = 0 then ⟨.fin (s != t) 0 0, 0⟩
    else
      let k := 64 + bitLen n
      let q := m * 2 ^ k / n
      let r := m * 2 ^ k % n
      NFmt.f32.round 0 false (.fin (s != t) (2 * q + (if r = 0 then 0 else 1)) (e - f - (k : Int) - 1))

/-- div32 of Table 4-1. -/
def div32 (a b : BitVec 32) : BitVec 32 := BitVec.ofNat 32 (NFmt.f32.encode (divRnd a b).val)

end Sys2Proof.Machine
end

