-- ==== Sys2Proof/Machine/Bytes.lean ====
section
/-! DEFINITION. Bytes, little-endian values and the lanes of a vector register (00 R3, R4, 08 R215). -/

namespace Sys2Proof.Machine

/-- A list cut into pieces of n, with fuel for the number of pieces. -/
def chunksFuel {α : Type} (n : Nat) (fuel : Nat) (l : List α) : List (List α) :=
  match fuel, l with
  | 0, _ => []
  | _ + 1, [] => []
  | f + 1, x :: r => (x :: r).take n :: chunksFuel n f ((x :: r).drop n)

/-- A list cut into pieces of n. -/
def chunks {α : Type} (n : Nat) (l : List α) : List (List α) := chunksFuel n l.length l

/-- The value of bytes, little-endian (R4). -/
def leNat (bs : List Byte) : Nat :=
  match bs with
  | [] => 0
  | b :: r => b.toNat + 256 * leNat r

/-- n bytes of a value, little-endian. -/
def natLe (n v : Nat) : List Byte :=
  match n with
  | 0 => []
  | k + 1 => BitVec.ofNat 8 v :: natLe k (v / 256)

/-- The n bytes of a list from an offset, 0 beyond its end. -/
def sliceBytes (bs : List Byte) (off n : Nat) : List Byte :=
  let r := (bs.drop off).take n
  r ++ List.replicate (n - r.length) 0

/-- The little-endian value of n bytes at an offset. -/
def fieldAt (bs : List Byte) (off n : Nat) : Nat := leNat (sliceBytes bs off n)

/-- Bytes written over a list at an offset; the list keeps its length. -/
def putBytes (bs : List Byte) (off : Nat) (new : List Byte) : List Byte :=
  (bs.take off ++ new ++ bs.drop (off + new.length)).take bs.length

/-- The elements of an image, eb bytes each. -/
def elemsOf (eb : Nat) (img : List Byte) : List Nat := (chunks eb img).map leNat

/-- The image of elements of eb bytes. -/
def imageOf (eb : Nat) (es : List Nat) : List Byte := es.flatMap (natLe eb)

/-- Element i of a vector register at s bytes (R215). -/
def lane (v : Vec) (i s : Nat) : Nat := (v.toNat >>> (8 * s * i)) % 2 ^ (8 * s)

/-- The register value of a list of elements of s bytes, element 0 first. -/
def lanesNat (s : Nat) (es : List Nat) : Nat :=
  match es with
  | [] => 0
  | e :: r => e % 2 ^ (8 * s) + 2 ^ (8 * s) * lanesNat s r

/-- The vector register of a list of elements. -/
def vecOf (s : Nat) (es : List Nat) : Vec := BitVec.ofNat 2048 (lanesNat s es)

/-- The n elements of a vector register at s bytes. -/
def lanesOf (s n : Nat) (v : Vec) : List Nat := (List.range n).map fun i => lane v i s

/-- The scalar's low s bytes in every element (R216). -/
def broadcast (s : Nat) (w : W64) : Vec := vecOf s (List.replicate (256 / s) w.toNat)

/-- The 256 bytes of a vector register, byte lane 0 first. -/
def bytesOfVec (v : Vec) : List Byte := natLe 256 v.toNat

/-- The vector register of up to 256 bytes. -/
def vecOfBytes (bs : List Byte) : Vec := BitVec.ofNat 2048 (leNat bs)

/-- The mask of byte lanes [a, a + n). -/
def laneMask (a n : Nat) : BitVec 256 := BitVec.ofNat 256 ((2 ^ n - 1) * 2 ^ a)

/-- The byte lanes of a register widened to bits. -/
def spreadLanes (m : BitVec 256) : Vec :=
  BitVec.ofNat 2048 (leNat ((List.range 256).map fun i => if m.getLsbD i then (255 : Byte) else 0))

/-- The register with the lanes of the mask taken from the new value (R217). -/
def mergeLanes (m : BitVec 256) (old new : Vec) : Vec :=
  if m = BitVec.allOnes 256 then new
  else
    let w := spreadLanes m
    (new &&& w) ||| (old &&& ~~~w)

end Sys2Proof.Machine
end

