-- ==== Sys2Proof/Config.lean ====
section
/-! DEFINITION. What the manual leaves to the implementation: constants the model fixes, each named in the assumption
log, and free values, opaque constants without a body, of which nothing can be proved. -/

namespace Sys2Proof.Config

/-- DESIGN CHOICE (log 4). Where several outcomes of a read or of an arrival order are allowed, the n-th choice. -/
opaque choose : Nat → Nat
/-- The home L2 slice of a tile-line: the hash is not published (R61, log 13). Read modulo 96. -/
opaque homeSlice : Nat → Nat → List Nat → Nat
/-- Which of the four translation units of a die makes a walk (R45, log 13). Read modulo 4. -/
opaque walkUnit : Nat → Nat → Nat
/-- The layer and bank of a DRAM burst: how addresses spread over them is not published (R46, R61, log 13). -/
opaque dramBank : Nat → Nat
/-- The detail word of the n-th error record: a syndrome, whose coding is not given (R382, log 20). -/
opaque syndrome : Nat → BitVec 32
/-- How many entries the n-th look finds in a queue whose filling the manual does not tie to a form: the copy-engine
request, slice miss overflow and die-to-die message queues (R342, log 26). -/
opaque queueLevel : Nat → Nat → Nat
/-- The `.policy` directives of the source of an image: for each data symbol named, its address, its size and whether its
policy is delivered. The image has no field for them (R13, Table 17-6, log 36). -/
opaque loadPolicy : List Byte → List (Nat × Nat × Bool)
/-- The static energy figure Es of a core, from calibration at boot (R367, log 14). -/
opaque staticEnergy : Nat → Nat
/-- Verification of an SLH-DSA-SHA2-128s signature: public key, message, signature (R370, R401, log 5). -/
opaque slhVerify : List Byte → List Byte → List Byte → Bool
/-- A signature made with the device key (R402, log 5). -/
opaque deviceSign : List Byte → List Byte
/-- The device public key, 32 bytes (R402, log 5). -/
opaque devicePublicKey : BitVec 256
/-- The firmware image in flash at manufacture (R401, log 5). -/
opaque factoryImage : List Byte
/-- The parts of a firmware image: its public key, its security version, what is signed, its signature. The manual gives
no layout (R401, log 5). -/
opaque firmwareKey : List Byte → List Byte
opaque firmwareVersion : List Byte → BitVec 32
opaque firmwareBody : List Byte → List Byte
opaque firmwareSignature : List Byte → List Byte
/-- The fused hash of the firmware key and the fused minimum of the security version (R401, log 5). -/
opaque fusedKeyHash : BitVec 256
opaque fusedMinVersion : BitVec 32
/-- Whether the deck tiles of a context by its name have lain in a bank: which granules a tile holds is not given (R43,
R65, log 11). -/
opaque deckHolds : Nat → Nat → Bool
/-- Which of its core's deck banks holds a tile, by the names of context and tile (R43, R46, log 11). Read modulo their
number. -/
opaque deckBank : Nat → Nat → Nat
/-- Whether the firmware is about to move a page at the n-th look (R356, log 22). -/
opaque firmwareMoves : Nat → Bool
/-- What a vector register of a bank that has held deck tiles reads as after a launch (R65, log 11). -/
opaque bankVec : Nat → Vec
/-- The outcome of the n-th self-test: which of its tests failed, failing units, microseconds (R388, log 17). -/
opaque selfTestFailed : Nat → BitVec 8
opaque selfTestUnits : Nat → BitVec 8
opaque selfTestMicros : Nat → BitVec 32
/-- Predicted life of a die in hours, its confidence, its limiting counter and its drift at the n-th sample
(R390, log 18). -/
opaque predictedHours : Nat → Nat → BitVec 32
opaque confidence : Nat → Nat → BitVec 8
opaque limiting : Nat → Nat → BitVec 8
opaque drift : Nat → Nat → BitVec 16
/-- Eye margin of a port's worst lane at the n-th sample (R390, log 18). -/
opaque eyeMargin : Nat → Nat → BitVec 8
/-- Whether the package's predicted power after a clock gain stays within 1,200 W, at the n-th question (R345, log 19). -/
opaque powerAllows : Nat → Bool

/-- DESIGN CHOICE (log 7): where the firmware places its own structures in device memory. The manual gives no address. -/
def journalHeader : Nat := 0x70_0000_0000
def journalRing : Nat := 0x70_0000_1000
def journalLcap : Nat := 16
def abortLogHeader : Nat := 0x70_0100_0000
def abortLogRing : Nat := 0x70_0200_0000
def abortLogLcap : Nat := 10
def errLogHeader : Nat := 0x70_0400_0000
def errLogRing : Nat := 0x70_0400_1000
def errLogLcap : Nat := 12
/-- Page tables, record tables and object pages that the firmware makes are taken upward from here (log 7). -/
def firmwarePool : Nat := 0x71_0000_0000
def firmwarePoolEnd : Nat := 0x7F_0000_0000
/-- DESIGN CHOICE (log 7, log 37): the areas to which saved contexts are written, 16 MiB each, and where the record tables
of the domains lie in device memory, 128 MiB each. -/
def saveArea : Nat := 0x50_0000_0000
def saveSlots : Nat := 7680
def recordTables : Nat := 0x6E_0000_0000
/-- DESIGN CHOICE (log 7): where a domain's record table lies in its virtual memory. -/
def recordTableVa : Nat := 0x1000_0000_0000

end Sys2Proof.Config
end

