-- ==== Sys2Proof/Machine/AList.lean ====
section
/-! DEFINITION. Sparse storage by key: a list of (key, value) pairs in one canonical form, keys strictly rising and no
entry equal to what an unlisted key reads as. Memory, register files and the machine's tables are held this way. -/

namespace Sys2Proof

/-- Sparse storage by key. -/
abbrev AL (α : Type) := List (Nat × α)

/-- The value at a key; an unlisted key reads as d. -/
def AL.get {α : Type} (d : α) (m : AL α) (k : Nat) : α :=
  match m with
  | [] => d
  | e :: r => if e.1 = k then e.2 else AL.get d r k

/-- Insert a pair before the first larger key. -/
def AL.ins {α : Type} (m : AL α) (k : Nat) (v : α) : AL α :=
  match m with
  | [] => [(k, v)]
  | e :: r => if k < e.1 then (k, v) :: e :: r else e :: AL.ins r k v

/-- The storage without any entry for a key. -/
def AL.del {α : Type} (m : AL α) (k : Nat) : AL α := m.filter fun e => e.1 != k

/-- Write a key: the value an unlisted key reads as removes the entry. -/
def AL.set {α : Type} [DecidableEq α] (d : α) (m : AL α) (k : Nat) (v : α) : AL α :=
  if v = d then AL.del m k else AL.ins (AL.del m k) k v

/-- The value at a key, when it is listed. -/
def AL.find {α : Type} (m : AL α) (k : Nat) : Option α := AL.get none (m.map fun e => (e.1, some e.2)) k

/-- Write a key of a table in which every entry is listed. -/
def AL.put {α : Type} (m : AL α) (k : Nat) (v : α) : AL α := AL.ins (AL.del m k) k v

/-- The canonical form: keys strictly rising, no entry equal to the default. -/
def AL.wf {α : Type} [DecidableEq α] (d : α) : AL α → Bool
  | [] => true
  | [e] => decide (e.2 ≠ d)
  | e :: f :: r => decide (e.2 ≠ d) && decide (e.1 < f.1) && AL.wf d (f :: r)

end Sys2Proof
end

