-- ==== Sys2Proof/Machine/State.lean ====
section
/-! DEFINITION. The state of one KW4-A1 package as plain data (02, 04, 07, 09, 10, 13, 16, 17, 19, 21), the reasons a
step can stop, and the state right after a package reset. -/

namespace Sys2Proof.Machine

/-! ## A context -/

/-- A code position: a segment's address and the index of a unit after its header (R122). -/
structure CodePos where
  seg  : Nat
  unit : Nat
  deriving DecidableEq, Repr

/-- A register that a result can land on (R133); none: the result is discarded (`s0`, `w0`, `p0`, `q0`, R132) and only
its events are posted as it would land (R109). -/
inductive Reg where
  | none
  | s (n : Nat)
  | v (n : Nat)
  | p (n : Nat)
  | q (n : Nat)
  | w (n : Nat)
  | xp (n : Nat)
  | fmt
  deriving DecidableEq, Repr

/-- A result in flight (R132, R135, R137). left is its landing tick less the present tick, which is also its offset in
the shadow result buffer; lanes are the byte lanes (or predicate bits) it writes; acc is the access that will supply
the value, 0 when the value is at hand; stats are the events to post when it lands (R109). -/
structure Pend where
  reg   : Reg
  left  : Nat
  val   : Vec
  lanes : BitVec 256
  xmask : BitVec 4 := 0
  ready : Bool := true
  acc   : Nat := 0
  stats : List (Nat × Nat) := []
  pos   : CodePos := ⟨0, 0⟩
  eng   : BitVec 8 := 0
  smask : BitVec 16 := 0
  /-- Whether its place in the shadow result buffer is poisoned (R381). -/
  bad   : Bool := false
  deriving DecidableEq, Repr

/-- The state of a repeat group (R126): repetition, count, step unit, and the group's own reference. -/
structure Rep where
  k     : Nat
  n     : Nat
  steps : Unit16
  deriving DecidableEq, Repr

/-- One entry of the hardware loop stack (R152). -/
structure LoopEntry where
  count : W64
  index : W64
  body  : CodePos
  endp  : CodePos
  deriving DecidableEq, Repr

/-- One half of the loop buffer: a segment as fetched (R127, R128), and the code generation at its fetch (R365). -/
structure Half where
  seg   : Nat
  hdr   : W64
  units : List Unit16
  gen   : BitVec 32
  deriving DecidableEq, Repr

/-- The tier that holds a tile (R240 to R243); none: not placed yet. -/
inductive Tier where
  | none
  | deck
  | pier
  | footing (slot : Nat)
  deriving DecidableEq, Repr

/-- A tile's storage: its size in bytes, its image once produced, and its tier (R237). -/
structure Tile where
  bytes : Nat
  img   : Option (List Byte)
  tier  : Tier
  deriving DecidableEq, Repr

/-- A stack entry or binding: a tile under a descriptor (R235, R237). -/
structure Entry where
  tile  : Nat
  rows  : Nat
  cols  : Nat
  fmt   : BitVec 6
  scale : Int
  deriving DecidableEq, Repr

/-- What a trap reports (Table 19-2). -/
structure TrapInfo where
  cause  : Nat
  aux    : W64 := 0
  faddr  : W64 := 0
  slots  : BitVec 8 := 0
  unit   : BitVec 32 := 0
  deriving DecidableEq, Repr

/-- Where an operation of the tile window stands (R246 to R248). -/
inductive OpStatus where
  | waiting
  | running (unit : Nat)
  | epilogue
  /-- A trestle form whose epilogue a vector-tile engine runs (R247, R265). -/
  | serving (unit : Nat)
  /-- A `GRAD` whose contributions are not all accepted yet (R106, log 22); a copy whose bytes are written and whose
  arrival or notice waits until no unwinding can cancel it (R285, R287, log 33). -/
  | sent
  | done
  | faulted (t : TrapInfo)
  deriving DecidableEq, Repr

/-- One operation of the tile window or of the tile replay list (R246, R250). -/
structure TOp where
  tseq    : Nat
  form    : Instr
  pos     : CodePos
  tick    : W64
  fmt     : W64
  params  : List W64
  binds   : List Entry
  plane   : Option Entry
  results : List Entry
  wit     : W64
  seq     : Option Nat
  /-- The agent whose number it is (R42, R251). -/
  agent   : Nat
  scope   : Nat
  record  : List Byte
  image   : List Byte
  status  : OpStatus
  stack0  : List Entry
  plane0  : Option Entry
  plane1  : Option Entry
  energy  : Nat
  stats   : List (Nat × Nat)
  eng     : BitVec 8
  /-- The epoch in which it took its number (R188). -/
  epoch   : Nat
  /-- Whether its witness input has been satisfied: it stays so (R313). -/
  sat     : Bool
  /-- How many elements it has written, where a transparent fault holds it up (R282). -/
  prog    : Nat
  /-- Where the context's tiles lay just before it issued (R250). -/
  place   : List (Nat × Tier)
  /-- The number that the next access had when it issued: an older access has a smaller one (R378). -/
  ord     : Nat
  /-- Whether it issued while its context held a capture: it is a handler's own (R138, R252). -/
  handler : Bool
  deriving DecidableEq, Repr

/-- A statistics record (R110). -/
structure StatRec where
  pos   : CodePos
  eng   : BitVec 8
  code  : Nat
  count : Nat
  deriving DecidableEq, Repr

/-- What a trap keeps apart of the interrupted stream (R138). -/
structure Capture where
  pend   : List Pend
  resume : CodePos
  rep    : Option Rep
  loops  : List LoopEntry
  replay : List TOp
  /-- Accesses with a smaller number belong to the interrupted stream (R378). -/
  before : Nat
  /-- Tiles with a smaller number belong to the interrupted stream (R244). -/
  tiles  : Nat
  /-- A barrier at which the interrupted stream is held: its arrival, and the witness of its release (R160). -/
  arrived : Option (Bool × Nat × W64)
  released : Option W64
  deriving DecidableEq, Repr

/-- Whether a context still issues (R166, R350). -/
inductive CtxStatus where
  | running
  | exited
  | aborted
  deriving DecidableEq, Repr

/-- A context (Table 2-9), with the kernel facts the hardware keeps apart from its registers. -/
structure Ctx where
  cid       : Nat
  task      : Nat
  inst      : Nat
  team      : Nat
  cnum      : Nat
  perTeam   : Nat
  teams     : Nat
  scratch   : Nat
  prio      : Nat
  status    : CtxStatus
  pc        : CodePos
  rep       : Option Rep
  halves    : List Half
  loops     : List LoopEntry
  s         : AL W64
  p         : AL (BitVec 256)
  q         : BitVec 32
  w         : AL W64
  xp        : AL (Vec × BitVec 4)
  fmt       : W64
  pend      : List Pend
  capture   : Option Capture
  tick      : W64
  swctx     : W64
  pd        : BitVec 6
  tlimit    : Nat
  trise     : Nat
  deckq     : BitVec 16
  pierq     : BitVec 24
  spillbase : W64
  spilllen  : W64
  ecount    : Nat
  esat      : Bool
  lk        : W64
  tvec      : W64
  trapbuf   : W64
  statbuf   : W64
  codegen   : BitVec 32
  stack     : List Entry
  tiles     : AL Tile
  nextTile  : Nat
  plane0    : Option Entry
  plane1    : Option Entry
  window    : List TOp
  /-- The tiles that the operations most recently issued bind and push, newest operation first (R240). -/
  recent    : List (List Entry)
  tseq      : Nat
  /-- The model's own: how many bundles it has issued. -/
  issues    : Nat
  bt        : AL BundleWord
  btPend    : List (Nat × Nat × BundleWord)
  statq     : List StatRec
  /-- Records dropped at a full queue and not yet counted in the buffer's lost field (R343). -/
  lost      : Nat
  /-- The chunks of 4 KiB that its statistics queue has been given (R343). -/
  statChunks : Nat
  held      : Bool
  arrived   : Option (Bool × Nat × W64)
  released  : Option W64
  swWait    : Option (Nat × BitVec 32)
  swRel     : Option W64
  /-- The physical key of the word that a held `SWWAIT` translated when its hold began (R207). -/
  swKey     : Option Nat
  /-- The wheel time of the context's last sequentially consistent stamp, plus one; 0: none yet (R199). -/
  scLast    : Nat
  yieldPass : Bool
  /-- The reference cycle of its `YIELD`, and the contexts of its core that have issued a bundle since (R162). -/
  yieldAt   : Nat
  yieldSeen : List Nat
  /-- Its wait count, and the reference cycle that it last counted, plus one (R341). -/
  waitCount : Nat
  waitAt    : Nat
  floor     : W64
  floorEp   : Nat
  /-- Whether the first bundle since launch or resumption has not issued, so that the floor is waited for (R316). -/
  floorWait : Bool
  /-- Whether a fault was left at a save, to be delivered at resumption (R346). -/
  late      : Bool
  /-- A `TRAP` or `BRK` whose handler could not be reached yet: cause, bundle and tick. -/
  pendTrap  : Option (TrapInfo × CodePos × W64)
  /-- A fault met by a replay, to be raised once the operations replayed before it are complete, with its operation and
  every younger one (R250, R251). -/
  refault   : Option (TrapInfo × List TOp)
  /-- Whether it issues no more, to be saved (R346); whether the banks it has bound are still to be vacated (R44). -/
  stopped   : Bool
  vacating  : Bool
  deriving DecidableEq, Repr

/-! ## Memory -/

/-- What a leaf gives for one 64 KiB of virtual memory (R355). -/
structure PLeaf where
  pa     : Nat
  r      : Bool
  w      : Bool
  x      : Bool
  target : Nat
  port   : Nat
  policy : Bool
  deriving DecidableEq, Repr

/-- A tile-line in L2 (R62, R276, R315, R357). Its bytes are those of memory as they stood at its fill: kept holds,
by physical key, the bytes memory has since changed, and dirty the bytes stored through the line and not yet in
memory. -/
structure L2Line where
  dom    : Nat
  id     : Nat
  coords : List Nat
  maps   : AL PLeaf
  stamp  : Nat
  aged   : Bool
  prio   : Nat
  locks  : List Nat
  dirty  : AL Byte
  kept   : AL Byte
  /-- The record copy it was filled under (R325); empty for a flat line. -/
  via    : List Byte
  deriving DecidableEq, Repr

/-- A tile-line in a core's L1: the L2 line as it stood at the fill, kept holding the bytes that have changed since.
stamp is the closed epoch at its own fill, home the stamp its L2 line had then (R315, log 28); bad holds its poisoned
words (R381). -/
structure L1Line where
  core   : Nat
  dom    : Nat
  id     : Nat
  coords : List Nat
  maps   : AL PLeaf
  stamp  : Nat
  aged   : Bool
  kept   : AL Byte
  home   : Nat
  via    : List Byte
  bad    : List Nat
  deriving DecidableEq, Repr

/-- What an access of the M slot does (Table 7-1). -/
inductive AKind where
  | load
  | store
  | atomic (op : Nat)
  | swinit
  | swarr
  | swpoll
  | llock
  | lunlock
  | xpld
  | launch
  /-- A statistics record, with how many were dropped before it (R343). -/
  | stat (r : StatRec) (lost : Nat)
  /-- A write an engine has performed: the lines (tensor, coordinates) it wrote. -/
  | engine (lines : List (Nat × List Nat))
  deriving DecidableEq, Repr

/-- An M-slot access that has been issued and is not yet performed and visible everywhere (R184, R309). parts are the
addresses it touches, each with the first byte lane and the size there; level is 0 before it is performed, 3 once it
is performed at its home, 4 once in DRAM. -/
structure Access where
  id    : Nat
  agent : Nat
  cid   : Nat
  dom   : Nat
  kind  : AKind
  sp    : Bool
  va    : Nat
  parts : List (Nat × Nat × Nat)
  size  : Nat
  sx    : Bool
  ord   : Nat
  wit   : W64
  scope : Nat
  evict : Nat
  data  : Vec
  data2 : W64
  lanes : BitVec 256
  dest  : Option Reg
  seq   : Option Nat
  pos   : CodePos
  tick  : W64
  fmt   : W64
  level : Nat
  kept  : Bool
  stamp : Option Nat
  core  : Nat
  /-- The agent whose number seq is: the slot it was issued from (R42). -/
  owner : Nat
  /-- Whether its witness input has been satisfied: it stays so (R313). -/
  sat   : Bool
  /-- Whether `TRET` has let it go on after a trap kept it: such accesses are performed in issue order (R184). -/
  redo  : Bool := false
  /-- The floor of its context at its issue, and that floor's epoch as a count (R316). -/
  floor   : W64 := 0
  floorEp : Nat := 0
  deriving DecidableEq, Repr

/-- A form of an agent that took a sequence number and is not yet visible at system scope, or has failed (R188, R312). -/
structure FormRec where
  agent  : Nat
  dom    : Nat
  seq    : Nat
  epoch  : Nat
  wscope : Nat
  level  : Nat
  failed : Bool
  cid    : Nat
  deriving DecidableEq, Repr

/-- An arrival on its way to a sync word (R204, R407): who makes it decides what its failure means. -/
structure Arrival where
  id     : Nat
  dom    : Nat
  sp     : Bool
  va     : Nat
  cid    : Nat
  bytes  : Nat
  wit    : W64
  agent  : Nat
  seq    : Nat
  detail : Nat
  after  : Bool
  epoch  : Nat
  fmt    : W64
  pos    : CodePos
  /-- The instance and span of an `SWARR`'s context, for the clock steps of R345 (none for an engine's arrival). -/
  src    : Option (Nat × Nat × Nat)
  /-- The floor of the form's context, as the reads of the arrival use it (R316). -/
  floor  : W64
  deriving DecidableEq, Repr

/-! ## Update units, collectives, notices, record caches -/

/-- One block of 32 elements of a gradient accumulator (R103); st is 0 none, 1 +infinity, 2 -infinity, 3 NaN. -/
structure AccBlock where
  x  : Int
  m  : List Int
  st : List Nat
  deriving DecidableEq, Repr

/-- One contribution to a gradient line (R104 to R106, R295): 512 FP32 elements. -/
structure Contribution where
  dom    : Nat
  tensor : Nat
  coords : List Nat
  data   : List (BitVec 32)
  /-- The scale exponent of the tile (R79). -/
  scale  : Int
  idx    : Nat
  fmt    : W64
  agent  : Nat
  seq    : Nat
  cid    : Nat
  pos    : CodePos
  record : List Byte
  deriving DecidableEq, Repr

/-- A gradient line in progress (R103, R106). -/
structure GradLine where
  dom     : Nat
  tensor  : Nat
  coords  : List Nat
  record  : List Byte
  blocks  : List AccBlock
  count   : Nat
  next    : Nat
  reorder : List Contribution
  used    : List Nat
  fmt     : W64
  cid     : Nat
  pos     : CodePos
  /-- Whether an uncorrectable error has poisoned its accumulator (R381). -/
  bad     : Bool
  deriving DecidableEq, Repr

/-- A collective taken by an engine (R298 to R301). -/
structure Collective where
  dom    : Nat
  op     : Nat
  fmt    : BitVec 6
  n      : Nat
  srcs   : List Nat
  dsts   : List Nat
  sync   : Nat
  wit    : W64
  floor  : W64
  engine : Nat
  seq    : Nat
  cid    : Nat
  core   : Nat
  /-- The epoch in which it took its number (R188). -/
  epoch  : Nat
  /-- Whether its witness input has been satisfied: it stays so (R313). -/
  sat    : Bool
  deriving DecidableEq, Repr

/-- A notice to append once a TSENDQ's last byte is visible (R285). -/
structure Notice where
  dom    : Nat
  header : Nat
  tag    : W64
  bytes  : Nat
  agent  : Nat
  seq    : Nat
  scope  : Nat
  cid    : Nat
  /-- The floor of the form's context (R316), and the epoch in which the form took its number. -/
  floor  : W64
  epoch  : Nat
  deriving DecidableEq, Repr

/-- A record in a die's record cache, most recently used first (R274). -/
structure RecEntry where
  die   : Nat
  dom   : Nat
  id    : Nat
  bytes : List Byte
  deriving DecidableEq, Repr

/-- A record drop in progress (R210, R325, R337): by a context's RCFENCE or by a fence task. -/
structure Drop where
  dom   : Nat
  id    : Nat
  wit   : W64
  agent : Nat
  seq   : Nat
  cid   : Nat
  task  : Nat
  /-- The name, bundle and tick of an `RCFENCE`, for a late fault (R191, R376). -/
  name  : Nat
  pos   : CodePos
  tick  : W64
  /-- Whether its witness has been satisfied: it stays so (R313). -/
  sat   : Bool
  deriving DecidableEq, Repr

/-- A provenance latch (R293): false stashed, true recomputed. -/
structure Latch where
  task   : Nat
  inst   : Nat
  id     : Nat
  recomp : Bool
  deriving DecidableEq, Repr

/-! ## Tasks -/

/-- A command queue (Table 16-3). -/
structure QueueSt where
  base   : Nat
  lsize  : Nat
  dom    : Nat
  enable : Bool
  head   : Nat
  tail   : Nat
  deriving DecidableEq, Repr

/-- The states of a task (Table 16-1). -/
inductive TState where
  | accepted
  | placed
  | running
  | completed
  | failed
  | cancelled
  deriving DecidableEq, Repr

/-- A task (R332 to R337, R349). -/
structure Task where
  id      : Nat
  queue   : Nat
  tag     : BitVec 32
  kind    : Nat
  prio    : Nat
  preds   : Nat
  held    : Bool
  succs   : List (BitVec 32 × Nat)
  payload : List Byte
  dom     : Nat
  wit     : W64
  state   : TState
  cls     : Nat
  detail  : Nat
  hash    : W64
  next    : Nat
  count   : Nat
  storeFault : Bool
  formFault  : Nat
  cause   : Nat
  cancel  : Bool
  /-- The end that waits for a free credit: state, class, detail and hash (R336). -/
  ending  : Option (TState × Nat × Nat × W64)
  deriving DecidableEq, Repr

/-- A kernel descriptor (Table 17-5). -/
structure Kernel where
  entry   : CodePos
  bundles : List BundleWord
  perTeam : Nat
  teams   : Nat
  scratch : Nat
  pier    : Nat
  deck    : Nat
  stack   : Nat
  deriving DecidableEq, Repr

/-- A loaded object (R362 to R364). -/
structure Obj where
  dom     : Nat
  handle  : Nat
  hash    : BitVec 256
  kernels : List Kernel
  /-- The pages mapped for the object: virtual address, physical address, code. -/
  pages   : List (Nat × Nat × Bool)
  records : List Nat
  /-- The generation an unload raised, once it has unmapped the object. -/
  gone    : Option (BitVec 32)
  deriving DecidableEq, Repr

/-- Where a gang instance stands (R338, R346 to R348). -/
inductive InstStatus where
  | ready
  | placed
  | saved
  | retired
  | aborted
  deriving DecidableEq, Repr

/-- A member context of a placed instance. -/
structure Member where
  team   : Nat
  cnum   : Nat
  agent  : Nat
  cid    : Nat
  exited : Bool
  deriving DecidableEq, Repr

/-- A gang instance of a task. -/
structure GInst where
  task    : Nat
  num     : Nat
  dom     : Nat
  kernel  : Kernel
  args    : W64
  status  : InstStatus
  prio    : Nat
  eff     : Nat
  since   : Nat
  die     : Nat
  span    : Nat
  core    : Nat
  members : List Member
  images  : List Ctx
  /-- The vector registers of a saved context: its number, the register, the value (R50). -/
  vregs   : List (Nat × Nat × Vec)
  shares  : List (Nat × Nat × AL Byte)
  saveWit : W64
  /-- Poison of saved storage: its kind (0 a share, 1 a bundle table, 3 vector registers), team, context and place (R381). -/
  bad     : List (Nat × Nat × Nat × Nat)
  steps   : AL Int
  /-- The save areas of its images, by number (R346). -/
  areas   : List Nat
  /-- The names of the contexts that arrived first and last at each gang barrier (R345). -/
  first   : AL Nat
  last    : AL Nat
  deriving DecidableEq, Repr

/-- A scratchpad share of a team context (R58, R348, R352). -/
structure Share where
  task  : Nat
  inst  : Nat
  team  : Nat
  k     : Nat
  core  : Nat
  base  : Nat
  size  : Nat
  dom   : Nat
  live  : Bool
  deriving DecidableEq, Repr

/-- A packet in a hardware launch queue (R212, R342). -/
structure LaunchPkt where
  queue : Nat
  bytes : List Byte
  wit   : W64
  dom   : Nat
  agent : Nat
  seq   : Nat
  /-- The count of units at which it stands in its queue's ring, once it is there. -/
  place : Option Nat
  deriving DecidableEq, Repr

/-- A credit of the keystone (R336): kind 0 decrement, 1 cancel, 2 release. -/
structure Credit where
  kind  : Nat
  queue : Nat
  tag   : BitVec 32
  deriving DecidableEq, Repr

/-! ## The package -/

/-- What the firmware holds for a protection domain (R351 to R370, R406). -/
structure Domain where
  root    : Nat := 0
  recBase : Nat := Config.recordTableVa
  key     : Option (List Byte) := none
  dies    : BitVec 4 := 15
  excl    : BitVec 2 := 0
  energy  : BitVec 64 := 0
  sat     : Nat := 0
  deriving DecidableEq, Repr

/-- A register-memory bank: the domain of its last holder, and whether it has served as deck since (R65). -/
structure Bank where
  dom  : Option Nat := none
  deck : Option Nat := none
  deriving DecidableEq, Repr

/-- Cycles for which a context held a slot of a core in the present interval (R367, R371). -/
structure Resid where
  core   : Nat
  cid    : Nat
  dom    : Nat
  cycles : Nat
  deriving DecidableEq, Repr

/-- An entry of the wear history in flash (R390, R391): the cycle, the die, its predicted hours, confidence and limiting
counter, and its derate in steps. -/
structure Wear where
  cycle  : Nat
  die    : Nat
  hours  : BitVec 32
  conf   : BitVec 8
  limit  : BitVec 8
  derate : Nat
  deriving DecidableEq, Repr

/-- Errors of one unit and kind to be coalesced (R382). -/
structure ErrCount where
  unit  : BitVec 32
  kind  : Nat
  addr  : Nat
  dom   : Nat
  count : Nat
  deriving DecidableEq, Repr

/-- The issue state of a core (R340, R341) and of its engines (R247). -/
structure CoreSt where
  last    : Option Nat := none
  turn    : Nat := 3
  /-- The context that receives the issue of the next cycle since its wait count has reached its bound (R341). -/
  grant   : Option Nat := none
  rrTrestle : Nat := 0
  rrVt0     : Nat := 0
  rrVt1     : Nat := 0
  rrTxp     : Nat := 0
  rrCopy    : Nat := 0
  rrGrind   : Nat := 0
  rrUpdate  : Nat := 0
  rrColl    : Nat := 0
  /-- The context that has the issue of the present cycle of the span's clock and has not issued yet (R340). -/
  chosen    : Option Nat := none
  /-- The reference cycle in which the issue was last given, and how many times in it (R340, R341). -/
  issued    : Option (Nat × Nat) := none
  epi     : List (Nat × Nat) := []
  codegen : BitVec 32 := 0
  loaded  : Option (Nat × Nat) := none
  deriving DecidableEq, Repr

/-- The whole package. -/
structure State where
  -- the model's own: the schedule, the agent whose bundle is issued, the counters behind free values and names
  events  : List Instr
  cur     : Nat
  choices : Nat
  nextId  : Nat
  /-- Counts the steps that the schedule policy chose (log 1). -/
  rotor   : Nat
  -- contexts, cores and their memories
  ctxs    : AL Ctx
  cores   : AL CoreSt
  regmem  : AL Vec
  banks   : AL Bank
  l1      : List L1Line
  shares  : List Share
  resid   : List Resid
  -- memory
  mem     : AL Byte
  l2      : List L2Line
  poison  : List Nat
  accs    : List Access
  arrivals : List Arrival
  /-- For a sync word with arrivals in its generation: the instance and the context of the first, when every one was an
  `SWARR` of that instance (R345). -/
  swFirst : List (Nat × Option (Nat × Nat × Nat))
  -- the keystone
  cycle   : Nat
  epoch   : Nat
  closed  : AL Nat
  wheel   : Nat
  rev     : Nat
  lastSeq : AL Nat
  forms   : List FormRec
  recs    : List RecEntry
  drops   : List Drop
  latches : List Latch
  grads   : List Contribution
  lines   : List GradLine
  colls   : List Collective
  notices : List Notice
  queues  : AL QueueSt
  /-- The queue that the command stream processor visits next (R334). -/
  visit   : Nat
  tasks   : List Task
  insts   : List GInst
  credits : List Credit
  launchQ : List LaunchPkt
  objs    : List Obj
  doms    : AL Domain
  backing : List (Nat × Nat × Nat × W64)
  codegen : BitVec 32
  poolPtr : Nat
  poolFree : List Nat
  -- units, errors and counters
  withdrawn : List (Nat × Nat)
  derate  : AL Nat
  narrow  : List Nat
  thresh  : AL Nat
  dramCnt : AL Nat
  sramCnt : AL Nat
  retries : AL Nat
  retrains : AL Nat
  eye     : AL (BitVec 8)
  hours   : AL (BitVec 32)
  conf    : AL (BitVec 8)
  limit   : AL (BitVec 8)
  driftOf : AL (BitVec 16)
  samples : Nat
  /-- How many boundaries have had their shares of static energy (R367), their records of corrected errors (R382) and their
  sample of the counters (R390): each comes once at its boundary. -/
  shareNum  : Nat
  errNum    : Nat
  sampleNum : Nat
  errs    : List ErrCount
  chunks  : List (Nat × Nat)
  /-- The reference cycle of each die's last progress (R343). -/
  worked  : AL Nat
  tests   : Nat
  -- the host's side
  ready   : Bool
  recovery : Bool
  marg    : W64
  mresult : BitVec 8
  /-- The mailbox command that runs while busy is set, and whether the change of an entry it asks for is in progress
  (R356, R403, R404). -/
  mcmd    : Option (BitVec 64 × Bool)
  hostUp  : Bool
  hostDown : Nat
  /-- The reference cycle at which the host link went down (R400). -/
  hostSince : Nat
  portsDown : List Nat
  flash   : List Byte
  /-- The wear history in flash (R390). -/
  wear    : List Wear
  /-- The firmware image that runs (R401, R402). -/
  image   : List Byte
  debugger : List Nat
  deriving DecidableEq, Repr

/-- Why the machine cannot go on. -/
inductive Fault where
  /-- Raised by the meaning of a slot form when the state's current agent names no resident context that is running:
  no bundle of such a context exists, so the form has no issuing context. Safe: no hardware state corresponds. -/
  | noIssuer
  deriving DecidableEq, Repr

/-- Why a step has no meaning. -/
inductive Refusal where
  /-- Raised by the dispatch for an instruction that the model gives no meaning to yet. Safe: nothing is claimed. -/
  | notModelled (mnemonic : String)
  deriving DecidableEq, Repr

/-- The package right after a package reset (R65, R188, R312, R364, R390, R400, R401): nothing resident, caches empty,
counters cleared, queues disabled, not yet booted. The values the manual does not give are those of log 9. -/
def State.reset : State where
  events := []
  cur := 0
  choices := 0
  nextId := 1
  rotor := 0
  ctxs := []
  cores := []
  regmem := []
  banks := []
  l1 := []
  shares := []
  resid := []
  mem := []
  l2 := []
  poison := []
  accs := []
  arrivals := []
  swFirst := []
  cycle := 0
  epoch := 0
  closed := []
  wheel := 0
  rev := 0
  lastSeq := []
  forms := []
  recs := []
  drops := []
  latches := []
  grads := []
  lines := []
  colls := []
  notices := []
  queues := []
  visit := 0
  tasks := []
  insts := []
  credits := []
  launchQ := []
  objs := []
  doms := []
  backing := []
  codegen := 0
  poolPtr := Config.firmwarePool
  poolFree := []
  withdrawn := []
  derate := []
  narrow := []
  thresh := []
  dramCnt := []
  sramCnt := []
  retries := []
  retrains := []
  eye := []
  hours := []
  conf := []
  limit := []
  driftOf := []
  samples := 0
  shareNum := 0
  errNum := 0
  sampleNum := 0
  errs := []
  chunks := []
  worked := []
  tests := 0
  ready := false
  recovery := false
  marg := 0
  mresult := 0
  mcmd := none
  hostUp := true
  hostDown := 0
  hostSince := 0
  portsDown := []
  flash := Config.factoryImage
  wear := []
  image := []
  debugger := []

/-! ## The memory's canonical form -/

/-- What a byte that nothing has written reads as (log 2, log 3). DESIGN CHOICE. -/
def Memory.unlisted : Byte := 0

/-- The memory is in its canonical form: keys strictly rising, no entry equal to what an unlisted one reads as. -/
def Memory.wf (m : AL Byte) : Bool := AL.wf Memory.unlisted m

end Sys2Proof.Machine
end

