-- ==== Sys2Proof/Machine/Wit.lean ====
section
/-! DEFINITION. Witnesses and the witness directory (06 R178, 07 R187 to R190, 13 R308 to R314). -/

namespace Sys2Proof.Machine

/-! ## Slots (R42) -/

/-- The slot of a context's key. A context that still has operations in its window after its team has retired is kept
under a key apart, so that its slot is free (R348). -/
def slotOf (a : Nat) : Nat := a % 1024

/-- The key of a context that has given up its slot. -/
def orphanKey (a cid : Nat) : Nat := 1024 * (cid + 1) + slotOf a

/-- Whether a context holds its slot. -/
def holdsSlot (a : Nat) : Bool := decide (a < 1024)

/-- The core of a slot, counted over the package: die * 48 + span * 4 + core (R42). -/
def coreOf (a : Nat) : Nat := slotOf a / 4

/-- The span of a slot, counted over the package, and its die. -/
def spanOf (a : Nat) : Nat := slotOf a / 16
def dieOf (a : Nat) : Nat := slotOf a / 192

/-! ## The fields of a witness (Table 7-4) -/

def witForm (w : W64) : Nat := (w.extractLsb' 62 2).toNat
def witScope (w : W64) : Nat := (w.extractLsb' 59 3).toNat
def witDom (w : W64) : Nat := (w.extractLsb' 53 6).toNat
def witEpoch (w : W64) : Nat := (w.extractLsb' 31 22).toNat
def witAgent (w : W64) : Nat := (w.extractLsb' 21 10).toNat
def witSeq (w : W64) : Nat := (w.extractLsb' 0 21).toNat

/-- A witness of the given fields. -/
def mkWit (form scope dom epoch agent seq : Nat) : W64 :=
  BitVec.ofNat 2 form ++ BitVec.ofNat 3 scope ++ BitVec.ofNat 6 dom ++ BitVec.ofNat 22 epoch ++
    BitVec.ofNat 10 agent ++ BitVec.ofNat 21 seq

/-- x is later than y in an n-bit field (R178). -/
def laterIn (n x y : Nat) : Bool :=
  let d := (x % 2 ^ n + 2 ^ n - y % 2 ^ n) % 2 ^ n
  decide (1 ≤ d) && decide (d < 2 ^ (n - 1))

/-- A failed witness of the given fields (R187, R297). -/
def failWit (w : W64) : W64 := mkWit 3 (Nat.max (witScope w) 1) (witDom w) (witEpoch w) (witAgent w) (witSeq w)

/-- A witness as the K4 writes it (R187): null is 0, and no failed one has scope 0. -/
def normWit (w : W64) : W64 := if witForm w = 0 then 0 else if witForm w = 3 then failWit w else w

/-- merge(a, b) of R178. What it writes is as the K4 writes witnesses (R187): null is 0, and no failed one has scope 0,
whichever of the rule's lines it comes from (DEDUCED, log 22). -/
def witMerge (a b : W64) : W64 :=
  if witForm a = 0 then normWit b
  else if witForm b = 0 then normWit a
  else if witForm a = 3 then normWit a
  else if witForm b = 3 then normWit b
  else if witDom a ≠ witDom b then failWit a
  else
    let e := if laterIn 22 (witEpoch b) (witEpoch a) then witEpoch b else witEpoch a
    if witForm a = 1 ∧ witForm b = 1 ∧ witAgent a = witAgent b then
      let q := if laterIn 21 (witSeq b) (witSeq a) then witSeq b else witSeq a
      mkWit 1 (Nat.max (witScope a) (witScope b)) (witDom a) e (witAgent a) q
    else mkWit 2 (Nat.max (Nat.max (witScope a) (witScope b)) 4) (witDom a) e 0 0

/-! ## Sequence numbers (R188, R190) -/

/-- The key of an agent's count: a context slot has one, a system agent one for each domain. -/
def seqKey (agent dom : Nat) : Nat := if agent < 768 then agent else agent + 1024 * (dom + 1)

/-- The last number an agent took; 0 when it has taken none. -/
def State.lastOf (s : State) (agent dom : Nat) : Nat := AL.get 0 s.lastSeq (seqKey agent dom)

/-- The number that follows: 1, 2, ..., 2^21 - 1, then 1 again. -/
def nextSeq (n : Nat) : Nat := if n ≥ 2 ^ 21 - 1 then 1 else n + 1

/-- An agent takes its next number for a form of a domain, with the scope of the form's witness (R188, R190). -/
def State.takeSeq (s : State) (agent dom wscope cid : Nat) : State × Nat :=
  let n := nextSeq (s.lastOf agent dom)
  ({ s with
      lastSeq := AL.set 0 s.lastSeq (seqKey agent dom) n
      forms := s.forms ++ [⟨agent, dom, n, s.epoch, wscope, 0, false, cid⟩] }, n)

/-- The single witness of a number taken (R188). -/
def State.singleWit (s : State) (scope dom agent seq : Nat) : W64 :=
  mkWit 1 (Nat.max scope 1) dom (s.epoch % 2 ^ 22) agent seq

/-- The level that visibility at a scope needs (Table 13-2). -/
def scopeLevel (sc : Nat) : Nat := if sc ≤ 3 then 3 else if sc = 4 then 4 else 5

/-- Whether a form record is the form with a number of an agent. -/
def FormRec.isForm (f : FormRec) (agent dom seq : Nat) : Bool :=
  f.agent == agent && f.seq == seq && (agent < 768 || f.dom == dom)

/-- A form is now visible at a level; at level 5 the directory forgets it. -/
def State.formLevel (s : State) (agent dom seq lvl : Nat) : State :=
  { s with forms := s.forms.filterMap fun f =>
      if f.isForm agent dom seq && !f.failed then
        (if lvl ≥ 5 then none else some { f with level := Nat.max f.level lvl })
      else some f }

/-- The forms of a slot that are not yet visible at package scope (R189). -/
def State.outstanding (s : State) (agent dom : Nat) : Nat :=
  (s.forms.filter fun f => f.agent == agent && (agent < 768 || f.dom == dom) && !f.failed && f.level < 4).length

/-! ## Epochs (R312) -/

/-- The number of closed epochs of a domain at scope 4 or 5: epochs below it are closed. -/
def State.closedOf (s : State) (dom scope : Nat) : Nat := AL.get 0 s.closed (dom * 2 + (scope - 4))

/-- How far the epoch of a witness lies behind the current one, 22 bits. -/
def State.epochAge (s : State) (e : Nat) : Nat := (s.epoch % 2 ^ 22 + 2 ^ 22 - e % 2 ^ 22) % 2 ^ 22

/-- The epoch a witness names as a count from package reset; none before it. -/
def State.epochAbs (s : State) (e : Nat) : Option Nat :=
  if s.epochAge e ≤ s.epoch then some (s.epoch - s.epochAge e) else none

/-- Whether the epoch e of a witness is closed for a domain at a scope of 4 or 5. -/
def State.epochClosed (s : State) (dom scope e : Nat) : Bool :=
  match s.epochAbs e with
  | none => true
  | some n => decide (n < s.closedOf dom scope)

/-- Whether a form holds an epoch open at scope s (R312). -/
def FormRec.holdsOpen (f : FormRec) (scope : Nat) : Bool :=
  !f.failed && decide (f.level < scopeLevel (Nat.min scope f.wscope))

/-- Whether the next epoch of a domain may be closed at a scope (R312): the count has passed it, and every form of the
domain that took a number in it or earlier is visible at min(s, its witness's scope) or has failed. -/
def State.canClose (s : State) (dom scope : Nat) : Bool :=
  let e := s.closedOf dom scope
  decide (e < s.epoch) && s.forms.all fun f => !(f.dom == dom && decide (f.epoch ≤ e) && f.holdsOpen scope)

/-! ## The checks of Table 13-3 (R314) -/

/-- Whether a loader at the place of a context slot lies inside the issuer's scope domain (Table 13-1). -/
def inScope (sc issuer place : Nat) : Bool :=
  if issuer ≥ 768 then true
  else match sc with
    | 1 => coreOf issuer == coreOf place
    | 2 => spanOf issuer == spanOf place
    | 3 => dieOf issuer == dieOf place
    | _ => true

/-- Whether a form is numbered n or earlier (R178, R313). -/
def seqCovers (n q : Nat) : Bool := q % 2 ^ 21 == n % 2 ^ 21 || laterIn 21 n q

/-- Whether a witness covers a form. Forms of other domains are never covered (F12). -/
def State.covers (s : State) (w : W64) (f : FormRec) : Bool :=
  f.dom == witDom w &&
    (if witForm w = 1 then witSeq w != 0 && f.agent == witAgent w && seqCovers (witSeq w) f.seq
     else match s.epochAbs (witEpoch w) with
       | none => false
       | some e => decide (f.epoch ≤ e))

/-- What the directory answers. -/
inductive WitAns where
  | fault (cause : Nat)
  | satisfied
  | waiting
  deriving DecidableEq, Repr

/-- Whether a witness can no longer be satisfied: it is failed, or it covers a form that has failed. -/
def State.witFailed (s : State) (w : W64) : Bool :=
  witForm w == 3 || (witForm w != 0 && s.forms.any fun f => f.failed && s.covers w f)

/-- The checks of Table 13-3 in order, for a loader at a slot's place and of a domain; none when all pass. -/
def State.witFault (s : State) (place pd : Nat) (w : W64) : Option Nat :=
  if witForm w = 3 then some 0x33
  else if witForm w = 0 then none
  else if witScope w = 0 ∨ witScope w > 5 ∨ (witForm w = 2 ∧ witScope w < 4) then some 0x34
  else if witDom w ≠ pd then some 0x32
  else if witForm w = 1 ∧ !inScope (witScope w) (witAgent w) place then some 0x31
  else if laterIn 22 (witEpoch w) s.epoch ∨ s.epochAge (witEpoch w) > 2050781 then some 0x30
  else if witForm w = 1 ∧ witSeq w ≠ 0 ∧ (s.lastOf (witAgent w) (witDom w) = 0 ∨
      laterIn 21 (witSeq w) (s.lastOf (witAgent w) (witDom w))) then some 0x34
  else if s.witFailed w then some 0x33
  else none

/-- Satisfaction of a witness (R313); one that covers a failed form is never satisfied (Table 13-3). -/
def State.witSat (s : State) (w : W64) : Bool :=
  match witForm w with
  | 0 => true
  | 1 =>
    !s.witFailed w && (witSeq w == 0 || s.epochClosed (witDom w) (Nat.max (witScope w) 4) (witEpoch w) ||
      s.forms.all fun f => !(s.covers w f && decide (f.level < scopeLevel (witScope w))))
  | 2 => !s.witFailed w && s.epochClosed (witDom w) (witScope w) (witEpoch w)
  | _ => false

/-! ## What waits for itself (log 39) -/

/-- Whether two accesses go to one home or touch one scratchpad byte (R311). The packet of a `LAUNCH` may reach into a
second line. -/
def Access.meets (x y : Access) : Bool :=
  let last := fun (z : Access) => match z.kind with
    | .launch => (z.va + 255) / 2048
    | _ => z.va / 2048
  if x.sp && y.sp then
    x.parts.any fun p => y.parts.any fun q => decide (p.1 < q.1 + q.2.2) && decide (q.1 < p.1 + p.2.2)
  else !x.sp && !y.sp && x.dom == y.dom && decide (x.va / 2048 ≤ last y) && decide (y.va / 2048 ≤ last x)

/-- Whether an access is not performed before another of its context is: to one place (R311), or of those that `TRET` has
let go on (R184). -/
def Access.after (y x : Access) : Bool :=
  y.cid == x.cid && decide (x.id < y.id) && y.level == 0 && (y.meets x || (y.redo && x.redo))

/-- The forms that cannot be performed before a witness is satisfied, each with its agent, domain, number and the witness:
drops of records, packets to be read and accesses behind a load that waits, operations of the windows and those behind
them. -/
def State.waitingForms (s : State) : List (Nat × Nat × Nat × W64) :=
  let open_ := fun (o : TOp) => o.status == .waiting && !o.sat && witForm o.wit != 0
  (s.drops.filterMap fun d => if d.sat || d.task != 0 then none else some (d.agent, d.dom, d.seq, d.wit)) ++
    ((s.accs.filter fun x => x.level == 0 && !x.sat && x.kind != .swarr && witForm x.wit != 0).flatMap fun x =>
      s.accs.filterMap fun y => if y.id == x.id || y.after x then y.seq.map fun q => (y.owner, y.dom, q, x.wit) else none) ++
    s.ctxs.flatMap fun e => (e.2.window.filter open_).flatMap fun y => e.2.window.filterMap fun o =>
      if y.tseq ≤ o.tseq then o.seq.map fun q => (o.agent, e.2.pd.toNat, q, y.wit) else none

/-- Whether a form waits for one of others: a witness that it waits for covers that one, or, a tile form, its operation
stands behind a drop of its context (R210) or an operation of its window. -/
def State.waitsForOne (s : State) (l : List FormRec) (f : FormRec) : Bool :=
  (s.waitingForms.any fun w => f.isForm w.1 w.2.1 w.2.2.1 && l.any fun g => s.covers w.2.2.2 g) ||
    s.ctxs.any fun e => e.2.window.any fun o =>
      (o.seq.any fun q => f.isForm o.agent e.2.pd.toNat q) &&
        ((s.drops.any fun d => d.task == 0 && d.cid == e.2.cid && decide (d.name < o.ord) &&
            l.any fun g => g.isForm d.agent d.dom d.seq) ||
          e.2.window.any fun y => decide (y.tseq < o.tseq) &&
            y.seq.any fun q => l.any fun g => g.isForm y.agent e.2.pd.toNat q)

/-- The forms that wait for one of the given, directly or by way of others: n rounds. -/
def State.waitersOf (s : State) : Nat → List FormRec → List FormRec
  | 0, l => l
  | n + 1, l => s.waitersOf n (l ++ s.forms.filter fun f => !l.contains f && s.waitsForOne l f)

/-- Whether the epoch that a witness names would be closed but for the loader's own form and those that wait for the
loader: what waits for itself would hold its epoch open for ever, which R307 excludes, as timing changes the time between
ticks only (DESIGN CHOICE, log 39). own says which forms are the loader's, or stand behind it. -/
def State.ownSat (s : State) (dom : Nat) (own : FormRec → Bool) (w : W64) : Bool :=
  witForm w == 2 && !s.witFailed w && (match s.epochAbs (witEpoch w) with
    | none => true
    | some e => decide (e < s.epoch) &&
      (let l := s.waitersOf s.forms.length (s.forms.filter own)
       s.forms.all fun f => !(f.dom == dom && decide (f.epoch ≤ e) && f.holdsOpen (witScope w)) || l.contains f))

/-- Whether the witness of a drop is satisfied, that of an access, and that of an operation of a window. -/
def State.dropSat (s : State) (d : Drop) : Bool :=
  d.sat || s.witSat d.wit || (d.task == 0 && s.ownSat d.dom (fun f => f.isForm d.agent d.dom d.seq) d.wit)
def State.accSat (s : State) (x : Access) : Bool :=
  x.sat || s.witSat x.wit || s.ownSat x.dom (fun f => s.accs.any fun y =>
    (y.id == x.id || y.after x) && y.seq.any fun q => f.isForm y.owner y.dom q) x.wit
def State.opSat (s : State) (c : Ctx) (o : TOp) : Bool :=
  o.sat || s.witSat o.wit || s.ownSat c.pd.toNat (fun f => c.window.any fun y =>
    decide (o.tseq ≤ y.tseq) && y.seq.any fun q => f.isForm y.agent c.pd.toNat q) o.wit

/-- Every loader whose witness input is satisfied is marked so, before a form fails: a witness that has been satisfied
stays so (R313). The loader is the access, the operation, the collective, the drop or the context that waits. -/
def State.pin (s : State) : State :=
  { s with
    accs := s.accs.map fun x => { x with sat := s.accSat x }
    drops := s.drops.map fun d => { d with sat := s.dropSat d }
    colls := s.colls.map fun c => { c with sat := c.sat || s.witSat c.wit }
    ctxs := s.ctxs.map fun e => (e.1, { e.2 with
      floorWait := e.2.floorWait && !s.witSat e.2.floor
      window := e.2.window.map fun o => { o with sat := s.opSat e.2 o } }) }

/-- A form has failed (R288). -/
def State.formFail (s : State) (agent dom seq : Nat) : State :=
  let s1 := s.pin
  { s1 with forms := s1.forms.map fun f => if f.isForm agent dom seq then { f with failed := true } else f }

/-- A form that the directory may have forgotten is remembered as failed. -/
def State.failForm (s : State) (agent dom seq epoch wscope cid : Nat) : State :=
  if s.forms.any fun f => f.isForm agent dom seq then s.formFail agent dom seq
  else
    let s1 := s.pin
    { s1 with forms := s1.forms ++ [⟨agent, dom, seq, epoch, wscope, 5, true, cid⟩] }

/-- What the directory answers for a loader (R313, R314). -/
def State.witCheck (s : State) (place pd : Nat) (w : W64) : WitAns :=
  match s.witFault place pd w with
  | some c => .fault c
  | none => if s.witSat w then .satisfied else .waiting

end Sys2Proof.Machine
end

