-- ==== Sys2Proof/Machine/Mem.lean ====
section
/-! DEFINITION. Memory: physical bytes, translation, the lines of L2 and L1, reads and writes at a line's home
(02 R57 to R62, 10 R276, R277, 13 R309, R315, 17 R354 to R358, 19 R381). -/

namespace Sys2Proof.Machine

/-! ## Physical bytes -/

/-- The key of a byte of physical memory: target 0 device memory, 1 host memory, 2 a peer window behind a port; target 3
is used for the scratchpads. -/
def physKey (target port pa : Nat) : Nat := target * 2 ^ 60 + port * 2 ^ 56 + pa

/-- The key of a byte of a core's scratchpad (R58). -/
def spKey (core off : Nat) : Nat := 3 * 2 ^ 60 + core * 2 ^ 32 + off

/-- A byte of physical memory. -/
def State.memByte (s : State) (k : Nat) : Byte := AL.get Memory.unlisted s.mem k

/-- n bytes of physical memory from a key. -/
def State.memBytes (s : State) (k n : Nat) : List Byte := (List.range n).map fun i => s.memByte (k + i)

/-- The value a line gives for a byte: its own store, else the byte as kept, else memory. -/
def L2Line.byte (l : L2Line) (s : State) (k : Nat) : Byte :=
  match AL.find l.dirty k with
  | some b => b
  | none =>
    match AL.find l.kept k with
    | some b => b
    | none => s.memByte k

/-- Whether a line may hold a physical key: it maps its 64 KiB page, and a flat line is the one of that place in the
page. -/
def mapsKey (id : Nat) (coords : List Nat) (maps : AL PLeaf) (k : Nat) : Bool :=
  (id != 0 || coords.headD 0 % 32 == k / 2048 % 32) &&
    maps.any fun e => physKey e.2.target e.2.port (e.2.pa / 65536 * 65536) == k / 65536 * 65536

/-- Keep the old value of a byte in a line of L2 that holds it. -/
def L2Line.keep (l : L2Line) (k : Nat) (old : Byte) : L2Line :=
  if mapsKey l.id l.coords l.maps k && (AL.find l.dirty k).isNone && (AL.find l.kept k).isNone then
    { l with kept := AL.put l.kept k old } else l

/-- Keep the old value of a byte in a line of L1 that holds it. -/
def L1Line.keep (l : L1Line) (k : Nat) (old : Byte) : L1Line :=
  if mapsKey l.id l.coords l.maps k && (AL.find l.kept k).isNone then { l with kept := AL.put l.kept k old } else l

/-- Overlaid entries, the newest first: entries of the first storage win. -/
def AL.over {α : Type} (a b : AL α) : AL α := a.foldl (fun m e => AL.put m e.1 e.2) b

/-- The value of a byte in a line of L1: as kept, else the line of L2, else memory. -/
def L1Line.byte (l : L1Line) (s : State) (k : Nat) : Byte :=
  match AL.find l.kept k with
  | some b => b
  | none =>
    match s.l2.find? fun m => m.dom == l.dom && m.id == l.id && m.coords == l.coords with
    | some m => m.byte s k
    | none => s.memByte k

/-- Write bytes of physical memory. Lines that hold a byte keep the value they had (R277). -/
def State.memWrite (s : State) (ws : List (Nat × Byte)) : State :=
  { s with
    mem := ws.foldl (fun m w => AL.set Memory.unlisted m w.1 w.2) s.mem
    l1 := s.l1.map fun l =>
      ws.foldl (fun (l : L1Line) w => if !mapsKey l.id l.coords l.maps w.1 || l.byte s w.1 == w.2 then l else l.keep w.1 (l.byte s w.1)) l
    l2 := s.l2.map fun l =>
      ws.foldl (fun (l : L2Line) w => if mapsKey l.id l.coords l.maps w.1 then l.keep w.1 (s.memByte w.1) else l) l }

/-! ## Poison (R381) -/

/-- The base and size of a poisoned word (8 bytes) or burst (64 bytes). -/
def poisonSpan (p : Nat) : Nat × Nat := (p / 2, if p % 2 = 1 then 64 else 8)

/-- Whether any of n bytes from a key is poisoned. -/
def State.poisoned (s : State) (k n : Nat) : Bool :=
  s.poison.any fun p => decide (k < (poisonSpan p).1 + (poisonSpan p).2) && decide ((poisonSpan p).1 < k + n)

/-- Writes that cover every byte of a poisoned word or burst clear the poison. -/
def State.clearPoison (s : State) (ks : List Nat) : State :=
  if s.poison.isEmpty then s
  else { s with poison := s.poison.filter fun p =>
    !((List.range (poisonSpan p).2).all fun i => ks.contains ((poisonSpan p).1 + i)) }

/-- The key of a bundle-table entry's poison mark (R381). -/
def btKey (a idx : Nat) : Nat := 7 * 2 ^ 60 + a * 2 ^ 16 + 32 * idx

/-- The keys of the poison marks of a segment in a slot's loop buffer, of an entry of a context's tile window, and of a
record in a die's record cache (R380, R381). -/
def lbKey (a seg : Nat) : Nat := (a + 1) * 2 ^ 70 + seg / 128 * 8
def opKey (cid tseq : Nat) : Nat := (cid + 1) * 2 ^ 100 + 2 ^ 90 + tseq * 8
def recKey (die dom id : Nat) : Nat := (((die * 64 + dom) * 2 ^ 20 + id) * 8) + 2 ^ 90

/-! ## Translation (R354 to R356) -/

/-- The permission an access needs (R356). -/
inductive Perm where
  | read
  | write
  | both
  /-- Of a sync-word form that only reads: it needs read and write, and its fault is a read's (R184, R356). -/
  | sync
  | exec
  deriving DecidableEq, Repr

/-- Whether a leaf gives a permission. -/
def PLeaf.gives (l : PLeaf) (p : Perm) : Bool :=
  match p with
  | .read => l.r
  | .write => l.w
  | .both => l.r && l.w
  | .sync => l.r && l.w
  | .exec => l.x

/-- A fault of an access: cause and auxiliary word, fault address, the unit that met it, and whether it is delivered. -/
structure MFault where
  cause     : Nat
  aux       : Nat
  faddr     : Nat
  unit      : BitVec 32
  delivered : Bool
  deriving DecidableEq, Repr

/-- What an attempt gives: done, nothing yet, or a fault. -/
inductive Res (α : Type) where
  | ok (s : State) (a : α)
  | wait
  | fault (f : MFault)
  deriving Repr

/-- Where a walk ends: a leaf, an entry that is not valid with its policy, a defective entry. -/
inductive Walk where
  | leaf (l : PLeaf)
  | invalid (delivered : Bool)
  | defective
  deriving DecidableEq, Repr

/-- The levels of a walk: level, low bit of the index, index bits (Table 17-1). -/
def walkLevels : List (Nat × Nat × Nat) := [(4, 48, 9), (3, 39, 9), (2, 30, 9), (1, 21, 9), (0, 16, 5)]

/-- The address of the entry for va in a table at a level. -/
def entryAddr (table va lo bits : Nat) : Nat := table + 8 * (va / 2 ^ lo % 2 ^ bits)

/-- The leaf of an entry for the 64 KiB page that holds va (R355). -/
def leafOf (e : W64) (va lo : Nat) : PLeaf :=
  ⟨(e.extractLsb' 8 48).toNat * 256 + va % 2 ^ lo / 65536 * 65536, e.getLsbD 2, e.getLsbD 3, e.getLsbD 4,
    (e.extractLsb' 6 2).toNat, (e.extractLsb' 56 4).toNat, e.getLsbD 5⟩

/-- Whether a valid entry is defective at a level (R355); align is the alignment its address needs. -/
def entryDefective (level : Nat) (e : W64) (align : Nat) : Bool :=
  let leaf := e.getLsbD 1
  let addr := (e.extractLsb' 8 48).toNat * 256
  let target := (e.extractLsb' 6 2).toNat
  e.extractLsb' 60 4 != 0 || (leaf && decide (level ≥ 3)) || (!leaf && level == 0) || addr % align != 0 ||
    (target == 0 && decide (addr ≥ 2 ^ 39)) ||
    (if leaf then target == 3 || (target != 2 && e.extractLsb' 56 4 != 0)
     else e.extractLsb' 2 6 != 0 || e.extractLsb' 56 4 != 0)

/-- A page walk from a table (R354). Tables lie in device memory and only the firmware writes them. -/
def State.walkFrom (s : State) (va table : Nat) (levels : List (Nat × Nat × Nat)) : Walk :=
  match levels with
  | [] => .defective
  | (lv, lo, bits) :: r =>
    let e : W64 := BitVec.ofNat 64 (leNat (s.memBytes (physKey 0 0 (entryAddr table va lo bits)) 8))
    if !e.getLsbD 0 then .invalid (e.getLsbD 5)
    else if entryDefective lv e (if e.getLsbD 1 then 2 ^ lo else if lv = 1 then 256 else 4096) then .defective
    else if e.getLsbD 1 then .leaf (leafOf e va lo)
    else s.walkFrom va ((e.extractLsb' 8 48).toNat * 256) r

/-- The firmware's record of a domain. -/
def State.domOf (s : State) (d : Nat) : Domain := AL.get {} s.doms d

/-- A walk for a domain; a domain without a root table has no mapping. -/
def State.walk (s : State) (dom va : Nat) : Walk :=
  if (s.domOf dom).root = 0 then .invalid false else s.walkFrom va (s.domOf dom).root walkLevels

/-- Whether the domain has backing for a page and an access (R356): an entry on its way into force maps it, for an access
that needs device memory in device memory. -/
def State.hasBacking (s : State) (dom va : Nat) (p : Perm) (dev : Bool) : Bool :=
  s.backing.any fun b =>
    b.1 == dom &&
      (let lo := match b.2.1 with
        | 0 => 16
        | 1 => 21
        | _ => 30
       b.2.2.1 / 2 ^ lo == va / 2 ^ lo && b.2.2.2.getLsbD 0 && (leafOf b.2.2.2 va lo).gives p &&
         (!dev || (leafOf b.2.2.2 va lo).target == 0))

/-- A unit path (Table 2-6). -/
def unitPath (die span core cls idx : Nat) : BitVec 32 :=
  BitVec.ofNat 3 die ++ BitVec.ofNat 4 span ++ BitVec.ofNat 2 core ++ BitVec.ofNat 4 cls ++ BitVec.ofNat 19 idx

/-- The unit path of a unit of a context slot's core (R42, R46). -/
def coreUnit (agent cls idx : Nat) : BitVec 32 := unitPath (dieOf agent) (spanOf agent % 12) (coreOf agent % 4) cls idx

/-- A slice of a package, 0 to 95, as a unit path of a class. -/
def sliceUnit (slice cls : Nat) : BitVec 32 := unitPath (slice / 24) 0 0 cls (slice % 24)

/-- The tag of a tile-line (R276): domain, tensor, coordinates; the flat view has its 2 KiB line number. -/
structure Tag where
  dom    : Nat
  id     : Nat
  coords : List Nat
  deriving DecidableEq, Repr

/-- The flat line that holds an address (R62). -/
def flatTag (dom va : Nat) : Tag := ⟨dom, 0, [va / 2048]⟩

/-- The home slice of a line (R61). -/
def Tag.home (t : Tag) : Nat := Config.homeSlice t.dom t.id t.coords % 96

/-- The auxiliary word of a refused permission (Table 19-1); an access that reads and writes has that of a write (DESIGN
CHOICE, R184, log 30). -/
def Perm.aux (p : Perm) : Nat :=
  match p with
  | .read => 0
  | .write => 1
  | .both => 1
  | .sync => 0
  | .exec => 4

/-- The `PROTECTION` fault that a leaf gives an access, when it gives one: a missing permission, an atomic or sync word
off device memory, each under the leaf's policy (R356, R357). -/
def State.permFault (s : State) (t : Tag) (l : PLeaf) (va : Nat) (p : Perm) (dev : Bool) (unit : BitVec 32) :
    Option MFault :=
  if !l.gives p then some ⟨0x21, p.aux, va, unit, l.policy || !s.hasBacking t.dom va p dev⟩
  else if dev && l.target ≠ 0 then some ⟨0x21, 2, va, unit, l.policy || !s.hasBacking t.dom va p dev⟩
  else none

/-- Whether the way to a leaf's memory is open: a peer window whose link is down, a host link that is down (R398, R400). -/
def State.linkDown (s : State) (l : PLeaf) : Bool :=
  (l.target == 2 && s.portsDown.contains l.port) || (l.target == 1 && !s.hostUp)

/-- What an access meets that must reach memory over a link that is down: a fault, or, for as long as the host link may
return, a wait (R400). -/
def State.linkRes {α : Type} (s : State) (l : PLeaf) (va : Nat) (p : Perm) (unit : BitVec 32) : Option (Res α) :=
  if !s.linkDown l then none
  else if l.target = 1 ∧ s.hostDown = 0 then some .wait
  else some (.fault ⟨0x20, p.aux, va, unit, true⟩)

/-- The line of L2 with a tag. -/
def State.l2Line (s : State) (t : Tag) : Option L2Line :=
  s.l2.find? fun l => l.dom == t.dom && l.id == t.id && l.coords == t.coords

/-- Change the line of L2 with a tag. -/
def State.l2Set (s : State) (t : Tag) (f : L2Line → L2Line) : State :=
  { s with l2 := s.l2.map fun l => if l.dom == t.dom && l.id == t.id && l.coords == t.coords then f l else l }

/-- An empty line of L2 at its fill: its stamp is the closed package-scope epoch of its domain (R315), via the record
copy it is filled under (R325). -/
def State.newLine (s : State) (t : Tag) (via : List Byte) : L2Line where
  dom := t.dom
  id := t.id
  coords := t.coords
  maps := []
  stamp := s.closedOf t.dom 4
  aged := false
  prio := 4
  locks := []
  dirty := []
  kept := []
  via := via

/-- The line of a tag is there: a line of L2 is begun where none is. -/
def State.openLine (s : State) (t : Tag) (via : List Byte) : State :=
  match s.l2Line t with
  | some _ => s
  | none => { s with l2 := s.l2 ++ [s.newLine t via] }

/-- A line's priority for eviction (R185). It affects time only. -/
def State.setPrio (s : State) (t : Tag) (n : Nat) : State := s.l2Set t fun m => { m with prio := n }

/-- What a fault of a translation gives: one that is not delivered is waited out (R184, R356). -/
def MFault.res {α : Type} (f : MFault) : Res α := if f.delivered then .fault f else .wait

/-- The translation of an access through a tag (R60, R357): a line that maps the page is checked as the leaf would be,
and never faults `PAGE`; otherwise a walk fills the line. A write that must go on over a link that is down finds no line
there that could take it, and misses (R398, R400; DEDUCED, log 29). A fault that is not delivered is one the access waits
out (R184, R356). -/
def State.translate (s : State) (t : Tag) (va : Nat) (p : Perm) (dev : Bool) : Res PLeaf :=
  if va ≥ 2 ^ 57 then .fault ⟨0x21, p.aux, va, sliceUnit t.home 9, true⟩
  else
    let hit := match s.l2Line t with
      | some l => (AL.find l.maps (va / 65536)).filter fun f => !(p == .write && s.linkDown f)
      | none => none
    match hit with
    | some l =>
      let unit := sliceUnit t.home 9
      (match s.permFault t l va p dev unit with
       | some f => f.res
       | none => .ok s l)
    | none =>
      let unit := unitPath (t.home / 24) 0 0 13 (Config.walkUnit t.dom va % 4)
      match s.walk t.dom va with
      | .invalid d => (⟨0x20, p.aux, va, unit, d || !s.hasBacking t.dom va p dev⟩ : MFault).res
      | .defective => .fault ⟨0x21, p.aux, va, unit, true⟩
      | .leaf l =>
        match s.permFault t l va p dev unit with
        | some f => f.res
        | none =>
          match s.linkRes l va p unit with
          | some r => r
          | none => .ok ((s.openLine t []).l2Set t fun m => { m with maps := AL.put m.maps (va / 65536) l }) l

/-- A translation that follows the transparent policy whatever the page's policy says (R337, R407). -/
def State.translateT (s : State) (t : Tag) (va : Nat) (p : Perm) (dev : Bool) : Res PLeaf :=
  match s.translate t va p dev with
  | .fault f => if s.hasBacking t.dom va p dev then .wait else .fault f
  | r => r

/-- A translation with the page's policy or the transparent one. -/
def State.trans (s : State) (tr : Bool) (t : Tag) (va : Nat) (p : Perm) (dev : Bool) : Res PLeaf :=
  if tr then s.translateT t va p dev else s.translate t va p dev

/-- The physical key of an address under its leaf. -/
def PLeaf.key (l : PLeaf) (va : Nat) : Nat := physKey l.target l.port (l.pa + va % 65536)

/-- Physical keys of n bytes from an address under its leaf. -/
def PLeaf.keys (l : PLeaf) (va n : Nat) : List Nat := (List.range n).map fun i => l.key va + i

/-- The leaves of the pieces of a range that lie in different pages: leaf, address, size. -/
def State.leaves (s : State) (tr : Bool) (t : Tag) (p : Perm) (dev : Bool) (ps : List (Nat × Nat)) :
    Res (List (PLeaf × Nat × Nat)) :=
  match ps with
  | [] => .ok s []
  | (va, n) :: r =>
    match s.trans tr t va p dev with
    | .fault f => .fault f
    | .wait => .wait
    | .ok s1 l =>
      match s1.leaves tr t p dev r with
      | .fault f => .fault f
      | .wait => .wait
      | .ok s2 ls => .ok s2 ((l, va, n) :: ls)

/-- The physical keys of translated pieces. -/
def leafKeys (ls : List (PLeaf × Nat × Nat)) : List Nat := ls.flatMap fun e => e.1.keys e.2.1 e.2.2

/-- A range of addresses cut at the 64 KiB pages. -/
def pagePieces (va n : Nat) : List (Nat × Nat) :=
  if va % 65536 + n ≤ 65536 then [(va, n)] else [(va, 65536 - va % 65536), (va + (65536 - va % 65536), n - (65536 - va % 65536))]

/-! ## Lines: writing back, refilling, dropping -/

/-- Write back the stores a line holds: they are now in memory, and lines of other tags keep what they held. -/
def State.writeBack (s : State) (t : Tag) : State :=
  match s.l2Line t with
  | none => s
  | some l =>
    if l.dirty.isEmpty then s
    else
      let s1 := s.l2Set t fun m => { m with dirty := [], kept := l.dirty.foldl (fun k e => AL.del k e.1) m.kept }
      let others := s1.l2.map fun m =>
        if m.dom == t.dom && m.id == t.id && m.coords == t.coords then m
        else l.dirty.foldl (fun (m : L2Line) w => if mapsKey m.id m.coords m.maps w.1 then m.keep w.1 (s.memByte w.1) else m) m
      { s1 with
        mem := l.dirty.foldl (fun m w => AL.set Memory.unlisted m w.1 w.2) s.mem
        l2 := others
        l1 := s.l1.map fun (m : L1Line) =>
          if m.dom == t.dom && m.id == t.id && m.coords == t.coords then m
          else l.dirty.foldl (fun (m : L1Line) w =>
            if !mapsKey m.id m.coords m.maps w.1 || m.byte s w.1 == w.2 then m else m.keep w.1 (m.byte s w.1)) m }

/-- Lines of L1 with a tag keep what they hold of the bytes that their line of L2 is about to change. -/
def State.l1Keep (s : State) (t : Tag) (ks : List Nat) : State :=
  { s with l1 := s.l1.map fun l =>
      if l.dom == t.dom && l.id == t.id && l.coords == t.coords then
        ks.foldl (fun (l : L1Line) k => l.keep k (l.byte s k)) l
      else l }

/-- Refill a line from memory, after writing back the stores it holds (R315). -/
def State.refill (s : State) (t : Tag) : State :=
  let s1 := s.writeBack t
  match s1.l2Line t with
  | none => s1
  | some l =>
    (s1.l1Keep t (l.kept.map (·.1))).l2Set t fun m =>
      { m with kept := [], stamp := s1.closedOf t.dom 4, aged := false }

/-- A line is refilled from memory under another copy of its record (R325). -/
def State.refillAs (s : State) (t : Tag) (via : List Byte) : State := (s.refill t).l2Set t fun m => { m with via := via }

/-- Drop a line, after writing back the stores it holds (R358). -/
def State.dropLine (s : State) (t : Tag) : State :=
  let s1 := s.refill t
  { s1 with l2 := s1.l2.filter fun l => !(l.dom == t.dom && l.id == t.id && l.coords == t.coords) }

/-- Whether a line with a stamp may serve a read given witnesses (R315): for each non-null one its epoch is closed in
the stamp, and the line is not aged. -/
def State.serves (s : State) (stamp : Nat) (aged : Bool) (ws : List W64) : Bool :=
  ws.all fun w => witForm w == 0 || (!aged &&
    match s.epochAbs (witEpoch w) with
    | none => true
    | some e => decide (e < stamp))

/-! ## Reads and writes through a tag -/

/-- The bytes of a read through a tag at the line's home, once translated: keys are the physical keys. -/
def State.homeRead (s : State) (t : Tag) (ks : List Nat) : List Byte :=
  match s.l2Line t with
  | some l => ks.map (l.byte s)
  | none => ks.map s.memByte

/-- A line that a read may not use as it stands is refilled (R315), which needs the way to its memory. Where the line
holds bytes that memory no longer has, it may also have been evicted and filled anew (R277): a free choice of log 4. A
locked line is never evicted. -/
def State.homeReady (s : State) (t : Tag) (ws : List W64) (ls : List (PLeaf × Nat × Nat)) : Res Unit :=
  match s.l2Line t with
  | none => .ok s ()
  | some l =>
    if !s.serves l.stamp l.aged ws then
      match ls.findSome? fun e => s.linkRes e.1 e.2.1 .read (sliceUnit t.home 9) with
      | some r => r
      | none => .ok (s.refill t) ()
    else if l.kept.isEmpty || !l.locks.isEmpty || ls.any fun e => s.linkDown e.1 then .ok s ()
    else
      let s1 := { s with choices := s.choices + 1 }
      .ok (if Config.choose s.choices % 2 = 0 then s1 else s1.refill t) ()

/-- The fault of a read of poisoned data (R381): its address is a physical one, or 0 where the storage has none (Table
19-1). -/
def poisonFault (k : Nat) (unit : BitVec 32) : MFault := ⟨0x50, 0, if k < 3 * 2 ^ 60 then k % 2 ^ 56 else 0, unit, true⟩

/-- The unit that holds a poisoned byte of device memory (Table 2-7): the DRAM bank of a burst, on the die of its address
bits [38:37] (R61), or the home slice of a word. -/
def State.poisonUnit (s : State) (t : Tag) (k n : Nat) : BitVec 32 :=
  if s.poison.any fun p => p % 2 == 1 && decide (k < (poisonSpan p).1 + (poisonSpan p).2) && decide ((poisonSpan p).1 < k + n) then
    unitPath (k / 2 ^ 37 % 4) 0 0 12 (Config.dramBank (k / 64))
  else sliceUnit t.home 9

/-- The poisoned piece of a read at a home (R381). -/
def State.poisonOf (s : State) (t : Tag) (ls : List (PLeaf × Nat × Nat)) : Option MFault :=
  (ls.find? fun e => s.poisoned (e.1.key e.2.1) e.2.2).map fun e =>
    poisonFault (e.1.key e.2.1) (s.poisonUnit t (e.1.key e.2.1) e.2.2)

/-- A read at the line's home under witnesses (fresh, witnessed, atomic, engine reads), all its bytes of one moment
(R310). -/
def State.readHome (s : State) (t : Tag) (ws : List W64) (ls : List (PLeaf × Nat × Nat)) : Res (List Byte) :=
  match s.homeReady t ws ls with
  | .fault f => .fault f
  | .wait => .wait
  | .ok s1 _ =>
    match s1.poisonOf t ls with
    | some f => .fault f
    | none => .ok s1 (s1.homeRead t (leafKeys ls))

/-- Whether a line of L1 is a core's line of a tag. -/
def L1Line.holds (l : L1Line) (core : Nat) (t : Tag) : Bool :=
  l.core == core && l.dom == t.dom && l.id == t.id && l.coords == t.coords

/-- The line that a core's L1 holds of a tag. -/
def State.l1Line (s : State) (core : Nat) (t : Tag) : Option L1Line := s.l1.find? fun l => l.holds core t

/-- A core's L1 drops its line of a tag. -/
def State.l1Drop (s : State) (core : Nat) (t : Tag) : State := { s with l1 := s.l1.filter fun l => !l.holds core t }

/-- A core's L1 fills its line of a tag from the line's home: stamped with the closed epoch of its own fill (R315). A
poisoned line is never filled (R381). -/
def State.l1Fill (s : State) (core : Nat) (t : Tag) : State :=
  match s.l2Line t with
  | none => s
  | some l =>
    if (s.l1.any fun m => m.holds core t) ||
        l.maps.any fun e => s.poisoned (physKey e.2.target e.2.port (e.2.pa / 65536 * 65536)) 65536 then s
    else
      let m : L1Line :=
        { core := core, dom := t.dom, id := t.id, coords := t.coords, maps := l.maps, stamp := s.closedOf t.dom 4
          aged := l.aged, kept := [], home := l.stamp, via := l.via, bad := [] }
      { s with l1 := s.l1 ++ [m] }

/-- The pieces of a range under the leaves that a line carries; none where it does not map them all. -/
def mapsLeaves (maps : AL PLeaf) (ps : List (Nat × Nat)) : Option (List (PLeaf × Nat × Nat)) :=
  match ps with
  | [] => some []
  | (va, n) :: r =>
    match AL.find maps (va / 65536), mapsLeaves maps r with
    | some l, some ls => some ((l, va, n) :: ls)
    | _, _ => none

/-- A read that goes to the line's home, and may leave a copy in a core's L1. -/
def State.readPast (s : State) (tr : Bool) (fill : Option Nat) (t : Tag) (ws : List W64) (p : Perm) (dev : Bool)
    (ps : List (Nat × Nat)) : Res (List Byte) :=
  match s.leaves tr t p dev ps with
  | .fault f => .fault f
  | .wait => .wait
  | .ok s1 ls =>
    match s1.readHome t ws ls with
    | .fault f => .fault f
    | .wait => .wait
    | .ok s2 bs => .ok (match fill with
        | some c => s2.l1Fill c t
        | none => s2) bs

/-- A plain read of a core (R193): a line of its L1 that maps the bytes and that the witnesses allow may serve it without
a walk (R60), or the home may. Where the two differ it is a free choice (log 4). A line whose home line's fill the
witnesses refuse serves nothing either (R277, log 28). -/
def State.readPlain (s : State) (tr : Bool) (core : Nat) (t : Tag) (ws : List W64) (alloc : Bool)
    (ps : List (Nat × Nat)) : Res (List Byte) :=
  let fill := if alloc then some core else none
  match s.l1Line core t with
  | none => s.readPast tr fill t ws .read false ps
  | some l =>
    match (if s.serves (Nat.min l.stamp l.home) l.aged ws then mapsLeaves l.maps ps else none) with
    | none => (s.l1Drop core t).readPast tr fill t ws .read false ps
    | some ls =>
      match ls.findSome? fun e => s.permFault t e.1 e.2.1 .read false (unitPath (core / 48) (core / 4 % 12) (core % 4) 4 0) with
      | some f => if tr && s.hasBacking t.dom f.faddr .read false then .wait else f.res
      | none =>
        let ks := leafKeys ls
        let a := ks.map (l.byte s)
        match ks.find? fun k => l.bad.contains (k / 8) with
        | some k => .fault (poisonFault k (unitPath (core / 48) (core / 4 % 12) (core % 4) 4 0))
        | none =>
          if a == s.homeRead t ks && (s.poisonOf t ls).isNone then .ok s a
          else
            let s1 := { s with choices := s.choices + 1 }
            if Config.choose s.choices % 2 = 0 then .ok s1 a
            else (s1.l1Drop core t).readPast tr fill t ws .read false ps

/-- A write performed at the home of a tag: device memory holds it in the line until it is written back; host memory
and peer windows have it at once (Table 13-2). -/
def State.writeHome (s : State) (t : Tag) (l : PLeaf) (ws : List (Nat × Byte)) : State :=
  let s0 := s.clearPoison (ws.map (·.1))
  if l.target = 0 then
    (s0.l1Keep t (ws.map (·.1))).l2Set t fun m => { m with dirty := ws.foldl (fun d w => AL.put d w.1 w.2) m.dirty }
  else
    let s1 := (s0.l1Keep t (ws.map (·.1))).memWrite ws
    s1.l2Set t fun m => { m with kept := ws.foldl (fun k w => AL.del k w.1) m.kept }

end Sys2Proof.Machine
end

