-- ==== Sys2Proof/Machine/Ops.lean ====
section
/-! DEFINITION. The named operations over registers, results in flight, code positions, flat memory, the firmware's
logs, and the shared operations that take a trap, return from one, and abort a gang instance (02, 05, 16, 19). -/

namespace Sys2Proof.Machine

/-! ## Code positions (R122) -/

/-- A code position as its 64-bit value (Table 5-10). -/
def CodePos.toWord (p : CodePos) : W64 := BitVec.ofNat 64 (p.seg / 128 % 2 ^ 50 * 1024 + p.unit % 1024)

/-- The code position of a value; the top four bits are checked apart. -/
def CodePos.ofWord (w : W64) : CodePos := ⟨(w.extractLsb' 10 50).toNat * 128, (w.extractLsb' 0 10).toNat⟩

/-! ## Contexts -/

/-- The context on a slot. -/
def State.ctx (s : State) (a : Nat) : Option Ctx := AL.find s.ctxs a

/-- Put a context on a slot. -/
def State.setCtx (s : State) (a : Nat) (c : Ctx) : State := { s with ctxs := AL.put s.ctxs a c }

/-- Change the context on a slot, when there is one. -/
def State.onCtx (s : State) (a : Nat) (f : Ctx → Ctx) : State :=
  match s.ctx a with
  | some c => s.setCtx a (f c)
  | none => s

/-! ## Register reads (Table 2-10) -/

/-- The loop index register li k (R152). -/
def Ctx.li (c : Ctx) (k : Nat) : W64 :=
  match c.loops[k]? with
  | some e => e.index
  | none => 0

/-- A scalar register: s0 reads zero, s58 to s63 read li0 to li5. -/
def Ctx.readS (c : Ctx) (n : Nat) : W64 :=
  if n = 0 then 0 else if n ≥ 58 then c.li (n - 58) else AL.get 0 c.s n

/-- A predicate register: p0 reads all true. -/
def Ctx.readP (c : Ctx) (n : Nat) : BitVec 256 := if n = 0 then BitVec.allOnes 256 else AL.get 0 c.p n

/-- A condition bit: q0 reads true. -/
def Ctx.readQ (c : Ctx) (n : Nat) : Bool := if n = 0 then true else c.q.getLsbD n

/-- A test of six bits: bit 5 negates (R115, R173). -/
def Ctx.test (c : Ctx) (t : BitVec 6) : Bool := c.readQ (t.extractLsb' 0 5).toNat != t.getLsbD 5

/-- A witness register: w0 reads the null witness. -/
def Ctx.readW (c : Ctx) (n : Nat) : W64 := if n = 0 then 0 else AL.get 0 c.w n

/-- A crossbar pattern register with its validity mask (R211). -/
def Ctx.readXp (c : Ctx) (n : Nat) : Vec × BitVec 4 := AL.get (0, 0) c.xp n

/-- The key of vector register n of a slot: bank 3k + (n >> 8) of its core (R43). -/
def vKey (a n : Nat) : Nat := (coreOf a * 64 + 3 * (a % 4) + n / 256) * 256 + n % 256

/-- A vector register of a slot. -/
def State.readV (s : State) (a n : Nat) : Vec := AL.get 0 s.regmem (vKey a n)

/-- The key of the poison mark of a word of a vector register (R381). -/
def rKey (a n : Nat) : Nat := 9 * 2 ^ 60 + vKey a n * 256

/-- A vector source: a register, or s0 to s63 in every element of s bytes (R216). -/
def State.vsrc (s : State) (a : Nat) (c : Ctx) (size : Nat) (n : Nat) : Vec :=
  if n < 768 then s.readV a n else broadcast size (c.readS (n - 768))

/-! ## Landing (R132, R217) -/

/-- A result in flight that is at hand. -/
def Pend.make (reg : Reg) (lat : Nat) (val : Vec) : Pend := { reg, left := lat, val, lanes := BitVec.allOnes 256 }

/-- The statistics events of a mask, each with a count (R109): events whose statmask bit is set. -/
def statsOf (smask : BitVec 16) (evs : List Nat) : List (Nat × Nat) :=
  if smask = 0 then [] else
  (List.range 13).filterMap fun i =>
    let n := (evs.filter fun e => e.testBit i).length
    if smask.getLsbD i && n != 0 then some (i, Nat.min n (2 ^ 32 - 1)) else none

/-- How many records the statistics queue of a context holds now: 16, and what its chunks of 4 KiB hold, up to 64 KiB
(R342, R343). -/
def Ctx.statDepth (c : Ctx) : Nat := Nat.min 4096 (16 + 256 * c.statChunks)

/-- Whether the statistics queue takes n records more now, so that their poster need not wait (R342). One of 64 KiB makes
nobody wait: it drops what it cannot hold (R343). One of a context past its `EXIT` takes nothing (log 30). -/
def Ctx.statRoom (c : Ctx) (n : Nat) : Bool :=
  n == 0 || c.status == .exited || decide (c.statq.length + n ≤ c.statDepth) || decide (4096 ≤ c.statDepth)

/-- A statistics queue that has fallen to its base depth returns its chunks (R343). -/
def Ctx.statReturn (c : Ctx) : Ctx := if c.statq.length ≤ 16 then { c with statChunks := 0 } else c

/-- Post one statistics record (R109): a queue of 64 KiB takes no more, and counts the record as lost (R343). A context
past its `EXIT` has no queue any more (log 30). -/
def Ctx.postOne (c : Ctx) (pos : CodePos) (eng : BitVec 8) (e : Nat × Nat) : Ctx :=
  if c.status == .exited then c
  else if c.statq.length < 4096 then { c with statq := c.statq ++ [⟨pos, eng, e.1, e.2⟩] } else { c with lost := c.lost + 1 }

/-- Post statistics records. -/
def Ctx.post (c : Ctx) (pos : CodePos) (eng : BitVec 8) (st : List (Nat × Nat)) : Ctx :=
  st.foldl (fun c e => c.postOne pos eng e) c

/-- One result lands in the registers that a context holds itself. -/
def Ctx.land (c : Ctx) (p : Pend) : Ctx :=
  let c1 := match p.reg with
    | .s n => { c with s := AL.set 0 c.s n (p.val.truncate 64) }
    | .p n => { c with p := AL.set 0 c.p n ((AL.get 0 c.p n &&& ~~~p.lanes) ||| (p.val.truncate 256 &&& p.lanes)) }
    | .q n => { c with q := if p.val.getLsbD 0 then c.q ||| (1#32 <<< n) else c.q &&& ~~~(1#32 <<< n) }
    | .w n => { c with w := AL.set 0 c.w n (p.val.truncate 64) }
    | .xp n => { c with xp := AL.set (0, 0) c.xp n (p.val, p.xmask) }
    | .fmt => { c with fmt := p.val.truncate 64 }
    | .v _ => c
    | .none => c
  c1.post p.pos p.eng p.stats

/-- The bytes of a register that a lane mask lets be written. -/
def laneKeys (k : Nat) (lanes : BitVec 256) : List Nat := ((List.range 256).filter lanes.getLsbD).map (k + ·)

/-- One result lands (R132): vector results in the register memory, merged (R217). A word written whole is poisoned no
more (R381). -/
def State.landOne (s : State) (a : Nat) (p : Pend) : State :=
  let s1 := match p.reg with
    | .v n =>
      { s.clearPoison (laneKeys (rKey a n) p.lanes) with
        regmem := AL.set 0 s.regmem (vKey a n) (mergeLanes p.lanes (s.readV a n) p.val) }
    | _ => s
  s1.onCtx a fun c => c.land p

/-- Whether a result lands in a register; one that is discarded waits for nothing and is counted nowhere (R132). -/
def Pend.real (p : Pend) : Bool := p.reg != .none

/-- Whether a result is due at its context's present tick. A discarded one is due once it has its events. -/
def Pend.isDue (p : Pend) : Bool := p.left == 0 && (p.real || p.ready)

/-- The results of a context that are due at its present tick. -/
def Ctx.due (c : Ctx) : List Pend := c.pend.filter Pend.isDue

/-- How many statistics records the due results of a context post as they land. -/
def Ctx.duePosts (c : Ctx) : Nat := (c.due.map fun p => p.stats.length).sum

/-- Whether every due result has its value, and the statistics queue room for what they post (R342); otherwise the context
is in a landing stall (R136). -/
def Ctx.dueReady (c : Ctx) : Bool := (c.due.all fun p => p.ready) && c.statRoom c.duePosts

/-- Whether a due result lies in a poisoned place: its landing is a `MACHINE` event (R381). -/
def Ctx.dueBad (c : Ctx) : Bool := c.due.any fun p => p.real && p.bad

/-- Every due result lands. -/
def State.landDue (s : State) (a : Nat) : State :=
  match s.ctx a with
  | none => s
  | some c =>
    let s1 := c.due.foldl (fun s p => s.landOne a p) s
    s1.onCtx a fun c1 => { c1 with pend := c1.pend.filter fun p => !p.isDue }

/-- A value arrives for the results that wait for an access: in flight, captured by a trap, or both (R137). -/
def fillPend (id : Nat) (val : Vec) (xm : BitVec 4) (st : List (Nat × Nat)) (l : List Pend) : List Pend :=
  l.map fun p => if p.acc == id && !p.ready then { p with val := val, xmask := xm, ready := true, stats := st, bad := false } else p

def Ctx.fill (c : Ctx) (id : Nat) (val : Vec) (xm : BitVec 4) (st : List (Nat × Nat)) : Ctx :=
  { c with
    pend := fillPend id val xm st c.pend
    capture := c.capture.map fun k => { k with pend := fillPend id val xm st k.pend } }

/-- The results of an access that will never have a value are dropped: the destination keeps what it held (R191). -/
def Ctx.dropAcc (c : Ctx) (id : Nat) : Ctx :=
  { c with
    pend := c.pend.filter fun p => !(p.acc == id && !p.ready)
    capture := c.capture.map fun k => { k with pend := k.pend.filter fun p => !(p.acc == id && !p.ready) } }

/-! ## Floors (R316) -/

/-- The floor of a context as a witness input, until the domain's closed epoch is 2^20 ticks past it. closedOf counts the
closed epochs, so that the last of them is one less. -/
def State.floorOf (s : State) (c : Ctx) : List W64 :=
  if s.closedOf c.pd.toNat 4 ≤ c.floorEp + 2 ^ 20 then [c.floor] else []

/-! ## Scratchpad words (R58, R381) -/

/-- The unit path of the scratchpad block that holds a physical key: the core that the share lies on (Table 2-7). -/
def spUnit (k : Nat) : BitVec 32 :=
  let core := k / 2 ^ 32 % 2 ^ 20
  unitPath (core / 48) (core / 4 % 12) (core % 4) 3 (k % 2 ^ 32 / 65536)

/-- The fault of a read of poisoned bytes of a scratchpad. -/
def State.spPoison (s : State) (k n : Nat) : Option MFault := if s.poisoned k n then some (poisonFault k (spUnit k)) else none

/-! ## Flat memory by address -/

/-- An address range cut at the 2 KiB lines of the flat view. -/
def linePieces (fuel va n : Nat) : List (Nat × Nat) :=
  match fuel with
  | 0 => []
  | f + 1 => if n = 0 then [] else
      let k := Nat.min n (2048 - va % 2048)
      (va, k) :: linePieces f (va + k) (n - k)

/-- The bytes of a range read at the homes of its flat lines, each piece all at once. -/
def State.readFlatPieces (s : State) (dom : Nat) (p : Perm) (ws : List W64) (ps : List (Nat × Nat)) : Res (List Byte) :=
  match ps with
  | [] => .ok s []
  | (va, n) :: r =>
    match s.readPast false none (flatTag dom va) ws p false [(va, n)] with
    | .fault f => .fault f
    | .wait => .wait
    | .ok s1 b =>
      match s1.readFlatPieces dom p ws r with
      | .fault f => .fault f
      | .wait => .wait
      | .ok s2 bs => .ok s2 (b ++ bs)

/-- n bytes at a virtual address, read at their homes. -/
def State.readFlat (s : State) (dom : Nat) (p : Perm) (ws : List W64) (va n : Nat) : Res (List Byte) :=
  s.readFlatPieces dom p ws (linePieces (n / 2048 + 2) va n)

/-- Bytes with their indices. -/
def zipIdxBytes (i : Nat) (bs : List Byte) : List (Nat × Byte) :=
  match bs with
  | [] => []
  | b :: r => (i, b) :: zipIdxBytes (i + 1) r

/-- Write bytes at a virtual address within one flat line. -/
def State.writeFlat (s : State) (dom va : Nat) (bs : List Byte) : Res Unit :=
  match s.translate (flatTag dom va) va .write false with
  | .fault f => .fault f
  | .wait => .wait
  | .ok s1 l => .ok (s1.writeHome (flatTag dom va) l (zipIdxBytes (l.key va) bs)) ()

/-- Read pieces of one tag at one moment (R310): by way of a core's L1, or at the home. -/
def State.readVia (s : State) (tr : Bool) (core : Option Nat) (t : Tag) (ws : List W64) (ps : List (Nat × Nat)) :
    Res (List Byte) :=
  match core with
  | some c => s.readPlain tr c t ws true ps
  | none => s.readPast tr none t ws .read false ps

/-- Write bytes at the home of a tag once every piece is translated. -/
def State.putLeaves (s : State) (t : Tag) (ls : List (PLeaf × Nat × Nat)) (bs : List Byte) : State :=
  match ls with
  | [] => s
  | (l, va, n) :: r => (s.writeHome t l (zipIdxBytes (l.key va) (bs.take n))).putLeaves t r (bs.drop n)

/-- Write a range through a tag. -/
def State.writeVia (s : State) (tr : Bool) (t : Tag) (va : Nat) (bs : List Byte) : Res Unit :=
  match s.leaves tr t .write false (pagePieces va bs.length) with
  | .fault f => .fault f
  | .wait => .wait
  | .ok s1 ls => .ok (s1.putLeaves t ls bs) ()

/-- The pieces of a flat range, cut at its 2 KiB lines, read one line after the other. -/
def State.readFlatVia (s : State) (tr : Bool) (core : Option Nat) (dom : Nat) (ws : List W64) (ps : List (Nat × Nat)) :
    Res (List Byte) :=
  match ps with
  | [] => .ok s []
  | (va, n) :: r =>
    match s.readVia tr core (flatTag dom va) ws [(va, n)] with
    | .fault f => .fault f
    | .wait => .wait
    | .ok s1 b =>
      match s1.readFlatVia tr core dom ws r with
      | .fault f => .fault f
      | .wait => .wait
      | .ok s2 bs => .ok s2 (b ++ bs)

/-- Write a flat range, one 2 KiB line after the other; what stands before a fault is written. -/
def State.writeFlatVia (s : State) (tr : Bool) (dom : Nat) (ps : List (Nat × Nat)) (bs : List Byte) : State × Option (Option MFault) :=
  match ps with
  | [] => (s, none)
  | (va, n) :: r =>
    match s.writeVia tr (flatTag dom va) va (bs.take n) with
    | .fault f => (s, some (some f))
    | .wait => (s, some none)
    | .ok s1 _ => s1.writeFlatVia tr dom r (bs.drop n)

/-- The level that writes through tags have at once (Table 13-2): host memory and peer windows hold them at every scope,
device memory at the line's home. -/
def State.wroteLevel (s : State) (tags : List Tag) : Nat :=
  if tags.all fun t => match s.l2Line t with
    | some l => !l.maps.isEmpty && l.maps.all fun e => e.2.target != 0
    | none => false
  then 5 else 3

/-- An engine has written lines of memory at their homes for a context or a unit (R309); seq is its form. -/
def State.wroteLines (s : State) (agent cid dom scope : Nat) (seq : Option Nat) (pos : CodePos) (tags : List Tag) : State :=
  let lvl := s.wroteLevel tags
  let x : Access :=
    { id := s.nextId, agent := agent, cid := cid, dom := dom, kind := .engine (tags.map fun t => (t.id, t.coords))
      sp := false, va := 0, parts := [], size := 0, sx := false, ord := 0, wit := 0, scope := scope, evict := 0
      data := 0, data2 := 0, lanes := 0, dest := none, seq := seq, pos := pos, tick := 0, fmt := 0
      level := lvl, kept := false, stamp := none, core := coreOf agent, owner := slotOf agent, sat := true }
  let s1 : State := if lvl = 5 then s else { s with nextId := s.nextId + 1, accs := s.accs ++ [x] }
  match seq with
  | some q => s1.formLevel (slotOf agent) dom q lvl
  | none => s1

/-- The firmware writes device memory at a physical address. -/
def State.fwWrite (s : State) (pa : Nat) (bs : List Byte) : State :=
  (s.clearPoison ((List.range bs.length).map fun i => physKey 0 0 (pa + i))).memWrite (zipIdxBytes (physKey 0 0 pa) bs)

/-- The firmware reads a field of device memory. -/
def State.fwNat (s : State) (pa n : Nat) : Nat := leNat (s.memBytes (physKey 0 0 pa) n)

/-! ## The firmware's rings (R383 to R386) -/

/-- Append a record of size bytes to a ring whose header lies at hdr, then advance next. -/
def State.ringAppend (s : State) (hdr : Nat) (size : Nat) (bs : List Byte) : State :=
  let next := s.fwNat (hdr + 16) 8
  let pa := s.fwNat hdr 8 + size * (next % 2 ^ s.fwNat (hdr + 8) 1)
  (s.fwWrite pa bs).fwWrite (hdr + 16) (natLe 8 ((next + 1) % 2 ^ 48))

/-- An error record (Table 19-4). The syndrome of the kinds 1 to 4 is a free value (log 20). -/
def State.errRecord (s : State) (kind : Nat) (unit : BitVec 32) (domB count addr detail : Nat) : State :=
  let d := if 1 ≤ kind ∧ kind ≤ 4 then (Config.syndrome s.choices).toNat else detail
  ({ s with choices := s.choices + 1 } : State).ringAppend Config.errLogHeader 32
    (natLe 8 s.cycle ++ natLe 4 unit.toNat ++ natLe 1 kind ++ natLe 1 domB ++ natLe 2 (Nat.min count 65535) ++
      natLe 8 addr ++ natLe 4 d ++ natLe 4 0)

/-- Append a journal record (Table 19-6). -/
def State.journal (s : State) (queue state : Nat) (tag : BitVec 32) (kind status : Nat) (hash : W64) : State :=
  s.ringAppend Config.journalHeader 32
    (natLe 6 (s.fwNat (Config.journalHeader + 16) 8) ++ natLe 1 queue ++ natLe 1 state ++ natLe 8 s.cycle ++
      natLe 4 tag.toNat ++ natLe 1 kind ++ natLe 1 0 ++ natLe 2 status ++ natLe 8 hash.toNat)

/-- Change a task. -/
def State.onTask (s : State) (id : Nat) (f : Task → Task) : State :=
  { s with tasks := s.tasks.map fun t => if t.id == id then f t else t }

/-- The task with an identity. -/
def State.task (s : State) (id : Nat) : Option Task := s.tasks.find? fun t => t.id == id

/-- The number of a state of Table 16-1 in the journal. -/
def TState.code (t : TState) : Nat :=
  match t with
  | .accepted => 1
  | .placed => 2
  | .running => 3
  | .completed => 4
  | .failed => 5
  | .cancelled => 7

/-- Whether a task has ended. -/
def TState.ended (t : TState) : Bool := t == .completed || t == .failed || t == .cancelled

/-- A task enters a state, which is journaled (R385). -/
def State.enter (s : State) (id : Nat) (st : TState) (cls detail : Nat) (hash : W64) : State :=
  match s.task id with
  | none => s
  | some t =>
    let s1 := s.onTask id fun t => { t with state := st, cls := cls, detail := detail, hash := hash }
    s1.journal t.queue st.code t.tag t.kind (if st.ended then cls * 256 + detail else 0) hash

/-- Change a gang instance. -/
def State.onInst (s : State) (task num : Nat) (f : GInst → GInst) : State :=
  { s with insts := s.insts.map fun g => if g.task == task && g.num == num then f g else g }

/-- A gang instance. -/
def State.inst (s : State) (task num : Nat) : Option GInst := s.insts.find? fun g => g.task == task && g.num == num

/-! ## Tile storage -/

/-- The tiles that a context still refers to: the stack, the planes, and what the window's operations bind or would
restore. -/
def Ctx.liveTiles (c : Ctx) : List Nat :=
  (c.stack ++ c.plane0.toList ++ c.plane1.toList ++
    c.window.flatMap fun o => o.binds ++ o.plane.toList ++ o.plane0.toList ++ o.plane1.toList).map (·.tile)

/-- Storage whose last reference is gone is freed (R237). -/
def Ctx.gc (c : Ctx) : Ctx := let l := c.liveTiles; { c with tiles := c.tiles.filter fun e => l.contains e.1 }

/-- The oldest operations of a window retire while they are complete, in issue order: each posts its events, once the
statistics queue takes them, and releases its bindings (R109, R248, R342). -/
def retireOps (c : Ctx) (w : List TOp) : Ctx :=
  match w with
  | [] => { c with window := [] }
  | o :: r =>
    if o.status == .done && c.statRoom o.stats.length then retireOps (c.post o.pos o.eng o.stats) r else { c with window := o :: r }

def Ctx.retireTiles (c : Ctx) : Ctx := (retireOps c c.window).gc

/-- An access that is kept over a trap (R184). Its stamp, if it had one, is given up: it is stamped again when it is
performed after `TRET` (R199, log 31). -/
def Access.keep (x : Access) : Access := { x with kept := true, stamp := none }

/-- `TRET` lets an access that was kept go on; such accesses are performed in issue order (R184). -/
def Access.letOn (x : Access) : Access := if x.kept then { x with kept := false, redo := true } else x

/-! ## Retirement (R209, R348, R369) -/

/-- The charge of a context's energy counter (R366, R368). -/
def Ctx.charge (c : Ctx) (n : Nat) : Ctx :=
  if c.ecount + n > 2 ^ 48 - 1 then { c with ecount := 2 ^ 48 - 1, esat := true } else { c with ecount := c.ecount + n }

/-- A refund; a saturated counter stays saturated (R368). -/
def Ctx.refund (c : Ctx) (n : Nat) : Ctx := if c.esat then c else { c with ecount := c.ecount - n }

/-- A context's energy goes to its domain's account (R369). -/
def State.account (s : State) (c : Ctx) : State :=
  let d := s.domOf c.pd.toNat
  let d1 : Domain := { d with energy := d.energy + BitVec.ofNat 64 c.ecount, sat := if c.esat then d.sat + 1 else d.sat }
  { s with doms := AL.put s.doms c.pd.toNat d1 }

/-- The locks of a context are released (R209). -/
def State.unlock (s : State) (cid : Nat) : State :=
  { s with l2 := s.l2.map fun l => { l with locks := l.locks.filter (· != cid) } }

/-- The tiles and their bytes of a window operation are gone: the forms it took a number for fail (R250, R288, R350). -/
def State.failOps (s : State) (pd : Nat) (ops : List TOp) : State :=
  ops.foldl (fun s o =>
    match o.seq with
    | some q => s.formFail o.agent pd q
    | none => s) s

/-- The gang instance that a context belongs to, or belonged to. -/
def State.instOfCid (s : State) (cid : Nat) : Option GInst :=
  s.insts.find? fun g => g.members.any fun m => m.cid == cid

/-- An engine form of a context has failed: its task completes with status class 3 and the detail of the first (R349). -/
def State.noteFormFault (s : State) (cid detail : Nat) : State :=
  match s.instOfCid cid with
  | some g => s.onTask g.task fun t => { t with formFault := if t.formFault = 0 then detail else t.formFault }
  | none => s

/-- The code of an engine form in a status of class 3 (Table 16-2); 0: the form is none of those. -/
def engineDetail (i : Instr) : Nat :=
  match i with
  | .tget .. => 1
  | .tsend .. => 1
  | .tsendq .. => 1
  | .acopy .. => 1
  | .acopyw .. => 1
  | .stash .. => 2
  | .grad .. => 3
  | .coll .. => 4
  | _ => 0

/-- While a context is resident, the banks of its core that no resident context binds are deck (R43). Those that its tiles
have lain in are marked with its domain: which they are is not given, but a context that has made no tile has held none
(R65, log 11). A bank that has held tiles of two domains is marked 64. -/
def State.markDeck (s : State) (core : Nat) : State :=
  let bound := fun (b : Nat) => decide (b < 12) && (s.ctx (core * 4 + b / 3)).isSome
  let mark := fun (cid d : Nat) (m : AL Bank) (b : Nat) =>
    let old := AL.get {} m (core * 64 + b)
    if bound b || !Config.deckHolds cid (core * 64 + b) then m
    else AL.put m (core * 64 + b) { old with deck := some (if old.deck.isSome && old.deck != some d then 64 else d) }
  (s.ctxs.filter fun e => coreOf e.1 == core && decide (e.2.nextTile > 1)).foldl (fun (s : State) e =>
    { s with banks := (List.range 64).foldl (mark e.2.cid e.2.pd.toNat) s.banks }) s

/-! ## Cores and queues -/

/-- The issue and engine state of a core. -/
def State.coreSt (s : State) (core : Nat) : CoreSt := AL.get {} s.cores core

/-- Change the state of a core. -/
def State.onCore (s : State) (core : Nat) (f : CoreSt → CoreSt) : State :=
  { s with cores := AL.set {} s.cores core (f (s.coreSt core)) }

/-- The chunks of 4 KiB that a queue has, by the queue's number: a statistics queue's number is its slot. -/
def State.chunksOf (s : State) (q : Nat) : Nat :=
  if q < 1024 then ((s.ctx q).map (·.statChunks)).getD 0 else ((s.chunks.find? fun e => e.1 == q).map (·.2)).getD 0

/-- How many entries of a size a queue holds: its base depth, and what its chunks hold. -/
def State.depthOf (s : State) (q base size : Nat) : Nat := base + s.chunksOf q * 4096 / size

/-- The numbers of the queues of Table 16-8 that forms fill: a core's epilogues, a slice's contributions, a die's
launches. -/
def epiQueue (core : Nat) : Nat := 1024 + core
def gradQueue (slice : Nat) : Nat := 2048 + slice
def launchQueue (die : Nat) : Nat := 4096 + die

/-- A hardware queue that holds n entries returns its chunks to the pool once n has fallen to its base depth (R343). -/
def State.returnChunks (s : State) (q n base : Nat) : State :=
  if n ≤ base then { s with chunks := s.chunks.filter fun e => e.1 != q } else s

/-- The epilogues of contexts that are gone leave their core's queue (R342). -/
def State.dropEpis (s : State) (core : Nat) (keys : List Nat) : State :=
  let s1 := s.onCore core fun x => { x with epi := x.epi.filter fun e => !keys.contains e.1 }
  s1.returnChunks (epiQueue core) (s1.coreSt core).epi.length 4

/-- The tag of a gradient line, and the slice beside which its update unit lies. -/
def GradLine.tag (l : GradLine) : Tag := ⟨l.dom, l.tensor, l.coords⟩
def Contribution.tag (x : Contribution) : Tag := ⟨x.dom, x.tensor, x.coords⟩

/-- The contribution queues that have fallen to their base depth return their chunks (R343). -/
def State.settleGrads (s : State) : State :=
  { s with chunks := s.chunks.filter fun e => !(decide (2048 ≤ e.1) && decide (e.1 < 4096) &&
      decide ((s.grads.filter fun g => g.tag.home + 2048 == e.1).length ≤ 32)) }

/-- Progress on a die, which deadlock detection looks for (R343). -/
def State.progress (s : State) (die : Nat) : State := { s with worked := AL.put s.worked die s.cycle }

/-- A context holds its slot for one more reference cycle of the interval (R367). -/
def countOne (l : List Resid) (e : Nat × Ctx) : List Resid :=
  if l.any fun r => r.core == coreOf e.1 && r.cid == e.2.cid then
    l.map fun r => if r.core == coreOf e.1 && r.cid == e.2.cid then { r with cycles := r.cycles + 1 } else r
  else l ++ [⟨coreOf e.1, e.2.cid, e.2.pd.toNat, 1⟩]

/-- The reference cycle in which a context gives up its slot is one for which it held the slot (R367, R373). -/
def State.countLast (s : State) (e : Nat × Ctx) : State :=
  if holdsSlot e.1 then { s with resid := countOne s.resid e } else s

/-- A context that stops for good without `EXIT` leaves its slot; its energy is accounted for, unless its `EXIT` has
done so (R369). -/
def State.retireCtx (s : State) (a : Nat) : State :=
  match s.ctx a with
  | none => s
  | some c =>
    let s0 := (s.markDeck (coreOf a)).countLast (a, c)
    let s1 := (if c.status == .exited then s0 else s0.account c).unlock c.cid
    { s1 with ctxs := AL.del s1.ctxs a }

/-- A context whose team has retired gives up its slot (R348). While operations of its window go on, it is kept under a
key apart. -/
def State.freeSlotOf (s : State) (a : Nat) : State :=
  match s.ctx a with
  | none => s
  | some c =>
    let s1 := (s.markDeck (coreOf a)).countLast (a, c)
    if c.window.isEmpty then { s1 with ctxs := AL.del s1.ctxs a }
    else
      let b := orphanKey a c.cid
      ({ s1 with ctxs := AL.put (AL.del s1.ctxs a) b c } : State).onCore (coreOf a) fun x =>
        { x with epi := x.epi.map fun e => if e.1 == a then (b, e.2) else e }

/-- The members of an instance that have a slot. -/
def State.membersOf (s : State) (g : GInst) : List (Nat × Ctx) :=
  s.ctxs.filter fun e => e.2.task == g.task && e.2.inst == g.num

/-! ## Trap records (Table 19-2) -/

/-- A trap record. -/
structure TrapRec where
  info      : TrapInfo
  bundle    : CodePos
  resume    : CodePos
  tick      : W64
  flags     : Nat
  cancelled : Nat
  tseq      : Nat
  rep       : Nat
  deriving DecidableEq, Repr

/-- The 56 bytes of a trap record below its task field. -/
def TrapRec.bytes (r : TrapRec) : List Byte :=
  natLe 2 r.info.cause ++ natLe 1 r.flags ++ natLe 1 r.info.slots.toNat ++ natLe 1 r.cancelled ++ natLe 1 r.rep ++
    natLe 2 0 ++ natLe 8 r.bundle.toWord.toNat ++ natLe 8 r.resume.toWord.toNat ++ natLe 4 r.tseq ++
    natLe 4 r.info.unit.toNat ++ natLe 8 r.info.faddr.toNat ++ natLe 8 r.info.aux.toNat ++ natLe 8 r.tick.toNat

/-- The trap record is written at `trapbuf` as one store of the context at context scope, performed at its home at once
(R377); like any store it then goes on to memory. -/
def State.writeRecord (s : State) (a : Nat) (c : Ctx) (r : TrapRec) : Res Unit :=
  match s.writeFlat c.pd.toNat c.trapbuf.toNat (r.bytes ++ natLe 8 0) with
  | .ok s1 _ => .ok (s1.wroteLines a c.cid c.pd.toNat 1 none r.bundle [flatTag c.pd.toNat c.trapbuf.toNat]) ()
  | .fault f => .fault f
  | .wait => .wait

/-- The unit path of the sequencer of a slot (Table 2-7). -/
def seqUnit (a : Nat) : BitVec 32 := coreUnit a 0 (a % 4)

/-- Whether an operation belongs to the stream that a trap has interrupted (R138). One replayed before a replay that
faulted is part of a new trap of that stream (R251). -/
def Ctx.foreign (c : Ctx) (o : TOp) : Bool := c.capture.isSome && c.refault.isNone && !o.handler

/-- Whether an operation has met a delivered fault. -/
def TOp.hasFault (o : TOp) : Bool :=
  match o.status with
  | .faulted _ => true
  | _ => false

/-- Whether an operation of the window has met a delivered fault that is to be raised now: the context issues no more
until it is unwound. A fault of the interrupted stream waits for `TRET` while a handler runs (R378). -/
def Ctx.opFaulted (c : Ctx) : Bool := c.refault.isSome || c.window.any fun o => o.hasFault && !c.foreign o

/-- The operations that an unwinding has cancelled and that are not yet issued again: the replay list, and those of an
unwinding or a replay whose trap is still to be taken (R250, R251, R346). -/
def Ctx.keptOps (c : Ctx) : List TOp := (c.capture.map (·.replay)).getD [] ++ (c.refault.map (·.2)).getD []

/-- Whether nothing waits for an operation any more: it is complete, or it belongs to the interrupted stream and has a
fault that is raised after `TRET` (R378, log 35). -/
def Ctx.outOfWay (c : Ctx) (o : TOp) : Bool := o.status == .done || (o.hasFault && c.foreign o)

/-- Whether a context cannot issue whatever its bundle: it has ended, a fault of its window is to be raised, it is being
saved, or its banks are being vacated (R44, R250, R340, R346). -/
def Ctx.cannotIssue (c : Ctx) : Bool := c.status != .running || c.opFaulted || c.stopped || c.vacating

/-- The repeat flag and the repetition of a record (Table 19-2). -/
def Ctx.repFlag (c : Ctx) : Nat := if c.rep.isSome then 8 else 0
def Ctx.repK (c : Ctx) : Nat := (c.rep.map (·.k)).getD 0

/-- A record that cannot be written yet, since its page is still to be mapped, is a store of the context that goes on by
itself (R379). -/
def State.recordLater (s : State) (a : Nat) (c : Ctx) (r : TrapRec) : State :=
  let x : Access :=
    { id := s.nextId, agent := a, cid := c.cid, dom := c.pd.toNat, kind := .store, sp := false, va := c.trapbuf.toNat
      parts := [(c.trapbuf.toNat, 0, 64)], size := 64, sx := false, ord := 1, wit := 0, scope := 1, evict := 4
      data := vecOfBytes (r.bytes ++ natLe 8 0), data2 := 0, lanes := laneMask 0 64, dest := none, seq := none
      pos := r.bundle, tick := r.tick, fmt := 0, level := 0, kept := false, stamp := none, core := coreOf a
      owner := slotOf a, sat := true, floor := c.floor, floorEp := c.floorEp }
  { s with nextId := s.nextId + 1, accs := s.accs ++ [x] }

/-- The first context of an instance is the sequencer that the firmware names when no context has raised an abort
(R379). -/
def GInst.firstUnit (g : GInst) : BitVec 32 := seqUnit (slotOf ((g.members.head?.map (·.agent)).getD 0))

/-! ## Aborting a gang instance (R350, R379) -/

/-- The provenance latches of an instance clear when it retires (R293). -/
def State.clearLatches (s : State) (task inst : Nat) : State :=
  { s with latches := s.latches.filter fun l => !(l.task == task && l.inst == inst) }

/-- Contributions of contexts that stop for good wait in no reorder buffer for an index that may never come: they are not
applied, and their forms fail (R106, R350). -/
def State.dropEarly (s : State) (cids : List Nat) : State :=
  let early := (s.lines.flatMap (·.reorder)).filter fun x => cids.contains x.cid
  let s1 : State := { s with lines := s.lines.map fun l => { l with reorder := l.reorder.filter fun x => !cids.contains x.cid } }
  early.foldl (fun (s : State) x => s.formFail x.agent x.dom x.seq) s1

/-- The contexts of a gang instance stop for good (R350): captures and windows are discarded, the forms of cancelled
operations fail, contributions not yet accepted are not applied nor those that wait for their turn, and accesses already
issued are still to be performed. -/
def State.stopInst (s : State) (g : GInst) : State :=
  let ms := s.membersOf g
  let s1 : State := ms.foldl (fun (s : State) (e : Nat × Ctx) => (s.failOps g.dom (e.2.window ++ e.2.keptOps)).retireCtx e.1) s
  let cids := ms.map (·.2.cid)
  let s2 : State := { s1 with
    accs := s1.accs.map fun (x : Access) => if cids.contains x.cid then { x with kept := false } else x
    grads := s1.grads.filter fun (x : Contribution) => !cids.contains x.cid }
  let s3 := (ms.map fun e => coreOf e.1).eraseDups.foldl (fun (s : State) k => s.dropEpis k (ms.map (·.1))) (s2.dropEarly cids).settleGrads
  (s3.onInst g.task g.num fun g =>
    { g with
      status := .aborted, members := g.members.map fun m => { m with exited := true }
      steps := [], first := [], last := [] }).clearLatches g.task g.num

/-- Abort a gang instance: its record is written at the trapbuf of the context that raised the cause and appended to
the abort log of the task's domain, and its contexts stop. -/
def State.abortInst (s : State) (task num : Nat) (raiser : Option Nat) (r : TrapRec) : State :=
  match s.inst task num with
  | none => s
  | some g =>
    let rec0 : TrapRec := { r with flags := r.flags ||| 4 }
    let s1 := match raiser.bind s.ctx with
      | none => s
      | some c =>
        if c.trapbuf = 0 then s
        else match s.writeRecord (raiser.getD 0) c rec0 with
          | .ok s' _ => s'
          | .wait => s.recordLater (raiser.getD 0) c rec0
          | .fault _ => s
    let tk : Option Task := s.task task
    let s2 := s1.ringAppend (Config.abortLogHeader + 32 * g.dom) 64
      (rec0.bytes ++ natLe 1 ((tk.map fun (t : Task) => t.queue).getD 0) ++ natLe 3 0 ++ natLe 4 ((tk.map fun (t : Task) => t.tag).getD 0).toNat)
    (s2.stopInst g).onTask task fun t => { t with cause := if t.cause = 0 then r.info.cause else t.cause }

/-! ## Segments (R123, R124, R127, R128) -/

/-- The fault of a segment fetch (Table 19-1); poisoned bytes are a `MACHINE` event as they are. -/
def fetchFault (f : MFault) (seg : Nat) : MFault := if f.cause = 0x50 then f else { f with aux := 4, faddr := seg }

/-- A segment as read from memory: its header, then its units. -/
def State.fetchSeg (s : State) (dom seg : Nat) : Res Half :=
  match s.readFlat dom .exec [] seg 8 with
  | .fault f => .fault (fetchFault f seg)
  | .wait => .wait
  | .ok s1 h =>
    let hdr : W64 := BitVec.ofNat 64 (leNat h)
    let cnt := (hdr.extractLsb' 4 10).toNat
    match s1.readFlat dom .exec [] (seg + 8) (2 * cnt) with
    | .fault f => .fault (fetchFault f seg)
    | .wait => .wait
    | .ok s2 bs => .ok s2 ⟨seg, hdr, (elemsOf 2 bs).map (BitVec.ofNat 16), s2.codegen⟩

/-- What is written whole is poisoned no more (R381). -/
def State.clearKey (s : State) (k : Nat) : State := { s with poison := s.poison.filter fun p => p / 2 != k }

/-- The segment at an address for a context: from its loop buffer, else fetched into one half (R128). -/
def State.segment (s : State) (a : Nat) (seg : Nat) : Res Half :=
  match s.ctx a with
  | none => .wait
  | some c =>
    match c.halves.find? fun h => h.seg == seg with
    | some h => .ok s h
    | none =>
      match s.fetchSeg c.pd.toNat seg with
      | .fault f => .fault f
      | .wait => .wait
      | .ok s1 h => .ok ((s1.clearKey (lbKey a seg)).onCtx a fun c => { c with halves := (h :: c.halves).take 2 }) h

/-- The count of units that a segment header gives, and its must-be-zero bits. -/
def Half.count (h : Half) : Nat := (h.hdr.extractLsb' 4 10).toNat
def Half.mbz (h : Half) : Bool := h.hdr.extractLsb' 1 3 == 0
def Half.last (h : Half) : Bool := h.hdr.getLsbD 0
def Half.nextSeg (h : Half) : Nat := (h.hdr.extractLsb' 14 50).toNat * 128

/-- The role of a unit found where a reference, prefix or segment end is expected (R124). -/
inductive Role where
  | ref (idx lits : Nat)
  | group (count : Nat) (steps : Unit16) (idx lits : Nat)
  | segEnd
  /-- A defect (R124, R127): the units it takes, and the bundle it names, when it has the form of a reference or group. -/
  | bad (len : Nat) (idx : Option Nat)
  deriving DecidableEq, Repr

/-- How many units an item of a segment takes. -/
def Role.len (r : Role) : Nat :=
  match r with
  | .ref _ l => 1 + l
  | .group _ _ _ l => 3 + l
  | .segEnd => 1
  | .bad l _ => l

/-- The index and the literal count of a unit with the form of a reference, whatever its must-be-zero bits (Table 5-11). -/
def refLike (u : Unit16) : Option (Nat × Nat) :=
  if u.getLsbD 15 then none else some ((u.extractLsb' 6 9).toNat, (u.extractLsb' 3 3).toNat)

/-- The bundle that a defective reference or repeat group still names, its literals, and whether it is a group's (R131). -/
def badRef (us : List Unit16) : Option (Nat × List Unit16 × Bool) :=
  match us with
  | [] => none
  | u :: r =>
    match refLike u with
    | some x => some (x.1, r.take x.2, false)
    | none =>
      if u.extractLsb' 13 3 = 4 then
        (match r with
         | _ :: u2 :: r2 => (refLike u2).map fun x => (x.1, r2.take x.2, true)
         | _ => none)
      else none

/-- A defect that starts with the given units, as long as the positions of Table 5-11 make it: a reference counts its
literals, a prefix is followed by a step unit and that by a reference; a prefix whose group has no reference takes its
step unit with it, and any other unit stands alone (DEDUCED, log 30). -/
def badRole (us : List Unit16) : Role :=
  match badRef us with
  | some (i, lits, true) => .bad (3 + lits.length) (some i)
  | some (i, lits, false) => .bad (1 + lits.length) (some i)
  | none => .bad (if ((us.head?.map fun u => u.extractLsb' 13 3).getD 0) = 4 then 2 else 1) none

/-- The item that starts with the given units. A segment end stands only at the end of its segment, and nothing but a
segment end ends it (R127). -/
def roleAt (us : List Unit16) : Role :=
  match us with
  | [] => badRole us
  | u :: r =>
    match decodeUnit u with
    | .ref idx l => if r.length > l.toNat then .ref idx.toNat l.toNat else badRole us
    | .repeat c =>
      match r with
      | st :: u2 :: r2 =>
        (match decodeUnit u2 with
         | .ref idx l =>
           if !st.getLsbD 15 && decide (r2.length > l.toNat) then .group (c.toNat + 1) st idx.toNat l.toNat else badRole us
         | _ => badRole us)
      | _ => badRole us
    | .segEnd => if r.isEmpty then .segEnd else badRole us
    | .bad => badRole us

/-- The items of a segment decoded from unit 0, each with its position; a unit's position gives its role, so a defect ends
nothing (R124). -/
def rolesFrom (fuel pos : Nat) (us : List Unit16) : List (Nat × Role) :=
  match fuel with
  | 0 => []
  | f + 1 =>
    if us.isEmpty then []
    else
      let r := roleAt us
      (pos, r) :: rolesFrom f (pos + r.len) (us.drop r.len)

/-- The items of a segment. -/
def Half.roles (h : Half) : List (Nat × Role) := rolesFrom 1024 0 h.units

/-- The number of bundle references in a list of items. -/
def refCount (l : List (Nat × Role)) : Nat :=
  (l.filter fun e => match e.2 with
    | .ref _ _ => true
    | .group _ _ _ _ => true
    | _ => false).length

/-- The item at a unit, when decoding from unit 0 reaches it. A 257th reference is a defect (R127). -/
def Half.item (h : Half) (unit : Nat) : Option Role :=
  match h.roles.find? fun e => e.1 == unit with
  | some e =>
    if refCount (h.roles.filter fun x => x.1 ≤ unit) > 256 then some (badRole (h.units.drop unit)) else some e.2
  | none => none

/-- The position after a unit count, a segment end on the way passed (R127). -/
def Half.after (h : Half) (unit : Nat) : CodePos :=
  match h.item unit with
  | some .segEnd => if h.last then ⟨h.seg, unit⟩ else ⟨h.nextSeg, 0⟩
  | _ => ⟨h.seg, unit⟩

/-- A bundle-table entry of a context (R129). -/
def Ctx.bundle (c : Ctx) (idx : Nat) : BundleWord := AL.get 0 c.bt idx

/-! ## Repeat groups (R126) -/

/-- A field of n bits stepped k times, and whether it stays in its range. -/
def stepField {n : Nat} (v : BitVec n) (st : BitVec 3) (k : Nat) : BitVec n × Bool :=
  let x : Int := (v.toNat : Int) + (k : Int) * st.toInt
  (BitVec.ofInt n x, decide (0 ≤ x) && decide (x < ((2 ^ n : Nat) : Int)))

/-- Whether the VR field of an M opcode names a scalar register, stepped in bits [5:0] only. -/
def vrScalar (op : BitVec 6) : Bool :=
  decide (op.toNat < 4) || (decide (10 ≤ op.toNat) && decide (op.toNat ≤ 18)) || (decide (20 ≤ op.toNat) && decide (op.toNat ≤ 24)) ||
    op.toNat == 26 || op.toNat == 28

/-- The M slot's VR field stepped. -/
def stepVr (f : MF) (st : BitVec 3) (k : Nat) : BitVec 10 × Bool :=
  if vrScalar f.op then
    let r := stepField (f.vr.extractLsb' 0 6) st k
    (f.vr.extractLsb' 6 4 ++ r.1, r.2)
  else stepField f.vr st k

/-- The bundle of repetition k: each stepped field of a non-empty slot is the field as stored plus k times its step. -/
def stepWord (w : BundleWord) (st : Unit16) (k : Nat) : BundleWord × Bool :=
  let v := w.slotV
  let m := w.slotM
  let t := w.slotT
  let vd := stepField v.vd (st.extractLsb' 12 3) k
  let va := stepField v.va (st.extractLsb' 9 3) k
  let vb := stepField v.vb (st.extractLsb' 6 3) k
  let vr := stepVr m (st.extractLsb' 3 3) k
  let ta := stepField t.a (st.extractLsb' 0 3) k
  let nv : VF := if v.mask = 0 then v else { v with vd := vd.1, va := va.1, vb := vb.1 }
  let nm : MF := if m.mask = 0 then m else { m with vr := vr.1 }
  let nt : TF := if t.mask = 0 then t else { t with a := ta.1 }
  (w.extractLsb' 173 83 ++ nm.pack ++ nv.pack ++ w.extractLsb' 45 36 ++ nt.pack,
    (v.mask == 0 || (vd.2 && va.2 && vb.2)) && (m.mask == 0 || vr.2) && (t.mask == 0 || ta.2))

/-- The T-slot form of the bundle at a context's position, as the repetition it stands at has it, when its segment is
held. -/
def Ctx.formT (c : Ctx) : Option Instr :=
  match (c.halves.find? fun h => h.seg == c.pc.seg).bind fun h => h.item c.pc.unit with
  | some (.ref i _) => decodeT (c.bundle i).slotT
  | some (.group _ st i _) => decodeT (stepWord (c.bundle i) ((c.rep.map (·.steps)).getD st) c.repK).1.slotT
  | _ => none

/-- Whether an item may be a target: a reference or prefix whose bundle has the entry bit (R123), a defective one too,
which is illegal only when it issues. A repeated bundle is named by its prefix (R122), so that the reference inside a
repeat group is no target (DESIGN CHOICE, log 30). -/
def Ctx.entryOk (c : Ctx) (r : Option Role) : Bool :=
  match r with
  | some (.ref idx _) => (c.bundle idx).getLsbD 251
  | some (.group _ _ idx _) => (c.bundle idx).getLsbD 251
  | some (.bad _ (some idx)) => (c.bundle idx).getLsbD 251
  | _ => false

/-- The check of a target (R123): its segment may be impossible to fetch, or the unit no legal target. -/
def State.target (s : State) (a : Nat) (p : CodePos) : Res Bool :=
  match s.segment a p.seg with
  | .fault f => .fault f
  | .wait => .wait
  | .ok s1 h =>
    match s1.ctx a with
    | none => .wait
    | some c => .ok s1 (h.count != 0 && c.entryOk (h.item p.unit))

/-! ## Taking a trap (R138, R163, R377, R378) -/

/-- The record of a trap with the flags of what is kept. -/
def State.keptFlags (s : State) (c : Ctx) : Nat :=
  (if s.accs.any fun x => x.cid == c.cid && x.kept then 2 else 0) +
    (match c.capture with
     | some k => if k.replay.isEmpty then 0 else 1
     | none => 0)

/-- A context trap on a slot. first says that no capture is held yet, so that the interrupted stream is captured; a
replay that faults again keeps the capture that is held (R251). Without a handler, or when the record or the handler
cannot be reached, the gang instance aborts; while the handler's segment cannot yet be read, nothing happens. -/
def State.takeTrap (s : State) (a : Nat) (r : TrapRec) (replay : List TOp) (again : Bool) : State :=
  match s.ctx a with
  | none => s
  | some c =>
    let lost := s.failOps c.pd.toNat replay
    if c.capture.isSome && !again then lost.abortInst c.task c.inst (some a) r
    else if c.tvec = 0 then lost.abortInst c.task c.inst (some a) r
    else
      let written : Option (Option State) :=
        if c.trapbuf = 0 then some (some s)
        else match s.writeRecord a c r with
          | .ok s' _ => some (some s')
          | .fault _ => some none
          | .wait => none
      match written with
      | none => s
      | some none => lost.abortInst c.task c.inst (some a) r
      | some (some s1) =>
        let tv := CodePos.ofWord c.tvec
        let bad (cause : Nat) (aux : W64) (fa : Nat) (u : BitVec 32) : State :=
          (s1.failOps c.pd.toNat replay).abortInst c.task c.inst (some a)
            { r with info := { cause := cause, aux := aux, faddr := BitVec.ofNat 64 fa, slots := r.info.slots, unit := u } }
        if c.tvec.extractLsb' 60 4 ≠ 0 then bad 5 c.tvec 0 (seqUnit a)
        else match s1.target a tv with
          | .fault f => bad f.cause (BitVec.ofNat 64 f.aux) f.faddr f.unit
          | .wait => s
          | .ok _ false => bad 5 c.tvec 0 (seqUnit a)
          | .ok s2 true =>
            s2.onCtx a fun c =>
              let cap : Capture := match c.capture with
                | some k => { k with replay := replay, pend := k.pend ++ c.pend }
                | none => ⟨c.pend, r.resume, c.rep, c.loops, replay, s2.nextId, c.nextTile, c.arrived, c.released⟩
              { c with
                capture := some cap, pend := [], loops := [], rep := none, pc := tv, held := false, pendTrap := none, late := false
                arrived := none, released := none, swWait := none, swRel := none, swKey := none, refault := none }

/-- A `MACHINE` event of a context: its gang instance is aborted (R375). The record names the bundle of what met it: of
an access, of a tile operation with its number, or the one at the context's position. -/
def State.machineEvent (s : State) (a : Nat) (pos : CodePos) (slots : BitVec 8) (tseq : Option Nat) (aux faddr : Nat)
    (unit : BitVec 32) : State :=
  match s.ctx a with
  | none => s
  | some c =>
    s.abortInst c.task c.inst (some a)
      ⟨{ cause := 0x50, aux := BitVec.ofNat 64 aux, faddr := BitVec.ofNat 64 faddr, slots := slots, unit := unit }, pos, c.pc,
        c.tick, s.keptFlags c ||| c.repFlag ||| (if tseq.isSome then 32 else 0), 0, tseq.getD 0, c.repK⟩

/-- The return from a trap (R165, R138): the interrupted stream's results land beside those that the bundle of `TRET`
has started (R132), its loop stack and repeat state are restored, its kept accesses are performed again in order, and issue continues at the resume position. -/
def State.returnTrap (s : State) (a : Nat) : State :=
  match s.ctx a with
  | none => s
  | some c =>
    match c.capture with
    | none => s
    | some k =>
      let s1 := s.setCtx a { c with
        capture := none, pend := k.pend ++ c.pend, loops := k.loops, rep := k.rep, pc := k.resume
        arrived := k.arrived, released := k.released, swWait := none, swRel := none, swKey := none }
      { s1 with accs := s1.accs.map fun x => if x.cid == c.cid then x.letOn else x }

end Sys2Proof.Machine
end

