-- ==== Sys2Proof/Machine/Issue.lean ====
section
/-! DEFINITION. The issue of a bundle: what each slot asks for, the checks in their precedence, holds, the commit of all
executing slots together, and the next code position (05 R121, R130 to R137, 06 R146, R154, 17 R366). -/

namespace Sys2Proof.Machine

/-- What a slot sees at issue: the state after the results due at t have landed, the issuing slot, its context, the
code position of the bundle (of the prefix, when repeated), its sequential position, its segment, and the repetition. -/
structure Env where
  s      : State
  a      : Nat
  c      : Ctx
  pos    : CodePos
  seqPos : CodePos
  half   : Half
  repK   : Nat
  repN   : Nat
  /-- Whether the M slot of the bundle takes a sequence number before the T slot does. -/
  mTook  : Bool := false
  deriving Repr

/-- Where issue goes after a C form (R146). -/
inductive NextReq where
  | sequential
  | jump (p : CodePos)
  | open (c : W64) (endp after : CodePos)
  | breakTo (p : CodePos)
  | exits
  | traps (info : TrapInfo)
  | returns
  deriving DecidableEq, Repr

/-- What an executing slot does: whether it makes the bundle illegal at issue (R85, R130), the vector registers it
reads (R134), the results it starts, its issue-time fault, whether it is held, whether it takes a sequence number, its
effect at the commit and its effect from t + 1, where issue goes, and its energy weight. -/
structure Eff where
  illegal  : Bool := false
  vreads   : List Nat := []
  pends    : List Pend := []
  fault    : Option TrapInfo := none
  hold     : Bool := false
  onHold   : State → State := id
  takesSeq : Bool := false
  act      : State → State := id
  post     : State → State := id
  next     : NextReq := .sequential
  energy   : Nat := 0
  /-- Results that the bundle's own must not collide with, beside those in flight: the capture that `TRET` replays (R133). -/
  olds     : List Pend := []

/-- What a form asks of the issue of its bundle. A C form has no leaf mask; leaf is the leaf it takes (R115). base is
the base update of address mode 10, made whether or not the slot's leaf is taken (R121, R182). -/
structure SlotReq where
  slot : Slot
  mask : Mask := 31
  leaf : Env → Nat := fun _ => 1
  base : Env → Option Pend := fun _ => none
  eff  : Env → Eff

/-- The issue-time fault of a slot: cause, auxiliary word, fault address. -/
def issueFault (a : Nat) (cause : Nat) (aux : W64) (faddr : Nat) : TrapInfo :=
  { cause, aux, faddr := BitVec.ofNat 64 faddr, unit := seqUnit a }

/-- The memory fault of a slot at issue, with the unit that met it (R376). -/
def memFault (f : MFault) : TrapInfo :=
  { cause := f.cause, aux := BitVec.ofNat 64 f.aux, faddr := BitVec.ofNat 64 f.faddr, unit := f.unit }

/-- A slot that executes, with its effect and its results, the base update of the M slot among them. -/
structure Done where
  slot  : Slot
  runs  : Bool
  eff   : Eff
  pends : List Pend

/-- Whether two results would land on one register at one tick (R133). -/
def Pend.hits (p q : Pend) : Bool := p.real && p.reg == q.reg && p.left == q.left

/-- The slots whose results collide with one in flight or with another of the bundle (R131, R133). -/
def collisions (old : List Pend) (ds : List Done) : BitVec 8 :=
  ds.foldl (fun m d =>
    let others := old ++ (ds.filter fun e => e.slot != d.slot).flatMap (·.pends)
    let rec dup : List Pend → Bool
      | [] => false
      | p :: r => r.any p.hits || dup r
    if (d.pends.any fun p => others.any p.hits) || dup d.pends then m ||| maskBit d.slot.bit true else m) 0

/-- Whether a result is a vector write. -/
def Pend.isV (p : Pend) : Bool :=
  match p.reg with
  | .v _ => true
  | _ => false

/-- The vector writes of a list that land at an offset. -/
def vWrites (l : List Pend) (left : Nat) : Nat := (l.filter fun p => p.isV && p.left == left).length

/-- The port bound that a bundle breaks, lowest auxiliary word first, with the slots that contribute (R131, R134, R135). -/
def portOver (old : List Pend) (ds : List Done) : Option (Nat × BitVec 8) :=
  let new := ds.flatMap (·.pends)
  let reads := (ds.map fun d => if d.runs then d.eff.vreads.length else 0).sum
  let slotsIf (f : Done → Bool) : BitVec 8 := ds.foldl (fun m d => m ||| maskBit d.slot.bit (f d)) 0
  let third := fun (p : Pend) => p.isV && decide (vWrites (old ++ new) p.left > 2)
  if reads > 4 then some (0, slotsIf fun d => d.runs && !d.eff.vreads.isEmpty)
  else if new.any third then some (1, slotsIf fun d => d.pends.any third)
  else if ((old ++ new).filter Pend.real).length > 64 then some (2, slotsIf fun d => d.pends.any Pend.real)
  else none

/-- The loop-end step of R154 at position p, with the sequential position. -/
def loopEnd (p seq : CodePos) (ls : List LoopEntry) : CodePos × List LoopEntry :=
  match ls with
  | [] => (seq, [])
  | e :: r =>
    if e.endp == p then
      if e.index + 1 < e.count then (e.body, { e with index := e.index + 1 } :: r)
      else loopEnd p seq r
    else (seq, e :: r)

/-- The next position and loop stack after a bundle (R146). -/
def nextPos (p seq : CodePos) (n : NextReq) (ls : List LoopEntry) : CodePos × List LoopEntry :=
  match n with
  | .sequential => loopEnd p seq ls
  | .traps _ => loopEnd p seq ls
  | .jump q => (q, ls)
  | .open c endp after => if c = 0 then (after, ls) else (seq, ⟨c, 0, seq, endp⟩ :: ls)
  | .breakTo q => (q, ls.drop 1)
  | .exits => (seq, ls)
  | .returns => (seq, ls)

/-- The trap record of a fault at issue: the bundle itself is where it resumes (R164). -/
def issueRec (e : Env) (info : TrapInfo) : TrapRec :=
  ⟨info, e.pos, e.pos, e.c.tick, (if e.c.rep.isSome then 8 else 0), 0, 0, if e.c.rep.isSome then e.repK else 0⟩

/-- A trap at issue: no slot commits. Poisoned data read at issue is a `MACHINE` event, which aborts (R375, R381). -/
def trapAt (e : Env) (info : TrapInfo) : State :=
  let r := issueRec e info
  if info.cause = 0x50 then e.s.abortInst e.c.task e.c.inst (some e.a) r
  else e.s.takeTrap e.a { r with flags := r.flags ||| e.s.keptFlags e.c } [] false

/-- The record of a cause that the bundle as a whole meets. -/
def bundleFault (e : Env) (cause aux : Nat) (slots : BitVec 8) : State :=
  trapAt e { cause, aux := BitVec.ofNat 64 aux, slots, unit := seqUnit e.a }

/-- One statistics record is drained by a bundle whose M slot is empty (R111): it becomes a store of the context. Records
dropped at a full queue are counted with it (R343). Operations that waited for room in the queue may retire then (R342). -/
def State.drainStat (s : State) (a : Nat) : State :=
  match s.ctx a with
  | none => s
  | some c =>
    match c.statq with
    | [] => s
    | r :: q =>
      let s1 := s.setCtx a (Ctx.statReturn { c with statq := q, lost := 0 }).retireTiles
      if c.statbuf = 0 then s1
      else
        let x : Access :=
          { id := s1.nextId, agent := a, cid := c.cid, dom := c.pd.toNat, kind := .stat r c.lost, sp := false
            va := c.statbuf.toNat, parts := [(c.statbuf.toNat, 0, 24)], size := 24, sx := false, ord := 1, wit := 0
            scope := 1, evict := 4, data := 0, data2 := 0, lanes := 0, dest := none, seq := none, pos := c.pc
            tick := c.tick, fmt := c.fmt, level := 0, kept := false, stamp := none, core := coreOf a, owner := a
            sat := true, floor := c.floor, floorEp := c.floorEp }
        { s1 with nextId := s1.nextId + 1, accs := s1.accs ++ [x] }

/-- A task whose context issues its first bundle is running (Table 16-1). -/
def State.markRunning (s : State) (task : Nat) : State :=
  match s.task task with
  | some t => if t.state == .placed then s.enter task .running 0 0 t.hash else s
  | none => s

/-- The teams of an instance whose every member has exited free their slots and banks; when all teams have exited, the
instance retires (R348). A context that only drains its window is gone once that is empty. -/
def State.retireTeams (s : State) (task num : Nat) : State :=
  match s.inst task num with
  | none => s
  | some g =>
    let done := fun team => g.members.all fun m => m.team != team || m.exited
    let s1 := (s.membersOf g).foldl (fun (s : State) (e : Nat × Ctx) =>
      if holdsSlot e.1 then (if e.2.status == .exited && done e.2.team then s.freeSlotOf e.1 else s)
      else if e.2.window.isEmpty then { s with ctxs := AL.del s.ctxs e.1 } else s) s
    if g.status == .placed && !g.members.isEmpty && g.members.all (·.exited) then
      (s1.onInst task num fun g => { g with status := .retired, steps := [], first := [], last := [] }).clearLatches task num
    else s1

/-- A context ends with `EXIT` (R166): its results are taken as if landed, its stack entries are dropped and their storage
freed, an interrupted stream's capture is discarded, its cancelled operations never replayed fail (R288, R349), its
energy is accounted for (R369), and its locks are released. Statistics records still in its queue are dropped and
counted nowhere: DESIGN CHOICE (log 30). -/
def State.exitCtx (s : State) (a : Nat) : State :=
  match s.ctx a with
  | none => s
  | some c =>
    let s1 := c.pend.foldl (fun s p => s.landOne a p) s
    let replay := c.keptOps
    let noted : State := replay.foldl (fun (s : State) (o : TOp) => s.noteFormFault c.cid (engineDetail o.form)) s1
    let s2 := ((noted.failOps c.pd.toNat replay).unlock c.cid).account c
    let s3 := s2.onCtx a fun c => Ctx.gc { c with
      pend := [], capture := none, stack := [], status := .exited, held := false, statq := [], lost := 0, statChunks := 0
      window := c.window.filter fun o => o.status != .done }
    let s4 := { s3 with accs := s3.accs.map fun (x : Access) => if x.cid == c.cid then { x with kept := false } else x }
    (s4.onInst c.task c.inst fun g => { g with members := g.members.map fun m =>
      if m.team == c.team && m.cnum == c.cnum then { m with exited := true } else m }).retireTeams c.task c.inst

/-- The context after a commit: the tick, every result in flight and every bundle-table write (R214) move on by one, the bundle's results join them,
and issue goes to the next position or the next repetition of its group. -/
def commitCtx (e : Env) (new : List Pend) (energy : Nat) (np : CodePos × List LoopEntry) (c : Ctx) : Ctx :=
  let inGroup := decide (e.repK + 1 < e.repN)
  let c1 := c.charge energy
  { c1 with
    tick := c.tick + 1
    pend := (c.pend ++ new).map fun p => { p with left := p.left - 1 }
    btPend := (c.btPend.filter fun b => b.1 != 1).map fun b => (b.1 - 1, b.2)
    bt := (c.btPend.filter fun b => b.1 == 1).foldl (fun m b => AL.set 0 m b.2.1 b.2.2) c.bt
    pc := if inGroup then c.pc else np.1
    loops := if inGroup then c.loops else np.2
    rep := if inGroup then c.rep.map fun r => { r with k := r.k + 1 } else none
    held := false
    issues := c.issues + 1
    waitCount := 0
    floorWait := false
    late := false }

/-- What a slot does in a bundle whose C slot takes a leaf (R121). The base update counts as a result whether or not the
slot's leaf is taken (R133, R135: DEDUCED, log 30). -/
def doneOf (e : Env) (leaf : Nat) (mTook : Bool) (r : SlotReq) : Done :=
  let runs := r.slot == .c || r.mask.getLsbD (leaf - 1)
  let f := if runs then r.eff (if r.slot == .t then { e with mTook := mTook } else e) else {}
  let base := (r.base e).toList
  ⟨r.slot, runs, f, base ++ (if runs then f.pends else [])⟩

/-- The commit of all executing slots of a bundle together (R130, R146, R366). -/
def commitBundle (e : Env) (ds : List Done) : State :=
  let nx := ((ds.find? fun d => d.slot == .c).map fun d => d.eff.next).getD .sequential
  let s0 := ds.foldl (fun s d => if d.runs then d.eff.act s else s) e.s
  let s1 := if ds.any fun d => d.slot == .m then s0 else s0.drainStat e.a
  let np := if e.repK + 1 < e.repN then (e.pos, e.c.loops) else nextPos e.pos e.seqPos nx e.c.loops
  let energy := 4 + (ds.map fun d => if d.runs then d.eff.energy else 0).sum
  let s2 := s1.onCtx e.a (commitCtx e (ds.flatMap (·.pends)) energy np)
  let s4 := ((ds.reverse.foldl (fun s d => if d.runs then d.eff.post s else s) s2).markRunning e.c.task).progress (dieOf e.a)
  match nx with
  | .traps info =>
    match s4.ctx e.a with
    | none => s4
    | some c4 =>
      let i2 : TrapInfo := { info with slots := 0x20, unit := seqUnit e.a }
      (s4.setCtx e.a { c4 with pendTrap := some (i2, e.pos, e.c.tick) }).takeTrap e.a
        ⟨i2, e.pos, c4.pc, e.c.tick, s4.keptFlags c4, 0, 0, 0⟩ [] false
  | .exits => s4.exitCtx e.a
  | _ => s4

/-- How many sequence numbers a bundle takes. -/
def takers (ds : List Done) : Nat := (ds.filter fun d => d.runs && d.eff.takesSeq).length

/-- The first slot that holds a bundle: `TWAIT`, `SBAR`, `WWAIT`, `STATF`, `EXIT` and `TRET` hold it before issue (R157). -/
def cHolds (ds : List Done) : Bool := ds.any fun d => d.slot == .c && d.eff.hold && d.eff.fault.isNone

/-- The poisoned vector registers that running slots read: no poisoned value lands anywhere (R381). -/
def Env.regPoison (e : Env) (ds : List Done) : Option TrapInfo :=
  let bad := fun (n : Nat) => e.s.poisoned (rKey e.a n) 256
  ((ds.flatMap fun d => if d.runs then d.eff.vreads else []).find? bad).map fun n =>
    { cause := 0x50, unit := coreUnit e.a 2 (3 * (e.a % 4) + n / 256)
      slots := ds.foldl (fun m d => m ||| maskBit d.slot.bit (d.runs && d.eff.vreads.any bad)) 0 }

/-- A bundle is held: its slots' waits begin (R136). -/
def holdBundle (e : Env) (ds : List Done) : State :=
  (ds.foldl (fun s d => if d.runs && d.eff.hold then d.eff.onHold s else s) e.s).onCtx e.a fun c => { c with held := true }

/-- What remains of an issue once a bundle is legal: a C form may hold it before its issue-time faults are looked at
(R157); then poison in a register that it reads (R381) and the faults; then a slot that waits, or the bound on sequence numbers (R189); then the commit. -/
def issueLegal (e : Env) (ds : List Done) : State :=
  if cHolds ds then holdBundle e (ds.filter fun d => d.slot == .c)
  else match (e.regPoison ds).map (trapAt e) with
  | some s => s
  | none =>
    match ds.find? fun d => d.runs && d.eff.fault.isSome with
    | some d =>
      let info := d.eff.fault.getD { cause := 0 }
      let same := fun (x : Done) => x.runs && (x.eff.fault.map (·.cause)) == some info.cause
      trapAt e { info with slots := ds.foldl (fun m x => m ||| maskBit x.slot.bit (same x)) 0 }
    | none =>
      if ds.any fun d => d.runs && d.eff.hold then holdBundle e ds
      else if takers ds != 0 && decide (e.s.outstanding e.a e.c.pd.toNat + takers ds > 2 ^ 19) then
        e.s.onCtx e.a fun c => { c with held := true }
      else commitBundle e ds

/-- The issue of a bundle of the given forms (R130, R131, R136, R146): due results land first; then the causes are
taken in their precedence; then a slot may hold the bundle; then all executing slots commit together. -/
def issueIn (e : Env) (reqs : List SlotReq) : State :=
  let leaf := match reqs.find? fun r => r.slot == .c with
    | some r => r.leaf e
    | none => 1
  let mTook := reqs.any fun r => r.slot == .m && r.mask.getLsbD (leaf - 1) && (r.eff e).takesSeq
  let ds : List Done := reqs.map (doneOf e leaf mTook)
  let old := e.c.pend ++ ds.flatMap fun d => if d.runs then d.eff.olds else []
  let ill : BitVec 8 := ds.foldl (fun m d => m ||| maskBit d.slot.bit (d.runs && d.eff.illegal)) 0
  if ill ≠ 0 then bundleFault e 0x01 0 ill
  else
    let col := collisions old ds
    if col ≠ 0 then bundleFault e 0x03 0 col
    else match portOver old ds with
      | some p => bundleFault e 0x04 p.1 p.2
      | none => issueLegal e ds

/-- The interval of static energy and of the error log, in reference cycles (R367, R382). -/
def interval : Nat := 1050000

/-- One second in reference cycles (R6). -/
def second : Nat := 1050000000

/-- Whether the shares of static energy of an interval are still to be made: once at each boundary, before anything issues
in its cycle (R367, R371). -/
def State.shareDue (s : State) : Bool := decide (s.shareNum < s.cycle / interval)

/-- Whether the records of an interval's corrected errors are still to be written (R382). -/
def State.errDue (s : State) : Bool := decide (s.errNum < s.cycle / interval)

/-- Whether the sample of the predictive counters is still to be taken (R390). -/
def State.sampleDue (s : State) : Bool := decide (s.sampleNum < s.cycle / second)

/-- The slots of a bundle in the order C, S, M, V, X, T. -/
def Slot.order (sl : Slot) : Nat := 5 - sl.bit

/-- Whether an access that met its fault as its context was saved is still to meet it, before anything issues (R346). -/
def State.lateAccess (s : State) (c : Ctx) : Bool :=
  c.late && s.accs.any fun x => x.cid == c.cid && x.redo && x.level == 0 && !x.kept

/-- Whether a context that is not stopped may issue: its due results can land (R136), its floor is satisfied (R316), no
shares of energy are due (R371), and no access is still to meet a fault first (R346). -/
def State.mayIssue (s : State) (c : Ctx) : Bool :=
  c.dueReady && !(c.floorWait && !s.witSat c.floor) && !s.shareDue && !s.lateAccess c

/-- The environment of a bundle at the present position of a context, once its due results have landed; none while it may
not issue, is being saved or vacated (R340), or a due result is poisoned (R381). -/
def State.env (s : State) (a : Nat) (half : Half) (seqPos : CodePos) : Option Env :=
  match s.ctx a with
  | none => none
  | some c =>
    if !s.mayIssue c || c.stopped || c.vacating || c.dueBad then none
    else
      let s1 := s.landDue a
      match s1.ctx a with
      | none => none
      | some c1 =>
        let k := match c1.rep with
          | some r => (r.k, r.n)
          | none => (0, 1)
        some ⟨s1, a, c1, c1.pc, seqPos, half, k.1, k.2, false⟩

/-- The environment in which the context on the current slot issues a form of so many literal units by itself: none when
no context runs there, while it is in a landing stall (R136), or while its floor is not satisfied (R316). -/
def State.issuing (s : State) (lits : Nat) : Option Env :=
  match s.ctx s.cur with
  | none => none
  | some c =>
    if c.status != .running then none
    else
      let half := (c.halves.find? fun h => h.seg == c.pc.seg).getD ⟨c.pc.seg, 0, [], 0⟩
      s.env s.cur half (match half.item c.pc.unit with
        | some x => half.after (c.pc.unit + x.len)
        | none => ⟨c.pc.seg, c.pc.unit + 1 + lits⟩)

/-- The meaning of a form taken by itself: the context on the current slot issues a bundle at its position whose only
non-empty slot is that form (log 16). A due result that is poisoned is a machine event (R381). -/
def issueForm (lits : Nat) (r : SlotReq) (s : State) : Host.Outcome State Fault Refusal :=
  match s.ctx s.cur with
  | none => .fault .noIssuer
  | some c =>
    if c.status != .running then .fault .noIssuer
    else match s.issuing lits with
      | none => .next (if s.mayIssue c && c.dueBad && !c.stopped && !c.vacating
          then s.machineEvent s.cur c.pc 0 none 0 0 (seqUnit s.cur) else s)
      | some e => .next (issueIn e [r])

end Sys2Proof.Machine
end

