-- ==== Sys2Proof/Machine/Flags.lean ====
section
/-! DEFINITION. The fields of `fmt` (03 R84 to R88), the truth of comparisons (06 R174, R177), and the events that a
form posts as it lands (04 R109). -/

namespace Sys2Proof.Machine

/-! ## The format register (Table 3-9) -/

def fmtVrnd (f : W64) : Nat := (f.extractLsb' 0 3).toNat
def fmtSat (f : W64) : Bool := f.getLsbD 3
def fmtNfmt (f : W64) : BitVec 6 := f.extractLsb' 4 6
def fmtNscale (f : W64) : Int := (f.extractLsb' 10 8).toInt
def fmtTrnd (f : W64) : Nat := (f.extractLsb' 18 2).toNat
def fmtFlush (f : W64) : Bool := f.getLsbD 20
def fmtIntout (f : W64) : Nat := (f.extractLsb' 21 3).toNat
def fmtStatmask (f : W64) : BitVec 16 := f.extractLsb' 32 16

/-- Whether a value of `fmt` is refused (R85). -/
def fmtIllegal (f : W64) : Bool :=
  f.extractLsb' 48 16 != 0 || f.extractLsb' 24 8 != 0 || decide (fmtVrnd f ≥ 4) || decide (fmtIntout f ≥ 5) ||
    !(fmtNfmt f == 0 || ((fmtNfmt f).getLsbD 5 && (fmtNfmt f).extractLsb' 0 3 != 0))

/-- The number format of a vector type (Table 8-1, R215) and its scale (R79), under a value of `fmt`. -/
def vecFmt (f : W64) (ty : Nat) : NFmt :=
  match ty with
  | 0 => NFmt.int 8 true
  | 1 => NFmt.int 16 true
  | 2 => NFmt.int 32 true
  | 3 => NFmt.int 64 true
  | 4 => NFmt.f16
  | 5 => NFmt.bf16
  | 6 => NFmt.f32
  | _ => NFmt.ofB8 (fmtNfmt f)

def vecScale (f : W64) (ty : Nat) : Int := if ty = 7 then fmtNscale f else 0

/-- Whether the saturation bit governs a vector arithmetic result of a type (R71, R218). -/
def vecSat (f : W64) (ty : Nat) : Bool := ty == 7 && fmtSat f

/-- The size of a vector type's elements in bytes (Table 8-1). -/
def vecSize (ty : Nat) : Nat :=
  match ty with
  | 0 => 1
  | 1 => 2
  | 2 => 4
  | 3 => 8
  | 4 => 2
  | 5 => 2
  | 6 => 4
  | _ => 1

/-! ## Comparisons -/

/-- A < B, A = B of two decoded values; false when either is a NaN (R177, R222). -/
def fLt (a b : FVal) : Bool := !a.isNan && !b.isNan && FVal.cmp a b == .lt
def fEq (a b : FVal) : Bool := !a.isNan && !b.isNan && FVal.cmp a b == .eq
def fLe (a b : FVal) : Bool := !a.isNan && !b.isNan && FVal.cmp a b != .gt

/-- The event of a comparison: an input NaN (R222). -/
def cmpEvents (a b : FVal) : Nat := if a.isNan || b.isNan then ev 1 else 0

/-! ## The events of a form -/

/-- Engine bytes of a statistics record (Table 4-8): core datapath, scalar, vector, crossbar. -/
def engScalar : BitVec 8 := 0x01
def engVector : BitVec 8 := 0x11
def engXbar : BitVec 8 := 0x21

/-- A result with the events its elements met, posted as it lands under the statmask at issue (R109). -/
def Pend.withEvents (p : Pend) (e : Env) (eng : BitVec 8) (evs : List Nat) : Pend :=
  { p with stats := statsOf (fmtStatmask e.c.fmt) evs, pos := e.pos, eng := eng }

end Sys2Proof.Machine
end

