-- ==== Sys2Proof/Machine/Operands.lean ====
section
/-! DEFINITION. The operand forms: operand B of the S slot (06 R168, R177), memory operands (07 R182), vector operands
(08 R216), results as they land (05 R132). -/

namespace Sys2Proof.Machine

/-! ## The S slot -/

/-- The literal units of an operand B (R125). -/
def opLits (b : SOp) : Nat :=
  match b with
  | .reg _ => 0
  | .imm _ => 0
  | .lit16 _ => 1
  | .lit32 _ => 2

/-- Operand B (R168). -/
def opVal (c : Ctx) (b : SOp) : W64 :=
  match b with
  | .reg r => c.readS r.toNat
  | .imm u => u.zeroExtend 64
  | .lit16 l => l.signExtend 64
  | .lit32 l => l.signExtend 64

/-- Operand B of a floating form (R177): a BF16 literal is shifted up, two literals are an FP32 pattern. -/
def opFloat (c : Ctx) (b : SOp) : BitVec 32 :=
  match b with
  | .reg r => (c.readS r.toNat).truncate 32
  | .imm u => u.zeroExtend 32
  | .lit16 l => l ++ (0 : BitVec 16)
  | .lit32 l => l

/-- A scalar result: s0 discards it (R132, R169). -/
def scalarPend (sd : Nat) (lat : Nat) (v : W64) : List Pend :=
  if sd = 0 then [] else [Pend.make (.s sd) lat (v.zeroExtend 2048)]

/-- A condition bit that lands. -/
def condPend (qd : Nat) (lat : Nat) (v : Bool) : Pend := Pend.make (.q qd) lat (BitVec.ofBool v |>.zeroExtend 2048)

/-- A witness that lands; w0 discards it (R132). -/
def witPend (wd : Nat) (lat : Nat) (v : W64) : List Pend :=
  if wd = 0 then [] else [Pend.make (.w wd) lat (v.zeroExtend 2048)]

/-! ## The M slot -/

/-- The literal units of a memory operand (Table 5-12). -/
def addrLits (m : AMode) : Nat :=
  match m with
  | .base => 0
  | .off16 _ => 1
  | .post16 _ => 1
  | .off32 _ => 2

/-- The computed address (R182). -/
def addrOf (c : Ctx) (a : MAddr) (size : Nat) : W64 :=
  let b := c.readS a.base.toNat
  match a.mode with
  | .base => b
  | .off16 l => b + l.signExtend 64 * BitVec.ofNat 64 size
  | .post16 _ => b
  | .off32 l => b + l.signExtend 64

/-- The base update of address mode 10 (R182); s0 discards it. -/
def basePend (c : Ctx) (a : MAddr) (size : Nat) : Option Pend :=
  match a.mode with
  | .post16 l =>
    if a.base = 0 then none
    else some (Pend.make (.s a.base.toNat) 1
      ((c.readS a.base.toNat + l.signExtend 64 * BitVec.ofNat 64 size).zeroExtend 2048))
  | _ => none

/-- The bytes of a size field. -/
def sizeOf2 (z : BitVec 2) : Nat := 2 ^ z.toNat

/-! ## The V and X slots -/

/-- The register that a source field names and that counts as a read, if it names one (R134, R216). -/
def vRead (n : Nat) : List Nat := if n < 768 then [n] else []

/-- The elements of a vector source at a size. -/
def Env.elems (e : Env) (size n : Nat) (field : Nat) : List Nat := lanesOf size n (e.s.vsrc e.a e.c size field)

/-- The governing predicate bits of n elements of a size (R217). -/
def Env.preds (e : Env) (size n : Nat) (p : Nat) : List Bool :=
  let v := e.c.readP p
  (List.range n).map fun i => v.getLsbD (i * size)

/-- The byte lanes of the elements whose predicate bit is true. -/
def lanesFor (size : Nat) (ps : List Bool) : BitVec 256 :=
  let rec go (i : Nat) : List Bool → BitVec 256
    | [] => 0
    | b :: r => (if b then laneMask (i * size) size else 0) ||| go (i + 1) r
  go 0 ps

/-- A vector result under byte lanes (R217). -/
def vecPend (vd lat : Nat) (lanes : BitVec 256) (v : Vec) : Pend :=
  { reg := .v vd, left := lat, val := v, lanes := lanes }

/-- Event masks of the elements that a predicate lets through. -/
def maskedEvents (ps : List Bool) (evs : List Nat) : List Nat :=
  (List.zip ps evs).filterMap fun x => if x.1 then some x.2 else none

end Sys2Proof.Machine
end

