-- ==== Sys2Proof/Machine/Scalar.lean ====
section
/-! DEFINITION. The forms of the S slot (06 R168 to R179). Each form has what it asks of the issue of its bundle (req)
and its meaning by itself (exec). -/

namespace Sys2Proof.Machine

/-- A form whose one result is a scalar register. -/
def sReq (m : Mask) (sd lat energy : Nat) (v : Env → W64) : SlotReq :=
  { slot := .s, mask := m, eff := fun e => { pends := scalarPend sd lat (v e), energy := energy } }

/-- A form whose one result is a condition bit. -/
def qReq (m : Mask) (qd : Nat) (v : Env → Bool) : SlotReq :=
  { slot := .s, mask := m, eff := fun e => { pends := [condPend qd 1 (v e)], energy := 1 } }

/-- Signed and unsigned quotient and remainder with the borderline cases of R171. -/
def divS (a b : W64) : W64 := if b = 0 then BitVec.allOnes 64 else a.sdiv b
def divU (a b : W64) : W64 := if b = 0 then BitVec.allOnes 64 else a / b
def remS (a b : W64) : W64 := if b = 0 then a else a.srem b
def remU (a b : W64) : W64 := if b = 0 then a else a % b

/-- The high 64 bits of the signed and the unsigned product (R170). -/
def mulHS (a b : W64) : W64 := ((a.signExtend 128 * b.signExtend 128) >>> 64).truncate 64
def mulHU (a b : W64) : W64 := ((a.zeroExtend 128 * b.zeroExtend 128) >>> 64).truncate 64

/-- The shift count B[5:0]. -/
def shCount (b : W64) : Nat := (b.extractLsb' 0 6).toNat

/-- Leading zeros and set bits (R170). -/
def clz64 (a : W64) : W64 := BitVec.ofNat 64 (64 - bitLen a.toNat)
def popc64 (a : W64) : W64 := BitVec.ofNat 64 ((List.range 64).filter fun i => a.getLsbD i).length

/-- The field position and width of B (R172). -/
def bfPos (b : W64) : Nat := (b.extractLsb' 0 6).toNat
def bfWidth (b : W64) : Nat := (b.extractLsb' 6 6).toNat + 1

/-- The field of A, bits above bit 63 read as zero (R172). -/
def bfField (a b : W64) : Nat := a.toNat >>> bfPos b % 2 ^ bfWidth b

/-- BFX: the field sign-extended. -/
def bfSigned (a b : W64) : W64 := BitVec.ofInt 64 (sextNat (bfWidth b) (bfField a b))

/-- BFI: the field inserted into D. -/
def bfInsert (d a b : W64) : W64 :=
  let mask : W64 := BitVec.ofNat 64 ((2 ^ bfWidth b - 1) * 2 ^ bfPos b)
  (d &&& ~~~mask) ||| ((a <<< bfPos b) &&& mask)

/-- A + B (R170). -/
def reqAdd (m : Mask) (sd : BitVec 6) (sa : BitVec 6) (b : SOp) : SlotReq :=
  sReq m sd.toNat 1 1 fun e => e.c.readS sa.toNat + opVal e.c b

/-- `ADD` by itself. -/
def execAdd (m : Mask) (sd : BitVec 6) (sa : BitVec 6) (b : SOp) (s : State) : Host.Outcome State Fault Refusal :=
  issueForm (opLits b) (reqAdd m sd sa b) s

/-- A - B (R170). -/
def reqSub (m : Mask) (sd : BitVec 6) (sa : BitVec 6) (b : SOp) : SlotReq :=
  sReq m sd.toNat 1 1 fun e => e.c.readS sa.toNat - opVal e.c b

/-- `SUB` by itself. -/
def execSub (m : Mask) (sd : BitVec 6) (sa : BitVec 6) (b : SOp) (s : State) : Host.Outcome State Fault Refusal :=
  issueForm (opLits b) (reqSub m sd sa b) s

/-- Low 64 bits of A * B (R170). -/
def reqMul (m : Mask) (sd : BitVec 6) (sa : BitVec 6) (b : SOp) : SlotReq :=
  sReq m sd.toNat 3 2 fun e => e.c.readS sa.toNat * opVal e.c b

/-- `MUL` by itself. -/
def execMul (m : Mask) (sd : BitVec 6) (sa : BitVec 6) (b : SOp) (s : State) : Host.Outcome State Fault Refusal :=
  issueForm (opLits b) (reqMul m sd sa b) s

/-- High 64 bits of the signed product (R170). -/
def reqMulh (m : Mask) (sd : BitVec 6) (sa : BitVec 6) (b : SOp) : SlotReq :=
  sReq m sd.toNat 3 2 fun e => mulHS (e.c.readS sa.toNat) (opVal e.c b)

/-- `MULH` by itself. -/
def execMulh (m : Mask) (sd : BitVec 6) (sa : BitVec 6) (b : SOp) (s : State) : Host.Outcome State Fault Refusal :=
  issueForm (opLits b) (reqMulh m sd sa b) s

/-- High 64 bits of the unsigned product (R170). -/
def reqMulhn (m : Mask) (sd : BitVec 6) (sa : BitVec 6) (b : SOp) : SlotReq :=
  sReq m sd.toNat 3 2 fun e => mulHU (e.c.readS sa.toNat) (opVal e.c b)

/-- `MULHN` by itself. -/
def execMulhn (m : Mask) (sd : BitVec 6) (sa : BitVec 6) (b : SOp) (s : State) : Host.Outcome State Fault Refusal :=
  issueForm (opLits b) (reqMulhn m sd sa b) s

/-- Signed quotient toward zero (R170, R171). -/
def reqDiv (m : Mask) (sd : BitVec 6) (sa : BitVec 6) (b : SOp) : SlotReq :=
  sReq m sd.toNat 12 6 fun e => divS (e.c.readS sa.toNat) (opVal e.c b)

/-- `DIV` by itself. -/
def execDiv (m : Mask) (sd : BitVec 6) (sa : BitVec 6) (b : SOp) (s : State) : Host.Outcome State Fault Refusal :=
  issueForm (opLits b) (reqDiv m sd sa b) s

/-- Unsigned quotient (R170, R171). -/
def reqDivn (m : Mask) (sd : BitVec 6) (sa : BitVec 6) (b : SOp) : SlotReq :=
  sReq m sd.toNat 12 6 fun e => divU (e.c.readS sa.toNat) (opVal e.c b)

/-- `DIVN` by itself. -/
def execDivn (m : Mask) (sd : BitVec 6) (sa : BitVec 6) (b : SOp) (s : State) : Host.Outcome State Fault Refusal :=
  issueForm (opLits b) (reqDivn m sd sa b) s

/-- Signed remainder with the sign of A (R170, R171). -/
def reqRem (m : Mask) (sd : BitVec 6) (sa : BitVec 6) (b : SOp) : SlotReq :=
  sReq m sd.toNat 12 6 fun e => remS (e.c.readS sa.toNat) (opVal e.c b)

/-- `REM` by itself. -/
def execRem (m : Mask) (sd : BitVec 6) (sa : BitVec 6) (b : SOp) (s : State) : Host.Outcome State Fault Refusal :=
  issueForm (opLits b) (reqRem m sd sa b) s

/-- Unsigned remainder (R170, R171). -/
def reqRemn (m : Mask) (sd : BitVec 6) (sa : BitVec 6) (b : SOp) : SlotReq :=
  sReq m sd.toNat 12 6 fun e => remU (e.c.readS sa.toNat) (opVal e.c b)

/-- `REMN` by itself. -/
def execRemn (m : Mask) (sd : BitVec 6) (sa : BitVec 6) (b : SOp) (s : State) : Host.Outcome State Fault Refusal :=
  issueForm (opLits b) (reqRemn m sd sa b) s

/-- A and B (R170). -/
def reqAnd (m : Mask) (sd : BitVec 6) (sa : BitVec 6) (b : SOp) : SlotReq :=
  sReq m sd.toNat 1 1 fun e => e.c.readS sa.toNat &&& opVal e.c b

/-- `AND` by itself. -/
def execAnd (m : Mask) (sd : BitVec 6) (sa : BitVec 6) (b : SOp) (s : State) : Host.Outcome State Fault Refusal :=
  issueForm (opLits b) (reqAnd m sd sa b) s

/-- A or B (R170). -/
def reqOr (m : Mask) (sd : BitVec 6) (sa : BitVec 6) (b : SOp) : SlotReq :=
  sReq m sd.toNat 1 1 fun e => e.c.readS sa.toNat ||| opVal e.c b

/-- `OR` by itself. -/
def execOr (m : Mask) (sd : BitVec 6) (sa : BitVec 6) (b : SOp) (s : State) : Host.Outcome State Fault Refusal :=
  issueForm (opLits b) (reqOr m sd sa b) s

/-- A xor B (R170). -/
def reqXor (m : Mask) (sd : BitVec 6) (sa : BitVec 6) (b : SOp) : SlotReq :=
  sReq m sd.toNat 1 1 fun e => e.c.readS sa.toNat ^^^ opVal e.c b

/-- `XOR` by itself. -/
def execXor (m : Mask) (sd : BitVec 6) (sa : BitVec 6) (b : SOp) (s : State) : Host.Outcome State Fault Refusal :=
  issueForm (opLits b) (reqXor m sd sa b) s

/-- A and not B (R170). -/
def reqAndn (m : Mask) (sd : BitVec 6) (sa : BitVec 6) (b : SOp) : SlotReq :=
  sReq m sd.toNat 1 1 fun e => e.c.readS sa.toNat &&& ~~~(opVal e.c b)

/-- `ANDN` by itself. -/
def execAndn (m : Mask) (sd : BitVec 6) (sa : BitVec 6) (b : SOp) (s : State) : Host.Outcome State Fault Refusal :=
  issueForm (opLits b) (reqAndn m sd sa b) s

/-- A << B[5:0] (R170). -/
def reqShl (m : Mask) (sd : BitVec 6) (sa : BitVec 6) (b : SOp) : SlotReq :=
  sReq m sd.toNat 1 1 fun e => e.c.readS sa.toNat <<< shCount (opVal e.c b)

/-- `SHL` by itself. -/
def execShl (m : Mask) (sd : BitVec 6) (sa : BitVec 6) (b : SOp) (s : State) : Host.Outcome State Fault Refusal :=
  issueForm (opLits b) (reqShl m sd sa b) s

/-- A >> B[5:0], zeros in (R170). -/
def reqShr (m : Mask) (sd : BitVec 6) (sa : BitVec 6) (b : SOp) : SlotReq :=
  sReq m sd.toNat 1 1 fun e => e.c.readS sa.toNat >>> shCount (opVal e.c b)

/-- `SHR` by itself. -/
def execShr (m : Mask) (sd : BitVec 6) (sa : BitVec 6) (b : SOp) (s : State) : Host.Outcome State Fault Refusal :=
  issueForm (opLits b) (reqShr m sd sa b) s

/-- A >> B[5:0], copies of A[63] in (R170). -/
def reqSar (m : Mask) (sd : BitVec 6) (sa : BitVec 6) (b : SOp) : SlotReq :=
  sReq m sd.toNat 1 1 fun e => (e.c.readS sa.toNat).sshiftRight (shCount (opVal e.c b))

/-- `SAR` by itself. -/
def execSar (m : Mask) (sd : BitVec 6) (sa : BitVec 6) (b : SOp) (s : State) : Host.Outcome State Fault Refusal :=
  issueForm (opLits b) (reqSar m sd sa b) s

/-- The smaller, signed (R170). -/
def reqMin (m : Mask) (sd : BitVec 6) (sa : BitVec 6) (b : SOp) : SlotReq :=
  sReq m sd.toNat 1 1 fun e => if (e.c.readS sa.toNat).slt (opVal e.c b) then e.c.readS sa.toNat else opVal e.c b

/-- `MIN` by itself. -/
def execMin (m : Mask) (sd : BitVec 6) (sa : BitVec 6) (b : SOp) (s : State) : Host.Outcome State Fault Refusal :=
  issueForm (opLits b) (reqMin m sd sa b) s

/-- The smaller, unsigned (R170). -/
def reqMinn (m : Mask) (sd : BitVec 6) (sa : BitVec 6) (b : SOp) : SlotReq :=
  sReq m sd.toNat 1 1 fun e => if (e.c.readS sa.toNat).ult (opVal e.c b) then e.c.readS sa.toNat else opVal e.c b

/-- `MINN` by itself. -/
def execMinn (m : Mask) (sd : BitVec 6) (sa : BitVec 6) (b : SOp) (s : State) : Host.Outcome State Fault Refusal :=
  issueForm (opLits b) (reqMinn m sd sa b) s

/-- The larger, signed (R170). -/
def reqMax (m : Mask) (sd : BitVec 6) (sa : BitVec 6) (b : SOp) : SlotReq :=
  sReq m sd.toNat 1 1 fun e => if (e.c.readS sa.toNat).slt (opVal e.c b) then opVal e.c b else e.c.readS sa.toNat

/-- `MAX` by itself. -/
def execMax (m : Mask) (sd : BitVec 6) (sa : BitVec 6) (b : SOp) (s : State) : Host.Outcome State Fault Refusal :=
  issueForm (opLits b) (reqMax m sd sa b) s

/-- The larger, unsigned (R170). -/
def reqMaxn (m : Mask) (sd : BitVec 6) (sa : BitVec 6) (b : SOp) : SlotReq :=
  sReq m sd.toNat 1 1 fun e => if (e.c.readS sa.toNat).ult (opVal e.c b) then opVal e.c b else e.c.readS sa.toNat

/-- `MAXN` by itself. -/
def execMaxn (m : Mask) (sd : BitVec 6) (sa : BitVec 6) (b : SOp) (s : State) : Host.Outcome State Fault Refusal :=
  issueForm (opLits b) (reqMaxn m sd sa b) s

/-- Leading zeros of A (R170). -/
def reqClz (m : Mask) (sd : BitVec 6) (sa : BitVec 6) : SlotReq :=
  sReq m sd.toNat 1 1 fun e => clz64 (e.c.readS sa.toNat)

/-- `CLZ` by itself. -/
def execClz (m : Mask) (sd : BitVec 6) (sa : BitVec 6) (s : State) : Host.Outcome State Fault Refusal :=
  issueForm 0 (reqClz m sd sa) s

/-- Set bits of A (R170). -/
def reqPopc (m : Mask) (sd : BitVec 6) (sa : BitVec 6) : SlotReq :=
  sReq m sd.toNat 1 1 fun e => popc64 (e.c.readS sa.toNat)

/-- `POPC` by itself. -/
def execPopc (m : Mask) (sd : BitVec 6) (sa : BitVec 6) (s : State) : Host.Outcome State Fault Refusal :=
  issueForm 0 (reqPopc m sd sa) s

/-- A bit field, sign-extended (R172). -/
def reqBfx (m : Mask) (sd : BitVec 6) (sa : BitVec 6) (b : SOp) : SlotReq :=
  sReq m sd.toNat 1 1 fun e => bfSigned (e.c.readS sa.toNat) (opVal e.c b)

/-- `BFX` by itself. -/
def execBfx (m : Mask) (sd : BitVec 6) (sa : BitVec 6) (b : SOp) (s : State) : Host.Outcome State Fault Refusal :=
  issueForm (opLits b) (reqBfx m sd sa b) s

/-- A bit field (R172). -/
def reqBfxn (m : Mask) (sd : BitVec 6) (sa : BitVec 6) (b : SOp) : SlotReq :=
  sReq m sd.toNat 1 1 fun e => BitVec.ofNat 64 (bfField (e.c.readS sa.toNat) (opVal e.c b))

/-- `BFXN` by itself. -/
def execBfxn (m : Mask) (sd : BitVec 6) (sa : BitVec 6) (b : SOp) (s : State) : Host.Outcome State Fault Refusal :=
  issueForm (opLits b) (reqBfxn m sd sa b) s

/-- A bit field inserted into SD at t (R172). -/
def reqBfi (m : Mask) (sd : BitVec 6) (sa : BitVec 6) (b : SOp) : SlotReq :=
  sReq m sd.toNat 1 1 fun e => bfInsert (e.c.readS sd.toNat) (e.c.readS sa.toNat) (opVal e.c b)

/-- `BFI` by itself. -/
def execBfi (m : Mask) (sd : BitVec 6) (sa : BitVec 6) (b : SOp) (s : State) : Host.Outcome State Fault Refusal :=
  issueForm (opLits b) (reqBfi m sd sa b) s

/-- B in SD (R173). -/
def reqLi (m : Mask) (sd : BitVec 6) (b : SOp) : SlotReq :=
  sReq m sd.toNat 1 1 fun e => opVal e.c b

/-- `LI` by itself. -/
def execLi (m : Mask) (sd : BitVec 6) (b : SOp) (s : State) : Host.Outcome State Fault Refusal :=
  issueForm (opLits b) (reqLi m sd b) s

/-- A when the test is true, else the value of SD at t (R173). -/
def reqSel (m : Mask) (sd : BitVec 6) (t : BitVec 6) (sa : BitVec 6) : SlotReq :=
  sReq m sd.toNat 1 1 fun e => if e.c.test t then e.c.readS sa.toNat else e.c.readS sd.toNat

/-- `SEL` by itself. -/
def execSel (m : Mask) (sd : BitVec 6) (t : BitVec 6) (sa : BitVec 6) (s : State) : Host.Outcome State Fault Refusal :=
  issueForm 0 (reqSel m sd t sa) s

/-- A = B (R174). -/
def reqCeq (m : Mask) (qd : BitVec 5) (sa : BitVec 6) (b : SOp) : SlotReq :=
  qReq m qd.toNat fun e => e.c.readS sa.toNat == opVal e.c b

/-- `CEQ` by itself. -/
def execCeq (m : Mask) (qd : BitVec 5) (sa : BitVec 6) (b : SOp) (s : State) : Host.Outcome State Fault Refusal :=
  issueForm (opLits b) (reqCeq m qd sa b) s

/-- A /= B (R174). -/
def reqCne (m : Mask) (qd : BitVec 5) (sa : BitVec 6) (b : SOp) : SlotReq :=
  qReq m qd.toNat fun e => e.c.readS sa.toNat != opVal e.c b

/-- `CNE` by itself. -/
def execCne (m : Mask) (qd : BitVec 5) (sa : BitVec 6) (b : SOp) (s : State) : Host.Outcome State Fault Refusal :=
  issueForm (opLits b) (reqCne m qd sa b) s

/-- A < B signed (R174). -/
def reqClt (m : Mask) (qd : BitVec 5) (sa : BitVec 6) (b : SOp) : SlotReq :=
  qReq m qd.toNat fun e => (e.c.readS sa.toNat).slt (opVal e.c b)

/-- `CLT` by itself. -/
def execClt (m : Mask) (qd : BitVec 5) (sa : BitVec 6) (b : SOp) (s : State) : Host.Outcome State Fault Refusal :=
  issueForm (opLits b) (reqClt m qd sa b) s

/-- A < B unsigned (R174). -/
def reqCltn (m : Mask) (qd : BitVec 5) (sa : BitVec 6) (b : SOp) : SlotReq :=
  qReq m qd.toNat fun e => (e.c.readS sa.toNat).ult (opVal e.c b)

/-- `CLTN` by itself. -/
def execCltn (m : Mask) (qd : BitVec 5) (sa : BitVec 6) (b : SOp) (s : State) : Host.Outcome State Fault Refusal :=
  issueForm (opLits b) (reqCltn m qd sa b) s

/-- A <= B signed (R174). -/
def reqCle (m : Mask) (qd : BitVec 5) (sa : BitVec 6) (b : SOp) : SlotReq :=
  qReq m qd.toNat fun e => (e.c.readS sa.toNat).sle (opVal e.c b)

/-- `CLE` by itself. -/
def execCle (m : Mask) (qd : BitVec 5) (sa : BitVec 6) (b : SOp) (s : State) : Host.Outcome State Fault Refusal :=
  issueForm (opLits b) (reqCle m qd sa b) s

/-- A <= B unsigned (R174). -/
def reqClen (m : Mask) (qd : BitVec 5) (sa : BitVec 6) (b : SOp) : SlotReq :=
  qReq m qd.toNat fun e => (e.c.readS sa.toNat).ule (opVal e.c b)

/-- `CLEN` by itself. -/
def execClen (m : Mask) (qd : BitVec 5) (sa : BitVec 6) (b : SOp) (s : State) : Host.Outcome State Fault Refusal :=
  issueForm (opLits b) (reqClen m qd sa b) s

/-- Test A and test B (R175). -/
def reqQand (m : Mask) (qd : BitVec 5) (ta : BitVec 6) (tb : BitVec 6) : SlotReq :=
  qReq m qd.toNat fun e => e.c.test ta && e.c.test tb

/-- `QAND` by itself. -/
def execQand (m : Mask) (qd : BitVec 5) (ta : BitVec 6) (tb : BitVec 6) (s : State) : Host.Outcome State Fault Refusal :=
  issueForm 0 (reqQand m qd ta tb) s

/-- Test A or test B (R175). -/
def reqQor (m : Mask) (qd : BitVec 5) (ta : BitVec 6) (tb : BitVec 6) : SlotReq :=
  qReq m qd.toNat fun e => e.c.test ta || e.c.test tb

/-- `QOR` by itself. -/
def execQor (m : Mask) (qd : BitVec 5) (ta : BitVec 6) (tb : BitVec 6) (s : State) : Host.Outcome State Fault Refusal :=
  issueForm 0 (reqQor m qd ta tb) s

/-- Test A xor test B (R175). -/
def reqQxor (m : Mask) (qd : BitVec 5) (ta : BitVec 6) (tb : BitVec 6) : SlotReq :=
  qReq m qd.toNat fun e => e.c.test ta != e.c.test tb

/-- `QXOR` by itself. -/
def execQxor (m : Mask) (qd : BitVec 5) (ta : BitVec 6) (tb : BitVec 6) (s : State) : Host.Outcome State Fault Refusal :=
  issueForm 0 (reqQxor m qd ta tb) s

/-- The condition bits; bit 0 reads 1 (R175). -/
def reqQget (m : Mask) (sd : BitVec 6) : SlotReq :=
  sReq m sd.toNat 1 1 fun e => (e.c.q ||| 1#32).zeroExtend 64

/-- `QGET` by itself. -/
def execQget (m : Mask) (sd : BitVec 6) (s : State) : Host.Outcome State Fault Refusal :=
  issueForm 0 (reqQget m sd) s

/-- q1 to q31 from the bits of A; each counts as a write (R175). -/
def reqQset (m : Mask) (sa : BitVec 6) : SlotReq :=
  { slot := .s, mask := m, eff := fun e =>
      { pends := (List.range 31).map fun i => condPend (i + 1) 1 ((e.c.readS sa.toNat).getLsbD (i + 1)), energy := 1 } }

/-- `QSET` by itself. -/
def execQset (m : Mask) (sa : BitVec 6) (s : State) : Host.Outcome State Fault Refusal :=
  issueForm 0 (reqQset m sa) s

/-- The value of a special register as sampled at issue (R52, R53); reserved indices read zero. -/
def specialGet (a : Nat) (c : Ctx) (i : Nat) : W64 :=
  match i with
  | 0 => c.fmt
  | 1 => c.tick
  | 2 => (c.swctx &&& ~~~(0x3FF : W64)) ||| BitVec.ofNat 64 a
  | 3 => c.pd.zeroExtend 64
  | 4 => BitVec.ofNat 64 c.stack.length
  | 5 => BitVec.ofNat 64 c.tlimit
  | 6 => BitVec.ofNat 64 c.trise
  | 7 => c.deckq.zeroExtend 64
  | 8 => c.pierq.zeroExtend 64
  | 9 => c.spillbase
  | 10 => c.spilllen
  | 11 => BitVec.ofNat 64 c.ecount
  | 12 => if c.esat then 1 else 0
  | 13 => c.lk
  | 14 => c.tvec
  | 15 => c.trapbuf
  | 16 => c.statbuf
  | 17 => c.codegen.zeroExtend 64
  | _ => 0

/-- The effect of a write of a special register from t + 1 on (R52 to R54): bits that are not writable are discarded,
tlimit and trise are clamped. -/
def specialSet (i : Nat) (v : W64) (c : Ctx) : Ctx :=
  match i with
  | 1 => { c with tick := v }
  | 2 => { c with swctx := v &&& ~~~(0x3FF : W64) }
  | 5 => { c with tlimit := Nat.min 4096 (Nat.max v.toNat (Nat.max c.stack.length 1)) }
  | 6 => { c with trise := Nat.min 32 v.toNat }
  | 9 => { c with spillbase := v &&& 0x01FF_FFFF_FFFF_0000 }
  | 10 => { c with spilllen := v &&& ~~~(0x7FF : W64) }
  | 13 => { c with lk := v }
  | 14 => { c with tvec := v }
  | 15 => { c with trapbuf := v &&& ~~~(0x3F : W64) }
  | 16 => { c with statbuf := v }
  | _ => c

/-- Whether any tile of the context lies in the footing (R54). -/
def Ctx.inFooting (c : Ctx) : Bool := c.tiles.any fun e => match e.2.tier with
  | .footing _ => true
  | _ => false

/-- A special register, sampled at t, landing at t + 2 (R53, R176). -/
def reqSget (m : Mask) (sd : BitVec 6) (i : BitVec 6) : SlotReq :=
  sReq m sd.toNat 2 1 fun e => specialGet e.a e.c i.toNat

/-- `SGET` by itself. -/
def execSget (m : Mask) (sd : BitVec 6) (i : BitVec 6) (s : State) : Host.Outcome State Fault Refusal :=
  issueForm 0 (reqSget m sd i) s

/-- A write of a special register, in effect from t + 1 (R52 to R54, R176). -/
def reqSset (m : Mask) (i : BitVec 6) (sa : BitVec 6) : SlotReq :=
  { slot := .s, mask := m, eff := fun e =>
      { fault :=
          if i.toNat = 11 ∨ i.toNat = 12 then some (issueFault e.a 0x21 3 0)
          else if (i.toNat = 9 ∨ i.toNat = 10) ∧ e.c.inFooting then some (issueFault e.a 0x12 1 0)
          else none
        post := fun s => s.onCtx e.a (specialSet i.toNat (e.c.readS sa.toNat))
        energy := 1 } }

/-- `SSET` by itself. -/
def execSset (m : Mask) (i : BitVec 6) (sa : BitVec 6) (s : State) : Host.Outcome State Fault Refusal :=
  issueForm 0 (reqSset m i sa) s

/-- A decoded FP32 operand with the flush rule (R83, R177). -/
def Env.f32 (e : Env) (u : BitVec 32) : FVal × Bool := NFmt.f32.decode u.toNat 0 (fmtFlush e.c.fmt)

/-- The event of flushed inputs. -/
def flushEv (l : List (FVal × Bool)) : Nat := if l.any (·.2) then ev 6 else 0

/-- A scalar result with its events. `s0` discards the value; the events are posted as it would land (R109, R132). -/
def fPend (e : Env) (sd : Nat) (r : Nat × Nat) : List Pend :=
  let p := (Pend.make (if sd = 0 then .none else .s sd) 4 ((BitVec.ofNat 64 r.1).zeroExtend 2048)).withEvents e engScalar [r.2]
  if sd = 0 && p.stats.isEmpty then [] else [p]

/-- A scalar floating form of two operands: one rounding of the exact result into FP32, saturation off (R177). -/
def fReq (m : Mask) (sd sa : BitVec 6) (b : SOp) (op : Nat → FVal → FVal → FVal) : SlotReq :=
  { slot := .s, mask := m, eff := fun e =>
      let x := e.f32 ((e.c.readS sa.toNat).truncate 32)
      let y := e.f32 (opFloat e.c b)
      let mode := fmtVrnd e.c.fmt
      let r := NFmt.f32.finish 0 mode false [x.1, y.1] (op mode x.1 y.1)
      { pends := fPend e sd.toNat (r.1, r.2 ||| flushEv [x, y]), energy := 2 } }

/-- A scalar floating comparison into a condition bit (R177). -/
def fcReq (m : Mask) (qd : BitVec 5) (sa : BitVec 6) (b : SOp) (op : FVal → FVal → Bool) : SlotReq :=
  { slot := .s, mask := m, eff := fun e =>
      let x := e.f32 ((e.c.readS sa.toNat).truncate 32)
      let y := e.f32 (opFloat e.c b)
      { pends := [(condPend qd.toNat 4 (op x.1 y.1)).withEvents e engScalar [cmpEvents x.1 y.1 ||| flushEv [x, y]]]
        energy := 2 } }

/-- A + B in FP32 (R177). -/
def reqFadd (m : Mask) (sd : BitVec 6) (sa : BitVec 6) (b : SOp) : SlotReq :=
  fReq m sd sa b (FVal.add)

/-- `FADD` by itself. -/
def execFadd (m : Mask) (sd : BitVec 6) (sa : BitVec 6) (b : SOp) (s : State) : Host.Outcome State Fault Refusal :=
  issueForm (opLits b) (reqFadd m sd sa b) s

/-- A - B in FP32 (R177). -/
def reqFsub (m : Mask) (sd : BitVec 6) (sa : BitVec 6) (b : SOp) : SlotReq :=
  fReq m sd sa b (FVal.sub)

/-- `FSUB` by itself. -/
def execFsub (m : Mask) (sd : BitVec 6) (sa : BitVec 6) (b : SOp) (s : State) : Host.Outcome State Fault Refusal :=
  issueForm (opLits b) (reqFsub m sd sa b) s

/-- A * B in FP32 (R177). -/
def reqFmul (m : Mask) (sd : BitVec 6) (sa : BitVec 6) (b : SOp) : SlotReq :=
  fReq m sd sa b (fun _ => FVal.mul)

/-- `FMUL` by itself. -/
def execFmul (m : Mask) (sd : BitVec 6) (sa : BitVec 6) (b : SOp) (s : State) : Host.Outcome State Fault Refusal :=
  issueForm (opLits b) (reqFmul m sd sa b) s

/-- The smaller, -0 below +0 (R71, R177). -/
def reqFmin (m : Mask) (sd : BitVec 6) (sa : BitVec 6) (b : SOp) : SlotReq :=
  fReq m sd sa b (fun _ => FVal.min)

/-- `FMIN` by itself. -/
def execFmin (m : Mask) (sd : BitVec 6) (sa : BitVec 6) (b : SOp) (s : State) : Host.Outcome State Fault Refusal :=
  issueForm (opLits b) (reqFmin m sd sa b) s

/-- The larger, -0 below +0 (R71, R177). -/
def reqFmax (m : Mask) (sd : BitVec 6) (sa : BitVec 6) (b : SOp) : SlotReq :=
  fReq m sd sa b (fun _ => FVal.max)

/-- `FMAX` by itself. -/
def execFmax (m : Mask) (sd : BitVec 6) (sa : BitVec 6) (b : SOp) (s : State) : Host.Outcome State Fault Refusal :=
  issueForm (opLits b) (reqFmax m sd sa b) s

/-- A * B + SD at t, rounded once (R177). -/
def reqFfma (m : Mask) (sd : BitVec 6) (sa : BitVec 6) (b : SOp) : SlotReq :=
  { slot := .s, mask := m, eff := fun e =>
      let x := e.f32 ((e.c.readS sa.toNat).truncate 32)
      let y := e.f32 (opFloat e.c b)
      let z := e.f32 ((e.c.readS sd.toNat).truncate 32)
      let mode := fmtVrnd e.c.fmt
      let r := NFmt.f32.finish 0 mode false (if (FVal.mul x.1 y.1).isNan then [x.1, y.1] else [x.1, y.1, z.1])
        (FVal.fma mode x.1 y.1 z.1)
      { pends := fPend e sd.toNat (r.1, r.2 ||| flushEv [x, y, z] ||| (if z.1.isNan then ev 1 else 0)), energy := 2 } }

/-- `FFMA` by itself. -/
def execFfma (m : Mask) (sd : BitVec 6) (sa : BitVec 6) (b : SOp) (s : State) : Host.Outcome State Fault Refusal :=
  issueForm (opLits b) (reqFfma m sd sa b) s

/-- A < B; false when either is NaN (R177). -/
def reqFclt (m : Mask) (qd : BitVec 5) (sa : BitVec 6) (b : SOp) : SlotReq :=
  fcReq m qd sa b fLt

/-- `FCLT` by itself. -/
def execFclt (m : Mask) (qd : BitVec 5) (sa : BitVec 6) (b : SOp) (s : State) : Host.Outcome State Fault Refusal :=
  issueForm (opLits b) (reqFclt m qd sa b) s

/-- A = B; +0 equals -0; false when either is NaN (R177). -/
def reqFceq (m : Mask) (qd : BitVec 5) (sa : BitVec 6) (b : SOp) : SlotReq :=
  fcReq m qd sa b fEq

/-- `FCEQ` by itself. -/
def execFceq (m : Mask) (qd : BitVec 5) (sa : BitVec 6) (b : SOp) (s : State) : Host.Outcome State Fault Refusal :=
  issueForm (opLits b) (reqFceq m qd sa b) s

/-- A converted to a signed 64-bit integer (R88, R177). -/
def reqFtoi (m : Mask) (sd : BitVec 6) (sa : BitVec 6) : SlotReq :=
  { slot := .s, mask := m, eff := fun e =>
      let x := e.f32 ((e.c.readS sa.toNat).truncate 32)
      let r := (NFmt.int 64 true).finish 0 (fmtVrnd e.c.fmt) false [x.1] x.1
      { pends := fPend e sd.toNat (r.1, r.2 ||| flushEv [x]), energy := 2 } }

/-- `FTOI` by itself. -/
def execFtoi (m : Mask) (sd : BitVec 6) (sa : BitVec 6) (s : State) : Host.Outcome State Fault Refusal :=
  issueForm 0 (reqFtoi m sd sa) s

/-- A signed 64-bit integer as FP32 (R88, R177). -/
def reqItof (m : Mask) (sd : BitVec 6) (sa : BitVec 6) : SlotReq :=
  { slot := .s, mask := m, eff := fun e =>
      let x := FVal.ofInt (e.c.readS sa.toNat).toInt 0
      let r := NFmt.f32.finish 0 (fmtVrnd e.c.fmt) (fmtSat e.c.fmt) [x] x
      { pends := fPend e sd.toNat r, energy := 2 } }

/-- `ITOF` by itself. -/
def execItof (m : Mask) (sd : BitVec 6) (sa : BitVec 6) (s : State) : Host.Outcome State Fault Refusal :=
  issueForm 0 (reqItof m sd sa) s

/-- merge(wa, wb) (R178, R179). -/
def reqWjoin (m : Mask) (wd : BitVec 4) (wa : BitVec 4) (wb : BitVec 4) : SlotReq :=
  { slot := .s, mask := m, eff := fun e =>
      { pends := witPend wd.toNat 1 (witMerge (e.c.readW wa.toNat) (e.c.readW wb.toNat)), energy := 1 } }

/-- `WJOIN` by itself. -/
def execWjoin (m : Mask) (wd : BitVec 4) (wa : BitVec 4) (wb : BitVec 4) (s : State) : Host.Outcome State Fault Refusal :=
  issueForm 0 (reqWjoin m wd wa wb) s

/-- The 64 bits of wa (R179). -/
def reqWtos (m : Mask) (sd : BitVec 6) (wa : BitVec 4) : SlotReq :=
  sReq m sd.toNat 1 1 fun e => e.c.readW wa.toNat

/-- `WTOS` by itself. -/
def execWtos (m : Mask) (sd : BitVec 6) (wa : BitVec 4) (s : State) : Host.Outcome State Fault Refusal :=
  issueForm 0 (reqWtos m sd wa) s

/-- A placed in wd unchecked (R179). -/
def reqStow (m : Mask) (wd : BitVec 4) (sa : BitVec 6) : SlotReq :=
  { slot := .s, mask := m, eff := fun e =>
      { pends := witPend wd.toNat 1 (e.c.readS sa.toNat), energy := 1 } }

/-- `STOW` by itself. -/
def execStow (m : Mask) (wd : BitVec 4) (sa : BitVec 6) (s : State) : Host.Outcome State Fault Refusal :=
  issueForm 0 (reqStow m wd sa) s

end Sys2Proof.Machine
end

