-- ==== Sys2Proof/Machine/Control.lean ====
section
/-! DEFINITION. The forms of the C slot but `TRET` (06 R146 to R167). Each form has what it asks of the issue of its
bundle (req) and its meaning by itself (exec). -/

namespace Sys2Proof.Machine

/-! ## Targets (R123) -/

/-- A direct target: a signed offset in 128-byte steps from the branching bundle's segment, and a unit index. -/
def directTarget (e : Env) (d : BitVec 32) : CodePos :=
  ⟨(((e.half.seg : Int) + (d.extractLsb' 10 22).toInt * 128) % ((2 ^ 57 : Nat) : Int)).toNat, (d.extractLsb' 0 10).toNat⟩

/-- The effect of a form that goes to a target: the checks of R123 decide between the jump, a precise fault and, while
the target's segment cannot yet be read, a hold. -/
def goTo (e : Env) (w : W64) (base : Eff) : Eff :=
  let p := CodePos.ofWord w
  if w.extractLsb' 60 4 ≠ 0 then { base with fault := some (issueFault e.a 0x05 w 0) }
  else match e.s.target e.a p with
    | .fault f => { base with fault := some (memFault f) }
    | .wait => { base with hold := true }
    | .ok _ false => { base with fault := some (issueFault e.a 0x05 w 0) }
    | .ok _ true =>
      { base with
        next := .jump p
        act := fun s => match s.segment e.a p.seg with
          | .ok s1 _ => s1
          | _ => s }

/-- A C form of weight 1. -/
def cReq (eff : Env → Eff) : SlotReq := { slot := .c, eff := fun e => { eff e with energy := 1 } }

/-! ## Branch trees (R115, R148) -/

/-- The leaf a tree takes: shape of Table 5-4 and the tests a, b, c, d. -/
def treeLeaf (shape : Nat) (a b c d : Bool) : Nat :=
  match shape with
  | 0 => if a then 1 else if b then 2 else if c then 3 else if d then 4 else 5
  | 1 => if a then 1 else if b then 2 else if c then (if d then 3 else 4) else 5
  | 2 => if a then 1 else if b then (if c then 2 else 3) else if d then 4 else 5
  | 3 => if a then 1 else if b then (if c then 2 else if d then 3 else 4) else 5
  | 4 => if a then 1 else if b then (if c then (if d then 2 else 3) else 4) else 5
  | 5 => if a then (if b then 1 else 2) else if c then 3 else if d then 4 else 5
  | 6 => if a then (if b then 1 else 2) else if c then (if d then 3 else 4) else 5
  | 7 => if a then (if b then 1 else if c then 2 else 3) else if d then 4 else 5
  | 8 => if a then (if b then (if c then 1 else 2) else 3) else if d then 4 else 5
  | 9 => if a then (if b then 1 else if c then 2 else if d then 3 else 4) else 5
  | 10 => if a then (if b then 1 else if c then (if d then 2 else 3) else 4) else 5
  | 11 => if a then (if b then (if c then 1 else 2) else if d then 3 else 4) else 5
  | 12 => if a then (if b then (if c then 1 else if d then 2 else 3) else 4) else 5
  | _ => if a then (if b then (if c then (if d then 1 else 2) else 3) else 4) else 5

/-- The literal units of a leaf (Table 5-12). -/
def leafLits (l : Leaf) : Nat :=
  match l with
  | .fall => 0
  | .indirect _ => 1
  | .direct _ => 2
  | .call _ => 2

/-- lk takes the sequential position, in effect from t + 1 (R150, R151). -/
def linkPost (e : Env) (s : State) : State := s.onCtx e.a fun c => { c with lk := e.seqPos.toWord }

/-- The effect of the taken leaf (R148). -/
def leafEff (e : Env) (l : Leaf) : Eff :=
  match l with
  | .fall => {}
  | .direct d => goTo e (directTarget e d).toWord {}
  | .indirect r => goTo e (e.c.readS r.toNat) {}
  | .call d => goTo e (directTarget e d).toWord { post := linkPost e }

/-- `BR`: one of five leaves from condition bits read at t (R148). -/
def reqBr (sh : BitVec 4) (ta tb tc td : BitVec 6) (l1 l2 l3 l4 : Leaf) : SlotReq :=
  let leaf := fun (e : Env) => treeLeaf sh.toNat (e.c.test ta) (e.c.test tb) (e.c.test tc) (e.c.test td)
  { slot := .c, leaf := leaf
    eff := fun e =>
      let r := match leaf e with
        | 1 => leafEff e l1
        | 2 => leafEff e l2
        | 3 => leafEff e l3
        | 4 => leafEff e l4
        | _ => {}
      { r with energy := 1 } }

/-- `BR` by itself. -/
def execBr (sh : BitVec 4) (ta tb tc td : BitVec 6) (l1 l2 l3 l4 : Leaf) (s : State) : Host.Outcome State Fault Refusal :=
  issueForm (leafLits l1 + leafLits l2 + leafLits l3 + leafLits l4) (reqBr sh ta tb tc td l1 l2 l3 l4) s

/-- `JMP` (R150). -/
def reqJmp (d : BitVec 32) : SlotReq := cReq fun e => goTo e (directTarget e d).toWord {}

/-- `JMP` by itself. -/
def execJmp (d : BitVec 32) (s : State) : Host.Outcome State Fault Refusal := issueForm 2 (reqJmp d) s

/-- `CALL` (R150, R151). -/
def reqCall (d : BitVec 32) : SlotReq := cReq fun e => goTo e (directTarget e d).toWord { post := linkPost e }

/-- `CALL` by itself. -/
def execCall (d : BitVec 32) (s : State) : Host.Outcome State Fault Refusal := issueForm 2 (reqCall d) s

/-- `RET` (R150). -/
def reqRet : SlotReq := cReq fun e => goTo e e.c.lk {}

/-- `RET` by itself. -/
def execRet (s : State) : Host.Outcome State Fault Refusal := issueForm 0 reqRet s

/-! ## Hardware loops (R152 to R155) -/

/-- The segment reached by following next a number of times; none when the chain ends before (R153). -/
def State.chain (s : State) (a : Nat) (n : Nat) (h : Half) : Res (Option Half) :=
  match n with
  | 0 => .ok s (some h)
  | k + 1 =>
    if h.last then .ok s none
    else match s.segment a h.nextSeg with
      | .fault f => .fault f
      | .wait => .wait
      | .ok s1 h1 => s1.chain a k h1

/-- The unit after a bundle's own group. -/
def Env.groupEnd (e : Env) : Nat :=
  match e.half.item e.pos.unit with
  | some r => e.pos.unit + r.len
  | none => e.pos.unit + 2

/-- The opening of a loop of count n with its end position (R153). A repeated bundle is named by its prefix (R122), so the
reference inside a repeat group is no end position; where the chain ends early, the auxiliary word is the unit in the
bundle's own segment (DESIGN CHOICE, log 30). -/
def loopEff (e : Env) (chain : BitVec 12) (n : W64) (u : BitVec 10) : Eff :=
  if e.c.loops.length ≥ 6 then { fault := some (issueFault e.a 0x07 0 0) }
  else match e.s.chain e.a chain.toNat e.half with
    | .fault f => { fault := some (memFault f) }
    | .wait => { hold := true }
    | .ok _ none => { fault := some (issueFault e.a 0x05 (CodePos.toWord ⟨e.half.seg, u.toNat⟩) 0) }
    | .ok _ (some h) =>
      let endp : CodePos := ⟨h.seg, u.toNat⟩
      let bad : Eff := { fault := some (issueFault e.a 0x05 endp.toWord 0) }
      if chain = 0 ∧ u.toNat < e.groupEnd then bad
      else match h.item u.toNat with
        | some (.ref i l) => { next := .open n endp (h.after (u.toNat + (Role.ref i l).len)) }
        | some (.group c st i l) => { next := .open n endp (h.after (u.toNat + (Role.group c st i l).len)) }
        | some (.bad l (some i)) => { next := .open n endp (h.after (u.toNat + (Role.bad l (some i)).len)) }
        | _ => bad

/-- `LOOP` (R153). -/
def reqLoop (chain : BitVec 12) (n : BitVec 20) (u : BitVec 10) : SlotReq :=
  cReq fun e => loopEff e chain (n.zeroExtend 64) u

/-- `LOOP` by itself. -/
def execLoop (chain : BitVec 12) (n : BitVec 20) (u : BitVec 10) (s : State) : Host.Outcome State Fault Refusal :=
  issueForm 1 (reqLoop chain n u) s

/-- `LOOPS`: the count is sA at t (R153). -/
def reqLoops (chain : BitVec 12) (sa : BitVec 6) (u : BitVec 10) : SlotReq :=
  cReq fun e => loopEff e chain (e.c.readS sa.toNat) u

/-- `LOOPS` by itself. -/
def execLoops (chain : BitVec 12) (sa : BitVec 6) (u : BitVec 10) (s : State) : Host.Outcome State Fault Refusal :=
  issueForm 1 (reqLoops chain sa u) s

/-- `LBREAK` (R155). -/
def reqLbreak : SlotReq := cReq fun e =>
  match e.c.loops with
  | [] => { fault := some (issueFault e.a 0x08 0 0) }
  | l :: _ =>
    match e.s.segment e.a l.endp.seg with
    | .fault f => { fault := some (memFault f) }
    | .wait => { hold := true }
    | .ok _ h =>
      { next := .breakTo (h.after (l.endp.unit + ((h.item l.endp.unit).map Role.len).getD 1))
        act := fun s => match s.segment e.a l.endp.seg with
          | .ok s1 _ => s1
          | _ => s }

/-- `LBREAK` by itself. -/
def execLbreak (s : State) : Host.Outcome State Fault Refusal := issueForm 0 reqLbreak s

/-! ## Format writes (R156) -/

/-- A write of `fmt` that lands at t + 5, or makes the bundle illegal (R85, R86). -/
def fmtEff (v : W64) : Eff := { illegal := fmtIllegal v, pends := [Pend.make .fmt 5 (v.zeroExtend 2048)] }

/-- `FMTW` (R156). -/
def reqFmtw (low : BitVec 32) (mask : BitVec 16) : SlotReq := cReq fun _ => fmtEff ((0 : BitVec 16) ++ mask ++ low)

/-- `FMTW` by itself. -/
def execFmtw (low : BitVec 32) (mask : BitVec 16) (s : State) : Host.Outcome State Fault Refusal :=
  issueForm 1 (reqFmtw low mask) s

/-- `FMTS` (R156). -/
def reqFmts (sa : BitVec 6) : SlotReq := cReq fun e => fmtEff (e.c.readS sa.toNat)

/-- `FMTS` by itself. -/
def execFmts (sa : BitVec 6) (s : State) : Host.Outcome State Fault Refusal := issueForm 0 (reqFmts sa) s

/-! ## Waits (R157 to R162) -/

/-- Whether every operation of the tile window has completed. -/
def Ctx.opsDone (c : Ctx) : Bool := c.window.all c.outOfWay

/-- `TWAIT` (R158). -/
def reqTwait : SlotReq := cReq fun e => { hold := !e.c.opsDone }

/-- `TWAIT` by itself. -/
def execTwait (s : State) : Host.Outcome State Fault Refusal := issueForm 0 reqTwait s

/-- `SBAR`: a context arrives while it is held, and leaves with the merged witness (R160). -/
def reqSbar (w : BitVec 4) (gang : Bool) (b : BitVec 2) : SlotReq := cReq fun e =>
  match e.c.released with
  | some m =>
    { pends := witPend w.toNat 1 m
      act := fun s => s.onCtx e.a fun c => { c with released := none, arrived := none } }
  | none =>
    { hold := true
      onHold := fun s =>
        match e.c.arrived with
        | some _ => s
        | none =>
          let s1 := s.onCtx e.a fun c => { c with arrived := some (gang, b.toNat, c.readW w.toNat) }
          if gang then
            s1.onInst e.c.task e.c.inst fun g =>
              { g with
                first := if (AL.find g.first b.toNat).isSome then g.first else AL.put g.first b.toNat e.c.cid
                last := AL.put g.last b.toNat e.c.cid }
          else s1 }

/-- `SBAR` by itself. -/
def execSbar (w : BitVec 4) (gang : Bool) (b : BitVec 2) (s : State) : Host.Outcome State Fault Refusal :=
  issueForm 0 (reqSbar w gang b) s

/-- `YIELD`: the core passes the context over (R162). -/
def reqYield : SlotReq := cReq fun e =>
  { act := fun s => s.onCtx e.a fun c => { c with
      yieldPass := true, yieldAt := e.s.cycle, yieldSeen := [] } }

/-- `YIELD` by itself. -/
def execYield (s : State) : Host.Outcome State Fault Refusal := issueForm 0 reqYield s

/-- The fault of a witness at issue: its auxiliary word is the witness (Table 19-1), and its fault address that of an
access of the M slot (R183; DEDUCED, log 32). -/
def witTrap (a : Nat) (cause : Nat) (w : W64) (addr : Nat) : TrapInfo := issueFault a cause w addr

/-- `WWAIT` (R159). -/
def reqWwait (w : BitVec 4) : SlotReq := cReq fun e =>
  let v := e.c.readW w.toNat
  match e.s.witCheck e.a e.c.pd.toNat v with
  | .fault c => { fault := some (witTrap e.a c v 0) }
  | .satisfied => {}
  | .waiting => { hold := true }

/-- `WWAIT` by itself. -/
def execWwait (w : BitVec 4) (s : State) : Host.Outcome State Fault Refusal := issueForm 0 (reqWwait w) s

/-- `STATF` (R167): while it is held the sequencer drains records; a record and its write index are written once their
store is performed (R111). One that a trap has kept waits for `TRET`, and is not waited for (log 35). -/
def reqStatf : SlotReq := cReq fun e =>
  { hold := !e.c.statq.isEmpty || e.s.accs.any fun x => x.cid == e.c.cid && x.level == 0 && !x.kept && (match x.kind with
      | .stat _ _ => true
      | _ => false)
    onHold := fun s => s.drainStat e.a }

/-- `STATF` by itself. -/
def execStatf (s : State) : Host.Outcome State Fault Refusal := issueForm 0 reqStatf s

/-! ## Traps and exit (R163, R166) -/

/-- `TRAP` (R163): the bundle commits its other slots, then traps. -/
def reqTrap (n : BitVec 16) : SlotReq := cReq fun _ =>
  { next := .traps { cause := 0x40, aux := n.zeroExtend 64, slots := 0x20 } }

/-- `TRAP` by itself. -/
def execTrap (n : BitVec 16) (s : State) : Host.Outcome State Fault Refusal := issueForm 0 (reqTrap n) s

/-- `BRK` (R163): it goes first to a debugger attached to the domain, which takes the event (log 15); without one it is
delivered like `TRAP`. -/
def reqBrk (n : BitVec 16) : SlotReq := cReq fun e =>
  if e.s.debugger.contains e.c.pd.toNat then {}
  else { next := .traps { cause := 0x41, aux := n.zeroExtend 64, slots := 0x20 } }

/-- `BRK` by itself. -/
def execBrk (n : BitVec 16) (s : State) : Host.Outcome State Fault Refusal := issueForm 0 (reqBrk n) s

/-- The forms that move data between the tile stack and memory or the scratchpad, which `EXIT` does not wait for. -/
def exitSkips (i : Instr) : Bool :=
  match i with
  | .tget .. => true
  | .tsend .. => true
  | .tsendq .. => true
  | .acopy .. => true
  | .acopyw .. => true
  | .tlds .. => true
  | .tsts .. => true
  | _ => false

/-- `EXIT` (R166). In a handler it does not wait for an operation of the interrupted stream that has a fault, since that is
not raised any more (DESIGN CHOICE, log 35). -/
def reqExit : SlotReq := cReq fun e =>
  { hold := !(e.c.pend.all (·.ready)) || !(e.c.window.all fun o => e.c.outOfWay o || exitSkips o.form)
    next := .exits }

/-- `EXIT` by itself. -/
def execExit (s : State) : Host.Outcome State Fault Refusal := issueForm 0 reqExit s

end Sys2Proof.Machine
end

