-- ==== Sys2Proof/Machine/MemSlot.lean ====
section
/-! DEFINITION. The forms of the M slot (07 R180 to R214): checks at issue, and the accesses they start. An access is
performed later, by the steps of the memory system. Each form has what it asks of the issue of its bundle (req) and its
meaning by itself (exec). -/

namespace Sys2Proof.Machine

/-! ## Scratchpad addresses (R58, R59) -/

/-- The scratchpad share of team context k of a context's team. -/
def State.share (s : State) (c : Ctx) (k : Nat) : Option Share :=
  s.shares.find? fun h => h.live && h.task == c.task && h.inst == c.inst && h.team == c.team && h.k == k

/-- The bytes of a share that the scratchpad forms reach: below `.scratch` less the pier quota (R58). -/
def Ctx.spLimit (c : Ctx) : Nat := c.scratch - c.pierq.toNat

/-- The first address of n bytes from a whose access fails the conditions of R58. -/
def spFail (c : Ctx) (a : W64) (n : Nat) : Option Nat :=
  if a.toNat ≥ 2 ^ 25 then some a.toNat
  else if a.toNat / 2 ^ 23 ≥ c.perTeam then some a.toNat
  else
    let off := a.toNat % 2 ^ 23
    if off + n ≤ c.spLimit then none else some (a.toNat - off + Nat.max off c.spLimit)

/-- The physical key of a scratchpad address that passes the checks. -/
def State.spPhys (s : State) (c : Ctx) (a : Nat) : Nat :=
  match s.share c (a / 2 ^ 23) with
  | some h => spKey h.core (h.base + a % 2 ^ 23)
  | none => spKey (768 + a / 2 ^ 23) (a % 2 ^ 23)

/-- Whether a scratchpad address lies in the issuing context's own share. -/
def isOwn (c : Ctx) (a : Nat) : Bool := a / 2 ^ 23 == c.cnum

/-! ## Checks at issue (R183) -/

/-- The checks of Table 7-3 for a global address. -/
def globalCheck (e : Env) (a : W64) (align aux : Nat) : Option TrapInfo :=
  if a.extractLsb' 57 7 ≠ 0 then some (issueFault e.a 0x21 (BitVec.ofNat 64 aux) a.toNat)
  else if a.toNat % align ≠ 0 then some (issueFault e.a 0x22 (BitVec.ofNat 64 align) a.toNat)
  else none

/-- The checks of Table 7-3 for a scratchpad address of n bytes. The record carries the address itself (R183; log 32). -/
def spCheck (e : Env) (a : W64) (n align : Nat) : Option TrapInfo :=
  match spFail e.c a n with
  | some _ => some (issueFault e.a 0x23 0 a.toNat)
  | none => if a.toNat % align ≠ 0 then some (issueFault e.a 0x22 (BitVec.ofNat 64 align) a.toNat) else none

/-- The witness input w of a form with address a faults (R191, R314). -/
def witInput (e : Env) (w : W64) (a : Nat) : Option TrapInfo := (e.s.witFault e.a e.c.pd.toNat w).map fun c => witTrap e.a c w a

/-- The first of two checks that fails. -/
def orElseFault (a b : Option TrapInfo) : Option TrapInfo := if a.isSome then a else b

/-! ## Starting accesses -/

/-- The number the next sequenced form of the slot takes, and its witness (R188). -/
def Env.nextSeqNum (e : Env) : Nat :=
  let n := nextSeq (e.s.lastOf e.a e.c.pd.toNat)
  if e.mTook then nextSeq n else n

def Env.outWit (e : Env) (scope seq : Nat) : W64 := e.s.singleWit scope e.c.pd.toNat e.a seq

/-- An access of the issuing context with the fields of its form. -/
def Env.access (e : Env) (kind : AKind) (q : MQual) (sp : Bool) (a n : Nat) : Access :=
  { id := e.s.nextId, agent := e.a, cid := e.c.cid, dom := e.c.pd.toNat, kind := kind, sp := sp, va := a
    parts := [(if sp then e.s.spPhys e.c a else a, 0, n)], size := n, sx := false, ord := q.ord.toNat, wit := 0
    scope := Nat.max q.scope.toNat 1, evict := q.evict.toNat, data := 0, data2 := 0, lanes := laneMask 0 n, dest := none
    seq := none, pos := e.pos, tick := e.c.tick, fmt := e.c.fmt, level := 0, kept := false, stamp := none
    core := coreOf e.a, owner := e.a, sat := false, floor := e.c.floor, floorEp := e.c.floorEp }

/-- An access joins those issued and not yet performed. -/
def State.startAccess (s : State) (x : Access) : State :=
  { s with nextId := s.nextId + 1, accs := s.accs ++ [{ x with id := s.nextId }] }

/-- An access that takes a sequence number joins them. -/
def State.startSeq (s : State) (x : Access) : State :=
  let r := s.takeSeq x.agent x.dom x.scope x.cid
  r.1.startAccess { x with seq := some r.2 }

/-- A result that waits for the access a bundle starts. -/
def waitPend (e : Env) (reg : Reg) (lat : Nat) (lanes : BitVec 256) : Pend :=
  { reg, left := lat, val := 0, lanes, ready := false, acc := e.s.nextId, pos := e.pos
    eng := engScalar, smask := fmtStatmask e.c.fmt }

/-- A scalar result that waits for an access; s0 discards it. -/
def waitScalar (e : Env) (sd lat : Nat) : List Pend :=
  if sd = 0 then [] else [waitPend e (.s sd) lat (BitVec.allOnes 256)]

/-- An atomic's result; `s0` discards the value, and the events of an `AFADD` are posted as it would land (R109). -/
def waitAtomic (e : Env) (op sd lat : Nat) : List Pend :=
  if sd = 0 ∧ op = 7 ∧ fmtStatmask e.c.fmt ≠ 0 then [waitPend e .none lat 0] else waitScalar e sd lat

/-- A form of the M slot with its base update. -/
def mReq (q : MQual) (a : MAddr) (size : Nat) (eff : Env → W64 → Eff) : SlotReq :=
  { slot := .m, mask := q.mask, base := fun e => basePend e.c a size, eff := fun e => eff e (addrOf e.c a size) }

/-- A load of a scalar: global or scratchpad (R192). -/
def loadReq (sp : Bool) (q : MQual) (sx : Bool) (sz : BitVec 2) (sd : BitVec 6) (a : MAddr) : SlotReq :=
  let n := sizeOf2 sz
  mReq q a n fun e w =>
    let wit := e.c.readW q.wit.toNat
    let lat := if sp then (if isOwn e.c w.toNat then 6 else 14) else 40
    { pends := waitScalar e sd.toNat lat
      fault := orElseFault (if sp then spCheck e w n n else globalCheck e w n 0) (witInput e wit w.toNat)
      act := fun s => s.startAccess { e.access .load q sp w.toNat n with
        sx := sx, wit := wit, dest := if sd = 0 then none else some (.s sd.toNat) }
      energy := if sp then 4 else 16 }

/-- A store of a scalar (R192). -/
def storeReq (sp : Bool) (q : MQual) (sz : BitVec 2) (sv : BitVec 6) (a : MAddr) : SlotReq :=
  let n := sizeOf2 sz
  mReq q a n fun e w =>
    { pends := witPend q.wit.toNat 1 (e.outWit q.scope.toNat e.nextSeqNum)
      fault := if sp then spCheck e w n n else globalCheck e w n 1
      takesSeq := true
      act := fun s => s.startSeq { e.access .store q sp w.toNat n with
        data := BitVec.ofNat 2048 ((e.c.readS sv.toNat).toNat % 2 ^ (8 * n)) }
      energy := if sp then 4 else 16 }

/-- A vector load under a predicate of byte lanes (R194). -/
def vloadReq (sp : Bool) (q : MQual) (vr : BitVec 10) (a : MAddr) : SlotReq :=
  mReq q a 256 fun e w =>
    let wit := e.c.readW q.wit.toNat
    let lanes := e.c.readP q.pred.toNat
    let lat := if sp then (if isOwn e.c w.toNat then 8 else 16) else 48
    { pends := [waitPend e (.v vr.toNat) lat lanes]
      fault := orElseFault (if sp then spCheck e w 256 256 else globalCheck e w 256 0) (witInput e wit w.toNat)
      act := fun s => s.startAccess { e.access .load q sp w.toNat 256 with
        wit := wit, dest := some (.v vr.toNat), lanes := lanes }
      energy := if sp then 32 else 192 }

/-- A vector store under a predicate of byte lanes (R194). -/
def vstoreReq (sp : Bool) (q : MQual) (vr : BitVec 10) (a : MAddr) : SlotReq :=
  mReq q a 256 fun e w =>
    { vreads := [vr.toNat]
      pends := witPend q.wit.toNat 1 (e.outWit q.scope.toNat e.nextSeqNum)
      fault := if sp then spCheck e w 256 256 else globalCheck e w 256 1
      takesSeq := true
      act := fun s => s.startSeq { e.access .store q sp w.toNat 256 with
        data := e.s.readV e.a vr.toNat, lanes := e.c.readP q.pred.toNat }
      energy := if sp then 32 else 192 }

/-- The elements of a gather or scatter whose predicate is true: number and address (R195). -/
def Env.gatherAddrs (e : Env) (q : MQual) (vr : Nat) (w : W64) : List (Nat × W64) :=
  let n := 2 ^ q.evict.toNat
  let idx := lanesOf n (256 / n) (e.s.readV e.a (vr + 1))
  let ps := e.preds n (256 / n) q.pred.toNat
  ((List.range (256 / n)).zip (idx.zip ps)).filterMap fun x =>
    if x.2.2 then some (x.1, w + BitVec.ofNat 64 (x.2.1 * n)) else none

/-- The checks of a gather or scatter (R195): each element accessed, then the base's alignment. -/
def Env.gatherCheck (e : Env) (n : Nat) (w : W64) (l : List (Nat × W64)) : Option TrapInfo :=
  match l.findSome? fun x => spCheck e x.2 n n with
  | some f => some f
  | none => if w.toNat % n ≠ 0 then some (issueFault e.a 0x22 (BitVec.ofNat 64 n) w.toNat) else none

/-- The parts of a gather or scatter: physical key, first byte lane, size. -/
def Env.gatherParts (e : Env) (n : Nat) (l : List (Nat × W64)) : List (Nat × Nat × Nat) :=
  l.map fun x => (e.s.spPhys e.c x.2.toNat, x.1 * n, n)

/-- An atomic (R196): global, or in the scratchpad with predicate field 1. -/
def atomicReq (op : Nat) (q : MQual) (sz : BitVec 2) (sv : BitVec 6) (a : MAddr) : SlotReq :=
  let n := sizeOf2 sz
  let sp := q.pred.toNat == 1
  mReq q a n fun e w =>
    let lat := if sp then (if isOwn e.c w.toNat then 8 else 16) else 48
    { pends := waitAtomic e op sv.toNat lat ++ witPend q.wit.toNat 1 (e.outWit q.scope.toNat e.nextSeqNum)
      fault := if sp then spCheck e w n n else globalCheck e w n 1
      takesSeq := true
      act := fun s => s.startSeq { e.access (.atomic op) q sp w.toNat n with
        data := (e.c.readS sv.toNat).zeroExtend 2048, data2 := e.c.readS (sv.toNat + 1)
        dest := if sv = 0 then none else some (.s sv.toNat) }
      energy := if sp then 4 else 24 }

/-- The checks of a sync-word form: the predicate field selects the scratchpad (R202). -/
def syncCheck (e : Env) (sp : Bool) (w : W64) (aux : Nat) : Option TrapInfo :=
  if sp then spCheck e w 32 32 else globalCheck e w 32 aux

/-- Whether an earlier access of the context to the place of a sync word is still to be performed (R311). -/
def Env.behind (e : Env) (x : Access) : Bool :=
  e.s.accs.any fun y => y.cid == e.c.cid && y.level == 0 && !y.kept && y.meets x

/-- A sync word as it stands at its home or bank when a hold begins: its physical key and 32 bytes (R203, R207), read
under the context's floor (R316). -/
def syncWord (e : Env) (sp : Bool) (w : Nat) : Res (Nat × List Byte) :=
  if sp then
    let k := e.s.spPhys e.c w
    match e.s.spPoison k 32 with
    | some f => .fault f
    | none => .ok e.s (k, e.s.memBytes k 32)
  else match e.s.translate (flatTag e.c.pd.toNat w) w .sync true with
    | .fault f => .fault f
    | .wait => .wait
    | .ok s1 l =>
      match s1.readHome (flatTag e.c.pd.toNat w) (e.s.floorOf e.c) [(l, w, 32)] with
      | .fault f => .fault f
      | .wait => .wait
      | .ok s2 bs => .ok s2 (l.key w, bs)

/-- The word of a hold that has begun: it is not translated again (R207). -/
def syncHeld (e : Env) (sp : Bool) (w k : Nat) : Res (Nat × List Byte) :=
  let t := flatTag e.c.pd.toNat w
  if e.s.poisoned k 32 then .fault (poisonFault k (if sp then spUnit k else e.s.poisonUnit t k 32))
  else .ok e.s (k, if sp then e.s.memBytes k 32 else e.s.homeRead t ((List.range 32).map (k + ·)))

/-- A global scalar load (R192, R193, R199). -/
def reqLd (q : MQual) (sx : Bool) (sz : BitVec 2) (sd : BitVec 6) (a : MAddr) : SlotReq :=
  loadReq false q sx sz sd a

/-- `LD` by itself. -/
def execLd (q : MQual) (sx : Bool) (sz : BitVec 2) (sd : BitVec 6) (a : MAddr) (s : State) : Host.Outcome State Fault Refusal :=
  issueForm (addrLits a.mode) (reqLd q sx sz sd a) s

/-- A global scalar store (R192, R199). -/
def reqSt (q : MQual) (sz : BitVec 2) (sv : BitVec 6) (a : MAddr) : SlotReq :=
  storeReq false q sz sv a

/-- `ST` by itself. -/
def execSt (q : MQual) (sz : BitVec 2) (sv : BitVec 6) (a : MAddr) (s : State) : Host.Outcome State Fault Refusal :=
  issueForm (addrLits a.mode) (reqSt q sz sv a) s

/-- A scratchpad scalar load (R58, R59, R192). -/
def reqLdp (q : MQual) (sx : Bool) (sz : BitVec 2) (sd : BitVec 6) (a : MAddr) : SlotReq :=
  loadReq true q sx sz sd a

/-- `LDP` by itself. -/
def execLdp (q : MQual) (sx : Bool) (sz : BitVec 2) (sd : BitVec 6) (a : MAddr) (s : State) : Host.Outcome State Fault Refusal :=
  issueForm (addrLits a.mode) (reqLdp q sx sz sd a) s

/-- A scratchpad scalar store (R58, R192). -/
def reqStp (q : MQual) (sz : BitVec 2) (sv : BitVec 6) (a : MAddr) : SlotReq :=
  storeReq true q sz sv a

/-- `STP` by itself. -/
def execStp (q : MQual) (sz : BitVec 2) (sv : BitVec 6) (a : MAddr) (s : State) : Host.Outcome State Fault Refusal :=
  issueForm (addrLits a.mode) (reqStp q sz sv a) s

/-- A global vector load (R194). -/
def reqVld (q : MQual) (vr : BitVec 10) (a : MAddr) : SlotReq :=
  vloadReq false q vr a

/-- `VLD` by itself. -/
def execVld (q : MQual) (vr : BitVec 10) (a : MAddr) (s : State) : Host.Outcome State Fault Refusal :=
  issueForm (addrLits a.mode) (reqVld q vr a) s

/-- A global vector store (R194). -/
def reqVst (q : MQual) (vr : BitVec 10) (a : MAddr) : SlotReq :=
  vstoreReq false q vr a

/-- `VST` by itself. -/
def execVst (q : MQual) (vr : BitVec 10) (a : MAddr) (s : State) : Host.Outcome State Fault Refusal :=
  issueForm (addrLits a.mode) (reqVst q vr a) s

/-- A scratchpad vector load (R194). -/
def reqVldp (q : MQual) (vr : BitVec 10) (a : MAddr) : SlotReq :=
  vloadReq true q vr a

/-- `VLDP` by itself. -/
def execVldp (q : MQual) (vr : BitVec 10) (a : MAddr) (s : State) : Host.Outcome State Fault Refusal :=
  issueForm (addrLits a.mode) (reqVldp q vr a) s

/-- A scratchpad vector store (R194). -/
def reqVstp (q : MQual) (vr : BitVec 10) (a : MAddr) : SlotReq :=
  vstoreReq true q vr a

/-- `VSTP` by itself. -/
def execVstp (q : MQual) (vr : BitVec 10) (a : MAddr) (s : State) : Host.Outcome State Fault Refusal :=
  issueForm (addrLits a.mode) (reqVstp q vr a) s

/-- A gather from the scratchpad by element (R195). -/
def reqVgathp (q : MQual) (vr : BitVec 10) (a : MAddr) : SlotReq :=
  let n := 2 ^ q.evict.toNat
  mReq q a n fun e w =>
    let wit := e.c.readW q.wit.toNat
    let l := e.gatherAddrs q vr.toNat w
    let lanes := lanesFor n (e.preds n (256 / n) q.pred.toNat)
    { vreads := [vr.toNat + 1]
      pends := [waitPend e (.v vr.toNat) (if l.all fun x => isOwn e.c x.2.toNat then 8 else 16) lanes]
      fault := orElseFault (e.gatherCheck n w l) (witInput e wit w.toNat)
      act := fun s => s.startAccess { e.access .load q true w.toNat n with
        parts := e.gatherParts n l, size := 256, wit := wit, dest := some (.v vr.toNat), lanes := lanes }
      energy := 32 }

/-- `VGATHP` by itself. -/
def execVgathp (q : MQual) (vr : BitVec 10) (a : MAddr) (s : State) : Host.Outcome State Fault Refusal :=
  issueForm (addrLits a.mode) (reqVgathp q vr a) s

/-- A scatter to the scratchpad in ascending element order (R195). -/
def reqVscatp (q : MQual) (vr : BitVec 10) (a : MAddr) : SlotReq :=
  let n := 2 ^ q.evict.toNat
  mReq q a n fun e w =>
    let l := e.gatherAddrs q vr.toNat w
    { vreads := [vr.toNat, vr.toNat + 1]
      pends := witPend q.wit.toNat 1 (e.outWit q.scope.toNat e.nextSeqNum)
      fault := e.gatherCheck n w l
      takesSeq := true
      act := fun s => s.startSeq { e.access .store q true w.toNat n with
        parts := e.gatherParts n l, size := 256, data := e.s.readV e.a vr.toNat
        lanes := lanesFor n (e.preds n (256 / n) q.pred.toNat) }
      energy := 32 }

/-- `VSCATP` by itself. -/
def execVscatp (q : MQual) (vr : BitVec 10) (a : MAddr) (s : State) : Host.Outcome State Fault Refusal :=
  issueForm (addrLits a.mode) (reqVscatp q vr a) s

/-- Atomic addition (R196 to R198). -/
def reqAadd (q : MQual) (sz : BitVec 2) (sv : BitVec 6) (a : MAddr) : SlotReq :=
  atomicReq 0 q sz sv a

/-- `AADD` by itself. -/
def execAadd (q : MQual) (sz : BitVec 2) (sv : BitVec 6) (a : MAddr) (s : State) : Host.Outcome State Fault Refusal :=
  issueForm (addrLits a.mode) (reqAadd q sz sv a) s

/-- Atomic signed minimum (R196 to R198). -/
def reqAmin (q : MQual) (sz : BitVec 2) (sv : BitVec 6) (a : MAddr) : SlotReq :=
  atomicReq 1 q sz sv a

/-- `AMIN` by itself. -/
def execAmin (q : MQual) (sz : BitVec 2) (sv : BitVec 6) (a : MAddr) (s : State) : Host.Outcome State Fault Refusal :=
  issueForm (addrLits a.mode) (reqAmin q sz sv a) s

/-- Atomic unsigned minimum (R196 to R198). -/
def reqAminn (q : MQual) (sz : BitVec 2) (sv : BitVec 6) (a : MAddr) : SlotReq :=
  atomicReq 2 q sz sv a

/-- `AMINN` by itself. -/
def execAminn (q : MQual) (sz : BitVec 2) (sv : BitVec 6) (a : MAddr) (s : State) : Host.Outcome State Fault Refusal :=
  issueForm (addrLits a.mode) (reqAminn q sz sv a) s

/-- Atomic signed maximum (R196 to R198). -/
def reqAmax (q : MQual) (sz : BitVec 2) (sv : BitVec 6) (a : MAddr) : SlotReq :=
  atomicReq 3 q sz sv a

/-- `AMAX` by itself. -/
def execAmax (q : MQual) (sz : BitVec 2) (sv : BitVec 6) (a : MAddr) (s : State) : Host.Outcome State Fault Refusal :=
  issueForm (addrLits a.mode) (reqAmax q sz sv a) s

/-- Atomic unsigned maximum (R196 to R198). -/
def reqAmaxn (q : MQual) (sz : BitVec 2) (sv : BitVec 6) (a : MAddr) : SlotReq :=
  atomicReq 4 q sz sv a

/-- `AMAXN` by itself. -/
def execAmaxn (q : MQual) (sz : BitVec 2) (sv : BitVec 6) (a : MAddr) (s : State) : Host.Outcome State Fault Refusal :=
  issueForm (addrLits a.mode) (reqAmaxn q sz sv a) s

/-- Atomic swap (R196 to R198). -/
def reqAswp (q : MQual) (sz : BitVec 2) (sv : BitVec 6) (a : MAddr) : SlotReq :=
  atomicReq 5 q sz sv a

/-- `ASWP` by itself. -/
def execAswp (q : MQual) (sz : BitVec 2) (sv : BitVec 6) (a : MAddr) (s : State) : Host.Outcome State Fault Refusal :=
  issueForm (addrLits a.mode) (reqAswp q sz sv a) s

/-- Atomic compare and swap (R196 to R198). -/
def reqAcas (q : MQual) (sz : BitVec 2) (sv : BitVec 6) (a : MAddr) : SlotReq :=
  atomicReq 6 q sz sv a

/-- `ACAS` by itself. -/
def execAcas (q : MQual) (sz : BitVec 2) (sv : BitVec 6) (a : MAddr) (s : State) : Host.Outcome State Fault Refusal :=
  issueForm (addrLits a.mode) (reqAcas q sz sv a) s

/-- Atomic FP32 addition (R196 to R198). -/
def reqAfadd (q : MQual) (sz : BitVec 2) (sv : BitVec 6) (a : MAddr) : SlotReq :=
  atomicReq 7 q sz sv a

/-- `AFADD` by itself. -/
def execAfadd (q : MQual) (sz : BitVec 2) (sv : BitVec 6) (a : MAddr) (s : State) : Host.Outcome State Fault Refusal :=
  issueForm (addrLits a.mode) (reqAfadd q sz sv a) s

/-- Tests a witness; neither waits nor faults (R200). -/
def reqWcheck (q : MQual) (sd : BitVec 6) : SlotReq :=
  { slot := .m, mask := q.mask, eff := fun e =>
      let v : Nat := match e.s.witCheck e.a e.c.pd.toNat (e.c.readW q.wit.toNat) with
        | .satisfied => 1
        | .waiting => 0
        | .fault c => c
      { pends := scalarPend sd.toNat 2 (BitVec.ofNat 64 v), energy := 8 } }

/-- `WCHECK` by itself. -/
def execWcheck (q : MQual) (sd : BitVec 6) (s : State) : Host.Outcome State Fault Refusal :=
  issueForm 0 (reqWcheck q sd) s

/-- The witness of the number most recently taken by the slot (R201). -/
def reqWall (q : MQual) : SlotReq :=
  { slot := .m, mask := q.mask, eff := fun e =>
      { pends := witPend q.wit.toNat 1 (e.outWit q.scope.toNat (e.s.lastOf e.a e.c.pd.toNat)), energy := 8 } }

/-- `WALL` by itself. -/
def execWall (q : MQual) (s : State) : Host.Outcome State Fault Refusal :=
  issueForm 0 (reqWall q) s

/-- Writes a whole sync word (R205). -/
def reqSwinit (q : MQual) (sv : BitVec 6) (a : MAddr) : SlotReq :=
  let sp := q.pred.toNat == 1
  mReq q a 32 fun e w =>
    { pends := witPend q.wit.toNat 1 (e.outWit q.scope.toNat e.nextSeqNum)
      fault := syncCheck e sp w 1
      takesSeq := true
      act := fun s => s.startSeq { e.access .swinit q sp w.toNat 32 with data := (e.c.readS sv.toNat).zeroExtend 2048 }
      energy := 16 }

/-- `SWINIT` by itself. -/
def execSwinit (q : MQual) (sv : BitVec 6) (a : MAddr) (s : State) : Host.Outcome State Fault Refusal :=
  issueForm (addrLits a.mode) (reqSwinit q sv a) s

/-- An arrival at a sync word; its witness is merged, not waited on (R206). -/
def reqSwarr (q : MQual) (sv : BitVec 6) (a : MAddr) : SlotReq :=
  let sp := q.pred.toNat == 1
  mReq q a 32 fun e w =>
    { fault := syncCheck e sp w 1
      takesSeq := true
      act := fun s => s.startSeq { e.access .swarr q sp w.toNat 32 with
        data := (e.c.readS sv.toNat).zeroExtend 2048, wit := e.c.readW q.wit.toNat, scope := 1 }
      energy := 16 }

/-- `SWARR` by itself. -/
def execSwarr (q : MQual) (sv : BitVec 6) (a : MAddr) (s : State) : Host.Outcome State Fault Refusal :=
  issueForm (addrLits a.mode) (reqSwarr q sv a) s

/-- What reading a sync word has changed beside contexts: the lines and the free choices made. -/
def State.withReads (s s1 : State) : State :=
  { s with choices := s1.choices, l2 := s1.l2, l1 := s1.l1, mem := s1.mem }

/-- Waits while the generation equals sv (R207). The word is translated once, when the hold begins; a released context
issues with the witness of its release. -/
def reqSwwait (q : MQual) (sv : BitVec 6) (a : MAddr) : SlotReq :=
  let sp := q.pred.toNat == 1
  mReq q a 32 fun e w =>
    match syncCheck e sp w 0 with
    | some f => { fault := some f }
    | none =>
      if e.c.swKey.isNone && e.behind (e.access .swpoll q sp w.toNat 32) then { hold := true }
      else match (match e.c.swKey with
        | some k => syncHeld e sp w.toNat k
        | none => syncWord e sp w.toNat) with
      | .fault f => { fault := some (if f.cause = 0x50 then memFault f else { memFault f with unit := seqUnit e.a }) }
      | .wait => { hold := true }
      | .ok s1 kb =>
        let gen : BitVec 32 := BitVec.ofNat 32 (fieldAt kb.2 8 4)
        let want : BitVec 32 := (e.c.readS sv.toNat).truncate 32
        let wit : W64 := match e.c.swRel with
          | some m => m
          | none => mkWit 2 4 e.c.pd.toNat (e.s.epoch % 2 ^ 22) 0 0
        if e.c.swRel.isNone && gen == want then
          { hold := true
            onHold := fun s => (s.withReads s1).onCtx e.a fun c => { c with swWait := some (kb.1, want), swKey := some kb.1 } }
        else
          { pends := scalarPend sv.toNat 2 (gen.zeroExtend 64) ++ witPend q.wit.toNat 2 wit
            act := fun s => (s.withReads s1).onCtx e.a fun c => { c with swWait := none, swRel := none, swKey := none }
            energy := 16 }

/-- `SWWAIT` by itself. -/
def execSwwait (q : MQual) (sv : BitVec 6) (a : MAddr) (s : State) : Host.Outcome State Fault Refusal :=
  issueForm (addrLits a.mode) (reqSwwait q sv a) s

/-- Reads generation and count of a sync word (R208). -/
def reqSwpoll (q : MQual) (sd : BitVec 6) (a : MAddr) : SlotReq :=
  let sp := q.pred.toNat == 1
  mReq q a 32 fun e w =>
    let lat := if sp then (if isOwn e.c w.toNat then 8 else 16) else 48
    { pends := waitScalar e sd.toNat lat
      fault := syncCheck e sp w 0
      act := fun s => s.startAccess { e.access .swpoll q sp w.toNat 32 with
        dest := if sd = 0 then none else some (.s sd.toNat) }
      energy := 16 }

/-- `SWPOLL` by itself. -/
def execSwpoll (q : MQual) (sd : BitVec 6) (a : MAddr) (s : State) : Host.Outcome State Fault Refusal :=
  issueForm (addrLits a.mode) (reqSwpoll q sd a) s

/-- Pins the flat line that holds an address (R209). -/
def reqLlock (q : MQual) (sd : BitVec 6) (a : MAddr) : SlotReq :=
  mReq q a 1 fun e w =>
    { pends := waitScalar e sd.toNat 48
      fault := globalCheck e w 1 0
      act := fun s => s.startAccess { e.access .llock q false w.toNat 1 with
        dest := if sd = 0 then none else some (.s sd.toNat) }
      energy := 8 }

/-- `LLOCK` by itself. -/
def execLlock (q : MQual) (sd : BitVec 6) (a : MAddr) (s : State) : Host.Outcome State Fault Refusal :=
  issueForm (addrLits a.mode) (reqLlock q sd a) s

/-- Releases this context's lock on a line (R209). -/
def reqLunlock (q : MQual) (a : MAddr) : SlotReq :=
  mReq q a 1 fun e w =>
    { fault := globalCheck e w 1 0
      act := fun s => s.startAccess (e.access .lunlock q false w.toNat 1)
      energy := 8 }

/-- `LUNLOCK` by itself. -/
def execLunlock (q : MQual) (a : MAddr) (s : State) : Host.Outcome State Fault Refusal :=
  issueForm (addrLits a.mode) (reqLunlock q a) s

/-- Starts the drop of a tensor record from every record cache (R210). -/
def reqRcfence (q : MQual) (sv : BitVec 6) : SlotReq :=
  { slot := .m, mask := q.mask, eff := fun e =>
      let wit := e.c.readW q.wit.toNat
      { fault := witInput e wit 0
        takesSeq := true
        act := fun s =>
          let r := s.takeSeq e.a e.c.pd.toNat 1 e.c.cid
          { r.1 with
            nextId := r.1.nextId + 1
            drops := r.1.drops ++
              [⟨e.c.pd.toNat, (e.c.readS sv.toNat).toNat % 2 ^ 20, wit, e.a, r.2, e.c.cid, 0, r.1.nextId, e.pos, e.c.tick, false⟩] }
        energy := 8 } }

/-- `RCFENCE` by itself. -/
def execRcfence (q : MQual) (sv : BitVec 6) (s : State) : Host.Outcome State Fault Refusal :=
  issueForm 0 (reqRcfence q sv) s

/-- Loads a crossbar pattern (R211). -/
def reqXpld (q : MQual) (xp : BitVec 3) (a : MAddr) : SlotReq :=
  mReq q a 256 fun e w =>
    let wit := e.c.readW q.wit.toNat
    { pends := [waitPend e (.xp xp.toNat) 48 (BitVec.allOnes 256)]
      fault := orElseFault (globalCheck e w 256 0) (witInput e wit w.toNat)
      act := fun s => s.startAccess { e.access .xpld q false w.toNat 256 with wit := wit, dest := some (.xp xp.toNat) }
      energy := 192 }

/-- `XPLD` by itself. -/
def execXpld (q : MQual) (xp : BitVec 3) (a : MAddr) (s : State) : Host.Outcome State Fault Refusal :=
  issueForm (addrLits a.mode) (reqXpld q xp a) s

/-- Submits a task packet (R212). -/
def reqLaunch (q : MQual) (sv : BitVec 6) (a : MAddr) : SlotReq :=
  mReq q a 16 fun e w =>
    let wit := e.c.readW q.wit.toNat
    { fault := orElseFault (globalCheck e w 16 0) (witInput e wit w.toNat)
      takesSeq := true
      act := fun s => s.startSeq { e.access .launch q false w.toNat 16 with
        wit := wit, data2 := e.c.readS sv.toNat, scope := 1 }
      energy := 8 }

/-- `LAUNCH` by itself. -/
def execLaunch (q : MQual) (sv : BitVec 6) (a : MAddr) (s : State) : Host.Outcome State Fault Refusal :=
  issueForm (addrLits a.mode) (reqLaunch q sv a) s

/-- The fill of `PREF` (R213): the line at its home with the field's priority, and the core's L1 with scope 0 or 1.
Whatever stands in its way leaves no trace: a page that cannot be reached or read, and a page of another policy, which is
one whose faults are delivered (DESIGN CHOICE, log 30). -/
def State.prefetch (s : State) (core dom scope prio : Nat) (w : W64) : State :=
  let t := flatTag dom w.toNat
  match s.translate t w.toNat .read false with
  | .ok s1 l =>
    if l.policy then s
    else if scope ≤ 1 then (s1.setPrio t prio).l1Fill core t else s1.setPrio t prio
  | _ => s

/-- Fills the flat line that holds an address (R213). -/
def reqPref (q : MQual) (a : MAddr) : SlotReq :=
  mReq q a 1 fun e w =>
    { act := fun s => s.prefetch (coreOf e.a) e.c.pd.toNat q.scope.toNat q.evict.toNat w
      energy := 8 }

/-- `PREF` by itself. -/
def execPref (q : MQual) (a : MAddr) (s : State) : Host.Outcome State Fault Refusal :=
  issueForm (addrLits a.mode) (reqPref q a) s

/-- Rewrites a bundle-table entry, read from t + 2 on (R214). -/
def reqBtw (q : MQual) (vr : BitVec 10) (a : MAddr) : SlotReq :=
  mReq q a 1 fun e w =>
    { vreads := [vr.toNat]
      fault := if w.toNat ≥ 512 then some (issueFault e.a 0x21 w 0) else none
      act := fun s => (s.clearPoison ((List.range 32).map (btKey e.a w.toNat + ·))).onCtx e.a fun c =>
        { c with btPend := c.btPend ++ [(2, w.toNat, (e.s.readV e.a vr.toNat).truncate 256)] }
      energy := 8 }

/-- `BTW` by itself. -/
def execBtw (q : MQual) (vr : BitVec 10) (a : MAddr) (s : State) : Host.Outcome State Fault Refusal :=
  issueForm (addrLits a.mode) (reqBtw q vr a) s

end Sys2Proof.Machine
end

