-- ==== Sys2Proof/Machine/Tables.lean ====
section
/-! DEFINITION. The tables of the log-domain path (04 R96, Table 4-3): the integers that the formulas of that table
define, for every index. -/

namespace Sys2Proof.Machine

/-- rne_int(2^21 * log2(1 + i/256)) (Table 4-3). -/
def tableTL : List Int :=
  [0, 11796, 23545, 35250, 46909, 58523, 70093, 81619, 93101, 104540, 115936, 127289, 138599, 149867, 161094,
   172279, 183423, 194526, 205588, 216610, 227592, 238535, 249438, 260301] ++
  [271126, 281912, 292660, 303370, 314042, 324677, 335274, 345835, 356359, 366846, 377297, 387712, 398091,
   408435, 418743, 429017, 439256, 449460, 459630, 469766, 479868, 489936, 499971, 509973] ++
  [519942, 529878, 539781, 549653, 559492, 569299, 579075, 588819, 598532, 608214, 617864, 627485, 637074,
   646634, 656163, 665662, 675132, 684572, 693983, 703365, 712717, 722041, 731336, 740603] ++
  [749841, 759051, 768233, 777388, 786515, 795614, 804686, 813731, 822749, 831741, 840705, 849643, 858555,
   867441, 876300, 885134, 893942, 902724, 911481, 920213, 928920, 937601, 946258, 954890] ++
  [963498, 972081, 980640, 989175, 997685, 1006172, 1014635, 1023075, 1031491, 1039883, 1048253, 1056599,
   1064923, 1073223, 1081501, 1089756, 1097989, 1106199, 1114388, 1122554, 1130698, 1138820, 1146921, 1155000] ++
  [1163057, 1171093, 1179108, 1187101, 1195074, 1203025, 1210956, 1218866, 1226755, 1234624, 1242472, 1250301,
   1258108, 1265896, 1273664, 1281412, 1289140, 1296848, 1304537, 1312207, 1319856, 1327487, 1335099, 1342691] ++
  [1350264, 1357819, 1365354, 1372871, 1380370, 1387849, 1395311, 1402753, 1410178, 1417585, 1424973, 1432343,
   1439696, 1447031, 1454348, 1461647, 1468929, 1476193, 1483440, 1490669, 1497881, 1505077, 1512255, 1519416] ++
  [1526560, 1533687, 1540798, 1547892, 1554969, 1562030, 1569074, 1576102, 1583114, 1590109, 1597089, 1604052,
   1610999, 1617931, 1624846, 1631746, 1638630, 1645499, 1652351, 1659189, 1666011, 1672817, 1679609, 1686385] ++
  [1693146, 1699892, 1706623, 1713339, 1720040, 1726726, 1733398, 1740055, 1746697, 1753325, 1759938, 1766537,
   1773121, 1779691, 1786247, 1792789, 1799317, 1805830, 1812330, 1818815, 1825287, 1831745, 1838189, 1844620] ++
  [1851037, 1857440, 1863830, 1870206, 1876569, 1882918, 1889255, 1895578, 1901887, 1908184, 1914468, 1920738,
   1926996, 1933241, 1939472, 1945691, 1951898, 1958091, 1964272, 1970440, 1976596, 1982739, 1988870, 1994989] ++
  [2001095, 2007188, 2013270, 2019339, 2025396, 2031442, 2037475, 2043496, 2049505, 2055502, 2061487, 2067460,
   2073422, 2079372, 2085310, 2091237, 2097152]

/-- rne_int(2^23 * (2^(i/256) - 1)) (Table 4-3). -/
def tableTE : List Int :=
  [0, 22744, 45549, 68417, 91346, 114337, 137391, 160508, 183687, 206928, 230233, 253601, 277033, 300528,
   324086, 347709, 371395, 395146, 418961, 442841, 466786, 490795, 514869, 539009] ++
  [563215, 587485, 611822, 636225, 660693, 685229, 709830, 734499, 759234, 784036, 808906, 833843, 858847,
   883920, 909060, 934269, 959546, 984891, 1010305, 1035788, 1061340, 1086962, 1112653, 1138413] ++
  [1164243, 1190144, 1216114, 1242156, 1268267, 1294450, 1320703, 1347028, 1373424, 1399891, 1426431, 1453042,
   1479725, 1506481, 1533309, 1560210, 1587184, 1614231, 1641352, 1668546, 1695814, 1723155, 1750571, 1778061] ++
  [1805626, 1833265, 1860979, 1888769, 1916634, 1944574, 1972590, 2000682, 2028850, 2057095, 2085416, 2113814,
   2142289, 2170841, 2199471, 2228178, 2256963, 2285826, 2314767, 2343787, 2372886, 2402063, 2431320, 2460655] ++
  [2490071, 2519566, 2549141, 2578796, 2608532, 2638348, 2668245, 2698223, 2728283, 2758424, 2788646, 2818951,
   2849338, 2879807, 2910359, 2940993, 2971711, 3002512, 3033396, 3064365, 3095417, 3126553, 3157774, 3189079] ++
  [3220470, 3251945, 3283506, 3315152, 3346884, 3378702, 3410607, 3442598, 3474675, 3506840, 3539092, 3571431,
   3603858, 3636373, 3668976, 3701667, 3734447, 3767316, 3800274, 3833322, 3866459, 3899686, 3933002, 3966410] ++
  [3999908, 4033496, 4067176, 4100947, 4134810, 4168764, 4202811, 4236949, 4271181, 4305505, 4339922, 4374433,
   4409037, 4443735, 4478527, 4513413, 4548394, 4583470, 4618641, 4653907, 4689269, 4724727, 4760280, 4795931] ++
  [4831678, 4867521, 4903462, 4939501, 4975637, 5011871, 5048204, 5084634, 5121164, 5157793, 5194521, 5231348,
   5268276, 5305303, 5342431, 5379660, 5416990, 5454420, 5491953, 5529587, 5567323, 5605161, 5643102, 5681146] ++
  [5719293, 5757543, 5795897, 5834355, 5872918, 5911585, 5950356, 5989233, 6028216, 6067304, 6106498, 6145798,
   6185205, 6224718, 6264339, 6304067, 6343903, 6383847, 6423899, 6464060, 6504329, 6544708, 6585197, 6625795] ++
  [6666503, 6707321, 6748251, 6789291, 6830442, 6871705, 6913080, 6954567, 6996167, 7037879, 7079705, 7121644,
   7163696, 7205863, 7248144, 7290539, 7333050, 7375675, 7418417, 7461274, 7504247, 7547337, 7590544, 7633868] ++
  [7677309, 7720868, 7764545, 7808341, 7852255, 7896289, 7940442, 7984714, 8029107, 8073620, 8118253, 8163008,
   8207884, 8252882, 8298001, 8343243, 8388608]

/-- rne_int(2^21 * log2(1 + 2^(-i/8))) (Table 4-3). -/
def tableTGP : List Int :=
  [2097152, 1968918, 1846350, 1729417, 1618065, 1512222, 1411798, 1316684, 1226755, 1141873, 1061885, 986629,
   915935, 849623, 787510, 729410, 675132, 624489, 577292, 533355, 492496, 454537, 419305, 386633] ++
  [356359, 328328, 302394, 278415, 256258, 235797, 216911, 199488, 183423, 168616, 154973, 142409, 130841,
   120195, 110399, 101388, 93101, 85482, 78479, 72042, 66128, 60694, 55703, 51119] ++
  [46909, 43043, 39494, 36236, 33245, 30499, 27980, 25667, 23545, 21598, 19811, 18172, 16668, 15288, 14022,
   12861, 11796, 10818, 9922, 9100, 8345, 7654, 7019, 6437] ++
  [5904, 5414, 4965, 4553, 4176, 3829, 3512, 3220, 2953, 2708, 2484, 2277, 2089, 1915, 1756, 1611, 1477, 1354,
   1242, 1139, 1044, 958, 878, 805] ++
  [739, 677, 621, 570, 522, 479, 439, 403, 369, 339, 311, 285, 261, 239, 220, 201, 185, 169, 155, 142, 131,
   120, 110, 101] ++
  [92, 85, 78, 71, 65, 60, 55, 50, 46, 42, 39, 36, 33, 30, 27, 25, 23, 21, 19, 18, 16, 15, 14, 13] ++
  [12, 11, 10, 9, 8, 7, 7, 6, 6, 5, 5, 4, 4, 4, 3, 3, 3, 3, 2, 2, 2, 2, 2, 2] ++
  [1, 1, 1, 1, 1, 1, 1, 1, 1, 1, 1, 1, 1, 0, 0, 0, 0, 0, 0, 0, 0, 0, 0, 0] ++
  [0, 0, 0, 0, 0, 0, 0, 0, 0, 0, 0, 0, 0, 0, 0, 0, 0, 0, 0, 0, 0, 0, 0, 0] ++
  [0, 0, 0, 0, 0, 0, 0, 0, 0, 0, 0, 0, 0, 0, 0, 0, 0, 0, 0, 0, 0, 0, 0, 0] ++
  [0, 0, 0, 0, 0, 0, 0, 0, 0, 0, 0, 0, 0, 0, 0, 0, 0]

/-- rne_int(2^21 * log2(1 - 2^(-i/8))), and at 0 rne_int(2^21 * log2(1 - 2^(-2^-21))) (Table 4-3). -/
def tableTGM : List Int :=
  [-45149096, -7530485, -5561567, -4461156, -3715217, -3162661, -2731739, -2384182, -2097152, -1855921,
   -1650439, -1473540, -1319941, -1185631, -1067498, -963081, -870397, -787831, -714048, -647935, -588554,
   -535106, -486911, -443381] ++
  [-404006, -368344, -336008, -306656, -279988, -255738, -233671, -213576, -195265, -178570, -163342, -149444,
   -136756, -125168, -114580, -104904, -96057, -87968, -80569, -73800, -67606, -61937, -56748, -51997] ++
  [-47647, -43664, -40016, -36675, -33614, -30810, -28241, -25887, -23730, -21753, -19942, -18282, -16760,
   -15366, -14087, -12916, -11842, -10857, -9955, -9127, -8369, -7673, -7036, -6451] ++
  [-5915, -5424, -4973, -4560, -4181, -3834, -3516, -3224, -2956, -2711, -2486, -2279, -2090, -1916, -1757,
   -1611, -1478, -1355, -1243, -1139, -1045, -958, -879, -806] ++
  [-739, -677, -621, -570, -522, -479, -439, -403, -369, -339, -311, -285, -261, -239, -220, -201, -185, -169,
   -155, -142, -131, -120, -110, -101] ++
  [-92, -85, -78, -71, -65, -60, -55, -50, -46, -42, -39, -36, -33, -30, -27, -25, -23, -21, -19, -18, -16,
   -15, -14, -13] ++
  [-12, -11, -10, -9, -8, -7, -7, -6, -6, -5, -5, -4, -4, -4, -3, -3, -3, -3, -2, -2, -2, -2, -2, -2] ++
  [-1, -1, -1, -1, -1, -1, -1, -1, -1, -1, -1, -1, -1, 0, 0, 0, 0, 0, 0, 0, 0, 0, 0, 0] ++
  [0, 0, 0, 0, 0, 0, 0, 0, 0, 0, 0, 0, 0, 0, 0, 0, 0, 0, 0, 0, 0, 0, 0, 0] ++
  [0, 0, 0, 0, 0, 0, 0, 0, 0, 0, 0, 0, 0, 0, 0, 0, 0, 0, 0, 0, 0, 0, 0, 0] ++
  [0, 0, 0, 0, 0, 0, 0, 0, 0, 0, 0, 0, 0, 0, 0, 0, 0]

end Sys2Proof.Machine
end

