-- ==== Sys2Proof/Machine/Sums.lean ====
section
/-! DEFINITION. Sums, log-domain functions, stash blocks and the update units' accumulator (04 R90 to R108), and the
functions of `TACT` (09 R269). -/

namespace Sys2Proof.Machine

/-! ## The log-domain path (R80, R97 to R99) -/

def lnNan : Nat := 0x7FFF_FFFF
def lnZero : Nat := 0x4000_0000

/-- Whether a log-number word is zero or the log NaN (R80). -/
def lnIsZero (w : Nat) : Bool := (w >>> 30) % 2 == 1 && w % 2 ^ 30 == 0
def lnIsNan (w : Nat) : Bool := (w >>> 30) % 2 == 1 && w % 2 ^ 30 != 0

/-- The word of a sign and l. -/
def lnWord (s : Bool) (l : Int) : Nat := (if s then 2 ^ 31 else 0) + wrapNat 30 l

/-- l of vlog for a finite non-zero magnitude m * 2^e (R97). -/
def vlogL (m : Nat) (e : Int) : Int :=
  let E := floorLog2 m e
  let j := shiftNat m (e - E + 23) - 2 ^ 23
  E * 2 ^ 21 + interp tableTL (j / 2 ^ 15) (j % 2 ^ 15) 15

/-- vlog(x) with its event (R97). -/
def vlog (x : FVal) : Nat × Nat :=
  match x with
  | .nan => (lnNan, ev 1)
  | .inf _ => (lnNan, ev 10)
  | .fin s m e => if m = 0 then (lnZero, 0) else (lnWord s (vlogL m e), 0)

/-- The exact value (-1)^s * 2^E * (1 + m / 2^23) of R98 and R269. -/
def expValue (s : Bool) (l : Int) : FVal :=
  let E := l / 2 ^ 21
  let j := (l - E * 2 ^ 21).toNat
  let m := interp tableTE (j / 2 ^ 13) (j % 2 ^ 13) 13
  .fin s (2 ^ 23 + m.toNat) (E - 23)

/-- vexp(wd, F, mode, sat) of R98, encoded at scale e (R226), with its events. -/
def vexp (w : Nat) (F : NFmt) (e : Int) (mode : Nat) (sat : Bool) : Nat × Nat :=
  let s := (w >>> 31) % 2 == 1
  if lnIsNan w then (F.encode .nan, ev 1)
  else if lnIsZero w then F.finish e mode sat [] (.fin s 0 0)
  else F.finish e mode sat [] (expValue s (sextNat 30 w))

/-- vlnadd(a, b) of R99, with its event. -/
def vlnadd (a b : Nat) : Nat × Nat :=
  if lnIsNan a || lnIsNan b then (lnNan, ev 1)
  else if lnIsZero a then (if lnIsZero b then lnZero else b, 0)
  else if lnIsZero b then (a, 0)
  else
    let la0 := sextNat 30 a
    let lb0 := sextNat 30 b
    let swap := decide (la0 < lb0)
    let sa := (if swap then b else a) / 2 ^ 31 % 2 == 1
    let sb := (if swap then a else b) / 2 ^ 31 % 2 == 1
    let la := if swap then lb0 else la0
    let lb := if swap then la0 else lb0
    let d := (la - lb).toNat
    if sa != sb && d == 0 then (lnZero, 0)
    else
      let g := if d ≥ 2 ^ 26 then 0 else interp (if sa == sb then tableTGP else tableTGM) (d / 2 ^ 18) (d % 2 ^ 18) 18
      let l := la + g
      if l > 2 ^ 29 - 1 then (lnWord sa (2 ^ 29 - 1), ev 10)
      else if l < -(2 ^ 29) then (lnZero, ev 10)
      else (lnWord sa l, 0)

/-! ## `TACT` (R269) -/

/-- clamp(l') of R269: none stands for the +0 result. -/
def clampL (l : Int) : Option Int × Nat :=
  if l > 2 ^ 29 - 1 then (some (2 ^ 29 - 1), ev 10)
  else if l < -(2 ^ 29) then (none, ev 10) else (some l, 0)

/-- rne_int of a signed value. -/
def rneInt (s : Bool) (m : Nat) (e : Int) : Int := if s then -(rneMag m e : Int) else (rneMag m e : Int)

/-- The value that function f of `TACT` gives before the rounding into the tile, or none for a NaN of a non-NaN input,
with the sign and l of its log path (Table 9-7). -/
def tactVal (f : Nat) (x : FVal) : FVal × Nat :=
  match x with
  | .nan => (.nan, ev 1)
  | .inf s =>
    match f with
    | 0 => (.fin s 0 0, 0)
    | 4 => (if s then .fin false 0 0 else .inf false, 0)
    | 3 => (.inf false, 0)
    | 1 => (if s then .nan else .inf false, if s then ev 0 else 0)
    | 2 => (if s then .nan else .fin false 0 0, if s then ev 0 else 0)
    | _ => (if s then .nan else .inf false, if s then ev 0 else 0)
  | .fin s m e =>
    if f = 4 then
      let c := clampL (rneInt s m (e + 21))
      match c.1 with
      | none => (.fin false 0 0, c.2)
      | some l => (expValue false l, c.2)
    else if m = 0 then
      match f with
      | 0 => (.inf s, 0)
      | 1 => (.fin false 0 0, 0)
      | 2 => (.inf false, 0)
      | 3 => (.fin false 0 0, 0)
      | _ => (.inf true, 0)
    else if s && (f == 1 || f == 2 || f == 5) then (.nan, ev 0)
    else
      let l := sextNat 30 (wrapNat 30 (vlogL m e))
      match f with
      | 5 => (FVal.ofInt l (-21), 0)
      | 1 => (expValue false (l / 2), 0)
      | 2 => (expValue false (-(l / 2)), 0)
      | 0 =>
        let c := clampL (-l)
        match c.1 with
        | none => (.fin false 0 0, c.2)
        | some k => (expValue s k, c.2)
      | _ =>
        let c := clampL (2 * l)
        match c.1 with
        | none => (.fin false 0 0, c.2)
        | some k => (expValue false k, c.2)

/-- One element of `TACT` in format F at scale e, with its events. -/
def tactElem (f : Nat) (F : NFmt) (e : Int) (mode : Nat) (sat flush : Bool) (u : Nat) : Nat × Nat :=
  let x := F.decode u e flush
  let y := tactVal f x.1
  let r := F.round mode sat (y.1.scale (-e))
  (F.encode r.val, (if y.1.isNan then y.2 else r.ev ||| y.2 ||| (if r.val == .nan then ev 0 else 0)) |||
    (if x.2 then ev 6 else 0))

/-! ## Reductions (R94, R95) -/

/-- One level of the tree of R95; none is ABSENT. -/
def treeLevel {α : Type} (op : α → α → α) (l : List (Option α)) : List (Option α) :=
  match l with
  | a :: b :: r =>
    (match a, b with
     | none, y => y
     | x, none => x
     | some x, some y => some (op x y)) :: treeLevel op r
  | r => r

/-- The root of the tree of R95 over 2^levels nodes. -/
def treeRoot {α : Type} (op : α → α → α) (levels : Nat) (l : List (Option α)) : Option α :=
  match levels with
  | 0 => (l.head?).join
  | n + 1 => treeRoot op n (treeLevel op l)

/-- The events of one addition into an accumulator that holds no input element: a NaN among the elements added is
event 1, a NaN from an accumulator and elements that are none is event 0 (Table 4-7, log 23). -/
def accEvents (acc : FVal) (ins : List FVal) (r : Rnd) : Nat :=
  if acc.isNan then r.ev ||| (if ins.any FVal.isNan then ev 1 else 0) else opEvents ins r

/-- The sum of a row or column in index order (R94), with the events of its roundings. -/
def seqSum (mode : Nat) (xs : List FVal) : FVal × Nat :=
  match xs with
  | [] => (.fin false 0 0, 0)
  | x :: r =>
    let f := NFmt.f32.round mode false x
    r.foldl (fun acc y =>
      let z := NFmt.f32.round mode false (FVal.add mode acc.1 y)
      (z.val, acc.2 ||| accEvents acc.1 [y] z)) (f.val, opEvents [x] f)

/-! ## The trestle (R92, R93) -/

/-- A term of a trestle sum: its value, the input elements behind it, and the events of its own rounding. -/
structure Term where
  val : FVal
  ins : List FVal
  ev  : Nat

/-- One addition of a trestle sum, in index order (R92). -/
def trestleStep (acc : FVal × Nat) (p : Term) : FVal × Nat :=
  let r := NFmt.f32.round 0 false (FVal.add 0 acc.1 p.val)
  (r.val, acc.2 ||| p.ev ||| (if p.val.isNan && !p.ins.any FVal.isNan then r.ev ||| ev 0 else accEvents acc.1 p.ins r))

/-- The exact product of two elements. -/
def productTerm (a w : FVal) : Term := ⟨FVal.mul a w, [a, w], 0⟩

/-- A sum of products rounded to FP32, with the events of that rounding (R92). -/
def pairTerm (x : FVal) (ins : List FVal) : Term :=
  let r := NFmt.f32.round 0 false x
  ⟨r.val, ins, opEvents ins r⟩

/-- The pairs of binary8 products, each rounded to FP32; an odd last product stands alone (R92). -/
def pairProducts (ps : List Term) : List Term :=
  match ps with
  | a :: b :: r => pairTerm (FVal.add 0 a.val b.val) (a.ins ++ b.ins) :: pairProducts r
  | [a] => [pairTerm a.val a.ins]
  | [] => []

/-- One output element of a floating trestle form: start value, the two factors in index order (R92). A start that is a
NaN is a NaN input. -/
def trestleDot (pairs : Bool) (start : FVal) (xs ws : List FVal) : FVal × Nat :=
  let ps := List.zipWith productTerm xs ws
  (if pairs then pairProducts ps else ps).foldl trestleStep (start, if start.isNan then ev 1 else 0)

/-- The raw integer sum of products, as signed INT32 (R93). -/
def intDot (start : Int) (xs ws : List Int) : Int :=
  sextNat 32 (wrapNat 32 (start + (List.zipWith (· * ·) xs ws).foldl (· + ·) 0))

/-! ## The grinder (R100, R101) -/

/-- k of a stash mode: 4, 6, 8 for S4, S6, S8 (R100). -/
def stashK (mode : Nat) : Nat := 2 * mode + 2

/-- floor_log2 of the largest finite magnitude, when it is not zero. -/
def maxLog (xs : List FVal) : Option Int :=
  xs.foldl (fun acc x =>
    match x with
    | .fin _ m e => if m = 0 then acc else
        match acc with
        | none => some (floorLog2 m e)
        | some a => some (max a (floorLog2 m e))
    | _ => acc) none

/-- A stash element's sign and magnitude at grid 2^q. -/
def stashElem (k : Nat) (q : Int) (x : FVal) : Bool × Nat :=
  match x with
  | .fin s m e => let g := rneMag m (e - q); (s && g != 0, g)
  | .inf s => (s, 2 ^ (k - 1) - 1)
  | .nan => (false, 2 ^ (k - 1) - 1)

/-- The largest magnitude of a block's finite elements at grid 2^q. -/
def stashMax (q : Int) (xs : List FVal) : Nat :=
  xs.foldl (fun acc x =>
    match x with
    | .fin _ m e => Nat.max acc (rneMag m (e - q))
    | _ => acc) 0

/-- stash_block(x, k) of R101: the block's 2 + 4k bytes, and the elements that met events 8 and 9. -/
def stashBlock (k : Nat) (xs0 : List FVal) : List Byte × Nat × Nat :=
  let xs := xs0 ++ List.replicate (32 - xs0.length) (.fin false 0 0)
  let flags := (if xs.any (· == .nan) then 1 else 0) + (if xs.any (· == .inf false) then 2 else 0) +
    (if xs.any (· == .inf true) then 4 else 0)
  let ml := maxLog xs
  if ml = none && flags == 0 then (List.replicate (2 + 4 * k) 0, 0, 0)
  else
    let s0 : Int := match ml with
      | none => -125
      | some a => max (a + 1) (-125)
    let s : Int := if stashMax (s0 - (k : Int) + 1) xs > 2 ^ (k - 1) - 1 then s0 + 1 else s0
    let es := xs.map (stashElem k (s - (k : Int) + 1))
    let bits := es.foldr (fun e acc => (if e.1 then 2 ^ (k - 1) else 0) + e.2 + 2 ^ k * acc) 0
    let raised := match ml with
      | none => false
      | some a => decide (a + 1 < -125)
    let lost := ((List.zipWith (fun x (e : Bool × Nat) => !x.isZero && e.2 == 0) xs es).filter id).length
    (natLe 2 (flags * 256 ||| (s + 126).toNat) ++ natLe (4 * k) bits,
      (xs.filter fun x => match x with
        | .fin _ _ _ => false
        | _ => true).length,
      if raised then lost else 0)

/-- restore_element over a block of 2 + 4k bytes: its 32 elements in format F, each with the events of its rounding
(R101, R109). A magnitude of 0 with its sign set, which only a program writes, gives -0 (DESIGN CHOICE, log 30). -/
def restoreBlock (k : Nat) (F : NFmt) (blk : List Byte) : List (Nat × Nat) :=
  let X := fieldAt blk 0 1
  let bits := leNat (blk.drop 2)
  (List.range 32).map fun j =>
    let e := (bits >>> (k * j)) % 2 ^ k
    if X = 0 then (0, 0)
    else
      let r := F.round 0 true (.fin (e / 2 ^ (k - 1) == 1) (e % 2 ^ (k - 1)) ((X : Int) - 125 - (k : Int)))
      (F.encode r.val, r.ev)

/-! ## The update units (R103 to R108) -/

/-- An accumulator block: exponent, 32 mantissas, 32 states (0 none, 1 +infinity, 2 -infinity, 3 NaN). -/
structure AccVal where
  x  : Int
  m  : List Int
  st : List Nat
  deriving DecidableEq, Repr

/-- A cleared block (R103). -/
def AccVal.clear : AccVal := ⟨-512, List.replicate 32 0, List.replicate 32 0⟩

/-- The join of two non-finite states (R104). -/
def joinState (a b : Nat) : Nat := if a = 0 then b else if b = 0 then a else if a = b then a else 3

/-- The state that an element brings. -/
def stateOf (g : FVal) : Nat :=
  match g with
  | .nan => 3
  | .inf s => if s then 2 else 1
  | .fin _ _ _ => 0

/-- contribute(g) of R104 to one block. -/
def AccVal.contribute (b : AccVal) (g : List FVal) : AccVal :=
  let st := List.zipWith (fun a y => joinState a (stateOf y)) b.st g
  let up : AccVal := match maxLog g with
    | none => ⟨b.x, b.m, st⟩
    | some a => if a + 1 > b.x then ⟨a + 1, b.m.map fun m => shrRne m (a + 1 - b.x).toNat, st⟩ else ⟨b.x, b.m, st⟩
  let m := List.zipWith (fun a y =>
    match y with
    | .fin s n e => a + rneInt s n (e + 45 - up.x)
    | _ => a) up.m g
  if (m.any fun (v : Int) => decide (v.natAbs > 2 ^ 45)) then ⟨up.x + 1, m.map fun v => shrRne v 1, st⟩ else ⟨up.x, m, st⟩

/-- A value rounded to FP32 nearest-even, with the events of the operation on ins that gave it (R89, R109). -/
abbrev Ev32 := BitVec 32 × Nat
def round32 (ins : List FVal) (x : FVal) : Ev32 :=
  let r := NFmt.f32.finish 0 0 false ins x
  (BitVec.ofNat 32 r.1, r.2)

/-- The FP32 elements of a block at its line's completion, with the events of their roundings (R107 step 1). -/
def AccVal.finish (b : AccVal) : List Ev32 :=
  List.zipWith (fun m st =>
    match st with
    | 0 => round32 [] (FVal.ofInt m (b.x - 45))
    | 1 => ((0x7F80_0000 : BitVec 32), 0)
    | 2 => ((0xFF80_0000 : BitVec 32), 0)
    | _ => ((0x7FC0_0000 : BitVec 32), 0)) b.m b.st

/-- An element with the events it has met so far takes part in one more operation of an optimizer. -/
def op32 (f : FVal → FVal → FVal) (a b : Ev32) : Ev32 :=
  let x := f32Val a.1
  let y := f32Val b.1
  let r := round32 [x, y] (f x y)
  (r.1, a.2 ||| b.2 ||| r.2)

def fmul (a b : Ev32) : Ev32 := op32 FVal.mul a b
def fadd (a b : Ev32) : Ev32 := op32 (FVal.add 0) a b
def fsub (a b : Ev32) : Ev32 := op32 (FVal.sub 0) a b

/-- The square root and the quotient of Table 4-1 with their events: a NaN input, and a NaN from inputs that are none
(log 23). -/
def fsqrt (a : Ev32) : Ev32 :=
  (sqrt32 a.1, a.2 ||| opEvents [f32Val a.1] (sqrtRnd a.1))
def fdiv (a b : Ev32) : Ev32 :=
  (div32 a.1 b.1, a.2 ||| b.2 ||| opEvents [f32Val a.1, f32Val b.1] (divRnd a.1 b.1))

/-- The hyperparameters of Table 4-6 that an optimizer uses. -/
structure Hyper where
  lr  : BitVec 32
  wd  : BitVec 32
  b1  : BitVec 32
  b2  : BitVec 32
  eps : BitVec 32
  c1  : BitVec 32
  c2  : BitVec 32
  sa  : Nat
  sb  : Nat
  deriving DecidableEq, Repr

/-- The hyperparameter block of 64 bytes (Table 4-6). -/
def Hyper.ofBytes (bs : List Byte) : Hyper :=
  let f := fun o => BitVec.ofNat 32 (fieldAt bs o 4)
  ⟨f 0, f 4, f 8, f 12, f 16, f 20, f 24, fieldAt bs 32 4 % 2 ^ 20, fieldAt bs 36 4 % 2 ^ 20⟩

/-- One element of an optimizer (R108): new w, bm, bv, each with the events met on its way. -/
def optimizeEv (opt : Nat) (h : Hyper) (w gv bm bv : Ev32) : Ev32 × Ev32 × Ev32 :=
  let k := fun (c : BitVec 32) => ((c, 0) : Ev32)
  match opt with
  | 0 => (gv, bm, bv)
  | 1 =>
    let t := fadd gv (fmul (k h.wd) w)
    let bm' := fadd (fmul (k h.b1) bm) t
    (fsub w (fmul (k h.lr) bm'), bm', bv)
  | _ =>
    let one := k 0x3F80_0000
    let w1 := fsub w (fmul (fmul (k h.lr) (k h.wd)) w)
    let bm' := fadd (fmul (k h.b1) bm) (fmul (fsub one (k h.b1)) gv)
    let bv' := fadd (fmul (k h.b2) bv) (fmul (fsub one (k h.b2)) (fmul gv gv))
    let den := fadd (fsqrt (fmul bv' (k h.c2))) (k h.eps)
    (fsub w1 (fmul (k h.lr) (fdiv (fmul bm' (k h.c1)) den)), bm', bv')

/-- The new w, bm and bv of one element (R108). -/
def optimize (opt : Nat) (h : Hyper) (w gv bm bv : BitVec 32) : BitVec 32 × BitVec 32 × BitVec 32 :=
  let r := optimizeEv opt h (w, 0) (gv, 0) (bm, 0) (bv, 0)
  (r.1.1, r.2.1.1, r.2.2.1)

end Sys2Proof.Machine
end

