-- ==== Sys2Proof/Machine/Tile.lean ====
section
/-! DEFINITION. Tiles, the tile stack, the checks at issue and the tile window, shared by every form of the T slot
(09 R235 to R254). -/

namespace Sys2Proof.Machine

/-! ## Formats and descriptors (R78, R235, R236) -/

/-- Whether a tile format code is one of Table 3-7. -/
def tileFmtOk (f : BitVec 6) : Bool := decide (f.toNat ≤ 6) || (f.getLsbD 5 && f.extractLsb' 0 3 != 0)

/-- The element size of a tile format (Table 3-7). -/
def tileSize (f : BitVec 6) : Nat :=
  match f.toNat with
  | 2 => 2
  | 3 => 4
  | 4 => 2
  | 5 => 2
  | 6 => 4
  | _ => 1

/-- The number format of a tile format code. -/
def tileFmt (f : BitVec 6) : NFmt :=
  match f.toNat with
  | 0 => NFmt.int 8 true
  | 1 => NFmt.int 8 false
  | 2 => NFmt.int 16 true
  | 3 => NFmt.int 32 true
  | 4 => NFmt.f16
  | 5 => NFmt.bf16
  | 6 => NFmt.f32
  | _ => NFmt.ofB8 f

/-- Whether a tile format is an integer format. -/
def tileInt (f : BitVec 6) : Bool := decide (f.toNat ≤ 3)

/-- The image bytes of a descriptor and its granules (R55, R235, R236). -/
def Entry.bytes (e : Entry) : Nat := e.rows * e.cols * tileSize e.fmt
def granules (bytes : Nat) : Nat := (bytes + 2047) / 2048
def Entry.grans (e : Entry) : Nat := granules e.bytes
def Entry.rowBytes (e : Entry) : Nat := e.cols * tileSize e.fmt

/-- The shape word of a descriptor (Table 9-1). -/
def Entry.shapeWord (e : Entry) : W64 :=
  BitVec.ofNat 34 0 ++ BitVec.ofInt 8 e.scale ++ e.fmt ++ BitVec.ofNat 9 (e.cols - 1) ++ BitVec.ofNat 7 (e.rows - 1)

/-- The descriptor of a shape word. -/
def shapeEntry (w : W64) : Entry :=
  ⟨0, (w.extractLsb' 0 7).toNat + 1, (w.extractLsb' 7 9).toNat + 1, w.extractLsb' 16 6, (w.extractLsb' 22 8).toInt⟩

/-- A fault of a T form at issue: cause, auxiliary word, fault address; of `MACHINE` the bank of the register memory that
holds the poison, or, marked by a word of 1, a record cache holds it (R381). -/
abbrev TFault := Nat × W64 × Nat

/-- The record fields of a fault of a T form. -/
def tileTrap (a : Nat) (f : TFault) : TrapInfo :=
  if f.1 = 0x50 then { cause := 0x50, unit := if f.2.1 = 0 then coreUnit a 2 f.2.2 else unitPath (dieOf a) 0 0 13 0 }
  else issueFault a f.1 f.2.1 f.2.2

def fmtFault (aux : Nat) : TFault := (0x14, BitVec.ofNat 64 aux, 0)
def shapeFault (aux : Nat) : TFault := (0x13, BitVec.ofNat 64 aux, 0)

/-- A check: the fault when the condition fails to hold. -/
def require (ok : Bool) (f : TFault) : Option TFault := if ok then none else some f

/-- The first fault of a list of checks in order. -/
def firstFault (l : List (Option TFault)) : Option TFault := (l.find? Option.isSome).join

/-- The format check, then the shape check, of a shape word (Table 9-1, R236). -/
def wordFmt (w : W64) : Option TFault := require (tileFmtOk (shapeEntry w).fmt) (fmtFault 0x20)
def wordShape (w : W64) : Option TFault :=
  require (w.extractLsb' 30 34 == 0 && decide ((shapeEntry w).rowBytes ≤ 512)) (shapeFault 0x20)

/-- Whether a scale exponent is in range (R79). -/
def scaleOk (k : Int) : Bool := decide (-128 ≤ k) && decide (k ≤ 127)

/-! ## What a form sees, and what it asks for -/

/-- What a T form sees: at its issue, or at its replay with what it kept (R246, R250, R251). -/
structure TIn where
  s      : State
  a      : Nat
  c      : Ctx
  fmt    : W64
  params : List W64
  wit    : W64
  record : List Byte
  image  : List Byte
  replay : Bool

/-- What a T form asks for: how many entries it reaches and pops, the operands it binds, its pushes (deepest first;
tile 0 stands for the new tile), the image of a tile produced at issue, its faults in the order of R254 from the formats
on, its witness input and output, and its charge. -/
structure TPlan where
  need    : Nat := 0
  pops    : Nat := 0
  binds   : List Entry := []
  plane   : Option Entry := none
  out     : List Entry := []
  fresh   : Option Nat := none
  made    : Option (List Byte) := none
  planes  : Option (Option Entry × Option Entry) := none
  fault   : Option TFault := none
  late    : Option TFault := none
  hold    : Bool := false
  onHold  : State → State := id
  input   : Bool := false
  outWit  : Option (Nat × Nat) := none
  pends   : List Pend := []
  also    : State → State := id
  now     : Bool := false
  record  : List Byte := []
  image   : List Byte := []
  energy  : Nat := 2

/-- The entry at a depth. -/
def TIn.at (t : TIn) (d : Nat) : Entry := (t.c.stack[d]?).getD ⟨0, 1, 1, 0, 0⟩

/-- A parameter value. -/
def TIn.par (t : TIn) (i : Nat) : W64 := (t.params[i]?).getD 0

/-! ## Ranking and charge (R240, R241) -/

/-- The granules of the tiles of a list, each tile once. -/
def sumGrans (seen : List Nat) (l : List Entry) : Nat :=
  match l with
  | [] => 0
  | e :: r => if seen.contains e.tile then sumGrans seen r else e.grans + sumGrans (e.tile :: seen) r

/-- A list of tiles by first place. -/
def rankOf (seen : List Nat) (l : List Entry) : List Nat :=
  match l with
  | [] => []
  | e :: r => if seen.contains e.tile then rankOf seen r else e.tile :: rankOf (e.tile :: seen) r

/-- The ranked list of R240 before any tile is counted twice. -/
def ranked (own : List Entry) (recent : List (List Entry)) (p0 p1 : Option Entry) (stack : List Entry) : List Entry :=
  own ++ (recent.take 31).flatten ++ p0.toList ++ p1.toList ++ stack

/-- The deck and pier quotas in granules (R55). -/
def Ctx.deckG (c : Ctx) : Nat := c.deckq.toNat
def Ctx.pierG (c : Ctx) : Nat := c.pierq.toNat / 2048

/-- The footing charge of a sum of granules. -/
def Ctx.footCharge (c : Ctx) (g : Nat) : Nat := if g ≤ c.deckG + c.pierG then 0 else g - c.deckG - c.pierG + 62

/-- A plan's pushes and operands with the new tile's number in place. -/
def TPlan.numbered (p : TPlan) (n : Nat) : TPlan :=
  { p with out := p.out.map fun e => if p.fresh.isSome && e.tile == 0 then { e with tile := n } else e }

/-- The tiles that a form binds and pushes. -/
def TPlan.own (p : TPlan) : List Entry := p.binds ++ p.plane.toList ++ p.out

/-- The stack after a plan's pops and pushes: the first push is the deepest (R239). -/
def TPlan.stackAfter (p : TPlan) (st : List Entry) : List Entry := p.out.reverse ++ st.drop p.pops

/-- `SPILL_FULL` (R241). -/
def spillFault (c : Ctx) (p : TPlan) : Option TFault :=
  if p.own.isEmpty then none
  else if sumGrans [] p.own > c.deckG then some (0x12, 2, 0)
  else
    let pl := p.planes.getD (c.plane0, c.plane1)
    let g := sumGrans [] (ranked p.own c.recent pl.1 pl.2 (p.stackAfter c.stack))
    if c.footCharge g > c.spilllen.toNat / 2048 then some (0x12, 0, 0) else none

/-- The issue-time checks in the order of R254. -/
def tileFault (t : TIn) (p : TPlan) : Option TFault :=
  let d := t.c.stack.length
  let after := d - p.pops + p.out.length
  if p.need > d then some (0x10, BitVec.ofNat 64 p.need, 0)
  else if after > t.c.tlimit then some (0x11, BitVec.ofNat 64 after, 0)
  else firstFault [p.fault, spillFault t.c p,
    (if p.input then (t.s.witFault t.a t.c.pd.toNat t.wit).map fun k => (k, t.wit, 0) else none), p.late]

/-! ## Tile storage (R237, R242) -/

/-- The image of a tile, when it is produced. -/
def Ctx.tileImg (c : Ctx) (id : Nat) : Option (List Byte) := (AL.find c.tiles id).bind (·.img)

/-- The key of the poison mark of a tile of a context by its name (R381). -/
def tileKey (cid tile : Nat) : Nat := 8 * 2 ^ 60 + cid * 2 ^ 40 + tile % 2 ^ 37 * 8

/-- The bank of its core that holds a deck tile of a context: one of those that no resident context binds (R43), which of
them is a free value (log 11). -/
def State.deckBankOf (s : State) (a : Nat) (c : Ctx) (tile : Nat) : Nat :=
  let free := (List.range 64).filter fun b => !(decide (b < 12) && (s.ctx (coreOf a * 4 + b / 3)).isSome)
  (free[Config.deckBank c.cid tile % free.length]?).getD 12

/-- The deck granules in use. -/
def Ctx.deckUsed (c : Ctx) : Nat := (c.tiles.map fun e => if e.2.tier == .deck then granules e.2.bytes else 0).sum
def Ctx.pierUsed (c : Ctx) : Nat := (c.tiles.map fun e => if e.2.tier == .pier then granules e.2.bytes else 0).sum

/-- The tiles of a context in the order of R240. -/
def Ctx.rankedEntries (c : Ctx) : List Entry :=
  (c.recent.take 32).flatten ++ c.plane0.toList ++ c.plane1.toList ++ c.stack
def Ctx.rankedTiles (c : Ctx) : List Nat := rankOf [] c.rankedEntries

/-- The slots of the footing that tiles hold. -/
def Ctx.footUsed (c : Ctx) : List (Nat × Nat) :=
  c.tiles.filterMap fun e => match e.2.tier with
    | .footing k => some (k, granules e.2.bytes)
    | _ => none

/-- The granules of the tile that a held `TZERO` makes: its bundle waits for room in the deck (R242, R258), unless its issue
is a `SPILL_FULL` (R241). -/
def Ctx.toMake (c : Ctx) : Option Nat :=
  if c.held then
    match c.formT with
    | some (.tzero _ sp) =>
      let g := granules (shapeEntry (c.readS sp.toNat)).bytes
      if c.footCharge (sumGrans [] c.rankedEntries + g) ≤ c.spilllen.toNat / 2048 then some g else none
    | _ => none
  else none

/-- How many granules the footing may hold: the footing charge of the last issue (R242), which counts the tile of a bundle
that waits for its place (DEDUCED, log 34). -/
def Ctx.footLimit (c : Ctx) : Nat := c.footCharge (sumGrans [] c.rankedEntries + c.toMake.getD 0)

/-- The lowest run of n free consecutive slots (R393), within what the footing may hold. -/
def Ctx.freeRun (c : Ctx) (n : Nat) : Option Nat :=
  let used := c.footUsed
  if (used.map (·.2)).sum + n > c.footLimit then none
  else (List.range (c.spilllen.toNat / 2048)).find? fun k =>
    decide (k + n ≤ c.spilllen.toNat / 2048) && used.all fun u => decide (u.1 + u.2 ≤ k) || decide (k + n ≤ u.1)

/-- Put a tile in a tier. The pier's tiles are named with their bytes; the bytes of the share that the pier takes up are
not written with them, so that a later team of the domain finds there what was there before (DESIGN CHOICE, R56, log 30). -/
def Ctx.setTier (c : Ctx) (id : Nat) (t : Tier) (img : Option (List Byte)) : Ctx :=
  { c with tiles := c.tiles.map fun e => if e.1 == id then (e.1, { e.2 with tier := t, img := img }) else e }

/-- The bytes of a poisoned tile are poisoned where they have been written in the footing (R381). -/
def State.markFooting (s : State) (c : Ctx) (id va : Nat) : State :=
  match s.poisoned (tileKey c.cid id) 8, s.translate (flatTag c.pd.toNat va) va .write false with
  | true, .ok s1 l => { s1 with poison := (l.key va / 8 * 8 * 2) :: s1.poison }
  | _, _ => s

/-- Whether the deck has room for a tile of so many bytes. -/
def Ctx.roomFor (c : Ctx) (bytes : Nat) : Bool := decide (c.deckUsed + granules bytes ≤ c.deckG)

/-- Write a tile to the footing, at the lowest run of free slots. What is poisoned stays so (R381). -/
def State.sinkTo (s : State) (a : Nat) (c : Ctx) (id : Nat) (img : List Byte) : Res Unit :=
  match c.freeRun (granules img.length) with
  | none => .wait
  | some k =>
    let va := c.spillbase.toNat + 2048 * k
    match s.writeFlatVia false c.pd.toNat (linePieces (img.length / 2048 + 3) va img.length) img with
    | (_, some (some f)) => .fault f
    | (_, some none) => .wait
    | (s1, none) =>
      .ok ((s1.markFooting c id va).onCtx a fun c => c.setTier id (.footing k) (some img)) ()

/-! ## Issue and replay -/

/-- Whether a plan is complete at issue (R246): one that makes a tile holds its bundle until that has its place in the deck,
for which the copy engine makes room; at a replay it is complete once it has (R242, R258; DEDUCED, log 34). -/
def TPlan.complete (p : TPlan) (c : Ctx) : Bool := p.now && p.made.all fun b => c.roomFor b.length

/-- The operation that a plan makes. -/
def mkOp (t : TIn) (form : Instr) (p : TPlan) (tseq : Nat) (pos : CodePos) (tick : W64) (seq : Option Nat) (agent : Nat) (c : Ctx) : TOp :=
  { epoch := t.s.epoch, sat := false, prog := 0, place := c.tiles.map fun e => (e.1, e.2.tier)
    tseq, form, pos, tick, fmt := t.fmt, params := t.params, binds := p.binds, plane := p.plane, results := p.out
    wit := t.wit, seq, agent, scope := (p.outWit.map (·.2)).getD 0, record := p.record, image := p.image
    status := if p.complete c then .done else .waiting
    stack0 := c.stack, plane0 := c.plane0, plane1 := c.plane1, energy := p.energy, stats := [], eng := 0
    ord := t.s.nextId, handler := c.capture.isSome }

/-- An operation enters the window: it pops, binds and pushes, and a complete one retires when it is the oldest (R246).
A tile produced at issue lies in the deck. -/
def Ctx.pushOp (c : Ctx) (p0 : TPlan) (mk : TPlan → Ctx → TOp) : Ctx :=
  let p := p0.numbered c.nextTile
  let made := if p.complete c then p.made else none
  let c1 := { c with
    window := c.window ++ [mk p c]
    stack := p.stackAfter c.stack
    recent := (p.own :: c.recent).take 63
    plane0 := match p.planes with
      | some x => x.1
      | none => c.plane0
    plane1 := match p.planes with
      | some x => x.2
      | none => c.plane1
    nextTile := if p.fresh.isSome then c.nextTile + 1 else c.nextTile
    tiles := match p.fresh with
      | some b => AL.put c.tiles c.nextTile ⟨b, made, if made.isSome then .deck else .none⟩
      | none => c.tiles }
  c1.retireTiles

/-- The number of window entries. -/
def windowSize : Nat := 32

/-- What a T form sees at its issue: its parameter block and its witness input are read at t. -/
def Env.tin (e : Env) (sp n w : Nat) : TIn :=
  { s := e.s, a := e.a, c := e.c, fmt := e.c.fmt, params := (List.range n).map fun i => e.c.readS (sp + i)
    wit := e.c.readW w, record := [], image := [], replay := false }

/-- The effect of a T form at issue. -/
def tEff (e : Env) (form : Instr) (t : TIn) (p : TPlan) : Eff :=
  let full := decide (e.c.window.length ≥ windowSize)
  { pends := p.pends ++ (match p.outWit with
      | some x => witPend x.1 1 (e.outWit x.2 e.nextSeqNum)
      | none => [])
    fault := if p.hold || full then none
      else (tileFault t (p.numbered t.c.nextTile)).map fun f => tileTrap e.a f
    hold := p.hold || full || !p.made.all fun b => e.c.roomFor b.length
    onHold := p.onHold
    takesSeq := p.outWit.isSome
    act := fun s =>
      let q : State × Option Nat := match p.outWit with
        | some x => let r := s.takeSeq e.a e.c.pd.toNat x.2 e.c.cid; (r.1, some r.2)
        | none => (s, none)
      p.also (q.1.onCtx e.a fun c =>
        { c.pushOp p fun p c => mkOp t form p c.tseq e.pos e.c.tick q.2 e.a c with tseq := (c.tseq + 1) % 2 ^ 32 })
    energy := p.energy }

/-- A form of the T slot: its parameter block of n registers at sp, its witness input register, its plan. -/
def tReq (m : Mask) (form : Instr) (sp n w : Nat) (plan : TIn → TPlan) : SlotReq :=
  { slot := .t, mask := m, eff := fun e => let t := e.tin sp n w; tEff e form t (plan t) }

/-- What a cancelled operation sees at its replay (R251). -/
def TOp.tin (o : TOp) (s : State) (a : Nat) (c : Ctx) : TIn :=
  { s, a, c, fmt := o.fmt, params := o.params, wit := o.wit, record := o.record, image := o.image, replay := true }

/-- The replay of one operation under its plan: the fault it meets, or the context with the operation in its window
again; its charge is made again (R251, R366). -/
def replayOp (t : TIn) (o : TOp) (p : TPlan) : Except TFault (Ctx → Ctx) :=
  match tileFault t (p.numbered t.c.nextTile) with
  | some f => .error f
  | none => .ok fun c =>
      (c.charge p.energy).pushOp p fun p c =>
        { mkOp t o.form p o.tseq o.pos o.tick o.seq o.agent c with epoch := o.epoch, sat := o.sat, ord := o.ord, handler := o.handler }

/-! ## The engines -/

/-- The engine classes that complete tile operations (Table 9-4, Table 10-3). -/
inductive EngClass where
  | none
  | trestle
  | vt
  | txp
  | copy
  | grinder
  | update
  | coll
  deriving DecidableEq, Repr

/-- The engine of a form. -/
def engineOf (i : Instr) : EngClass :=
  match i with
  | .mfw .. => .trestle
  | .mfwa .. => .trestle
  | .mbk .. => .trestle
  | .mbka .. => .trestle
  | .tadd .. => .vt
  | .tsub .. => .vt
  | .tmul .. => .vt
  | .tmax .. => .vt
  | .tmin .. => .vt
  | .tfma .. => .vt
  | .tcvt .. => .vt
  | .tact .. => .vt
  | .trsum .. => .vt
  | .tcsum .. => .vt
  | .txp .. => .txp
  | .tlds .. => .copy
  | .tsts .. => .copy
  | .tfromv .. => .copy
  | .ttov .. => .copy
  | .tget .. => .copy
  | .tsend .. => .copy
  | .tsendq .. => .copy
  | .acopy .. => .copy
  | .acopyw .. => .copy
  | .stash .. => .grinder
  | .restore .. => .grinder
  | .grad .. => .update
  | .coll .. => .coll
  | _ => .none

/-- An operand as an engine reads it: its descriptor and its elements. -/
structure TArg where
  e  : Entry
  xs : List Nat

/-- The operands of an operation, when every one is produced (R237, R247). -/
def Ctx.args (c : Ctx) (l : List Entry) : Option (List TArg) :=
  match l with
  | [] => some []
  | e :: r =>
    match c.tileImg e.tile, c.args r with
    | some b, some as => some (⟨e, elemsOf (tileSize e.fmt) b⟩ :: as)
    | _, _ => none

/-- The decoded elements of an operand, with whether each was flushed (R83, R79). -/
def TArg.vals (x : TArg) (f : W64) : List (FVal × Bool) :=
  x.xs.map fun u => (tileFmt x.e.fmt).decode u x.e.scale (fmtFlush f)

/-- The raw stored integers of an operand. -/
def TArg.ints (x : TArg) : List Int :=
  if x.e.fmt = 1 then x.xs.map fun (u : Nat) => (u : Int) else x.xs.map (sextNat (8 * tileSize x.e.fmt))

/-- Rows of a matrix as its columns, n of them. -/
def columnsOf {α : Type} (n : Nat) (rows : List (List α)) : List (List α) :=
  match n with
  | 0 => []
  | k + 1 => rows.filterMap List.head? :: columnsOf k (rows.map List.tail)

/-- The rows of an operand's elements. -/
def rowsOf {α : Type} (cols : Nat) (l : List α) : List (List α) := chunks cols l

/-- Whether an arithmetic result in a tile format follows the saturation bit (R71, R266). -/
def tileSat (f : W64) (code : BitVec 6) : Bool := code.getLsbD 5 && fmtSat f

end Sys2Proof.Machine
end

