-- ==== Sys2Proof/Machine/TileStack.lean ====
section
/-! DEFINITION. The forms 0 to 29 of the T slot (09 R255 to R271): for each its plan (the checks and the effect on the
stack), what it asks of the issue of its bundle (req) and its meaning by itself (exec); and what the trestle, the
vector-tile engines and the transpose engine compute. -/

namespace Sys2Proof.Machine

/-! ## Shared parts -/

/-- Units of 256 bytes, rounded up (Table 17-8). -/
def units256 (b : Nat) : Nat := (b + 255) / 256

/-- A form that moves references only. -/
def movePlan (need pops : Nat) (binds out : List Entry) : TPlan :=
  { need := need, pops := pops, binds := binds, out := out, now := true }

/-- The n top entries in pop order. -/
def TIn.top (t : TIn) (n : Nat) : List Entry := t.c.stack.take n

/-- A form of a vector-tile engine: n operands, popped and bound, and one result (R266). -/
def vtPlan (t : TIn) (n : Nat) (faults : List (Option TFault)) (r : Entry) : TPlan :=
  { need := n, pops := n, binds := t.top n, out := [r], fresh := some r.bytes, fault := firstFault faults
    energy := 16 * units256 r.bytes }

/-- The offender of operands that must match A: B of a binary form is operand 0 (R239, R254). -/
def match2 (t : TIn) (p : Entry → Entry → Bool) (f : Nat → TFault) : Option TFault := require (p (t.at 0) (t.at 1)) (f 0)

/-- The formats and shapes of a binary form (R266); integer scales must be equal. -/
def sameFmt (x y : Entry) : Bool := x.fmt == y.fmt
def sameScale (x y : Entry) : Bool := !tileInt y.fmt || x.scale == y.scale
def sameShape (x y : Entry) : Bool := x.rows == y.rows && x.cols == y.cols

/-- `TADD`, `TSUB`, `TMAX`, `TMIN`, and `TMUL` with its integer scale e_A + e_B (R266). -/
def binPlan (mulScale : Bool) (t : TIn) : TPlan :=
  let a := t.at 1
  let scale := if mulScale && tileInt a.fmt then a.scale + (t.at 0).scale else a.scale
  vtPlan t 2 [match2 t sameFmt fmtFault, match2 t sameScale fmtFault, require (scaleOk scale) (fmtFault 0x21),
    match2 t sameShape shapeFault] ⟨0, a.rows, a.cols, a.fmt, scale⟩

/-! ## Scratchpad rows (R261, R262) -/

/-- The first scratchpad address of the rows that fails R58. -/
def rowsFail (c : Ctx) (a p : W64) (rows n : Nat) : Option Nat :=
  (List.range rows).findSome? fun i => spFail c (a + BitVec.ofNat 64 i * p) n

/-- The range and alignment checks of `TLDS` and `TSTS`. -/
def rowsFault (c : Ctx) (a p : W64) (e : Entry) : Option TFault :=
  match rowsFail c a p e.rows e.rowBytes with
  | some f => some (0x23, 0, f)
  | none =>
    if a.toNat % tileSize e.fmt ≠ 0 ∨ p.toNat % tileSize e.fmt ≠ 0 then
      some (0x22, BitVec.ofNat 64 (tileSize e.fmt), a.toNat)
    else none

/-! ## The trestle (R263 to R265) -/

/-- Whether a tile may be a weight tile (R263). -/
def weightFmt (f : BitVec 6) : Bool := f == 4 || f == 5 || f.getLsbD 5 || f == 0 || f == 1

/-- The formats that `intout` names (Table 3-10). -/
def intoutFmt (f : W64) : BitVec 6 :=
  match fmtIntout f with
  | 0 => 3
  | 1 => 2
  | 2 => 0
  | 3 => 1
  | _ => 6

/-- The parts of the epilogue field (Table 9-6). -/
def epiOut (e : BitVec 8) : Nat := e.toNat / 16
def epiOp (e : BitVec 8) : Nat := e.toNat % 16
def epiBias (e : BitVec 8) : Bool := epiOp e == 2 || epiOp e == 3
def epiRelu (e : BitVec 8) : Bool := epiOp e == 1 || epiOp e == 3

/-- The format and scale of the sums before an epilogue (R264). -/
def sumFmt (w : Entry) (f : W64) : BitVec 6 := if tileInt w.fmt then intoutFmt f else 6
def sumScale (x w : Entry) : Int := if tileInt w.fmt then x.scale + w.scale else 0

/-- A trestle form: fwd streams X against W, otherwise G against its transpose; acc adds a popped accumulator. With an
empty plane the formats that the popped tiles alone show come before its `TILE_SHAPE` (R254; DEDUCED, log 30). -/
def trestlePlan (fwd acc : Bool) (ep : BitVec 8) (pl : Bool) (t : TIn) : TPlan :=
  let n := 1 + (if acc then 1 else 0) + (if epiBias ep then 1 else 0)
  let x := t.at 0
  let base : TPlan := { need := n, pops := n, binds := t.top n }
  match (if pl then t.c.plane1 else t.c.plane0) with
  | none => { base with
      out := [⟨0, 1, 1, 0, 0⟩], fresh := some 0
      fault := firstFault [
        require (!acc || (t.at 1).fmt == (if tileInt x.fmt then 3 else 6)) (fmtFault 1),
        require (!epiBias ep || (t.at (n - 1)).fmt == (if tileInt x.fmt then intoutFmt t.fmt else 6)) (fmtFault (n - 1)),
        require (!(tileInt x.fmt && epiOut ep != 0)) (fmtFault 0x21),
        some (shapeFault (if pl then 0x11 else 0x10))] }
  | some w =>
    let int := tileInt w.fmt
    let k := if fwd then w.rows else w.cols
    let cols := if fwd then w.cols else w.rows
    let rf := sumFmt w t.fmt
    let rs := sumScale x w
    let bi := if acc then 2 else 1
    let b := t.at bi
    let r : Entry := ⟨0, x.rows, cols, if epiOut ep = 1 then 5 else if epiOut ep = 2 then 4 else rf,
      if epiOut ep = 0 then rs else 0⟩
    { base with
      plane := some w, out := [r], fresh := some r.bytes
      fault := firstFault [
        require (x.fmt == w.fmt || (int && (x.fmt == 0 || x.fmt == 1))) (fmtFault 0),
        require (!acc || (if int then (t.at 1).fmt == 3 && (t.at 1).scale == rs else (t.at 1).fmt == 6)) (fmtFault 1),
        require (!epiBias ep || (if int then b.fmt == rf && b.scale == rs else b.fmt == 6)) (fmtFault bi),
        require (scaleOk rs) (fmtFault 0x21),
        require (!(int && epiOut ep != 0)) (fmtFault 0x21),
        require (x.cols == k) (shapeFault 0),
        require (!acc || ((t.at 1).rows == x.rows && (t.at 1).cols == cols)) (shapeFault 1),
        require (!epiBias ep || (b.rows == 1 && b.cols == cols)) (shapeFault bi)]
      energy := 512 * x.rows + (if ep = 0 then 0 else 16 * units256 r.bytes) }

/-- The sums of a trestle form before its epilogue, row by row, with their events (R92, R93). -/
def trestleSums (fwd acc : Bool) (f : W64) (x w : TArg) (cin : Option TArg) : List (Nat × Nat) :=
  let n := if fwd then w.e.cols else w.e.rows
  if tileInt w.e.fmt then
    let ws := if fwd then columnsOf w.e.cols (rowsOf w.e.cols w.ints) else rowsOf w.e.cols w.ints
    let starts : List Int := match cin with
      | some a => if acc then a.ints else []
      | none => []
    let F := tileFmt (intoutFmt f)
    (rowsOf x.e.cols x.ints).zipIdx.flatMap fun xi => ws.zipIdx.map fun wj =>
      let a := intDot ((starts[xi.2 * n + wj.2]?).getD 0) xi.1 wj.1
      if fmtIntout f = 0 then (wrapNat 32 a, 0)
      else F.finish 0 (fmtTrnd f) (fmtIntout f != 4 || fmtSat f) [] (FVal.ofInt a (fmtNscale f))
  else
    let ws := if fwd then columnsOf w.e.cols (rowsOf w.e.cols (w.vals f)) else rowsOf w.e.cols (w.vals f)
    let starts : List (FVal × Bool) := match cin with
      | some a => if acc then a.vals f else []
      | none => []
    (rowsOf x.e.cols (x.vals f)).zipIdx.flatMap fun xi => ws.zipIdx.map fun wj =>
      let c := (starts[xi.2 * n + wj.2]?).getD (.fin false 0 0, false)
      let r := trestleDot (w.e.fmt.getLsbD 5) c.1 (xi.1.map (·.1)) (wj.1.map (·.1))
      (NFmt.f32.encode r.1, r.2 ||| (if c.2 || xi.1.any (·.2) || wj.1.any (·.2) then ev 6 else 0))

/-- The epilogue of R265 on the sums. -/
def epilogue (ep : BitVec 8) (f : W64) (src : Entry) (r : Entry) (bias : Option TArg) (xs : List (Nat × Nat)) :
    List (Nat × Nat) :=
  let bs := match bias with
    | some b => b.vals f
    | none => []
  xs.zipIdx.map fun c =>
    let x := (tileFmt src.fmt).decode c.1.1 src.scale (fmtFlush f)
    let b := (bs[c.2 % r.cols]?).getD (.fin false 0 0, false)
    let y := if epiBias ep then FVal.add (fmtTrnd f) x.1 b.1 else x.1
    let z := if epiRelu ep then FVal.max y (.fin false 0 0) else y
    let q := (tileFmt r.fmt).finish r.scale (fmtTrnd f) (fmtSat f) (if epiBias ep then [x.1, b.1] else [x.1]) z
    (q.1, c.1.2 ||| q.2 ||| (if x.2 || b.2 then ev 6 else 0))

/-- The result of a trestle form, element by element with events; args are its operands in pop order. -/
def trestleRun (fwd acc : Bool) (ep : BitVec 8) (f : W64) (r : Entry) (args : List TArg) (w : TArg) : List (Nat × Nat) :=
  match args with
  | [] => []
  | x :: rest =>
    let cin := if acc then rest.head? else none
    let bias := if epiBias ep then rest.getLast? else none
    let sums := trestleSums fwd acc f x w cin
    if ep = 0 then sums
    else epilogue ep f ⟨0, r.rows, r.cols, sumFmt w.e f, sumScale x.e w.e⟩ r bias sums

/-! ## The vector-tile engines and the transpose engine (R266 to R271) -/

/-- A binary form on decoded values. -/
def binVal (i : Instr) (mode : Nat) (x y : FVal) : FVal :=
  match i with
  | .tadd _ => FVal.add mode x y
  | .tsub _ => FVal.sub mode x y
  | .tmul _ => FVal.mul x y
  | .tmax _ => FVal.max x y
  | _ => FVal.min x y

/-- A binary form on raw integers. -/
def binInt (i : Instr) (x y : Int) : Int :=
  match i with
  | .tadd _ => x + y
  | .tsub _ => x - y
  | .tmul _ => x * y
  | .tmax _ => max x y
  | _ => min x y

/-- `TADD`, `TSUB`, `TMUL`, `TMAX`, `TMIN` of A and B, element by element (R266). -/
def binRun (i : Instr) (f : W64) (a b : TArg) : List (Nat × Nat) :=
  if tileInt a.e.fmt then
    List.zipWith (fun x y => (wrapNat (8 * tileSize a.e.fmt) (binInt i x y), 0)) a.ints b.ints
  else
    List.zipWith (fun x y =>
      let r := (tileFmt a.e.fmt).finish a.e.scale (fmtTrnd f) (tileSat f a.e.fmt) [x.1, y.1] (binVal i (fmtTrnd f) x.1 y.1)
      (r.1, r.2 ||| flushEv [x, y])) (a.vals f) (b.vals f)

/-- `TFMA` of A, B and C (R267). A product of zero and infinity is event 0, whatever C is (log 23). -/
def fmaRun (f : W64) (a b c : TArg) : List (Nat × Nat) :=
  List.zipWith (fun x yz =>
    let invalid := (FVal.mul x.1 yz.1.1).isNan && !x.1.isNan && !yz.1.1.isNan
    let r := (tileFmt a.e.fmt).finish a.e.scale (fmtTrnd f) (tileSat f a.e.fmt) [x.1, yz.1.1, yz.2.1]
      (FVal.fma (fmtTrnd f) x.1 yz.1.1 yz.2.1)
    (r.1, r.2 ||| flushEv [x, yz.1, yz.2] ||| (if invalid then ev 0 else 0))) (a.vals f) (List.zip (b.vals f) (c.vals f))

/-- `TRSUM` and `TCSUM` of the given lines of A (R270, R94). -/
def sumRun (f : W64) (a : TArg) (byRow : Bool) : List (Nat × Nat) :=
  if tileInt a.e.fmt then
    let ls := if byRow then rowsOf a.e.cols a.ints else columnsOf a.e.cols (rowsOf a.e.cols a.ints)
    ls.map fun l => (wrapNat 32 (l.foldl (· + ·) 0), 0)
  else
    let ls := if byRow then rowsOf a.e.cols (a.vals f) else columnsOf a.e.cols (rowsOf a.e.cols (a.vals f))
    ls.map fun l =>
      let r := seqSum (fmtTrnd f) (l.map (·.1))
      (NFmt.f32.encode r.1, r.2 ||| flushEv l)

/-- What an engine computes for a form from its operands in pop order, its plane and its result's descriptor. -/
def tileRun (i : Instr) (f : W64) (r : Entry) (args : List TArg) (w : Option TArg) : List (Nat × Nat) :=
  match i, args, w with
  | .mfw _ ep _, _, some w => trestleRun true false ep f r args w
  | .mfwa _ ep _, _, some w => trestleRun true true ep f r args w
  | .mbk _ ep _, _, some w => trestleRun false false ep f r args w
  | .mbka _ ep _, _, some w => trestleRun false true ep f r args w
  | .tfma _, [c, b, a], _ => fmaRun f a b c
  | .tcvt _ _ _, [a], _ => a.xs.map fun u =>
      convertBits (tileFmt a.e.fmt) a.e.scale (tileFmt r.fmt) r.scale (fmtTrnd f) (fmtSat f) (fmtFlush f) u
  | .tact _ k, [a], _ => a.xs.map fun u =>
      tactElem k.toNat (tileFmt a.e.fmt) a.e.scale (fmtTrnd f) (fmtSat f) (fmtFlush f) u
  | .trsum _, [a], _ => sumRun f a true
  | .tcsum _, [a], _ => sumRun f a false
  | .txp _, [a], _ => (columnsOf a.e.cols (rowsOf a.e.cols a.xs)).flatten.map fun u => (u, 0)
  | _, [b, a], _ => binRun i f a b
  | _, _, _ => []

/-! ## The forms -/

/-- A second reference to the top tile (R255). -/
def planTdup (t : TIn) : TPlan :=
  movePlan 1 0 [] [t.at 0]

/-- What `TDUP` asks of the issue of its bundle. -/
def reqTdup (m : Mask) : SlotReq :=
  tReq m (.tdup m) 0 0 0 planTdup

/-- `TDUP` by itself. -/
def execTdup (m : Mask) (s : State) : Host.Outcome State Fault Refusal :=
  issueForm 0 (reqTdup m) s

/-- Pops n entries (R255). -/
def planTdrop (n : BitVec 8) (t : TIn) : TPlan :=
  movePlan n.toNat n.toNat (t.top n.toNat) []

/-- What `TDROP` asks of the issue of its bundle. -/
def reqTdrop (m : Mask) (n : BitVec 8) : SlotReq :=
  tReq m (.tdrop m n) 0 0 0 (planTdrop n)

/-- `TDROP` by itself. -/
def execTdrop (m : Mask) (n : BitVec 8) (s : State) : Host.Outcome State Fault Refusal :=
  issueForm 0 (reqTdrop m n) s

/-- Exchanges the two top entries (R255). -/
def planTswap (t : TIn) : TPlan :=
  movePlan 2 2 (t.top 2) [t.at 0, t.at 1]

/-- What `TSWAP` asks of the issue of its bundle. -/
def reqTswap (m : Mask) : SlotReq :=
  tReq m (.tswap m) 0 0 0 planTswap

/-- `TSWAP` by itself. -/
def execTswap (m : Mask) (s : State) : Host.Outcome State Fault Refusal :=
  issueForm 0 (reqTswap m) s

/-- A second reference to the tile at depth d (R255). -/
def planTpick (d : BitVec 8) (t : TIn) : TPlan :=
  movePlan (d.toNat + 1) 0 [] [t.at d.toNat]

/-- What `TPICK` asks of the issue of its bundle. -/
def reqTpick (m : Mask) (d : BitVec 8) : SlotReq :=
  tReq m (.tpick m d) 0 0 0 (planTpick d)

/-- `TPICK` by itself. -/
def execTpick (m : Mask) (d : BitVec 8) (s : State) : Host.Outcome State Fault Refusal :=
  issueForm 0 (reqTpick m d) s

/-- Moves entry n - 1 to depth 0 (R255). -/
def planTrot (n : BitVec 8) (t : TIn) : TPlan :=
  movePlan n.toNat n.toNat (t.top n.toNat) ((t.top (n.toNat - 1)).reverse ++ [t.at (n.toNat - 1)])

/-- What `TROT` asks of the issue of its bundle. -/
def reqTrot (m : Mask) (n : BitVec 8) : SlotReq :=
  tReq m (.trot m n) 0 0 0 (planTrot n)

/-- `TROT` by itself. -/
def execTrot (m : Mask) (n : BitVec 8) (s : State) : Host.Outcome State Fault Refusal :=
  issueForm 0 (reqTrot m n) s

/-- A tile of zeros, produced at issue (R258). -/
def planTzero (t : TIn) : TPlan :=
  let r := shapeEntry (t.par 0)
  { out := [r], fresh := some r.bytes, made := some (List.replicate r.bytes 0), now := true
    fault := firstFault [wordFmt (t.par 0), wordShape (t.par 0)] }

/-- What `TZERO` asks of the issue of its bundle. -/
def reqTzero (m : Mask) (sp : BitVec 6) : SlotReq :=
  tReq m (.tzero m sp) sp.toNat 1 0 planTzero

/-- `TZERO` by itself. -/
def execTzero (m : Mask) (sp : BitVec 6) (s : State) : Host.Outcome State Fault Refusal :=
  issueForm 0 (reqTzero m sp) s

/-- The shape word of the tile at depth d, at t + 2; a replay writes no register (R251, R257). -/
def planTinfo (sd : BitVec 6) (d : BitVec 8) (t : TIn) : TPlan :=
  { need := d.toNat + 1, now := true, binds := [t.at d.toNat]
    pends := if t.replay then [] else scalarPend sd.toNat 2 (t.at d.toNat).shapeWord }

/-- What `TINFO` asks of the issue of its bundle. -/
def reqTinfo (m : Mask) (sd : BitVec 6) (d : BitVec 8) : SlotReq :=
  tReq m (.tinfo m sd d) 0 0 0 (planTinfo sd d)

/-- `TINFO` by itself. -/
def execTinfo (m : Mask) (sd : BitVec 6) (d : BitVec 8) (s : State) : Host.Outcome State Fault Refusal :=
  issueForm 0 (reqTinfo m sd d) s

/-- A new descriptor on the same storage (R256). -/
def planTshape (t : TIn) : TPlan :=
  let r : Entry := { shapeEntry (t.par 0) with tile := (t.at 0).tile }
  { need := 1, pops := 1, binds := t.top 1, out := [r], now := true
    fault := firstFault [wordFmt (t.par 0), wordShape (t.par 0), require (r.bytes == (t.at 0).bytes) (shapeFault 0x20)] }

/-- What `TSHAPE` asks of the issue of its bundle. -/
def reqTshape (m : Mask) (sp : BitVec 6) : SlotReq :=
  tReq m (.tshape m sp) sp.toNat 1 0 planTshape

/-- `TSHAPE` by itself. -/
def execTshape (m : Mask) (sp : BitVec 6) (s : State) : Host.Outcome State Fault Refusal :=
  issueForm 0 (reqTshape m sp) s

/-- The same storage with scale exponent e + k (R256). -/
def planTscale (k : BitVec 8) (t : TIn) : TPlan :=
  let r : Entry := { t.at 0 with scale := (t.at 0).scale + k.toInt }
  { need := 1, pops := 1, binds := t.top 1, out := [r], now := true
    fault := firstFault [require (scaleOk r.scale) (fmtFault 0x21)] }

/-- What `TSCALE` asks of the issue of its bundle. -/
def reqTscale (m : Mask) (k : BitVec 8) : SlotReq :=
  tReq m (.tscale m k) 0 0 0 (planTscale k)

/-- `TSCALE` by itself. -/
def execTscale (m : Mask) (k : BitVec 8) (s : State) : Host.Outcome State Fault Refusal :=
  issueForm 0 (reqTscale m k) s

/-- A tile read from the scratchpad (R261). -/
def planTlds (t : TIn) : TPlan :=
  let r := shapeEntry (t.par 1)
  { out := [r], fresh := some r.bytes, input := true, energy := 32 * units256 r.bytes
    fault := firstFault [wordFmt (t.par 1), wordShape (t.par 1), rowsFault t.c (t.par 0) (t.par 2) r] }

/-- What `TLDS` asks of the issue of its bundle. -/
def reqTlds (m : Mask) (sp : BitVec 6) (w : BitVec 4) : SlotReq :=
  tReq m (.tlds m sp w) sp.toNat 3 w.toNat planTlds

/-- `TLDS` by itself. -/
def execTlds (m : Mask) (sp : BitVec 6) (w : BitVec 4) (s : State) : Host.Outcome State Fault Refusal :=
  issueForm 0 (reqTlds m sp w) s

/-- A tile written to the scratchpad, held until every older operation is complete (R249, R262). -/
def planTsts (w : BitVec 4) (t : TIn) : TPlan :=
  { need := 1, pops := 1, binds := t.top 1, outWit := some (w.toNat, 2), hold := !t.replay && !t.c.opsDone
    fault := firstFault [rowsFault t.c (t.par 0) (t.par 1) (t.at 0)], energy := 32 * units256 (t.at 0).bytes }

/-- What `TSTS` asks of the issue of its bundle. -/
def reqTsts (m : Mask) (sp : BitVec 6) (w : BitVec 4) : SlotReq :=
  tReq m (.tsts m sp w) sp.toNat 2 0 (planTsts w)

/-- `TSTS` by itself. -/
def execTsts (m : Mask) (sp : BitVec 6) (w : BitVec 4) (s : State) : Host.Outcome State Fault Refusal :=
  issueForm 0 (reqTsts m sp w) s

/-- A tile from vector registers, read at t through the tile port (R259). A poisoned register is a `MACHINE` event (R381),
which names its bank. -/
def planTfromv (v : BitVec 10) (t : TIn) : TPlan :=
  let r := shapeEntry (t.par 0)
  let m := units256 r.bytes
  let img := if t.replay then t.image
    else ((List.range (Nat.min m 64)).flatMap fun k => bytesOfVec (t.s.readV t.a (v.toNat + k))).take r.bytes
  let bad := if t.replay then none else ((List.range (Nat.min m 64)).map (v.toNat + ·)).find? fun n => t.s.poisoned (rKey t.a n) 256
  { out := [r], fresh := some r.bytes, image := img, energy := 32 * m
    late := bad.map fun n => (0x50, 0, 3 * (t.a % 4) + n / 256)
    fault := firstFault [wordFmt (t.par 0), wordShape (t.par 0),
      require (decide (m ≤ 64) && decide (v.toNat + m ≤ 768)) (shapeFault 0x20)] }

/-- What `TFROMV` asks of the issue of its bundle. -/
def reqTfromv (m : Mask) (v : BitVec 10) (sp : BitVec 6) : SlotReq :=
  tReq m (.tfromv m v sp) sp.toNat 1 0 (planTfromv v)

/-- `TFROMV` by itself. -/
def execTfromv (m : Mask) (v : BitVec 10) (sp : BitVec 6) (s : State) : Host.Outcome State Fault Refusal :=
  issueForm 0 (reqTfromv m v sp) s

/-- Part of the top image into n + 1 registers, held until every older operation is complete and the tile lies in
the deck (R249, R260); a replay writes no register. A poisoned tile is a `MACHINE` event (R381), which names its
deck bank. -/
def planTtov (v : BitVec 10) (n : BitVec 8) (t : TIn) : TPlan :=
  let img := (t.c.tileImg (t.at 0).tile).getD []
  let inDeck := match t.c.stack with
    | [] => true
    | e :: _ => ((AL.find t.c.tiles e.tile).map fun x => x.tier == .deck && x.img.isSome).getD false
  { need := 1, binds := t.top 1, hold := !t.replay && !(t.c.opsDone && inDeck), energy := 32 * (n.toNat + 1)
    fault := if !t.replay && t.s.poisoned (tileKey t.c.cid (t.at 0).tile) 8 then some (0x50, 0, t.s.deckBankOf t.a t.c (t.at 0).tile) else none
    pends := if t.replay then [] else (List.range (n.toNat + 1)).map fun k =>
      Pend.make (.v (v.toNat + k)) (8 + k) (vecOfBytes (sliceBytes img (256 * ((t.par 0).toNat + k)) 256)) }

/-- What `TTOV` asks of the issue of its bundle. -/
def reqTtov (m : Mask) (v : BitVec 10) (sp : BitVec 6) (n : BitVec 8) : SlotReq :=
  tReq m (.ttov m v sp n) sp.toNat 1 0 (planTtov v n)

/-- `TTOV` by itself. -/
def execTtov (m : Mask) (v : BitVec 10) (sp : BitVec 6) (n : BitVec 8) (s : State) : Host.Outcome State Fault Refusal :=
  issueForm 0 (reqTtov m v sp n) s

/-- Binds a popped tile to a weight plane (R263). -/
def planMwl (pl : Bool) (t : TIn) : TPlan :=
  let w := t.at 0
  { need := 1, pops := 1, binds := t.top 1, now := true
    planes := some (if pl then (t.c.plane0, some w) else (some w, t.c.plane1))
    fault := firstFault [require (weightFmt w.fmt) (fmtFault 0), require (decide (w.cols ≤ 128)) (shapeFault 0)] }

/-- What `MWL` asks of the issue of its bundle. -/
def reqMwl (m : Mask) (pl : Bool) : SlotReq :=
  tReq m (.mwl m pl) 0 0 0 (planMwl pl)

/-- `MWL` by itself. -/
def execMwl (m : Mask) (pl : Bool) (s : State) : Host.Outcome State Fault Refusal :=
  issueForm 0 (reqMwl m pl) s

/-- A trestle form (Table 9-5). -/
def planMfw (e : BitVec 8) (pl : Bool) (t : TIn) : TPlan :=
  trestlePlan true false e pl t

/-- What `MFW` asks of the issue of its bundle. -/
def reqMfw (m : Mask) (e : BitVec 8) (pl : Bool) : SlotReq :=
  tReq m (.mfw m e pl) 0 0 0 (planMfw e pl)

/-- `MFW` by itself. -/
def execMfw (m : Mask) (e : BitVec 8) (pl : Bool) (s : State) : Host.Outcome State Fault Refusal :=
  issueForm 0 (reqMfw m e pl) s

/-- A trestle form (Table 9-5). -/
def planMfwa (e : BitVec 8) (pl : Bool) (t : TIn) : TPlan :=
  trestlePlan true true e pl t

/-- What `MFWA` asks of the issue of its bundle. -/
def reqMfwa (m : Mask) (e : BitVec 8) (pl : Bool) : SlotReq :=
  tReq m (.mfwa m e pl) 0 0 0 (planMfwa e pl)

/-- `MFWA` by itself. -/
def execMfwa (m : Mask) (e : BitVec 8) (pl : Bool) (s : State) : Host.Outcome State Fault Refusal :=
  issueForm 0 (reqMfwa m e pl) s

/-- A trestle form (Table 9-5). -/
def planMbk (e : BitVec 8) (pl : Bool) (t : TIn) : TPlan :=
  trestlePlan false false e pl t

/-- What `MBK` asks of the issue of its bundle. -/
def reqMbk (m : Mask) (e : BitVec 8) (pl : Bool) : SlotReq :=
  tReq m (.mbk m e pl) 0 0 0 (planMbk e pl)

/-- `MBK` by itself. -/
def execMbk (m : Mask) (e : BitVec 8) (pl : Bool) (s : State) : Host.Outcome State Fault Refusal :=
  issueForm 0 (reqMbk m e pl) s

/-- A trestle form (Table 9-5). -/
def planMbka (e : BitVec 8) (pl : Bool) (t : TIn) : TPlan :=
  trestlePlan false true e pl t

/-- What `MBKA` asks of the issue of its bundle. -/
def reqMbka (m : Mask) (e : BitVec 8) (pl : Bool) : SlotReq :=
  tReq m (.mbka m e pl) 0 0 0 (planMbka e pl)

/-- `MBKA` by itself. -/
def execMbka (m : Mask) (e : BitVec 8) (pl : Bool) (s : State) : Host.Outcome State Fault Refusal :=
  issueForm 0 (reqMbka m e pl) s

/-- Releases a weight plane (R263). -/
def planMwrel (pl : Bool) (t : TIn) : TPlan :=
  { now := true, planes := some (if pl then (t.c.plane0, none) else (none, t.c.plane1)) }

/-- What `MWREL` asks of the issue of its bundle. -/
def reqMwrel (m : Mask) (pl : Bool) : SlotReq :=
  tReq m (.mwrel m pl) 0 0 0 (planMwrel pl)

/-- `MWREL` by itself. -/
def execMwrel (m : Mask) (pl : Bool) (s : State) : Host.Outcome State Fault Refusal :=
  issueForm 0 (reqMwrel m pl) s

/-- A + B (R266). -/
def planTadd (t : TIn) : TPlan :=
  binPlan false t

/-- What `TADD` asks of the issue of its bundle. -/
def reqTadd (m : Mask) : SlotReq :=
  tReq m (.tadd m) 0 0 0 planTadd

/-- `TADD` by itself. -/
def execTadd (m : Mask) (s : State) : Host.Outcome State Fault Refusal :=
  issueForm 0 (reqTadd m) s

/-- A - B (R266). -/
def planTsub (t : TIn) : TPlan :=
  binPlan false t

/-- What `TSUB` asks of the issue of its bundle. -/
def reqTsub (m : Mask) : SlotReq :=
  tReq m (.tsub m) 0 0 0 planTsub

/-- `TSUB` by itself. -/
def execTsub (m : Mask) (s : State) : Host.Outcome State Fault Refusal :=
  issueForm 0 (reqTsub m) s

/-- A × B (R266). -/
def planTmul (t : TIn) : TPlan :=
  binPlan true t

/-- What `TMUL` asks of the issue of its bundle. -/
def reqTmul (m : Mask) : SlotReq :=
  tReq m (.tmul m) 0 0 0 planTmul

/-- `TMUL` by itself. -/
def execTmul (m : Mask) (s : State) : Host.Outcome State Fault Refusal :=
  issueForm 0 (reqTmul m) s

/-- max(A, B) (R266). -/
def planTmax (t : TIn) : TPlan :=
  binPlan false t

/-- What `TMAX` asks of the issue of its bundle. -/
def reqTmax (m : Mask) : SlotReq :=
  tReq m (.tmax m) 0 0 0 planTmax

/-- `TMAX` by itself. -/
def execTmax (m : Mask) (s : State) : Host.Outcome State Fault Refusal :=
  issueForm 0 (reqTmax m) s

/-- min(A, B) (R266). -/
def planTmin (t : TIn) : TPlan :=
  binPlan false t

/-- What `TMIN` asks of the issue of its bundle. -/
def reqTmin (m : Mask) : SlotReq :=
  tReq m (.tmin m) 0 0 0 planTmin

/-- `TMIN` by itself. -/
def execTmin (m : Mask) (s : State) : Host.Outcome State Fault Refusal :=
  issueForm 0 (reqTmin m) s

/-- A × B + C (R267). -/
def planTfma (t : TIn) : TPlan :=
  let a := t.at 2
  vtPlan t 3 [require (sameFmt (t.at 0) a) (fmtFault 0), require (sameFmt (t.at 1) a) (fmtFault 1),
    require (!tileInt a.fmt) (fmtFault 0), require (sameShape (t.at 0) a) (shapeFault 0),
    require (sameShape (t.at 1) a) (shapeFault 1)] ⟨0, a.rows, a.cols, a.fmt, a.scale⟩

/-- What `TFMA` asks of the issue of its bundle. -/
def reqTfma (m : Mask) : SlotReq :=
  tReq m (.tfma m) 0 0 0 planTfma

/-- `TFMA` by itself. -/
def execTfma (m : Mask) (s : State) : Host.Outcome State Fault Refusal :=
  issueForm 0 (reqTfma m) s

/-- A converted to a format at a scale (R268). -/
def planTcvt (k : BitVec 8) (f : BitVec 6) (t : TIn) : TPlan :=
  let a := t.at 0
  let r : Entry := ⟨0, a.rows, a.cols, f, k.toInt⟩
  vtPlan t 1 [require (tileFmtOk f) (fmtFault 0x21), require (decide (r.rowBytes ≤ 512)) (shapeFault 0x21)] r

/-- What `TCVT` asks of the issue of its bundle. -/
def reqTcvt (m : Mask) (k : BitVec 8) (f : BitVec 6) : SlotReq :=
  tReq m (.tcvt m k f) 0 0 0 (planTcvt k f)

/-- `TCVT` by itself. -/
def execTcvt (m : Mask) (k : BitVec 8) (f : BitVec 6) (s : State) : Host.Outcome State Fault Refusal :=
  issueForm 0 (reqTcvt m k f) s

/-- A function of A, element by element (R269). -/
def planTact (t : TIn) : TPlan :=
  let a := t.at 0
  vtPlan t 1 [require (!tileInt a.fmt) (fmtFault 0)] ⟨0, a.rows, a.cols, a.fmt, a.scale⟩

/-- What `TACT` asks of the issue of its bundle. -/
def reqTact (m : Mask) (f : BitVec 8) : SlotReq :=
  tReq m (.tact m f) 0 0 0 planTact

/-- `TACT` by itself. -/
def execTact (m : Mask) (f : BitVec 8) (s : State) : Host.Outcome State Fault Refusal :=
  issueForm 0 (reqTact m f) s

/-- Row sums (R270). -/
def planTrsum (t : TIn) : TPlan :=
  let a := t.at 0
  vtPlan t 1 [] ⟨0, a.rows, 1, if tileInt a.fmt then 3 else 6, if tileInt a.fmt then a.scale else 0⟩

/-- What `TRSUM` asks of the issue of its bundle. -/
def reqTrsum (m : Mask) : SlotReq :=
  tReq m (.trsum m) 0 0 0 planTrsum

/-- `TRSUM` by itself. -/
def execTrsum (m : Mask) (s : State) : Host.Outcome State Fault Refusal :=
  issueForm 0 (reqTrsum m) s

/-- Column sums (R270). -/
def planTcsum (t : TIn) : TPlan :=
  let a := t.at 0
  vtPlan t 1 [require (decide (a.cols ≤ 128)) (shapeFault 0x21)]
    ⟨0, 1, a.cols, if tileInt a.fmt then 3 else 6, if tileInt a.fmt then a.scale else 0⟩

/-- What `TCSUM` asks of the issue of its bundle. -/
def reqTcsum (m : Mask) : SlotReq :=
  tReq m (.tcsum m) 0 0 0 planTcsum

/-- `TCSUM` by itself. -/
def execTcsum (m : Mask) (s : State) : Host.Outcome State Fault Refusal :=
  issueForm 0 (reqTcsum m) s

/-- The transpose of A (R271). -/
def planTxp (t : TIn) : TPlan :=
  let a := t.at 0
  vtPlan t 1 [require (decide (a.cols ≤ 128)) (shapeFault 0x21)] ⟨0, a.cols, a.rows, a.fmt, a.scale⟩

/-- What `TXP` asks of the issue of its bundle. -/
def reqTxp (m : Mask) : SlotReq :=
  tReq m (.txp m) 0 0 0 planTxp

/-- `TXP` by itself. -/
def execTxp (m : Mask) (s : State) : Host.Outcome State Fault Refusal :=
  issueForm 0 (reqTxp m) s

end Sys2Proof.Machine
end

