-- ==== Sys2Proof/Machine/Records.lean ====
section
/-! DEFINITION. Tensor records, boxes and the elements they describe, read and written through the lines of their own
tags (10 R272 to R281, 17 R355 to R357, 19 R381). -/

namespace Sys2Proof.Machine

/-! ## Records (Table 10-1) -/

/-- A tensor record. -/
structure TRec where
  id      : Nat
  base    : Nat
  ext     : List Nat
  str     : List Nat
  fmt     : BitVec 6
  rank    : Nat
  cdim    : Nat
  rdim    : Nat
  smode   : Nat
  spol    : Bool
  ebx     : Int
  bbytes  : Nat
  opt     : Nat
  ordered : Bool
  expect  : Nat
  hyper   : Nat
  master  : Nat
  copyid  : Nat
  syncw   : Nat
  /-- The copy itself, by which lines know what they were filled under (R325). -/
  raw     : List Byte
  deriving DecidableEq, Repr

/-- The record in 128 bytes. -/
def TRec.parse (id : Nat) (bs : List Byte) : TRec where
  id := id
  base := fieldAt bs 0 8
  ext := (List.range 7).map fun d => fieldAt bs (8 + 4 * d) 4
  str := (List.range 7).map fun d => fieldAt bs (36 + 4 * d) 4
  fmt := BitVec.ofNat 6 (fieldAt bs 64 1)
  rank := fieldAt bs 65 1 % 8
  cdim := fieldAt bs 66 1 % 8
  rdim := fieldAt bs 66 1 / 8 % 8
  smode := fieldAt bs 68 1 % 4
  spol := fieldAt bs 68 1 / 4 % 2 == 1
  ebx := sextNat 8 (fieldAt bs 69 1)
  bbytes := fieldAt bs 70 2
  opt := fieldAt bs 72 1
  ordered := fieldAt bs 73 1 % 2 == 1
  expect := fieldAt bs 76 4
  hyper := fieldAt bs 80 8
  master := fieldAt bs 88 4
  copyid := fieldAt bs 92 4
  syncw := fieldAt bs 96 8
  raw := bs

/-- The XOR of the 31 words below the checksum. -/
def recSum (bs : List Byte) : Nat := (List.range 31).foldl (fun a i => a ^^^ fieldAt bs (4 * i) 4) 0

/-- Whether a record is defective (R273). -/
def recDefect (bs : List Byte) : Bool :=
  let r := TRec.parse 0 bs
  r.base ≥ 2 ^ 57 || fieldAt bs 64 1 ≥ 64 || fieldAt bs 65 1 ≥ 8 || fieldAt bs 66 1 ≥ 64 || fieldAt bs 67 1 != 0 ||
    fieldAt bs 68 1 ≥ 8 || fieldAt bs 73 1 ≥ 2 || fieldAt bs 74 2 != 0 || r.master ≥ 2 ^ 20 || r.copyid ≥ 2 ^ 20 ||
    fieldAt bs 104 8 != 0 || fieldAt bs 112 8 != 0 || fieldAt bs 120 1 != 1 || fieldAt bs 124 4 != recSum bs ||
    r.rank == 0 ||
    (List.range 7).any (fun d =>
      let e := (r.ext[d]?).getD 0
      if d < r.rank then e == 0 else e != 0 || (r.str[d]?).getD 0 != 0) ||
    !tileFmtOk r.fmt || r.cdim ≥ r.rank || r.rdim ≥ r.rank || (r.rank > 1 && r.cdim == r.rdim)

/-- The element size of a record. -/
def TRec.eb (r : TRec) : Nat := tileSize r.fmt

/-- The extent of a dimension. -/
def TRec.extent (r : TRec) (d : Nat) : Nat := (r.ext[d]?).getD 0

/-! ## Geometry (R275, R276) -/

/-- A coordinate; coordinates at or above the rank are 0. -/
def coord (co : List Int) (d : Nat) : Int := (co[d]?).getD 0

/-- Whether an element is in bounds (R275). -/
def TRec.inBounds (r : TRec) (co : List Int) : Bool :=
  (List.range r.rank).all fun d => decide (0 ≤ coord co d) && decide (coord co d < (r.extent d : Int))

/-- The address of an element, modulo 2^64 (R275). -/
def TRec.addr (r : TRec) (co : List Int) : Nat :=
  let sum : Int := ((List.range 7).map fun d => coord co d * (((r.str[d]?).getD 0 : Nat) : Int)).foldl (· + ·) 0
  (((r.base : Int) + (r.eb : Int) * sum) % ((2 ^ 64 : Nat) : Int)).toNat

/-- The row coordinate: with rank 1 the tensor has one row (R273). -/
def TRec.row (r : TRec) (co : List Int) : Int := if r.cdim == r.rdim then 0 else coord co r.rdim

/-- The dimensions other than the two of the tiling plane, ascending. -/
def TRec.others (r : TRec) : List Nat := (List.range 7).filter fun d => d != r.cdim && d != r.rdim

/-- The tag of the tile-line that holds an element (R276). -/
def TRec.tag (r : TRec) (dom : Nat) (co : List Int) : Tag :=
  ⟨dom, r.id, [(r.row co).toNat / 8, (coord co r.cdim).toNat * r.eb / 256] ++ r.others.map fun d => (coord co d).toNat⟩

/-! ## Boxes (R280) -/

/-- The origin of a box: 18-bit signed coordinates of a 128-bit value. -/
def boxOrigin (lo hi : W64) : List Int :=
  let w : BitVec 128 := hi ++ lo
  (List.range 7).map fun d => (w.extractLsb' (18 * d) 18).toInt

/-- The extents of a box. -/
def boxExtent (w : W64) : List Nat := (List.range 7).map fun d => (w.extractLsb' (9 * d) 9).toNat + 1

/-- Whether the origin words and the extent word obey R280 for a rank. -/
def originOk (rank : Nat) (lo hi : W64) : Bool :=
  hi.extractLsb' 62 2 == 0 && (List.range 7).all fun d => d < rank || coord (boxOrigin lo hi) d == 0
def extentOk (rank : Nat) (w : W64) : Bool :=
  w.getLsbD 63 == false && (List.range 7).all fun d => d < rank || (boxExtent w)[d]? == some 1

/-- The coordinates of a box with the listed dimensions, slowest first. -/
def boxCoords (dims : List Nat) (org : List Int) (ext : List Nat) (co : List Int) : List (List Int) :=
  match dims with
  | [] => [co]
  | d :: r => (List.range ((ext[d]?).getD 1)).flatMap fun (k : Nat) => boxCoords r org ext (co.set d (coord org d + (k : Int)))

/-- The dimensions of box order, slowest first: the column dimension runs fastest, then the row dimension, then the
others ascending. -/
def TRec.slowFirst (r : TRec) : List Nat :=
  (r.others.filter fun d => d < r.rank).reverse ++ (if r.cdim == r.rdim then [] else [r.rdim]) ++ [r.cdim]

/-- The elements of a box in box order. -/
def TRec.box (r : TRec) (org : List Int) (ext : List Nat) : List (List Int) :=
  boxCoords r.slowFirst org ext (List.replicate 7 0)

/-! ## Boxes of elements -/

/-- The address that a record copy gives a place of a tile-line: a row and an absolute byte of the tiling plane (R276);
none out of bounds. -/
def TRec.placeAddr (o : TRec) (t : Tag) (row colByte : Nat) : Option Nat :=
  let rest := t.coords.drop 2
  let c0 := (o.others.zip rest).foldl (fun (l : List Int) x => l.set x.1 (x.2 : Int)) (List.replicate 7 0)
  let c1 := (if o.cdim == o.rdim then c0 else c0.set o.rdim (row : Int)).set o.cdim ((colByte / o.eb : Nat) : Int)
  if o.others.length == rest.length && (o.cdim != o.rdim || row == 0) && o.inBounds c1 then some (o.addr c1 + colByte % o.eb)
  else none

/-- Bytes with zeros in the places that have none. -/
def fillHoles (as : List (Option Nat)) (bs : List Byte) : List Byte :=
  match as, bs with
  | [], _ => []
  | none :: r, bs => 0 :: fillHoles r bs
  | some _ :: r, b :: bs => b :: fillHoles r bs
  | some _ :: r, [] => 0 :: fillHoles r []

/-- The record copies, other than the form's own, under which lines that may serve a read of a tag were filled (R325). -/
def State.oldCopies (s : State) (core : Option Nat) (t : Tag) (ws : List W64) (raw : List Byte) : List (List Byte) :=
  let l1 : Option L1Line := (core.bind fun c => s.l1Line c t).filter fun (l : L1Line) => s.serves (Nat.min l.stamp l.home) l.aged ws
  let l2 : Option L2Line := (s.l2Line t).filter fun (l : L2Line) => s.serves l.stamp l.aged ws
  ((l1.map L1Line.via).toList ++ (l2.map L2Line.via).toList).filter fun v => !v.isEmpty && v != raw

/-- The lines of a tag that were filled under another copy of the record make way for a fill under this one (R325). -/
def State.asCopy (s : State) (core : Option Nat) (t : Tag) (raw : List Byte) : State :=
  let s1 := match core with
    | some c => if ((s.l1Line c t).map fun (l : L1Line) => l.via == raw).getD true then s else s.l1Drop c t
    | none => s
  match s1.l2Line t with
  | none => s1.openLine t raw
  | some l => if l.via == raw then s1 else s1.refillAs t raw

/-- The record copy under which a line of a tag serves the reads of a box: the form's own (none), or that of a line filled
under another copy, each byte then as that copy places it (R325, R327). Where both can it is a free choice (log 4). -/
def State.pickCopy (s : State) (core : Option Nat) (t : Tag) (ws : List W64) (raw : List Byte) : State × Option (List Byte) :=
  let olds := s.oldCopies core t ws raw
  if olds.isEmpty then (s, none)
  else ({ s with choices := s.choices + 1 }, olds[Config.choose s.choices % (olds.length + 1)]?)

/-- Read one element of a line under a copy of the record; out of bounds it reads as zero and touches no memory (R281). -/
def State.readElem (s : State) (tr : Bool) (core : Option Nat) (dom : Nat) (r : TRec) (ws : List W64)
    (copy : Option (List Byte)) (co : List Int) : Res (List Byte) :=
  let t := r.tag dom co
  match copy with
  | none =>
    if r.inBounds co then (s.asCopy core t r.raw).readVia tr core t ws (pagePieces (r.addr co) r.eb)
    else .ok s (List.replicate r.eb 0)
  | some v =>
    let o := TRec.parse r.id v
    let as := (List.range r.eb).map fun i => o.placeAddr t (r.row co).toNat ((coord co r.cdim).toNat * r.eb + i)
    match s.readVia tr core t ws (as.filterMap fun a => a.map fun x => (x, 1)) with
    | .fault f => .fault f
    | .wait => .wait
    | .ok s2 bs => .ok s2 (fillHoles as bs)

/-- Read elements in box order, each line of the box under one copy of the record. -/
def State.readCells (s : State) (tr : Bool) (core : Option Nat) (dom : Nat) (r : TRec) (ws : List W64)
    (picks : List (Tag × Option (List Byte))) (cs : List (List Int)) : Res (List Byte) :=
  match cs with
  | [] => .ok s []
  | co :: rest =>
    let t := r.tag dom co
    let neg := co.any fun x => decide (x < 0)
    let p := match picks.find? fun p => p.1 == t with
      | some p => (s, p.2)
      | none => if neg then (s, none) else s.pickCopy core t ws r.raw
    match (if neg then .ok s (List.replicate r.eb 0) else p.1.readElem tr core dom r ws p.2 co) with
    | .fault f => .fault f
    | .wait => .wait
    | .ok s1 b =>
      match s1.readCells tr core dom r ws
          (if neg || (picks.any fun p => p.1 == t) then picks else (t, p.2) :: picks) rest with
      | .fault f => .fault f
      | .wait => .wait
      | .ok s2 bs => .ok s2 (b ++ bs)

/-- Read the elements of a box in box order. -/
def State.readBox (s : State) (tr : Bool) (core : Option Nat) (dom : Nat) (r : TRec) (ws : List W64)
    (cs : List (List Int)) : Res (List Byte) := s.readCells tr core dom r ws [] cs

/-! ## Overlap within a box (R281) -/

/-- How far the coordinates of some elements reach in a dimension. -/
def spanIn (cs : List (List Int)) (d : Nat) : Nat :=
  match cs with
  | [] => 0
  | co :: r =>
    let b := r.foldl (fun (m : Int × Int) x => (min m.1 (coord x d), max m.2 (coord x d))) (coord co d, coord co d)
    (b.2 - b.1).toNat

/-- Strides with the reach of their dimension, in rising order. -/
def insertStride (x : Nat × Nat) (l : List (Nat × Nat)) : List (Nat × Nat) :=
  match l with
  | [] => [x]
  | y :: r => if x.1 ≤ y.1 then x :: y :: r else y :: insertStride x r

/-- Whether each stride passes all that the smaller ones reach, so that no two elements have one address. -/
def stridesApart (acc : Nat) (l : List (Nat × Nat)) : Bool :=
  match l with
  | [] => true
  | x :: r => decide (acc < x.1) && stridesApart (acc + x.1 * x.2) r

/-- The pages of some addresses, each once. -/
def pagesHit (l : List Nat) : List Nat :=
  l.foldl (fun (m : List Nat) a => if m.contains (a / 65536) then m else (a / 65536) :: m) []

/-- Whether elements of a box may lie on the same bytes: by their strides, or since two pages of theirs lie at one place. -/
def State.mayOverlap (s : State) (dom : Nat) (r : TRec) (cs : List (List Int)) : Bool :=
  let dims := ((List.range 7).map fun d => ((r.str[d]?).getD 0, spanIn cs d)).filter fun x => x.2 != 0
  let pas := (pagesHit ((cs.filter r.inBounds).map r.addr)).filterMap fun p => match s.walk dom (p * 65536) with
    | .leaf l => some (l.target, l.port, l.pa / 65536)
    | _ => none
  !stridesApart 0 (dims.foldl (fun l x => insertStride x l) []) || decide (pas.eraseDups.length < pas.length)

/-- The keys of an element's bytes under the leaves of its line. -/
def State.cellKeys (s : State) (dom : Nat) (r : TRec) (co : List Int) : List Nat :=
  (((s.l2Line (r.tag dom co)).bind fun l => mapsLeaves l.maps (pagePieces (r.addr co) r.eb)).map leafKeys).getD []

/-- The later of two elements on the same bytes stays, whichever line is written back last: what an earlier element left
in another line gives way. -/
def State.overwrite (s : State) (seen : List (Tag × List Nat)) (t : Tag) (ws : List (Nat × Byte)) : State :=
  seen.foldl (fun (s : State) x =>
    if x.1 == t || !(ws.any fun w => x.2.contains w.1) then s
    else s.l2Set x.1 fun m =>
      { m with dirty := ws.foldl (fun d w => if (AL.find d w.1).isSome then AL.put d w.1 w.2 else d) m.dirty }) s

/-- How the writing of a list of elements ended: how many were done, and what stopped it, a fault or (none) a wait. -/
structure Written where
  done : Nat
  stop : Option (Option MFault)

/-- Write elements in box order; out of bounds nothing is written (R281). What stands before a fault is written. seen
holds the elements written before, where elements may overlap. -/
def State.writeCells (s : State) (tr : Bool) (dom : Nat) (r : TRec) (seen : Option (List (Tag × List Nat)))
    (cs : List (List Int)) (bs : List Byte) : State × Written :=
  match cs with
  | [] => (s, ⟨0, none⟩)
  | co :: rest =>
    let t := r.tag dom co
    let next := fun (s1 : State) (l : Option (List (Tag × List Nat))) =>
      let w := s1.writeCells tr dom r l rest (bs.drop r.eb)
      (w.1, { w.2 with done := w.2.done + 1 })
    if r.inBounds co then
      match (s.asCopy none t r.raw).writeVia tr t (r.addr co) (bs.take r.eb) with
      | .fault f => (s, ⟨0, some (some f)⟩)
      | .wait => (s, ⟨0, some none⟩)
      | .ok s1 _ =>
        match seen with
        | none => next s1 none
        | some l =>
          let ks := s1.cellKeys dom r co
          next (s1.overwrite l t (ks.zip bs)) (some ((t, ks) :: l))
    else next s seen

/-- Write the elements of a box that are still to be written, past those before. -/
def State.writeBox (s : State) (tr : Bool) (dom : Nat) (r : TRec) (before cs : List (List Int)) (bs : List Byte) :
    State × Written :=
  let seen := if s.mayOverlap dom r (before ++ cs) then
      some ((before.filter r.inBounds).map fun co => (r.tag dom co, s.cellKeys dom r co))
    else none
  s.writeCells tr dom r seen cs bs

/-- The bytes of a box's elements in bounds. -/
def TRec.boxBytes (r : TRec) (cs : List (List Int)) : Nat := (cs.filter r.inBounds).length * r.eb

/-! ## Record caches (R274) -/

/-- The record of an identifier in the cache of a die. -/
def State.cached (s : State) (die dom id : Nat) : Option RecEntry :=
  s.recs.find? fun r => r.die == die && r.dom == dom && r.id == id

/-- A record read moves to the front of its cache. -/
def State.touchRec (s : State) (die dom id : Nat) : State :=
  match s.cached die dom id with
  | none => s
  | some r => { s with recs := r :: s.recs.filter fun x => !(x.die == die && x.dom == dom && x.id == id) }

/-- The address of a record (R272). -/
def State.recAddr (s : State) (dom id : Nat) : Nat := (s.domOf dom).recBase + 128 * id

end Sys2Proof.Machine
end

