-- ==== Sys2Proof/Machine/TileXfer.lean ====
section
/-! DEFINITION. The forms 30 to 39 of the T slot (10 R278 to R298): for each its plan, what it asks of the issue of its
bundle (req) and its meaning by itself (exec). Their engines' work is done by the steps of the tile engines. -/

namespace Sys2Proof.Machine

/-! ## Tensor words and records (R274, R279) -/

/-- The identifier of a tensor word, its eviction priority and its scope. -/
def twId (w : W64) : Nat := (w.extractLsb' 0 20).toNat
def twEvict (w : W64) : Nat := (w.extractLsb' 20 3).toNat
def twScope (w : W64) : Nat := (w.extractLsb' 23 3).toNat
def twFresh (w : W64) : Bool := w.getLsbD 26

/-- Whether a tensor word is allowed: of a read form, of a form with a scope, of a form that uses only the identifier. -/
def twRead (w : W64) : Bool := w.extractLsb' 27 37 == 0 && twScope w == 0
def twScoped (w : W64) : Bool := w.extractLsb' 27 37 == 0 && !twFresh w && decide (1 ≤ twScope w) && decide (twScope w ≤ 5)
def twOnly (w : W64) : Bool := w.extractLsb' 20 44 == 0

/-- The scope of a form's witness as its tensor word gives it. -/
def TIn.scope (t : TIn) : Nat := twScope (t.par 0)

/-- A form that names a tensor reads its record through its die's cache, held until the record is there and while a drop
that the context has started is not complete (R210, R274). A replay uses the copy kept at issue. Identifier 0 and a
defective record fault `TILE_FORMAT` with auxiliary word 0x22; a poisoned one is a `MACHINE` event (R381). -/
def recPlan (t : TIn) (base : TPlan) (k : TRec → TPlan) : TPlan :=
  let id := twId (t.par 0)
  if id = 0 then { base with fault := some (fmtFault 0x22) }
  else
    let dom := t.c.pd.toNat
    let bytes : Option (List Byte) :=
      if t.replay then some t.record
      else if t.s.drops.any fun d => d.cid == t.c.cid then none
      else (t.s.cached (dieOf t.a) dom id).map (·.bytes)
    match bytes with
    | none => { base with hold := true }
    | some bs =>
      if !t.replay && t.s.poisoned (recKey (dieOf t.a) dom id) 8 then { base with fault := some (0x50, 1, 0) }
      else if recDefect bs then { base with fault := some (fmtFault 0x22) }
      else
        let p := k (TRec.parse id bs)
        { p with record := bs, also := fun s => (p.also s).touchRec (dieOf t.a) dom id }

/-- The box of a copy form. -/
def TIn.org (t : TIn) : List Int := boxOrigin (t.par 1) (t.par 2)
def TIn.ext (t : TIn) : List Nat := boxExtent (t.par 3)

/-- Whether the box words obey R280. -/
def TIn.boxOk (t : TIn) (r : TRec) : Bool := originOk r.rank (t.par 1) (t.par 2) && extentOk r.rank (t.par 3)

/-- The rows and columns of a box taken as a tile, and whether its other extents are 1 (R283). -/
def TIn.boxRows (t : TIn) (r : TRec) : Nat := if r.cdim == r.rdim then 1 else (t.ext[r.rdim]?).getD 1
def TIn.boxCols (t : TIn) (r : TRec) : Nat := (t.ext[r.cdim]?).getD 1
def TIn.flatBox (t : TIn) (r : TRec) : Bool := r.others.all fun d => (t.ext[d]?).getD 1 == 1

/-- The bytes of a whole box image. -/
def TIn.boxImage (t : TIn) (r : TRec) : Nat := (t.ext.foldl (· * ·) 1) * r.eb

/-- A placeholder for a result whose descriptor is not known. -/
def unknownOut : List Entry := [⟨0, 1, 1, 0, 0⟩]

/-- The checks that `TSEND` and `TSENDQ` make of the popped tile and the box (R284). -/
def sendFaults (t : TIn) (r : TRec) : List (Option TFault) :=
  [require ((t.at 0).fmt == r.fmt && (t.at 0).scale == 0) (fmtFault 0),
   require (twScoped (t.par 0) && t.boxOk r && t.flatBox r) (shapeFault 0x20),
   require ((t.at 0).rows == t.boxRows r && (t.at 0).cols == t.boxCols r) (shapeFault 0)]

/-! ## Scratchpad images and sync-word references (R286, R287) -/

/-- The address of a sync-word reference. -/
def refAddr (w : W64) : W64 := w &&& ~~~(0x1F : W64)

/-- The checks of the scratchpad side of `ACOPY` and `ACOPYW`. -/
def copyFaults (t : TIn) (r : TRec) : List (Option TFault) :=
  [(spFail t.c (t.par 4) (t.boxImage r)).map fun f => (0x23, 0, f),
   (if (t.par 5).getLsbD 0 && (spFail t.c (refAddr (t.par 5)) 32).isSome then some (0x23, 0, (refAddr (t.par 5)).toNat)
    else none),
   require ((t.par 4).toNat % r.eb == 0) (0x22, BitVec.ofNat 64 r.eb, (t.par 4).toNat)]

/-! ## Stash regions (R289 to R291) -/

/-- Whether a record may not be used by the stash forms (R289). -/
def stashDefect (r : TRec) : Bool :=
  r.smode == 0 || r.bbytes != 2 + 4 * stashK r.smode || r.ebx != -(stashK r.smode : Int) || !(r.fmt == 5 || r.fmt == 6)

/-- The blocks of a stash region. -/
def TRec.blocks (r : TRec) : Nat := (((List.range r.rank).map r.extent).foldl (· * ·) 1 + 31) / 32

/-- The range and alignment checks of a stash form on cnt elements from number l (R290). -/
def stashFaults (r : TRec) (l : W64) (cnt : Nat) : List (Option TFault) :=
  [require (decide ((l.toNat + cnt + 31) / 32 ≤ r.blocks)) (0x24, 0, (r.base + r.blocks * r.bbytes) % 2 ^ 64),
   require (l.toNat % 32 == 0) (0x22, 32, (r.base + l.toNat / 32 * r.bbytes) % 2 ^ 64)]

/-! ## Provenance (R293) -/

/-- The latch of a tensor of a context's instance. -/
def State.latch (s : State) (c : Ctx) (id : Nat) : Option Latch :=
  s.latches.find? fun l => l.task == c.task && l.inst == c.inst && l.id == id

/-- What the latch table answers a form of a kind (Table 10-7). -/
def State.latchFault (s : State) (c : Ctx) (id : Nat) (recomp : Bool) : Option TFault :=
  match s.latch c id with
  | some l => if l.recomp == recomp then none else some (0x16, if l.recomp then 1 else 2, 0)
  | none => if (s.latches.filter fun l => l.task == c.task && l.inst == c.inst).length ≥ 1024 then some (0x16, 3, 0) else none

/-- The latch as the form leaves it. -/
def State.setLatch (s : State) (c : Ctx) (id : Nat) (recomp : Bool) : State :=
  match s.latch c id with
  | some _ => s
  | none => { s with latches := s.latches ++ [⟨c.task, c.inst, id, recomp⟩] }

/-! ## Gradient lines (R295) -/

/-- The coordinates of element (i, j) of a tile from an origin. -/
def TRec.tileCoord (r : TRec) (org : List Int) (i j : Nat) : List Int :=
  let c1 := org.set r.cdim (coord org r.cdim + (j : Int))
  if r.cdim == r.rdim then c1 else c1.set r.rdim (coord org r.rdim + (i : Int))

/-- The tile's elements that lie in bounds: index in the image and coordinates. With rank 1 the tensor has one row. -/
def TRec.gradCells (r : TRec) (org : List Int) (rows cols : Nat) : List (Nat × List Int) :=
  ((List.range rows).flatMap fun i => (List.range cols).map fun j => (i * cols + j, r.tileCoord org i j)).filter fun x =>
    r.inBounds x.2 && (r.cdim != r.rdim || x.1 < cols)

/-- The tags of a list of cells, each once, in first order. -/
def TRec.gradTags (r : TRec) (dom : Nat) (cells : List (Nat × List Int)) : List Tag :=
  cells.foldl (fun l x => let g := r.tag dom x.2; if l.contains g then l else l ++ [g]) []

/-! ## The forms -/

/-- Reads a box as a tile (R283). -/
def planTget (t : TIn) : TPlan :=
  recPlan t { out := unknownOut, fresh := some 0, input := true } fun r =>
    let e : Entry := ⟨0, t.boxRows r, t.boxCols r, r.fmt, 0⟩
    { out := [e], fresh := some e.bytes, input := true, energy := 192 * units256 e.bytes
      fault := firstFault [require (twRead (t.par 0) && t.boxOk r && t.flatBox r) (shapeFault 0x20),
        require (decide (e.rowBytes ≤ 512) && decide (e.rows ≤ 128)) (shapeFault 0x21)] }

/-- What `TGET` asks of the issue of its bundle. -/
def reqTget (m : Mask) (sp : BitVec 6) (w : BitVec 4) : SlotReq :=
  tReq m (.tget m sp w) sp.toNat 4 w.toNat planTget

/-- `TGET` by itself. -/
def execTget (m : Mask) (sp : BitVec 6) (w : BitVec 4) (s : State) : Host.Outcome State Fault Refusal :=
  issueForm 0 (reqTget m sp w) s

/-- Writes a popped tile to a box (R284). -/
def planTsend (w : BitVec 4) (t : TIn) : TPlan :=
  let base : TPlan := { need := 1, pops := 1, binds := t.top 1, outWit := some (w.toNat, t.scope) }
  recPlan t base fun r =>
    { base with fault := firstFault (sendFaults t r), energy := 192 * units256 (t.at 0).bytes }

/-- What `TSEND` asks of the issue of its bundle. -/
def reqTsend (m : Mask) (sp : BitVec 6) (w : BitVec 4) : SlotReq :=
  tReq m (.tsend m sp w) sp.toNat 4 0 (planTsend w)

/-- `TSEND` by itself. -/
def execTsend (m : Mask) (sp : BitVec 6) (w : BitVec 4) (s : State) : Host.Outcome State Fault Refusal :=
  issueForm 0 (reqTsend m sp w) s

/-- `TSEND` followed by a notice (R285). -/
def planTsendq (w : BitVec 4) (t : TIn) : TPlan :=
  let base : TPlan := { need := 1, pops := 1, binds := t.top 1, outWit := some (w.toNat, t.scope) }
  recPlan t base fun r =>
    { base with
      energy := 192 * units256 (t.at 0).bytes
      fault := firstFault (sendFaults t r ++ [require ((t.par 4).toNat % 32 == 0) (0x22, 32, (t.par 4).toNat)]) }

/-- What `TSENDQ` asks of the issue of its bundle. -/
def reqTsendq (m : Mask) (sp : BitVec 6) (w : BitVec 4) : SlotReq :=
  tReq m (.tsendq m sp w) sp.toNat 6 0 (planTsendq w)

/-- `TSENDQ` by itself. -/
def execTsendq (m : Mask) (sp : BitVec 6) (w : BitVec 4) (s : State) : Host.Outcome State Fault Refusal :=
  issueForm 0 (reqTsendq m sp w) s

/-- Copies a box into the scratchpad (R286). -/
def planAcopy (t : TIn) : TPlan :=
  recPlan t { input := true } fun r =>
    { input := true, energy := 192 * units256 (t.boxImage r)
      fault := firstFault (require (twRead (t.par 0) && t.boxOk r && (t.par 5).extractLsb' 1 4 == 0) (shapeFault 0x20) ::
        copyFaults t r) }

/-- What `ACOPY` asks of the issue of its bundle. -/
def reqAcopy (m : Mask) (sp : BitVec 6) (w : BitVec 4) : SlotReq :=
  tReq m (.acopy m sp w) sp.toNat 6 w.toNat planAcopy

/-- `ACOPY` by itself. -/
def execAcopy (m : Mask) (sp : BitVec 6) (w : BitVec 4) (s : State) : Host.Outcome State Fault Refusal :=
  issueForm 0 (reqAcopy m sp w) s

/-- Copies an image in the scratchpad to a box (R286). -/
def planAcopyw (w : BitVec 4) (t : TIn) : TPlan :=
  let base : TPlan := { outWit := some (w.toNat, t.scope) }
  recPlan t base fun r =>
    { base with
      energy := 192 * units256 (t.boxImage r)
      fault := firstFault (require (twScoped (t.par 0) && t.boxOk r && (t.par 5).extractLsb' 1 4 == 0) (shapeFault 0x20) ::
        copyFaults t r) }

/-- What `ACOPYW` asks of the issue of its bundle. -/
def reqAcopyw (m : Mask) (sp : BitVec 6) (w : BitVec 4) : SlotReq :=
  tReq m (.acopyw m sp w) sp.toNat 6 0 (planAcopyw w)

/-- `ACOPYW` by itself. -/
def execAcopyw (m : Mask) (sp : BitVec 6) (w : BitVec 4) (s : State) : Host.Outcome State Fault Refusal :=
  issueForm 0 (reqAcopyw m sp w) s

/-- Encodes a popped tile into stash blocks (R290). -/
def planStash (w : BitVec 4) (t : TIn) : TPlan :=
  let base : TPlan := { need := 1, pops := 1, binds := t.top 1, outWit := some (w.toNat, t.scope) }
  let a := t.at 0
  recPlan t base fun r =>
    { base with
      energy := 96 * units256 a.bytes
      fault := firstFault ([require (!stashDefect r) (fmtFault 0x22), require (a.fmt == 5 || a.fmt == 6) (fmtFault 0),
        require (twScoped (t.par 0)) (shapeFault 0x20)] ++ stashFaults r (t.par 1) (a.rows * a.cols)) }

/-- What `STASH` asks of the issue of its bundle. -/
def reqStash (m : Mask) (sp : BitVec 6) (w : BitVec 4) : SlotReq :=
  tReq m (.stash m sp w) sp.toNat 2 0 (planStash w)

/-- `STASH` by itself. -/
def execStash (m : Mask) (sp : BitVec 6) (w : BitVec 4) (s : State) : Host.Outcome State Fault Refusal :=
  issueForm 0 (reqStash m sp w) s

/-- Decodes stash blocks into a tile (R291, R293). -/
def planRestore (t : TIn) : TPlan :=
  let id := twId (t.par 0)
  recPlan t { out := unknownOut, fresh := some 0, input := true } fun r =>
    let e := shapeEntry (t.par 2)
    { out := [e], fresh := some e.bytes, input := true, energy := 96 * units256 e.bytes
      fault := firstFault ([require (!stashDefect r) (fmtFault 0x22), require (e.fmt == r.fmt && e.scale == 0) (fmtFault 0x20),
        require (twRead (t.par 0)) (shapeFault 0x20), wordShape (t.par 2)] ++ stashFaults r (t.par 1) (e.rows * e.cols))
      late := t.s.latchFault t.c id false
      also := fun s => s.setLatch t.c id false }

/-- What `RESTORE` asks of the issue of its bundle. -/
def reqRestore (m : Mask) (sp : BitVec 6) (w : BitVec 4) : SlotReq :=
  tReq m (.restore m sp w) sp.toNat 3 w.toNat planRestore

/-- `RESTORE` by itself. -/
def execRestore (m : Mask) (sp : BitVec 6) (w : BitVec 4) (s : State) : Host.Outcome State Fault Refusal :=
  issueForm 0 (reqRestore m sp w) s

/-- Marks a tensor as recomputed (R293, R294). It names a tensor, so it reads the tensor's record as every such form does
(R274). -/
def planRecomp (t : TIn) : TPlan :=
  let id := twId (t.par 0)
  recPlan t { now := true } fun _ =>
    { now := true
      fault := firstFault [require (twOnly (t.par 0)) (shapeFault 0x20)]
      late := t.s.latchFault t.c id true
      also := fun s => s.setLatch t.c id true }

/-- What `RECOMP` asks of the issue of its bundle. -/
def reqRecomp (m : Mask) (sp : BitVec 6) : SlotReq :=
  tReq m (.recomp m sp) sp.toNat 1 0 planRecomp

/-- `RECOMP` by itself. -/
def execRecomp (m : Mask) (sp : BitVec 6) (s : State) : Host.Outcome State Fault Refusal :=
  issueForm 0 (reqRecomp m sp) s

/-- Sends a contribution to every line that a popped tile covers (R295). -/
def planGrad (w : BitVec 4) (t : TIn) : TPlan :=
  let g := t.at 0
  let base : TPlan := { need := 1, pops := 1, binds := t.top 1, outWit := some (w.toNat, 4) }
  recPlan t base fun r =>
    { base with
      energy := 192 * (r.gradTags t.c.pd.toNat (r.gradCells t.org g.rows g.cols)).length
      fault := firstFault [require (r.fmt == 6 && decide (r.opt < 3) && r.expect != 0) (fmtFault 0x22),
        require (g.fmt == 6) (fmtFault 0),
        require (twOnly (t.par 0) && originOk r.rank (t.par 1) (t.par 2)) (shapeFault 0x20)] }

/-- What `GRAD` asks of the issue of its bundle. -/
def reqGrad (m : Mask) (sp : BitVec 6) (w : BitVec 4) : SlotReq :=
  tReq m (.grad m sp w) sp.toNat 4 0 (planGrad w)

/-- `GRAD` by itself. -/
def execGrad (m : Mask) (sp : BitVec 6) (w : BitVec 4) (s : State) : Host.Outcome State Fault Refusal :=
  issueForm 0 (reqGrad m sp w) s

/-- The charge of a collective of n elements of a format with g sources and d destinations (Table 17-8). -/
def collEnergy (f : BitVec 6) (n g d : Nat) : Nat := 192 * units256 (n * tileSize f * (g + d))

/-- The counts of sources and destinations in a group table as it stands; none where it cannot be read. -/
def State.groupCounts (s : State) (dom va : Nat) : Nat × Nat :=
  match s.readFlat dom .read [] va 4 with
  | .ok _ bs => (fieldAt bs 0 2, fieldAt bs 2 2)
  | _ => (0, 0)

/-- Hands a reduction to a collective engine (R298). It is charged at issue, by the group table as it then stands; the
engine's reading of the table corrects the charge where the table has changed (R366, log 22). -/
def planColl (op : BitVec 4) (t : TIn) : TPlan :=
  let f := (t.par 0).extractLsb' 0 6
  let n := (t.par 1).toNat
  let k := t.s.groupCounts t.c.pd.toNat (t.par 2).toNat
  { input := true, energy := collEnergy f n k.1 k.2
    fault := firstFault [require (decide (op.toNat ≤ 3) && (t.par 0).extractLsb' 6 58 == 0 && (f == 6 || f == 5 || f == 3) &&
      decide (1 ≤ n) && decide (n ≤ 2 ^ 24) && (t.par 2).toNat % 8 == 0 && (t.par 3).toNat % 32 == 0)
      (shapeFault 0x20)] }

/-- What `COLL` asks of the issue of its bundle. -/
def reqColl (m : Mask) (op : BitVec 4) (sp : BitVec 6) (w : BitVec 4) : SlotReq :=
  tReq m (.coll m op sp w) sp.toNat 4 w.toNat (planColl op)

/-- `COLL` by itself. -/
def execColl (m : Mask) (op : BitVec 4) (sp : BitVec 6) (w : BitVec 4) (s : State) : Host.Outcome State Fault Refusal :=
  issueForm 0 (reqColl m op sp w) s

/-! ## Replay (R251) -/

/-- The plan of a T form by its constructor, for its replay. -/
def planOf (i : Instr) (t : TIn) : TPlan :=
  match i with
  | .tdup _ => planTdup t
  | .tdrop _ n => planTdrop n t
  | .tswap _ => planTswap t
  | .tpick _ d => planTpick d t
  | .trot _ n => planTrot n t
  | .tzero _ _ => planTzero t
  | .tinfo _ sd d => planTinfo sd d t
  | .tshape _ _ => planTshape t
  | .tscale _ k => planTscale k t
  | .tlds _ _ _ => planTlds t
  | .tsts _ _ w => planTsts w t
  | .tfromv _ v _ => planTfromv v t
  | .ttov _ v _ n => planTtov v n t
  | .mwl _ pl => planMwl pl t
  | .mfw _ e pl => planMfw e pl t
  | .mfwa _ e pl => planMfwa e pl t
  | .mbk _ e pl => planMbk e pl t
  | .mbka _ e pl => planMbka e pl t
  | .mwrel _ pl => planMwrel pl t
  | .tadd _ => planTadd t
  | .tsub _ => planTsub t
  | .tmul _ => planTmul t
  | .tmax _ => planTmax t
  | .tmin _ => planTmin t
  | .tfma _ => planTfma t
  | .tcvt _ k f => planTcvt k f t
  | .tact _ _ => planTact t
  | .trsum _ => planTrsum t
  | .tcsum _ => planTcsum t
  | .txp _ => planTxp t
  | .tget _ _ _ => planTget t
  | .tsend _ _ w => planTsend w t
  | .tsendq _ _ w => planTsendq w t
  | .acopy _ _ _ => planAcopy t
  | .acopyw _ _ w => planAcopyw w t
  | .stash _ _ w => planStash w t
  | .restore _ _ _ => planRestore t
  | .recomp _ _ => planRecomp t
  | .grad _ _ w => planGrad w t
  | .coll _ op _ _ => planColl op t
  | _ => {}

end Sys2Proof.Machine
end

