-- ==== Sys2Proof/Machine/Return.lean ====
section
/-! DEFINITION. `TRET`: the return from a trap with the replay of the cancelled tile operations (05 R138, 06 R165, 09
R250, R251). -/

namespace Sys2Proof.Machine

/-- The replay of a list of cancelled operations in order: the operation that faults again, with its fault and every
younger one, or none. -/
def State.replayAll (s : State) (a : Nat) (l : List TOp) : State × Option (TFault × List TOp) :=
  match l with
  | [] => (s, none)
  | o :: r =>
    match s.ctx a with
    | none => (s, none)
    | some c =>
      let t := o.tin s a c
      let p := planOf o.form t
      match replayOp t o p with
      | .error f => (s, some (f, o :: r))
      | .ok g => (s.setCtx a (g c)).replayAll a r

/-- The record of an operation that meets a fault as it is replayed (R251, R376). -/
def replayRec (s : State) (a : Nat) (c : Ctx) (f : TFault) (l : List TOp) : TrapRec :=
  let k := c.capture
  let o := l.head?
  let resume := (k.map (·.resume)).getD c.pc
  let rep := (k.bind (·.rep)).map (·.k)
  { info := { cause := f.1, aux := f.2.1, faddr := BitVec.ofNat 64 f.2.2, slots := 1, unit := seqUnit a }
    bundle := (o.map (·.pos)).getD c.pc, resume := resume, tick := c.tick
    flags := 33 + (if s.accs.any fun x => x.cid == c.cid && x.kept then 2 else 0) + (if rep.isSome then 8 else 0) +
      (if c.late then 16 else 0)
    cancelled := l.length, tseq := (o.map (·.tseq)).getD 0, rep := rep.getD 0 }

/-- The replay list of the capture that a context holds. -/
def Ctx.replayList (c : Ctx) : List TOp := (c.capture.map (·.replay)).getD []

/-- The return once the bundle of `TRET` has committed: the replay list is re-issued; an operation that faults again
traps the interrupted stream anew once every operation replayed before it is complete (R250), and otherwise the stream
is restored. -/
def State.finishReturn (s : State) (a : Nat) : State :=
  match s.ctx a with
  | none => s
  | some c =>
    let r := s.replayAll a c.replayList
    match r.2 with
    | none => r.1.returnTrap a
    | some x =>
      match r.1.ctx a with
      | none => r.1
      | some c1 =>
        let rec0 := replayRec r.1 a c1 x.1 x.2
        if c1.window.all fun o => o.status == .done then r.1.takeTrap a rec0 x.2 true
        else r.1.setCtx a { c1 with refault := some (rec0.info, x.2) }

/-- Whether a replay that would fault must wait for the segment of the handler. -/
def Env.tretWaits (e : Env) : Bool :=
  match (e.s.replayAll e.a e.c.replayList).2 with
  | none => false
  | some _ =>
    match e.s.target e.a (CodePos.ofWord e.c.tvec) with
    | .wait => true
    | _ => false

/-- What `TRET` asks of the issue of its bundle: it waits for the handler's own tile operations (R165), and its bundle's
results must not collide with those it replays (R132, R133). -/
def reqTret : SlotReq := cReq fun e =>
  { illegal := e.c.capture.isNone || e.c.pend.any Pend.real
    hold := !(e.c.window.all fun o => o.status == .done || e.c.foreign o) || e.tretWaits
    next := .returns
    olds := ((e.c.capture.map (·.pend)).getD []).map fun p => { p with left := p.left + 1 }
    post := fun s => s.finishReturn e.a }

/-- `TRET` by itself. -/
def execTret (s : State) : Host.Outcome State Fault Refusal := issueForm 0 reqTret s

end Sys2Proof.Machine
end

