-- ==== Sys2Proof/Machine/Vector.lean ====
section
/-! DEFINITION. The forms of the V slot (08 R215 to R230). Each form has what it asks of the issue of its bundle (req)
and its meaning by itself (exec). -/

namespace Sys2Proof.Machine

/-- A type 7 form that reads values is illegal while `nfmt` is 0 (R85, R218). -/
def f8Illegal (e : Env) (ty : Nat) : Bool := ty == 7 && fmtNfmt e.c.fmt == 0

/-- The decoded elements of a vector operand, with whether each was flushed (R218). -/
def Env.vals (e : Env) (ty n field : Nat) : List (FVal × Bool) :=
  (e.elems (vecSize ty) n field).map fun u =>
    (vecFmt e.c.fmt ty).decode u (vecScale e.c.fmt ty) (fmtFlush e.c.fmt)

/-- One rounded element with its events (R218). -/
def vecRound (e : Env) (ty : Nat) (ins : List (FVal × Bool)) (x : FVal) : Nat × Nat :=
  let r := (vecFmt e.c.fmt ty).finish (vecScale e.c.fmt ty) (fmtVrnd e.c.fmt) (vecSat e.c.fmt ty) (ins.map (·.1)) x
  (r.1, r.2 ||| flushEv ins)

/-- A merged vector result of elements with their events (R217, R109). -/
def vecResult (e : Env) (vd size lat : Nat) (ps : List Bool) (rs : List (Nat × Nat)) : Pend :=
  (vecPend vd lat (lanesFor size ps) (vecOf size (rs.map (·.1)))).withEvents e engVector
    (maskedEvents ps (rs.map (·.2)))

/-- A binary element-wise form (R220): an integer operation on width and elements, a floating one on the mode. -/
def vBin (m : Mask) (ty : BitVec 3) (vd va vb : BitVec 10) (p : BitVec 4) (iop : Nat → Nat → Nat → Nat)
    (fop : Nat → FVal → FVal → FVal) : SlotReq :=
  { slot := .v, mask := m, eff := fun e =>
      let size := vecSize ty.toNat
      let n := 256 / size
      let ps := e.preds size n p.toNat
      let rs := if ty.toNat < 4 then
          (List.zipWith (iop (8 * size)) (e.elems size n va.toNat) (e.elems size n vb.toNat)).map fun r => (r, 0)
        else
          List.zipWith (fun a b => vecRound e ty.toNat [a, b] (fop (fmtVrnd e.c.fmt) a.1 b.1))
            (e.vals ty.toNat n va.toNat) (e.vals ty.toNat n vb.toNat)
      { illegal := f8Illegal e ty.toNat
        vreads := vRead va.toNat ++ vRead vb.toNat
        pends := [vecResult e vd.toNat size (if ty.toNat < 4 then 2 else 4) ps rs]
        energy := if ty.toNat < 4 then 8 else 16 } }

/-- An element-wise minimum or maximum (R221): the selected value is encoded exactly, and only event 1 is posted. -/
def vPick (m : Mask) (ty : BitVec 3) (vd va vb : BitVec 10) (p : BitVec 4) (iop : Nat → Nat → Nat → Nat)
    (fop : FVal → FVal → FVal) : SlotReq :=
  { slot := .v, mask := m, eff := fun e =>
      let size := vecSize ty.toNat
      let n := 256 / size
      let ps := e.preds size n p.toNat
      let F := vecFmt e.c.fmt ty.toNat
      let rs := if ty.toNat < 4 then
          (List.zipWith (iop (8 * size)) (e.elems size n va.toNat) (e.elems size n vb.toNat)).map fun r => (r, 0)
        else
          List.zipWith (fun a b => (F.encode ((fop a.1 b.1).scale (-(vecScale e.c.fmt ty.toNat))), cmpEvents a.1 b.1))
            (e.vals ty.toNat n va.toNat) (e.vals ty.toNat n vb.toNat)
      { illegal := f8Illegal e ty.toNat
        vreads := vRead va.toNat ++ vRead vb.toNat
        pends := [vecResult e vd.toNat size (if ty.toNat < 4 then 2 else 4) ps rs]
        energy := if ty.toNat < 4 then 8 else 16 } }

/-- A unary element-wise form of latency 2 (R220, R221). -/
def vUn (m : Mask) (ty : BitVec 3) (vd va : BitVec 10) (p : BitVec 4) (iop : Nat → Nat → Nat) (fop : FVal → FVal) :
    SlotReq :=
  { slot := .v, mask := m, eff := fun e =>
      let size := vecSize ty.toNat
      let n := 256 / size
      let ps := e.preds size n p.toNat
      let rs := if ty.toNat < 4 then (e.elems size n va.toNat).map fun a => (iop (8 * size) a, 0)
        else (e.vals ty.toNat n va.toNat).map fun a => vecRound e ty.toNat [a] (fop a.1)
      { illegal := f8Illegal e ty.toNat
        vreads := vRead va.toNat
        pends := [vecResult e vd.toNat size 2 ps rs]
        energy := if ty.toNat < 4 then 8 else 16 } }

/-- An integer operation on signed readings, wrapped to the width. -/
def onSigned (f : Int → Int → Int) (w a b : Nat) : Nat := wrapNat w (f (sextNat w a) (sextNat w b))

/-- A compare into a predicate register: every bit of an element's group (R222). -/
def vCmp (m : Mask) (ty : BitVec 3) (pd : BitVec 4) (va vb : BitVec 10) (p : BitVec 4) (iop : Nat → Nat → Nat → Bool)
    (fop : FVal → FVal → Bool) : SlotReq :=
  { slot := .v, mask := m, eff := fun e =>
      let size := vecSize ty.toNat
      let n := 256 / size
      let ps := e.preds size n p.toNat
      let rs : List (Bool × Nat) := if ty.toNat < 4 then
          (List.zipWith (iop (8 * size)) (e.elems size n va.toNat) (e.elems size n vb.toNat)).map fun r => (r, 0)
        else
          List.zipWith (fun a b => (fop a.1 b.1, cmpEvents a.1 b.1 ||| flushEv [a, b]))
            (e.vals ty.toNat n va.toNat) (e.vals ty.toNat n vb.toNat)
      let pend : Pend := { reg := .p pd.toNat, left := if ty.toNat < 4 then 2 else 4
                           val := (lanesFor size (rs.map (·.1))).zeroExtend 2048, lanes := lanesFor size ps }
      { illegal := f8Illegal e ty.toNat
        vreads := vRead va.toNat ++ vRead vb.toNat
        pends := [pend.withEvents e engVector (maskedEvents ps (rs.map (·.2)))]
        energy := if ty.toNat < 4 then 8 else 16 } }

/-- A node of a reduction tree with the events of its roundings (R95). -/
abbrev RNode := FVal × List Nat

/-- The sum node: rounded into the element format at its scale (R95). A NaN that comes up from below is no NaN input of
its own (R109, R218). -/
def sumNode (e : Env) (ty : Nat) (a b : RNode) : RNode :=
  let F := vecFmt e.c.fmt ty
  let sc := vecScale e.c.fmt ty
  let mode := fmtVrnd e.c.fmt
  let r := F.round mode (vecSat e.c.fmt ty) ((FVal.add mode a.1 b.1).scale (-sc))
  (r.val.scale sc, a.2 ++ b.2 ++ [if a.1.isNan || b.1.isNan then r.ev else opEvents [a.1, b.1] r])

/-- The larger node; a NaN operand gives NaN. -/
def maxNode (a b : RNode) : RNode := (FVal.max a.1 b.1, a.2 ++ b.2)

/-- The levels of the tree of R95. -/
def treeLevels (size : Nat) : Nat :=
  match size with
  | 1 => 8
  | 2 => 7
  | 4 => 6
  | _ => 5

/-- A reduction (R95, R228): integers over iop from the identity, floating types over the node operation. -/
def vRed (m : Mask) (ty : BitVec 3) (vd va : BitVec 10) (p : BitVec 4) (iop : Nat → Nat → Nat → Nat)
    (node : Env → Nat → RNode → RNode → RNode) (ident : Env → Nat → Nat) : SlotReq :=
  { slot := .v, mask := m, eff := fun e =>
      let size := vecSize ty.toNat
      let n := 256 / size
      let ps := e.preds size n p.toNat
      let r : Nat × List Nat := if ty.toNat < 4 then
          (((treeRoot (iop (8 * size)) (treeLevels size)
            (List.zipWith (fun q u => if q then some u else none) ps (e.elems size n va.toNat))).getD (ident e ty.toNat)), [])
        else
          match treeRoot (node e ty.toNat) (treeLevels size)
            (List.zipWith (fun q (u : FVal × Bool) =>
                if q then some (u.1, [(if u.1.isNan then ev 1 else 0) ||| flushEv [u]]) else none)
              ps (e.vals ty.toNat n va.toNat)) with
          | some x => ((vecFmt e.c.fmt ty.toNat).encode (x.1.scale (-(vecScale e.c.fmt ty.toNat))), x.2)
          | none => (ident e ty.toNat, [])
      { illegal := f8Illegal e ty.toNat
        vreads := vRead va.toNat
        pends := [(vecPend vd.toNat 8 (BitVec.allOnes 256) (vecOf size [r.1])).withEvents e engVector r.2]
        energy := 16 } }

/-- The identity of `VRMAX` (R95). -/
def maxIdent (e : Env) (ty : Nat) : Nat :=
  if ty < 4 then 2 ^ (8 * vecSize ty - 1)
  else if ty = 7 then (if (fmtNfmt e.c.fmt).getLsbD 4 then 0 else 0xFF)
  else (vecFmt e.c.fmt ty).encode (.inf true)

/-- Elements of A packed by a predicate (R229). -/
def packElems (ps : List Bool) (l : List Nat) : List Nat := (ps.zip l).filterMap fun x => if x.1 then some x.2 else none

/-- Elements placed where a predicate is true, in ascending order (R230). -/
def placeElems (ps : List Bool) (l : List Nat) : List Nat :=
  match ps with
  | [] => []
  | true :: r => l.headD 0 :: placeElems r l.tail
  | false :: r => 0 :: placeElems r l

/-- A form that moves bits (R219): it posts no event. -/
def vMove (m : Mask) (vd lat energy : Nat) (reads : List Nat) (lanes : Env → BitVec 256) (v : Env → Vec) : SlotReq :=
  { slot := .v, mask := m, eff := fun e =>
      { vreads := reads, pends := [vecPend vd lat (lanes e) (v e)], energy := energy } }

/-- A + B (R220). -/
def reqVadd (m : Mask) (ty : BitVec 3) (vd : BitVec 10) (va : BitVec 10) (vb : BitVec 10) (p : BitVec 4) : SlotReq :=
  vBin m ty vd va vb p (fun w a b => (a + b) % 2 ^ w) (FVal.add)

/-- `VADD` by itself. -/
def execVadd (m : Mask) (ty : BitVec 3) (vd : BitVec 10) (va : BitVec 10) (vb : BitVec 10) (p : BitVec 4) (s : State) : Host.Outcome State Fault Refusal :=
  issueForm 0 (reqVadd m ty vd va vb p) s

/-- A - B (R220). -/
def reqVsub (m : Mask) (ty : BitVec 3) (vd : BitVec 10) (va : BitVec 10) (vb : BitVec 10) (p : BitVec 4) : SlotReq :=
  vBin m ty vd va vb p (onSigned (· - ·)) (FVal.sub)

/-- `VSUB` by itself. -/
def execVsub (m : Mask) (ty : BitVec 3) (vd : BitVec 10) (va : BitVec 10) (vb : BitVec 10) (p : BitVec 4) (s : State) : Host.Outcome State Fault Refusal :=
  issueForm 0 (reqVsub m ty vd va vb p) s

/-- A * B, low bits for integers (R220). -/
def reqVmul (m : Mask) (ty : BitVec 3) (vd : BitVec 10) (va : BitVec 10) (vb : BitVec 10) (p : BitVec 4) : SlotReq :=
  vBin m ty vd va vb p (fun w a b => (a * b) % 2 ^ w) (fun _ => FVal.mul)

/-- `VMUL` by itself. -/
def execVmul (m : Mask) (ty : BitVec 3) (vd : BitVec 10) (va : BitVec 10) (vb : BitVec 10) (p : BitVec 4) (s : State) : Host.Outcome State Fault Refusal :=
  issueForm 0 (reqVmul m ty vd va vb p) s

/-- A * B + D, rounded once; D is VD at t (R220, R221). -/
def reqVfma (m : Mask) (ty : BitVec 3) (vd : BitVec 10) (va : BitVec 10) (vb : BitVec 10) (p : BitVec 4) : SlotReq :=
  { slot := .v, mask := m, eff := fun e =>
      let size := vecSize ty.toNat
      let n := 256 / size
      let ps := e.preds size n p.toNat
      let abs := List.zip (e.vals ty.toNat n va.toNat) (e.vals ty.toNat n vb.toNat)
      let rs := List.zipWith (fun (ab : (FVal × Bool) × (FVal × Bool)) d =>
          let invalid := (FVal.mul ab.1.1 ab.2.1).isNan && !ab.1.1.isNan && !ab.2.1.isNan
          let r := vecRound e ty.toNat [ab.1, ab.2, d] (FVal.fma (fmtVrnd e.c.fmt) ab.1.1 ab.2.1 d.1)
          (r.1, r.2 ||| (if invalid then ev 0 else 0))) abs (e.vals ty.toNat n vd.toNat)
      { illegal := f8Illegal e ty.toNat
        vreads := vRead va.toNat ++ vRead vb.toNat ++ [vd.toNat]
        pends := [vecResult e vd.toNat size 5 ps rs]
        energy := 24 } }

/-- `VFMA` by itself. -/
def execVfma (m : Mask) (ty : BitVec 3) (vd : BitVec 10) (va : BitVec 10) (vb : BitVec 10) (p : BitVec 4) (s : State) : Host.Outcome State Fault Refusal :=
  issueForm 0 (reqVfma m ty vd va vb p) s

/-- The smaller, signed; floating under R71 (R220). -/
def reqVmin (m : Mask) (ty : BitVec 3) (vd : BitVec 10) (va : BitVec 10) (vb : BitVec 10) (p : BitVec 4) : SlotReq :=
  vPick m ty vd va vb p (onSigned min) FVal.min

/-- `VMIN` by itself. -/
def execVmin (m : Mask) (ty : BitVec 3) (vd : BitVec 10) (va : BitVec 10) (vb : BitVec 10) (p : BitVec 4) (s : State) : Host.Outcome State Fault Refusal :=
  issueForm 0 (reqVmin m ty vd va vb p) s

/-- The larger, signed; floating under R71 (R220). -/
def reqVmax (m : Mask) (ty : BitVec 3) (vd : BitVec 10) (va : BitVec 10) (vb : BitVec 10) (p : BitVec 4) : SlotReq :=
  vPick m ty vd va vb p (onSigned max) FVal.max

/-- `VMAX` by itself. -/
def execVmax (m : Mask) (ty : BitVec 3) (vd : BitVec 10) (va : BitVec 10) (vb : BitVec 10) (p : BitVec 4) (s : State) : Host.Outcome State Fault Refusal :=
  issueForm 0 (reqVmax m ty vd va vb p) s

/-- The smaller, unsigned (R220). -/
def reqVminn (m : Mask) (ty : BitVec 3) (vd : BitVec 10) (va : BitVec 10) (vb : BitVec 10) (p : BitVec 4) : SlotReq :=
  vBin m ty vd va vb p (fun _ a b => Nat.min a b) (fun _ a _ => a)

/-- `VMINN` by itself. -/
def execVminn (m : Mask) (ty : BitVec 3) (vd : BitVec 10) (va : BitVec 10) (vb : BitVec 10) (p : BitVec 4) (s : State) : Host.Outcome State Fault Refusal :=
  issueForm 0 (reqVminn m ty vd va vb p) s

/-- The larger, unsigned (R220). -/
def reqVmaxn (m : Mask) (ty : BitVec 3) (vd : BitVec 10) (va : BitVec 10) (vb : BitVec 10) (p : BitVec 4) : SlotReq :=
  vBin m ty vd va vb p (fun _ a b => Nat.max a b) (fun _ a _ => a)

/-- `VMAXN` by itself. -/
def execVmaxn (m : Mask) (ty : BitVec 3) (vd : BitVec 10) (va : BitVec 10) (vb : BitVec 10) (p : BitVec 4) (s : State) : Host.Outcome State Fault Refusal :=
  issueForm 0 (reqVmaxn m ty vd va vb p) s

/-- The absolute value (R220, R221). -/
def reqVabs (m : Mask) (ty : BitVec 3) (vd : BitVec 10) (va : BitVec 10) (p : BitVec 4) : SlotReq :=
  vUn m ty vd va p (fun w a => wrapNat w (sextNat w a).natAbs) FVal.abs

/-- `VABS` by itself. -/
def execVabs (m : Mask) (ty : BitVec 3) (vd : BitVec 10) (va : BitVec 10) (p : BitVec 4) (s : State) : Host.Outcome State Fault Refusal :=
  issueForm 0 (reqVabs m ty vd va p) s

/-- The negated value (R220, R221). -/
def reqVneg (m : Mask) (ty : BitVec 3) (vd : BitVec 10) (va : BitVec 10) (p : BitVec 4) : SlotReq :=
  vUn m ty vd va p (fun w a => (2 ^ w - a) % 2 ^ w) FVal.neg

/-- `VNEG` by itself. -/
def execVneg (m : Mask) (ty : BitVec 3) (vd : BitVec 10) (va : BitVec 10) (p : BitVec 4) (s : State) : Host.Outcome State Fault Refusal :=
  issueForm 0 (reqVneg m ty vd va p) s

/-- A and B (R220). -/
def reqVand (m : Mask) (ty : BitVec 3) (vd : BitVec 10) (va : BitVec 10) (vb : BitVec 10) (p : BitVec 4) : SlotReq :=
  vBin m ty vd va vb p (fun _ a b => a &&& b) (fun _ a _ => a)

/-- `VAND` by itself. -/
def execVand (m : Mask) (ty : BitVec 3) (vd : BitVec 10) (va : BitVec 10) (vb : BitVec 10) (p : BitVec 4) (s : State) : Host.Outcome State Fault Refusal :=
  issueForm 0 (reqVand m ty vd va vb p) s

/-- A or B (R220). -/
def reqVor (m : Mask) (ty : BitVec 3) (vd : BitVec 10) (va : BitVec 10) (vb : BitVec 10) (p : BitVec 4) : SlotReq :=
  vBin m ty vd va vb p (fun _ a b => a ||| b) (fun _ a _ => a)

/-- `VOR` by itself. -/
def execVor (m : Mask) (ty : BitVec 3) (vd : BitVec 10) (va : BitVec 10) (vb : BitVec 10) (p : BitVec 4) (s : State) : Host.Outcome State Fault Refusal :=
  issueForm 0 (reqVor m ty vd va vb p) s

/-- A xor B (R220). -/
def reqVxor (m : Mask) (ty : BitVec 3) (vd : BitVec 10) (va : BitVec 10) (vb : BitVec 10) (p : BitVec 4) : SlotReq :=
  vBin m ty vd va vb p (fun _ a b => a ^^^ b) (fun _ a _ => a)

/-- `VXOR` by itself. -/
def execVxor (m : Mask) (ty : BitVec 3) (vd : BitVec 10) (va : BitVec 10) (vb : BitVec 10) (p : BitVec 4) (s : State) : Host.Outcome State Fault Refusal :=
  issueForm 0 (reqVxor m ty vd va vb p) s

/-- A << c, c modulo the width (R220). -/
def reqVshl (m : Mask) (ty : BitVec 3) (vd : BitVec 10) (va : BitVec 10) (vb : BitVec 10) (p : BitVec 4) : SlotReq :=
  vBin m ty vd va vb p (fun w a b => (a <<< (b % w)) % 2 ^ w) (fun _ a _ => a)

/-- `VSHL` by itself. -/
def execVshl (m : Mask) (ty : BitVec 3) (vd : BitVec 10) (va : BitVec 10) (vb : BitVec 10) (p : BitVec 4) (s : State) : Host.Outcome State Fault Refusal :=
  issueForm 0 (reqVshl m ty vd va vb p) s

/-- A >> c, zeros in (R220). -/
def reqVshr (m : Mask) (ty : BitVec 3) (vd : BitVec 10) (va : BitVec 10) (vb : BitVec 10) (p : BitVec 4) : SlotReq :=
  vBin m ty vd va vb p (fun w a b => a >>> (b % w)) (fun _ a _ => a)

/-- `VSHR` by itself. -/
def execVshr (m : Mask) (ty : BitVec 3) (vd : BitVec 10) (va : BitVec 10) (vb : BitVec 10) (p : BitVec 4) (s : State) : Host.Outcome State Fault Refusal :=
  issueForm 0 (reqVshr m ty vd va vb p) s

/-- A >> c, copies of the top bit in (R220). -/
def reqVsar (m : Mask) (ty : BitVec 3) (vd : BitVec 10) (va : BitVec 10) (vb : BitVec 10) (p : BitVec 4) : SlotReq :=
  vBin m ty vd va vb p (fun w a b => wrapNat w (sextNat w a / ((2 ^ (b % w) : Nat) : Int))) (fun _ a _ => a)

/-- `VSAR` by itself. -/
def execVsar (m : Mask) (ty : BitVec 3) (vd : BitVec 10) (va : BitVec 10) (vb : BitVec 10) (p : BitVec 4) (s : State) : Host.Outcome State Fault Refusal :=
  issueForm 0 (reqVsar m ty vd va vb p) s

/-- A = B (R222). -/
def reqVceq (m : Mask) (ty : BitVec 3) (pd : BitVec 4) (va : BitVec 10) (vb : BitVec 10) (p : BitVec 4) : SlotReq :=
  vCmp m ty pd va vb p (fun _ a b => a == b) (fEq)

/-- `VCEQ` by itself. -/
def execVceq (m : Mask) (ty : BitVec 3) (pd : BitVec 4) (va : BitVec 10) (vb : BitVec 10) (p : BitVec 4) (s : State) : Host.Outcome State Fault Refusal :=
  issueForm 0 (reqVceq m ty pd va vb p) s

/-- A < B (R222). -/
def reqVclt (m : Mask) (ty : BitVec 3) (pd : BitVec 4) (va : BitVec 10) (vb : BitVec 10) (p : BitVec 4) : SlotReq :=
  vCmp m ty pd va vb p (fun w a b => decide (sextNat w a < sextNat w b)) (fLt)

/-- `VCLT` by itself. -/
def execVclt (m : Mask) (ty : BitVec 3) (pd : BitVec 4) (va : BitVec 10) (vb : BitVec 10) (p : BitVec 4) (s : State) : Host.Outcome State Fault Refusal :=
  issueForm 0 (reqVclt m ty pd va vb p) s

/-- A <= B (R222). -/
def reqVcle (m : Mask) (ty : BitVec 3) (pd : BitVec 4) (va : BitVec 10) (vb : BitVec 10) (p : BitVec 4) : SlotReq :=
  vCmp m ty pd va vb p (fun w a b => decide (sextNat w a ≤ sextNat w b)) (fLe)

/-- `VCLE` by itself. -/
def execVcle (m : Mask) (ty : BitVec 3) (pd : BitVec 4) (va : BitVec 10) (vb : BitVec 10) (p : BitVec 4) (s : State) : Host.Outcome State Fault Refusal :=
  issueForm 0 (reqVcle m ty pd va vb p) s

/-- A < B unsigned (R222). -/
def reqVcltn (m : Mask) (ty : BitVec 3) (pd : BitVec 4) (va : BitVec 10) (vb : BitVec 10) (p : BitVec 4) : SlotReq :=
  vCmp m ty pd va vb p (fun _ a b => decide (a < b)) (fun _ _ => false)

/-- `VCLTN` by itself. -/
def execVcltn (m : Mask) (ty : BitVec 3) (pd : BitVec 4) (va : BitVec 10) (vb : BitVec 10) (p : BitVec 4) (s : State) : Host.Outcome State Fault Refusal :=
  issueForm 0 (reqVcltn m ty pd va vb p) s

/-- A where the governing bit is true, else B (R224). -/
def reqVsel (m : Mask) (ty : BitVec 3) (vd : BitVec 10) (va : BitVec 10) (vb : BitVec 10) (p : BitVec 4) : SlotReq :=
  let size := vecSize ty.toNat
  vMove m vd.toNat 2 8 (vRead va.toNat ++ vRead vb.toNat) (fun _ => BitVec.allOnes 256) fun e =>
    mergeLanes (lanesFor size (e.preds size (256 / size) p.toNat)) (e.s.vsrc e.a e.c size vb.toNat) (e.s.vsrc e.a e.c size va.toNat)

/-- `VSEL` by itself. -/
def execVsel (m : Mask) (ty : BitVec 3) (vd : BitVec 10) (va : BitVec 10) (vb : BitVec 10) (p : BitVec 4) (s : State) : Host.Outcome State Fault Refusal :=
  issueForm 0 (reqVsel m ty vd va vb p) s

/-- Conversion between types (R88, R225). From `f8` to `f8` too it is the convert of the rule's pseudocode, so that an
infinity saturates under `sat` and a subnormal is flushed under `fmt`[20] (DESIGN CHOICE, log 30). -/
def reqVcvt (m : Mask) (ty : BitVec 3) (vd : BitVec 10) (va : BitVec 10) (st : BitVec 3) (p : BitVec 4) : SlotReq :=
  { slot := .v, mask := m, eff := fun e =>
      let ss := vecSize st.toNat
      let sd := vecSize ty.toNat
      let n := 256 / Nat.max ss sd
      let ps := e.preds sd n p.toNat
      let rs := (e.elems ss n va.toNat).map fun u =>
        convertBits (vecFmt e.c.fmt st.toNat) (vecScale e.c.fmt st.toNat) (vecFmt e.c.fmt ty.toNat)
          (vecScale e.c.fmt ty.toNat) (fmtVrnd e.c.fmt) (fmtSat e.c.fmt) (fmtFlush e.c.fmt) u
      { illegal := f8Illegal e st.toNat || f8Illegal e ty.toNat
        vreads := vRead va.toNat
        pends := [(vecPend vd.toNat 4 (lanesFor sd ps ||| ~~~(laneMask 0 (n * sd))) (vecOf sd (rs.map (·.1)))).withEvents e
          engVector (maskedEvents ps (rs.map (·.2)))]
        energy := if st.toNat < 4 ∧ ty.toNat < 4 then 8 else 16 } }

/-- `VCVT` by itself. -/
def execVcvt (m : Mask) (ty : BitVec 3) (vd : BitVec 10) (va : BitVec 10) (st : BitVec 3) (p : BitVec 4) (s : State) : Host.Outcome State Fault Refusal :=
  issueForm 0 (reqVcvt m ty vd va st p) s

/-- The sum over the tree (R95, R228). -/
def reqVrsum (m : Mask) (ty : BitVec 3) (vd : BitVec 10) (va : BitVec 10) (p : BitVec 4) : SlotReq :=
  vRed m ty vd va p (fun w a b => (a + b) % 2 ^ w) sumNode (fun _ _ => 0)

/-- `VRSUM` by itself. -/
def execVrsum (m : Mask) (ty : BitVec 3) (vd : BitVec 10) (va : BitVec 10) (p : BitVec 4) (s : State) : Host.Outcome State Fault Refusal :=
  issueForm 0 (reqVrsum m ty vd va p) s

/-- The largest over the tree (R95, R228). -/
def reqVrmax (m : Mask) (ty : BitVec 3) (vd : BitVec 10) (va : BitVec 10) (p : BitVec 4) : SlotReq :=
  vRed m ty vd va p (onSigned max) (fun _ _ => maxNode) maxIdent

/-- `VRMAX` by itself. -/
def execVrmax (m : Mask) (ty : BitVec 3) (vd : BitVec 10) (va : BitVec 10) (p : BitVec 4) (s : State) : Host.Outcome State Fault Refusal :=
  issueForm 0 (reqVrmax m ty vd va p) s

/-- Packs the governed elements, with their count (R229). -/
def reqVcmpr (m : Mask) (ty : BitVec 3) (vd : BitVec 10) (va : BitVec 10) (sc : BitVec 6) (p : BitVec 4) : SlotReq :=
  { slot := .v, mask := m, eff := fun e =>
      let size := vecSize ty.toNat
      let r := packElems (e.preds size (256 / size) p.toNat) (e.elems size (256 / size) va.toNat)
      { vreads := vRead va.toNat
        pends := vecPend vd.toNat 6 (BitVec.allOnes 256) (vecOf size r) :: scalarPend sc.toNat 6 (BitVec.ofNat 64 r.length)
        energy := 12 } }

/-- `VCMPR` by itself. -/
def execVcmpr (m : Mask) (ty : BitVec 3) (vd : BitVec 10) (va : BitVec 10) (sc : BitVec 6) (p : BitVec 4) (s : State) : Host.Outcome State Fault Refusal :=
  issueForm 0 (reqVcmpr m ty vd va sc p) s

/-- Places elements where the governing bit is true, with their count (R230). -/
def reqVexpd (m : Mask) (ty : BitVec 3) (vd : BitVec 10) (va : BitVec 10) (sc : BitVec 6) (p : BitVec 4) : SlotReq :=
  { slot := .v, mask := m, eff := fun e =>
      let size := vecSize ty.toNat
      let ps := e.preds size (256 / size) p.toNat
      let r := placeElems ps (e.elems size (256 / size) va.toNat)
      { vreads := vRead va.toNat
        pends := vecPend vd.toNat 6 (lanesFor size ps) (vecOf size r) ::
          scalarPend sc.toNat 6 (BitVec.ofNat 64 (ps.filter id).length)
        energy := 12 } }

/-- `VEXPD` by itself. -/
def execVexpd (m : Mask) (ty : BitVec 3) (vd : BitVec 10) (va : BitVec 10) (sc : BitVec 6) (p : BitVec 4) (s : State) : Host.Outcome State Fault Refusal :=
  issueForm 0 (reqVexpd m ty vd va sc p) s

/-- Log-number words of 64 elements (R97, R226). -/
def reqVlog (m : Mask) (ty : BitVec 3) (vd : BitVec 10) (va : BitVec 10) (p : BitVec 4) : SlotReq :=
  { slot := .v, mask := m, eff := fun e =>
      let ps := e.preds 4 64 p.toNat
      let rs := (e.vals ty.toNat 64 va.toNat).map fun x => let r := vlog x.1; (r.1, r.2 ||| flushEv [x])
      { illegal := f8Illegal e ty.toNat, vreads := vRead va.toNat, pends := [vecResult e vd.toNat 4 6 ps rs], energy := 24 } }

/-- `VLOG` by itself. -/
def execVlog (m : Mask) (ty : BitVec 3) (vd : BitVec 10) (va : BitVec 10) (p : BitVec 4) (s : State) : Host.Outcome State Fault Refusal :=
  issueForm 0 (reqVlog m ty vd va p) s

/-- Values of 64 log-number words (R98, R226). -/
def reqVexp (m : Mask) (ty : BitVec 3) (vd : BitVec 10) (va : BitVec 10) (p : BitVec 4) : SlotReq :=
  { slot := .v, mask := m, eff := fun e =>
      let size := vecSize ty.toNat
      let ps := e.preds size 64 p.toNat
      let rs := (e.elems 4 64 va.toNat).map fun u =>
        vexp u (vecFmt e.c.fmt ty.toNat) (vecScale e.c.fmt ty.toNat) (fmtVrnd e.c.fmt) (fmtSat e.c.fmt)
      { illegal := f8Illegal e ty.toNat
        vreads := vRead va.toNat
        pends := [(vecPend vd.toNat 6 (lanesFor size ps ||| ~~~(laneMask 0 (64 * size))) (vecOf size (rs.map (·.1)))).withEvents e
          engVector (maskedEvents ps (rs.map (·.2)))]
        energy := 24 } }

/-- `VEXP` by itself. -/
def execVexp (m : Mask) (ty : BitVec 3) (vd : BitVec 10) (va : BitVec 10) (p : BitVec 4) (s : State) : Host.Outcome State Fault Refusal :=
  issueForm 0 (reqVexp m ty vd va p) s

/-- A copied, merged (R224). -/
def reqVmov (m : Mask) (ty : BitVec 3) (vd : BitVec 10) (va : BitVec 10) (p : BitVec 4) : SlotReq :=
  let size := vecSize ty.toNat
  vMove m vd.toNat 2 8 (vRead va.toNat) (fun e => lanesFor size (e.preds size (256 / size) p.toNat)) fun e =>
    e.s.vsrc e.a e.c size va.toNat

/-- `VMOV` by itself. -/
def execVmov (m : Mask) (ty : BitVec 3) (vd : BitVec 10) (va : BitVec 10) (p : BitVec 4) (s : State) : Host.Outcome State Fault Refusal :=
  issueForm 0 (reqVmov m ty vd va p) s

/-- Element j of A in every element, j from a scalar (R224). -/
def reqVsplat (m : Mask) (ty : BitVec 3) (vd : BitVec 10) (va : BitVec 10) (vb : BitVec 10) (p : BitVec 4) : SlotReq :=
  let size := vecSize ty.toNat
  vMove m vd.toNat 2 8 (vRead va.toNat) (fun e => lanesFor size (e.preds size (256 / size) p.toNat)) fun e =>
    let j := (e.c.readS (vb.toNat - 768)).toNat % (256 / size)
    vecOf size (List.replicate (256 / size) (lane (e.s.vsrc e.a e.c size va.toNat) j size))

/-- `VSPLAT` by itself. -/
def execVsplat (m : Mask) (ty : BitVec 3) (vd : BitVec 10) (va : BitVec 10) (vb : BitVec 10) (p : BitVec 4) (s : State) : Host.Outcome State Fault Refusal :=
  issueForm 0 (reqVsplat m ty vd va vb p) s

/-- Whether some governed element has a bit set (R223). -/
def reqVany (m : Mask) (ty : BitVec 3) (qd : BitVec 5) (va : BitVec 10) (p : BitVec 4) : SlotReq :=
  { slot := .v, mask := m, eff := fun e =>
      let size := vecSize ty.toNat
      let r := (packElems (e.preds size (256 / size) p.toNat) (e.elems size (256 / size) va.toNat)).any (· != 0)
      { vreads := vRead va.toNat, pends := [condPend qd.toNat 2 r], energy := 8 } }

/-- `VANY` by itself. -/
def execVany (m : Mask) (ty : BitVec 3) (qd : BitVec 5) (va : BitVec 10) (p : BitVec 4) (s : State) : Host.Outcome State Fault Refusal :=
  issueForm 0 (reqVany m ty qd va p) s

/-- Addition of log-number words (R99, R227). -/
def reqVlnadd (m : Mask) (ty : BitVec 3) (vd : BitVec 10) (va : BitVec 10) (vb : BitVec 10) (p : BitVec 4) : SlotReq :=
  { slot := .v, mask := m, eff := fun e =>
      let ps := e.preds 4 64 p.toNat
      let rs := List.zipWith vlnadd (e.elems 4 64 va.toNat) (e.elems 4 64 vb.toNat)
      { vreads := vRead va.toNat ++ vRead vb.toNat, pends := [vecResult e vd.toNat (vecSize ty.toNat) 6 ps rs], energy := 24 } }

/-- `VLNADD` by itself. -/
def execVlnadd (m : Mask) (ty : BitVec 3) (vd : BitVec 10) (va : BitVec 10) (vb : BitVec 10) (p : BitVec 4) (s : State) : Host.Outcome State Fault Refusal :=
  issueForm 0 (reqVlnadd m ty vd va vb p) s

end Sys2Proof.Machine
end

