-- ==== Sys2Proof/Machine/Xbar.lean ====
section
/-! DEFINITION. The forms of the X slot, the lane crossbar (08 R231 to R233). Each form has what it asks of the issue of
its bundle (req) and its meaning by itself (exec). -/

namespace Sys2Proof.Machine

/-- A crossbar form whose result takes, at index i of n, the source element that src names (R231, R232). -/
def xReq (m : Mask) (vd va : BitVec 10) (sz : BitVec 2) (src : Nat → Nat → Nat) : SlotReq :=
  { slot := .x, mask := m, eff := fun e =>
      let s := 2 ^ sz.toNat
      let n := 256 / s
      let v := e.s.vsrc e.a e.c s va.toNat
      { vreads := vRead va.toNat
        pends := [vecPend vd.toNat 3 (BitVec.allOnes 256) (vecOf s ((List.range n).map fun i => lane v (src n i) s))]
        energy := 8 } }

/-- The source index whose destination is i under a pattern of n bytes. -/
def permSource (pat : Vec) (n i : Nat) : Nat := ((List.range n).find? fun j => lane pat j 1 == i).getD 0

/-- r[pat[i]] := A[i]; a pattern that is not valid for the size traps (R232, R233). -/
def reqXperm (m : Mask) (vd : BitVec 10) (va : BitVec 10) (k : BitVec 3) (sz : BitVec 2) : SlotReq :=
  { slot := .x, mask := m, eff := fun e =>
      let pat := e.c.readXp k.toNat
      let f := (xReq m vd va sz (permSource pat.1)).eff e
      { f with fault := if pat.2.getLsbD sz.toNat then none
                 else some (issueFault e.a 0x06 (BitVec.ofNat 64 (2 ^ sz.toNat)) 0) } }

/-- `XPERM` by itself. -/
def execXperm (m : Mask) (vd : BitVec 10) (va : BitVec 10) (k : BitVec 3) (sz : BitVec 2) (s : State) : Host.Outcome State Fault Refusal :=
  issueForm 0 (reqXperm m vd va k sz) s

/-- r[i] := A[n - 1 - i] (R232). -/
def reqXrev (m : Mask) (vd : BitVec 10) (va : BitVec 10) (sz : BitVec 2) : SlotReq :=
  xReq m vd va sz fun n i => n - 1 - i

/-- `XREV` by itself. -/
def execXrev (m : Mask) (vd : BitVec 10) (va : BitVec 10) (sz : BitVec 2) (s : State) : Host.Outcome State Fault Refusal :=
  issueForm 0 (reqXrev m vd va sz) s

/-- r[2i] := A[i]; r[2i + 1] := A[n/2 + i] (R232). -/
def reqXzip (m : Mask) (vd : BitVec 10) (va : BitVec 10) (sz : BitVec 2) : SlotReq :=
  xReq m vd va sz fun n i => if i % 2 = 0 then i / 2 else n / 2 + i / 2

/-- `XZIP` by itself. -/
def execXzip (m : Mask) (vd : BitVec 10) (va : BitVec 10) (sz : BitVec 2) (s : State) : Host.Outcome State Fault Refusal :=
  issueForm 0 (reqXzip m vd va sz) s

/-- r[i] := A[2i]; r[n/2 + i] := A[2i + 1] (R232). -/
def reqXunzip (m : Mask) (vd : BitVec 10) (va : BitVec 10) (sz : BitVec 2) : SlotReq :=
  xReq m vd va sz fun n i => if i < n / 2 then 2 * i else 2 * (i - n / 2) + 1

/-- `XUNZIP` by itself. -/
def execXunzip (m : Mask) (vd : BitVec 10) (va : BitVec 10) (sz : BitVec 2) (s : State) : Host.Outcome State Fault Refusal :=
  issueForm 0 (reqXunzip m vd va sz) s

/-- r[i] := A[i - (i mod b)], b = min(2^k, n) (R232). -/
def reqXbcast (m : Mask) (vd : BitVec 10) (va : BitVec 10) (k : BitVec 3) (sz : BitVec 2) : SlotReq :=
  xReq m vd va sz fun n i => i - i % Nat.min (2 ^ k.toNat) n

/-- `XBCAST` by itself. -/
def execXbcast (m : Mask) (vd : BitVec 10) (va : BitVec 10) (k : BitVec 3) (sz : BitVec 2) (s : State) : Host.Outcome State Fault Refusal :=
  issueForm 0 (reqXbcast m vd va k sz) s

/-- r[i] := A[(i + 2^k) mod n] (R232). -/
def reqXslide (m : Mask) (vd : BitVec 10) (va : BitVec 10) (k : BitVec 3) (sz : BitVec 2) : SlotReq :=
  xReq m vd va sz fun n i => (i + 2 ^ k.toNat) % n

/-- `XSLIDE` by itself. -/
def execXslide (m : Mask) (vd : BitVec 10) (va : BitVec 10) (k : BitVec 3) (sz : BitVec 2) (s : State) : Host.Outcome State Fault Refusal :=
  issueForm 0 (reqXslide m vd va k sz) s

/-- r[j*q + i] := A[i*c + j], c = min(2^k, n), q = n / c (R232). -/
def reqXtrn (m : Mask) (vd : BitVec 10) (va : BitVec 10) (k : BitVec 3) (sz : BitVec 2) : SlotReq :=
  xReq m vd va sz fun n x =>
    let c := Nat.min (2 ^ k.toNat) n
    let q := n / c
    x % q * c + x / q

/-- `XTRN` by itself. -/
def execXtrn (m : Mask) (vd : BitVec 10) (va : BitVec 10) (k : BitVec 3) (sz : BitVec 2) (s : State) : Host.Outcome State Fault Refusal :=
  issueForm 0 (reqXtrn m vd va k sz) s

end Sys2Proof.Machine
end

