-- ==== Sys2Proof/Machine/Bundle.lean ====
section
/-! DEFINITION. The issue of a whole bundle: fetching its segment, the repeat group's steps, decoding, and the slots'
requests (05 R113, R121 to R131, 06 R146). -/

namespace Sys2Proof.Machine

/-- What each form asks of the issue of its bundle; none for a system step. -/
def reqOf (i : Instr) : Option SlotReq :=
  match i with
  | .br sh ta tb tc td l1 l2 l3 l4 => some (reqBr sh ta tb tc td l1 l2 l3 l4)
  | .loop chain n e => some (reqLoop chain n e)
  | .loops chain sa e => some (reqLoops chain sa e)
  | .fmtw low mask => some (reqFmtw low mask)
  | .fmts sa => some (reqFmts sa)
  | .sbar w gang b => some (reqSbar w gang b)
  | .wwait w => some (reqWwait w)
  | .trap n => some (reqTrap n)
  | .brk n => some (reqBrk n)
  | .jmp d => some (reqJmp d)
  | .call d => some (reqCall d)
  | .add m sd sa b => some (reqAdd m sd sa b)
  | .sub m sd sa b => some (reqSub m sd sa b)
  | .mul m sd sa b => some (reqMul m sd sa b)
  | .mulh m sd sa b => some (reqMulh m sd sa b)
  | .mulhn m sd sa b => some (reqMulhn m sd sa b)
  | .div m sd sa b => some (reqDiv m sd sa b)
  | .divn m sd sa b => some (reqDivn m sd sa b)
  | .rem m sd sa b => some (reqRem m sd sa b)
  | .remn m sd sa b => some (reqRemn m sd sa b)
  | .and m sd sa b => some (reqAnd m sd sa b)
  | .or m sd sa b => some (reqOr m sd sa b)
  | .xor m sd sa b => some (reqXor m sd sa b)
  | .andn m sd sa b => some (reqAndn m sd sa b)
  | .shl m sd sa b => some (reqShl m sd sa b)
  | .shr m sd sa b => some (reqShr m sd sa b)
  | .sar m sd sa b => some (reqSar m sd sa b)
  | .min m sd sa b => some (reqMin m sd sa b)
  | .minn m sd sa b => some (reqMinn m sd sa b)
  | .max m sd sa b => some (reqMax m sd sa b)
  | .maxn m sd sa b => some (reqMaxn m sd sa b)
  | .clz m sd sa => some (reqClz m sd sa)
  | .popc m sd sa => some (reqPopc m sd sa)
  | .bfx m sd sa b => some (reqBfx m sd sa b)
  | .bfxn m sd sa b => some (reqBfxn m sd sa b)
  | .bfi m sd sa b => some (reqBfi m sd sa b)
  | .li m sd b => some (reqLi m sd b)
  | .sel m sd t sa => some (reqSel m sd t sa)
  | .ceq m qd sa b => some (reqCeq m qd sa b)
  | .cne m qd sa b => some (reqCne m qd sa b)
  | .clt m qd sa b => some (reqClt m qd sa b)
  | .cltn m qd sa b => some (reqCltn m qd sa b)
  | .cle m qd sa b => some (reqCle m qd sa b)
  | .clen m qd sa b => some (reqClen m qd sa b)
  | .qand m qd ta tb => some (reqQand m qd ta tb)
  | .qor m qd ta tb => some (reqQor m qd ta tb)
  | .qxor m qd ta tb => some (reqQxor m qd ta tb)
  | .qget m sd => some (reqQget m sd)
  | .qset m sa => some (reqQset m sa)
  | .sget m sd i => some (reqSget m sd i)
  | .sset m i sa => some (reqSset m i sa)
  | .fadd m sd sa b => some (reqFadd m sd sa b)
  | .fsub m sd sa b => some (reqFsub m sd sa b)
  | .fmul m sd sa b => some (reqFmul m sd sa b)
  | .ffma m sd sa b => some (reqFfma m sd sa b)
  | .fmin m sd sa b => some (reqFmin m sd sa b)
  | .fmax m sd sa b => some (reqFmax m sd sa b)
  | .fclt m qd sa b => some (reqFclt m qd sa b)
  | .fceq m qd sa b => some (reqFceq m qd sa b)
  | .ftoi m sd sa => some (reqFtoi m sd sa)
  | .itof m sd sa => some (reqItof m sd sa)
  | .wjoin m wd wa wb => some (reqWjoin m wd wa wb)
  | .wtos m sd wa => some (reqWtos m sd wa)
  | .stow m wd sa => some (reqStow m wd sa)
  | .ld q sx sz sd a => some (reqLd q sx sz sd a)
  | .st q sz sv a => some (reqSt q sz sv a)
  | .ldp q sx sz sd a => some (reqLdp q sx sz sd a)
  | .stp q sz sv a => some (reqStp q sz sv a)
  | .vld q vr a => some (reqVld q vr a)
  | .vst q vr a => some (reqVst q vr a)
  | .vldp q vr a => some (reqVldp q vr a)
  | .vstp q vr a => some (reqVstp q vr a)
  | .vgathp q vr a => some (reqVgathp q vr a)
  | .vscatp q vr a => some (reqVscatp q vr a)
  | .aadd q sz sv a => some (reqAadd q sz sv a)
  | .amin q sz sv a => some (reqAmin q sz sv a)
  | .aminn q sz sv a => some (reqAminn q sz sv a)
  | .amax q sz sv a => some (reqAmax q sz sv a)
  | .amaxn q sz sv a => some (reqAmaxn q sz sv a)
  | .aswp q sz sv a => some (reqAswp q sz sv a)
  | .acas q sz sv a => some (reqAcas q sz sv a)
  | .afadd q sz sv a => some (reqAfadd q sz sv a)
  | .wcheck q sd => some (reqWcheck q sd)
  | .wall q => some (reqWall q)
  | .swinit q sv a => some (reqSwinit q sv a)
  | .swarr q sv a => some (reqSwarr q sv a)
  | .swwait q sv a => some (reqSwwait q sv a)
  | .swpoll q sd a => some (reqSwpoll q sd a)
  | .llock q sd a => some (reqLlock q sd a)
  | .lunlock q a => some (reqLunlock q a)
  | .rcfence q sv => some (reqRcfence q sv)
  | .xpld q xp a => some (reqXpld q xp a)
  | .launch q sv a => some (reqLaunch q sv a)
  | .pref q a => some (reqPref q a)
  | .btw q vr a => some (reqBtw q vr a)
  | .vadd m ty vd va vb p => some (reqVadd m ty vd va vb p)
  | .vsub m ty vd va vb p => some (reqVsub m ty vd va vb p)
  | .vmul m ty vd va vb p => some (reqVmul m ty vd va vb p)
  | .vfma m ty vd va vb p => some (reqVfma m ty vd va vb p)
  | .vmin m ty vd va vb p => some (reqVmin m ty vd va vb p)
  | .vmax m ty vd va vb p => some (reqVmax m ty vd va vb p)
  | .vminn m ty vd va vb p => some (reqVminn m ty vd va vb p)
  | .vmaxn m ty vd va vb p => some (reqVmaxn m ty vd va vb p)
  | .vand m ty vd va vb p => some (reqVand m ty vd va vb p)
  | .vor m ty vd va vb p => some (reqVor m ty vd va vb p)
  | .vxor m ty vd va vb p => some (reqVxor m ty vd va vb p)
  | .vshl m ty vd va vb p => some (reqVshl m ty vd va vb p)
  | .vshr m ty vd va vb p => some (reqVshr m ty vd va vb p)
  | .vsar m ty vd va vb p => some (reqVsar m ty vd va vb p)
  | .vsel m ty vd va vb p => some (reqVsel m ty vd va vb p)
  | .vsplat m ty vd va vb p => some (reqVsplat m ty vd va vb p)
  | .vlnadd m ty vd va vb p => some (reqVlnadd m ty vd va vb p)
  | .vabs m ty vd va p => some (reqVabs m ty vd va p)
  | .vneg m ty vd va p => some (reqVneg m ty vd va p)
  | .vrsum m ty vd va p => some (reqVrsum m ty vd va p)
  | .vrmax m ty vd va p => some (reqVrmax m ty vd va p)
  | .vlog m ty vd va p => some (reqVlog m ty vd va p)
  | .vexp m ty vd va p => some (reqVexp m ty vd va p)
  | .vmov m ty vd va p => some (reqVmov m ty vd va p)
  | .vceq m ty pd va vb p => some (reqVceq m ty pd va vb p)
  | .vclt m ty pd va vb p => some (reqVclt m ty pd va vb p)
  | .vcle m ty pd va vb p => some (reqVcle m ty pd va vb p)
  | .vcltn m ty pd va vb p => some (reqVcltn m ty pd va vb p)
  | .vcvt m ty vd va st p => some (reqVcvt m ty vd va st p)
  | .vcmpr m ty vd va sc p => some (reqVcmpr m ty vd va sc p)
  | .vexpd m ty vd va sc p => some (reqVexpd m ty vd va sc p)
  | .vany m ty qd va p => some (reqVany m ty qd va p)
  | .xperm m vd va k sz => some (reqXperm m vd va k sz)
  | .xbcast m vd va k sz => some (reqXbcast m vd va k sz)
  | .xslide m vd va k sz => some (reqXslide m vd va k sz)
  | .xtrn m vd va k sz => some (reqXtrn m vd va k sz)
  | .xrev m vd va sz => some (reqXrev m vd va sz)
  | .xzip m vd va sz => some (reqXzip m vd va sz)
  | .xunzip m vd va sz => some (reqXunzip m vd va sz)
  | .tdup m => some (reqTdup m)
  | .tdrop m n => some (reqTdrop m n)
  | .tswap m => some (reqTswap m)
  | .tpick m d => some (reqTpick m d)
  | .trot m n => some (reqTrot m n)
  | .tzero m sp => some (reqTzero m sp)
  | .tinfo m sd d => some (reqTinfo m sd d)
  | .tshape m sp => some (reqTshape m sp)
  | .tscale m k => some (reqTscale m k)
  | .tlds m sp w => some (reqTlds m sp w)
  | .tsts m sp w => some (reqTsts m sp w)
  | .tfromv m v sp => some (reqTfromv m v sp)
  | .ttov m v sp n => some (reqTtov m v sp n)
  | .mwl m pl => some (reqMwl m pl)
  | .mfw m e pl => some (reqMfw m e pl)
  | .mfwa m e pl => some (reqMfwa m e pl)
  | .mbk m e pl => some (reqMbk m e pl)
  | .mbka m e pl => some (reqMbka m e pl)
  | .mwrel m pl => some (reqMwrel m pl)
  | .tadd m => some (reqTadd m)
  | .tsub m => some (reqTsub m)
  | .tmul m => some (reqTmul m)
  | .tmax m => some (reqTmax m)
  | .tmin m => some (reqTmin m)
  | .tfma m => some (reqTfma m)
  | .tcvt m k f => some (reqTcvt m k f)
  | .tact m f => some (reqTact m f)
  | .trsum m => some (reqTrsum m)
  | .tcsum m => some (reqTcsum m)
  | .txp m => some (reqTxp m)
  | .tget m sp w => some (reqTget m sp w)
  | .tsend m sp w => some (reqTsend m sp w)
  | .tsendq m sp w => some (reqTsendq m sp w)
  | .acopy m sp w => some (reqAcopy m sp w)
  | .acopyw m sp w => some (reqAcopyw m sp w)
  | .stash m sp w => some (reqStash m sp w)
  | .restore m sp w => some (reqRestore m sp w)
  | .recomp m sp => some (reqRecomp m sp)
  | .grad m sp w => some (reqGrad m sp w)
  | .coll m op sp w => some (reqColl m op sp w)
  | .lbreak => some reqLbreak
  | .twait => some reqTwait
  | .yield => some reqYield
  | .tret => some reqTret
  | .exit => some reqExit
  | .statf => some reqStatf
  | .ret => some reqRet
  | _ => none

/-- The requests of a bundle's slots in the order C, S, M, V, X, T. -/
def slotReqs (z : Slots) : List SlotReq := [z.c, z.s, z.m, z.v, z.x, z.t].filterMap fun i => i.bind reqOf

/-! ## Repeat groups (R126) -/

/-- A repeat group opens at a context's position: its count and step unit are read once. -/
def State.openGroup (s : State) (a n : Nat) (steps : Unit16) : State :=
  s.onCtx a fun c => { c with rep := some (c.rep.getD ⟨0, n, steps⟩) }

/-! ## The issue of a bundle -/

/-- The slot-mask bits of forms that are illegal at issue under the leaf taken (R85, R130, R131). -/
def lateIllegal (e : Env) (z : Slots) : BitVec 8 :=
  let rs := (slotReqs z)
  let leaf := match rs.find? fun r => r.slot == .c with
    | some r => r.leaf e
    | none => 1
  rs.foldl (fun m r => m ||| maskBit r.slot.bit ((r.slot == .c || r.mask.getLsbD (leaf - 1)) && (r.eff e).illegal)) 0

/-- Decode a bundle with the defects its code units add (bit 7, and the C slot of a repeated bundle), then issue it. -/
def issueWord (e : Env) (w : BundleWord) (lits : List Unit16) (extra : BitVec 8) : State :=
  match decodeBundle w lits with
  | .reserved m => bundleFault e 0x02 m.toNat 0x40
  | .illegal bad z => bundleFault e 0x01 0 (bad ||| extra ||| lateIllegal e z)
  | .ok _ z => if extra = 0 then issueIn e (slotReqs z) else bundleFault e 0x01 0 (extra ||| lateIllegal e z)

/-- The environment of the present bundle of a context with the sequential position after n units. -/
def State.bundleEnv (s : State) (a : Nat) (h : Half) (unit len : Nat) : Option Env := s.env a h (h.after (unit + len))

/-- The issue of the bundle at an item of a segment. A bundle whose code units are defective is still decoded, so that
`RESERVED_MAJOR` comes first and every illegal part is marked (R131). Header bits [3:1] that are not zero make every
item issued from the segment illegal; a count that the segment end does not end shows at the last item that would run
past it (DESIGN CHOICE, log 30). -/
def State.issueItem (s : State) (a : Nat) (c : Ctx) (h : Half) (r : Role) : State :=
  let unit := c.pc.unit
  let hx : BitVec 8 := if h.mbz then 0 else 0x80
  let plain := fun (s : State) =>
    match s.bundleEnv a h unit 1 with
    | none => s
    | some e => bundleFault e 0x01 0 0x80
  let poisoned := fun (idx : Nat) => s.poisoned (btKey a idx) 32
  let machine := fun (s : State) => s.machineEvent a c.pc 0 none 0 0 (seqUnit a)
  match r with
  | .bad _ _ =>
    (match badRef (h.units.drop unit) with
     | none => plain s
     | some b =>
       if poisoned b.1 then machine s
       else match s.bundleEnv a h unit 1 with
         | none => s
         | some e => issueWord e (e.c.bundle b.1) b.2.1 (0x80 ||| maskBit 5 (b.2.2 && (e.c.bundle b.1).slotC.cls != 0)))
  | .segEnd => if h.last || !h.mbz then plain s else s.onCtx a fun c => { c with pc := ⟨h.nextSeg, 0⟩ }
  | .ref idx l =>
    if poisoned idx then machine s
    else match s.bundleEnv a h unit r.len with
      | none => s
      | some e => issueWord e (e.c.bundle idx) ((h.units.drop (unit + 1)).take l) hx
  | .group n st idx l =>
    if poisoned idx then machine s
    else match (s.openGroup a n st).bundleEnv a h unit r.len with
      | none => s
      | some e =>
        let w := stepWord (e.c.bundle idx) ((e.c.rep.map (·.steps)).getD st) e.repK
        let cslot := (e.c.bundle idx).slotC.cls != 0
        issueWord e w.1 ((h.units.drop (unit + 3)).take l) (hx ||| maskBit 7 (!w.2) ||| maskBit 5 cslot)

/-- A trap that is still to be delivered is taken: a `TRAP` or `BRK` whose handler could not be reached before, or a fault
met as the context was saved, which may stand in a repeat group. -/
def State.deliverPending (s : State) (a : Nat) (c : Ctx) (p : TrapInfo × CodePos × W64) : State :=
  s.takeTrap a ⟨p.1, p.2.1, c.pc, p.2.2, s.keptFlags c + c.repFlag + (if c.late then 16 else 0), 0, 0, c.repK⟩ [] false

/-- A context's issue at its position (R146): a stopped, stalled or exited context issues nothing. The fault of a segment
fetch that issue meets past a segment end names no slot (DESIGN CHOICE, log 30). -/
def State.issueAt (s : State) (a : Nat) : State :=
  match s.ctx a with
  | none => s
  | some c =>
    if c.cannotIssue then s
    else match c.pendTrap with
      | some p => s.deliverPending a c p
      | none =>
        if !s.mayIssue c then s
        else if c.dueBad then s.machineEvent a c.pc 0 none 0 0 (seqUnit a)
        else match s.segment a c.pc.seg with
          | .wait => s
          | .fault f =>
            (match s.env a ⟨c.pc.seg, 0, [], 0⟩ c.pc with
             | none => s
             | some e => trapAt e (memFault f))
          | .ok s1 h =>
            match s1.ctx a with
            | none => s1
            | some c1 =>
              if s1.poisoned (lbKey a h.seg) 8 then s1.machineEvent a c.pc 0 none 0 0 (seqUnit a)
              else s1.issueItem a c1 h ((h.item c.pc.unit).getD (badRole (h.units.drop c.pc.unit)))

/-- Whether a context's issue has issued a bundle or taken a trap, and not merely begun a hold or passed a segment end. -/
def State.hasIssued (s s1 : State) (a : Nat) : Bool :=
  match s.ctx a, s1.ctx a with
  | some c, some d => d.issues != c.issues || d.capture != c.capture || d.status != c.status
  | _, _ => true

/-- Whether a context has the issue of its core in the present cycle (R340). -/
def State.hasTurn (s : State) (a : Nat) : Bool :=
  let x := s.coreSt (coreOf a)
  x.chosen == some a && x.issued.any fun t => t.1 == s.cycle

/-- A context is ready when its next bundle can issue now, and it is not passed over (R340): its issue would move it. -/
def State.readyNow (s : State) (a : Nat) : Bool :=
  match s.ctx a with
  | none => false
  | some c =>
    !c.yieldPass && (match (({ s with cur := a } : State).issueAt a).ctx a with
      | none => true
      | some d => d.issues != c.issues || d.pc != c.pc || d.capture != c.capture || d.status != c.status)

/-- The ready contexts of a core, by slot. -/
def State.readyOn (s : State) (core : Nat) : List (Nat × Ctx) :=
  s.ctxs.filter fun e => coreOf e.1 == core && s.readyNow e.1

/-- Another context of its core, by its name, has issued in a reference cycle: a context that was ready counts that cycle
once (R341), and one that is passed over after `YIELD` has seen it issue (R162). -/
def Ctx.sawIssue (c : Ctx) (cid cycle : Nat) (ready : Bool) : Ctx :=
  { c with
    yieldSeen := if c.yieldPass then cid :: c.yieldSeen else c.yieldSeen
    waitCount := if ready && c.waitAt != cycle + 1 then c.waitCount + 1 else c.waitCount
    waitAt := if ready then cycle + 1 else c.waitAt }

/-- The other contexts of a core see a context of it issue; ready are those that could have. -/
def State.seenIssue (s : State) (a cid : Nat) (ready : List Nat) : State :=
  { s with ctxs := s.ctxs.map fun e =>
      if coreOf e.1 == coreOf a && e.1 != a then (e.1, e.2.sawIssue cid s.cycle (ready.contains e.1)) else e }

/-- `BUNDLE_ISSUE` (R146): the context that has the issue of its core's cycle issues one bundle (R340). Any other may
look at its bundle and begin its hold, and no more. -/
def execBundleIssue (a : Nat) (s : State) : Host.Outcome State Fault Refusal :=
  let s1 := ({ s with cur := a } : State).issueAt a
  if !s.hasIssued s1 a then .next s1
  else if s.hasTurn a then
    .next ((s1.onCore (coreOf a) fun x => { x with chosen := none }).seenIssue a (((s.ctx a).map (·.cid)).getD 0)
      ((s.readyOn (coreOf a)).map (·.1)))
  else .next s

/-- `REPEAT_PREFIX` (R126): the current context opens its repeat group; the group's bundle then issues n times. -/
def execRepeatPrefix (c : BitVec 8) (s : State) : Host.Outcome State Fault Refusal :=
  match s.ctx s.cur with
  | none => .fault .noIssuer
  | some x =>
    if x.status != .running then .fault .noIssuer
    else match s.segment s.cur x.pc.seg with
      | .ok s1 h =>
        (match h.item x.pc.unit with
         | some (.group _ st _ _) => .next (s1.openGroup s.cur (c.toNat + 1) st)
         | _ => execBundleIssue s.cur s)
      | _ => execBundleIssue s.cur s

/-- `HELD_BUNDLE_RELEASE` (R136, R157): a held bundle is looked at again, and issues once its condition holds. -/
def execHeldBundleRelease (a : Nat) (s : State) : Host.Outcome State Fault Refusal :=
  match s.ctx a with
  | none => .next s
  | some c => if c.held then execBundleIssue a s else .next s

/-- `SEGMENT_PREFETCH` (R128): the segment that follows the one being issued comes into the free half; a fault it meets
is raised only when the segment is needed (R127). -/
def execSegmentPrefetch (a : Nat) (s : State) : Host.Outcome State Fault Refusal :=
  match s.ctx a with
  | none => .next s
  | some c =>
    match c.halves.find? fun h => h.seg == c.pc.seg with
    | none => .next s
    | some h =>
      if h.last || c.halves.any fun x => x.seg == h.nextSeg then .next s
      else match s.fetchSeg c.pd.toNat h.nextSeg with
        | .ok s1 x => .next ((s1.clearKey (lbKey a h.nextSeg)).onCtx a fun c => { c with halves := [h, x] })
        | _ => .next s

/-- `RESULT_LANDING` (R132): the results that are due at a context's tick land, once each has its value. -/
def execResultLanding (a : Nat) (s : State) : Host.Outcome State Fault Refusal :=
  match s.ctx a with
  | none => .next s
  | some c =>
    .next (if !c.dueReady then s
      else if c.dueBad then (if c.status == .running then s.machineEvent a c.pc 0 none 0 0 (seqUnit a) else s)
      else s.landDue a)

end Sys2Proof.Machine
end

