-- ==== Sys2Proof/Machine/Firmware.lean ====
section
/-! DEFINITION. What the firmware does for a domain: its page tables, the invalidation of narrowed mappings, the entries
it puts in force (17 R354 to R358, 21 R406), and the names of accesses, tasks and contexts that the events share. -/

namespace Sys2Proof.Machine

/-! ## The pool of tables -/

/-- Whether a page of 4 KiB is left in the firmware's pool. -/
def State.poolLeft (s : State) : Bool := !s.poolFree.isEmpty || decide (s.poolPtr + 4096 ≤ Config.firmwarePoolEnd)

/-- Take a zeroed page of 4 KiB. -/
def State.poolTake (s : State) : State × Nat :=
  match s.poolFree with
  | p :: r => (({ s with poolFree := r } : State).fwWrite p (List.replicate 4096 0), p)
  | [] => (({ s with poolPtr := s.poolPtr + 4096 } : State).fwWrite s.poolPtr (List.replicate 4096 0), s.poolPtr)

/-- Give a page back. -/
def State.poolGive (s : State) (p : Nat) : State := { s with poolFree := p :: s.poolFree }

/-! ## Entries -/

/-- An entry of a table, read by the firmware. -/
def State.entryAt (s : State) (pa : Nat) : W64 := BitVec.ofNat 64 (s.fwNat pa 8)

/-- Whether an entry names a further table. -/
def isTable (e : W64) : Bool := e.getLsbD 0 && !e.getLsbD 1

/-- The physical address an entry names. -/
def entryPa (e : W64) : Nat := (e.extractLsb' 8 48).toNat * 256

/-- The tables missing on the path to an entry of a level (R406). -/
def State.tablesMissing (s : State) (va level table : Nat) (levels : List (Nat × Nat × Nat)) : Nat :=
  match levels with
  | [] => 0
  | (lv, lo, bits) :: r =>
    if lv ≤ level then 0
    else
      let e := s.entryAt (entryAddr table va lo bits)
      if isTable e then s.tablesMissing va level (entryPa e) r else lv - level

/-- The invalidation of R358: every line of the domain that holds one of n pages of 64 KiB from page p is written back,
then dropped from L2 and L1. -/
def State.invalidate (s : State) (dom p n : Nat) : State :=
  let inRange := fun (maps : AL PLeaf) => maps.any fun e => decide (p ≤ e.1) && decide (e.1 < p + n)
  let tags : List Tag := (s.l2.filter fun l => l.dom == dom && inRange l.maps).map fun l => ⟨l.dom, l.id, l.coords⟩
  let s1 := tags.foldl (fun s t => s.dropLine t) s
  { s1 with l1 := s1.l1.filter fun l => !(l.dom == dom && inRange l.maps) }

/-- The address of the entry of a level for va, the missing tables on its path made, zeroed; one
that takes the place of a larger leaf narrows its mapping (log 22). -/
def State.pathTo (s : State) (dom va level table : Nat) (levels : List (Nat × Nat × Nat)) : State × Nat :=
  match levels with
  | [] => (s, table)
  | (lv, lo, bits) :: r =>
    let pa := entryAddr table va lo bits
    if lv ≤ level then (s, pa)
    else
      let e := s.entryAt pa
      if isTable e then s.pathTo dom va level (entryPa e) r
      else
        let t := s.poolTake
        let s1 := t.1.fwWrite pa (natLe 8 (t.2 + 1))
        let s2 := if e.getLsbD 0 then s1.invalidate dom (va / 2 ^ lo * 2 ^ lo / 65536) (2 ^ lo / 65536) else s1
        s2.pathTo dom va level t.2 r

/-- The low bit of the index of a level (Table 17-1). -/
def levelLo (level : Nat) : Nat :=
  match level with
  | 0 => 16
  | 1 => 21
  | 2 => 30
  | 3 => 39
  | _ => 48

/-- The entries of a table of a level. -/
def levelEntries (level : Nat) : Nat := if level = 0 then 32 else 512

/-- Free the tables below an entry of a level, one level after the other. -/
def State.freeTables (s : State) (level : Nat) (e : W64) : State :=
  match level with
  | 0 => s
  | lv + 1 =>
    if isTable e then
      let t := entryPa e
      ((List.range (levelEntries lv)).foldl (fun s i => s.freeTables lv (s.entryAt (t + 8 * i))) s).poolGive t
    else s

/-- A leaf of device memory, readable and writable, under the transparent policy. -/
def leafRw (pa : Nat) : Nat := pa + 15

/-- The entries of a domain's record table: 64 leaves of 2 MiB, readable, writable, transparent (R324, log 37). -/
def recLeaves (dom : Nat) : List Byte :=
  (List.range 64).flatMap fun i => natLe 8 (leafRw (Config.recordTables + dom * 2 ^ 27 + i * 2 ^ 21))

/-- The root table of a domain, made at its first use, with the domain's record table mapped in it. -/
def State.rootOf (s : State) (dom : Nat) : State × Nat :=
  if (s.domOf dom).root ≠ 0 then (s, (s.domOf dom).root)
  else
    let t := s.poolTake
    let s1 : State := { t.1 with doms := AL.put t.1.doms dom { s.domOf dom with root := t.2 } }
    let p := s1.pathTo dom (s.domOf dom).recBase 1 t.2 walkLevels
    (p.1.fwWrite p.2 (recLeaves dom), t.2)

/-- Put an entry in force for va at a level, with the invalidation that a narrowed mapping needs; the entry it replaces
(R358, R406). -/
def State.putEntry (s : State) (dom level va : Nat) (e : W64) : State × W64 :=
  let r := s.rootOf dom
  let p := r.1.pathTo dom va level r.2 walkLevels
  let old := p.1.entryAt p.2
  let s1 := p.1.fwWrite p.2 (natLe 8 e.toNat)
  let lo := levelLo level
  let s2 := if old.getLsbD 0 then s1.invalidate dom (va / 2 ^ lo * 2 ^ lo / 65536) (2 ^ lo / 65536) else s1
  (if isTable old then s2.freeTables level old else s2, old)

/-- Whether the pool has room for the tables that a change of an entry makes, those of the record table among them in a
domain that has none yet. -/
def State.pathRoom (s : State) (dom level va : Nat) : Bool :=
  let root := (s.domOf dom).root
  let need := if root = 0 then 8 - level else s.tablesMissing va level root walkLevels
  decide (need ≤ s.poolFree.length + (Config.firmwarePoolEnd - s.poolPtr) / 4096)

/-- Every entry on its way into force is put in force. -/
def State.settleMoves (s : State) : State :=
  s.backing.foldl (fun (s : State) b => (s.putEntry b.1 b.2.1 b.2.2.1 b.2.2.2).1) { s with backing := [] }

/-- Map one page of 64 KiB of device memory under a policy: false transparent, true delivered. -/
def State.mapPage (s : State) (dom va pa : Nat) (r w x policy : Bool) : State :=
  (s.putEntry dom 0 va (BitVec.ofNat 64 (pa + 3 + (if r then 4 else 0) + (if w then 8 else 0) + (if x then 16 else 0) +
    (if policy then 32 else 0)))).1

/-! ## Names shared by the events -/

/-- The access with a number. -/
def State.acc (s : State) (i : Nat) : Option Access := s.accs.find? fun x => x.id == i

/-- Change an access. -/
def State.onAcc (s : State) (i : Nat) (f : Access → Access) : State :=
  { s with accs := s.accs.map fun x => if x.id == i then f x else x }

/-- An access leaves the list. -/
def State.dropAccess (s : State) (i : Nat) : State := { s with accs := s.accs.filter fun x => x.id != i }

/-- The context of an access, while it holds its slot. -/
def State.ctxOf (s : State) (agent cid : Nat) : Option Ctx := (s.ctx agent).filter fun c => c.cid == cid

/-- A store of a context that has exited faults: its task completes with status class 2 (R349). -/
def State.noteStoreFault (s : State) (cid : Nat) : State :=
  match s.instOfCid cid with
  | some g => s.onTask g.task fun t => { t with storeFault := true }
  | none => s

end Sys2Proof.Machine
end

