-- ==== Sys2Proof/Machine/EvMem.lean ====
section
/-! DEFINITION. The steps of the memory system (07 R184, R191 to R212, 13 R309 to R316, 17 R356, R357, 19 R380, R381):
accesses that have been issued are performed, become visible or fault; epochs, the slot wheel and the sweep advance. -/

namespace Sys2Proof.Machine

/-! ## The places of an access -/

/-- The accesses issued before one. -/
def State.before (s : State) (x : Access) : List Access := s.accs.takeWhile fun y => y.id != x.id

/-- Whether every earlier access of the context to the same place has been performed (R311). -/
def State.inOrder (s : State) (x : Access) : Bool :=
  (s.before x).all fun y => !(y.cid == x.cid && y.level == 0 && !y.kept && y.meets x)

/-- The floor of an access, that of its context at its issue (R316), whether or not the context still holds its slot. -/
def State.accFloor (s : State) (x : Access) : List W64 := if s.closedOf x.dom 4 ≤ x.floorEp + 2 ^ 20 then [x.floor] else []

/-- The witness inputs of an access. -/
def State.accWits (s : State) (x : Access) : List W64 := x.wit :: s.accFloor x

/-- Whether every access that `TRET` let go on before one has been performed: those go in issue order (R184). -/
def State.inTurn (s : State) (x : Access) : Bool :=
  !x.redo || (s.before x).all fun y => !(y.cid == x.cid && y.redo && y.level == 0 && !y.kept)

/-- Whether an access may be attempted: issued, not performed, not kept, in its order, its witness input satisfied. -/
def State.mayTry (s : State) (x : Access) : Bool :=
  x.level == 0 && !x.kept && s.inOrder x && s.inTurn x &&
    (match x.kind with
     | .swarr => true
     | _ => s.accSat x)

/-! ## Reading -/

/-- A value sign-extended from n bytes to 64 bits. -/
def signExtendTo (n v : Nat) : Nat := wrapNat 64 (sextNat (8 * n) v)

/-- The value of bytes read in parts, each at its first byte lane. -/
def lanesValue (l : List (Nat × List Byte)) : Nat := (l.map fun e => leNat e.2 * 2 ^ (8 * e.1)).foldl (· + ·) 0

/-- The validity mask of a crossbar pattern (R211). -/
def patternMask (bs : List Byte) : BitVec 4 :=
  let ok := fun (s : Nat) =>
    let p := (bs.take (256 / s)).map (·.toNat)
    p.all (fun b => decide (b < 256 / s)) && (List.range (256 / s)).all fun j => p.contains j
  BitVec.ofNat 4 ((if ok 1 then 1 else 0) + (if ok 2 then 2 else 0) + (if ok 4 then 4 else 0) + (if ok 8 then 8 else 0))

/-- The status of `LLOCK` and the locks it leaves (R209). -/
def State.lockLine (s : State) (t : Tag) (cid : Nat) (dev : Bool) : State × Nat :=
  let holds := fun (l : L2Line) => l.locks.contains cid
  match s.l2Line t with
  | none => (s, 4)
  | some l =>
    if !dev then (s, 4)
    else if holds l then (s, 1)
    else if (s.l2.filter holds).length ≥ 64 then (s, 2)
    else if l.locks.isEmpty &&
        (s.l2.filter fun m => !m.locks.isEmpty && (⟨m.dom, m.id, m.coords⟩ : Tag).home == t.home).length ≥ 1024 then (s, 3)
    else (s.l2Set t fun m => { m with locks := cid :: m.locks }, 0)

/-- A read of a context's access in the scratchpad (R58, R194, R195). -/
def State.readSp (s : State) (x : Access) : Res Nat :=
  match x.parts.findSome? fun p => s.spPoison p.1 p.2.2 with
  | some f => .fault f
  | none => .ok s (lanesValue (x.parts.map fun p => (p.2.1, s.memBytes p.1 p.2.2)))

/-- A read of a context's access in global memory: by way of L1 when plain, else at the home (R193, R315). A line filled
for it takes the access's priority (R185). -/
def State.readGlobal (s : State) (x : Access) (p : Perm) (dev : Bool) : Res (List Byte) :=
  let t := flatTag x.dom x.va
  let ps := [(x.va, x.size)]
  match (if x.ord = 0 ∧ !dev then s.readPlain false x.core t (s.accWits x) (x.evict != 0) ps
    else s.readPast false none t (s.accWits x) p dev ps) with
  | .fault f => .fault f
  | .wait => .wait
  | .ok s1 bs => .ok (if (s.l2Line t).isNone then s1.setPrio t x.evict else s1) bs

/-- What an access that only reads gives: the value that lands, and a pattern's mask. -/
def State.performRead (s : State) (x : Access) : Res (Vec × BitVec 4) :=
  match x.kind with
  | .load =>
    let fin := fun (v : Nat) => BitVec.ofNat 2048 (if x.sx then signExtendTo x.size v else v)
    if x.sp then
      match s.readSp x with
      | .ok s1 v => .ok s1 (fin v, 0)
      | .wait => .wait
      | .fault f => .fault f
    else match s.readGlobal x .read false with
      | .ok s1 bs => .ok s1 (fin (leNat bs), 0)
      | .wait => .wait
      | .fault f => .fault f
  | .xpld =>
    (match s.readGlobal x .read false with
     | .ok s1 bs => .ok s1 (vecOfBytes bs, patternMask bs)
     | .wait => .wait
     | .fault f => .fault f)
  | .swpoll =>
    let fin := fun (bs : List Byte) => BitVec.ofNat 2048 (fieldAt bs 8 4 * 2 ^ 32 + fieldAt bs 4 4)
    if x.sp then
      match s.readSp x with
      | .ok s1 v => .ok s1 (fin (natLe 32 v), 0)
      | .wait => .wait
      | .fault f => .fault f
    else (match s.readGlobal x .sync true with
     | .ok s1 bs => .ok s1 (fin bs, 0)
     | .wait => .wait
     | .fault f => .fault f)
  | .llock =>
    (match s.translate (flatTag x.dom x.va) x.va .read false with
     | .ok s1 l =>
       let r := s1.lockLine (flatTag x.dom x.va) x.cid (l.target == 0)
       .ok r.1 (BitVec.ofNat 2048 r.2, 0)
     | .wait => .wait
     | .fault f => .fault f)
  | .lunlock =>
    .ok (s.l2Set (flatTag x.dom x.va) fun m => { m with locks := m.locks.filter (· != x.cid) }) (0, 0)
  | _ => .wait

/-! ## Writing -/

/-- The bytes that a part of a store writes: those of its lanes that are true. -/
def Access.writes (x : Access) (key lane n : Nat) : List (Nat × Byte) :=
  (List.range n).filterMap fun i =>
    if x.lanes.getLsbD (lane + i) then some (key + i, x.data.extractLsb' (8 * (lane + i)) 8) else none

/-- The new value of an atomic and its events (Table 7-5, R197, R198): old value x, operand v, replacement v2. -/
def atomicNew (op n : Nat) (fmt : W64) (x v v2 : Nat) : Nat × Nat :=
  let m := 2 ^ (8 * n)
  let sx := sextNat (8 * n) x
  let sv := sextNat (8 * n) (v % m)
  match op with
  | 0 => ((x + v) % m, 0)
  | 1 => (if sv < sx then v % m else x, 0)
  | 2 => (Nat.min x (v % m), 0)
  | 3 => (if sx < sv then v % m else x, 0)
  | 4 => (Nat.max x (v % m), 0)
  | 5 => (v % m, 0)
  | 6 => (if x = v % m then v2 % m else x, 0)
  | _ =>
    let a := NFmt.f32.decode x 0 (fmtFlush fmt)
    let b := NFmt.f32.decode (v % m) 0 (fmtFlush fmt)
    let r := NFmt.f32.finish 0 (fmtVrnd fmt) false [a.1, b.1] (FVal.add (fmtVrnd fmt) a.1 b.1)
    (r.1, r.2 ||| (if a.2 || b.2 then ev 6 else 0))

/-- Whether an atomic writes: an `ACAS` whose comparison fails leaves memory unchanged (R197). -/
def atomicStores (op n x v : Nat) : Bool := op != 6 || x == v % 2 ^ (8 * n)

/-- The write of a statistics record (R110, R111): what the 32 bytes of the header say, and the writes to make. Records
dropped before it at a full queue are counted with it (R343). -/
def statWrites (hdr : List Byte) (va : Nat) (r : StatRec) (lost : Nat) : List (Nat × List Byte) :=
  let wr := fieldAt hdr 12 4
  let rd := fieldAt hdr 16 4
  let cap := fieldAt hdr 8 4
  let lose := fun (n : Nat) => (va + 20, natLe 4 (Nat.min (fieldAt hdr 20 4 + n) (2 ^ 32 - 1)))
  if fieldAt hdr 0 8 % 16 ≠ 0 ∨ (wr + 2 ^ 32 - rd) % 2 ^ 32 ≥ cap then
    [lose (lost + 1)]
  else
    [(fieldAt hdr 0 8 + 16 * (wr % cap),
      natLe 8 r.pos.toWord.toNat ++ natLe 1 r.eng.toNat ++ natLe 1 r.code ++ natLe 2 0 ++ natLe 4 r.count),
     (va + 12, natLe 4 ((wr + 1) % 2 ^ 32))] ++ (if lost = 0 then [] else [lose lost])

/-- Writes in order; the first that cannot be made stops them all. -/
def State.writeAll (s : State) (dom : Nat) (l : List (Nat × List Byte)) : Res Unit :=
  match l with
  | [] => .ok s ()
  | w :: r =>
    match s.writeFlat dom w.1 w.2 with
    | .ok s1 _ => s1.writeAll dom r
    | .wait => .wait
    | .fault f => .fault f

/-- What an access that writes does: the level its bytes then have, the value that lands, the events it met, and the
access with the lines it wrote. -/
structure Wrote where
  level : Nat
  val   : Vec
  evs   : Nat
  acc   : Access

/-- The level that a write performed on a page has: host memory and peer windows hold it at every scope (Table 13-2). -/
def PLeaf.level (l : PLeaf) : Nat := if l.target = 0 then 3 else 5

/-- An access that writes is performed: a store, an atomic, `SWINIT`, a statistics record. -/
def State.performWrite (s : State) (x : Access) : Res Wrote :=
  match x.kind with
  | .store =>
    if x.sp then
      let ws := x.parts.flatMap fun p => x.writes p.1 p.2.1 p.2.2
      .ok ((s.clearPoison (ws.map (·.1))).memWrite ws) ⟨5, 0, 0, x⟩
    else match s.translate (flatTag x.dom x.va) x.va .write false with
      | .ok s1 l =>
        .ok ((s1.writeHome (flatTag x.dom x.va) l (x.writes (l.key x.va) 0 x.size)).setPrio (flatTag x.dom x.va) x.evict)
          ⟨l.level, 0, 0, x⟩
      | .wait => .wait
      | .fault f => .fault f
  | .atomic op =>
    let go := fun (old : Nat) =>
      let r := atomicNew op x.size x.fmt old x.data.toNat x.data2.toNat
      (natLe x.size r.1, r.2)
    let ws := fun (k old : Nat) => if atomicStores op x.size old x.data.toNat then zipIdxBytes k (go old).1 else []
    if x.sp then
      match s.readSp x with
      | .ok s1 old =>
        .ok (s1.memWrite (ws ((x.parts.head?.map (·.1)).getD 0) old)) ⟨5, BitVec.ofNat 2048 old, (go old).2, x⟩
      | .wait => .wait
      | .fault f => .fault f
    else match s.readGlobal x .both true with
      | .ok s1 bs =>
        (match s1.translate (flatTag x.dom x.va) x.va .both true with
         | .ok s2 l =>
           .ok ((s2.writeHome (flatTag x.dom x.va) l (ws (l.key x.va) (leNat bs))).setPrio (flatTag x.dom x.va) x.evict)
             ⟨3, BitVec.ofNat 2048 (leNat bs), (go (leNat bs)).2, x⟩
         | .wait => .wait
         | .fault f => .fault f)
      | .wait => .wait
      | .fault f => .fault f
  | .stat r lost =>
    (match s.readFlat x.dom .read (s.accWits x) x.va 32 with
     | .ok s1 hdr =>
       let ws := statWrites hdr x.va r lost
       (match s1.writeAll x.dom ws with
        | .ok s2 _ => .ok s2 ⟨s2.wroteLevel (ws.map fun w => flatTag x.dom w.1), 0, 0, { x with parts := ws.map fun w => (w.1, 0, w.2.length) }⟩
        | .wait => .wait
        | .fault f => .fault f)
     | .wait => .wait
     | .fault f => .fault f)
  | _ => .wait

/-! ## Sync words (R202 to R208) -/

/-- An arrival of b bytes with witness m at the 32 bytes of a sync word: the word after, and the witness it releases. -/
def arriveWord (bs : List Byte) (b : Nat) (m : W64) : List Byte × Option W64 :=
  let target := fieldAt bs 0 4
  let merged := witMerge (BitVec.ofNat 64 (fieldAt bs 16 8)) m
  let count := fieldAt bs 4 4 + b
  let gen := fieldAt bs 8 4
  let over0 := fieldAt bs 12 4 % 2
  let word := fun (count gen flag : Nat) (w : W64) =>
    putBytes bs 4 (natLe 4 count ++ natLe 4 gen ++ natLe 4 flag ++ natLe 8 w.toNat)
  if count ≥ target then
    let c1 := count - target
    let f1 := if c1 ≥ target ∨ c1 > 2 ^ 32 - 1 then 1 else over0
    (word (Nat.min c1 (2 ^ 32 - 1)) ((gen + 1) % 2 ^ 32) f1 0, some merged)
  else (word count gen over0 merged, none)

/-- The word that `SWINIT` writes (R205). -/
def initWord (sv : W64) : List Byte :=
  natLe 4 (sv.toNat % 2 ^ 32) ++ natLe 4 0 ++ natLe 4 (sv.toNat / 2 ^ 32) ++ natLe 4 0 ++ natLe 8 0 ++ natLe 8 0

/-- The bytes of a sync word that the K4 writes: all of them at `SWINIT` (R205); an arrival changes count, gen, flags and
merged, and never writes target or the bytes past [16:24) (Table 7-6). -/
def syncWrites (va : Nat) (whole : Bool) (bs : List Byte) : List (Nat × Byte) :=
  if whole then zipIdxBytes va bs else zipIdxBytes (va + 4) (sliceBytes bs 4 20)

/-- A change of a sync word at its home or bank, read under floors (R316): its key, the bytes it held, and the state
after. A change that writes the whole word reads nothing of it, so that poison does not stop it (R381). -/
def State.syncUpdate (s : State) (tr : Bool) (dom : Nat) (sp : Bool) (va : Nat) (ws : List W64) (whole : Bool)
    (f : List Byte → List Byte) : Res (Nat × List Byte) :=
  if sp then
    match (if whole then none else s.spPoison va 32) with
    | some e => .fault e
    | none =>
      let bs := s.memBytes va 32
      let ws := syncWrites va whole (f bs)
      .ok ((s.clearPoison (ws.map (·.1))).memWrite ws) (va, bs)
  else
    let t := flatTag dom va
    match s.trans tr t va .both true with
    | .fault e => .fault e
    | .wait => .wait
    | .ok s1 l =>
      if whole then .ok (s1.writeHome t l (syncWrites (l.key va) true (f []))) (l.key va, [])
      else match s1.readHome t ws [(l, va, 32)] with
        | .fault e => .fault e
        | .wait => .wait
        | .ok s2 bs => .ok (s2.writeHome t l (syncWrites (l.key va) false (f bs))) (l.key va, bs)

/-- Every waiter held on a word is released with the merged witness (R204, R207). -/
def State.releaseWaiters (s : State) (key : Nat) (m : W64) : State :=
  { s with ctxs := s.ctxs.map fun e =>
      match e.2.swWait with
      | some w => if w.1 == key then (e.1, { e.2 with swWait := none, swRel := some m }) else e
      | none => e }

/-- After an `SWINIT`, waiters whose value differs from the new generation are released (R205, R207). -/
def State.initWaiters (s : State) (key : Nat) (gen : BitVec 32) : State :=
  { s with ctxs := s.ctxs.map fun e =>
      match e.2.swWait with
      | some w =>
        if w.1 == key && w.2 != gen then
          (e.1, { e.2 with swWait := none, swRel := some (mkWit 2 4 e.2.pd.toNat (s.epoch % 2 ^ 22) 0 0) })
        else e
      | none => e }

/-! ## Clock steps (R345) -/

/-- The net step count of a span: the sum of what the gang instances have earned. -/
def State.netSteps (s : State) (span : Nat) : Int := (s.insts.map fun g => AL.get 0 g.steps span).foldl (· + ·) 0

/-- A barrier event moves one step from the first arriver's span to the last arriver's. Whether the predicted power
allows it is a free value (log 19). -/
def State.steer (s : State) (task inst gain lose : Nat) : State :=
  if gain = lose ∨ s.netSteps gain ≥ 5 ∨ s.netSteps lose ≤ -5 then s
  else
    let s1 := { s with choices := s.choices + 1 }
    if Config.powerAllows s.choices then
      s1.onInst task inst fun g =>
        let a := AL.set 0 g.steps gain (AL.get 0 g.steps gain + 1)
        { g with steps := AL.set 0 a lose (AL.get 0 a lose - 1) }
    else s1

/-- The span on which a context of an instance is, or was last. -/
def State.spanOfCid (s : State) (task inst cid : Nat) : Option Nat :=
  (s.inst task inst).bind fun g => (g.members.find? fun m => m.cid == cid).map fun m => spanOf m.agent

/-- The clock step of a barrier event, between the spans on which the last and the first arriver are as it comes (R345). -/
def State.steerBy (s : State) (task inst last first : Nat) : State :=
  match s.spanOfCid task inst last, s.spanOfCid task inst first with
  | some l, some f => s.steer task inst l f
  | _, _ => s

/-- The first arrival of a word's generation, and whether the arrivals stay within one instance (R345). -/
def State.noteArrival (s : State) (key : Nat) (src : Option (Nat × Nat × Nat)) : State :=
  match s.swFirst.find? fun e => e.1 == key with
  | none => { s with swFirst := (key, src) :: s.swFirst }
  | some e =>
    let same := match e.2, src with
      | some x, some y => x.1 == y.1 && x.2.1 == y.2.1
      | _, _ => false
    if same then s else { s with swFirst := s.swFirst.map fun e => if e.1 == key then (key, none) else e }

/-- The generation of a word has advanced: its arrivals are forgotten, and the clock steps are made. -/
def State.advanceSteps (s : State) (key : Nat) (src : Option (Nat × Nat × Nat)) : State :=
  let s1 := { s with swFirst := s.swFirst.filter fun e => e.1 != key }
  match s.swFirst.find? fun e => e.1 == key, src with
  | some (_, some x), some y => s1.steerBy y.1 y.2.1 y.2.2 x.2.2
  | _, _ => s1

/-- An arrival is made at a sync word (R204). -/
def State.arriveAt (s : State) (tr : Bool) (dom : Nat) (sp : Bool) (va b : Nat) (ws : List W64) (m : W64)
    (src : Option (Nat × Nat × Nat)) : Res Unit :=
  match s.syncUpdate tr dom sp va ws false fun bs => (arriveWord bs b m).1 with
  | .fault f => .fault f
  | .wait => .wait
  | .ok s1 r =>
    let s2 := if sp then s1 else s1.noteArrival r.1 src
    match (arriveWord r.2 b m).2 with
    | none => .ok s2 ()
    | some w =>
      let s3 := s2.releaseWaiters r.1 w
      .ok (if sp then s3 else s3.advanceSteps r.1 src) ()

/-! ## Delivered faults of accesses (R184, R191, R378) -/

/-- The slot-mask bit of the M slot. -/
def mSlotBit : BitVec 8 := maskBit Slot.m.bit true

/-- Whether an access stores: its fault after the exit of its context is one of status class 2 (R349). -/
def Access.isStore (x : Access) : Bool :=
  match x.kind with
  | .store => true
  | .atomic _ => true
  | .swinit => true
  | .swarr => true
  | .stat _ _ => true
  | _ => false

/-- An access whose context is no longer there, or has exited, meets a fault: it is not performed, and its form fails. -/
def State.accGone (s : State) (x : Access) : State :=
  let s1 := s.dropAccess x.id
  let s2 := if x.isStore then s1.noteStoreFault x.cid else s1
  match x.seq with
  | some q => s2.formFail x.owner x.dom q
  | none => s2

/-- A `MACHINE` event of a context that has exited, or given up its slot, aborts its instance while that is placed (R375);
later nothing is left to abort. -/
def State.machineLate (s : State) (cid : Nat) (raiser : Option Nat) (r : TrapRec) (gone : State) : State :=
  match (s.instOfCid cid).filter fun g => g.status == .placed with
  | some g => s.abortInst g.task g.num raiser r
  | none => gone

/-- An access reads poisoned data: a `MACHINE` event of its context (R375, R381). -/
def State.machineAcc (s : State) (x : Access) (f : MFault) : State :=
  let late := fun (raiser : Option Nat) => s.machineLate x.cid raiser
    ⟨{ cause := 0x50, aux := 0, faddr := BitVec.ofNat 64 f.faddr, slots := mSlotBit, unit := f.unit }, x.pos, x.pos, x.tick,
      0, 0, 0, 0⟩ (s.accGone x)
  match s.ctxOf x.agent x.cid with
  | some c =>
    if c.status == .running then s.machineEvent x.agent x.pos mSlotBit none 0 f.faddr f.unit else late (some x.agent)
  | none => late none

/-- The packet of a `LAUNCH`: its header unit, then as many units as it names (R212). -/
def State.readPacket (s : State) (x : Access) : Res (List Byte) :=
  match s.readFlat x.dom .read (s.accWits x) x.va 16 with
  | .ok s1 h =>
    let len := fieldAt h 0 1
    s1.readFlat x.dom .read (s.accWits x) x.va (if 2 ≤ len ∧ len ≤ 16 then 16 * len else 16)
  | .wait => .wait
  | .fault f => .fault f

/-- The place of the sync word of an access: its key in a scratchpad, its address in global memory. -/
def Access.word (x : Access) : Nat := (x.parts.head?.map (·.1)).getD 0

/-- An access of a context meets a fault that is delivered. keep says whether the access is kept. The accesses of the
context that are not performed are kept in issue order, the faulting one first. An access of the interrupted stream is
kept while a handler runs and meets its fault after `TRET`, and one of a context that is being saved, with those not yet
performed, meets it as the first act after the resumption (R346); a context that has exited has nothing to trap. While an
operation of the window has a fault to deliver, the unwinding comes first. -/
def State.trapAccess (s : State) (x : Access) (info : TrapInfo) (keep : Bool) : State :=
  match s.ctxOf x.agent x.cid with
  | none => s.accGone x
  | some c =>
    if c.status != .running then s.accGone x
    else if c.opFaulted then s
    else if c.stopped then
      ({ s with accs := s.accs.map fun y => if y.cid == c.cid && y.level == 0 then y.keep else y } : State).onCtx x.agent
        fun c => { c with late := true }
    else if (match c.capture with
        | some k => decide (x.id < k.before)
        | none => false) then s.onAcc x.id Access.keep
    else
      let mark := fun (y : Access) => if y.cid == c.cid && y.level == 0 then y.keep else y
      let s1 : State := if keep then
          { s with accs := ((s.accs.filter fun y => y.id == x.id) ++ s.accs.filter fun y => y.id != x.id).map mark }
        else
          let s2 := (s.dropAccess x.id).onCtx x.agent fun c => c.dropAcc x.id
          { s2 with accs := s2.accs.map mark }
      match s1.ctx x.agent with
      | none => s1
      | some c1 =>
        let r := s1.takeTrap x.agent
          ⟨{ info with slots := mSlotBit }, x.pos, c1.pc, c1.tick,
            s1.keptFlags c1 ||| c1.repFlag ||| (if c1.late then 16 else 0), 0, 0, c1.repK⟩
          [] false
        match r.ctxOf x.agent x.cid with
        | none => r
        | some c2 => if c2.capture.isSome then r else s

/-- The fault that an access meets when it is attempted. -/
def State.accFault (s : State) (x : Access) : Option MFault :=
  match s.performRead x with
  | .fault f => some f
  | .ok _ _ => none
  | .wait =>
    match s.performWrite x with
    | .fault f => some f
    | .ok _ _ => none
    | .wait =>
      match x.kind with
      | .swinit =>
        (match s.syncUpdate false x.dom x.sp x.word [] true id with
         | .fault f => some f
         | _ => none)
      | .swarr =>
        (match s.syncUpdate false x.dom x.sp x.word (s.accFloor x) false id with
         | .fault f => some f
         | _ => none)
      | .launch =>
        (match s.readPacket x with
         | .fault f => some f
         | _ => none)
      | _ => none

/-! ## Steps of accesses -/

/-- The events that an access posts at its landing. -/
def Access.stats (x : Access) (evs : Nat) : List (Nat × Nat) := statsOf (fmtStatmask x.fmt) [evs]

/-- A value arrives for the result of an access (R137). -/
def State.fillAcc (s : State) (x : Access) (val : Vec) (xm : BitVec 4) (st : List (Nat × Nat)) : State :=
  match s.ctxOf x.agent x.cid with
  | some _ => s.onCtx x.agent fun c => c.fill x.id val xm st
  | none => s

/-- An access now has a level: at level 5 it leaves the list and the directory forgets its form. -/
def State.settle (s : State) (x : Access) (lvl : Nat) : State :=
  let s1 := if lvl ≥ 5 then (s.progress (dieOf x.agent)).dropAccess x.id else (s.progress (dieOf x.agent)).onAcc x.id fun y => { x with level := lvl, kept := y.kept }
  match x.seq with
  | some q => s1.formLevel x.owner x.dom q lvl
  | none => s1

/-- An access that only reads is performed and its value arrives. -/
def State.landRead (s : State) (x : Access) : State :=
  match s.performRead x with
  | .ok s1 v => ((s1.progress (dieOf x.agent)).fillAcc x v.1 v.2 []).dropAccess x.id
  | .wait => s
  | .fault f => if f.cause = 0x50 then s.machineAcc x f else s

/-- `SWINIT` is performed (R205). -/
def State.landInit (s : State) (x : Access) : State :=
  match s.syncUpdate false x.dom x.sp x.word [] true fun _ => initWord (x.data.truncate 64) with
  | .ok s1 r =>
    let s2 := s1.initWaiters r.1 (x.data.extractLsb' 32 32)
    ({ s2 with swFirst := s2.swFirst.filter fun e => e.1 != r.1 }).settle x (if x.sp then 5 else 3)
  | _ => s

/-- The packet of a `LAUNCH` is read and placed in the hardware launch queue of its die, while that has room (R212,
R342). -/
def State.landLaunch (s : State) (x : Access) : State :=
  let die := dieOf x.agent
  if (s.launchQ.filter fun p => p.place.isNone && dieOf p.agent == die).length ≥ s.depthOf (launchQueue die) 16 256 then s
  else match s.readPacket x with
    | .ok s1 bs =>
      ({ s1 with launchQ := s1.launchQ ++
        [⟨x.data2.toNat % 64, bs, x.wit, x.dom, x.owner, (x.seq).getD 0, none⟩] } : State).dropAccess x.id
    | .wait => s
    | .fault f => if f.cause = 0x50 then s.machineAcc x f else s

/-- An access that writes is performed at its home or bank (R309). -/
def State.landWrite (s : State) (x : Access) : State :=
  match x.kind with
  | .swinit => s.landInit x
  | .launch => s.landLaunch x
  | _ =>
    match s.performWrite x with
    | .ok s1 w => (s1.fillAcc x w.val 0 (x.stats w.evs)).settle w.acc w.level
    | .wait => s
    | .fault f => if f.cause = 0x50 then s.machineAcc x f else s

/-- An arrival of a context at a sync word is performed (R206). -/
def State.landArrive (s : State) (x : Access) : State :=
  let src := match s.ctxOf x.agent x.cid with
    | some c => some (c.task, c.inst, x.cid)
    | none => (s.instOfCid x.cid).map fun g => (g.task, g.num, x.cid)
  match s.arriveAt false x.dom x.sp x.word (x.data.toNat % 2 ^ 32) (s.accFloor x) x.wit src with
  | .ok s1 _ => s1.settle x (if x.sp then 5 else 3)
  | .wait => s
  | .fault f => if f.cause = 0x50 then s.machineAcc x f else s

/-- The lines of memory that an access has written. -/
def Access.lines (x : Access) : List Tag :=
  match x.kind with
  | .engine ls => ls.map fun l => ⟨x.dom, l.1, l.2⟩
  | _ => if x.sp then [] else x.parts.map fun p => flatTag x.dom p.1

/-- `LOAD_VALUE_ARRIVAL` (R137, R191 to R195, R208, R209, R211). -/
def execLoadValueArrival (i : Nat) (s : State) : Host.Outcome State Fault Refusal :=
  match s.acc i with
  | none => .next s
  | some x => .next (if s.mayTry x && x.ord != 2 then s.landRead x else s)

/-- `STORE_VISIBLE` (R309): at level 3 an access that writes is performed; at level 4 its lines are written to memory; at
level 5 no host copy of them is left. -/
def execStoreVisible (i lvl : Nat) (s : State) : Host.Outcome State Fault Refusal :=
  match s.acc i with
  | none => .next s
  | some x =>
    if lvl = 3 then .next (if s.mayTry x && x.ord != 2 then s.landWrite x else s)
    else if lvl = 4 ∧ x.level = 3 then .next ((x.lines.foldl (fun s t => s.writeBack t) s).settle x 4)
    else if lvl = 5 ∧ x.level = 4 then .next (s.settle x 5)
    else .next s

/-- Whether the statistics queues that a step posts to have room for its records; a unit whose records find none waits
(R342). -/
def State.statFits (s s1 : State) : Bool :=
  s1.ctxs.all fun e => e.2.status == .exited || decide (e.2.statq.length ≤ e.2.statDepth) || decide (4096 ≤ e.2.statDepth) ||
    (s.ctx e.1).any fun c => decide (e.2.statq.length ≤ c.statq.length)

/-- A step of a unit that posts records: made once they find room. -/
def State.whenPosted (s s1 : State) : State := if s.statFits s1 then s1 else s

/-- A statistics record goes to the queue of a context: where it holds its slot, or in its image while it is saved (R50,
R109). One of a context that has retired is dropped (DESIGN CHOICE, log 30). -/
def State.postTo (s : State) (agent cid : Nat) (pos : CodePos) (eng : BitVec 8) (st : List (Nat × Nat)) : State :=
  match s.ctxOf agent cid with
  | some _ => s.onCtx agent fun c => c.post pos eng st
  | none =>
    let put := fun (c : Ctx) => if c.cid == cid then c.post pos eng st else c
    { s with insts := s.insts.map fun g => { g with images := g.images.map put } }

/-- The slot of a context by its name. -/
def State.slotOfCid (s : State) (cid : Nat) : Nat := ((s.ctxs.find? fun e => e.2.cid == cid).map (·.1)).getD 1024

/-- The engine byte of an update unit (Table 4-8): its class, and the low four bits of its slice number, which the byte has
no room for (DESIGN CHOICE, log 30). -/
def engUpdate (slice : Nat) : BitVec 8 := BitVec.ofNat 8 (10 + 16 * (slice % 24 % 16))

/-- An engine's arrival that cannot be made fails its form (R407): a copy and a collective give their task its status,
an update unit posts event 11. -/
def State.arrivalFails (s : State) (r : Arrival) : State :=
  let s1 := if r.detail = 0 then
      s.postTo (s.slotOfCid r.cid) r.cid r.pos (engUpdate (r.agent - 773)) (statsOf (fmtStatmask r.fmt) [ev 11])
    else s.noteFormFault r.cid r.detail
  if r.seq = 0 then s1 else s1.failForm r.agent r.dom r.seq r.epoch 5 r.cid

/-- `SYNC_ARRIVE` (R204, R206): the arrival of an `SWARR`, or of an engine once the bytes it counts are visible (R287). -/
def execSyncArrive (i : Nat) (s : State) : Host.Outcome State Fault Refusal :=
  match s.arrivals.find? fun r => r.id == i with
  | some r =>
    let ready := !r.after || s.forms.all fun f => !(f.isForm r.agent r.dom r.seq) || decide (f.level ≥ scopeLevel f.wscope)
    if !ready then .next s
    else
      let s1 := { s with arrivals := s.arrivals.filter fun y => y.id != i }
      (match s1.arriveAt true r.dom r.sp r.va r.bytes [r.floor] r.wit r.src with
       | .ok s2 _ => .next (if r.sp then s2 else s2.wroteLines r.agent r.cid r.dom 1 none r.pos [flatTag r.dom r.va])
       | .wait => .next s
       | .fault _ => .next (s.whenPosted (s1.arrivalFails r)))
  | none =>
    match s.acc i with
    | none => .next s
    | some x =>
      match x.kind with
      | .swarr => .next (if s.mayTry x then s.landArrive x else s)
      | _ => .next s

/-- `DELIVERED_FAULT` (R184). -/
def execDeliveredFault (i : Nat) (s : State) : Host.Outcome State Fault Refusal :=
  match s.acc i with
  | none => .next s
  | some x =>
    if !s.mayTry x then .next s
    else match s.accFault x with
      | some f => .next (if f.cause = 0x50 then s.machineAcc x f else s.trapAccess x (memFault f) true)
      | none => .next s

/-- `WITNESS_FAILURE_DELIVERY` (R191): the access is not kept, and its destination keeps what it held. -/
def execWitnessFailureDelivery (i : Nat) (s : State) : Host.Outcome State Fault Refusal :=
  match s.acc i with
  | none => .next s
  | some x =>
    if x.level == 0 && !x.kept && (match x.kind with
        | .swarr => false
        | _ => true) && !x.sat && s.witFailed x.wit then
      .next (s.trapAccess x { cause := 0x33, aux := x.wit, unit := seqUnit x.agent } false)
    else .next s

/-! ## Sequential consistency (R199) -/

/-- The reference cycles of the slot wheel: revolution and position as one number. -/
def State.wheelTime (s : State) : Nat := s.rev * 768 + s.wheel

/-- Every context holds its slot for one more reference cycle of the interval (R367). -/
def State.countResid (s : State) : State := { s with resid := (s.ctxs.filter fun e => holdsSlot e.1).foldl countOne s.resid }

/-- Whether the epoch tick of the present reference cycle is still to come: a tick lasts 1,024 cycles (R6). -/
def State.epochDue (s : State) : Bool := decide ((s.epoch + 1) * 1024 ≤ s.cycle)

/-- `WHEEL_ADVANCE`: one position each reference cycle, once what is due in the present one has happened: its epoch tick,
its energy interval, its error records and its sample (R6, R371, R382, R390). -/
def execWheelAdvance (s : State) : Host.Outcome State Fault Refusal :=
  let s1 := s.countResid
  if s.epochDue || s.shareDue || s.errDue || s.sampleDue then .next s
  else .next (if s.wheel + 1 ≥ 768 then { s1 with wheel := 0, rev := s.rev + 1, cycle := s.cycle + 1 }
    else { s1 with wheel := s.wheel + 1, cycle := s.cycle + 1 })

/-- `SC_STAMP`: the first position of the agent at or after the present one, once every earlier store of the context is
visible at package scope. A context has at most one stamp in a revolution; an access kept over a trap is stamped again
(log 31). -/
def execScStamp (i : Nat) (s : State) : Host.Outcome State Fault Refusal :=
  match s.acc i with
  | none => .next s
  | some x =>
    let early := s.before x
    if x.ord = 2 ∧ x.level = 0 ∧ !x.kept ∧ x.stamp.isNone ∧
        (early.all fun y => !(y.cid == x.cid && y.seq.isSome && decide (y.level < 4))) ∧
        (early.all fun y => !(y.cid == x.cid && y.ord == 2 && y.stamp.isNone && y.level == 0)) then
      let t := s.wheelTime
      let d := (x.agent % 768 + 768 - t % 768) % 768
      let used := ((s.ctxOf x.agent x.cid).map fun (c : Ctx) => c.scLast).getD
        ((s.accs.filterMap fun y => if y.cid == x.cid then y.stamp.map (· + 1) else none).foldl Nat.max 0)
      let st := if t + d < used then used + 767 else t + d
      let s1 := s.onAcc i fun y => { y with stamp := some st }
      .next (match s.ctxOf x.agent x.cid with
        | some _ => s1.onCtx x.agent fun c => { c with scLast := st + 1 }
        | none => s1)
    else .next s

/-- `SC_PERFORM`: in stamp order, each 2,048 reference cycles after its stamp. -/
def execScPerform (i : Nat) (s : State) : Host.Outcome State Fault Refusal :=
  match s.acc i with
  | none => .next s
  | some x =>
    match x.stamp with
    | none => .next s
    | some st =>
      let first := s.accs.all fun y => y.level != 0 || y.kept || (match y.stamp with
        | some u => decide (st ≤ u)
        | none => true)
      if s.mayTry x && first && decide (st + 2048 ≤ s.wheelTime) then
        (match x.kind with
         | .load => .next (s.landRead x)
         | _ => .next (s.landWrite x))
      else .next s

/-! ## Epochs and ages (R312, R315) -/

/-- `EPOCH_TICK`: every 1,024 reference cycles (R6). -/
def execEpochTick (s : State) : Host.Outcome State Fault Refusal :=
  .next (if s.epochDue then { s with epoch := s.epoch + 1 } else s)

/-- `EPOCH_CLOSE`: the next epoch of a domain closes at a scope of 4 or 5. A form that has failed is remembered until a
witness that covers it could only be stale. -/
def execEpochClose (dom scope : Nat) (s : State) : Host.Outcome State Fault Refusal :=
  if (scope = 4 ∨ scope = 5) ∧ dom < 64 ∧ s.canClose dom scope then
    .next { s with closed := AL.set 0 s.closed (dom * 2 + (scope - 4)) (s.closedOf dom scope + 1) }
  else .next s

/-- `LINE_AGING_SWEEP`. A stamp counts the epochs closed at the fill, so the last of them is one less (R315). -/
def execLineAgingSweep (s : State) : Host.Outcome State Fault Refusal :=
  .next { s with
    l1 := s.l1.map fun l => if l.stamp + 2 ^ 20 ≤ s.epoch + 1 then { l with aged := true } else l
    l2 := s.l2.map fun l => if l.stamp + 2 ^ 20 ≤ s.epoch + 1 then { l with aged := true } else l }

/-! ## Translation (R356, R357) -/

/-- What an access of the M slot needs of a page, and whether the page must be device memory (R356, R357). -/
def AKind.needs (k : AKind) : Perm × Bool :=
  match k with
  | .store => (.write, false)
  | .atomic _ => (.both, true)
  | .swinit => (.both, true)
  | .swarr => (.both, true)
  | .swpoll => (.sync, true)
  | _ => (.read, false)

/-- Whether something of a domain waits for the line of an address under a leaf that serves it: an access, the segment a
context issues from, an engine's arrival. -/
def State.wantsLine (s : State) (dom va : Nat) (l : PLeaf) : Bool :=
  let here := fun (a : Nat) => a / 2048 == va / 2048
  (s.accs.any fun x => x.level == 0 && !x.kept && !x.sp && x.dom == dom && (x.parts.any fun p => here p.1) &&
    l.gives x.kind.needs.1 && (!x.kind.needs.2 || l.target == 0)) ||
  (s.ctxs.any fun e => e.2.status == .running && e.2.pd.toNat == dom && here e.2.pc.seg &&
    !(e.2.halves.any fun h => h.seg == e.2.pc.seg) && l.x) ||
  s.arrivals.any fun r => !r.sp && r.dom == dom && here r.va && l.gives .both && l.target == 0

/-- The leaf entry on the path to an address: its level and its value. -/
def State.leafEntryFrom (s : State) (va table : Nat) (levels : List (Nat × Nat × Nat)) : Option (Nat × W64) :=
  match levels with
  | [] => none
  | (lv, lo, bits) :: r =>
    let e := s.entryAt (entryAddr table va lo bits)
    if !e.getLsbD 0 then none
    else if e.getLsbD 1 then some (lv, e)
    else s.leafEntryFrom va (entryPa e) r

/-- Whether the loader or the firmware has mapped a page itself: a page of an object or of the record table. -/
def State.ownPage (s : State) (dom va : Nat) : Bool :=
  (s.objs.any fun o => o.dom == dom && o.pages.any fun p => p.1 / 65536 == va / 65536) ||
    (decide ((s.domOf dom).recBase ≤ va) && decide (va < (s.domOf dom).recBase + 2 ^ 27))

/-- The firmware moves the page of an address, or rebuilds a table on its way: the entry that the last mailbox change
installed is out of force, and is backing until it is put in force again (R356). When it does is a free choice (log 22). -/
def State.moveOut (s : State) (dom va : Nat) : State :=
  if s.mcmd.isSome || s.ownPage dom va || (s.domOf dom).root = 0 then s
  else match s.leafEntryFrom va (s.domOf dom).root walkLevels with
    | none => s
    | some (lv, e) =>
      let s1 := (s.putEntry dom lv va (e &&& ~~~(1 : W64))).1
      { s1 with backing := s1.backing ++ [(dom, lv, va, e)] }

/-- `PAGE_WALK`: the walk for something that waits for a line that misses fills it with what the leaf gives, over a link
that is up (R60, R357, R398); or it meets a page that the firmware has just begun to move (R356). -/
def execPageWalk (dom va : Nat) (s : State) : Host.Outcome State Fault Refusal :=
  let t := flatTag dom va
  if va ≥ 2 ^ 57 ∨ ((s.l2Line t).bind fun m => AL.find m.maps (va / 65536)).isSome then .next s
  else match s.walk dom va with
    | .leaf l =>
      if s.linkDown l || !s.wantsLine dom va l then .next s
      else
        let s1 : State := { s with choices := s.choices + 1 }
        if Config.firmwareMoves s.choices then .next (s1.moveOut dom va)
        else .next ((s1.openLine t []).l2Set t fun m => { m with maps := AL.put m.maps (va / 65536) l })
    | _ => .next s

/-- `TRANSPARENT_FAULT_RESOLVE`: an entry on its way into force for the page of an address is put in force. -/
def execTransparentFaultResolve (dom va : Nat) (s : State) : Host.Outcome State Fault Refusal :=
  match s.backing.find? fun b => b.1 == dom && b.2.2.1 / 2 ^ levelLo b.2.1 == va / 2 ^ levelLo b.2.1 with
  | none => .next s
  | some b =>
    let s1 := { s with backing := s.backing.filter (· != b) }
    .next ((s1.putEntry dom b.2.1 b.2.2.1 b.2.2.2).1.invalidate dom
      (b.2.2.1 / 2 ^ levelLo b.2.1 * 2 ^ levelLo b.2.1 / 65536) (2 ^ levelLo b.2.1 / 65536))

/-! ## Record caches (R210, R274, R325) -/

/-- A record comes into the cache of a die from its L2 home, under the floors of the domain's contexts on the die. The
table's pages are resident, so the read meets no fault; bytes that cannot be read make a defective record (log 22). -/
def State.fillRecord (s : State) (die dom id : Nat) : State :=
  if (s.cached die dom id).isSome then s
  else
    let ws := s.ctxs.flatMap fun e => if dieOf e.1 == die && e.2.pd.toNat == dom then s.floorOf e.2 else []
    let r : State × List Byte := match s.readFlat dom .read ws (s.recAddr dom id) 128 with
      | .ok s1 bs => (s1, bs)
      | _ => (s, List.replicate 128 0)
    let mine := fun (x : RecEntry) => x.die == die
    { r.1.clearKey (recKey die dom id) with
      recs := ((⟨die, dom, id, r.2⟩ : RecEntry) :: r.1.recs.filter mine).take 256 ++ r.1.recs.filter fun x => !mine x }

/-- The register that holds the tensor word of a form that names a tensor (R278). -/
def tensorReg (i : Instr) : Option Nat :=
  match i with
  | .tget _ sp _ | .tsend _ sp _ | .tsendq _ sp _ | .acopy _ sp _ | .acopyw _ sp _ | .stash _ sp _ | .restore _ sp _
  | .recomp _ sp | .grad _ sp _ => some sp.toNat
  | _ => none

/-- The tensor record that the form of a held bundle names and waits for (R274). Its fill is ordered behind the stores to
the record that its context issued before: it finds each of them performed, so that the context does not read a record
that its own patch has reached in part only (R327; DEDUCED, log 22). -/
def State.recordFor (s : State) (c : Ctx) : Option Nat :=
  if !c.held || c.status != .running then none
  else
    ((c.formT.bind tensorReg).map fun r => twId (c.readS r)).filter fun id =>
      let lo := s.recAddr c.pd.toNat id
      s.accs.all fun x => !(x.cid == c.cid && x.level == 0 && x.isStore && !x.sp &&
        x.parts.any fun p => decide (p.1 < lo + 128) && decide (lo < p.1 + p.2.2))

/-- `RECORD_FILL` (R274): the record that a held form of a context of the die waits for. -/
def execRecordFill (die dom id : Nat) (s : State) : Host.Outcome State Fault Refusal :=
  if id = 0 ∨ id ≥ 2 ^ 20 ∨ die ≥ 4 then .next s
  else if s.ctxs.any fun e => dieOf e.1 == die && e.2.pd.toNat == dom && s.recordFor e.2 == some id then
    .next (s.fillRecord die dom id)
  else .next s

/-- A record leaves every record cache, and the lines of its identifier every L1 and L2, stores written back first. -/
def State.dropRecord (s : State) (dom id : Nat) : State :=
  let hit := fun (d i : Nat) => d == dom && i != 0 && (id == 0 || i == id)
  let tags : List Tag := (s.l2.filter fun l => hit l.dom l.id).map fun l => ⟨l.dom, l.id, l.coords⟩
  let s1 := tags.foldl (fun s t => s.dropLine t) s
  { s1 with
    recs := s1.recs.filter fun r => !hit r.dom r.id
    l1 := s1.l1.filter fun l => !hit l.dom l.id }

/-- A drop whose witness has failed is never made: its form fails. A context's `RCFENCE` then traps with the bundle that
issued it, once no other fault is to be raised first; one of the interrupted stream waits for `TRET` (R191, R378). -/
def State.dropFails (s : State) (d : Drop) : State :=
  let s1 := ({ s with drops := s.drops.filter fun x => x.name != d.name } : State).formFail d.agent d.dom d.seq
  match s.ctxOf d.agent d.cid with
  | none => s1
  | some c =>
    let info : TrapInfo := { cause := 0x33, aux := d.wit, slots := mSlotBit, unit := seqUnit d.agent }
    if c.status != .running then s1
    else if c.stopped then s1.onCtx d.agent fun c => { c with pendTrap := c.pendTrap.or (some (info, d.pos, c.tick)) }
    else if c.opFaulted || (match c.capture with
        | some k => decide (d.name < k.before)
        | none => false) then s
    else
      let s3 : State := { s1 with accs := s1.accs.map fun (y : Access) => if y.cid == c.cid && y.level == 0 then y.keep else y }
      let r := s3.takeTrap d.agent
        ⟨info, d.pos, c.pc, c.tick,
          s3.keptFlags c ||| c.repFlag, 0, 0, c.repK⟩ [] false
      match r.ctxOf d.agent d.cid with
      | none => r
      | some c2 => if c2.capture.isSome then r else s

/-- `RECORD_DROP_COMPLETE`: a drop whose witness is satisfied is complete on all four dies. A context's form is then
visible; a fence task has done its work (R337). -/
def execRecordDropComplete (i : Nat) (s : State) : Host.Outcome State Fault Refusal :=
  match s.drops[i]? with
  | none => .next s
  | some d =>
    if !d.sat && s.witFailed d.wit then .next (s.dropFails d)
    else if s.dropSat d then
      let s2 := ({ s with drops := s.drops.eraseIdx i } : State).dropRecord d.dom d.id
      .next (if d.task = 0 then s2.formLevel d.agent d.dom d.seq 5
        else s2.onTask d.task fun t => { t with count := t.count + 1 })
    else .next s

/-! ## Accesses from outside (R308, R396) -/

/-- A write from outside reaches the home of the flat view, so that a fresh load sees it (R193, R395); lines of records,
which are aliases of the flat view, keep what they hold (R277, log 22). -/
def State.outsideWrite (s : State) (addr : Nat) (bs : List Byte) : State :=
  let s1 := s.fwWrite addr bs
  let lo := physKey 0 0 addr
  let clear := fun (m : AL Byte) => m.filter fun e => !(decide (lo ≤ e.1) && decide (e.1 < lo + bs.length))
  { s1 with l2 := s1.l2.map fun l => if l.id = 0 then { l with dirty := clear l.dirty, kept := clear l.kept } else l }

/-- How much of device memory the host reaches: in recovery the first 1 GiB alone (R406). -/
def State.hostReach (s : State) : Nat := if s.recovery then 2 ^ 30 else 2 ^ 39

/-- `HOST_MEMORY_ACCESS`: the host reads device memory, or writes bytes of it; host copies are kept coherent with
memory. A read changes nothing. -/
def execHostMemoryAccess (addr : Nat) (wr : Option (List Byte)) (s : State) : Host.Outcome State Fault Refusal :=
  match wr with
  | none => .next s
  | some bs =>
    .next (if s.hostUp && decide (addr + bs.length ≤ s.hostReach) then s.outsideWrite addr bs else s)

/-- `PEER_MEMORY_ACCESS`: a peer reads or writes device memory by way of a port whose link is up. -/
def execPeerMemoryAccess (port addr : Nat) (wr : Option (List Byte)) (s : State) : Host.Outcome State Fault Refusal :=
  match wr with
  | none => .next s
  | some bs =>
    .next (if decide (port < 16) && !s.portsDown.contains port && decide (addr + bs.length ≤ 2 ^ 39) then
      s.outsideWrite addr bs
      else s)

/-! ## Soft errors (R380 to R382) -/

/-- One more error of a unit and kind, to be coalesced. -/
def State.countErr (s : State) (u : BitVec 32) (kind addr dom : Nat) : State :=
  if s.errs.any fun e => e.unit == u && e.kind == kind then
    { s with errs := s.errs.map fun e => if e.unit == u && e.kind == kind then { e with count := e.count + 1 } else e }
  else { s with errs := s.errs ++ [⟨u, kind, addr, dom, 1⟩] }

/-- A 32-bit counter that saturates (R390). -/
def bump (m : AL Nat) (k n : Nat) : AL Nat := AL.set 0 m k (Nat.min (AL.get 0 m k + 1) (2 ^ n - 1))

/-- The byte of an error record that names the domain (Table 19-4); 64 or more names none. -/
def domByte (dom : Nat) : Nat := if dom < 64 then dom + 64 else 0

/-- The unit path of an error in DRAM: its die is that of the address (R61). -/
def dramUnit (u : BitVec 32) (dram : Bool) (addr : Nat) : BitVec 32 :=
  if dram then unitPath (addr / 2 ^ 37 % 4) 0 0 12 (u.extractLsb' 0 19).toNat else u

/-- The class, the core and the index of a unit path. -/
def unitClass (u : BitVec 32) : Nat := (u.extractLsb' 19 4).toNat
def unitCore (u : BitVec 32) : Nat := (u.extractLsb' 29 3).toNat * 48 + (u.extractLsb' 25 4).toNat * 4 + (u.extractLsb' 23 2).toNat
def unitIndex (u : BitVec 32) : Nat := (u.extractLsb' 0 19).toNat

/-- How many units of a class a core has, for the classes of a core (Table 2-7). -/
def coreUnits (cls : Nat) : Nat :=
  match cls with
  | 0 => 4
  | 1 => 3
  | 2 => 64
  | 3 => 128
  | 5 => 2
  | 6 => 2
  | _ => 1

/-- How many units of a kind the keystone has (Table 2-5, Table 2-7). -/
def keystoneUnits (kind : Nat) : Nat :=
  match kind with
  | 0 => 8
  | 4 => 4
  | 6 => 16
  | _ => if kind ≤ 9 then 1 else 0

/-- Whether a unit path names a unit of the package (Table 2-6, Table 2-7). -/
def unitOk (u : BitVec 32) : Bool :=
  let die := (u.extractLsb' 29 3).toNat
  let spanCore := (u.extractLsb' 23 6).toNat
  let i := unitIndex u
  match unitClass u with
  | 9 => decide (die < 4) && spanCore == 0 && decide (i < 24)
  | 10 => decide (die < 4) && spanCore == 0 && decide (i < 24)
  | 11 => spanCore == 0 && ((decide (die < 4) && decide (i < 24)) || (die == 4 && i == 0))
  | 12 => decide (die < 4) && spanCore == 0
  | 13 => decide (die < 4) && spanCore == 0 && decide (i < 4)
  | 14 => spanCore == 0 && ((decide (die < 4) && decide (i < 3)) || (die == 4 && decide (i < 4)))
  | 15 => die == 4 && spanCore == 0 && decide (i % 4096 < keystoneUnits (i / 4096))
  | c => decide (die < 4) && decide (spanCore / 4 < 12) && decide (i < coreUnits c)

/-- `CORRECTED_ERROR` (R380): corrected in place and counted. An error names a unit of the package (R46). -/
def execCorrectedError (u0 : BitVec 32) (dram : Bool) (addr dom : Nat) (s : State) : Host.Outcome State Fault Refusal :=
  let u := dramUnit u0 dram addr
  if !unitOk u then .next s
  else
  let s1 := s.countErr u (if dram then 3 else 1) addr (domByte dom)
  .next (if dram then { s1 with dramCnt := bump s1.dramCnt u.toNat 32 } else { s1 with sramCnt := bump s1.sramCnt u.toNat 32 })

/-- The tiles of a core's contexts that lie in a tier: the names of context and tile. -/
def State.tilesIn (s : State) (core : Nat) (t : Tier) : List (Nat × Nat) :=
  s.ctxs.flatMap fun e => if coreOf e.1 == core then
    e.2.tiles.filterMap fun x => if x.2.tier == t then some (e.2.cid, x.1) else none else []

/-- The deck tiles that lie in a bank of a core, and the tiles that a weight plane of its trestle holds. -/
def State.bankTiles (s : State) (core bank : Nat) : List (Nat × Nat) :=
  s.ctxs.flatMap fun e => if coreOf e.1 == core then
    e.2.tiles.filterMap fun x => if x.2.tier == .deck && s.deckBankOf e.1 e.2 x.1 == bank then some (e.2.cid, x.1) else none else []
def State.planeTiles (s : State) (core plane : Nat) : List (Nat × Nat) :=
  s.ctxs.flatMap fun e => if coreOf e.1 == core then
    ((if plane = 0 then e.2.plane0 else e.2.plane1).toList.map fun p => (e.2.cid, p.tile)) else []

/-- What an uncorrectable error in the arrays of a context's sequencer strikes: a word of its bundle table, a segment in
its loop buffer, an operation in its tile window that has not started, or a result on its way in a shadow result buffer.
Table 2-7 numbers the four together: which of them it is, is a free choice (log 4, log 20). -/
def State.poisonSeq (s : State) (a addr : Nat) : State :=
  let s1 : State := { s with choices := s.choices + 1 }
  let table := 7 * 2 ^ 60 + a * 2 ^ 16 + 8 * (addr % 2048)
  match s.ctx a with
  | none => { s1 with poison := (table * 2) :: s.poison }
  | some c =>
    let keys := [table] ++ c.halves.map (fun h => lbKey a h.seg) ++
      (c.window.filter fun o => o.status == .waiting).map fun o => opKey c.cid o.tseq
    let n := Config.choose s.choices % (keys.length + c.pend.length)
    match keys[n]? with
    | some k => { s1 with poison := (k * 2) :: s.poison }
    | none => s1.onCtx a fun c => { c with pend := c.pend.mapIdx fun i p => if i == n - keys.length then { p with bad := true } else p }

/-- An uncorrectable error in the record cache of a die: a free choice among the records that it holds (log 20). -/
def State.poisonRec (s : State) (die : Nat) : State :=
  let mine := s.recs.filter fun r => r.die == die
  match mine[Config.choose s.choices % (mine.length + 1)]? with
  | some r => { s with choices := s.choices + 1, poison := (recKey die r.dom r.id * 2) :: s.poison }
  | none => { s with choices := s.choices + 1 }

/-- The mark that an uncorrectable error leaves (R381): a DRAM burst, a word of L2, of a scratchpad, of the vector registers
or of a sequencer's arrays, a word of a line of L1, a tile's granule, an accumulator of an update unit, or a record of the
die's record cache, which goes by the die's translation units, as Table 2-7 has no class for it. Which tile a word of the
deck, the pier or a weight plane belongs to, which line a word of an L1, and which accumulator of a unit, is not a place of
this model: it is a free choice (log 4, log 20). -/
def State.poisonMark (s : State) (u : BitVec 32) (dram : Bool) (addr : Nat) : State :=
  let word := fun (k : Nat) => { s with poison := (k / 8 * 8 * 2) :: s.poison }
  let tile := fun (l : List (Nat × Nat)) =>
    match l[Config.choose s.choices % (l.length + 1)]? with
    | some x => { s with choices := s.choices + 1, poison := (tileKey x.1 x.2 * 2) :: s.poison }
    | none => { s with choices := s.choices + 1 }
  let cached := fun (core : Nat) =>
    let mine := s.l1.filter fun l => l.core == core
    let pick := Config.choose s.choices % (mine.length + 1)
    let word := fun (l : L1Line) =>
      let e := (l.maps[Config.choose (s.choices + 1) % (l.maps.length + 1)]?).map (·.2)
      (e.map fun f => (physKey f.target f.port (f.pa / 65536 * 65536) + Config.choose (s.choices + 2) % 65536) / 8).toList
    { s with
      choices := s.choices + 3
      l1 := s.l1.map fun l => if (mine[pick]?) == some l then { l with bad := word l ++ l.bad } else l }
  if dram then { s with poison := (physKey 0 0 (addr / 64 * 64) * 2 + 1) :: s.poison }
  else
    let core := unitCore u
    match unitClass u with
    | 0 => s.poisonSeq (core * 4 + unitIndex u % 4) addr
    | 2 =>
      let b := unitIndex u % 64
      if decide (b < 12) && (s.ctx (core * 4 + b / 3)).isSome then
        word (9 * 2 ^ 60 + (core * 64 + b) * 65536 + addr * 8 % 65536)
      else tile (s.bankTiles core b)
    | 3 =>
      let off := unitIndex u % 128 * 65536 + addr * 8 % 65536
      if s.shares.any fun h => h.core == core && decide (h.base ≤ off) && decide (off < h.base + h.size) &&
          s.ctxs.any fun e => e.2.task == h.task && e.2.inst == h.inst && e.2.team == h.team && e.2.cnum == h.k &&
            decide (h.base + e.2.spLimit ≤ off)
      then tile (s.tilesIn core .pier)
      else word (spKey core off)
    | 4 => cached core
    | 5 => tile (s.planeTiles core (unitIndex u))
    | 9 => word (physKey 0 0 addr)
    | 10 =>
      let mine := s.lines.filter fun l => l.tag.home == (u.extractLsb' 29 3).toNat * 24 + unitIndex u
      let pick := mine[Config.choose s.choices % (mine.length + 1)]?
      { s with
        choices := s.choices + 1
        lines := s.lines.map fun l => if pick.any fun x => x.tag == l.tag then { l with bad := true } else l }
    | 13 => s.poisonRec (u.extractLsb' 29 3).toNat
    | _ => s

/-- `UNCORRECTABLE_ERROR` (R381): the word or burst is poisoned, and an error record is written. The syndrome is not
given (log 20). An error names a unit of the package (R46). -/
def execUncorrectableError (u0 : BitVec 32) (dram : Bool) (addr dom : Nat) (s : State) : Host.Outcome State Fault Refusal :=
  let u := dramUnit u0 dram addr
  if !unitOk u then .next s
  else .next ((s.poisonMark u dram addr).errRecord (if dram then 4 else 2) u (domByte dom) 1 addr 0)

end Sys2Proof.Machine
end

