-- ==== Sys2Proof/Machine/EvTile.lean ====
section
/-! DEFINITION. The steps of a core's tile engines (09 R237, R242 to R250, R259 to R265, 10 R282 to R298, 20 R393,
R394): claims, completions, epilogues, the movement of tiles between the tiers, and unwinding. -/

namespace Sys2Proof.Machine

/-! ## Readiness (R247) -/

/-- Whether a tile is produced and lies in the deck. -/
def Ctx.inDeck (c : Ctx) (id : Nat) : Bool :=
  match AL.find c.tiles id with
  | some t => t.tier == .deck && t.img.isSome
  | none => false

/-- The granules that the results of an operation need and do not yet have: its results not yet produced. -/
def Ctx.resultGrans (c : Ctx) (o : TOp) : Nat :=
  sumGrans [] (o.results.filter fun e => (c.tileImg e.tile).isNone && !(match AL.find c.tiles e.tile with
    | some t => t.tier == .deck
    | none => true))

/-- Whether every operation older than one is complete. -/
def Ctx.olderDone (c : Ctx) (q : Nat) : Bool := (c.window.takeWhile fun o => o.tseq != q).all c.outOfWay

/-- Forms that run only as the oldest incomplete operation: `TTOV` and `TSTS` (R247, R249), `GRAD` (R296), `COLL`
(R298). -/
def needsOldest (i : Instr) : Bool :=
  match i with
  | .ttov .. => true
  | .tsts .. => true
  | .grad .. => true
  | .coll .. => true
  | _ => false

/-- Whether an operation older than one has met a delivered fault that is to cancel it. A fault of the interrupted stream
leaves the operations of a handler alone while that runs (R378, log 35). -/
def Ctx.olderFaulted (c : Ctx) (o : TOp) : Bool :=
  (c.window.takeWhile fun x => x.tseq != o.tseq).any fun x => x.hasFault && (c.foreign o || !c.foreign x)

/-- Whether an operation waits for its engine and nothing older is to cancel it. -/
def Ctx.mayStart (c : Ctx) (o : TOp) : Bool := o.status == .waiting && engineOf o.form != .none && !c.olderFaulted o

/-- Whether an operation is ready (R247). -/
def State.opReady (s : State) (c : Ctx) (o : TOp) : Bool :=
  c.mayStart o &&
    (o.binds ++ o.plane.toList).all (fun e => c.inDeck e.tile) &&
    decide (c.deckUsed + c.resultGrans o ≤ c.deckG) && s.opSat c o &&
    (!needsOldest o.form || c.olderDone o.tseq)

/-- The oldest ready operation of a class in a context's window. -/
def State.oldestReady (s : State) (c : Ctx) (k : EngClass) : Option TOp :=
  c.window.find? fun o => engineOf o.form == k && s.opReady c o

/-! ## The engines of a core (R45, R247) -/

/-- The contexts that the engines of a core serve, in slot order from a slot on. One that has given up its slot is served
in its old place (R348). -/
def State.slotsFrom (s : State) (core k : Nat) : List (Nat × Ctx) :=
  (List.range 4).flatMap fun i => s.ctxs.filter fun e => coreOf e.1 == core && e.1 % 4 == (k + i) % 4

/-- The units of a class that run an operation of a core's contexts, an epilogue among them (R247). -/
def State.busy (s : State) (core : Nat) (k : EngClass) : List Nat :=
  (s.slotsFrom core 0).flatMap fun e => e.2.window.filterMap fun o => match o.status with
    | .running u => if engineOf o.form == k then some u else none
    | .serving u => if k == .vt then some u else none
    | _ => none

/-- The slot at which an engine looks first: the one after that it last served. -/
def CoreSt.nextSlot (c : CoreSt) (k : EngClass) (u : Nat) : Nat :=
  match k with
  | .trestle => c.rrTrestle
  | .vt => if u = 0 then c.rrVt0 else c.rrVt1
  | .txp => c.rrTxp
  | .grinder => c.rrGrind
  | .update => c.rrUpdate
  | .coll => c.rrColl
  | _ => c.rrCopy

/-- An engine has served a slot. -/
def CoreSt.served (c : CoreSt) (k : EngClass) (u a : Nat) : CoreSt :=
  let n := (a + 1) % 4
  match k with
  | .trestle => { c with rrTrestle := n }
  | .vt => if u = 0 then { c with rrVt0 := n } else { c with rrVt1 := n }
  | .txp => { c with rrTxp := n }
  | .grinder => { c with rrGrind := n }
  | .update => { c with rrUpdate := n }
  | .coll => { c with rrColl := n }
  | _ => { c with rrCopy := n }

/-- A free collective engine: one that neither a collective nor a running copy task holds; a copy task keeps its engine's
number in count (R190, R337). -/
def State.freeColl (s : State) : Option Nat :=
  (List.range 4).find? fun u => s.colls.all (fun x => x.engine != u) &&
    s.tasks.all fun t => !(t.kind == 2 && t.state == .running && t.count != 0 && (t.count - 1) / 2 ^ 21 == u)

/-- The free unit of a class that takes the next operation. Grinders and update units lie beside every slice and are
never all taken. -/
def State.freeUnit (s : State) (core : Nat) (k : EngClass) : Option Nat :=
  match k with
  | .none => none
  | .vt => [0, 1].find? fun u => !(s.busy core k).contains u
  | .grinder => some 0
  | .update => some 0
  | .coll => s.freeColl
  | _ => if (s.busy core k).isEmpty then some 0 else none

/-- The operation that an engine takes when it is free: in the next context, in slot order, that has a ready one. -/
def State.enginePick (s : State) (core : Nat) (k : EngClass) (u : Nat) : Option (Nat × TOp) :=
  (s.slotsFrom core ((s.coreSt core).nextSlot k u)).findSome? fun e => (s.oldestReady e.2 k).map fun o => (e.1, o)

/-! ## Operations -/

/-- Change an operation of a context's window. -/
def Ctx.onOp (c : Ctx) (q : Nat) (f : TOp → TOp) : Ctx :=
  { c with window := c.window.map fun o => if o.tseq == q then f o else o }

/-- The operation of a window with a number. -/
def Ctx.op (c : Ctx) (q : Nat) : Option TOp := c.window.find? fun o => o.tseq == q

/-- Whether a virtual address lies in host memory, so that a grinder of the host port serves it (R45, R292). -/
def State.inHost (s : State) (dom va : Nat) : Bool :=
  match s.walk dom va with
  | .leaf l => l.target == 1
  | _ => false

/-- The number of the grinder that serves an address: the home slice of its line, or 96, that of the host port. -/
def State.grinderOf (s : State) (dom va : Nat) : Nat := if s.inHost dom va then 96 else (flatTag dom va).home

/-- The unit path of an engine as it serves an operation at an address (R376). -/
def State.engineUnit (s : State) (a dom : Nat) (i : Instr) (u va : Nat) : BitVec 32 :=
  match engineOf i with
  | .trestle => coreUnit a 5 u
  | .vt => coreUnit a 6 u
  | .txp => coreUnit a 7 0
  | .grinder => if s.inHost dom va then unitPath 4 0 0 11 0 else sliceUnit (flatTag dom va).home 11
  | .update => sliceUnit (flatTag dom va).home 10
  | .coll => unitPath 4 0 0 15 (4 * 4096 + u)
  | _ => coreUnit a 8 0

/-- The engine byte of a statistics record of an operation (Table 4-8): the class, and the low four bits of the index
within it, which the byte has no room for (DESIGN CHOICE, log 30). -/
def engineByte (i : Instr) (u : Nat) : BitVec 8 :=
  let idx := match i with
    | .mfw _ _ pl => pl.toNat
    | .mfwa _ _ pl => pl.toNat
    | .mbk _ _ pl => pl.toNat
    | .mbka _ _ pl => pl.toNat
    | _ => u
  let cls := match engineOf i with
    | .trestle => 5
    | .vt => 6
    | .txp => 7
    | .grinder => 11
    | .update => 10
    | .coll => 15
    | _ => 8
  BitVec.ofNat 8 (cls + 16 * (idx % 16))

/-- The tiles that are to be produced by an operation get their place in the deck. -/
def Ctx.placeResults (c : Ctx) (o : TOp) : Ctx :=
  { c with tiles := c.tiles.map fun e =>
      if o.results.any (fun r => r.tile == e.1) && e.2.img.isNone then (e.1, { e.2 with tier := .deck }) else e }

/-- An operation is complete: its result is produced, and the oldest complete operations retire (R248). -/
def State.finishOp (s : State) (a q : Nat) (img : Option (List Byte)) (stats : List (Nat × Nat)) (eng : BitVec 8) : State :=
  let s1 := (s.progress (dieOf a)).onCtx a fun c =>
    let tiles := match img, (c.op q).bind fun o => o.results.head? with
      | some b, some r => c.tiles.map fun e =>
        if e.1 == r.tile && e.2.img.isNone then (e.1, { e.2 with img := some b }) else e
      | _, _ => c.tiles
    ({ c with tiles := tiles }.onOp q fun o => { o with status := .done, stats := stats, eng := eng }).retireTiles
  match s1.ctx a with
  | some c => if c.status == .exited && c.window.isEmpty then s1.retireTeams c.task c.inst else s1
  | none => s1

/-- A form whose engine read poison, or whose fault nobody can resolve, fails: the directory and the task know
(R288, R381), and its result, if it has one, is poisoned. -/
def State.failOp (s : State) (a q : Nat) : State :=
  match s.ctx a with
  | none => s
  | some c =>
    match c.op q with
    | none => s
    | some o =>
      let s1 := (s.noteFormFault c.cid (engineDetail o.form)).failOps c.pd.toNat [o]
      let fresh := o.results.head?.filter fun r => (c.tileImg r.tile).isNone
      match fresh with
      | none => s1.finishOp a q none [] 0
      | some r => ({ s1 with poison := (tileKey c.cid r.tile * 2) :: s1.poison }).finishOp a q (some (List.replicate r.bytes 0)) [] 0

/-- The places in the deck that an operation had for its results not yet produced are free again. -/
def Ctx.unplaceResults (c : Ctx) (q : Nat) : Ctx :=
  match c.op q with
  | none => c
  | some o =>
    { c with tiles := c.tiles.map fun e =>
        if o.results.any (fun r => r.tile == e.1) && e.2.img.isNone then (e.1, { e.2 with tier := .none }) else e }

/-- An operation has met a delivered fault: it is to be cancelled (R250), and leaves the deck what it held there for its
results, which an older operation may need (R243). -/
def Ctx.faulted (c : Ctx) (q : Nat) (info : TrapInfo) : Ctx :=
  (c.unplaceResults q).onOp q fun o => { o with status := .faulted { info with slots := 1 } }

/-- An operation meets a fault on its engine: delivered to the program, or, once the context has exited, failing the
form (R282, R288). A fault of poison fails the form (R381). -/
def State.faultOp (s : State) (a q : Nat) (f : MFault) (unit : BitVec 32) : State :=
  match s.ctx a with
  | none => s
  | some c =>
    if f.cause = 0x50 ∨ c.status ≠ .running then s.failOp a q
    else s.onCtx a fun c => c.faulted q { memFault f with unit := unit }

/-- The sequenced form of an operation has written lines of memory. -/
def State.engineWrote (s : State) (c : Ctx) (o : TOp) (tags : List Tag) : State :=
  s.wroteLines o.agent c.cid c.pd.toNat o.scope o.seq o.pos tags

/-- The directory forgets the form of an operation whose effect is visible everywhere. -/
def State.opVisible (s : State) (c : Ctx) (o : TOp) : State :=
  match o.seq with
  | some q => s.formLevel o.agent c.pd.toNat q 5
  | none => s

/-! ## What the engines do -/

/-- What running an operation gives: the state with its writes and, when it has a result, the image and the events; the
state with so many of its writes done, the rest waiting; the state of a copy whose arrival or notice is still to be made;
or a fault. -/
inductive Ran where
  | done (s : State) (img : Option (List Byte)) (stats : List (Nat × Nat))
  | wait (s : State) (prog : Nat)
  | sent (s : State)
  | fault (s : State) (f : MFault)

/-- A parameter word of an operation. -/
def TOp.par (o : TOp) (i : Nat) : W64 := (o.params[i]?).getD 0

/-- The witness inputs of an engine's reads for a context (R316). -/
def State.opWits (s : State) (c : Ctx) (o : TOp) : List W64 := o.wit :: s.floorOf c

/-- The record of an operation and its box's elements. -/
def TOp.tensor (o : TOp) : TRec := TRec.parse (twId (o.par 0)) o.record
def TOp.cells (o : TOp) : List (List Int) := o.tensor.box (boxOrigin (o.par 1) (o.par 2)) (boxExtent (o.par 3))

/-- The lines that the elements of a box lie on. -/
def boxTags (r : TRec) (dom : Nat) (cs : List (List Int)) : List Tag :=
  (cs.filter r.inBounds).foldl (fun l co => let g := r.tag dom co; if l.contains g then l else l ++ [g]) []

/-- The core whose L1 serves an engine's plain read; a fresh read goes to the home (R277). -/
def readCore (a : Nat) (w : W64) : Option Nat := if twFresh w then none else some (coreOf a)

/-- An operation of the trestle, a vector-tile engine or the transpose engine. -/
def runCompute (s : State) (c : Ctx) (o : TOp) : Ran :=
  match o.results.head?, c.args o.binds, c.args o.plane.toList with
  | some r, some args, some ws =>
    let xs := tileRun o.form o.fmt r args ws.head?
    .done s (some (imageOf (tileSize r.fmt) (xs.map (·.1)))) (statsOf (fmtStatmask o.fmt) (xs.map (·.2)))
  | _, _, _ => .wait s o.prog

/-- The image of the first operand. -/
def TOp.image0 (o : TOp) (c : Ctx) : List Byte := (o.binds.head?.bind fun e => c.tileImg e.tile).getD []

/-- The address of row i of a scratchpad tile: registers hold 64 bits (R261, R262). -/
def rowAddr (a p : W64) (i : Nat) : Nat := (a + BitVec.ofNat 64 i * p).toNat

/-- `TLDS`: rows of the scratchpad with a pitch (R261). -/
def runTlds (s : State) (c : Ctx) (o : TOp) : Ran :=
  match o.results.head? with
  | none => .wait s 0
  | some r =>
    let rows := (List.range r.rows).map fun i => s.spPhys c (rowAddr (o.par 0) (o.par 2) i)
    match rows.find? fun k => s.poisoned k r.rowBytes with
    | some k => .fault s (poisonFault k (spUnit k))
    | none => .done s (some (rows.flatMap fun k => s.memBytes k r.rowBytes)) []

/-- `TSTS`: rows to the scratchpad in ascending order (R262). -/
def runTsts (s : State) (c : Ctx) (o : TOp) : Ran :=
  match o.binds.head? with
  | none => .wait s 0
  | some e =>
    let img := o.image0 c
    let s1 := (List.range e.rows).foldl (fun (s : State) i =>
      let k := s.spPhys c (rowAddr (o.par 0) (o.par 1) i)
      (s.clearPoison ((List.range e.rowBytes).map (k + ·))).memWrite (zipIdxBytes k (sliceBytes img (i * e.rowBytes) e.rowBytes))) s
    .done (s1.opVisible c o) none []

/-- `TGET` (R283). -/
def runTget (s : State) (a : Nat) (c : Ctx) (o : TOp) : Ran :=
  match s.readBox false (readCore a (o.par 0)) c.pd.toNat o.tensor (s.opWits c o) o.cells with
  | .ok s1 bs => .done s1 (some bs) []
  | .wait => .wait s 0
  | .fault f => .fault s f

/-- The elements of a copy's box that it has not written yet, out of an image; a fault that is waited out affects time
only, so that what is written is not written again (R282). -/
def State.writeOp (s : State) (c : Ctx) (o : TOp) (bs : List Byte) : State × Written :=
  s.writeBox false c.pd.toNat o.tensor (o.cells.take o.prog) (o.cells.drop o.prog) (bs.drop (o.prog * o.tensor.eb))

/-- A copy of an image to its box: what stops it, or what follows once every element is written. -/
def State.sendImage (s : State) (c : Ctx) (o : TOp) (bs : List Byte) (k : State → Ran) : Ran :=
  let w := s.writeOp c o bs
  match w.2.stop with
  | some (some f) => .fault w.1 f
  | some none => .wait w.1 (o.prog + w.2.done)
  | none => k (w.1.engineWrote c o (boxTags o.tensor c.pd.toNat o.cells))

/-- `TSEND` (R284). -/
def runTsend (s : State) (c : Ctx) (o : TOp) : Ran := s.sendImage c o (o.image0 c) fun s1 => .done s1 none []

/-- `TSENDQ` (R285): its writes as `TSEND`; its notice follows. -/
def runTsendq (s : State) (c : Ctx) (o : TOp) : Ran := s.sendImage c o (o.image0 c) .sent

/-- The notice of a `TSENDQ` (R285). -/
def TOp.notice (o : TOp) (c : Ctx) : Notice where
  dom := c.pd.toNat
  header := (o.par 4).toNat
  tag := o.par 5
  bytes := o.tensor.boxBytes o.cells
  agent := o.agent
  seq := o.seq.getD 0
  scope := o.scope
  cid := c.cid
  floor := c.floor
  epoch := o.epoch

/-- The arrival of a copy engine at the word that a reference names (R287): of `ACOPY` the whole image, of `ACOPYW` the
bytes in bounds, once they are visible. -/
def State.queueArrival (s : State) (c : Ctx) (o : TOp) : State :=
  let w := o.par 5
  let sp := w.getLsbD 0
  let va := (refAddr w).toNat
  let after := match o.form with
    | .acopyw .. => true
    | _ => false
  let r : Arrival :=
    { id := s.nextId, dom := c.pd.toNat, sp := sp, va := if sp then s.spPhys c va else va, cid := c.cid
      bytes := if after then o.tensor.boxBytes o.cells else o.cells.length * o.tensor.eb
      wit := 0, agent := o.agent, seq := o.seq.getD 0, detail := 1, after := after, epoch := o.epoch, fmt := o.fmt
      pos := o.pos, src := none, floor := c.floor }
  { s with nextId := s.nextId + 1, arrivals := s.arrivals ++ [r] }

/-- What a copy with a sync-word reference still makes: nothing where the reference is 0. -/
def TOp.arrives (o : TOp) (s : State) : Ran := if o.par 5 = 0 then .done s none [] else .sent s

/-- `ACOPY` (R286). -/
def runAcopy (s : State) (a : Nat) (c : Ctx) (o : TOp) : Ran :=
  match s.readBox false (readCore a (o.par 0)) c.pd.toNat o.tensor (s.opWits c o) o.cells with
  | .ok s1 bs =>
    let k := s1.spPhys c (o.par 4).toNat
    o.arrives ((s1.clearPoison ((List.range bs.length).map (k + ·))).memWrite (zipIdxBytes k bs))
  | .wait => .wait s 0
  | .fault f => .fault s f

/-- `ACOPYW` (R286). -/
def runAcopyw (s : State) (c : Ctx) (o : TOp) : Ran :=
  let n := o.cells.length * o.tensor.eb
  let k := s.spPhys c (o.par 4).toNat
  match s.spPoison k n with
  | some f => .fault s f
  | none => s.sendImage c o (s.memBytes k n) o.arrives

/-- A fault that an access would wait out, delivered all the same: fault policy bit 2 of a stash record (R292). What is no
fault, a host link that only resets, is waited out (R400). -/
def State.hiddenFault (s : State) (dom : Nat) (p : Perm) (ps : List (Nat × Nat)) : Option MFault :=
  ps.findSome? fun x =>
    let t := flatTag dom x.1
    let refused := fun (l : PLeaf) (unit : BitVec 32) =>
      (s.permFault t l x.1 p false unit).map fun (f : MFault) => { f with delivered := true }
    if x.1 ≥ 2 ^ 57 then some ⟨0x21, p.aux, x.1, sliceUnit t.home 9, true⟩
    else match (s.l2Line t).bind fun l => AL.find l.maps (x.1 / 65536) with
    | some l => refused l (sliceUnit t.home 9)
    | none =>
      let unit := unitPath (t.home / 24) 0 0 13 (Config.walkUnit dom x.1 % 4)
      match s.walk dom x.1 with
      | .leaf l => (refused l unit).or (match (s.linkRes l x.1 p unit : Option (Res Unit)) with
          | some (.fault f) => some f
          | _ => none)
      | .invalid _ => some ⟨0x20, p.aux, x.1, unit, true⟩
      | .defective => some ⟨0x21, p.aux, x.1, unit, true⟩

/-- Lines of host memory that a grinder of the host port reads or writes are not held in L2 (R292). -/
def State.unheld (s : State) (dom : Nat) (ps : List (Nat × Nat)) : State :=
  ps.foldl (fun (s : State) p => if s.inHost dom p.1 then s.dropLine (flatTag dom p.1) else s) s

/-- Write the blocks of a stash one after the other. -/
def State.writeBlocks (s : State) (spol : Bool) (dom va : Nat) (bs : List (List Byte)) : State × Written :=
  match bs with
  | [] => (s, ⟨0, none⟩)
  | b :: r =>
    let ps := linePieces (b.length / 2048 + 3) va b.length
    match (if spol then s.hiddenFault dom .write ps else none) with
    | some f => (s, ⟨0, some (some f)⟩)
    | none =>
      match (s.unheld dom ps).writeFlatVia false dom ps b with
      | (s1, some x) => (s1.unheld dom ps, ⟨0, some x⟩)
      | (s1, none) =>
        let w := (s1.unheld dom ps).writeBlocks spol dom (va + b.length) r
        (w.1, { w.2 with done := w.2.done + 1 })

/-- Read the blocks of a stash one after the other. -/
def State.readBlocks (s : State) (spol : Bool) (dom va n : Nat) (ws : List W64) (cnt : Nat) : Res (List (List Byte)) :=
  match cnt with
  | 0 => .ok s []
  | k + 1 =>
    let ps := linePieces (n / 2048 + 3) va n
    match (if spol then s.hiddenFault dom .read ps else none) with
    | some f => .fault f
    | none =>
      match (s.unheld dom ps).readFlatVia false none dom ws ps with
      | .fault f => .fault f
      | .wait => .wait
      | .ok s0 b =>
        let s1 := s0.unheld dom ps
        match s1.readBlocks spol dom (va + n) n ws k with
        | .fault f => .fault f
        | .wait => .wait
        | .ok s2 bs => .ok s2 (b :: bs)

/-- The address of the first block of a stash operation. -/
def TOp.stashVa (o : TOp) : Nat := o.tensor.base + (o.par 1).toNat / 32 * o.tensor.bbytes

/-- `STASH` (R290): a grinder encodes the elements block by block. The rne_int of a magnitude rounds to an integer of the
block and not to a format, and posts neither event 5 nor event 7 (DESIGN CHOICE, R109, log 30). -/
def runStash (s : State) (c : Ctx) (o : TOp) : Ran :=
  let r := o.tensor
  match c.args o.binds with
  | some (x :: _) =>
    let vs := x.vals o.fmt
    let bl := (chunks 32 vs).map fun l => stashBlock (stashK r.smode) (l.map (·.1))
    let n := (bl.map fun b => b.1.length).sum
    let skip := ((bl.take o.prog).map fun b => b.1.length).sum
    let w := s.writeBlocks r.spol c.pd.toNat (o.stashVa + skip) ((bl.drop o.prog).map (·.1))
    (match w.2.stop with
     | some (some f) => .fault w.1 f
     | some none => .wait w.1 (o.prog + w.2.done)
     | none =>
       let ps := linePieces (n / 2048 + 3) o.stashVa n
       let evs := bl.flatMap (fun b => List.replicate b.2.1 (ev 8) ++ List.replicate b.2.2 (ev 9)) ++
         vs.filterMap fun v => if v.2 then some (ev 6) else none
       .done (w.1.engineWrote c o (ps.map fun p => flatTag c.pd.toNat p.1)) none
         (statsOf (fmtStatmask o.fmt) evs))
  | _ => .wait s o.prog

/-- `RESTORE` (R291). -/
def runRestore (s : State) (c : Ctx) (o : TOp) : Ran :=
  let r := o.tensor
  match o.results.head? with
  | none => .wait s 0
  | some e =>
    let cnt := e.rows * e.cols
    match s.readBlocks r.spol c.pd.toNat o.stashVa r.bbytes (s.opWits c o) ((cnt + 31) / 32) with
    | .ok s1 bs =>
      let xs := (bs.flatMap (restoreBlock (stashK r.smode) (tileFmt r.fmt))).take cnt
      .done s1 (some (imageOf r.eb (xs.map (·.1)))) (statsOf (fmtStatmask o.fmt) (xs.map (·.2)))
    | .wait => .wait s 0
    | .fault f => .fault s f

/-- Whether contributions of a `GRAD` are not accepted yet: their sender waits (R106). -/
def State.unaccepted (s : State) (agent dom seq : Nat) : Bool :=
  s.grads.any fun y => y.agent == agent && y.dom == dom && y.seq == seq

/-- Whether the contribution queue of the update unit of a slice has room (R342). -/
def State.gradRoom (s : State) (slice : Nat) : Bool :=
  decide ((s.grads.filter fun y => (⟨y.dom, y.tensor, y.coords⟩ : Tag).home == slice).length < s.depthOf (gradQueue slice) 32 2048)

/-- Send contributions in order while the queues they go to have room: how many are sent. -/
def State.sendGrads (s : State) (l : List Contribution) : State × Nat :=
  match l with
  | [] => (s, 0)
  | y :: r =>
    if s.gradRoom (⟨y.dom, y.tensor, y.coords⟩ : Tag).home then
      let w := ({ s with grads := s.grads ++ [y] } : State).sendGrads r
      (w.1, w.2 + 1)
    else (s, 0)

/-- `GRAD`: one contribution to every line that holds an in-bounds element of the tile (R295). -/
def runGrad (s : State) (c : Ctx) (o : TOp) : Ran :=
  let r := o.tensor
  match o.binds.head?, c.args o.binds with
  | some e, some (x :: _) =>
    let dom := c.pd.toNat
    let cells := r.gradCells (boxOrigin (o.par 1) (o.par 2)) e.rows e.cols
    let tags := r.gradTags dom cells
    let one := fun (t : Tag) =>
      let mine := cells.filter fun y => r.tag dom y.2 == t
      let data := mine.foldl (fun (l : List (BitVec 32)) y =>
        l.set ((r.row y.2).toNat % 8 * 64 + (coord y.2 r.cdim).toNat % 64) (BitVec.ofNat 32 ((x.xs[y.1]?).getD 0)))
        (List.replicate 512 0)
      (⟨dom, r.id, t.coords, data, e.scale, (o.par 3).toNat % 2 ^ 32, o.fmt, o.agent, o.seq.getD 0, c.cid, o.pos, o.record⟩ : Contribution)
    let w := s.sendGrads ((tags.drop o.prog).map one)
    if o.prog + w.2 < tags.length then .wait w.1 (o.prog + w.2)
    else if tags.isEmpty then .done (w.1.opVisible c o) none []
    else if w.1.unaccepted o.agent dom (o.seq.getD 0) then .sent w.1
    else .done w.1 none []
  | _, _ => .wait s o.prog

/-- The group table of a collective (Table 10-8): sources and destinations, and whether it is defective. -/
def groupTable (eb : Nat) (bs : List Byte) : List Nat × List Nat × Bool :=
  let g := fieldAt bs 0 2
  let d := fieldAt bs 2 2
  let src := (List.range g).map fun i => fieldAt bs (8 + 8 * i) 8
  let dst := (List.range d).map fun i => fieldAt bs (8 + 8 * g + 8 * i) 8
  (src, dst, g == 0 || d == 0 || g > 64 || d > 64 || fieldAt bs 4 4 != 0 || (src ++ dst).any fun x => x % eb != 0)

/-- A context's charge is corrected from one made by a first reading to the right one (log 22). -/
def Ctx.recharge (c : Ctx) (was now : Nat) : Ctx := if was ≤ now then c.charge (now - was) else c.refund (was - now)

/-- `COLL`: a free collective engine takes the work and reads the group table; a collective that meets a table defect or
a fault it cannot resolve has no sources (R298, R301). Its charge, made at issue, is corrected where the table has changed
since (R366, log 22). An engine that holds 2^19 numbers of the domain takes no more (R190). -/
def runColl (s : State) (c : Ctx) (a : Nat) (o : TOp) (op : Nat) (u : Nat) : Ran :=
  let dom := c.pd.toNat
  let f : BitVec 6 := (o.par 0).extractLsb' 0 6
  let n := (o.par 1).toNat
  let va := (o.par 2).toNat
  let ws := s.opWits c o
  let read := fun (s : State) (n : Nat) => s.readFlatVia true none dom ws (linePieces (n / 2048 + 3) va n)
  let start := fun (s : State) (src dst : List Nat) (g d : Nat) =>
    let q := s.takeSeq (769 + u) dom 5 c.cid
    let s1 : State := { q.1 with colls := q.1.colls ++
      [⟨dom, op, f, n, src, dst, (o.par 3).toNat, o.wit, c.floor, u, q.2, c.cid, coreOf a, s.epoch, true⟩] }
    Ran.done (s1.onCtx a fun c => c.recharge o.energy (collEnergy f n g d)) none []
  if s.outstanding (769 + u) dom ≥ 2 ^ 19 then .wait s 0
  else match read s 8 with
  | .wait => .wait s 0
  | .fault _ => start s [] [] 0 0
  | .ok s1 h =>
    let g := fieldAt h 0 2
    let d := fieldAt h 2 2
    match read s1 (8 + 8 * Nat.min g 65 + 8 * Nat.min d 65) with
    | .wait => .wait s 0
    | .fault _ => start s1 [] (List.replicate d 0) g d
    | .ok s2 bs =>
      let t := groupTable (tileSize f) bs
      if t.2.2 then start s2 [] (List.replicate d 0) g d else start s2 t.1 t.2.1 g d

/-- An operation runs on its engine. -/
def runOp (s : State) (a : Nat) (c : Ctx) (o : TOp) (u : Nat) : Ran :=
  match o.form with
  | .tlds .. => runTlds s c o
  | .tsts .. => runTsts s c o
  | .tfromv .. => .done s (some o.image) []
  | .ttov .. => .done s none []
  | .tget .. => runTget s a c o
  | .tsend .. => runTsend s c o
  | .tsendq .. => runTsendq s c o
  | .acopy .. => runAcopy s a c o
  | .acopyw .. => runAcopyw s c o
  | .stash .. => runStash s c o
  | .restore .. => runRestore s c o
  | .grad .. => runGrad s c o
  | .coll _ op _ _ => runColl s c a o op.toNat u
  | _ => runCompute s c o

/-- Whether a trestle form has an epilogue (R265). -/
def hasEpilogue (i : Instr) : Bool :=
  match i with
  | .mfw _ e _ => e != 0
  | .mfwa _ e _ => e != 0
  | .mbk _ e _ => e != 0
  | .mbka _ e _ => e != 0
  | _ => false

/-! ## The tiers (R240 to R245, R393, R394) -/

/-- Whether a running operation uses a tile, so that it stays in the deck. -/
def Ctx.inUse (c : Ctx) (id : Nat) : Bool :=
  c.window.any fun o => (match o.status with
    | .running _ => true
    | .epilogue => true
    | .serving _ => true
    | _ => false) && (o.binds ++ o.plane.toList ++ o.results).any fun e => e.tile == id

/-- Whether an operation waits and nothing older is to cancel it. -/
def Ctx.waits (c : Ctx) (o : TOp) : Bool := o.status == .waiting && !c.olderFaulted o

/-- The operands of an operation. -/
def TOp.operands (o : TOp) : List Entry := o.binds ++ o.plane.toList

/-- The oldest operation that binds a tile and waits. -/
def Ctx.binder (c : Ctx) (id : Nat) : Option TOp :=
  c.window.find? fun o => c.waits o && o.operands.any fun e => e.tile == id

/-- The operations of a window older than one. -/
def Ctx.older (c : Ctx) (q : Nat) : List TOp := c.window.takeWhile fun o => o.tseq != q

/-- The tiles that those of some operations bind which wait. -/
def Ctx.boundBy (c : Ctx) (l : List TOp) : List Nat := (l.filter c.waits).flatMap fun o => o.operands.map (·.tile)

/-- The granules that operations which wait are still to have in the deck: operands that are to rise, and the results of one
that may start. A younger operation leaves them that room (R243). -/
def State.granulesOwed (s : State) (c : Ctx) (l : List TOp) : Nat :=
  ((l.filter c.waits).map fun o =>
    sumGrans [] (o.operands.filter fun e => (c.tileImg e.tile).isSome && !c.inDeck e.tile) +
      (if o.operands.all (fun e => c.inDeck e.tile) && s.opSat c o then c.resultGrans o else 0)).sum

/-- The first operand, in pop order, of an operation that is produced and lies outside the deck (R394). -/
def Ctx.firstRise (c : Ctx) (o : TOp) : Option Nat :=
  (o.operands.find? fun e => (c.tileImg e.tile).isSome && !c.inDeck e.tile).map (·.tile)

/-- The trap of a fault that a movement of tiles meets while no operation is there to be charged with it (R244). -/
def State.moveTrap (s : State) (a : Nat) (c : Ctx) (f : MFault) : State :=
  if c.stopped then s
  else s.takeTrap a ⟨{ memFault f with slots := 1, unit := coreUnit a 8 0 }, c.pc, c.pc, c.tick, s.keptFlags c ||| c.repFlag, 0, 0,
    c.repK⟩ [] false

/-- The tile that a held `TTOV` waits for: the top of the stack (R249). -/
def Ctx.awaited (c : Ctx) : Option Nat :=
  if c.held && c.opsDone then
    match c.formT with
    | some (.ttov ..) => c.stack.head?.map (·.tile)
    | _ => none
  else none

/-- Whether room in the deck is needed for the present stream: for a held `TTOV`, or for a tile without a place that is not
of the stream a trap has interrupted. -/
def Ctx.movesOwn (c : Ctx) : Bool :=
  match c.capture with
  | none => true
  | some k => c.awaited.isSome || c.tiles.any fun t => t.2.tier == .none && t.2.img.isSome && decide (k.tiles ≤ t.1)

/-- Whether tiles leave the deck for the footing in anticipation: in a handler, where a fault that this meets would abort,
only for the handler's own (DESIGN CHOICE, log 25). -/
def Ctx.anticipates (c : Ctx) : Bool := c.capture.isNone || c.movesOwn

/-- Whether a `GRAD` has sent contributions: no unwinding cancels it any more (R296). -/
def TOp.hasSent (o : TOp) : Bool := engineOf o.form == .update && (o.status == .sent || o.prog != 0)

/-- A delivered fault that a sink meets: charged to the oldest incomplete operation, whatever it has done, or a trap of its
own when the window is empty, which in a handler aborts (R244, R138). The notice that an operation waits for is made at its
replay. While a `GRAD` that has sent contributions, which no unwinding may cancel (R296), or an operation that has a fault
of its own is the oldest, the sink is tried again after it (DEDUCED, log 25). -/
def State.sinkFault (s : State) (a : Nat) (f : MFault) : State :=
  match s.ctx a with
  | none => s
  | some c =>
    match c.window.find? fun o => !c.outOfWay o with
    | some o =>
      if o.hasFault || o.hasSent then s
      else ({ s with notices := s.notices.filter fun n => !(n.cid == c.cid && some n.seq == o.seq) } : State).onCtx a fun c =>
        c.faulted o.tseq { memFault f with unit := coreUnit a 8 0 }
    | none => if c.status != .running then s else s.moveTrap a c f

/-- A tile goes to the footing: it stays where it is while its page cannot be written. -/
def State.toFooting (s : State) (a : Nat) (c : Ctx) (id : Nat) (img : List Byte) : State :=
  match s.sinkTo a c id img with
  | .ok s1 _ => s1
  | .wait => s
  | .fault f => s.sinkFault a f

/-- The read of a tile from where it lies. A tile whose granules in the footing are poisoned is poisoned (R381). -/
def State.tileBytes (s : State) (c : Ctx) (id : Nat) (t : Tile) : Res (List Byte) :=
  match t.tier with
  | .footing k =>
    (match s.readFlatVia false none c.pd.toNat (s.floorOf c)
        (linePieces (t.bytes / 2048 + 3) (c.spillbase.toNat + 2048 * k) t.bytes) with
     | .fault f =>
       if f.cause = 0x50 then .ok { s with poison := (tileKey c.cid id * 2) :: s.poison } (t.img.getD []) else .fault f
     | r => r)
  | _ => .ok s (t.img.getD [])

/-- The last tile of the ranking in a tier that nothing running uses and that is not to be kept (R242, R243). -/
def Ctx.lastIn (c : Ctx) (tier : Tier) (keep : List Nat) : Option Nat :=
  c.rankedTiles.reverse.find? fun id => (match AL.find c.tiles id with
    | some t => t.tier == tier && t.img.isSome
    | none => false) && !c.inUse id && !keep.contains id

/-- The tile that an exchange would sink from the deck. -/
def Ctx.victim (c : Ctx) (keep : List Nat) : Option Nat := c.lastIn .deck keep

/-- The operations whose tiles a rise leaves in the deck, and whose room it does not take: those older than the one that
binds the tile, or the whole window when none does (R243). -/
def Ctx.before (c : Ctx) (tile : Nat) : List TOp :=
  match c.binder tile with
  | some o => c.older o.tseq
  | none => c.window

/-- The tiles that stay in the deck while a tile rises: what its operation and the older ones bind, or, when no operation
binds it, what all of them bind and, in anticipation, what is ranked before it (R243). -/
def Ctx.riseKeep (c : Ctx) (tile : Nat) : List Nat :=
  tile :: c.boundBy (c.before tile) ++
    (match c.binder tile with
     | some o => o.operands.map (·.tile)
     | none => if c.awaited == some tile then [] else c.awaited.toList ++ c.rankedTiles.take (c.rankedTiles.idxOf tile))

/-- The granules that a rise leaves free: what the older operations are owed, and, in anticipation, what a held `TZERO`
waits for (R242, R243). -/
def State.riseOwed (s : State) (c : Ctx) (tile : Nat) : Nat :=
  s.granulesOwed c (c.before tile) + (if (c.binder tile).isNone && c.awaited != some tile then c.toMake.getD 0 else 0)

/-- The tile that leaves the deck when one of so many granules rises: none when the deck has room beside what is owed; the
last of the ranking that may leave, when that makes the room. Without an answer the tile cannot rise now (R243). -/
def State.riseFor (s : State) (c : Ctx) (tile g : Nat) : Option (Option Nat) :=
  let fits := fun (u : Nat) => decide (u + g + s.riseOwed c tile ≤ c.deckG)
  if fits c.deckUsed then some none
  else match c.victim (c.riseKeep tile) with
    | none => none
    | some v => if fits (c.deckUsed - granules ((c.tileImg v).getD []).length) then some (some v) else none

/-- The fault that a rise meets: charged to the oldest operation that bound the tile; for a held `TTOV` a trap at its
bundle; of anticipation not delivered (R244). -/
def State.riseFault (s : State) (a tile : Nat) (c : Ctx) (f : MFault) : Option State :=
  match c.binder tile with
  | some o => some (s.faultOp a o.tseq { f with aux := 0 } (coreUnit a 8 0))
  | none => if c.awaited != some tile then none else some (s.moveTrap a c { f with aux := 0 })

/-- Whether a tile has no room in the deck beside what lies there. -/
def Ctx.lacksRoom (c : Ctx) (id : Nat) : Bool :=
  (AL.find c.tiles id).any fun t => decide (c.deckUsed + granules t.bytes > c.deckG)

/-- Whether a tile can sink: one of the deck to the pier or the footing, one of the pier to the footing. -/
def Ctx.canSink (c : Ctx) (id : Nat) : Bool :=
  match AL.find c.tiles id with
  | none => false
  | some t =>
    let g := granules t.bytes
    match t.tier with
    | .deck => decide (c.pierUsed + g ≤ c.pierG) || (c.freeRun g).isSome
    | .pier => (c.freeRun g).isSome
    | _ => false

/-- The tiles of a tier that may leave it, the latest in the order first (R242). -/
def Ctx.movable (c : Ctx) (tier : Tier) (keep : List Nat) : List Nat :=
  c.rankedTiles.reverse.filter fun id => (match AL.find c.tiles id with
    | some t => t.tier == tier && t.img.isSome
    | none => false) && !c.inUse id && !keep.contains id

/-- Whether no tile that may leave the deck or the pier can sink: whole tiles fill what the quotas leave them. The copy
engine then keeps a tile that the deck gives up, until a place is free (log 34). -/
def Ctx.stuck (c : Ctx) (keep : List Nat) : Bool := !(c.movable .pier keep ++ c.movable .deck keep).any c.canSink

/-- The tile that sinks next when the deck must give room (R242): its latest, when the pier takes it, or the footing takes
one that the pier can never hold; before it a tile of the pier that makes room there; then another of the deck that finds a
place; when no tile can sink, the latest of the deck all the same. -/
def Ctx.sinkNext (c : Ctx) (keep : List Nat) : Option Nat :=
  (c.victim keep).map fun v =>
    let g := ((AL.find c.tiles v).map fun t => granules t.bytes).getD 0
    if c.pierUsed + g ≤ c.pierG ∨ ((c.pierG = 0 ∨ g > c.pierG) ∧ (c.freeRun g).isSome) then v
    else ((c.movable .pier keep ++ c.movable .deck keep).find? c.canSink).getD v

/-- A tile comes into the deck: none where it cannot now. A tile that has no room there is exchanged with one that
sinks, to the pier when it has room, else to the footing, where the slots of the risen tile are free (R243, R393). -/
def State.rise (s : State) (a tile : Nat) : Option State :=
  match s.ctx a with
  | none => none
  | some c =>
    match AL.find c.tiles tile with
    | none => none
    | some t =>
      if t.img.isNone || t.tier == .deck then none
      else match s.riseFor c tile (granules t.bytes) with
        | none => none
        | some out =>
          match s.tileBytes c tile t with
          | .wait => none
          | .fault f => s.riseFault a tile c f
          | .ok s1 img =>
            match out with
            | none => some (s1.onCtx a fun c => c.setTier tile .deck (some img))
            | some v =>
              let vi := (c.tileImg v).getD []
              let c1 := c.setTier tile .none (some img)
              if c1.pierUsed + granules vi.length ≤ c.pierG then
                some (s1.onCtx a fun c => (c.setTier v .pier (some vi)).setTier tile .deck (some img))
              else
                let direct := (match t.tier with
                  | .footing _ => true
                  | _ => false) || c.pierG = 0 || granules vi.length > c.pierG
                if (c.binder tile).isNone && c.awaited != some tile && !c.anticipates then none
                else if c1.stuck (c.riseKeep tile) then
                  some (s1.onCtx a fun c => (c.setTier v .none (some vi)).setTier tile .deck (some img))
                else if !direct || (c1.freeRun (granules vi.length)).isNone then none
                else match (s1.setCtx a c1).sinkTo a c1 v vi with
                  | .ok s2 _ => some (s2.onCtx a fun c => c.setTier tile .deck (some img))
                  | .wait => none
                  | .fault f => some (s.sinkFault a f)

/-- Whether the copy engine of a core runs no copy. -/
def State.copyFree (s : State) (core : Nat) : Bool := (s.busy core .copy).isEmpty

/-- A rise that can be made now: its agent, its tile, and the state it leaves. -/
structure Rise where
  agent : Nat
  tile  : Nat
  after : State

/-- The rises that the operations of a context wait for, the oldest operation first and its operands in pop order, and
that of a held `TTOV` (R242, R394). -/
def Ctx.boundTiles (c : Ctx) : List Nat :=
  (c.window.filterMap fun o => if c.waits o then c.firstRise o else none) ++ c.awaited.toList

/-- The tiles that the copy engine raises in anticipation: those of the `trise` shallowest entries, and one that had no
room in the deck when it was made (R242). -/
def Ctx.risingTiles (c : Ctx) : List Nat :=
  (c.stack.take c.trise).map (·.tile) ++ c.tiles.filterMap fun e => if e.2.tier == .none && e.2.img.isSome then some e.1 else none

/-- The first rise of a core's contexts that can be made now, out of what each asks for. -/
def State.firstOf (s : State) (core : Nat) (f : Ctx → List Nat) : Option Rise :=
  (s.slotsFrom core (s.coreSt core).rrCopy).findSome? fun e =>
    (f e.2).findSome? fun id => (s.rise e.1 id).map fun s1 => ⟨e.1, id, s1⟩

/-- The rise of a bound operand that a core's copy engine makes next. -/
def State.boundRise (s : State) (core : Nat) : Option Rise := s.firstOf core Ctx.boundTiles

/-- Whether a copy of a core's window is ready. -/
def State.copyReady (s : State) (core : Nat) : Bool := (s.enginePick core .copy 0).isSome

/-- `TILE_RISE` (R242 to R244): the copy engine, when it runs no copy, raises a bound operand, or, while none can rise and
no copy is ready, a tile in anticipation. -/
def execTileRise (a tile : Nat) (s : State) : Host.Outcome State Fault Refusal :=
  let core := coreOf a
  if !s.copyFree core then .next s
  else match s.boundRise core with
    | some r => .next (if r.agent == a && r.tile == tile then r.after.onCore core fun x => x.served .copy 0 a else s)
    | none =>
      match s.ctx a with
      | none => .next s
      | some c =>
        if s.copyReady core || !c.risingTiles.contains tile then .next s
        else .next ((s.rise a tile).getD s)

/-- The oldest operation of a context that waits for room in the deck: for an operand, or, when it may start, for its
result. -/
def State.wantsRoom (s : State) (c : Ctx) : Option TOp :=
  c.window.find? fun o => c.waits o && ((c.firstRise o).any c.lacksRoom ||
    (o.operands.all (fun e => c.inDeck e.tile) && s.opSat c o && decide (c.deckUsed + c.resultGrans o > c.deckG)))

/-- The tiles that a sink must leave where they are, when room is needed for something (R242): for an operation that waits
for room, which leaves the older ones theirs, for the tile of a held `TTOV`, for the tile that a held `TZERO` makes, or, as
the copy engine's last work, for a tile in anticipation; none when nothing needs room. -/
def State.sinkKeep (s : State) (core : Nat) (c : Ctx) : Option (List Nat) :=
  match s.wantsRoom c with
  | some o => some (c.boundBy (c.older o.tseq) ++ o.operands.map (·.tile))
  | none =>
    match c.awaited.filter fun id => !c.inDeck id && c.lacksRoom id with
    | some id => some (c.riseKeep id)
    | none => if c.toMake.any fun g => decide (c.deckUsed + g > c.deckG) then some (c.boundBy c.window) else
      if !c.anticipates || s.copyReady core || (s.firstOf core Ctx.risingTiles).isSome then none
      else (c.risingTiles.find? fun id => (c.tileImg id).isSome && !c.inDeck id && c.lacksRoom id).map c.riseKeep

/-- `TILE_SINK` (R242): when room is needed, the tile that is to sink next goes from the deck to the pier, or to the footing
where the pier has no room for it, or from the pier to the footing. -/
def execTileSink (a tile : Nat) (s : State) : Host.Outcome State Fault Refusal :=
  let core := coreOf a
  match s.ctx a with
  | none => .next s
  | some c =>
    if !s.copyFree core || (s.boundRise core).isSome then .next s
    else match s.sinkKeep core c, AL.find c.tiles tile with
      | some keep, some t =>
        let g := granules t.bytes
        (match t.img, t.tier with
         | some img, .deck =>
           .next (if c.sinkNext keep != some tile then s
             else if c.pierUsed + g ≤ c.pierG then s.onCtx a fun c => c.setTier tile .pier (some img)
             else if c.stuck keep then s.onCtx a fun c => c.setTier tile .none (some img)
             else s.toFooting a c tile img)
         | some img, .pier => .next (if c.sinkNext keep != some tile then s else s.toFooting a c tile img)
         | _, _ => .next s)
      | _, _ => .next s

/-- `BANK_VACATE` (R44): the deck granules in the banks of a slot being bound are vacated, so those banks hold no deck
tile, and its context may issue. Which granule a tile holds is not a place of this model. -/
def execBankVacate (core slot : Nat) (s : State) : Host.Outcome State Fault Refusal :=
  if (s.ctx (core * 4 + slot)).isNone then .next s
  else
    let vacate := fun (b : Nat × Bank) =>
      if decide (core * 64 + 3 * slot ≤ b.1) && decide (b.1 < core * 64 + 3 * slot + 3) then (b.1, { b.2 with deck := none }) else b
    .next (({ s with banks := s.banks.map vacate } : State).onCtx (core * 4 + slot) fun c => { c with vacating := false })

/-! ## The steps of the engines -/

/-- Whether an engine takes an operation: it is the one the engine picks, and no rise of a bound operand comes before a
copy (R242). -/
def State.claims (s : State) (a q : Nat) (k : EngClass) (u : Nat) : Bool :=
  (match s.enginePick (coreOf a) k u with
   | some p => p.1 == a && p.2.tseq == q
   | none => false) && !(k == .copy && (s.boundRise (coreOf a)).isSome)

/-- An operation binds a poisoned tile: a `MACHINE` event, which names the deck bank of the tile (R375, R381); once the
context's instance has retired, its form fails. -/
def State.poisonedOp (s : State) (a : Nat) (c : Ctx) (o : TOp) : State :=
  let tile := ((o.binds ++ o.plane.toList).find? fun e => s.poisoned (tileKey c.cid e.tile) 8).map (·.tile)
  let unit := coreUnit a 2 (s.deckBankOf a c (tile.getD 0))
  if c.status == .running then s.machineEvent a o.pos 1 (some o.tseq) 0 0 unit
  else s.machineLate c.cid (some a) ⟨{ cause := 0x50, slots := 1, unit := unit }, o.pos, c.pc, c.tick, 32, 0, o.tseq, 0⟩
    (s.failOp a o.tseq)

/-- The unit that meets a fault of an operation at an address (R46, R376): for a region in host memory the grinder of the
host port (R292). -/
def State.opUnit (s : State) (a : Nat) (c : Ctx) (o : TOp) (u va : Nat) : BitVec 32 :=
  if engineOf o.form == .grinder && s.grinderOf c.pd.toNat o.stashVa == 96 then unitPath 4 0 0 11 0
  else s.engineUnit a c.pd.toNat o.form u va

/-- A replayed `TZERO` makes its tile once the deck has room for it (R242, R258, log 34). -/
def State.makeTile (s : State) (a : Nat) (c : Ctx) (o : TOp) : State :=
  match o.results.head? with
  | none => s
  | some r =>
    if c.olderFaulted o || !c.roomFor r.bytes then s
    else (s.onCtx a fun c => c.placeResults o).finishOp a o.tseq (some (List.replicate r.bytes 0)) [] 0

/-- `TILE_ENGINE_CLAIM` (R247): a free engine takes the oldest ready operation of its class; a vector-tile engine first
serves the epilogues. An operation whose witness has failed faults (R191); one that binds a poisoned tile is a `MACHINE`
event, and one whose entry in the window is poisoned fails (R381). -/
def execTileEngineClaim (a q : Nat) (s : State) : Host.Outcome State Fault Refusal :=
  match s.ctx a with
  | none => .next s
  | some c =>
    match c.op q with
    | none => .next s
    | some o =>
      let k := engineOf o.form
      if o.status != .waiting then .next s
      else if k == .none then .next (s.makeTile a c o)
      else if s.poisoned (opKey c.cid q) 8 then .next (s.failOp a q)
      else if !o.sat && s.witFailed o.wit then
        (if c.status != .running then .next (s.failOp a q)
         else .next (s.onCtx a fun c => c.faulted q { cause := 0x33, aux := o.wit, unit := s.opUnit a c o 0 o.stashVa }))
      else if k == .vt && !(s.coreSt (coreOf a)).epi.isEmpty then .next s
      else match s.freeUnit (coreOf a) k with
        | none => .next s
        | some u =>
          if !s.claims a q k u then .next s
          else if (o.binds ++ o.plane.toList).any fun e => s.poisoned (tileKey c.cid e.tile) 8 then .next (s.poisonedOp a c o)
          else
            .next ((s.onCore (coreOf a) fun x => x.served k u a).onCtx a fun c =>
              (c.placeResults o).onOp q fun o => { o with status := .running u })

/-- Put an operation in a status, with so much of its work done. -/
def State.opStatus (s : State) (a q : Nat) (st : OpStatus) (prog : Nat) : State :=
  s.onCtx a fun c => c.onOp q fun o => { o with status := st, prog := prog }

/-- What a copy makes once its bytes are written and no unwinding can cancel it any more: its arrival, or its notice,
which it waits for (R285, R287, log 33). -/
def State.afterCopy (s : State) (a : Nat) (c : Ctx) (o : TOp) : State :=
  match o.form with
  | .tsendq .. =>
    if o.prog = 0 then ({ s with notices := s.notices ++ [o.notice c] } : State).opStatus a o.tseq .sent 1
    else if s.notices.any fun n => n.cid == c.cid && some n.seq == o.seq then s
    else s.finishOp a o.tseq none [] 0
  | _ => (s.queueArrival c o).finishOp a o.tseq none [] 0

/-- The engine byte of an operation: of a grinder's work the grinder that serves its first block. -/
def State.opByte (s : State) (c : Ctx) (o : TOp) (u : Nat) : BitVec 8 :=
  if engineOf o.form == .grinder then
    let g := s.grinderOf c.pd.toNat o.stashVa
    engineByte o.form (if g = 96 then 0 else g % 24)
  else engineByte o.form u

/-- The outcome of an operation's run on unit u of its class. -/
def State.ran (s : State) (a : Nat) (c : Ctx) (o : TOp) (u : Nat) (r : Ran) : State :=
  match r with
  | .done s1 img st => s1.finishOp a o.tseq img st (s.opByte c o u)
  | .wait s1 n => s1.opStatus a o.tseq (.running u) n
  | .sent s1 => s1.opStatus a o.tseq .sent 0
  | .fault s1 f => s1.faultOp a o.tseq f (s.opUnit a c o u f.faddr)

/-- `TILE_OP_COMPLETE` (R248): the engine's work is done; a trestle result with an epilogue joins its core's queue, when
that has room (R342). -/
def execTileOpComplete (a q : Nat) (s : State) : Host.Outcome State Fault Refusal :=
  match s.ctx a with
  | none => .next s
  | some c =>
    match c.op q with
    | none => .next s
    | some o =>
      match o.status with
      | .running u =>
        if hasEpilogue o.form then
          if (s.coreSt (coreOf a)).epi.length ≥ s.depthOf (epiQueue (coreOf a)) 4 64 then .next s
          else .next ((s.onCtx a fun c => c.onOp q fun o => { o with status := .epilogue }).onCore (coreOf a) fun x =>
            { x with epi := x.epi ++ [(a, q)] })
        else .next (s.ran a c o u (runOp s a c o u))
      | .serving u => .next (s.ran a c o u (runCompute s c o))
      | .sent => .next (if engineOf o.form == .copy && c.olderDone q then s.afterCopy a c o else s)
      | _ => .next s

/-- `EPILOGUE_SERVE` (R247, R265): a free vector-tile engine takes the oldest epilogue of its core's queue. -/
def execEpilogueServe (core : Nat) (s : State) : Host.Outcome State Fault Refusal :=
  match (s.coreSt core).epi, s.freeUnit core .vt with
  | (a, q) :: r, some u =>
    let s1 := (s.onCore core fun x => { x with epi := r }).returnChunks (epiQueue core) r.length 4
    .next (match s.ctx a with
      | none => s1
      | some _ => (s1.onCore core fun x => x.served .vt u a).onCtx a fun c =>
          c.onOp q fun o => if o.status == .epilogue then { o with status := .serving u } else o)
  | _, _ => .next s

/-! ## Unwinding (R250, R378) -/

/-- The first access of a context older than an operation whose fault is known too, with what its record names, and whether
it is kept: one whose witness has failed is not (R191, R378). -/
def State.olderAccFault (s : State) (c : Ctx) (o : TOp) : Option (Access × TrapInfo × Bool) :=
  s.accs.findSome? fun x =>
    if !(x.cid == c.cid && decide (x.id < o.ord) && x.level == 0 && !x.kept) then none
    else if (match x.kind with
        | .swarr => false
        | _ => true) && !x.sat && s.witFailed x.wit then
      some (x, { cause := 0x33, aux := x.wit, slots := mSlotBit, unit := seqUnit x.agent }, false)
    else if s.mayTry x then
      (s.accFault x).bind fun f => if f.cause = 0x50 then none else some (x, { memFault f with slots := mSlotBit }, true)
    else none

/-- A tile that lies in the footing is taken from there. -/
def State.liftTile (s : State) (a id : Nat) : State :=
  match s.ctx a with
  | none => s
  | some c =>
    match AL.find c.tiles id with
    | some t =>
      (match t.img, t.tier with
       | some img, .footing _ =>
         (match s.tileBytes c id t with
          | .ok s1 bs => s1.onCtx a fun c => c.setTier id .none (some bs)
          | _ => s.onCtx a fun c => c.setTier id .none (some img))
       | _, _ => s)
    | none => s

/-- A tile lies again in the tier where it lay: one that lay in the footing is written there again. -/
def State.putBack (s : State) (a : Nat) (p : Nat × Tier) : State :=
  match s.ctx a with
  | none => s
  | some c =>
    match AL.find c.tiles p.1 with
    | none => s
    | some t =>
      if t.tier == p.2 || t.img.isNone then s
      else match p.2 with
        | .footing k =>
          (match s.writeFlatVia false c.pd.toNat
              (linePieces (t.bytes / 2048 + 3) (c.spillbase.toNat + 2048 * k) t.bytes) (t.img.getD []) with
           | (s1, none) => (s1.markFooting c p.1 (c.spillbase.toNat + 2048 * k)).onCtx a fun c => c.setTier p.1 p.2 t.img
           | _ => s.onCtx a fun c => c.setTier p.1 .none t.img)
        | tier => s.onCtx a fun c => c.setTier p.1 tier t.img

/-- A tile that had no place then finds one beside those that had: in the deck, the pier or the footing, where that has
room; else it stays with the copy engine. -/
def State.settleTile (s : State) (a id : Nat) : State :=
  match s.ctx a with
  | none => s
  | some c =>
    match AL.find c.tiles id with
    | none => s
    | some t =>
      let full := match t.tier with
        | .deck => decide (c.deckUsed > c.deckG)
        | .pier => decide (c.pierUsed > c.pierG)
        | .none => true
        | .footing _ => false
      match t.img, full with
      | some img, true =>
        let c1 := c.setTier id .none (some img)
        let g := granules t.bytes
        if c1.deckUsed + g ≤ c.deckG then s.setCtx a (c.setTier id .deck (some img))
        else if c1.pierUsed + g ≤ c.pierG then s.setCtx a (c.setTier id .pier (some img))
        else match (s.setCtx a c1).sinkTo a c1 id img with
          | .ok s1 _ => s1
          | _ => s.setCtx a c1
      | _, _ => s

/-- The granule placement is as it stood just before an operation issued (R250, R393): what had no place in the footing then
leaves it, every tile that had a place lies there again, and the others settle beside them. -/
def State.putAllBack (s : State) (a : Nat) (o : TOp) : State :=
  let had := o.place.filter fun p => p.2 != .none
  let rest := ((((s.ctx a).map fun c => c.tiles.map (·.1)).getD []).filter fun id => !(had.any fun p => p.1 == id))
  let s1 := rest.foldl (fun (s : State) id => s.liftTile a id) s
  let s2 := had.foldl (fun (s : State) p => s.putBack a p) s1
  rest.foldl (fun (s : State) id => s.settleTile a id) s2

/-- The context with operations cancelled, the faulting one first, out of all that stand from there on: charges are
refunded, and the stack, the planes and the ranking stand as just before it issued. -/
def Ctx.cancelOps (c : Ctx) (l : List TOp) (all : Nat) : Ctx :=
  match l with
  | [] => c
  | o :: _ =>
    let c1 : Ctx := c.refund (l.map fun (x : TOp) => x.energy).sum
    Ctx.gc { c1 with
      window := c.window.filter fun x => !l.any fun y => y.tseq == x.tseq
      stack := o.stack0, plane0 := o.plane0, plane1 := o.plane1, recent := c.recent.drop all }

/-- The record of an unwinding that leaves state s1: it names the operation, or an older access whose fault is known as well
(R376, R378). -/
def unwindRec (s1 : State) (c : Ctx) (o : TOp) (info : TrapInfo) (older : Option (Access × TrapInfo × Bool)) (n : Nat) : TrapRec :=
  let fl := s1.keptFlags c ||| 1 ||| c.repFlag ||| (if c.late then 16 else 0)
  match older with
  | some (x, i, _) => ⟨i, x.pos, c.pc, c.tick, fl, n, 0, c.repK⟩
  | none => ⟨info, o.pos, c.pc, c.tick, fl ||| 32, n, o.tseq, c.repK⟩

/-- The state in which an unwinding traps when an older access has a fault too: the accesses not yet performed are kept, that
one first, or dropped with its result when its witness has failed (R184, R191, R378). -/
def State.keepOlder (s : State) (a : Nat) (c : Ctx) (older : Option (Access × TrapInfo × Bool)) : State :=
  let mark := fun (y : Access) => if y.cid == c.cid && y.level == 0 then y.keep else y
  match older with
  | none => s
  | some (x, _, true) => { s with accs := ((s.accs.filter fun y => y.id == x.id) ++ s.accs.filter fun y => y.id != x.id).map mark }
  | some (x, _, false) =>
    let s1 := (s.dropAccess x.id).onCtx a fun c => c.dropAcc x.id
    { s1 with accs := s1.accs.map mark }

/-- An operation as the replay list keeps it (R250). -/
def TOp.asReplay (o : TOp) : TOp := { o with status := .waiting, stats := [], eng := 0, prog := 0 }

/-- A trap that an unwinding takes: the state before stands where it cannot be taken yet. -/
def State.unwound (s s2 : State) (a : Nat) (c : Ctx) (again : Bool) : State :=
  match s2.ctx a with
  | none => s2
  | some c2 => if c2.cid != c.cid || (if again then c2.refault.isNone && c2.window.isEmpty else c2.capture.isSome) then s2 else s

/-- The trap of an unwinding, out of the state s0 in which the operations are cancelled: of a replay that has faulted again,
which keeps the capture that is held, or else a first one, which an older access whose fault is known may name (R250, R251,
R378). A handler's own operation faults inside the handler (R138). -/
def State.unwindTrap (s s0 : State) (a : Nat) (c : Ctx) (o : TOp) (info : TrapInfo) (replay : List TOp) : State :=
  if c.refault.isSome && c.capture.isSome && !o.handler then
    s.unwound (s0.takeTrap a { replayRec s a c (info.cause, info.aux, info.faddr.toNat) replay with info := info } replay true) a c true
  else
    let older := s.olderAccFault c o
    let s1 := s0.keepOlder a c older
    s.unwound (s1.takeTrap a (unwindRec s1 c o info older replay.length) replay false) a c false

/-- `UNWIND`: once every older operation has retired, the faulting operation and every younger one are cancelled into the
replay list, and the context traps where it stopped; one that is being saved unwinds its window at the save and traps at its
resumption (R245, R346). What a handler has completed since is not cancelled (R252, log 35). A fault met by a replay is raised anew once the operations replayed
before it are complete; one of those that faults in the meantime comes first (R250, R251). A fault left in the window of a
context past its `EXIT` fails its form (R349). -/
def execUnwind (a : Nat) (s : State) : Host.Outcome State Fault Refusal :=
  match s.ctx a with
  | none => .next s
  | some c =>
    if c.status == .exited then
      .next (match c.window.find? TOp.hasFault with
        | some o => s.failOp a o.tseq
        | none => s)
    else match c.window.dropWhile c.outOfWay, c.refault with
    | [], some (info, o :: r) => .next (if c.stopped then s else s.unwindTrap s a c o info (o :: r))
    | o :: r, ref =>
      match o.status with
      | .faulted info =>
        let gone := o :: r.filter fun x => !(x.handler && x.status == .done)
        let replay := gone.map TOp.asReplay ++ ((ref.map (·.2)).getD [])
        let s0 := ((s.setCtx a (c.cancelOps gone (o :: r).length)).putAllBack a o).onCtx a Ctx.retireTiles
        .next (if c.stopped then s0.onCtx a fun c => { c with refault := some (info, replay) }
          else s.unwindTrap s0 a c o info replay)
      | _ => .next s
    | _, _ => .next s

end Sys2Proof.Machine
end

