-- ==== Sys2Proof/Machine/EvUnits.lean ====
section
/-! DEFINITION. The steps of the update units, the collective engines and the notices (04 R103 to R108, 10 R285, R295 to
R301, R407). -/

namespace Sys2Proof.Machine

/-! ## Gradient lines (R103 to R106, R295) -/

/-- A cleared accumulator of 16 blocks. -/
def clearBlocks : List AccBlock := List.replicate 16 ⟨-512, List.replicate 32 0, List.replicate 32 0⟩

/-- One contribution applied to the 16 blocks of a line, and the events its elements met: non-finite, flushed. The rne_int of
a mantissa posts neither event 5 nor event 7 (DESIGN CHOICE, R109, log 30). -/
def applyBlocks (bs : List AccBlock) (x : Contribution) : List AccBlock × List Nat :=
  let vs := x.data.map fun u => NFmt.f32.decode u.toNat x.scale (fmtFlush x.fmt)
  (List.zipWith (fun (b : AccBlock) g =>
      let r := (⟨b.x, b.m, b.st⟩ : AccVal).contribute (g.map (·.1))
      (⟨r.x, r.m, r.st⟩ : AccBlock)) bs (chunks 32 vs),
    vs.map fun v => (if stateOf v.1 = 0 then 0 else ev 11) + (if v.2 then ev 6 else 0))

/-- The line in progress with a tag. -/
def State.line (s : State) (t : Tag) : Option GradLine := s.lines.find? fun l => l.tag == t

/-- Put a line in place of the one with its tag. -/
def State.putLine (s : State) (l : GradLine) : State :=
  if s.lines.any fun m => m.tag == l.tag then { s with lines := s.lines.map fun m => if m.tag == l.tag then l else m }
  else { s with lines := s.lines ++ [l] }

/-- Whether a `GRAD` is still to send contributions: its operation runs. -/
def State.sending (s : State) (x : Contribution) : Bool :=
  s.ctxs.any fun e => e.2.window.any fun o => o.agent == x.agent && o.seq == some x.seq &&
    (match o.status with
     | .running _ => true
     | _ => false)

/-- A contribution's form is settled once it has sent all of them and none waits for its adder or in a reorder buffer
(R295). -/
def State.settleGrad (s : State) (x : Contribution) : State :=
  let mine := fun (y : Contribution) => y.agent == x.agent && y.dom == x.dom && y.seq == x.seq
  if s.grads.any mine || s.sending x || s.lines.any fun l => l.reorder.any mine then s else s.formLevel x.agent x.dom x.seq 5

/-- An update unit's records go to the queue of the context whose form supplied the `fmt`. -/
def State.postGrad (s : State) (x : Contribution) (evs : List Nat) : State :=
  s.postTo (s.slotOfCid x.cid) x.cid x.pos (engUpdate x.tag.home) (statsOf (fmtStatmask x.fmt) evs)

/-- One contribution is applied to a line: all its blocks, and the count advances. The records of the line's completion have
the `fmt`, the context and the bundle of the contribution applied last (DESIGN CHOICE, log 30). -/
def State.applyGrad (s : State) (l : GradLine) (x : Contribution) : State :=
  let r := applyBlocks l.blocks x
  let l1 := { l with
    blocks := r.1, count := l.count + 1, next := x.idx + 1, used := x.idx :: l.used, fmt := x.fmt, cid := x.cid, pos := x.pos
    reorder := l.reorder.filter fun y => y.idx != x.idx }
  (((s.progress (x.tag.home / 24)).putLine l1).settleGrad x).postGrad x r.2

/-- The early arrivals of a line in ordered mode that are now in turn. -/
def State.drainReorder (fuel : Nat) (s : State) (t : Tag) : State :=
  match fuel with
  | 0 => s
  | n + 1 =>
    match s.line t with
    | none => s
    | some l =>
      match l.reorder.find? fun y => y.idx == l.next with
      | none => s
      | some y => State.drainReorder n (s.applyGrad l y) t

/-- A contribution has been accepted; the `GRAD` is complete once all of its contributions are (R106). -/
def State.accepted (s : State) (x : Contribution) : State :=
  if s.unaccepted x.agent x.dom x.seq then s
  else
    let a := s.slotOfCid x.cid
    match (s.ctx a).bind fun c => c.window.find? fun o => o.status == .sent && o.agent == x.agent && o.seq == some x.seq with
    | none => s
    | some o => s.finishOp a o.tseq none [] (engineByte o.form x.tag.home)

/-- A contribution reaches its line (R104 to R106). One for a line whose count is complete waits for the next step; in
ordered mode an index too far ahead waits, an index out of range or repeated is discarded. -/
def State.takeGrad (s : State) (i : Nat) : State :=
  match s.grads[i]? with
  | none => s
  | some x =>
    let t := x.tag
    let l := (s.line t).getD ⟨x.dom, x.tensor, x.coords, x.record, clearBlocks, 0, 0, [], [], x.fmt, x.cid, x.pos, false⟩
    let r := TRec.parse x.tensor l.record
    let s0 : State := { s with grads := s.grads.eraseIdx i }
    let s1 := (s0.returnChunks (gradQueue t.home) (s0.grads.filter fun y => y.tag.home == t.home).length 32).accepted x
    if l.count ≥ r.expect then s
    else if !r.ordered then s1.applyGrad l x
    else if x.idx ≥ r.expect ∨ x.idx < l.next ∨ (l.reorder.any fun y => y.idx == x.idx) then
      (s1.settleGrad x).postGrad x [ev 12]
    else if x.idx ≥ l.next + 16 then s
    else if x.idx = l.next then State.drainReorder 16 (s1.applyGrad l x) t
    else s1.putLine { l with reorder := l.reorder ++ [x] }

/-- `GRAD_CONTRIBUTION` (R104 to R106): the unit waits while its records find no room (R342). -/
def execGradContribution (i : Nat) (s : State) : Host.Outcome State Fault Refusal := .next (s.whenPosted (s.takeGrad i))

/-! ## The completion of a line (R107, R108, R297) -/

/-- The in-bounds coordinates of a line, with the number of each element in it. -/
def GradLine.cells (l : GradLine) (r : TRec) : List (Nat × List Int) :=
  let base := (r.others.zip (l.coords.drop 2)).foldl (fun (co : List Int) x => co.set x.1 (x.2 : Int)) (List.replicate 7 0)
  let row := (l.coords[0]?).getD 0 * 8
  let col := (l.coords[1]?).getD 0 * 64
  ((List.range 8).flatMap fun i => (List.range 64).map fun j =>
    (i * 64 + j, (if r.cdim == r.rdim then base else base.set r.rdim ((row + i : Nat) : Int)).set r.cdim ((col + j : Nat) : Int))).filter
    fun c => r.inBounds c.2 && (r.cdim != r.rdim || c.1 < 64)

/-- Whether a record can serve a line: its format, and the gradient record's rank and extents. -/
def matchesGrad (r g : TRec) (bs : List Byte) (fmt : BitVec 6) : Bool :=
  !recDefect bs && r.fmt == fmt && r.rank == g.rank && r.ext == g.ext

/-- A record by its identifier through the record cache of a die: nothing of a poisoned one, which serves no line (R381). -/
def State.recordOf (s : State) (die dom id : Nat) : State × List Byte :=
  let s1 := s.fillRecord die dom id
  (s1, if s1.poisoned (recKey die dom id) 8 then [] else ((s1.cached die dom id).map (·.bytes)).getD [])

/-- The 32-bit words of a box image. -/
def words32 (bs : List Byte) : List (BitVec 32) := (elemsOf 4 bs).map (BitVec.ofNat 32)

/-- The records that a completion uses: master, the states its optimizer reads, and the copy when there is one; none when
one of them is missing or does not match (R297). -/
def State.lineRecords (s : State) (die dom : Nat) (g : TRec) (h : Hyper) : State × Option (List TRec × Option TRec) :=
  let ids := g.master :: (if g.opt = 0 then [] else if g.opt = 1 then [h.sa] else [h.sa, h.sb])
  let step := fun (acc : State × Option (List TRec)) (id : Nat) =>
    match acc.2 with
    | none => acc
    | some l =>
      if id = 0 then (acc.1, none)
      else
        let r := acc.1.recordOf die dom id
        let t := TRec.parse id r.2
        (r.1, if matchesGrad t g r.2 6 then some (l ++ [t]) else none)
  let r := ids.foldl step (s, some [])
  match r.2 with
  | none => (r.1, none)
  | some l =>
    if g.copyid = 0 then (r.1, some (l, none))
    else
      let c := r.1.recordOf die dom g.copyid
      let t := TRec.parse g.copyid c.2
      (c.1, if matchesGrad t g c.2 5 then some (l, some t) else none)

/-- The boxes of several records, read under the transparent policy. -/
def State.readBoxes (s : State) (dom : Nat) (rs : List TRec) (cs : List (List Int)) : Res (List (List (BitVec 32))) :=
  match rs with
  | [] => .ok s []
  | r :: rest =>
    match s.readBox true none dom r [] cs with
    | .fault f => .fault f
    | .wait => .wait
    | .ok s1 b =>
      match s1.readBoxes dom rest cs with
      | .fault f => .fault f
      | .wait => .wait
      | .ok s2 l => .ok s2 (words32 b :: l)

/-- Several boxes written under the transparent policy. -/
def State.writeBoxes (s : State) (dom : Nat) (ws : List (TRec × List Byte)) (cs : List (List Int)) :
    State × Option (Option MFault) :=
  match ws with
  | [] => (s, none)
  | w :: rest =>
    let r := s.writeBox true dom w.1 [] cs w.2
    match r.2.stop with
    | none => r.1.writeBoxes dom rest cs
    | some x => (r.1, some x)

/-- The arrival of an update unit at its line's completion word. -/
def State.lineArrival (s : State) (l : GradLine) (r : TRec) (wit : W64) (seq : Nat) : State :=
  { s with
    nextId := s.nextId + 1
    arrivals := s.arrivals ++ [⟨s.nextId, l.dom, false, r.syncw, l.cid, 2048, wit, 773 + l.tag.home, seq, 0, false, s.epoch,
      l.fmt, l.pos, none, 0⟩] }

/-- A line that fails writes nothing: event 11, a cleared accumulator, and an arrival with a failed witness (R297). -/
def State.failLine (s : State) (l : GradLine) (r : TRec) : State :=
  let a := 773 + l.tag.home
  let q := s.takeSeq a l.dom 4 0
  let s1 := (q.1.formFail a l.dom q.2).postTo (q.1.slotOfCid l.cid) l.cid l.pos (engUpdate l.tag.home)
    (statsOf (fmtStatmask l.fmt) [ev 11])
  ({ s1 with lines := s1.lines.filter fun m => m.tag != l.tag }).lineArrival l r (failWit (s.singleWit 4 l.dom a q.2)) q.2

/-- The three values of an element after its optimizer, the words of every tensor that is written, each with the events
met on its way. -/
def lineResults (g : TRec) (h : Hyper) (gv : List Ev32) (olds : List (List (BitVec 32))) : List (Ev32 × Ev32 × Ev32) :=
  gv.zipIdx.map fun x =>
    let at' := fun (k : Nat) => ((((olds[k]?).bind fun l => l[x.2]?).getD 0, 0) : Ev32)
    optimizeEv g.opt h (at' 0) x.1 (at' 1) (at' 2)

/-- The copy element of a master element, with the events of its rounding (R107 step 4). -/
def copyElem (w : BitVec 32) : Nat × Nat := NFmt.bf16.finish 0 0 false [f32Val w] (f32Val w)

/-- The events of an element of a line: those of its operations, of its copy when there is one, and event 11 for a result
that is not finite (Table 4-7). -/
def lineEvents (copy : Bool) (v : Ev32 × Ev32 × Ev32) : Nat :=
  v.1.2 ||| v.2.1.2 ||| v.2.2.2 ||| (if copy then (copyElem v.1.1).2 else 0) |||
    (if [v.1.1, v.2.1.1, v.2.2.1].any fun u => stateOf (f32Val u) != 0 then ev 11 else 0)

/-- A line is completed (R107): the unit converts, reads, optimizes, writes and arrives. A unit that holds 2^19 numbers of the
domain waits (R190). A poisoned accumulator fails its line (R381). -/
def State.completeLine (s : State) (i : Nat) : State :=
  match s.lines[i]? with
  | none => s
  | some l =>
    let r := TRec.parse l.tensor l.record
    let home := l.tag.home
    if l.count < r.expect ∨ s.outstanding (773 + home) l.dom ≥ 2 ^ 19 then s
    else if l.bad then s.failLine l r
    else
      let cells := l.cells r
      let cs := cells.map (·.2)
      let all := l.blocks.flatMap fun b => (⟨b.x, b.m, b.st⟩ : AccVal).finish
      let gv := cells.map fun c => (all[c.1]?).getD (0, 0)
      match s.readFlatVia true none l.dom [] (linePieces 3 r.hyper 64) with
      | .wait => s
      | .fault _ => s.failLine l r
      | .ok s1 hb =>
        let h := Hyper.ofBytes hb
        match s1.lineRecords (home / 24) l.dom r h with
        | (s2, none) => s2.failLine l r
        | (s2, some (rs, copy)) =>
          match s2.readBoxes l.dom rs cs with
          | .wait => s
          | .fault _ => s2.failLine l r
          | .ok s3 olds =>
            let res := lineResults r h gv olds
            let vals : List (List (BitVec 32)) := [res.map (·.1.1), res.map (·.2.1.1), res.map (·.2.2.1)]
            let ws := (rs.zip vals).map fun x => (x.1, imageOf 4 (x.2.map (·.toNat)))
            let cw := copy.toList.map fun c => (c, imageOf 2 (res.map fun v => (copyElem v.1.1).1))
            match s3.writeBoxes l.dom (ws ++ cw) cs with
            | (_, some none) => s
            | (_, some (some _)) => s2.failLine l r
            | (s4, none) =>
              let a := 773 + home
              let bad := res.map (lineEvents copy.isSome)
              let q := s4.takeSeq a l.dom 4 0
              let tags := (ws ++ cw).flatMap fun w => boxTags w.1 l.dom cs
              let s5 := (q.1.wroteLines a 0 l.dom 4 (some q.2) l.pos tags).postTo (q.1.slotOfCid l.cid) l.cid l.pos
                (engUpdate home) (statsOf (fmtStatmask l.fmt) bad)
              ({ s5 with lines := s5.lines.filter fun m => m.tag != l.tag }).lineArrival l r (s4.singleWit 4 l.dom a q.2) q.2

/-- `UPDATE_LINE_COMPLETE` (R107): the unit waits while its records find no room (R342). -/
def execUpdateLineComplete (i : Nat) (s : State) : Host.Outcome State Fault Refusal := .next (s.whenPosted (s.completeLine i))

/-! ## Collectives (R299 to R301) -/

/-- The combination of one element over the sources in list order (R299). -/
def combine (op : Nat) (f : BitVec 6) (xs : List Nat) : Nat :=
  match xs with
  | [] => 0
  | x :: rest =>
    if op = 3 then x
    else if f = 3 then
      let v := rest.foldl (fun (a : Int) u =>
        let y := sextNat 32 u
        match op with
        | 0 => a + y
        | 1 => max a y
        | _ => min a y) (sextNat 32 x)
      wrapNat 32 v
    else
      let F := tileFmt f
      let dec := fun u => (F.decode u 0 false).1
      let v := rest.foldl (fun a u =>
        match op with
        | 0 => toF32 0 (FVal.add 0 a (dec u))
        | 1 => FVal.max a (dec u)
        | _ => FVal.min a (dec u)) (dec x)
      F.encode (F.round 0 false v).val

/-- Element e of each source of a collective, read in list order under its witness and the context's floor, each as one
indivisible read (R299, R300). -/
def State.readSources (s : State) (x : Collective) (e : Nat) (l : List Nat) : Res (List Nat) :=
  match l with
  | [] => .ok s []
  | va :: rest =>
    let eb := tileSize x.fmt
    match s.readFlatVia true none x.dom [x.wit, x.floor] [(va + e * eb, eb)] with
    | .fault f => .fault f
    | .wait => .wait
    | .ok s1 bs =>
      match s1.readSources x e rest with
      | .fault f => .fault f
      | .wait => .wait
      | .ok s2 l => .ok s2 (leNat bs :: l)

/-- One element written to every destination in list order. -/
def State.writeDests (s : State) (x : Collective) (e v : Nat) (l : List Nat) : State × Option (Option MFault) :=
  match l with
  | [] => (s, none)
  | va :: rest =>
    let eb := tileSize x.fmt
    match s.writeFlatVia true x.dom [(va + e * eb, eb)] (natLe eb v) with
    | (s1, none) => s1.writeDests x e v rest
    | r => r

/-- The elements of a collective from one on, so many of them: each is read, combined and written before the next; what
stops it, a fault or (none) a wait (R299). -/
def State.collElems (s : State) (x : Collective) (n e : Nat) : State × Option (Option MFault) :=
  match n with
  | 0 => (s, none)
  | k + 1 =>
    match s.readSources x e (if x.op = 3 then x.srcs.take 1 else x.srcs) with
    | .wait => (s, some none)
    | .fault f => (s, some (some f))
    | .ok s1 vs =>
      match s1.writeDests x e (combine x.op x.fmt vs) x.dsts with
      | (s2, none) => s2.collElems x k (e + 1)
      | r => r

/-- The lines of the destinations of a collective. -/
def Collective.tags (x : Collective) : List Tag :=
  let n := x.n * tileSize x.fmt
  x.dsts.flatMap fun va => (linePieces (n / 2048 + 3) va n).map fun p => flatTag x.dom p.1

/-- The witness of a collective: of system scope, with the epoch in which it took its number (R190). -/
def Collective.witness (x : Collective) : W64 := mkWit 1 5 x.dom (x.epoch % 2 ^ 22) (769 + x.engine) x.seq

/-- A collective leaves its engine and arrives at its sync word with its full byte count (R300, R301). -/
def State.collArrival (s : State) (x : Collective) (wit : W64) (after : Bool) : State :=
  { s with
    nextId := s.nextId + 1
    colls := s.colls.filter (· != x)
    arrivals := s.arrivals ++ [⟨s.nextId, x.dom, false, x.sync, x.cid, x.n * tileSize x.fmt * x.dsts.length, wit,
      769 + x.engine, x.seq, 4, after, x.epoch, 0, ⟨0, 0⟩, none, x.floor⟩] }

/-- A collective that cannot go on stops writing; its form fails (R301). -/
def State.failColl (s : State) (x : Collective) : State :=
  ({ ((s.formFail (769 + x.engine) x.dom x.seq).noteFormFault x.cid 4) with
     colls := s.colls.filter (· != x) } : State).collArrival x (failWit x.witness) false

/-- `COLLECTIVE_RUN` (R299 to R301). -/
def execCollectiveRun (i : Nat) (s : State) : Host.Outcome State Fault Refusal :=
  match s.colls[i]? with
  | none => .next s
  | some x =>
    if x.srcs.isEmpty || (!x.sat && s.witFailed x.wit) then .next (s.failColl x)
    else if !(x.sat || s.witSat x.wit) then .next s
    else match s.collElems x x.n 0 with
      | (_, some none) => .next s
      | (s2, some (some _)) => .next (s2.failColl x)
      | (s2, none) =>
        .next ((s2.wroteLines (769 + x.engine) x.cid x.dom 5 (some x.seq) ⟨0, 0⟩ x.tags).collArrival x x.witness true)

/-! ## Notices (R285) -/

/-- What a notice does at its queue's header of 32 bytes: the writes to make. -/
def noticeWrites (hdr : List Byte) (n : Notice) : List (Nat × List Byte) :=
  let wr := fieldAt hdr 12 4
  let rd := fieldAt hdr 16 4
  let cap := fieldAt hdr 8 4
  if fieldAt hdr 0 8 % 16 ≠ 0 ∨ (wr + 2 ^ 32 - rd) % 2 ^ 32 ≥ cap then
    [(n.header + 20, natLe 4 (Nat.min (fieldAt hdr 20 4 + 1) (2 ^ 32 - 1)))]
  else
    [(fieldAt hdr 0 8 + 16 * (wr % cap),
      natLe 8 n.tag.toNat ++ natLe 4 n.bytes ++ natLe 4 (n.seq + n.agent * 2 ^ 21)),
     (n.header + 12, natLe 4 ((wr + 1) % 2 ^ 32))]

/-- `NOTICE_APPEND`: once the form's last byte is visible at its scope, the notice and the update of `wr` are made as one
action, and the operation is complete. A fault is a fault of the operation. -/
def execNoticeAppend (i : Nat) (s : State) : Host.Outcome State Fault Refusal :=
  match s.notices[i]? with
  | none => .next s
  | some n =>
    let s0 := { s with notices := s.notices.eraseIdx i }
    match (s.ctx (s.slotOfCid n.cid)).bind fun c => c.window.find? fun o => o.seq == some n.seq with
    | none => .next s0
    | some o =>
      if !(s.forms.all fun f => !(f.isForm n.agent n.dom n.seq) || decide (f.level ≥ scopeLevel n.scope)) then .next s
      else
        let fail := fun (f : MFault) => s0.faultOp (s.slotOfCid n.cid) o.tseq f (coreUnit (s.slotOfCid n.cid) 8 0)
        match s0.readFlatVia false none n.dom [n.floor] (linePieces 3 n.header 32) with
        | .wait => .next s
        | .fault f => .next (fail f)
        | .ok s1 hdr =>
          let ws := noticeWrites hdr n
          match s1.writeAll n.dom ws with
          | .wait => .next s
          | .fault f => .next (fail f)
          | .ok s2 _ =>
            .next ((s2.wroteLines n.agent n.cid n.dom 5 none o.pos (ws.map fun w => flatTag n.dom w.1)).finishOp (s.slotOfCid n.cid) o.tseq
              none [] 0)

end Sys2Proof.Machine
end

