-- ==== Sys2Proof/Machine/Place.lean ====
section
/-! DEFINITION. Where gang instances fit, how their contexts are launched, saved and restored (02 R43 to R50, R63 to R65,
16 R338, R339, R346, R347, 17 R351, R352, 13 R316, R317). -/

namespace Sys2Proof.Machine

/-! ## Time -/

/-- 2 ms in reference cycles of 1.05 GHz (R6, R338). -/
def ms2 : Nat := 2100000

/-! ## Fit (R48, R49, R338, R339) -/

/-- Whether a span is withdrawn, or its die is (R389). -/
def State.withdrawnSpan (s : State) (die span : Nat) : Bool :=
  s.withdrawn.contains (die, span) || s.withdrawn.contains (die, 255)

/-- The die and span of a self-test (Table 19-8). -/
def Task.testSpan (t : Task) : Nat × Nat := (fieldAt t.payload 0 1 % 16, fieldAt t.payload 1 1)

/-- Whether a self-test holds a span (R389). -/
def State.testing (s : State) (die span : Nat) : Bool :=
  s.tasks.any fun t => t.kind == 6 && (t.state == .placed || t.state == .running) && t.testSpan == (die, span)

/-- Whether the placement policy lets a context of a domain share a core or span with those there (Table 21-6). -/
def State.shareable (s : State) (dom a : Nat) : Bool :=
  s.ctxs.all fun e =>
    let d := e.2.pd.toNat
    let ex := (s.domOf dom).excl ||| (s.domOf d).excl
    d == dom || !holdsSlot e.1 || !((coreOf e.1 == coreOf a && ex.getLsbD 0) || (spanOf e.1 == spanOf a && ex.getLsbD 1))

/-- The free slot of a core that a context takes: the lowest. The manual says only that it is a free one (R48, log 30).
DESIGN CHOICE. -/
def State.freeSlot (s : State) (core : Nat) : Option Nat :=
  ((List.range 4).find? fun k => (s.ctx (core * 4 + k)).isNone).map fun k => core * 4 + k

/-- The lowest place of a core's scratchpad that is free for a share of a size (log 22). -/
def State.shareBase (s : State) (core size : Nat) : Nat :=
  let live := s.shares.filter fun h => h.live && h.core == core && h.size != 0
  let ok := fun (b : Nat) => live.all fun h => decide (b + size ≤ h.base) || decide (h.base + h.size ≤ b)
  if ok 0 then 0
  else live.foldl (fun (m : Nat) h => if ok (h.base + h.size) then Nat.min m (h.base + h.size) else m)
    (live.foldl (fun (m : Nat) h => Nat.max m (h.base + h.size)) 0)

/-- Whether one more context of a kernel fits a core (R49): a slot, deck granules, and a place for the share within the
8 MiB, in one piece (R58, log 22). -/
def State.coreFits (s : State) (dom : Nat) (k : Kernel) (core : Nat) : Bool :=
  let on := s.ctxs.filter fun e => coreOf e.1 == core
  let slots := (on.filter fun e => holdsSlot e.1).length
  (s.freeSlot core).isSome && s.shareable dom (core * 4) &&
    decide ((on.map fun e => e.2.deckq.toNat).sum + k.deck ≤ (64 - 3 * (slots + 1)) * 32) &&
    decide (((s.shares.filter fun h => h.live && h.core == core).map (·.size)).sum + k.scratch ≤ 2 ^ 23) &&
    decide (s.shareBase core k.scratch + k.scratch ≤ 2 ^ 23)

/-- The contexts of an instance that are to be placed: all of them at launch, those of its images at resumption. -/
def GInst.parts (g : GInst) : List (Nat × Nat) :=
  if g.status == .saved then g.images.map fun c => (c.team, c.cnum)
  else (List.range g.kernel.teams).flatMap fun j => (List.range g.kernel.perTeam).map fun c => (j, c)

/-- The core of a context of an instance anchored at a die, span and core (R48). -/
def anchorCore (die span core : Nat) (p : Nat × Nat) : Nat := die * 48 + (span + p.1) * 4 + (core + p.2) % 4

/-- Whether a die is allowed to a domain. -/
def State.dieAllowed (s : State) (dom die : Nat) : Bool := decide (die < 4) && (s.domOf dom).dies.getLsbD die

/-- Whether an instance fits at an anchor (R48, R49, R338). -/
def State.fitsAt (s : State) (g : GInst) (die span core : Nat) : Bool :=
  s.dieAllowed g.dom die && decide (core < 4) && decide (span + g.kernel.teams ≤ 12) &&
    ((List.range g.kernel.teams).all fun j => !s.withdrawnSpan die (span + j) && !s.testing die (span + j)) &&
    g.parts.all fun p => s.coreFits g.dom g.kernel (anchorCore die span core p)

/-- The anchors of the package. -/
def anchors : List (Nat × Nat × Nat) :=
  (List.range 4).flatMap fun d => (List.range 12).flatMap fun a => (List.range 4).map fun b => (d, a, b)

/-- Whether an instance fits anywhere. -/
def State.fits (s : State) (g : GInst) : Bool := anchors.any fun x => s.fitsAt g x.1 x.2.1 x.2.2

/-- Whether a die could hold an instance once its resident work had left: it is allowed and has a run of spans that is
long enough, none withdrawn (R338). -/
def State.dieCould (s : State) (dom teams die : Nat) : Bool :=
  s.dieAllowed dom die && (List.range 12).any fun a =>
    decide (a + teams ≤ 12) && (List.range teams).all fun j => !s.withdrawnSpan die (a + j)

/-- Whether an instance of a kernel could be placed on some die with every core empty (R339). -/
def State.placeable (s : State) (k : Kernel) : Bool :=
  decide (k.deck ≤ 1952) && decide (k.scratch ≤ 2 ^ 23) && decide (k.pier ≤ k.scratch) &&
    (List.range 4).any fun d => (List.range 12).any fun a =>
      decide (a + k.teams ≤ 12) && (List.range k.teams).all fun j => !s.withdrawnSpan d (a + j)

/-! ## The order of placement (R338) -/

/-- A task is ready when its predecessor count is zero and it is not held (R336). One whose end waits for a credit has
nothing left to do. -/
def Task.ready (t : Task) : Bool := !t.state.ended && t.preds == 0 && !t.held && !t.cancel && t.ending.isNone

/-- Whether an instance is ready and not placed. -/
def State.waiting (s : State) (g : GInst) : Bool :=
  (g.status == .ready || g.status == .saved) && (match s.task g.task with
    | some t => t.ready
    | none => false)

/-- Whether an instance is considered before another: by effective priority, then by acceptance, then by number. -/
def GInst.first? (x y : GInst) : Bool :=
  decide (y.eff < x.eff) || (x.eff == y.eff && (decide (x.task < y.task) || (x.task == y.task && decide (x.num < y.num))))

/-- Whether every earlier instance of its task has been placed. -/
def State.ownTurn (s : State) (g : GInst) : Bool := s.insts.all fun h => !(h.task == g.task && decide (h.num < g.num)) || !s.waiting h

/-- Whether a die is owed to an instance at priority 4 that was accepted before one and does not fit. -/
def State.owed (s : State) (g : GInst) (die : Nat) : Bool :=
  s.insts.any fun h => s.waiting h && h.eff == 4 && decide (h.task < g.task) && !s.fits h && s.dieCould h.dom h.kernel.teams die

/-- Whether an instance fits somewhere on a die that is owed to no other. -/
def State.mayPlace (s : State) (g : GInst) : Bool :=
  s.ownTurn g && anchors.any fun x => s.fitsAt g x.1 x.2.1 x.2.2 && !s.owed g x.1

/-- Whether an instance may be placed on a die now: the die is owed to no other, no earlier one of its task is unplaced,
and none that is considered before it can be placed. -/
def State.turnOf (s : State) (g : GInst) (die : Nat) : Bool :=
  s.ownTurn g && !s.owed g die && s.insts.all fun h =>
    (h.task == g.task && h.num == g.num) || !s.waiting h || !h.first? g || !s.mayPlace h

/-! ## Scratchpad shares (R58, R348, R352) -/

/-- Bytes of storage from a key are cleared to zero. -/
def State.clearKeys (s : State) (lo n : Nat) : State :=
  { s with
    mem := s.mem.filter fun e => !(decide (lo ≤ e.1) && decide (e.1 < lo + n))
    poison := s.poison.filter fun p => !(decide (lo ≤ p / 2) && decide (p / 2 < lo + n)) }

/-- A share is given to a team context; what another domain left there is cleared first. -/
def State.claimShare (s : State) (task inst team k core size dom : Nat) : State :=
  let b := s.shareBase core size
  let hits := fun (h : Share) => !h.live && h.core == core && decide (h.base < b + size) && decide (b < h.base + h.size)
  let s1 := (s.shares.filter fun h => hits h && h.dom != dom).foldl (fun (s : State) h =>
    let lo := Nat.max b h.base
    s.clearKeys (spKey core lo) (Nat.min (b + size) (h.base + h.size) - lo)) s
  let rest := s1.shares.flatMap fun h =>
    if hits h then
      (if h.base < b then [{ h with size := b - h.base }] else []) ++
        (if b + size < h.base + h.size then [{ h with base := b + size, size := h.base + h.size - (b + size) }] else [])
    else [h]
  { s1 with shares := rest ++ [⟨task, inst, team, k, core, b, size, dom, true⟩] }

/-- The shares of a team are released. -/
def State.dropShares (s : State) (task inst team : Nat) : State :=
  { s with shares := s.shares.map fun h =>
      if h.task == task && h.inst == inst && h.team == team then { h with live := false } else h }

/-! ## Banks (R43, R65) -/

/-- The registers of a bank. -/
def bankKeys (bank : Nat) (k : Nat) : Bool := decide (bank * 256 ≤ k) && decide (k < bank * 256 + 256)

/-- The poison of a range of keys, each mark relative to the range. -/
def State.poisonIn (s : State) (lo n : Nat) : List Nat :=
  (s.poison.filter fun p => decide (2 * lo ≤ p) && decide (p < 2 * (lo + n))).map fun p => p - 2 * lo

/-- The poison of a range of keys is taken away. -/
def State.unpoison (s : State) (lo n : Nat) : State :=
  { s with poison := s.poison.filter fun p => !(decide (2 * lo ≤ p) && decide (p < 2 * (lo + n))) }

/-- The first key of the poison marks of a bank: 256 registers of 256 bytes. -/
def bankLo (bank : Nat) : Nat := 9 * 2 ^ 60 + bank * 65536

/-- A bank is bound to a context of a domain: it is cleared when its last holder ran in another domain, when it held
deck tiles of another domain, and when no context has held it; it keeps what it holds, unless it may have served as deck of
its own domain since, when what it holds is a free value (R65, log 11). -/
def State.bindBank (s : State) (dom bank : Nat) : State :=
  let b := AL.get {} s.banks bank
  let clear := s.regmem.filter fun e => !bankKeys bank e.1
  let s1 : State := { s with banks := AL.put s.banks bank { dom := some dom } }
  if b.dom != some dom || (b.deck.isSome && b.deck != some dom) then { s1.unpoison (bankLo bank) 65536 with regmem := clear }
  else if b.deck.isSome then
    { s1.unpoison (bankLo bank) 65536 with
      choices := s.choices + 256
      regmem := (List.range 256).foldl (fun m i => AL.set 0 m (bank * 256 + i) (Config.bankVec (s.choices + i))) clear }
  else s1

/-- The three banks of a slot (R43). -/
def slotBanks (a : Nat) : List Nat := (List.range 3).map fun i => coreOf a * 64 + 3 * (a % 4) + i

/-- The three banks of a slot are bound. -/
def State.bindBanks (s : State) (dom a : Nat) : State := (slotBanks a).foldl (fun s b => s.bindBank dom b) s

/-- Whether deck granules are to be vacated from the banks of a slot first (R44). -/
def State.deckThere (s : State) (a : Nat) : Bool := (slotBanks a).any fun b => (AL.get {} s.banks b).deck.isSome

/-! ## Launch (R63, R64, R316) -/

/-- The scalar registers of a launched context (Table 2-14). -/
def launchRegs (g : GInst) (die span : Nat) (p : Nat × Nat) : AL W64 :=
  let vals := [(1, g.args.toNat), (2, g.num), (3, p.1), (4, p.2), (5, span + p.1), (6, die), (7, g.kernel.perTeam), (8, g.kernel.teams)]
  vals.foldl (fun m e => AL.set 0 m e.1 (BitVec.ofNat 64 e.2)) []

/-- The bundle table of a kernel. -/
def bundleTable (l : List BundleWord) (i : Nat) : AL BundleWord :=
  match l with
  | [] => []
  | w :: r => if w = 0 then bundleTable r (i + 1) else (i, w) :: bundleTable r (i + 1)

/-- The epoch of a witness as a count. -/
def State.epochOf (s : State) (w : W64) : Nat := (s.epochAbs (witEpoch w)).getD 0

/-- A launched context. -/
def State.newCtx (s : State) (g : GInst) (prio : Nat) (wit : W64) (cid die span : Nat) (p : Nat × Nat) : Ctx where
  cid := cid
  task := g.task
  inst := g.num
  team := p.1
  cnum := p.2
  perTeam := g.kernel.perTeam
  teams := g.kernel.teams
  scratch := g.kernel.scratch
  prio := prio
  status := .running
  pc := g.kernel.entry
  rep := none
  halves := []
  loops := []
  s := launchRegs g die span p
  p := []
  q := 0
  w := []
  xp := []
  fmt := 0
  pend := []
  capture := none
  tick := 0
  swctx := 0
  pd := BitVec.ofNat 6 g.dom
  tlimit := g.kernel.stack
  trise := 8
  deckq := BitVec.ofNat 16 g.kernel.deck
  pierq := BitVec.ofNat 24 g.kernel.pier
  spillbase := 0
  spilllen := 0
  ecount := 0
  esat := false
  lk := 0
  tvec := 0
  trapbuf := 0
  statbuf := 0
  codegen := s.codegen
  stack := []
  tiles := []
  nextTile := 1
  plane0 := none
  plane1 := none
  window := []
  recent := []
  tseq := 0
  issues := 0
  bt := bundleTable g.kernel.bundles 0
  btPend := []
  statq := []
  lost := 0
  statChunks := 0
  held := false
  arrived := none
  released := none
  swWait := none
  swRel := none
  swKey := none
  scLast := 0
  yieldPass := false
  yieldAt := 0
  yieldSeen := []
  waitCount := 0
  waitAt := 0
  floor := wit
  floorEp := s.epochOf wit
  floorWait := true
  late := false
  pendTrap := none
  refault := none
  stopped := false
  vacating := false

/-- A context comes to a free slot of its core: its banks are bound, once deck granules there are vacated, and the deck is
what the bound banks leave (R43, R44). -/
def State.seat (s : State) (core : Nat) (c : Ctx) : State × Nat :=
  match s.freeSlot core with
  | none => (s, 0)
  | some a =>
    let s1 := s.markDeck core
    (((s1.bindBanks c.pd.toNat a).setCtx a { c with vacating := s1.deckThere a }).markDeck core, a)

/-- The contexts of an instance are launched at an anchor, all at once. -/
def State.launch (s : State) (g : GInst) (prio : Nat) (wit : W64) (die span core : Nat) : State :=
  let one := fun (x : State × List Member) (p : Nat × Nat) =>
    let cr := anchorCore die span core p
    let cid := x.1.nextId
    let s1 := ({ x.1 with nextId := cid + 1 } : State).claimShare g.task g.num p.1 p.2 cr g.kernel.scratch g.dom
    let y := s1.seat cr (s1.newCtx g prio wit cid die span p)
    (y.1, x.2 ++ [⟨p.1, p.2, y.2, cid, false⟩])
  let r := g.parts.foldl one (s, [])
  r.1.onInst g.task g.num fun g => { g with status := .placed, die := die, span := span, core := core, members := r.2 }

/-! ## Saving (R346, R317, R245) -/

/-- Whether a form of the directory is one that a kept access or a cancelled operation still holds. -/
def State.heldForm (s : State) (c : Ctx) (f : FormRec) : Bool :=
  s.accs.any (fun x => x.cid == c.cid && x.kept && x.owner == f.agent && x.seq == some f.seq) ||
    (c.window ++ c.keptOps).any fun o => o.agent == f.agent && o.seq == some f.seq

/-- Whether the work of a context has drained, so that it can be saved: its results have their values, or wait for an access
that is kept, every operation of its window is complete, or one of the stream that a handler has interrupted that faults
after `TRET` (log 35), its accesses are performed or kept, and its forms are visible at system scope. -/
def State.drained (s : State) (c : Ctx) : Bool :=
  let there := fun (p : Pend) => p.ready || s.accs.any fun x => x.id == p.acc && x.cid == c.cid && x.kept
  c.pend.all there && ((c.capture.map (·.pend)).getD []).all there && c.window.all c.outOfWay &&
    s.accs.all (fun x => x.cid != c.cid || x.kept) &&
    s.forms.all (fun f => f.cid != c.cid || f.failed || s.heldForm c f) &&
    s.arrivals.all (fun r => r.cid != c.cid) && s.drops.all (fun d => d.cid != c.cid) &&
    s.grads.all (fun g => g.cid != c.cid) && s.colls.all (fun x => x.cid != c.cid) && s.notices.all (fun n => n.cid != c.cid)

/-- A tile of the deck sinks as far as it can (R245): none while the footing's page waits for the firmware. A delivered
fault is a trap at the context's resumption, as the window is empty; where an unwinding traps there, the sink is tried again
after it (R244, R346). -/
def State.sinkForSave (s : State) (a id : Nat) : Option State :=
  match s.ctx a with
  | none => some s
  | some c =>
    match AL.find c.tiles id with
    | none => some s
    | some t =>
      match t.img, t.tier with
      | some img, .deck =>
        if c.pierUsed + granules t.bytes ≤ c.pierG then some (s.onCtx a fun c => c.setTier id .pier (some img))
        else if (c.freeRun (granules img.length)).isNone then some s
        else match s.sinkTo a c id img with
          | .ok s1 _ => some s1
          | .wait => none
          | .fault f => some (s.onCtx a fun c =>
              if c.pendTrap.isNone && c.refault.isNone && c.status == .running then
                { c with pendTrap := some ({ memFault f with slots := 1, unit := coreUnit a 8 0 }, c.pc, c.tick) }
              else c)
      | _, _ => some s

/-- Every tile of the deck sinks, the last of the ranking first. -/
def State.sinkAll (s : State) (a : Nat) (ids : List Nat) : Option State :=
  match ids with
  | [] => some s
  | i :: r =>
    match s.sinkForSave a i with
    | none => none
    | some s1 => s1.sinkAll a r

/-- A scratchpad place of a team as it is kept while the instance is saved. -/
def State.virtKey (s : State) (c : Ctx) (key : Nat) : Nat :=
  match s.shares.find? fun h => h.task == c.task && h.inst == c.inst && h.team == c.team && h.live &&
      decide (spKey h.core h.base ≤ key) && decide (key < spKey h.core h.base + Nat.max h.size 1) with
  | some h => spKey (1000 + h.k) (key - spKey h.core h.base)
  | none => key

/-- The place again once the shares are restored. -/
def State.realKey (s : State) (c : Ctx) (key : Nat) : Nat :=
  s.spPhys c ((key / 2 ^ 32 % 2 ^ 28 - 1000) * 2 ^ 23 + key % 2 ^ 32)

/-- The kept scratchpad accesses of a context with their places changed. -/
def State.rekey (s : State) (cid : Nat) (f : Nat → Nat) : State :=
  { s with accs := s.accs.map fun x =>
      if x.cid == cid && x.sp then { x with parts := x.parts.map fun p => (f p.1, p.2) } else x }

/-- The image of a context as it is saved (Table 2-9): it is held nowhere, its loop buffer is empty, its queue has no
chunks, and no engine works on its operations. The records of its statistics queue, which Table 2-9 does not list, are kept
with it (DESIGN CHOICE, log 30). -/
def Ctx.image (c : Ctx) : Ctx :=
  let late := c.late || c.pendTrap.isSome || c.refault.isSome || c.window.any TOp.hasFault
  { c with
    halves := [], held := false, swWait := none, swKey := none, yieldPass := false, waitCount := 0, late := late
    statChunks := 0, stopped := false, vacating := false
    window := c.window.map fun (o : TOp) => match o.status with
      | .done => o
      | .faulted _ => o
      | _ => { o with status := .waiting, prog := 0 } }

/-- The registers of a slot, by register number. -/
def State.slotRegs (s : State) (a : Nat) : List (Nat × Vec) :=
  let lo := (coreOf a * 64 + 3 * (a % 4)) * 256
  (s.regmem.filter fun e => decide (lo ≤ e.1) && decide (e.1 < lo + 768)).map fun e => (e.1 - lo, e.2)

/-- One context of an instance is saved: its image, its registers and its poison join the instance, and its slot and
banks are free. The poison of its tiles goes with its identity. -/
def State.saveCtx (s : State) (g : GInst) (a : Nat) : State :=
  match s.ctx a with
  | none => s
  | some c =>
    let n := ((s.inst g.task g.num).map fun (g : GInst) => g.images.length).getD 0
    let bad := ((s.poisonIn (btKey a 0) (2 ^ 16)).map fun p => (1, c.team, c.cnum, p)) ++
      (s.poisonIn (rKey a 0) (3 * 65536)).map fun p => (3, c.team, c.cnum, p)
    let s1 := (((s.rekey c.cid (s.virtKey c)).markDeck (coreOf a)).unlock c.cid).onInst g.task g.num fun g =>
      { g with
        images := g.images ++ [c.image]
        vregs := g.vregs ++ (s.slotRegs a).map fun r => (n, r.1, r.2)
        bad := g.bad ++ bad }
    let s2 := (s1.unpoison (btKey a 0) (2 ^ 16)).unpoison (rKey a 0) (3 * 65536)
    (({ s2 with ctxs := AL.del s2.ctxs a } : State).dropEpis (coreOf a) [a]).onCore (coreOf a) fun x =>
      { x with chosen := if x.chosen == some a then none else x.chosen }

/-- The shares of the teams that hold slots are saved and their places are free. -/
def State.saveShares (s : State) (g : GInst) (teams : List Nat) : State :=
  (s.shares.filter fun h => h.live && h.task == g.task && h.inst == g.num && teams.contains h.team).foldl
    (fun (s : State) h =>
      let lo := spKey h.core h.base
      let bytes := (s.mem.filter fun e => decide (lo ≤ e.1) && decide (e.1 < lo + h.size)).map fun e => (e.1 - lo, e.2)
      ((s.onInst g.task g.num fun g =>
        { g with
          shares := g.shares ++ [(h.team, h.k, bytes)]
          bad := g.bad ++ (s.poisonIn lo h.size).map fun p => (0, h.team, h.k, p) }).unpoison lo h.size)) s

/-- The witness that a save yields: single, of scope 5, of the present epoch, covering no form that is still open, since
everything of the context is visible at system scope or kept (R317, log 22). -/
def State.saveWitness (s : State) (dom : Nat) : W64 := mkWit 1 5 dom (s.epoch % 2 ^ 22) 0 0

/-! ### Save areas (R4, R346, log 37) -/

/-- The first free save areas, as many as are wanted. -/
def freeAreas (fuel n want : Nat) (used : List Nat) : List Nat :=
  match fuel with
  | 0 => []
  | f + 1 =>
    if want = 0 then []
    else if used.contains n then freeAreas f (n + 1) want used
    else n :: freeAreas f (n + 1) (want - 1) used

/-- The pieces of a table of values at places of one size. -/
def placed {α : Type} (base size : Nat) (f : α → Nat) (m : AL α) : List (Nat × List Byte) :=
  m.map fun e => (base + size * e.1, natLe size (f e.2))

/-- The dimensions and format of a stack entry. -/
def Entry.shape (e : Entry) : Nat := e.rows + 2 ^ 16 * e.cols + 2 ^ 32 * e.fmt.toNat + 2 ^ 40 * (e.scale % 2 ^ 24).toNat

/-- The special registers of an image that stand nowhere else in it (Table 2-11). -/
def Ctx.specials (c : Ctx) : List Nat :=
  [c.fmt.toNat, c.tick.toNat, c.swctx.toNat, c.pd.toNat, c.stack.length, c.tlimit, c.trise, c.deckq.toNat, c.pierq.toNat,
    c.spillbase.toNat, c.spilllen.toNat, c.ecount, if c.esat then 1 else 0, c.lk.toNat, c.tvec.toNat, c.trapbuf.toNat,
    c.statbuf.toNat, c.codegen.toNat]

/-- One result of the shadow result buffer: its offset, its value and its lanes. -/
def Pend.bytes (p : Pend) : List Byte := natLe 8 p.left ++ natLe 256 p.val.toNat ++ natLe 32 p.lanes.toNat

/-- One operation of the window or the replay list: its number, its bundle and tick, and its forms' number. -/
def TOp.bytes (o : TOp) : List Byte :=
  natLe 8 o.tseq ++ natLe 8 o.pos.toWord.toNat ++ natLe 8 o.tick.toNat ++ natLe 8 (o.seq.getD (2 ^ 48)) ++
    natLe 8 o.wit.toNat ++ natLe 8 o.fmt.toNat ++ o.params.flatMap fun p => natLe 8 p.toNat

/-- The items of a list one after the other. -/
def listed {α : Type} (base size : Nat) (f : α → List Byte) (l : List α) : List (Nat × List Byte) :=
  match l with
  | [] => []
  | x :: r => (base, f x) :: listed (base + size) size f r

/-- The image of a context as bytes of its save area, little-endian (R4, Table 2-9); the places are the model's (log
37). -/
def Ctx.pieces (c : Ctx) (regs : List (Nat × Vec)) : List (Nat × List Byte) :=
  let rep := (c.rep.map fun r => r.k + 2 ^ 16 * r.n + 2 ^ 32 * r.steps.toNat + 2 ^ 48).getD 0
  let loop := fun (e : LoopEntry) =>
    natLe 8 e.count.toNat ++ natLe 8 e.index.toNat ++ natLe 8 e.body.toWord.toNat ++ natLe 8 e.endp.toWord.toNat
  [(0, natLe 8 c.pc.toWord.toNat ++ natLe 8 rep)] ++ listed 16 32 loop c.loops ++
    placed 256 8 BitVec.toNat c.s ++ placed 768 32 BitVec.toNat c.p ++ [(1280, natLe 4 c.q.toNat)] ++
    placed 1288 8 BitVec.toNat c.w ++ placed 1424 1 (fun x => x.2.toNat) c.xp ++ placed 1536 256 (fun x => x.1.toNat) c.xp ++
    placed 4096 256 BitVec.toNat regs ++ placed 200704 32 BitVec.toNat c.bt ++
    listed 217088 16 (fun e => natLe 8 e.tile ++ natLe 8 e.shape) c.stack ++
    listed 282624 8 (natLe 8) c.specials ++ listed 283136 296 Pend.bytes (c.pend ++ (c.capture.map (·.pend)).getD []) ++
    listed 302592 256 TOp.bytes (c.window ++ c.keptOps)

/-- The tiles that neither pier nor footing has room for, one after the other (R245). -/
def Ctx.deckPieces (base : Nat) (m : AL Tile) : List (Nat × List Byte) :=
  match m with
  | [] => []
  | (id, t) :: r =>
    if t.tier == .deck then
      (base, natLe 8 id ++ natLe 8 t.bytes ++ t.img.getD []) :: Ctx.deckPieces (base + 16 + (t.img.getD []).length) r
    else Ctx.deckPieces base r

/-- The firmware writes one save area: the image at its start, deck tiles at 1 MiB, the share at 8 MiB. -/
def State.writeArea (s : State) (g : GInst) (n i : Nat) (c : Ctx) : State :=
  let base := Config.saveArea + n * 2 ^ 24
  let regs := (g.vregs.filter fun v => v.1 == i).map fun v => (v.2.1, v.2.2)
  let share := g.shares.flatMap fun h => if h.1 == c.team && h.2.1 == c.cnum then h.2.2 else []
  let s1 := s.clearKeys (physKey 0 0 base) (2 ^ 24)
  let s2 := (c.pieces regs ++ Ctx.deckPieces (2 ^ 20) c.tiles).foldl (fun (s : State) p => s.fwWrite (base + p.1) p.2) s1
  s2.memWrite (share.map fun e => (physKey 0 0 (base + 2 ^ 23 + e.1), e.2))

/-- The images and shares of an instance are written to its save areas. -/
def State.writeAreas (s : State) (g : GInst) (i : Nat) (areas : List Nat) (images : List Ctx) : State :=
  match areas, images with
  | n :: r, c :: l => (s.writeArea g n i c).writeAreas g (i + 1) r l
  | _, _ => s

/-- A whole instance is saved (R346); none while it has not been stopped and drained, or no save area is free. -/
def State.saveInst (s : State) (g : GInst) : Option State :=
  let ms := s.membersOf g
  let areas := freeAreas Config.saveSlots 0 ms.length (s.insts.flatMap (·.areas))
  if g.status != .placed || ms.isEmpty || areas.length < ms.length || !(ms.all fun e => e.2.stopped && s.drained e.2) then none
  else
    let sunk := ms.foldl (fun (r : Option State) e => r.bind fun s1 =>
      match s1.ctx e.1 with
      | none => some s1
      | some c => s1.sinkAll e.1 (c.rankedTiles.reverse)) (some s)
    match sunk with
    | none => none
    | some s1 =>
      let teams := ms.map (·.2.team)
      let s2 : State := s1.onInst g.task g.num fun g => { g with images := [], vregs := [], shares := [], bad := [] }
      let s3 := ms.foldl (fun (s : State) e => s.saveCtx g e.1) (s2.saveShares g teams)
      let s4 : State := teams.foldl (fun (s : State) j => s.dropShares g.task g.num j) s3
      let s5 := s4.onInst g.task g.num fun g =>
        { g with status := .saved, areas := areas, steps := [], since := s.cycle, saveWit := s.saveWitness g.dom }
      some (match s5.inst g.task g.num with
        | some g5 => s5.writeAreas g5 0 areas g5.images
        | none => s5)

/-! ## Restoring (R347) -/

/-- A witness register at resumption: a single witness of the former slot's agent, of scope 1 to 3, is raised (R317). -/
def raiseWit (old : Nat) (w : W64) : W64 :=
  if witForm w = 1 ∧ witAgent w = old ∧ 1 ≤ witScope w ∧ witScope w ≤ 3 then
    mkWit 1 4 (witDom w) (witEpoch w) (witAgent w) (witSeq w)
  else w

/-- A restored context. -/
def State.restored (s : State) (g : GInst) (old : Nat) (c : Ctx) : Ctx :=
  { c with
    w := c.w.map fun e => (e.1, raiseWit old e.2)
    floor := g.saveWit, floorEp := s.epochOf g.saveWit, floorWait := true, codegen := s.codegen }

/-- The poison of saved storage returns. -/
def State.repoison (s : State) (g : GInst) (kind team k lo : Nat) : State :=
  { s with poison := (g.bad.filterMap fun b =>
      if b.1 == kind && b.2.1 == team && b.2.2.1 == k then some (b.2.2.2 + 2 * lo) else none) ++ s.poison }

/-- One share is restored at its new place. -/
def State.restoreShare (s : State) (g : GInst) (die span core : Nat) (x : Nat × Nat × AL Byte) : State :=
  let cr := anchorCore die span core (x.1, x.2.1)
  let s1 := s.claimShare g.task g.num x.1 x.2.1 cr g.kernel.scratch g.dom
  match s1.shares.getLast? with
  | none => s1
  | some h =>
    let lo := spKey cr h.base
    ((s1.clearKeys lo h.size).memWrite (x.2.2.map fun e => (lo + e.1, e.2))).repoison g 0 x.1 x.2.1 lo

/-- Whether an access belongs to the stream that a trap has interrupted, and so waits for `TRET` (R378). -/
def Ctx.interrupted (c : Ctx) (id : Nat) : Bool := c.capture.any fun k => decide (id < k.before)

/-- One context is restored on a free slot of its core: its registers, its image, its kept accesses under its new floor
(R316), of which those that the save itself has kept go on at once (R346), and its poison. -/
def State.restoreCtx (s : State) (g : GInst) (die span core : Nat) (x : Nat × Ctx) : State :=
  let c := x.2
  let old := ((g.members.find? fun m => m.team == c.team && m.cnum == c.cnum).map (·.agent)).getD 1024
  let y := s.seat (anchorCore die span core (c.team, c.cnum)) (s.restored g old c)
  let a := y.2
  let lo := (coreOf a * 64 + 3 * (a % 4)) * 256
  let clear := y.1.regmem.filter fun e => !(decide (lo ≤ e.1) && decide (e.1 < lo + 768))
  let regs := (g.vregs.filter fun v => v.1 == x.1).foldl (fun m v => AL.set 0 m (lo + v.2.1) v.2.2) clear
  let s1 : State := { y.1 with
    regmem := regs
    accs := y.1.accs.map fun q => if q.cid == c.cid then
      let r := { q with agent := a, core := coreOf a, floor := g.saveWit, floorEp := s.epochOf g.saveWit }
      if c.interrupted q.id then r else r.letOn
      else q }
  let s2 := ((s1.repoison g 1 c.team c.cnum (btKey a 0)).unpoison (rKey a 0) (3 * 65536)).repoison g 3 c.team c.cnum (rKey a 0)
  (s2.rekey c.cid (s2.realKey c)).onInst g.task g.num fun g =>
    { g with members := g.members.map fun m => if m.team == c.team && m.cnum == c.cnum then { m with agent := a } else m }

/-- A list with its indices. -/
def indexed {α : Type} (i : Nat) (l : List α) : List (Nat × α) :=
  match l with
  | [] => []
  | x :: r => (i, x) :: indexed (i + 1) r

/-- A saved instance is restored at an anchor, all at once. -/
def State.restoreInst (s : State) (g : GInst) (die span core : Nat) : State :=
  let s1 := g.shares.foldl (fun (s : State) x => s.restoreShare g die span core x) s
  let s2 := (indexed 0 g.images).foldl (fun (s : State) x => s.restoreCtx g die span core x) s1
  s2.onInst g.task g.num fun g =>
    { g with status := .placed, die := die, span := span, core := core, areas := [], images := [], vregs := []
             shares := [], bad := [] }

end Sys2Proof.Machine
end

