-- ==== Sys2Proof/Machine/EvSched.lean ====
section
/-! DEFINITION. The steps of scheduling: issue selection in a core, barriers, placement, ageing, pre-emption, resumption,
release of shares, queue growth and code generations (06 R160, R162, 16 R338 to R348, 17 R365). -/

namespace Sys2Proof.Machine

/-! ## Issue selection (R340, R341, R162) -/

/-- The ready context whose wait count has reached its bound, of the lowest slot (R341). -/
def starving (l : List (Nat × Ctx)) : Option Nat := (l.find? fun e => decide (e.2.waitCount ≥ 4096)).map (·.1)

/-- The ready context of highest priority; within one priority the next slot after the one that last received the issue
this way. -/
def byPriority (turn : Nat) (l : List (Nat × Ctx)) : Option Nat :=
  let top := l.foldl (fun m e => Nat.max m e.2.prio) 0
  let best := l.filter fun e => e.2.prio == top
  (List.range 4).findSome? fun i => (best.find? fun e => e.1 % 4 == (turn + 1 + i) % 4).map (·.1)

/-- A die's clock in MHz (R391). -/
def State.clockOf (s : State) (die : Nat) : Nat :=
  match AL.get 0 s.derate die with
  | 0 => 1050
  | 1 => 950
  | _ => 840

/-- The clock of a span in MHz: 1.05 GHz and 42 MHz for each net step, which a derated die clamps to its own clock (R345,
R391). -/
def State.spanMHz (s : State) (span : Nat) : Nat :=
  let f := (1050 + 42 * s.netSteps span).toNat
  if AL.get 0 s.derate (span / 12) = 0 then f else Nat.min f (s.clockOf (span / 12))

/-- How many cycles of the span's clock end in the present reference cycle, and with them how many bundles a core may
issue in it (R340, R345): two in some while the clock is above 1.05 GHz, none in some while it is below. -/
def State.issueRate (s : State) (core : Nat) : Nat :=
  let f := s.spanMHz (core / 4)
  (s.cycle + 1) * f / 1050 - s.cycle * f / 1050

/-- How many times a core has given its issue in the present reference cycle. -/
def CoreSt.given (x : CoreSt) (cycle : Nat) : Nat :=
  match x.issued with
  | some (t, n) => if t = cycle then n else 0
  | none => 0

/-- The core gives the issue of a cycle to a context. -/
def State.give (s : State) (core a : Nat) (turn : Bool) (n : Nat) : State :=
  ({ s with cur := a } : State).onCore core fun x =>
    { x with
      last := some a, grant := none, turn := if turn then a % 4 else x.turn, chosen := some a
      issued := some (s.cycle, n + 1) }

/-- How many cycles of a core's clock have ended before a reference cycle. -/
def State.clockCycles (s : State) (core n : Nat) : Nat := n * s.spanMHz (core / 4) / 1050

/-- The context that issued in the previous cycle of the core's clock: the last that was given the issue, when it has issued
and no cycle has passed since in which none did (R340). -/
def State.lastIssued (s : State) (core : Nat) : Option Nat :=
  let x := s.coreSt core
  match x.issued with
  | none => none
  | some (t, n) =>
    if x.chosen.isSome || (t != s.cycle && s.clockCycles core s.cycle != s.clockCycles core t + n) then none else x.last

/-- The context that issues next, and whether it is chosen by priority: one whose count has reached its bound goes first;
then the one that issued in the cycle before keeps it while it is ready; then priority decides (R340, R341). -/
def State.pick (s : State) (core : Nat) : Option (Nat × Bool) :=
  let l := s.readyOn core
  let x := s.coreSt core
  let ready := fun (a : Nat) => l.any fun e => e.1 == a
  match x.grant.filter ready, starving l, (s.lastIssued core).filter ready, byPriority x.turn l with
  | some a, _, _, _ => some (a, false)
  | none, some a, _, _ => some (a, false)
  | none, none, some a, _ => some (a, false)
  | none, none, none, some a => some (a, true)
  | none, none, none, none => none

/-- `ISSUE_SELECTION`: the core gives the issue of the present cycle to one context, as often as the span's clock allows.
While the one that has it is still to issue, it keeps it; when it is no longer ready, the issue goes to another in the same
cycle (R340). Results in flight of a context that stops issuing are held with their offsets (R137). -/
def execIssueSelection (core : Nat) (s : State) : Host.Outcome State Fault Refusal :=
  let x := s.coreSt core
  let n := x.given s.cycle
  let open_ := x.chosen.any fun a => s.hasTurn a
  if open_ && x.chosen.any (fun a => s.readyNow a) then .next s
  else
    let m := if open_ then n - 1 else n
    if s.issueRate core ≤ m then .next s
    else match s.pick core with
      | none => .next s
      | some (a, turn) => .next (s.give core a turn m)

/-- `STARVATION_GRANT`: the issue of the next cycle is given to the waiting context. -/
def execStarvationGrant (core : Nat) (s : State) : Host.Outcome State Fault Refusal :=
  match starving (s.readyOn core) with
  | none => .next s
  | some a => .next (s.onCore core fun x => { x with grant := some a })

/-- `YIELD_PASS_END` (R162): every other ready context of the core has issued since the `YIELD`, or 64 reference cycles
have passed. -/
def execYieldPassEnd (a : Nat) (s : State) : Host.Outcome State Fault Refusal :=
  match s.ctx a with
  | none => .next s
  | some c =>
    let others := (s.readyOn (coreOf a)).filter fun e => e.1 != a
    if c.yieldPass && (decide (c.yieldAt + 64 ≤ s.cycle) || others.all fun e => c.yieldSeen.contains e.2.cid) then
      .next (s.setCtx a { c with yieldPass := false, yieldSeen := [] })
    else .next s

/-! ## Barriers (R160, R345) -/

/-- The witness with which a context stands at a barrier and waits: of the stream that issues, or of the one that a trap
interrupted, whose arrival holds while the handler runs (DESIGN CHOICE, R160, log 30). -/
def Ctx.standsAt (c : Ctx) (gang : Bool) (b : Nat) : Option W64 :=
  let here := fun (x : Option (Bool × Nat × W64)) (r : Option W64) =>
    match x, r with
    | some (g, n, w), none => if g == gang && n == b then some w else none
    | _, _ => none
  match here c.arrived c.released with
  | some w => some w
  | none => c.capture.bind fun k => here k.arrived k.released

/-- A context at a barrier is released with a witness. -/
def Ctx.letGo (c : Ctx) (gang : Bool) (b : Nat) (m : W64) : Ctx :=
  let here := match c.arrived, c.released with
    | some (g, n, _), none => g == gang && n == b
    | _, _ => false
  if here then { c with released := some m }
  else { c with capture := c.capture.map fun k => { k with released := some m } }

/-- `BARRIER_RELEASE`: once every member of the team, or of the instance, stands at the barrier or has exited, all are
released with the witness merged in ascending order of team and context; a gang barrier moves a clock step. -/
def execBarrierRelease (task inst : Nat) (gang : Bool) (team b : Nat) (s : State) : Host.Outcome State Fault Refusal :=
  match s.inst task inst with
  | none => .next s
  | some g =>
    let ms := g.members.filter fun m => gang || m.team == team
    let stands := ms.map fun m => if m.exited then some (0 : W64) else (s.ctxOf m.agent m.cid).bind fun c => c.standsAt gang b
    if g.status != .placed || ms.all (·.exited) || stands.any Option.isNone then .next s
    else
      let m := stands.foldl (fun w x => witMerge w (x.getD 0)) 0
      let s1 := ms.foldl (fun (s : State) x => if x.exited then s else s.onCtx x.agent fun c => c.letGo gang b m) s
      if !gang then .next s1
      else
        let s2 : State := match AL.find g.first b, AL.find g.last b with
          | some f, some l => s1.steerBy task inst l f
          | _, _ => s1
        .next (s2.onInst task inst fun g => { g with first := AL.del g.first b, last := AL.del g.last b })

/-! ## Placement (R338) -/

/-- `INSTANCE_PLACEMENT`: a ready instance that fits at an anchor is placed all at once, in its turn. The first of a task
makes the task placed. -/
def execInstancePlacement (task inst die span core : Nat) (s : State) : Host.Outcome State Fault Refusal :=
  match s.inst task inst, s.task task with
  | some g, some t =>
    if s.ready && g.status == .ready && s.waiting g && s.fitsAt g die span core && s.turnOf g die then
      let s1 := s.launch g t.prio t.wit die span core
      .next (if t.state == .accepted then s1.enter task .placed 0 0 t.hash else s1)
    else .next s
  | _, _ => .next s

/-- `PRIORITY_AGEING`: 2 ms ready and not placed raise an instance by one, up to 4. -/
def execPriorityAgeing (task inst : Nat) (s : State) : Host.Outcome State Fault Refusal :=
  match s.inst task inst with
  | none => .next s
  | some g =>
    if s.waiting g && decide (g.eff < 4) && decide (g.since + ms2 ≤ s.cycle) then
      .next (s.onInst task inst fun g => { g with eff := g.eff + 1, since := g.since + ms2 })
    else .next s

/-! ## Pre-emption and resumption (R346, R347) -/

/-- The contexts of an instance stop issuing (R346). -/
def State.halt (s : State) (g : GInst) : State :=
  { s with ctxs := s.ctxs.map fun e => if e.2.task == g.task && e.2.inst == g.num then (e.1, { e.2 with stopped := true }) else e }

/-- Save instances one after the other. -/
def State.saveEach (s : State) (l : List GInst) : Option State :=
  match l with
  | [] => some s
  | g :: r => (s.saveInst g).bind fun s1 => s1.saveEach r

/-- Whether there are save areas for the contexts of some instances. -/
def State.areasFor (s : State) (l : List GInst) : Bool :=
  let n := (l.map fun g => (s.membersOf g).length).sum
  (freeAreas Config.saveSlots 0 n (s.insts.flatMap (·.areas))).length == n

/-- Placed instances are pre-empted: every context of theirs stops issuing at once, and they are saved once what they
have in flight has drained. -/
def State.preemptAll (s : State) (l : List GInst) : State :=
  if s.areasFor l then
    let s1 := l.foldl (fun (s : State) g => s.halt g) s
    (s1.saveEach l).getD s1
  else s

/-- `PREEMPT`: a whole instance is pre-empted. -/
def execPreempt (task inst : Nat) (s : State) : Host.Outcome State Fault Refusal :=
  match s.inst task inst with
  | none => .next s
  | some g => .next (if g.status == .placed then s.preemptAll [g] else s)

/-- `RESUME`: a saved instance is restored all at once where it fits, in its turn. -/
def execResume (task inst die span core : Nat) (s : State) : Host.Outcome State Fault Refusal :=
  match s.inst task inst with
  | none => .next s
  | some g =>
    if s.ready && g.status == .saved && s.waiting g && s.fitsAt g die span core && s.turnOf g die then
      .next (s.restoreInst g die span core)
    else .next s

/-- The sublists of k elements, those with the earliest elements first. -/
def choose {α : Type} (k : Nat) (l : List α) : List (List α) :=
  match k, l with
  | 0, _ => [[]]
  | _ + 1, [] => []
  | n + 1, x :: r => (choose n r).map (x :: ·) ++ choose (n + 1) r

/-- The package without the contexts and shares of some instances. -/
def State.without (s : State) (gs : List GInst) : State :=
  let mine := fun (t i : Nat) => gs.any fun g => g.task == t && g.num == i
  { s with
    ctxs := s.ctxs.filter fun e => !mine e.2.task e.2.inst
    shares := s.shares.map fun h => if mine h.task h.inst then { h with live := false } else h }

/-- The instances to be pre-empted for one: the fewest of lower packet priority that make it fit, the latest accepted
first (R338). -/
def State.victims (s : State) (g : GInst) : Option (List GInst) :=
  let cand := (s.insts.filter fun h => h.status == .placed && decide (h.prio < g.prio)).reverse
  (List.range (cand.length + 1)).findSome? fun k => (choose k cand).find? fun v => (s.without v).fits g

/-- `FORCED_PREEMPTION`: for an instance that has waited 2 ms at priority 4 and fits nowhere. -/
def execForcedPreemption (task inst : Nat) (s : State) : Host.Outcome State Fault Refusal :=
  match s.inst task inst with
  | none => .next s
  | some g =>
    if s.waiting g && g.eff == 4 && decide (g.since + ms2 ≤ s.cycle) && !s.fits g then
      .next (match s.victims g with
        | some v => s.preemptAll v
        | none => s)
    else .next s

/-- Whether a form reads or writes a scratchpad share (R348). -/
def usesShare (i : Instr) : Bool :=
  match i with
  | .tlds .. => true
  | .tsts .. => true
  | .acopy .. => true
  | .acopyw .. => true
  | _ => false

/-- `SCRATCH_SHARE_RELEASE` (R348): once a team has retired and every copy into or out of its shares is done. -/
def execScratchShareRelease (task inst team : Nat) (s : State) : Host.Outcome State Fault Refusal :=
  match s.inst task inst with
  | none => .next s
  | some g =>
    let ms := g.members.filter fun m => m.team == team
    let cids := ms.map (·.cid)
    if !ms.isEmpty && ms.all (·.exited) &&
        s.ctxs.all (fun e => !(e.2.task == task && e.2.inst == inst && e.2.team == team) ||
          (!holdsSlot e.1 && e.2.window.all fun o => o.status == .done || !usesShare o.form)) &&
        s.accs.all (fun x => !(x.sp && cids.contains x.cid)) && s.arrivals.all (fun r => !(r.sp && cids.contains r.cid)) then
      .next (s.dropShares task inst team)
    else .next s

/-! ## Queue growth (R342 to R344) -/

/-- A hardware queue: its number, the entries it holds, its base depth, the bytes of an entry, its unit. -/
structure HwQueue where
  num  : Nat
  held : Nat
  base : Nat
  size : Nat
  unit : BitVec 32
  deriving DecidableEq, Repr

/-- Whether records that a context's landing results or its oldest tile operation would post find no room (R342). -/
def Ctx.postBlocked (c : Ctx) : Bool :=
  ((c.due.all fun p => p.ready) && !c.statRoom c.duePosts) ||
    c.window.head?.any fun o => o.status == .done && !c.statRoom o.stats.length

/-- The slots whose statistics queues make an update unit wait with what it has to do next (R342). -/
def State.unitsBlocked (s : State) : List Nat :=
  let unfit := fun (s1 : State) => if s.statFits s1 then [] else
    (s1.ctxs.filter fun e => (s.ctx e.1).any fun c => decide (c.statq.length < e.2.statq.length)).map (·.1)
  (List.range s.grads.length).flatMap (fun i => unfit (s.takeGrad i)) ++
    (List.range s.lines.length).flatMap fun i => unfit (s.completeLine i)

/-- The statistics queue of a context: it counts as full once its poster waits (R342, log 26). -/
def State.statQueue (s : State) (blocked : List Nat) (e : Nat × Ctx) : HwQueue :=
  let d := s.depthOf (slotOf e.1) 16 16
  ⟨slotOf e.1, if e.2.postBlocked || blocked.contains e.1 then Nat.max d e.2.statq.length else e.2.statq.length, 16, 16, seqUnit e.1⟩

/-- Whether a context has an operation running on its copy engine. -/
def Ctx.copying (c : Ctx) : Bool :=
  c.window.any fun o => engineOf o.form == .copy && (match o.status with
    | .running _ => true
    | _ => false)

/-- Whether an access is on its way to a slice: issued, neither performed nor kept. -/
def Access.onWay (x : Access) : Bool := x.level == 0 && !x.kept && !x.sp

/-- The contexts whose work may lie in the request queue of a core's copy engine; in the overflow of a slice: accesses to
lines homed there, and the lines of running copies; and in the links of a die: accesses to lines homed on another die, and
the lines of running copies. Each is given by the context's name. -/
def State.copyWork (s : State) (core : Nat) : List Nat :=
  (s.ctxs.filter fun e => coreOf e.1 == core && e.2.copying).map (·.2.cid)
def State.sliceWork (s : State) (home : Nat) : List Nat :=
  (s.accs.filter fun x => x.onWay && (flatTag x.dom x.va).home == home).map (·.cid) ++
    (s.ctxs.filter fun e => e.2.copying).map (·.2.cid)
def State.linkWork (s : State) (die : Nat) : List Nat :=
  (s.accs.filter fun x =>
    let home := (flatTag x.dom x.va).home / 24
    x.onWay && home != x.core / 48 && (home == die || x.core / 48 == die)).map (·.cid) ++
    (s.ctxs.filter fun e => e.2.copying).map (·.2.cid)

/-- A queue whose filling the manual ties to work but not to a count: it holds nothing without such work, and with it how
much it holds is a free value (log 26). -/
def State.otherQueue (s : State) (num base size : Nat) (unit : BitVec 32) (work : List Nat) : HwQueue :=
  ⟨num, if work.isEmpty then 0 else Nat.min (Config.queueLevel s.choices num) (s.depthOf num base size), base, size, unit⟩

/-- The queues of a die whose filling is not counted by form: those of its copy engines, the overflows of its slices, and
its links. Each comes with the contexts whose work it may hold. -/
def State.looseQueues (s : State) (die : Nat) : List (HwQueue × List Nat) :=
  let row := fun (num base size : Nat) (unit : BitVec 32) (work : List Nat) => (s.otherQueue num base size unit work, work)
  ((List.range 48).map fun c =>
      row (5120 + (die * 48 + c)) 64 64 (coreUnit ((die * 48 + c) * 4) 8 0) (s.copyWork (die * 48 + c))) ++
    ((List.range 24).map fun u =>
      row (6144 + (die * 24 + u)) 64 64 (sliceUnit (die * 24 + u) 9) (s.sliceWork (die * 24 + u))) ++
    (List.range 6).map fun l => row (7168 + die * 8 + l) 128 64 (unitPath die 0 0 14 (l / 2)) (s.linkWork die)

/-- The hardware queues of a die (Table 16-8). -/
def State.hwQueues (s : State) (die : Nat) : List HwQueue :=
  let blocked := s.unitsBlocked
  ((s.ctxs.filter fun e => dieOf e.1 == die && holdsSlot e.1).map (s.statQueue blocked)) ++
    ((List.range 48).map fun c =>
      let k := die * 48 + c
      ⟨epiQueue k, (s.coreSt k).epi.length, 4, 64, coreUnit (k * 4) 6 0⟩) ++
    ((List.range 24).map fun u =>
      let k := die * 24 + u
      ⟨gradQueue k, (s.grads.filter fun g => g.tag.home == k).length, 32, 2048, sliceUnit k 10⟩) ++
    (s.looseQueues die).map (·.1) ++
    [⟨launchQueue die, (s.launchQ.filter fun p => p.place.isNone && dieOf p.agent == die).length, 16, 256,
      unitPath 4 0 0 15 (2 ^ 12 + die)⟩]

/-- Whether a queue is full with the chunks it has. -/
def State.queueFull (s : State) (q : HwQueue) : Bool := decide (s.depthOf q.num q.base q.size ≤ q.held)

/-- Whether a queue comes before another: by bytes held, then by unit path, then by number (R343). -/
def HwQueue.before (x y : HwQueue) : Bool :=
  decide (x.held * x.size < y.held * y.size) ||
    (x.held * x.size == y.held * y.size &&
      (decide (x.unit.toNat < y.unit.toNat) || (x.unit == y.unit && decide (x.num < y.num))))

/-- The smallest full queue of a die by bytes held, the lowest unit path among equals. -/
def smallestFull (l : List HwQueue) : Option HwQueue :=
  l.foldl (fun (m : Option HwQueue) q => match m with
    | none => some q
    | some x => if q.before x then some q else some x) none

/-- The queues that hold work of an instance: statistics, epilogues, contributions and launch packets of its contexts, and
the loose queues of a die where their copies and accesses are. -/
def State.instQueues (s : State) (die : Nat) (g : GInst) : List Nat :=
  let ms := s.membersOf g
  let keys := ms.map (·.1)
  let cids := ms.map (·.2.cid)
  ((ms.filter fun e => holdsSlot e.1).map fun e => slotOf e.1) ++
    ((ms.map fun e => coreOf e.1).eraseDups.filter fun k => (s.coreSt k).epi.any fun e => keys.contains e.1).map epiQueue ++
    ((s.grads.filter fun x => cids.contains x.cid).map fun x => gradQueue x.tag.home).eraseDups ++
    ((s.launchQ.filter fun p => p.place.isNone && g.members.any fun m => slotOf m.agent == p.agent).map fun p =>
      launchQueue (dieOf p.agent)).eraseDups ++
    ((s.looseQueues die).filter fun q => q.2.any cids.contains).map fun q => q.1.num

/-- The chunks that some queues hold. -/
def State.chunkSum (s : State) (l : List Nat) : Nat := (l.map s.chunksOf).sum

/-- The numbers of the queues of a die, whose chunks come out of its pool. -/
def State.dieQueues (s : State) (die : Nat) : List Nat := (s.hwQueues die).map (·.num)

/-- The placed instance whose queues hold the most chunks of a die's queues, the earliest among equals; none when no
instance holds any. -/
def State.mostChunks (s : State) (die : Nat) : Option GInst :=
  let qs := s.dieQueues die
  let n := fun (g : GInst) => s.chunkSum ((s.instQueues die g).filter qs.contains)
  (s.insts.filter fun g => g.status == .placed && n g != 0).foldl (fun (m : Option GInst) g => match m with
    | none => some g
    | some x => if n x < n g then some g else some x) none

/-- Whether a die makes no progress (R343): for 256 reference cycles none of its contexts has issued and no unit of it has
completed work, and none of its contexts could issue now. -/
def State.stalled (s : State) (die : Nat) : Bool :=
  decide (AL.get 0 s.worked die + 256 ≤ s.cycle) && s.ctxs.all fun e => dieOf e.1 != die || !s.readyNow e.1

/-- The chunks of some queues return to the pool. -/
def State.dropChunks (s : State) (l : List Nat) : State := { s with chunks := s.chunks.filter fun e => !l.contains e.1 }

/-- A queue is given one more chunk. What waited for room in a statistics queue goes on. -/
def State.addChunk (s : State) (q : Nat) : State :=
  if q < 1024 then s.onCtx q fun c => ({ c with statChunks := c.statChunks + 1 } : Ctx).retireTiles
  else { s with chunks := (q, s.chunksOf q + 1) :: s.chunks.filter fun e => e.1 != q }

/-- `DEADLOCK_QUEUE_GROWTH`: a die without progress for 256 reference cycles, with the named queue its smallest full one,
gives it a chunk of its pool of 256. The loose queues have returned theirs when they are back at their base depth (log
26). With no chunk left, the instance whose queues hold the most chunks is aborted, and they return (R343, R344). -/
def execDeadlockQueueGrowth (die qu : Nat) (s : State) : Host.Outcome State Fault Refusal :=
  let next := s.choices + 1
  if !s.stalled die then .next { s with choices := next }
  else
    let s0 := s.dropChunks (((s.looseQueues die).filter fun q => decide (q.1.held ≤ q.1.base)).map (·.1.num))
    match smallestFull ((s0.hwQueues die).filter s0.queueFull) with
    | none => .next { s0 with choices := next }
    | some q =>
      if q.num != qu then .next { s0 with choices := next }
      else if s0.chunkSum (s0.dieQueues die) < 256 then .next ({ s0.addChunk qu with choices := next }.progress die)
      else match s0.mostChunks die with
        | none => .next { s0 with choices := next }
        | some g =>
          let own := s0.instQueues die g
          let s1 := ({ s0 with choices := next } : State).abortInst g.task g.num none
            ⟨{ cause := 0x50, aux := 1, unit := g.firstUnit }, ⟨0, 0⟩, ⟨0, 0⟩, 0, 0, 0, 0, 0⟩
          .next (s1.dropChunks own)

/-! ## Code generations (R365) -/

/-- `CODEGEN_PASS`: a core whose loop buffers hold no unit fetched before the present generation passes it. -/
def execCodegenPass (core : Nat) (s : State) : Host.Outcome State Fault Refusal :=
  let on := s.ctxs.filter fun e => coreOf e.1 == core && e.2.status == .running
  if on.all fun e => e.2.halves.all fun h => h.gen == s.codegen then
    let s1 := s.onCore core fun x => { x with codegen := s.codegen }
    .next { s1 with ctxs := s1.ctxs.map fun e => if coreOf e.1 == core then (e.1, { e.2 with codegen := s.codegen }) else e }
  else .next s

end Sys2Proof.Machine
end

