-- ==== Sys2Proof/Machine/EvTask.lean ====
section
/-! DEFINITION. Tasks: the reading and the checks of packets, dependences and credits, the ends of tasks, and the work of
the kinds that the keystone does itself (16 R332 to R339, R349, 19 R385 to R389, 17 R360 to R365). -/

namespace Sys2Proof.Machine

/-! ## Ends of tasks (R336) -/

/-- The oldest task of a queue and tag that still counts predecessors. -/
def State.counting (s : State) (q : Nat) (tag : BitVec 32) : Option Task :=
  s.tasks.find? fun t => t.queue == q && t.tag == tag && t.state == .accepted && decide (t.preds > 0)

/-- The oldest held task of a queue and tag. -/
def State.heldTask (s : State) (q : Nat) (tag : BitVec 32) : Option Task :=
  s.tasks.find? fun t => t.queue == q && t.tag == tag && t.state == .accepted && t.held

/-- The oldest of them that is not cancelled already. -/
def State.cancellable (s : State) (q : Nat) (tag : BitVec 32) : Option Task :=
  s.tasks.find? fun t => t.queue == q && t.tag == tag && t.state == .accepted && decide (t.preds > 0) && !t.cancel

/-- The witness of a task whose predecessor has completed, or which a signal has released: it refuses lines filled before,
so that the task's reads see the predecessor's stores (F9 of Table 13-4). DEDUCED (log 38). -/
def State.refloor (s : State) (dom : Nat) (w : W64) : W64 :=
  let e := s.epoch % 2 ^ 22
  match witForm w with
  | 0 => mkWit 1 5 dom e 0 0
  | 3 => w
  | k => mkWit k (witScope w) (witDom w) e (witAgent w) (witSeq w)

/-- A task that has become ready: its instances wait for placement from now. -/
def State.wake (s : State) (id : Nat) : State :=
  match s.task id with
  | none => s
  | some t =>
    if t.ready then
      { s with insts := s.insts.map fun g => if g.task == id && g.status == .ready then { g with since := s.cycle } else g }
    else s

/-- A completed task subtracts one from each successor it names, or keeps a credit. -/
def State.decrement (s : State) (h : BitVec 32 × Nat) : State :=
  match s.counting h.2 h.1 with
  | some x => (s.onTask x.id fun t => { t with preds := t.preds - 1, wit := s.refloor t.dom t.wit }).wake x.id
  | none => { s with credits := s.credits ++ [⟨0, h.2, h.1⟩] }

/-- A failed or cancelled task cancels each successor it names, or keeps a credit. -/
def State.cancelSucc (s : State) (h : BitVec 32 × Nat) : State :=
  match s.cancellable h.2 h.1 with
  | some x => s.onTask x.id fun t => { t with cancel := true, detail := 0 }
  | none => { s with credits := s.credits ++ [⟨1, h.2, h.1⟩] }

/-- A signal releases the oldest held task of its handle, or keeps a credit. -/
def State.signal (s : State) (h : BitVec 32 × Nat) : State :=
  match s.heldTask h.2 h.1 with
  | some x => (s.onTask x.id fun t => { t with held := false, wit := s.refloor t.dom t.wit }).wake x.id
  | none => { s with credits := s.credits ++ [⟨2, h.2, h.1⟩] }

/-- The handle in 8 bytes: tag and queue. -/
def handleOf (v : Nat) : BitVec 32 × Nat := (BitVec.ofNat 32 v, v / 2 ^ 32 % 64)

/-- A saved instance is not resumed: its images are gone, what its operations and its kept accesses of a scratchpad took a
number for fails, its kept accesses of memory are still performed, and its energy is accounted for (R350, R369, R405). -/
def State.stopSaved (s : State) (g : GInst) : State :=
  let cids := g.images.map (·.cid)
  let s1 := s.failOps g.dom (g.images.flatMap fun c => c.window ++ c.keptOps)
  let s2 := g.images.foldl (fun (s : State) c => if c.status == .exited then s else s.account c) s1
  let gone := fun (x : Access) => x.sp && cids.contains x.cid
  let s3 := (s2.accs.filter gone).foldl (fun (s : State) x =>
    match x.seq with
    | some q => s.formFail x.owner x.dom q
    | none => s) s2
  ({ s3 with accs := (s3.accs.filter fun x => !gone x).map fun x =>
      if cids.contains x.cid then { x with kept := false } else x } : State).clearLatches g.task g.num

/-- The instances of a task that are not placed are placed no more. -/
def State.dropWaiting (s : State) (id : Nat) : State :=
  let s1 := (s.insts.filter fun g => g.task == id && g.status == .saved).foldl (fun (s : State) g => s.stopSaved g) s
  { s1 with insts := s1.insts.map fun g =>
      if g.task == id && (g.status == .ready || g.status == .saved) then
        { g with
          status := .aborted, images := [], vregs := [], shares := [], bad := [], areas := [], first := [], last := []
          members := g.members.map fun m => { m with exited := true } }
      else g }

/-- A task ends: the record, then what its successors meet. None while the pool of 4,096 has no free credit for it. -/
def State.endTask (s : State) (id : Nat) (st : TState) (cls detail : Nat) (hash : W64) : Option State :=
  match s.task id with
  | none => none
  | some t =>
    if t.state.ended then none
    else
      let s1 := (s.enter id st cls detail hash).dropWaiting id
      let s2 := t.succs.foldl (fun s h => if st == .completed then s.decrement h else s.cancelSucc h) s1
      let s3 := if st == .completed && t.kind == 3 then s2.signal (handleOf (fieldAt t.payload 0 8)) else s2
      if s3.credits.length ≤ 4096 then some s3 else none

/-- Cancelled tasks that hold nothing end, one after the other, while credits allow. -/
def State.sweepCancels (s : State) (fuel : Nat) : State :=
  match fuel with
  | 0 => s
  | n + 1 =>
    match s.tasks.findSome? fun t =>
      if t.cancel && t.state == .accepted then s.endTask t.id .cancelled 5 t.detail t.hash else none with
    | none => s
    | some s1 => s1.sweepCancels n

/-- The end of a task that waits for a free credit is kept with it (R336). -/
def State.pendEnd (s : State) (id : Nat) (st : TState) (cls detail : Nat) (hash : W64) : State :=
  s.onTask id fun t => if t.state.ended || t.ending.isSome then t else { t with ending := some (st, cls, detail, hash) }

/-- Ready launches that a withdrawal has left placeable on no die end failed (R339). -/
def State.failUnplaceable (s : State) : State :=
  s.tasks.foldl (fun s t =>
    if t.kind == 1 && t.ready && s.insts.any fun g => g.task == t.id && (g.status == .ready || g.status == .saved) && !s.placeable g.kernel
    then (s.endTask t.id .failed 6 0 t.hash).getD (s.pendEnd t.id .failed 6 0 t.hash) else s) s

/-- A task ends, and with it the tasks that its end cancels. One that lacks a credit stays as it is until one frees. -/
def State.finish (s : State) (id : Nat) (st : TState) (cls detail : Nat) (hash : W64) : State :=
  match s.endTask id st cls detail hash with
  | none => s.pendEnd id st cls detail hash
  | some s1 => (s1.sweepCancels s1.tasks.length).failUnplaceable

/-! ## Queues (R333, R334) -/

/-- A queue, when it has been configured. -/
def State.queue (s : State) (q : Nat) : Option QueueSt := AL.find s.queues q

/-- The units pending in a ring. -/
def QueueSt.pending (q : QueueSt) : Nat := (q.tail + 2 ^ 32 - q.head) % 2 ^ 32

/-- `TAIL_WRITE` (R333): a new tail is accepted unless more than the ring's size would be pending. -/
def State.tailWrite (s : State) (q : Nat) (v : W64) : State :=
  match s.queue q with
  | none => s
  | some x =>
    let t := { x with tail := v.toNat % 2 ^ 32 }
    if s.hostUp && decide (8 ≤ x.lsize) && decide (x.lsize ≤ 20) && decide (t.pending ≤ 2 ^ x.lsize) then
      { s with queues := AL.put s.queues q t }
    else s

/-- `TAIL_WRITE` by itself. -/
def execTailWrite (q : Nat) (v : BitVec 64) (s : State) : Host.Outcome State Fault Refusal := .next (s.tailWrite q v)

/-- n units of a ring from a count of units; a packet may wrap. -/
def State.ringUnits (s : State) (q : QueueSt) (start n : Nat) : List Byte :=
  (List.range n).flatMap fun i => s.memBytes (physKey 0 0 (q.base + 16 * ((start + i) % 2 ^ q.lsize))) 16

/-! ## The checks of a packet (R335) -/

/-- The payload length of a kind (Table 16-6). -/
def kindLen (k : Nat) : Nat :=
  match k with
  | 1 => 16
  | 2 => 32
  | 4 => 16
  | 8 => 16
  | _ => 8

/-- The object of a domain with a handle, still loaded. -/
def State.objOf (s : State) (dom handle : Nat) : Option Obj :=
  s.objs.find? fun o => o.dom == dom && o.handle == handle && o.gone.isNone

/-- Whether an accepted unload names a handle (R364). -/
def State.unloading (s : State) (dom handle : Nat) : Bool :=
  s.tasks.any fun t => t.kind == 9 && t.dom == dom && !t.state.ended && fieldAt t.payload 0 2 == handle

/-- The kernel of a gang launch's handle. -/
def State.kernelOf (s : State) (dom v : Nat) : Option Kernel :=
  if s.unloading dom (v / 65536) then none
  else (s.objOf dom (v / 65536)).bind fun o => o.kernels[v % 65536]?

/-- Whether a must-be-zero bit of a payload is set. -/
def payloadMbz (k : Nat) (p : List Byte) : Bool :=
  match k with
  | 1 => fieldAt p 14 2 != 0
  | 2 => fieldAt p 24 8 != 0
  | 3 => decide (fieldAt p 0 8 ≥ 2 ^ 38)
  | 4 => fieldAt p 12 4 != 0
  | 5 => decide (fieldAt p 0 8 ≥ 2 ^ 20)
  | 9 => decide (fieldAt p 0 8 ≥ 2 ^ 16)
  | _ => false

/-- Whether a payload field is outside its limits; a must-be-zero bit of a self-test counts here (R388). -/
def payloadRange (k : Nat) (p : List Byte) : Bool :=
  match k with
  | 1 => fieldAt p 12 2 == 0
  | 2 => fieldAt p 16 8 == 0 || decide (fieldAt p 16 8 > 2 ^ 40)
  | 4 => fieldAt p 0 8 % 32 != 0
  | 6 =>
    let v := fieldAt p 0 8
    decide (v % 16 > 3) || v / 16 % 16 != 0 || decide (v / 256 % 256 > 11) || v / 65536 % 16 == 0 || v / 2 ^ 20 != 0
  | 8 => fieldAt p 8 8 % 16 != 0
  | _ => false

/-- The successor handles of a packet: its last 8 bytes for each. -/
def packetHandles (bs : List Byte) (n : Nat) : List Nat :=
  (List.range n).map fun i => fieldAt bs (bs.length - 8 * n + 8 * i) 8

/-- The reason for which a packet is refused, in the order of R335; launched by a context of a domain, when it is. -/
def State.refusal (s : State) (q : QueueSt) (bs : List Byte) (owner : Option Nat) : Option Nat :=
  let len := fieldAt bs 0 1
  let kind := fieldAt bs 1 1
  let succ := fieldAt bs 2 1 % 16
  let plen := fieldAt bs 12 4
  let p := sliceBytes bs 16 plen
  let hs := packetHandles bs succ
  if kind < 1 ∨ kind > 9 then some 1
  else if len < 2 ∨ len > 16 ∨ succ > 8 ∨ 16 + plen + 8 * succ > 16 * len then some 2
  else if fieldAt bs 2 1 ≥ 64 ∨ fieldAt bs 3 1 ≥ 2 ∨ fieldAt bs 10 2 ≠ 0 then some 3
  else if plen ≠ kindLen kind then some 4
  else if kind = 6 ∧ q.dom ≠ 0 then some 8
  else if hs.any (fun h => decide (h ≥ 2 ^ 38)) ∨ payloadMbz kind p then some 3
  else if payloadRange kind p then some 4
  else if owner.isSome ∧ (owner ≠ some q.dom ∨ q.enable = false) then some 5
  else if kind = 9 ∧ (s.objOf q.dom (fieldAt p 0 2)).isNone then some 6
  else if kind = 1 then
    match s.kernelOf q.dom (fieldAt p 8 4) with
    | none => some 6
    | some k => if s.placeable k then none else some 7
  else none

/-- The journal's hash of a packet (R385). -/
def packetHash (bs : List Byte) : W64 := shaLow64 bs

/-- A packet is refused: a record, and nothing else. -/
def State.refuse (s : State) (q : Nat) (bs : List Byte) (reason : Nat) : State :=
  s.journal q 6 (BitVec.ofNat 32 (fieldAt bs 4 4)) (fieldAt bs 1 1) (1024 + reason) (packetHash bs)

/-- Credits that a newly accepted task consumes: decrements, oldest first, up to its count; a cancel; a release. -/
def State.takeCredits (s : State) (t : Task) : State :=
  let mine := fun (k : Nat) (c : Credit) => c.kind == k && c.queue == t.queue && c.tag == t.tag
  let n := Nat.min t.preds (s.credits.filter (mine 0)).length
  let drop := fun (k n : Nat) (l : List Credit) =>
    (l.foldl (fun (x : List Credit × Nat) c => if mine k c && decide (x.2 > 0) then (x.1, x.2 - 1) else (x.1 ++ [c], x.2)) ([], n)).1
  let cancels := t.preds != 0 && s.credits.any (mine 1)
  let frees := t.held && s.credits.any (mine 2)
  let l1 := drop 0 n s.credits
  let l2 := if cancels then drop 1 1 l1 else l1
  let l3 := if frees then drop 2 1 l2 else l2
  ({ s with credits := l3 } : State).onTask t.id fun t =>
    { t with
      preds := t.preds - n, cancel := cancels, held := t.held && !frees
      wit := if n != 0 || frees then s.refloor t.dom t.wit else t.wit }

/-- The instances of an accepted launch. -/
def launchInsts (id dom prio cycle : Nat) (k : Kernel) (p : List Byte) : List GInst :=
  (List.range (fieldAt p 12 2)).map fun i =>
    ⟨id, i, dom, k, BitVec.ofNat 64 (fieldAt p 0 8), .ready, prio, prio, cycle, 0, 0, 0, [], [], [], [], 0, [], [], [], [], []⟩

/-- A packet is accepted: its task, its record, its instances, the credits it meets (R332, R335, R336). -/
def State.accept (s : State) (q : Nat) (x : QueueSt) (bs : List Byte) (wit : W64) : State :=
  let kind := fieldAt bs 1 1
  let p := sliceBytes bs 16 (fieldAt bs 12 4)
  let id := s.nextId
  let t : Task := {
    id := id, queue := q, tag := BitVec.ofNat 32 (fieldAt bs 4 4), kind := kind, prio := fieldAt bs 2 1 / 16 % 4
    preds := fieldAt bs 8 2, held := fieldAt bs 3 1 % 2 == 1, succs := (packetHandles bs (fieldAt bs 2 1 % 16)).map handleOf
    payload := p, dom := x.dom, wit := wit, state := .accepted, cls := 0, detail := 0, hash := packetHash bs
    next := 0, count := 0, storeFault := false, formFault := 0, cause := 0, cancel := false, ending := none }
  let gs := if kind = 1 then match s.kernelOf x.dom (fieldAt p 8 4) with
    | some k => launchInsts id x.dom t.prio s.cycle k p
    | none => [] else []
  let s1 := { s with nextId := id + 1, tasks := s.tasks ++ [t], insts := s.insts ++ gs }
  let s2 := (s1.journal q 1 t.tag kind 0 t.hash).takeCredits t
  ((s2.sweepCancels s2.tasks.length).wake id).failUnplaceable

/-- The host-ingress witness of a packet: the host's writes before its tail write are in memory (R190, R397). -/
def State.ingress (s : State) (dom : Nat) : State × W64 :=
  let r := s.takeSeq 768 dom 5 0
  (r.1.formLevel 768 dom r.2 5, r.1.singleWit 5 dom 768 r.2)

/-- The form of a `LAUNCH` is visible once its packet is journaled (R212); its packet has left the launch queue, whose
chunks return once it is back at its base depth (R343). -/
def State.launched (s : State) (p : LaunchPkt) : State :=
  let q := s.launchQ.filter (· != p)
  let die := dieOf p.agent
  ({ s.formLevel p.agent p.dom p.seq 5 with launchQ := q } : State).returnChunks (launchQueue die)
    (q.filter fun y => y.place.isNone && dieOf y.agent == die).length 16

/-- The queues whose turn comes first, from the one that is visited next. -/
def State.nextVisit (s : State) : Option Nat :=
  ((List.range 64).map fun i => (s.visit + i) % 64).find? fun q => match s.queue q with
    | some x => x.enable && x.head != x.tail
    | none => false

/-- `QUEUE_VISIT` (R334): the queue whose turn it is gives one packet, which is accepted or refused; a packet that the tail
does not yet cover is passed over. -/
def execQueueVisit (q : Nat) (s : State) : Host.Outcome State Fault Refusal :=
  match s.queue q with
  | none => .next s
  | some x =>
    if !s.ready || s.nextVisit != some q then .next s
    else
      let s0 := { s with visit := (q + 1) % 64 }
      let len := fieldAt (s.ringUnits x x.head 1) 0 1
      let n := if 2 ≤ len ∧ len ≤ 16 then len else 1
      if x.pending < n then .next s0
      else
        let bs := s.ringUnits x x.head n
        let via := s.launchQ.find? fun p => p.queue == q && p.place == some x.head
        let done := fun (s : State) =>
          let s1 := match via with
            | some p => s.launched p
            | none => s
          match s1.queue q with
          | some y => { s1 with queues := AL.put s1.queues q { y with head := (x.head + n) % 2 ^ 32 } }
          | none => s1
        match s.refusal x bs (via.map (·.dom)) with
        | some r => .next (done (s0.refuse q bs r))
        | none =>
          match via with
          | some p => .next (done (s0.accept q x bs p.wit))
          | none =>
            let i := s0.ingress x.dom
            .next (done (i.1.accept q x bs i.2))

/-- `LAUNCH_QUEUE_APPEND` (R212, R334): a packet takes the next free units of its queue's ring, when there is room. One
that names a queue it may not use is refused. -/
def execLaunchQueueAppend (i : Nat) (s : State) : Host.Outcome State Fault Refusal :=
  match s.launchQ[i]? with
  | none => .next s
  | some p =>
    if p.place.isSome || (s.launchQ.take i).any fun y => y.place.isNone && y.queue == p.queue && y.agent == p.agent then .next s
    else
      let x := (s.queue p.queue).getD ⟨0, 0, 64, false, 0, 0⟩
      if x.enable && x.dom == p.dom then
        let n := p.bytes.length / 16
        if x.pending + n > 2 ^ x.lsize then .next s
        else
          let put := (List.range n).foldl (fun (s : State) k =>
            s.fwWrite (x.base + 16 * ((x.tail + k) % 2 ^ x.lsize)) (sliceBytes p.bytes (16 * k) 16)) s
          let q := s.launchQ.map fun y => if y == p then { y with place := some x.tail } else y
          let die := dieOf p.agent
          .next (({ put with
            queues := AL.put s.queues p.queue { x with tail := (x.tail + n) % 2 ^ 32 }
            launchQ := q } : State).returnChunks (launchQueue die) (q.filter fun y => y.place.isNone && dieOf y.agent == die).length 16)
      else
        match s.refusal x p.bytes (some p.dom) with
        | some r => .next ((s.refuse p.queue p.bytes r).launched p)
        | none => .next s

/-! ## Completion of a launch (R349, R350) -/

/-- The contexts that a task has had. -/
def State.cidsOf (s : State) (id : Nat) : List Nat :=
  (s.insts.filter fun g => g.task == id).flatMap fun g => g.members.map (·.cid)

/-- Whether everything of the contexts with the given names is visible at system scope or has failed. -/
def State.allVisible (s : State) (cids : List Nat) : Bool :=
  s.accs.all (fun x => !cids.contains x.cid) && s.forms.all (fun f => f.failed || !cids.contains f.cid) &&
    s.arrivals.all (fun r => !(cids.contains r.cid && r.detail != 0)) && s.drops.all (fun d => !cids.contains d.cid) &&
    s.grads.all (fun g => !cids.contains g.cid) && s.lines.all (fun l => l.reorder.all fun g => !cids.contains g.cid) &&
    s.colls.all (fun x => !cids.contains x.cid) && s.notices.all fun n => !cids.contains n.cid

/-- `TASK_COMPLETE` (R349, R350): a launch whose instances have all ended, and whose effects are all visible or failed,
ends; so does one whose end waited for a credit (R336). -/
def execTaskComplete (task : Nat) (s : State) : Host.Outcome State Fault Refusal :=
  match s.task task with
  | none => .next s
  | some t =>
    if t.state.ended then .next s
    else match t.ending with
    | some (st, cls, detail, hash) => .next (s.finish task st cls detail hash)
    | none =>
    if t.cancel && t.state == .accepted then .next (s.finish task .cancelled 5 t.detail t.hash)
    else if t.kind != 1 then .next s
    else
      let gs := s.insts.filter fun g => g.task == task
      if gs.all (fun g => g.status == .retired || g.status == .aborted) && s.ctxs.all (fun e => e.2.task != task) &&
          s.allVisible (s.cidsOf task) then
        if t.cause ≠ 0 then .next (s.finish task .failed 1 t.cause t.hash)
        else if t.cancel then .next (s.finish task .cancelled 5 t.detail t.hash)
        else if t.formFault ≠ 0 then .next (s.finish task .completed 3 t.formFault t.hash)
        else .next (s.finish task .completed (if t.storeFault then 2 else 0) 0 t.hash)
      else .next s

/-! ## The keystone's own work (R337) -/

/-- A task of a kind that the keystone does is placed once it is ready, and runs once the work starts. -/
def State.toPlaced (s : State) (t : Task) : State :=
  if t.state == .accepted then s.enter t.id .placed 0 0 t.hash else s

def State.toRunning (s : State) (t : Task) : State :=
  if t.state == .running then s else (s.toPlaced t).enter t.id .running 0 0 t.hash

/-- The work of a ready task of a kind; a kind that waits for its witness is placed meanwhile. -/
def State.work (s : State) (task kind : Nat) (waits : Bool) (f : State → Task → State) : State :=
  match s.task task with
  | none => s
  | some t =>
    if t.kind != kind || !t.ready then s
    else if waits && t.state != .running && !s.witSat t.wit then s.toPlaced t
    else f (s.toRunning t) t

/-- The engine and the number of a running copy task. -/
def Task.copyForm (t : Task) : Nat × Nat := (769 + (t.count - 1) / 2 ^ 21, (t.count - 1) % 2 ^ 21)

/-- `COPY_TASK`: an engine takes the work and its number; it copies the bytes line by line; the task completes once they
are all visible at system scope. -/
def execCopyTask (task : Nat) (s : State) : Host.Outcome State Fault Refusal :=
  .next <| s.work task 2 true fun s1 t =>
    let src := fieldAt t.payload 0 8
    let dst := fieldAt t.payload 8 8
    let len := fieldAt t.payload 16 8
    if t.count = 0 then
      match s.freeColl with
      | none => s1
      | some u =>
        if s1.outstanding (769 + u) t.dom ≥ 2 ^ 19 then s1
        else
        let r := s1.takeSeq (769 + u) t.dom 5 t.id
        r.1.onTask t.id fun t => { t with count := u * 2 ^ 21 + r.2 + 1 }
    else
      let fail := fun (s : State) => (s.formFail t.copyForm.1 t.dom t.copyForm.2).finish t.id .failed 7 2 t.hash
      if t.next < len then
        let a := src + t.next
        let b := dst + t.next
        let n := Nat.min (len - t.next) (Nat.min (2048 - a % 2048) (2048 - b % 2048))
        match s1.readFlatVia true none t.dom [t.wit] [(a, n)] with
        | .wait => s1
        | .fault _ => fail s1
        | .ok s2 bs =>
          (match s2.writeFlatVia true t.dom [(b, n)] bs with
           | (_, some none) => s1
           | (s3, some (some _)) => fail s3
           | (s3, none) => (s3.wroteLines t.copyForm.1 t.id t.dom 5 none ⟨0, 0⟩ [flatTag t.dom b]).onTask t.id fun t =>
               { t with next := t.next + n })
      else if s1.accs.all fun x => x.cid != t.id then
        (s1.formLevel t.copyForm.1 t.dom t.copyForm.2 5).finish t.id .completed 0 0 t.hash
      else s1

/-- `SIGNAL_TASK`: done the moment it is ready, and its witness satisfied; it passes straight to completed (R385). -/
def execSignalTask (task : Nat) (s : State) : Host.Outcome State Fault Refusal :=
  match s.task task with
  | none => .next s
  | some t => if t.kind == 3 && t.ready && s.witSat t.wit then .next (s.finish task .completed 0 0 t.hash) else .next s

/-- `WAIT_TASK`: completes once the word's generation differs from g. -/
def execWaitTask (task : Nat) (s : State) : Host.Outcome State Fault Refusal :=
  .next <| s.work task 4 true fun s1 t =>
    let va := fieldAt t.payload 0 8
    match s1.trans true (flatTag t.dom va) va .read true with
    | .wait => s1
    | .fault _ => s1.finish t.id .failed 7 4 t.hash
    | .ok s2 l =>
      match s2.readHome (flatTag t.dom va) [t.wit] [(l, va, 32)] with
      | .wait => s1
      | .fault _ => s1.finish t.id .failed 7 4 t.hash
      | .ok s3 r => if fieldAt r 8 4 ≠ fieldAt t.payload 8 4 then s3.finish t.id .completed 0 0 t.hash else s3

/-- `RECORD_FENCE_TASK`: the drop of R210, complete on every die. -/
def execRecordFenceTask (task : Nat) (s : State) : Host.Outcome State Fault Refusal :=
  .next <| s.work task 5 true fun s1 t =>
    if t.count ≠ 0 then s1.finish t.id .completed 0 0 t.hash
    else if s1.drops.any fun d => d.task == t.id then s1
    else { s1 with drops := s1.drops ++ [⟨t.dom, fieldAt t.payload 0 8 % 2 ^ 20, t.wit, 1024, 0, 0, t.id, 0, ⟨0, 0⟩, 0, true⟩] }

/-- `JOURNAL_MARK`: completes at once, with its value in the record (R385). -/
def execJournalMark (task : Nat) (s : State) : Host.Outcome State Fault Refusal :=
  match s.task task with
  | none => .next s
  | some t =>
    if t.kind == 7 && t.ready then .next (s.finish task .completed 0 0 (BitVec.ofNat 64 (fieldAt t.payload 0 8))) else .next s

/-! ## Self-tests (R388, R389) -/

/-- The scratchpads, register memory and trestle planes of a span are cleared. -/
def State.clearSpan (s : State) (die span : Nat) : State :=
  let mine := fun (core : Nat) => core / 4 == die * 12 + span
  let s1 := (List.range 4).foldl (fun (s : State) c => s.clearKeys (spKey (die * 48 + span * 4 + c) 0) (2 ^ 32)) s
  { s1 with
    regmem := s1.regmem.filter fun e => !mine (e.1 / 256 / 64)
    poison := s1.poison.filter fun p => !(decide (bankLo 0 ≤ p / 2) && mine ((p / 2 - bankLo 0) / 65536 / 64))
    banks := s1.banks.filter fun e => !mine (e.1 / 64)
    shares := s1.shares.filter fun h => !mine h.core
    cores := s1.cores.map fun e => if mine e.1 then (e.1, { e.2 with loaded := none }) else e }

/-- The outcome of a self-test: tests that failed are recorded; a failed scan or trestle test withdraws the span, a
failed link test the die, whose resident instances are aborted with the `MACHINE` word 2 (R374, R375, log 17); a failed
narrow test leaves the die in its lower-precision mode. -/
def State.testOutcome (s : State) (t : Task) : State :=
  let x := t.testSpan
  let tests := fieldAt t.payload 2 1
  let bad := ((Config.selfTestFailed s.tests).toNat &&& tests) % 16
  let u := unitPath x.1 x.2 0 0 0
  let s1 : State := (List.range 4).foldl (fun (s : State) i => if bad.testBit i then s.errRecord 6 u 0 1 0 i else s) s
  let w1 := if bad.testBit 0 || bad.testBit 1 then [(x.1, x.2)] else []
  let w2 := if bad.testBit 3 then [(x.1, 255)] else []
  let word := x.1 + 16 * x.2 + 256 * tests + 65536 * bad + 2 ^ 24 * (Config.selfTestUnits s.tests).toNat +
    2 ^ 32 * (Config.selfTestMicros s.tests).toNat
  let s2 := { s1 with
    tests := s.tests + 1
    withdrawn := s1.withdrawn ++ (w1 ++ w2).filter fun w => !s1.withdrawn.contains w
    narrow := if bad.testBit 2 && !s1.narrow.contains x.1 then s1.narrow ++ [x.1] else s1.narrow }
  let hit := s2.insts.filter fun g => bad.testBit 3 && g.status == .placed && g.die == x.1
  let s3 := hit.foldl (fun (s : State) g =>
    s.abortInst g.task g.num none ⟨{ cause := 0x50, aux := 2, unit := g.firstUnit }, ⟨0, 0⟩, ⟨0, 0⟩, 0, 0, 0, 0, 0⟩) s2
  s3.finish t.id .completed 0 0 (BitVec.ofNat 64 word)

/-- `SELF_TEST_RUN`: placed once its span holds no context; then its tests run, the span is cleared, and it completes. -/
def execSelfTestRun (task : Nat) (s : State) : Host.Outcome State Fault Refusal :=
  match s.task task with
  | none => .next s
  | some t =>
    let x := t.testSpan
    if t.kind != 6 || !t.ready then .next s
    else if t.state == .accepted then
      (if s.ctxs.all (fun e => spanOf e.1 != x.1 * 12 + x.2) && !s.testing x.1 x.2 then .next (s.toPlaced t) else .next s)
    else .next (((s.toRunning t).clearSpan x.1 x.2).testOutcome t)

/-! ## Code objects (R360 to R365) -/

/-- A kernel descriptor's entry, as an image offset and a unit; the layout is that of a code position (log 22). -/
def kernelEntry (d : List Byte) : CodePos := CodePos.ofWord (BitVec.ofNat 64 (fieldAt d 0 8))

/-- An entry of the load list (Table 17-6). -/
structure LoadEntry where
  dest : Nat
  src  : Nat
  len  : Nat
  kind : Nat
  deriving DecidableEq, Repr

/-- The load list of an image. -/
def loadList (img : List Byte) : List LoadEntry :=
  (List.range (fieldAt img 56 4)).map fun i =>
    let o := fieldAt img 52 4 + 32 * i
    ⟨fieldAt img o 8, fieldAt img (o + 8) 8, fieldAt img (o + 16) 8, fieldAt img (o + 24) 1⟩

/-- The virtual address of an offset that a code entry places. -/
def codeAddr (l : List LoadEntry) (off : Nat) : Option Nat :=
  (l.find? fun e => e.kind == 2 && decide (e.src ≤ off) && decide (off + 8 ≤ e.src + e.len)).map fun e => e.dest + (off - e.src)

/-- The kernel of descriptor i, with its entry placed. -/
def kernelAt (img : List Byte) (l : List LoadEntry) (i : Nat) : Option Kernel :=
  let d := sliceBytes img (fieldAt img 48 4 + 64 * i) 64
  let p := kernelEntry d
  let b := fieldAt d 8 8
  (codeAddr l p.seg).map fun seg =>
    ⟨⟨seg, p.unit⟩, (elemsOf 32 (sliceBytes img b (32 * fieldAt d 16 2))).map (BitVec.ofNat 256), fieldAt d 18 1, fieldAt d 19 1,
      fieldAt d 20 4, fieldAt d 24 4, fieldAt d 28 2, fieldAt d 30 2⟩

/-- The bytes of an image before its signature. -/
def bodyLen (img : List Byte) : Nat := fieldAt img 8 8 - 7856

/-- Check 1: magic, length and header fields, the hash among them. -/
def headerBad (img : List Byte) : Bool :=
  fieldAt img 0 4 != 0x594C4843 || fieldAt img 5 1 != 0 || fieldAt img 6 2 == 0 || decide (fieldAt img 6 2 > 256) ||
    decide (fieldAt img 8 8 < 64 + 7856) || fieldAt img 48 4 % 64 != 0 || fieldAt img 52 4 % 32 != 0 || fieldAt img 60 4 != 0 ||
    sliceBytes img 16 32 != sha256 (sliceBytes img 48 (bodyLen img - 48))

/-- Check 4: the kernel descriptors and the load list. -/
def tablesBad (img : List Byte) : Bool :=
  let n := bodyLen img
  let l := loadList img
  decide (fieldAt img 48 4 + 64 * fieldAt img 6 2 > n) || decide (fieldAt img 52 4 + 32 * fieldAt img 56 4 > n) ||
    l.any (fun e => decide (e.kind > 2) || decide (e.src + e.len > n) ||
      (if e.kind = 1 then e.len != 128 || e.dest == 0 || decide (e.dest ≥ 2 ^ 20) else decide (e.dest + e.len > 2 ^ 57))) ||
    ((List.range (fieldAt img 56 4)).any fun i => fieldAt img (fieldAt img 52 4 + 32 * i + 25) 7 != 0) ||
    (List.range (fieldAt img 6 2)).any fun i =>
      let d := sliceBytes img (fieldAt img 48 4 + 64 * i) 64
      decide (fieldAt d 0 8 ≥ 2 ^ 60) || (codeAddr l (kernelEntry d).seg).isNone || fieldAt d 16 2 == 0 ||
        decide (fieldAt d 16 2 > 512) || decide (fieldAt d 8 8 + 32 * fieldAt d 16 2 > n) || fieldAt d 18 1 == 0 ||
        decide (fieldAt d 18 1 > 4) || fieldAt d 19 1 == 0 || decide (fieldAt d 19 1 > 12) || decide (fieldAt d 20 4 > 2 ^ 23) ||
        fieldAt d 30 2 == 0 || decide (fieldAt d 30 2 > 4096)

/-- The 64 KiB pages of a range of addresses. -/
def pagesOf (va n : Nat) : List Nat :=
  if n = 0 then [] else (List.range ((va + n - 1) / 65536 - va / 65536 + 1)).map (va / 65536 + ·)

/-- The distinct members of a list. -/
def distinct (l : List Nat) : List Nat := l.foldl (fun m x => if m.contains x then m else m ++ [x]) []

/-- The pages that an object's code takes, and those that its data takes. -/
def codePages (l : List LoadEntry) : List Nat := distinct ((l.filter fun e => e.kind == 2).flatMap fun e => pagesOf e.dest e.len)
def dataPages (l : List LoadEntry) : List Nat := distinct ((l.filter fun e => e.kind == 0).flatMap fun e => pagesOf e.dest e.len)

/-- Whether a page of a domain is mapped. -/
def State.mapped (s : State) (dom page : Nat) : Bool :=
  match s.walk dom (page * 65536) with
  | .leaf _ => true
  | _ => false

/-- A fresh 64 KiB page of the firmware's pool, zeroed. -/
def State.newPage (s : State) : State × Nat :=
  let p := (s.poolPtr + 65535) / 65536 * 65536
  (({ s with poolPtr := p + 65536 } : State).clearKeys (physKey 0 0 p) 65536, p)

/-- The lowest free handle of a domain. -/
def State.freeHandle (s : State) (dom : Nat) : Option Nat :=
  ((List.range 65535).map (· + 1)).find? fun h => s.objs.all fun o => !(o.dom == dom && o.gone.isNone && o.handle == h)

/-- Check 6: room for the handle, and for the pages with their tables; code pages must not be mapped already. -/
def State.loadRoom (s : State) (dom : Nat) (l : List LoadEntry) : Bool :=
  let need := ((codePages l ++ dataPages l).filter fun p => !s.mapped dom p).length
  (s.freeHandle dom).isSome && (codePages l).all (fun p => !s.mapped dom p) &&
    decide ((s.poolPtr + 65535) / 65536 * 65536 + need * (65536 + 5 * 4096) + 8 * 4096 ≤ Config.firmwarePoolEnd)

/-- The policy that `.policy` directives give a page, when they name a symbol that lies in it: delivered where one of them
says so (R13, log 36). -/
def pagePolicy (ds : List (Nat × Nat × Bool)) (page : Nat) : Option Bool :=
  let on := ds.filter fun x => x.2.1 != 0 && decide (x.1 / 65536 ≤ page) && decide (page ≤ (x.1 + x.2.1 - 1) / 65536)
  if on.isEmpty then none else some (on.any fun x => x.2.2)

/-- The policy bit of the leaf that maps a page is set or cleared (R355). -/
def State.setPolicy (s : State) (dom page : Nat) (delivered : Bool) : State :=
  match s.leafEntryFrom (page * 65536) (s.domOf dom).root walkLevels with
  | none => s
  | some (lv, e) =>
    let e1 : W64 := if delivered then e ||| 32 else e &&& ~~~(32 : W64)
    if e1 == e then s else (s.putEntry dom lv (page * 65536) e1).1

/-- Map a page for an object: the page of an equal object already loaded (R363), or a fresh one; a data page that is mapped
already stays where it is. A data page has the policy of the directives, and is transparent where there is none (R13); one
that was mapped before the load and that no directive names keeps the policy it has (DESIGN CHOICE, log 36). The pages
mapped are listed with whether they hold code. -/
def State.loadPage (s : State) (dom : Nat) (same : Option Obj) (code : Bool) (ds : List (Nat × Nat × Bool)) (page : Nat) :
    State × List (Nat × Nat × Bool) :=
  let policy := if code then none else pagePolicy ds page
  if s.mapped dom page then
    (match policy with
     | some d => s.setPolicy dom page d
     | none => s, [])
  else
    let shared := same.bind fun o => o.pages.find? fun p => p.1 == page * 65536 && p.2.2 && code
    let r := match shared with
      | some p => (s, p.2.1)
      | none => s.newPage
    (r.1.mapPage dom (page * 65536) r.2 true (!code) code (policy.getD false), [(page * 65536, r.2, code)])

/-- Map pages one after the other. -/
def State.loadPages (s : State) (dom : Nat) (same : Option Obj) (code : Bool) (ds : List (Nat × Nat × Bool)) (ps : List Nat) :
    State × List (Nat × Nat × Bool) :=
  ps.foldl (fun x p => let r := x.1.loadPage dom same code ds p; (r.1, x.2 ++ r.2)) (s, [])

/-- The firmware writes bytes of a domain's memory where its pages lie, page by page, and the lines that held them are
dropped. -/
def State.placeBytes (s : State) (dom va : Nat) (bs : List Byte) : State :=
  (pagesOf va bs.length).foldl (fun (s : State) p =>
    let lo := Nat.max va (p * 65536)
    let hi := Nat.min (va + bs.length) (p * 65536 + 65536)
    match s.walk dom lo with
    | .leaf l =>
      ((s.invalidate dom p 1).clearPoison (l.keys lo (hi - lo))).memWrite
        (zipIdxBytes (l.key lo) (sliceBytes bs (lo - va) (hi - lo)))
    | _ => s) s

/-- What stops the placement of data in pages that are mapped already: one lies behind a link that is down. Whether it can
never be reached (R398), or the host link may still return (R400). -/
def State.placeStop (s : State) (dom : Nat) (l : List LoadEntry) : Option Bool :=
  let stops := (dataPages l).filterMap fun p => match s.walk dom (p * 65536) with
    | .leaf x => (s.linkRes x (p * 65536) .write 0 : Option (Res Unit)).map fun r => match r with
      | .fault _ => true
      | _ => false
    | _ => none
  if stops.isEmpty then none else some (stops.contains true)

/-- The loader's status for an image, in the order of R362; 0 when it may be loaded. -/
def State.loadStatus (s : State) (dom : Nat) (img : List Byte) : Nat :=
  let l := loadList img
  if headerBad img then 0x61
  else if (match (s.domOf dom).key with
    | none => true
    | some k => !Config.slhVerify k (sliceBytes img 0 (bodyLen img)) (sliceBytes img (bodyLen img) 7856)) then 0x60
  else if fieldAt img 4 1 > 1 then 0x51
  else if tablesBad img then 0x61
  else if l.any fun e => e.kind == 1 && recDefect (sliceBytes img e.src 128) then 0x63
  else if s.loadRoom dom l then 0 else 0x62

/-- An image is placed: pages, bytes, records and the object. -/
def State.loadObj (s : State) (dom : Nat) (img : List Byte) : State × Nat :=
  let l := loadList img
  let h := (s.freeHandle dom).getD 0
  let hash : BitVec 256 := BitVec.ofNat 256 (leNat (sliceBytes img 16 32))
  let same := s.objs.find? fun o => o.hash == hash && o.gone.isNone
  let ds := Config.loadPolicy img
  let a := s.loadPages dom same true ds (codePages l)
  let b := a.1.loadPages dom none false ds (dataPages l)
  let s1 := l.foldl (fun (s : State) e =>
    s.placeBytes dom (if e.kind = 1 then s.recAddr dom e.dest else e.dest) (sliceBytes img e.src e.len)) b.1
  ({ s1 with objs := s1.objs ++
      [⟨dom, h, hash, (List.range (fieldAt img 6 2)).filterMap (kernelAt img l), a.2 ++ b.2,
        (l.filter fun e => e.kind == 1).map (·.dest), none⟩] }, h)

/-- The result area (Table 17-7). -/
def State.loadResult (s : State) (handle status : Nat) : List Byte :=
  natLe 2 handle ++ natLe 2 status ++ natLe 4 s.codegen.toNat ++ natLe 8 0

/-- The image of a code load, read in the task's domain. -/
def State.readImage (s : State) (t : Task) (va : Nat) : Res (List Byte) :=
  let read := fun (s : State) (n : Nat) => s.readFlatVia true none t.dom [t.wit] (linePieces (n / 2048 + 3) va n)
  match read s 64 with
  | .fault f => .fault f
  | .wait => .wait
  | .ok s1 h => if fieldAt h 0 4 != 0x594C4843 || decide (fieldAt h 8 8 < 64 + 7856) then .ok s1 h else read s1 (fieldAt h 8 8)

/-- `CODE_LOAD` (R362): the checks, the placement of every entry, and the result area, which is in memory when the task
completes. Work that cannot reach the image, a page or the result area fails. -/
def execCodeLoad (task : Nat) (s : State) : Host.Outcome State Fault Refusal :=
  .next <| s.work task 8 false fun s1 t =>
    let va := fieldAt t.payload 0 8
    let out := fieldAt t.payload 8 8
    match s1.readImage t va with
    | .wait => s1
    | .fault _ => s1.finish t.id .failed 7 8 t.hash
    | .ok s2 img =>
      let s3 := s2.settleMoves
      let st := s3.loadStatus t.dom img
      match if st = 0 then s3.placeStop t.dom (loadList img) else none with
      | some false => s1
      | some true => s1.finish t.id .failed 7 8 t.hash
      | none =>
        let r := if st = 0 then s3.loadObj t.dom img else (s3, 0)
        match r.1.writeFlatVia true t.dom [(out, 16)] (r.1.loadResult r.2 st) with
        | (_, some none) => s1
        | (_, some (some _)) => s1.finish t.id .failed 7 8 t.hash
        | (s4, none) => (s4.writeBack (flatTag t.dom out)).finish t.id .completed 0 0 t.hash

/-- Whether a generation has been passed (R365). -/
def passed (x g : BitVec 32) : Bool := decide ((x - g).toNat < 2 ^ 31)

/-- Whether every core and every saved context has passed a generation. -/
def State.allPassed (s : State) (g : BitVec 32) : Bool :=
  (List.range 192).all (fun k => s.ctxs.all (fun e => coreOf e.1 != k) || passed (s.coreSt k).codegen g) &&
    s.insts.all fun i => i.images.all fun c => passed c.codegen g

/-- The object's pages are unmapped from its domain, and its data pages freed (R364). -/
def State.unmapObj (s : State) (o : Obj) : State :=
  let give := fun (s : State) (pa : Nat) => (List.range 16).foldl (fun (s : State) i => s.poolGive (pa + 4096 * i)) s
  o.pages.foldl (fun (s : State) p =>
    let s1 := (s.putEntry o.dom 0 p.1 0).1
    if p.2.2 then s1 else give s1 p.2.1) s

/-- The object's code pages that no other object maps are freed. -/
def State.freeCode (s : State) (o : Obj) : State :=
  let give := fun (s : State) (pa : Nat) => (List.range 16).foldl (fun (s : State) i => s.poolGive (pa + 4096 * i)) s
  let s1 := { s with objs := s.objs.filter (· != o) }
  o.pages.foldl (fun (s : State) p =>
    if p.2.2 && s1.objs.all fun x => x.pages.all fun y => y.2.1 != p.2.1 then give s p.2.1 else s) s1

/-- `CODE_UNLOAD` (R364): it is placed as soon as it is ready (R332), and waits until nothing uses the object; then the
generation is raised and the object unmapped; then its code pages are freed once every core and saved context has passed the
generation. -/
def execCodeUnload (task : Nat) (s : State) : Host.Outcome State Fault Refusal :=
  match s.task task with
  | none => .next s
  | some t =>
    let h := fieldAt t.payload 0 2
    let used := s.tasks.any fun x => x.kind == 1 && x.dom == t.dom && fieldAt x.payload 8 4 / 65536 == h &&
      (!x.state.ended || s.insts.any fun g => g.task == x.id && (g.status == .placed || g.status == .saved))
    if t.kind != 9 || !t.ready then .next s
    else if t.count == 0 && used then .next (s.toPlaced t)
    else
      let s1 := s.toRunning t
      if t.count = 0 then
        match s1.objOf t.dom h with
        | none => .next (s1.finish task .failed 7 9 t.hash)
        | some o =>
          let g := s1.codegen + 1
          let s2 := ({ s1.settleMoves with codegen := g } : State).unmapObj o
          .next (({ s2 with objs := s2.objs.map fun x => if x == o then { x with gone := some g } else x } : State).onTask task
            fun t => { t with count := g.toNat + 1 })
      else
        let g := BitVec.ofNat 32 (t.count - 1)
        match s1.objs.find? fun o => o.dom == t.dom && o.handle == h && o.gone == some g with
        | none => .next (s1.finish task .completed 0 0 t.hash)
        | some o => .next (if s1.allPassed g then (s1.freeCode o).finish task .completed 0 0 t.hash else s1)

end Sys2Proof.Machine
end

