-- ==== Sys2Proof/Machine/EvHost.lean ====
section
/-! DEFINITION. What the host, the links and the firmware's clock do: the management registers and the mailbox, links,
intervals, counters, resets and boot (21 R396 to R406, 19 R382, R390, R391, 17 R367 to R371). -/

namespace Sys2Proof.Machine

/-! ## Resets and boot (R400, R401, R384) -/

/-- A package reset: nothing outlives it but the module's flash, which holds the firmware image, the wear history and the
degraded units, and what lies outside the package: host memory, peers, their links (log 9). The model's own counters go on. -/
def State.packageReset (s : State) : State :=
  { State.reset with
    events := s.events, choices := s.choices, samples := s.samples, tests := s.tests
    mem := s.mem.filter fun e => decide (2 ^ 60 ≤ e.1) && decide (e.1 < 3 * 2 ^ 60)
    flash := s.flash, wear := s.wear, derate := s.derate, withdrawn := s.withdrawn, narrow := s.narrow
    portsDown := s.portsDown, debugger := s.debugger }

/-- `PACKAGE_RESET`: removal of the supplies. -/
def execPackageReset (s : State) : Host.Outcome State Fault Refusal := .next s.packageReset

/-- Whether a firmware image is accepted (R401 step 2). -/
def firmwareOk (img : List Byte) : Bool :=
  BitVec.ofNat 256 (leNat (sha256 (Config.firmwareKey img))) == Config.fusedKeyHash &&
    Config.slhVerify (Config.firmwareKey img) (Config.firmwareBody img) (Config.firmwareSignature img) &&
    decide (Config.fusedMinVersion.toNat ≤ (Config.firmwareVersion img).toNat)

/-- The header of a ring (Table 19-5). -/
def ringHeader (base lcap next : Nat) : List Byte := natLe 8 base ++ natLe 8 lcap ++ natLe 8 next ++ natLe 8 0

/-- The journal, the abort logs and the error log are set up; the journal starts with next = 1 (R383, R384). -/
def State.setLogs (s : State) : State :=
  let s1 := s.fwWrite Config.journalHeader (ringHeader Config.journalRing Config.journalLcap 1)
  let s2 := s1.fwWrite Config.errLogHeader (ringHeader Config.errLogRing Config.errLogLcap 0)
  (List.range 64).foldl (fun (s : State) d =>
    s.fwWrite (Config.abortLogHeader + 32 * d)
      (ringHeader (Config.abortLogRing + d * (64 * 2 ^ Config.abortLogLcap)) Config.abortLogLcap 0)) s2

/-- `BOOT`: the image in flash runs when it is accepted; otherwise the package enters recovery. -/
def execBoot (s : State) : Host.Outcome State Fault Refusal :=
  if s.ready || s.recovery then .next s
  else if firmwareOk s.flash then .next { s.setLogs with ready := true, image := s.flash }
  else .next { s with recovery := true }

/-- `FUNDAMENTAL_RESET`: the host link goes down and retrains; nothing else changes. -/
def execFundamentalReset (s : State) : Host.Outcome State Fault Refusal :=
  .next { s with hostUp := false, hostDown := 0, hostSince := s.cycle }

/-- `HOST_LINK_RETURN`: interrupted accesses are tried again. -/
def execHostLinkReturn (s : State) : Host.Outcome State Fault Refusal := .next { s with hostUp := true, hostDown := 0 }

/-- `HOST_LINK_TIMEOUT`: the link has not returned within 1 s, and interrupted accesses are faults that cannot be
resolved. -/
def execHostLinkTimeout (s : State) : Host.Outcome State Fault Refusal :=
  .next (if s.hostUp || decide (s.cycle < s.hostSince + second) then s else { s with hostDown := 1 })

/-! ## Tamvan links (R390, R398) -/

/-- The unit path of a Tamvan port (Table 2-7). -/
def portUnit (port : Nat) : BitVec 32 := unitPath 4 0 0 15 (6 * 4096 + port)

/-- `TAMVAN_LINK_DOWN`. -/
def execTamvanLinkDown (port : Nat) (s : State) : Host.Outcome State Fault Refusal :=
  .next (if port < 16 ∧ !s.portsDown.contains port then { s with portsDown := s.portsDown ++ [port] } else s)

/-- `TAMVAN_LINK_UP`. -/
def execTamvanLinkUp (port : Nat) (s : State) : Host.Outcome State Fault Refusal :=
  .next { s with portsDown := s.portsDown.filter (· != port) }

/-- `LINK_LAYER_RETRY`. -/
def execLinkLayerRetry (port : Nat) (s : State) : Host.Outcome State Fault Refusal :=
  .next (if port < 16 then { s with retries := bump s.retries port 32 } else s)

/-- `LANE_RETRAIN`: counted, and an error record of kind 5. -/
def execLaneRetrain (port : Nat) (s : State) : Host.Outcome State Fault Refusal :=
  .next (if port < 16 then ({ s with retrains := bump s.retrains port 16 } : State).errRecord 5 (portUnit port) 0 1 0 0 else s)

/-! ## Intervals (R367, R371, R382) -/

/-- A share of static energy goes to a context that holds a slot, to the image of a saved one, or to the account of the
domain of one that has retired, which a context does at its `EXIT` (R348, R371). -/
def State.chargeShare (s : State) (r : Resid) (n : Nat) : State :=
  let mine := fun (c : Ctx) => c.cid == r.cid
  let here := fun (c : Ctx) => mine c && c.status != .exited
  if s.ctxs.any fun e => here e.2 then
    { s with ctxs := s.ctxs.map fun e => if here e.2 then (e.1, e.2.charge n) else e }
  else if s.insts.any fun g => g.images.any here then
    { s with insts := s.insts.map fun g => { g with images := g.images.map fun c => if here c then c.charge n else c } }
  else
    let d := s.domOf r.dom
    { s with doms := AL.put s.doms r.dom { d with energy := d.energy + BitVec.ofNat 64 n } }

/-- `ENERGY_INTERVAL`: at a boundary, each core's figure is shared by the cycles for which contexts held its slots; the
remainder is charged to no one. -/
def execEnergyInterval (s : State) : Host.Outcome State Fault Refusal :=
  if !s.shareDue then .next s
  else
    let total := fun (core : Nat) => ((s.resid.filter fun r => r.core == core).map (·.cycles)).sum
    let s1 := s.resid.foldl (fun (s : State) r => s.chargeShare r (Config.staticEnergy r.core * r.cycles / total r.core)) s
    .next { s1 with resid := [], shareNum := s.shareNum + 1 }

/-- `ERROR_LOG_COALESCE`: once at each boundary, one record for each unit and kind of the interval. -/
def execErrorLogCoalesce (s : State) : Host.Outcome State Fault Refusal :=
  if !s.errDue then .next s
  else
    let s1 := s.errs.foldl (fun (s : State) e => s.errRecord e.kind e.unit e.dom e.count e.addr 0) s
    .next { s1 with errs := [], errNum := s.errNum + 1 }

/-! ## Counters and derates (R390, R391) -/

/-- Whether a die's predicted life lies below a threshold. -/
def State.belowLife (s : State) (die thresh : Nat) : Bool :=
  match AL.find s.hours die with
  | some h => decide (h.toNat < thresh)
  | none => false

/-- An entry of the wear history goes to flash (R390). -/
def State.addWear (s : State) (die : Nat) : State :=
  { s with wear := s.wear ++ [⟨s.cycle, die, AL.get 0 s.hours die, AL.get 0 s.conf die, AL.get 0 s.limit die, AL.get 0 s.derate die⟩] }

/-- A crossing of the threshold derates a die one step further, of two, and is recorded. -/
def State.derateDie (s : State) (die : Nat) : State :=
  (({ s with derate := AL.set 0 s.derate die (Nat.min (AL.get 0 s.derate die + 1) 2) } : State).addWear die).errRecord 7
    (unitPath die 0 0 0 0) 0 1 0 0

/-- The firmware samples a die's counters and predicts its life; once an hour the wear history grows. -/
def State.sampleDie (s : State) (n die : Nat) : State :=
  let was := s.belowLife die (AL.get 0 s.thresh die)
  let s1 := { s with
    hours := AL.put s.hours die (Config.predictedHours n die)
    conf := AL.put s.conf die (BitVec.ofNat 8 (Nat.min (Config.confidence n die).toNat 100))
    limit := AL.put s.limit die (BitVec.ofNat 8 ((Config.limiting n die).toNat % 7))
    driftOf := AL.put s.driftOf die (Config.drift n die) }
  let s2 := if n % 3600 = 0 then s1.addWear die else s1
  if s2.belowLife die (AL.get 0 s2.thresh die) && !was && decide (die < 4) then s2.derateDie die else s2

/-- `COUNTER_SAMPLE`, once every 1,050,000,000 reference cycles. -/
def execCounterSample (s : State) : Host.Outcome State Fault Refusal :=
  if !s.sampleDue then .next s
  else
    let n := s.samples
    let s1 := (List.range 5).foldl (fun (s : State) d => s.sampleDie n d) { s with samples := n + 1, sampleNum := s.sampleNum + 1 }
    .next { s1 with eye := (List.range 16).foldl (fun m p => AL.put m p (Config.eyeMargin n p)) s1.eye }

/-! ## The mailbox (R403 to R406) -/

/-- A byte of device memory by a fresh read: as it stands at the home of its line of the flat view, else in memory. -/
def State.freshByte (s : State) (k : Nat) : Byte :=
  ((s.l2.filter fun l => l.id == 0).findSome? fun l => AL.find l.dirty k).getD (s.memByte k)

/-- Bytes of device memory by a fresh read. -/
def State.freshBytes (s : State) (pa n : Nat) : List Byte := (List.range n).map fun i => s.freshByte (physKey 0 0 pa + i)

/-- The argument area's bytes. -/
def State.area (s : State) (off n : Nat) : List Byte := s.freshBytes (s.marg.toNat + off) n
def State.arg (s : State) (off n : Nat) : Nat := leNat (s.area off n)

/-- The last byte a command may use, for its area to lie in device memory. -/
def areaLen (n : Nat) : Nat :=
  match n with
  | 1 => 72
  | 2 => 32
  | 4 => 40
  | 8 => 2048
  | 9 => 24
  | 10 => 8056
  | _ => 16

/-- Bytes of the area that Table 21-6 does not name, up to the last one the command uses: they must be zero. -/
def State.areaZero (s : State) (n : Nat) : Bool :=
  let z := fun (a b : Nat) => s.arg a (b - a) == 0
  match n with
  | 1 => z 1 8
  | 2 => z 2 8
  | 4 => z 1 8
  | 5 => z 1 4
  | 7 => s.arg 1 1 != 0 || z 2 4
  | 8 => z 2 4 && z 12 64
  | 9 => z 1 8
  | 10 => z 32 64
  | 11 => z 1 8
  | _ => true

/-- A command's end: its results in the area, its result code in mstat, and busy clears. -/
def State.answer (s : State) (off : Nat) (bs : List Byte) : State :=
  { s.outsideWrite (s.marg.toNat + off) bs with mresult := 0, mcmd := none }

/-- A command that does nothing but give its result code. -/
def State.result (s : State) (r : Nat) : State := { s with mresult := BitVec.ofNat 8 r, mcmd := none }

/-- The 32 bytes of a queue's state (Table 16-3): the must-be-zero bits of its base are written zero (R5). -/
def QueueSt.bytes (x : QueueSt) : List Byte :=
  natLe 8 (x.base / 4096 * 4096) ++ natLe 1 x.lsize ++ natLe 1 x.dom ++ natLe 1 (if x.enable then 1 else 0) ++ natLe 1 0 ++ natLe 4 x.head ++
    natLe 4 x.tail ++ natLe 12 0

/-- Command 1: a queue's state. -/
def State.mailQueue (s : State) : State :=
  let q := s.arg 0 1
  let base := s.arg 8 8
  let lsize := s.arg 16 1
  let dom := s.arg 17 1
  let tail := s.arg 24 4
  let busy := s.tasks.any fun t => t.queue == q && !t.state.ended
  if q > 63 ∨ dom > 63 ∨ s.arg 18 1 > 1 ∨ s.arg 19 1 ≠ 0 ∨ s.arg 28 12 ≠ 0 ∨
      (8 ≤ lsize ∧ lsize ≤ 20 ∧ base + 16 * 2 ^ lsize > 2 ^ 39) then s.result 1
  else if busy ∧ ((s.queue q).map (·.dom)) ≠ some dom then s.result 2
  else
    let en := s.arg 18 1 == 1 && base % 4096 == 0 && decide (8 ≤ lsize) && decide (lsize ≤ 20)
    let x : QueueSt := ⟨base, lsize, dom, en, tail, tail⟩
    ({ s with
      queues := AL.put s.queues q x
      launchQ := s.launchQ.map fun p => if p.queue == q then { p with place := none } else p } : State).answer 40 x.bytes

/-- A page-table entry on its way into force: the tables on its path are there, it is backing for its pages (R356), and the
entry that it replaces stands in the result area. -/
def State.startEntry (s : State) (dom level va : Nat) (e : W64) : State :=
  let r := s.settleMoves.rootOf dom
  let p := r.1.pathTo dom va level r.2 walkLevels
  let s1 := p.1.outsideWrite (s.marg.toNat + 24) (natLe 8 (p.1.entryAt p.2).toNat)
  { s1 with backing := s1.backing ++ [(dom, level, va, e)], mcmd := s.mcmd.map fun c => (c.1, true) }

/-- The entry is put in force, unless a fault has put it in force before, and the command is done. -/
def State.endEntry (s : State) : State :=
  (s.backing.foldl (fun (s : State) b => (s.putEntry b.1 b.2.1 b.2.2.1 b.2.2.2).1) { s with backing := [] }).result 0

/-- Command 2: a page-table entry (R358). It comes into force in a step of its own. -/
def State.mailEntry (s : State) : State :=
  let dom := s.arg 0 1
  let level := s.arg 1 1
  let va := s.arg 8 8
  let e : W64 := BitVec.ofNat 64 (s.arg 16 8)
  if dom > 63 ∨ level > 4 ∨ va ≥ 2 ^ 57 ∨ (e.getLsbD 0 && (decide (level > 2) || !e.getLsbD 1)) then s.result 1
  else if !s.pathRoom dom level va then s.result 2
  else s.startEntry dom level va e

/-- Command 3: the placement policy of a domain. -/
def State.mailPolicy (s : State) : State :=
  let dom := s.arg 0 1
  if dom > 63 ∨ s.arg 1 1 > 15 ∨ s.arg 2 1 > 3 then s.result 1
  else
    let d := s.domOf dom
    ({ s with doms := AL.put s.doms dom { d with dies := BitVec.ofNat 4 (s.arg 1 1), excl := BitVec.ofNat 2 (s.arg 2 1) } } : State).result 0

/-- Command 4: a domain's code-signing key (R370). -/
def State.mailKey (s : State) : State :=
  let dom := s.arg 0 1
  if dom > 63 then s.result 1
  else if s.objs.any fun o => o.dom == dom && o.gone.isNone then s.result 2
  else
    let d := s.domOf dom
    ({ s with doms := AL.put s.doms dom { d with key := some (s.area 8 32) } } : State).result 0

/-- A task is cancelled by the host: one that holds nothing ends at once; the contexts of a launch stop as at an abort, and
it ends once what they started is done (R405, R350). -/
def State.cancelTask (s : State) (t : Task) : State :=
  let s1 := s.onTask t.id fun t => { t with cancel := true, detail := 1 }
  if t.ending.isSome then s
  else if t.kind ≠ 1 ∨ t.state = .accepted then
    let s2 : State := if t.kind = 2 ∧ t.count ≠ 0 then s1.formFail t.copyForm.1 t.dom t.copyForm.2 else s1
    let s3 : State := { s2 with drops := s2.drops.filter fun d => d.task != t.id }
    s3.finish t.id .cancelled 5 1 t.hash
  else
    let s2 := (s1.insts.filter fun g => g.task == t.id && g.status == .placed).foldl (fun (s : State) g => s.stopInst g) s1
    s2.dropWaiting t.id

/-- Command 5: the oldest task of a queue and tag that has not ended is cancelled. -/
def State.mailCancel (s : State) : State :=
  let q := s.arg 0 1
  if q > 63 then s.result 1
  else
    match s.tasks.find? fun t => t.queue == q && t.tag == BitVec.ofNat 32 (s.arg 4 4) && !t.state.ended with
    | none => s.result 3
    | some t => (s.cancelTask t).result 0

/-- Command 6: a withdrawn span, or every withdrawal of a die, returns to placement. -/
def State.mailReturn (s : State) : State :=
  let die := s.arg 0 1
  let span := s.arg 1 1
  if die > 3 ∨ (span > 11 ∧ span ≠ 255) then s.result 1
  else ({ s with withdrawn := s.withdrawn.filter fun w => !(w.1 == die && (span == 255 || w.2 == span)) } : State).result 0

/-- Command 7: the derate threshold of a die, or the end of its derate. -/
def State.mailDerate (s : State) : State :=
  let die := s.arg 0 1
  let act := s.arg 1 1
  if die > 3 ∨ act > 1 then s.result 1
  else if act = 1 then ({ s with derate := AL.set 0 s.derate die 0 } : State).result 0
  else
    let h := s.arg 4 4
    let was := s.belowLife die (AL.get 0 s.thresh die)
    let s1 := { s with thresh := AL.set 0 s.thresh die h }
    (if s1.belowLife die h && !was then s1.derateDie die else s1).result 0

/-- Command 8: counters and the prediction. -/
def State.mailCounters (s : State) : State :=
  let unit := s.arg 0 1
  let grp := s.arg 1 1
  let first := s.arg 4 4
  let n := s.arg 8 4
  let l := (List.range n).map (first + ·)
  if unit > 4 ∨ grp > 3 ∨ (grp ≠ 0 ∧ (n = 0 ∨ n > 240)) then s.result 1
  else
    match grp with
    | 0 => s.answer 64 (natLe 4 (AL.get 0 s.hours unit).toNat ++ natLe 1 (AL.get 0 s.conf unit).toNat ++
        natLe 1 (AL.get 0 s.limit unit).toNat ++ natLe 2 (AL.get 0 s.driftOf unit).toNat ++ natLe 4 (s.clockOf unit))
    | 1 =>
      if unit = 4 ∨ first + n > 2 ^ 19 then s.result 1
      else s.answer 64 (l.flatMap fun i => natLe 4 (AL.get 0 s.dramCnt (unitPath unit 0 0 12 i).toNat))
    | 2 =>
      if first + n > 2 ^ 32 then s.result 1 else s.answer 64 (l.flatMap fun i => natLe 4 (AL.get 0 s.sramCnt i))
    | _ =>
      if unit ≠ 4 ∨ first + n > 16 then s.result 1
      else s.answer 64 (l.flatMap fun p => natLe 1 (AL.get 0 s.eye p).toNat ++ natLe 1 0 ++ natLe 2 (AL.get 0 s.retrains p) ++
        natLe 4 (AL.get 0 s.retries p))

/-- Command 9: a domain's account. -/
def State.mailEnergy (s : State) : State :=
  let dom := s.arg 0 1
  if dom > 63 then s.result 1
  else s.answer 8 (natLe 8 (s.domOf dom).energy.toNat ++ natLe 8 (s.domOf dom).sat)

/-- The bytes of the running image's report that are signed (Table 21-3). -/
def State.reportBody (s : State) : List Byte :=
  s.area 0 32 ++ sha256 s.image ++ natLe 4 (Config.firmwareVersion s.image).toNat ++ natLe 4 Config.fusedMinVersion.toNat ++
    natLe 32 Config.fusedKeyHash.toNat ++ natLe 32 Config.devicePublicKey.toNat

/-- Command 10: the attestation report. -/
def State.mailAttest (s : State) : State :=
  s.answer 64 (s.reportBody ++ sliceBytes (Config.deviceSign s.reportBody) 0 7856)

/-- Command 11: a queue's head and tail. -/
def State.mailHead (s : State) : State :=
  let q := s.arg 0 1
  let x := (s.queue q).getD ⟨0, 0, 0, false, 0, 0⟩
  if q > 63 then s.result 1 else s.answer 8 (natLe 4 x.head ++ natLe 4 x.tail)

/-- Command 12: the reset word resets the package. -/
def State.mailReset (s : State) : State := if s.arg 0 8 = 0x52455345 then s.packageReset else s.result 1

/-- Command 13: a firmware image goes to flash when it would be accepted at boot. In recovery only the first 1 GiB of
device memory is usable. -/
def State.mailFlash (s : State) : State :=
  let a := s.arg 0 8
  let n := s.arg 8 8
  if a + n > s.hostReach then s.result 1
  else
    let img := s.freshBytes a n
    if firmwareOk img then ({ s with flash := img } : State).result 0 else s.result 2

/-- A mailbox command does its work (R404): in recovery command 13 alone (log 26). -/
def State.mailbox (s : State) (n : Nat) : State :=
  if s.recovery && n != 13 then s.result 2
  else if n = 0 ∨ n > 13 then s.result 1
  else if s.marg.toNat % 64 ≠ 0 ∨ s.marg.toNat + areaLen n > s.hostReach ∨ !s.areaZero n then s.result 1
  else
    match n with
    | 1 => s.mailQueue
    | 2 => s.mailEntry
    | 3 => s.mailPolicy
    | 4 => s.mailKey
    | 5 => s.mailCancel
    | 6 => s.mailReturn
    | 7 => s.mailDerate
    | 8 => s.mailCounters
    | 9 => s.mailEnergy
    | 10 => s.mailAttest
    | 11 => s.mailHead
    | 12 => s.mailReset
    | _ => s.mailFlash

/-- The mailbox runs the command that was written to mcmd while busy is set; a change of an entry in progress ends. -/
def State.command (s : State) (n : Nat) : State :=
  match s.mcmd with
  | some (v, ends) => if v.toNat = n then (if ends then s.endEntry else s.mailbox n) else s
  | none => s

/-- A write of mcmd: the command is taken and busy is set; while it is set, the write is discarded (R404). -/
def State.mcmdWrite (s : State) (v : W64) : State := if s.mcmd.isSome then s else { s with mcmd := some (v, false) }

/-- `UNKNOWN_MAILBOX_COMMAND`: a code that the table does not list. -/
def execUnknownMailboxCommand (code : Nat) (s : State) : Host.Outcome State Fault Refusal :=
  .next (if 1 ≤ code ∧ code ≤ 13 then s else s.command code)

/-- What a read of a management register gives (R403, Table 21-4): a read changes nothing, and a reserved offset reads
zero. -/
def State.registerRead (s : State) (off : Nat) : W64 :=
  if off = 0 then 0x4B57000400000001
  else if off = 8 then
    BitVec.ofNat 64 ((if s.ready then 1 else 0) + (if s.recovery then 2 else 0) + (if s.derate.isEmpty then 0 else 4) +
      ((List.range 4).map fun d => if s.withdrawn.contains (d, 255) then 2 ^ (4 + d) else 0).sum)
  else if off = 0x10 then BitVec.ofNat 64 (if s.ready then Config.journalHeader else 0)
  else if off = 0x18 then BitVec.ofNat 64 (if s.ready then Config.abortLogHeader else 0)
  else if off = 0x20 then BitVec.ofNat 64 (if s.ready then Config.errLogHeader else 0)
  else if 0x100 ≤ off ∧ off < 0x300 ∧ off % 8 = 0 then
    BitVec.ofNat 64 (((s.queue ((off - 0x100) / 8)).map (·.tail)).getD 0)
  else if off = 0x408 then s.marg
  else if off = 0x410 then BitVec.ofNat 64 (s.mresult.toNat * 256 + if s.mcmd.isSome then 1 else 0)
  else 0

/-- `REGISTER_WRITE` (R403): mcmd, marg, a tail; every other offset discards the write. The package must have booted or be
in recovery (log 26). -/
def execRegisterWrite (off : Nat) (v : BitVec 64) (s : State) : Host.Outcome State Fault Refusal :=
  if !s.hostUp || (!s.ready && !s.recovery) then .next s
  else if off = 0x400 then .next (s.mcmdWrite v)
  else if off = 0x408 then .next { s with marg := v }
  else if 0x100 ≤ off ∧ off < 0x300 ∧ off % 8 = 0 then .next (s.tailWrite ((off - 0x100) / 8) v)
  else .next s

/-- `CONFIGURE_QUEUE`. -/
def execConfigureQueue (s : State) : Host.Outcome State Fault Refusal := .next (s.command 1)
/-- `CHANGE_PAGE_ENTRY`. -/
def execChangePageEntry (s : State) : Host.Outcome State Fault Refusal := .next (s.command 2)
/-- `PLACEMENT_POLICY`. -/
def execPlacementPolicy (s : State) : Host.Outcome State Fault Refusal := .next (s.command 3)
/-- `REGISTER_CODE_KEY`. -/
def execRegisterCodeKey (s : State) : Host.Outcome State Fault Refusal := .next (s.command 4)
/-- `CANCEL_TASK`. -/
def execCancelTask (s : State) : Host.Outcome State Fault Refusal := .next (s.command 5)
/-- `RETURN_WITHDRAWN`. -/
def execReturnWithdrawn (s : State) : Host.Outcome State Fault Refusal := .next (s.command 6)
/-- `SET_DERATE`. -/
def execSetDerate (s : State) : Host.Outcome State Fault Refusal := .next (s.command 7)
/-- `READ_COUNTERS`. -/
def execReadCounters (s : State) : Host.Outcome State Fault Refusal := .next (s.command 8)
/-- `READ_ENERGY_ACCOUNT`. -/
def execReadEnergyAccount (s : State) : Host.Outcome State Fault Refusal := .next (s.command 9)
/-- `ATTESTATION_REPORT`. -/
def execAttestationReport (s : State) : Host.Outcome State Fault Refusal := .next (s.command 10)
/-- `READ_QUEUE_HEAD`. -/
def execReadQueueHead (s : State) : Host.Outcome State Fault Refusal := .next (s.command 11)
/-- `RESET_COMMAND`. -/
def execResetCommand (s : State) : Host.Outcome State Fault Refusal := .next (s.command 12)
/-- `WRITE_FIRMWARE`. -/
def execWriteFirmware (s : State) : Host.Outcome State Fault Refusal := .next (s.command 13)

end Sys2Proof.Machine
end

