-- ==== Sys2Proof/Machine/Dispatch.lean ====
section
/-! DEFINITION. The dispatch: one arm for each constructor of the instructions, each one call of its meaning. -/

namespace Sys2Proof.Machine

def exec (i : Instr) (s : State) : Host.Outcome State Fault Refusal :=
  match i with
  | .bundleIssue a => Sys2Proof.Machine.execBundleIssue a s
  | .repeatPrefix c => Sys2Proof.Machine.execRepeatPrefix c s
  | .resultLanding a => Sys2Proof.Machine.execResultLanding a s
  | .loadValueArrival idx => Sys2Proof.Machine.execLoadValueArrival idx s
  | .issueSelection core => Sys2Proof.Machine.execIssueSelection core s
  | .starvationGrant core => Sys2Proof.Machine.execStarvationGrant core s
  | .yieldPassEnd a => Sys2Proof.Machine.execYieldPassEnd a s
  | .heldBundleRelease a => Sys2Proof.Machine.execHeldBundleRelease a s
  | .segmentPrefetch a => Sys2Proof.Machine.execSegmentPrefetch a s
  | .pageWalk dom va => Sys2Proof.Machine.execPageWalk dom va s
  | .transparentFaultResolve dom va => Sys2Proof.Machine.execTransparentFaultResolve dom va s
  | .deliveredFault idx => Sys2Proof.Machine.execDeliveredFault idx s
  | .witnessFailureDelivery idx => Sys2Proof.Machine.execWitnessFailureDelivery idx s
  | .storeVisible idx lvl => Sys2Proof.Machine.execStoreVisible idx lvl s
  | .epochClose dom scope => Sys2Proof.Machine.execEpochClose dom scope s
  | .scStamp idx => Sys2Proof.Machine.execScStamp idx s
  | .scPerform idx => Sys2Proof.Machine.execScPerform idx s
  | .syncArrive idx => Sys2Proof.Machine.execSyncArrive idx s
  | .barrierRelease task inst gang team b => Sys2Proof.Machine.execBarrierRelease task inst gang team b s
  | .tileEngineClaim a q => Sys2Proof.Machine.execTileEngineClaim a q s
  | .tileOpComplete a q => Sys2Proof.Machine.execTileOpComplete a q s
  | .epilogueServe core => Sys2Proof.Machine.execEpilogueServe core s
  | .tileSink a tile => Sys2Proof.Machine.execTileSink a tile s
  | .tileRise a tile => Sys2Proof.Machine.execTileRise a tile s
  | .bankVacate core slot => Sys2Proof.Machine.execBankVacate core slot s
  | .unwind a => Sys2Proof.Machine.execUnwind a s
  | .gradContribution idx => Sys2Proof.Machine.execGradContribution idx s
  | .updateLineComplete idx => Sys2Proof.Machine.execUpdateLineComplete idx s
  | .collectiveRun idx => Sys2Proof.Machine.execCollectiveRun idx s
  | .recordFill die dom id => Sys2Proof.Machine.execRecordFill die dom id s
  | .recordDropComplete idx => Sys2Proof.Machine.execRecordDropComplete idx s
  | .noticeAppend idx => Sys2Proof.Machine.execNoticeAppend idx s
  | .tailWrite q v => Sys2Proof.Machine.execTailWrite q v s
  | .queueVisit q => Sys2Proof.Machine.execQueueVisit q s
  | .launchQueueAppend idx => Sys2Proof.Machine.execLaunchQueueAppend idx s
  | .instancePlacement task inst die span core => Sys2Proof.Machine.execInstancePlacement task inst die span core s
  | .priorityAgeing task inst => Sys2Proof.Machine.execPriorityAgeing task inst s
  | .forcedPreemption task inst => Sys2Proof.Machine.execForcedPreemption task inst s
  | .preempt task inst => Sys2Proof.Machine.execPreempt task inst s
  | .resume task inst die span core => Sys2Proof.Machine.execResume task inst die span core s
  | .scratchShareRelease task inst team => Sys2Proof.Machine.execScratchShareRelease task inst team s
  | .taskComplete task => Sys2Proof.Machine.execTaskComplete task s
  | .copyTask task => Sys2Proof.Machine.execCopyTask task s
  | .signalTask task => Sys2Proof.Machine.execSignalTask task s
  | .waitTask task => Sys2Proof.Machine.execWaitTask task s
  | .recordFenceTask task => Sys2Proof.Machine.execRecordFenceTask task s
  | .journalMark task => Sys2Proof.Machine.execJournalMark task s
  | .selfTestRun task => Sys2Proof.Machine.execSelfTestRun task s
  | .codeLoad task => Sys2Proof.Machine.execCodeLoad task s
  | .codeUnload task => Sys2Proof.Machine.execCodeUnload task s
  | .codegenPass core => Sys2Proof.Machine.execCodegenPass core s
  | .deadlockQueueGrowth die qu => Sys2Proof.Machine.execDeadlockQueueGrowth die qu s
  | .correctedError u dram addr dom => Sys2Proof.Machine.execCorrectedError u dram addr dom s
  | .uncorrectableError u dram addr dom => Sys2Proof.Machine.execUncorrectableError u dram addr dom s
  | .laneRetrain port => Sys2Proof.Machine.execLaneRetrain port s
  | .unknownMailboxCommand code => Sys2Proof.Machine.execUnknownMailboxCommand code s
  | .registerWrite off v => Sys2Proof.Machine.execRegisterWrite off v s
  | .br sh ta tb tc td l1 l2 l3 l4 => Sys2Proof.Machine.execBr sh ta tb tc td l1 l2 l3 l4 s
  | .loop chain n e => Sys2Proof.Machine.execLoop chain n e s
  | .loops chain sa e => Sys2Proof.Machine.execLoops chain sa e s
  | .fmtw low mask => Sys2Proof.Machine.execFmtw low mask s
  | .fmts sa => Sys2Proof.Machine.execFmts sa s
  | .sbar w gang b => Sys2Proof.Machine.execSbar w gang b s
  | .wwait w => Sys2Proof.Machine.execWwait w s
  | .trap n => Sys2Proof.Machine.execTrap n s
  | .brk n => Sys2Proof.Machine.execBrk n s
  | .jmp d => Sys2Proof.Machine.execJmp d s
  | .call d => Sys2Proof.Machine.execCall d s
  | .add m sd sa b => Sys2Proof.Machine.execAdd m sd sa b s
  | .sub m sd sa b => Sys2Proof.Machine.execSub m sd sa b s
  | .mul m sd sa b => Sys2Proof.Machine.execMul m sd sa b s
  | .mulh m sd sa b => Sys2Proof.Machine.execMulh m sd sa b s
  | .mulhn m sd sa b => Sys2Proof.Machine.execMulhn m sd sa b s
  | .div m sd sa b => Sys2Proof.Machine.execDiv m sd sa b s
  | .divn m sd sa b => Sys2Proof.Machine.execDivn m sd sa b s
  | .rem m sd sa b => Sys2Proof.Machine.execRem m sd sa b s
  | .remn m sd sa b => Sys2Proof.Machine.execRemn m sd sa b s
  | .and m sd sa b => Sys2Proof.Machine.execAnd m sd sa b s
  | .or m sd sa b => Sys2Proof.Machine.execOr m sd sa b s
  | .xor m sd sa b => Sys2Proof.Machine.execXor m sd sa b s
  | .andn m sd sa b => Sys2Proof.Machine.execAndn m sd sa b s
  | .shl m sd sa b => Sys2Proof.Machine.execShl m sd sa b s
  | .shr m sd sa b => Sys2Proof.Machine.execShr m sd sa b s
  | .sar m sd sa b => Sys2Proof.Machine.execSar m sd sa b s
  | .min m sd sa b => Sys2Proof.Machine.execMin m sd sa b s
  | .minn m sd sa b => Sys2Proof.Machine.execMinn m sd sa b s
  | .max m sd sa b => Sys2Proof.Machine.execMax m sd sa b s
  | .maxn m sd sa b => Sys2Proof.Machine.execMaxn m sd sa b s
  | .clz m sd sa => Sys2Proof.Machine.execClz m sd sa s
  | .popc m sd sa => Sys2Proof.Machine.execPopc m sd sa s
  | .bfx m sd sa b => Sys2Proof.Machine.execBfx m sd sa b s
  | .bfxn m sd sa b => Sys2Proof.Machine.execBfxn m sd sa b s
  | .bfi m sd sa b => Sys2Proof.Machine.execBfi m sd sa b s
  | .li m sd b => Sys2Proof.Machine.execLi m sd b s
  | .sel m sd t sa => Sys2Proof.Machine.execSel m sd t sa s
  | .ceq m qd sa b => Sys2Proof.Machine.execCeq m qd sa b s
  | .cne m qd sa b => Sys2Proof.Machine.execCne m qd sa b s
  | .clt m qd sa b => Sys2Proof.Machine.execClt m qd sa b s
  | .cltn m qd sa b => Sys2Proof.Machine.execCltn m qd sa b s
  | .cle m qd sa b => Sys2Proof.Machine.execCle m qd sa b s
  | .clen m qd sa b => Sys2Proof.Machine.execClen m qd sa b s
  | .qand m qd ta tb => Sys2Proof.Machine.execQand m qd ta tb s
  | .qor m qd ta tb => Sys2Proof.Machine.execQor m qd ta tb s
  | .qxor m qd ta tb => Sys2Proof.Machine.execQxor m qd ta tb s
  | .qget m sd => Sys2Proof.Machine.execQget m sd s
  | .qset m sa => Sys2Proof.Machine.execQset m sa s
  | .sget m sd idx => Sys2Proof.Machine.execSget m sd idx s
  | .sset m idx sa => Sys2Proof.Machine.execSset m idx sa s
  | .fadd m sd sa b => Sys2Proof.Machine.execFadd m sd sa b s
  | .fsub m sd sa b => Sys2Proof.Machine.execFsub m sd sa b s
  | .fmul m sd sa b => Sys2Proof.Machine.execFmul m sd sa b s
  | .ffma m sd sa b => Sys2Proof.Machine.execFfma m sd sa b s
  | .fmin m sd sa b => Sys2Proof.Machine.execFmin m sd sa b s
  | .fmax m sd sa b => Sys2Proof.Machine.execFmax m sd sa b s
  | .fclt m qd sa b => Sys2Proof.Machine.execFclt m qd sa b s
  | .fceq m qd sa b => Sys2Proof.Machine.execFceq m qd sa b s
  | .ftoi m sd sa => Sys2Proof.Machine.execFtoi m sd sa s
  | .itof m sd sa => Sys2Proof.Machine.execItof m sd sa s
  | .wjoin m wd wa wb => Sys2Proof.Machine.execWjoin m wd wa wb s
  | .wtos m sd wa => Sys2Proof.Machine.execWtos m sd wa s
  | .stow m wd sa => Sys2Proof.Machine.execStow m wd sa s
  | .ld q sx sz sd a => Sys2Proof.Machine.execLd q sx sz sd a s
  | .st q sz sv a => Sys2Proof.Machine.execSt q sz sv a s
  | .ldp q sx sz sd a => Sys2Proof.Machine.execLdp q sx sz sd a s
  | .stp q sz sv a => Sys2Proof.Machine.execStp q sz sv a s
  | .vld q vr a => Sys2Proof.Machine.execVld q vr a s
  | .vst q vr a => Sys2Proof.Machine.execVst q vr a s
  | .vldp q vr a => Sys2Proof.Machine.execVldp q vr a s
  | .vstp q vr a => Sys2Proof.Machine.execVstp q vr a s
  | .vgathp q vr a => Sys2Proof.Machine.execVgathp q vr a s
  | .vscatp q vr a => Sys2Proof.Machine.execVscatp q vr a s
  | .aadd q sz sv a => Sys2Proof.Machine.execAadd q sz sv a s
  | .amin q sz sv a => Sys2Proof.Machine.execAmin q sz sv a s
  | .aminn q sz sv a => Sys2Proof.Machine.execAminn q sz sv a s
  | .amax q sz sv a => Sys2Proof.Machine.execAmax q sz sv a s
  | .amaxn q sz sv a => Sys2Proof.Machine.execAmaxn q sz sv a s
  | .aswp q sz sv a => Sys2Proof.Machine.execAswp q sz sv a s
  | .acas q sz sv a => Sys2Proof.Machine.execAcas q sz sv a s
  | .afadd q sz sv a => Sys2Proof.Machine.execAfadd q sz sv a s
  | .wcheck q sd => Sys2Proof.Machine.execWcheck q sd s
  | .wall q => Sys2Proof.Machine.execWall q s
  | .swinit q sv a => Sys2Proof.Machine.execSwinit q sv a s
  | .swarr q sv a => Sys2Proof.Machine.execSwarr q sv a s
  | .swwait q sv a => Sys2Proof.Machine.execSwwait q sv a s
  | .swpoll q sd a => Sys2Proof.Machine.execSwpoll q sd a s
  | .llock q sd a => Sys2Proof.Machine.execLlock q sd a s
  | .lunlock q a => Sys2Proof.Machine.execLunlock q a s
  | .rcfence q sv => Sys2Proof.Machine.execRcfence q sv s
  | .xpld q xp a => Sys2Proof.Machine.execXpld q xp a s
  | .launch q sv a => Sys2Proof.Machine.execLaunch q sv a s
  | .pref q a => Sys2Proof.Machine.execPref q a s
  | .btw q vr a => Sys2Proof.Machine.execBtw q vr a s
  | .vadd m ty vd va vb p => Sys2Proof.Machine.execVadd m ty vd va vb p s
  | .vsub m ty vd va vb p => Sys2Proof.Machine.execVsub m ty vd va vb p s
  | .vmul m ty vd va vb p => Sys2Proof.Machine.execVmul m ty vd va vb p s
  | .vfma m ty vd va vb p => Sys2Proof.Machine.execVfma m ty vd va vb p s
  | .vmin m ty vd va vb p => Sys2Proof.Machine.execVmin m ty vd va vb p s
  | .vmax m ty vd va vb p => Sys2Proof.Machine.execVmax m ty vd va vb p s
  | .vminn m ty vd va vb p => Sys2Proof.Machine.execVminn m ty vd va vb p s
  | .vmaxn m ty vd va vb p => Sys2Proof.Machine.execVmaxn m ty vd va vb p s
  | .vand m ty vd va vb p => Sys2Proof.Machine.execVand m ty vd va vb p s
  | .vor m ty vd va vb p => Sys2Proof.Machine.execVor m ty vd va vb p s
  | .vxor m ty vd va vb p => Sys2Proof.Machine.execVxor m ty vd va vb p s
  | .vshl m ty vd va vb p => Sys2Proof.Machine.execVshl m ty vd va vb p s
  | .vshr m ty vd va vb p => Sys2Proof.Machine.execVshr m ty vd va vb p s
  | .vsar m ty vd va vb p => Sys2Proof.Machine.execVsar m ty vd va vb p s
  | .vsel m ty vd va vb p => Sys2Proof.Machine.execVsel m ty vd va vb p s
  | .vsplat m ty vd va vb p => Sys2Proof.Machine.execVsplat m ty vd va vb p s
  | .vlnadd m ty vd va vb p => Sys2Proof.Machine.execVlnadd m ty vd va vb p s
  | .vabs m ty vd va p => Sys2Proof.Machine.execVabs m ty vd va p s
  | .vneg m ty vd va p => Sys2Proof.Machine.execVneg m ty vd va p s
  | .vrsum m ty vd va p => Sys2Proof.Machine.execVrsum m ty vd va p s
  | .vrmax m ty vd va p => Sys2Proof.Machine.execVrmax m ty vd va p s
  | .vlog m ty vd va p => Sys2Proof.Machine.execVlog m ty vd va p s
  | .vexp m ty vd va p => Sys2Proof.Machine.execVexp m ty vd va p s
  | .vmov m ty vd va p => Sys2Proof.Machine.execVmov m ty vd va p s
  | .vceq m ty pd va vb p => Sys2Proof.Machine.execVceq m ty pd va vb p s
  | .vclt m ty pd va vb p => Sys2Proof.Machine.execVclt m ty pd va vb p s
  | .vcle m ty pd va vb p => Sys2Proof.Machine.execVcle m ty pd va vb p s
  | .vcltn m ty pd va vb p => Sys2Proof.Machine.execVcltn m ty pd va vb p s
  | .vcvt m ty vd va st p => Sys2Proof.Machine.execVcvt m ty vd va st p s
  | .vcmpr m ty vd va sc p => Sys2Proof.Machine.execVcmpr m ty vd va sc p s
  | .vexpd m ty vd va sc p => Sys2Proof.Machine.execVexpd m ty vd va sc p s
  | .vany m ty qd va p => Sys2Proof.Machine.execVany m ty qd va p s
  | .xperm m vd va k sz => Sys2Proof.Machine.execXperm m vd va k sz s
  | .xbcast m vd va k sz => Sys2Proof.Machine.execXbcast m vd va k sz s
  | .xslide m vd va k sz => Sys2Proof.Machine.execXslide m vd va k sz s
  | .xtrn m vd va k sz => Sys2Proof.Machine.execXtrn m vd va k sz s
  | .xrev m vd va sz => Sys2Proof.Machine.execXrev m vd va sz s
  | .xzip m vd va sz => Sys2Proof.Machine.execXzip m vd va sz s
  | .xunzip m vd va sz => Sys2Proof.Machine.execXunzip m vd va sz s
  | .tdup m => Sys2Proof.Machine.execTdup m s
  | .tdrop m n => Sys2Proof.Machine.execTdrop m n s
  | .tswap m => Sys2Proof.Machine.execTswap m s
  | .tpick m d => Sys2Proof.Machine.execTpick m d s
  | .trot m n => Sys2Proof.Machine.execTrot m n s
  | .tzero m sp => Sys2Proof.Machine.execTzero m sp s
  | .tinfo m sd d => Sys2Proof.Machine.execTinfo m sd d s
  | .tshape m sp => Sys2Proof.Machine.execTshape m sp s
  | .tscale m k => Sys2Proof.Machine.execTscale m k s
  | .tlds m sp w => Sys2Proof.Machine.execTlds m sp w s
  | .tsts m sp w => Sys2Proof.Machine.execTsts m sp w s
  | .tfromv m v sp => Sys2Proof.Machine.execTfromv m v sp s
  | .ttov m v sp n => Sys2Proof.Machine.execTtov m v sp n s
  | .mwl m pl => Sys2Proof.Machine.execMwl m pl s
  | .mfw m e pl => Sys2Proof.Machine.execMfw m e pl s
  | .mfwa m e pl => Sys2Proof.Machine.execMfwa m e pl s
  | .mbk m e pl => Sys2Proof.Machine.execMbk m e pl s
  | .mbka m e pl => Sys2Proof.Machine.execMbka m e pl s
  | .mwrel m pl => Sys2Proof.Machine.execMwrel m pl s
  | .tadd m => Sys2Proof.Machine.execTadd m s
  | .tsub m => Sys2Proof.Machine.execTsub m s
  | .tmul m => Sys2Proof.Machine.execTmul m s
  | .tmax m => Sys2Proof.Machine.execTmax m s
  | .tmin m => Sys2Proof.Machine.execTmin m s
  | .tfma m => Sys2Proof.Machine.execTfma m s
  | .tcvt m k f => Sys2Proof.Machine.execTcvt m k f s
  | .tact m f => Sys2Proof.Machine.execTact m f s
  | .trsum m => Sys2Proof.Machine.execTrsum m s
  | .tcsum m => Sys2Proof.Machine.execTcsum m s
  | .txp m => Sys2Proof.Machine.execTxp m s
  | .tget m sp w => Sys2Proof.Machine.execTget m sp w s
  | .tsend m sp w => Sys2Proof.Machine.execTsend m sp w s
  | .tsendq m sp w => Sys2Proof.Machine.execTsendq m sp w s
  | .acopy m sp w => Sys2Proof.Machine.execAcopy m sp w s
  | .acopyw m sp w => Sys2Proof.Machine.execAcopyw m sp w s
  | .stash m sp w => Sys2Proof.Machine.execStash m sp w s
  | .restore m sp w => Sys2Proof.Machine.execRestore m sp w s
  | .recomp m sp => Sys2Proof.Machine.execRecomp m sp s
  | .grad m sp w => Sys2Proof.Machine.execGrad m sp w s
  | .coll m op sp w => Sys2Proof.Machine.execColl m op sp w s
  | .hostMemoryAccess addr wr => Sys2Proof.Machine.execHostMemoryAccess addr wr s
  | .peerMemoryAccess port addr wr => Sys2Proof.Machine.execPeerMemoryAccess port addr wr s
  | .tamvanLinkDown port => Sys2Proof.Machine.execTamvanLinkDown port s
  | .tamvanLinkUp port => Sys2Proof.Machine.execTamvanLinkUp port s
  | .linkLayerRetry port => Sys2Proof.Machine.execLinkLayerRetry port s
  | .epochTick => Sys2Proof.Machine.execEpochTick s
  | .lineAgingSweep => Sys2Proof.Machine.execLineAgingSweep s
  | .wheelAdvance => Sys2Proof.Machine.execWheelAdvance s
  | .energyInterval => Sys2Proof.Machine.execEnergyInterval s
  | .errorLogCoalesce => Sys2Proof.Machine.execErrorLogCoalesce s
  | .counterSample => Sys2Proof.Machine.execCounterSample s
  | .fundamentalReset => Sys2Proof.Machine.execFundamentalReset s
  | .hostLinkReturn => Sys2Proof.Machine.execHostLinkReturn s
  | .hostLinkTimeout => Sys2Proof.Machine.execHostLinkTimeout s
  | .packageReset => Sys2Proof.Machine.execPackageReset s
  | .boot => Sys2Proof.Machine.execBoot s
  | .configureQueue => Sys2Proof.Machine.execConfigureQueue s
  | .changePageEntry => Sys2Proof.Machine.execChangePageEntry s
  | .placementPolicy => Sys2Proof.Machine.execPlacementPolicy s
  | .registerCodeKey => Sys2Proof.Machine.execRegisterCodeKey s
  | .cancelTask => Sys2Proof.Machine.execCancelTask s
  | .returnWithdrawn => Sys2Proof.Machine.execReturnWithdrawn s
  | .setDerate => Sys2Proof.Machine.execSetDerate s
  | .readCounters => Sys2Proof.Machine.execReadCounters s
  | .readEnergyAccount => Sys2Proof.Machine.execReadEnergyAccount s
  | .attestationReport => Sys2Proof.Machine.execAttestationReport s
  | .readQueueHead => Sys2Proof.Machine.execReadQueueHead s
  | .resetCommand => Sys2Proof.Machine.execResetCommand s
  | .writeFirmware => Sys2Proof.Machine.execWriteFirmware s
  | .lbreak => Sys2Proof.Machine.execLbreak s
  | .twait => Sys2Proof.Machine.execTwait s
  | .yield => Sys2Proof.Machine.execYield s
  | .tret => Sys2Proof.Machine.execTret s
  | .exit => Sys2Proof.Machine.execExit s
  | .statf => Sys2Proof.Machine.execStatf s
  | .ret => Sys2Proof.Machine.execRet s

end Sys2Proof.Machine
end

