-- ==== Sys2Proof/Machine/Auto.lean ====
section
/-! DEFINITION. The schedule policy (log 1): which step the package takes when the state's schedule names none. The
manual gives no order between agents; the policy is one order in which each piece of pending work gets its turn. A step
that is not enabled when its turn comes leaves the state as it is. -/

namespace Sys2Proof.Machine

/-- The step that fetches at the position of the current context, which has the issue of its core: a repeat group that is
not yet open is opened first (R126); otherwise a bundle issues (R146). -/
def Ctx.fetchStep (a : Nat) (c : Ctx) : Instr :=
  if c.rep.isSome || c.pendTrap.isSome || c.opFaulted || c.floorWait || !c.dueReady then .bundleIssue a
  else match c.halves.find? fun h => h.seg == c.pc.seg with
    | none => .bundleIssue a
    | some h =>
      match h.item c.pc.unit with
      | some (.group n _ _ _) => if h.mbz then .repeatPrefix (BitVec.ofNat 8 (n - 1)) else .bundleIssue a
      | _ => .bundleIssue a

/-- The next step of issue: the fetch of the current context when it has the issue of its core; else in turn the choice of
the context that issues, a look at the bundle of the current one, and the next reference cycle. None when no context runs
on the current slot. -/
def State.fetchEvent (s : State) : Option Instr :=
  match s.ctx s.cur with
  | none => none
  | some c =>
    if c.status != .running then none
    else if s.hasTurn s.cur then some (c.fetchStep s.cur)
    else match s.rotor / 2 % 3 with
      | 0 => some (.issueSelection (coreOf s.cur))
      | 1 => some (.bundleIssue s.cur)
      | _ => some .wheelAdvance

/-- The steps that an access may take. -/
def accSteps (x : Access) : List Instr :=
  (if x.ord == 2 then (if x.stamp.isNone then [.scStamp x.id] else [.scPerform x.id])
   else match x.kind with
     | .swarr => [.syncArrive x.id]
     | _ => if x.level = 0 then [.loadValueArrival x.id, .storeVisible x.id 3] else []) ++
  (if x.level = 3 then [.storeVisible x.id 4] else if x.level = 4 then [.storeVisible x.id 5]
   else [.deliveredFault x.id, .witnessFailureDelivery x.id])

/-- The moves of tiles of a context: the rises it asks for, and, while room is needed, the sink of the tile that is next. -/
def State.moveSteps (s : State) (a : Nat) (c : Ctx) : List Instr :=
  (match s.sinkKeep (coreOf a) c with
   | none => []
   | some keep => (c.sinkNext keep).toList.map (Instr.tileSink a)) ++
    (c.boundTiles ++ c.risingTiles).map (Instr.tileRise a)

/-- The steps of the operations and tiles of a context. -/
def State.tileSteps (s : State) (a : Nat) (c : Ctx) : List Instr :=
  (if c.refault.isSome then [.unwind a] else []) ++
  (c.window.flatMap fun o => match o.status with
    | .waiting => [.tileEngineClaim a o.tseq]
    | .running _ => [.tileOpComplete a o.tseq]
    | .serving _ => [.tileOpComplete a o.tseq]
    | .sent => [.tileOpComplete a o.tseq]
    | .faulted _ => [.unwind a]
    | _ => []) ++ s.moveSteps a c

/-- The steps of a context: landing, prefetch, waits, the record fills a held bundle may wait for, and its tiles. -/
def State.ctxSteps (s : State) (a : Nat) (c : Ctx) : List Instr :=
  (if c.vacating then [.bankVacate (coreOf a) (a % 4)] else []) ++
  (if c.due.isEmpty then [] else [.resultLanding a]) ++ [.segmentPrefetch a] ++
  (if c.yieldPass then [.yieldPassEnd a] else []) ++
  (match c.arrived with
   | some (gang, b, _) => [.barrierRelease c.task c.inst gang c.team b]
   | none => []) ++
  (if c.held then .heldBundleRelease a :: (match s.recordFor c with
    | some id => [.recordFill (dieOf a) c.pd.toNat id]
    | none => []) else []) ++
  s.tileSteps a c

/-- The step that a task's kind gives it (Table 16-6). -/
def taskSteps (t : Task) : List Instr :=
  if t.state.ended then []
  else .taskComplete t.id :: (match t.kind with
    | 2 => [.copyTask t.id]
    | 3 => [.signalTask t.id]
    | 4 => [.waitTask t.id]
    | 5 => [.recordFenceTask t.id]
    | 6 => [.selfTestRun t.id]
    | 7 => [.journalMark t.id]
    | 8 => [.codeLoad t.id]
    | 9 => [.codeUnload t.id]
    | _ => [])

/-- The steps of a gang instance: placement or resumption where it first fits, ageing, the save of one that has been
stopped, and the release of the shares of its teams. -/
def State.instSteps (s : State) (g : GInst) : List Instr :=
  (if s.waiting g then
    [.priorityAgeing g.task g.num, .forcedPreemption g.task g.num] ++
      (match anchors.find? fun x => s.fitsAt g x.1 x.2.1 x.2.2 && s.turnOf g x.1 with
       | some x => if g.status == .saved then [.resume g.task g.num x.1 x.2.1 x.2.2]
           else [.instancePlacement g.task g.num x.1 x.2.1 x.2.2]
       | none => [])
   else []) ++
  (if (s.membersOf g).any fun e => e.2.stopped then [.preempt g.task g.num] else []) ++
  (List.range g.kernel.teams).map fun t => .scratchShareRelease g.task g.num t

/-- The cores that hold a context. -/
def State.busyCores (s : State) : List Nat := (s.ctxs.map fun e => coreOf e.1).eraseDups

/-- The steps that time brings: one reference cycle, an epoch tick each 1,024 cycles, the sweep after it, the epochs that
may close, and the intervals of the firmware. -/
def State.timeSteps (s : State) : List Instr :=
  [.wheelAdvance] ++ (if (s.epoch + 1) * 1024 ≤ s.cycle then [.epochTick, .lineAgingSweep] else []) ++
  ((List.range 64).flatMap fun d => [4, 5].filterMap fun sc => if s.canClose d sc then some (.epochClose d sc) else none) ++
  (if s.shareDue then [.energyInterval] else []) ++ (if s.errDue then [.errorLogCoalesce] else []) ++
  (if s.sampleDue then [.counterSample] else [])

/-- The step of a mailbox command (Table 21-5). -/
def mailStep (v : Nat) : Instr :=
  match v with
  | 1 => .configureQueue
  | 2 => .changePageEntry
  | 3 => .placementPolicy
  | 4 => .registerCodeKey
  | 5 => .cancelTask
  | 6 => .returnWithdrawn
  | 7 => .setDerate
  | 8 => .readCounters
  | 9 => .readEnergyAccount
  | 10 => .attestationReport
  | 11 => .readQueueHead
  | 12 => .resetCommand
  | 13 => .writeFirmware
  | n => .unknownMailboxCommand n

/-- A queue of a die that is looked at for growth: each in its turn. -/
def State.growthStep (s : State) (die : Nat) : Option Instr :=
  let l := s.hwQueues die
  (l[s.rotor / 2 % l.length]?).map fun q => .deadlockQueueGrowth die q.num

/-- Every step that pending work may take now, the boot of a package that has not booted first. -/
def State.pendingSteps (s : State) : List Instr :=
  (if s.ready || s.recovery then [] else [.boot]) ++ s.timeSteps ++
  (s.busyCores.flatMap fun k => [.issueSelection k, .starvationGrant k, .epilogueServe k, .codegenPass k]) ++
  (s.ctxs.flatMap fun e => s.ctxSteps e.1 e.2) ++ s.accs.flatMap accSteps ++ (s.arrivals.map fun r => .syncArrive r.id) ++
  (List.range s.grads.length).map .gradContribution ++ (List.range s.lines.length).map .updateLineComplete ++
  (List.range s.colls.length).map .collectiveRun ++ (List.range s.notices.length).map .noticeAppend ++
  (List.range s.drops.length).map .recordDropComplete ++ (List.range s.launchQ.length).map .launchQueueAppend ++
  (match s.nextVisit with
   | some q => [.queueVisit q]
   | none => []) ++
  s.tasks.flatMap taskSteps ++ s.insts.flatMap s.instSteps ++
  (s.backing.map fun b => .transparentFaultResolve b.1 b.2.2.1) ++
  (match s.mcmd with
   | some (v, _) => [mailStep v.toNat]
   | none => []) ++
  (List.range 4).filterMap s.growthStep

/-- The step that the policy takes: at even turns the current context fetches, at odd turns, and when no context runs
there, pending work goes round. -/
def State.autoEvent (s : State) : Instr :=
  match if s.rotor % 2 = 0 then s.fetchEvent else none with
  | some i => i
  | none =>
    let l := s.pendingSteps
    (l[s.rotor / 2 % l.length]?).getD .wheelAdvance

/-! ## The context that a placed instruction runs in (log 8) -/

/-- A context as it stands at the start of a segment that is already in its loop buffer. -/
def Ctx.atSegment (c : Ctx) (h : Half) : Ctx :=
  { c with
    status := .running, pc := ⟨h.seg, 0⟩, halves := [h], rep := none, pend := [], window := [], pendTrap := none
    floorWait := false, held := false, refault := none, stopped := false, vacating := false }

/-- A context with nothing in it: what stands for the launch of a context of no task. -/
def Ctx.blank : Ctx where
  cid := 0
  task := 0
  inst := 0
  team := 0
  cnum := 0
  perTeam := 1
  teams := 1
  scratch := 0
  prio := 0
  status := .running
  pc := ⟨0, 0⟩
  rep := none
  halves := []
  loops := []
  s := []
  p := []
  q := 0
  w := []
  xp := []
  fmt := 0
  pend := []
  capture := none
  tick := 0
  swctx := 0
  pd := 0
  tlimit := 0
  trise := 8
  deckq := 0
  pierq := 0
  spillbase := 0
  spilllen := 0
  ecount := 0
  esat := false
  lk := 0
  tvec := 0
  trapbuf := 0
  statbuf := 0
  codegen := 0
  stack := []
  tiles := []
  nextTile := 0
  plane0 := none
  plane1 := none
  window := []
  recent := []
  tseq := 0
  issues := 0
  bt := []
  btPend := []
  statq := []
  lost := 0
  statChunks := 0
  held := false
  arrived := none
  released := none
  swWait := none
  swRel := none
  swKey := none
  scLast := 0
  yieldPass := false
  yieldAt := 0
  yieldSeen := []
  waitCount := 0
  waitAt := 0
  floor := 0
  floorEp := 0
  floorWait := false
  late := false
  pendTrap := none
  refault := none
  stopped := false
  vacating := false

end Sys2Proof.Machine
end

