-- ==== Sys2Proof/Machine/Step.lean ====
section
/-! DEFINITION. One step of the package: the next step of the schedule, or the policy's when the schedule is empty
(log 1); and the placing of an instruction where the next step fetches (log 8). -/

namespace Sys2Proof.Machine

/-- One step. -/
def step (s : State) : Host.Outcome State Fault Refusal :=
  match s.events with
  | i :: r => exec i { s with events := r }
  | [] => exec s.autoEvent { s with rotor := s.rotor + 1 }

/-- The state with an instruction of the opcode table (a 16-bit code unit) stored where the next step fetches: in the
current slot's context, at the start of a segment in its loop buffer, followed by a step unit, a bundle reference and
the segment end; the slot has the issue of its core. Where no context is on the slot, a blank one stands for the launch
that a program comes to run by. -/
def State.withFetchWord (s : State) (nbits w : Nat) : State :=
  let u : Unit16 := BitVec.ofNat 16 (w % 2 ^ nbits)
  let c := (s.ctx s.cur).getD Ctx.blank
  let h : Half := ⟨c.pc.seg, (4 : BitVec 64) <<< 4 ||| 1, [u, 0, 0, encodeSegEnd], s.codegen⟩
  let s1 := (s.setCtx s.cur (c.atSegment h)).onCore (coreOf s.cur) fun x =>
    { x with chosen := some s.cur, issued := some (s.cycle, 1) }
  { s1 with events := [], rotor := 0 }

end Sys2Proof.Machine
end

