-- ==== Sys2Proof/Safety.lean ====
section
/-! DEFINITION. The terms in which statements speak of the machine: the bundle of one form (05 R130 to R137, 06 R146),
and the invariant that every step keeps. -/

namespace Sys2Proof.Machine

/-! ## A bundle of one form (log 16) -/

/-- Results have room: none collides (R133), and no port bound is broken (R134, R135); no vector register that is read is
poisoned (R381). -/
def Env.room (e : Env) (sl : Slot) (reads : List Nat) (new : List Pend) : Bool :=
  collisions e.c.pend [⟨sl, true, { vreads := reads }, new⟩] == 0 &&
    (portOver e.c.pend [⟨sl, true, { vreads := reads }, new⟩]).isNone && !reads.any fun n => e.s.poisoned (rKey e.a n) 256

/-- What the commit of a bundle of one form of a slot leaves (R130, R137, R146, R366): its effect, its results started,
the tick and the results in flight moved on by one, its energy charged, and issue at the next position. -/
def Env.commits (e : Env) (sl : Slot) (new : List Pend) (w : Nat) (act : State → State := id)
    (post : State → State := id) (nx : NextReq := .sequential) : State :=
  let np := if e.repK + 1 < e.repN then (e.pos, e.c.loops) else nextPos e.pos e.seqPos nx e.c.loops
  let s0 := if sl == .m then act e.s else (act e.s).drainStat e.a
  ((post (s0.onCtx e.a (commitCtx e new (4 + w) np))).markRunning e.c.task).progress (dieOf e.a)

/-- A form issued by itself with its leaf taken commits: at every issue point at which ok holds and its results have
room, exec answers the next state that Env.commits gives for the results, weight, effect and next position named. -/
def Commits (i : Instr) (lits : Nat) (sl : Slot) (taken : Bool) (new : Env → List Pend) (w : Env → Nat) (reads : List Nat := [])
    (ok : Env → Prop := fun _ => True) (act : Env → State → State := fun _ => id)
    (post : Env → State → State := fun _ => id) (nx : Env → NextReq := fun _ => .sequential) : Prop :=
  ∀ (s : State) (e : Env), s.issuing lits = some e → taken = true → ok e → e.room sl reads (new e) = true →
    exec i s = .next (e.commits sl (new e) (w e) (act e) (post e) (nx e))

/-- A form issued by itself with its leaf taken traps at issue with a cause: nothing of its bundle commits (R130, R164). -/
def Traps (i : Instr) (lits : Nat) (sl : Slot) (taken : Bool) (new : Env → List Pend) (reads : List Nat) (ok : Env → Prop)
    (info : Env → TrapInfo) : Prop :=
  ∀ (s : State) (e : Env), s.issuing lits = some e → taken = true → ok e → e.room sl reads (new e) = true →
    exec i s = .next (trapAt e { info e with slots := maskBit sl.bit true })

/-- A form issued by itself is held: its bundle does not issue, and the tick stands (R136, R157). -/
def Holds (i : Instr) (lits : Nat) (ok : Env → Prop) (onHold : Env → State → State := fun _ => id) : Prop :=
  ∀ (s : State) (e : Env), s.issuing lits = some e → e.room .c [] [] = true → ok e →
    exec i s = .next ((onHold e e.s).onCtx e.a fun c => { c with held := true })

/-- The agent of a context has room for one more form that takes a sequence number (R189). -/
def Env.seqRoom (e : Env) : Prop := e.s.outstanding e.a e.c.pd.toNat < 2 ^ 19

/-- The segment of a target comes into the loop buffer, where it is not there yet (R123, R128). -/
def Env.fetched (e : Env) (p : CodePos) (s : State) : State :=
  match s.segment e.a p.seg with
  | .ok s1 _ => s1
  | _ => s

/-- The window entry that a tile form leaves: it pops, binds and pushes as its plan says, and takes its number and,
where it has a witness output, a sequence number of its scope (R188, R239, R246). -/
def Env.enters (e : Env) (i : Instr) (t : TIn) (p : TPlan) (s : State) : State :=
  let q : State × Option Nat := match p.outWit with
    | some x => let r := s.takeSeq e.a e.c.pd.toNat x.2 e.c.cid; (r.1, some r.2)
    | none => (s, none)
  p.also (q.1.onCtx e.a fun c =>
    { c.pushOp p fun p c => mkOp t i p c.tseq e.pos e.c.tick q.2 e.a c with tseq := (c.tseq + 1) % 2 ^ 32 })

/-- A tile form of plan p, whose parameter block of n registers lies at sp and whose witness input is in w, issues at
every issue point at which its own condition ok holds, the window has room, the stack is deep enough and does not grow
beyond its limit, the quotas hold, its witness input is not bad, its provenance holds, it is not held (R246, R254), and the
deck has room for a tile that it makes at once (R242). -/
def TileCommits (i : Instr) (m : Mask) (sp n w : Nat) (ok : TIn → Prop) (p : TIn → TPlan) : Prop :=
  Commits i 0 .t (m.getLsbD 0)
    (fun e => let t := e.tin sp n w
      (p t).pends ++ (match (p t).outWit with
        | some x => witPend x.1 1 (e.outWit x.2 e.nextSeqNum)
        | none => []))
    (fun e => (p (e.tin sp n w)).energy)
    (ok := fun e => let t := e.tin sp n w
      ok t ∧ e.c.window.length < 32 ∧ (p t).need ≤ e.c.stack.length ∧
        e.c.stack.length - (p t).pops + (p t).out.length ≤ e.c.tlimit ∧
        spillFault e.c ((p t).numbered e.c.nextTile) = none ∧
        ((p t).input = true → e.s.witFault e.a e.c.pd.toNat t.wit = none) ∧
        ((p t).outWit.isSome → e.seqRoom) ∧
        (p t).made.all (fun b => e.c.roomFor b.length) = true)
    (act := fun e s => e.enters i (e.tin sp n w) (p (e.tin sp n w)) s)

/-- A tile form that fails one of its checks at issue traps with the cause, the auxiliary word and the fault address of
the first that fails; the window has room and it is not held (R254). -/
def TileTraps (i : Instr) (m : Mask) (sp n w : Nat) (bad : TIn → Prop) (f : TIn → TFault) (new : TIn → List Pend := fun _ => []) :
    Prop :=
  Traps i 0 .t (m.getLsbD 0) (fun e => new (e.tin sp n w)) []
    (fun e => bad (e.tin sp n w) ∧ e.c.window.length < 32)
    (fun e => tileTrap e.a (f (e.tin sp n w)))

/-! ## The invariant -/

/-- Memory is in its canonical form, and the slot wheel stands within one revolution (R199). -/
def State.Inv (s : State) : Prop := Memory.wf s.mem = true ∧ s.wheel < 768

end Sys2Proof.Machine
end

