-- ==== Sys2Proof/Certificates/Slice0/Obligations.lean ====
section
/-! DEFINITION. The statements about the machine: what every form does where it completes and where it traps, what every
system step does, what steps leave unchanged, and the encoding. -/

open Sys2Proof Sys2Proof.Machine

/-- 06 R168 to R171, Table 5-15: the sums, products, quotients and remainders of the S slot, exact 64-bit results at
their latencies; s0 discards a result.
06 R170, R172, R173: the logic, shift, bit-field, minimum and maximum forms of the S slot, LI and SEL.
The forms run as bundles of one form, which is the model's choice (log 16). -/
def Obligations.ScalarArithmetic : Prop :=
  (∀ (m : Mask) (sd sa : BitVec 6) (b : SOp),
  let R := fun (i : Instr) (lat w : Nat) (v : W64 → W64 → W64) =>
    Commits i (opLits b) .s (m.getLsbD 0)
      (fun e => if sd = 0 then [] else
        [Pend.make (.s sd.toNat) lat ((v (e.c.readS sa.toNat) (opVal e.c b)).zeroExtend 2048)]) (fun _ => w)
  R (.add m sd sa b) 1 1 (fun x y => BitVec.ofNat 64 (x.toNat + y.toNat)) ∧
  R (.sub m sd sa b) 1 1 (fun x y => BitVec.ofInt 64 (x.toInt - y.toInt)) ∧
  R (.mul m sd sa b) 3 2 (fun x y => BitVec.ofNat 64 (x.toNat * y.toNat)) ∧
  R (.mulh m sd sa b) 3 2 (fun x y => BitVec.ofInt 64 (x.toInt * y.toInt / 2 ^ 64)) ∧
  R (.mulhn m sd sa b) 3 2 (fun x y => BitVec.ofNat 64 (x.toNat * y.toNat / 2 ^ 64)) ∧
  R (.div m sd sa b) 12 6 (fun x y => if y = 0 then BitVec.allOnes 64 else BitVec.ofInt 64 (x.toInt.tdiv y.toInt)) ∧
  R (.divn m sd sa b) 12 6 (fun x y => if y = 0 then BitVec.allOnes 64 else BitVec.ofNat 64 (x.toNat / y.toNat)) ∧
  R (.rem m sd sa b) 12 6 (fun x y => if y = 0 then x else BitVec.ofInt 64 (x.toInt.tmod y.toInt)) ∧
  R (.remn m sd sa b) 12 6 (fun x y => if y = 0 then x else BitVec.ofNat 64 (x.toNat % y.toNat))) ∧
  (∀ (m : Mask) (sd sa t : BitVec 6) (b : SOp),
  let R := fun (i : Instr) (lits : Nat) (v : Env → W64) =>
    Commits i lits .s (m.getLsbD 0)
      (fun e => if sd = 0 then [] else [Pend.make (.s sd.toNat) 1 ((v e).zeroExtend 2048)]) (fun _ => 1)
  let A := fun (e : Env) => e.c.readS sa.toNat
  let B := fun (e : Env) => opVal e.c b
  let pos := fun (e : Env) => (B e).toNat % 64
  let wid := fun (e : Env) => (B e).toNat / 64 % 64 + 1
  let fld := fun (e : Env) => (A e).toNat / 2 ^ pos e % 2 ^ wid e
  R (.and m sd sa b) (opLits b) (fun e => A e &&& B e) ∧
  R (.or m sd sa b) (opLits b) (fun e => A e ||| B e) ∧
  R (.xor m sd sa b) (opLits b) (fun e => A e ^^^ B e) ∧
  R (.andn m sd sa b) (opLits b) (fun e => A e &&& ~~~(B e)) ∧
  R (.shl m sd sa b) (opLits b) (fun e => BitVec.ofNat 64 ((A e).toNat * 2 ^ pos e)) ∧
  R (.shr m sd sa b) (opLits b) (fun e => BitVec.ofNat 64 ((A e).toNat / 2 ^ pos e)) ∧
  R (.sar m sd sa b) (opLits b) (fun e => BitVec.ofInt 64 ((A e).toInt / 2 ^ pos e)) ∧
  R (.min m sd sa b) (opLits b) (fun e => if (A e).toInt < (B e).toInt then A e else B e) ∧
  R (.minn m sd sa b) (opLits b) (fun e => if (A e).toNat < (B e).toNat then A e else B e) ∧
  R (.max m sd sa b) (opLits b) (fun e => if (A e).toInt < (B e).toInt then B e else A e) ∧
  R (.maxn m sd sa b) (opLits b) (fun e => if (A e).toNat < (B e).toNat then B e else A e) ∧
  R (.clz m sd sa) 0 (fun e => BitVec.ofNat 64 (if A e = 0 then 64 else 63 - Nat.log2 (A e).toNat)) ∧
  R (.popc m sd sa) 0 (fun e => BitVec.ofNat 64 (∑ i ∈ Finset.range 64, ((A e).getLsbD i).toNat)) ∧
  R (.bfxn m sd sa b) (opLits b) (fun e => BitVec.ofNat 64 (fld e)) ∧
  R (.bfx m sd sa b) (opLits b) (fun e => BitVec.ofInt 64 (if fld e < 2 ^ (wid e - 1) then (fld e : Int)
    else (fld e : Int) - 2 ^ wid e)) ∧
  R (.bfi m sd sa b) (opLits b) (fun e =>
    let mask := (BitVec.allOnes 64 <<< pos e) &&& ~~~(BitVec.allOnes 64 <<< (pos e + wid e))
    (e.c.readS sd.toNat &&& ~~~mask) ||| ((A e <<< pos e) &&& mask)) ∧
  R (.li m sd b) (opLits b) B ∧
  R (.sel m sd t sa) 0 (fun e => if e.c.test t then A e else e.c.readS sd.toNat))

/-- 06 R174, R175: comparisons and logic write one condition bit at t + 1; QGET and QSET move all of them.
02 R52 to R54, 06 R176, R178, R179: SGET samples a special register and lands at t + 2; SSET is in effect from
t + 1; the witness forms move and merge witnesses, as R178's merge does. That a merge writes null as 0, and a failed
witness with scope 1 where its scope is 0, is the model's reading of R187 (log 22).
The forms run as bundles of one form, which is the model's choice (log 16). -/
def Obligations.ScalarConditions : Prop :=
  (∀ (m : Mask) (qd : BitVec 5) (sd sa ta tb : BitVec 6) (b : SOp),
  let R := fun (i : Instr) (lits : Nat) (v : Env → Bool) =>
    Commits i lits .s (m.getLsbD 0) (fun e => [Pend.make (.q qd.toNat) 1 ((BitVec.ofBool (v e)).zeroExtend 2048)]) (fun _ => 1)
  let A := fun (e : Env) => e.c.readS sa.toNat
  let B := fun (e : Env) => opVal e.c b
  R (.ceq m qd sa b) (opLits b) (fun e => decide (A e = B e)) ∧
  R (.cne m qd sa b) (opLits b) (fun e => decide (A e ≠ B e)) ∧
  R (.clt m qd sa b) (opLits b) (fun e => decide ((A e).toInt < (B e).toInt)) ∧
  R (.cltn m qd sa b) (opLits b) (fun e => decide ((A e).toNat < (B e).toNat)) ∧
  R (.cle m qd sa b) (opLits b) (fun e => decide ((A e).toInt ≤ (B e).toInt)) ∧
  R (.clen m qd sa b) (opLits b) (fun e => decide ((A e).toNat ≤ (B e).toNat)) ∧
  R (.qand m qd ta tb) 0 (fun e => e.c.test ta && e.c.test tb) ∧
  R (.qor m qd ta tb) 0 (fun e => e.c.test ta || e.c.test tb) ∧
  R (.qxor m qd ta tb) 0 (fun e => xor (e.c.test ta) (e.c.test tb)) ∧
  Commits (.qget m sd) 0 .s (m.getLsbD 0) (fun e => scalarPend sd.toNat 1 ((e.c.q ||| 1).zeroExtend 64)) (fun _ => 1) ∧
  Commits (.qset m sa) 0 .s (m.getLsbD 0)
    (fun e => (List.range 31).map fun i =>
      Pend.make (.q (i + 1)) 1 ((BitVec.ofBool ((A e).getLsbD (i + 1))).zeroExtend 2048)) (fun _ => 1)) ∧
  (∀ (m : Mask) (sd sa i : BitVec 6) (wd wa wb : BitVec 4),
  Commits (.sget m sd i) 0 .s (m.getLsbD 0) (fun e => scalarPend sd.toNat 2 (specialGet e.a e.c i.toNat)) (fun _ => 1) ∧
  Commits (.sset m i sa) 0 .s (m.getLsbD 0) (fun _ => []) (fun _ => 1)
    (ok := fun e => i.toNat ≠ 11 ∧ i.toNat ≠ 12 ∧ (i.toNat = 9 ∨ i.toNat = 10 → e.c.inFooting = false))
    (post := fun e s => s.onCtx e.a (specialSet i.toNat (e.c.readS sa.toNat))) ∧
  Commits (.wjoin m wd wa wb) 0 .s (m.getLsbD 0)
    (fun e => witPend wd.toNat 1 (witMerge (e.c.readW wa.toNat) (e.c.readW wb.toNat))) (fun _ => 1) ∧
  Commits (.wtos m sd wa) 0 .s (m.getLsbD 0) (fun e => scalarPend sd.toNat 1 (e.c.readW wa.toNat)) (fun _ => 1) ∧
  Commits (.stow m wd sa) 0 .s (m.getLsbD 0) (fun e => witPend wd.toNat 1 (e.c.readS sa.toNat)) (fun _ => 1) ∧
  ∀ x y : W64,
    let form := fun (w : W64) => w.toNat / 2 ^ 62
    let scope := fun (w : W64) => w.toNat / 2 ^ 59 % 2 ^ 3
    let dom := fun (w : W64) => w.toNat / 2 ^ 53 % 2 ^ 6
    let epoch := fun (w : W64) => w.toNat / 2 ^ 31 % 2 ^ 22
    let agent := fun (w : W64) => w.toNat / 2 ^ 21 % 2 ^ 10
    let seq := fun (w : W64) => w.toNat % 2 ^ 21
    let later := fun (n u v : Nat) => 1 ≤ ((u : Int) - v) % 2 ^ n ∧ ((u : Int) - v) % 2 ^ n < 2 ^ (n - 1)
    let is := fun (w : W64) (f s d ep ag sq : Nat) =>
      form w = f ∧ scope w = s ∧ dom w = d ∧ epoch w = ep ∧ agent w = ag ∧ seq w = sq
    let failed := fun (w : W64) => is (witMerge x y) 3 (max (scope w) 1) (dom w) (epoch w) (agent w) (seq w)
    let ep := if later 22 (epoch y) (epoch x) then epoch y else epoch x
    (form x = 0 → form y = 0 → witMerge x y = 0) ∧
    (form x = 0 → form y ≠ 0 → (form y ≠ 3 → witMerge x y = y) ∧ (form y = 3 → failed y)) ∧
    (form x ≠ 0 → form y = 0 → (form x ≠ 3 → witMerge x y = x) ∧ (form x = 3 → failed x)) ∧
    (form x ≠ 0 → form y ≠ 0 →
      (form x = 3 → failed x) ∧ (form x ≠ 3 → form y = 3 → failed y) ∧
      (form x ≠ 3 → form y ≠ 3 →
        (dom x ≠ dom y → failed x) ∧
        (dom x = dom y →
          (form x = 1 ∧ form y = 1 ∧ agent x = agent y →
            is (witMerge x y) 1 (max (scope x) (scope y)) (dom x) ep (agent x)
              (if later 21 (seq y) (seq x) then seq y else seq x)) ∧
          (¬ (form x = 1 ∧ form y = 1 ∧ agent x = agent y) →
            is (witMerge x y) 2 (max (max (scope x) (scope y)) 4) (dom x) ep 0 0)))))

/-- 06 R177: the FP32 forms of the S slot round the exact result once; comparisons write a condition bit; all land at
t + 4 with their events.
The forms run as bundles of one form, which is the model's choice (log 16). -/
def Obligations.ScalarFloat : Prop := ∀ (m : Mask) (qd : BitVec 5) (sd sa : BitVec 6) (b : SOp),
  let fl := fun (e : Env) (u : BitVec 32) => NFmt.f32.decode u.toNat 0 (fmtFlush e.c.fmt)
  let X := fun (e : Env) => fl e ((e.c.readS sa.toNat).truncate 32)
  let Y := fun (e : Env) => fl e (opFloat e.c b)
  let D := fun (e : Env) => fl e ((e.c.readS sd.toNat).truncate 32)
  let evs := fun (l : List (FVal × Bool)) => if l.any (·.2) then ev 6 else 0
  let put := fun (e : Env) (r : Nat × Nat) =>
    (scalarPend sd.toNat 4 (BitVec.ofNat 64 r.1)).map fun p => p.withEvents e engScalar [r.2]
  let R := fun (i : Instr) (op : Nat → FVal → FVal → FVal) =>
    Commits i (opLits b) .s (m.getLsbD 0) (fun e =>
      let r := NFmt.f32.finish 0 (fmtVrnd e.c.fmt) false [(X e).1, (Y e).1] (op (fmtVrnd e.c.fmt) (X e).1 (Y e).1)
      put e (r.1, r.2 ||| evs [X e, Y e])) (fun _ => 2)
  let C := fun (i : Instr) (op : FVal → FVal → Bool) =>
    Commits i (opLits b) .s (m.getLsbD 0) (fun e =>
      [(condPend qd.toNat 4 (op (X e).1 (Y e).1)).withEvents e engScalar
        [cmpEvents (X e).1 (Y e).1 ||| evs [X e, Y e]]]) (fun _ => 2)
  R (.fadd m sd sa b) (fun md => FVal.add md) ∧ R (.fsub m sd sa b) (fun md => FVal.sub md) ∧
  R (.fmul m sd sa b) (fun _ => FVal.mul) ∧ R (.fmin m sd sa b) (fun _ => FVal.min) ∧
  R (.fmax m sd sa b) (fun _ => FVal.max) ∧
  C (.fclt m qd sa b) fLt ∧ C (.fceq m qd sa b) fEq ∧
  Commits (.ffma m sd sa b) (opLits b) .s (m.getLsbD 0) (fun e =>
    let ins := if (FVal.mul (X e).1 (Y e).1).isNan then [(X e).1, (Y e).1] else [(X e).1, (Y e).1, (D e).1]
    let r := NFmt.f32.finish 0 (fmtVrnd e.c.fmt) false ins (FVal.fma (fmtVrnd e.c.fmt) (X e).1 (Y e).1 (D e).1)
    put e (r.1, r.2 ||| evs [X e, Y e, D e] ||| (if (D e).1.isNan then ev 1 else 0))) (fun _ => 2) ∧
  Commits (.ftoi m sd sa) 0 .s (m.getLsbD 0) (fun e =>
    let r := (NFmt.int 64 true).finish 0 (fmtVrnd e.c.fmt) false [(X e).1] (X e).1
    put e (r.1, r.2 ||| evs [X e])) (fun _ => 2) ∧
  Commits (.itof m sd sa) 0 .s (m.getLsbD 0) (fun e =>
    let x := FVal.ofInt (e.c.readS sa.toNat).toInt 0
    put e (NFmt.f32.finish 0 (fmtVrnd e.c.fmt) (fmtSat e.c.fmt) [x] x)) (fun _ => 2)

/-- 02 R53, R54: a write of the energy counter's registers is a PROTECTION trap with auxiliary word 3; a write of the
footing's base or length while a tile lies in the footing is SPILL_FULL with auxiliary word 1.
02 R52 to R54: what a write of each special register leaves to read; bits that cannot be written are discarded,
tlimit and trise are clamped, and registers that take no write keep their values.
06 R156, 03 R85, R86: `FMTW` and `FMTS` write the whole of fmt, landing at t + 5; a value that R85 makes illegal
makes the bundle illegal at issue, with the C slot as offender: a must-be-zero bit set, vrnd from 4, intout from 5, or an
nfmt that is neither 0 nor a binary8 code with P not 0.
The forms run as bundles of one form, which is the model's choice (log 16). -/
def Obligations.SpecialRegisters : Prop :=
  (∀ (m : Mask) (i sa : BitVec 6),
  Traps (.sset m i sa) 0 .s (m.getLsbD 0) (fun _ => []) [] (fun _ => i.toNat = 11 ∨ i.toNat = 12)
    (fun e => { cause := 0x21, aux := 3, faddr := 0, unit := seqUnit e.a }) ∧
  Traps (.sset m i sa) 0 .s (m.getLsbD 0) (fun _ => []) []
    (fun e => (i.toNat = 9 ∨ i.toNat = 10) ∧ e.c.inFooting = true)
    (fun e => { cause := 0x12, aux := 1, faddr := 0, unit := seqUnit e.a })) ∧
  (
  (∀ (a : Nat) (c : Ctx) (v : W64),
  specialGet a (specialSet 1 v c) 1 = v ∧
  specialGet a (specialSet 2 v c) 2 = (v &&& ~~~(0x3FF : W64)) ||| BitVec.ofNat 64 a ∧
  (specialGet a (specialSet 5 v c) 5).toNat = min 4096 (max v.toNat (max c.stack.length 1)) ∧
  (specialGet a (specialSet 6 v c) 6).toNat = min 32 v.toNat ∧
  specialGet a (specialSet 9 v c) 9 = v &&& 0x01FF_FFFF_FFFF_0000 ∧
  specialGet a (specialSet 10 v c) 10 = v &&& ~~~(0x7FF : W64) ∧
  specialGet a (specialSet 13 v c) 13 = v ∧
  specialGet a (specialSet 14 v c) 14 = v ∧
  specialGet a (specialSet 15 v c) 15 = v &&& ~~~(0x3F : W64) ∧
  specialGet a (specialSet 16 v c) 16 = v ∧
  (∀ i j, i ≠ j → specialGet a (specialSet i v c) j = specialGet a c j) ∧
  (∀ i, i ∈ [0, 3, 4, 7, 8, 11, 12, 17] ∨ 17 < i → specialSet i v c = c)) ∧
  (∀ (low : BitVec 32) (mask : BitVec 16) (sa : BitVec 6),
  let writes := fun (i : Instr) (lits : Nat) (v : Env → W64) =>
    Commits i lits .c true (fun e => [Pend.make .fmt 5 ((v e).zeroExtend 2048)]) (fun _ => 1)
      (ok := fun e => fmtIllegal (v e) = false) ∧
    ∀ (s : State) (e : Env), s.issuing lits = some e → fmtIllegal (v e) = true →
      exec i s = .next (bundleFault e 0x01 0 0x20)
  writes (.fmtw low mask) 1 (fun _ => BitVec.ofNat 64 (mask.toNat * 2 ^ 32 + low.toNat)) ∧
  writes (.fmts sa) 0 (fun e => e.c.readS sa.toNat) ∧
  ∀ v : W64,
    let nfmt := v.toNat / 2 ^ 4 % 2 ^ 6
    fmtIllegal v = true ↔ v.toNat / 2 ^ 24 % 2 ^ 8 ≠ 0 ∨ v.toNat / 2 ^ 48 ≠ 0 ∨ 4 ≤ v.toNat % 2 ^ 3 ∨
      5 ≤ v.toNat / 2 ^ 21 % 2 ^ 3 ∨ (nfmt ≠ 0 ∧ (nfmt / 2 ^ 5 = 0 ∨ nfmt % 2 ^ 3 = 0))))

/-- 06 R146, R148, R150, 05 R115, R123: a jump, a call or a return goes to its target when the target's segment can be
read and the unit is a legal target; `CALL` sets lk to the sequential position from t + 1. A target that is not legal is
ILLEGAL_TARGET with the target as auxiliary word, a segment that cannot be read its own cause, and while the segment is
not there the bundle is held.
06 R148, 05 R115, R123, Table 5-4: `BR` takes one of five leaves from its tests as they read at t. Leaf 5 and a
fall-through leaf continue in sequence; a direct, an indirect and a call leaf go to their targets as `JMP`, a register and
`CALL` do. A taken leaf whose target's segment cannot be fetched faults with that fault's cause and commits nothing, and
while the segment is not there the bundle is held.
The forms run as bundles of one form, which is the model's choice (log 16). -/
def Obligations.JumpsAndBranches : Prop :=
  (∀ (d : BitVec 32),
  let go := fun (i : Instr) (lits : Nat) (w : Env → W64) (post : Env → State → State) =>
    let T := fun (e : Env) => CodePos.ofWord (w e)
    let top := fun (e : Env) => (w e).extractLsb' 60 4
    Commits i lits .c true (fun _ => []) (fun _ => 1)
      (ok := fun e => top e = 0 ∧ ∃ s1, e.s.target e.a (T e) = .ok s1 true)
      (act := fun e s => e.fetched (T e) s) (post := post) (nx := fun e => .jump (T e)) ∧
    Traps i lits .c true (fun _ => []) [] (fun e => top e ≠ 0 ∨ ∃ s1, e.s.target e.a (T e) = .ok s1 false)
      (fun e => { cause := 0x05, aux := w e, faddr := 0, unit := seqUnit e.a }) ∧
    (∀ f : MFault, Traps i lits .c true (fun _ => []) [] (fun e => top e = 0 ∧ e.s.target e.a (T e) = .fault f)
      (fun _ => memFault f)) ∧
    Holds i lits (fun e => top e = 0 ∧ e.s.target e.a (T e) = .wait)
  let direct := fun (e : Env) => BitVec.ofInt 64 ((e.half.seg / 128 + (d.extractLsb' 10 22).toInt) % 2 ^ 50 * 2 ^ 10 +
    (d.extractLsb' 0 10).toNat)
  (∀ e : Env, e.half.seg % 128 = 0 → e.half.seg < 2 ^ 57 → (directTarget e d).toWord = direct e) ∧
  go (.jmp d) 2 (fun e => (directTarget e d).toWord) (fun _ => id) ∧
  go (.call d) 2 (fun e => (directTarget e d).toWord) (fun e s => s.onCtx e.a fun c => { c with lk := e.seqPos.toWord }) ∧
  go .ret 0 (fun e => e.c.lk) (fun _ => id)) ∧
  (∀ (sh : BitVec 4) (ta tb tc td : BitVec 6) (l1 l2 l3 l4 : Leaf),
  let i : Instr := .br sh ta tb tc td l1 l2 l3 l4
  let lits := leafLits l1 + leafLits l2 + leafLits l3 + leafLits l4
  let leaf := fun (e : Env) =>
    let a := e.c.test ta
    let b := e.c.test tb
    let c := e.c.test tc
    let d := e.c.test td
    match sh.toNat with
    | 0 => if a then 1 else (if b then 2 else (if c then 3 else (if d then 4 else 5)))
    | 1 => if a then 1 else (if b then 2 else (if c then (if d then 3 else 4) else 5))
    | 2 => if a then 1 else (if b then (if c then 2 else 3) else (if d then 4 else 5))
    | 3 => if a then 1 else (if b then (if c then 2 else (if d then 3 else 4)) else 5)
    | 4 => if a then 1 else (if b then (if c then (if d then 2 else 3) else 4) else 5)
    | 5 => if a then (if b then 1 else 2) else (if c then 3 else (if d then 4 else 5))
    | 6 => if a then (if b then 1 else 2) else (if c then (if d then 3 else 4) else 5)
    | 7 => if a then (if b then 1 else (if c then 2 else 3)) else (if d then 4 else 5)
    | 8 => if a then (if b then (if c then 1 else 2) else 3) else (if d then 4 else 5)
    | 9 => if a then (if b then 1 else (if c then 2 else (if d then 3 else 4))) else 5
    | 10 => if a then (if b then 1 else (if c then (if d then 2 else 3) else 4)) else 5
    | 11 => if a then (if b then (if c then 1 else 2) else (if d then 3 else 4)) else 5
    | 12 => if a then (if b then (if c then 1 else (if d then 2 else 3)) else 4) else 5
    | _ => if a then (if b then (if c then (if d then 1 else 2) else 3) else 4) else 5
  let taken := fun (e : Env) => (([l1, l2, l3, l4] : List Leaf)[leaf e - 1]?).getD .fall
  let go := fun (w : Env → W64) (post : Env → State → State) (sel : Env → Prop) =>
    Commits i lits .c true (fun _ => []) (fun _ => 1)
      (ok := fun e => sel e ∧ (w e).extractLsb' 60 4 = 0 ∧ ∃ s1, e.s.target e.a (CodePos.ofWord (w e)) = .ok s1 true)
      (act := fun e s => e.fetched (CodePos.ofWord (w e)) s) (post := post) (nx := fun e => .jump (CodePos.ofWord (w e))) ∧
    Traps i lits .c true (fun _ => []) []
      (fun e => sel e ∧ ((w e).extractLsb' 60 4 ≠ 0 ∨ ∃ s1, e.s.target e.a (CodePos.ofWord (w e)) = .ok s1 false))
      (fun e => { cause := 0x05, aux := w e, faddr := 0, unit := seqUnit e.a }) ∧
    (∀ f : MFault, Traps i lits .c true (fun _ => []) []
      (fun e => sel e ∧ (w e).extractLsb' 60 4 = 0 ∧ e.s.target e.a (CodePos.ofWord (w e)) = .fault f) (fun _ => memFault f)) ∧
    Holds i lits (fun e => sel e ∧ (w e).extractLsb' 60 4 = 0 ∧ e.s.target e.a (CodePos.ofWord (w e)) = .wait)
  Commits i lits .c true (fun _ => []) (fun _ => 1) (ok := fun e => taken e = .fall) ∧
  (∀ d, go (fun e => (directTarget e d).toWord) (fun _ => id) (fun e => taken e = .direct d)) ∧
  (∀ r, go (fun e => e.c.readS r.toNat) (fun _ => id) (fun e => taken e = .indirect r)) ∧
  (∀ d, go (fun e => (directTarget e d).toWord) (fun e s => s.onCtx e.a fun c => { c with lk := e.seqPos.toWord })
    (fun e => taken e = .call d)))

/-- 06 R152 to R155: `LOOP` and `LOOPS` open a loop whose end is a bundle reference or a repeat group of the segment
reached by following next, a defective one too; a count of 0 continues after the end; a seventh loop is LOOP_OVERFLOW; `LBREAK` closes the
innermost loop and continues after its end, and without one is LOOP_UNDERFLOW. That the auxiliary word is the end unit
in the bundle's own segment where the chain ends early, that the reference inside a repeat group is no end position, and that
a defective reference is one, are choices of the model (log 30).
The forms run as bundles of one form, which is the model's choice (log 16). -/
def Obligations.LoopForms : Prop := ∀ (chain : BitVec 12) (n : BitVec 20) (sa : BitVec 6) (u : BitVec 10),
  let opens := fun (i : Instr) (lits : Nat) (cnt : Env → W64) =>
    let full := fun (e : Env) => 6 ≤ e.c.loops.length
    (∀ (h : Half) (r : Role), Commits i lits .c true (fun _ => []) (fun _ => 1)
      (ok := fun e => ¬ full e ∧ (∃ s1, e.s.chain e.a chain.toNat e.half = .ok s1 (some h)) ∧ h.item u.toNat = some r ∧
        (match r with
          | .ref _ _ => True
          | .group _ _ _ _ => True
          | .bad _ (some _) => True
          | _ => False) ∧ ¬ (chain = 0 ∧ u.toNat < e.groupEnd))
      (nx := fun e => .open (cnt e) ⟨h.seg, u.toNat⟩ (h.after (u.toNat + r.len)))) ∧
    Traps i lits .c true (fun _ => []) [] full (fun e => { cause := 0x07, aux := 0, faddr := 0, unit := seqUnit e.a }) ∧
    Traps i lits .c true (fun _ => []) [] (fun e => ¬ full e ∧ ∃ s1, e.s.chain e.a chain.toNat e.half = .ok s1 none)
      (fun e => { cause := 0x05, aux := CodePos.toWord ⟨e.half.seg, u.toNat⟩, faddr := 0, unit := seqUnit e.a }) ∧
    (∀ h : Half, Traps i lits .c true (fun _ => []) []
      (fun e => ¬ full e ∧ (∃ s1, e.s.chain e.a chain.toNat e.half = .ok s1 (some h)) ∧
        ((chain = 0 ∧ u.toNat < e.groupEnd) ∨ h.item u.toNat = none ∨ (∃ l, h.item u.toNat = some (.bad l none)) ∨ h.item u.toNat = some .segEnd))
      (fun e => { cause := 0x05, aux := CodePos.toWord ⟨h.seg, u.toNat⟩, faddr := 0, unit := seqUnit e.a })) ∧
    Holds i lits (fun e => ¬ full e ∧ e.s.chain e.a chain.toNat e.half = .wait)
  opens (.loop chain n u) 1 (fun _ => BitVec.ofNat 64 n.toNat) ∧
  opens (.loops chain sa u) 1 (fun e => e.c.readS sa.toNat) ∧
  (∀ (l : LoopEntry) (h : Half), Commits .lbreak 0 .c true (fun _ => []) (fun _ => 1)
    (ok := fun e => e.c.loops.head? = some l ∧ ∃ s1, e.s.segment e.a l.endp.seg = .ok s1 h)
    (act := fun e s => e.fetched l.endp s)
    (nx := fun _ => .breakTo (h.after (l.endp.unit + ((h.item l.endp.unit).map Role.len).getD 1)))) ∧
  Traps .lbreak 0 .c true (fun _ => []) [] (fun e => e.c.loops = [])
    (fun e => { cause := 0x08, aux := 0, faddr := 0, unit := seqUnit e.a })

/-- 06 R146, R154, 05 R126: where issue goes next. At a loop's end position the innermost loop whose end it is starts its next
iteration, or is closed, and the next loop out is looked at; an opened loop of count 0 is left out. A bundle that is
repeated makes its step after its last repetition, and until then its position and the loop stack stand. In repetition k of a
repeat group each stepped field is the field as stored and k times its step: `VD`, `VA` and `VB` of the V slot, `VR` of the M
slot, in its low six bits alone where it names a scalar register, and `A` of the T slot; a slot that is empty as stored stays
so, and every other field and slot stands; the repetition is legal when each of them stays in its range. -/
def Obligations.NextPosition : Prop := ∀ (p q seq endp after body : CodePos) (ls : List LoopEntry) (c k : W64),
  nextPos p seq (.jump q) ls = (q, ls) ∧
  nextPos p seq (.open 0 endp after) ls = (after, ls) ∧
  (c ≠ 0 → nextPos p seq (.open c endp after) ls = (seq, ⟨c, 0, seq, endp⟩ :: ls)) ∧
  (∀ l, nextPos p seq (.breakTo q) (l :: ls) = (q, ls)) ∧
  nextPos p seq .sequential [] = (seq, []) ∧
  (endp ≠ p → nextPos p seq .sequential (⟨c, k, body, endp⟩ :: ls) = (seq, ⟨c, k, body, endp⟩ :: ls)) ∧
  (k.toNat + 1 < c.toNat → nextPos endp seq .sequential (⟨c, k, body, endp⟩ :: ls) = (body, ⟨c, k + 1, body, endp⟩ :: ls)) ∧
  (c.toNat ≤ k.toNat + 1 → k.toNat + 1 < 2 ^ 64 →
    nextPos endp seq .sequential (⟨c, k, body, endp⟩ :: ls) = nextPos endp seq .sequential ls) ∧
  (∀ (e : Env) (new : List Pend) (energy : Nat) (np : CodePos × List LoopEntry) (x : Ctx),
    let d := commitCtx e new energy np x
    (e.repK + 1 < e.repN → d.pc = x.pc ∧ d.loops = x.loops ∧ d.rep = x.rep.map fun r => { r with k := r.k + 1 }) ∧
    (e.repN ≤ e.repK + 1 → d.pc = np.1 ∧ d.loops = np.2 ∧ d.rep = none)) ∧
  (∀ (w : BundleWord) (st : Unit16) (k : Nat),
    let r := stepWord w st k
    let step := fun (lo : Nat) => (st.extractLsb' lo 3).toInt * k
    let v := w.slotV
    let m := w.slotM
    let t := w.slotT
    let op := m.op.toNat
    let scalar := op < 4 ∨ (10 ≤ op ∧ op ≤ 18) ∨ (20 ≤ op ∧ op ≤ 24) ∨ op = 26 ∨ op = 28
    let vr := if scalar then m.vr.extractLsb' 6 4 ++ BitVec.ofInt 6 ((m.vr.toNat % 64 : Nat) + step 3)
      else BitVec.ofInt 10 (m.vr.toNat + step 3)
    let fits := fun (x : Int) (n : Nat) => 0 ≤ x ∧ x < 2 ^ n
    r.1.header = w.header ∧ r.1.slotC = w.slotC ∧ r.1.slotS = w.slotS ∧ r.1.slotX = w.slotX ∧
    r.1.slotV = (if v.mask = 0 then v else { v with
      vd := BitVec.ofInt 10 (v.vd.toNat + step 12), va := BitVec.ofInt 10 (v.va.toNat + step 9)
      vb := BitVec.ofInt 10 (v.vb.toNat + step 6) }) ∧
    r.1.slotM = (if m.mask = 0 then m else { m with vr := vr }) ∧
    r.1.slotT = (if t.mask = 0 then t else { t with a := BitVec.ofInt 8 (t.a.toNat + step 0) }) ∧
    (r.2 = true ↔
      (v.mask ≠ 0 → fits (v.vd.toNat + step 12) 10 ∧ fits (v.va.toNat + step 9) 10 ∧ fits (v.vb.toNat + step 6) 10) ∧
      (m.mask ≠ 0 → if scalar then fits ((m.vr.toNat % 64 : Nat) + step 3) 6 else fits (m.vr.toNat + step 3) 10) ∧
      (t.mask ≠ 0 → fits (t.a.toNat + step 0) 8)))

/-- 06 R157 to R162, R167: `TWAIT` holds until every operation that its stream issued is complete (inside a handler an
interrupted stream's operation that has a fault is not waited for: log 35); `WWAIT` until its witness is
satisfied, and faults on a bad one; `SBAR` arrives once, the first and the last of a gang barrier noted by their names, and holds until it is released, when the merged witness lands at
t + 1; `STATF` drains records until none is left and each is performed, one that a trap has kept apart (log 35); `YIELD`
commits and is passed over until every other context of its core that is ready has issued.
The forms run as bundles of one form, which is the model's choice (log 16). -/
def Obligations.WaitForms : Prop := ∀ (w : BitVec 4) (gang : Bool) (b : BitVec 2) (wv : W64),
  let done := fun (e : Env) => ∀ o ∈ e.c.window, o.status = .done ∨ (o.hasFault = true ∧ e.c.foreign o = true)
  let drained := fun (e : Env) => e.c.statq = [] ∧
    ∀ x ∈ e.s.accs, x.cid = e.c.cid → x.level = 0 → x.kept = false → ∀ r n, x.kind ≠ .stat r n
  Commits .twait 0 .c true (fun _ => []) (fun _ => 1) (ok := done) ∧ Holds .twait 0 (fun e => ¬ done e) ∧
  Commits (.wwait w) 0 .c true (fun _ => []) (fun _ => 1)
    (ok := fun e => e.s.witCheck e.a e.c.pd.toNat (e.c.readW w.toNat) = .satisfied) ∧
  Holds (.wwait w) 0 (fun e => e.s.witCheck e.a e.c.pd.toNat (e.c.readW w.toNat) = .waiting) ∧
  (∀ k, Traps (.wwait w) 0 .c true (fun _ => []) []
    (fun e => e.s.witCheck e.a e.c.pd.toNat (e.c.readW w.toNat) = .fault k)
    (fun e => { cause := k, aux := e.c.readW w.toNat, faddr := 0, unit := seqUnit e.a })) ∧
  Commits (.sbar w gang b) 0 .c true (fun _ => witPend w.toNat 1 wv) (fun _ => 1)
    (ok := fun e => e.c.released = some wv)
    (act := fun e s => s.onCtx e.a fun c => { c with released := none, arrived := none }) ∧
  Holds (.sbar w gang b) 0 (fun e => e.c.released = none ∧ e.c.arrived.isSome) ∧
  Holds (.sbar w false b) 0 (fun e => e.c.released = none ∧ e.c.arrived = none)
    (fun e s => s.onCtx e.a fun c => { c with arrived := some (false, b.toNat, c.readW w.toNat) }) ∧
  Holds (.sbar w true b) 0 (fun e => e.c.released = none ∧ e.c.arrived = none)
    (fun e s => (s.onCtx e.a fun c => { c with arrived := some (true, b.toNat, c.readW w.toNat) }).onInst e.c.task e.c.inst
      fun g => { g with
        first := if (AL.find g.first b.toNat).isSome then g.first else AL.put g.first b.toNat e.c.cid
        last := AL.put g.last b.toNat e.c.cid }) ∧
  Commits .statf 0 .c true (fun _ => []) (fun _ => 1) (ok := drained) ∧
  Holds .statf 0 (fun e => ¬ drained e) (fun e s => s.drainStat e.a) ∧
  Commits .yield 0 .c true (fun _ => []) (fun _ => 1)
    (act := fun e s => s.onCtx e.a fun c => { c with
      yieldPass := true, yieldAt := e.s.cycle
      yieldSeen := [] })

/-- 06 R163, R165, R166, 05 R132, R133: `TRAP` commits its bundle and then takes trap cause 0x40 with n, resuming at the
next position; `BRK` the same with cause 0x41 when no debugger is attached to its domain; `EXIT` commits once its results
and its other operations are done, and then ends the context (in a handler it does not wait for an interrupted stream's
operation that has a fault: log 35); `TRET` commits with no results in flight and every
operation of the handler done, and then returns; until they are done it is held, and also while an operation to be replayed
would fault and the segment of the handler is not there yet; with a result in flight or outside a
handler it is illegal. That a `BRK` whose domain has a debugger attached only commits and goes on is the model's reading
(log 15).
The forms run as bundles of one form, which is the model's choice (log 16). -/
def Obligations.TrapAndExitForms : Prop := ∀ (n : BitVec 16) (s : State) (e : Env), s.issuing 0 = some e →
  e.room .c [] [] = true →
  let base := e.commits .c [] 1
  let taken := fun (cause : Nat) =>
    let info : TrapInfo := { cause := cause, aux := BitVec.ofNat 64 n.toNat, slots := 0x20, unit := seqUnit e.a }
    match base.ctx e.a with
    | none => base
    | some c4 => (base.setCtx e.a { c4 with pendTrap := some (info, e.pos, e.c.tick) }).takeTrap e.a
        ⟨info, e.pos, c4.pc, e.c.tick, base.keptFlags c4, 0, 0, 0⟩ [] false
  let finished := ∀ o ∈ e.c.window, o.status = .done ∨ (o.hasFault = true ∧ e.c.foreign o = true) ∨ exitSkips o.form = true
  exec (.trap n) s = .next (taken 0x40) ∧
  (e.c.pd.toNat ∉ e.s.debugger → exec (.brk n) s = .next (taken 0x41)) ∧
  (e.c.pd.toNat ∈ e.s.debugger → exec (.brk n) s = .next base) ∧
  ((∀ p ∈ e.c.pend, p.ready = true) → finished → exec .exit s = .next ((e.commits .c [] 1 (nx := .exits)).exitCtx e.a)) ∧
  (¬ ((∀ p ∈ e.c.pend, p.ready = true) ∧ finished) → exec .exit s = .next (e.s.onCtx e.a fun c => { c with held := true })) ∧
  let own := ∀ o ∈ e.c.window, o.status = .done ∨ e.c.foreign o = true
  (∀ k, e.c.capture = some k → (k.pend.filter Pend.real).length ≤ 64 → e.c.pend = [] →
    (own → e.tretWaits = false →
      exec .tret s = .next (e.commits .c [] 1 (post := fun s => s.finishReturn e.a) (nx := .returns))) ∧
    (¬ own ∨ e.tretWaits = true → exec .tret s = .next (e.s.onCtx e.a fun c => { c with held := true }))) ∧
  (e.c.capture = none ∨ (∃ p ∈ e.c.pend, p.real = true) → exec .tret s = .next (bundleFault e 0x01 0 0x20))

/-- 06 R168, R177, 07 R182: operand B of the S slot, and the computed address and base update of each address mode. -/
def Obligations.OperandForms : Prop := ∀ (c : Ctx) (r : BitVec 6) (l16 : BitVec 16) (l32 : BitVec 32) (size : Nat),
  let b := c.readS r.toNat
  opVal c (.reg r) = b ∧
  (opVal c (.imm r)).toNat = r.toNat ∧
  (opVal c (.lit16 l16)).toInt = l16.toInt ∧
  (opVal c (.lit32 l32)).toInt = l32.toInt ∧
  opFloat c (.lit16 l16) = BitVec.ofNat 32 (l16.toNat * 2 ^ 16) ∧
  opFloat c (.lit32 l32) = l32 ∧
  opFloat c (.reg r) = b.truncate 32 ∧
  addrOf c ⟨r, .base⟩ size = b ∧
  addrOf c ⟨r, .off16 l16⟩ size = BitVec.ofInt 64 (b.toInt + l16.toInt * size) ∧
  addrOf c ⟨r, .post16 l16⟩ size = b ∧
  addrOf c ⟨r, .off32 l32⟩ size = BitVec.ofInt 64 (b.toInt + l32.toInt) ∧
  (r ≠ 0 → basePend c ⟨r, .post16 l16⟩ size =
    some (Pend.make (.s r.toNat) 1 ((BitVec.ofInt 64 (b.toInt + l16.toInt * size)).zeroExtend 2048))) ∧
  basePend c ⟨0, .post16 l16⟩ size = none ∧
  (∀ mode, (∀ l, mode ≠ .post16 l) → basePend c ⟨r, mode⟩ size = none)

/-- 07 R183, R192, 02 R58: scalar loads and stores of global memory and of the scratchpad. A load starts an access and
its result waits for it; a store takes a sequence number and lands its witness at t + 1.
The forms run as bundles of one form, which is the model's choice (log 16). -/
def Obligations.ScalarAccesses : Prop := ∀ (q : MQual) (sx : Bool) (sz : BitVec 2) (r : BitVec 6) (a : MAddr),
  let n := 2 ^ sz.toNat
  let A := fun (e : Env) => addrOf e.c a n
  let B := fun (e : Env) => (basePend e.c a n).toList
  let W := fun (e : Env) => e.c.readW q.wit.toNat
  let global := fun (e : Env) => (A e).toNat < 2 ^ 57 ∧ (A e).toNat % n = 0
  let pad := fun (e : Env) => spFail e.c (A e) n = none ∧ (A e).toNat % n = 0
  let good := fun (e : Env) => e.s.witFault e.a e.c.pd.toNat (W e) = none
  let loads := fun (i : Instr) (sp : Bool) (lat : Env → Nat) (w : Nat) (ok : Env → Prop) =>
    Commits i (addrLits a.mode) .m (q.mask.getLsbD 0) (fun e => B e ++ waitScalar e r.toNat (lat e)) (fun _ => w)
      (ok := fun e => ok e ∧ good e)
      (act := fun e s => s.startAccess { e.access .load q sp (A e).toNat n with
        sx := sx, wit := W e, dest := if r = 0 then none else some (.s r.toNat) })
  let stores := fun (i : Instr) (sp : Bool) (w : Nat) (ok : Env → Prop) =>
    Commits i (addrLits a.mode) .m (q.mask.getLsbD 0)
      (fun e => B e ++ witPend q.wit.toNat 1 (e.outWit q.scope.toNat e.nextSeqNum)) (fun _ => w)
      (ok := fun e => ok e ∧ e.seqRoom)
      (act := fun e s => s.startSeq { e.access .store q sp (A e).toNat n with
        data := BitVec.ofNat 2048 ((e.c.readS r.toNat).toNat % 2 ^ (8 * n)) })
  let near := fun (e : Env) => if isOwn e.c (A e).toNat then 6 else 14
  loads (.ld q sx sz r a) false (fun _ => 40) 16 global ∧ loads (.ldp q sx sz r a) true near 4 pad ∧
  stores (.st q sz r a) false 16 global ∧ stores (.stp q sz r a) true 4 pad

/-- 07 R194, R195: vector loads and stores move 256 bytes under a predicate of byte lanes; a gather and a scatter move
the elements of the scratchpad that their index vector names, in ascending element order.
The forms run as bundles of one form, which is the model's choice (log 16). -/
def Obligations.VectorAccesses : Prop := ∀ (q : MQual) (vr : BitVec 10) (a : MAddr),
  let A := fun (e : Env) => addrOf e.c a 256
  let B := fun (e : Env) => (basePend e.c a 256).toList
  let W := fun (e : Env) => e.c.readW q.wit.toNat
  let P := fun (e : Env) => e.c.readP q.pred.toNat
  let global := fun (e : Env) => (A e).toNat < 2 ^ 57 ∧ (A e).toNat % 256 = 0
  let pad := fun (e : Env) => spFail e.c (A e) 256 = none ∧ (A e).toNat % 256 = 0
  let good := fun (e : Env) => e.s.witFault e.a e.c.pd.toNat (W e) = none
  let out := fun (e : Env) => witPend q.wit.toNat 1 (e.outWit q.scope.toNat e.nextSeqNum)
  let loads := fun (i : Instr) (sp : Bool) (lat : Env → Nat) (w : Nat) (ok : Env → Prop) =>
    Commits i (addrLits a.mode) .m (q.mask.getLsbD 0) (fun e => B e ++ [waitPend e (.v vr.toNat) (lat e) (P e)]) (fun _ => w)
      (ok := fun e => ok e ∧ good e)
      (act := fun e s => s.startAccess { e.access .load q sp (A e).toNat 256 with
        wit := W e, dest := some (.v vr.toNat), lanes := P e })
  let stores := fun (i : Instr) (sp : Bool) (w : Nat) (ok : Env → Prop) =>
    Commits i (addrLits a.mode) .m (q.mask.getLsbD 0) (fun e => B e ++ out e) (fun _ => w) (reads := [vr.toNat])
      (ok := fun e => ok e ∧ e.seqRoom)
      (act := fun e s => s.startSeq { e.access .store q sp (A e).toNat 256 with
        data := e.s.readV e.a vr.toNat, lanes := P e })
  let n := 2 ^ q.evict.toNat
  let G := fun (e : Env) => addrOf e.c a n
  let L := fun (e : Env) => e.gatherAddrs q vr.toNat (G e)
  let fits := fun (e : Env) => (∀ x ∈ L e, spCheck e x.2 n n = none) ∧ (G e).toNat % n = 0
  let lanes := fun (e : Env) => lanesFor n (e.preds n (256 / n) q.pred.toNat)
  loads (.vld q vr a) false (fun _ => 48) 192 global ∧
  loads (.vldp q vr a) true (fun e => if isOwn e.c (A e).toNat then 8 else 16) 32 pad ∧
  stores (.vst q vr a) false 192 global ∧ stores (.vstp q vr a) true 32 pad ∧
  Commits (.vgathp q vr a) (addrLits a.mode) .m (q.mask.getLsbD 0)
    (fun e => (basePend e.c a n).toList ++
      [waitPend e (.v vr.toNat) (if ∀ x ∈ L e, isOwn e.c x.2.toNat = true then 8 else 16) (lanes e)])
    (fun _ => 32) (reads := [vr.toNat + 1]) (ok := fun e => fits e ∧ good e)
    (act := fun e s => s.startAccess { e.access .load q true (G e).toNat n with
      parts := e.gatherParts n (L e), size := 256, wit := W e, dest := some (.v vr.toNat), lanes := lanes e }) ∧
  Commits (.vscatp q vr a) (addrLits a.mode) .m (q.mask.getLsbD 0) (fun e => (basePend e.c a n).toList ++ out e)
    (fun _ => 32) (reads := [vr.toNat, vr.toNat + 1]) (ok := fun e => fits e ∧ e.seqRoom)
    (act := fun e s => s.startSeq { e.access .store q true (G e).toNat n with
      parts := e.gatherParts n (L e), size := 256, data := e.s.readV e.a vr.toNat, lanes := lanes e })

/-- 07 R196, 04 R109: an atomic of global memory, or with predicate field 1 of the scratchpad, takes a sequence number; its
old value lands on sV when it arrives and its witness at t + 1. An `AFADD` on s0 keeps a result that only posts its
events where the statistics mask asks for them.
07 R197, R198, 03 R83, Table 7-5: the new value of an atomic of n bytes from its old value x, its operand v and its
replacement u. `AFADD` writes the FP32 encoding of the sum of the two FP32 values, rounded once under vrnd without
saturation, a subnormal operand read as zero of its sign when flush is set.
The forms run as bundles of one form, which is the model's choice (log 16). -/
def Obligations.AtomicForms : Prop :=
  (∀ (q : MQual) (sz : BitVec 2) (r : BitVec 6) (a : MAddr),
  let n := 2 ^ sz.toNat
  let A := fun (e : Env) => addrOf e.c a n
  let sp := q.pred.toNat == 1
  let lat := fun (e : Env) => if sp then (if isOwn e.c (A e).toNat then 8 else 16) else 48
  let R := fun (i : Instr) (op : Nat) =>
    Commits i (addrLits a.mode) .m (q.mask.getLsbD 0)
      (fun e => (basePend e.c a n).toList ++
        ((if r = 0 ∧ op = 7 ∧ fmtStatmask e.c.fmt ≠ 0 then [waitPend e .none (lat e) 0] else waitScalar e r.toNat (lat e)) ++
          witPend q.wit.toNat 1 (e.outWit q.scope.toNat e.nextSeqNum)))
      (fun _ => if sp then 4 else 24)
      (ok := fun e => (if sp then spFail e.c (A e) n = none else (A e).toNat < 2 ^ 57) ∧ (A e).toNat % n = 0 ∧ e.seqRoom)
      (act := fun e s => s.startSeq { e.access (.atomic op) q sp (A e).toNat n with
        data := (e.c.readS r.toNat).zeroExtend 2048, data2 := e.c.readS (r.toNat + 1)
        dest := if r = 0 then none else some (.s r.toNat) })
  R (.aadd q sz r a) 0 ∧ R (.amin q sz r a) 1 ∧ R (.aminn q sz r a) 2 ∧ R (.amax q sz r a) 3 ∧ R (.amaxn q sz r a) 4 ∧
  R (.aswp q sz r a) 5 ∧ R (.acas q sz r a) 6 ∧ R (.afadd q sz r a) 7) ∧
  (∀ (n x v u : Nat) (fmt : W64), (n = 4 ∨ n = 8) → x < 2 ^ (8 * n) → v < 2 ^ (8 * n) →
  u < 2 ^ (8 * n) →
  let sg := fun (y : Nat) => if y < 2 ^ (8 * n - 1) then (y : Int) else (y : Int) - 2 ^ (8 * n)
  atomicNew 0 n fmt x v u = ((x + v) % 2 ^ (8 * n), 0) ∧
  atomicNew 1 n fmt x v u = (if sg v < sg x then v else x, 0) ∧
  atomicNew 2 n fmt x v u = (if v < x then v else x, 0) ∧
  atomicNew 3 n fmt x v u = (if sg x < sg v then v else x, 0) ∧
  atomicNew 4 n fmt x v u = (if x < v then v else x, 0) ∧
  atomicNew 5 n fmt x v u = (v, 0) ∧
  atomicNew 6 n fmt x v u = (if x = v then u else x, 0) ∧
  (n = 4 →
    let F := NFmt.f32
    let rnd := (fmt.extractLsb' 0 3).toNat
    let flushed := fun (y : Nat) => fmt.getLsbD 20 = true ∧ y / 2 ^ 23 % 256 = 0 ∧ y % 2 ^ 23 ≠ 0
    let read := fun (y : Nat) => if flushed y then .fin (decide (2 ^ 31 ≤ y)) 0 0 else (F.decode y 0 false).1
    let r := F.round rnd false (FVal.add rnd (read x) (read v))
    (atomicNew 7 n fmt x v u).1 = F.encode r.val ∧
    (atomicNew 7 n fmt x v u).2 = (r.ev ||| (if read x = .nan ∨ read v = .nan then 2 ^ 1 else if r.val = .nan then 2 ^ 0 else 0)) |||
      (if flushed x ∨ flushed v then 2 ^ 6 else 0)))

/-- 07 R202 to R208, 13 R311: the forms on sync words. `SWINIT` and `SWARR` start their accesses under a sequence number; `SWPOLL`
reads; `SWWAIT` translates its word once, when its hold begins; it is held while an earlier access of its context to that
place is still to be performed, and while the generation equals its operand and it has not been released, and then lands
the generation and the witness.
The forms run as bundles of one form, which is the model's choice (log 16). -/
def Obligations.SyncForms : Prop := ∀ (q : MQual) (r : BitVec 6) (a : MAddr) (gen want : BitVec 32) (wit : W64) (k : Nat)
    (bs : List Byte) (s1 : State),
  let A := fun (e : Env) => addrOf e.c a 32
  let B := fun (e : Env) => (basePend e.c a 32).toList
  let sp := q.pred.toNat == 1
  let fits := fun (e : Env) => (if sp then spFail e.c (A e) 32 = none else (A e).toNat < 2 ^ 57) ∧ (A e).toNat % 32 = 0
  let early := fun (e : Env) => e.c.swKey = none ∧
    ∃ y ∈ e.s.accs, y.cid = e.c.cid ∧ y.level = 0 ∧ y.kept = false ∧
      y.meets (e.access .swpoll q sp (A e).toNat 32) = true
  let word := fun (e : Env) => match e.c.swKey with
    | some k => syncHeld e sp (A e).toNat k
    | none => syncWord e sp (A e).toNat
  Commits (.swinit q r a) (addrLits a.mode) .m (q.mask.getLsbD 0)
    (fun e => B e ++ witPend q.wit.toNat 1 (e.outWit q.scope.toNat e.nextSeqNum)) (fun _ => 16)
    (ok := fun e => fits e ∧ e.seqRoom)
    (act := fun e s => s.startSeq { e.access .swinit q sp (A e).toNat 32 with data := (e.c.readS r.toNat).zeroExtend 2048 }) ∧
  Commits (.swarr q r a) (addrLits a.mode) .m (q.mask.getLsbD 0) B (fun _ => 16) (ok := fun e => fits e ∧ e.seqRoom)
    (act := fun e s => s.startSeq { e.access .swarr q sp (A e).toNat 32 with
      data := (e.c.readS r.toNat).zeroExtend 2048, wit := e.c.readW q.wit.toNat, scope := 1 }) ∧
  Commits (.swpoll q r a) (addrLits a.mode) .m (q.mask.getLsbD 0)
    (fun e => B e ++ waitScalar e r.toNat (if sp then (if isOwn e.c (A e).toNat then 8 else 16) else 48)) (fun _ => 16)
    (ok := fits)
    (act := fun e s => s.startAccess { e.access .swpoll q sp (A e).toNat 32 with
      dest := if r = 0 then none else some (.s r.toNat) }) ∧
  Commits (.swwait q r a) (addrLits a.mode) .m (q.mask.getLsbD 0)
    (fun e => B e ++ (scalarPend r.toNat 2 (gen.zeroExtend 64) ++ witPend q.wit.toNat 2 wit)) (fun _ => 16)
    (ok := fun e => fits e ∧ ¬ early e ∧ word e = .ok s1 (k, bs) ∧ gen = BitVec.ofNat 32 (leNat (sliceBytes bs 8 4)) ∧
      ((e.c.swRel = some wit) ∨ (e.c.swRel = none ∧ gen ≠ (e.c.readS r.toNat).truncate 32 ∧
        wit = mkWit 2 4 e.c.pd.toNat (e.s.epoch % 2 ^ 22) 0 0)))
    (act := fun e s => ({ s with choices := s1.choices, l2 := s1.l2, l1 := s1.l1, mem := s1.mem } : State).onCtx e.a
      fun c => { c with swWait := none, swRel := none, swKey := none }) ∧
  (∀ (s : State) (e : Env), s.issuing (addrLits a.mode) = some e → q.mask.getLsbD 0 = true → e.room .m [] (B e) = true →
    fits e →
    (early e → exec (.swwait q r a) s = .next (e.s.onCtx e.a fun c => { c with held := true })) ∧
    (¬ early e → word e = .wait → exec (.swwait q r a) s = .next (e.s.onCtx e.a fun c => { c with held := true })) ∧
    (¬ early e → word e = .ok s1 (k, bs) → want = BitVec.ofNat 32 (leNat (sliceBytes bs 8 4)) →
      e.c.swRel = none → want = (e.c.readS r.toNat).truncate 32 →
      exec (.swwait q r a) s =
        .next ((({ e.s with choices := s1.choices, l2 := s1.l2, l1 := s1.l1, mem := s1.mem } : State).onCtx e.a fun c =>
          { c with swWait := some (k, want), swKey := some k }).onCtx e.a fun c => { c with held := true })))

/-- 07 R200, R201, R209 to R214: the other forms of the M slot: `WCHECK` gives 1, 0 or the cause, `WALL` the witness of
the last number, `LLOCK`, `LUNLOCK`, `XPLD` and `LAUNCH` start accesses, `RCFENCE` a drop, `PREF` fills a line with the priority of its field, at its
home and with scope 0 or 1 in the core's L1, `BTW` rewrites a bundle-table entry from t + 2. The answer to a witness is 13 R314's: the checks of
Table 13-3 in their order, and then 13 R313's satisfaction.
The forms run as bundles of one form, which is the model's choice (log 16). -/
def Obligations.OtherMemoryForms : Prop := ∀ (q : MQual) (r : BitVec 6) (xp : BitVec 3) (vr : BitVec 10) (a : MAddr),
  let taken := q.mask.getLsbD 0
  let lits := addrLits a.mode
  let B := fun (n : Nat) (e : Env) => (basePend e.c a n).toList
  let A := fun (n : Nat) (e : Env) => addrOf e.c a n
  let W := fun (e : Env) => e.c.readW q.wit.toNat
  let good := fun (e : Env) => e.s.witFault e.a e.c.pd.toNat (W e) = none
  let dst := if r = 0 then none else some (Reg.s r.toNat)
  (∀ k : Nat, Commits (.wcheck q r) 0 .m taken (fun _ => scalarPend r.toNat 2 (BitVec.ofNat 64 k)) (fun _ => 8)
    (ok := fun e => (match e.s.witCheck e.a e.c.pd.toNat (W e) with
      | .satisfied => 1
      | .waiting => 0
      | .fault c => c) = k)) ∧
  Commits (.wall q) 0 .m taken
    (fun e => witPend q.wit.toNat 1 (e.outWit q.scope.toNat (e.s.lastOf e.a e.c.pd.toNat))) (fun _ => 8) ∧
  Commits (.llock q r a) lits .m taken (fun e => B 1 e ++ waitScalar e r.toNat 48) (fun _ => 8)
    (ok := fun e => (A 1 e).toNat < 2 ^ 57)
    (act := fun e s => s.startAccess { e.access .llock q false (A 1 e).toNat 1 with dest := dst }) ∧
  Commits (.lunlock q a) lits .m taken (B 1) (fun _ => 8) (ok := fun e => (A 1 e).toNat < 2 ^ 57)
    (act := fun e s => s.startAccess (e.access .lunlock q false (A 1 e).toNat 1)) ∧
  Commits (.rcfence q r) 0 .m taken (fun _ => []) (fun _ => 8)
    (ok := fun e => good e ∧ e.seqRoom)
    (act := fun e s =>
      let x := s.takeSeq e.a e.c.pd.toNat 1 e.c.cid
      { x.1 with
        nextId := x.1.nextId + 1
        drops := x.1.drops ++ [{ dom := e.c.pd.toNat, id := (e.c.readS r.toNat).toNat % 2 ^ 20, wit := W e, agent := e.a
                                 seq := x.2, cid := e.c.cid, task := 0, name := x.1.nextId, pos := e.pos, tick := e.c.tick
                                 sat := false }] }) ∧
  Commits (.xpld q xp a) lits .m taken (fun e => B 256 e ++ [waitPend e (.xp xp.toNat) 48 (BitVec.allOnes 256)])
    (fun _ => 192) (ok := fun e => (A 256 e).toNat < 2 ^ 57 ∧ (A 256 e).toNat % 256 = 0 ∧ good e)
    (act := fun e s => s.startAccess { e.access .xpld q false (A 256 e).toNat 256 with
      wit := W e, dest := some (.xp xp.toNat) }) ∧
  Commits (.launch q r a) lits .m taken (B 16) (fun _ => 8)
    (ok := fun e => (A 16 e).toNat < 2 ^ 57 ∧ (A 16 e).toNat % 16 = 0 ∧ good e ∧ e.seqRoom)
    (act := fun e s => s.startSeq { e.access .launch q false (A 16 e).toNat 16 with
      wit := W e, data2 := e.c.readS r.toNat, scope := 1 }) ∧
  Commits (.pref q a) lits .m taken (B 1) (fun _ => 8)
    (act := fun e s => s.prefetch (coreOf e.a) e.c.pd.toNat q.scope.toNat q.evict.toNat (A 1 e)) ∧
  Commits (.btw q vr a) lits .m taken (B 1) (fun _ => 8) (reads := [vr.toNat]) (ok := fun e => (A 1 e).toNat < 512)
    (act := fun e s => (s.clearPoison ((List.range 32).map (btKey e.a (A 1 e).toNat + ·))).onCtx e.a fun c =>
      { c with btPend := c.btPend ++ [(2, (A 1 e).toNat, (e.s.readV e.a vr.toNat).truncate 256)] }) ∧
  ∀ (s : State) (place pd : Nat) (w : W64), place < 768 →
    let form := w.toNat / 2 ^ 62
    let scope := w.toNat / 2 ^ 59 % 2 ^ 3
    let dom := w.toNat / 2 ^ 53 % 2 ^ 6
    let epoch := w.toNat / 2 ^ 31 % 2 ^ 22
    let agent := w.toNat / 2 ^ 21 % 2 ^ 10
    let seq := w.toNat % 2 ^ 21
    let later := fun (n u v : Nat) => 1 ≤ ((u : Int) - v) % 2 ^ n ∧ ((u : Int) - v) % 2 ^ n < 2 ^ (n - 1)
    let names := fun (n : Nat) => n ≤ s.epoch ∧ s.epoch < n + 2 ^ 22 ∧ n % 2 ^ 22 = epoch
    let covers := fun (f : FormRec) => f.dom = dom ∧
      (if form = 1 then seq ≠ 0 ∧ f.agent = agent ∧ (f.seq % 2 ^ 21 = seq ∨ later 21 seq f.seq)
       else ∃ n, names n ∧ f.epoch ≤ n)
    let closed := fun (sc : Nat) => ∀ n, names n → n < s.closedOf dom sc
    let level := if scope ≤ 3 then 3 else if scope = 4 then 4 else 5
    let answers := fun (x : WitAns) => s.witCheck place pd w = x
    let check := fun (bad : Prop) (x : WitAns) (rest : Prop) => (bad → answers x) ∧ (¬ bad → rest)
    check (form = 3) (.fault 0x33) <| check (form = 0) .satisfied <|
    check (scope = 0 ∨ scope = 6 ∨ scope = 7 ∨ (form = 2 ∧ scope < 4)) (.fault 0x34) <|
    check (dom ≠ pd) (.fault 0x32) <|
    check (form = 1 ∧ agent < 768 ∧ ((scope = 1 ∧ agent / 4 ≠ place / 4) ∨ (scope = 2 ∧ agent / 16 ≠ place / 16) ∨
      (scope = 3 ∧ agent / 192 ≠ place / 192))) (.fault 0x31) <|
    check (later 22 epoch s.epoch ∨ 2050781 < ((s.epoch : Int) - epoch) % 2 ^ 22) (.fault 0x30) <|
    check (form = 1 ∧ seq ≠ 0 ∧ (s.lastOf agent dom = 0 ∨ later 21 seq (s.lastOf agent dom))) (.fault 0x34) <|
    check (∃ f ∈ s.forms, f.failed = true ∧ covers f) (.fault 0x33) <|
    check (if form = 1 then seq = 0 ∨ closed (max scope 4) ∨ ∀ f ∈ s.forms, covers f → level ≤ f.level else closed scope)
      .satisfied (answers .waiting)

/-- 07 R183, R191, R195, R202, R209, R211, R212, R214, Table 7-3: an address with its top bits set is PROTECTION with the
access as auxiliary word, a misaligned one ALIGN with the alignment, a scratchpad address outside the share SCRATCH_RANGE,
each with the address; a gather or a scatter checks its elements in ascending order and then its base; a bundle-table
index of 512 or more is PROTECTION with the index; a bad witness input is its cause, after the address, with the witness as
auxiliary word and, of a form with an address, the address as fault address. Each is met at issue and nothing of the bundle
commits. An access of the scratchpad is outside the share where an address bit from 25 is set, its context is not one of the
team, or a byte of it lies beyond the share less the pier's quota. That the fault address of each is the access's own
address, and not the first failing one or, of a witness, the 0 of 19 Table 19-1, is the model's reading of R183 (log 32).
The forms run as bundles of one form, which is the model's choice (log 16). -/
def Obligations.AddressTraps : Prop := ∀ (q : MQual) (sx : Bool) (sz : BitVec 2) (r : BitVec 6) (xp : BitVec 3) (vr : BitVec 10) (a : MAddr),
  let n := 2 ^ sz.toNat
  let g := 2 ^ q.evict.toNat
  let W := fun (e : Env) => e.c.readW q.wit.toNat
  let A := fun (m : Nat) (e : Env) => addrOf e.c a m
  let T := fun (i : Instr) (m : Nat) (reads : List Nat) (new : Env → List Pend) (bad : Env → Prop) (cause : Nat) (aux : Nat)
      (fa : Env → Nat) =>
    Traps i (addrLits a.mode) .m (q.mask.getLsbD 0) (fun e => (basePend e.c a m).toList ++ new e) reads bad
      (fun e => { cause := cause, aux := BitVec.ofNat 64 aux, faddr := BitVec.ofNat 64 (fa e), unit := seqUnit e.a })
  let fine := fun (m : Nat) (sp : Bool) (e : Env) =>
    (if sp then spFail e.c (A m e) m = none else (A m e).toNat < 2 ^ 57) ∧ (A m e).toNat % m = 0
  let traps := fun (i : Instr) (m : Nat) (sp : Bool) (aux : Nat) (reads : List Nat) (new : Env → List Pend) =>
    (if sp then T i m reads new (fun e => spFail e.c (A m e) m ≠ none) 0x23 0 (fun e => (A m e).toNat)
     else T i m reads new (fun e => 2 ^ 57 ≤ (A m e).toNat) 0x21 aux (fun e => (A m e).toNat)) ∧
    T i m reads new (fun e => (if sp then spFail e.c (A m e) m = none else (A m e).toNat < 2 ^ 57) ∧ (A m e).toNat % m ≠ 0)
      0x22 m (fun e => (A m e).toNat)
  let witness := fun (i : Instr) (lits : Nat) (reads : List Nat) (new : Env → List Pend) (ok : Env → Prop) (fa : Env → Nat) =>
    ∀ k : Nat,
    Traps i lits .m (q.mask.getLsbD 0) new reads (fun e => ok e ∧ e.s.witFault e.a e.c.pd.toNat (W e) = some k)
      (fun e => { cause := k, aux := W e, faddr := BitVec.ofNat 64 (fa e), unit := seqUnit e.a })
  let loads := fun (i : Instr) (m : Nat) (sp : Bool) (new : Env → List Pend) =>
    traps i m sp 0 [] new ∧ witness i (addrLits a.mode) [] (fun e => (basePend e.c a m).toList ++ new e) (fine m sp)
      (fun e => (A m e).toNat)
  let out := fun (e : Env) => witPend q.wit.toNat 1 (e.outWit q.scope.toNat e.nextSeqNum)
  let L := fun (e : Env) => e.gatherAddrs q vr.toNat (A g e)
  let elements := fun (i : Instr) (reads : List Nat) (new : Env → List Pend) =>
    let E := fun (bad : Env → W64 → Prop) (cause aux : Nat) => ∀ (pre post : List (Nat × W64)) (k : Nat) (x : W64),
      Traps i (addrLits a.mode) .m (q.mask.getLsbD 0) (fun e => (basePend e.c a g).toList ++ new e) reads
        (fun e => L e = pre ++ (k, x) :: post ∧ (∀ y ∈ pre, spFail e.c y.2 g = none ∧ y.2.toNat % g = 0) ∧ bad e x)
        (fun e => { cause := cause, aux := BitVec.ofNat 64 aux, faddr := x, unit := seqUnit e.a })
    E (fun e x => spFail e.c x g ≠ none) 0x23 0 ∧
    E (fun e x => spFail e.c x g = none ∧ x.toNat % g ≠ 0) 0x22 g ∧
    T i g reads new (fun e => (∀ y ∈ L e, spFail e.c y.2 g = none ∧ y.2.toNat % g = 0) ∧ (A g e).toNat % g ≠ 0) 0x22 g
      (fun e => (A g e).toNat)
  let sp := q.pred.toNat == 1
  let far := fun (e : Env) (m : Nat) (near away : Nat) => if isOwn e.c (A m e).toNat then near else away
  let atomic := fun (i : Instr) (op : Nat) => traps i n sp 1 [] (fun e =>
    (if r = 0 ∧ op = 7 ∧ fmtStatmask e.c.fmt ≠ 0 then [waitPend e .none (if sp then far e n 8 16 else 48) 0]
     else waitScalar e r.toNat (if sp then far e n 8 16 else 48)) ++ out e)
  let gather := fun (e : Env) => [waitPend e (.v vr.toNat) (if ∀ x ∈ L e, isOwn e.c x.2.toNat = true then 8 else 16)
    (lanesFor g (e.preds g (256 / g) q.pred.toNat))]
  loads (.ld q sx sz r a) n false (fun e => waitScalar e r.toNat 40) ∧
  traps (.st q sz r a) n false 1 [] out ∧
  loads (.ldp q sx sz r a) n true (fun e => waitScalar e r.toNat (far e n 6 14)) ∧
  traps (.stp q sz r a) n true 0 [] out ∧
  loads (.vld q vr a) 256 false (fun e => [waitPend e (.v vr.toNat) 48 (e.c.readP q.pred.toNat)]) ∧
  loads (.vldp q vr a) 256 true (fun e => [waitPend e (.v vr.toNat) (far e 256 8 16) (e.c.readP q.pred.toNat)]) ∧
  traps (.vst q vr a) 256 false 1 [vr.toNat] out ∧
  traps (.vstp q vr a) 256 true 0 [vr.toNat] out ∧
  elements (.vgathp q vr a) [vr.toNat + 1] gather ∧
  witness (.vgathp q vr a) (addrLits a.mode) [vr.toNat + 1] (fun e => (basePend e.c a g).toList ++ gather e)
    (fun e => (∀ y ∈ L e, spFail e.c y.2 g = none ∧ y.2.toNat % g = 0) ∧ (A g e).toNat % g = 0) (fun e => (A g e).toNat) ∧
  elements (.vscatp q vr a) [vr.toNat, vr.toNat + 1] out ∧
  atomic (.aadd q sz r a) 0 ∧ atomic (.amin q sz r a) 1 ∧ atomic (.aminn q sz r a) 2 ∧ atomic (.amax q sz r a) 3 ∧
  atomic (.amaxn q sz r a) 4 ∧ atomic (.aswp q sz r a) 5 ∧ atomic (.acas q sz r a) 6 ∧ atomic (.afadd q sz r a) 7 ∧
  traps (.swinit q r a) 32 sp 1 [] out ∧
  traps (.swarr q r a) 32 sp 1 [] (fun _ => []) ∧
  traps (.swwait q r a) 32 sp 0 [] (fun _ => []) ∧
  traps (.swpoll q r a) 32 sp 0 [] (fun e => waitScalar e r.toNat (if sp then far e 32 8 16 else 48)) ∧
  loads (.xpld q xp a) 256 false (fun e => [waitPend e (.xp xp.toNat) 48 (BitVec.allOnes 256)]) ∧
  loads (.launch q r a) 16 false (fun _ => []) ∧
  T (.llock q r a) 1 [] (fun e => waitScalar e r.toNat 48) (fun e => 2 ^ 57 ≤ (A 1 e).toNat) 0x21 0 (fun e => (A 1 e).toNat) ∧
  T (.lunlock q a) 1 [] (fun _ => []) (fun e => 2 ^ 57 ≤ (A 1 e).toNat) 0x21 0 (fun e => (A 1 e).toNat) ∧
  witness (.rcfence q r) 0 [] (fun _ => []) (fun _ => True) (fun _ => 0) ∧
  Traps (.btw q vr a) (addrLits a.mode) .m (q.mask.getLsbD 0) (fun e => (basePend e.c a 1).toList) [vr.toNat]
    (fun e => 512 ≤ (A 1 e).toNat) (fun e => { cause := 0x21, aux := A 1 e, faddr := 0, unit := seqUnit e.a }) ∧
  ∀ (c : Ctx) (x : W64) (k : Nat), spFail c x k = none ↔
    x.toNat < 2 ^ 25 ∧ x.toNat / 2 ^ 23 < c.perTeam ∧ x.toNat % 2 ^ 23 + k ≤ c.scratch - c.pierq.toNat

/-- 08 R215 to R221, R95: the element-wise forms on the integer types: each governed element of the result is the exact
result reduced to the width; elements whose predicate bit is false keep what the destination held.
The forms run as bundles of one form, which is the model's choice (log 16). -/
def Obligations.VectorIntegers : Prop := ∀ (m : Mask) (ty : BitVec 3) (vd va vb : BitVec 10) (p : BitVec 4), ty.toNat < 4 →
  let size := vecSize ty.toNat
  let w := 8 * size
  let n := 256 / size
  let sg := fun (x : Nat) => if x < 2 ^ (w - 1) then (x : Int) else (x : Int) - 2 ^ w
  let X := fun (e : Env) => e.elems size n va.toNat
  let Y := fun (e : Env) => e.elems size n vb.toNat
  let lanes := fun (e : Env) => lanesFor size (e.preds size n p.toNat)
  let R2 := fun (i : Instr) (f : Nat → Nat → Nat) =>
    Commits i 0 .v (m.getLsbD 0)
      (fun e => [(vecPend vd.toNat 2 (lanes e) (vecOf size (List.zipWith f (X e) (Y e)))).withEvents e engVector
        (maskedEvents (e.preds size n p.toNat) (List.replicate n 0))])
      (fun _ => 8) (reads := vRead va.toNat ++ vRead vb.toNat)
  let R1 := fun (i : Instr) (f : Nat → Nat) =>
    Commits i 0 .v (m.getLsbD 0)
      (fun e => [(vecPend vd.toNat 2 (lanes e) (vecOf size ((X e).map f))).withEvents e engVector
        (maskedEvents (e.preds size n p.toNat) (List.replicate n 0))])
      (fun _ => 8) (reads := vRead va.toNat)
  R2 (.vadd m ty vd va vb p) (fun x y => (x + y) % 2 ^ w) ∧
  R2 (.vsub m ty vd va vb p) (fun x y => (x + (2 ^ w - y)) % 2 ^ w) ∧
  R2 (.vmul m ty vd va vb p) (fun x y => x * y % 2 ^ w) ∧
  R2 (.vmin m ty vd va vb p) (fun x y => if sg x ≤ sg y then x else y) ∧
  R2 (.vmax m ty vd va vb p) (fun x y => if sg x ≤ sg y then y else x) ∧
  R2 (.vminn m ty vd va vb p) (fun x y => if x ≤ y then x else y) ∧
  R2 (.vmaxn m ty vd va vb p) (fun x y => if x ≤ y then y else x) ∧
  R2 (.vand m ty vd va vb p) (fun x y => x &&& y) ∧
  R2 (.vor m ty vd va vb p) (fun x y => x ||| y) ∧
  R2 (.vxor m ty vd va vb p) (fun x y => x ^^^ y) ∧
  R2 (.vshl m ty vd va vb p) (fun x y => x * 2 ^ (y % w) % 2 ^ w) ∧
  R2 (.vshr m ty vd va vb p) (fun x y => x / 2 ^ (y % w)) ∧
  R2 (.vsar m ty vd va vb p) (fun x y => (sg x / 2 ^ (y % w) % 2 ^ w).toNat) ∧
  R1 (.vabs m ty vd va p) (fun x => (|sg x| % 2 ^ w).toNat) ∧
  R1 (.vneg m ty vd va p) (fun x => (2 ^ w - x) % 2 ^ w)

/-- 08 R218, R220, R221: the element-wise forms on the floating types: decoded, computed exactly and rounded once, with
their events; a minimum or maximum is exact and posts event 1 alone; type 7 is illegal while nfmt is 0. What the roundings
compute is stated in RoundingComputes.
The forms run as bundles of one form, which is the model's choice (log 16). -/
def Obligations.VectorFloats : Prop := ∀ (m : Mask) (ty : BitVec 3) (vd va vb : BitVec 10) (p : BitVec 4), 4 ≤ ty.toNat →
  let size := vecSize ty.toNat
  let n := 256 / size
  let ok := fun (e : Env) => ty.toNat = 7 → fmtNfmt e.c.fmt ≠ 0
  let X := fun (e : Env) => e.vals ty.toNat n va.toNat
  let Y := fun (e : Env) => e.vals ty.toNat n vb.toNat
  let D := fun (e : Env) => e.vals ty.toNat n vd.toNat
  let ps := fun (e : Env) => e.preds size n p.toNat
  let md := fun (e : Env) => fmtVrnd e.c.fmt
  let R2 := fun (i : Instr) (f : Nat → FVal → FVal → FVal) =>
    Commits i 0 .v (m.getLsbD 0)
      (fun e => [vecResult e vd.toNat size 4 (ps e)
        (List.zipWith (fun x y => vecRound e ty.toNat [x, y] (f (md e) x.1 y.1)) (X e) (Y e))])
      (fun _ => 16) (reads := vRead va.toNat ++ vRead vb.toNat) (ok := ok)
  let R1 := fun (i : Instr) (f : FVal → FVal) =>
    Commits i 0 .v (m.getLsbD 0)
      (fun e => [vecResult e vd.toNat size 2 (ps e) ((X e).map fun x => vecRound e ty.toNat [x] (f x.1))])
      (fun _ => 16) (reads := vRead va.toNat) (ok := ok)
  let P2 := fun (i : Instr) (f : FVal → FVal → FVal) =>
    Commits i 0 .v (m.getLsbD 0)
      (fun e => [vecResult e vd.toNat size 4 (ps e)
        (List.zipWith (fun x y => ((vecFmt e.c.fmt ty.toNat).encode ((f x.1 y.1).scale (-(vecScale e.c.fmt ty.toNat))),
          if x.1.isNan || y.1.isNan then ev 1 else 0)) (X e) (Y e))])
      (fun _ => 16) (reads := vRead va.toNat ++ vRead vb.toNat) (ok := ok)
  R2 (.vadd m ty vd va vb p) (fun r => FVal.add r) ∧ R2 (.vsub m ty vd va vb p) (fun r => FVal.sub r) ∧
  R2 (.vmul m ty vd va vb p) (fun _ => FVal.mul) ∧
  P2 (.vmin m ty vd va vb p) FVal.min ∧ P2 (.vmax m ty vd va vb p) FVal.max ∧
  (∀ x y : FVal, ((x.isNan = true ∨ y.isNan = true) → FVal.min x y = .nan ∧ FVal.max x y = .nan) ∧
    (x.isNan = false → y.isNan = false →
      (FVal.cmp x y = .lt → FVal.min x y = x ∧ FVal.max x y = y) ∧ (FVal.cmp x y = .gt → FVal.min x y = y ∧ FVal.max x y = x) ∧
      (FVal.cmp x y = .eq → x.sign = true → y.sign = false → FVal.min x y = x ∧ FVal.max x y = y) ∧
      (FVal.cmp x y = .eq → x.sign = false → y.sign = true → FVal.min x y = y ∧ FVal.max x y = x))) ∧
  R1 (.vabs m ty vd va p) FVal.abs ∧ R1 (.vneg m ty vd va p) FVal.neg ∧
  Commits (.vfma m ty vd va vb p) 0 .v (m.getLsbD 0)
    (fun e => [vecResult e vd.toNat size 5 (ps e) (List.zipWith (fun (xy : (FVal × Bool) × (FVal × Bool)) d =>
      let r := vecRound e ty.toNat [xy.1, xy.2, d] (FVal.fma (md e) xy.1.1 xy.2.1 d.1)
      (r.1, r.2 ||| (if (FVal.mul xy.1.1 xy.2.1).isNan && !xy.1.1.isNan && !xy.2.1.isNan then ev 0 else 0)))
      (List.zip (X e) (Y e)) (D e))])
    (fun _ => 24) (reads := vRead va.toNat ++ vRead vb.toNat ++ [vd.toNat]) (ok := ok) ∧
  (∀ (s : State) (e : Env), s.issuing 0 = some e → m.getLsbD 0 = true → ty.toNat = 7 → fmtNfmt e.c.fmt = 0 →
    ∀ i ∈ [Instr.vadd m ty vd va vb p, .vsub m ty vd va vb p, .vmul m ty vd va vb p, .vmin m ty vd va vb p,
      .vmax m ty vd va vb p, .vabs m ty vd va p, .vneg m ty vd va p, .vfma m ty vd va vb p],
      exec i s = .next (bundleFault e 0x01 0 0x04))

/-- 08 R218, R222, R223: a compare writes every byte-lane bit of each governed element of a predicate register; `VANY`
tells whether some governed element has a bit set; a compare on type 7 is illegal while nfmt is 0.
The forms run as bundles of one form, which is the model's choice (log 16). -/
def Obligations.VectorCompares : Prop := ∀ (m : Mask) (ty : BitVec 3) (pd : BitVec 4) (qd : BitVec 5) (va vb : BitVec 10)
    (p : BitVec 4),
  let size := vecSize ty.toNat
  let w := 8 * size
  let n := 256 / size
  let sg := fun (x : Nat) => if x < 2 ^ (w - 1) then (x : Int) else (x : Int) - 2 ^ w
  let ps := fun (e : Env) => e.preds size n p.toNat
  let put := fun (e : Env) (lat : Nat) (l : List (Bool × Nat)) =>
    [({ reg := .p pd.toNat, left := lat, val := (lanesFor size (l.map (·.1))).zeroExtend 2048
        lanes := lanesFor size (ps e) } : Pend).withEvents e engVector (maskedEvents (ps e) (l.map (·.2)))]
  let ints := fun (i : Instr) (f : Nat → Nat → Bool) =>
    Commits i 0 .v (m.getLsbD 0)
      (fun e => put e 2 (List.zipWith (fun x y => (f x y, 0)) (e.elems size n va.toNat) (e.elems size n vb.toNat)))
      (fun _ => 8) (reads := vRead va.toNat ++ vRead vb.toNat)
  let floats := fun (i : Instr) (f : FVal → FVal → Bool) =>
    Commits i 0 .v (m.getLsbD 0)
      (fun e => put e 4 (List.zipWith (fun x y => (f x.1 y.1, cmpEvents x.1 y.1 ||| flushEv [x, y]))
        (e.vals ty.toNat n va.toNat) (e.vals ty.toNat n vb.toNat)))
      (fun _ => 16) (reads := vRead va.toNat ++ vRead vb.toNat) (ok := fun e => ty.toNat = 7 → fmtNfmt e.c.fmt ≠ 0)
  (ty.toNat < 4 →
    ints (.vceq m ty pd va vb p) (fun x y => decide (x = y)) ∧
    ints (.vclt m ty pd va vb p) (fun x y => decide (sg x < sg y)) ∧
    ints (.vcle m ty pd va vb p) (fun x y => decide (sg x ≤ sg y)) ∧
    ints (.vcltn m ty pd va vb p) (fun x y => decide (x < y))) ∧
  (4 ≤ ty.toNat →
    floats (.vceq m ty pd va vb p) fEq ∧ floats (.vclt m ty pd va vb p) fLt ∧ floats (.vcle m ty pd va vb p) fLe) ∧
  (∀ b : Bool, Commits (.vany m ty qd va p) 0 .v (m.getLsbD 0) (fun _ => [condPend qd.toNat 2 b]) (fun _ => 8)
    (reads := vRead va.toNat)
    (ok := fun e => (∃ (k x : Nat), (ps e)[k]? = some true ∧ (e.elems size n va.toNat)[k]? = some x ∧ x ≠ 0) ↔ b = true)) ∧
  (∀ (s : State) (e : Env), s.issuing 0 = some e → m.getLsbD 0 = true → ty.toNat = 7 → fmtNfmt e.c.fmt = 0 →
    ∀ i ∈ [Instr.vceq m ty pd va vb p, .vclt m ty pd va vb p, .vcle m ty pd va vb p],
      exec i s = .next (bundleFault e 0x01 0 0x04))

/-- 08 R218, R224 to R230, 03 R88, 04 R95 to R99: selection, moves, splats, conversions, reductions, compression and
expansion, and the log-number forms; a form that reads or writes type 7 is illegal while nfmt is 0. `VLOG` of a NaN or an
infinity is the log NaN and of zero the log zero, and otherwise gives E and the interpolated table; `VEXP` of the log NaN is
NaN, of the log zero a zero of its sign, and otherwise the rounded power; `VLNADD` of the log NaN is the log NaN, the log zero
is neutral, opposite equals give zero, and a sum out of range is clamped or zero with event 10.
The forms run as bundles of one form, which is the model's choice (log 16). -/
def Obligations.VectorOthers : Prop := ∀ (m : Mask) (ty st : BitVec 3) (vd va vb : BitVec 10) (sc : BitVec 6) (p : BitVec 4),
  let size := vecSize ty.toNat
  let n := 256 / size
  let ps := fun (e : Env) => e.preds size n p.toNat
  let A := fun (e : Env) => e.s.vsrc e.a e.c size va.toNat
  let ok7 := fun (t : Nat) (e : Env) => t = 7 → fmtNfmt e.c.fmt ≠ 0
  let R := fun (i : Instr) (w : Nat) (reads : List Nat) (ok : Env → Prop) (new : Env → List Pend) =>
    Commits i 0 .v (m.getLsbD 0) new (fun _ => w) (reads := reads) (ok := ok)
  R (.vsel m ty vd va vb p) 8 (vRead va.toNat ++ vRead vb.toNat) (fun _ => True)
    (fun e => [vecPend vd.toNat 2 (BitVec.allOnes 256)
      (mergeLanes (lanesFor size (ps e)) (e.s.vsrc e.a e.c size vb.toNat) (A e))]) ∧
  R (.vmov m ty vd va p) 8 (vRead va.toNat) (fun _ => True) (fun e => [vecPend vd.toNat 2 (lanesFor size (ps e)) (A e)]) ∧
  R (.vsplat m ty vd va vb p) 8 (vRead va.toNat) (fun _ => True)
    (fun e => [vecPend vd.toNat 2 (lanesFor size (ps e)) (vecOf size (List.replicate n
      (lane (A e) ((e.c.readS (vb.toNat - 768)).toNat % n) size)))]) ∧
  R (.vcmpr m ty vd va sc p) 12 (vRead va.toNat) (fun _ => True)
    (fun e =>
      let kept := ((ps e).zip (e.elems size n va.toNat)).filter (·.1)
      vecPend vd.toNat 6 (BitVec.allOnes 256) (vecOf size (kept.map (·.2))) ::
        scalarPend sc.toNat 6 (BitVec.ofNat 64 kept.length)) ∧
  R (.vexpd m ty vd va sc p) 12 (vRead va.toNat) (fun _ => True)
    (fun e => vecPend vd.toNat 6 (lanesFor size (ps e)) (vecOf size (placeElems (ps e) (e.elems size n va.toNat))) ::
      scalarPend sc.toNat 6 (BitVec.ofNat 64 ((ps e).count true))) ∧
  R (.vcvt m ty vd va st p) (if st.toNat < 4 ∧ ty.toNat < 4 then 8 else 16) (vRead va.toNat)
    (fun e => ok7 st.toNat e ∧ ok7 ty.toNat e)
    (fun e =>
      let k := 256 / Nat.max (vecSize st.toNat) size
      let q := e.preds size k p.toNat
      let r := (e.elems (vecSize st.toNat) k va.toNat).map fun u =>
        convertBits (vecFmt e.c.fmt st.toNat) (vecScale e.c.fmt st.toNat) (vecFmt e.c.fmt ty.toNat)
          (vecScale e.c.fmt ty.toNat) (fmtVrnd e.c.fmt) (fmtSat e.c.fmt) (fmtFlush e.c.fmt) u
      [(vecPend vd.toNat 4 (lanesFor size q ||| ~~~(laneMask 0 (k * size))) (vecOf size (r.map (·.1)))).withEvents e
        engVector (maskedEvents q (r.map (·.2)))]) ∧
  (ty.toNat < 4 → R (.vrsum m ty vd va p) 16 (vRead va.toNat) (fun _ => True)
    (fun e => [(vecPend vd.toNat 8 (BitVec.allOnes 256) (vecOf size [(((ps e).zip (e.elems size n va.toNat)).filterMap
      fun x => if x.1 then some x.2 else none).sum % 2 ^ (8 * size)])).withEvents e engVector []])) ∧
  (4 ≤ ty.toNat → ∀ (x : RNode), R (.vrsum m ty vd va p) 16 (vRead va.toNat)
    (fun e => ok7 ty.toNat e ∧ treeRoot (sumNode e ty.toNat) (treeLevels size) (List.zipWith (fun q (u : FVal × Bool) =>
      if q then some (u.1, [(if u.1.isNan then ev 1 else 0) ||| flushEv [u]]) else none) (ps e) (e.vals ty.toNat n va.toNat)) =
        some x)
    (fun e => [(vecPend vd.toNat 8 (BitVec.allOnes 256) (vecOf size
      [(vecFmt e.c.fmt ty.toNat).encode (x.1.scale (-(vecScale e.c.fmt ty.toNat)))])).withEvents e engVector x.2])) ∧
  (4 ≤ ty.toNat → ∀ (x : RNode), R (.vrmax m ty vd va p) 16 (vRead va.toNat)
    (fun e => ok7 ty.toNat e ∧ treeRoot maxNode (treeLevels size) (List.zipWith (fun q (u : FVal × Bool) =>
      if q then some (u.1, [(if u.1.isNan then ev 1 else 0) ||| flushEv [u]]) else none) (ps e) (e.vals ty.toNat n va.toNat)) =
        some x)
    (fun e => [(vecPend vd.toNat 8 (BitVec.allOnes 256) (vecOf size
      [(vecFmt e.c.fmt ty.toNat).encode (x.1.scale (-(vecScale e.c.fmt ty.toNat)))])).withEvents e engVector x.2])) ∧
  (ty.toNat < 4 → R (.vrmax m ty vd va p) 16 (vRead va.toNat) (fun _ => True)
    (fun e =>
      let sg := fun (x : Nat) => if x < 2 ^ (8 * size - 1) then (x : Int) else (x : Int) - 2 ^ (8 * size)
      let top := match ((ps e).zip (e.elems size n va.toNat)).filterMap fun x => if x.1 then some x.2 else none with
        | [] => 2 ^ (8 * size - 1)
        | x :: r => r.foldl (fun y z => if sg y ≤ sg z then z else y) x
      [(vecPend vd.toNat 8 (BitVec.allOnes 256) (vecOf size [top])).withEvents e engVector []])) ∧
  (4 ≤ ty.toNat →
    R (.vrsum m ty vd va p) 16 (vRead va.toNat) (fun e => ok7 ty.toNat e ∧ true ∉ ps e)
      (fun e => [(vecPend vd.toNat 8 (BitVec.allOnes 256) (vecOf size [0])).withEvents e engVector []]) ∧
    R (.vrmax m ty vd va p) 16 (vRead va.toNat) (fun e => ok7 ty.toNat e ∧ true ∉ ps e)
      (fun e => [(vecPend vd.toNat 8 (BitVec.allOnes 256) (vecOf size
        [if ty = 7 then (if (fmtNfmt e.c.fmt).getLsbD 4 then 0 else 0xFF)
         else (vecFmt e.c.fmt ty.toNat).encode (.inf true)])).withEvents e engVector []])) ∧
  (4 ≤ ty.toNat → R (.vlog m ty vd va p) 24 (vRead va.toNat) (ok7 ty.toNat)
    (fun e => [vecResult e vd.toNat 4 6 (e.preds 4 64 p.toNat)
      ((e.vals ty.toNat 64 va.toNat).map fun x => ((vlog x.1).1, (vlog x.1).2 ||| flushEv [x]))])) ∧
  (4 ≤ ty.toNat → R (.vexp m ty vd va p) 24 (vRead va.toNat) (ok7 ty.toNat)
    (fun e =>
      let q := e.preds size 64 p.toNat
      let r := (e.elems 4 64 va.toNat).map fun u =>
        vexp u (vecFmt e.c.fmt ty.toNat) (vecScale e.c.fmt ty.toNat) (fmtVrnd e.c.fmt) (fmtSat e.c.fmt)
      [(vecPend vd.toNat 6 (lanesFor size q ||| ~~~(laneMask 0 (64 * size))) (vecOf size (r.map (·.1)))).withEvents e
        engVector (maskedEvents q (r.map (·.2)))])) ∧
  (ty = 2 → R (.vlnadd m ty vd va vb p) 24 (vRead va.toNat ++ vRead vb.toNat) (fun _ => True)
    (fun e => [vecResult e vd.toNat 4 6 (e.preds 4 64 p.toNat)
      (List.zipWith vlnadd (e.elems 4 64 va.toNat) (e.elems 4 64 vb.toNat))])) ∧
  (∀ (s : State) (e : Env), s.issuing 0 = some e → m.getLsbD 0 = true → fmtNfmt e.c.fmt = 0 →
    (ty.toNat = 7 → ∀ i ∈ [Instr.vcvt m ty vd va st p, .vrsum m ty vd va p, .vrmax m ty vd va p, .vlog m ty vd va p,
      .vexp m ty vd va p], exec i s = .next (bundleFault e 0x01 0 0x04)) ∧
    (st.toNat = 7 → exec (.vcvt m ty vd va st p) s = .next (bundleFault e 0x01 0 0x04))) ∧
  (∀ (e : Env) (x y : RNode), x.1.isNan = false → y.1.isNan = false →
    let F := vecFmt e.c.fmt ty.toNat
    let sc := vecScale e.c.fmt ty.toNat
    let r := F.round (fmtVrnd e.c.fmt) (vecSat e.c.fmt ty.toNat) ((FVal.add (fmtVrnd e.c.fmt) x.1 y.1).scale (-sc))
    sumNode e ty.toNat x y = (r.val.scale sc, x.2 ++ y.2 ++ [opEvents [x.1, y.1] r]) ∧
    maxNode x y = (FVal.max x.1 y.1, x.2 ++ y.2)) ∧
  (∀ (sg : Bool) (k j a b : Nat) (x : Int), j < 2 ^ 23 → k * 2 ^ a = (2 ^ 23 + j) * 2 ^ b →
    vlog .nan = (0x7FFF_FFFF, ev 1) ∧ vlog (.inf sg) = (0x7FFF_FFFF, ev 10) ∧ vlog (.fin sg 0 x) = (0x4000_0000, 0) ∧
    vlog (.fin sg k x) = ((if sg then 2 ^ 31 else 0) +
      (((x + b - a + 23) * 2 ^ 21 + interp tableTL (j / 2 ^ 15) (j % 2 ^ 15) 15) % 2 ^ 30).toNat, 0)) ∧
  (∀ u v : Nat, u < 2 ^ 32 → v < 2 ^ 32 →
    let zero := fun (w : Nat) => w / 2 ^ 30 % 2 = 1 ∧ w % 2 ^ 30 = 0
    let nan := fun (w : Nat) => w / 2 ^ 30 % 2 = 1 ∧ w % 2 ^ 30 ≠ 0
    let L := fun (w : Nat) => if w % 2 ^ 30 < 2 ^ 29 then ((w % 2 ^ 30 : Nat) : Int) else ((w % 2 ^ 30 : Nat) : Int) - 2 ^ 30
    let neg := fun (w : Nat) => decide (2 ^ 31 ≤ w)
    let word := fun (w : Nat) (l : Int) => (if neg w then 2 ^ 31 else 0) + (l % 2 ^ 30).toNat
    let top := if L u < L v then v else u
    let d := (L u - L v).natAbs
    let l := L top + (if 2 ^ 26 ≤ d then 0
      else interp (if neg u = neg v then tableTGP else tableTGM) (d / 2 ^ 18) (d % 2 ^ 18) 18)
    (nan u ∨ nan v → vlnadd u v = (0x7FFF_FFFF, ev 1)) ∧
    (¬ nan u → ¬ nan v →
      (zero u → zero v → vlnadd u v = (0x4000_0000, 0)) ∧ (zero u → ¬ zero v → vlnadd u v = (v, 0)) ∧
      (¬ zero u → zero v → vlnadd u v = (u, 0)) ∧
      (¬ zero u → ¬ zero v →
        (neg u ≠ neg v → d = 0 → vlnadd u v = (0x4000_0000, 0)) ∧
        (neg u = neg v ∨ d ≠ 0 →
          (2 ^ 29 - 1 < l → vlnadd u v = (word top (2 ^ 29 - 1), ev 10)) ∧
          (l < -(2 ^ 29) → vlnadd u v = (0x4000_0000, ev 10)) ∧
          (-(2 ^ 29) ≤ l → l ≤ 2 ^ 29 - 1 → vlnadd u v = (word top l, 0))))) ∧
    (∀ (F : NFmt) (x : Int) (md : Nat) (sat : Bool),
      (nan u → vexp u F x md sat = (F.encode .nan, ev 1)) ∧
      (zero u → vexp u F x md sat = F.finish x md sat [] (.fin (neg u) 0 0)) ∧
      (¬ nan u → ¬ zero u →
        let E := L u / 2 ^ 21
        let j := (L u % 2 ^ 21).toNat
        vexp u F x md sat =
          F.finish x md sat [] (.fin (neg u) (2 ^ 23 + (interp tableTE (j / 2 ^ 13) (j % 2 ^ 13) 13).toNat) (E - 23)))) ∧
    (∀ (x : Int) (md : Nat) (sat sg : Bool),
      NFmt.f32.finish x md sat [] (.fin sg 0 0) = (if sg then 2 ^ 31 else 0, 0) ∧
      NFmt.f16.finish x md sat [] (.fin sg 0 0) = (if sg then 2 ^ 15 else 0, 0) ∧
      NFmt.bf16.finish x md sat [] (.fin sg 0 0) = (if sg then 2 ^ 15 else 0, 0) ∧
      ∀ c : BitVec 6, (NFmt.ofB8 c).finish x md sat [] (.fin sg 0 0) = (0, 0)))

/-- 08 R231 to R233: a crossbar form moves whole elements: element i of its result is the source element that the form
names; a pattern that is not valid for the size is XBAR with the element size as auxiliary word.
08 R231, R232: the lane crossbar keeps what it moves: reversing twice, or zipping and then unzipping, gives back every
element, at each element size.
The forms run as bundles of one form, which is the model's choice (log 16). -/
def Obligations.CrossbarForms : Prop :=
  (∀ (m : Mask) (vd va : BitVec 10) (k : BitVec 3) (sz : BitVec 2),
  let s := 2 ^ sz.toNat
  let n := 256 / s
  let new := fun (src : Env → Nat → Nat) (e : Env) =>
    let v := e.s.vsrc e.a e.c s va.toNat
    [vecPend vd.toNat 3 (BitVec.allOnes 256) (vecOf s ((List.range n).map fun i => lane v (src e i) s))]
  let R := fun (i : Instr) (src : Nat → Nat) =>
    Commits i 0 .x (m.getLsbD 0) (new fun _ => src) (fun _ => 8) (reads := vRead va.toNat)
  let b := Nat.min (2 ^ k.toNat) n
  let pat := fun (e : Env) => e.c.readXp k.toNat
  let from' := fun (e : Env) (i : Nat) => ((List.range n).find? fun j => lane (pat e).1 j 1 == i).getD 0
  R (.xrev m vd va sz) (fun i => n - 1 - i) ∧
  R (.xzip m vd va sz) (fun i => if i % 2 = 0 then i / 2 else n / 2 + i / 2) ∧
  R (.xunzip m vd va sz) (fun i => if i < n / 2 then 2 * i else 2 * (i - n / 2) + 1) ∧
  R (.xbcast m vd va k sz) (fun i => i - i % b) ∧
  R (.xslide m vd va k sz) (fun i => (i + 2 ^ k.toNat) % n) ∧
  R (.xtrn m vd va k sz) (fun x => x % (n / b) * b + x / (n / b)) ∧
  Commits (.xperm m vd va k sz) 0 .x (m.getLsbD 0) (new from') (fun _ => 8) (reads := vRead va.toNat)
    (ok := fun e => (pat e).2.getLsbD sz.toNat = true) ∧
  Traps (.xperm m vd va k sz) 0 .x (m.getLsbD 0) (new from') (vRead va.toNat)
    (fun e => (pat e).2.getLsbD sz.toNat = false)
    (fun e => { cause := 0x06, aux := BitVec.ofNat 64 s, faddr := 0, unit := seqUnit e.a })) ∧
  (∀ (sz : BitVec 2) (v : Vec) (i : Nat),
  let s := 2 ^ sz.toNat
  let n := 256 / s
  let move := fun (src : Nat → Nat) (x : Vec) => vecOf s ((List.range n).map fun i => lane x (src i) s)
  let rev := move fun i => n - 1 - i
  let zip := move fun i => if i % 2 = 0 then i / 2 else n / 2 + i / 2
  let unzip := move fun i => if i < n / 2 then 2 * i else 2 * (i - n / 2) + 1
  i < n → lane (rev (rev v)) i s = lane v i s ∧ lane (unzip (zip v)) i s = lane v i s ∧ lane (zip (unzip v)) i s = lane v i s)

/-- 09 R239, R255 to R258, R263: the forms that move references. Each enters the window complete, pops and pushes as its
entry says, and has no engine: `TDUP`, `TDROP`, `TSWAP`, `TPICK` and `TROT` on entries, `TZERO` with a tile of zeros in the
deck, for whose room its bundle is held (R242; that it is held is the model's reading, log 34), `TINFO`, which binds its tile, with the shape word at t + 2, `TSHAPE` and `TSCALE` with a new descriptor of the same storage, `MWL` and `MWREL` on
the weight planes.
The forms run as bundles of one form, which is the model's choice (log 16). -/
def Obligations.TileReferences : Prop := ∀ (m : Mask) (n d k : BitVec 8) (sp sd : BitVec 6) (pl : Bool),
  let top := fun (t : TIn) (j : Nat) => t.c.stack.take j
  let move := fun (i : Instr) (need pops : Nat) (binds out : TIn → List Entry) =>
    TileCommits i m 0 0 0 (fun _ => True) fun t =>
      { need := need, pops := pops, binds := binds t, out := out t, now := true }
  let word := fun (t : TIn) => shapeEntry (t.par 0)
  let wordOk := fun (t : TIn) => tileFmtOk (word t).fmt = true ∧ (t.par 0).toNat < 2 ^ 30 ∧ (word t).rowBytes ≤ 512
  move (.tdup m) 1 0 (fun _ => []) (fun t => [t.at 0]) ∧
  move (.tdrop m n) n.toNat n.toNat (fun t => top t n.toNat) (fun _ => []) ∧
  move (.tswap m) 2 2 (fun t => top t 2) (fun t => [t.at 0, t.at 1]) ∧
  move (.tpick m d) (d.toNat + 1) 0 (fun _ => []) (fun t => [t.at d.toNat]) ∧
  move (.trot m n) n.toNat n.toNat (fun t => top t n.toNat)
    (fun t => (top t (n.toNat - 1)).reverse ++ [t.at (n.toNat - 1)]) ∧
  TileCommits (.tzero m sp) m sp.toNat 1 0 wordOk (fun t =>
    { out := [word t], fresh := some (word t).bytes, made := some (List.replicate (word t).bytes 0), now := true }) ∧
  (∀ (s : State) (e : Env), s.issuing 0 = some e → m.getLsbD 0 = true → e.room .t [] [] = true →
    let t := e.tin sp.toNat 1 0
    wordOk t → e.c.window.length < 32 → e.c.stack.length + 1 ≤ e.c.tlimit →
    spillFault e.c (({ out := [word t], fresh := some (word t).bytes } : TPlan).numbered e.c.nextTile) = none →
    e.c.roomFor (word t).bytes = false →
    exec (.tzero m sp) s = .next (e.s.onCtx e.a fun c => { c with held := true })) ∧
  TileCommits (.tinfo m sd d) m 0 0 0 (fun _ => True) (fun t =>
    { need := d.toNat + 1, now := true, binds := [t.at d.toNat], pends := scalarPend sd.toNat 2 (t.at d.toNat).shapeWord }) ∧
  TileCommits (.tshape m sp) m sp.toNat 1 0 (fun t => wordOk t ∧ (word t).bytes = (t.at 0).bytes) (fun t =>
    { need := 1, pops := 1, binds := top t 1, out := [{ word t with tile := (t.at 0).tile }], now := true }) ∧
  TileCommits (.tscale m k) m 0 0 0 (fun t => -128 ≤ (t.at 0).scale + k.toInt ∧ (t.at 0).scale + k.toInt ≤ 127) (fun t =>
    { need := 1, pops := 1, binds := top t 1, out := [{ t.at 0 with scale := (t.at 0).scale + k.toInt }], now := true }) ∧
  TileCommits (.mwl m pl) m 0 0 0 (fun t => weightFmt (t.at 0).fmt = true ∧ (t.at 0).cols ≤ 128) (fun t =>
    { need := 1, pops := 1, binds := top t 1, now := true
      planes := some (if pl then (t.c.plane0, some (t.at 0)) else (some (t.at 0), t.c.plane1)) }) ∧
  TileCommits (.mwrel m pl) m 0 0 0 (fun _ => True) (fun t =>
    { now := true, planes := some (if pl then (t.c.plane0, none) else (none, t.c.plane1)) })

/-- 09 R266 to R271: the forms of the vector-tile engines and the transpose engine: the operands they pop and bind, what
their formats and shapes must be, and the descriptor of their result.
The forms run as bundles of one form, which is the model's choice (log 16). -/
def Obligations.TileOperations : Prop := ∀ (m : Mask) (k f8 : BitVec 8) (f : BitVec 6),
  let int := fun (x : Entry) => x.fmt.toNat ≤ 3
  let R := fun (i : Instr) (n : Nat) (ok : TIn → Prop) (r : TIn → Entry) =>
    TileCommits i m 0 0 0 ok fun t =>
      { need := n, pops := n, binds := t.c.stack.take n, out := [r t], fresh := some ((r t).rows * (r t).cols * tileSize (r t).fmt)
        energy := 16 * (((r t).rows * (r t).cols * tileSize (r t).fmt + 255) / 256) }
  let alike := fun (x y : Entry) => x.fmt = y.fmt ∧ x.rows = y.rows ∧ x.cols = y.cols
  let bin := fun (i : Instr) => R i 2 (fun t => alike (t.at 0) (t.at 1) ∧ (int (t.at 1) → (t.at 0).scale = (t.at 1).scale) ∧
    -128 ≤ (t.at 1).scale ∧ (t.at 1).scale ≤ 127) (fun t => { t.at 1 with tile := 0 })
  let sums := fun (t : TIn) (rows cols : Nat) => (⟨0, rows, cols, if int (t.at 0) then 3 else 6, if int (t.at 0) then (t.at 0).scale else 0⟩ : Entry)
  bin (.tadd m) ∧ bin (.tsub m) ∧ bin (.tmax m) ∧ bin (.tmin m) ∧
  R (.tmul m) 2 (fun t => alike (t.at 0) (t.at 1) ∧ (int (t.at 1) → (t.at 0).scale = (t.at 1).scale) ∧
      -128 ≤ (if int (t.at 1) then (t.at 1).scale + (t.at 0).scale else (t.at 1).scale) ∧
      (if int (t.at 1) then (t.at 1).scale + (t.at 0).scale else (t.at 1).scale) ≤ 127)
    (fun t => { t.at 1 with
      tile := 0, scale := if int (t.at 1) then (t.at 1).scale + (t.at 0).scale else (t.at 1).scale }) ∧
  R (.tfma m) 3 (fun t => alike (t.at 0) (t.at 2) ∧ alike (t.at 1) (t.at 2) ∧ ¬ int (t.at 2)) (fun t => { t.at 2 with tile := 0 }) ∧
  R (.tcvt m k f) 1 (fun t => tileFmtOk f = true ∧ (t.at 0).cols * tileSize f ≤ 512)
    (fun t => ⟨0, (t.at 0).rows, (t.at 0).cols, f, k.toInt⟩) ∧
  R (.tact m f8) 1 (fun t => ¬ int (t.at 0)) (fun t => { t.at 0 with tile := 0 }) ∧
  R (.trsum m) 1 (fun _ => True) (fun t => sums t (t.at 0).rows 1) ∧
  R (.tcsum m) 1 (fun t => (t.at 0).cols ≤ 128) (fun t => sums t 1 (t.at 0).cols) ∧
  R (.txp m) 1 (fun t => (t.at 0).cols ≤ 128) (fun t => ⟨0, (t.at 0).cols, (t.at 0).rows, (t.at 0).fmt, (t.at 0).scale⟩)

/-- 09 R263 to R265: a trestle form streams its operand against the weight tile of a plane, or against its transpose, with
a popped accumulator for the accumulating forms and a bias row for an epilogue that adds one; the result's descriptor.
The forms run as bundles of one form, which is the model's choice (log 16). -/
def Obligations.TrestleForms : Prop := ∀ (m : Mask) (ep : BitVec 8) (pl : Bool) (w : Entry),
  let out := ep.toNat / 16
  let bias := ep.toNat % 16 = 2 ∨ ep.toNat % 16 = 3
  let R := fun (i : Instr) (fwd acc : Bool) =>
    let n := 1 + (if acc then 1 else 0) + (if bias then 1 else 0)
    let depth := if fwd then w.rows else w.cols
    let cols := if fwd then w.cols else w.rows
    let int := w.fmt.toNat ≤ 3
    let rf := fun (t : TIn) => if int then intoutFmt t.fmt else 6
    let rs := fun (t : TIn) => if int then (t.at 0).scale + w.scale else 0
    let r := fun (t : TIn) => (⟨0, (t.at 0).rows, cols, if out = 1 then 5 else if out = 2 then 4 else rf t,
      if out = 0 then rs t else 0⟩ : Entry)
    let bytes := fun (t : TIn) => (r t).rows * (r t).cols * tileSize (r t).fmt
    TileCommits i m 0 0 0
      (fun t => (if pl then t.c.plane1 else t.c.plane0) = some w ∧
        ((t.at 0).fmt = w.fmt ∨ (int ∧ (t.at 0).fmt.toNat ≤ 1)) ∧ (t.at 0).cols = depth ∧
        (acc = true → ((if int then (t.at 1).fmt = 3 ∧ (t.at 1).scale = rs t else (t.at 1).fmt = 6) ∧
          (t.at 1).rows = (t.at 0).rows ∧ (t.at 1).cols = cols)) ∧
        (bias → ((if int then (t.at (n - 1)).fmt = rf t ∧ (t.at (n - 1)).scale = rs t else (t.at (n - 1)).fmt = 6) ∧
          (t.at (n - 1)).rows = 1 ∧ (t.at (n - 1)).cols = cols)) ∧
        -128 ≤ rs t ∧ rs t ≤ 127 ∧ ¬ (int ∧ out ≠ 0))
      (fun t => { need := n, pops := n, binds := t.c.stack.take n, plane := some w, out := [r t], fresh := some (bytes t)
                  energy := 512 * (t.at 0).rows + (if ep = 0 then 0 else 16 * ((bytes t + 255) / 256)) })
  R (.mfw m ep pl) true false ∧ R (.mfwa m ep pl) true true ∧ R (.mbk m ep pl) false false ∧ R (.mbka m ep pl) false true

/-- 09 R254: what a tile form meets at issue, in order: a stack not deep enough is STACK_UNDERFLOW with the depth needed, a
stack grown past its limit STACK_OVERFLOW with the depth after; a form of a vector-tile engine whose operands differ in
format is TILE_FORMAT, and in shape TILE_SHAPE, with the operand as auxiliary word: operand 0, the first popped, where the
two differ (log 30, the model's choice).
The forms run as bundles of one form, which is the model's choice (log 16). -/
def Obligations.TileTrapOrder : Prop := ∀ (m : Mask) (n d : BitVec 8) (sp : BitVec 6),
  let len := fun (t : TIn) => t.c.stack.length
  let under := fun (i : Instr) (need : Nat) =>
    TileTraps i m 0 0 0 (fun t => len t < need) (fun _ => (0x10, BitVec.ofNat 64 need, 0))
  let over' := fun (i : Instr) (need : Nat) (grow : Int) =>
    TileTraps i m 0 0 0 (fun t => need ≤ len t ∧ (t.c.tlimit : Int) < len t + grow)
      (fun t => (0x11, BitVec.ofInt 64 (len t + grow), 0))
  let bin := fun (i : Instr) =>
    under i 2 ∧
    TileTraps i m 0 0 0 (fun t => 2 ≤ len t ∧ len t ≤ t.c.tlimit ∧ (t.at 0).fmt ≠ (t.at 1).fmt) (fun _ => (0x14, 0, 0)) ∧
    TileTraps i m 0 0 0 (fun t => 2 ≤ len t ∧ len t ≤ t.c.tlimit ∧ (t.at 0).fmt = (t.at 1).fmt ∧ 3 < (t.at 1).fmt.toNat ∧
      -128 ≤ (t.at 1).scale ∧ (t.at 1).scale ≤ 127 ∧ ((t.at 0).rows ≠ (t.at 1).rows ∨ (t.at 0).cols ≠ (t.at 1).cols))
      (fun _ => (0x13, 0, 0))
  under (.tdup m) 1 ∧ over' (.tdup m) 1 1 ∧ under (.tdrop m n) n.toNat ∧ under (.tswap m) 2 ∧
  under (.tpick m d) (d.toNat + 1) ∧ over' (.tpick m d) (d.toNat + 1) 1 ∧ under (.trot m n) n.toNat ∧
  under (.tfma m) 3 ∧ under (.txp m) 1 ∧ bin (.tadd m) ∧ bin (.tsub m) ∧ bin (.tmul m) ∧ bin (.tmax m) ∧ bin (.tmin m) ∧
  TileTraps (.tzero m sp) m sp.toNat 1 0
    (fun t => len t < t.c.tlimit ∧ tileFmtOk (shapeEntry (t.par 0)).fmt = false) (fun _ => (0x14, 0x20, 0)) ∧
  TileTraps (.tzero m sp) m sp.toNat 1 0
    (fun t => len t < t.c.tlimit ∧ tileFmtOk (shapeEntry (t.par 0)).fmt = true ∧ 2 ^ 30 ≤ (t.par 0).toNat) (fun _ => (0x13, 0x20, 0))

/-- 09 R249, R254, R259 to R262: tiles from and to the scratchpad and the vector registers. `TSTS` and `TTOV` are held
until every older operation is complete, `TTOV` also until its tile lies in the deck; where a held `TTOV` waits for a tile
to rise, and that its tile needs its image there, is the model's reading (log 25), as is that operations of an interrupted
stream with a fault to come hold nothing (log 35).
The forms run as bundles of one form, which is the model's choice (log 16). -/
def Obligations.TileLoadsAndStores : Prop := ∀ (m : Mask) (sp : BitVec 6) (w : BitVec 4) (v : BitVec 10) (n : BitVec 8),
  let units := fun (b : Nat) => (b + 255) / 256
  let wordOk := fun (x : W64) => tileFmtOk (shapeEntry x).fmt = true ∧ x.toNat < 2 ^ 30 ∧ (shapeEntry x).rowBytes ≤ 512
  let done := fun (c : Ctx) => ∀ o ∈ c.window, o.status = .done ∨ (o.hasFault = true ∧ c.foreign o = true)
  let inDeck := fun (c : Ctx) => ∀ x, c.stack.head? = some x →
    ∃ y, AL.find c.tiles x.tile = some y ∧ y.tier = .deck ∧ y.img.isSome
  let rowsOk := fun (t : TIn) (a p : W64) (x : Entry) =>
    (∀ i < x.rows, spFail t.c (a + BitVec.ofNat 64 i * p) x.rowBytes = none) ∧ a.toNat % tileSize x.fmt = 0 ∧
      p.toNat % tileSize x.fmt = 0
  let img := fun (t : TIn) => (t.c.tileImg (t.at 0).tile).getD []
  TileCommits (.tlds m sp w) m sp.toNat 3 w.toNat
    (fun t => wordOk (t.par 1) ∧ rowsOk t (t.par 0) (t.par 2) (shapeEntry (t.par 1)))
    (fun t => { out := [shapeEntry (t.par 1)], fresh := some (shapeEntry (t.par 1)).bytes, input := true
                energy := 32 * units (shapeEntry (t.par 1)).bytes }) ∧
  TileCommits (.tsts m sp w) m sp.toNat 2 0 (fun t => done t.c ∧ rowsOk t (t.par 0) (t.par 1) (t.at 0))
    (fun t => { need := 1, pops := 1, binds := t.c.stack.take 1, outWit := some (w.toNat, 2)
                energy := 32 * units (t.at 0).bytes }) ∧
  TileCommits (.tfromv m v sp) m sp.toNat 1 0
    (fun t => wordOk (t.par 0) ∧ units (shapeEntry (t.par 0)).bytes ≤ 64 ∧
      v.toNat + units (shapeEntry (t.par 0)).bytes ≤ 768 ∧
      ∀ k < units (shapeEntry (t.par 0)).bytes, t.s.poisoned (rKey t.a (v.toNat + k)) 256 = false)
    (fun t => { out := [shapeEntry (t.par 0)], fresh := some (shapeEntry (t.par 0)).bytes
                image := ((List.range (units (shapeEntry (t.par 0)).bytes)).flatMap fun k =>
                  bytesOfVec (t.s.readV t.a (v.toNat + k))).take (shapeEntry (t.par 0)).bytes
                energy := 32 * units (shapeEntry (t.par 0)).bytes }) ∧
  TileCommits (.ttov m v sp n) m sp.toNat 1 0
    (fun t => done t.c ∧ inDeck t.c ∧ t.s.poisoned (tileKey t.c.cid (t.at 0).tile) 8 = false)
    (fun t => { need := 1, binds := t.c.stack.take 1, energy := 32 * (n.toNat + 1)
                pends := (List.range (n.toNat + 1)).map fun k =>
                  Pend.make (.v (v.toNat + k)) (8 + k) (vecOfBytes (sliceBytes (img t) (256 * ((t.par 0).toNat + k)) 256)) }) ∧
  (∀ (s : State) (e : Env), s.issuing 0 = some e → m.getLsbD 0 = true →
    let held := e.s.onCtx e.a fun c => { c with held := true }
    (e.room .t [] (witPend w.toNat 1 (e.outWit 2 e.nextSeqNum)) = true → ¬ done e.c → exec (.tsts m sp w) s = .next held) ∧
    let t := e.tin sp.toNat 1 0
    (e.room .t [] ((List.range (n.toNat + 1)).map fun k => Pend.make (.v (v.toNat + k)) (8 + k)
        (vecOfBytes (sliceBytes (img t) (256 * ((t.par 0).toNat + k)) 256))) = true →
      (¬ done e.c ∨ ¬ inDeck e.c) → exec (.ttov m v sp n) s = .next held))

/-- 10 R274, R279 to R298: the forms that name a tensor read its record in their die's cache at issue, check words, boxes
and formats, and enter the window with their record and their witness; `RECOMP` and `RESTORE` set the tensor's latch,
`COLL` reads its operands and is charged by the counts of its group table as it then stands, which its engine corrects (log
22, the model's reading).
The forms run as bundles of one form, which is the model's choice (log 16). -/
def Obligations.TensorForms : Prop := ∀ (m : Mask) (sp : BitVec 6) (w op : BitVec 4) (bs : List Byte),
  let id := fun (t : TIn) => twId (t.par 0)
  let r := fun (t : TIn) => TRec.parse (id t) bs
  let named := fun (t : TIn) => id t ≠ 0 ∧ (∀ d ∈ t.s.drops, d.cid ≠ t.c.cid) ∧
    (t.s.cached (dieOf t.a) t.c.pd.toNat (id t)).map (·.bytes) = some bs ∧ recDefect bs = false
  let touch := fun (t : TIn) (s : State) => s.touchRec (dieOf t.a) t.c.pd.toNat (id t)
  let boxed := fun (t : TIn) => t.boxOk (r t) = true ∧ t.flatBox (r t) = true
  let units := fun (b : Nat) => (b + 255) / 256
  let a := fun (t : TIn) => t.at 0
  let got := fun (t : TIn) => (⟨0, t.boxRows (r t), t.boxCols (r t), (r t).fmt, 0⟩ : Entry)
  let sends := fun (t : TIn) => named t ∧ (a t).fmt = (r t).fmt ∧ (a t).scale = 0 ∧ twScoped (t.par 0) = true ∧ boxed t ∧
    (a t).rows = t.boxRows (r t) ∧ (a t).cols = t.boxCols (r t)
  let stashes := fun (t : TIn) (l : W64) (cnt : Nat) => stashDefect (r t) = false ∧
    (l.toNat + cnt + 31) / 32 ≤ (r t).blocks ∧ l.toNat % 32 = 0
  let copies := fun (t : TIn) => t.boxOk (r t) = true ∧ (t.par 5).extractLsb' 1 4 = 0 ∧
    spFail t.c (t.par 4) (t.boxImage (r t)) = none ∧
    ((t.par 5).getLsbD 0 = true → spFail t.c (refAddr (t.par 5)) 32 = none) ∧ (t.par 4).toNat % (r t).eb = 0
  let pop := fun (t : TIn) (scope : Nat) (e : Nat) =>
    ({ need := 1, pops := 1, binds := t.c.stack.take 1, outWit := some (w.toNat, scope), record := bs, also := touch t
       energy := e } : TPlan)
  TileCommits (.tget m sp w) m sp.toNat 4 w.toNat
    (fun t => named t ∧ twRead (t.par 0) = true ∧ boxed t ∧ (got t).rowBytes ≤ 512 ∧ (got t).rows ≤ 128)
    (fun t => { out := [got t], fresh := some (got t).bytes, input := true, record := bs, also := touch t
                energy := 192 * units (got t).bytes }) ∧
  TileCommits (.tsend m sp w) m sp.toNat 4 0 sends (fun t => pop t (twScope (t.par 0)) (192 * units (a t).bytes)) ∧
  TileCommits (.tsendq m sp w) m sp.toNat 6 0 (fun t => sends t ∧ (t.par 4).toNat % 32 = 0)
    (fun t => pop t (twScope (t.par 0)) (192 * units (a t).bytes)) ∧
  TileCommits (.acopy m sp w) m sp.toNat 6 w.toNat (fun t => named t ∧ twRead (t.par 0) = true ∧ copies t)
    (fun t => { input := true, record := bs, also := touch t, energy := 192 * units (t.boxImage (r t)) }) ∧
  TileCommits (.acopyw m sp w) m sp.toNat 6 0 (fun t => named t ∧ twScoped (t.par 0) = true ∧ copies t)
    (fun t => { outWit := some (w.toNat, twScope (t.par 0)), record := bs, also := touch t
                energy := 192 * units (t.boxImage (r t)) }) ∧
  TileCommits (.stash m sp w) m sp.toNat 2 0
    (fun t => named t ∧ stashes t (t.par 1) ((a t).rows * (a t).cols) ∧ ((a t).fmt = 5 ∨ (a t).fmt = 6) ∧
      twScoped (t.par 0) = true)
    (fun t => pop t (twScope (t.par 0)) (96 * units (a t).bytes)) ∧
  TileCommits (.restore m sp w) m sp.toNat 3 w.toNat
    (fun t =>
      let x := shapeEntry (t.par 2)
      named t ∧ stashes t (t.par 1) (x.rows * x.cols) ∧ x.fmt = (r t).fmt ∧ x.scale = 0 ∧ twRead (t.par 0) = true ∧
        (t.par 2).toNat < 2 ^ 30 ∧ x.rowBytes ≤ 512 ∧ t.s.latchFault t.c (id t) false = none)
    (fun t =>
      let x := shapeEntry (t.par 2)
      { out := [x], fresh := some x.bytes, input := true, record := bs, energy := 96 * units x.bytes
        also := fun s => touch t (s.setLatch t.c (id t) false) }) ∧
  TileCommits (.recomp m sp) m sp.toNat 1 0
    (fun t => named t ∧ (t.par 0).toNat < 2 ^ 20 ∧ t.s.latchFault t.c (id t) true = none)
    (fun t => { now := true, record := bs, also := fun s => touch t (s.setLatch t.c (id t) true) }) ∧
  TileCommits (.grad m sp w) m sp.toNat 4 0
    (fun t => named t ∧ (r t).fmt = 6 ∧ (r t).opt < 3 ∧ (r t).expect ≠ 0 ∧ (a t).fmt = 6 ∧ (t.par 0).toNat < 2 ^ 20 ∧
      originOk (r t).rank (t.par 1) (t.par 2) = true)
    (fun t => pop t 4 (192 * ((r t).gradTags t.c.pd.toNat ((r t).gradCells t.org (a t).rows (a t).cols)).length)) ∧
  TileCommits (.coll m op sp w) m sp.toNat 4 w.toNat
    (fun t => op.toNat ≤ 3 ∧ ((t.par 0).toNat = 3 ∨ (t.par 0).toNat = 5 ∨ (t.par 0).toNat = 6) ∧ 1 ≤ (t.par 1).toNat ∧
      (t.par 1).toNat ≤ 2 ^ 24 ∧ (t.par 2).toNat % 8 = 0 ∧ (t.par 3).toNat % 32 = 0)
    (fun t =>
      let k := t.s.groupCounts t.c.pd.toNat (t.par 2).toNat
      { input := true, energy := 192 * units ((t.par 1).toNat * tileSize ((t.par 0).extractLsb' 0 6) * (k.1 + k.2)) })

/-- 06 R146, 05 R126 to R128, 06 R136, R157, 16 R340, 19 R381: a context's issue at its position. A bundle reference issues
the bundle it names with the literals that follow it, when the context has the issue of its core's cycle, which it then has
used and which the other contexts of the core see; a context that has not may only begin its hold. A repeat prefix opens its
group, with the count less one in its field; repetition k of the group issues the bundle with each stepped field advanced by k
times its step, which the group has read once, and a field out of its range, or a C slot, makes that repetition illegal. At
the segment end issue passes to unit 0 of the next segment without a tick, and at the end of the last one the item is illegal; a
segment that cannot be fetched faults at the first bundle that needs it. A poisoned segment is a machine event. A held bundle
is looked at again; the segment prefetch brings the next segment into the other half.
That each of these is one step of the model, and does nothing when it is not due, is the model's choice (logs 1 and 10). -/
def Obligations.IssueEvents : Prop := ∀ (s : State) (a : Nat) (c : Ctx),
  s.ctx a = some c → c.status = .running → c.opFaulted = false → c.pendTrap = none →
  let x := s.coreSt (coreOf a)
  let turn := x.chosen = some a ∧ ∃ n, x.issued = some (s.cycle, n)
  let u : State := { s with cur := a }
  let gives := fun (s1 : State) =>
    let moved := ∀ d, s1.ctx a = some d → d.issues ≠ c.issues ∨ d.capture ≠ c.capture ∨ d.status ≠ c.status
    let issues := fun (r : State) =>
      exec (.bundleIssue a) s = .next r ∧ (c.held = true → exec (.heldBundleRelease a) s = .next r)
    (moved → turn → issues ((s1.onCore (coreOf a) fun x => { x with chosen := none }).seenIssue a c.cid
      ((s.readyOn (coreOf a)).map (·.1)))) ∧
    (moved → ¬ turn → issues s) ∧ (¬ moved → issues s1)
  let issuable := s.mayIssue c = true ∧ c.dueBad = false ∧ c.stopped = false ∧ c.vacating = false
  (∀ (h : Half), (c.halves.find? fun x => x.seg == c.pc.seg) = some h →
    (issuable → u.poisoned (lbKey a h.seg) 8 = true → gives (u.machineEvent a c.pc 0 none 0 0 (seqUnit a))) ∧
    (u.poisoned (lbKey a h.seg) 8 = false →
      (∀ (idx l : Nat) (e : Env) (entry : Bool) (z : Slots),
        h.mbz = true → h.item c.pc.unit = some (.ref idx l) → u.poisoned (btKey a idx) 32 = false →
        u.env a h (h.after (c.pc.unit + (1 + l))) = some e →
        decodeBundle (e.c.bundle idx) ((h.units.drop (c.pc.unit + 1)).take l) = .ok entry z → gives (issueIn e (slotReqs z))) ∧
      (∀ (n idx l : Nat) (st : Unit16) (e : Env),
        h.mbz = true → h.item c.pc.unit = some (.group n st idx l) → u.poisoned (btKey a idx) 32 = false →
        let g := c.rep.getD ⟨0, n, st⟩
        (u.onCtx a fun c => { c with rep := some g }).env a h (h.after (c.pc.unit + (3 + l))) = some e →
        let w := stepWord (e.c.bundle idx) g.steps g.k
        let extra : BitVec 8 := (if w.2 then 0 else 0x80) ||| (if (e.c.bundle idx).slotC.cls = 0 then 0 else 0x20)
        e.repK = g.k ∧ e.repN = g.n ∧
        ∀ (entry : Bool) (z : Slots), decodeBundle w.1 ((h.units.drop (c.pc.unit + 3)).take l) = .ok entry z →
          (extra = 0 → gives (issueIn e (slotReqs z))) ∧ (extra ≠ 0 → gives (bundleFault e 0x01 0 (extra ||| lateIllegal e z)))) ∧
      (h.item c.pc.unit = some .segEnd → issuable →
        (h.last = false → h.mbz = true →
          exec (.bundleIssue a) s = .next (u.onCtx a fun c => { c with pc := ⟨h.nextSeg, 0⟩ })) ∧
        (h.last = true ∨ h.mbz = false → ∀ e, u.env a h (h.after (c.pc.unit + 1)) = some e →
          gives (bundleFault e 0x01 0 0x80)))) ∧
    (∀ (n : BitVec 8) (k idx l : Nat) (st : Unit16), s.cur = a → h.item c.pc.unit = some (.group k st idx l) →
      exec (.repeatPrefix n) s = .next (s.onCtx a fun c => { c with rep := some (c.rep.getD ⟨0, n.toNat + 1, st⟩) })) ∧
    (∀ (x : Half) (s1 : State), h.last = false → (∀ y ∈ c.halves, y.seg ≠ h.nextSeg) →
      s.fetchSeg c.pd.toNat h.nextSeg = .ok s1 x →
      exec (.segmentPrefetch a) s = .next ((s1.clearKey (lbKey a h.nextSeg)).onCtx a fun c => { c with halves := [h, x] })) ∧
    h.nextSeg = h.hdr.toNat / 2 ^ 14 * 128 ∧ (h.last = true ↔ h.hdr.toNat % 2 = 1) ∧
    ∀ n, h.after n = if h.item n = some .segEnd ∧ h.last = false then ⟨h.nextSeg, 0⟩ else ⟨h.seg, n⟩) ∧
  (∀ (f : MFault) (e : Env), issuable → u.segment a c.pc.seg = .fault f → u.env a ⟨c.pc.seg, 0, [], 0⟩ c.pc = some e →
    gives (trapAt e (memFault f)))

/-- 05 R121, R130, 06 R146: a step of the package takes the next event of its schedule. At a context whose position holds
a reference to a bundle that decodes to one form, the issue of the bundle is the meaning of that form, where the context
has the issue of its core's cycle.
The list of steps to take is the model's own (log 1). -/
def Obligations.StepRunsDecoded : Prop := (∀ (s : State) (i : Instr) (l : List Instr), s.events = i :: l → step s = exec i { s with events := l }) ∧
  (∀ s : State, s.events = [] → step s = exec s.autoEvent { s with rotor := s.rotor + 1 }) ∧
  ∀ (s : State) (c : Ctx) (h : Half) (idx l : Nat) (entry : Bool) (z : Slots) (i : Instr) (r : SlotReq),
    s.ctx s.cur = some c → c.status = .running → c.opFaulted = false → c.pendTrap = none →
    (c.halves.find? fun x => x.seg == c.pc.seg) = some h → h.mbz = true → h.item c.pc.unit = some (.ref idx l) →
    s.poisoned (lbKey s.cur h.seg) 8 = false → s.poisoned (btKey s.cur idx) 32 = false →
    decodeBundle (c.bundle idx) ((h.units.drop (c.pc.unit + 1)).take l) = .ok entry z →
    reqOf i = some r → slotReqs z = [r] →
    ∃ t, exec i s = .next t ∧
      (s.hasIssued t s.cur = true → s.hasTurn s.cur = true →
        exec (.bundleIssue s.cur) s = .next ((t.onCore (coreOf s.cur) fun x => { x with chosen := none }).seenIssue s.cur c.cid
          ((s.readyOn (coreOf s.cur)).map (·.1)))) ∧
      (s.hasIssued t s.cur = true → s.hasTurn s.cur = false → exec (.bundleIssue s.cur) s = .next s) ∧
      (s.hasIssued t s.cur = false → exec (.bundleIssue s.cur) s = .next t)

/-- 05 R132, 08 R217, 07 R211: a result that is due lands at its context's tick: a scalar, condition, witness, predicate,
vector, pattern or format register then reads what landed, a vector and a predicate merged under their lanes; every other
register of every file keeps its value, and so do the other contexts and memory. While the records that it posts find no
room in the statistics queue, it does not land (16 R342); one that lies in a poisoned entry is a machine event (19 R381).
That each of these is one step of the model, and does nothing when it is not due, is the model's choice (logs 1 and 10). -/
def Obligations.ResultLanding : Prop := ∀ (s : State) (a n : Nat) (c : Ctx) (p : Pend) (rest : List Pend),
  s.ctx a = some c → c.pend = p :: rest → p.left = 0 → p.ready = true → (∀ q ∈ rest, q.left ≠ 0) →
  (p.stats ≠ [] → c.status = .running → c.statDepth < c.statq.length + p.stats.length → c.statDepth < 4096 →
    exec (.resultLanding a) s = .next s) ∧
  (p.stats = [] → p.bad = true → p.reg ≠ .none → c.status = .running →
    exec (.resultLanding a) s = .next (s.machineEvent a c.pc 0 none 0 0 (seqUnit a))) ∧
  (p.bad = false → p.stats = [] ∨ c.statq.length + p.stats.length ≤ c.statDepth → ∃ t d, exec (.resultLanding a) s = .next t ∧ t.ctx a = some d ∧ d.pend = rest ∧ t.mem = s.mem ∧ d.pc = c.pc ∧
    (∀ b, b ≠ a → t.ctx b = s.ctx b) ∧
    (p.reg = .s n → 0 < n → n < 58 → d.readS n = p.val.truncate 64) ∧ (p.reg ≠ .s n → d.readS n = c.readS n) ∧
    (p.reg = .w n → 0 < n → d.readW n = p.val.truncate 64) ∧ (p.reg ≠ .w n → d.readW n = c.readW n) ∧
    (p.reg = .q n → 0 < n → n < 32 → d.readQ n = p.val.getLsbD 0) ∧ (p.reg ≠ .q n → d.readQ n = c.readQ n) ∧
    (p.reg = .p n → 0 < n → ∀ i < 256, (d.readP n).getLsbD i =
      if p.lanes.getLsbD i then p.val.getLsbD i else (c.readP n).getLsbD i) ∧ (p.reg ≠ .p n → d.readP n = c.readP n) ∧
    (p.reg = .v n → t.readV a n = mergeLanes p.lanes (s.readV a n) p.val) ∧ (p.reg ≠ .v n → t.readV a n = s.readV a n) ∧
    (p.reg = .xp n → d.readXp n = (p.val, p.xmask)) ∧ (p.reg ≠ .xp n → d.readXp n = c.readXp n) ∧
    (p.reg = .fmt → d.fmt = p.val.truncate 64) ∧ (p.reg ≠ .fmt → d.fmt = c.fmt) ∧
    (p.stats = [] → d.statq = c.statq))

/-- 16 R340, R341, R345, 06 R162: in each cycle the core gives its issue once, and a second time where its span's clock has
earned a step: to one granted for waiting, to a context whose count of waiting cycles has reached its bound, else to the one
that issued in the cycle before, that is since no cycle of the clock has passed in which none did, while it is ready, else to the ready one of highest priority in turn. When a context issues, the other contexts of its core that
were ready count the cycle, once, and one that `YIELD` passes over has seen it issue. The one that has the issue keeps it until it has issued, unless it is no longer ready. A
context that is being saved, whose banks are being vacated or that `YIELD` passes over is not ready; one passed over is
eligible again once every other ready one has issued or 64 cycles have passed. How many bundles a core may issue in a
reference cycle, as cycles of its span's clock of 1.05 GHz and 42 MHz a step end in it, which a derated die clamps (19 R391),
is the model's reading of those steps (log 19).
That each of these is one step of the model, and does nothing when it is not due, is the model's choice (logs 1 and 10). -/
def Obligations.IssueSelection : Prop := ∀ (s : State) (core a : Nat),
  let l := s.readyOn core
  let x := s.coreSt core
  let given := match x.issued with
    | some (t, n) => if t = s.cycle then n else 0
    | none => 0
  let open_ := ∃ b, x.chosen = some b ∧ s.hasTurn b = true
  let n := if x.chosen.any (fun b => s.hasTurn b) then given - 1 else given
  let own := (1050 + 42 * s.netSteps (core / 4)).toNat
  let mhz := match AL.get 0 s.derate (core / 48) with
    | 0 => own
    | 1 => min own 950
    | _ => min own 840
  let rate := (s.cycle + 1) * mhz / 1050 - s.cycle * mhz / 1050
  let free := (∀ b, x.chosen = some b → s.hasTurn b = true → s.readyNow b = false) ∧ n < rate
  let ready := fun (b : Nat) => ∃ c, (b, c) ∈ l
  let waits := fun (b : Nat) => ∃ c, (b, c) ∈ l ∧ 4096 ≤ c.waitCount
  let ungranted := ∀ b, x.grant = some b → ¬ ready b
  let ended := fun (t : Nat) => t * mhz / 1050
  let keeps := fun (b : Nat) => x.last = some b ∧ x.chosen = none ∧
    ∃ t k, x.issued = some (t, k) ∧ (t = s.cycle ∨ ended s.cycle = ended t + k)
  (free → x.grant = some a → ready a → exec (.issueSelection core) s = .next (s.give core a false n)) ∧
  (free → ungranted → starving l = some a →
    waits a ∧ exec (.issueSelection core) s = .next (s.give core a false n)) ∧
  (free → ungranted → starving l = none → keeps a → ready a →
    exec (.issueSelection core) s = .next (s.give core a false n)) ∧
  (free → ungranted → starving l = none → (∀ b, keeps b → ¬ ready b) → byPriority x.turn l = some a →
    exec (.issueSelection core) s = .next (s.give core a true n)) ∧
  (¬ open_ → rate ≤ n → exec (.issueSelection core) s = .next s) ∧
  (x.chosen = some a → s.hasTurn a = true → s.readyNow a = true → exec (.issueSelection core) s = .next s) ∧
  (ready a → (s.give core a false n).hasTurn a = true) ∧
  (starving l = none ↔ ∀ b, ¬ waits b) ∧
  (starving l = some a →
    exec (.starvationGrant core) s = .next (s.onCore core fun x => { x with grant := some a })) ∧
  (∀ c, s.ctx a = some c → c.stopped = true ∨ c.vacating = true ∨ c.yieldPass = true → s.readyNow a = false) ∧
  (∀ c, s.ctx a = some c → c.yieldPass = true →
    (c.yieldAt + 64 ≤ s.cycle ∨ ∀ b d, (b, d) ∈ s.readyOn (coreOf a) → b ≠ a → d.cid ∈ c.yieldSeen) →
    exec (.yieldPassEnd a) s = .next (s.setCtx a { c with yieldPass := false, yieldSeen := [] })) ∧
  (∀ (b cid : Nat) (c : Ctx), s.ctx b = some c →
    let t := s.seenIssue a cid ((s.readyOn (coreOf a)).map (·.1))
    let could := ∃ d, (b, d) ∈ s.readyOn (coreOf a)
    (coreOf b ≠ coreOf a ∨ b = a → t.ctx b = some c) ∧
    (coreOf b = coreOf a → b ≠ a → ∃ d, t.ctx b = some d ∧
      (could → c.waitAt ≠ s.cycle + 1 → d.waitCount = c.waitCount + 1 ∧ d.waitAt = s.cycle + 1) ∧
      (¬ could ∨ c.waitAt = s.cycle + 1 → d.waitCount = c.waitCount) ∧
      d.yieldSeen = (if c.yieldPass then cid :: c.yieldSeen else c.yieldSeen)))

/-- 06 R160, 16 R345: a barrier of a team, or of the whole gang instance, is released once every member has arrived or has
exited, and then every member that waits is released with the witness merged over the members in order; until then nothing
is released. The release of a gang barrier also moves a clock step to the span on which its last arriver is from the span
on which its first arriver is, when the spans differ, both stay within −5 to +5 and the predicted power allows it, which is
a free value (log 19), and forgets the two arrivers. That a context which a trap interrupted at the barrier still stands
there is the model's choice (log 30).
That each of these is one step of the model, and does nothing when it is not due, is the model's choice (logs 1 and 10). -/
def Obligations.BarrierRelease : Prop := ∀ (s : State) (task inst team b : Nat) (gang : Bool) (g : GInst),
  s.inst task inst = some g → g.status = .placed →
  let ms := g.members.filter fun m => gang || m.team == team
  let stands := fun (m : Member) => if m.exited then some (0 : W64) else (s.ctxOf m.agent m.cid).bind fun c => c.standsAt gang b
  let freed := ms.foldl (fun (s : State) x => if x.exited then s else s.onCtx x.agent fun c => c.letGo gang b
    (ms.foldl (fun w m => witMerge w ((stands m).getD 0)) 0)) s
  ((∃ m ∈ ms, m.exited = false) → (∀ m ∈ ms, (stands m).isSome) →
    (gang = false → exec (.barrierRelease task inst gang team b) s = .next freed) ∧
    (gang = true → ∃ u, exec (.barrierRelease task inst gang team b) s = .next u ∧ (∀ a, u.ctx a = freed.ctx a) ∧
      ∃ g2, u.inst task inst = some g2 ∧ g2.members = g.members ∧ AL.find g2.first b = none ∧ AL.find g2.last b = none ∧
        (∀ k, k ≠ b → AL.find g2.first k = AL.find g.first k ∧ AL.find g2.last k = AL.find g.last k) ∧
        ∀ (lc fc : Nat) (lm fm : Member), AL.find g.last b = some lc → AL.find g.first b = some fc →
          (g.members.find? fun m => m.cid == lc) = some lm → (g.members.find? fun m => m.cid == fc) = some fm →
          let net := fun (x : Nat) => (s.insts.map fun g => AL.get 0 g.steps x).foldl (· + ·) (0 : Int)
          let gain := spanOf lm.agent
          let lose := spanOf fm.agent
          let may := gain ≠ lose ∧ net gain < 5 ∧ -5 < net lose
          (may → Config.powerAllows s.choices = true → AL.get 0 g2.steps gain = AL.get 0 g.steps gain + 1 ∧
            AL.get 0 g2.steps lose = AL.get 0 g.steps lose - 1 ∧
            ∀ x, x ≠ gain → x ≠ lose → AL.get 0 g2.steps x = AL.get 0 g.steps x) ∧
          (¬ (may ∧ Config.powerAllows s.choices = true) → g2.steps = g.steps) ∧
          u.choices = s.choices + (if may then 1 else 0))) ∧
  ((∃ m ∈ ms, stands m = none) → exec (.barrierRelease task inst gang team b) s = .next s) ∧
  (∀ (c : Ctx) (w m : W64), c.arrived = some (gang, b, w) → c.released = none →
    c.standsAt gang b = some w ∧ c.letGo gang b m = { c with released := some m })

/-- 07 R204 to R206, 10 R287, R407: an arrival of b bytes merges its witness and adds its bytes; when the count reaches the
target the generation advances by one, the count is reduced by the target and the witness field cleared, the merged witness
is what the arrival releases, and the overrun flag is set when what is left reaches the target again or does not fit;
`SWINIT` writes target and generation and clears the rest. An engine's arrival is made once the bytes that it counts are
visible; one that cannot be made fails its form, once a record that this posts finds room (16 R342). That an arrival is a step
of its own, which leaves the state as it is while the bytes are not visible or the translation waits, is the model's choice
(logs 1 and 10). -/
def Obligations.SyncWords : Prop := (∀ (bs : List Byte) (b : Nat) (m sv : W64), bs.length = 32 → b < 2 ^ 32 →
    let f := fun (l : List Byte) (o n : Nat) => leNat (sliceBytes l o n)
    let r := arriveWord bs b m
    let merged := witMerge (BitVec.ofNat 64 (f bs 16 8)) m
    let left := f bs 4 4 + b - f bs 0 4
    r.1.length = 32 ∧ f r.1 0 4 = f bs 0 4 ∧ f r.1 24 8 = f bs 24 8 ∧
    (f bs 4 4 + b < f bs 0 4 → r.2 = none ∧ f r.1 4 4 = f bs 4 4 + b ∧ f r.1 8 4 = f bs 8 4 ∧ f r.1 16 8 = merged.toNat ∧
      f r.1 12 4 = f bs 12 4 % 2) ∧
    (f bs 0 4 ≤ f bs 4 4 + b → r.2 = some merged ∧ f r.1 4 4 = min left (2 ^ 32 - 1) ∧
      f r.1 8 4 = (f bs 8 4 + 1) % 2 ^ 32 ∧ f r.1 16 8 = 0 ∧
      f r.1 12 4 = (if f bs 0 4 ≤ left ∨ 2 ^ 32 ≤ left then 1 else f bs 12 4 % 2)) ∧
    (initWord sv).length = 32 ∧ f (initWord sv) 0 4 = sv.toNat % 2 ^ 32 ∧ f (initWord sv) 4 4 = 0 ∧
    f (initWord sv) 8 4 = sv.toNat / 2 ^ 32 ∧ f (initWord sv) 12 4 = 0 ∧ f (initWord sv) 16 8 = 0 ∧ f (initWord sv) 24 8 = 0) ∧
  ∀ (s : State) (i : Nat) (r : Arrival), s.arrivals.find? (fun y => y.id == i) = some r →
    let s1 : State := { s with arrivals := s.arrivals.filter fun y => y.id != i }
    let seen := r.after = false ∨ ∀ f ∈ s.forms, f.isForm r.agent r.dom r.seq = true → scopeLevel f.wscope ≤ f.level
    (¬ seen → exec (.syncArrive i) s = .next s) ∧
    (seen → ∀ s2, s1.arriveAt true r.dom r.sp r.va r.bytes [r.floor] r.wit r.src = .ok s2 () →
      exec (.syncArrive i) s =
        .next (if r.sp then s2 else s2.wroteLines r.agent r.cid r.dom 1 none r.pos [flatTag r.dom r.va])) ∧
    (seen → s1.arriveAt true r.dom r.sp r.va r.bytes [r.floor] r.wit r.src = .wait → exec (.syncArrive i) s = .next s) ∧
    (seen → ∀ f, s1.arriveAt true r.dom r.sp r.va r.bytes [r.floor] r.wit r.src = .fault f →
      exec (.syncArrive i) s = .next (s.whenPosted (s1.arrivalFails r))) ∧
    (r.seq ≠ 0 → s.arrivalFails r =
      (if r.detail = 0 then s.postTo (s.slotOfCid r.cid) r.cid r.pos (engUpdate (r.agent - 773)) (statsOf (fmtStatmask r.fmt) [2 ^ 11])
       else s.noteFormFault r.cid r.detail).failForm r.agent r.dom r.seq r.epoch 5 r.cid)

/-- 05 R137, 07 R184, R191, R199, 13 R309, 19 R375, R381: what becomes of an access that has been issued. A read is performed
and its value fills the result that waits for it; a write is performed at its home, then is in memory, then visible
everywhere; a fault that is delivered, and a witness that has failed, stop the context, and poisoned data is a machine
event; an access kept over a trap is not performed; an ordered access is stamped with the first position of its agent
from now on that its context has not used, and performed in the order of the stamps, 2,048 cycles after its own.
That each of these is one step of the model, and does nothing when it is not due, is the model's choice (logs 1 and 10). -/
def Obligations.AccessEvents : Prop := ∀ (s : State) (i : Nat) (x : Access), s.acc i = some x →
  let may := s.mayTry x = true
  (may → x.ord ≠ 2 → ∀ s1 v, s.performRead x = .ok s1 v →
    exec (.loadValueArrival i) s = .next (((s1.progress (dieOf x.agent)).fillAcc x v.1 v.2 []).dropAccess x.id)) ∧
  (may → x.ord ≠ 2 → x.kind ≠ .swinit → x.kind ≠ .launch → ∀ s1 w, s.performWrite x = .ok s1 w →
    exec (.storeVisible i 3) s = .next ((s1.fillAcc x w.val 0 (x.stats w.evs)).settle w.acc w.level)) ∧
  (x.level = 3 → exec (.storeVisible i 4) s = .next ((x.lines.foldl (fun s t => s.writeBack t) s).settle x 4)) ∧
  (x.level = 4 → exec (.storeVisible i 5) s = .next (s.settle x 5)) ∧
  (may → ∀ f, s.accFault x = some f → f.cause ≠ 0x50 → exec (.deliveredFault i) s = .next (s.trapAccess x (memFault f) true)) ∧
  (may → ∀ f, s.accFault x = some f → f.cause = 0x50 → exec (.deliveredFault i) s = .next (s.machineAcc x f)) ∧
  (x.level = 0 → x.kept = false → x.sat = false → x.kind ≠ .swarr → s.witFailed x.wit = true →
    exec (.witnessFailureDelivery i) s =
      .next (s.trapAccess x { cause := 0x33, aux := x.wit, unit := seqUnit x.agent } false)) ∧
  (x.kind = .swarr → s.arrivals.find? (fun r => r.id == i) = none → may →
    exec (.syncArrive i) s = .next (s.landArrive x)) ∧
  (x.kept = true → exec (.loadValueArrival i) s = .next s ∧ exec (.storeVisible i 3) s = .next s ∧
    exec (.deliveredFault i) s = .next s ∧ exec (.witnessFailureDelivery i) s = .next s ∧ exec (.scPerform i) s = .next s) ∧
  (x.ord = 2 → x.level = 0 → x.kept = false → x.stamp = none →
    (∀ y ∈ s.before x, y.cid = x.cid → (y.seq.isSome → 4 ≤ y.level) ∧ (y.ord = 2 → y.level = 0 → y.stamp.isSome)) →
    ∀ c, s.ctxOf x.agent x.cid = some c →
    let first := s.wheelTime + (x.agent % 768 + 768 - s.wheelTime % 768) % 768
    let st := if first < c.scLast then c.scLast + 767 else first
    exec (.scStamp i) s =
      .next ((s.onAcc i fun y => { y with stamp := some st }).onCtx x.agent fun c => { c with scLast := st + 1 })) ∧
  (∀ st, x.stamp = some st → may → (∀ y ∈ s.accs, y.level = 0 → y.kept = false → ∀ u, y.stamp = some u → st ≤ u) →
    st + 2048 ≤ s.wheelTime →
    (x.kind = .load → exec (.scPerform i) s = .next (s.landRead x)) ∧
    (x.kind ≠ .load → exec (.scPerform i) s = .next (s.landWrite x)))

/-- 01 R6, 13 R312, R315, 07 R199, 17 R371, 19 R382, R390: the clocks. The wheel advances one position each reference cycle and wraps after
768, once the epoch tick, the energy shares, the error records and the sample that are due in that cycle have happened; an epoch tick comes every 1,024
cycles; an epoch of a domain closes at a scope when every form of it can be seen; the sweep marks lines 2^20 epochs old.
That each of these is one step of the model, and does nothing when it is not due, is the model's choice (logs 1 and 10). -/
def Obligations.ClockEvents : Prop := ∀ (s : State) (dom scope : Nat),
  let due := (s.epoch + 1) * 1024 ≤ s.cycle
  let shares := s.shareNum < s.cycle / 1050000 ∨ s.errNum < s.cycle / 1050000 ∨ s.sampleNum < s.cycle / 1050000000
  (¬ due → ¬ shares → ∃ t, exec .wheelAdvance s = .next t ∧ t.cycle = s.cycle + 1 ∧
    (s.wheel < 768 → t.wheelTime = s.wheelTime + 1) ∧
    t.wheel = (if s.wheel + 1 < 768 then s.wheel + 1 else 0) ∧ t.mem = s.mem ∧ t.ctxs = s.ctxs ∧ t.accs = s.accs) ∧
  (due ∨ shares → exec .wheelAdvance s = .next s) ∧
  exec .epochTick s = .next (if due then { s with epoch := s.epoch + 1 } else s) ∧
  ((scope = 4 ∨ scope = 5) → dom < 64 → s.canClose dom scope = true →
    ∃ t, exec (.epochClose dom scope) s = .next t ∧ t.closedOf dom scope = s.closedOf dom scope + 1 ∧
      t = { s with closed := t.closed }) ∧
  (∃ t, exec .lineAgingSweep s = .next t ∧ t = { s with l1 := t.l1, l2 := t.l2 } ∧
    (∀ l ∈ t.l2, l.stamp + 2 ^ 20 ≤ s.epoch + 1 → l.aged = true) ∧
    (∀ l ∈ t.l1, l.stamp + 2 ^ 20 ≤ s.epoch + 1 → l.aged = true))

/-- 17 R354 to R357, 21 R398: a page walk for something that waits for a line that misses fills the line of the address
with the leaf it finds, over a link that is up, and leaves every other line as it is; where the line maps the page, where
nothing waits for it, or where the link is down, it leaves the state as it is. An entry on its way into force for a waiting
access is put in force. That the firmware may begin to move the page just then, when a free value says so, is the model's
choice (log 22).
10 R274, 07 R191, R210, 14 R325, R327: a record that the form of a held bundle names is filled from memory into the cache
of its die, once the context's own stores to it are performed; one that no held form waits for is not; a drop whose witness is satisfied
takes the record from every die's cache and its lines from every L1 and every L2, the stores they hold written back first,
and then its form is visible, or its task has its work done; one whose witness has failed is never made, and until either
it waits. That a fill reads under the floors of the domain's contexts on the die, and waits for the context's stores, is the
model's reading (log 22), and that a drop does not wait for itself its choice (log 39).
That each of these is one step of the model, and does nothing when it is not due, is the model's choice (logs 1 and 10). -/
def Obligations.TranslationAndRecords : Prop :=
  (∀ (s : State) (dom va : Nat) (l : PLeaf),
  (let maps := fun (u : State) => (u.l2Line (flatTag dom va)).bind fun x => AL.find x.maps (va / 65536)
   (va < 2 ^ 57 → s.walk dom va = .leaf l → maps s = none → s.linkDown l = false → s.wantsLine dom va l = true →
     (Config.firmwareMoves s.choices = false →
       ∃ t, exec (.pageWalk dom va) s = .next t ∧ t = { s with l2 := t.l2, choices := s.choices + 1 } ∧ maps t = some l ∧
         ∀ u, u ≠ flatTag dom va → t.l2Line u = s.l2Line u) ∧
     (Config.firmwareMoves s.choices = true →
       exec (.pageWalk dom va) s = .next (({ s with choices := s.choices + 1 } : State).moveOut dom va))) ∧
   (2 ^ 57 ≤ va ∨ maps s ≠ none → exec (.pageWalk dom va) s = .next s) ∧
   (s.walk dom va = .leaf l → s.linkDown l = true ∨ s.wantsLine dom va l = false → exec (.pageWalk dom va) s = .next s)) ∧
  (∀ b : Nat × Nat × Nat × W64, (s.backing.find? fun b => b.1 == dom && b.2.2.1 / 2 ^ levelLo b.2.1 == va / 2 ^ levelLo b.2.1) = some b →
    let lo := 2 ^ levelLo b.2.1
    exec (.transparentFaultResolve dom va) s =
      .next ((({ s with backing := s.backing.filter (· != b) } : State).putEntry dom b.2.1 b.2.2.1 b.2.2.2).1.invalidate dom
        (b.2.2.1 / lo * lo / 65536) (lo / 65536)))) ∧
  (∀ (s s1 : State) (die dom id i : Nat) (bs : List Byte) (d : Drop),
  (∀ (a : Nat) (c : Ctx) (f : Instr) (r : Nat), (a, c) ∈ s.ctxs → dieOf a = die → c.pd.toNat = dom → c.held = true →
    c.status = .running → c.formT = some f → tensorReg f = some r → twId (c.readS r) = id →
    (∀ x ∈ s.accs, x.cid = c.cid → x.level = 0 → x.isStore = true → x.sp = false →
      ∀ p ∈ x.parts, s.recAddr dom id + 128 ≤ p.1 ∨ p.1 + p.2.2 ≤ s.recAddr dom id) →
    0 < id → id < 2 ^ 20 → die < 4 → s.cached die dom id = none →
    s.readFlat dom .read (s.ctxs.flatMap fun e => if dieOf e.1 == die && e.2.pd.toNat == dom then s.floorOf e.2 else [])
      (s.recAddr dom id) 128 = .ok s1 bs →
    ∃ t, exec (.recordFill die dom id) s = .next t ∧ t.cached die dom id = some ⟨die, dom, id, bs⟩ ∧ t.mem = s1.mem ∧
      ∀ k e j, k ≠ die → t.cached k e j = s1.cached k e j) ∧
  ((∀ e ∈ s.ctxs, dieOf e.1 = die → e.2.pd.toNat = dom → e.2.held = false) → exec (.recordFill die dom id) s = .next s) ∧
  (s.drops[i]? = some d → d.sat = true ∨ (s.witFailed d.wit = false ∧ s.witSat d.wit = true) →
    let s0 : State := { s with drops := s.drops.eraseIdx i }
    let u := s0.dropRecord d.dom d.id
    let lines := (s.l2.filter fun l => l.dom == d.dom && l.id != 0 && (d.id == 0 || l.id == d.id)).map fun l =>
      (⟨l.dom, l.id, l.coords⟩ : Tag)
    (∀ k, d.id ≠ 0 → u.cached k d.dom d.id = none) ∧ (∀ k j, d.id = 0 → j ≠ 0 → u.cached k d.dom j = none) ∧
    (∀ x ∈ u.l1, x.dom = d.dom → x.id ≠ 0 → d.id ≠ 0 ∧ x.id ≠ d.id) ∧
    (∀ x ∈ u.l2, x.dom = d.dom → x.id ≠ 0 → d.id ≠ 0 ∧ x.id ≠ d.id) ∧
    u.mem = (lines.foldl (fun s t => s.writeBack t) s0).mem ∧
    (d.task = 0 → exec (.recordDropComplete i) s = .next (u.formLevel d.agent d.dom d.seq 5)) ∧
    (d.task ≠ 0 → exec (.recordDropComplete i) s =
      .next (u.onTask d.task fun t => { t with count := t.count + 1 }))) ∧
  (s.drops[i]? = some d → d.sat = false → s.witFailed d.wit = true → exec (.recordDropComplete i) s = .next (s.dropFails d)) ∧
  (s.drops[i]? = some d → d.sat = false → s.witFailed d.wit = false → s.witSat d.wit = false →
    s.ownSat d.dom (fun f => f.isForm d.agent d.dom d.seq) d.wit = false → exec (.recordDropComplete i) s = .next s))

/-- 02 R57, R58, 04 R110, R111, 07 R192, R194, 13 R308, R309: memory. A write of bytes leaves every other byte as it was, what was written
reads back, and the canonical form of memory is kept. A scalar or vector store that is performed writes exactly the bytes
of its true lanes at the physical address that its translation gives and leaves every other byte as every line shows it:
in device memory the line of the address holds them until they are written back, when memory has them; in host memory
and behind a port memory has them at once. A load gives the bytes of its line's home, the lowest address first, extended
as it says. The first record of a statistics queue becomes a store of its context; where the buffer has room it is written
at base + 16 · (wr mod cap) and wr then advances, and else it is counted in lost, with those that a full queue dropped.
The canonical form of memory is the model's own (log 2). -/
def Obligations.MemoryWrites : Prop := (∀ (s : State) (k : Nat) (bs : List Byte),
    let t := s.memWrite (zipIdxBytes k bs)
    t.memBytes k bs.length = bs ∧ (∀ j, j < k ∨ k + bs.length ≤ j → t.memByte j = s.memByte j) ∧
    (Memory.wf s.mem = true → Memory.wf t.mem = true) ∧ t.ctxs = s.ctxs ∧ t.regmem = s.regmem ∧ t.accs = s.accs) ∧
  ∀ (s s0 : State) (x : Access) (l : PLeaf) (k : Nat),
    let t := flatTag x.dom x.va
    let byte := fun (k0 k : Nat) => x.data.extractLsb' (8 * (k - k0)) 8
    let stored := fun (k0 k : Nat) => k0 ≤ k ∧ k < k0 + x.size ∧ x.lanes.getLsbD (k - k0) = true
    (x.kind = .store → x.sp = true → x.parts = [(k, 0, x.size)] → ∃ s1 w, s.performWrite x = .ok s1 w ∧ w.acc = x ∧ w.level = 5 ∧
      ∀ j, s1.memByte j = if stored k j then byte k j else s.memByte j) ∧
    (x.kind = .store → x.sp = false → s.translate t x.va .write false = .ok s0 l →
      let k0 := physKey l.target l.port (l.pa + x.va % 65536)
      ∃ s1 w, s.performWrite x = .ok s1 w ∧ w.acc = x ∧
        (l.target = 0 → w.level = 3 ∧ (∀ j, s1.memByte j = s.memByte j) ∧
          (∀ u j, s1.homeRead u [j] = if u = t ∧ stored k0 j then [byte k0 j] else s.homeRead u [j]) ∧
          (∀ j, stored k0 j → (s1.writeBack t).memByte j = byte k0 j) ∧
          (∀ j, (∀ m, s1.l2Line t = some m → AL.find m.dirty j = none) → (s1.writeBack t).memByte j = s.memByte j)) ∧
        (l.target ≠ 0 → w.level = 5 ∧ ∀ j, s1.memByte j = if stored k0 j then byte k0 j else s.memByte j)) ∧
    (x.kind = .load → x.sp = false → x.size ≤ 256 → ∀ s1 bs, s.readGlobal x .read false = .ok s1 bs →
      ∃ v, s.performRead x = .ok s1 (BitVec.ofNat 2048 v, 0) ∧ (x.sx = false → v = leNat bs) ∧
        (x.sx = true → 0 < x.size → x.size ≤ 8 → bs.length = x.size →
          v = (if 2 ^ (8 * x.size - 1) ≤ leNat bs then 2 ^ 64 - 2 ^ (8 * x.size) + leNat bs else leNat bs))) ∧
    (∀ (r : StatRec) (lost : Nat) (s1 s2 s3 s4 : State) (hdr : List Byte), x.kind = .stat r lost →
      s.readFlat x.dom .read (s.accWits x) x.va 32 = .ok s1 hdr →
      let f := fun (o n : Nat) => leNat (sliceBytes hdr o n)
      let wr := f 12 4
      let room := f 0 8 % 16 = 0 ∧ (wr + 2 ^ 32 - f 16 4) % 2 ^ 32 < f 8 4
      let record := natLe 8 r.pos.toWord.toNat ++ [r.eng] ++ natLe 1 r.code ++ [0, 0] ++ natLe 4 r.count
      let lose := fun (n : Nat) => natLe 4 (min (f 20 4 + n) (2 ^ 32 - 1))
      (room → s1.writeFlat x.dom (f 0 8 + 16 * (wr % f 8 4)) record = .ok s2 () →
        s2.writeFlat x.dom (x.va + 12) (natLe 4 ((wr + 1) % 2 ^ 32)) = .ok s3 () →
        (lost = 0 → ∃ w, s.performWrite x = .ok s3 w) ∧
        (lost ≠ 0 → s3.writeFlat x.dom (x.va + 20) (lose lost) = .ok s4 () → ∃ w, s.performWrite x = .ok s4 w)) ∧
      (¬ room → s1.writeFlat x.dom (x.va + 20) (lose (lost + 1)) = .ok s2 () → ∃ w, s.performWrite x = .ok s2 w)) ∧
    (∀ (a : Nat) (c : Ctx) (r : StatRec) (q : List StatRec), s.ctx a = some c → c.statq = r :: q →
      let t := s.drainStat a
      (∃ d l, t.ctx a = some d ∧ d.statq = q ++ l) ∧ (c.statbuf = 0 → t.accs = s.accs) ∧
      (c.statbuf ≠ 0 → ∃ y, t.accs = s.accs ++ [y] ∧ y.kind = .stat r c.lost ∧ y.va = c.statbuf.toNat ∧ y.dom = c.pd.toNat ∧
        y.cid = c.cid ∧ y.sp = false ∧ y.scope = 1 ∧ y.level = 0)) ∧
    (x.ord = 1 → s.translate t x.va .read false = .ok s0 l → ∀ s1,
      s0.homeReady t (s.accWits x) [(l, x.va, x.size)] = .ok s1 () → s1.poisonOf t [(l, x.va, x.size)] = none →
      ∃ s2, s.readGlobal x .read false =
        .ok s2 (s1.homeRead t ((List.range x.size).map (physKey l.target l.port (l.pa + x.va % 65536) + ·))))

/-- 21 R396, R398, 13 R308: the host and a peer read device memory without changing it, and a write of theirs writes
exactly its bytes, when the link is up and the bytes lie in device memory (in recovery, for the host, in its first 1 GiB:
21 R406).
02 R46, R61, 19 R380 to R382, R390: a corrected error of a unit of the package is counted; an uncorrectable one poisons
its burst or word and writes a record; one that names no unit of the package is no error of it; an error in DRAM names the die of its address; a link retry and a lane retrain are counted, the latter with a
record; the interval's records are written, one for each unit and kind, once at its boundary. A record is 32 bytes of its ring: time, unit,
kind, domain, count, address, detail. The detail of the kinds 1 to 4 is a syndrome, a free value (log 20).
That each of these is one step of the model, and does nothing when it is not due, is the model's choice (logs 1 and 10). -/
def Obligations.OutsideAndErrors : Prop :=
  (∀ (s : State) (port addr : Nat) (bs : List Byte),
  exec (.hostMemoryAccess addr none) s = .next s ∧ exec (.peerMemoryAccess port addr none) s = .next s ∧
  (addr + bs.length ≤ 2 ^ 39 →
    let t := s.outsideWrite addr bs
    t.memBytes (physKey 0 0 addr) bs.length = bs ∧
    (∀ j, j < physKey 0 0 addr ∨ physKey 0 0 addr + bs.length ≤ j → t.memByte j = s.memByte j) ∧
    (s.hostUp = true → (s.recovery = true → addr + bs.length ≤ 2 ^ 30) → exec (.hostMemoryAccess addr (some bs)) s = .next t) ∧
    (port < 16 → port ∉ s.portsDown → exec (.peerMemoryAccess port addr (some bs)) s = .next t))) ∧
  (∀ (s : State) (u : BitVec 32) (addr dom port kind cnt det : Nat) (db : Nat),
  let v := unitPath (addr / 2 ^ 37 % 4) 0 0 12 (u.extractLsb' 0 19).toNat
  exec (.correctedError u true addr dom) s = .next { s.countErr v 3 addr (domByte dom) with
    dramCnt := AL.set 0 s.dramCnt v.toNat (min (AL.get 0 s.dramCnt v.toNat + 1) (2 ^ 32 - 1)) } ∧
  (unitOk u = true → exec (.correctedError u false addr dom) s = .next { s.countErr u 1 addr (domByte dom) with
    sramCnt := AL.set 0 s.sramCnt u.toNat (min (AL.get 0 s.sramCnt u.toNat + 1) (2 ^ 32 - 1)) }) ∧
  exec (.uncorrectableError u true addr dom) s = .next ((s.poisonMark v true addr).errRecord 4 v (domByte dom) 1 addr 0) ∧
  (unitOk u = true →
    exec (.uncorrectableError u false addr dom) s = .next ((s.poisonMark u false addr).errRecord 2 u (domByte dom) 1 addr 0)) ∧
  (unitOk u = false → exec (.correctedError u false addr dom) s = .next s ∧ exec (.uncorrectableError u false addr dom) s = .next s) ∧
  (unitOk u = true → u.extractLsb' 29 3 ≤ 4 ∧ u.extractLsb' 19 4 ≤ 14 ∧ (u.extractLsb' 29 3 = 4 → 11 ≤ u.extractLsb' 19 4)) ∧
  (addr < 2 ^ 39 → (s.poisonMark v true addr).poisoned (physKey 0 0 addr) 1 = true) ∧
  ((u.extractLsb' 19 4).toNat = 9 → (s.poisonMark u false addr).poisoned (physKey 0 0 addr) 1 = true) ∧
  (port < 16 → exec (.linkLayerRetry port) s = .next { s with
    retries := AL.set 0 s.retries port (min (AL.get 0 s.retries port + 1) (2 ^ 32 - 1)) }) ∧
  (port < 16 → exec (.laneRetrain port) s = .next (({ s with
    retrains := AL.set 0 s.retrains port (min (AL.get 0 s.retrains port + 1) (2 ^ 16 - 1)) } : State).errRecord 5
      (portUnit port) 0 1 0 0)) ∧
  (s.errNum < s.cycle / 1050000 → exec .errorLogCoalesce s = .next { s.errs.foldl (fun (s : State) e =>
    s.errRecord e.kind e.unit e.dom e.count e.addr 0) s with errs := [], errNum := s.errNum + 1 }) ∧
  (s.cycle / 1050000 ≤ s.errNum → exec .errorLogCoalesce s = .next s) ∧
  ((u.extractLsb' 19 4).toNat = 0 → s.ctx (unitCore u * 4 + unitIndex u % 4) = none →
    (s.poisonMark u false addr).poisoned (btKey (unitCore u * 4 + unitIndex u % 4) (addr % 2048 / 4)) 32 = true) ∧
  s.errRecord kind u db cnt addr det = ({ s with choices := s.choices + 1 } : State).ringAppend Config.errLogHeader 32
    (natLe 8 s.cycle ++ natLe 4 u.toNat ++ natLe 1 kind ++ natLe 1 db ++ natLe 2 (min cnt 65535) ++ natLe 8 addr ++
      natLe 4 (if 1 ≤ kind ∧ kind ≤ 4 then (Config.syndrome s.choices).toNat else det) ++ natLe 4 0))

/-- 09 R247, R248, R265, 07 R191, 16 R342: a free engine takes the operation it picks, whose results get their place in the
deck; one whose witness has failed faults, and leaves the deck what it
held there for its results (R243); one whose window entry is poisoned fails; a `TZERO` that is replayed makes its tile once the deck has
room (R258; the model's reading, log 34); a completed operation is finished, or waits for its epilogue while the queue
has room, or is faulted, or goes on; the epilogue queue is served in order by a free vector-tile engine; and the complete
operations at the head of the window retire in issue order, each once the statistics queue takes its records.
That each of these is one step of the model, and does nothing when it is not due, is the model's choice (logs 1 and 10). -/
def Obligations.TileEngineEvents : Prop := ∀ (s s1 s2 : State) (a q u n : Nat) (c : Ctx) (o : TOp) (img : Option (List Byte))
    (st : List (Nat × Nat)) (f : MFault),
  s.ctx a = some c → c.op q = some o →
  let core := coreOf a
  (o.status = .waiting → engineOf o.form ≠ .none → (o.sat = true ∨ s.witFailed o.wit = false) →
    (engineOf o.form = .vt → (s.coreSt core).epi = []) → s.freeUnit core (engineOf o.form) = some u →
    s.claims a q (engineOf o.form) u = true → s.poisoned (opKey c.cid q) 8 = false →
    (∀ e ∈ o.binds ++ o.plane.toList, s.poisoned (tileKey c.cid e.tile) 8 = false) →
    exec (.tileEngineClaim a q) s = .next ((s.onCore core fun x => x.served (engineOf o.form) u a).onCtx a fun c =>
      (c.placeResults o).onOp q fun o => { o with status := .running u })) ∧
  (o.status = .waiting → engineOf o.form ≠ .none → o.sat = false → s.witFailed o.wit = true → c.status = .running →
    s.poisoned (opKey c.cid q) 8 = false →
    exec (.tileEngineClaim a q) s = .next (s.onCtx a fun d => (d.unplaceResults q).onOp q fun x => { x with
      status := .faulted { cause := 0x33, aux := o.wit, slots := 1, unit := s.opUnit a c o 0 o.stashVa } })) ∧
  (o.status = .waiting → engineOf o.form ≠ .none → s.poisoned (opKey c.cid q) 8 = true →
    exec (.tileEngineClaim a q) s = .next (s.failOp a q)) ∧
  (∀ (m : Mask) (sp : BitVec 6) (e : Entry), o.tseq = q → o.form = .tzero m sp → o.status = .waiting → o.results = [e] →
    c.olderFaulted o = false →
    (c.deckG < c.deckUsed + (e.bytes + 2047) / 2048 → exec (.tileEngineClaim a q) s = .next s) ∧
    (c.deckUsed + (e.bytes + 2047) / 2048 ≤ c.deckG → exec (.tileEngineClaim a q) s =
      .next ((s.onCtx a fun c => c.placeResults o).finishOp a q (some (List.replicate e.bytes 0)) [] 0))) ∧
  (∀ (d : Ctx) (e : Entry) (x : Tile), d.op q = some o → e ∈ o.results → AL.find d.tiles e.tile = some x → x.img = none →
    AL.find (d.unplaceResults q).tiles e.tile = some { x with tier := .none }) ∧
  (o.status = .running u → hasEpilogue o.form = true → (s.coreSt core).epi.length < s.depthOf (epiQueue core) 4 64 →
    exec (.tileOpComplete a q) s = .next ((s.onCtx a fun c => c.onOp q fun o => { o with status := .epilogue }).onCore core
      fun x => { x with epi := x.epi ++ [(a, q)] })) ∧
  (o.status = .running u → hasEpilogue o.form = true → s.depthOf (epiQueue core) 4 64 ≤ (s.coreSt core).epi.length →
    exec (.tileOpComplete a q) s = .next s) ∧
  (o.status = .running u → hasEpilogue o.form = false → runOp s a c o u = .done s1 img st →
    exec (.tileOpComplete a q) s = .next (s1.finishOp a q img st (s.opByte c o u))) ∧
  (o.status = .running u → hasEpilogue o.form = false → runOp s a c o u = .fault s1 f →
    exec (.tileOpComplete a q) s = .next (s1.faultOp a q f (s.opUnit a c o u f.faddr))) ∧
  (o.status = .running u → hasEpilogue o.form = false → runOp s a c o u = .wait s1 n →
    exec (.tileOpComplete a q) s = .next (s1.opStatus a q (.running u) n)) ∧
  (o.status = .running u → hasEpilogue o.form = false → runOp s a c o u = .sent s1 →
    exec (.tileOpComplete a q) s = .next (s1.opStatus a q .sent 0)) ∧
  (∀ r, (s.coreSt core).epi = (a, q) :: r → s.freeUnit core .vt = some u →
    exec (.epilogueServe core) s =
      .next ((((s.onCore core fun x => { x with epi := r }).returnChunks (epiQueue core) r.length 4).onCore core fun x =>
        x.served .vt u a).onCtx a fun c =>
          c.onOp q fun o => if o.status == .epilogue then { o with status := .serving u } else o)) ∧
  (o.status = .serving u → runCompute s c o = .done s2 img st →
    exec (.tileOpComplete a q) s = .next (s2.finishOp a q img st (s.opByte c o u))) ∧
  (∀ (d : Ctx) (w : List TOp),
    (o.status ≠ .done → (retireOps d (o :: w)).window = o :: w) ∧
    (o.status = .done → (o.stats = [] ∨ d.statq.length + o.stats.length ≤ d.statDepth) →
      retireOps d (o :: w) = retireOps (d.post o.pos o.eng o.stats) w) ∧
    (o.status = .done → o.stats ≠ [] → d.status ≠ .exited → d.statDepth < d.statq.length + o.stats.length → d.statDepth < 4096 →
      (retireOps d (o :: w)).window = o :: w))

/-- 04 R92, R93, 09 R261, R262, R264, R266, R270, R271, 10 R281, R283, R284: what the engines compute and move. The trestle
forms `MFW` and `MBK` give, for integer tiles with `intout` 0, the sums of the products of a row of the streamed tile and a
column of the plane, or of its transpose, modulo 2^32, `MFWA` and `MBKA` with the accumulator added; for floating tiles the
sum in index order, each addition rounded to FP32 nearest-even, binary8 products in pairs. A transpose moves element (i, j) to
(j, i); sums and differences of integer tiles wrap at the width of their elements; row sums of integers are exact modulo 2^32;
an engine's result is the image of what it computes, with its events. `TLDS` takes and `TSTS` puts the rows of a tile from
and to the scratchpad, each at its pitch modulo 2^64, a later row over an earlier one. `TGET` takes the elements of a box in
box order, each through the line that holds it, and 0 for one out of bounds; `TSEND` writes its image's elements in that
order and nothing out of bounds. -/
def Obligations.TileResults : Prop := ∀ (m : Mask) (fmt : W64) (r : Entry) (x y : TArg) (i j : Nat),
  let w := 8 * tileSize x.e.fmt
  (∀ (p : TArg) (pl : Bool), p.e.fmt.toNat ≤ 3 → fmtIntout fmt = 0 → 0 < x.e.cols → 0 < p.e.rows → 0 < p.e.cols → i < x.e.rows →
    x.xs.length = x.e.rows * x.e.cols → p.xs.length = p.e.rows * p.e.cols →
    let row := (x.ints.drop (i * x.e.cols)).take x.e.cols
    let dot := fun (l : List Int) => (List.zipWith (· * ·) row l).sum
    (x.e.cols = p.e.rows → j < p.e.cols →
      let col := (List.range p.e.rows).filterMap fun k => p.ints[k * p.e.cols + j]?
      (tileRun (.mfw m 0 pl) fmt r [x] (some p))[i * p.e.cols + j]? = some ((dot col % 2 ^ 32).toNat, 0) ∧
      ∀ a, y.ints[i * p.e.cols + j]? = some a →
        (tileRun (.mfwa m 0 pl) fmt r [x, y] (some p))[i * p.e.cols + j]? = some (((a + dot col) % 2 ^ 32).toNat, 0)) ∧
    (x.e.cols = p.e.cols → j < p.e.rows →
      let line := (p.ints.drop (j * p.e.cols)).take p.e.cols
      (tileRun (.mbk m 0 pl) fmt r [x] (some p))[i * p.e.rows + j]? = some ((dot line % 2 ^ 32).toNat, 0) ∧
      ∀ a, y.ints[i * p.e.rows + j]? = some a →
        (tileRun (.mbka m 0 pl) fmt r [x, y] (some p))[i * p.e.rows + j]? = some (((a + dot line) % 2 ^ 32).toNat, 0))) ∧
  (∀ (p : TArg) (pl : Bool), 3 < p.e.fmt.toNat → 0 < x.e.cols → 0 < p.e.rows → 0 < p.e.cols → i < x.e.rows →
    x.xs.length = x.e.rows * x.e.cols → p.xs.length = p.e.rows * p.e.cols →
    let row := ((x.vals fmt).drop (i * x.e.cols)).take x.e.cols
    let dot := fun (c : FVal) (l : List (FVal × Bool)) =>
      some (NFmt.f32.encode (trestleDot (p.e.fmt.getLsbD 5) c (row.map (·.1)) (l.map (·.1))).1)
    (x.e.cols = p.e.rows → j < p.e.cols →
      let col := (List.range p.e.rows).filterMap fun k => (p.vals fmt)[k * p.e.cols + j]?
      ((tileRun (.mfw m 0 pl) fmt r [x] (some p))[i * p.e.cols + j]?).map (·.1) = dot (.fin false 0 0) col ∧
      ∀ a, (y.vals fmt)[i * p.e.cols + j]? = some a →
        ((tileRun (.mfwa m 0 pl) fmt r [x, y] (some p))[i * p.e.cols + j]?).map (·.1) = dot a.1 col) ∧
    (x.e.cols = p.e.cols → j < p.e.rows →
      let line := ((p.vals fmt).drop (j * p.e.cols)).take p.e.cols
      ((tileRun (.mbk m 0 pl) fmt r [x] (some p))[i * p.e.rows + j]?).map (·.1) = dot (.fin false 0 0) line ∧
      ∀ a, (y.vals fmt)[i * p.e.rows + j]? = some a →
        ((tileRun (.mbka m 0 pl) fmt r [x, y] (some p))[i * p.e.rows + j]?).map (·.1) = dot a.1 line)) ∧
  (∀ (c a b a' b' : FVal) (us vs : List FVal), us.length = vs.length →
    let round := fun v => (NFmt.f32.round 0 false v).val
    (trestleDot false c (us ++ [a]) (vs ++ [b])).1 = round (FVal.add 0 (trestleDot false c us vs).1 (FVal.mul a b)) ∧
    (us.length % 2 = 0 →
      (trestleDot true c (us ++ [a, a']) (vs ++ [b, b'])).1 =
        round (FVal.add 0 (trestleDot true c us vs).1 (round (FVal.add 0 (FVal.mul a b) (FVal.mul a' b')))) ∧
      (trestleDot true c (us ++ [a]) (vs ++ [b])).1 =
        round (FVal.add 0 (trestleDot true c us vs).1 (round (FVal.mul a b))))) ∧
  (x.xs.length = x.e.rows * x.e.cols → i < x.e.rows → j < x.e.cols →
    (tileRun (.txp m) fmt r [x] none)[j * x.e.rows + i]? = (x.xs[i * x.e.cols + j]?).map fun u => (u, 0)) ∧
  (x.e.fmt.toNat ≤ 3 → ∀ (k : Nat) (a b : Int), x.ints[k]? = some a → y.ints[k]? = some b →
    (tileRun (.tadd m) fmt r [y, x] none)[k]? = some (((a + b) % 2 ^ w).toNat, 0) ∧
    (tileRun (.tsub m) fmt r [y, x] none)[k]? = some (((a - b) % 2 ^ w).toNat, 0) ∧
    (tileRun (.tmul m) fmt r [y, x] none)[k]? = some (((a * b) % 2 ^ w).toNat, 0) ∧
    (tileRun (.tmax m) fmt r [y, x] none)[k]? = some (((if a ≤ b then b else a) % 2 ^ w).toNat, 0) ∧
    (tileRun (.tmin m) fmt r [y, x] none)[k]? = some (((if a ≤ b then a else b) % 2 ^ w).toNat, 0)) ∧
  (x.e.fmt.toNat ≤ 3 → x.xs.length = x.e.rows * x.e.cols → 0 < x.e.cols → i < x.e.rows →
    (tileRun (.trsum m) fmt r [x] none)[i]? = some ((((x.ints.drop (i * x.e.cols)).take x.e.cols).sum % 2 ^ 32).toNat, 0)) ∧
  (∀ (s : State) (c : Ctx) (o : TOp), o.results.head? = some r → c.args o.binds = some [x] → o.plane = none →
    runCompute s c o = .done s (some (imageOf (tileSize r.fmt) ((tileRun o.form o.fmt r [x] none).map (·.1))))
      (statsOf (fmtStatmask o.fmt) ((tileRun o.form o.fmt r [x] none).map (·.2)))) ∧
  (∀ (s : State) (a u : Nat) (c : Ctx) (o : TOp) (sp : BitVec 6) (n : BitVec 4),
    let row := fun (k i : Nat) => s.spPhys c (((o.par 0).toNat + i * (o.par k).toNat) % 2 ^ 64)
    (o.form = .tlds m sp n → o.results.head? = some r → (∀ i < r.rows, s.poisoned (row 2 i) r.rowBytes = false) →
      ∃ img, runOp s a c o u = .done s (some img) [] ∧ img.length = r.rows * r.rowBytes ∧
        ∀ i < r.rows, ∀ j < r.rowBytes, img[i * r.rowBytes + j]? = some (s.memByte (row 2 i + j))) ∧
    (∀ (e : Entry) (img : List Byte), o.form = .tsts m sp n → o.binds.head? = some e → c.tileImg e.tile = some img →
      img.length = e.rows * e.rowBytes →
      let outside := fun (k i : Nat) => k < row 1 i ∨ row 1 i + e.rowBytes ≤ k
      ∃ t, runOp s a c o u = .done t none [] ∧ (∀ k, (∀ i < e.rows, outside k i) → t.memByte k = s.memByte k) ∧
        ∀ i < e.rows, ∀ j < e.rowBytes, (∀ q, i < q → q < e.rows → outside (row 1 i + j) q) →
          img[i * e.rowBytes + j]? = some (t.memByte (row 1 i + j))) ∧
    (∀ s1 bs, o.form = .tget m sp n →
      s.readBox false (readCore a (o.par 0)) c.pd.toNat o.tensor (s.opWits c o) o.cells = .ok s1 bs →
      runOp s a c o u = .done s1 (some bs) []) ∧
    (∀ s1 k, o.form = .tsend m sp n → s.writeOp c o (o.image0 c) = (s1, ⟨k, none⟩) →
      runOp s a c o u = .done (s1.engineWrote c o (boxTags o.tensor c.pd.toNat o.cells)) none [])) ∧
  (∀ (s s1 s2 : State) (tr : Bool) (core : Option Nat) (dom : Nat) (t : TRec) (ws : List W64) (co : List Int) (cs : List (List Int))
      (b bs : List Byte) (d : Written) (picks : List (Tag × Option (List Byte))),
    (∀ q ∈ picks, q.2 = none) → (∀ v ∈ co, (0 : Int) ≤ v) → s.oldCopies core (t.tag dom co) ws t.raw = [] →
    let more := if picks.any (fun q => q.1 == t.tag dom co) then picks else (t.tag dom co, none) :: picks
    (t.inBounds co = true →
      (s.asCopy core (t.tag dom co) t.raw).readVia tr core (t.tag dom co) ws (pagePieces (t.addr co) t.eb) = .ok s1 b →
      s1.readCells tr core dom t ws more cs = .ok s2 bs →
      s.readCells tr core dom t ws picks (co :: cs) = .ok s2 (b ++ bs)) ∧
    (t.inBounds co = false → s.readCells tr core dom t ws more cs = .ok s2 bs →
      s.readCells tr core dom t ws picks (co :: cs) = .ok s2 (List.replicate t.eb 0 ++ bs)) ∧
    (t.inBounds co = true → (s.asCopy none (t.tag dom co) t.raw).writeVia tr (t.tag dom co) (t.addr co) (bs.take t.eb) = .ok s1 () →
      s1.writeCells tr dom t none cs (bs.drop t.eb) = (s2, d) →
      s.writeCells tr dom t none (co :: cs) bs = (s2, ⟨d.done + 1, d.stop⟩)) ∧
    (t.inBounds co = false → s.writeCells tr dom t none cs (bs.drop t.eb) = (s2, d) →
      s.writeCells tr dom t none (co :: cs) bs = (s2, ⟨d.done + 1, d.stop⟩)))

/-- 03 R71, R80, R83, R88, R91, 04 R93, R94, R98, 09 R265 to R270: what the vector-tile engines and the epilogue compute.
A floating `TADD`, `TSUB`, `TMUL`, `TMAX`, `TMIN` or `TFMA` rounds the exact result on operands decoded with their own
scales once into A's format at A's scale, saturating as `sat` says in a binary8 format only; `TCVT` rounds each element into
its result's format and scale; `TACT` gives its function of Table 9-7 over the log word; `TRSUM` and `TCSUM` of a floating
tile sum in index order with a rounding into FP32 each, `TCSUM` of an integer tile wraps; a trestle form with an epilogue gives
its plain result with the bias added, the relu and one rounding into the result's format; and `intout` rounds the raw
integer sum, scaled by `nscale`, into its format. The events 0 and 1 are posted as log 23 says. -/
def Obligations.TileArithmetic : Prop := ∀ (m : Mask) (fmt : W64) (r : Entry) (a b c w : TArg) (k i j u v t : Nat),
  let F := tileFmt a.e.fmt
  let md := fmtTrnd fmt
  let value := fun (x : TArg) (u : Nat) => (tileFmt x.e.fmt).decode u x.e.scale (fmtFlush fmt)
  let near := fun (q : ℚ) => let k := ⌊q⌋₊; if 1 / 2 < q - k ∨ (q - k = 1 / 2 ∧ k % 2 = 1) then k + 1 else k
  let flushed := fun (l : List (FVal × Bool)) => if l.any (·.2) then ev 6 else 0
  let sat8 := a.e.fmt.getLsbD 5 && fmtSat fmt
  (3 < a.e.fmt.toNat → b.e.fmt = a.e.fmt → c.e.fmt = a.e.fmt → a.xs[k]? = some u → b.xs[k]? = some v → c.xs[k]? = some t →
    let x := value a u
    let y := value b v
    let z := value c t
    let put := fun (q : FVal) => let r := F.finish a.e.scale md sat8 [x.1, y.1] q; some (r.1, r.2 ||| flushed [x, y])
    (tileRun (.tadd m) fmt r [b, a] none)[k]? = put (FVal.add md x.1 y.1) ∧
    (tileRun (.tsub m) fmt r [b, a] none)[k]? = put (FVal.sub md x.1 y.1) ∧
    (tileRun (.tmul m) fmt r [b, a] none)[k]? = put (FVal.mul x.1 y.1) ∧
    (tileRun (.tmax m) fmt r [b, a] none)[k]? = put (FVal.max x.1 y.1) ∧
    (tileRun (.tmin m) fmt r [b, a] none)[k]? = put (FVal.min x.1 y.1) ∧
    ∃ q, (tileRun (.tfma m) fmt r [c, b, a] none)[k]? = some q ∧
      q.1 = (F.finish a.e.scale md sat8 [x.1, y.1, z.1] (FVal.fma md x.1 y.1 z.1)).1) ∧
  (∀ (q f : BitVec 8) (g : BitVec 6), a.xs[k]? = some u →
    let x := value a u
    (let z := (tileFmt r.fmt).finish r.scale md (fmtSat fmt) [x.1] x.1
     (tileRun (.tcvt m q g) fmt r [a] none)[k]? = some (z.1, z.2 ||| flushed [x])) ∧
    (3 < a.e.fmt.toNat → f.toNat < 6 →
      let gives := fun (q : FVal) =>
        ((tileRun (.tact m f) fmt r [a] none)[k]?).map (·.1) = some (F.encode (F.round md (fmtSat fmt) (q.scale (-a.e.scale))).val)
      let power := fun (s : Bool) (l : Int) =>
        let j := (l % 2 ^ 21).toNat
        FVal.fin s (2 ^ 23 + (interp tableTE (j / 2 ^ 13) (j % 2 ^ 13) 13).toNat) (l / 2 ^ 21 - 23)
      let clamp := fun (s : Bool) (l : Int) =>
        if l < -2 ^ 29 then .fin false 0 0 else power s (min l (2 ^ 29 - 1))
      (x.1 = .nan → gives .nan) ∧
      (∀ s, x.1 = .inf s →
        (f.toNat = 0 → gives (.fin s 0 0)) ∧ (f.toNat = 1 ∨ f.toNat = 5 → gives (if s then .nan else .inf false)) ∧
        (f.toNat = 2 → gives (if s then .nan else .fin false 0 0)) ∧ (f.toNat = 3 → gives (.inf false)) ∧
        (f.toNat = 4 → gives (if s then .fin false 0 0 else .inf false))) ∧
      (∀ s e, x.1 = .fin s 0 e →
        (f.toNat = 0 → gives (.inf s)) ∧ (f.toNat = 1 ∨ f.toNat = 3 → gives (.fin false 0 0)) ∧
        (f.toNat = 2 → gives (.inf false)) ∧ (f.toNat = 4 → gives (power false 0)) ∧ (f.toNat = 5 → gives (.inf true))) ∧
      (∀ s n e, n ≠ 0 → x.1 = .fin s n e →
        let low : Nat := (vlog x.1).1 % 2 ^ 30
        let l : Int := if low < 2 ^ 29 then (low : Int) else (low : Int) - 2 ^ 30
        let h : Int := near ((n : ℚ) * 2 ^ (e + 21))
        (f.toNat = 0 → gives (clamp s (-l))) ∧ (f.toNat = 1 → gives (if s then .nan else power false (l / 2))) ∧
        (f.toNat = 2 → gives (if s then .nan else power false (-(l / 2)))) ∧ (f.toNat = 3 → gives (clamp false (2 * l))) ∧
        (f.toNat = 4 → gives (clamp false (if s then -h else h))) ∧
        (f.toNat = 5 → gives (if s then .nan else .fin (decide (l < 0)) l.natAbs (-21)))))) ∧
  (a.xs.length = a.e.rows * a.e.cols → i < a.e.rows → j < a.e.cols →
    let row := (a.xs.drop (i * a.e.cols)).take a.e.cols
    let col := (List.range a.e.rows).filterMap fun q => a.xs[q * a.e.cols + j]?
    let rnd := fun (v : FVal) => (NFmt.f32.round md false v).val
    let sum := fun (l : List Nat) => match l.map fun u => (value a u).1 with
      | [] => FVal.fin false 0 0
      | x :: t => t.foldl (fun acc y => rnd (FVal.add md acc y)) (rnd x)
    (3 < a.e.fmt.toNat →
      ((tileRun (.trsum m) fmt r [a] none)[i]?).map (·.1) = some (NFmt.f32.encode (sum row)) ∧
      ((tileRun (.tcsum m) fmt r [a] none)[j]?).map (·.1) = some (NFmt.f32.encode (sum col))) ∧
    (a.e.fmt.toNat ≤ 3 →
      let ints := (List.range a.e.rows).filterMap fun q => a.ints[q * a.e.cols + j]?
      (tileRun (.tcsum m) fmt r [a] none)[j]? = some ((ints.sum % 2 ^ 32).toNat, 0))) ∧
  (∀ (g : BitVec 8 → Bool → Instr) (pl : Bool) (ep : BitVec 8) (x : TArg) (rest : List TArg), fmtIntout fmt ≤ 4 →
    g = Instr.mfw m ∨ g = Instr.mfwa m ∨ g = Instr.mbk m ∨ g = Instr.mbka m →
    let int := decide (w.e.fmt.toNat ≤ 3)
    let code : BitVec 6 := if int = false ∨ fmtIntout fmt = 4 then 6 else if fmtIntout fmt = 0 then 3
      else if fmtIntout fmt = 1 then 2 else if fmtIntout fmt = 2 then 0 else 1
    let scale := if int then x.e.scale + w.e.scale else 0
    let op := ep.toNat % 16
    let z := (tileFmt code).decode u scale (fmtFlush fmt)
    let gives := fun (q : FVal) =>
      ((tileRun (g ep pl) fmt r (x :: rest) (some w))[k]?).map (·.1) =
        some ((tileFmt r.fmt).encode ((tileFmt r.fmt).round md (fmtSat fmt) (q.scale (-r.scale))).val)
    (ep ≠ 0 → ((tileRun (g 0 pl) fmt r (x :: rest) (some w))[k]?).map (·.1) = some u →
      (op = 0 → gives z.1) ∧ (op = 1 → gives (FVal.max z.1 (.fin false 0 0))) ∧
      (rest.getLast? = some b → b.xs[k % r.cols]? = some v →
        let y := FVal.add md z.1 (value b v).1
        (op = 2 → gives y) ∧ (op = 3 → gives (FVal.max y (.fin false 0 0))))) ∧
    (∀ raw : W64, int = true → fmtIntout raw = 0 → fmtIntout fmt ≠ 0 →
      (tileRun (g 0 pl) raw r (x :: rest) (some w))[k]? = some (u, 0) →
      let s : Int := if u < 2 ^ 31 then u else (u : Int) - 2 ^ 32
      (tileRun (g 0 pl) fmt r (x :: rest) (some w))[k]? = some ((tileFmt code).finish 0 md (fmtIntout fmt != 4 || fmtSat fmt) []
        (.fin (decide (s < 0)) s.natAbs (fmtNscale fmt)))))

/-- 04 R100, R101, 10 R285, R286, R290, R291: the bytes that the transfers move. `STASH` encodes its tile's elements, taken
after the input rule, 32 to a block, the last padded with +0: the header has the flags and the shared exponent, raised by
one where the largest magnitude would not fit, and each element its sign and its magnitude to nearest even, a non-finite
one the largest; a block of zeros is all zero. Its blocks are written one after the other from its first block's address.
`RESTORE` reads the blocks and rounds each element into the record's format. `ACOPY` puts the box's elements densely in
the scratchpad, `ACOPYW` writes the box from there, and `TSENDQ` writes its tile's image and sends a notice after. That
`RESTORE` gives −0 for a magnitude of 0 with its sign set is the model's choice (log 30). -/
def Obligations.TransferData : Prop := let near := fun (q : ℚ) => let k := ⌊q⌋₊; if 1 / 2 < q - k ∨ (q - k = 1 / 2 ∧ k % 2 = 1) then k + 1 else k
  (∀ (k : Nat) (xs : List FVal) (s0 : Int), xs.length = 32 → k = 4 ∨ k = 6 ∨ k = 8 →
    let zero := ∀ x ∈ xs, ∃ s e, x = .fin s 0 e
    let top := 2 ^ (k - 1) - 1
    let mag := fun (q : Int) (x : FVal) => match x with
      | .fin _ n e => near ((n : ℚ) * 2 ^ (e - q))
      | _ => top
    let wide := xs.any fun x => match x with
      | .fin _ n e => decide (top < near ((n : ℚ) * 2 ^ (e - (s0 - k + 1))))
      | _ => false
    let s := if wide then s0 + 1 else s0
    let flags := (if .nan ∈ xs then 1 else 0) + (if .inf false ∈ xs then 2 else 0) + (if .inf true ∈ xs then 4 else 0)
    let blk := (stashBlock k xs).1
    (zero → blk = List.replicate (2 + 4 * k) 0) ∧
    (¬ zero → -125 ≤ s0 → (∀ s (n : Nat) e, .fin s n e ∈ xs → (n : ℚ) * 2 ^ e < 2 ^ s0) →
      (s0 = -125 ∨ ∃ s, ∃ n : Nat, ∃ e, .fin s n e ∈ xs ∧ (2 : ℚ) ^ (s0 - 1) ≤ n * 2 ^ e) → s ≤ 129 →
      blk.length = 2 + 4 * k ∧ (leNat (blk.take 2) : Int) = flags * 256 + (s + 126) ∧
      ∀ j x, xs[j]? = some x →
        let g := mag (s - k + 1) x
        leNat (blk.drop 2) / 2 ^ (k * j) % 2 ^ k = g + (match x with
          | .fin sg _ _ => if sg = true ∧ g ≠ 0 then 2 ^ (k - 1) else 0
          | .inf sg => if sg then 2 ^ (k - 1) else 0
          | .nan => 0))) ∧
  (∀ (k : Nat) (F : NFmt) (blk : List Byte) (j X : Nat), j < 32 → X = leNat (blk.take 1) →
    let e := leNat (blk.drop 2) / 2 ^ (k * j) % 2 ^ k
    (X = 0 → ((restoreBlock k F blk)[j]?).map (·.1) = some 0) ∧
    (X ≠ 0 → ((restoreBlock k F blk)[j]?).map (·.1) =
      some (F.encode (F.round 0 true (.fin (decide (e / 2 ^ (k - 1) = 1)) (e % 2 ^ (k - 1)) ((X : Int) - 126 - k + 1))).val))) ∧
  (∀ (s s1 : State) (dom va : Nat) (b : List Byte) (bs : List (List Byte)) (ws : List W64) (n k : Nat),
    let ps := linePieces (b.length / 2048 + 3) va b.length
    let qs := linePieces (n / 2048 + 3) va n
    s.writeBlocks false dom va [] = (s, ⟨0, none⟩) ∧ s.readBlocks false dom va n ws 0 = .ok s [] ∧
    ((s.unheld dom ps).writeFlatVia false dom ps b = (s1, none) → ∀ t d,
      (s1.unheld dom ps).writeBlocks false dom (va + b.length) bs = (t, d) →
      s.writeBlocks false dom va (b :: bs) = (t, ⟨d.done + 1, d.stop⟩)) ∧
    ((s.unheld dom qs).readFlatVia false none dom ws qs = .ok s1 b → ∀ t,
      (s1.unheld dom qs).readBlocks false dom (va + n) n ws k = .ok t bs →
      s.readBlocks false dom va n ws (k + 1) = .ok t (b :: bs))) ∧
  ∀ (s s1 : State) (a u q : Nat) (c : Ctx) (o : TOp) (m : Mask) (sp : BitVec 6) (n : BitVec 4),
    let r := o.tensor
    let k := 2 * r.smode + 2
    let va := r.base + (o.par 1).toNat / 32 * r.bbytes
    (∀ (x : TArg) (rest : List TArg), o.form = .stash m sp n → c.args o.binds = some (x :: rest) → o.prog = 0 →
      let vs := x.xs.map fun u => ((tileFmt x.e.fmt).decode u x.e.scale (fmtFlush o.fmt)).1
      let blocks := (List.range ((vs.length + 31) / 32)).map fun b => (stashBlock k ((vs.drop (32 * b)).take 32)).1
      s.writeBlocks r.spol c.pd.toNat va blocks = (s1, ⟨q, none⟩) →
      ∃ evs, runOp s a c o u = .done (s1.engineWrote c o ((linePieces ((blocks.map (·.length)).sum / 2048 + 3) va
        (blocks.map (·.length)).sum).map fun p => flatTag c.pd.toNat p.1)) none evs) ∧
    (∀ (e : Entry) (bs : List (List Byte)), o.form = .restore m sp n → o.results.head? = some e →
      s.readBlocks r.spol c.pd.toNat va r.bbytes (s.opWits c o) ((e.rows * e.cols + 31) / 32) = .ok s1 bs →
      let xs := (bs.flatMap (restoreBlock k (tileFmt r.fmt))).take (e.rows * e.cols)
      runOp s a c o u = .done s1 (some (imageOf r.eb (xs.map (·.1)))) (statsOf (fmtStatmask o.fmt) (xs.map (·.2)))) ∧
    (∀ bs, o.form = .acopy m sp n →
      s.readBox false (readCore a (o.par 0)) c.pd.toNat r (s.opWits c o) o.cells = .ok s1 bs →
      let at' := s1.spPhys c (o.par 4).toNat
      ∃ t, (o.par 5 = 0 → runOp s a c o u = .done t none []) ∧ (o.par 5 ≠ 0 → runOp s a c o u = .sent t) ∧
        (∀ i, i < bs.length → bs[i]? = some (t.memByte (at' + i))) ∧
        ∀ i, i < at' ∨ at' + bs.length ≤ i → t.memByte i = s1.memByte i) ∧
    (o.form = .acopyw m sp n →
      let at' := s.spPhys c (o.par 4).toNat
      let len := o.cells.length * r.eb
      s.spPoison at' len = none →
      s.writeOp c o ((List.range len).map fun i => s.memByte (at' + i)) = (s1, ⟨q, none⟩) →
      let t := s1.engineWrote c o (boxTags r c.pd.toNat o.cells)
      runOp s a c o u = if o.par 5 = 0 then .done t none [] else .sent t) ∧
    (o.form = .tsendq m sp n → s.writeOp c o (o.image0 c) = (s1, ⟨q, none⟩) →
      runOp s a c o u = .sent (s1.engineWrote c o (boxTags r c.pd.toNat o.cells)))

/-- 09 R242 to R244, R249, R250, 02 R44, 19 R378: the copy engine of a core, while it runs no copy, moves tiles. First a bound
operand of the oldest operation rises; then the copies that are ready run; then, in anticipation, the tiles of the
shallow entries rise; a tile that has no room in the deck is exchanged with the one latest in the order that nothing
uses and neither its operation nor an older one binds, which sinks to the pier where that has room; older operations keep
the room they are owed. A sink is of the latest such tile, from the deck to the pier, or to the footing where the pier can
never hold it; or, so that the pier has room, of a tile from the pier to the footing; or of the next one that finds a place:
and only while room is needed: for an operation that waits for it, for the tile of a held `TTOV` or `TZERO`, or for a tile in
anticipation. The banks of a slot are vacated, and its context may issue. An operation that has faulted is
unwound once it is the oldest: it and every younger one are cancelled into the replay list, the stack, the planes and
the tiles stand as before it, and the context traps, or, while it is being saved, keeps the list for the trap at its resumption
(R346). That the faults of an interrupted stream wait while a handler runs,
and that what the handler has completed since is not cancelled, are the model's readings (log 35); that in a handler
no tile goes to the footing in anticipation but for its own is its choice (log 25).
That each of these is one step of the model, and does nothing when it is not due, is the model's choice (logs 1 and 10). -/
def Obligations.TierEvents : Prop := ∀ (s s1 s2 : State) (a id v core slot : Nat) (c : Ctx) (t : Tile) (img : List Byte) (o : TOp)
    (l : List TOp) (info : TrapInfo) (keep : List Nat),
  s.ctx a = some c →
  let g := (t.bytes + 2047) / 2048
  let free := s.copyFree (coreOf a) = true
  let sinks := free ∧ s.boundRise (coreOf a) = none ∧ s.sinkKeep (coreOf a) c = some keep
  let idle := s.copyReady (coreOf a) = false ∧ s.firstOf (coreOf a) Ctx.risingTiles = none ∧ c.anticipates = true
  (∀ p, s.wantsRoom c = some p → s.sinkKeep (coreOf a) c = some (c.boundBy (c.older p.tseq) ++ (p.binds ++ p.plane.toList).map (·.tile))) ∧
  (∀ w, s.wantsRoom c = none → c.awaited = some w → c.inDeck w = false → c.lacksRoom w = true →
    s.sinkKeep (coreOf a) c = some (c.riseKeep w)) ∧
  (∀ k, s.wantsRoom c = none → (∀ w, c.awaited = some w → c.inDeck w = true ∨ c.lacksRoom w = false) →
    c.toMake = some k → c.deckG < c.deckUsed + k → s.sinkKeep (coreOf a) c = some (c.boundBy c.window)) ∧
  (s.wantsRoom c = none → (∀ w, c.awaited = some w → c.inDeck w = true ∨ c.lacksRoom w = false) →
    (∀ k, c.toMake = some k → c.deckUsed + k ≤ c.deckG) →
    (¬ idle ∨ ∀ w ∈ c.risingTiles, c.inDeck w = true ∨ c.lacksRoom w = false) → s.sinkKeep (coreOf a) c = none) ∧
  (s.sinkKeep (coreOf a) c = none → exec (.tileSink a id) s = .next s) ∧
  (sinks → AL.find c.tiles id = some t → t.img = some img → t.tier = .deck → c.victim keep = some id → c.pierUsed + g ≤ c.pierG →
    exec (.tileSink a id) s = .next (s.onCtx a fun c => c.setTier id .pier (some img))) ∧
  (sinks → AL.find c.tiles id = some t → t.img = some img → c.sinkNext keep = some id →
    t.tier = .pier ∨ (t.tier = .deck ∧ c.pierG < c.pierUsed + g ∧ c.stuck keep = false) →
    exec (.tileSink a id) s = .next (s.toFooting a c id img)) ∧
  (c.victim keep = none → c.sinkNext keep = none) ∧
  (c.victim keep = some v → AL.find c.tiles v = some t →
    let direct := c.pierUsed + g ≤ c.pierG ∨ ((c.pierG = 0 ∨ c.pierG < g) ∧ (c.freeRun g).isSome = true)
    (direct → c.sinkNext keep = some v) ∧
    (∀ front back, ¬ direct → c.movable .pier keep ++ c.movable .deck keep = front ++ id :: back → c.canSink id = true →
      (∀ w ∈ front, c.canSink w = false) → c.sinkNext keep = some id)) ∧
  (∀ tier k, (c.lastIn tier k = some id ∨ id ∈ c.movable tier k) → id ∉ k ∧ c.inUse id = false ∧
    ∃ t, AL.find c.tiles id = some t ∧ t.tier = tier ∧ t.img.isSome = true) ∧
  (¬ free → exec (.tileSink a id) s = .next s ∧ exec (.tileRise a id) s = .next s) ∧
  (free → s.boundRise (coreOf a) = some ⟨a, id, s2⟩ →
    exec (.tileRise a id) s = .next (s2.onCore (coreOf a) fun x => x.served .copy 0 a)) ∧
  (free → s.boundRise (coreOf a) = none → s.copyReady (coreOf a) = false → id ∈ c.risingTiles → s.rise a id = some s2 →
    exec (.tileRise a id) s = .next s2) ∧
  (AL.find c.tiles id = some t → t.img.isSome = true → t.tier ≠ .deck → s.tileBytes c id t = .ok s1 img →
    let need := g + s.granulesOwed c (c.before id) + (if c.binder id = none ∧ c.awaited ≠ some id then c.toMake.getD 0 else 0)
    (c.deckUsed + need ≤ c.deckG → s.rise a id = some (s1.onCtx a fun c => c.setTier id .deck (some img))) ∧
    (c.deckG < c.deckUsed + need → c.victim (c.riseKeep id) = none → s.rise a id = none) ∧
    (∀ vi, c.deckG < c.deckUsed + need → c.victim (c.riseKeep id) = some v → c.tileImg v = some vi →
      c.deckUsed - (vi.length + 2047) / 2048 + need ≤ c.deckG →
      (c.setTier id .none (some img)).pierUsed + (vi.length + 2047) / 2048 ≤ c.pierG →
      s.rise a id = some (s1.onCtx a fun c => (c.setTier v .pier (some vi)).setTier id .deck (some img)))) ∧
  (∀ p, c.binder id = some p → c.before id = c.older p.tseq ∧
    ∀ x ∈ c.older p.tseq, c.waits x = true → ∀ e ∈ x.binds ++ x.plane.toList, c.victim (c.riseKeep id) ≠ some e.tile) ∧
  ((s.ctx (core * 4 + slot)).isSome = true →
    ∃ u d, exec (.bankVacate core slot) s = .next u ∧ u.mem = s.mem ∧ u.ctx (core * 4 + slot) = some d ∧ d.vacating = false ∧
      ∀ b ∈ u.banks, core * 64 + 3 * slot ≤ b.1 → b.1 < core * 64 + 3 * slot + 3 → b.2.deck = none) ∧
  (c.status ≠ .exited → c.refault = none → c.window.dropWhile c.outOfWay = o :: l → o.status = .faulted info →
    let gone := o :: l.filter fun x => !(x.handler && x.status == .done)
    let replay := gone.map TOp.asReplay
    let s0 := ((s.setCtx a (c.cancelOps gone (o :: l).length)).putAllBack a o).onCtx a Ctx.retireTiles
    let u := s0.takeTrap a (unwindRec s0 c o info none replay.length) replay false
    (c.stopped = true → exec (.unwind a) s = .next (s0.onCtx a fun c => { c with refault := some (info, replay) })) ∧
    (c.stopped = false → s.olderAccFault c o = none → (∀ d, u.ctx a = some d → d.cid ≠ c.cid ∨ d.capture.isSome = true) →
      exec (.unwind a) s = .next u)) ∧
  (let d := c.cancelOps (o :: l) v
   (∀ x ∈ d.window, ∀ y ∈ o :: l, x.tseq ≠ y.tseq) ∧ d.stack = o.stack0 ∧ d.plane0 = o.plane0 ∧ d.plane1 = o.plane1 ∧
   (c.esat = false → d.ecount = c.ecount - (((o :: l).map fun x => x.energy).sum)))

/-- 04 R103 to R107, 16 R342, 19 R381: a contribution is applied to its line when the line still counts, in ordered mode in
its turn; an early one waits in the reorder buffer and one out of range or repeated is discarded with event 12; a complete
line is converted, optimized and written, leaves its unit and arrives at its completion word with 2,048 bytes; one whose
accumulator is poisoned fails. A unit whose records find no room in their statistics queue waits.
That each of these is one step of the model, and does nothing when it is not due, is the model's choice (logs 1 and 10). -/
def Obligations.UpdateUnitEvents : Prop := ∀ (s : State) (i : Nat) (x : Contribution) (l : GradLine),
  (s.grads[i]? = some x →
    l = (s.line x.tag).getD ⟨x.dom, x.tensor, x.coords, x.record, clearBlocks, 0, 0, [], [], x.fmt, x.cid, x.pos, false⟩ →
    let r := TRec.parse x.tensor l.record
    let s0 : State := { s with grads := s.grads.eraseIdx i }
    let s1 := (s0.returnChunks (gradQueue x.tag.home) (s0.grads.filter fun y => y.tag.home == x.tag.home).length 32).accepted x
    (r.expect ≤ l.count → exec (.gradContribution i) s = .next s) ∧
    (l.count < r.expect →
    (r.ordered = false → exec (.gradContribution i) s = .next (s.whenPosted (s1.applyGrad l x))) ∧
    (r.ordered = true → x.idx < r.expect → (∀ y ∈ l.reorder, y.idx ≠ x.idx) → l.next + 16 ≤ x.idx →
      exec (.gradContribution i) s = .next s) ∧
    (r.ordered = true → (r.expect ≤ x.idx ∨ x.idx < l.next ∨ ∃ y ∈ l.reorder, y.idx = x.idx) →
      exec (.gradContribution i) s = .next (s.whenPosted ((s1.settleGrad x).postGrad x [ev 12]))) ∧
    (r.ordered = true → x.idx < r.expect → (∀ y ∈ l.reorder, y.idx ≠ x.idx) → l.next < x.idx → x.idx < l.next + 16 →
      exec (.gradContribution i) s = .next (s.whenPosted (s1.putLine { l with reorder := l.reorder ++ [x] }))) ∧
    (r.ordered = true → x.idx < r.expect → (∀ y ∈ l.reorder, y.idx ≠ x.idx) → x.idx = l.next →
      exec (.gradContribution i) s = .next (s.whenPosted (State.drainReorder 16 (s1.applyGrad l x) x.tag))))) ∧
  (∀ u : State, (s.statFits u = true → s.whenPosted u = u) ∧ (s.statFits u = false → s.whenPosted u = s)) ∧
  (∀ u : State, (∀ e ∈ u.ctxs, e.2.statq.length ≤ e.2.statDepth) → s.statFits u = true) ∧
  (l.tag = x.tag → ∃ m, (s.applyGrad l x).line l.tag = some m ∧ m.count = l.count + 1 ∧ m.next = x.idx + 1 ∧
    m.blocks = (applyBlocks l.blocks x).1) ∧
  (∀ (s1 s2 s3 s4 : State) (hb : List Byte) (rs : List TRec) (copy : Option TRec) (olds : List (List (BitVec 32))),
    s.lines[i]? = some l →
    let r := TRec.parse l.tensor l.record
    let cells := l.cells r
    let cs := cells.map (·.2)
    let all := l.blocks.flatMap fun b => (⟨b.x, b.m, b.st⟩ : AccVal).finish
    let res := lineResults r (Hyper.ofBytes hb) (cells.map fun c => (all[c.1]?).getD (0, 0)) olds
    r.expect ≤ l.count → s.outstanding (773 + l.tag.home) l.dom < 2 ^ 19 → l.bad = false →
    s.readFlatVia true none l.dom [] (linePieces 3 r.hyper 64) = .ok s1 hb →
    s1.lineRecords (l.tag.home / 24) l.dom r (Hyper.ofBytes hb) = (s2, some (rs, copy)) →
    s2.readBoxes l.dom rs cs = .ok s3 olds →
    s3.writeBoxes l.dom
      (((rs.zip [res.map (·.1.1), res.map (·.2.1.1), res.map (·.2.2.1)]).map fun x => (x.1, imageOf 4 (x.2.map (·.toNat)))) ++
        copy.toList.map fun c => (c, imageOf 2 (res.map fun v =>
          (NFmt.bf16.finish 0 0 false [f32Val v.1.1] (f32Val v.1.1)).1))) cs = (s4, none) →
    ∃ t, exec (.updateLineComplete i) s = .next (s.whenPosted t) ∧ t.mem = s4.mem ∧ t.line l.tag = none ∧
      ∃ y ∈ t.arrivals, y.dom = l.dom ∧ y.sp = false ∧ y.va = r.syncw ∧ y.bytes = 2048 ∧ y.agent = 773 + l.tag.home) ∧
  (s.lines[i]? = some l → l.bad = true → (TRec.parse l.tensor l.record).expect ≤ l.count →
    s.outstanding (773 + l.tag.home) l.dom < 2 ^ 19 →
    exec (.updateLineComplete i) s = .next (s.whenPosted (s.failLine l (TRec.parse l.tensor l.record))))

/-- 04 R103, R104, R107, R108: what an update unit computes. A contribution joins the states of its non-finite elements,
raises the exponent of the block to that of its largest finite element, shifting the mantissas to nearest even, adds each
finite element's mantissa to nearest even, and halves the mantissas where one would pass 2^45; a line's elements are converted
to FP32; and the optimizers compute step by step, each operation rounded to FP32, to nearest even. -/
def Obligations.UpdateArithmetic : Prop := let near := fun (q : ℚ) => let k := ⌊q⌋₊; if 1 / 2 < q - k ∨ (q - k = 1 / 2 ∧ k % 2 = 1) then k + 1 else k
  let rint := fun (q : ℚ) => if q < 0 then -(near (-q) : Int) else (near q : Int)
  let state := fun (v : FVal) => match v with
    | .fin _ _ _ => 0
    | .inf s => if s then 2 else 1
    | .nan => 3
  (∀ (b : AccVal) (g : List FVal) (top : Int), b.m.length = g.length → b.st.length = g.length → b.x ≤ top →
    (∀ s (n : Nat) e, .fin s n e ∈ g → (n : ℚ) * 2 ^ e < 2 ^ top) →
    (top = b.x ∨ ∃ s, ∃ n : Nat, ∃ e, .fin s n e ∈ g ∧ (2 : ℚ) ^ (top - 1) ≤ n * 2 ^ e) →
    let add := fun (m : Int) (v : FVal) =>
      (if b.x < top then rint (m / 2 ^ (top - b.x)) else m) + (match v with
        | .fin s n e => rint ((if s then -1 else 1) * n * 2 ^ (e + 45 - top))
        | _ => 0)
    let past := (List.zipWith add b.m g).any fun v => decide (2 ^ 45 < v.natAbs)
    let r := b.contribute g
    r.x = (if past then top + 1 else top) ∧ r.m.length = g.length ∧ r.st.length = g.length ∧
    ∀ (j : Nat) (m : Int) (t : Nat) (v : FVal), b.m[j]? = some m → b.st[j]? = some t → g[j]? = some v →
      r.m[j]? = some (if past then rint ((add m v : ℚ) / 2) else add m v) ∧
      r.st[j]? = some (if t = 0 then state v else if state v = 0 ∨ state v = t then t else 3)) ∧
  (∀ (bs : List AccBlock) (x : Contribution) (b : Nat) (a : AccBlock), bs.length = 16 → x.data.length = 512 → bs[b]? = some a →
    let g := ((x.data.drop (32 * b)).take 32).map fun u => (NFmt.f32.decode u.toNat x.scale (fmtFlush x.fmt)).1
    let r := AccVal.contribute ⟨a.x, a.m, a.st⟩ g
    (applyBlocks bs x).1[b]? = some ⟨r.x, r.m, r.st⟩) ∧
  (∀ (b : AccVal) (j : Nat) (m : Int) (t : Nat), b.m[j]? = some m → b.st[j]? = some t →
    ∃ v, b.finish[j]? = some v ∧
      (t = 0 → v.1.toNat = NFmt.f32.encode (NFmt.f32.round 0 false (.fin (decide (m < 0)) m.natAbs (b.x - 45))).val) ∧
      (t = 1 → v.1 = 0x7F80_0000) ∧ (t = 2 → v.1 = 0xFF80_0000) ∧ (t = 3 → v.1 = 0x7FC0_0000)) ∧
  ∀ (r : TRec) (h : Hyper) (gs : List Ev32) (olds : List (List (BitVec 32))) (j : Nat) (q : Ev32), gs[j]? = some q →
    let value := fun (u : BitVec 32) => (NFmt.f32.decode u.toNat 0 false).1
    let rnd := fun (v : FVal) => BitVec.ofNat 32 (NFmt.f32.encode (NFmt.f32.round 0 false v).val)
    let mul := fun x y => rnd (FVal.mul (value x) (value y))
    let add := fun x y => rnd (FVal.add 0 (value x) (value y))
    let sub := fun x y => rnd (FVal.sub 0 (value x) (value y))
    let old := fun (k : Nat) => ((olds[k]?).bind (·[j]?)).getD 0
    let w := old 0
    let bm := old 1
    let bv := old 2
    let gv := q.1
    ∃ v, (lineResults r h gs olds)[j]? = some v ∧
      (r.opt = 0 → v.1.1 = gv ∧ v.2.1.1 = bm ∧ v.2.2.1 = bv) ∧
      (r.opt = 1 →
        let t := add gv (mul h.wd w)
        let bm1 := add (mul h.b1 bm) t
        v.1.1 = sub w (mul h.lr bm1) ∧ v.2.1.1 = bm1 ∧ v.2.2.1 = bv) ∧
      (r.opt = 2 →
        let one := (0x3F80_0000 : BitVec 32)
        let w1 := sub w (mul (mul h.lr h.wd) w)
        let bm1 := add (mul h.b1 bm) (mul (sub one h.b1) gv)
        let bv1 := add (mul h.b2 bv) (mul (sub one h.b2) (mul gv gv))
        let den := add (sqrt32 (mul bv1 h.c2)) h.eps
        v.1.1 = sub w1 (mul h.lr (div32 (mul bm1 h.c1) den)) ∧ v.2.1.1 = bm1 ∧ v.2.2.1 = bv1)

/-- 10 R190, R285, R299 to R301: a collective whose witness is satisfied takes its elements in order: of each it reads the
sources in list order, combines them and writes every destination; then it leaves its engine and arrives at its sync word;
one whose witness has failed, or without sources, writes nothing and its form fails; one that meets a fault stops there.
A notice is appended once the bytes of its form are visible, and the operation is then complete, or once it has counted as
lost (log 25, the model's reading).
That each of these is one step of the model, and does nothing when it is not due, is the model's choice (logs 1 and 10). -/
def Obligations.CollectiveEvents : Prop := ∀ (s s1 s2 : State) (i e k : Nat) (x : Collective) (vs : List Nat) (n : Notice)
    (o : TOp) (hdr : List Byte),
  (s.colls[i]? = some x →
    (x.srcs ≠ [] → (x.sat = true ∨ (s.witFailed x.wit = false ∧ s.witSat x.wit = true)) →
      (s.collElems x x.n 0 = (s2, none) →
        exec (.collectiveRun i) s = .next ((s2.wroteLines (769 + x.engine) x.cid x.dom 5 (some x.seq) ⟨0, 0⟩ x.tags).collArrival x
          x.witness true)) ∧
      (∀ f, s.collElems x x.n 0 = (s2, some (some f)) → exec (.collectiveRun i) s = .next (s2.failColl x)) ∧
      (s.collElems x x.n 0 = (s2, some none) → exec (.collectiveRun i) s = .next s)) ∧
    (x.srcs = [] ∨ (x.sat = false ∧ s.witFailed x.wit = true) → exec (.collectiveRun i) s = .next (s.failColl x))) ∧
  s.collElems x 0 e = (s, none) ∧
  (s.readSources x e (if x.op = 3 then x.srcs.take 1 else x.srcs) = .ok s1 vs →
    s1.writeDests x e (combine x.op x.fmt vs) x.dsts = (s2, none) → s.collElems x (k + 1) e = s2.collElems x k (e + 1)) ∧
  (combine 3 3 [k, i] = k ∧ combine 0 3 [k, i] = ((sextNat 32 k + sextNat 32 i) % 2 ^ 32).toNat) ∧
  (s.notices[i]? = some n → (s.ctx (s.slotOfCid n.cid)).bind (fun c => c.window.find? fun o => o.seq == some n.seq) = some o →
    (∀ f ∈ s.forms, f.isForm n.agent n.dom n.seq = true → scopeLevel n.scope ≤ f.level) →
    ({ s with notices := s.notices.eraseIdx i } : State).readFlatVia false none n.dom [n.floor] (linePieces 3 n.header 32) = .ok s1 hdr →
    s1.writeAll n.dom (noticeWrites hdr n) = .ok s2 () →
    exec (.noticeAppend i) s = .next ((s2.wroteLines n.agent n.cid n.dom 5 none o.pos ((noticeWrites hdr n).map fun w =>
      flatTag n.dom w.1)).finishOp (s.slotOfCid n.cid) o.tseq none [] 0))

/-- 16 R338, R343 to R348, 17 R365: a ready instance that fits is placed at its anchor in its turn; 2 ms of waiting raise
its effective priority by one, up to 4; a pre-empted instance stops issuing at once and is saved whole when it has drained,
a saved one is restored; an instance at priority 4 pre-empts the fewest of lower packet priority that make it fit, the
latest accepted first; a team's shares are released once it has retired and its copies are done; a die without progress
gives its smallest full queue a chunk, and with none left the instance whose queues hold the most is aborted; a core passes
the present code generation. The model's choices here: a save takes areas of a layout of its own and none is made while
none is free (log 37), the witness of a save and the lowest free place of a share (log 22), what counts as progress
(log 21), and the levels of queues that hold copies and accesses on their way, and when their chunks return (log 26).
That each of these is one step of the model, and does nothing when it is not due, is the model's choice (logs 1 and 10). -/
def Obligations.SchedulingEvents : Prop := ∀ (s : State) (g : GInst) (t : Task) (die span core team qu : Nat),
  let task := g.task
  let inst := g.num
  s.inst task inst = some g →
  (s.task task = some t → s.ready = true → g.status = .ready → s.waiting g = true → s.fitsAt g die span core = true →
    s.turnOf g die = true →
    exec (.instancePlacement task inst die span core) s = .next (if t.state = .accepted
      then (s.launch g t.prio t.wit die span core).enter task .placed 0 0 t.hash
      else s.launch g t.prio t.wit die span core)) ∧
  (s.waiting g = true → g.eff < 4 → g.since + 2100000 ≤ s.cycle →
    exec (.priorityAgeing task inst) s =
      .next (s.onInst task inst fun g => { g with eff := g.eff + 1, since := g.since + 2100000 })) ∧
  (g.status = .placed → s.areasFor [g] = true →
    exec (.preempt task inst) s = .next (((s.halt g).saveInst g).getD (s.halt g)) ∧
    (∀ a c, (s.halt g).ctx a = some c → c.task = task → c.inst = inst → c.stopped = true) ∧
    ∀ u h, (s.halt g).saveInst g = some u → u.inst task inst = some h →
      h.status = .saved ∧ h.saveWit = mkWit 1 5 h.dom (s.epoch % 2 ^ 22) 0 0) ∧
  ((g.status ≠ .placed ∨ s.areasFor [g] = false) → exec (.preempt task inst) s = .next s) ∧
  (s.ready = true → g.status = .saved → s.waiting g = true → s.fitsAt g die span core = true → s.turnOf g die = true →
    exec (.resume task inst die span core) s = .next (s.restoreInst g die span core)) ∧
  (∀ v, s.waiting g = true → g.eff = 4 → g.since + 2100000 ≤ s.cycle → s.fits g = false → s.victims g = some v →
    s.areasFor v = true →
    exec (.forcedPreemption task inst) s =
      .next ((State.saveEach (v.foldl State.halt s) v).getD (v.foldl State.halt s))) ∧
  (let later := (s.insts.filter fun h => h.status == .placed && decide (h.prio < g.prio)).reverse
   (∀ v, s.victims g = some v → v.Sublist later ∧ (s.without v).fits g = true ∧
     ∀ w, w.Sublist later → (s.without w).fits g = true → v.length ≤ w.length ∧
       ∀ k x y, w.length = v.length → w.take k = v.take k → v[k]? = some x → w[k]? = some y → x ≠ y → [x, y].Sublist later) ∧
   (s.victims g = none → ∀ w, w.Sublist later → (s.without w).fits g = false)) ∧
  (let cids := (g.members.filter fun m => m.team == team).map (·.cid)
   (∃ m ∈ g.members, m.team = team) → (∀ m ∈ g.members, m.team = team → m.exited = true) →
    (∀ e ∈ s.ctxs, e.2.task = task → e.2.inst = inst → e.2.team = team →
      holdsSlot e.1 = false ∧ ∀ o ∈ e.2.window, o.status = .done ∨ usesShare o.form = false) →
    (∀ x ∈ s.accs, x.sp = true → x.cid ∉ cids) → (∀ r ∈ s.arrivals, r.sp = true → r.cid ∉ cids) →
    exec (.scratchShareRelease task inst team) s = .next { s with shares := s.shares.map fun h =>
      if h.task == task && h.inst == inst && h.team == team then { h with live := false } else h }) ∧
  (s.stalled die = true ↔ AL.get 0 s.worked die + 256 ≤ s.cycle ∧ ∀ e ∈ s.ctxs, dieOf e.1 = die → s.readyNow e.1 = false) ∧
  (s.stalled die = false → exec (.deadlockQueueGrowth die qu) s = .next { s with choices := s.choices + 1 }) ∧
  (let s0 := s.dropChunks (((s.looseQueues die).filter fun q => decide (q.1.held ≤ q.1.base)).map (·.1.num))
   let qs := s0.dieQueues die
   ∀ x h, smallestFull ((s0.hwQueues die).filter s0.queueFull) = some x → x.num = qu → s.stalled die = true →
    (s0.chunkSum qs < 256 → 1024 ≤ qu →
      exec (.deadlockQueueGrowth die qu) s = .next { s0 with
        chunks := (qu, s0.chunksOf qu + 1) :: s0.chunks.filter fun e => e.1 != qu
        worked := AL.put s.worked die s.cycle, choices := s.choices + 1 }) ∧
    (s0.chunkSum qs < 256 → qu < 1024 → ∀ c, s.ctx qu = some c → ∃ t,
      exec (.deadlockQueueGrowth die qu) s = .next t ∧ t.ctx qu = some ({ c with statChunks := c.statChunks + 1 } : Ctx).retireTiles) ∧
    (256 ≤ s0.chunkSum qs → s0.mostChunks die = some h →
      exec (.deadlockQueueGrowth die qu) s = .next ((({ s0 with choices := s.choices + 1 } : State).abortInst h.task h.num none
        ⟨{ cause := 0x50, aux := 1, unit := h.firstUnit }, ⟨0, 0⟩, ⟨0, 0⟩, 0, 0, 0, 0, 0⟩).dropChunks (s0.instQueues die h)))) ∧
  (∀ q w, (q, w) ∈ s.looseQueues die → (w = [] → q.held = 0) ∧ q.held ≤ s.depthOf q.num q.base q.size) ∧
  (∀ (h : GInst) q w, (q, w) ∈ s.looseQueues die → (∃ e ∈ s.membersOf h, e.2.cid ∈ w) → q.num ∈ s.instQueues die h) ∧
  (∀ h, s.mostChunks die = some h → let n := fun (h : GInst) => s.chunkSum ((s.instQueues die h).filter (s.dieQueues die).contains)
    h ∈ s.insts ∧ h.status = .placed ∧ 0 < n h ∧ ∀ k ∈ s.insts, k.status = .placed → n k ≤ n h) ∧
  (∀ (l : List HwQueue) x, smallestFull l = some x → x ∈ l ∧ ∀ y ∈ l, x.held * x.size ≤ y.held * y.size ∧
    (x.held * x.size = y.held * y.size → x.unit.toNat ≤ y.unit.toNat)) ∧
  (∀ q n base, 1024 ≤ q → n ≤ base → (s.returnChunks q n base).chunksOf q = 0) ∧
  ((∀ e ∈ s.ctxs, coreOf e.1 = core → e.2.status = .running → ∀ h ∈ e.2.halves, h.gen = s.codegen) →
    ∃ u, exec (.codegenPass core) s = .next u ∧ u.codegen = s.codegen ∧ u.mem = s.mem ∧
      ∀ a c, u.ctx a = some c → coreOf a = core → c.codegen = s.codegen)

/-- 16 R333, R334, R335, R349, R350: a tail write moves the tail unless more than the ring would be pending; the queue in
turn gives one packet, refused with a record or accepted with its host-ingress witness; a packet that its tail does not
cover is passed over; a length byte outside 2 to 16 is refused with reason 2 and takes one unit, but a kind outside 1 to 9
is met first, in the order of R335 (log 26, the model's reading); a launch packet takes the free units of its ring (log 26);
a launch ends once nothing of it is left, with the status class of what it met, and one whose end waited for a credit ends
so (R336).
That each of these is one step of the model, and does nothing when it is not due, is the model's choice (logs 1 and 10). -/
def Obligations.TaskEvents : Prop := ∀ (s : State) (q i r : Nat) (v : BitVec 64) (x : QueueSt) (p : LaunchPkt) (t : Task),
  (s.queue q = some x → s.hostUp = true → 8 ≤ x.lsize → x.lsize ≤ 20 → (v.toNat % 2 ^ 32 + 2 ^ 32 - x.head) % 2 ^ 32 ≤ 2 ^ x.lsize →
    exec (.tailWrite q v) s = .next { s with queues := AL.put s.queues q { x with tail := v.toNat % 2 ^ 32 } }) ∧
  (s.queue q = some x → 2 ^ x.lsize < (v.toNat % 2 ^ 32 + 2 ^ 32 - x.head) % 2 ^ 32 → exec (.tailWrite q v) s = .next s) ∧
  (let len := fieldAt (s.ringUnits x x.head 1) 0 1
   let n := if 2 ≤ len ∧ len ≤ 16 then len else 1
   let bs := s.ringUnits x x.head n
   let s0 : State := { s with visit := (q + 1) % 64 }
   let done := fun (u : State) => match u.queue q with
     | some y => { u with queues := AL.put u.queues q { y with head := (x.head + n) % 2 ^ 32 } }
     | none => u
   s.queue q = some x → s.ready = true → s.nextVisit = some q →
   (x.pending < n → exec (.queueVisit q) s = .next s0) ∧
   (n ≤ x.pending → (s.launchQ.find? fun p => p.queue == q && p.place == some x.head) = none →
     (s.refusal x bs none = some r → exec (.queueVisit q) s = .next (done (s0.refuse q bs r))) ∧
     (s.refusal x bs none = none →
       exec (.queueVisit q) s = .next (done ((s0.ingress x.dom).1.accept q x bs (s0.ingress x.dom).2)))) ∧
   (len < 2 ∨ 16 < len → n = 1 ∧
     s.refusal x bs none = some (if 1 ≤ fieldAt bs 1 1 ∧ fieldAt bs 1 1 ≤ 9 then 2 else 1))) ∧
  (s.launchQ[i]? = some p → p.place = none →
    (∀ y ∈ s.launchQ.take i, y.place = none → y.queue = p.queue → y.agent ≠ p.agent) → s.queue p.queue = some x →
    x.enable = true → x.dom = p.dom → x.pending + p.bytes.length / 16 ≤ 2 ^ x.lsize →
    ∃ u, exec (.launchQueueAppend i) s = .next u ∧
      u.queue p.queue = some { x with tail := (x.tail + p.bytes.length / 16) % 2 ^ 32 } ∧
      u.launchQ = s.launchQ.map fun y => if y == p then { y with place := some x.tail } else y) ∧
  (∀ (task : Nat), s.task task = some t → t.state.ended = false → t.ending = none → ¬(t.cancel = true ∧ t.state = .accepted) →
    t.kind = 1 → (∀ g ∈ s.insts, g.task = task → g.status = .retired ∨ g.status = .aborted) → (∀ e ∈ s.ctxs, e.2.task ≠ task) →
    s.allVisible (s.cidsOf task) = true →
    exec (.taskComplete task) s = .next (
      if t.cause ≠ 0 then s.finish task .failed 1 t.cause t.hash
      else if t.cancel = true then s.finish task .cancelled 5 t.detail t.hash
      else if t.formFault ≠ 0 then s.finish task .completed 3 t.formFault t.hash
      else s.finish task .completed (if t.storeFault then 2 else 0) 0 t.hash)) ∧
  (∀ (task : Nat) st cls detail hash, s.task task = some t → t.state.ended = false → t.ending = some (st, cls, detail, hash) →
    exec (.taskComplete task) s = .next (s.finish task st cls detail hash))

/-- 16 R337, 17 R360 to R364, 19 R385, R389: the work of the keystone. A copy ends once its bytes are copied and all
visible; a signal and a mark end at once; a wait ends once the generation differs; a record fence drops once and then ends;
a self-test clears its span and records its outcome, a free value (log 17); a load answers with the first check that fails;
an unload, placed as soon as it is ready, waits while a launch uses the object, then raises the code generation and unmaps
the object. That a copy goes line by line is the model's reading (log 22),
as is that the addresses of a load are virtual in the task's domain (log 26).
That each of these is one step of the model, and does nothing when it is not due, is the model's choice (logs 1 and 10). -/
def Obligations.KeystoneWork : Prop := ∀ (s s2 s3 : State) (t : Task) (l : PLeaf) (o : Obj) (img bs : List Byte),
  let task := t.id
  let va := fieldAt t.payload 0 8
  s.task task = some t → t.ready = true →
  (t.kind = 2 → t.state = .running → t.count ≠ 0 → fieldAt t.payload 16 8 ≤ t.next → (∀ x ∈ s.accs, x.cid ≠ task) →
    exec (.copyTask task) s = .next ((s.formLevel t.copyForm.1 t.dom t.copyForm.2 5).finish task .completed 0 0 t.hash)) ∧
  (t.kind = 3 → s.witSat t.wit = true → exec (.signalTask task) s = .next (s.finish task .completed 0 0 t.hash)) ∧
  (t.kind = 4 → t.state = .running → s.trans true (flatTag t.dom va) va .read true = .ok s2 l →
    s2.readHome (flatTag t.dom va) [t.wit] [(l, va, 32)] = .ok s3 bs →
    exec (.waitTask task) s = .next (if fieldAt bs 8 4 ≠ fieldAt t.payload 8 4
      then s3.finish task .completed 0 0 t.hash else s3)) ∧
  (t.kind = 5 → t.state = .running → t.count ≠ 0 →
    exec (.recordFenceTask task) s = .next (s.finish task .completed 0 0 t.hash)) ∧
  (t.kind = 5 → t.state = .running → t.count = 0 → (∀ d ∈ s.drops, d.task ≠ task) →
    exec (.recordFenceTask task) s = .next { s with drops := s.drops ++ [⟨t.dom, va % 2 ^ 20, t.wit, 1024, 0, 0, task, 0, ⟨0, 0⟩, 0, true⟩] }) ∧
  (t.kind = 7 → exec (.journalMark task) s = .next (s.finish task .completed 0 0 (BitVec.ofNat 64 va))) ∧
  (t.kind = 6 → t.state = .running →
    exec (.selfTestRun task) s = .next ((s.clearSpan t.testSpan.1 t.testSpan.2).testOutcome t)) ∧
  (t.kind = 8 → t.state = .running → s.readImage t va = .ok s2 img →
    let u := s2.settleMoves
    let out := fieldAt t.payload 8 8
    (u.loadStatus t.dom img ≠ 0 → u.writeFlatVia true t.dom [(out, 16)] (u.loadResult 0 (u.loadStatus t.dom img)) = (s3, none) →
      exec (.codeLoad task) s = .next ((s3.writeBack (flatTag t.dom out)).finish task .completed 0 0 t.hash)) ∧
    (u.loadStatus t.dom img = 0 → u.placeStop t.dom (loadList img) = none →
      (let r := u.loadObj t.dom img
       r.1.writeFlatVia true t.dom [(out, 16)] (r.1.loadResult r.2 0) = (s3, none)) →
      exec (.codeLoad task) s = .next ((s3.writeBack (flatTag t.dom out)).finish task .completed 0 0 t.hash)) ∧
    (u.loadStatus t.dom img = 0 → u.placeStop t.dom (loadList img) = some true →
      exec (.codeLoad task) s = .next (s.finish task .failed 7 8 t.hash))) ∧
  (t.kind = 9 → t.count = 0 →
    let uses := fun (x : Task) => x.kind = 1 ∧ x.dom = t.dom ∧ fieldAt x.payload 8 4 / 65536 = fieldAt t.payload 0 2 ∧
      (x.state.ended = false ∨ ∃ g ∈ s.insts, g.task = x.id ∧ (g.status = .placed ∨ g.status = .saved))
    ((∃ x ∈ s.tasks, uses x) → exec (.codeUnload task) s = .next (s.toPlaced t)) ∧
    (t.state = .running → (∀ x ∈ s.tasks, ¬uses x) → s.objOf t.dom (fieldAt t.payload 0 2) = some o →
      exec (.codeUnload task) s = .next (
        let u := ({ s.settleMoves with codegen := s.codegen + 1 } : State).unmapObj o
        ({ u with objs := u.objs.map fun x => if x == o then { x with gone := some (s.codegen + 1) } else x } : State).onTask
          task fun t => { t with count := (s.codegen + 1).toNat + 1 })))

/-- 21 R396, R398, R400, R401, 17 R367, R371, 19 R390, R391: a package reset, which leaves the reset state but for the
module's flash (firmware image, wear history, derates, withdrawn and narrow units) and what lies outside the package (host
and peer memory, link partners, debugger: log 9, the model's choice, as is that the model's own counters go on); boot, which
runs an image that is accepted and otherwise enters recovery; the host link, which times out after 1 s, and the Tamvan
links; an energy interval, which once at its boundary shares each core's static energy among the contexts that held its slots, in proportion to
their cycles; a counter sample, which derates a die by a clock step and writes an error record of kind 7 when its
predicted life falls below its threshold. The predictions are free values (log 18), Es is one (log 14).
That each of these is one step of the model, and does nothing when it is not due, is the model's choice (logs 1 and 10). -/
def Obligations.PackageEvents : Prop := ∀ (s : State) (port n die : Nat) (r : Resid) (img : List Byte),
  (exec .packageReset s = .next { State.reset with
    events := s.events, choices := s.choices, samples := s.samples, tests := s.tests
    mem := s.mem.filter fun e => decide (2 ^ 60 ≤ e.1) && decide (e.1 < 3 * 2 ^ 60)
    flash := s.flash, wear := s.wear, derate := s.derate, withdrawn := s.withdrawn, narrow := s.narrow
    portsDown := s.portsDown, debugger := s.debugger }) ∧
  (s.ready = false → s.recovery = false → exec .boot s = .next (if firmwareOk s.flash = true
    then { s.setLogs with ready := true, image := s.flash } else { s with recovery := true })) ∧
  (s.ready = true ∨ s.recovery = true → exec .boot s = .next s) ∧
  (firmwareOk img = true ↔ BitVec.ofNat 256 (leNat (sha256 (Config.firmwareKey img))) = Config.fusedKeyHash ∧
    Config.slhVerify (Config.firmwareKey img) (Config.firmwareBody img) (Config.firmwareSignature img) = true ∧
    Config.fusedMinVersion.toNat ≤ (Config.firmwareVersion img).toNat) ∧
  exec .fundamentalReset s = .next { s with hostUp := false, hostDown := 0, hostSince := s.cycle } ∧
  exec .hostLinkReturn s = .next { s with hostUp := true, hostDown := 0 } ∧
  (s.hostUp = false → s.hostSince + 1050000000 ≤ s.cycle → exec .hostLinkTimeout s = .next { s with hostDown := 1 }) ∧
  (s.hostUp = true ∨ s.cycle < s.hostSince + 1050000000 → exec .hostLinkTimeout s = .next s) ∧
  (port < 16 → port ∉ s.portsDown → exec (.tamvanLinkDown port) s = .next { s with portsDown := s.portsDown ++ [port] }) ∧
  (16 ≤ port ∨ port ∈ s.portsDown → exec (.tamvanLinkDown port) s = .next s) ∧
  exec (.tamvanLinkUp port) s = .next { s with portsDown := s.portsDown.filter (· != port) } ∧
  (s.shareNum < s.cycle / 1050000 →
    let total := fun (core : Nat) => ((s.resid.filter fun r => r.core == core).map (·.cycles)).sum
    let charged := s.resid.foldl (fun (u : State) r =>
      u.chargeShare r (Config.staticEnergy r.core * r.cycles / total r.core)) s
    exec .energyInterval s = .next { charged with resid := [], shareNum := s.shareNum + 1 }) ∧
  (s.cycle / 1050000 ≤ s.shareNum → exec .energyInterval s = .next s) ∧
  ((∃ e ∈ s.ctxs, e.2.cid = r.cid ∧ e.2.status ≠ .exited) →
    s.chargeShare r n = { s with ctxs := s.ctxs.map fun e =>
      if e.2.cid == r.cid && e.2.status != .exited then (e.1, e.2.charge n) else e }) ∧
  ((∀ e ∈ s.ctxs, e.2.cid = r.cid → e.2.status = .exited) →
    (∃ g ∈ s.insts, ∃ c ∈ g.images, c.cid = r.cid ∧ c.status ≠ .exited) →
    let share := fun (c : Ctx) => if c.cid == r.cid && c.status != .exited then c.charge n else c
    s.chargeShare r n = { s with insts := s.insts.map fun g => ({ g with images := g.images.map share } : GInst) }) ∧
  ((∀ e ∈ s.ctxs, e.2.cid = r.cid → e.2.status = .exited) →
    (∀ g ∈ s.insts, ∀ c ∈ g.images, c.cid = r.cid → c.status = .exited) →
    let account : Domain := { s.domOf r.dom with energy := (s.domOf r.dom).energy + BitVec.ofNat 64 n }
    s.chargeShare r n = { s with doms := AL.put s.doms r.dom account }) ∧
  (s.sampleNum < s.cycle / 1050000000 → exec .counterSample s = .next (
    let u := [0, 1, 2, 3, 4].foldl (fun (u : State) d => u.sampleDie s.samples d)
      { s with samples := s.samples + 1, sampleNum := s.sampleNum + 1 }
    { u with eye := (List.range 16).foldl (fun m p => AL.put m p (Config.eyeMargin s.samples p)) u.eye })) ∧
  (s.cycle / 1050000000 ≤ s.sampleNum → exec .counterSample s = .next s) ∧
  (let u : State := { s with
    hours := AL.put s.hours die (Config.predictedHours n die)
    conf := AL.put s.conf die (BitVec.ofNat 8 (Nat.min (Config.confidence n die).toNat 100))
    limit := AL.put s.limit die (BitVec.ofNat 8 ((Config.limiting n die).toNat % 7))
    driftOf := AL.put s.driftOf die (Config.drift n die) }
   let entry := fun (k : Nat) => (⟨s.cycle, die, AL.get 0 u.hours die, AL.get 0 u.conf die, AL.get 0 u.limit die, k⟩ : Wear)
   let k := AL.get 0 s.derate die
   let hourly := if n % 3600 = 0 then s.wear ++ [entry k] else s.wear
   let below := (Config.predictedHours n die).toNat < AL.get 0 s.thresh die
   (die < 4 → below → s.belowLife die (AL.get 0 s.thresh die) = false →
     let slower : State := { u with
       derate := AL.set 0 s.derate die (Nat.min (k + 1) 2), wear := hourly ++ [entry (Nat.min (k + 1) 2)] }
     s.sampleDie n die = slower.errRecord 7 (unitPath die 0 0 0 0) 0 1 0 0) ∧
   (4 ≤ die ∨ ¬below ∨ s.belowLife die (AL.get 0 s.thresh die) = true → s.sampleDie n die = { u with wear := hourly })) ∧
  (s.clockOf die = match AL.get 0 s.derate die with
    | 0 => 1050
    | 1 => 950
    | _ => 840)

/-- 00 R5, 21 R403 to R406, 16 R333, 17 R356, R369, R370, 19 R388, R391: the registers of the host window: a write of mcmd is taken
and sets busy, and is discarded while busy is set; and each command of the mailbox with the values of its argument area:
what it changes, what it answers, its result code, with busy cleared. An entry that is changed is backing for its pages
from the command on and is in force with its end. In recovery command 13 alone is taken. That registers take no write
before boot and that an unready mailbox answers so are the model's readings (log 26); that a command is a step of its own
and a change of an entry two is the model's choice (log 10).
That each of these is one step of the model, and does nothing when it is not due, is the model's choice (logs 1 and 10). -/
def Obligations.MailboxAndRegisters : Prop := ∀ (s : State) (off code : Nat) (v w : BitVec 64),
  let cmds : List (Nat × Instr) := [(1, .configureQueue), (2, .changePageEntry), (3, .placementPolicy), (4, .registerCodeKey),
    (5, .cancelTask), (6, .returnWithdrawn), (7, .setDerate), (8, .readCounters), (9, .readEnergyAccount),
    (10, .attestationReport), (11, .readQueueHead), (12, .resetCommand), (13, .writeFirmware)]
  let ok := fun (n : Nat) => s.mcmd = some (BitVec.ofNat 64 n, false) ∧ s.marg.toNat % 64 = 0 ∧
    s.marg.toNat + areaLen n ≤ s.hostReach ∧ s.areaZero n = true ∧ (s.recovery = false ∨ n = 13)
  let result := fun (r : BitVec 8) (u : State) => ({ u with mresult := r, mcmd := none } : State)
  let answer := fun (o : Nat) (bs : List Byte) => result 0 (s.outsideWrite (s.marg.toNat + o) bs)
  let q := s.arg 0 1
  let b1 := s.arg 1 1
  let d := s.domOf q
  (ok 1 → q ≤ 63 → s.arg 17 1 ≤ 63 → s.arg 18 1 = 1 → s.arg 19 1 = 0 → s.arg 28 12 = 0 → s.arg 8 8 % 4096 = 0 →
    8 ≤ s.arg 16 1 → s.arg 16 1 ≤ 20 → s.arg 8 8 + 16 * 2 ^ s.arg 16 1 ≤ 2 ^ 39 →
    (∀ t ∈ s.tasks, t.queue = q → t.state.ended = true) →
    ∃ u, exec .configureQueue s = .next u ∧ u.mresult = 0 ∧ u.mcmd = none ∧
      u.queue q = some ⟨s.arg 8 8, s.arg 16 1, s.arg 17 1, true, s.arg 24 4, s.arg 24 4⟩) ∧
  (ok 1 → q ≤ 63 → s.arg 17 1 ≤ 63 → s.arg 18 1 ≤ 1 → s.arg 19 1 = 0 → s.arg 28 12 = 0 → s.arg 8 8 % 4096 ≠ 0 →
    (s.arg 16 1 < 8 ∨ 20 < s.arg 16 1 ∨ s.arg 8 8 + 16 * 2 ^ s.arg 16 1 ≤ 2 ^ 39) → (∀ t ∈ s.tasks, t.queue = q → t.state.ended = true) →
    ∃ u x, exec .configureQueue s = .next u ∧ u.mresult = 0 ∧ u.mcmd = none ∧ u.queue q = some x ∧ x.enable = false ∧
      u.memBytes (physKey 0 0 (s.marg.toNat + 40)) 8 = natLe 8 (s.arg 8 8 / 4096 * 4096)) ∧
  (ok 2 → q ≤ 63 → b1 ≤ 4 → s.arg 8 8 < 2 ^ 57 → (s.arg 16 8 % 2 = 0 ∨ (b1 ≤ 2 ∧ s.arg 16 8 / 2 % 2 = 1)) →
    s.pathRoom q b1 (s.arg 8 8) = true →
    let r := s.settleMoves.rootOf q
    let p := r.1.pathTo q (s.arg 8 8) b1 r.2 walkLevels
    ∃ u, exec .changePageEntry s = .next u ∧ u.mcmd = some (2, true) ∧
      u.backing = p.1.backing ++ [(q, b1, s.arg 8 8, BitVec.ofNat 64 (s.arg 16 8))] ∧
      u.memBytes (physKey 0 0 (s.marg.toNat + 24)) 8 = natLe 8 (p.1.entryAt p.2).toNat) ∧
  (s.mcmd = some (2, true) → exec .changePageEntry s =
    .next (result 0 (s.backing.foldl (fun u b => (u.putEntry b.1 b.2.1 b.2.2.1 b.2.2.2).1) { s with backing := [] }))) ∧
  (ok 3 → q ≤ 63 → b1 ≤ 15 → s.arg 2 1 ≤ 3 → exec .placementPolicy s = .next (result 0 { s with
    doms := AL.put s.doms q { d with dies := BitVec.ofNat 4 b1, excl := BitVec.ofNat 2 (s.arg 2 1) } })) ∧
  (ok 4 → q ≤ 63 → (∀ o ∈ s.objs, o.dom = q → o.gone ≠ none) → exec .registerCodeKey s = .next (result 0 { s with
    doms := AL.put s.doms q { d with key := some (s.area 8 32) } })) ∧
  (∀ t, ok 5 → q ≤ 63 →
    (s.tasks.find? fun t => t.queue == q && t.tag == BitVec.ofNat 32 (s.arg 4 4) && !t.state.ended) = some t →
    exec .cancelTask s = .next (result 0 (s.cancelTask t))) ∧
  (ok 5 → q ≤ 63 → (∀ t ∈ s.tasks, t.queue = q → t.tag = BitVec.ofNat 32 (s.arg 4 4) → t.state.ended = true) →
    exec .cancelTask s = .next (result 3 s)) ∧
  (ok 6 → q ≤ 3 → (b1 ≤ 11 ∨ b1 = 255) → exec .returnWithdrawn s = .next (result 0 { s with
    withdrawn := s.withdrawn.filter fun w => !(w.1 == q && (b1 == 255 || w.2 == b1)) })) ∧
  (ok 7 → q ≤ 3 → b1 = 1 → exec .setDerate s = .next (result 0 { s with derate := AL.set 0 s.derate q 0 })) ∧
  (let h := s.arg 4 4
   let u : State := { s with thresh := AL.set 0 s.thresh q h }
   ok 7 → q ≤ 3 → b1 = 0 →
   (s.belowLife q h = true → s.belowLife q (AL.get 0 s.thresh q) = false →
     exec .setDerate s = .next (result 0 (u.derateDie q))) ∧
   (s.belowLife q h = false ∨ s.belowLife q (AL.get 0 s.thresh q) = true → exec .setDerate s = .next (result 0 u))) ∧
  (let first := s.arg 4 4
   let n := s.arg 8 4
   let l := (List.range n).map (first + ·)
   ok 8 →
   (q ≤ 4 → b1 = 0 → exec .readCounters s = .next (answer 64 (natLe 4 (AL.get 0 s.hours q).toNat ++
     natLe 1 (AL.get 0 s.conf q).toNat ++ natLe 1 (AL.get 0 s.limit q).toNat ++ natLe 2 (AL.get 0 s.driftOf q).toNat ++
     natLe 4 (s.clockOf q)))) ∧
   (q ≤ 3 → b1 = 1 → 1 ≤ n → n ≤ 240 → first + n ≤ 2 ^ 19 → exec .readCounters s =
     .next (answer 64 (l.flatMap fun i => natLe 4 (AL.get 0 s.dramCnt (unitPath q 0 0 12 i).toNat)))) ∧
   (q ≤ 4 → b1 = 2 → 1 ≤ n → n ≤ 240 → first + n ≤ 2 ^ 32 → exec .readCounters s =
     .next (answer 64 (l.flatMap fun i => natLe 4 (AL.get 0 s.sramCnt i)))) ∧
   (q = 4 → b1 = 3 → 1 ≤ n → first + n ≤ 16 → exec .readCounters s =
     .next (answer 64 (l.flatMap fun p => natLe 1 (AL.get 0 s.eye p).toNat ++ natLe 1 0 ++ natLe 2 (AL.get 0 s.retrains p) ++
       natLe 4 (AL.get 0 s.retries p))))) ∧
  (ok 9 → q ≤ 63 → exec .readEnergyAccount s = .next (answer 8 (natLe 8 d.energy.toNat ++ natLe 8 d.sat))) ∧
  (ok 10 → exec .attestationReport s =
    .next (answer 64 (s.reportBody ++ sliceBytes (Config.deviceSign s.reportBody) 0 7856))) ∧
  (∀ x, ok 11 → q ≤ 63 → s.queue q = some x →
    exec .readQueueHead s = .next (answer 8 (natLe 4 x.head ++ natLe 4 x.tail))) ∧
  (ok 12 → s.arg 0 8 = 0x52455345 → exec .resetCommand s = .next s.packageReset) ∧
  (ok 13 → s.arg 0 8 + s.arg 8 8 ≤ s.hostReach →
    let img := s.freshBytes (s.arg 0 8) (s.arg 8 8)
    exec .writeFirmware s = .next (if firmwareOk img = true then result 0 { s with flash := img } else result 2 s)) ∧
  (∀ c ∈ cmds, (∀ b, s.mcmd ≠ some (BitVec.ofNat 64 c.1, b)) → exec c.2 s = .next s) ∧
  (∀ c ∈ cmds, s.mcmd = some (BitVec.ofNat 64 c.1, false) →
    (s.recovery = true → c.1 ≠ 13 → exec c.2 s = .next (result 2 s)) ∧
    ((s.recovery = false ∨ c.1 = 13) → (s.marg.toNat % 64 ≠ 0 ∨ s.hostReach < s.marg.toNat + areaLen c.1 ∨ s.areaZero c.1 = false) →
      exec c.2 s = .next (result 1 s))) ∧
  (code = 0 ∨ 13 < code → s.mcmd = some (w, false) → w.toNat = code →
    exec (.unknownMailboxCommand code) s = .next (result (if s.recovery then 2 else 1) s)) ∧
  (s.hostReach = if s.recovery then 2 ^ 30 else 2 ^ 39) ∧
  (s.hostUp = true → (s.ready = true ∨ s.recovery = true) →
    (s.mcmd = none → exec (.registerWrite 0x400 v) s = .next { s with mcmd := some (v, false) }) ∧
    (s.mcmd ≠ none → exec (.registerWrite 0x400 v) s = .next s) ∧
    exec (.registerWrite 0x408 v) s = .next { s with marg := v } ∧
    (off < 64 → exec (.registerWrite (0x100 + 8 * off) v) s = .next (s.tailWrite off v)) ∧
    ((off < 0x100 ∨ 0x300 ≤ off ∨ off % 8 ≠ 0) → off ≠ 0x400 → off ≠ 0x408 → exec (.registerWrite off v) s = .next s)) ∧
  (s.hostUp = false ∨ (s.ready = false ∧ s.recovery = false) → exec (.registerWrite off v) s = .next s) ∧
  (s.registerRead 0 = 0x4B57000400000001 ∧ s.registerRead 0x408 = s.marg ∧
    (s.registerRead 0x410).toNat = s.mresult.toNat * 256 + (if s.mcmd = none then 0 else 1) ∧
    ((s.registerRead 8).getLsbD 0 = s.ready ∧ (s.registerRead 8).getLsbD 1 = s.recovery)) ∧
  (∀ x, off < 64 → s.queue off = some x → x.tail < 2 ^ 32 → (s.registerRead (0x100 + 8 * off)).toNat = x.tail)

/-- 05 R138, 06 R163, 19 R374, R376 to R378: a trap writes its 64-byte record at trapbuf when that is not zero, captures the
interrupted stream's results in flight, resume position, loop stack, repeat state and replay list, empties them, and issue
goes to the handler; while a capture is held, without a handler, or when the record cannot be written or the handler cannot
be reached, the gang instance aborts; a replay that faults again keeps its capture. The record has the fields of Table 19-2,
each at its bytes, and is performed at the home of its address. 06 R165: TRET restores what the trap captured, beside what
its own bundle has started, and kept accesses are to be performed again. -/
def Obligations.TrapEntryAndReturn : Prop := ∀ (s s0 s1 : State) (a : Nat) (c : Ctx) (r : TrapRec) (l : List TOp) (k : Capture) (leaf : PLeaf) (f : MFault),
  let lost := s.failOps c.pd.toNat l
  let hpos := CodePos.ofWord c.tvec
  let enter := fun (cap : Capture) => s1.setCtx a { c with
    capture := some cap, pend := [], loops := [], rep := none, pc := hpos, held := false, pendTrap := none
    late := false, arrived := none, released := none, swWait := none, swRel := none, swKey := none, refault := none }
  let cap := (⟨c.pend, r.resume, c.rep, c.loops, l, s1.nextId, c.nextTile, c.arrived, c.released⟩ : Capture)
  let written := (c.trapbuf = 0 ∧ s0 = s) ∨ (c.trapbuf ≠ 0 ∧ s.writeRecord a c r = .ok s0 ())
  let record := r.bytes ++ natLe 8 0
  s.ctx a = some c →
  (c.tvec ≠ 0 → c.tvec.extractLsb' 60 4 = 0 → written → s0.target a hpos = .ok s1 true → s1.ctx a = some c →
    (c.capture = none → s.takeTrap a r l false = enter cap) ∧
    (c.capture = some k → s.takeTrap a r l true = enter { k with replay := l, pend := k.pend ++ c.pend })) ∧
  (c.capture.isSome ∨ c.tvec = 0 → s.takeTrap a r l false = lost.abortInst c.task c.inst (some a) r) ∧
  (c.tvec ≠ 0 → c.capture = none → c.trapbuf ≠ 0 →
    (s.writeRecord a c r = .fault f → s.takeTrap a r l false = lost.abortInst c.task c.inst (some a) r) ∧
    (s.writeRecord a c r = .wait → s.takeTrap a r l false = s)) ∧
  (let failed := fun (cause : Nat) (aux faddr : BitVec 64) (u : BitVec 32) =>
     (s0.failOps c.pd.toNat l).abortInst c.task c.inst (some a) { r with
       info := { cause := cause, aux := aux, faddr := faddr, slots := r.info.slots, unit := u } }
   c.tvec ≠ 0 → c.capture = none → written →
   (c.tvec.extractLsb' 60 4 ≠ 0 → s.takeTrap a r l false = failed 5 c.tvec 0 (seqUnit a)) ∧
   (c.tvec.extractLsb' 60 4 = 0 → s0.target a hpos = .ok s1 false → s.takeTrap a r l false = failed 5 c.tvec 0 (seqUnit a)) ∧
   (c.tvec.extractLsb' 60 4 = 0 → s0.target a hpos = .fault f →
     s.takeTrap a r l false = failed f.cause (BitVec.ofNat 64 f.aux) (BitVec.ofNat 64 f.faddr) f.unit) ∧
   (c.tvec.extractLsb' 60 4 = 0 → s0.target a hpos = .wait → s.takeTrap a r l false = s)) ∧
  (s.translate (flatTag c.pd.toNat c.trapbuf.toNat) c.trapbuf.toNat .write false = .ok s0 leaf →
    let k0 := physKey leaf.target leaf.port (leaf.pa + c.trapbuf.toNat % 65536)
    ∃ u, s.writeRecord a c r = .ok u () ∧ ∀ i b, record[i]? = some b →
      (leaf.target = 0 → u.homeRead (flatTag c.pd.toNat c.trapbuf.toNat) [k0 + i] = [b]) ∧
      (leaf.target ≠ 0 → u.memByte (k0 + i) = b)) ∧
  (record.length = 64 ∧ fieldAt record 0 2 = r.info.cause % 2 ^ 16 ∧ fieldAt record 2 1 = r.flags % 256 ∧
    fieldAt record 3 1 = r.info.slots.toNat ∧ fieldAt record 4 1 = r.cancelled % 256 ∧ fieldAt record 5 1 = r.rep % 256 ∧
    fieldAt record 6 2 = 0 ∧ fieldAt record 8 8 = r.bundle.toWord.toNat ∧ fieldAt record 16 8 = r.resume.toWord.toNat ∧
    fieldAt record 24 4 = r.tseq % 2 ^ 32 ∧ fieldAt record 28 4 = r.info.unit.toNat ∧
    fieldAt record 32 8 = r.info.faddr.toNat ∧ fieldAt record 40 8 = r.info.aux.toNat ∧ fieldAt record 48 8 = r.tick.toNat ∧
    fieldAt record 56 8 = 0) ∧
  (∀ (e : Env) (cause aux : Nat) (slots : BitVec 8), cause ≠ 0x50 → bundleFault e cause aux slots = e.s.takeTrap e.a
    ⟨{ cause := cause, aux := BitVec.ofNat 64 aux, slots := slots, unit := seqUnit e.a }, e.pos, e.pos, e.c.tick,
      (if e.c.rep.isSome then 8 else 0) ||| e.s.keptFlags e.c, 0, 0, if e.c.rep.isSome then e.repK else 0⟩ [] false) ∧
  (c.capture = some k → ∃ u d, s.returnTrap a = u ∧ u.ctx a = some d ∧ d.capture = none ∧ d.pend = k.pend ++ c.pend ∧
    d.loops = k.loops ∧ d.rep = k.rep ∧ d.pc = k.resume ∧ d.arrived = k.arrived ∧ d.released = k.released ∧ d.swKey = none ∧
    d.s = c.s ∧ d.p = c.p ∧ d.q = c.q ∧ d.w = c.w ∧ d.xp = c.xp ∧ d.fmt = c.fmt ∧ d.bt = c.bt ∧ d.stack = c.stack ∧
    d.window = c.window ∧ d.tvec = c.tvec ∧ d.trapbuf = c.trapbuf ∧ u.mem = s.mem ∧ u.regmem = s.regmem ∧
    ∀ x ∈ u.accs, x.cid = c.cid → x.kept = false)

/-- 05 R130, R137, 06 R146, R166: what the forms of the S, M, V, X and T slots leave unchanged when their bundle commits.
Memory is as it was, but for the journal record of a task whose first bundle this is (SWWAIT, which reads its word, apart); so are the vector registers, the other contexts, and the scalar, predicate, condition, witness, pattern and format
registers: results wait in flight. The special registers change by SSET alone, and the tile stack by T forms alone (where
a bundle drains a statistics record, complete operations that waited for its room retire). The
results due at this tick have landed in e.
The forms run as bundles of one form, which is the model's choice (log 16). -/
def Obligations.FormFrame : Prop := ∀ (i : Instr) (r : SlotReq) (lits : Nat) (s t : State) (e : Env) (d : Ctx),
  reqOf i = some r → r.slot ≠ .c → s.issuing lits = some e → exec i s = .next t → t.ctx e.a = some d →
  d.tick = e.c.tick + 1 →
  ((∀ q sv a, i ≠ .swwait q sv a) →
    (∀ k, t.memByte k = (s.markRunning e.c.task).memByte k) ∧
    ((∀ x, s.task e.c.task = some x → x.state ≠ .placed) → ∀ k, t.memByte k = s.memByte k)) ∧
  t.regmem = e.s.regmem ∧ (∀ b, b ≠ e.a → t.ctx b = s.ctx b) ∧ t.insts = s.insts ∧ t.arrivals = s.arrivals ∧
  d.s = e.c.s ∧ d.p = e.c.p ∧ d.q = e.c.q ∧ d.w = e.c.w ∧ d.xp = e.c.xp ∧ d.fmt = e.c.fmt ∧ d.capture = e.c.capture ∧
  d.status = e.c.status ∧ d.pd = e.c.pd ∧ d.deckq = e.c.deckq ∧ d.pierq = e.c.pierq ∧
  (∃ new, d.pend = (e.c.pend ++ new).map fun p => { p with left := p.left - 1 }) ∧
  ((∀ m n sa, i ≠ .sset m n sa) → d.swctx = e.c.swctx ∧ d.tlimit = e.c.tlimit ∧ d.trise = e.c.trise ∧
    d.spillbase = e.c.spillbase ∧ d.spilllen = e.c.spilllen ∧ d.lk = e.c.lk ∧ d.tvec = e.c.tvec ∧ d.trapbuf = e.c.trapbuf ∧
    d.statbuf = e.c.statbuf) ∧
  (r.slot ≠ .t → d.stack = e.c.stack ∧ d.plane0 = e.c.plane0 ∧ d.plane1 = e.c.plane1 ∧ d.tseq = e.c.tseq ∧
    d.nextTile = e.c.nextTile ∧ (∀ x ∈ d.tiles, x ∈ e.c.tiles) ∧
    (∃ n, (∀ o ∈ e.c.window.take n, o.status = .done) ∧ d.window = e.c.window.drop n) ∧
    (r.slot = .m ∨ e.c.statq = [] → d.tiles = e.c.tiles ∧ d.window = e.c.window))

/-- 05 R121, R182, R133 to R135: a slot whose leaf is not taken leaves nothing but the base update of address mode 10; and
a result that would land on a register at the tick of one in flight, a fifth read of a vector register, a third vector
result at one tick, and a 65th result in flight trap at issue with causes 0x03 and 0x04. A result that is discarded (s0,
w0) counts nowhere. That the base update of a slot whose leaf is not taken counts is the model's reading (log 30).
The forms run as bundles of one form, which is the model's choice (log 16). -/
def Obligations.LeavesAndCollisions : Prop := ∀ (i : Instr) (r : SlotReq) (w : BundleWord) (ls : List Unit16) (s : State) (e : Env),
  encode i = some (w, ls) → reqOf i = some r → r.slot ≠ .c → s.issuing ls.length = some e →
  let base := (r.base e).toList
  let new := base ++ (r.eff e).pends
  let d : Done := ⟨r.slot, true, r.eff e, new⟩
  let hit := ∃ p ∈ new, p.reg ≠ .none ∧ ∃ q ∈ e.c.pend, p.reg = q.reg ∧ p.left = q.left
  (r.mask.getLsbD 0 = false → e.room r.slot [] base = true → exec i s = .next (e.commits r.slot base 0)) ∧
  (r.slot ≠ .m → r.base e = none) ∧
  (r.mask.getLsbD 0 = true → (r.eff e).illegal = false → hit →
    exec i s = .next (bundleFault e 0x03 0 (maskBit r.slot.bit true))) ∧
  (∀ x y : SlotReq, x.slot = .m → y.slot = .v → x.mask.getLsbD 0 = true → y.mask.getLsbD 0 = true →
    (x.eff e).illegal = false → (y.eff e).illegal = false → collisions e.c.pend ([x, y].map (doneOf e 1 false)) = 0 →
    4 < (x.eff e).vreads.length + (y.eff e).vreads.length → ∃ m, issueIn e [x, y] = bundleFault e 0x04 0 m) ∧
  (r.mask.getLsbD 0 = true → (r.eff e).illegal = false → collisions e.c.pend [d] = 0 → (r.eff e).vreads.length ≤ 4 →
    (∃ p ∈ new, p.isV = true ∧ 2 < vWrites (e.c.pend ++ new) p.left) →
    exec i s = .next (bundleFault e 0x04 1 (maskBit r.slot.bit true))) ∧
  (r.mask.getLsbD 0 = true → (r.eff e).illegal = false → collisions e.c.pend [d] = 0 → (r.eff e).vreads.length ≤ 4 →
    (∀ p ∈ new, p.isV = true → vWrites (e.c.pend ++ new) p.left ≤ 2) → 64 < ((e.c.pend ++ new).filter fun p => p.reg != .none).length →
    (∃ p ∈ new, p.reg ≠ .none) →
    exec i s = .next (bundleFault e 0x04 2 (maskBit r.slot.bit true)))

/-- 02 R63, R64, Table 2-14, 21 R400, R403: after reset no context holds a slot, no task, instance, queue or code object
exists, no domain has a root table, the wheel stands at slot 0, memory lists nothing, the firmware has not booted, and the
status and mailbox registers read their first values. A launched context starts at its kernel's entry, with its arguments
and identity in s1 to s8, every other register zero, an empty stack, an empty loop stack and nothing in flight.
The reset values that the manual does not give are the model's (log 9), and that unwritten memory reads zero too (log 2). -/
def Obligations.ResetAndLaunch : Prop := (let s := State.reset
   s.ctxs = [] ∧ s.tasks = [] ∧ s.insts = [] ∧ s.queues = [] ∧ s.objs = [] ∧ (∀ d, (s.domOf d).root = 0) ∧ s.wheel = 0 ∧
   s.mem = [] ∧ s.accs = [] ∧ s.forms = [] ∧ s.ready = false ∧ s.recovery = false ∧ s.Inv ∧
   s.registerRead 0 = 0x4B57000400000001 ∧ s.registerRead 8 = 0 ∧ s.registerRead 0x410 = 0) ∧
  ∀ (s : State) (g : GInst) (prio cid die span : Nat) (wit : W64) (team num n : Nat),
    let c := s.newCtx g prio wit cid die span (team, num)
    c.pc = g.kernel.entry ∧ c.status = .running ∧ c.tick = 0 ∧ c.tlimit = g.kernel.stack ∧ c.trise = 8 ∧
    (c.stack = [] ∧ c.loops = [] ∧ c.pend = [] ∧ c.window = [] ∧ c.capture = none ∧ c.tvec = 0 ∧ c.trapbuf = 0 ∧ c.lk = 0 ∧
      c.ecount = 0) ∧
    c.readS 1 = g.args ∧ c.readS 2 = BitVec.ofNat 64 g.num ∧ c.readS 3 = BitVec.ofNat 64 team ∧
    c.readS 4 = BitVec.ofNat 64 num ∧ c.readS 5 = BitVec.ofNat 64 (span + team) ∧ c.readS 6 = BitVec.ofNat 64 die ∧
    c.readS 7 = BitVec.ofNat 64 g.kernel.perTeam ∧ c.readS 8 = BitVec.ofNat 64 g.kernel.teams ∧
    (n = 0 ∨ 8 < n → c.readS n = 0) ∧ (n ≠ 0 → c.readP n = 0 ∧ c.readQ n = false) ∧ c.readW n = 0 ∧ c.readXp n = (0, 0) ∧ c.fmt = 0

/-- 02 R63, Table 2-14: when a context is launched, its scalar registers s1 to s8 hold the address of the argument block, the
number of its gang instance, of its team within the gang and of itself within the team, the span of its team within the
die, the die, the contexts of a team and the teams of the gang; every other scalar register reads zero. -/
def Obligations.LaunchRegisters : Prop := ∀ (s : State) (g : GInst) (prio cid die span : Nat) (wit : W64) (team num n : Nat),
  let r := (s.newCtx g prio wit cid die span (team, num)).readS
  r 1 = g.args ∧ r 2 = BitVec.ofNat 64 g.num ∧ r 3 = BitVec.ofNat 64 team ∧ r 4 = BitVec.ofNat 64 num ∧
  r 5 = BitVec.ofNat 64 (span + team) ∧ r 6 = BitVec.ofNat 64 die ∧ r 7 = BitVec.ofNat 64 g.kernel.perTeam ∧
  r 8 = BitVec.ofNat 64 g.kernel.teams ∧ (n = 0 ∨ 8 < n → r n = 0)

/-- 05 R112 to R120, R124, Tables 5-1 to 5-12: the worked bundle of 05 decodes to its branch tree and its store; one word
of each slot decodes to its form; the code units decode to their roles. -/
def Obligations.DecodeWords : Prop := decodeBundle 0x100100830005000000000404_8E04BC8100000000000000000000000000000000 [0x002B, 0, 0x002B, 0, 8] =
    .ok false {
      c := some (.br 0 2 3 0 0 (.direct 0x2B) (.direct 0x2B) .fall .fall)
      m := some (.st ⟨4, 0, 5, 7, 2, 0⟩ 2 14 ⟨1, .off16 8⟩) } ∧
  decodeBundle (BitVec.ofNat 256 (2 ^ 252 + (31 * 2 ^ 26 + 1 * 2 ^ 20 + 5 * 2 ^ 14 + 6 * 2 ^ 8 + 7 * 2 ^ 2 + 1) * 2 ^ 173)) [] =
    .ok false (Instr.alone (.sub 31 5 6 (.imm 7))) ∧
  decodeBundle (BitVec.ofNat 256 (2 ^ 252 + 2 ^ 251 +
      (1 * 2 ^ 42 + (2 * 8 + 5) * 2 ^ 34 + 767 * 2 ^ 24 + 770 * 2 ^ 14 + 3 * 2 ^ 4 + 9) * 2 ^ 81)) [] =
    .ok true (Instr.alone (.vmul 1 5 767 770 3 9)) ∧
  decodeBundle (BitVec.ofNat 256 (2 ^ 252 + (2 * 2 ^ 31 + 5 * 2 ^ 27 + 10 * 2 ^ 17 + 11 * 2 ^ 7 + 3 * 2 ^ 4 + 8) * 2 ^ 45)) [] =
    .ok false (Instr.alone (.xslide 2 10 11 3 3)) ∧
  decodeBundle (BitVec.ofNat 256 (2 ^ 252 + (16 * 2 ^ 40 + 3 * 2 ^ 32 + 200 * 2 ^ 24))) [] =
    .ok false (Instr.alone (.tpick 16 200)) ∧
  decodeBundle 0 [] = .illegal 0x40 {} ∧ decodeBundle (BitVec.ofNat 256 (2 * 2 ^ 252)) [] = .reserved 2 ∧
  decodeUnit 0x0428 = .ref 16 5 ∧ decodeUnit 0x8060 = .repeat 3 ∧ decodeUnit 0xA000 = .segEnd ∧ decodeUnit 0xC000 = .bad

/-- 05 R112 to R125: decoding the words of a well-formed form gives it back, for every form and every operand its
encoding admits: no bit of an encoding is dropped, and no two forms share words. -/
def Obligations.DecodeEncode : Prop := ∀ (i : Instr), i.slot.isSome = true → i.wf = true →
  ∃ w ls, encode i = some (w, ls) ∧ decodeBundle w ls = .ok false i.alone

/-- Every step keeps memory in its canonical form and the slot wheel within one revolution of 768 slots (07 R199).
The canonical form of memory is the model's own. -/
def Obligations.StepKeepsInvariant : Prop := ∀ (s t : State), s.Inv → step s = .next t → t.Inv

/-- 03 R69, R71 to R73, R81 to R83, R88, R89, 04 R109: what the arithmetic computes, over the rationals. Sums and products
of finite values are exact, with the zero of R71; a value outside a format rounds to a neighbour on the format's grid by the
mode, to nearest even in mode 0, keeping subnormals; what lies beyond the largest finite value overflows, saturates or
becomes NaN as R82 says; an integer destination clamps; patterns and values of a format answer to each other. The events of
a negative value or an infinity that an unsigned format cannot hold, and inexact beside a clamp, are the model's choice
(log 30), as is that 0 counts as even where P is 1 (log 30) and event 0 for a NaN made of inputs that are none (log 23). -/
def Obligations.RoundingComputes : Prop := let val := fun (s : Bool) (m : Nat) (e : Int) => (if s then -1 else 1 : ℚ) * m * (2 : ℚ) ^ e
  let pick := fun (mode : Nat) (s even : Bool) (k : Nat) (low : ℚ) =>
    if low = 0 ∨ mode = 1 ∨ (mode = 2 ∧ s = true) ∨ (mode = 3 ∧ s = false) then k
    else if mode = 2 ∨ mode = 3 ∨ 1 / 2 < low ∨ (low = 1 / 2 ∧ even = false) then k + 1 else k
  (∀ (mode m n : Nat) (s t : Bool) (e f : Int), ∃ u k j,
    FVal.add mode (.fin s m e) (.fin t n f) = .fin u k j ∧ val u k j = val s m e + val t n f ∧
    (k = 0 → u = if m = 0 ∧ n = 0 ∧ s = t then s else decide (mode = 3))) ∧
  (∀ (m n : Nat) (s t : Bool) (e f : Int), ∃ k j,
    FVal.mul (.fin s m e) (.fin t n f) = .fin (s != t) k j ∧ val (s != t) k j = val s m e * val t n f) ∧
  (∀ (mode : Nat) (x y z : FVal) (s t : Bool) (m : Nat) (e : Int),
    FVal.sub mode x y = FVal.add mode x y.neg ∧ FVal.fma mode x y z = FVal.add mode (FVal.mul x y) z ∧
    FVal.add mode .nan x = .nan ∧ FVal.add mode x .nan = .nan ∧ FVal.mul .nan x = .nan ∧ FVal.mul x .nan = .nan ∧
    FVal.add mode (.inf s) (.inf t) = (if s = t then .inf s else .nan) ∧ FVal.add mode (.inf s) (.fin t m e) = .inf s ∧
    FVal.add mode (.fin t m e) (.inf s) = .inf s ∧ FVal.mul (.inf s) (.inf t) = .inf (s != t) ∧
    FVal.mul (.inf s) (.fin t m e) = (if m = 0 then .nan else .inf (s != t)) ∧
    FVal.mul (.fin s m e) (.inf t) = (if m = 0 then .nan else .inf (s != t))) ∧
  (∀ (m n : Nat) (s t : Bool) (e f : Int),
    (FVal.cmp (.fin s m e) (.fin t n f) = .lt ↔ val s m e < val t n f) ∧
    (FVal.cmp (.fin s m e) (.fin t n f) = .eq ↔ val s m e = val t n f)) ∧
  (∀ (F : NFmt), (F = NFmt.f32 ∨ F = NFmt.bf16 ∨ F = NFmt.f16 ∨
      ∃ code : BitVec 6, code.getLsbD 5 = true ∧ code.extractLsb' 0 3 ≠ 0 ∧ F = NFmt.ofB8 code) →
    let M := (F.maxFin.1 : ℚ) * 2 ^ F.maxFin.2
    (F.b8 = false → M = (2 - (2 : ℚ) ^ (-(F.mb : Int))) * 2 ^ F.bias) ∧
    (F.b8 = true → (F.decode (if F.signed then (if F.hasInf then 0x7E else 0x7F) else if F.hasInf then 0xFD else 0xFE) 0 false).1 =
      .fin false F.maxFin.1 F.maxFin.2) ∧
    (∀ (mode m : Nat) (sat s : Bool) (e : Int), m ≠ 0 →
      let x := (m : ℚ) * 2 ^ e
      let q := max (Int.log 2 x) (1 - F.bias) - (F.mb : Int)
      let k := ⌊x / 2 ^ q⌋₊
      let low := x / 2 ^ q - k
      let even := if F.mb = 0 then decide (k = 0 ∨ (Int.log 2 ((k : ℚ) * 2 ^ q) + F.bias) % 2 = 0) else decide (k % 2 = 0)
      let n := pick mode s even k low
      let r := F.round mode sat (.fin s m e)
      (n = 0 → r = ⟨.fin (if F.b8 then false else s) 0 0, 160⟩) ∧
      (n ≠ 0 → F.signed = false → s = true → r = if sat then ⟨.fin false 0 0, 128⟩ else ⟨.nan, 0⟩) ∧
      (n ≠ 0 → (F.signed = true ∨ s = false) → M < n * 2 ^ q →
        r = if sat = true ∨ mode = 1 ∨ (mode = 2 ∧ s = true) ∨ (mode = 3 ∧ s = false) then ⟨.fin s F.maxFin.1 F.maxFin.2, 136⟩
          else if F.hasInf then ⟨.inf s, 132⟩ else ⟨.nan, 0⟩) ∧
      (n ≠ 0 → (F.signed = true ∨ s = false) → n * 2 ^ q ≤ M →
        r = ⟨.fin s n q, if low = 0 then 0 else 128⟩ ∧
        ∃ m' e', (F.decode (F.encode r.val) 0 false).1 = .fin s m' e' ∧ (m' : ℚ) * 2 ^ e' = n * 2 ^ q)) ∧
    (∀ (mode : Nat) (sat s : Bool) (e : Int),
      F.round mode sat (.fin s 0 e) = ⟨.fin (if F.b8 then false else s) 0 0, 0⟩ ∧ F.round mode sat .nan = ⟨.nan, 0⟩ ∧
      F.round mode sat (.inf s) = (if F.signed = false ∧ s = true then (if sat then ⟨.fin false 0 0, 0⟩ else ⟨.nan, 0⟩)
        else if sat then ⟨.fin s F.maxFin.1 F.maxFin.2, 8⟩ else if F.hasInf then ⟨.inf s, 0⟩ else ⟨.nan, 0⟩)) ∧
    (∀ (u : Nat) (e : Int) (flush : Bool), u < 2 ^ F.bits →
      let sgn := F.signed && decide (u / 2 ^ (F.w + F.mb) % 2 = 1)
      let E := u / 2 ^ F.mb % 2 ^ F.w
      let f := u % 2 ^ F.mb
      let special := if F.b8 then decide (u = 0) || (F.signed && decide (u = 0x80)) || (F.signed && F.hasInf && decide (u = 0x7F ∨ u = 0xFF)) ||
        (!F.signed && decide (u = 0xFF)) || (!F.signed && F.hasInf && decide (u = 0xFE)) else decide (E = 2 ^ F.w - 1)
      (special = false → E ≠ 0 → F.decode u e flush = (.fin sgn (f + 2 ^ F.mb) ((E : Int) - F.bias - F.mb + e), false)) ∧
      (special = false → E = 0 → F.decode u e flush = if f ≠ 0 ∧ flush = true then (.fin (if F.b8 then false else sgn) 0 0, true)
        else (.fin sgn f (1 - F.bias - F.mb + e), false)) ∧
      (F.b8 = false → special = true → F.decode u e flush = (if f = 0 then .inf sgn else .nan, false)) ∧
      (F.b8 = true → special = true → F.decode u e flush = (if u = 0 then .fin false 0 0
        else if (F.signed = true ∧ u = 0x80) ∨ (F.signed = false ∧ u = 0xFF) then .nan else .inf sgn, false)) ∧
      ((F.decode u 0 false).1 ≠ .nan → F.encode (F.decode u 0 false).1 = u))) ∧
  (NFmt.f32.encode .nan = 0x7FC00000 ∧ NFmt.bf16.encode .nan = 0x7FC0 ∧ NFmt.f16.encode .nan = 0x7E00 ∧
    ∀ code : BitVec 6, (NFmt.ofB8 code).encode .nan = if code.getLsbD 4 then 0xFF else 0x80) ∧
  (∀ (bits mode m : Nat) (signed sat s : Bool) (e : Int), 1 ≤ bits →
    let F := NFmt.int bits signed
    let lo : Int := if signed then -2 ^ (bits - 1) else 0
    let hi : Int := if signed then 2 ^ (bits - 1) - 1 else 2 ^ bits - 1
    let x := (m : ℚ) * 2 ^ e
    let k := ⌊x⌋₊
    let n := pick mode s (decide (k % 2 = 0)) k (x - k)
    let v : Int := if s then -n else n
    let c := max lo (min v hi)
    F.round mode sat (.fin s m e) = ⟨.fin (decide (c < 0)) c.natAbs 0,
      (if c = v then 0 else 16) ||| (if x = k ∧ c = v then 0 else 128) ||| (if n = 0 ∧ m ≠ 0 then 32 else 0)⟩ ∧
    F.round mode sat .nan = ⟨.fin false 0 0, 16⟩ ∧
    F.round mode sat (.inf s) = ⟨.fin (decide ((if s then lo else hi) < 0)) (if s then lo else hi).natAbs 0, 16⟩ ∧
    (lo ≤ c ∧ c ≤ hi ∧ F.encode (.fin (decide (c < 0)) c.natAbs 0) = (c % 2 ^ bits).toNat) ∧
    ∀ (u : Nat) (j : Int) (flush : Bool), u < 2 ^ bits → F.decode u j flush =
      (let d : Int := if signed = true ∧ 2 ^ (bits - 1) ≤ u then (u : Int) - 2 ^ bits else u
       (.fin (decide (d < 0)) d.natAbs j, false))) ∧
  (∀ (F : NFmt) (e : Int) (mode : Nat) (sat : Bool) (ins : List FVal) (x : FVal),
    let r := F.round mode sat (x.scale (-e))
    F.finish e mode sat ins x = (F.encode r.val, r.ev ||| (if .nan ∈ ins then 2 else if r.val = .nan then 1 else 0))) ∧
  (∀ (s : Bool) (m : Nat) (e k : Int), FVal.scale (.fin s m e) k = .fin s m (e + k) ∧ FVal.scale (.inf s) k = .inf s ∧
    FVal.scale .nan k = .nan)
end

