-- ==== Sys2Proof/Laws/AList.lean ====
section
/-! SUPPORT. Laws of sparse storage: read after write, and every operation keeps the canonical form. -/

namespace Sys2Proof

variable {α : Type}

/-- Reading a key that no entry has gives the default. -/
theorem AL.get_of_absent (d : α) (m : AL α) (k : Nat) (h : ∀ e ∈ m, e.1 ≠ k) : AL.get d m k = d := by
  induction m with
  | nil => rfl
  | cons e r ih =>
    simp only [List.mem_cons, forall_eq_or_imp] at h
    simp [AL.get, h.1, ih h.2]

/-- Deleting a key leaves no entry with it. -/
theorem AL.absent_del (m : AL α) (k : Nat) : ∀ e ∈ AL.del m k, e.1 ≠ k := by
  intro e he
  simpa [AL.del] using (List.mem_filter.mp he).2

/-- Deleting a key leaves the reads of other keys. -/
theorem AL.get_del_ne (d : α) (m : AL α) {j k : Nat} (h : j ≠ k) : AL.get d (AL.del m k) j = AL.get d m j := by
  induction m with
  | nil => rfl
  | cons e r ih =>
    unfold AL.del at ih ⊢
    by_cases hk : e.1 = k
    · have : e.1 ≠ j := fun he => h (he ▸ hk)
      simp [hk, AL.get, ih]
      intro hj
      exact absurd hj.symm h
    · simp [hk, AL.get, ih]

/-- An inserted key reads as its value when no entry had it. -/
theorem AL.get_ins_same (d : α) (m : AL α) (k : Nat) (v : α) (h : ∀ e ∈ m, e.1 ≠ k) : AL.get d (AL.ins m k v) k = v := by
  induction m with
  | nil => simp [AL.ins, AL.get]
  | cons e r ih =>
    simp only [List.mem_cons, forall_eq_or_imp] at h
    unfold AL.ins
    split
    · simp [AL.get]
    · simp [AL.get, h.1, ih h.2]

/-- An insertion leaves the reads of other keys. -/
theorem AL.get_ins_ne (d : α) (m : AL α) {j k : Nat} (v : α) (h : j ≠ k) : AL.get d (AL.ins m k v) j = AL.get d m j := by
  induction m with
  | nil => simp [AL.ins, AL.get, h.symm]
  | cons e r ih =>
    unfold AL.ins
    split
    · simp [AL.get, h.symm]
    · simp [AL.get, ih]

/-- A written key reads as the value written. -/
@[simp] theorem AL.get_set_same [DecidableEq α] (d : α) (m : AL α) (k : Nat) (v : α) : AL.get d (AL.set d m k v) k = v := by
  unfold AL.set
  split
  · rename_i h; rw [AL.get_of_absent d _ k (AL.absent_del m k), h]
  · exact AL.get_ins_same d _ k v (AL.absent_del m k)

/-- A write leaves the reads of other keys. -/
theorem AL.get_set_ne [DecidableEq α] (d : α) (m : AL α) {j k : Nat} (v : α) (h : j ≠ k) :
    AL.get d (AL.set d m k v) j = AL.get d m j := by
  unfold AL.set
  split
  · exact AL.get_del_ne d m h
  · rw [AL.get_ins_ne d _ v h, AL.get_del_ne d m h]

/-- The canonical form, as a chain: keys rise from a bound, and no entry is the default. -/
theorem AL.wf_iff [DecidableEq α] (d : α) (m : AL α) :
    AL.wf d m = true ↔ m.Pairwise (fun x y => x.1 < y.1) ∧ ∀ e ∈ m, e.2 ≠ d := by
  match m with
  | [] => simp [AL.wf]
  | [e] => simp [AL.wf]
  | e :: f :: r =>
    have ih := AL.wf_iff d (f :: r)
    simp only [AL.wf, Bool.and_eq_true, decide_eq_true_eq, ih, List.pairwise_cons, List.mem_cons, forall_eq_or_imp]
    constructor
    · rintro ⟨⟨h1, h2⟩, ⟨h3, h4⟩, h5, h6⟩
      exact ⟨⟨⟨h2, fun y hy => lt_trans h2 (h3 y hy)⟩, h3, h4⟩, h1, h5, h6⟩
    · rintro ⟨⟨⟨h2, _⟩, h3, h4⟩, h1, h5, h6⟩
      exact ⟨⟨h1, h2⟩, ⟨h3, h4⟩, h5, h6⟩

/-- Taking entries away keeps the canonical form. -/
theorem AL.wf_filter [DecidableEq α] (d : α) (m : AL α) (p : Nat × α → Bool) (h : AL.wf d m = true) :
    AL.wf d (m.filter p) = true := by
  rw [AL.wf_iff] at h ⊢
  exact ⟨h.1.filter p, fun e he => h.2 e (List.mem_of_mem_filter he)⟩

/-- Where the entries of an insertion come from. -/
theorem AL.mem_ins {m : AL α} {k : Nat} {v : α} {e : Nat × α} (h : e ∈ AL.ins m k v) : e = (k, v) ∨ e ∈ m := by
  induction m with
  | nil => simpa [AL.ins] using h
  | cons f r ih =>
    unfold AL.ins at h
    split at h
    · simpa using h
    · rcases List.mem_cons.mp h with h | h
      · exact .inr (by simp [h])
      · rcases ih h with h | h
        · exact .inl h
        · exact .inr (by simp [h])

/-- An insertion of a key that no entry has keeps keys rising. -/
theorem AL.pairwise_ins (m : AL α) (k : Nat) (v : α) (h : m.Pairwise (fun x y => x.1 < y.1)) (ha : ∀ e ∈ m, e.1 ≠ k) :
    (AL.ins m k v).Pairwise (fun x y => x.1 < y.1) := by
  induction m with
  | nil => simp [AL.ins]
  | cons f r ih =>
    rw [List.pairwise_cons] at h
    simp only [List.mem_cons, forall_eq_or_imp] at ha
    unfold AL.ins
    split
    · rename_i hk
      rw [List.pairwise_cons, List.pairwise_cons]
      refine ⟨?_, h⟩
      intro y hy
      rcases List.mem_cons.mp hy with hy | hy
      · rw [hy]; exact hk
      · exact lt_trans hk (h.1 y hy)
    · rename_i hk
      rw [List.pairwise_cons]
      refine ⟨?_, ih h.2 ha.2⟩
      intro y hy
      rcases AL.mem_ins hy with hy | hy
      · rw [hy]; exact lt_of_le_of_ne (not_lt.mp hk) ha.1
      · exact h.1 y hy

/-- A write keeps the canonical form. -/
theorem AL.wf_set [DecidableEq α] (d : α) (m : AL α) (k : Nat) (v : α) (h : AL.wf d m = true) :
    AL.wf d (AL.set d m k v) = true := by
  unfold AL.set
  split
  · exact AL.wf_filter d m _ h
  · rename_i hv
    have hd := AL.wf_filter d m (fun e => e.1 != k) h
    rw [AL.wf_iff] at hd ⊢
    refine ⟨AL.pairwise_ins _ k v hd.1 (AL.absent_del m k), ?_⟩
    intro e he
    rcases AL.mem_ins he with he | he
    · rw [he]; exact hv
    · exact hd.2 e he

/-- Any number of writes keep the canonical form. -/
theorem AL.wf_foldl_set [DecidableEq α] (d : α) {β : Type} (ws : List β) (key : β → Nat) (val : β → α) (m : AL α)
    (h : AL.wf d m = true) : AL.wf d (ws.foldl (fun m w => AL.set d m (key w) (val w)) m) = true := by
  induction ws generalizing m with
  | nil => exact h
  | cons w r ih => exact ih _ (AL.wf_set d m _ _ h)

/-- In the canonical form the entries decide the reads: equal reads are equal storage. -/
theorem AL.get_listed [DecidableEq α] (d : α) (m : AL α) (e : Nat × α) (h : AL.wf d m = true) (he : e ∈ m) :
    AL.get d m e.1 = e.2 := by
  rw [AL.wf_iff] at h
  induction m with
  | nil => simp at he
  | cons f r ih =>
    rw [List.pairwise_cons] at h
    simp only [List.mem_cons, forall_eq_or_imp] at h
    rcases List.mem_cons.mp he with he | he
    · simp [AL.get, he]
    · have : f.1 ≠ e.1 := Nat.ne_of_lt (h.1.1 e he)
      simp [AL.get, this, ih ⟨h.1.2, h.2.2⟩ he]

/-- A table entry reads as the value put. -/
@[simp] theorem AL.find_put_same (m : AL α) (k : Nat) (v : α) : AL.find (AL.put m k v) k = some v := by
  have h : ∀ (m : AL α), (∀ e ∈ m, e.1 ≠ k) → AL.get none ((AL.ins m k v).map fun e => (e.1, some e.2)) k = some v := by
    intro m
    induction m with
    | nil => intro _; simp [AL.ins, AL.get]
    | cons e r ih =>
      intro ha
      simp only [List.mem_cons, forall_eq_or_imp] at ha
      unfold AL.ins
      split
      · simp [AL.get]
      · simp [AL.get, ha.1, ih ha.2]
  exact h _ (AL.absent_del m k)

/-- A put leaves the other entries of a table. -/
theorem AL.find_put_ne (m : AL α) {j k : Nat} (v : α) (h : j ≠ k) : AL.find (AL.put m k v) j = AL.find m j := by
  have hi : ∀ (m : AL α), AL.get none ((AL.ins m k v).map fun e => (e.1, some e.2)) j =
      AL.get none (m.map fun e => (e.1, some e.2)) j := by
    intro m
    induction m with
    | nil => simp [AL.ins, AL.get, h.symm]
    | cons e r ih =>
      unfold AL.ins
      split
      · simp [AL.get, h.symm]
      · simp [AL.get, ih]
  have hd : ∀ (m : AL α), AL.get none ((AL.del m k).map fun e => (e.1, some e.2)) j =
      AL.get none (m.map fun e => (e.1, some e.2)) j := by
    intro m
    induction m with
    | nil => rfl
    | cons e r ih =>
      unfold AL.del at ih ⊢
      by_cases hk : e.1 = k
      · have : ¬ e.1 = j := fun he => h (he.symm.trans hk)
        simp [hk, AL.get, ih]
        intro hj
        exact absurd hj.symm h
      · simp [hk, AL.get, ih]
  exact (hi _).trans (hd m)

end Sys2Proof
end

