-- ==== Sys2Proof/Laws/Decode.lean ====
section
/-! SUPPORT. The decoder undoes the encoder: fields from their packed bits, slots from a bundle word, and each slot's form
from the fields and literal units that the encoder gives it. -/

namespace Sys2Proof

set_option linter.all false

theorem extract_high {n m : Nat} (x : BitVec n) (y : BitVec m) : (x ++ y).extractLsb' m n = x := by
  ext i hi
  simp [BitVec.getElem_extractLsb', BitVec.getLsbD_append, hi]
theorem extract_low {n m : Nat} (x : BitVec n) (y : BitVec m) (s k : Nat) (h : s + k ≤ m) :
    (x ++ y).extractLsb' s k = y.extractLsb' s k := by
  ext i hi
  have : s + i < m := by omega
  simp [BitVec.getElem_extractLsb', BitVec.getLsbD_append, this]
theorem extract_above {n m : Nat} (x : BitVec n) (y : BitVec m) (s k : Nat) (h : m ≤ s) :
    (x ++ y).extractLsb' s k = x.extractLsb' (s - m) k := by
  ext i hi
  have h1 : ¬ s + i < m := by omega
  have h2 : s + i - m = s - m + i := by omega
  simp [BitVec.getElem_extractLsb', BitVec.getLsbD_append, h1, h2]

theorem extract_right {n m : Nat} (x : BitVec n) (y : BitVec m) : (x ++ y).extractLsb' 0 m = y := by
  rw [extract_low _ _ _ _ (by omega)]; exact BitVec.extractLsb'_eq_self
theorem extract_past {n m : Nat} (x : BitVec n) (y : BitVec m) (s k : Nat) (r : BitVec k) (h : m ≤ s) (hr : x.extractLsb' (s - m) k = r) :
    (x ++ y).extractLsb' s k = r := (extract_above x y s k h).trans hr

/-! ## Fields -/

theorem CF.unpack_pack (f : CF) : CF.unpack f.pack = f := by
  cases f
  simp only [CF.unpack, CF.pack, CF.mk.injEq]
  refine ⟨?_, ?_, ?_⟩
  · exact extract_past _ _ _ _ _ (by decide) (extract_high _ _)
  · exact extract_past _ _ _ _ _ (by decide) (extract_right _ _)
  · exact extract_right _ _

theorem SF.unpack_pack (f : SF) : SF.unpack f.pack = f := by
  cases f
  simp only [SF.unpack, SF.pack, SF.mk.injEq]
  refine ⟨?_, ?_, ?_, ?_, ?_, ?_⟩
  · exact extract_past _ _ _ _ _ (by decide) (extract_past _ _ _ _ _ (by decide) (extract_past _ _ _ _ _ (by decide) (extract_past _ _ _ _ _ (by decide) (extract_high _ _))))
  · exact extract_past _ _ _ _ _ (by decide) (extract_past _ _ _ _ _ (by decide) (extract_past _ _ _ _ _ (by decide) (extract_past _ _ _ _ _ (by decide) (extract_right _ _))))
  · exact extract_past _ _ _ _ _ (by decide) (extract_past _ _ _ _ _ (by decide) (extract_past _ _ _ _ _ (by decide) (extract_right _ _)))
  · exact extract_past _ _ _ _ _ (by decide) (extract_past _ _ _ _ _ (by decide) (extract_right _ _))
  · exact extract_past _ _ _ _ _ (by decide) (extract_right _ _)
  · exact extract_right _ _

theorem MF.unpack_pack (f : MF) : MF.unpack f.pack = f := by
  cases f
  simp only [MF.unpack, MF.pack, MF.mk.injEq]
  refine ⟨?_, ?_, ?_, ?_, ?_, ?_, ?_, ?_, ?_, ?_⟩
  · exact extract_past _ _ _ _ _ (by decide) (extract_past _ _ _ _ _ (by decide) (extract_past _ _ _ _ _ (by decide) (extract_past _ _ _ _ _ (by decide) (extract_past _ _ _ _ _ (by decide) (extract_past _ _ _ _ _ (by decide) (extract_past _ _ _ _ _ (by decide) (extract_past _ _ _ _ _ (by decide) (extract_high _ _))))))))
  · exact extract_past _ _ _ _ _ (by decide) (extract_past _ _ _ _ _ (by decide) (extract_past _ _ _ _ _ (by decide) (extract_past _ _ _ _ _ (by decide) (extract_past _ _ _ _ _ (by decide) (extract_past _ _ _ _ _ (by decide) (extract_past _ _ _ _ _ (by decide) (extract_past _ _ _ _ _ (by decide) (extract_right _ _))))))))
  · exact extract_past _ _ _ _ _ (by decide) (extract_past _ _ _ _ _ (by decide) (extract_past _ _ _ _ _ (by decide) (extract_past _ _ _ _ _ (by decide) (extract_past _ _ _ _ _ (by decide) (extract_past _ _ _ _ _ (by decide) (extract_past _ _ _ _ _ (by decide) (extract_right _ _)))))))
  · exact extract_past _ _ _ _ _ (by decide) (extract_past _ _ _ _ _ (by decide) (extract_past _ _ _ _ _ (by decide) (extract_past _ _ _ _ _ (by decide) (extract_past _ _ _ _ _ (by decide) (extract_past _ _ _ _ _ (by decide) (extract_right _ _))))))
  · exact extract_past _ _ _ _ _ (by decide) (extract_past _ _ _ _ _ (by decide) (extract_past _ _ _ _ _ (by decide) (extract_past _ _ _ _ _ (by decide) (extract_past _ _ _ _ _ (by decide) (extract_right _ _)))))
  · exact extract_past _ _ _ _ _ (by decide) (extract_past _ _ _ _ _ (by decide) (extract_past _ _ _ _ _ (by decide) (extract_past _ _ _ _ _ (by decide) (extract_right _ _))))
  · exact extract_past _ _ _ _ _ (by decide) (extract_past _ _ _ _ _ (by decide) (extract_past _ _ _ _ _ (by decide) (extract_right _ _)))
  · exact extract_past _ _ _ _ _ (by decide) (extract_past _ _ _ _ _ (by decide) (extract_right _ _))
  · exact extract_past _ _ _ _ _ (by decide) (extract_right _ _)
  · exact extract_right _ _

theorem VF.unpack_pack (f : VF) : VF.unpack f.pack = f := by
  cases f
  simp only [VF.unpack, VF.pack, VF.mk.injEq]
  refine ⟨?_, ?_, ?_, ?_, ?_, ?_, ?_⟩
  · exact extract_past _ _ _ _ _ (by decide) (extract_past _ _ _ _ _ (by decide) (extract_past _ _ _ _ _ (by decide) (extract_past _ _ _ _ _ (by decide) (extract_past _ _ _ _ _ (by decide) (extract_high _ _)))))
  · exact extract_past _ _ _ _ _ (by decide) (extract_past _ _ _ _ _ (by decide) (extract_past _ _ _ _ _ (by decide) (extract_past _ _ _ _ _ (by decide) (extract_past _ _ _ _ _ (by decide) (extract_right _ _)))))
  · exact extract_past _ _ _ _ _ (by decide) (extract_past _ _ _ _ _ (by decide) (extract_past _ _ _ _ _ (by decide) (extract_past _ _ _ _ _ (by decide) (extract_right _ _))))
  · exact extract_past _ _ _ _ _ (by decide) (extract_past _ _ _ _ _ (by decide) (extract_past _ _ _ _ _ (by decide) (extract_right _ _)))
  · exact extract_past _ _ _ _ _ (by decide) (extract_past _ _ _ _ _ (by decide) (extract_right _ _))
  · exact extract_past _ _ _ _ _ (by decide) (extract_right _ _)
  · exact extract_right _ _

theorem XF.unpack_pack (f : XF) : XF.unpack f.pack = f := by
  cases f
  simp only [XF.unpack, XF.pack, XF.mk.injEq]
  refine ⟨?_, ?_, ?_, ?_, ?_, ?_⟩
  · exact extract_past _ _ _ _ _ (by decide) (extract_past _ _ _ _ _ (by decide) (extract_past _ _ _ _ _ (by decide) (extract_past _ _ _ _ _ (by decide) (extract_high _ _))))
  · exact extract_past _ _ _ _ _ (by decide) (extract_past _ _ _ _ _ (by decide) (extract_past _ _ _ _ _ (by decide) (extract_past _ _ _ _ _ (by decide) (extract_right _ _))))
  · exact extract_past _ _ _ _ _ (by decide) (extract_past _ _ _ _ _ (by decide) (extract_past _ _ _ _ _ (by decide) (extract_right _ _)))
  · exact extract_past _ _ _ _ _ (by decide) (extract_past _ _ _ _ _ (by decide) (extract_right _ _))
  · exact extract_past _ _ _ _ _ (by decide) (extract_right _ _)
  · exact extract_right _ _

theorem TF.unpack_pack (f : TF) : TF.unpack f.pack = f := by
  cases f
  simp only [TF.unpack, TF.pack, TF.mk.injEq]
  refine ⟨?_, ?_, ?_, ?_, ?_, ?_, ?_⟩
  · exact extract_past _ _ _ _ _ (by decide) (extract_past _ _ _ _ _ (by decide) (extract_past _ _ _ _ _ (by decide) (extract_past _ _ _ _ _ (by decide) (extract_past _ _ _ _ _ (by decide) (extract_high _ _)))))
  · exact extract_past _ _ _ _ _ (by decide) (extract_past _ _ _ _ _ (by decide) (extract_past _ _ _ _ _ (by decide) (extract_past _ _ _ _ _ (by decide) (extract_past _ _ _ _ _ (by decide) (extract_right _ _)))))
  · exact extract_past _ _ _ _ _ (by decide) (extract_past _ _ _ _ _ (by decide) (extract_past _ _ _ _ _ (by decide) (extract_past _ _ _ _ _ (by decide) (extract_right _ _))))
  · exact extract_past _ _ _ _ _ (by decide) (extract_past _ _ _ _ _ (by decide) (extract_past _ _ _ _ _ (by decide) (extract_right _ _)))
  · exact extract_past _ _ _ _ _ (by decide) (extract_past _ _ _ _ _ (by decide) (extract_right _ _))
  · exact extract_past _ _ _ _ _ (by decide) (extract_right _ _)
  · exact extract_right _ _

/-! ## Slots of a bundle word -/

section
variable (h : BitVec 12) (c : CF) (s : SF) (m : MF) (v : VF) (x : XF) (t : TF)

theorem packBundle_bits_header : (packBundle h c s m v x t).extractLsb' 244 12 = h :=
  extract_past _ _ _ _ _ (by decide) (extract_past _ _ _ _ _ (by decide) (extract_past _ _ _ _ _ (by decide) (extract_past _ _ _ _ _ (by decide) (extract_past _ _ _ _ _ (by decide) (extract_high _ _)))))
theorem packBundle_header : (packBundle h c s m v x t).header = h := packBundle_bits_header ..
theorem packBundle_bits_slotC : (packBundle h c s m v x t).extractLsb' 204 40 = c.pack :=
  extract_past _ _ _ _ _ (by decide) (extract_past _ _ _ _ _ (by decide) (extract_past _ _ _ _ _ (by decide) (extract_past _ _ _ _ _ (by decide) (extract_past _ _ _ _ _ (by decide) (extract_right _ _)))))
theorem packBundle_slotC : (packBundle h c s m v x t).slotC = c := by
  unfold BundleWord.slotC; rw [packBundle_bits_slotC, CF.unpack_pack]
theorem packBundle_bits_slotS : (packBundle h c s m v x t).extractLsb' 173 31 = s.pack :=
  extract_past _ _ _ _ _ (by decide) (extract_past _ _ _ _ _ (by decide) (extract_past _ _ _ _ _ (by decide) (extract_past _ _ _ _ _ (by decide) (extract_right _ _))))
theorem packBundle_slotS : (packBundle h c s m v x t).slotS = s := by
  unfold BundleWord.slotS; rw [packBundle_bits_slotS, SF.unpack_pack]
theorem packBundle_bits_slotM : (packBundle h c s m v x t).extractLsb' 128 45 = m.pack :=
  extract_past _ _ _ _ _ (by decide) (extract_past _ _ _ _ _ (by decide) (extract_past _ _ _ _ _ (by decide) (extract_right _ _)))
theorem packBundle_slotM : (packBundle h c s m v x t).slotM = m := by
  unfold BundleWord.slotM; rw [packBundle_bits_slotM, MF.unpack_pack]
theorem packBundle_bits_slotV : (packBundle h c s m v x t).extractLsb' 81 47 = v.pack :=
  extract_past _ _ _ _ _ (by decide) (extract_past _ _ _ _ _ (by decide) (extract_right _ _))
theorem packBundle_slotV : (packBundle h c s m v x t).slotV = v := by
  unfold BundleWord.slotV; rw [packBundle_bits_slotV, VF.unpack_pack]
theorem packBundle_bits_slotX : (packBundle h c s m v x t).extractLsb' 45 36 = x.pack :=
  extract_past _ _ _ _ _ (by decide) (extract_right _ _)
theorem packBundle_slotX : (packBundle h c s m v x t).slotX = x := by
  unfold BundleWord.slotX; rw [packBundle_bits_slotX, XF.unpack_pack]
theorem packBundle_bits_slotT : (packBundle h c s m v x t).extractLsb' 0 45 = t.pack :=
  extract_right _ _
theorem packBundle_slotT : (packBundle h c s m v x t).slotT = t := by
  unfold BundleWord.slotT; rw [packBundle_bits_slotT, TF.unpack_pack]
end

/-! ## The form of each slot -/

theorem extract_setWidth {n : Nat} (x : BitVec n) (w : Nat) (h : n ≤ w) : (x.setWidth w).extractLsb' 0 n = x := by
  ext i hi
  have : i < w := by omega
  simp [BitVec.getElem_extractLsb', BitVec.getLsbD_eq_getElem hi, this]
theorem toNat_mod_lt {n : Nat} (x : BitVec n) (m k : Nat) (h : 2 ^ n ≤ k) : x.toNat % m < k :=
  Nat.lt_of_le_of_lt (Nat.mod_le _ _) (Nat.lt_of_lt_of_le x.isLt h)
theorem guardWf_of {i : Instr} (h : i.wf = true) : guardWf i = some i := by simp [guardWf, h]

theorem decodeV_encodeV (i : Instr) (f : VF) (h : encodeV i = some f) (hw : i.wf = true) : decodeV f = some i := by
  cases i <;> simp only [encodeV, Option.some.injEq, reduceCtorEq] at h <;> subst h <;>
    simp [decodeV, guardWf_of hw, extract_setWidth, toNat_mod_lt]

theorem decodeSize_shift : ∀ s : BitVec 2, decodeSize (1#4 <<< s.toNat) = some s := by decide
theorem decodeX_encodeX (i : Instr) (f : XF) (h : encodeX i = some f) (hw : i.wf = true) : decodeX f = some i := by
  cases i <;> simp only [encodeX, Option.some.injEq, reduceCtorEq] at h <;> subst h <;>
    simp [decodeX, decodeSize_shift, guardWf_of hw]

theorem extract_join (v : BitVec 10) : v.extractLsb' 2 8 ++ v.extractLsb' 0 2 = v := by
  ext i hi
  rw [BitVec.getElem_append]
  split
  · simp [BitVec.getLsbD_eq_getElem hi]
  · have h : 2 + (i - 2) = i := by omega
    simp [h, BitVec.getLsbD_eq_getElem hi]
theorem extract_two : ∀ x : BitVec 2, (x.setWidth 6).extractLsb' 2 4 = 0#4 := by decide
theorem plane_bits : ∀ b : Bool, (BitVec.ofBool b ++ 0#5).extractLsb' 0 5 = 0#5 ∧ (BitVec.ofBool b ++ 0#5)[5] = b := by decide
theorem decodeT_encodeT (i : Instr) (f : TF) (h : encodeT i = some f) (hw : i.wf = true) : decodeT f = some i := by
  cases i
  case tfromv m v sp =>
    simp only [encodeT, Option.some.injEq] at h; subst h
    simp [decodeT, extract_setWidth, extract_two, extract_join, guardWf_of hw]
  case ttov m v sp n =>
    simp only [encodeT, Option.some.injEq] at h; subst h
    simp [decodeT, extract_setWidth, extract_two, extract_join, guardWf_of hw]
  all_goals
    simp only [encodeT, Option.some.injEq, reduceCtorEq] at h <;> subst h <;>
    first
    | (simp [decodeT, guardWf_of hw, extract_setWidth, toNat_mod_lt]; done)
    | (rename_i pl; cases pl <;> simp [decodeT, guardWf_of hw])

theorem litPair_extract (d : BitVec 32) : litPair (d.extractLsb' 0 16) (d.extractLsb' 16 16) = d := by
  unfold litPair
  ext i hi
  rw [BitVec.getElem_append]
  split
  · simp [BitVec.getLsbD_eq_getElem hi]
  · have h : 16 + (i - 16) = i := by omega
    simp [h, BitVec.getLsbD_eq_getElem hi]
theorem decodeSOp_encodeSOp (b : SOp) :
    decodeSOp (encodeSOp b).1 (encodeSOp b).2.1 (encodeSOp b).2.2 = some b ∧
      (match (encodeSOp b).2.1.toNat with | 2 => 1 | 3 => 2 | _ => 0) = (encodeSOp b).2.2.length := by
  cases b <;> simp [encodeSOp, decodeSOp, litPair_extract]
theorem decodeS_encodeS (i : Instr) (f : SF) (ls : List Unit16) (h : encodeS i = some (f, ls)) (hw : i.wf = true) :
    decodeS f ls = some i := by
  cases i <;> simp only [encodeS, Option.some.injEq, Prod.mk.injEq, reduceCtorEq] at h <;> obtain ⟨rfl, rfl⟩ := h <;>
    simp [decodeS, (decodeSOp_encodeSOp _).1, guardWf_of hw, extract_setWidth, toNat_mod_lt]

theorem scalar_bits : ∀ (sx : Bool) (sz : BitVec 2) (r : BitVec 6),
    let vr : BitVec 10 := (0 : BitVec 1) ++ BitVec.ofBool sx ++ sz ++ r
    vr.extractLsb' 0 6 = r ∧ vr.extractLsb' 6 2 = sz ∧ vr[8] = sx ∧ vr[9] = false := by
  intro sx sz r
  refine ⟨extract_right _ _, extract_past _ _ _ _ _ (by decide) (extract_right _ _), ?_, ?_⟩
  · revert sx sz r; decide
  · revert sx sz r; decide
theorem decodeAddr_encodeMode (a : MAddr) : decodeAddr a.base (encodeMode a.mode).1 (encodeMode a.mode).2 = some a ∧
    (match (encodeMode a.mode).1.toNat with | 0 => 0 | 3 => 2 | _ => 1) = (encodeMode a.mode).2.length := by
  obtain ⟨b, m⟩ := a
  cases m <;> simp [encodeMode, decodeAddr, litPair_extract]

/-- The M form with an operation code, qualifiers, register field and address. -/
def mFields (op : BitVec 6) (q : MQual) (vr : BitVec 10) (a : MAddr) : MF :=
  ⟨q.mask, op, vr, a.base, q.ord, q.scope, q.evict, q.wit, q.pred, (encodeMode a.mode).1⟩
/-- The register field of a scalar M form. -/
def mScalar (sx : Bool) (sz : BitVec 2) (r : BitVec 6) : BitVec 10 := (0 : BitVec 1) ++ BitVec.ofBool sx ++ sz ++ r

theorem decodeM_ld (q : MQual) (sx : Bool) (sz : BitVec 2) (sd : BitVec 6) (a : MAddr) (hw : (Instr.ld q sx sz sd a).wf = true) :
    decodeM (mFields 0 q (mScalar sx sz sd) a) (encodeMode a.mode).2 = some (.ld q sx sz sd a) := by
  have hb := scalar_bits sx sz sd
  unfold mFields
  generalize hv : mScalar sx sz sd = vr
  rw [show ((0 : BitVec 1) ++ BitVec.ofBool sx ++ sz ++ sd : BitVec 10) = vr from hv] at hb
  obtain ⟨h1, h2, h3, h4⟩ := hb
  simp [decodeM, h1, h2, h3, h4, (decodeAddr_encodeMode _).1, guardWf_of hw]
theorem decodeM_st (q : MQual) (sz : BitVec 2) (sv : BitVec 6) (a : MAddr) (hw : (Instr.st q sz sv a).wf = true) :
    decodeM (mFields 1 q (mScalar false sz sv) a) (encodeMode a.mode).2 = some (.st q sz sv a) := by
  have hb := scalar_bits false sz sv
  unfold mFields
  generalize hv : mScalar false sz sv = vr
  rw [show ((0 : BitVec 1) ++ BitVec.ofBool false ++ sz ++ sv : BitVec 10) = vr from hv] at hb
  obtain ⟨h1, h2, h3, h4⟩ := hb
  simp [decodeM, h1, h2, h3, h4, (decodeAddr_encodeMode _).1, guardWf_of hw]
theorem decodeM_ldp (q : MQual) (sx : Bool) (sz : BitVec 2) (sd : BitVec 6) (a : MAddr) (hw : (Instr.ldp q sx sz sd a).wf = true) :
    decodeM (mFields 2 q (mScalar sx sz sd) a) (encodeMode a.mode).2 = some (.ldp q sx sz sd a) := by
  have hb := scalar_bits sx sz sd
  unfold mFields
  generalize hv : mScalar sx sz sd = vr
  rw [show ((0 : BitVec 1) ++ BitVec.ofBool sx ++ sz ++ sd : BitVec 10) = vr from hv] at hb
  obtain ⟨h1, h2, h3, h4⟩ := hb
  simp [decodeM, h1, h2, h3, h4, (decodeAddr_encodeMode _).1, guardWf_of hw]
theorem decodeM_stp (q : MQual) (sz : BitVec 2) (sv : BitVec 6) (a : MAddr) (hw : (Instr.stp q sz sv a).wf = true) :
    decodeM (mFields 3 q (mScalar false sz sv) a) (encodeMode a.mode).2 = some (.stp q sz sv a) := by
  have hb := scalar_bits false sz sv
  unfold mFields
  generalize hv : mScalar false sz sv = vr
  rw [show ((0 : BitVec 1) ++ BitVec.ofBool false ++ sz ++ sv : BitVec 10) = vr from hv] at hb
  obtain ⟨h1, h2, h3, h4⟩ := hb
  simp [decodeM, h1, h2, h3, h4, (decodeAddr_encodeMode _).1, guardWf_of hw]
theorem decodeM_vld (q : MQual) (vr : BitVec 10) (a : MAddr) (hw : (Instr.vld q vr a).wf = true) :
    decodeM (mFields 4 q vr a) (encodeMode a.mode).2 = some (.vld q vr a) := by
  simp [decodeM, mFields, (decodeAddr_encodeMode _).1, guardWf_of hw, extract_setWidth, toNat_mod_lt]
theorem decodeM_vst (q : MQual) (vr : BitVec 10) (a : MAddr) (hw : (Instr.vst q vr a).wf = true) :
    decodeM (mFields 5 q vr a) (encodeMode a.mode).2 = some (.vst q vr a) := by
  simp [decodeM, mFields, (decodeAddr_encodeMode _).1, guardWf_of hw, extract_setWidth, toNat_mod_lt]
theorem decodeM_vldp (q : MQual) (vr : BitVec 10) (a : MAddr) (hw : (Instr.vldp q vr a).wf = true) :
    decodeM (mFields 6 q vr a) (encodeMode a.mode).2 = some (.vldp q vr a) := by
  simp [decodeM, mFields, (decodeAddr_encodeMode _).1, guardWf_of hw, extract_setWidth, toNat_mod_lt]
theorem decodeM_vstp (q : MQual) (vr : BitVec 10) (a : MAddr) (hw : (Instr.vstp q vr a).wf = true) :
    decodeM (mFields 7 q vr a) (encodeMode a.mode).2 = some (.vstp q vr a) := by
  simp [decodeM, mFields, (decodeAddr_encodeMode _).1, guardWf_of hw, extract_setWidth, toNat_mod_lt]
theorem decodeM_vgathp (q : MQual) (vr : BitVec 10) (a : MAddr) (hw : (Instr.vgathp q vr a).wf = true) :
    decodeM (mFields 8 q vr a) (encodeMode a.mode).2 = some (.vgathp q vr a) := by
  simp [decodeM, mFields, (decodeAddr_encodeMode _).1, guardWf_of hw, extract_setWidth, toNat_mod_lt]
theorem decodeM_vscatp (q : MQual) (vr : BitVec 10) (a : MAddr) (hw : (Instr.vscatp q vr a).wf = true) :
    decodeM (mFields 9 q vr a) (encodeMode a.mode).2 = some (.vscatp q vr a) := by
  simp [decodeM, mFields, (decodeAddr_encodeMode _).1, guardWf_of hw, extract_setWidth, toNat_mod_lt]
theorem decodeM_aadd (q : MQual) (sz : BitVec 2) (sv : BitVec 6) (a : MAddr) (hw : (Instr.aadd q sz sv a).wf = true) :
    decodeM (mFields 10 q (mScalar false sz sv) a) (encodeMode a.mode).2 = some (.aadd q sz sv a) := by
  have hb := scalar_bits false sz sv
  unfold mFields
  generalize hv : mScalar false sz sv = vr
  rw [show ((0 : BitVec 1) ++ BitVec.ofBool false ++ sz ++ sv : BitVec 10) = vr from hv] at hb
  obtain ⟨h1, h2, h3, h4⟩ := hb
  simp [decodeM, h1, h2, h3, h4, (decodeAddr_encodeMode _).1, guardWf_of hw]
theorem decodeM_amin (q : MQual) (sz : BitVec 2) (sv : BitVec 6) (a : MAddr) (hw : (Instr.amin q sz sv a).wf = true) :
    decodeM (mFields 11 q (mScalar false sz sv) a) (encodeMode a.mode).2 = some (.amin q sz sv a) := by
  have hb := scalar_bits false sz sv
  unfold mFields
  generalize hv : mScalar false sz sv = vr
  rw [show ((0 : BitVec 1) ++ BitVec.ofBool false ++ sz ++ sv : BitVec 10) = vr from hv] at hb
  obtain ⟨h1, h2, h3, h4⟩ := hb
  simp [decodeM, h1, h2, h3, h4, (decodeAddr_encodeMode _).1, guardWf_of hw]
theorem decodeM_aminn (q : MQual) (sz : BitVec 2) (sv : BitVec 6) (a : MAddr) (hw : (Instr.aminn q sz sv a).wf = true) :
    decodeM (mFields 12 q (mScalar false sz sv) a) (encodeMode a.mode).2 = some (.aminn q sz sv a) := by
  have hb := scalar_bits false sz sv
  unfold mFields
  generalize hv : mScalar false sz sv = vr
  rw [show ((0 : BitVec 1) ++ BitVec.ofBool false ++ sz ++ sv : BitVec 10) = vr from hv] at hb
  obtain ⟨h1, h2, h3, h4⟩ := hb
  simp [decodeM, h1, h2, h3, h4, (decodeAddr_encodeMode _).1, guardWf_of hw]
theorem decodeM_amax (q : MQual) (sz : BitVec 2) (sv : BitVec 6) (a : MAddr) (hw : (Instr.amax q sz sv a).wf = true) :
    decodeM (mFields 13 q (mScalar false sz sv) a) (encodeMode a.mode).2 = some (.amax q sz sv a) := by
  have hb := scalar_bits false sz sv
  unfold mFields
  generalize hv : mScalar false sz sv = vr
  rw [show ((0 : BitVec 1) ++ BitVec.ofBool false ++ sz ++ sv : BitVec 10) = vr from hv] at hb
  obtain ⟨h1, h2, h3, h4⟩ := hb
  simp [decodeM, h1, h2, h3, h4, (decodeAddr_encodeMode _).1, guardWf_of hw]
theorem decodeM_amaxn (q : MQual) (sz : BitVec 2) (sv : BitVec 6) (a : MAddr) (hw : (Instr.amaxn q sz sv a).wf = true) :
    decodeM (mFields 14 q (mScalar false sz sv) a) (encodeMode a.mode).2 = some (.amaxn q sz sv a) := by
  have hb := scalar_bits false sz sv
  unfold mFields
  generalize hv : mScalar false sz sv = vr
  rw [show ((0 : BitVec 1) ++ BitVec.ofBool false ++ sz ++ sv : BitVec 10) = vr from hv] at hb
  obtain ⟨h1, h2, h3, h4⟩ := hb
  simp [decodeM, h1, h2, h3, h4, (decodeAddr_encodeMode _).1, guardWf_of hw]
theorem decodeM_aswp (q : MQual) (sz : BitVec 2) (sv : BitVec 6) (a : MAddr) (hw : (Instr.aswp q sz sv a).wf = true) :
    decodeM (mFields 15 q (mScalar false sz sv) a) (encodeMode a.mode).2 = some (.aswp q sz sv a) := by
  have hb := scalar_bits false sz sv
  unfold mFields
  generalize hv : mScalar false sz sv = vr
  rw [show ((0 : BitVec 1) ++ BitVec.ofBool false ++ sz ++ sv : BitVec 10) = vr from hv] at hb
  obtain ⟨h1, h2, h3, h4⟩ := hb
  simp [decodeM, h1, h2, h3, h4, (decodeAddr_encodeMode _).1, guardWf_of hw]
theorem decodeM_acas (q : MQual) (sz : BitVec 2) (sv : BitVec 6) (a : MAddr) (hw : (Instr.acas q sz sv a).wf = true) :
    decodeM (mFields 16 q (mScalar false sz sv) a) (encodeMode a.mode).2 = some (.acas q sz sv a) := by
  have hb := scalar_bits false sz sv
  unfold mFields
  generalize hv : mScalar false sz sv = vr
  rw [show ((0 : BitVec 1) ++ BitVec.ofBool false ++ sz ++ sv : BitVec 10) = vr from hv] at hb
  obtain ⟨h1, h2, h3, h4⟩ := hb
  simp [decodeM, h1, h2, h3, h4, (decodeAddr_encodeMode _).1, guardWf_of hw]
theorem decodeM_afadd (q : MQual) (sz : BitVec 2) (sv : BitVec 6) (a : MAddr) (hw : (Instr.afadd q sz sv a).wf = true) :
    decodeM (mFields 17 q (mScalar false sz sv) a) (encodeMode a.mode).2 = some (.afadd q sz sv a) := by
  have hb := scalar_bits false sz sv
  unfold mFields
  generalize hv : mScalar false sz sv = vr
  rw [show ((0 : BitVec 1) ++ BitVec.ofBool false ++ sz ++ sv : BitVec 10) = vr from hv] at hb
  obtain ⟨h1, h2, h3, h4⟩ := hb
  simp [decodeM, h1, h2, h3, h4, (decodeAddr_encodeMode _).1, guardWf_of hw]
theorem decodeM_wcheck (q : MQual) (sd : BitVec 6) (hw : (Instr.wcheck q sd).wf = true) :
    decodeM (mFields 18 q (sd.zeroExtend 10) ⟨0, .base⟩) (encodeMode .base).2 = some (.wcheck q sd) := by
  simp [decodeM, mFields, encodeMode, guardWf_of hw, extract_setWidth, toNat_mod_lt]
theorem decodeM_wall (q : MQual) (hw : (Instr.wall q).wf = true) :
    decodeM (mFields 19 q 0 ⟨0, .base⟩) (encodeMode .base).2 = some (.wall q) := by
  simp [decodeM, mFields, encodeMode, guardWf_of hw, extract_setWidth, toNat_mod_lt]
theorem decodeM_swinit (q : MQual) (sv : BitVec 6) (a : MAddr) (hw : (Instr.swinit q sv a).wf = true) :
    decodeM (mFields 20 q (sv.zeroExtend 10) a) (encodeMode a.mode).2 = some (.swinit q sv a) := by
  simp [decodeM, mFields, (decodeAddr_encodeMode _).1, guardWf_of hw, extract_setWidth, toNat_mod_lt]
theorem decodeM_swarr (q : MQual) (sv : BitVec 6) (a : MAddr) (hw : (Instr.swarr q sv a).wf = true) :
    decodeM (mFields 21 q (sv.zeroExtend 10) a) (encodeMode a.mode).2 = some (.swarr q sv a) := by
  simp [decodeM, mFields, (decodeAddr_encodeMode _).1, guardWf_of hw, extract_setWidth, toNat_mod_lt]
theorem decodeM_swwait (q : MQual) (sv : BitVec 6) (a : MAddr) (hw : (Instr.swwait q sv a).wf = true) :
    decodeM (mFields 22 q (sv.zeroExtend 10) a) (encodeMode a.mode).2 = some (.swwait q sv a) := by
  simp [decodeM, mFields, (decodeAddr_encodeMode _).1, guardWf_of hw, extract_setWidth, toNat_mod_lt]
theorem decodeM_swpoll (q : MQual) (sd : BitVec 6) (a : MAddr) (hw : (Instr.swpoll q sd a).wf = true) :
    decodeM (mFields 23 q (sd.zeroExtend 10) a) (encodeMode a.mode).2 = some (.swpoll q sd a) := by
  simp [decodeM, mFields, (decodeAddr_encodeMode _).1, guardWf_of hw, extract_setWidth, toNat_mod_lt]
theorem decodeM_llock (q : MQual) (sd : BitVec 6) (a : MAddr) (hw : (Instr.llock q sd a).wf = true) :
    decodeM (mFields 24 q (sd.zeroExtend 10) a) (encodeMode a.mode).2 = some (.llock q sd a) := by
  simp [decodeM, mFields, (decodeAddr_encodeMode _).1, guardWf_of hw, extract_setWidth, toNat_mod_lt]
theorem decodeM_lunlock (q : MQual) (a : MAddr) (hw : (Instr.lunlock q a).wf = true) :
    decodeM (mFields 25 q 0 a) (encodeMode a.mode).2 = some (.lunlock q a) := by
  simp [decodeM, mFields, (decodeAddr_encodeMode _).1, guardWf_of hw, extract_setWidth, toNat_mod_lt]
theorem decodeM_rcfence (q : MQual) (sv : BitVec 6) (hw : (Instr.rcfence q sv).wf = true) :
    decodeM (mFields 26 q (sv.zeroExtend 10) ⟨0, .base⟩) (encodeMode .base).2 = some (.rcfence q sv) := by
  simp [decodeM, mFields, encodeMode, guardWf_of hw, extract_setWidth, toNat_mod_lt]
theorem decodeM_xpld (q : MQual) (xp : BitVec 3) (a : MAddr) (hw : (Instr.xpld q xp a).wf = true) :
    decodeM (mFields 27 q (xp.zeroExtend 10) a) (encodeMode a.mode).2 = some (.xpld q xp a) := by
  simp [decodeM, mFields, (decodeAddr_encodeMode _).1, guardWf_of hw, extract_setWidth, toNat_mod_lt]
theorem decodeM_launch (q : MQual) (sv : BitVec 6) (a : MAddr) (hw : (Instr.launch q sv a).wf = true) :
    decodeM (mFields 28 q (sv.zeroExtend 10) a) (encodeMode a.mode).2 = some (.launch q sv a) := by
  simp [decodeM, mFields, (decodeAddr_encodeMode _).1, guardWf_of hw, extract_setWidth, toNat_mod_lt]
theorem decodeM_pref (q : MQual) (a : MAddr) (hw : (Instr.pref q a).wf = true) :
    decodeM (mFields 29 q 0 a) (encodeMode a.mode).2 = some (.pref q a) := by
  simp [decodeM, mFields, (decodeAddr_encodeMode _).1, guardWf_of hw, extract_setWidth, toNat_mod_lt]
theorem decodeM_btw (q : MQual) (vr : BitVec 10) (a : MAddr) (hw : (Instr.btw q vr a).wf = true) :
    decodeM (mFields 30 q vr a) (encodeMode a.mode).2 = some (.btw q vr a) := by
  simp [decodeM, mFields, (decodeAddr_encodeMode _).1, guardWf_of hw, extract_setWidth, toNat_mod_lt]

theorem decodeM_encodeM (i : Instr) (f : MF) (ls : List Unit16) (h : encodeM i = some (f, ls)) (hw : i.wf = true) :
    decodeM f ls = some i := by
  cases i
  case ld q sx sz sd a => cases h; exact decodeM_ld q sx sz sd a hw
  case st q sz sv a => cases h; exact decodeM_st q sz sv a hw
  case ldp q sx sz sd a => cases h; exact decodeM_ldp q sx sz sd a hw
  case stp q sz sv a => cases h; exact decodeM_stp q sz sv a hw
  case vld q vr a => cases h; exact decodeM_vld q vr a hw
  case vst q vr a => cases h; exact decodeM_vst q vr a hw
  case vldp q vr a => cases h; exact decodeM_vldp q vr a hw
  case vstp q vr a => cases h; exact decodeM_vstp q vr a hw
  case vgathp q vr a => cases h; exact decodeM_vgathp q vr a hw
  case vscatp q vr a => cases h; exact decodeM_vscatp q vr a hw
  case aadd q sz sv a => cases h; exact decodeM_aadd q sz sv a hw
  case amin q sz sv a => cases h; exact decodeM_amin q sz sv a hw
  case aminn q sz sv a => cases h; exact decodeM_aminn q sz sv a hw
  case amax q sz sv a => cases h; exact decodeM_amax q sz sv a hw
  case amaxn q sz sv a => cases h; exact decodeM_amaxn q sz sv a hw
  case aswp q sz sv a => cases h; exact decodeM_aswp q sz sv a hw
  case acas q sz sv a => cases h; exact decodeM_acas q sz sv a hw
  case afadd q sz sv a => cases h; exact decodeM_afadd q sz sv a hw
  case wcheck q sd => cases h; exact decodeM_wcheck q sd hw
  case wall q => cases h; exact decodeM_wall q hw
  case swinit q sv a => cases h; exact decodeM_swinit q sv a hw
  case swarr q sv a => cases h; exact decodeM_swarr q sv a hw
  case swwait q sv a => cases h; exact decodeM_swwait q sv a hw
  case swpoll q sd a => cases h; exact decodeM_swpoll q sd a hw
  case llock q sd a => cases h; exact decodeM_llock q sd a hw
  case lunlock q a => cases h; exact decodeM_lunlock q a hw
  case rcfence q sv => cases h; exact decodeM_rcfence q sv hw
  case xpld q xp a => cases h; exact decodeM_xpld q xp a hw
  case launch q sv a => cases h; exact decodeM_launch q sv a hw
  case pref q a => cases h; exact decodeM_pref q a hw
  case btw q vr a => cases h; exact decodeM_btw q vr a hw
  all_goals cases h

theorem decodeEnd_setWidth (e : BitVec 10) : decodeEnd (e.setWidth 16) = some e := by
  simp [decodeEnd, extract_setWidth, toNat_mod_lt]
theorem extract_setWidth_above {n : Nat} (x : BitVec n) (w k : Nat) : (x.setWidth w).extractLsb' n k = 0 := by
  ext i hi
  simp [BitVec.getElem_extractLsb']
theorem decodeLeaf_encodeLeaf (l : Leaf) (ls : List Unit16) : decodeLeaf (encodeLeaf l).1 ((encodeLeaf l).2 ++ ls) = some (l, ls) ∧
    (match (encodeLeaf l).1.toNat with | 0 => 0 | 2 => 1 | _ => 2) = (encodeLeaf l).2.length := by
  cases l <;> simp [encodeLeaf, decodeLeaf, litPair_extract, extract_setWidth, toNat_mod_lt]
/-- The fields of a branch tree's operand word. -/
theorem br_bits (a b c d : BitVec 6) (m1 m2 m3 m4 : BitVec 2) :
    let o : BitVec 32 := a ++ b ++ c ++ d ++ m1 ++ m2 ++ m3 ++ m4
    o.extractLsb' 26 6 = a ∧ o.extractLsb' 20 6 = b ∧ o.extractLsb' 14 6 = c ∧ o.extractLsb' 8 6 = d ∧
      o.extractLsb' 6 2 = m1 ∧ o.extractLsb' 4 2 = m2 ∧ o.extractLsb' 2 2 = m3 ∧ o.extractLsb' 0 2 = m4 :=
  ⟨extract_past _ _ _ _ _ (by decide) (extract_past _ _ _ _ _ (by decide) (extract_past _ _ _ _ _ (by decide) (extract_past _ _ _ _ _ (by decide) (extract_past _ _ _ _ _ (by decide) (extract_past _ _ _ _ _ (by decide) (extract_high _ _)))))), extract_past _ _ _ _ _ (by decide) (extract_past _ _ _ _ _ (by decide) (extract_past _ _ _ _ _ (by decide) (extract_past _ _ _ _ _ (by decide) (extract_past _ _ _ _ _ (by decide) (extract_past _ _ _ _ _ (by decide) (extract_right _ _)))))), extract_past _ _ _ _ _ (by decide) (extract_past _ _ _ _ _ (by decide) (extract_past _ _ _ _ _ (by decide) (extract_past _ _ _ _ _ (by decide) (extract_past _ _ _ _ _ (by decide) (extract_right _ _))))), extract_past _ _ _ _ _ (by decide) (extract_past _ _ _ _ _ (by decide) (extract_past _ _ _ _ _ (by decide) (extract_past _ _ _ _ _ (by decide) (extract_right _ _)))), extract_past _ _ _ _ _ (by decide) (extract_past _ _ _ _ _ (by decide) (extract_past _ _ _ _ _ (by decide) (extract_right _ _))), extract_past _ _ _ _ _ (by decide) (extract_past _ _ _ _ _ (by decide) (extract_right _ _)), extract_past _ _ _ _ _ (by decide) (extract_right _ _), extract_right _ _⟩
theorem loops_bits (a : BitVec 12) (b : BitVec 6) :
    let o : BitVec 32 := a ++ (0 : BitVec 14) ++ b
    o.extractLsb' 20 12 = a ∧ o.extractLsb' 6 14 = 0 ∧ o.extractLsb' 0 6 = b :=
  ⟨extract_past _ _ _ _ _ (by decide) (extract_high _ _), extract_past _ _ _ _ _ (by decide) (extract_right _ _), extract_right _ _⟩
theorem sbar_bits (w : BitVec 4) (g : Bool) (b : BitVec 2) :
    let o : BitVec 32 := (0 : BitVec 25) ++ w ++ BitVec.ofBool g ++ b
    o.extractLsb' 7 25 = 0 ∧ o.extractLsb' 3 4 = w ∧ o[2] = g ∧ o.extractLsb' 0 2 = b := by
  refine ⟨extract_past _ _ _ _ _ (by decide) (extract_past _ _ _ _ _ (by decide) (extract_high _ _)), extract_past _ _ _ _ _ (by decide) (extract_past _ _ _ _ _ (by decide) (extract_right _ _)), ?_, extract_right _ _⟩
  revert w g b; decide
theorem decodeC_br (sh : BitVec 4) (ta tb tc td : BitVec 6) (l1 l2 l3 l4 : Leaf) (hw : (Instr.br sh ta tb tc td l1 l2 l3 l4).wf = true) :
    decodeC ⟨1, sh, ta ++ tb ++ tc ++ td ++ (encodeLeaf l1).1 ++ (encodeLeaf l2).1 ++ (encodeLeaf l3).1 ++ (encodeLeaf l4).1⟩
      ((encodeLeaf l1).2 ++ (encodeLeaf l2).2 ++ (encodeLeaf l3).2 ++ (encodeLeaf l4).2) = some (.br sh ta tb tc td l1 l2 l3 l4) := by
  obtain ⟨h1, h2, h3, h4, h5, h6, h7, h8⟩ := br_bits ta tb tc td (encodeLeaf l1).1 (encodeLeaf l2).1 (encodeLeaf l3).1 (encodeLeaf l4).1
  have e4 := (decodeLeaf_encodeLeaf l4 []).1
  rw [List.append_nil] at e4
  show decodeBr _ _ = _
  unfold decodeBr
  simp only [h1, h2, h3, h4, h5, h6, h7, h8, List.append_assoc]
  rw [(decodeLeaf_encodeLeaf l1 _).1]
  simp only [Option.bind_eq_bind, Option.bind_some]
  rw [(decodeLeaf_encodeLeaf l2 _).1]
  simp only [Option.bind_some]
  rw [(decodeLeaf_encodeLeaf l3 _).1]
  simp only [Option.bind_some]
  rw [e4]
  simp only [Option.bind_some, if_true]
  exact guardWf_of hw
theorem decodeC_loop (chain : BitVec 12) (n : BitVec 20) (e : BitVec 10) :
    decodeC ⟨2, 0, chain ++ n⟩ [e.setWidth 16] = some (.loop chain n e) := by
  have h1 : (chain ++ n : BitVec 32).extractLsb' 20 12 = chain := extract_high _ _
  have h2 : (chain ++ n : BitVec 32).extractLsb' 0 20 = n := extract_right _ _
  generalize (chain ++ n : BitVec 32) = o at *
  change ((decodeEnd (e.setWidth 16)).map fun x => Instr.loop (o.extractLsb' 20 12) (o.extractLsb' 0 20) x) = _
  rw [decodeEnd_setWidth, h1, h2]; rfl
theorem decodeC_loops (chain : BitVec 12) (sa : BitVec 6) (e : BitVec 10) :
    decodeC ⟨2, 1, chain ++ (0 : BitVec 14) ++ sa⟩ [e.setWidth 16] = some (.loops chain sa e) := by
  have hb := loops_bits chain sa
  generalize (chain ++ (0 : BitVec 14) ++ sa : BitVec 32) = o at *
  change (if o.extractLsb' 6 14 = 0 then
    (decodeEnd (e.setWidth 16)).map fun x => Instr.loops (o.extractLsb' 20 12) (o.extractLsb' 0 6) x else none) = _
  rw [decodeEnd_setWidth, hb.1, hb.2.1, hb.2.2]; rfl
theorem decodeC_sbar (w : BitVec 4) (g : Bool) (b : BitVec 2) :
    decodeC ⟨4, 1, (0 : BitVec 25) ++ w ++ BitVec.ofBool g ++ b⟩ [] = some (.sbar w g b) := by
  have hb := sbar_bits w g b
  generalize ((0 : BitVec 25) ++ w ++ BitVec.ofBool g ++ b : BitVec 32) = o at *
  change (if o.extractLsb' 7 25 = 0 then some (Instr.sbar (o.extractLsb' 3 4) (o.getLsbD 2) (o.extractLsb' 0 2)) else none) = _
  rw [hb.1, hb.2.1, hb.2.2.2, show o.getLsbD 2 = g from hb.2.2.1]; rfl
theorem decodeC_fmts (sa : BitVec 6) : decodeC ⟨3, 1, sa.setWidth 32⟩ [] = some (.fmts sa) := by
  change (if (sa.setWidth 32).extractLsb' 6 26 = 0 then some (Instr.fmts ((sa.setWidth 32).extractLsb' 0 6)) else none) = _
  rw [extract_setWidth_above, extract_setWidth _ _ (by decide)]; rfl
theorem decodeC_wwait (w : BitVec 4) : decodeC ⟨4, 3, w.setWidth 32⟩ [] = some (.wwait w) := by
  change (if (w.setWidth 32).extractLsb' 4 28 = 0 then some (Instr.wwait ((w.setWidth 32).extractLsb' 0 4)) else none) = _
  rw [extract_setWidth_above, extract_setWidth _ _ (by decide)]; rfl
theorem decodeC_trap (n : BitVec 16) : decodeC ⟨5, 0, n.setWidth 32⟩ [] = some (.trap n) := by
  change (if (n.setWidth 32).extractLsb' 16 16 = 0 then some (Instr.trap ((n.setWidth 32).extractLsb' 0 16)) else none) = _
  rw [extract_setWidth_above, extract_setWidth _ _ (by decide)]; rfl
theorem decodeC_brk (n : BitVec 16) : decodeC ⟨5, 1, n.setWidth 32⟩ [] = some (.brk n) := by
  change (if (n.setWidth 32).extractLsb' 16 16 = 0 then some (Instr.brk ((n.setWidth 32).extractLsb' 0 16)) else none) = _
  rw [extract_setWidth_above, extract_setWidth _ _ (by decide)]; rfl
theorem decodeC_jmp (d : BitVec 32) : decodeC ⟨6, 0, 0⟩ [d.extractLsb' 0 16, d.extractLsb' 16 16] = some (.jmp d) := by
  change some (Instr.jmp (litPair (d.extractLsb' 0 16) (d.extractLsb' 16 16))) = _
  rw [litPair_extract]
theorem decodeC_call (d : BitVec 32) : decodeC ⟨6, 1, 0⟩ [d.extractLsb' 0 16, d.extractLsb' 16 16] = some (.call d) := by
  change some (Instr.call (litPair (d.extractLsb' 0 16) (d.extractLsb' 16 16))) = _
  rw [litPair_extract]
theorem decodeC_encodeC (i : Instr) (f : CF) (ls : List Unit16) (h : encodeC i = some (f, ls)) (hw : i.wf = true) :
    decodeC f ls = some i := by
  cases i
  case br sh ta tb tc td l1 l2 l3 l4 => cases h; exact decodeC_br sh ta tb tc td l1 l2 l3 l4 hw
  case loop chain n e => cases h; exact decodeC_loop chain n e
  case loops chain sa e => cases h; exact decodeC_loops chain sa e
  case sbar w g b => cases h; exact decodeC_sbar w g b
  case fmts sa => cases h; exact decodeC_fmts sa
  case wwait w => cases h; exact decodeC_wwait w
  case trap n => cases h; exact decodeC_trap n
  case brk n => cases h; exact decodeC_brk n
  case jmp d => cases h; exact decodeC_jmp d
  case call d => cases h; exact decodeC_call d
  all_goals first
    | (cases h; rfl)
    | cases h

/-! ## Literal units and leaf masks -/

theorem litsC_br (sh : BitVec 4) (ta tb tc td : BitVec 6) (l1 l2 l3 l4 : Leaf) :
    litsC ⟨1, sh, ta ++ tb ++ tc ++ td ++ (encodeLeaf l1).1 ++ (encodeLeaf l2).1 ++ (encodeLeaf l3).1 ++ (encodeLeaf l4).1⟩ =
      ((encodeLeaf l1).2 ++ (encodeLeaf l2).2 ++ (encodeLeaf l3).2 ++ (encodeLeaf l4).2).length := by
  have hb := br_bits ta tb tc td (encodeLeaf l1).1 (encodeLeaf l2).1 (encodeLeaf l3).1 (encodeLeaf l4).1
  generalize (ta ++ tb ++ tc ++ td ++ (encodeLeaf l1).1 ++ (encodeLeaf l2).1 ++ (encodeLeaf l3).1 ++ (encodeLeaf l4).1 : BitVec 32) = o at *
  obtain ⟨-, -, -, -, h5, h6, h7, h8⟩ := hb
  simp only [List.length_append, ← (decodeLeaf_encodeLeaf l1 []).2, ← (decodeLeaf_encodeLeaf l2 []).2,
    ← (decodeLeaf_encodeLeaf l3 []).2, ← (decodeLeaf_encodeLeaf l4 []).2]
  rw [← h5, ← h6, ← h7, ← h8]
  rfl
theorem litsC_encodeC (i : Instr) (f : CF) (ls : List Unit16) (h : encodeC i = some (f, ls)) : litsC f = ls.length ∧ f.cls ≠ 0 := by
  cases i
  case br sh ta tb tc td l1 l2 l3 l4 => cases h; exact ⟨litsC_br sh ta tb tc td l1 l2 l3 l4, by simp⟩
  all_goals first
    | (cases h; exact ⟨rfl, by simp⟩)
    | cases h
theorem litsS_encodeS (i : Instr) (f : SF) (ls : List Unit16) (h : encodeS i = some (f, ls)) (hw : i.wf = true) :
    litsS f = ls.length ∧ f.mask ≠ 0 := by
  cases i <;> first
    | (cases h; refine ⟨(decodeSOp_encodeSOp _).2, ?_⟩; simp_all [Instr.wf, Wf.sForm, Wf.mask]; done)
    | (cases h; refine ⟨rfl, ?_⟩; simp_all [Instr.wf, Wf.sForm, Wf.mask]; done)
    | cases h
theorem litsM_encodeM (i : Instr) (f : MF) (ls : List Unit16) (h : encodeM i = some (f, ls)) (hw : i.wf = true) :
    litsM f = ls.length ∧ f.mask ≠ 0 := by
  cases i <;> first
    | (cases h; refine ⟨(decodeAddr_encodeMode _).2, ?_⟩
       simp_all [Instr.wf, Wf.qual, Wf.plain, Wf.sync, Wf.atomic, Wf.mask]; done)
    | (cases h; refine ⟨rfl, ?_⟩; simp_all [Instr.wf, Wf.qual, Wf.plain, Wf.mask]; done)
    | cases h
theorem mask_encodeV (i : Instr) (f : VF) (h : encodeV i = some f) (hw : i.wf = true) : f.mask ≠ 0 := by
  cases i <;> first
    | (cases h; simp_all [Instr.wf, Wf.v2, Wf.v1, Wf.vcmp, Wf.mask]; done)
    | cases h
theorem mask_encodeX (i : Instr) (f : XF) (h : encodeX i = some f) (hw : i.wf = true) : f.mask ≠ 0 := by
  cases i <;> first
    | (cases h; simp_all [Instr.wf, Wf.v1, Wf.mask]; done)
    | cases h
theorem mask_encodeT (i : Instr) (f : TF) (h : encodeT i = some f) (hw : i.wf = true) : f.mask ≠ 0 := by
  cases i <;> first
    | (cases h; simp_all [Instr.wf, Wf.mask]; done)
    | cases h

/-! ## A bundle from its packed slots -/

/-- The decoding of packed fields and literal units: where every slot has an answer, those answers, and the entry bit. -/
theorem decodeBundle_pack (entry : Bool) (c : CF) (s : SF) (m : MF) (v : VF) (x : XF) (t : TF) (lc ls lm : List Unit16)
    (z : Slots) (hc : litsC c = lc.length) (hs : (if s.mask = 0 then 0 else litsS s) = ls.length)
    (hm : (if m.mask = 0 then 0 else litsM m) = lm.length)
    (dc : slotOr (c.cls = 0) (c.pack.extractLsb' 0 36 = 0) (decodeC c lc) = some z.c)
    (ds : slotOr (s.mask = 0) (s.pack = 0) (decodeS s ls) = some z.s)
    (dm : slotOr (m.mask = 0) (m.pack = 0) (decodeM m lm) = some z.m)
    (dv : slotOr (v.mask = 0) (v.pack = 0) (decodeV v) = some z.v)
    (dx : slotOr (x.mask = 0) (x.pack = 0) (decodeX x) = some z.x)
    (dt : slotOr (t.mask = 0) (t.pack = 0) (decodeT t) = some z.t) :
    decodeBundle (packBundle (packHeader entry (m.mask != 0 && m.ord == 2)) c s m v x t) (lc ++ ls ++ lm) = .ok entry z := by
  have hz : (packBundle (packHeader entry (m.mask != 0 && m.ord == 2)) c s m v x t).extractLsb' 204 36 = c.pack.extractLsb' 0 36 := by
    rw [← packBundle_bits_slotC (packHeader entry (m.mask != 0 && m.ord == 2)) c s m v x t]
    ext i hi
    simp [BitVec.getElem_extractLsb', hi]
    omega
  have hh : ∀ a b : Bool, (packHeader a b).extractLsb' 8 4 = 1 ∧ (packHeader a b).extractLsb' 0 6 = 0 ∧
      (packHeader a b).getLsbD 6 = b ∧ (packHeader a b).getLsbD 7 = a := by decide
  obtain ⟨h1, h2, h3, h4⟩ := hh entry (m.mask != 0 && m.ord == 2)
  unfold decodeBundle
  simp only [packBundle_header, packBundle_slotC, packBundle_slotS, packBundle_slotM, packBundle_slotV, packBundle_slotX,
    packBundle_slotT, packBundle_bits_slotS, packBundle_bits_slotM, packBundle_bits_slotV, packBundle_bits_slotX,
    packBundle_bits_slotT, hz, h1, h2, h3, h4, hc, hs, hm, List.length_append, bne_self_eq_false, Bool.false_eq_true, if_false]
  have e1 : (lc ++ ls ++ lm).take lc.length = lc := by simp
  have e2 : ((lc ++ ls ++ lm).drop lc.length).take ls.length = ls := by simp
  have e3 : ((lc ++ ls ++ lm).drop (lc.length + ls.length)).take lm.length = lm := by simp
  rw [e1, e2, e3, dc, ds, dm, dv, dx, dt]
  rfl

end Sys2Proof
end

