-- ==== Sys2Proof/Laws/Issue.lean ====
section
/-! SUPPORT. What the issue of a bundle of one form can do, said once (05 R130 to R137, 06 R146). -/

namespace Sys2Proof.Machine

/-- At an issue point a form by itself is a bundle of that one form. -/
theorem issueForm_of_issuing {s : State} {lits : Nat} {e : Env} (r : SlotReq) (h : s.issuing lits = some e) :
    issueForm lits r s = .next (issueIn e [r]) := by
  rcases hc : s.ctx s.cur with _ | c
  · simp [State.issuing, hc] at h
  · by_cases hr : c.status = .running
    · simp [issueForm, hc, hr, h]
    · simp [State.issuing, hc, hr] at h

/-- The environment of an issue has no sequence number taken by another slot. -/
theorem issuing_mTook {s : State} {lits : Nat} {e : Env} (h : s.issuing lits = some e) : e.mTook = false := by
  unfold State.issuing at h
  split at h
  · simp at h
  · split at h
    · simp at h
    · simp only [State.env] at h
      repeat' split at h
      all_goals first
        | simp at h; done
        | (simp only [Option.some.injEq] at h; subst h; rfl)

/-- A form whose leaf is taken when its bundle has no C form (R121). -/
def SlotReq.taken (r : SlotReq) : Prop := r.slot = .c ∨ r.mask.getLsbD 0 = true

/-- What a slot of a bundle of one form does, its leaf taken. -/
def SlotReq.done (r : SlotReq) (e : Env) : Done := ⟨r.slot, true, r.eff e, (r.base e).toList ++ (r.eff e).pends⟩

theorem collisions_done (e : Env) (r : SlotReq) (old : List Pend) :
    collisions old [r.done e] = collisions old [⟨r.slot, true, { vreads := (r.eff e).vreads }, (r.done e).pends⟩] := by
  simp [collisions, SlotReq.done]

/-- No register that the one form of a bundle reads is poisoned when its results have room (R381). -/
theorem Env.room_regPoison {e : Env} {sl : Slot} {r : SlotReq} {new : List Pend}
    (h : e.room sl (r.eff e).vreads new = true) : e.regPoison [r.done e] = none := by
  simp only [Env.room, Bool.and_eq_true, Bool.not_eq_true', List.any_eq_false] at h
  have hn : (r.eff e).vreads.find? (fun n => e.s.poisoned (rKey e.a n) 256) = none :=
    List.find?_eq_none.mpr fun n hn => by simpa using h.2 n hn
  simp [Env.regPoison, SlotReq.done, hn]

/-- What remains of the issue of a bundle of one legal form that reads no poisoned register: its own fault, its hold, the
bound on sequence numbers, and last the commit (R136, R157, R189). -/
theorem issueLegal_single (e : Env) (r : SlotReq) (hp : e.regPoison [r.done e] = none) :
    issueLegal e [r.done e] =
      match (r.eff e).fault with
      | some info => trapAt e { info with slots := maskBit r.slot.bit true }
      | none =>
        if (r.eff e).hold then ((r.eff e).onHold e.s).onCtx e.a fun c => { c with held := true }
        else if (r.eff e).takesSeq && decide (e.s.outstanding e.a e.c.pd.toNat ≥ 2 ^ 19) then
          e.s.onCtx e.a fun c => { c with held := true }
        else commitBundle e [r.done e] := by
  have ht : takers [r.done e] = if (r.eff e).takesSeq then 1 else 0 := by
    unfold takers SlotReq.done
    cases h : (r.eff e).takesSeq <;> simp [h]
  unfold issueLegal
  cases hf : (r.eff e).fault with
  | some info =>
    rw [hp]
    simp [cHolds, SlotReq.done, hf]
  | none =>
    cases hh : (r.eff e).hold with
    | true =>
      rw [hp]
      by_cases hs : r.slot = .c
      · simp [cHolds, SlotReq.done, hf, hh, hs, holdBundle]
      · simp [cHolds, SlotReq.done, hf, hh, hs, holdBundle]
    | false =>
      have h1 : cHolds [r.done e] = false := by simp [cHolds, SlotReq.done, hh]
      have h2 : [r.done e].find? (fun d => d.runs && d.eff.fault.isSome) = none := by simp [SlotReq.done, hf]
      have h3 : ([r.done e].any fun d => d.runs && d.eff.hold) = false := by simp [SlotReq.done, hh]
      simp only [h1, hp, h2, h3, ht, Bool.false_eq_true, if_false, Option.map_none]
      cases (r.eff e).takesSeq
      · simp
      · simp

/-- The cascade of a bundle of one form whose leaf is taken: illegal, collision, port bound, and then its own fault, its
hold, the bound on sequence numbers, and last the commit (R130, R131, R136). -/
theorem issueIn_single (e : Env) (r : SlotReq) (hm : e.mTook = false) (ht : r.taken) :
    issueIn e [r] =
      if (r.eff e).illegal then bundleFault e 0x01 0 (maskBit r.slot.bit true)
      else if collisions (e.c.pend ++ (r.eff e).olds) [r.done e] ≠ 0 then
        bundleFault e 0x03 0 (collisions (e.c.pend ++ (r.eff e).olds) [r.done e])
      else match portOver (e.c.pend ++ (r.eff e).olds) [r.done e] with
        | some p => bundleFault e 0x04 p.1 p.2
        | none => issueLegal e [r.done e] := by
  have hmt : ({ e with mTook := false } : Env) = e := by rw [← hm]
  have hd : ∀ (leaf : Nat) (mT : Bool), (r.slot = .c ∨ leaf = 1) → (r.slot = .t → mT = false) →
      doneOf e leaf mT r = r.done e := by
    intro leaf mT hl hT
    have hruns : (r.slot == .c || r.mask.getLsbD (leaf - 1)) = true := by
      rcases hl with hl | hl
      · simp [hl]
      · rcases ht with ht | ht
        · simp [ht]
        · simp [hl, ht]
    unfold doneOf SlotReq.done
    simp only [hruns, if_true]
    split
    · rename_i h
      rw [hT (by simpa using h), hmt]
    · rfl
  have hbit : (maskBit r.slot.bit true : BitVec 8) ≠ 0 := by
    cases r.slot <;> decide
  have hf0 : maskBit r.slot.bit false = 0#8 := by unfold maskBit; simp
  have hf1 : (maskBit r.slot.bit true = 0#8) = False := by simpa using hbit
  have key : ∀ (leaf : Nat), (r.slot = .c ∨ leaf = 1) →
      [r].map (doneOf e leaf ([r].any fun r => r.slot == .m && r.mask.getLsbD (leaf - 1) && (r.eff e).takesSeq)) =
        [r.done e] := by
    intro leaf hl
    simp only [List.map_cons, List.map_nil]
    rw [hd leaf _ hl (fun h => by simp [h])]
  have hruns : (r.done e).runs = true := rfl
  have heff : (r.done e).eff = r.eff e := rfl
  have hslot : (r.done e).slot = r.slot := rfl
  by_cases hs : r.slot = .c
  · have hfind : [r].find? (fun r => r.slot == .c) = some r := by simp [hs]
    unfold issueIn
    simp only [hfind, key _ (.inl hs), List.flatMap_cons, List.flatMap_nil, List.append_nil, List.foldl_cons, List.foldl_nil,
      hruns, heff, hslot, if_true, Bool.true_and]
    cases hi : (r.eff e).illegal
    · cases portOver (e.c.pend ++ (r.eff e).olds) [r.done e] <;> simp [hf0]
    · simp [hf1]
  · have hfind : [r].find? (fun r => r.slot == .c) = none := by simp [hs]
    unfold issueIn
    simp only [hfind, key _ (.inr rfl), List.flatMap_cons, List.flatMap_nil, List.append_nil, List.foldl_cons, List.foldl_nil,
      hruns, heff, hslot, if_true, Bool.true_and]
    cases hi : (r.eff e).illegal
    · cases portOver (e.c.pend ++ (r.eff e).olds) [r.done e] <;> simp [hf0]
    · simp [hf1]

/-- The commit of a bundle of one form whose next position is no trap and no exit. -/
theorem commitBundle_one (e : Env) (r : SlotReq) (hx : r.slot = .c → (∀ i, (r.eff e).next ≠ .traps i) ∧ (r.eff e).next ≠ .exits) :
    commitBundle e [r.done e] = e.commits r.slot (r.done e).pends (r.eff e).energy (r.eff e).act (r.eff e).post
      (if r.slot = .c then (r.eff e).next else .sequential) := by
  unfold commitBundle Env.commits SlotReq.done
  by_cases hs : r.slot = .c
  · have hx' := hx hs
    simp only [hs, List.find?_cons, beq_self_eq_true, List.foldl_cons, List.foldl_nil, if_true, List.map_cons,
      List.map_nil, List.sum_cons, List.sum_nil, Nat.add_zero, List.flatMap_cons, List.flatMap_nil, List.append_nil,
      List.reverse_cons, List.reverse_nil, List.nil_append, List.any_cons, List.any_nil, Bool.or_false, Option.map_some,
      Option.getD_some]
    split
    · rename_i i h; exact absurd h (hx'.1 i)
    · rename_i h; exact absurd h hx'.2
    · rfl
  · have hb : (r.slot == .c) = false := by simp [hs]
    simp only [hb, List.find?_cons, List.find?_nil, List.foldl_cons, List.foldl_nil, if_true, List.map_cons,
      List.map_nil, List.sum_cons, List.sum_nil, Nat.add_zero, List.flatMap_cons, List.flatMap_nil, List.append_nil,
      List.reverse_cons, List.reverse_nil, List.nil_append, List.any_cons, List.any_nil, Bool.or_false, Option.map_none,
      Option.getD_none, hs, if_false]

/-- What a bundle of one form that commits leaves: no cause, no hold, and its next position is no trap and no exit. -/
theorem issueIn_one (e : Env) (r : SlotReq) (f : Eff) (new : List Pend) (hm : e.mTook = false) (ht : r.taken)
    (he : r.eff e = f) (ho : f.olds = []) (hn : new = (r.base e).toList ++ f.pends) (hi : f.illegal = false)
    (hr : e.room r.slot f.vreads new = true) (hf : f.fault = none) (hh : f.hold = false)
    (hq : f.takesSeq = false ∨ e.s.outstanding e.a e.c.pd.toNat < 2 ^ 19)
    (hx : r.slot = .c → (∀ i, f.next ≠ .traps i) ∧ f.next ≠ .exits) :
    issueIn e [r] = e.commits r.slot new f.energy f.act f.post (if r.slot = .c then f.next else .sequential) := by
  subst he hn
  have hb := Env.room_regPoison hr
  simp only [Env.room, Bool.and_eq_true, beq_iff_eq, Option.isNone_iff_eq_none] at hr
  have hc : collisions e.c.pend [r.done e] = 0 := by rw [collisions_done]; exact hr.1.1
  have hp : portOver e.c.pend [r.done e] = none := hr.1.2
  have hz : ((r.eff e).takesSeq && decide (e.s.outstanding e.a e.c.pd.toNat ≥ 2 ^ 19)) = false := by
    rcases hq with hq | hq
    · simp [hq]
    · simp only [Bool.and_eq_false_iff, decide_eq_false_iff_not, not_le]; exact .inr hq
  have h := commitBundle_one e r hx
  rw [issueIn_single e r hm ht, ho, List.append_nil, issueLegal_single e r hb]
  simp only [hi, hc, hp, hf, hh, hz, ne_eq, not_true_eq_false, if_false, Bool.false_eq_true]
  exact h

/-- A form whose leaf is not taken does nothing in its bundle but the base update of its address mode (R121, R182). -/
theorem issueIn_idle (e : Env) (r : SlotReq) (hs : r.slot ≠ .c) (ht : r.mask.getLsbD 0 = false)
    (hr : e.room r.slot [] (r.base e).toList = true) : issueIn e [r] = e.commits r.slot (r.base e).toList 0 := by
  have hb : (r.slot == .c) = false := by simp [hs]
  have hfind : [r].find? (fun r => r.slot == .c) = none := by simp [hs]
  have hd : ∀ mT : Bool, doneOf e 1 mT r = ⟨r.slot, false, {}, (r.base e).toList⟩ := by
    intro mT
    have hr0 : (r.slot == .c || r.mask.getLsbD (1 - 1)) = false := by rw [hb]; exact ht
    simp only [doneOf, hr0, Bool.false_eq_true, if_false, List.append_nil]
  simp only [Env.room, Bool.and_eq_true, beq_iff_eq, Option.isNone_iff_eq_none] at hr
  have hc : collisions e.c.pend [⟨r.slot, false, {}, (r.base e).toList⟩] = 0 := by
    simpa [collisions] using hr.1.1
  have hp : portOver e.c.pend [⟨r.slot, false, {}, (r.base e).toList⟩] = none := by
    simpa [portOver] using hr.1.2
  have hf0 : (0 : BitVec 8) ||| maskBit r.slot.bit false = 0 := by unfold maskBit; simp
  have hl : issueLegal e [⟨r.slot, false, {}, (r.base e).toList⟩] = commitBundle e [⟨r.slot, false, {}, (r.base e).toList⟩] := by
    simp [issueLegal, cHolds, takers, Env.regPoison]
  unfold issueIn
  simp only [hfind, List.map_cons, List.map_nil, hd, List.foldl_cons, List.foldl_nil, Bool.false_and, hf0, List.flatMap_cons,
    List.flatMap_nil, Bool.false_eq_true, if_false, List.append_nil, hc, hp, hl, ne_eq, not_true_eq_false]
  simp [commitBundle, Env.commits, hb]

/-- A form with a fault of its own at issue traps, and nothing of the bundle commits (R130, R164). -/
theorem issueIn_fault (e : Env) (r : SlotReq) (info : TrapInfo) (hm : e.mTook = false) (ht : r.taken)
    (ho : (r.eff e).olds = []) (hi : (r.eff e).illegal = false)
    (hr : e.room r.slot (r.eff e).vreads ((r.base e).toList ++ (r.eff e).pends) = true)
    (hf : (r.eff e).fault = some info) : issueIn e [r] = trapAt e { info with slots := maskBit r.slot.bit true } := by
  have hb := Env.room_regPoison hr
  simp only [Env.room, Bool.and_eq_true, beq_iff_eq, Option.isNone_iff_eq_none] at hr
  have hc : collisions e.c.pend [r.done e] = 0 := by rw [collisions_done]; exact hr.1.1
  have hp : portOver e.c.pend [r.done e] = none := hr.1.2
  rw [issueIn_single e r hm ht, ho, List.append_nil, issueLegal_single e r hb]
  simp only [hi, hc, hp, hf, ne_eq, not_true_eq_false, if_false, Bool.false_eq_true]

/-- A form that holds its bundle: the context is held, and nothing else commits (R136). -/
theorem issueIn_hold (e : Env) (r : SlotReq) (hm : e.mTook = false) (ht : r.taken) (ho : (r.eff e).olds = [])
    (hi : (r.eff e).illegal = false)
    (hr : e.room r.slot (r.eff e).vreads ((r.base e).toList ++ (r.eff e).pends) = true) (hf : (r.eff e).fault = none)
    (hh : (r.eff e).hold = true) :
    issueIn e [r] = ((r.eff e).onHold e.s).onCtx e.a fun c => { c with held := true } := by
  have hb := Env.room_regPoison hr
  simp only [Env.room, Bool.and_eq_true, beq_iff_eq, Option.isNone_iff_eq_none] at hr
  have hc : collisions e.c.pend [r.done e] = 0 := by rw [collisions_done]; exact hr.1.1
  have hp : portOver e.c.pend [r.done e] = none := hr.1.2
  rw [issueIn_single e r hm ht, ho, List.append_nil, issueLegal_single e r hb]
  simp only [hi, hc, hp, hf, hh, ne_eq, not_true_eq_false, if_false, Bool.false_eq_true, if_true]

/-- What an effect of an executing slot must be for its form to commit, at an issue point. -/
def Eff.commitsAs (f : Eff) (e : Env) (base : List Pend) (new : List Pend) (w : Nat) (reads : List Nat) (act post : State → State) : Prop :=
  f.illegal = false ∧ f.fault = none ∧ f.hold = false ∧ (f.takesSeq = false ∨ e.seqRoom) ∧ f.vreads = reads ∧
    new = base ++ f.pends ∧ f.energy = w ∧ f.act = act ∧ f.post = post ∧ f.olds = []

/-- A form of another slot than C commits when its request's effect does. -/
theorem commits_of {i : Instr} {lits : Nat} (r : SlotReq) {sl : Slot} {m : Mask} {new : Env → List Pend} {w : Env → Nat} {reads : List Nat}
    {ok : Env → Prop} {act post : Env → State → State} {nx : Env → NextReq}
    (hx : ∀ s, exec i s = issueForm lits r s) (hs : r.slot = sl) (hc : sl ≠ .c) (hm : r.mask = m)
    (h : ∀ e, ok e → (r.eff e).commitsAs e (r.base e).toList (new e) (w e) reads (act e) (post e) ∧ nx e = .sequential) :
    Commits i lits sl (m.getLsbD 0) new w reads ok act post nx := by
  intro s e he ht hok hr
  subst hs hm
  obtain ⟨⟨h1, h2, h3, h4, h5, h6, h7, h8, h9, ho⟩, h10⟩ := h e hok
  rw [hx, issueForm_of_issuing _ he]
  rw [issueIn_one e r (r.eff e) (new e) (issuing_mTook he) (.inr ht) rfl ho h6 h1 (by rw [h5]; exact hr) h2 h3 h4
    (fun h => absurd h hc)]
  rw [h7, h8, h9, h10, if_neg hc]

/-- A form of the C slot commits when its request's effect does, and its next position is no trap and no exit. -/
theorem commits_c {i : Instr} {lits : Nat} (r : SlotReq) {new : Env → List Pend} {w : Env → Nat} {reads : List Nat}
    {ok : Env → Prop} {act post : Env → State → State} {nx : Env → NextReq}
    (hx : ∀ s, exec i s = issueForm lits r s) (hs : r.slot = .c)
    (h : ∀ e, ok e → (r.eff e).commitsAs e (r.base e).toList (new e) (w e) reads (act e) (post e) ∧ (r.eff e).next = nx e ∧
      (∀ t, nx e ≠ .traps t) ∧ nx e ≠ .exits) :
    Commits i lits .c true new w reads ok act post nx := by
  intro s e he _ hok hr
  obtain ⟨⟨h1, h2, h3, h4, h5, h6, h7, h8, h9, ho⟩, h10, h11⟩ := h e hok
  rw [hx, issueForm_of_issuing _ he]
  rw [issueIn_one e r (r.eff e) (new e) (issuing_mTook he) (.inl hs) rfl ho h6 h1 (by rw [h5, hs]; exact hr) h2 h3 h4
    (fun _ => by rw [h10]; exact h11)]
  rw [h7, h8, h9, h10, if_pos hs, hs]

/-- A form traps at issue when its request's effect has a fault and makes nothing illegal. -/
theorem traps_of {i : Instr} {lits : Nat} (r : SlotReq) {sl : Slot} {taken : Bool} {new : Env → List Pend} {reads : List Nat}
    {ok : Env → Prop} {info : Env → TrapInfo} (hx : ∀ s, exec i s = issueForm lits r s) (hs : r.slot = sl)
    (ht : taken = true → r.taken)
    (h : ∀ e, ok e → (r.eff e).illegal = false ∧ (r.eff e).fault = some (info e) ∧ (r.eff e).vreads = reads ∧
      new e = (r.base e).toList ++ (r.eff e).pends ∧ (r.eff e).olds = []) :
    Traps i lits sl taken new reads ok info := by
  intro s e he htk hok hr
  subst hs
  obtain ⟨h1, h2, h3, h4, ho⟩ := h e hok
  rw [hx, issueForm_of_issuing _ he]
  rw [issueIn_fault e r (info e) (issuing_mTook he) (ht htk) ho h1 (by rw [h3, ← h4]; exact hr) h2]

/-- A form of the C slot holds its bundle when its request's effect does and starts no result. -/
theorem holds_of {i : Instr} {lits : Nat} (r : SlotReq) {ok : Env → Prop} {onHold : Env → State → State}
    (hx : ∀ s, exec i s = issueForm lits r s) (hs : r.slot = .c)
    (h : ∀ e, ok e → (r.eff e).illegal = false ∧ (r.eff e).fault = none ∧ (r.eff e).hold = true ∧ (r.eff e).vreads = [] ∧
      (r.base e).toList ++ (r.eff e).pends = [] ∧ (r.eff e).onHold = onHold e ∧ (r.eff e).olds = []) :
    Holds i lits ok onHold := by
  intro s e he hr hok
  obtain ⟨h1, h2, h3, h4, h5, h6, ho⟩ := h e hok
  rw [hx, issueForm_of_issuing _ he]
  rw [issueIn_hold e r (issuing_mTook he) (.inl hs) ho h1 (by rw [h4, h5, hs]; exact hr) h2 h3, h6]

/-- The checks of a plan do not depend on its own faults but through them. -/
theorem tileFault_none {t : TIn} {p : TPlan} (h1 : p.need ≤ t.c.stack.length)
    (h2 : t.c.stack.length - p.pops + p.out.length ≤ t.c.tlimit) (h3 : p.fault = none) (h4 : spillFault t.c p = none)
    (h5 : p.input = true → t.s.witFault t.a t.c.pd.toNat t.wit = none) (h6 : p.late = none) : tileFault t p = none := by
  have a : ¬ p.need > t.c.stack.length := by omega
  have b : ¬ t.c.stack.length - p.pops + p.out.length > t.c.tlimit := by omega
  unfold tileFault
  simp only [a, b, if_false, h3, h4, h6]
  by_cases hi : p.input = true
  · simp [firstFault, hi, h5 hi]
  · simp [firstFault, hi]

/-- A tile form issues when its plan, its faults apart, is the one named, and none of its checks fails. -/
theorem tileCommits_of {i : Instr} {m : Mask} {sp n w : Nat} {ok : TIn → Prop} {p : TIn → TPlan} (plan : TIn → TPlan)
    (hx : ∀ s, exec i s = issueForm 0 (tReq m i sp n w plan) s)
    (h : ∀ t : TIn, t.replay = false → ok t → (p t).need ≤ t.c.stack.length →
      plan t = { p t with fault := none, late := none } ∧ (p t).hold = false) :
    TileCommits i m sp n w ok p := by
  refine commits_of (tReq m i sp n w plan) hx rfl (by decide) rfl ?_
  intro e hok
  obtain ⟨h1, h2, h3, h4, h5, h6, h7, h10⟩ := hok
  obtain ⟨hp, hh⟩ := h (e.tin sp n w) rfl h1 h3
  have hw : ¬ e.c.window.length ≥ windowSize := by unfold windowSize; omega
  have hf : tileFault (e.tin sp n w) ((plan (e.tin sp n w)).numbered e.c.nextTile) = none := by
    rw [hp]
    exact tileFault_none h3 (by simp only [TPlan.numbered, List.length_map]; exact h4) rfl h5 h6 rfl
  have h8 : (plan (e.tin sp n w)).hold = false := by rw [hp]; exact hh
  refine ⟨⟨rfl, ?_, ?_, ?_, rfl, ?_, ?_, ?_, rfl, rfl⟩, rfl⟩
  · have h9 : (e.tin sp n w).c.nextTile = e.c.nextTile := rfl
    simp [tReq, tEff, h8, hw, h9, hf]
  · simp only [tReq, tEff, h8, hw, decide_false, Bool.false_or]
    rw [hp]
    exact (Bool.not_eq_false' _).mpr h10
  · simp only [tReq, tEff, hp]
    cases ho : (p (e.tin sp n w)).outWit with
    | none => left; rfl
    | some x => right; exact h7 (by simp [ho])
  · simp only [tReq, tEff, hp]; rfl
  · simp only [tReq, tEff, hp]
  · funext s
    simp only [tReq, tEff, hp]; rfl

/-- A form whose leaf is not taken does nothing in its bundle but a base update. -/
theorem idle_of {i : Instr} {lits : Nat} (r : SlotReq) {sl : Slot} {m : Mask} {s : State} {e : Env}
    (hx : exec i s = issueForm lits r s) (hs : r.slot = sl) (hc : sl ≠ .c) (hm : r.mask = m) (he : s.issuing lits = some e)
    (ht : m.getLsbD 0 = false) (hr : e.room sl [] (r.base e).toList = true) :
    exec i s = .next (e.commits sl (r.base e).toList 0) := by
  subst hs hm
  rw [hx, issueForm_of_issuing _ he, issueIn_idle e r hc ht hr]

end Sys2Proof.Machine
end

