-- ==== Sys2Proof/Laws/Keep.lean ====
section
/-! SUPPORT. What keeps the invariant of the machine: lemmas about shapes of functions, of which the lemmas of
Laws/Keep*.lean, one for each operation that gives a state, are made. -/

namespace Sys2Proof.Machine

/-- A result that goes on does so in a state with the invariant. -/
structure Res.Keeps {α : Type} (r : Res α) : Prop where
  all : ∀ s x, r = .ok s x → s.Inv

/-- A step that goes on does so in a state with the invariant. -/
structure OutKeeps (o : Host.Outcome State Fault Refusal) : Prop where
  all : ∀ t, o = .next t → t.Inv

theorem OutKeeps.next {s : State} (h : s.Inv) : OutKeeps (.next s) := ⟨fun _ e => by cases e; exact h⟩
theorem OutKeeps.fault {f : Fault} : OutKeeps (.fault f) := ⟨fun _ e => by cases e⟩

/-- What an operation of an engine leaves is a state with the invariant. -/
def Ran.Keeps (r : Ran) : Prop :=
  match r with
  | .done s _ _ => s.Inv
  | .wait s _ => s.Inv
  | .sent s => s.Inv
  | .fault s _ => s.Inv

theorem State.reset_inv : State.reset.Inv := ⟨by decide, by decide⟩

/-- The invariant of a state written out looks at memory and the wheel alone. -/
theorem State.Inv.mk_iff
    {x0 x1 x2 x3 x4 x5 x6 x7 x8 x9 x10 x11 x12 x13 x14 x15 x16 x17 x18 x19 x20 x21 x22 x23 x24 x25 x26 x27 x28 x29
    x30 x31 x32 x33 x34 x35 x36 x37 x38 x39 x40 x41 x42 x43 x44 x45 x46 x47 x48 x49 x50 x51 x52 x53 x54 x55 x56
    x57 x58 x59 x60 x61 x62 x63 x64 x65 x66 x67 x68 x69 x70 x71 x72 x73 x74 x75 x76 x77} :
    (State.mk x0 x1 x2 x3 x4 x5 x6 x7 x8 x9 x10 x11 x12 x13 x14 x15 x16 x17 x18 x19 x20 x21 x22 x23 x24 x25 x26 x27 x28 x29
    x30 x31 x32 x33 x34 x35 x36 x37 x38 x39 x40 x41 x42 x43 x44 x45 x46 x47 x48 x49 x50 x51 x52 x53 x54 x55 x56
    x57 x58 x59 x60 x61 x62 x63 x64 x65 x66 x67 x68 x69 x70 x71 x72 x73 x74 x75 x76 x77).Inv ↔
      Memory.wf x12 = true ∧ x21 < 768 := Iff.rfl
theorem State.Inv.both {s : State} (h : s.Inv) : Memory.wf s.mem = true ∧ s.wheel < 768 := h

theorem Res.Keeps.inv {α : Type} {r : Res α} {s : State} {x : α} (h : r.Keeps) (hr : r = .ok s x) : s.Inv := h.all s x hr
theorem Res.keeps_ok {α : Type} {s : State} {x : α} (h : s.Inv) : (Res.ok s x).Keeps := by
  constructor; intro t y e; cases e; exact h
theorem Res.keeps_wait {α : Type} : (Res.wait : Res α).Keeps := by constructor; intro t y e; cases e
theorem Res.keeps_fault {α : Type} {f : MFault} : (Res.fault f : Res α).Keeps := by constructor; intro t y e; cases e

theorem Ran.Keeps.done {r : Ran} {s : State} {i : Option (List Byte)} {l : List (Nat × Nat)} (h : r.Keeps) (e : r = .done s i l) : s.Inv := by
  subst e; exact h
theorem Ran.Keeps.wait {r : Ran} {s : State} {n : Nat} (h : r.Keeps) (e : r = .wait s n) : s.Inv := by subst e; exact h
theorem Ran.Keeps.sent {r : Ran} {s : State} (h : r.Keeps) (e : r = .sent s) : s.Inv := by subst e; exact h
theorem Ran.Keeps.fault {r : Ran} {s : State} {f : MFault} (h : r.Keeps) (e : r = .fault s f) : s.Inv := by subst e; exact h

/-- A result that a look at a link or a permission may stop with goes on in no state at all. -/
theorem MFault.res_inv {α : Type} (f : MFault) : (f.res : Res α).Keeps := by
  unfold MFault.res
  split
  · exact Res.keeps_fault
  · exact Res.keeps_wait
theorem State.linkRes_inv {α : Type} (s : State) (l : PLeaf) (va : Nat) (p : Perm) (unit : BitVec 32) (r : Res α)
    (h : s.linkRes l va p unit = some r) : r.Keeps := by
  unfold State.linkRes at h
  repeat' split at h
  all_goals first
    | (cases h; done)
    | (cases h; exact Res.keeps_fault)
    | (cases h; exact Res.keeps_wait)

theorem inv_fst {α : Type} {p : State × α} {s : State} {x : α} (h : p.1.Inv) (hp : p = (s, x)) : s.Inv := by
  subst hp; exact h
/-- A state that an operation may give has the invariant. -/
structure OptKeeps (o : Option State) : Prop where
  all : ∀ u, o = some u → u.Inv

theorem inv_some {o : Option State} {s : State} (h : OptKeeps o) (ho : o = some s) : s.Inv := h.all s ho
theorem OptKeeps.none : OptKeeps none := ⟨fun _ h => by cases h⟩
theorem OptKeeps.some {s : State} (h : s.Inv) : OptKeeps (some s) := ⟨fun _ e => by cases e; exact h⟩
theorem OptKeeps.getD {o : Option State} {s : State} (h : OptKeeps o) (hs : s.Inv) : (o.getD s).Inv := by
  cases o with
  | none => exact hs
  | some u => exact h.all u rfl
theorem OptKeeps.bind {o : Option State} {f : State → Option State} (h : OptKeeps o) (hf : ∀ s, s.Inv → OptKeeps (f s)) :
    OptKeeps (o.bind f) := by
  cases o with
  | none => exact OptKeeps.none
  | some u => exact hf u (h.all u rfl)
theorem OptKeeps.map {o : Option State} {f : State → State} (h : OptKeeps o) (hf : ∀ s, s.Inv → (f s).Inv) : OptKeeps (o.map f) := by
  cases o with
  | none => exact OptKeeps.none
  | some u => exact OptKeeps.some (hf u (h.all u rfl))
theorem OptKeeps.findSome {α : Type} (l : List α) (f : α → Option State) (hf : ∀ x, OptKeeps (f x)) : OptKeeps (l.findSome? f) := by
  constructor
  intro u hu
  obtain ⟨x, -, hx⟩ := List.exists_of_findSome?_eq_some hu
  exact (hf x).all u hx
theorem OptKeeps.foldl {α : Type} (l : List α) (f : Option State → α → Option State) (hf : ∀ o x, OptKeeps o → OptKeeps (f o x)) :
    ∀ o, OptKeeps o → OptKeeps (l.foldl f o) := by
  induction l with
  | nil => exact fun _ h => h
  | cons x l ih => exact fun o h => ih _ (hf o x h)
/-- A rise that can be made leaves a state with the invariant. -/
structure RiseKeeps (o : Option Rise) : Prop where
  all : ∀ r, o = some r → r.after.Inv

theorem RiseKeeps.inv {o : Option Rise} {r : Rise} (h : RiseKeeps o) (ho : o = some r) : r.after.Inv := h.all r ho
theorem RiseKeeps.findSome {α : Type} (l : List α) (f : α → Option Rise) (hf : ∀ x, RiseKeeps (f x)) :
    RiseKeeps (l.findSome? f) := by
  constructor
  intro u hu
  obtain ⟨x, -, hx⟩ := List.exists_of_findSome?_eq_some hu
  exact (hf x).all u hx

/-- A fold that carries more than the state. -/
theorem inv_foldl_fst {α β : Type} (f : State × β → α → State × β) (l : List α) (hf : ∀ p x, p.1.Inv → (f p x).1.Inv) :
    ∀ p : State × β, p.1.Inv → (l.foldl f p).1.Inv := by
  induction l with
  | nil => exact fun _ h => h
  | cons x l ih => exact fun p h => ih _ (hf p x h)

/-- A fold of a function that keeps the invariant. -/
theorem inv_foldl {α : Type} (f : State → α → State) (l : List α) (hf : ∀ s x, s.Inv → (f s x).Inv) :
    ∀ s : State, s.Inv → (l.foldl f s).Inv := by
  induction l with
  | nil => exact fun _ h => h
  | cons x l ih => exact fun s h => ih _ (hf s x h)

/-- A fold over members that keep the invariant. -/
theorem inv_foldl_mem {α : Type} (f : State → α → State) (l : List α) (hf : ∀ x ∈ l, ∀ s, s.Inv → (f s x).Inv) :
    ∀ s : State, s.Inv → (l.foldl f s).Inv := by
  induction l with
  | nil => exact fun _ h => h
  | cons x l ih =>
    exact fun s h => ih (fun y hy => hf y (List.mem_cons_of_mem _ hy)) _ (hf x List.mem_cons_self s h)

/-- The effects of a slot keep the invariant. -/
structure Eff.Keeps (f : Eff) : Prop where
  act : ∀ s, s.Inv → (f.act s).Inv
  post : ∀ s, s.Inv → (f.post s).Inv
  onHold : ∀ s, s.Inv → (f.onHold s).Inv

/-- The effects of a tile form's plan keep the invariant. -/
structure TPlan.Keeps (p : TPlan) : Prop where
  onHold : ∀ s, s.Inv → (p.onHold s).Inv
  also : ∀ s, s.Inv → (p.also s).Inv

/-- The effects of a form keep the invariant wherever it is issued. -/
structure SlotReq.Keeps (r : SlotReq) : Prop where
  eff : ∀ e, e.s.Inv → (r.eff e).Keeps

theorem Eff.keeps_none : ({} : Eff).Keeps := ⟨fun _ h => h, fun _ h => h, fun _ h => h⟩

/-- What a slot does in a bundle keeps the invariant when its form does. -/
theorem doneOf_keeps (e : Env) (leaf : Nat) (m : Bool) (r : SlotReq) (he : e.s.Inv) (hr : r.Keeps) :
    (doneOf e leaf m r).eff.Keeps := by
  unfold doneOf
  dsimp only
  split
  · split
    · exact hr.eff _ he
    · exact hr.eff _ he
  · exact Eff.keeps_none

end Sys2Proof.Machine
end

