-- ==== Sys2Proof/Laws/KeepOps.lean ====
section
/-! SUPPORT. Each of the operations over memory, contexts, traps and the issue of a bundle keeps the invariant of the machine: where it goes on, it does so in a state with it. -/

namespace Sys2Proof.Machine

set_option linter.all false

/-! ## Machine/Wit.lean -/

theorem State.takeSeq_inv (s : State) (agent dom wscope cid : Nat) (hs : s.Inv) : State.Inv (State.takeSeq s agent dom wscope cid).1 := hs

theorem State.formLevel_inv (s : State) (agent dom seq lvl : Nat) (hs : s.Inv) : State.Inv (State.formLevel s agent dom seq lvl) := hs

theorem State.pin_inv (s : State) (hs : s.Inv) : State.Inv (State.pin s) := hs

theorem State.formFail_inv (s : State) (agent dom seq : Nat) (hs : s.Inv) : State.Inv (State.formFail s agent dom seq) := hs

theorem State.failForm_inv (s : State) (agent dom seq epoch wscope cid : Nat) (hs : s.Inv) : State.Inv (State.failForm s agent dom seq epoch wscope cid) := by
  unfold State.failForm
  repeat' (first
    | with_reducible assumption
    | extract_lets
    | split
    | with_reducible apply State.pin_inv
    | with_reducible apply State.formFail_inv
    | (simp only [State.Inv.mk_iff]; with_reducible apply State.Inv.both))

/-! ## Machine/Mem.lean -/

theorem State.memWrite_inv (s : State) (ws : List (Nat × Byte)) (hs : s.Inv) : State.Inv (State.memWrite s ws) := by
  exact ⟨AL.wf_foldl_set _ _ _ _ _ hs.1, hs.2⟩

theorem State.clearPoison_inv (s : State) (ks : List Nat) (hs : s.Inv) : State.Inv (State.clearPoison s ks) := by
  unfold State.clearPoison
  repeat' (first
    | with_reducible assumption
    | split
    | (simp only [State.Inv.mk_iff]; with_reducible apply State.Inv.both))

theorem State.l2Set_inv (s : State) (t : Tag) (f : L2Line → L2Line) (hs : s.Inv) : State.Inv (State.l2Set s t f) := hs

theorem State.openLine_inv (s : State) (t : Tag) (via : List Byte) (hs : s.Inv) : State.Inv (State.openLine s t via) := by
  unfold State.openLine
  repeat' (first
    | with_reducible assumption
    | split
    | (simp only [State.Inv.mk_iff]; with_reducible apply State.Inv.both))

theorem State.setPrio_inv (s : State) (t : Tag) (n : Nat) (hs : s.Inv) : State.Inv (State.setPrio s t n) := hs

theorem State.translate_inv (s : State) (t : Tag) (va : Nat) (p : Perm) (dev : Bool) (hs : s.Inv) : Res.Keeps (State.translate s t va p dev) := by
  unfold State.translate
  repeat' (first
    | with_reducible assumption
    | extract_lets
    | split
    | with_reducible apply State.l2Set_inv
    | with_reducible apply State.openLine_inv
    | with_reducible apply Res.keeps_ok
    | with_reducible exact Res.keeps_wait
    | with_reducible exact MFault.res_inv _
    | (with_reducible refine State.linkRes_inv _ _ _ _ _ _ (by with_reducible assumption))
    | with_reducible exact Res.keeps_fault
    | dsimp +zetaDelta only)
  all_goals
    rename_i hr
    split at hr
    · exact State.linkRes_inv _ _ _ _ _ _ hr
    · cases hr

theorem State.translateT_inv (s : State) (t : Tag) (va : Nat) (p : Perm) (dev : Bool) (hs : s.Inv) : Res.Keeps (State.translateT s t va p dev) := by
  unfold State.translateT
  repeat' (first
    | with_reducible assumption
    | split
    | with_reducible apply State.translate_inv
    | with_reducible exact Res.keeps_wait
    | with_reducible exact Res.keeps_fault)

theorem State.trans_inv (s : State) (tr : Bool) (t : Tag) (va : Nat) (p : Perm) (dev : Bool) (hs : s.Inv) : Res.Keeps (State.trans s tr t va p dev) := by
  unfold State.trans
  repeat' (first
    | with_reducible assumption
    | split
    | with_reducible apply State.translate_inv
    | with_reducible apply State.translateT_inv)

theorem State.leaves_inv (s : State) (tr : Bool) (t : Tag) (p : Perm) (dev : Bool) (ps : List (Nat × Nat)) (hs : s.Inv) : Res.Keeps (State.leaves s tr t p dev ps) := by
  induction ps generalizing s with
  | nil =>
    unfold State.leaves
    repeat' (first
      | with_reducible assumption
      | with_reducible apply Res.keeps_ok)
  | cons p r ih =>
    unfold State.leaves
    repeat' (first
      | with_reducible assumption
      | with_reducible apply ih
      | extract_lets
      | split
      | with_reducible apply State.trans_inv
      | with_reducible apply Res.keeps_ok
      | with_reducible exact Res.keeps_wait
      | with_reducible exact Res.keeps_fault
      | (with_reducible refine Res.Keeps.inv ?_ (by with_reducible assumption)))

theorem State.writeBack_inv (s : State) (t : Tag) (hs : s.Inv) : State.Inv (State.writeBack s t) := by
  unfold State.writeBack
  split
  · exact hs
  · split
    · exact hs
    · exact ⟨AL.wf_foldl_set _ _ _ _ _ hs.1, hs.2⟩

theorem State.l1Keep_inv (s : State) (t : Tag) (ks : List Nat) (hs : s.Inv) : State.Inv (State.l1Keep s t ks) := hs

theorem State.refill_inv (s : State) (t : Tag) (hs : s.Inv) : State.Inv (State.refill s t) := by
  unfold State.refill
  repeat' (first
    | with_reducible assumption
    | extract_lets
    | split
    | with_reducible apply State.l2Set_inv
    | with_reducible apply State.writeBack_inv
    | with_reducible apply State.l1Keep_inv)

theorem State.refillAs_inv (s : State) (t : Tag) (via : List Byte) (hs : s.Inv) : State.Inv (State.refillAs s t via) := by
  unfold State.refillAs
  repeat' (first
    | with_reducible assumption
    | extract_lets
    | with_reducible apply State.l2Set_inv
    | with_reducible apply State.refill_inv)

theorem State.dropLine_inv (s : State) (t : Tag) (hs : s.Inv) : State.Inv (State.dropLine s t) := by
  unfold State.dropLine
  repeat' (first
    | with_reducible assumption
    | extract_lets
    | with_reducible apply State.refill_inv
    | (simp only [State.Inv.mk_iff]; with_reducible apply State.Inv.both))

theorem State.homeReady_inv (s : State) (t : Tag) (ws : List W64) (ls : List (PLeaf × Nat × Nat)) (hs : s.Inv) : Res.Keeps (State.homeReady s t ws ls) := by
  unfold State.homeReady
  repeat' (first
    | with_reducible assumption
    | extract_lets
    | split
    | with_reducible apply State.refill_inv
    | with_reducible apply Res.keeps_ok
    | (simp only [State.Inv.mk_iff]; with_reducible apply State.Inv.both)
    | dsimp +zetaDelta only)
  all_goals
    rename_i hr
    obtain ⟨x, -, hx⟩ := List.exists_of_findSome?_eq_some hr
    exact State.linkRes_inv _ _ _ _ _ _ hx

theorem State.readHome_inv (s : State) (t : Tag) (ws : List W64) (ls : List (PLeaf × Nat × Nat)) (hs : s.Inv) : Res.Keeps (State.readHome s t ws ls) := by
  unfold State.readHome
  repeat' (first
    | with_reducible assumption
    | extract_lets
    | split
    | with_reducible apply State.homeReady_inv
    | with_reducible apply Res.keeps_ok
    | with_reducible exact Res.keeps_wait
    | with_reducible exact Res.keeps_fault
    | (with_reducible refine Res.Keeps.inv ?_ (by with_reducible assumption)))

theorem State.l1Drop_inv (s : State) (core : Nat) (t : Tag) (hs : s.Inv) : State.Inv (State.l1Drop s core t) := hs

theorem State.l1Fill_inv (s : State) (core : Nat) (t : Tag) (hs : s.Inv) : State.Inv (State.l1Fill s core t) := by
  unfold State.l1Fill
  repeat' (first
    | with_reducible assumption
    | extract_lets
    | split
    | (simp only [State.Inv.mk_iff]; with_reducible apply State.Inv.both))

theorem State.readPast_inv (s : State) (tr : Bool) (fill : Option Nat) (t : Tag) (ws : List W64) (p : Perm) (dev : Bool) (ps : List (Nat × Nat)) (hs : s.Inv) : Res.Keeps (State.readPast s tr fill t ws p dev ps) := by
  unfold State.readPast
  repeat' (first
    | with_reducible assumption
    | extract_lets
    | split
    | with_reducible apply State.leaves_inv
    | with_reducible apply State.readHome_inv
    | with_reducible apply State.l1Fill_inv
    | with_reducible apply Res.keeps_ok
    | with_reducible exact Res.keeps_wait
    | with_reducible exact Res.keeps_fault
    | (with_reducible refine Res.Keeps.inv ?_ (by with_reducible assumption)))

theorem State.readPlain_inv (s : State) (tr : Bool) (core : Nat) (t : Tag) (ws : List W64) (alloc : Bool) (ps : List (Nat × Nat)) (hs : s.Inv) : Res.Keeps (State.readPlain s tr core t ws alloc ps) := by
  unfold State.readPlain
  repeat' (first
    | with_reducible assumption
    | extract_lets
    | split
    | with_reducible apply State.l1Drop_inv
    | with_reducible apply State.readPast_inv
    | with_reducible apply Res.keeps_ok
    | with_reducible exact Res.keeps_wait
    | with_reducible exact MFault.res_inv _
    | with_reducible exact Res.keeps_fault
    | (simp only [State.Inv.mk_iff]; with_reducible apply State.Inv.both)
    | dsimp +zetaDelta only)

theorem State.writeHome_inv (s : State) (t : Tag) (l : PLeaf) (ws : List (Nat × Byte)) (hs : s.Inv) : State.Inv (State.writeHome s t l ws) := by
  unfold State.writeHome
  repeat' (first
    | with_reducible assumption
    | extract_lets
    | split
    | with_reducible apply State.memWrite_inv
    | with_reducible apply State.clearPoison_inv
    | with_reducible apply State.l2Set_inv
    | with_reducible apply State.l1Keep_inv)

/-! ## Machine/Ops.lean -/

theorem State.setCtx_inv (s : State) (a : Nat) (c : Ctx) (hs : s.Inv) : State.Inv (State.setCtx s a c) := hs

theorem State.onCtx_inv (s : State) (a : Nat) (f : Ctx → Ctx) (hs : s.Inv) : State.Inv (State.onCtx s a f) := by
  unfold State.onCtx
  repeat' (first
    | with_reducible assumption
    | split
    | with_reducible apply State.setCtx_inv)

theorem State.landOne_inv (s : State) (a : Nat) (p : Pend) (hs : s.Inv) : State.Inv (State.landOne s a p) := by
  unfold State.landOne
  repeat' (first
    | with_reducible assumption
    | extract_lets
    | split
    | with_reducible apply State.clearPoison_inv
    | with_reducible apply State.onCtx_inv
    | (simp only [State.Inv.mk_iff]; with_reducible apply State.Inv.both)
    | dsimp +zetaDelta only)

theorem State.landDue_inv (s : State) (a : Nat) (hs : s.Inv) : State.Inv (State.landDue s a) := by
  unfold State.landDue
  repeat' (first
    | with_reducible assumption
    | extract_lets
    | intro _
    | split
    | with_reducible apply State.onCtx_inv
    | with_reducible apply State.landOne_inv
    | with_reducible apply inv_foldl)

theorem State.readFlatPieces_inv (s : State) (dom : Nat) (p : Perm) (ws : List W64) (ps : List (Nat × Nat)) (hs : s.Inv) : Res.Keeps (State.readFlatPieces s dom p ws ps) := by
  induction ps generalizing s with
  | nil =>
    unfold State.readFlatPieces
    repeat' (first
      | with_reducible assumption
      | with_reducible apply Res.keeps_ok)
  | cons p r ih =>
    unfold State.readFlatPieces
    repeat' (first
      | with_reducible assumption
      | with_reducible apply ih
      | extract_lets
      | split
      | with_reducible apply State.readPast_inv
      | with_reducible apply Res.keeps_ok
      | with_reducible exact Res.keeps_wait
      | with_reducible exact Res.keeps_fault
      | (with_reducible refine Res.Keeps.inv ?_ (by with_reducible assumption)))

theorem State.readFlat_inv (s : State) (dom : Nat) (p : Perm) (ws : List W64) (va n : Nat) (hs : s.Inv) : Res.Keeps (State.readFlat s dom p ws va n) := by
  unfold State.readFlat
  repeat' (first
    | with_reducible assumption
    | with_reducible apply State.readFlatPieces_inv)

theorem State.writeFlat_inv (s : State) (dom va : Nat) (bs : List Byte) (hs : s.Inv) : Res.Keeps (State.writeFlat s dom va bs) := by
  unfold State.writeFlat
  repeat' (first
    | with_reducible assumption
    | extract_lets
    | split
    | with_reducible apply State.translate_inv
    | with_reducible apply State.writeHome_inv
    | with_reducible apply Res.keeps_ok
    | with_reducible exact Res.keeps_wait
    | with_reducible exact Res.keeps_fault
    | (with_reducible refine Res.Keeps.inv ?_ (by with_reducible assumption)))

theorem State.readVia_inv (s : State) (tr : Bool) (core : Option Nat) (t : Tag) (ws : List W64) (ps : List (Nat × Nat)) (hs : s.Inv) : Res.Keeps (State.readVia s tr core t ws ps) := by
  induction ps generalizing s with
  | nil =>
    unfold State.readVia
    repeat' (first
      | with_reducible assumption
      | split
      | with_reducible apply State.readPast_inv
      | with_reducible apply State.readPlain_inv)
  | cons p r ih =>
    unfold State.readVia
    repeat' (first
      | with_reducible assumption
      | split
      | with_reducible apply State.readPast_inv
      | with_reducible apply State.readPlain_inv)

theorem State.putLeaves_inv (s : State) (t : Tag) (ls : List (PLeaf × Nat × Nat)) (bs : List Byte) (hs : s.Inv) : State.Inv (State.putLeaves s t ls bs) := by
  induction ls generalizing s bs with
  | nil =>
    unfold State.putLeaves
    repeat' (first
      | with_reducible assumption)
  | cons p r ih =>
    unfold State.putLeaves
    repeat' (first
      | with_reducible assumption
      | with_reducible apply ih
      | extract_lets
      | with_reducible apply State.writeHome_inv)

theorem State.writeVia_inv (s : State) (tr : Bool) (t : Tag) (va : Nat) (bs : List Byte) (hs : s.Inv) : Res.Keeps (State.writeVia s tr t va bs) := by
  unfold State.writeVia
  repeat' (first
    | with_reducible assumption
    | extract_lets
    | split
    | with_reducible apply State.leaves_inv
    | with_reducible apply State.putLeaves_inv
    | with_reducible apply Res.keeps_ok
    | with_reducible exact Res.keeps_wait
    | with_reducible exact Res.keeps_fault
    | (with_reducible refine Res.Keeps.inv ?_ (by with_reducible assumption)))

theorem State.readFlatVia_inv (s : State) (tr : Bool) (core : Option Nat) (dom : Nat) (ws : List W64) (ps : List (Nat × Nat)) (hs : s.Inv) : Res.Keeps (State.readFlatVia s tr core dom ws ps) := by
  induction ps generalizing s with
  | nil =>
    unfold State.readFlatVia
    repeat' (first
      | with_reducible assumption
      | with_reducible apply Res.keeps_ok)
  | cons p r ih =>
    unfold State.readFlatVia
    repeat' (first
      | with_reducible assumption
      | with_reducible apply ih
      | extract_lets
      | split
      | with_reducible apply State.readVia_inv
      | with_reducible apply Res.keeps_ok
      | with_reducible exact Res.keeps_wait
      | with_reducible exact Res.keeps_fault
      | (with_reducible refine Res.Keeps.inv ?_ (by with_reducible assumption)))

theorem State.writeFlatVia_inv (s : State) (tr : Bool) (dom : Nat) (ps : List (Nat × Nat)) (bs : List Byte) (hs : s.Inv) : State.Inv (State.writeFlatVia s tr dom ps bs).1 := by
  induction ps generalizing s bs with
  | nil =>
    unfold State.writeFlatVia
    repeat' (first
      | with_reducible assumption)
  | cons p r ih =>
    unfold State.writeFlatVia
    repeat' (first
      | with_reducible assumption
      | with_reducible apply ih
      | extract_lets
      | split
      | with_reducible apply State.writeVia_inv
      | (with_reducible refine Res.Keeps.inv ?_ (by with_reducible assumption)))

theorem State.wroteLines_inv (s : State) (agent cid dom scope : Nat) (seq : Option Nat) (pos : CodePos) (tags : List Tag) (hs : s.Inv) : State.Inv (State.wroteLines s agent cid dom scope seq pos tags) := by
  unfold State.wroteLines
  repeat' (first
    | with_reducible assumption
    | extract_lets
    | split
    | with_reducible apply State.formLevel_inv
    | (simp only [State.Inv.mk_iff]; with_reducible apply State.Inv.both)
    | dsimp +zetaDelta only)

theorem State.fwWrite_inv (s : State) (pa : Nat) (bs : List Byte) (hs : s.Inv) : State.Inv (State.fwWrite s pa bs) := by
  unfold State.fwWrite
  repeat' (first
    | with_reducible assumption
    | extract_lets
    | with_reducible apply State.memWrite_inv
    | with_reducible apply State.clearPoison_inv)

theorem State.ringAppend_inv (s : State) (hdr : Nat) (size : Nat) (bs : List Byte) (hs : s.Inv) : State.Inv (State.ringAppend s hdr size bs) := by
  unfold State.ringAppend
  repeat' (first
    | with_reducible assumption
    | extract_lets
    | with_reducible apply State.fwWrite_inv)

theorem State.errRecord_inv (s : State) (kind : Nat) (unit : BitVec 32) (domB count addr detail : Nat) (hs : s.Inv) : State.Inv (State.errRecord s kind unit domB count addr detail) := by
  unfold State.errRecord
  repeat' (first
    | with_reducible assumption
    | extract_lets
    | with_reducible apply State.ringAppend_inv
    | (simp only [State.Inv.mk_iff]; with_reducible apply State.Inv.both))

theorem State.journal_inv (s : State) (queue state : Nat) (tag : BitVec 32) (kind status : Nat) (hash : W64) (hs : s.Inv) : State.Inv (State.journal s queue state tag kind status hash) := by
  unfold State.journal
  repeat' (first
    | with_reducible assumption
    | with_reducible apply State.ringAppend_inv)

theorem State.onTask_inv (s : State) (id : Nat) (f : Task → Task) (hs : s.Inv) : State.Inv (State.onTask s id f) := hs

theorem State.enter_inv (s : State) (id : Nat) (st : TState) (cls detail : Nat) (hash : W64) (hs : s.Inv) : State.Inv (State.enter s id st cls detail hash) := by
  unfold State.enter
  repeat' (first
    | with_reducible assumption
    | extract_lets
    | split
    | with_reducible apply State.journal_inv
    | with_reducible apply State.onTask_inv)

theorem State.onInst_inv (s : State) (task num : Nat) (f : GInst → GInst) (hs : s.Inv) : State.Inv (State.onInst s task num f) := hs

theorem State.account_inv (s : State) (c : Ctx) (hs : s.Inv) : State.Inv (State.account s c) := hs

theorem State.unlock_inv (s : State) (cid : Nat) (hs : s.Inv) : State.Inv (State.unlock s cid) := hs

theorem State.failOps_inv (s : State) (pd : Nat) (ops : List TOp) (hs : s.Inv) : State.Inv (State.failOps s pd ops) := by
  unfold State.failOps
  repeat' (first
    | with_reducible assumption
    | extract_lets
    | intro _
    | split
    | with_reducible apply State.formFail_inv
    | with_reducible apply inv_foldl)

theorem State.noteFormFault_inv (s : State) (cid detail : Nat) (hs : s.Inv) : State.Inv (State.noteFormFault s cid detail) := by
  unfold State.noteFormFault
  repeat' (first
    | with_reducible assumption
    | split
    | with_reducible apply State.onTask_inv)

theorem State.markDeck_inv (s : State) (core : Nat) (hs : s.Inv) : State.Inv (State.markDeck s core) := by
  unfold State.markDeck
  repeat' (first
    | with_reducible assumption
    | extract_lets
    | intro _
    | with_reducible apply inv_foldl
    | (simp only [State.Inv.mk_iff]; with_reducible apply State.Inv.both))

theorem State.onCore_inv (s : State) (core : Nat) (f : CoreSt → CoreSt) (hs : s.Inv) : State.Inv (State.onCore s core f) := hs

theorem State.returnChunks_inv (s : State) (q n base : Nat) (hs : s.Inv) : State.Inv (State.returnChunks s q n base) := by
  unfold State.returnChunks
  repeat' (first
    | with_reducible assumption
    | split
    | (simp only [State.Inv.mk_iff]; with_reducible apply State.Inv.both))

theorem State.dropEpis_inv (s : State) (core : Nat) (keys : List Nat) (hs : s.Inv) : State.Inv (State.dropEpis s core keys) := by
  unfold State.dropEpis
  repeat' (first
    | with_reducible assumption
    | extract_lets
    | with_reducible apply State.onCore_inv
    | with_reducible apply State.returnChunks_inv)

theorem State.settleGrads_inv (s : State) (hs : s.Inv) : State.Inv (State.settleGrads s) := hs

theorem State.progress_inv (s : State) (die : Nat) (hs : s.Inv) : State.Inv (State.progress s die) := hs

theorem State.countLast_inv (s : State) (e : Nat × Ctx) (hs : s.Inv) : State.Inv (State.countLast s e) := by
  unfold State.countLast
  repeat' (first
    | with_reducible assumption
    | split
    | (simp only [State.Inv.mk_iff]; with_reducible apply State.Inv.both))

theorem State.retireCtx_inv (s : State) (a : Nat) (hs : s.Inv) : State.Inv (State.retireCtx s a) := by
  unfold State.retireCtx
  repeat' (first
    | with_reducible assumption
    | extract_lets
    | split
    | with_reducible apply State.account_inv
    | with_reducible apply State.unlock_inv
    | with_reducible apply State.markDeck_inv
    | with_reducible apply State.countLast_inv
    | (simp only [State.Inv.mk_iff]; with_reducible apply State.Inv.both))

theorem State.freeSlotOf_inv (s : State) (a : Nat) (hs : s.Inv) : State.Inv (State.freeSlotOf s a) := by
  unfold State.freeSlotOf
  repeat' (first
    | with_reducible assumption
    | extract_lets
    | split
    | with_reducible apply State.markDeck_inv
    | with_reducible apply State.onCore_inv
    | with_reducible apply State.countLast_inv
    | (simp only [State.Inv.mk_iff]; with_reducible apply State.Inv.both))

theorem State.writeRecord_inv (s : State) (a : Nat) (c : Ctx) (r : TrapRec) (hs : s.Inv) : Res.Keeps (State.writeRecord s a c r) := by
  unfold State.writeRecord
  repeat' (first
    | with_reducible assumption
    | extract_lets
    | split
    | with_reducible apply State.writeFlat_inv
    | with_reducible apply State.wroteLines_inv
    | with_reducible apply Res.keeps_ok
    | with_reducible exact Res.keeps_wait
    | with_reducible exact Res.keeps_fault
    | (with_reducible refine Res.Keeps.inv ?_ (by with_reducible assumption)))

theorem State.recordLater_inv (s : State) (a : Nat) (c : Ctx) (r : TrapRec) (hs : s.Inv) : State.Inv (State.recordLater s a c r) := hs

theorem State.clearLatches_inv (s : State) (task inst : Nat) (hs : s.Inv) : State.Inv (State.clearLatches s task inst) := hs

theorem State.dropEarly_inv (s : State) (cids : List Nat) (hs : s.Inv) : State.Inv (State.dropEarly s cids) := by
  unfold State.dropEarly
  repeat' (first
    | with_reducible assumption
    | extract_lets
    | intro _
    | with_reducible apply State.formFail_inv
    | with_reducible apply inv_foldl
    | (simp only [State.Inv.mk_iff]; with_reducible apply State.Inv.both)
    | dsimp +zetaDelta only)

theorem State.stopInst_inv (s : State) (g : GInst) (hs : s.Inv) : State.Inv (State.stopInst s g) := by
  unfold State.stopInst
  repeat' (first
    | with_reducible assumption
    | extract_lets
    | intro _
    | with_reducible apply State.onInst_inv
    | with_reducible apply State.failOps_inv
    | with_reducible apply State.dropEpis_inv
    | with_reducible apply State.settleGrads_inv
    | with_reducible apply State.retireCtx_inv
    | with_reducible apply State.clearLatches_inv
    | with_reducible apply State.dropEarly_inv
    | with_reducible apply inv_foldl
    | (simp only [State.Inv.mk_iff]; with_reducible apply State.Inv.both)
    | dsimp +zetaDelta only)

theorem State.abortInst_inv (s : State) (task num : Nat) (raiser : Option Nat) (r : TrapRec) (hs : s.Inv) : State.Inv (State.abortInst s task num raiser r) := by
  unfold State.abortInst
  repeat' (first
    | with_reducible assumption
    | extract_lets
    | split
    | with_reducible apply State.ringAppend_inv
    | with_reducible apply State.onTask_inv
    | with_reducible apply State.writeRecord_inv
    | with_reducible apply State.recordLater_inv
    | with_reducible apply State.stopInst_inv
    | (with_reducible refine Res.Keeps.inv ?_ (by with_reducible assumption))
    | dsimp +zetaDelta only)

theorem State.fetchSeg_inv (s : State) (dom seg : Nat) (hs : s.Inv) : Res.Keeps (State.fetchSeg s dom seg) := by
  unfold State.fetchSeg
  repeat' (first
    | with_reducible assumption
    | extract_lets
    | split
    | with_reducible apply State.readFlat_inv
    | with_reducible apply Res.keeps_ok
    | with_reducible exact Res.keeps_wait
    | with_reducible exact Res.keeps_fault
    | (with_reducible refine Res.Keeps.inv ?_ (by with_reducible assumption)))

theorem State.clearKey_inv (s : State) (k : Nat) (hs : s.Inv) : State.Inv (State.clearKey s k) := by
  unfold State.clearKey
  repeat' (first
    | with_reducible assumption
    | (simp only [State.Inv.mk_iff]; with_reducible apply State.Inv.both))

theorem State.segment_inv (s : State) (a : Nat) (seg : Nat) (hs : s.Inv) : Res.Keeps (State.segment s a seg) := by
  unfold State.segment
  repeat' (first
    | with_reducible assumption
    | extract_lets
    | split
    | with_reducible apply State.onCtx_inv
    | with_reducible apply State.fetchSeg_inv
    | with_reducible apply State.clearKey_inv
    | with_reducible apply Res.keeps_ok
    | with_reducible exact Res.keeps_wait
    | with_reducible exact Res.keeps_fault
    | (with_reducible refine Res.Keeps.inv ?_ (by with_reducible assumption)))

theorem State.target_inv (s : State) (a : Nat) (p : CodePos) (hs : s.Inv) : Res.Keeps (State.target s a p) := by
  unfold State.target
  repeat' (first
    | with_reducible assumption
    | extract_lets
    | split
    | with_reducible apply State.segment_inv
    | with_reducible apply Res.keeps_ok
    | with_reducible exact Res.keeps_wait
    | with_reducible exact Res.keeps_fault
    | (with_reducible refine Res.Keeps.inv ?_ (by with_reducible assumption)))

theorem State.takeTrap_inv (s : State) (a : Nat) (r : TrapRec) (replay : List TOp) (again : Bool) (hs : s.Inv) : State.Inv (State.takeTrap s a r replay again) := by
  unfold State.takeTrap
  repeat' (first
    | with_reducible assumption
    | extract_lets
    | split
    | with_reducible apply State.onCtx_inv
    | with_reducible apply State.failOps_inv
    | with_reducible apply State.abortInst_inv
    | with_reducible apply State.target_inv
    | (with_reducible refine Res.Keeps.inv ?_ (by with_reducible assumption))
    | dsimp +zetaDelta only)
  all_goals
    have hw := ‹(if _ then some (some s) else _) = some (some _)›
    split at hw
    · cases hw; exact hs
    · split at hw <;> cases hw
      exact Res.Keeps.inv (State.writeRecord_inv _ _ _ _ hs) ‹_›

theorem State.machineEvent_inv (s : State) (a : Nat) (pos : CodePos) (slots : BitVec 8) (tseq : Option Nat) (aux faddr : Nat) (unit : BitVec 32) (hs : s.Inv) : State.Inv (State.machineEvent s a pos slots tseq aux faddr unit) := by
  unfold State.machineEvent
  repeat' (first
    | with_reducible assumption
    | split
    | with_reducible apply State.abortInst_inv)

theorem State.returnTrap_inv (s : State) (a : Nat) (hs : s.Inv) : State.Inv (State.returnTrap s a) := by
  unfold State.returnTrap
  repeat' (first
    | with_reducible assumption
    | extract_lets
    | split
    | with_reducible apply State.setCtx_inv
    | (simp only [State.Inv.mk_iff]; with_reducible apply State.Inv.both))

/-! ## Machine/Issue.lean -/

theorem trapAt_inv (e : Env) (info : TrapInfo) (he : e.s.Inv) : State.Inv (trapAt e info) := by
  unfold trapAt
  repeat' (first
    | with_reducible assumption
    | extract_lets
    | split
    | with_reducible apply State.abortInst_inv
    | with_reducible apply State.takeTrap_inv)

theorem bundleFault_inv (e : Env) (cause aux : Nat) (slots : BitVec 8) (he : e.s.Inv) : State.Inv (bundleFault e cause aux slots) := by
  unfold bundleFault
  repeat' (first
    | with_reducible assumption
    | with_reducible apply trapAt_inv)

theorem State.drainStat_inv (s : State) (a : Nat) (hs : s.Inv) : State.Inv (State.drainStat s a) := by
  unfold State.drainStat
  repeat' (first
    | with_reducible assumption
    | extract_lets
    | split
    | with_reducible apply State.setCtx_inv
    | (simp only [State.Inv.mk_iff]; with_reducible apply State.Inv.both))

theorem State.markRunning_inv (s : State) (task : Nat) (hs : s.Inv) : State.Inv (State.markRunning s task) := by
  unfold State.markRunning
  repeat' (first
    | with_reducible assumption
    | split
    | with_reducible apply State.enter_inv)

theorem State.retireTeams_inv (s : State) (task num : Nat) (hs : s.Inv) : State.Inv (State.retireTeams s task num) := by
  unfold State.retireTeams
  repeat' (first
    | with_reducible assumption
    | extract_lets
    | intro _
    | split
    | with_reducible apply State.onInst_inv
    | with_reducible apply State.freeSlotOf_inv
    | with_reducible apply State.clearLatches_inv
    | with_reducible apply inv_foldl
    | (simp only [State.Inv.mk_iff]; with_reducible apply State.Inv.both))

theorem State.exitCtx_inv (s : State) (a : Nat) (hs : s.Inv) : State.Inv (State.exitCtx s a) := by
  unfold State.exitCtx
  repeat' (first
    | with_reducible assumption
    | extract_lets
    | intro _
    | split
    | with_reducible apply State.onCtx_inv
    | with_reducible apply State.landOne_inv
    | with_reducible apply State.onInst_inv
    | with_reducible apply State.account_inv
    | with_reducible apply State.unlock_inv
    | with_reducible apply State.failOps_inv
    | with_reducible apply State.noteFormFault_inv
    | with_reducible apply State.retireTeams_inv
    | with_reducible apply inv_foldl
    | (simp only [State.Inv.mk_iff]; with_reducible apply State.Inv.both)
    | dsimp +zetaDelta only)

theorem commitBundle_inv (e : Env) (ds : List Done) (he : e.s.Inv) (hds : ∀ d ∈ ds, d.eff.Keeps) : State.Inv (commitBundle e ds) := by
  have h1 : (ds.foldl (fun s d => if d.runs then d.eff.act s else s) e.s).Inv := by
    apply inv_foldl_mem _ _ _ _ he
    intro d hd s h
    split
    · exact (hds d hd).act s h
    · exact h
  have h2 : ∀ s : State, s.Inv → (ds.reverse.foldl (fun s d => if d.runs then d.eff.post s else s) s).Inv := by
    apply inv_foldl_mem
    intro d hd s h
    split
    · exact (hds d (List.mem_reverse.mp hd)).post s h
    · exact h
  unfold commitBundle
  extract_lets nx s0 s1 np energy s2 s4
  have hs1 : s1.Inv := by
    show (if _ then s0 else s0.drainStat e.a).Inv
    split
    · exact h1
    · exact State.drainStat_inv _ _ h1
  have hs4 : s4.Inv := State.progress_inv _ _ (State.markRunning_inv _ _ (h2 _ (State.onCtx_inv _ _ _ hs1)))
  clear_value nx s4
  split
  · split
    · exact hs4
    · exact State.takeTrap_inv _ _ _ _ _ (State.setCtx_inv _ _ _ hs4)
  · exact State.exitCtx_inv _ _ hs4
  · exact hs4

theorem holdBundle_inv (e : Env) (ds : List Done) (he : e.s.Inv) (hds : ∀ d ∈ ds, d.eff.Keeps) : State.Inv (holdBundle e ds) := by
  unfold holdBundle
  apply State.onCtx_inv
  apply inv_foldl_mem _ _ _ _ he
  intro d hd s h
  split
  · exact (hds d hd).onHold s h
  · exact h

theorem issueLegal_inv (e : Env) (ds : List Done) (he : e.s.Inv) (hds : ∀ d ∈ ds, d.eff.Keeps) : State.Inv (issueLegal e ds) := by
  have hp : ∀ s, (e.regPoison ds).map (trapAt e) = some s → s.Inv := by
    intro s h
    obtain ⟨i, -, rfl⟩ := Option.map_eq_some_iff.mp h
    exact trapAt_inv _ _ he
  unfold issueLegal
  repeat' (first
    | with_reducible assumption
    | (refine hp _ ?_; with_reducible assumption)
    | extract_lets
    | split
    | with_reducible apply trapAt_inv
    | with_reducible apply State.onCtx_inv
    | exact commitBundle_inv _ _ he hds
    | exact holdBundle_inv _ _ he hds
    | exact holdBundle_inv _ _ he fun d h => hds d (List.mem_filter.mp h).1)

theorem issueIn_inv (e : Env) (reqs : List SlotReq) (he : e.s.Inv) (hreqs : ∀ r ∈ reqs, r.Keeps) : State.Inv (issueIn e reqs) := by
  have hd : ∀ leaf m, ∀ d ∈ reqs.map (doneOf e leaf m), d.eff.Keeps := by
    intro leaf m d h
    obtain ⟨r, hr, rfl⟩ := List.mem_map.mp h
    exact doneOf_keeps _ _ _ _ he (hreqs r hr)
  unfold issueIn
  repeat' (first
    | with_reducible assumption
    | extract_lets
    | split
    | with_reducible apply bundleFault_inv
    | (apply issueLegal_inv _ _ he; exact hd _ _))

theorem State.env_inv (s : State) (a : Nat) (half : Half) (seqPos : CodePos) (e : Env) (hs : s.Inv) (h : s.env a half seqPos = some e) :
    e.s.Inv := by
  unfold State.env at h
  split at h
  · cases h
  · split at h
    · cases h
    · extract_lets at h
      split at h
      · cases h
      · cases h
        exact State.landDue_inv _ _ hs

theorem State.issuing_inv (s : State) (lits : Nat) (e : Env) (hs : s.Inv) (h : s.issuing lits = some e) : e.s.Inv := by
  unfold State.issuing at h
  split at h
  · cases h
  · split at h
    · cases h
    · exact State.env_inv _ _ _ _ e hs h

theorem issueForm_inv (lits : Nat) (r : SlotReq) (s : State) (hr : r.Keeps) (hs : s.Inv) : OutKeeps (issueForm lits r s) := by
  unfold issueForm
  split
  · exact OutKeeps.fault
  · split
    · exact OutKeeps.fault
    · split
      · split
        · exact OutKeeps.next (State.machineEvent_inv _ _ _ _ _ _ _ _ hs)
        · exact OutKeeps.next hs
      · exact OutKeeps.next (issueIn_inv _ _ (s.issuing_inv _ _ hs ‹_›) (by simpa using hr))

end Sys2Proof.Machine
end

