-- ==== Sys2Proof/Laws/KeepForms.lean ====
section
/-! SUPPORT. Each of the forms of the six slots, their meanings, and the issue of a bundle of a segment keeps the invariant of the machine: where it goes on, it does so in a state with it. -/

namespace Sys2Proof.Machine

set_option linter.all false

/-! ## Machine/Scalar.lean -/

theorem sReq_inv (m : Mask) (sd lat energy : Nat) (v : Env → W64) : SlotReq.Keeps (sReq m sd lat energy v) :=
  ⟨fun _ _ => ⟨fun _ h => h, fun _ h => h, fun _ h => h⟩⟩

theorem qReq_inv (m : Mask) (qd : Nat) (v : Env → Bool) : SlotReq.Keeps (qReq m qd v) :=
  ⟨fun _ _ => ⟨fun _ h => h, fun _ h => h, fun _ h => h⟩⟩

theorem reqAdd_inv (m : Mask) (sd : BitVec 6) (sa : BitVec 6) (b : SOp) : SlotReq.Keeps (reqAdd m sd sa b) :=
  ⟨fun _ _ => ⟨fun _ h => h, fun _ h => h, fun _ h => h⟩⟩

theorem execAdd_inv (m : Mask) (sd : BitVec 6) (sa : BitVec 6) (b : SOp) (s : State) (hs : s.Inv) : OutKeeps (execAdd m sd sa b s) :=
  issueForm_inv _ _ _ (reqAdd_inv ..) hs

theorem reqSub_inv (m : Mask) (sd : BitVec 6) (sa : BitVec 6) (b : SOp) : SlotReq.Keeps (reqSub m sd sa b) :=
  ⟨fun _ _ => ⟨fun _ h => h, fun _ h => h, fun _ h => h⟩⟩

theorem execSub_inv (m : Mask) (sd : BitVec 6) (sa : BitVec 6) (b : SOp) (s : State) (hs : s.Inv) : OutKeeps (execSub m sd sa b s) :=
  issueForm_inv _ _ _ (reqSub_inv ..) hs

theorem reqMul_inv (m : Mask) (sd : BitVec 6) (sa : BitVec 6) (b : SOp) : SlotReq.Keeps (reqMul m sd sa b) :=
  ⟨fun _ _ => ⟨fun _ h => h, fun _ h => h, fun _ h => h⟩⟩

theorem execMul_inv (m : Mask) (sd : BitVec 6) (sa : BitVec 6) (b : SOp) (s : State) (hs : s.Inv) : OutKeeps (execMul m sd sa b s) :=
  issueForm_inv _ _ _ (reqMul_inv ..) hs

theorem reqMulh_inv (m : Mask) (sd : BitVec 6) (sa : BitVec 6) (b : SOp) : SlotReq.Keeps (reqMulh m sd sa b) :=
  ⟨fun _ _ => ⟨fun _ h => h, fun _ h => h, fun _ h => h⟩⟩

theorem execMulh_inv (m : Mask) (sd : BitVec 6) (sa : BitVec 6) (b : SOp) (s : State) (hs : s.Inv) : OutKeeps (execMulh m sd sa b s) :=
  issueForm_inv _ _ _ (reqMulh_inv ..) hs

theorem reqMulhn_inv (m : Mask) (sd : BitVec 6) (sa : BitVec 6) (b : SOp) : SlotReq.Keeps (reqMulhn m sd sa b) :=
  ⟨fun _ _ => ⟨fun _ h => h, fun _ h => h, fun _ h => h⟩⟩

theorem execMulhn_inv (m : Mask) (sd : BitVec 6) (sa : BitVec 6) (b : SOp) (s : State) (hs : s.Inv) : OutKeeps (execMulhn m sd sa b s) :=
  issueForm_inv _ _ _ (reqMulhn_inv ..) hs

theorem reqDiv_inv (m : Mask) (sd : BitVec 6) (sa : BitVec 6) (b : SOp) : SlotReq.Keeps (reqDiv m sd sa b) :=
  ⟨fun _ _ => ⟨fun _ h => h, fun _ h => h, fun _ h => h⟩⟩

theorem execDiv_inv (m : Mask) (sd : BitVec 6) (sa : BitVec 6) (b : SOp) (s : State) (hs : s.Inv) : OutKeeps (execDiv m sd sa b s) :=
  issueForm_inv _ _ _ (reqDiv_inv ..) hs

theorem reqDivn_inv (m : Mask) (sd : BitVec 6) (sa : BitVec 6) (b : SOp) : SlotReq.Keeps (reqDivn m sd sa b) :=
  ⟨fun _ _ => ⟨fun _ h => h, fun _ h => h, fun _ h => h⟩⟩

theorem execDivn_inv (m : Mask) (sd : BitVec 6) (sa : BitVec 6) (b : SOp) (s : State) (hs : s.Inv) : OutKeeps (execDivn m sd sa b s) :=
  issueForm_inv _ _ _ (reqDivn_inv ..) hs

theorem reqRem_inv (m : Mask) (sd : BitVec 6) (sa : BitVec 6) (b : SOp) : SlotReq.Keeps (reqRem m sd sa b) :=
  ⟨fun _ _ => ⟨fun _ h => h, fun _ h => h, fun _ h => h⟩⟩

theorem execRem_inv (m : Mask) (sd : BitVec 6) (sa : BitVec 6) (b : SOp) (s : State) (hs : s.Inv) : OutKeeps (execRem m sd sa b s) :=
  issueForm_inv _ _ _ (reqRem_inv ..) hs

theorem reqRemn_inv (m : Mask) (sd : BitVec 6) (sa : BitVec 6) (b : SOp) : SlotReq.Keeps (reqRemn m sd sa b) :=
  ⟨fun _ _ => ⟨fun _ h => h, fun _ h => h, fun _ h => h⟩⟩

theorem execRemn_inv (m : Mask) (sd : BitVec 6) (sa : BitVec 6) (b : SOp) (s : State) (hs : s.Inv) : OutKeeps (execRemn m sd sa b s) :=
  issueForm_inv _ _ _ (reqRemn_inv ..) hs

theorem reqAnd_inv (m : Mask) (sd : BitVec 6) (sa : BitVec 6) (b : SOp) : SlotReq.Keeps (reqAnd m sd sa b) :=
  ⟨fun _ _ => ⟨fun _ h => h, fun _ h => h, fun _ h => h⟩⟩

theorem execAnd_inv (m : Mask) (sd : BitVec 6) (sa : BitVec 6) (b : SOp) (s : State) (hs : s.Inv) : OutKeeps (execAnd m sd sa b s) :=
  issueForm_inv _ _ _ (reqAnd_inv ..) hs

theorem reqOr_inv (m : Mask) (sd : BitVec 6) (sa : BitVec 6) (b : SOp) : SlotReq.Keeps (reqOr m sd sa b) :=
  ⟨fun _ _ => ⟨fun _ h => h, fun _ h => h, fun _ h => h⟩⟩

theorem execOr_inv (m : Mask) (sd : BitVec 6) (sa : BitVec 6) (b : SOp) (s : State) (hs : s.Inv) : OutKeeps (execOr m sd sa b s) :=
  issueForm_inv _ _ _ (reqOr_inv ..) hs

theorem reqXor_inv (m : Mask) (sd : BitVec 6) (sa : BitVec 6) (b : SOp) : SlotReq.Keeps (reqXor m sd sa b) :=
  ⟨fun _ _ => ⟨fun _ h => h, fun _ h => h, fun _ h => h⟩⟩

theorem execXor_inv (m : Mask) (sd : BitVec 6) (sa : BitVec 6) (b : SOp) (s : State) (hs : s.Inv) : OutKeeps (execXor m sd sa b s) :=
  issueForm_inv _ _ _ (reqXor_inv ..) hs

theorem reqAndn_inv (m : Mask) (sd : BitVec 6) (sa : BitVec 6) (b : SOp) : SlotReq.Keeps (reqAndn m sd sa b) :=
  ⟨fun _ _ => ⟨fun _ h => h, fun _ h => h, fun _ h => h⟩⟩

theorem execAndn_inv (m : Mask) (sd : BitVec 6) (sa : BitVec 6) (b : SOp) (s : State) (hs : s.Inv) : OutKeeps (execAndn m sd sa b s) :=
  issueForm_inv _ _ _ (reqAndn_inv ..) hs

theorem reqShl_inv (m : Mask) (sd : BitVec 6) (sa : BitVec 6) (b : SOp) : SlotReq.Keeps (reqShl m sd sa b) :=
  ⟨fun _ _ => ⟨fun _ h => h, fun _ h => h, fun _ h => h⟩⟩

theorem execShl_inv (m : Mask) (sd : BitVec 6) (sa : BitVec 6) (b : SOp) (s : State) (hs : s.Inv) : OutKeeps (execShl m sd sa b s) :=
  issueForm_inv _ _ _ (reqShl_inv ..) hs

theorem reqShr_inv (m : Mask) (sd : BitVec 6) (sa : BitVec 6) (b : SOp) : SlotReq.Keeps (reqShr m sd sa b) :=
  ⟨fun _ _ => ⟨fun _ h => h, fun _ h => h, fun _ h => h⟩⟩

theorem execShr_inv (m : Mask) (sd : BitVec 6) (sa : BitVec 6) (b : SOp) (s : State) (hs : s.Inv) : OutKeeps (execShr m sd sa b s) :=
  issueForm_inv _ _ _ (reqShr_inv ..) hs

theorem reqSar_inv (m : Mask) (sd : BitVec 6) (sa : BitVec 6) (b : SOp) : SlotReq.Keeps (reqSar m sd sa b) :=
  ⟨fun _ _ => ⟨fun _ h => h, fun _ h => h, fun _ h => h⟩⟩

theorem execSar_inv (m : Mask) (sd : BitVec 6) (sa : BitVec 6) (b : SOp) (s : State) (hs : s.Inv) : OutKeeps (execSar m sd sa b s) :=
  issueForm_inv _ _ _ (reqSar_inv ..) hs

theorem reqMin_inv (m : Mask) (sd : BitVec 6) (sa : BitVec 6) (b : SOp) : SlotReq.Keeps (reqMin m sd sa b) :=
  ⟨fun _ _ => ⟨fun _ h => h, fun _ h => h, fun _ h => h⟩⟩

theorem execMin_inv (m : Mask) (sd : BitVec 6) (sa : BitVec 6) (b : SOp) (s : State) (hs : s.Inv) : OutKeeps (execMin m sd sa b s) :=
  issueForm_inv _ _ _ (reqMin_inv ..) hs

theorem reqMinn_inv (m : Mask) (sd : BitVec 6) (sa : BitVec 6) (b : SOp) : SlotReq.Keeps (reqMinn m sd sa b) :=
  ⟨fun _ _ => ⟨fun _ h => h, fun _ h => h, fun _ h => h⟩⟩

theorem execMinn_inv (m : Mask) (sd : BitVec 6) (sa : BitVec 6) (b : SOp) (s : State) (hs : s.Inv) : OutKeeps (execMinn m sd sa b s) :=
  issueForm_inv _ _ _ (reqMinn_inv ..) hs

theorem reqMax_inv (m : Mask) (sd : BitVec 6) (sa : BitVec 6) (b : SOp) : SlotReq.Keeps (reqMax m sd sa b) :=
  ⟨fun _ _ => ⟨fun _ h => h, fun _ h => h, fun _ h => h⟩⟩

theorem execMax_inv (m : Mask) (sd : BitVec 6) (sa : BitVec 6) (b : SOp) (s : State) (hs : s.Inv) : OutKeeps (execMax m sd sa b s) :=
  issueForm_inv _ _ _ (reqMax_inv ..) hs

theorem reqMaxn_inv (m : Mask) (sd : BitVec 6) (sa : BitVec 6) (b : SOp) : SlotReq.Keeps (reqMaxn m sd sa b) :=
  ⟨fun _ _ => ⟨fun _ h => h, fun _ h => h, fun _ h => h⟩⟩

theorem execMaxn_inv (m : Mask) (sd : BitVec 6) (sa : BitVec 6) (b : SOp) (s : State) (hs : s.Inv) : OutKeeps (execMaxn m sd sa b s) :=
  issueForm_inv _ _ _ (reqMaxn_inv ..) hs

theorem reqClz_inv (m : Mask) (sd : BitVec 6) (sa : BitVec 6) : SlotReq.Keeps (reqClz m sd sa) :=
  ⟨fun _ _ => ⟨fun _ h => h, fun _ h => h, fun _ h => h⟩⟩

theorem execClz_inv (m : Mask) (sd : BitVec 6) (sa : BitVec 6) (s : State) (hs : s.Inv) : OutKeeps (execClz m sd sa s) :=
  issueForm_inv _ _ _ (reqClz_inv ..) hs

theorem reqPopc_inv (m : Mask) (sd : BitVec 6) (sa : BitVec 6) : SlotReq.Keeps (reqPopc m sd sa) :=
  ⟨fun _ _ => ⟨fun _ h => h, fun _ h => h, fun _ h => h⟩⟩

theorem execPopc_inv (m : Mask) (sd : BitVec 6) (sa : BitVec 6) (s : State) (hs : s.Inv) : OutKeeps (execPopc m sd sa s) :=
  issueForm_inv _ _ _ (reqPopc_inv ..) hs

theorem reqBfx_inv (m : Mask) (sd : BitVec 6) (sa : BitVec 6) (b : SOp) : SlotReq.Keeps (reqBfx m sd sa b) :=
  ⟨fun _ _ => ⟨fun _ h => h, fun _ h => h, fun _ h => h⟩⟩

theorem execBfx_inv (m : Mask) (sd : BitVec 6) (sa : BitVec 6) (b : SOp) (s : State) (hs : s.Inv) : OutKeeps (execBfx m sd sa b s) :=
  issueForm_inv _ _ _ (reqBfx_inv ..) hs

theorem reqBfxn_inv (m : Mask) (sd : BitVec 6) (sa : BitVec 6) (b : SOp) : SlotReq.Keeps (reqBfxn m sd sa b) :=
  ⟨fun _ _ => ⟨fun _ h => h, fun _ h => h, fun _ h => h⟩⟩

theorem execBfxn_inv (m : Mask) (sd : BitVec 6) (sa : BitVec 6) (b : SOp) (s : State) (hs : s.Inv) : OutKeeps (execBfxn m sd sa b s) :=
  issueForm_inv _ _ _ (reqBfxn_inv ..) hs

theorem reqBfi_inv (m : Mask) (sd : BitVec 6) (sa : BitVec 6) (b : SOp) : SlotReq.Keeps (reqBfi m sd sa b) :=
  ⟨fun _ _ => ⟨fun _ h => h, fun _ h => h, fun _ h => h⟩⟩

theorem execBfi_inv (m : Mask) (sd : BitVec 6) (sa : BitVec 6) (b : SOp) (s : State) (hs : s.Inv) : OutKeeps (execBfi m sd sa b s) :=
  issueForm_inv _ _ _ (reqBfi_inv ..) hs

theorem reqLi_inv (m : Mask) (sd : BitVec 6) (b : SOp) : SlotReq.Keeps (reqLi m sd b) :=
  ⟨fun _ _ => ⟨fun _ h => h, fun _ h => h, fun _ h => h⟩⟩

theorem execLi_inv (m : Mask) (sd : BitVec 6) (b : SOp) (s : State) (hs : s.Inv) : OutKeeps (execLi m sd b s) :=
  issueForm_inv _ _ _ (reqLi_inv ..) hs

theorem reqSel_inv (m : Mask) (sd : BitVec 6) (t : BitVec 6) (sa : BitVec 6) : SlotReq.Keeps (reqSel m sd t sa) :=
  ⟨fun _ _ => ⟨fun _ h => h, fun _ h => h, fun _ h => h⟩⟩

theorem execSel_inv (m : Mask) (sd : BitVec 6) (t : BitVec 6) (sa : BitVec 6) (s : State) (hs : s.Inv) : OutKeeps (execSel m sd t sa s) :=
  issueForm_inv _ _ _ (reqSel_inv ..) hs

theorem reqCeq_inv (m : Mask) (qd : BitVec 5) (sa : BitVec 6) (b : SOp) : SlotReq.Keeps (reqCeq m qd sa b) :=
  ⟨fun _ _ => ⟨fun _ h => h, fun _ h => h, fun _ h => h⟩⟩

theorem execCeq_inv (m : Mask) (qd : BitVec 5) (sa : BitVec 6) (b : SOp) (s : State) (hs : s.Inv) : OutKeeps (execCeq m qd sa b s) :=
  issueForm_inv _ _ _ (reqCeq_inv ..) hs

theorem reqCne_inv (m : Mask) (qd : BitVec 5) (sa : BitVec 6) (b : SOp) : SlotReq.Keeps (reqCne m qd sa b) :=
  ⟨fun _ _ => ⟨fun _ h => h, fun _ h => h, fun _ h => h⟩⟩

theorem execCne_inv (m : Mask) (qd : BitVec 5) (sa : BitVec 6) (b : SOp) (s : State) (hs : s.Inv) : OutKeeps (execCne m qd sa b s) :=
  issueForm_inv _ _ _ (reqCne_inv ..) hs

theorem reqClt_inv (m : Mask) (qd : BitVec 5) (sa : BitVec 6) (b : SOp) : SlotReq.Keeps (reqClt m qd sa b) :=
  ⟨fun _ _ => ⟨fun _ h => h, fun _ h => h, fun _ h => h⟩⟩

theorem execClt_inv (m : Mask) (qd : BitVec 5) (sa : BitVec 6) (b : SOp) (s : State) (hs : s.Inv) : OutKeeps (execClt m qd sa b s) :=
  issueForm_inv _ _ _ (reqClt_inv ..) hs

theorem reqCltn_inv (m : Mask) (qd : BitVec 5) (sa : BitVec 6) (b : SOp) : SlotReq.Keeps (reqCltn m qd sa b) :=
  ⟨fun _ _ => ⟨fun _ h => h, fun _ h => h, fun _ h => h⟩⟩

theorem execCltn_inv (m : Mask) (qd : BitVec 5) (sa : BitVec 6) (b : SOp) (s : State) (hs : s.Inv) : OutKeeps (execCltn m qd sa b s) :=
  issueForm_inv _ _ _ (reqCltn_inv ..) hs

theorem reqCle_inv (m : Mask) (qd : BitVec 5) (sa : BitVec 6) (b : SOp) : SlotReq.Keeps (reqCle m qd sa b) :=
  ⟨fun _ _ => ⟨fun _ h => h, fun _ h => h, fun _ h => h⟩⟩

theorem execCle_inv (m : Mask) (qd : BitVec 5) (sa : BitVec 6) (b : SOp) (s : State) (hs : s.Inv) : OutKeeps (execCle m qd sa b s) :=
  issueForm_inv _ _ _ (reqCle_inv ..) hs

theorem reqClen_inv (m : Mask) (qd : BitVec 5) (sa : BitVec 6) (b : SOp) : SlotReq.Keeps (reqClen m qd sa b) :=
  ⟨fun _ _ => ⟨fun _ h => h, fun _ h => h, fun _ h => h⟩⟩

theorem execClen_inv (m : Mask) (qd : BitVec 5) (sa : BitVec 6) (b : SOp) (s : State) (hs : s.Inv) : OutKeeps (execClen m qd sa b s) :=
  issueForm_inv _ _ _ (reqClen_inv ..) hs

theorem reqQand_inv (m : Mask) (qd : BitVec 5) (ta : BitVec 6) (tb : BitVec 6) : SlotReq.Keeps (reqQand m qd ta tb) :=
  ⟨fun _ _ => ⟨fun _ h => h, fun _ h => h, fun _ h => h⟩⟩

theorem execQand_inv (m : Mask) (qd : BitVec 5) (ta : BitVec 6) (tb : BitVec 6) (s : State) (hs : s.Inv) : OutKeeps (execQand m qd ta tb s) :=
  issueForm_inv _ _ _ (reqQand_inv ..) hs

theorem reqQor_inv (m : Mask) (qd : BitVec 5) (ta : BitVec 6) (tb : BitVec 6) : SlotReq.Keeps (reqQor m qd ta tb) :=
  ⟨fun _ _ => ⟨fun _ h => h, fun _ h => h, fun _ h => h⟩⟩

theorem execQor_inv (m : Mask) (qd : BitVec 5) (ta : BitVec 6) (tb : BitVec 6) (s : State) (hs : s.Inv) : OutKeeps (execQor m qd ta tb s) :=
  issueForm_inv _ _ _ (reqQor_inv ..) hs

theorem reqQxor_inv (m : Mask) (qd : BitVec 5) (ta : BitVec 6) (tb : BitVec 6) : SlotReq.Keeps (reqQxor m qd ta tb) :=
  ⟨fun _ _ => ⟨fun _ h => h, fun _ h => h, fun _ h => h⟩⟩

theorem execQxor_inv (m : Mask) (qd : BitVec 5) (ta : BitVec 6) (tb : BitVec 6) (s : State) (hs : s.Inv) : OutKeeps (execQxor m qd ta tb s) :=
  issueForm_inv _ _ _ (reqQxor_inv ..) hs

theorem reqQget_inv (m : Mask) (sd : BitVec 6) : SlotReq.Keeps (reqQget m sd) :=
  ⟨fun _ _ => ⟨fun _ h => h, fun _ h => h, fun _ h => h⟩⟩

theorem execQget_inv (m : Mask) (sd : BitVec 6) (s : State) (hs : s.Inv) : OutKeeps (execQget m sd s) :=
  issueForm_inv _ _ _ (reqQget_inv ..) hs

theorem reqQset_inv (m : Mask) (sa : BitVec 6) : SlotReq.Keeps (reqQset m sa) :=
  ⟨fun _ _ => ⟨fun _ h => h, fun _ h => h, fun _ h => h⟩⟩

theorem execQset_inv (m : Mask) (sa : BitVec 6) (s : State) (hs : s.Inv) : OutKeeps (execQset m sa s) :=
  issueForm_inv _ _ _ (reqQset_inv ..) hs

theorem reqSget_inv (m : Mask) (sd : BitVec 6) (i : BitVec 6) : SlotReq.Keeps (reqSget m sd i) :=
  ⟨fun _ _ => ⟨fun _ h => h, fun _ h => h, fun _ h => h⟩⟩

theorem execSget_inv (m : Mask) (sd : BitVec 6) (i : BitVec 6) (s : State) (hs : s.Inv) : OutKeeps (execSget m sd i s) :=
  issueForm_inv _ _ _ (reqSget_inv ..) hs

theorem reqSset_inv (m : Mask) (i : BitVec 6) (sa : BitVec 6) : SlotReq.Keeps (reqSset m i sa) := by
  unfold reqSset
  repeat' (first
    | with_reducible assumption
    | extract_lets
    | intro _
    | split
    | with_reducible apply State.onCtx_inv
    | with_reducible apply SlotReq.Keeps.mk
    | with_reducible apply Eff.Keeps.mk
    | dsimp only [id])

theorem execSset_inv (m : Mask) (i : BitVec 6) (sa : BitVec 6) (s : State) (hs : s.Inv) : OutKeeps (execSset m i sa s) :=
  issueForm_inv _ _ _ (reqSset_inv ..) hs

theorem fReq_inv (m : Mask) (sd sa : BitVec 6) (b : SOp) (op : Nat → FVal → FVal → FVal) : SlotReq.Keeps (fReq m sd sa b op) :=
  ⟨fun _ _ => ⟨fun _ h => h, fun _ h => h, fun _ h => h⟩⟩

theorem fcReq_inv (m : Mask) (qd : BitVec 5) (sa : BitVec 6) (b : SOp) (op : FVal → FVal → Bool) : SlotReq.Keeps (fcReq m qd sa b op) :=
  ⟨fun _ _ => ⟨fun _ h => h, fun _ h => h, fun _ h => h⟩⟩

theorem reqFadd_inv (m : Mask) (sd : BitVec 6) (sa : BitVec 6) (b : SOp) : SlotReq.Keeps (reqFadd m sd sa b) :=
  ⟨fun _ _ => ⟨fun _ h => h, fun _ h => h, fun _ h => h⟩⟩

theorem execFadd_inv (m : Mask) (sd : BitVec 6) (sa : BitVec 6) (b : SOp) (s : State) (hs : s.Inv) : OutKeeps (execFadd m sd sa b s) :=
  issueForm_inv _ _ _ (reqFadd_inv ..) hs

theorem reqFsub_inv (m : Mask) (sd : BitVec 6) (sa : BitVec 6) (b : SOp) : SlotReq.Keeps (reqFsub m sd sa b) :=
  ⟨fun _ _ => ⟨fun _ h => h, fun _ h => h, fun _ h => h⟩⟩

theorem execFsub_inv (m : Mask) (sd : BitVec 6) (sa : BitVec 6) (b : SOp) (s : State) (hs : s.Inv) : OutKeeps (execFsub m sd sa b s) :=
  issueForm_inv _ _ _ (reqFsub_inv ..) hs

theorem reqFmul_inv (m : Mask) (sd : BitVec 6) (sa : BitVec 6) (b : SOp) : SlotReq.Keeps (reqFmul m sd sa b) :=
  ⟨fun _ _ => ⟨fun _ h => h, fun _ h => h, fun _ h => h⟩⟩

theorem execFmul_inv (m : Mask) (sd : BitVec 6) (sa : BitVec 6) (b : SOp) (s : State) (hs : s.Inv) : OutKeeps (execFmul m sd sa b s) :=
  issueForm_inv _ _ _ (reqFmul_inv ..) hs

theorem reqFmin_inv (m : Mask) (sd : BitVec 6) (sa : BitVec 6) (b : SOp) : SlotReq.Keeps (reqFmin m sd sa b) :=
  ⟨fun _ _ => ⟨fun _ h => h, fun _ h => h, fun _ h => h⟩⟩

theorem execFmin_inv (m : Mask) (sd : BitVec 6) (sa : BitVec 6) (b : SOp) (s : State) (hs : s.Inv) : OutKeeps (execFmin m sd sa b s) :=
  issueForm_inv _ _ _ (reqFmin_inv ..) hs

theorem reqFmax_inv (m : Mask) (sd : BitVec 6) (sa : BitVec 6) (b : SOp) : SlotReq.Keeps (reqFmax m sd sa b) :=
  ⟨fun _ _ => ⟨fun _ h => h, fun _ h => h, fun _ h => h⟩⟩

theorem execFmax_inv (m : Mask) (sd : BitVec 6) (sa : BitVec 6) (b : SOp) (s : State) (hs : s.Inv) : OutKeeps (execFmax m sd sa b s) :=
  issueForm_inv _ _ _ (reqFmax_inv ..) hs

theorem reqFfma_inv (m : Mask) (sd : BitVec 6) (sa : BitVec 6) (b : SOp) : SlotReq.Keeps (reqFfma m sd sa b) :=
  ⟨fun _ _ => ⟨fun _ h => h, fun _ h => h, fun _ h => h⟩⟩

theorem execFfma_inv (m : Mask) (sd : BitVec 6) (sa : BitVec 6) (b : SOp) (s : State) (hs : s.Inv) : OutKeeps (execFfma m sd sa b s) :=
  issueForm_inv _ _ _ (reqFfma_inv ..) hs

theorem reqFclt_inv (m : Mask) (qd : BitVec 5) (sa : BitVec 6) (b : SOp) : SlotReq.Keeps (reqFclt m qd sa b) :=
  ⟨fun _ _ => ⟨fun _ h => h, fun _ h => h, fun _ h => h⟩⟩

theorem execFclt_inv (m : Mask) (qd : BitVec 5) (sa : BitVec 6) (b : SOp) (s : State) (hs : s.Inv) : OutKeeps (execFclt m qd sa b s) :=
  issueForm_inv _ _ _ (reqFclt_inv ..) hs

theorem reqFceq_inv (m : Mask) (qd : BitVec 5) (sa : BitVec 6) (b : SOp) : SlotReq.Keeps (reqFceq m qd sa b) :=
  ⟨fun _ _ => ⟨fun _ h => h, fun _ h => h, fun _ h => h⟩⟩

theorem execFceq_inv (m : Mask) (qd : BitVec 5) (sa : BitVec 6) (b : SOp) (s : State) (hs : s.Inv) : OutKeeps (execFceq m qd sa b s) :=
  issueForm_inv _ _ _ (reqFceq_inv ..) hs

theorem reqFtoi_inv (m : Mask) (sd : BitVec 6) (sa : BitVec 6) : SlotReq.Keeps (reqFtoi m sd sa) :=
  ⟨fun _ _ => ⟨fun _ h => h, fun _ h => h, fun _ h => h⟩⟩

theorem execFtoi_inv (m : Mask) (sd : BitVec 6) (sa : BitVec 6) (s : State) (hs : s.Inv) : OutKeeps (execFtoi m sd sa s) :=
  issueForm_inv _ _ _ (reqFtoi_inv ..) hs

theorem reqItof_inv (m : Mask) (sd : BitVec 6) (sa : BitVec 6) : SlotReq.Keeps (reqItof m sd sa) :=
  ⟨fun _ _ => ⟨fun _ h => h, fun _ h => h, fun _ h => h⟩⟩

theorem execItof_inv (m : Mask) (sd : BitVec 6) (sa : BitVec 6) (s : State) (hs : s.Inv) : OutKeeps (execItof m sd sa s) :=
  issueForm_inv _ _ _ (reqItof_inv ..) hs

theorem reqWjoin_inv (m : Mask) (wd : BitVec 4) (wa : BitVec 4) (wb : BitVec 4) : SlotReq.Keeps (reqWjoin m wd wa wb) :=
  ⟨fun _ _ => ⟨fun _ h => h, fun _ h => h, fun _ h => h⟩⟩

theorem execWjoin_inv (m : Mask) (wd : BitVec 4) (wa : BitVec 4) (wb : BitVec 4) (s : State) (hs : s.Inv) : OutKeeps (execWjoin m wd wa wb s) :=
  issueForm_inv _ _ _ (reqWjoin_inv ..) hs

theorem reqWtos_inv (m : Mask) (sd : BitVec 6) (wa : BitVec 4) : SlotReq.Keeps (reqWtos m sd wa) :=
  ⟨fun _ _ => ⟨fun _ h => h, fun _ h => h, fun _ h => h⟩⟩

theorem execWtos_inv (m : Mask) (sd : BitVec 6) (wa : BitVec 4) (s : State) (hs : s.Inv) : OutKeeps (execWtos m sd wa s) :=
  issueForm_inv _ _ _ (reqWtos_inv ..) hs

theorem reqStow_inv (m : Mask) (wd : BitVec 4) (sa : BitVec 6) : SlotReq.Keeps (reqStow m wd sa) :=
  ⟨fun _ _ => ⟨fun _ h => h, fun _ h => h, fun _ h => h⟩⟩

theorem execStow_inv (m : Mask) (wd : BitVec 4) (sa : BitVec 6) (s : State) (hs : s.Inv) : OutKeeps (execStow m wd sa s) :=
  issueForm_inv _ _ _ (reqStow_inv ..) hs

/-! ## Machine/Control.lean -/

theorem goTo_inv (e : Env) (w : W64) (base : Eff) (he : e.s.Inv) (hbase : base.Keeps) : Eff.Keeps (goTo e w base) := by
  unfold goTo
  repeat' (first
    | with_reducible assumption
    | extract_lets
    | intro _
    | split
    | with_reducible apply State.segment_inv
    | (with_reducible refine Res.Keeps.inv ?_ (by with_reducible assumption))
    | with_reducible apply Eff.Keeps.mk
    | dsimp only [id]
    | with_reducible apply Eff.Keeps.act
    | with_reducible apply Eff.Keeps.post
    | with_reducible apply Eff.Keeps.onHold)

theorem cReq_inv (eff : Env → Eff) (heff : ∀ e, e.s.Inv → (eff e).Keeps) : SlotReq.Keeps (cReq eff) := by
  unfold cReq
  repeat' (first
    | with_reducible assumption
    | with_reducible apply heff
    | extract_lets
    | intro _
    | with_reducible apply SlotReq.Keeps.mk
    | with_reducible apply Eff.Keeps.mk
    | dsimp only [id]
    | with_reducible apply Eff.Keeps.act
    | with_reducible apply Eff.Keeps.post
    | with_reducible apply Eff.Keeps.onHold)

theorem linkPost_inv (e : Env) (s : State) (he : e.s.Inv) (hs : s.Inv) : State.Inv (linkPost e s) := by
  unfold linkPost
  repeat' (first
    | with_reducible assumption
    | with_reducible apply State.onCtx_inv)

theorem leafEff_inv (e : Env) (l : Leaf) (he : e.s.Inv) : Eff.Keeps (leafEff e l) := by
  unfold leafEff
  repeat' (first
    | with_reducible assumption
    | extract_lets
    | intro _
    | split
    | with_reducible apply goTo_inv
    | with_reducible apply linkPost_inv
    | with_reducible apply Eff.Keeps.mk
    | dsimp only [id])

theorem reqBr_inv (sh : BitVec 4) (ta tb tc td : BitVec 6) (l1 l2 l3 l4 : Leaf) : SlotReq.Keeps (reqBr sh ta tb tc td l1 l2 l3 l4) := by
  unfold reqBr
  repeat' (first
    | with_reducible assumption
    | extract_lets
    | intro _
    | split
    | with_reducible apply leafEff_inv
    | with_reducible apply SlotReq.Keeps.mk
    | with_reducible apply Eff.Keeps.mk
    | dsimp only [id]
    | with_reducible apply Eff.Keeps.act
    | with_reducible apply Eff.Keeps.post
    | with_reducible apply Eff.Keeps.onHold)

theorem execBr_inv (sh : BitVec 4) (ta tb tc td : BitVec 6) (l1 l2 l3 l4 : Leaf) (s : State) (hs : s.Inv) : OutKeeps (execBr sh ta tb tc td l1 l2 l3 l4 s) :=
  issueForm_inv _ _ _ (reqBr_inv ..) hs

theorem reqJmp_inv (d : BitVec 32) : SlotReq.Keeps (reqJmp d) := by
  unfold reqJmp
  repeat' (first
    | with_reducible assumption
    | extract_lets
    | intro _
    | with_reducible apply goTo_inv
    | with_reducible apply cReq_inv
    | with_reducible apply Eff.Keeps.mk
    | dsimp only [id])

theorem execJmp_inv (d : BitVec 32) (s : State) (hs : s.Inv) : OutKeeps (execJmp d s) :=
  issueForm_inv _ _ _ (reqJmp_inv ..) hs

theorem reqCall_inv (d : BitVec 32) : SlotReq.Keeps (reqCall d) := by
  unfold reqCall
  repeat' (first
    | with_reducible assumption
    | extract_lets
    | intro _
    | with_reducible apply goTo_inv
    | with_reducible apply cReq_inv
    | with_reducible apply linkPost_inv
    | with_reducible apply Eff.Keeps.mk
    | dsimp only [id])

theorem execCall_inv (d : BitVec 32) (s : State) (hs : s.Inv) : OutKeeps (execCall d s) :=
  issueForm_inv _ _ _ (reqCall_inv ..) hs

theorem reqRet_inv  : SlotReq.Keeps reqRet := by
  unfold reqRet
  repeat' (first
    | with_reducible assumption
    | extract_lets
    | intro _
    | with_reducible apply goTo_inv
    | with_reducible apply cReq_inv
    | with_reducible apply Eff.Keeps.mk
    | dsimp only [id])

theorem execRet_inv (s : State) (hs : s.Inv) : OutKeeps (execRet s) :=
  issueForm_inv _ _ _ reqRet_inv hs

theorem State.chain_inv (s : State) (a : Nat) (n : Nat) (h : Half) (hs : s.Inv) : Res.Keeps (State.chain s a n h) := by
  induction n generalizing s h with
  | zero =>
    unfold State.chain
    repeat' (first
      | with_reducible assumption
      | with_reducible apply Res.keeps_ok)
  | succ n ih =>
    unfold State.chain
    repeat' (first
      | with_reducible assumption
      | with_reducible apply ih
      | extract_lets
      | split
      | with_reducible apply State.segment_inv
      | with_reducible apply Res.keeps_ok
      | with_reducible exact Res.keeps_wait
      | with_reducible exact Res.keeps_fault
      | (with_reducible refine Res.Keeps.inv ?_ (by with_reducible assumption)))

theorem loopEff_inv (e : Env) (chain : BitVec 12) (n : W64) (u : BitVec 10) (he : e.s.Inv) : Eff.Keeps (loopEff e chain n u) := by
  unfold loopEff
  repeat' (first
    | with_reducible assumption
    | extract_lets
    | intro _
    | split
    | with_reducible apply Eff.Keeps.mk
    | dsimp only [id]
    | dsimp +zetaDelta only)

theorem reqLoop_inv (chain : BitVec 12) (n : BitVec 20) (u : BitVec 10) : SlotReq.Keeps (reqLoop chain n u) := by
  unfold reqLoop
  repeat' (first
    | with_reducible assumption
    | extract_lets
    | intro _
    | with_reducible apply cReq_inv
    | with_reducible apply loopEff_inv)

theorem execLoop_inv (chain : BitVec 12) (n : BitVec 20) (u : BitVec 10) (s : State) (hs : s.Inv) : OutKeeps (execLoop chain n u s) :=
  issueForm_inv _ _ _ (reqLoop_inv ..) hs

theorem reqLoops_inv (chain : BitVec 12) (sa : BitVec 6) (u : BitVec 10) : SlotReq.Keeps (reqLoops chain sa u) := by
  unfold reqLoops
  repeat' (first
    | with_reducible assumption
    | extract_lets
    | intro _
    | with_reducible apply cReq_inv
    | with_reducible apply loopEff_inv)

theorem execLoops_inv (chain : BitVec 12) (sa : BitVec 6) (u : BitVec 10) (s : State) (hs : s.Inv) : OutKeeps (execLoops chain sa u s) :=
  issueForm_inv _ _ _ (reqLoops_inv ..) hs

theorem reqLbreak_inv  : SlotReq.Keeps reqLbreak := by
  unfold reqLbreak
  repeat' (first
    | with_reducible assumption
    | extract_lets
    | intro _
    | split
    | with_reducible apply State.segment_inv
    | with_reducible apply cReq_inv
    | (with_reducible refine Res.Keeps.inv ?_ (by with_reducible assumption))
    | with_reducible apply Eff.Keeps.mk
    | dsimp only [id])

theorem execLbreak_inv (s : State) (hs : s.Inv) : OutKeeps (execLbreak s) :=
  issueForm_inv _ _ _ reqLbreak_inv hs

theorem fmtEff_inv (v : W64) : Eff.Keeps (fmtEff v) := by
  unfold fmtEff
  repeat' (first
    | with_reducible assumption
    | extract_lets
    | intro _
    | with_reducible apply Eff.Keeps.mk
    | dsimp only [id])

theorem reqFmtw_inv (low : BitVec 32) (mask : BitVec 16) : SlotReq.Keeps (reqFmtw low mask) :=
  ⟨fun _ _ => ⟨fun _ h => h, fun _ h => h, fun _ h => h⟩⟩

theorem execFmtw_inv (low : BitVec 32) (mask : BitVec 16) (s : State) (hs : s.Inv) : OutKeeps (execFmtw low mask s) :=
  issueForm_inv _ _ _ (reqFmtw_inv ..) hs

theorem reqFmts_inv (sa : BitVec 6) : SlotReq.Keeps (reqFmts sa) :=
  ⟨fun _ _ => ⟨fun _ h => h, fun _ h => h, fun _ h => h⟩⟩

theorem execFmts_inv (sa : BitVec 6) (s : State) (hs : s.Inv) : OutKeeps (execFmts sa s) :=
  issueForm_inv _ _ _ (reqFmts_inv ..) hs

theorem reqTwait_inv  : SlotReq.Keeps reqTwait :=
  ⟨fun _ _ => ⟨fun _ h => h, fun _ h => h, fun _ h => h⟩⟩

theorem execTwait_inv (s : State) (hs : s.Inv) : OutKeeps (execTwait s) :=
  issueForm_inv _ _ _ reqTwait_inv hs

theorem reqSbar_inv (w : BitVec 4) (gang : Bool) (b : BitVec 2) : SlotReq.Keeps (reqSbar w gang b) := by
  unfold reqSbar
  repeat' (first
    | with_reducible assumption
    | extract_lets
    | intro _
    | split
    | with_reducible apply State.onCtx_inv
    | with_reducible apply State.onInst_inv
    | with_reducible apply cReq_inv
    | with_reducible apply Eff.Keeps.mk
    | dsimp only [id])

theorem execSbar_inv (w : BitVec 4) (gang : Bool) (b : BitVec 2) (s : State) (hs : s.Inv) : OutKeeps (execSbar w gang b s) :=
  issueForm_inv _ _ _ (reqSbar_inv ..) hs

theorem reqYield_inv  : SlotReq.Keeps reqYield := by
  unfold reqYield
  repeat' (first
    | with_reducible assumption
    | extract_lets
    | intro _
    | with_reducible apply State.onCtx_inv
    | with_reducible apply cReq_inv
    | with_reducible apply Eff.Keeps.mk
    | dsimp only [id])

theorem execYield_inv (s : State) (hs : s.Inv) : OutKeeps (execYield s) :=
  issueForm_inv _ _ _ reqYield_inv hs

theorem reqWwait_inv (w : BitVec 4) : SlotReq.Keeps (reqWwait w) := by
  unfold reqWwait
  repeat' (first
    | with_reducible assumption
    | extract_lets
    | intro _
    | split
    | with_reducible apply cReq_inv
    | with_reducible apply Eff.Keeps.mk
    | dsimp only [id])

theorem execWwait_inv (w : BitVec 4) (s : State) (hs : s.Inv) : OutKeeps (execWwait w s) :=
  issueForm_inv _ _ _ (reqWwait_inv ..) hs

theorem reqStatf_inv  : SlotReq.Keeps reqStatf := by
  unfold reqStatf
  repeat' (first
    | with_reducible assumption
    | extract_lets
    | intro _
    | with_reducible apply State.drainStat_inv
    | with_reducible apply cReq_inv
    | with_reducible apply Eff.Keeps.mk
    | dsimp only [id])

theorem execStatf_inv (s : State) (hs : s.Inv) : OutKeeps (execStatf s) :=
  issueForm_inv _ _ _ reqStatf_inv hs

theorem reqTrap_inv (n : BitVec 16) : SlotReq.Keeps (reqTrap n) :=
  ⟨fun _ _ => ⟨fun _ h => h, fun _ h => h, fun _ h => h⟩⟩

theorem execTrap_inv (n : BitVec 16) (s : State) (hs : s.Inv) : OutKeeps (execTrap n s) :=
  issueForm_inv _ _ _ (reqTrap_inv ..) hs

theorem reqBrk_inv (n : BitVec 16) : SlotReq.Keeps (reqBrk n) := by
  unfold reqBrk
  repeat' (first
    | with_reducible assumption
    | extract_lets
    | intro _
    | split
    | with_reducible apply cReq_inv
    | with_reducible apply Eff.Keeps.mk
    | dsimp only [id])

theorem execBrk_inv (n : BitVec 16) (s : State) (hs : s.Inv) : OutKeeps (execBrk n s) :=
  issueForm_inv _ _ _ (reqBrk_inv ..) hs

theorem reqExit_inv  : SlotReq.Keeps reqExit :=
  ⟨fun _ _ => ⟨fun _ h => h, fun _ h => h, fun _ h => h⟩⟩

theorem execExit_inv (s : State) (hs : s.Inv) : OutKeeps (execExit s) :=
  issueForm_inv _ _ _ reqExit_inv hs

/-! ## Machine/MemSlot.lean -/

theorem State.startAccess_inv (s : State) (x : Access) (hs : s.Inv) : State.Inv (State.startAccess s x) := hs

theorem State.startSeq_inv (s : State) (x : Access) (hs : s.Inv) : State.Inv (State.startSeq s x) := hs

theorem mReq_inv (q : MQual) (a : MAddr) (size : Nat) (eff : Env → W64 → Eff) (heff : ∀ e w, e.s.Inv → (eff e w).Keeps) : SlotReq.Keeps (mReq q a size eff) := by
  unfold mReq
  repeat' (first
    | with_reducible apply heff
    | extract_lets
    | intro _
    | with_reducible apply SlotReq.Keeps.mk)

theorem loadReq_inv (sp : Bool) (q : MQual) (sx : Bool) (sz : BitVec 2) (sd : BitVec 6) (a : MAddr) : SlotReq.Keeps (loadReq sp q sx sz sd a) :=
  ⟨fun _ _ => ⟨fun _ h => h, fun _ h => h, fun _ h => h⟩⟩

theorem storeReq_inv (sp : Bool) (q : MQual) (sz : BitVec 2) (sv : BitVec 6) (a : MAddr) : SlotReq.Keeps (storeReq sp q sz sv a) :=
  ⟨fun _ _ => ⟨fun _ h => h, fun _ h => h, fun _ h => h⟩⟩

theorem vloadReq_inv (sp : Bool) (q : MQual) (vr : BitVec 10) (a : MAddr) : SlotReq.Keeps (vloadReq sp q vr a) :=
  ⟨fun _ _ => ⟨fun _ h => h, fun _ h => h, fun _ h => h⟩⟩

theorem vstoreReq_inv (sp : Bool) (q : MQual) (vr : BitVec 10) (a : MAddr) : SlotReq.Keeps (vstoreReq sp q vr a) :=
  ⟨fun _ _ => ⟨fun _ h => h, fun _ h => h, fun _ h => h⟩⟩

theorem atomicReq_inv (op : Nat) (q : MQual) (sz : BitVec 2) (sv : BitVec 6) (a : MAddr) : SlotReq.Keeps (atomicReq op q sz sv a) :=
  ⟨fun _ _ => ⟨fun _ h => h, fun _ h => h, fun _ h => h⟩⟩

theorem syncWord_inv (e : Env) (sp : Bool) (w : Nat) (he : e.s.Inv) : Res.Keeps (syncWord e sp w) := by
  unfold syncWord
  repeat' (first
    | with_reducible assumption
    | extract_lets
    | split
    | with_reducible apply State.translate_inv
    | with_reducible apply State.readHome_inv
    | with_reducible apply Res.keeps_ok
    | with_reducible exact Res.keeps_wait
    | with_reducible exact Res.keeps_fault
    | (with_reducible refine Res.Keeps.inv ?_ (by with_reducible assumption)))

theorem syncHeld_inv (e : Env) (sp : Bool) (w k : Nat) (he : e.s.Inv) : Res.Keeps (syncHeld e sp w k) := by
  unfold syncHeld
  repeat' (first
    | with_reducible assumption
    | extract_lets
    | split
    | with_reducible apply Res.keeps_ok
    | with_reducible exact Res.keeps_fault)

theorem reqLd_inv (q : MQual) (sx : Bool) (sz : BitVec 2) (sd : BitVec 6) (a : MAddr) : SlotReq.Keeps (reqLd q sx sz sd a) :=
  ⟨fun _ _ => ⟨fun _ h => h, fun _ h => h, fun _ h => h⟩⟩

theorem execLd_inv (q : MQual) (sx : Bool) (sz : BitVec 2) (sd : BitVec 6) (a : MAddr) (s : State) (hs : s.Inv) : OutKeeps (execLd q sx sz sd a s) :=
  issueForm_inv _ _ _ (reqLd_inv ..) hs

theorem reqSt_inv (q : MQual) (sz : BitVec 2) (sv : BitVec 6) (a : MAddr) : SlotReq.Keeps (reqSt q sz sv a) :=
  ⟨fun _ _ => ⟨fun _ h => h, fun _ h => h, fun _ h => h⟩⟩

theorem execSt_inv (q : MQual) (sz : BitVec 2) (sv : BitVec 6) (a : MAddr) (s : State) (hs : s.Inv) : OutKeeps (execSt q sz sv a s) :=
  issueForm_inv _ _ _ (reqSt_inv ..) hs

theorem reqLdp_inv (q : MQual) (sx : Bool) (sz : BitVec 2) (sd : BitVec 6) (a : MAddr) : SlotReq.Keeps (reqLdp q sx sz sd a) :=
  ⟨fun _ _ => ⟨fun _ h => h, fun _ h => h, fun _ h => h⟩⟩

theorem execLdp_inv (q : MQual) (sx : Bool) (sz : BitVec 2) (sd : BitVec 6) (a : MAddr) (s : State) (hs : s.Inv) : OutKeeps (execLdp q sx sz sd a s) :=
  issueForm_inv _ _ _ (reqLdp_inv ..) hs

theorem reqStp_inv (q : MQual) (sz : BitVec 2) (sv : BitVec 6) (a : MAddr) : SlotReq.Keeps (reqStp q sz sv a) :=
  ⟨fun _ _ => ⟨fun _ h => h, fun _ h => h, fun _ h => h⟩⟩

theorem execStp_inv (q : MQual) (sz : BitVec 2) (sv : BitVec 6) (a : MAddr) (s : State) (hs : s.Inv) : OutKeeps (execStp q sz sv a s) :=
  issueForm_inv _ _ _ (reqStp_inv ..) hs

theorem reqVld_inv (q : MQual) (vr : BitVec 10) (a : MAddr) : SlotReq.Keeps (reqVld q vr a) :=
  ⟨fun _ _ => ⟨fun _ h => h, fun _ h => h, fun _ h => h⟩⟩

theorem execVld_inv (q : MQual) (vr : BitVec 10) (a : MAddr) (s : State) (hs : s.Inv) : OutKeeps (execVld q vr a s) :=
  issueForm_inv _ _ _ (reqVld_inv ..) hs

theorem reqVst_inv (q : MQual) (vr : BitVec 10) (a : MAddr) : SlotReq.Keeps (reqVst q vr a) :=
  ⟨fun _ _ => ⟨fun _ h => h, fun _ h => h, fun _ h => h⟩⟩

theorem execVst_inv (q : MQual) (vr : BitVec 10) (a : MAddr) (s : State) (hs : s.Inv) : OutKeeps (execVst q vr a s) :=
  issueForm_inv _ _ _ (reqVst_inv ..) hs

theorem reqVldp_inv (q : MQual) (vr : BitVec 10) (a : MAddr) : SlotReq.Keeps (reqVldp q vr a) :=
  ⟨fun _ _ => ⟨fun _ h => h, fun _ h => h, fun _ h => h⟩⟩

theorem execVldp_inv (q : MQual) (vr : BitVec 10) (a : MAddr) (s : State) (hs : s.Inv) : OutKeeps (execVldp q vr a s) :=
  issueForm_inv _ _ _ (reqVldp_inv ..) hs

theorem reqVstp_inv (q : MQual) (vr : BitVec 10) (a : MAddr) : SlotReq.Keeps (reqVstp q vr a) :=
  ⟨fun _ _ => ⟨fun _ h => h, fun _ h => h, fun _ h => h⟩⟩

theorem execVstp_inv (q : MQual) (vr : BitVec 10) (a : MAddr) (s : State) (hs : s.Inv) : OutKeeps (execVstp q vr a s) :=
  issueForm_inv _ _ _ (reqVstp_inv ..) hs

theorem reqVgathp_inv (q : MQual) (vr : BitVec 10) (a : MAddr) : SlotReq.Keeps (reqVgathp q vr a) :=
  ⟨fun _ _ => ⟨fun _ h => h, fun _ h => h, fun _ h => h⟩⟩

theorem execVgathp_inv (q : MQual) (vr : BitVec 10) (a : MAddr) (s : State) (hs : s.Inv) : OutKeeps (execVgathp q vr a s) :=
  issueForm_inv _ _ _ (reqVgathp_inv ..) hs

theorem reqVscatp_inv (q : MQual) (vr : BitVec 10) (a : MAddr) : SlotReq.Keeps (reqVscatp q vr a) :=
  ⟨fun _ _ => ⟨fun _ h => h, fun _ h => h, fun _ h => h⟩⟩

theorem execVscatp_inv (q : MQual) (vr : BitVec 10) (a : MAddr) (s : State) (hs : s.Inv) : OutKeeps (execVscatp q vr a s) :=
  issueForm_inv _ _ _ (reqVscatp_inv ..) hs

theorem reqAadd_inv (q : MQual) (sz : BitVec 2) (sv : BitVec 6) (a : MAddr) : SlotReq.Keeps (reqAadd q sz sv a) :=
  ⟨fun _ _ => ⟨fun _ h => h, fun _ h => h, fun _ h => h⟩⟩

theorem execAadd_inv (q : MQual) (sz : BitVec 2) (sv : BitVec 6) (a : MAddr) (s : State) (hs : s.Inv) : OutKeeps (execAadd q sz sv a s) :=
  issueForm_inv _ _ _ (reqAadd_inv ..) hs

theorem reqAmin_inv (q : MQual) (sz : BitVec 2) (sv : BitVec 6) (a : MAddr) : SlotReq.Keeps (reqAmin q sz sv a) :=
  ⟨fun _ _ => ⟨fun _ h => h, fun _ h => h, fun _ h => h⟩⟩

theorem execAmin_inv (q : MQual) (sz : BitVec 2) (sv : BitVec 6) (a : MAddr) (s : State) (hs : s.Inv) : OutKeeps (execAmin q sz sv a s) :=
  issueForm_inv _ _ _ (reqAmin_inv ..) hs

theorem reqAminn_inv (q : MQual) (sz : BitVec 2) (sv : BitVec 6) (a : MAddr) : SlotReq.Keeps (reqAminn q sz sv a) :=
  ⟨fun _ _ => ⟨fun _ h => h, fun _ h => h, fun _ h => h⟩⟩

theorem execAminn_inv (q : MQual) (sz : BitVec 2) (sv : BitVec 6) (a : MAddr) (s : State) (hs : s.Inv) : OutKeeps (execAminn q sz sv a s) :=
  issueForm_inv _ _ _ (reqAminn_inv ..) hs

theorem reqAmax_inv (q : MQual) (sz : BitVec 2) (sv : BitVec 6) (a : MAddr) : SlotReq.Keeps (reqAmax q sz sv a) :=
  ⟨fun _ _ => ⟨fun _ h => h, fun _ h => h, fun _ h => h⟩⟩

theorem execAmax_inv (q : MQual) (sz : BitVec 2) (sv : BitVec 6) (a : MAddr) (s : State) (hs : s.Inv) : OutKeeps (execAmax q sz sv a s) :=
  issueForm_inv _ _ _ (reqAmax_inv ..) hs

theorem reqAmaxn_inv (q : MQual) (sz : BitVec 2) (sv : BitVec 6) (a : MAddr) : SlotReq.Keeps (reqAmaxn q sz sv a) :=
  ⟨fun _ _ => ⟨fun _ h => h, fun _ h => h, fun _ h => h⟩⟩

theorem execAmaxn_inv (q : MQual) (sz : BitVec 2) (sv : BitVec 6) (a : MAddr) (s : State) (hs : s.Inv) : OutKeeps (execAmaxn q sz sv a s) :=
  issueForm_inv _ _ _ (reqAmaxn_inv ..) hs

theorem reqAswp_inv (q : MQual) (sz : BitVec 2) (sv : BitVec 6) (a : MAddr) : SlotReq.Keeps (reqAswp q sz sv a) :=
  ⟨fun _ _ => ⟨fun _ h => h, fun _ h => h, fun _ h => h⟩⟩

theorem execAswp_inv (q : MQual) (sz : BitVec 2) (sv : BitVec 6) (a : MAddr) (s : State) (hs : s.Inv) : OutKeeps (execAswp q sz sv a s) :=
  issueForm_inv _ _ _ (reqAswp_inv ..) hs

theorem reqAcas_inv (q : MQual) (sz : BitVec 2) (sv : BitVec 6) (a : MAddr) : SlotReq.Keeps (reqAcas q sz sv a) :=
  ⟨fun _ _ => ⟨fun _ h => h, fun _ h => h, fun _ h => h⟩⟩

theorem execAcas_inv (q : MQual) (sz : BitVec 2) (sv : BitVec 6) (a : MAddr) (s : State) (hs : s.Inv) : OutKeeps (execAcas q sz sv a s) :=
  issueForm_inv _ _ _ (reqAcas_inv ..) hs

theorem reqAfadd_inv (q : MQual) (sz : BitVec 2) (sv : BitVec 6) (a : MAddr) : SlotReq.Keeps (reqAfadd q sz sv a) :=
  ⟨fun _ _ => ⟨fun _ h => h, fun _ h => h, fun _ h => h⟩⟩

theorem execAfadd_inv (q : MQual) (sz : BitVec 2) (sv : BitVec 6) (a : MAddr) (s : State) (hs : s.Inv) : OutKeeps (execAfadd q sz sv a s) :=
  issueForm_inv _ _ _ (reqAfadd_inv ..) hs

theorem reqWcheck_inv (q : MQual) (sd : BitVec 6) : SlotReq.Keeps (reqWcheck q sd) :=
  ⟨fun _ _ => ⟨fun _ h => h, fun _ h => h, fun _ h => h⟩⟩

theorem execWcheck_inv (q : MQual) (sd : BitVec 6) (s : State) (hs : s.Inv) : OutKeeps (execWcheck q sd s) :=
  issueForm_inv _ _ _ (reqWcheck_inv ..) hs

theorem reqWall_inv (q : MQual) : SlotReq.Keeps (reqWall q) :=
  ⟨fun _ _ => ⟨fun _ h => h, fun _ h => h, fun _ h => h⟩⟩

theorem execWall_inv (q : MQual) (s : State) (hs : s.Inv) : OutKeeps (execWall q s) :=
  issueForm_inv _ _ _ (reqWall_inv ..) hs

theorem reqSwinit_inv (q : MQual) (sv : BitVec 6) (a : MAddr) : SlotReq.Keeps (reqSwinit q sv a) :=
  ⟨fun _ _ => ⟨fun _ h => h, fun _ h => h, fun _ h => h⟩⟩

theorem execSwinit_inv (q : MQual) (sv : BitVec 6) (a : MAddr) (s : State) (hs : s.Inv) : OutKeeps (execSwinit q sv a s) :=
  issueForm_inv _ _ _ (reqSwinit_inv ..) hs

theorem reqSwarr_inv (q : MQual) (sv : BitVec 6) (a : MAddr) : SlotReq.Keeps (reqSwarr q sv a) :=
  ⟨fun _ _ => ⟨fun _ h => h, fun _ h => h, fun _ h => h⟩⟩

theorem execSwarr_inv (q : MQual) (sv : BitVec 6) (a : MAddr) (s : State) (hs : s.Inv) : OutKeeps (execSwarr q sv a s) :=
  issueForm_inv _ _ _ (reqSwarr_inv ..) hs

theorem State.withReads_inv (s s1 : State) (hs : s.Inv) (hs1 : s1.Inv) : State.Inv (State.withReads s s1) := by
  exact ⟨hs1.1, hs.2⟩

theorem reqSwwait_inv (q : MQual) (sv : BitVec 6) (a : MAddr) : SlotReq.Keeps (reqSwwait q sv a) := by
  unfold reqSwwait
  repeat' (first
    | with_reducible assumption
    | extract_lets
    | intro _
    | split
    | with_reducible apply State.onCtx_inv
    | with_reducible apply mReq_inv
    | with_reducible apply syncWord_inv
    | with_reducible apply syncHeld_inv
    | with_reducible apply State.withReads_inv
    | (with_reducible refine Res.Keeps.inv ?_ (by with_reducible assumption))
    | with_reducible apply Eff.Keeps.mk
    | dsimp only [id])
  all_goals
    rename_i hs
    first
    | exact State.Inv.mk_iff.mpr ⟨(Res.Keeps.inv (syncWord_inv _ _ _ ‹_›) ‹_›).1, hs.2⟩

theorem execSwwait_inv (q : MQual) (sv : BitVec 6) (a : MAddr) (s : State) (hs : s.Inv) : OutKeeps (execSwwait q sv a s) :=
  issueForm_inv _ _ _ (reqSwwait_inv ..) hs

theorem reqSwpoll_inv (q : MQual) (sd : BitVec 6) (a : MAddr) : SlotReq.Keeps (reqSwpoll q sd a) :=
  ⟨fun _ _ => ⟨fun _ h => h, fun _ h => h, fun _ h => h⟩⟩

theorem execSwpoll_inv (q : MQual) (sd : BitVec 6) (a : MAddr) (s : State) (hs : s.Inv) : OutKeeps (execSwpoll q sd a s) :=
  issueForm_inv _ _ _ (reqSwpoll_inv ..) hs

theorem reqLlock_inv (q : MQual) (sd : BitVec 6) (a : MAddr) : SlotReq.Keeps (reqLlock q sd a) :=
  ⟨fun _ _ => ⟨fun _ h => h, fun _ h => h, fun _ h => h⟩⟩

theorem execLlock_inv (q : MQual) (sd : BitVec 6) (a : MAddr) (s : State) (hs : s.Inv) : OutKeeps (execLlock q sd a s) :=
  issueForm_inv _ _ _ (reqLlock_inv ..) hs

theorem reqLunlock_inv (q : MQual) (a : MAddr) : SlotReq.Keeps (reqLunlock q a) :=
  ⟨fun _ _ => ⟨fun _ h => h, fun _ h => h, fun _ h => h⟩⟩

theorem execLunlock_inv (q : MQual) (a : MAddr) (s : State) (hs : s.Inv) : OutKeeps (execLunlock q a s) :=
  issueForm_inv _ _ _ (reqLunlock_inv ..) hs

theorem reqRcfence_inv (q : MQual) (sv : BitVec 6) : SlotReq.Keeps (reqRcfence q sv) :=
  ⟨fun _ _ => ⟨fun _ h => h, fun _ h => h, fun _ h => h⟩⟩

theorem execRcfence_inv (q : MQual) (sv : BitVec 6) (s : State) (hs : s.Inv) : OutKeeps (execRcfence q sv s) :=
  issueForm_inv _ _ _ (reqRcfence_inv ..) hs

theorem reqXpld_inv (q : MQual) (xp : BitVec 3) (a : MAddr) : SlotReq.Keeps (reqXpld q xp a) :=
  ⟨fun _ _ => ⟨fun _ h => h, fun _ h => h, fun _ h => h⟩⟩

theorem execXpld_inv (q : MQual) (xp : BitVec 3) (a : MAddr) (s : State) (hs : s.Inv) : OutKeeps (execXpld q xp a s) :=
  issueForm_inv _ _ _ (reqXpld_inv ..) hs

theorem reqLaunch_inv (q : MQual) (sv : BitVec 6) (a : MAddr) : SlotReq.Keeps (reqLaunch q sv a) :=
  ⟨fun _ _ => ⟨fun _ h => h, fun _ h => h, fun _ h => h⟩⟩

theorem execLaunch_inv (q : MQual) (sv : BitVec 6) (a : MAddr) (s : State) (hs : s.Inv) : OutKeeps (execLaunch q sv a s) :=
  issueForm_inv _ _ _ (reqLaunch_inv ..) hs

theorem State.prefetch_inv (s : State) (core dom scope prio : Nat) (w : W64) (hs : s.Inv) : State.Inv (State.prefetch s core dom scope prio w) := by
  unfold State.prefetch
  repeat' (first
    | with_reducible assumption
    | extract_lets
    | split
    | with_reducible apply State.setPrio_inv
    | with_reducible apply State.translate_inv
    | with_reducible apply State.l1Fill_inv
    | (with_reducible refine Res.Keeps.inv ?_ (by with_reducible assumption)))

theorem reqPref_inv (q : MQual) (a : MAddr) : SlotReq.Keeps (reqPref q a) := by
  unfold reqPref
  repeat' (first
    | with_reducible assumption
    | extract_lets
    | intro _
    | with_reducible apply mReq_inv
    | with_reducible apply State.prefetch_inv
    | with_reducible apply Eff.Keeps.mk
    | dsimp only [id])

theorem execPref_inv (q : MQual) (a : MAddr) (s : State) (hs : s.Inv) : OutKeeps (execPref q a s) :=
  issueForm_inv _ _ _ (reqPref_inv ..) hs

theorem reqBtw_inv (q : MQual) (vr : BitVec 10) (a : MAddr) : SlotReq.Keeps (reqBtw q vr a) := by
  unfold reqBtw
  repeat' (first
    | with_reducible assumption
    | extract_lets
    | intro _
    | split
    | with_reducible apply State.clearPoison_inv
    | with_reducible apply State.onCtx_inv
    | with_reducible apply mReq_inv
    | with_reducible apply Eff.Keeps.mk
    | dsimp only [id])

theorem execBtw_inv (q : MQual) (vr : BitVec 10) (a : MAddr) (s : State) (hs : s.Inv) : OutKeeps (execBtw q vr a s) :=
  issueForm_inv _ _ _ (reqBtw_inv ..) hs

/-! ## Machine/Vector.lean -/

theorem vBin_inv (m : Mask) (ty : BitVec 3) (vd va vb : BitVec 10) (p : BitVec 4) (iop : Nat → Nat → Nat → Nat) (fop : Nat → FVal → FVal → FVal) : SlotReq.Keeps (vBin m ty vd va vb p iop fop) :=
  ⟨fun _ _ => ⟨fun _ h => h, fun _ h => h, fun _ h => h⟩⟩

theorem vPick_inv (m : Mask) (ty : BitVec 3) (vd va vb : BitVec 10) (p : BitVec 4) (iop : Nat → Nat → Nat → Nat) (fop : FVal → FVal → FVal) : SlotReq.Keeps (vPick m ty vd va vb p iop fop) :=
  ⟨fun _ _ => ⟨fun _ h => h, fun _ h => h, fun _ h => h⟩⟩

theorem vUn_inv (m : Mask) (ty : BitVec 3) (vd va : BitVec 10) (p : BitVec 4) (iop : Nat → Nat → Nat) (fop : FVal → FVal) : SlotReq.Keeps (vUn m ty vd va p iop fop) :=
  ⟨fun _ _ => ⟨fun _ h => h, fun _ h => h, fun _ h => h⟩⟩

theorem vCmp_inv (m : Mask) (ty : BitVec 3) (pd : BitVec 4) (va vb : BitVec 10) (p : BitVec 4) (iop : Nat → Nat → Nat → Bool) (fop : FVal → FVal → Bool) : SlotReq.Keeps (vCmp m ty pd va vb p iop fop) :=
  ⟨fun _ _ => ⟨fun _ h => h, fun _ h => h, fun _ h => h⟩⟩

theorem vRed_inv (m : Mask) (ty : BitVec 3) (vd va : BitVec 10) (p : BitVec 4) (iop : Nat → Nat → Nat → Nat) (node : Env → Nat → RNode → RNode → RNode) (ident : Env → Nat → Nat) : SlotReq.Keeps (vRed m ty vd va p iop node ident) :=
  ⟨fun _ _ => ⟨fun _ h => h, fun _ h => h, fun _ h => h⟩⟩

theorem vMove_inv (m : Mask) (vd lat energy : Nat) (reads : List Nat) (lanes : Env → BitVec 256) (v : Env → Vec) : SlotReq.Keeps (vMove m vd lat energy reads lanes v) :=
  ⟨fun _ _ => ⟨fun _ h => h, fun _ h => h, fun _ h => h⟩⟩

theorem reqVadd_inv (m : Mask) (ty : BitVec 3) (vd : BitVec 10) (va : BitVec 10) (vb : BitVec 10) (p : BitVec 4) : SlotReq.Keeps (reqVadd m ty vd va vb p) :=
  ⟨fun _ _ => ⟨fun _ h => h, fun _ h => h, fun _ h => h⟩⟩

theorem execVadd_inv (m : Mask) (ty : BitVec 3) (vd : BitVec 10) (va : BitVec 10) (vb : BitVec 10) (p : BitVec 4) (s : State) (hs : s.Inv) : OutKeeps (execVadd m ty vd va vb p s) :=
  issueForm_inv _ _ _ (reqVadd_inv ..) hs

theorem reqVsub_inv (m : Mask) (ty : BitVec 3) (vd : BitVec 10) (va : BitVec 10) (vb : BitVec 10) (p : BitVec 4) : SlotReq.Keeps (reqVsub m ty vd va vb p) :=
  ⟨fun _ _ => ⟨fun _ h => h, fun _ h => h, fun _ h => h⟩⟩

theorem execVsub_inv (m : Mask) (ty : BitVec 3) (vd : BitVec 10) (va : BitVec 10) (vb : BitVec 10) (p : BitVec 4) (s : State) (hs : s.Inv) : OutKeeps (execVsub m ty vd va vb p s) :=
  issueForm_inv _ _ _ (reqVsub_inv ..) hs

theorem reqVmul_inv (m : Mask) (ty : BitVec 3) (vd : BitVec 10) (va : BitVec 10) (vb : BitVec 10) (p : BitVec 4) : SlotReq.Keeps (reqVmul m ty vd va vb p) :=
  ⟨fun _ _ => ⟨fun _ h => h, fun _ h => h, fun _ h => h⟩⟩

theorem execVmul_inv (m : Mask) (ty : BitVec 3) (vd : BitVec 10) (va : BitVec 10) (vb : BitVec 10) (p : BitVec 4) (s : State) (hs : s.Inv) : OutKeeps (execVmul m ty vd va vb p s) :=
  issueForm_inv _ _ _ (reqVmul_inv ..) hs

theorem reqVfma_inv (m : Mask) (ty : BitVec 3) (vd : BitVec 10) (va : BitVec 10) (vb : BitVec 10) (p : BitVec 4) : SlotReq.Keeps (reqVfma m ty vd va vb p) :=
  ⟨fun _ _ => ⟨fun _ h => h, fun _ h => h, fun _ h => h⟩⟩

theorem execVfma_inv (m : Mask) (ty : BitVec 3) (vd : BitVec 10) (va : BitVec 10) (vb : BitVec 10) (p : BitVec 4) (s : State) (hs : s.Inv) : OutKeeps (execVfma m ty vd va vb p s) :=
  issueForm_inv _ _ _ (reqVfma_inv ..) hs

theorem reqVmin_inv (m : Mask) (ty : BitVec 3) (vd : BitVec 10) (va : BitVec 10) (vb : BitVec 10) (p : BitVec 4) : SlotReq.Keeps (reqVmin m ty vd va vb p) :=
  ⟨fun _ _ => ⟨fun _ h => h, fun _ h => h, fun _ h => h⟩⟩

theorem execVmin_inv (m : Mask) (ty : BitVec 3) (vd : BitVec 10) (va : BitVec 10) (vb : BitVec 10) (p : BitVec 4) (s : State) (hs : s.Inv) : OutKeeps (execVmin m ty vd va vb p s) :=
  issueForm_inv _ _ _ (reqVmin_inv ..) hs

theorem reqVmax_inv (m : Mask) (ty : BitVec 3) (vd : BitVec 10) (va : BitVec 10) (vb : BitVec 10) (p : BitVec 4) : SlotReq.Keeps (reqVmax m ty vd va vb p) :=
  ⟨fun _ _ => ⟨fun _ h => h, fun _ h => h, fun _ h => h⟩⟩

theorem execVmax_inv (m : Mask) (ty : BitVec 3) (vd : BitVec 10) (va : BitVec 10) (vb : BitVec 10) (p : BitVec 4) (s : State) (hs : s.Inv) : OutKeeps (execVmax m ty vd va vb p s) :=
  issueForm_inv _ _ _ (reqVmax_inv ..) hs

theorem reqVminn_inv (m : Mask) (ty : BitVec 3) (vd : BitVec 10) (va : BitVec 10) (vb : BitVec 10) (p : BitVec 4) : SlotReq.Keeps (reqVminn m ty vd va vb p) :=
  ⟨fun _ _ => ⟨fun _ h => h, fun _ h => h, fun _ h => h⟩⟩

theorem execVminn_inv (m : Mask) (ty : BitVec 3) (vd : BitVec 10) (va : BitVec 10) (vb : BitVec 10) (p : BitVec 4) (s : State) (hs : s.Inv) : OutKeeps (execVminn m ty vd va vb p s) :=
  issueForm_inv _ _ _ (reqVminn_inv ..) hs

theorem reqVmaxn_inv (m : Mask) (ty : BitVec 3) (vd : BitVec 10) (va : BitVec 10) (vb : BitVec 10) (p : BitVec 4) : SlotReq.Keeps (reqVmaxn m ty vd va vb p) :=
  ⟨fun _ _ => ⟨fun _ h => h, fun _ h => h, fun _ h => h⟩⟩

theorem execVmaxn_inv (m : Mask) (ty : BitVec 3) (vd : BitVec 10) (va : BitVec 10) (vb : BitVec 10) (p : BitVec 4) (s : State) (hs : s.Inv) : OutKeeps (execVmaxn m ty vd va vb p s) :=
  issueForm_inv _ _ _ (reqVmaxn_inv ..) hs

theorem reqVabs_inv (m : Mask) (ty : BitVec 3) (vd : BitVec 10) (va : BitVec 10) (p : BitVec 4) : SlotReq.Keeps (reqVabs m ty vd va p) :=
  ⟨fun _ _ => ⟨fun _ h => h, fun _ h => h, fun _ h => h⟩⟩

theorem execVabs_inv (m : Mask) (ty : BitVec 3) (vd : BitVec 10) (va : BitVec 10) (p : BitVec 4) (s : State) (hs : s.Inv) : OutKeeps (execVabs m ty vd va p s) :=
  issueForm_inv _ _ _ (reqVabs_inv ..) hs

theorem reqVneg_inv (m : Mask) (ty : BitVec 3) (vd : BitVec 10) (va : BitVec 10) (p : BitVec 4) : SlotReq.Keeps (reqVneg m ty vd va p) :=
  ⟨fun _ _ => ⟨fun _ h => h, fun _ h => h, fun _ h => h⟩⟩

theorem execVneg_inv (m : Mask) (ty : BitVec 3) (vd : BitVec 10) (va : BitVec 10) (p : BitVec 4) (s : State) (hs : s.Inv) : OutKeeps (execVneg m ty vd va p s) :=
  issueForm_inv _ _ _ (reqVneg_inv ..) hs

theorem reqVand_inv (m : Mask) (ty : BitVec 3) (vd : BitVec 10) (va : BitVec 10) (vb : BitVec 10) (p : BitVec 4) : SlotReq.Keeps (reqVand m ty vd va vb p) :=
  ⟨fun _ _ => ⟨fun _ h => h, fun _ h => h, fun _ h => h⟩⟩

theorem execVand_inv (m : Mask) (ty : BitVec 3) (vd : BitVec 10) (va : BitVec 10) (vb : BitVec 10) (p : BitVec 4) (s : State) (hs : s.Inv) : OutKeeps (execVand m ty vd va vb p s) :=
  issueForm_inv _ _ _ (reqVand_inv ..) hs

theorem reqVor_inv (m : Mask) (ty : BitVec 3) (vd : BitVec 10) (va : BitVec 10) (vb : BitVec 10) (p : BitVec 4) : SlotReq.Keeps (reqVor m ty vd va vb p) :=
  ⟨fun _ _ => ⟨fun _ h => h, fun _ h => h, fun _ h => h⟩⟩

theorem execVor_inv (m : Mask) (ty : BitVec 3) (vd : BitVec 10) (va : BitVec 10) (vb : BitVec 10) (p : BitVec 4) (s : State) (hs : s.Inv) : OutKeeps (execVor m ty vd va vb p s) :=
  issueForm_inv _ _ _ (reqVor_inv ..) hs

theorem reqVxor_inv (m : Mask) (ty : BitVec 3) (vd : BitVec 10) (va : BitVec 10) (vb : BitVec 10) (p : BitVec 4) : SlotReq.Keeps (reqVxor m ty vd va vb p) :=
  ⟨fun _ _ => ⟨fun _ h => h, fun _ h => h, fun _ h => h⟩⟩

theorem execVxor_inv (m : Mask) (ty : BitVec 3) (vd : BitVec 10) (va : BitVec 10) (vb : BitVec 10) (p : BitVec 4) (s : State) (hs : s.Inv) : OutKeeps (execVxor m ty vd va vb p s) :=
  issueForm_inv _ _ _ (reqVxor_inv ..) hs

theorem reqVshl_inv (m : Mask) (ty : BitVec 3) (vd : BitVec 10) (va : BitVec 10) (vb : BitVec 10) (p : BitVec 4) : SlotReq.Keeps (reqVshl m ty vd va vb p) :=
  ⟨fun _ _ => ⟨fun _ h => h, fun _ h => h, fun _ h => h⟩⟩

theorem execVshl_inv (m : Mask) (ty : BitVec 3) (vd : BitVec 10) (va : BitVec 10) (vb : BitVec 10) (p : BitVec 4) (s : State) (hs : s.Inv) : OutKeeps (execVshl m ty vd va vb p s) :=
  issueForm_inv _ _ _ (reqVshl_inv ..) hs

theorem reqVshr_inv (m : Mask) (ty : BitVec 3) (vd : BitVec 10) (va : BitVec 10) (vb : BitVec 10) (p : BitVec 4) : SlotReq.Keeps (reqVshr m ty vd va vb p) :=
  ⟨fun _ _ => ⟨fun _ h => h, fun _ h => h, fun _ h => h⟩⟩

theorem execVshr_inv (m : Mask) (ty : BitVec 3) (vd : BitVec 10) (va : BitVec 10) (vb : BitVec 10) (p : BitVec 4) (s : State) (hs : s.Inv) : OutKeeps (execVshr m ty vd va vb p s) :=
  issueForm_inv _ _ _ (reqVshr_inv ..) hs

theorem reqVsar_inv (m : Mask) (ty : BitVec 3) (vd : BitVec 10) (va : BitVec 10) (vb : BitVec 10) (p : BitVec 4) : SlotReq.Keeps (reqVsar m ty vd va vb p) :=
  ⟨fun _ _ => ⟨fun _ h => h, fun _ h => h, fun _ h => h⟩⟩

theorem execVsar_inv (m : Mask) (ty : BitVec 3) (vd : BitVec 10) (va : BitVec 10) (vb : BitVec 10) (p : BitVec 4) (s : State) (hs : s.Inv) : OutKeeps (execVsar m ty vd va vb p s) :=
  issueForm_inv _ _ _ (reqVsar_inv ..) hs

theorem reqVceq_inv (m : Mask) (ty : BitVec 3) (pd : BitVec 4) (va : BitVec 10) (vb : BitVec 10) (p : BitVec 4) : SlotReq.Keeps (reqVceq m ty pd va vb p) :=
  ⟨fun _ _ => ⟨fun _ h => h, fun _ h => h, fun _ h => h⟩⟩

theorem execVceq_inv (m : Mask) (ty : BitVec 3) (pd : BitVec 4) (va : BitVec 10) (vb : BitVec 10) (p : BitVec 4) (s : State) (hs : s.Inv) : OutKeeps (execVceq m ty pd va vb p s) :=
  issueForm_inv _ _ _ (reqVceq_inv ..) hs

theorem reqVclt_inv (m : Mask) (ty : BitVec 3) (pd : BitVec 4) (va : BitVec 10) (vb : BitVec 10) (p : BitVec 4) : SlotReq.Keeps (reqVclt m ty pd va vb p) :=
  ⟨fun _ _ => ⟨fun _ h => h, fun _ h => h, fun _ h => h⟩⟩

theorem execVclt_inv (m : Mask) (ty : BitVec 3) (pd : BitVec 4) (va : BitVec 10) (vb : BitVec 10) (p : BitVec 4) (s : State) (hs : s.Inv) : OutKeeps (execVclt m ty pd va vb p s) :=
  issueForm_inv _ _ _ (reqVclt_inv ..) hs

theorem reqVcle_inv (m : Mask) (ty : BitVec 3) (pd : BitVec 4) (va : BitVec 10) (vb : BitVec 10) (p : BitVec 4) : SlotReq.Keeps (reqVcle m ty pd va vb p) :=
  ⟨fun _ _ => ⟨fun _ h => h, fun _ h => h, fun _ h => h⟩⟩

theorem execVcle_inv (m : Mask) (ty : BitVec 3) (pd : BitVec 4) (va : BitVec 10) (vb : BitVec 10) (p : BitVec 4) (s : State) (hs : s.Inv) : OutKeeps (execVcle m ty pd va vb p s) :=
  issueForm_inv _ _ _ (reqVcle_inv ..) hs

theorem reqVcltn_inv (m : Mask) (ty : BitVec 3) (pd : BitVec 4) (va : BitVec 10) (vb : BitVec 10) (p : BitVec 4) : SlotReq.Keeps (reqVcltn m ty pd va vb p) :=
  ⟨fun _ _ => ⟨fun _ h => h, fun _ h => h, fun _ h => h⟩⟩

theorem execVcltn_inv (m : Mask) (ty : BitVec 3) (pd : BitVec 4) (va : BitVec 10) (vb : BitVec 10) (p : BitVec 4) (s : State) (hs : s.Inv) : OutKeeps (execVcltn m ty pd va vb p s) :=
  issueForm_inv _ _ _ (reqVcltn_inv ..) hs

theorem reqVsel_inv (m : Mask) (ty : BitVec 3) (vd : BitVec 10) (va : BitVec 10) (vb : BitVec 10) (p : BitVec 4) : SlotReq.Keeps (reqVsel m ty vd va vb p) :=
  ⟨fun _ _ => ⟨fun _ h => h, fun _ h => h, fun _ h => h⟩⟩

theorem execVsel_inv (m : Mask) (ty : BitVec 3) (vd : BitVec 10) (va : BitVec 10) (vb : BitVec 10) (p : BitVec 4) (s : State) (hs : s.Inv) : OutKeeps (execVsel m ty vd va vb p s) :=
  issueForm_inv _ _ _ (reqVsel_inv ..) hs

theorem reqVcvt_inv (m : Mask) (ty : BitVec 3) (vd : BitVec 10) (va : BitVec 10) (st : BitVec 3) (p : BitVec 4) : SlotReq.Keeps (reqVcvt m ty vd va st p) :=
  ⟨fun _ _ => ⟨fun _ h => h, fun _ h => h, fun _ h => h⟩⟩

theorem execVcvt_inv (m : Mask) (ty : BitVec 3) (vd : BitVec 10) (va : BitVec 10) (st : BitVec 3) (p : BitVec 4) (s : State) (hs : s.Inv) : OutKeeps (execVcvt m ty vd va st p s) :=
  issueForm_inv _ _ _ (reqVcvt_inv ..) hs

theorem reqVrsum_inv (m : Mask) (ty : BitVec 3) (vd : BitVec 10) (va : BitVec 10) (p : BitVec 4) : SlotReq.Keeps (reqVrsum m ty vd va p) :=
  ⟨fun _ _ => ⟨fun _ h => h, fun _ h => h, fun _ h => h⟩⟩

theorem execVrsum_inv (m : Mask) (ty : BitVec 3) (vd : BitVec 10) (va : BitVec 10) (p : BitVec 4) (s : State) (hs : s.Inv) : OutKeeps (execVrsum m ty vd va p s) :=
  issueForm_inv _ _ _ (reqVrsum_inv ..) hs

theorem reqVrmax_inv (m : Mask) (ty : BitVec 3) (vd : BitVec 10) (va : BitVec 10) (p : BitVec 4) : SlotReq.Keeps (reqVrmax m ty vd va p) :=
  ⟨fun _ _ => ⟨fun _ h => h, fun _ h => h, fun _ h => h⟩⟩

theorem execVrmax_inv (m : Mask) (ty : BitVec 3) (vd : BitVec 10) (va : BitVec 10) (p : BitVec 4) (s : State) (hs : s.Inv) : OutKeeps (execVrmax m ty vd va p s) :=
  issueForm_inv _ _ _ (reqVrmax_inv ..) hs

theorem reqVcmpr_inv (m : Mask) (ty : BitVec 3) (vd : BitVec 10) (va : BitVec 10) (sc : BitVec 6) (p : BitVec 4) : SlotReq.Keeps (reqVcmpr m ty vd va sc p) :=
  ⟨fun _ _ => ⟨fun _ h => h, fun _ h => h, fun _ h => h⟩⟩

theorem execVcmpr_inv (m : Mask) (ty : BitVec 3) (vd : BitVec 10) (va : BitVec 10) (sc : BitVec 6) (p : BitVec 4) (s : State) (hs : s.Inv) : OutKeeps (execVcmpr m ty vd va sc p s) :=
  issueForm_inv _ _ _ (reqVcmpr_inv ..) hs

theorem reqVexpd_inv (m : Mask) (ty : BitVec 3) (vd : BitVec 10) (va : BitVec 10) (sc : BitVec 6) (p : BitVec 4) : SlotReq.Keeps (reqVexpd m ty vd va sc p) :=
  ⟨fun _ _ => ⟨fun _ h => h, fun _ h => h, fun _ h => h⟩⟩

theorem execVexpd_inv (m : Mask) (ty : BitVec 3) (vd : BitVec 10) (va : BitVec 10) (sc : BitVec 6) (p : BitVec 4) (s : State) (hs : s.Inv) : OutKeeps (execVexpd m ty vd va sc p s) :=
  issueForm_inv _ _ _ (reqVexpd_inv ..) hs

theorem reqVlog_inv (m : Mask) (ty : BitVec 3) (vd : BitVec 10) (va : BitVec 10) (p : BitVec 4) : SlotReq.Keeps (reqVlog m ty vd va p) :=
  ⟨fun _ _ => ⟨fun _ h => h, fun _ h => h, fun _ h => h⟩⟩

theorem execVlog_inv (m : Mask) (ty : BitVec 3) (vd : BitVec 10) (va : BitVec 10) (p : BitVec 4) (s : State) (hs : s.Inv) : OutKeeps (execVlog m ty vd va p s) :=
  issueForm_inv _ _ _ (reqVlog_inv ..) hs

theorem reqVexp_inv (m : Mask) (ty : BitVec 3) (vd : BitVec 10) (va : BitVec 10) (p : BitVec 4) : SlotReq.Keeps (reqVexp m ty vd va p) :=
  ⟨fun _ _ => ⟨fun _ h => h, fun _ h => h, fun _ h => h⟩⟩

theorem execVexp_inv (m : Mask) (ty : BitVec 3) (vd : BitVec 10) (va : BitVec 10) (p : BitVec 4) (s : State) (hs : s.Inv) : OutKeeps (execVexp m ty vd va p s) :=
  issueForm_inv _ _ _ (reqVexp_inv ..) hs

theorem reqVmov_inv (m : Mask) (ty : BitVec 3) (vd : BitVec 10) (va : BitVec 10) (p : BitVec 4) : SlotReq.Keeps (reqVmov m ty vd va p) :=
  ⟨fun _ _ => ⟨fun _ h => h, fun _ h => h, fun _ h => h⟩⟩

theorem execVmov_inv (m : Mask) (ty : BitVec 3) (vd : BitVec 10) (va : BitVec 10) (p : BitVec 4) (s : State) (hs : s.Inv) : OutKeeps (execVmov m ty vd va p s) :=
  issueForm_inv _ _ _ (reqVmov_inv ..) hs

theorem reqVsplat_inv (m : Mask) (ty : BitVec 3) (vd : BitVec 10) (va : BitVec 10) (vb : BitVec 10) (p : BitVec 4) : SlotReq.Keeps (reqVsplat m ty vd va vb p) :=
  ⟨fun _ _ => ⟨fun _ h => h, fun _ h => h, fun _ h => h⟩⟩

theorem execVsplat_inv (m : Mask) (ty : BitVec 3) (vd : BitVec 10) (va : BitVec 10) (vb : BitVec 10) (p : BitVec 4) (s : State) (hs : s.Inv) : OutKeeps (execVsplat m ty vd va vb p s) :=
  issueForm_inv _ _ _ (reqVsplat_inv ..) hs

theorem reqVany_inv (m : Mask) (ty : BitVec 3) (qd : BitVec 5) (va : BitVec 10) (p : BitVec 4) : SlotReq.Keeps (reqVany m ty qd va p) :=
  ⟨fun _ _ => ⟨fun _ h => h, fun _ h => h, fun _ h => h⟩⟩

theorem execVany_inv (m : Mask) (ty : BitVec 3) (qd : BitVec 5) (va : BitVec 10) (p : BitVec 4) (s : State) (hs : s.Inv) : OutKeeps (execVany m ty qd va p s) :=
  issueForm_inv _ _ _ (reqVany_inv ..) hs

theorem reqVlnadd_inv (m : Mask) (ty : BitVec 3) (vd : BitVec 10) (va : BitVec 10) (vb : BitVec 10) (p : BitVec 4) : SlotReq.Keeps (reqVlnadd m ty vd va vb p) :=
  ⟨fun _ _ => ⟨fun _ h => h, fun _ h => h, fun _ h => h⟩⟩

theorem execVlnadd_inv (m : Mask) (ty : BitVec 3) (vd : BitVec 10) (va : BitVec 10) (vb : BitVec 10) (p : BitVec 4) (s : State) (hs : s.Inv) : OutKeeps (execVlnadd m ty vd va vb p s) :=
  issueForm_inv _ _ _ (reqVlnadd_inv ..) hs

/-! ## Machine/Xbar.lean -/

theorem xReq_inv (m : Mask) (vd va : BitVec 10) (sz : BitVec 2) (src : Nat → Nat → Nat) : SlotReq.Keeps (xReq m vd va sz src) :=
  ⟨fun _ _ => ⟨fun _ h => h, fun _ h => h, fun _ h => h⟩⟩

theorem reqXperm_inv (m : Mask) (vd : BitVec 10) (va : BitVec 10) (k : BitVec 3) (sz : BitVec 2) : SlotReq.Keeps (reqXperm m vd va k sz) :=
  ⟨fun _ _ => ⟨fun _ h => h, fun _ h => h, fun _ h => h⟩⟩

theorem execXperm_inv (m : Mask) (vd : BitVec 10) (va : BitVec 10) (k : BitVec 3) (sz : BitVec 2) (s : State) (hs : s.Inv) : OutKeeps (execXperm m vd va k sz s) :=
  issueForm_inv _ _ _ (reqXperm_inv ..) hs

theorem reqXrev_inv (m : Mask) (vd : BitVec 10) (va : BitVec 10) (sz : BitVec 2) : SlotReq.Keeps (reqXrev m vd va sz) :=
  ⟨fun _ _ => ⟨fun _ h => h, fun _ h => h, fun _ h => h⟩⟩

theorem execXrev_inv (m : Mask) (vd : BitVec 10) (va : BitVec 10) (sz : BitVec 2) (s : State) (hs : s.Inv) : OutKeeps (execXrev m vd va sz s) :=
  issueForm_inv _ _ _ (reqXrev_inv ..) hs

theorem reqXzip_inv (m : Mask) (vd : BitVec 10) (va : BitVec 10) (sz : BitVec 2) : SlotReq.Keeps (reqXzip m vd va sz) :=
  ⟨fun _ _ => ⟨fun _ h => h, fun _ h => h, fun _ h => h⟩⟩

theorem execXzip_inv (m : Mask) (vd : BitVec 10) (va : BitVec 10) (sz : BitVec 2) (s : State) (hs : s.Inv) : OutKeeps (execXzip m vd va sz s) :=
  issueForm_inv _ _ _ (reqXzip_inv ..) hs

theorem reqXunzip_inv (m : Mask) (vd : BitVec 10) (va : BitVec 10) (sz : BitVec 2) : SlotReq.Keeps (reqXunzip m vd va sz) :=
  ⟨fun _ _ => ⟨fun _ h => h, fun _ h => h, fun _ h => h⟩⟩

theorem execXunzip_inv (m : Mask) (vd : BitVec 10) (va : BitVec 10) (sz : BitVec 2) (s : State) (hs : s.Inv) : OutKeeps (execXunzip m vd va sz s) :=
  issueForm_inv _ _ _ (reqXunzip_inv ..) hs

theorem reqXbcast_inv (m : Mask) (vd : BitVec 10) (va : BitVec 10) (k : BitVec 3) (sz : BitVec 2) : SlotReq.Keeps (reqXbcast m vd va k sz) :=
  ⟨fun _ _ => ⟨fun _ h => h, fun _ h => h, fun _ h => h⟩⟩

theorem execXbcast_inv (m : Mask) (vd : BitVec 10) (va : BitVec 10) (k : BitVec 3) (sz : BitVec 2) (s : State) (hs : s.Inv) : OutKeeps (execXbcast m vd va k sz s) :=
  issueForm_inv _ _ _ (reqXbcast_inv ..) hs

theorem reqXslide_inv (m : Mask) (vd : BitVec 10) (va : BitVec 10) (k : BitVec 3) (sz : BitVec 2) : SlotReq.Keeps (reqXslide m vd va k sz) :=
  ⟨fun _ _ => ⟨fun _ h => h, fun _ h => h, fun _ h => h⟩⟩

theorem execXslide_inv (m : Mask) (vd : BitVec 10) (va : BitVec 10) (k : BitVec 3) (sz : BitVec 2) (s : State) (hs : s.Inv) : OutKeeps (execXslide m vd va k sz s) :=
  issueForm_inv _ _ _ (reqXslide_inv ..) hs

theorem reqXtrn_inv (m : Mask) (vd : BitVec 10) (va : BitVec 10) (k : BitVec 3) (sz : BitVec 2) : SlotReq.Keeps (reqXtrn m vd va k sz) :=
  ⟨fun _ _ => ⟨fun _ h => h, fun _ h => h, fun _ h => h⟩⟩

theorem execXtrn_inv (m : Mask) (vd : BitVec 10) (va : BitVec 10) (k : BitVec 3) (sz : BitVec 2) (s : State) (hs : s.Inv) : OutKeeps (execXtrn m vd va k sz s) :=
  issueForm_inv _ _ _ (reqXtrn_inv ..) hs

/-! ## Machine/Tile.lean -/

theorem TPlan.numbered_inv (p : TPlan) (n : Nat) (hp : p.Keeps) : TPlan.Keeps (TPlan.numbered p n) := by
  unfold TPlan.numbered
  repeat' (first
    | with_reducible assumption
    | extract_lets
    | intro _
    | with_reducible apply hp.onHold
    | with_reducible apply hp.also
    | with_reducible apply TPlan.Keeps.mk)

theorem State.markFooting_inv (s : State) (c : Ctx) (id va : Nat) (hs : s.Inv) : State.Inv (State.markFooting s c id va) := by
  unfold State.markFooting
  repeat' (first
    | with_reducible assumption
    | extract_lets
    | split
    | with_reducible apply State.translate_inv
    | (simp only [State.Inv.mk_iff]; with_reducible apply State.Inv.both)
    | (with_reducible refine Res.Keeps.inv ?_ (by with_reducible assumption)))

theorem State.sinkTo_inv (s : State) (a : Nat) (c : Ctx) (id : Nat) (img : List Byte) (hs : s.Inv) : Res.Keeps (State.sinkTo s a c id img) := by
  unfold State.sinkTo
  repeat' (first
    | with_reducible assumption
    | extract_lets
    | split
    | with_reducible apply State.onCtx_inv
    | with_reducible apply State.writeFlatVia_inv
    | with_reducible apply State.markFooting_inv
    | with_reducible apply Res.keeps_ok
    | with_reducible exact Res.keeps_wait
    | with_reducible exact Res.keeps_fault
    | (with_reducible refine inv_fst ?_ (by with_reducible assumption)))

theorem tEff_inv (e : Env) (form : Instr) (t : TIn) (p : TPlan) (he : e.s.Inv) (ht : t.s.Inv) (hp : p.Keeps) : Eff.Keeps (tEff e form t p) := by
  unfold tEff
  repeat' (first
    | with_reducible assumption
    | extract_lets
    | intro _
    | split
    | with_reducible apply State.takeSeq_inv
    | with_reducible apply State.onCtx_inv
    | with_reducible apply hp.onHold
    | with_reducible apply hp.also
    | with_reducible apply Eff.Keeps.mk
    | dsimp only [id])

theorem tReq_inv (m : Mask) (form : Instr) (sp n w : Nat) (plan : TIn → TPlan) (hplan : ∀ t, t.s.Inv → (plan t).Keeps) : SlotReq.Keeps (tReq m form sp n w plan) :=
  ⟨fun e he => tEff_inv e form _ _ he he (hplan _ he)⟩

/-! ## Machine/TileStack.lean -/

theorem movePlan_inv (need pops : Nat) (binds out : List Entry) : TPlan.Keeps (movePlan need pops binds out) := by
  unfold movePlan
  repeat' (first
    | with_reducible assumption
    | extract_lets
    | intro _
    | with_reducible apply TPlan.Keeps.mk
    | dsimp only [id])

theorem vtPlan_inv (t : TIn) (n : Nat) (faults : List (Option TFault)) (r : Entry) (ht : t.s.Inv) : TPlan.Keeps (vtPlan t n faults r) := by
  unfold vtPlan
  repeat' (first
    | with_reducible assumption
    | extract_lets
    | intro _
    | with_reducible apply TPlan.Keeps.mk
    | dsimp only [id])

theorem binPlan_inv (mulScale : Bool) (t : TIn) (ht : t.s.Inv) : TPlan.Keeps (binPlan mulScale t) := by
  unfold binPlan
  repeat' (first
    | with_reducible assumption
    | extract_lets
    | with_reducible apply vtPlan_inv)

theorem trestlePlan_inv (fwd acc : Bool) (ep : BitVec 8) (pl : Bool) (t : TIn) (ht : t.s.Inv) : TPlan.Keeps (trestlePlan fwd acc ep pl t) := by
  unfold trestlePlan
  repeat' (first
    | with_reducible assumption
    | extract_lets
    | intro _
    | split
    | with_reducible apply TPlan.Keeps.mk
    | dsimp only [id]
    | dsimp +zetaDelta only)

theorem planTdup_inv (t : TIn) (ht : t.s.Inv) : TPlan.Keeps (planTdup t) := by
  unfold planTdup
  repeat' (first
    | with_reducible apply movePlan_inv)

theorem reqTdup_inv (m : Mask) : SlotReq.Keeps (reqTdup m) := by
  unfold reqTdup; exact tReq_inv _ _ _ _ _ _ fun t h => by apply planTdup_inv; exact h

theorem execTdup_inv (m : Mask) (s : State) (hs : s.Inv) : OutKeeps (execTdup m s) :=
  issueForm_inv _ _ _ (reqTdup_inv ..) hs

theorem planTdrop_inv (n : BitVec 8) (t : TIn) (ht : t.s.Inv) : TPlan.Keeps (planTdrop n t) := by
  unfold planTdrop
  repeat' (first
    | with_reducible apply movePlan_inv)

theorem reqTdrop_inv (m : Mask) (n : BitVec 8) : SlotReq.Keeps (reqTdrop m n) := by
  unfold reqTdrop; exact tReq_inv _ _ _ _ _ _ fun t h => by apply planTdrop_inv; exact h

theorem execTdrop_inv (m : Mask) (n : BitVec 8) (s : State) (hs : s.Inv) : OutKeeps (execTdrop m n s) :=
  issueForm_inv _ _ _ (reqTdrop_inv ..) hs

theorem planTswap_inv (t : TIn) (ht : t.s.Inv) : TPlan.Keeps (planTswap t) := by
  unfold planTswap
  repeat' (first
    | with_reducible apply movePlan_inv)

theorem reqTswap_inv (m : Mask) : SlotReq.Keeps (reqTswap m) := by
  unfold reqTswap; exact tReq_inv _ _ _ _ _ _ fun t h => by apply planTswap_inv; exact h

theorem execTswap_inv (m : Mask) (s : State) (hs : s.Inv) : OutKeeps (execTswap m s) :=
  issueForm_inv _ _ _ (reqTswap_inv ..) hs

theorem planTpick_inv (d : BitVec 8) (t : TIn) (ht : t.s.Inv) : TPlan.Keeps (planTpick d t) := by
  unfold planTpick
  repeat' (first
    | with_reducible apply movePlan_inv)

theorem reqTpick_inv (m : Mask) (d : BitVec 8) : SlotReq.Keeps (reqTpick m d) := by
  unfold reqTpick; exact tReq_inv _ _ _ _ _ _ fun t h => by apply planTpick_inv; exact h

theorem execTpick_inv (m : Mask) (d : BitVec 8) (s : State) (hs : s.Inv) : OutKeeps (execTpick m d s) :=
  issueForm_inv _ _ _ (reqTpick_inv ..) hs

theorem planTrot_inv (n : BitVec 8) (t : TIn) (ht : t.s.Inv) : TPlan.Keeps (planTrot n t) := by
  unfold planTrot
  repeat' (first
    | with_reducible apply movePlan_inv)

theorem reqTrot_inv (m : Mask) (n : BitVec 8) : SlotReq.Keeps (reqTrot m n) := by
  unfold reqTrot; exact tReq_inv _ _ _ _ _ _ fun t h => by apply planTrot_inv; exact h

theorem execTrot_inv (m : Mask) (n : BitVec 8) (s : State) (hs : s.Inv) : OutKeeps (execTrot m n s) :=
  issueForm_inv _ _ _ (reqTrot_inv ..) hs

theorem planTzero_inv (t : TIn) (ht : t.s.Inv) : TPlan.Keeps (planTzero t) := by
  unfold planTzero
  repeat' (first
    | with_reducible assumption
    | extract_lets
    | intro _
    | with_reducible apply TPlan.Keeps.mk
    | dsimp only [id])

theorem reqTzero_inv (m : Mask) (sp : BitVec 6) : SlotReq.Keeps (reqTzero m sp) := by
  unfold reqTzero; exact tReq_inv _ _ _ _ _ _ fun t h => by apply planTzero_inv; exact h

theorem execTzero_inv (m : Mask) (sp : BitVec 6) (s : State) (hs : s.Inv) : OutKeeps (execTzero m sp s) :=
  issueForm_inv _ _ _ (reqTzero_inv ..) hs

theorem planTinfo_inv (sd : BitVec 6) (d : BitVec 8) (t : TIn) (ht : t.s.Inv) : TPlan.Keeps (planTinfo sd d t) := by
  unfold planTinfo
  repeat' (first
    | with_reducible assumption
    | extract_lets
    | intro _
    | split
    | with_reducible apply TPlan.Keeps.mk
    | dsimp only [id])

theorem reqTinfo_inv (m : Mask) (sd : BitVec 6) (d : BitVec 8) : SlotReq.Keeps (reqTinfo m sd d) := by
  unfold reqTinfo; exact tReq_inv _ _ _ _ _ _ fun t h => by apply planTinfo_inv; exact h

theorem execTinfo_inv (m : Mask) (sd : BitVec 6) (d : BitVec 8) (s : State) (hs : s.Inv) : OutKeeps (execTinfo m sd d s) :=
  issueForm_inv _ _ _ (reqTinfo_inv ..) hs

theorem planTshape_inv (t : TIn) (ht : t.s.Inv) : TPlan.Keeps (planTshape t) := by
  unfold planTshape
  repeat' (first
    | with_reducible assumption
    | extract_lets
    | intro _
    | with_reducible apply TPlan.Keeps.mk
    | dsimp only [id])

theorem reqTshape_inv (m : Mask) (sp : BitVec 6) : SlotReq.Keeps (reqTshape m sp) := by
  unfold reqTshape; exact tReq_inv _ _ _ _ _ _ fun t h => by apply planTshape_inv; exact h

theorem execTshape_inv (m : Mask) (sp : BitVec 6) (s : State) (hs : s.Inv) : OutKeeps (execTshape m sp s) :=
  issueForm_inv _ _ _ (reqTshape_inv ..) hs

theorem planTscale_inv (k : BitVec 8) (t : TIn) (ht : t.s.Inv) : TPlan.Keeps (planTscale k t) := by
  unfold planTscale
  repeat' (first
    | with_reducible assumption
    | extract_lets
    | intro _
    | with_reducible apply TPlan.Keeps.mk
    | dsimp only [id])

theorem reqTscale_inv (m : Mask) (k : BitVec 8) : SlotReq.Keeps (reqTscale m k) := by
  unfold reqTscale; exact tReq_inv _ _ _ _ _ _ fun t h => by apply planTscale_inv; exact h

theorem execTscale_inv (m : Mask) (k : BitVec 8) (s : State) (hs : s.Inv) : OutKeeps (execTscale m k s) :=
  issueForm_inv _ _ _ (reqTscale_inv ..) hs

theorem planTlds_inv (t : TIn) (ht : t.s.Inv) : TPlan.Keeps (planTlds t) := by
  unfold planTlds
  repeat' (first
    | with_reducible assumption
    | extract_lets
    | intro _
    | with_reducible apply TPlan.Keeps.mk
    | dsimp only [id])

theorem reqTlds_inv (m : Mask) (sp : BitVec 6) (w : BitVec 4) : SlotReq.Keeps (reqTlds m sp w) := by
  unfold reqTlds; exact tReq_inv _ _ _ _ _ _ fun t h => by apply planTlds_inv; exact h

theorem execTlds_inv (m : Mask) (sp : BitVec 6) (w : BitVec 4) (s : State) (hs : s.Inv) : OutKeeps (execTlds m sp w s) :=
  issueForm_inv _ _ _ (reqTlds_inv ..) hs

theorem planTsts_inv (w : BitVec 4) (t : TIn) (ht : t.s.Inv) : TPlan.Keeps (planTsts w t) := by
  unfold planTsts
  repeat' (first
    | with_reducible assumption
    | extract_lets
    | intro _
    | with_reducible apply TPlan.Keeps.mk
    | dsimp only [id])

theorem reqTsts_inv (m : Mask) (sp : BitVec 6) (w : BitVec 4) : SlotReq.Keeps (reqTsts m sp w) := by
  unfold reqTsts; exact tReq_inv _ _ _ _ _ _ fun t h => by apply planTsts_inv; exact h

theorem execTsts_inv (m : Mask) (sp : BitVec 6) (w : BitVec 4) (s : State) (hs : s.Inv) : OutKeeps (execTsts m sp w s) :=
  issueForm_inv _ _ _ (reqTsts_inv ..) hs

theorem planTfromv_inv (v : BitVec 10) (t : TIn) (ht : t.s.Inv) : TPlan.Keeps (planTfromv v t) := by
  unfold planTfromv
  repeat' (first
    | with_reducible assumption
    | extract_lets
    | intro _
    | with_reducible apply TPlan.Keeps.mk
    | dsimp only [id])

theorem reqTfromv_inv (m : Mask) (v : BitVec 10) (sp : BitVec 6) : SlotReq.Keeps (reqTfromv m v sp) := by
  unfold reqTfromv; exact tReq_inv _ _ _ _ _ _ fun t h => by apply planTfromv_inv; exact h

theorem execTfromv_inv (m : Mask) (v : BitVec 10) (sp : BitVec 6) (s : State) (hs : s.Inv) : OutKeeps (execTfromv m v sp s) :=
  issueForm_inv _ _ _ (reqTfromv_inv ..) hs

theorem planTtov_inv (v : BitVec 10) (n : BitVec 8) (t : TIn) (ht : t.s.Inv) : TPlan.Keeps (planTtov v n t) := by
  unfold planTtov
  repeat' (first
    | with_reducible assumption
    | extract_lets
    | intro _
    | split
    | with_reducible apply TPlan.Keeps.mk
    | dsimp only [id])

theorem reqTtov_inv (m : Mask) (v : BitVec 10) (sp : BitVec 6) (n : BitVec 8) : SlotReq.Keeps (reqTtov m v sp n) := by
  unfold reqTtov; exact tReq_inv _ _ _ _ _ _ fun t h => by apply planTtov_inv; exact h

theorem execTtov_inv (m : Mask) (v : BitVec 10) (sp : BitVec 6) (n : BitVec 8) (s : State) (hs : s.Inv) : OutKeeps (execTtov m v sp n s) :=
  issueForm_inv _ _ _ (reqTtov_inv ..) hs

theorem planMwl_inv (pl : Bool) (t : TIn) (ht : t.s.Inv) : TPlan.Keeps (planMwl pl t) := by
  unfold planMwl
  repeat' (first
    | with_reducible assumption
    | extract_lets
    | intro _
    | split
    | with_reducible apply TPlan.Keeps.mk
    | dsimp only [id])

theorem reqMwl_inv (m : Mask) (pl : Bool) : SlotReq.Keeps (reqMwl m pl) := by
  unfold reqMwl; exact tReq_inv _ _ _ _ _ _ fun t h => by apply planMwl_inv; exact h

theorem execMwl_inv (m : Mask) (pl : Bool) (s : State) (hs : s.Inv) : OutKeeps (execMwl m pl s) :=
  issueForm_inv _ _ _ (reqMwl_inv ..) hs

theorem planMfw_inv (e : BitVec 8) (pl : Bool) (t : TIn) (ht : t.s.Inv) : TPlan.Keeps (planMfw e pl t) := by
  unfold planMfw
  repeat' (first
    | with_reducible assumption
    | with_reducible apply trestlePlan_inv)

theorem reqMfw_inv (m : Mask) (e : BitVec 8) (pl : Bool) : SlotReq.Keeps (reqMfw m e pl) := by
  unfold reqMfw; exact tReq_inv _ _ _ _ _ _ fun t h => by apply planMfw_inv; exact h

theorem execMfw_inv (m : Mask) (e : BitVec 8) (pl : Bool) (s : State) (hs : s.Inv) : OutKeeps (execMfw m e pl s) :=
  issueForm_inv _ _ _ (reqMfw_inv ..) hs

theorem planMfwa_inv (e : BitVec 8) (pl : Bool) (t : TIn) (ht : t.s.Inv) : TPlan.Keeps (planMfwa e pl t) := by
  unfold planMfwa
  repeat' (first
    | with_reducible assumption
    | with_reducible apply trestlePlan_inv)

theorem reqMfwa_inv (m : Mask) (e : BitVec 8) (pl : Bool) : SlotReq.Keeps (reqMfwa m e pl) := by
  unfold reqMfwa; exact tReq_inv _ _ _ _ _ _ fun t h => by apply planMfwa_inv; exact h

theorem execMfwa_inv (m : Mask) (e : BitVec 8) (pl : Bool) (s : State) (hs : s.Inv) : OutKeeps (execMfwa m e pl s) :=
  issueForm_inv _ _ _ (reqMfwa_inv ..) hs

theorem planMbk_inv (e : BitVec 8) (pl : Bool) (t : TIn) (ht : t.s.Inv) : TPlan.Keeps (planMbk e pl t) := by
  unfold planMbk
  repeat' (first
    | with_reducible assumption
    | with_reducible apply trestlePlan_inv)

theorem reqMbk_inv (m : Mask) (e : BitVec 8) (pl : Bool) : SlotReq.Keeps (reqMbk m e pl) := by
  unfold reqMbk; exact tReq_inv _ _ _ _ _ _ fun t h => by apply planMbk_inv; exact h

theorem execMbk_inv (m : Mask) (e : BitVec 8) (pl : Bool) (s : State) (hs : s.Inv) : OutKeeps (execMbk m e pl s) :=
  issueForm_inv _ _ _ (reqMbk_inv ..) hs

theorem planMbka_inv (e : BitVec 8) (pl : Bool) (t : TIn) (ht : t.s.Inv) : TPlan.Keeps (planMbka e pl t) := by
  unfold planMbka
  repeat' (first
    | with_reducible assumption
    | with_reducible apply trestlePlan_inv)

theorem reqMbka_inv (m : Mask) (e : BitVec 8) (pl : Bool) : SlotReq.Keeps (reqMbka m e pl) := by
  unfold reqMbka; exact tReq_inv _ _ _ _ _ _ fun t h => by apply planMbka_inv; exact h

theorem execMbka_inv (m : Mask) (e : BitVec 8) (pl : Bool) (s : State) (hs : s.Inv) : OutKeeps (execMbka m e pl s) :=
  issueForm_inv _ _ _ (reqMbka_inv ..) hs

theorem planMwrel_inv (pl : Bool) (t : TIn) (ht : t.s.Inv) : TPlan.Keeps (planMwrel pl t) := by
  unfold planMwrel
  repeat' (first
    | with_reducible assumption
    | extract_lets
    | intro _
    | split
    | with_reducible apply TPlan.Keeps.mk
    | dsimp only [id])

theorem reqMwrel_inv (m : Mask) (pl : Bool) : SlotReq.Keeps (reqMwrel m pl) := by
  unfold reqMwrel; exact tReq_inv _ _ _ _ _ _ fun t h => by apply planMwrel_inv; exact h

theorem execMwrel_inv (m : Mask) (pl : Bool) (s : State) (hs : s.Inv) : OutKeeps (execMwrel m pl s) :=
  issueForm_inv _ _ _ (reqMwrel_inv ..) hs

theorem planTadd_inv (t : TIn) (ht : t.s.Inv) : TPlan.Keeps (planTadd t) := by
  unfold planTadd
  repeat' (first
    | with_reducible assumption
    | with_reducible apply binPlan_inv)

theorem reqTadd_inv (m : Mask) : SlotReq.Keeps (reqTadd m) := by
  unfold reqTadd; exact tReq_inv _ _ _ _ _ _ fun t h => by apply planTadd_inv; exact h

theorem execTadd_inv (m : Mask) (s : State) (hs : s.Inv) : OutKeeps (execTadd m s) :=
  issueForm_inv _ _ _ (reqTadd_inv ..) hs

theorem planTsub_inv (t : TIn) (ht : t.s.Inv) : TPlan.Keeps (planTsub t) := by
  unfold planTsub
  repeat' (first
    | with_reducible assumption
    | with_reducible apply binPlan_inv)

theorem reqTsub_inv (m : Mask) : SlotReq.Keeps (reqTsub m) := by
  unfold reqTsub; exact tReq_inv _ _ _ _ _ _ fun t h => by apply planTsub_inv; exact h

theorem execTsub_inv (m : Mask) (s : State) (hs : s.Inv) : OutKeeps (execTsub m s) :=
  issueForm_inv _ _ _ (reqTsub_inv ..) hs

theorem planTmul_inv (t : TIn) (ht : t.s.Inv) : TPlan.Keeps (planTmul t) := by
  unfold planTmul
  repeat' (first
    | with_reducible assumption
    | with_reducible apply binPlan_inv)

theorem reqTmul_inv (m : Mask) : SlotReq.Keeps (reqTmul m) := by
  unfold reqTmul; exact tReq_inv _ _ _ _ _ _ fun t h => by apply planTmul_inv; exact h

theorem execTmul_inv (m : Mask) (s : State) (hs : s.Inv) : OutKeeps (execTmul m s) :=
  issueForm_inv _ _ _ (reqTmul_inv ..) hs

theorem planTmax_inv (t : TIn) (ht : t.s.Inv) : TPlan.Keeps (planTmax t) := by
  unfold planTmax
  repeat' (first
    | with_reducible assumption
    | with_reducible apply binPlan_inv)

theorem reqTmax_inv (m : Mask) : SlotReq.Keeps (reqTmax m) := by
  unfold reqTmax; exact tReq_inv _ _ _ _ _ _ fun t h => by apply planTmax_inv; exact h

theorem execTmax_inv (m : Mask) (s : State) (hs : s.Inv) : OutKeeps (execTmax m s) :=
  issueForm_inv _ _ _ (reqTmax_inv ..) hs

theorem planTmin_inv (t : TIn) (ht : t.s.Inv) : TPlan.Keeps (planTmin t) := by
  unfold planTmin
  repeat' (first
    | with_reducible assumption
    | with_reducible apply binPlan_inv)

theorem reqTmin_inv (m : Mask) : SlotReq.Keeps (reqTmin m) := by
  unfold reqTmin; exact tReq_inv _ _ _ _ _ _ fun t h => by apply planTmin_inv; exact h

theorem execTmin_inv (m : Mask) (s : State) (hs : s.Inv) : OutKeeps (execTmin m s) :=
  issueForm_inv _ _ _ (reqTmin_inv ..) hs

theorem planTfma_inv (t : TIn) (ht : t.s.Inv) : TPlan.Keeps (planTfma t) := by
  unfold planTfma
  repeat' (first
    | with_reducible assumption
    | extract_lets
    | with_reducible apply vtPlan_inv)

theorem reqTfma_inv (m : Mask) : SlotReq.Keeps (reqTfma m) := by
  unfold reqTfma; exact tReq_inv _ _ _ _ _ _ fun t h => by apply planTfma_inv; exact h

theorem execTfma_inv (m : Mask) (s : State) (hs : s.Inv) : OutKeeps (execTfma m s) :=
  issueForm_inv _ _ _ (reqTfma_inv ..) hs

theorem planTcvt_inv (k : BitVec 8) (f : BitVec 6) (t : TIn) (ht : t.s.Inv) : TPlan.Keeps (planTcvt k f t) := by
  unfold planTcvt
  repeat' (first
    | with_reducible assumption
    | extract_lets
    | with_reducible apply vtPlan_inv)

theorem reqTcvt_inv (m : Mask) (k : BitVec 8) (f : BitVec 6) : SlotReq.Keeps (reqTcvt m k f) := by
  unfold reqTcvt; exact tReq_inv _ _ _ _ _ _ fun t h => by apply planTcvt_inv; exact h

theorem execTcvt_inv (m : Mask) (k : BitVec 8) (f : BitVec 6) (s : State) (hs : s.Inv) : OutKeeps (execTcvt m k f s) :=
  issueForm_inv _ _ _ (reqTcvt_inv ..) hs

theorem planTact_inv (t : TIn) (ht : t.s.Inv) : TPlan.Keeps (planTact t) := by
  unfold planTact
  repeat' (first
    | with_reducible assumption
    | extract_lets
    | with_reducible apply vtPlan_inv)

theorem reqTact_inv (m : Mask) (f : BitVec 8) : SlotReq.Keeps (reqTact m f) := by
  unfold reqTact; exact tReq_inv _ _ _ _ _ _ fun t h => by apply planTact_inv; exact h

theorem execTact_inv (m : Mask) (f : BitVec 8) (s : State) (hs : s.Inv) : OutKeeps (execTact m f s) :=
  issueForm_inv _ _ _ (reqTact_inv ..) hs

theorem planTrsum_inv (t : TIn) (ht : t.s.Inv) : TPlan.Keeps (planTrsum t) := by
  unfold planTrsum
  repeat' (first
    | with_reducible assumption
    | extract_lets
    | split
    | with_reducible apply vtPlan_inv)

theorem reqTrsum_inv (m : Mask) : SlotReq.Keeps (reqTrsum m) := by
  unfold reqTrsum; exact tReq_inv _ _ _ _ _ _ fun t h => by apply planTrsum_inv; exact h

theorem execTrsum_inv (m : Mask) (s : State) (hs : s.Inv) : OutKeeps (execTrsum m s) :=
  issueForm_inv _ _ _ (reqTrsum_inv ..) hs

theorem planTcsum_inv (t : TIn) (ht : t.s.Inv) : TPlan.Keeps (planTcsum t) := by
  unfold planTcsum
  repeat' (first
    | with_reducible assumption
    | extract_lets
    | split
    | with_reducible apply vtPlan_inv)

theorem reqTcsum_inv (m : Mask) : SlotReq.Keeps (reqTcsum m) := by
  unfold reqTcsum; exact tReq_inv _ _ _ _ _ _ fun t h => by apply planTcsum_inv; exact h

theorem execTcsum_inv (m : Mask) (s : State) (hs : s.Inv) : OutKeeps (execTcsum m s) :=
  issueForm_inv _ _ _ (reqTcsum_inv ..) hs

theorem planTxp_inv (t : TIn) (ht : t.s.Inv) : TPlan.Keeps (planTxp t) := by
  unfold planTxp
  repeat' (first
    | with_reducible assumption
    | extract_lets
    | with_reducible apply vtPlan_inv)

theorem reqTxp_inv (m : Mask) : SlotReq.Keeps (reqTxp m) := by
  unfold reqTxp; exact tReq_inv _ _ _ _ _ _ fun t h => by apply planTxp_inv; exact h

theorem execTxp_inv (m : Mask) (s : State) (hs : s.Inv) : OutKeeps (execTxp m s) :=
  issueForm_inv _ _ _ (reqTxp_inv ..) hs

/-! ## Machine/Records.lean -/

theorem State.asCopy_inv (s : State) (core : Option Nat) (t : Tag) (raw : List Byte) (hs : s.Inv) : State.Inv (State.asCopy s core t raw) := by
  unfold State.asCopy
  repeat' (first
    | with_reducible assumption
    | extract_lets
    | split
    | with_reducible apply State.openLine_inv
    | with_reducible apply State.refillAs_inv
    | with_reducible apply State.l1Drop_inv
    | dsimp +zetaDelta only)

theorem State.pickCopy_inv (s : State) (core : Option Nat) (t : Tag) (ws : List W64) (raw : List Byte) (hs : s.Inv) : State.Inv (State.pickCopy s core t ws raw).1 := by
  unfold State.pickCopy
  repeat' (first
    | with_reducible assumption
    | extract_lets
    | split
    | (simp only [State.Inv.mk_iff]; with_reducible apply State.Inv.both))

theorem State.readElem_inv (s : State) (tr : Bool) (core : Option Nat) (dom : Nat) (r : TRec) (ws : List W64) (copy : Option (List Byte)) (co : List Int) (hs : s.Inv) : Res.Keeps (State.readElem s tr core dom r ws copy co) := by
  unfold State.readElem
  repeat' (first
    | with_reducible assumption
    | extract_lets
    | split
    | with_reducible apply State.readVia_inv
    | with_reducible apply State.asCopy_inv
    | with_reducible apply Res.keeps_ok
    | with_reducible exact Res.keeps_wait
    | with_reducible exact Res.keeps_fault
    | (with_reducible refine Res.Keeps.inv ?_ (by with_reducible assumption)))

theorem State.readCells_inv (s : State) (tr : Bool) (core : Option Nat) (dom : Nat) (r : TRec) (ws : List W64) (picks : List (Tag × Option (List Byte))) (cs : List (List Int)) (hs : s.Inv) : Res.Keeps (State.readCells s tr core dom r ws picks cs) := by
  induction cs generalizing s picks with
  | nil =>
    unfold State.readCells
    repeat' (first
      | with_reducible assumption
      | with_reducible apply Res.keeps_ok)
  | cons p r ih =>
    unfold State.readCells
    repeat' (first
      | with_reducible assumption
      | with_reducible apply ih
      | extract_lets
      | split
      | with_reducible apply State.pickCopy_inv
      | with_reducible apply State.readElem_inv
      | with_reducible apply Res.keeps_ok
      | with_reducible exact Res.keeps_wait
      | with_reducible exact Res.keeps_fault
      | (with_reducible refine Res.Keeps.inv ?_ (by with_reducible assumption))
      | dsimp +zetaDelta only)

theorem State.readBox_inv (s : State) (tr : Bool) (core : Option Nat) (dom : Nat) (r : TRec) (ws : List W64) (cs : List (List Int)) (hs : s.Inv) : Res.Keeps (State.readBox s tr core dom r ws cs) := by
  unfold State.readBox
  repeat' (first
    | with_reducible assumption
    | with_reducible apply State.readCells_inv)

theorem State.overwrite_inv (s : State) (seen : List (Tag × List Nat)) (t : Tag) (ws : List (Nat × Byte)) (hs : s.Inv) : State.Inv (State.overwrite s seen t ws) := by
  unfold State.overwrite
  repeat' (first
    | with_reducible assumption
    | extract_lets
    | intro _
    | split
    | with_reducible apply State.l2Set_inv
    | with_reducible apply inv_foldl)

theorem State.writeCells_inv (s : State) (tr : Bool) (dom : Nat) (r : TRec) (seen : Option (List (Tag × List Nat))) (cs : List (List Int)) (bs : List Byte) (hs : s.Inv) : State.Inv (State.writeCells s tr dom r seen cs bs).1 := by
  induction cs generalizing s seen bs with
  | nil =>
    unfold State.writeCells
    repeat' (first
      | with_reducible assumption)
  | cons p r ih =>
    unfold State.writeCells
    repeat' (first
      | with_reducible assumption
      | with_reducible apply ih
      | extract_lets
      | split
      | with_reducible apply State.writeVia_inv
      | with_reducible apply State.asCopy_inv
      | with_reducible apply State.overwrite_inv
      | (with_reducible refine Res.Keeps.inv ?_ (by with_reducible assumption)))

theorem State.writeBox_inv (s : State) (tr : Bool) (dom : Nat) (r : TRec) (before cs : List (List Int)) (bs : List Byte) (hs : s.Inv) : State.Inv (State.writeBox s tr dom r before cs bs).1 := by
  unfold State.writeBox
  repeat' (first
    | with_reducible assumption
    | extract_lets
    | with_reducible apply State.writeCells_inv)

theorem State.touchRec_inv (s : State) (die dom id : Nat) (hs : s.Inv) : State.Inv (State.touchRec s die dom id) := by
  unfold State.touchRec
  repeat' (first
    | with_reducible assumption
    | split
    | (simp only [State.Inv.mk_iff]; with_reducible apply State.Inv.both))

/-! ## Machine/TileXfer.lean -/

theorem recPlan_inv (t : TIn) (base : TPlan) (k : TRec → TPlan) (ht : t.s.Inv) (hbase : base.Keeps) (hk : ∀ r, (k r).Keeps) : TPlan.Keeps (recPlan t base k) := by
  unfold recPlan
  repeat' (first
    | with_reducible assumption
    | with_reducible apply hk
    | extract_lets
    | intro _
    | split
    | with_reducible apply State.touchRec_inv
    | with_reducible apply hbase.onHold
    | with_reducible apply hbase.also
    | with_reducible apply TPlan.Keeps.mk
    | dsimp only [id]
    | dsimp +zetaDelta only
    | with_reducible apply TPlan.Keeps.also
    | with_reducible apply TPlan.Keeps.onHold)

theorem State.setLatch_inv (s : State) (c : Ctx) (id : Nat) (recomp : Bool) (hs : s.Inv) : State.Inv (State.setLatch s c id recomp) := by
  unfold State.setLatch
  repeat' (first
    | with_reducible assumption
    | split
    | (simp only [State.Inv.mk_iff]; with_reducible apply State.Inv.both))

theorem planTget_inv (t : TIn) (ht : t.s.Inv) : TPlan.Keeps (planTget t) := by
  unfold planTget
  repeat' (first
    | with_reducible assumption
    | extract_lets
    | intro _
    | with_reducible apply recPlan_inv
    | with_reducible apply TPlan.Keeps.mk
    | dsimp only [id])

theorem reqTget_inv (m : Mask) (sp : BitVec 6) (w : BitVec 4) : SlotReq.Keeps (reqTget m sp w) := by
  unfold reqTget; exact tReq_inv _ _ _ _ _ _ fun t h => by apply planTget_inv; exact h

theorem execTget_inv (m : Mask) (sp : BitVec 6) (w : BitVec 4) (s : State) (hs : s.Inv) : OutKeeps (execTget m sp w s) :=
  issueForm_inv _ _ _ (reqTget_inv ..) hs

theorem planTsend_inv (w : BitVec 4) (t : TIn) (ht : t.s.Inv) : TPlan.Keeps (planTsend w t) := by
  unfold planTsend
  repeat' (first
    | with_reducible assumption
    | extract_lets
    | intro _
    | with_reducible apply recPlan_inv
    | with_reducible apply TPlan.Keeps.mk
    | dsimp only [id]
    | dsimp +zetaDelta only)

theorem reqTsend_inv (m : Mask) (sp : BitVec 6) (w : BitVec 4) : SlotReq.Keeps (reqTsend m sp w) := by
  unfold reqTsend; exact tReq_inv _ _ _ _ _ _ fun t h => by apply planTsend_inv; exact h

theorem execTsend_inv (m : Mask) (sp : BitVec 6) (w : BitVec 4) (s : State) (hs : s.Inv) : OutKeeps (execTsend m sp w s) :=
  issueForm_inv _ _ _ (reqTsend_inv ..) hs

theorem planTsendq_inv (w : BitVec 4) (t : TIn) (ht : t.s.Inv) : TPlan.Keeps (planTsendq w t) := by
  unfold planTsendq
  repeat' (first
    | with_reducible assumption
    | extract_lets
    | intro _
    | with_reducible apply recPlan_inv
    | with_reducible apply TPlan.Keeps.mk
    | dsimp only [id]
    | dsimp +zetaDelta only)

theorem reqTsendq_inv (m : Mask) (sp : BitVec 6) (w : BitVec 4) : SlotReq.Keeps (reqTsendq m sp w) := by
  unfold reqTsendq; exact tReq_inv _ _ _ _ _ _ fun t h => by apply planTsendq_inv; exact h

theorem execTsendq_inv (m : Mask) (sp : BitVec 6) (w : BitVec 4) (s : State) (hs : s.Inv) : OutKeeps (execTsendq m sp w s) :=
  issueForm_inv _ _ _ (reqTsendq_inv ..) hs

theorem planAcopy_inv (t : TIn) (ht : t.s.Inv) : TPlan.Keeps (planAcopy t) := by
  unfold planAcopy
  repeat' (first
    | with_reducible assumption
    | extract_lets
    | intro _
    | with_reducible apply recPlan_inv
    | with_reducible apply TPlan.Keeps.mk
    | dsimp only [id])

theorem reqAcopy_inv (m : Mask) (sp : BitVec 6) (w : BitVec 4) : SlotReq.Keeps (reqAcopy m sp w) := by
  unfold reqAcopy; exact tReq_inv _ _ _ _ _ _ fun t h => by apply planAcopy_inv; exact h

theorem execAcopy_inv (m : Mask) (sp : BitVec 6) (w : BitVec 4) (s : State) (hs : s.Inv) : OutKeeps (execAcopy m sp w s) :=
  issueForm_inv _ _ _ (reqAcopy_inv ..) hs

theorem planAcopyw_inv (w : BitVec 4) (t : TIn) (ht : t.s.Inv) : TPlan.Keeps (planAcopyw w t) := by
  unfold planAcopyw
  repeat' (first
    | with_reducible assumption
    | extract_lets
    | intro _
    | with_reducible apply recPlan_inv
    | with_reducible apply TPlan.Keeps.mk
    | dsimp only [id]
    | dsimp +zetaDelta only)

theorem reqAcopyw_inv (m : Mask) (sp : BitVec 6) (w : BitVec 4) : SlotReq.Keeps (reqAcopyw m sp w) := by
  unfold reqAcopyw; exact tReq_inv _ _ _ _ _ _ fun t h => by apply planAcopyw_inv; exact h

theorem execAcopyw_inv (m : Mask) (sp : BitVec 6) (w : BitVec 4) (s : State) (hs : s.Inv) : OutKeeps (execAcopyw m sp w s) :=
  issueForm_inv _ _ _ (reqAcopyw_inv ..) hs

theorem planStash_inv (w : BitVec 4) (t : TIn) (ht : t.s.Inv) : TPlan.Keeps (planStash w t) := by
  unfold planStash
  repeat' (first
    | with_reducible assumption
    | extract_lets
    | intro _
    | with_reducible apply recPlan_inv
    | with_reducible apply TPlan.Keeps.mk
    | dsimp only [id]
    | dsimp +zetaDelta only)

theorem reqStash_inv (m : Mask) (sp : BitVec 6) (w : BitVec 4) : SlotReq.Keeps (reqStash m sp w) := by
  unfold reqStash; exact tReq_inv _ _ _ _ _ _ fun t h => by apply planStash_inv; exact h

theorem execStash_inv (m : Mask) (sp : BitVec 6) (w : BitVec 4) (s : State) (hs : s.Inv) : OutKeeps (execStash m sp w s) :=
  issueForm_inv _ _ _ (reqStash_inv ..) hs

theorem planRestore_inv (t : TIn) (ht : t.s.Inv) : TPlan.Keeps (planRestore t) := by
  unfold planRestore
  repeat' (first
    | with_reducible assumption
    | extract_lets
    | intro _
    | with_reducible apply recPlan_inv
    | with_reducible apply State.setLatch_inv
    | with_reducible apply TPlan.Keeps.mk
    | dsimp only [id])

theorem reqRestore_inv (m : Mask) (sp : BitVec 6) (w : BitVec 4) : SlotReq.Keeps (reqRestore m sp w) := by
  unfold reqRestore; exact tReq_inv _ _ _ _ _ _ fun t h => by apply planRestore_inv; exact h

theorem execRestore_inv (m : Mask) (sp : BitVec 6) (w : BitVec 4) (s : State) (hs : s.Inv) : OutKeeps (execRestore m sp w s) :=
  issueForm_inv _ _ _ (reqRestore_inv ..) hs

theorem planRecomp_inv (t : TIn) (ht : t.s.Inv) : TPlan.Keeps (planRecomp t) := by
  unfold planRecomp
  repeat' (first
    | with_reducible assumption
    | extract_lets
    | intro _
    | with_reducible apply recPlan_inv
    | with_reducible apply State.setLatch_inv
    | with_reducible apply TPlan.Keeps.mk
    | dsimp only [id])

theorem reqRecomp_inv (m : Mask) (sp : BitVec 6) : SlotReq.Keeps (reqRecomp m sp) := by
  unfold reqRecomp; exact tReq_inv _ _ _ _ _ _ fun t h => by apply planRecomp_inv; exact h

theorem execRecomp_inv (m : Mask) (sp : BitVec 6) (s : State) (hs : s.Inv) : OutKeeps (execRecomp m sp s) :=
  issueForm_inv _ _ _ (reqRecomp_inv ..) hs

theorem planGrad_inv (w : BitVec 4) (t : TIn) (ht : t.s.Inv) : TPlan.Keeps (planGrad w t) := by
  unfold planGrad
  repeat' (first
    | with_reducible assumption
    | extract_lets
    | intro _
    | with_reducible apply recPlan_inv
    | with_reducible apply TPlan.Keeps.mk
    | dsimp only [id]
    | dsimp +zetaDelta only)

theorem reqGrad_inv (m : Mask) (sp : BitVec 6) (w : BitVec 4) : SlotReq.Keeps (reqGrad m sp w) := by
  unfold reqGrad; exact tReq_inv _ _ _ _ _ _ fun t h => by apply planGrad_inv; exact h

theorem execGrad_inv (m : Mask) (sp : BitVec 6) (w : BitVec 4) (s : State) (hs : s.Inv) : OutKeeps (execGrad m sp w s) :=
  issueForm_inv _ _ _ (reqGrad_inv ..) hs

theorem planColl_inv (op : BitVec 4) (t : TIn) (ht : t.s.Inv) : TPlan.Keeps (planColl op t) := by
  unfold planColl
  repeat' (first
    | with_reducible assumption
    | extract_lets
    | intro _
    | with_reducible apply TPlan.Keeps.mk
    | dsimp only [id])

theorem reqColl_inv (m : Mask) (op : BitVec 4) (sp : BitVec 6) (w : BitVec 4) : SlotReq.Keeps (reqColl m op sp w) := by
  unfold reqColl; exact tReq_inv _ _ _ _ _ _ fun t h => by apply planColl_inv; exact h

theorem execColl_inv (m : Mask) (op : BitVec 4) (sp : BitVec 6) (w : BitVec 4) (s : State) (hs : s.Inv) : OutKeeps (execColl m op sp w s) :=
  issueForm_inv _ _ _ (reqColl_inv ..) hs

theorem planOf_inv (i : Instr) (t : TIn) (ht : t.s.Inv) : TPlan.Keeps (planOf i t) := by
  unfold planOf
  repeat' (first
    | with_reducible assumption
    | extract_lets
    | intro _
    | split
    | with_reducible apply planTdup_inv
    | with_reducible apply planTdrop_inv
    | with_reducible apply planTswap_inv
    | with_reducible apply planTpick_inv
    | with_reducible apply planTrot_inv
    | with_reducible apply planTzero_inv
    | with_reducible apply planTinfo_inv
    | with_reducible apply planTshape_inv
    | with_reducible apply planTscale_inv
    | with_reducible apply planTlds_inv
    | with_reducible apply planTsts_inv
    | with_reducible apply planTfromv_inv
    | with_reducible apply planTtov_inv
    | with_reducible apply planMwl_inv
    | with_reducible apply planMfw_inv
    | with_reducible apply planMfwa_inv
    | with_reducible apply planMbk_inv
    | with_reducible apply planMbka_inv
    | with_reducible apply planMwrel_inv
    | with_reducible apply planTadd_inv
    | with_reducible apply planTsub_inv
    | with_reducible apply planTmul_inv
    | with_reducible apply planTmax_inv
    | with_reducible apply planTmin_inv
    | with_reducible apply planTfma_inv
    | with_reducible apply planTcvt_inv
    | with_reducible apply planTact_inv
    | with_reducible apply planTrsum_inv
    | with_reducible apply planTcsum_inv
    | with_reducible apply planTxp_inv
    | with_reducible apply planTget_inv
    | with_reducible apply planTsend_inv
    | with_reducible apply planTsendq_inv
    | with_reducible apply planAcopy_inv
    | with_reducible apply planAcopyw_inv
    | with_reducible apply planStash_inv
    | with_reducible apply planRestore_inv
    | with_reducible apply planRecomp_inv
    | with_reducible apply planGrad_inv
    | with_reducible apply planColl_inv
    | with_reducible apply TPlan.Keeps.mk
    | dsimp only [id])

/-! ## Machine/Return.lean -/

theorem State.replayAll_inv (s : State) (a : Nat) (l : List TOp) (hs : s.Inv) : State.Inv (State.replayAll s a l).1 := by
  induction l generalizing s with
  | nil =>
    unfold State.replayAll
    repeat' (first
      | with_reducible assumption)
  | cons p r ih =>
    unfold State.replayAll
    repeat' (first
      | with_reducible assumption
      | with_reducible apply ih
      | extract_lets
      | split
      | with_reducible apply State.setCtx_inv)

theorem State.finishReturn_inv (s : State) (a : Nat) (hs : s.Inv) : State.Inv (State.finishReturn s a) := by
  unfold State.finishReturn
  repeat' (first
    | with_reducible assumption
    | extract_lets
    | split
    | with_reducible apply State.setCtx_inv
    | with_reducible apply State.takeTrap_inv
    | with_reducible apply State.returnTrap_inv
    | with_reducible apply State.replayAll_inv)

theorem reqTret_inv  : SlotReq.Keeps reqTret := by
  unfold reqTret
  repeat' (first
    | with_reducible assumption
    | extract_lets
    | intro _
    | with_reducible apply cReq_inv
    | with_reducible apply State.finishReturn_inv
    | with_reducible apply Eff.Keeps.mk
    | dsimp only [id])

theorem execTret_inv (s : State) (hs : s.Inv) : OutKeeps (execTret s) :=
  issueForm_inv _ _ _ reqTret_inv hs

/-! ## Machine/Bundle.lean -/

/-- The effects of every form keep the invariant. -/
theorem reqOf_keeps (i : Instr) (r : SlotReq) (h : reqOf i = some r) : r.Keeps := by
  cases i
  case br => cases h; exact reqBr_inv ..
  case loop => cases h; exact reqLoop_inv ..
  case loops => cases h; exact reqLoops_inv ..
  case fmtw => cases h; exact reqFmtw_inv ..
  case fmts => cases h; exact reqFmts_inv ..
  case sbar => cases h; exact reqSbar_inv ..
  case wwait => cases h; exact reqWwait_inv ..
  case trap => cases h; exact reqTrap_inv ..
  case brk => cases h; exact reqBrk_inv ..
  case jmp => cases h; exact reqJmp_inv ..
  case call => cases h; exact reqCall_inv ..
  case add => cases h; exact reqAdd_inv ..
  case sub => cases h; exact reqSub_inv ..
  case mul => cases h; exact reqMul_inv ..
  case mulh => cases h; exact reqMulh_inv ..
  case mulhn => cases h; exact reqMulhn_inv ..
  case div => cases h; exact reqDiv_inv ..
  case divn => cases h; exact reqDivn_inv ..
  case rem => cases h; exact reqRem_inv ..
  case remn => cases h; exact reqRemn_inv ..
  case and => cases h; exact reqAnd_inv ..
  case or => cases h; exact reqOr_inv ..
  case xor => cases h; exact reqXor_inv ..
  case andn => cases h; exact reqAndn_inv ..
  case shl => cases h; exact reqShl_inv ..
  case shr => cases h; exact reqShr_inv ..
  case sar => cases h; exact reqSar_inv ..
  case min => cases h; exact reqMin_inv ..
  case minn => cases h; exact reqMinn_inv ..
  case max => cases h; exact reqMax_inv ..
  case maxn => cases h; exact reqMaxn_inv ..
  case clz => cases h; exact reqClz_inv ..
  case popc => cases h; exact reqPopc_inv ..
  case bfx => cases h; exact reqBfx_inv ..
  case bfxn => cases h; exact reqBfxn_inv ..
  case bfi => cases h; exact reqBfi_inv ..
  case li => cases h; exact reqLi_inv ..
  case sel => cases h; exact reqSel_inv ..
  case ceq => cases h; exact reqCeq_inv ..
  case cne => cases h; exact reqCne_inv ..
  case clt => cases h; exact reqClt_inv ..
  case cltn => cases h; exact reqCltn_inv ..
  case cle => cases h; exact reqCle_inv ..
  case clen => cases h; exact reqClen_inv ..
  case qand => cases h; exact reqQand_inv ..
  case qor => cases h; exact reqQor_inv ..
  case qxor => cases h; exact reqQxor_inv ..
  case qget => cases h; exact reqQget_inv ..
  case qset => cases h; exact reqQset_inv ..
  case sget => cases h; exact reqSget_inv ..
  case sset => cases h; exact reqSset_inv ..
  case fadd => cases h; exact reqFadd_inv ..
  case fsub => cases h; exact reqFsub_inv ..
  case fmul => cases h; exact reqFmul_inv ..
  case ffma => cases h; exact reqFfma_inv ..
  case fmin => cases h; exact reqFmin_inv ..
  case fmax => cases h; exact reqFmax_inv ..
  case fclt => cases h; exact reqFclt_inv ..
  case fceq => cases h; exact reqFceq_inv ..
  case ftoi => cases h; exact reqFtoi_inv ..
  case itof => cases h; exact reqItof_inv ..
  case wjoin => cases h; exact reqWjoin_inv ..
  case wtos => cases h; exact reqWtos_inv ..
  case stow => cases h; exact reqStow_inv ..
  case ld => cases h; exact reqLd_inv ..
  case st => cases h; exact reqSt_inv ..
  case ldp => cases h; exact reqLdp_inv ..
  case stp => cases h; exact reqStp_inv ..
  case vld => cases h; exact reqVld_inv ..
  case vst => cases h; exact reqVst_inv ..
  case vldp => cases h; exact reqVldp_inv ..
  case vstp => cases h; exact reqVstp_inv ..
  case vgathp => cases h; exact reqVgathp_inv ..
  case vscatp => cases h; exact reqVscatp_inv ..
  case aadd => cases h; exact reqAadd_inv ..
  case amin => cases h; exact reqAmin_inv ..
  case aminn => cases h; exact reqAminn_inv ..
  case amax => cases h; exact reqAmax_inv ..
  case amaxn => cases h; exact reqAmaxn_inv ..
  case aswp => cases h; exact reqAswp_inv ..
  case acas => cases h; exact reqAcas_inv ..
  case afadd => cases h; exact reqAfadd_inv ..
  case wcheck => cases h; exact reqWcheck_inv ..
  case wall => cases h; exact reqWall_inv ..
  case swinit => cases h; exact reqSwinit_inv ..
  case swarr => cases h; exact reqSwarr_inv ..
  case swwait => cases h; exact reqSwwait_inv ..
  case swpoll => cases h; exact reqSwpoll_inv ..
  case llock => cases h; exact reqLlock_inv ..
  case lunlock => cases h; exact reqLunlock_inv ..
  case rcfence => cases h; exact reqRcfence_inv ..
  case xpld => cases h; exact reqXpld_inv ..
  case launch => cases h; exact reqLaunch_inv ..
  case pref => cases h; exact reqPref_inv ..
  case btw => cases h; exact reqBtw_inv ..
  case vadd => cases h; exact reqVadd_inv ..
  case vsub => cases h; exact reqVsub_inv ..
  case vmul => cases h; exact reqVmul_inv ..
  case vfma => cases h; exact reqVfma_inv ..
  case vmin => cases h; exact reqVmin_inv ..
  case vmax => cases h; exact reqVmax_inv ..
  case vminn => cases h; exact reqVminn_inv ..
  case vmaxn => cases h; exact reqVmaxn_inv ..
  case vand => cases h; exact reqVand_inv ..
  case vor => cases h; exact reqVor_inv ..
  case vxor => cases h; exact reqVxor_inv ..
  case vshl => cases h; exact reqVshl_inv ..
  case vshr => cases h; exact reqVshr_inv ..
  case vsar => cases h; exact reqVsar_inv ..
  case vsel => cases h; exact reqVsel_inv ..
  case vsplat => cases h; exact reqVsplat_inv ..
  case vlnadd => cases h; exact reqVlnadd_inv ..
  case vabs => cases h; exact reqVabs_inv ..
  case vneg => cases h; exact reqVneg_inv ..
  case vrsum => cases h; exact reqVrsum_inv ..
  case vrmax => cases h; exact reqVrmax_inv ..
  case vlog => cases h; exact reqVlog_inv ..
  case vexp => cases h; exact reqVexp_inv ..
  case vmov => cases h; exact reqVmov_inv ..
  case vceq => cases h; exact reqVceq_inv ..
  case vclt => cases h; exact reqVclt_inv ..
  case vcle => cases h; exact reqVcle_inv ..
  case vcltn => cases h; exact reqVcltn_inv ..
  case vcvt => cases h; exact reqVcvt_inv ..
  case vcmpr => cases h; exact reqVcmpr_inv ..
  case vexpd => cases h; exact reqVexpd_inv ..
  case vany => cases h; exact reqVany_inv ..
  case xperm => cases h; exact reqXperm_inv ..
  case xbcast => cases h; exact reqXbcast_inv ..
  case xslide => cases h; exact reqXslide_inv ..
  case xtrn => cases h; exact reqXtrn_inv ..
  case xrev => cases h; exact reqXrev_inv ..
  case xzip => cases h; exact reqXzip_inv ..
  case xunzip => cases h; exact reqXunzip_inv ..
  case tdup => cases h; exact reqTdup_inv ..
  case tdrop => cases h; exact reqTdrop_inv ..
  case tswap => cases h; exact reqTswap_inv ..
  case tpick => cases h; exact reqTpick_inv ..
  case trot => cases h; exact reqTrot_inv ..
  case tzero => cases h; exact reqTzero_inv ..
  case tinfo => cases h; exact reqTinfo_inv ..
  case tshape => cases h; exact reqTshape_inv ..
  case tscale => cases h; exact reqTscale_inv ..
  case tlds => cases h; exact reqTlds_inv ..
  case tsts => cases h; exact reqTsts_inv ..
  case tfromv => cases h; exact reqTfromv_inv ..
  case ttov => cases h; exact reqTtov_inv ..
  case mwl => cases h; exact reqMwl_inv ..
  case mfw => cases h; exact reqMfw_inv ..
  case mfwa => cases h; exact reqMfwa_inv ..
  case mbk => cases h; exact reqMbk_inv ..
  case mbka => cases h; exact reqMbka_inv ..
  case mwrel => cases h; exact reqMwrel_inv ..
  case tadd => cases h; exact reqTadd_inv ..
  case tsub => cases h; exact reqTsub_inv ..
  case tmul => cases h; exact reqTmul_inv ..
  case tmax => cases h; exact reqTmax_inv ..
  case tmin => cases h; exact reqTmin_inv ..
  case tfma => cases h; exact reqTfma_inv ..
  case tcvt => cases h; exact reqTcvt_inv ..
  case tact => cases h; exact reqTact_inv ..
  case trsum => cases h; exact reqTrsum_inv ..
  case tcsum => cases h; exact reqTcsum_inv ..
  case txp => cases h; exact reqTxp_inv ..
  case tget => cases h; exact reqTget_inv ..
  case tsend => cases h; exact reqTsend_inv ..
  case tsendq => cases h; exact reqTsendq_inv ..
  case acopy => cases h; exact reqAcopy_inv ..
  case acopyw => cases h; exact reqAcopyw_inv ..
  case stash => cases h; exact reqStash_inv ..
  case restore => cases h; exact reqRestore_inv ..
  case recomp => cases h; exact reqRecomp_inv ..
  case grad => cases h; exact reqGrad_inv ..
  case coll => cases h; exact reqColl_inv ..
  case lbreak => cases h; exact reqLbreak_inv
  case twait => cases h; exact reqTwait_inv
  case yield => cases h; exact reqYield_inv
  case tret => cases h; exact reqTret_inv
  case exit => cases h; exact reqExit_inv
  case statf => cases h; exact reqStatf_inv
  case ret => cases h; exact reqRet_inv
  all_goals cases h

/-- The effects of every form that the slots of a bundle hold keep the invariant. -/
theorem slotReqs_inv (z : Slots) : ∀ r ∈ slotReqs z, r.Keeps := by
  intro r h
  obtain ⟨i, -, hi⟩ := List.mem_filterMap.mp h
  cases i with
  | none => cases hi
  | some i => exact reqOf_keeps i r hi

theorem State.openGroup_inv (s : State) (a n : Nat) (steps : Unit16) (hs : s.Inv) : State.Inv (State.openGroup s a n steps) := by
  unfold State.openGroup
  repeat' (first
    | with_reducible assumption
    | with_reducible apply State.onCtx_inv)

theorem issueWord_inv (e : Env) (w : BundleWord) (lits : List Unit16) (extra : BitVec 8) (he : e.s.Inv) : State.Inv (issueWord e w lits extra) := by
  unfold issueWord
  repeat' (first
    | with_reducible assumption
    | split
    | with_reducible apply bundleFault_inv
    | (refine issueIn_inv _ _ ?_ (slotReqs_inv _)))

theorem State.bundleEnv_inv (s : State) (a : Nat) (h : Half) (unit len : Nat) (e : Env) (hs : s.Inv) (he : s.bundleEnv a h unit len = some e) :
    e.s.Inv := s.env_inv _ _ _ _ hs he

theorem State.issueItem_inv (s : State) (a : Nat) (c : Ctx) (h : Half) (r : Role) (hs : s.Inv) : State.Inv (State.issueItem s a c h r) := by
  unfold State.issueItem
  repeat' (first
    | with_reducible assumption
    | extract_lets
    | split
    | with_reducible apply State.onCtx_inv
    | with_reducible apply State.machineEvent_inv
    | with_reducible apply bundleFault_inv
    | with_reducible apply State.openGroup_inv
    | with_reducible apply issueWord_inv
    | (refine State.bundleEnv_inv _ _ _ _ _ _ ?_ (by with_reducible assumption))
    | dsimp +zetaDelta only)

theorem State.deliverPending_inv (s : State) (a : Nat) (c : Ctx) (p : TrapInfo × CodePos × W64) (hs : s.Inv) : State.Inv (State.deliverPending s a c p) := by
  unfold State.deliverPending
  repeat' (first
    | with_reducible assumption
    | split
    | with_reducible apply State.takeTrap_inv)

theorem State.issueAt_inv (s : State) (a : Nat) (hs : s.Inv) : State.Inv (State.issueAt s a) := by
  unfold State.issueAt
  repeat' (first
    | with_reducible assumption
    | extract_lets
    | split
    | with_reducible apply State.segment_inv
    | with_reducible apply State.machineEvent_inv
    | with_reducible apply trapAt_inv
    | with_reducible apply State.issueItem_inv
    | with_reducible apply State.deliverPending_inv
    | (with_reducible refine Res.Keeps.inv ?_ (by with_reducible assumption))
    | (refine State.env_inv _ _ _ _ _ ?_ (by with_reducible assumption)))

theorem State.seenIssue_inv (s : State) (a cid : Nat) (ready : List Nat) (hs : s.Inv) : State.Inv (State.seenIssue s a cid ready) := hs

theorem execBundleIssue_inv (a : Nat) (s : State) (hs : s.Inv) : OutKeeps (execBundleIssue a s) := by
  unfold execBundleIssue
  repeat' (first
    | with_reducible assumption
    | extract_lets
    | split
    | with_reducible apply State.onCore_inv
    | with_reducible apply State.issueAt_inv
    | with_reducible apply State.seenIssue_inv
    | with_reducible apply OutKeeps.next
    | (simp only [State.Inv.mk_iff]; with_reducible apply State.Inv.both))

theorem execRepeatPrefix_inv (c : BitVec 8) (s : State) (hs : s.Inv) : OutKeeps (execRepeatPrefix c s) := by
  unfold execRepeatPrefix
  repeat' (first
    | with_reducible assumption
    | extract_lets
    | split
    | with_reducible apply State.segment_inv
    | with_reducible apply State.openGroup_inv
    | with_reducible apply execBundleIssue_inv
    | with_reducible apply OutKeeps.next
    | with_reducible exact OutKeeps.fault
    | (with_reducible refine Res.Keeps.inv ?_ (by with_reducible assumption)))

theorem execHeldBundleRelease_inv (a : Nat) (s : State) (hs : s.Inv) : OutKeeps (execHeldBundleRelease a s) := by
  unfold execHeldBundleRelease
  repeat' (first
    | with_reducible assumption
    | split
    | with_reducible apply execBundleIssue_inv
    | with_reducible apply OutKeeps.next)

theorem execSegmentPrefetch_inv (a : Nat) (s : State) (hs : s.Inv) : OutKeeps (execSegmentPrefetch a s) := by
  unfold execSegmentPrefetch
  repeat' (first
    | with_reducible assumption
    | extract_lets
    | split
    | with_reducible apply State.onCtx_inv
    | with_reducible apply State.fetchSeg_inv
    | with_reducible apply State.clearKey_inv
    | with_reducible apply OutKeeps.next
    | (with_reducible refine Res.Keeps.inv ?_ (by with_reducible assumption)))

theorem execResultLanding_inv (a : Nat) (s : State) (hs : s.Inv) : OutKeeps (execResultLanding a s) := by
  unfold execResultLanding
  repeat' (first
    | with_reducible assumption
    | extract_lets
    | split
    | with_reducible apply State.landDue_inv
    | with_reducible apply State.machineEvent_inv
    | with_reducible apply OutKeeps.next)

end Sys2Proof.Machine
end

