-- ==== Sys2Proof/Laws/KeepEvents.lean ====
section
/-! SUPPORT. Each of the firmware, the system steps and what they are made of keeps the invariant of the machine: where it goes on, it does so in a state with it. -/

namespace Sys2Proof.Machine

set_option linter.all false

/-! ## Machine/Firmware.lean -/

theorem State.poolTake_inv (s : State) (hs : s.Inv) : State.Inv (State.poolTake s).1 := by
  unfold State.poolTake
  repeat' (first
    | with_reducible assumption
    | extract_lets
    | split
    | with_reducible apply State.fwWrite_inv
    | (simp only [State.Inv.mk_iff]; with_reducible apply State.Inv.both))

theorem State.poolGive_inv (s : State) (p : Nat) (hs : s.Inv) : State.Inv (State.poolGive s p) := hs

theorem State.invalidate_inv (s : State) (dom p n : Nat) (hs : s.Inv) : State.Inv (State.invalidate s dom p n) := by
  unfold State.invalidate
  repeat' (first
    | with_reducible assumption
    | extract_lets
    | intro _
    | with_reducible apply State.dropLine_inv
    | with_reducible apply inv_foldl
    | (simp only [State.Inv.mk_iff]; with_reducible apply State.Inv.both))

theorem State.pathTo_inv (s : State) (dom va level table : Nat) (levels : List (Nat × Nat × Nat)) (hs : s.Inv) : State.Inv (State.pathTo s dom va level table levels).1 := by
  induction levels generalizing s table with
  | nil =>
    unfold State.pathTo
    repeat' (first
      | with_reducible assumption)
  | cons p r ih =>
    unfold State.pathTo
    repeat' (first
      | with_reducible assumption
      | with_reducible apply ih
      | extract_lets
      | split
      | with_reducible apply State.fwWrite_inv
      | with_reducible apply State.poolTake_inv
      | with_reducible apply State.invalidate_inv
      | dsimp +zetaDelta only)

theorem State.freeTables_inv (s : State) (level : Nat) (e : W64) (hs : s.Inv) : State.Inv (State.freeTables s level e) := by
  induction level generalizing s e with
  | zero =>
    unfold State.freeTables
    repeat' (first
      | with_reducible assumption)
  | succ n ih =>
    unfold State.freeTables
    repeat' (first
      | with_reducible assumption
      | with_reducible apply ih
      | extract_lets
      | intro _
      | split
      | with_reducible apply State.poolGive_inv
      | with_reducible apply inv_foldl)

theorem State.rootOf_inv (s : State) (dom : Nat) (hs : s.Inv) : State.Inv (State.rootOf s dom).1 := by
  unfold State.rootOf
  repeat' (first
    | with_reducible assumption
    | extract_lets
    | split
    | with_reducible apply State.fwWrite_inv
    | with_reducible apply State.poolTake_inv
    | with_reducible apply State.pathTo_inv
    | (simp only [State.Inv.mk_iff]; with_reducible apply State.Inv.both)
    | dsimp +zetaDelta only)

theorem State.putEntry_inv (s : State) (dom level va : Nat) (e : W64) (hs : s.Inv) : State.Inv (State.putEntry s dom level va e).1 := by
  unfold State.putEntry
  repeat' (first
    | with_reducible assumption
    | extract_lets
    | split
    | with_reducible apply State.fwWrite_inv
    | with_reducible apply State.invalidate_inv
    | with_reducible apply State.pathTo_inv
    | with_reducible apply State.freeTables_inv
    | with_reducible apply State.rootOf_inv
    | dsimp +zetaDelta only)

theorem State.settleMoves_inv (s : State) (hs : s.Inv) : State.Inv (State.settleMoves s) := by
  unfold State.settleMoves
  repeat' (first
    | with_reducible assumption
    | extract_lets
    | intro _
    | with_reducible apply State.putEntry_inv
    | with_reducible apply inv_foldl
    | (simp only [State.Inv.mk_iff]; with_reducible apply State.Inv.both))

theorem State.mapPage_inv (s : State) (dom va pa : Nat) (r w x policy : Bool) (hs : s.Inv) : State.Inv (State.mapPage s dom va pa r w x policy) := by
  unfold State.mapPage
  repeat' (first
    | with_reducible assumption
    | split
    | with_reducible apply State.putEntry_inv)

theorem State.onAcc_inv (s : State) (i : Nat) (f : Access → Access) (hs : s.Inv) : State.Inv (State.onAcc s i f) := hs

theorem State.dropAccess_inv (s : State) (i : Nat) (hs : s.Inv) : State.Inv (State.dropAccess s i) := hs

theorem State.noteStoreFault_inv (s : State) (cid : Nat) (hs : s.Inv) : State.Inv (State.noteStoreFault s cid) := by
  unfold State.noteStoreFault
  repeat' (first
    | with_reducible assumption
    | split
    | with_reducible apply State.onTask_inv)

/-! ## Machine/EvMem.lean -/

theorem State.lockLine_inv (s : State) (t : Tag) (cid : Nat) (dev : Bool) (hs : s.Inv) : State.Inv (State.lockLine s t cid dev).1 := by
  unfold State.lockLine
  repeat' (first
    | with_reducible assumption
    | extract_lets
    | split
    | with_reducible apply State.l2Set_inv)

theorem State.readSp_inv (s : State) (x : Access) (hs : s.Inv) : Res.Keeps (State.readSp s x) := by
  unfold State.readSp
  repeat' (first
    | with_reducible assumption
    | split
    | with_reducible apply Res.keeps_ok
    | with_reducible exact Res.keeps_fault)

theorem State.readGlobal_inv (s : State) (x : Access) (p : Perm) (dev : Bool) (hs : s.Inv) : Res.Keeps (State.readGlobal s x p dev) := by
  unfold State.readGlobal
  repeat' (first
    | with_reducible assumption
    | extract_lets
    | split
    | with_reducible apply State.setPrio_inv
    | with_reducible apply State.readPast_inv
    | with_reducible apply State.readPlain_inv
    | with_reducible apply Res.keeps_ok
    | with_reducible exact Res.keeps_wait
    | with_reducible exact Res.keeps_fault
    | (with_reducible refine Res.Keeps.inv ?_ (by with_reducible assumption)))

theorem State.performRead_inv (s : State) (x : Access) (hs : s.Inv) : Res.Keeps (State.performRead s x) := by
  unfold State.performRead
  repeat' (first
    | with_reducible assumption
    | extract_lets
    | split
    | with_reducible apply State.l2Set_inv
    | with_reducible apply State.translate_inv
    | with_reducible apply State.lockLine_inv
    | with_reducible apply State.readSp_inv
    | with_reducible apply State.readGlobal_inv
    | with_reducible apply Res.keeps_ok
    | with_reducible exact Res.keeps_wait
    | with_reducible exact Res.keeps_fault
    | (with_reducible refine Res.Keeps.inv ?_ (by with_reducible assumption)))

theorem State.writeAll_inv (s : State) (dom : Nat) (l : List (Nat × List Byte)) (hs : s.Inv) : Res.Keeps (State.writeAll s dom l) := by
  induction l generalizing s with
  | nil =>
    unfold State.writeAll
    repeat' (first
      | with_reducible assumption
      | with_reducible apply Res.keeps_ok)
  | cons p r ih =>
    unfold State.writeAll
    repeat' (first
      | with_reducible assumption
      | with_reducible apply ih
      | extract_lets
      | split
      | with_reducible apply State.writeFlat_inv
      | with_reducible exact Res.keeps_wait
      | with_reducible exact Res.keeps_fault
      | (with_reducible refine Res.Keeps.inv ?_ (by with_reducible assumption)))

theorem State.performWrite_inv (s : State) (x : Access) (hs : s.Inv) : Res.Keeps (State.performWrite s x) := by
  unfold State.performWrite
  repeat' (first
    | with_reducible assumption
    | extract_lets
    | split
    | with_reducible apply State.memWrite_inv
    | with_reducible apply State.clearPoison_inv
    | with_reducible apply State.setPrio_inv
    | with_reducible apply State.translate_inv
    | with_reducible apply State.writeHome_inv
    | with_reducible apply State.readFlat_inv
    | with_reducible apply State.readSp_inv
    | with_reducible apply State.readGlobal_inv
    | with_reducible apply State.writeAll_inv
    | with_reducible apply Res.keeps_ok
    | with_reducible exact Res.keeps_wait
    | with_reducible exact Res.keeps_fault
    | (with_reducible refine Res.Keeps.inv ?_ (by with_reducible assumption)))

theorem State.syncUpdate_inv (s : State) (tr : Bool) (dom : Nat) (sp : Bool) (va : Nat) (ws : List W64) (whole : Bool) (f : List Byte → List Byte) (hs : s.Inv) : Res.Keeps (State.syncUpdate s tr dom sp va ws whole f) := by
  unfold State.syncUpdate
  repeat' (first
    | with_reducible assumption
    | extract_lets
    | split
    | with_reducible apply State.memWrite_inv
    | with_reducible apply State.clearPoison_inv
    | with_reducible apply State.trans_inv
    | with_reducible apply State.readHome_inv
    | with_reducible apply State.writeHome_inv
    | with_reducible apply Res.keeps_ok
    | with_reducible exact Res.keeps_wait
    | with_reducible exact Res.keeps_fault
    | (with_reducible refine Res.Keeps.inv ?_ (by with_reducible assumption)))

theorem State.releaseWaiters_inv (s : State) (key : Nat) (m : W64) (hs : s.Inv) : State.Inv (State.releaseWaiters s key m) := hs

theorem State.initWaiters_inv (s : State) (key : Nat) (gen : BitVec 32) (hs : s.Inv) : State.Inv (State.initWaiters s key gen) := hs

theorem State.steer_inv (s : State) (task inst gain lose : Nat) (hs : s.Inv) : State.Inv (State.steer s task inst gain lose) := by
  unfold State.steer
  repeat' (first
    | with_reducible assumption
    | extract_lets
    | split
    | with_reducible apply State.onInst_inv
    | (simp only [State.Inv.mk_iff]; with_reducible apply State.Inv.both)
    | dsimp +zetaDelta only)

theorem State.steerBy_inv (s : State) (task inst last first : Nat) (hs : s.Inv) : State.Inv (State.steerBy s task inst last first) := by
  unfold State.steerBy
  repeat' (first
    | with_reducible assumption
    | split
    | with_reducible apply State.steer_inv)

theorem State.noteArrival_inv (s : State) (key : Nat) (src : Option (Nat × Nat × Nat)) (hs : s.Inv) : State.Inv (State.noteArrival s key src) := by
  unfold State.noteArrival
  repeat' (first
    | with_reducible assumption
    | extract_lets
    | split
    | (simp only [State.Inv.mk_iff]; with_reducible apply State.Inv.both))

theorem State.advanceSteps_inv (s : State) (key : Nat) (src : Option (Nat × Nat × Nat)) (hs : s.Inv) : State.Inv (State.advanceSteps s key src) := by
  unfold State.advanceSteps
  repeat' (first
    | with_reducible assumption
    | extract_lets
    | split
    | with_reducible apply State.steerBy_inv
    | (simp only [State.Inv.mk_iff]; with_reducible apply State.Inv.both)
    | dsimp +zetaDelta only)

theorem State.arriveAt_inv (s : State) (tr : Bool) (dom : Nat) (sp : Bool) (va b : Nat) (ws : List W64) (m : W64) (src : Option (Nat × Nat × Nat)) (hs : s.Inv) : Res.Keeps (State.arriveAt s tr dom sp va b ws m src) := by
  unfold State.arriveAt
  repeat' (first
    | with_reducible assumption
    | extract_lets
    | split
    | with_reducible apply State.syncUpdate_inv
    | with_reducible apply State.releaseWaiters_inv
    | with_reducible apply State.noteArrival_inv
    | with_reducible apply State.advanceSteps_inv
    | with_reducible apply Res.keeps_ok
    | with_reducible exact Res.keeps_wait
    | with_reducible exact Res.keeps_fault
    | (with_reducible refine Res.Keeps.inv ?_ (by with_reducible assumption))
    | dsimp +zetaDelta only)

theorem State.accGone_inv (s : State) (x : Access) (hs : s.Inv) : State.Inv (State.accGone s x) := by
  unfold State.accGone
  repeat' (first
    | with_reducible assumption
    | extract_lets
    | split
    | with_reducible apply State.formFail_inv
    | with_reducible apply State.dropAccess_inv
    | with_reducible apply State.noteStoreFault_inv
    | dsimp +zetaDelta only)

theorem State.machineLate_inv (s : State) (cid : Nat) (raiser : Option Nat) (r : TrapRec) (gone : State) (hs : s.Inv) (hgone : gone.Inv) : State.Inv (State.machineLate s cid raiser r gone) := by
  unfold State.machineLate
  repeat' (first
    | with_reducible assumption
    | split
    | with_reducible apply State.abortInst_inv)

theorem State.machineAcc_inv (s : State) (x : Access) (f : MFault) (hs : s.Inv) : State.Inv (State.machineAcc s x f) := by
  unfold State.machineAcc
  repeat' (first
    | with_reducible assumption
    | extract_lets
    | split
    | with_reducible apply State.machineEvent_inv
    | with_reducible apply State.accGone_inv
    | with_reducible apply State.machineLate_inv)

theorem State.readPacket_inv (s : State) (x : Access) (hs : s.Inv) : Res.Keeps (State.readPacket s x) := by
  unfold State.readPacket
  repeat' (first
    | with_reducible assumption
    | extract_lets
    | split
    | with_reducible apply State.readFlat_inv
    | with_reducible exact Res.keeps_wait
    | with_reducible exact Res.keeps_fault
    | (with_reducible refine Res.Keeps.inv ?_ (by with_reducible assumption)))

theorem State.trapAccess_inv (s : State) (x : Access) (info : TrapInfo) (keep : Bool) (hs : s.Inv) : State.Inv (State.trapAccess s x info keep) := by
  unfold State.trapAccess
  repeat' (first
    | with_reducible assumption
    | extract_lets
    | split
    | with_reducible apply State.onCtx_inv
    | with_reducible apply State.takeTrap_inv
    | with_reducible apply State.onAcc_inv
    | with_reducible apply State.dropAccess_inv
    | with_reducible apply State.accGone_inv
    | (simp only [State.Inv.mk_iff]; with_reducible apply State.Inv.both)
    | dsimp +zetaDelta only)

theorem State.fillAcc_inv (s : State) (x : Access) (val : Vec) (xm : BitVec 4) (st : List (Nat × Nat)) (hs : s.Inv) : State.Inv (State.fillAcc s x val xm st) := by
  unfold State.fillAcc
  repeat' (first
    | with_reducible assumption
    | split
    | with_reducible apply State.onCtx_inv)

theorem State.settle_inv (s : State) (x : Access) (lvl : Nat) (hs : s.Inv) : State.Inv (State.settle s x lvl) := by
  unfold State.settle
  repeat' (first
    | with_reducible assumption
    | extract_lets
    | split
    | with_reducible apply State.formLevel_inv
    | with_reducible apply State.progress_inv
    | with_reducible apply State.onAcc_inv
    | with_reducible apply State.dropAccess_inv
    | dsimp +zetaDelta only)

theorem State.landRead_inv (s : State) (x : Access) (hs : s.Inv) : State.Inv (State.landRead s x) := by
  unfold State.landRead
  repeat' (first
    | with_reducible assumption
    | extract_lets
    | split
    | with_reducible apply State.progress_inv
    | with_reducible apply State.dropAccess_inv
    | with_reducible apply State.performRead_inv
    | with_reducible apply State.machineAcc_inv
    | with_reducible apply State.fillAcc_inv
    | (with_reducible refine Res.Keeps.inv ?_ (by with_reducible assumption)))

theorem State.landInit_inv (s : State) (x : Access) (hs : s.Inv) : State.Inv (State.landInit s x) := by
  unfold State.landInit
  repeat' (first
    | with_reducible assumption
    | extract_lets
    | split
    | with_reducible apply State.syncUpdate_inv
    | with_reducible apply State.initWaiters_inv
    | with_reducible apply State.settle_inv
    | (simp only [State.Inv.mk_iff]; with_reducible apply State.Inv.both)
    | (with_reducible refine Res.Keeps.inv ?_ (by with_reducible assumption)))

theorem State.landLaunch_inv (s : State) (x : Access) (hs : s.Inv) : State.Inv (State.landLaunch s x) := by
  unfold State.landLaunch
  repeat' (first
    | with_reducible assumption
    | extract_lets
    | split
    | with_reducible apply State.dropAccess_inv
    | with_reducible apply State.machineAcc_inv
    | with_reducible apply State.readPacket_inv
    | (simp only [State.Inv.mk_iff]; with_reducible apply State.Inv.both)
    | (with_reducible refine Res.Keeps.inv ?_ (by with_reducible assumption)))

theorem State.landWrite_inv (s : State) (x : Access) (hs : s.Inv) : State.Inv (State.landWrite s x) := by
  unfold State.landWrite
  repeat' (first
    | with_reducible assumption
    | extract_lets
    | split
    | with_reducible apply State.performWrite_inv
    | with_reducible apply State.machineAcc_inv
    | with_reducible apply State.fillAcc_inv
    | with_reducible apply State.settle_inv
    | with_reducible apply State.landInit_inv
    | with_reducible apply State.landLaunch_inv
    | (with_reducible refine Res.Keeps.inv ?_ (by with_reducible assumption)))

theorem State.landArrive_inv (s : State) (x : Access) (hs : s.Inv) : State.Inv (State.landArrive s x) := by
  unfold State.landArrive
  repeat' (first
    | with_reducible assumption
    | extract_lets
    | split
    | with_reducible apply State.arriveAt_inv
    | with_reducible apply State.machineAcc_inv
    | with_reducible apply State.settle_inv
    | (with_reducible refine Res.Keeps.inv ?_ (by with_reducible assumption)))

theorem execLoadValueArrival_inv (i : Nat) (s : State) (hs : s.Inv) : OutKeeps (execLoadValueArrival i s) := by
  unfold execLoadValueArrival
  repeat' (first
    | with_reducible assumption
    | extract_lets
    | split
    | with_reducible apply State.landRead_inv
    | with_reducible apply OutKeeps.next)

theorem execStoreVisible_inv (i lvl : Nat) (s : State) (hs : s.Inv) : OutKeeps (execStoreVisible i lvl s) := by
  unfold execStoreVisible
  repeat' (first
    | with_reducible assumption
    | extract_lets
    | intro _
    | split
    | with_reducible apply State.writeBack_inv
    | with_reducible apply State.settle_inv
    | with_reducible apply State.landWrite_inv
    | with_reducible apply inv_foldl
    | with_reducible apply OutKeeps.next)

theorem State.whenPosted_inv (s s1 : State) (hs : s.Inv) (hs1 : s1.Inv) : State.Inv (State.whenPosted s s1) := by
  unfold State.whenPosted
  repeat' (first
    | with_reducible assumption
    | split)

theorem State.postTo_inv (s : State) (agent cid : Nat) (pos : CodePos) (eng : BitVec 8) (st : List (Nat × Nat)) (hs : s.Inv) : State.Inv (State.postTo s agent cid pos eng st) := by
  unfold State.postTo
  repeat' (first
    | with_reducible assumption
    | extract_lets
    | split
    | with_reducible apply State.onCtx_inv
    | (simp only [State.Inv.mk_iff]; with_reducible apply State.Inv.both))

theorem State.arrivalFails_inv (s : State) (r : Arrival) (hs : s.Inv) : State.Inv (State.arrivalFails s r) := by
  unfold State.arrivalFails
  repeat' (first
    | with_reducible assumption
    | extract_lets
    | split
    | with_reducible apply State.failForm_inv
    | with_reducible apply State.noteFormFault_inv
    | with_reducible apply State.postTo_inv
    | dsimp +zetaDelta only)

theorem execSyncArrive_inv (i : Nat) (s : State) (hs : s.Inv) : OutKeeps (execSyncArrive i s) := by
  unfold execSyncArrive
  repeat' (first
    | with_reducible assumption
    | extract_lets
    | split
    | with_reducible apply State.wroteLines_inv
    | with_reducible apply State.arriveAt_inv
    | with_reducible apply State.landArrive_inv
    | with_reducible apply State.whenPosted_inv
    | with_reducible apply State.arrivalFails_inv
    | with_reducible apply OutKeeps.next
    | (simp only [State.Inv.mk_iff]; with_reducible apply State.Inv.both)
    | (with_reducible refine Res.Keeps.inv ?_ (by with_reducible assumption))
    | dsimp +zetaDelta only)

theorem execDeliveredFault_inv (i : Nat) (s : State) (hs : s.Inv) : OutKeeps (execDeliveredFault i s) := by
  unfold execDeliveredFault
  repeat' (first
    | with_reducible assumption
    | extract_lets
    | split
    | with_reducible apply State.machineAcc_inv
    | with_reducible apply State.trapAccess_inv
    | with_reducible apply OutKeeps.next)

theorem execWitnessFailureDelivery_inv (i : Nat) (s : State) (hs : s.Inv) : OutKeeps (execWitnessFailureDelivery i s) := by
  unfold execWitnessFailureDelivery
  repeat' (first
    | with_reducible assumption
    | extract_lets
    | split
    | with_reducible apply State.trapAccess_inv
    | with_reducible apply OutKeeps.next)

theorem State.countResid_inv (s : State) (hs : s.Inv) : State.Inv (State.countResid s) := hs

theorem execWheelAdvance_inv (s : State) (hs : s.Inv) : OutKeeps (execWheelAdvance s) := by
  have h := State.countResid_inv s hs
  unfold execWheelAdvance
  extract_lets s1
  split
  · exact OutKeeps.next hs
  · apply OutKeeps.next
    split
    · exact State.Inv.mk_iff.mpr ⟨h.1, (by decide : (0 : Nat) < 768)⟩
    · exact State.Inv.mk_iff.mpr ⟨h.1, by omega⟩

theorem execScStamp_inv (i : Nat) (s : State) (hs : s.Inv) : OutKeeps (execScStamp i s) := by
  unfold execScStamp
  repeat' (first
    | with_reducible assumption
    | extract_lets
    | split
    | with_reducible apply State.onCtx_inv
    | with_reducible apply State.onAcc_inv
    | with_reducible apply OutKeeps.next)

theorem execScPerform_inv (i : Nat) (s : State) (hs : s.Inv) : OutKeeps (execScPerform i s) := by
  unfold execScPerform
  repeat' (first
    | with_reducible assumption
    | extract_lets
    | split
    | with_reducible apply State.landRead_inv
    | with_reducible apply State.landWrite_inv
    | with_reducible apply OutKeeps.next)

theorem execEpochTick_inv (s : State) (hs : s.Inv) : OutKeeps (execEpochTick s) := by
  unfold execEpochTick
  repeat' (first
    | with_reducible assumption
    | extract_lets
    | split
    | with_reducible apply OutKeeps.next
    | (simp only [State.Inv.mk_iff]; with_reducible apply State.Inv.both))

theorem execEpochClose_inv (dom scope : Nat) (s : State) (hs : s.Inv) : OutKeeps (execEpochClose dom scope s) := by
  unfold execEpochClose
  repeat' (first
    | with_reducible assumption
    | extract_lets
    | split
    | with_reducible apply OutKeeps.next
    | (simp only [State.Inv.mk_iff]; with_reducible apply State.Inv.both))

theorem execLineAgingSweep_inv (s : State) (hs : s.Inv) : OutKeeps (execLineAgingSweep s) := by
  unfold execLineAgingSweep
  repeat' (first
    | with_reducible assumption
    | extract_lets
    | with_reducible apply OutKeeps.next
    | (simp only [State.Inv.mk_iff]; with_reducible apply State.Inv.both))

theorem State.moveOut_inv (s : State) (dom va : Nat) (hs : s.Inv) : State.Inv (State.moveOut s dom va) := by
  unfold State.moveOut
  repeat' (first
    | with_reducible assumption
    | extract_lets
    | split
    | with_reducible apply State.putEntry_inv
    | (simp only [State.Inv.mk_iff]; with_reducible apply State.Inv.both))

theorem execPageWalk_inv (dom va : Nat) (s : State) (hs : s.Inv) : OutKeeps (execPageWalk dom va s) := by
  unfold execPageWalk
  repeat' (first
    | with_reducible assumption
    | extract_lets
    | split
    | with_reducible apply State.l2Set_inv
    | with_reducible apply State.openLine_inv
    | with_reducible apply State.moveOut_inv
    | with_reducible apply OutKeeps.next
    | (simp only [State.Inv.mk_iff]; with_reducible apply State.Inv.both)
    | dsimp +zetaDelta only)

theorem execTransparentFaultResolve_inv (dom va : Nat) (s : State) (hs : s.Inv) : OutKeeps (execTransparentFaultResolve dom va s) := by
  unfold execTransparentFaultResolve
  repeat' (first
    | with_reducible assumption
    | extract_lets
    | split
    | with_reducible apply State.invalidate_inv
    | with_reducible apply State.putEntry_inv
    | with_reducible apply OutKeeps.next
    | (simp only [State.Inv.mk_iff]; with_reducible apply State.Inv.both)
    | dsimp +zetaDelta only)

theorem State.fillRecord_inv (s : State) (die dom id : Nat) (hs : s.Inv) : State.Inv (State.fillRecord s die dom id) := by
  unfold State.fillRecord
  repeat' (first
    | with_reducible assumption
    | extract_lets
    | split
    | with_reducible apply State.readFlat_inv
    | with_reducible apply State.clearKey_inv
    | (simp only [State.Inv.mk_iff]; with_reducible apply State.Inv.both)
    | (with_reducible refine Res.Keeps.inv ?_ (by with_reducible assumption))
    | dsimp +zetaDelta only)

theorem execRecordFill_inv (die dom id : Nat) (s : State) (hs : s.Inv) : OutKeeps (execRecordFill die dom id s) := by
  unfold execRecordFill
  repeat' (first
    | with_reducible assumption
    | extract_lets
    | split
    | with_reducible apply State.fillRecord_inv
    | with_reducible apply OutKeeps.next)

theorem State.dropRecord_inv (s : State) (dom id : Nat) (hs : s.Inv) : State.Inv (State.dropRecord s dom id) := by
  unfold State.dropRecord
  repeat' (first
    | with_reducible assumption
    | extract_lets
    | intro _
    | with_reducible apply State.dropLine_inv
    | with_reducible apply inv_foldl
    | (simp only [State.Inv.mk_iff]; with_reducible apply State.Inv.both))

theorem State.dropFails_inv (s : State) (d : Drop) (hs : s.Inv) : State.Inv (State.dropFails s d) := by
  unfold State.dropFails
  repeat' (first
    | with_reducible assumption
    | extract_lets
    | split
    | with_reducible apply State.formFail_inv
    | with_reducible apply State.onCtx_inv
    | with_reducible apply State.takeTrap_inv
    | (simp only [State.Inv.mk_iff]; with_reducible apply State.Inv.both)
    | dsimp +zetaDelta only)

theorem execRecordDropComplete_inv (i : Nat) (s : State) (hs : s.Inv) : OutKeeps (execRecordDropComplete i s) := by
  unfold execRecordDropComplete
  repeat' (first
    | with_reducible assumption
    | extract_lets
    | split
    | with_reducible apply State.formLevel_inv
    | with_reducible apply State.onTask_inv
    | with_reducible apply State.dropRecord_inv
    | with_reducible apply State.dropFails_inv
    | with_reducible apply OutKeeps.next
    | (simp only [State.Inv.mk_iff]; with_reducible apply State.Inv.both))

theorem State.outsideWrite_inv (s : State) (addr : Nat) (bs : List Byte) (hs : s.Inv) : State.Inv (State.outsideWrite s addr bs) := by
  unfold State.outsideWrite
  repeat' (first
    | with_reducible assumption
    | extract_lets
    | with_reducible apply State.fwWrite_inv
    | (simp only [State.Inv.mk_iff]; with_reducible apply State.Inv.both))

theorem execHostMemoryAccess_inv (addr : Nat) (wr : Option (List Byte)) (s : State) (hs : s.Inv) : OutKeeps (execHostMemoryAccess addr wr s) := by
  unfold execHostMemoryAccess
  repeat' (first
    | with_reducible assumption
    | extract_lets
    | split
    | with_reducible apply State.outsideWrite_inv
    | with_reducible apply OutKeeps.next)

theorem execPeerMemoryAccess_inv (port addr : Nat) (wr : Option (List Byte)) (s : State) (hs : s.Inv) : OutKeeps (execPeerMemoryAccess port addr wr s) := by
  unfold execPeerMemoryAccess
  repeat' (first
    | with_reducible assumption
    | extract_lets
    | split
    | with_reducible apply State.outsideWrite_inv
    | with_reducible apply OutKeeps.next)

theorem State.countErr_inv (s : State) (u : BitVec 32) (kind addr dom : Nat) (hs : s.Inv) : State.Inv (State.countErr s u kind addr dom) := by
  unfold State.countErr
  repeat' (first
    | with_reducible assumption
    | split
    | (simp only [State.Inv.mk_iff]; with_reducible apply State.Inv.both))

theorem execCorrectedError_inv (u0 : BitVec 32) (dram : Bool) (addr dom : Nat) (s : State) (hs : s.Inv) : OutKeeps (execCorrectedError u0 dram addr dom s) := by
  unfold execCorrectedError
  repeat' (first
    | with_reducible assumption
    | extract_lets
    | split
    | with_reducible apply State.countErr_inv
    | with_reducible apply OutKeeps.next
    | (simp only [State.Inv.mk_iff]; with_reducible apply State.Inv.both))

theorem State.poisonSeq_inv (s : State) (a addr : Nat) (hs : s.Inv) : State.Inv (State.poisonSeq s a addr) := by
  unfold State.poisonSeq
  repeat' (first
    | with_reducible assumption
    | extract_lets
    | split
    | with_reducible apply State.onCtx_inv
    | (simp only [State.Inv.mk_iff]; with_reducible apply State.Inv.both)
    | dsimp +zetaDelta only)

theorem State.poisonRec_inv (s : State) (die : Nat) (hs : s.Inv) : State.Inv (State.poisonRec s die) := by
  unfold State.poisonRec
  repeat' (first
    | with_reducible assumption
    | extract_lets
    | split
    | (simp only [State.Inv.mk_iff]; with_reducible apply State.Inv.both))

theorem State.poisonMark_inv (s : State) (u : BitVec 32) (dram : Bool) (addr : Nat) (hs : s.Inv) : State.Inv (State.poisonMark s u dram addr) := by
  unfold State.poisonMark
  repeat' (first
    | with_reducible assumption
    | extract_lets
    | split
    | with_reducible apply State.poisonSeq_inv
    | with_reducible apply State.poisonRec_inv
    | (simp only [State.Inv.mk_iff]; with_reducible apply State.Inv.both)
    | dsimp +zetaDelta only)

theorem execUncorrectableError_inv (u0 : BitVec 32) (dram : Bool) (addr dom : Nat) (s : State) (hs : s.Inv) : OutKeeps (execUncorrectableError u0 dram addr dom s) := by
  unfold execUncorrectableError
  repeat' (first
    | with_reducible assumption
    | extract_lets
    | split
    | with_reducible apply State.errRecord_inv
    | with_reducible apply State.poisonMark_inv
    | with_reducible apply OutKeeps.next)

/-! ## Machine/EvTile.lean -/

theorem State.finishOp_inv (s : State) (a q : Nat) (img : Option (List Byte)) (stats : List (Nat × Nat)) (eng : BitVec 8) (hs : s.Inv) : State.Inv (State.finishOp s a q img stats eng) := by
  unfold State.finishOp
  repeat' (first
    | with_reducible assumption
    | extract_lets
    | split
    | with_reducible apply State.onCtx_inv
    | with_reducible apply State.progress_inv
    | with_reducible apply State.retireTeams_inv)

theorem State.failOp_inv (s : State) (a q : Nat) (hs : s.Inv) : State.Inv (State.failOp s a q) := by
  unfold State.failOp
  repeat' (first
    | with_reducible assumption
    | extract_lets
    | split
    | with_reducible apply State.failOps_inv
    | with_reducible apply State.noteFormFault_inv
    | with_reducible apply State.finishOp_inv
    | (simp only [State.Inv.mk_iff]; with_reducible apply State.Inv.both)
    | dsimp +zetaDelta only)

theorem State.faultOp_inv (s : State) (a q : Nat) (f : MFault) (unit : BitVec 32) (hs : s.Inv) : State.Inv (State.faultOp s a q f unit) := by
  unfold State.faultOp
  repeat' (first
    | with_reducible assumption
    | extract_lets
    | split
    | with_reducible apply State.onCtx_inv
    | with_reducible apply State.failOp_inv)

theorem State.engineWrote_inv (s : State) (c : Ctx) (o : TOp) (tags : List Tag) (hs : s.Inv) : State.Inv (State.engineWrote s c o tags) := by
  unfold State.engineWrote
  repeat' (first
    | with_reducible assumption
    | with_reducible apply State.wroteLines_inv)

theorem State.opVisible_inv (s : State) (c : Ctx) (o : TOp) (hs : s.Inv) : State.Inv (State.opVisible s c o) := by
  unfold State.opVisible
  repeat' (first
    | with_reducible assumption
    | split
    | with_reducible apply State.formLevel_inv)

theorem runCompute_inv (s : State) (c : Ctx) (o : TOp) (hs : s.Inv) : Ran.Keeps (runCompute s c o) := by
  unfold runCompute
  repeat' (first
    | with_reducible assumption
    | extract_lets
    | split
    | dsimp only [Ran.Keeps])

theorem runTlds_inv (s : State) (c : Ctx) (o : TOp) (hs : s.Inv) : Ran.Keeps (runTlds s c o) := by
  unfold runTlds
  repeat' (first
    | with_reducible assumption
    | extract_lets
    | split
    | dsimp only [Ran.Keeps])

theorem runTsts_inv (s : State) (c : Ctx) (o : TOp) (hs : s.Inv) : Ran.Keeps (runTsts s c o) := by
  unfold runTsts
  repeat' (first
    | with_reducible assumption
    | extract_lets
    | intro _
    | split
    | with_reducible apply State.memWrite_inv
    | with_reducible apply State.clearPoison_inv
    | with_reducible apply State.opVisible_inv
    | dsimp only [Ran.Keeps]
    | with_reducible apply inv_foldl)

theorem runTget_inv (s : State) (a : Nat) (c : Ctx) (o : TOp) (hs : s.Inv) : Ran.Keeps (runTget s a c o) := by
  unfold runTget
  repeat' (first
    | with_reducible assumption
    | extract_lets
    | split
    | with_reducible apply State.readBox_inv
    | dsimp only [Ran.Keeps]
    | (with_reducible refine Res.Keeps.inv ?_ (by with_reducible assumption)))

theorem State.writeOp_inv (s : State) (c : Ctx) (o : TOp) (bs : List Byte) (hs : s.Inv) : State.Inv (State.writeOp s c o bs).1 := by
  unfold State.writeOp
  repeat' (first
    | with_reducible assumption
    | with_reducible apply State.writeBox_inv)

theorem State.sendImage_inv (s : State) (c : Ctx) (o : TOp) (bs : List Byte) (k : State → Ran) (hs : s.Inv) (hk : ∀ s, s.Inv → (k s).Keeps) : Ran.Keeps (State.sendImage s c o bs k) := by
  unfold State.sendImage
  repeat' (first
    | with_reducible assumption
    | with_reducible apply hk
    | extract_lets
    | split
    | with_reducible apply State.engineWrote_inv
    | with_reducible apply State.writeOp_inv
    | dsimp only [Ran.Keeps])

theorem runTsend_inv (s : State) (c : Ctx) (o : TOp) (hs : s.Inv) : Ran.Keeps (runTsend s c o) := by
  unfold runTsend
  repeat' (first
    | with_reducible assumption
    | extract_lets
    | intro _
    | with_reducible apply State.sendImage_inv
    | dsimp only [Ran.Keeps])

theorem runTsendq_inv (s : State) (c : Ctx) (o : TOp) (hs : s.Inv) : Ran.Keeps (runTsendq s c o) := by
  unfold runTsendq
  repeat' (first
    | with_reducible assumption
    | extract_lets
    | intro _
    | with_reducible apply State.sendImage_inv
    | dsimp only [Ran.Keeps])

theorem State.queueArrival_inv (s : State) (c : Ctx) (o : TOp) (hs : s.Inv) : State.Inv (State.queueArrival s c o) := hs

theorem TOp.arrives_inv (o : TOp) (s : State) (hs : s.Inv) : Ran.Keeps (TOp.arrives o s) := by
  unfold TOp.arrives
  repeat' (first
    | with_reducible assumption
    | split
    | dsimp only [Ran.Keeps])

theorem runAcopy_inv (s : State) (a : Nat) (c : Ctx) (o : TOp) (hs : s.Inv) : Ran.Keeps (runAcopy s a c o) := by
  unfold runAcopy
  repeat' (first
    | with_reducible assumption
    | extract_lets
    | split
    | with_reducible apply State.memWrite_inv
    | with_reducible apply State.clearPoison_inv
    | with_reducible apply State.readBox_inv
    | with_reducible apply TOp.arrives_inv
    | dsimp only [Ran.Keeps]
    | (with_reducible refine Res.Keeps.inv ?_ (by with_reducible assumption)))

theorem runAcopyw_inv (s : State) (c : Ctx) (o : TOp) (hs : s.Inv) : Ran.Keeps (runAcopyw s c o) := by
  unfold runAcopyw
  repeat' (first
    | with_reducible assumption
    | extract_lets
    | intro _
    | split
    | with_reducible apply State.sendImage_inv
    | with_reducible apply TOp.arrives_inv
    | dsimp only [Ran.Keeps])

theorem State.unheld_inv (s : State) (dom : Nat) (ps : List (Nat × Nat)) (hs : s.Inv) : State.Inv (State.unheld s dom ps) := by
  unfold State.unheld
  repeat' (first
    | with_reducible assumption
    | extract_lets
    | intro _
    | split
    | with_reducible apply State.dropLine_inv
    | with_reducible apply inv_foldl)

theorem State.writeBlocks_inv (s : State) (spol : Bool) (dom va : Nat) (bs : List (List Byte)) (hs : s.Inv) : State.Inv (State.writeBlocks s spol dom va bs).1 := by
  induction bs generalizing s va with
  | nil =>
    unfold State.writeBlocks
    repeat' (first
      | with_reducible assumption)
  | cons p r ih =>
    unfold State.writeBlocks
    repeat' (first
      | with_reducible assumption
      | with_reducible apply ih
      | extract_lets
      | split
      | with_reducible apply State.writeFlatVia_inv
      | with_reducible apply State.unheld_inv
      | (with_reducible refine inv_fst ?_ (by with_reducible assumption)))

theorem State.readBlocks_inv (s : State) (spol : Bool) (dom va n : Nat) (ws : List W64) (cnt : Nat) (hs : s.Inv) : Res.Keeps (State.readBlocks s spol dom va n ws cnt) := by
  induction cnt generalizing s va with
  | zero =>
    unfold State.readBlocks
    repeat' (first
      | with_reducible assumption
      | with_reducible apply Res.keeps_ok)
  | succ n ih =>
    unfold State.readBlocks
    repeat' (first
      | with_reducible assumption
      | with_reducible apply ih
      | extract_lets
      | split
      | with_reducible apply State.readFlatVia_inv
      | with_reducible apply State.unheld_inv
      | with_reducible apply Res.keeps_ok
      | with_reducible exact Res.keeps_wait
      | with_reducible exact Res.keeps_fault
      | (with_reducible refine Res.Keeps.inv ?_ (by with_reducible assumption)))

theorem runStash_inv (s : State) (c : Ctx) (o : TOp) (hs : s.Inv) : Ran.Keeps (runStash s c o) := by
  unfold runStash
  repeat' (first
    | with_reducible assumption
    | extract_lets
    | split
    | with_reducible apply State.engineWrote_inv
    | with_reducible apply State.unheld_inv
    | with_reducible apply State.writeBlocks_inv
    | dsimp only [Ran.Keeps])

theorem runRestore_inv (s : State) (c : Ctx) (o : TOp) (hs : s.Inv) : Ran.Keeps (runRestore s c o) := by
  unfold runRestore
  repeat' (first
    | with_reducible assumption
    | extract_lets
    | split
    | with_reducible apply State.readBlocks_inv
    | dsimp only [Ran.Keeps]
    | (with_reducible refine Res.Keeps.inv ?_ (by with_reducible assumption)))

theorem State.sendGrads_inv (s : State) (l : List Contribution) (hs : s.Inv) : State.Inv (State.sendGrads s l).1 := by
  induction l generalizing s with
  | nil =>
    unfold State.sendGrads
    repeat' (first
      | with_reducible assumption)
  | cons p r ih =>
    unfold State.sendGrads
    repeat' (first
      | with_reducible assumption
      | with_reducible apply ih
      | extract_lets
      | split
      | (simp only [State.Inv.mk_iff]; with_reducible apply State.Inv.both))

theorem runGrad_inv (s : State) (c : Ctx) (o : TOp) (hs : s.Inv) : Ran.Keeps (runGrad s c o) := by
  unfold runGrad
  repeat' (first
    | with_reducible assumption
    | extract_lets
    | split
    | with_reducible apply State.opVisible_inv
    | with_reducible apply State.sendGrads_inv
    | dsimp only [Ran.Keeps])

theorem runColl_inv (s : State) (c : Ctx) (a : Nat) (o : TOp) (op : Nat) (u : Nat) (hs : s.Inv) : Ran.Keeps (runColl s c a o op u) := by
  unfold runColl
  extract_lets dom f n va ws rd start
  have hr : ∀ (s : State) n, s.Inv → (rd s n).Keeps := fun s n h => State.readFlatVia_inv _ _ _ _ _ _ h
  have hq : ∀ (s : State) src dst g d, s.Inv → (start s src dst g d).Keeps := by
    intro s src dst g d h
    have h1 := State.takeSeq_inv s (769 + u) dom 5 c.cid h
    exact State.onCtx_inv _ _ _ (show State.Inv _ from State.Inv.mk_iff.mpr h1.both)
  clear_value rd start
  split
  · exact hs
  · split
    · exact hs
    · exact hq _ _ _ _ _ hs
    · rename_i s1 h e1
      have h1 := Res.Keeps.inv (hr _ _ hs) e1
      extract_lets g d
      split
      · exact hs
      · exact hq _ _ _ _ _ h1
      · rename_i s2 bs e2
        have h2 := Res.Keeps.inv (hr _ _ h1) e2
        extract_lets t
        split
        · exact hq _ _ _ _ _ h2
        · exact hq _ _ _ _ _ h2

theorem runOp_inv (s : State) (a : Nat) (c : Ctx) (o : TOp) (u : Nat) (hs : s.Inv) : Ran.Keeps (runOp s a c o u) := by
  unfold runOp
  repeat' (first
    | with_reducible assumption
    | split
    | with_reducible apply runCompute_inv
    | with_reducible apply runTlds_inv
    | with_reducible apply runTsts_inv
    | with_reducible apply runTget_inv
    | with_reducible apply runTsend_inv
    | with_reducible apply runTsendq_inv
    | with_reducible apply runAcopy_inv
    | with_reducible apply runAcopyw_inv
    | with_reducible apply runStash_inv
    | with_reducible apply runRestore_inv
    | with_reducible apply runGrad_inv
    | with_reducible apply runColl_inv
    | dsimp only [Ran.Keeps])

theorem State.moveTrap_inv (s : State) (a : Nat) (c : Ctx) (f : MFault) (hs : s.Inv) : State.Inv (State.moveTrap s a c f) := by
  unfold State.moveTrap
  repeat' (first
    | with_reducible assumption
    | extract_lets
    | split
    | with_reducible apply State.takeTrap_inv)

theorem State.sinkFault_inv (s : State) (a : Nat) (f : MFault) (hs : s.Inv) : State.Inv (State.sinkFault s a f) := by
  unfold State.sinkFault
  repeat' (first
    | with_reducible assumption
    | extract_lets
    | split
    | with_reducible apply State.onCtx_inv
    | with_reducible apply State.moveTrap_inv
    | (simp only [State.Inv.mk_iff]; with_reducible apply State.Inv.both))

theorem State.toFooting_inv (s : State) (a : Nat) (c : Ctx) (id : Nat) (img : List Byte) (hs : s.Inv) : State.Inv (State.toFooting s a c id img) := by
  unfold State.toFooting
  repeat' (first
    | with_reducible assumption
    | extract_lets
    | split
    | with_reducible apply State.sinkTo_inv
    | with_reducible apply State.sinkFault_inv
    | (with_reducible refine Res.Keeps.inv ?_ (by with_reducible assumption)))

theorem State.tileBytes_inv (s : State) (c : Ctx) (id : Nat) (t : Tile) (hs : s.Inv) : Res.Keeps (State.tileBytes s c id t) := by
  unfold State.tileBytes
  repeat' (first
    | with_reducible assumption
    | extract_lets
    | split
    | with_reducible apply State.readFlatVia_inv
    | with_reducible apply Res.keeps_ok
    | with_reducible exact Res.keeps_fault
    | (simp only [State.Inv.mk_iff]; with_reducible apply State.Inv.both))

theorem State.riseFault_inv (s : State) (a tile : Nat) (c : Ctx) (f : MFault) (hs : s.Inv) : OptKeeps (State.riseFault s a tile c f) := by
  unfold State.riseFault
  repeat' (first
    | with_reducible assumption
    | extract_lets
    | split
    | with_reducible apply State.faultOp_inv
    | with_reducible apply State.moveTrap_inv
    | with_reducible apply OptKeeps.some
    | with_reducible exact OptKeeps.none)

theorem State.rise_inv (s : State) (a tile : Nat) (hs : s.Inv) : OptKeeps (State.rise s a tile) := by
  unfold State.rise
  repeat' (first
    | with_reducible assumption
    | extract_lets
    | split
    | with_reducible apply State.setCtx_inv
    | with_reducible apply State.onCtx_inv
    | with_reducible apply State.sinkTo_inv
    | with_reducible apply State.sinkFault_inv
    | with_reducible apply State.tileBytes_inv
    | with_reducible apply State.riseFault_inv
    | with_reducible apply OptKeeps.some
    | with_reducible exact OptKeeps.none
    | (with_reducible refine Res.Keeps.inv ?_ (by with_reducible assumption)))

theorem State.firstOf_inv (s : State) (core : Nat) (f : Ctx → List Nat) (hs : s.Inv) : RiseKeeps (State.firstOf s core f) := by
  unfold State.firstOf
  apply RiseKeeps.findSome
  intro e
  apply RiseKeeps.findSome
  intro id
  constructor
  intro r hr
  obtain ⟨u, hu, rfl⟩ := Option.map_eq_some_iff.mp hr
  exact (State.rise_inv s _ _ hs).all u hu

theorem State.boundRise_inv (s : State) (core : Nat) (hs : s.Inv) : RiseKeeps (State.boundRise s core) := by
  unfold State.boundRise
  repeat' (first
    | with_reducible assumption
    | with_reducible apply State.firstOf_inv)

theorem execTileRise_inv (a tile : Nat) (s : State) (hs : s.Inv) : OutKeeps (execTileRise a tile s) := by
  unfold execTileRise
  repeat' (first
    | with_reducible assumption
    | extract_lets
    | split
    | with_reducible apply State.onCore_inv
    | with_reducible apply State.rise_inv
    | with_reducible apply State.boundRise_inv
    | with_reducible apply OutKeeps.next
    | with_reducible apply OptKeeps.getD
    | (with_reducible refine RiseKeeps.inv ?_ (by with_reducible assumption)))

theorem execTileSink_inv (a tile : Nat) (s : State) (hs : s.Inv) : OutKeeps (execTileSink a tile s) := by
  unfold execTileSink
  repeat' (first
    | with_reducible assumption
    | extract_lets
    | split
    | with_reducible apply State.onCtx_inv
    | with_reducible apply State.toFooting_inv
    | with_reducible apply OutKeeps.next)

theorem execBankVacate_inv (core slot : Nat) (s : State) (hs : s.Inv) : OutKeeps (execBankVacate core slot s) := by
  unfold execBankVacate
  repeat' (first
    | with_reducible assumption
    | extract_lets
    | split
    | with_reducible apply State.onCtx_inv
    | with_reducible apply OutKeeps.next
    | (simp only [State.Inv.mk_iff]; with_reducible apply State.Inv.both))

theorem State.poisonedOp_inv (s : State) (a : Nat) (c : Ctx) (o : TOp) (hs : s.Inv) : State.Inv (State.poisonedOp s a c o) := by
  unfold State.poisonedOp
  repeat' (first
    | with_reducible assumption
    | extract_lets
    | split
    | with_reducible apply State.machineEvent_inv
    | with_reducible apply State.machineLate_inv
    | with_reducible apply State.failOp_inv)

theorem State.makeTile_inv (s : State) (a : Nat) (c : Ctx) (o : TOp) (hs : s.Inv) : State.Inv (State.makeTile s a c o) := by
  unfold State.makeTile
  repeat' (first
    | with_reducible assumption
    | extract_lets
    | split
    | with_reducible apply State.onCtx_inv
    | with_reducible apply State.finishOp_inv)

theorem execTileEngineClaim_inv (a q : Nat) (s : State) (hs : s.Inv) : OutKeeps (execTileEngineClaim a q s) := by
  unfold execTileEngineClaim
  repeat' (first
    | with_reducible assumption
    | extract_lets
    | split
    | with_reducible apply State.onCtx_inv
    | with_reducible apply State.onCore_inv
    | with_reducible apply State.failOp_inv
    | with_reducible apply State.poisonedOp_inv
    | with_reducible apply State.makeTile_inv
    | with_reducible apply OutKeeps.next)

theorem State.opStatus_inv (s : State) (a q : Nat) (st : OpStatus) (prog : Nat) (hs : s.Inv) : State.Inv (State.opStatus s a q st prog) := by
  unfold State.opStatus
  repeat' (first
    | with_reducible assumption
    | with_reducible apply State.onCtx_inv)

theorem State.afterCopy_inv (s : State) (a : Nat) (c : Ctx) (o : TOp) (hs : s.Inv) : State.Inv (State.afterCopy s a c o) := by
  unfold State.afterCopy
  repeat' (first
    | with_reducible assumption
    | extract_lets
    | split
    | with_reducible apply State.finishOp_inv
    | with_reducible apply State.queueArrival_inv
    | with_reducible apply State.opStatus_inv
    | (simp only [State.Inv.mk_iff]; with_reducible apply State.Inv.both))

theorem State.ran_inv (s : State) (a : Nat) (c : Ctx) (o : TOp) (u : Nat) (r : Ran) (hs : s.Inv) (hr : r.Keeps) : State.Inv (State.ran s a c o u r) := by
  cases r with
  | done s1 img st => exact State.finishOp_inv _ _ _ _ _ _ hr
  | wait s1 n => exact State.opStatus_inv _ _ _ _ _ hr
  | sent s1 => exact State.opStatus_inv _ _ _ _ _ hr
  | fault s1 f => exact State.faultOp_inv _ _ _ _ _ hr

theorem execTileOpComplete_inv (a q : Nat) (s : State) (hs : s.Inv) : OutKeeps (execTileOpComplete a q s) := by
  unfold execTileOpComplete
  repeat' (first
    | with_reducible assumption
    | extract_lets
    | split
    | with_reducible apply State.onCtx_inv
    | with_reducible apply State.onCore_inv
    | with_reducible apply runCompute_inv
    | with_reducible apply runOp_inv
    | with_reducible apply State.afterCopy_inv
    | with_reducible apply State.ran_inv
    | with_reducible apply OutKeeps.next)

theorem execEpilogueServe_inv (core : Nat) (s : State) (hs : s.Inv) : OutKeeps (execEpilogueServe core s) := by
  unfold execEpilogueServe
  repeat' (first
    | with_reducible assumption
    | extract_lets
    | split
    | with_reducible apply State.onCtx_inv
    | with_reducible apply State.onCore_inv
    | with_reducible apply State.returnChunks_inv
    | with_reducible apply OutKeeps.next)

theorem State.liftTile_inv (s : State) (a id : Nat) (hs : s.Inv) : State.Inv (State.liftTile s a id) := by
  unfold State.liftTile
  repeat' (first
    | with_reducible assumption
    | extract_lets
    | split
    | with_reducible apply State.onCtx_inv
    | with_reducible apply State.tileBytes_inv
    | (with_reducible refine Res.Keeps.inv ?_ (by with_reducible assumption)))

theorem State.putBack_inv (s : State) (a : Nat) (p : Nat × Tier) (hs : s.Inv) : State.Inv (State.putBack s a p) := by
  unfold State.putBack
  repeat' (first
    | with_reducible assumption
    | extract_lets
    | split
    | with_reducible apply State.onCtx_inv
    | with_reducible apply State.writeFlatVia_inv
    | with_reducible apply State.markFooting_inv
    | (with_reducible refine inv_fst ?_ (by with_reducible assumption)))

theorem State.settleTile_inv (s : State) (a id : Nat) (hs : s.Inv) : State.Inv (State.settleTile s a id) := by
  unfold State.settleTile
  repeat' (first
    | with_reducible assumption
    | extract_lets
    | split
    | with_reducible apply State.setCtx_inv
    | with_reducible apply State.sinkTo_inv
    | (with_reducible refine Res.Keeps.inv ?_ (by with_reducible assumption)))

theorem State.putAllBack_inv (s : State) (a : Nat) (o : TOp) (hs : s.Inv) : State.Inv (State.putAllBack s a o) := by
  unfold State.putAllBack
  repeat' (first
    | with_reducible assumption
    | extract_lets
    | intro _
    | with_reducible apply State.liftTile_inv
    | with_reducible apply State.putBack_inv
    | with_reducible apply State.settleTile_inv
    | with_reducible apply inv_foldl)

theorem State.keepOlder_inv (s : State) (a : Nat) (c : Ctx) (older : Option (Access × TrapInfo × Bool)) (hs : s.Inv) : State.Inv (State.keepOlder s a c older) := by
  unfold State.keepOlder
  repeat' (first
    | with_reducible assumption
    | extract_lets
    | split
    | with_reducible apply State.onCtx_inv
    | with_reducible apply State.dropAccess_inv
    | (simp only [State.Inv.mk_iff]; with_reducible apply State.Inv.both))

theorem State.unwound_inv (s s2 : State) (a : Nat) (c : Ctx) (again : Bool) (hs : s.Inv) (hs2 : s2.Inv) : State.Inv (State.unwound s s2 a c again) := by
  unfold State.unwound
  repeat' (first
    | with_reducible assumption
    | split)

theorem State.unwindTrap_inv (s s0 : State) (a : Nat) (c : Ctx) (o : TOp) (info : TrapInfo) (replay : List TOp) (hs : s.Inv) (hs0 : s0.Inv) : State.Inv (State.unwindTrap s s0 a c o info replay) := by
  unfold State.unwindTrap
  repeat' (first
    | with_reducible assumption
    | extract_lets
    | split
    | with_reducible apply State.takeTrap_inv
    | with_reducible apply State.keepOlder_inv
    | with_reducible apply State.unwound_inv)

theorem execUnwind_inv (a : Nat) (s : State) (hs : s.Inv) : OutKeeps (execUnwind a s) := by
  unfold execUnwind
  repeat' (first
    | with_reducible assumption
    | extract_lets
    | split
    | with_reducible apply State.setCtx_inv
    | with_reducible apply State.onCtx_inv
    | with_reducible apply State.failOp_inv
    | with_reducible apply State.putAllBack_inv
    | with_reducible apply State.unwindTrap_inv
    | with_reducible apply OutKeeps.next)

/-! ## Machine/EvUnits.lean -/

theorem State.putLine_inv (s : State) (l : GradLine) (hs : s.Inv) : State.Inv (State.putLine s l) := by
  unfold State.putLine
  repeat' (first
    | with_reducible assumption
    | split
    | (simp only [State.Inv.mk_iff]; with_reducible apply State.Inv.both))

theorem State.settleGrad_inv (s : State) (x : Contribution) (hs : s.Inv) : State.Inv (State.settleGrad s x) := by
  unfold State.settleGrad
  repeat' (first
    | with_reducible assumption
    | extract_lets
    | split
    | with_reducible apply State.formLevel_inv)

theorem State.postGrad_inv (s : State) (x : Contribution) (evs : List Nat) (hs : s.Inv) : State.Inv (State.postGrad s x evs) := by
  unfold State.postGrad
  repeat' (first
    | with_reducible assumption
    | with_reducible apply State.postTo_inv)

theorem State.applyGrad_inv (s : State) (l : GradLine) (x : Contribution) (hs : s.Inv) : State.Inv (State.applyGrad s l x) := by
  unfold State.applyGrad
  repeat' (first
    | with_reducible assumption
    | extract_lets
    | with_reducible apply State.progress_inv
    | with_reducible apply State.putLine_inv
    | with_reducible apply State.settleGrad_inv
    | with_reducible apply State.postGrad_inv)

theorem State.drainReorder_inv (fuel : Nat) (s : State) (t : Tag) (hs : s.Inv) : State.Inv (State.drainReorder fuel s t) := by
  induction fuel generalizing s with
  | zero =>
    unfold State.drainReorder
    repeat' (first
      | with_reducible assumption)
  | succ n ih =>
    unfold State.drainReorder
    repeat' (first
      | with_reducible assumption
      | with_reducible apply ih
      | extract_lets
      | split
      | with_reducible apply State.applyGrad_inv)

theorem State.accepted_inv (s : State) (x : Contribution) (hs : s.Inv) : State.Inv (State.accepted s x) := by
  unfold State.accepted
  repeat' (first
    | with_reducible assumption
    | extract_lets
    | split
    | with_reducible apply State.finishOp_inv)

theorem State.takeGrad_inv (s : State) (i : Nat) (hs : s.Inv) : State.Inv (State.takeGrad s i) := by
  unfold State.takeGrad
  repeat' (first
    | with_reducible assumption
    | extract_lets
    | split
    | with_reducible apply State.returnChunks_inv
    | with_reducible apply State.putLine_inv
    | with_reducible apply State.settleGrad_inv
    | with_reducible apply State.postGrad_inv
    | with_reducible apply State.applyGrad_inv
    | with_reducible apply State.drainReorder_inv
    | with_reducible apply State.accepted_inv
    | (simp only [State.Inv.mk_iff]; with_reducible apply State.Inv.both)
    | dsimp +zetaDelta only)

theorem execGradContribution_inv (i : Nat) (s : State) (hs : s.Inv) : OutKeeps (execGradContribution i s) := by
  unfold execGradContribution
  repeat' (first
    | with_reducible assumption
    | extract_lets
    | with_reducible apply State.whenPosted_inv
    | with_reducible apply State.takeGrad_inv
    | with_reducible apply OutKeeps.next)

theorem State.recordOf_inv (s : State) (die dom id : Nat) (hs : s.Inv) : State.Inv (State.recordOf s die dom id).1 := by
  unfold State.recordOf
  repeat' (first
    | with_reducible assumption
    | extract_lets
    | with_reducible apply State.fillRecord_inv)

theorem State.lineRecords_inv (s : State) (die dom : Nat) (g : TRec) (h : Hyper) (hs : s.Inv) : State.Inv (State.lineRecords s die dom g h).1 := by
  unfold State.lineRecords
  repeat' (first
    | with_reducible assumption
    | extract_lets
    | intro _
    | split
    | with_reducible apply State.recordOf_inv
    | with_reducible apply inv_foldl_fst
    | dsimp +zetaDelta only)

theorem State.readBoxes_inv (s : State) (dom : Nat) (rs : List TRec) (cs : List (List Int)) (hs : s.Inv) : Res.Keeps (State.readBoxes s dom rs cs) := by
  induction rs generalizing s with
  | nil =>
    unfold State.readBoxes
    repeat' (first
      | with_reducible assumption
      | with_reducible apply Res.keeps_ok)
  | cons p r ih =>
    unfold State.readBoxes
    repeat' (first
      | with_reducible assumption
      | with_reducible apply ih
      | extract_lets
      | split
      | with_reducible apply State.readBox_inv
      | with_reducible apply Res.keeps_ok
      | with_reducible exact Res.keeps_wait
      | with_reducible exact Res.keeps_fault
      | (with_reducible refine Res.Keeps.inv ?_ (by with_reducible assumption)))

theorem State.writeBoxes_inv (s : State) (dom : Nat) (ws : List (TRec × List Byte)) (cs : List (List Int)) (hs : s.Inv) : State.Inv (State.writeBoxes s dom ws cs).1 := by
  induction ws generalizing s with
  | nil =>
    unfold State.writeBoxes
    repeat' (first
      | with_reducible assumption)
  | cons p r ih =>
    unfold State.writeBoxes
    repeat' (first
      | with_reducible assumption
      | with_reducible apply ih
      | extract_lets
      | split
      | with_reducible apply State.writeBox_inv)

theorem State.lineArrival_inv (s : State) (l : GradLine) (r : TRec) (wit : W64) (seq : Nat) (hs : s.Inv) : State.Inv (State.lineArrival s l r wit seq) := hs

theorem State.failLine_inv (s : State) (l : GradLine) (r : TRec) (hs : s.Inv) : State.Inv (State.failLine s l r) := by
  unfold State.failLine
  repeat' (first
    | with_reducible assumption
    | extract_lets
    | with_reducible apply State.takeSeq_inv
    | with_reducible apply State.formFail_inv
    | with_reducible apply State.postTo_inv
    | with_reducible apply State.lineArrival_inv
    | (simp only [State.Inv.mk_iff]; with_reducible apply State.Inv.both))

theorem State.completeLine_inv (s : State) (i : Nat) (hs : s.Inv) : State.Inv (State.completeLine s i) := by
  unfold State.completeLine
  repeat' (first
    | with_reducible assumption
    | extract_lets
    | split
    | with_reducible apply State.takeSeq_inv
    | with_reducible apply State.readFlatVia_inv
    | with_reducible apply State.wroteLines_inv
    | with_reducible apply State.postTo_inv
    | with_reducible apply State.lineRecords_inv
    | with_reducible apply State.readBoxes_inv
    | with_reducible apply State.writeBoxes_inv
    | with_reducible apply State.lineArrival_inv
    | with_reducible apply State.failLine_inv
    | (simp only [State.Inv.mk_iff]; with_reducible apply State.Inv.both)
    | (with_reducible refine Res.Keeps.inv ?_ (by with_reducible assumption))
    | (with_reducible refine inv_fst ?_ (by with_reducible assumption)))

theorem execUpdateLineComplete_inv (i : Nat) (s : State) (hs : s.Inv) : OutKeeps (execUpdateLineComplete i s) := by
  unfold execUpdateLineComplete
  repeat' (first
    | with_reducible assumption
    | extract_lets
    | with_reducible apply State.whenPosted_inv
    | with_reducible apply State.completeLine_inv
    | with_reducible apply OutKeeps.next)

theorem State.readSources_inv (s : State) (x : Collective) (e : Nat) (l : List Nat) (hs : s.Inv) : Res.Keeps (State.readSources s x e l) := by
  induction l generalizing s with
  | nil =>
    unfold State.readSources
    repeat' (first
      | with_reducible assumption
      | with_reducible apply Res.keeps_ok)
  | cons p r ih =>
    unfold State.readSources
    repeat' (first
      | with_reducible assumption
      | with_reducible apply ih
      | extract_lets
      | split
      | with_reducible apply State.readFlatVia_inv
      | with_reducible apply Res.keeps_ok
      | with_reducible exact Res.keeps_wait
      | with_reducible exact Res.keeps_fault
      | (with_reducible refine Res.Keeps.inv ?_ (by with_reducible assumption)))

theorem State.writeDests_inv (s : State) (x : Collective) (e v : Nat) (l : List Nat) (hs : s.Inv) : State.Inv (State.writeDests s x e v l).1 := by
  induction l generalizing s with
  | nil =>
    unfold State.writeDests
    repeat' (first
      | with_reducible assumption)
  | cons p r ih =>
    unfold State.writeDests
    repeat' (first
      | with_reducible assumption
      | with_reducible apply ih
      | extract_lets
      | split
      | with_reducible apply State.writeFlatVia_inv
      | (with_reducible refine inv_fst ?_ (by with_reducible assumption)))

theorem State.collElems_inv (s : State) (x : Collective) (n e : Nat) (hs : s.Inv) : State.Inv (State.collElems s x n e).1 := by
  induction n generalizing s x e with
  | zero =>
    unfold State.collElems
    repeat' (first
      | with_reducible assumption)
  | succ n ih =>
    unfold State.collElems
    repeat' (first
      | with_reducible assumption
      | with_reducible apply ih
      | extract_lets
      | split
      | with_reducible apply State.readSources_inv
      | with_reducible apply State.writeDests_inv
      | (with_reducible refine Res.Keeps.inv ?_ (by with_reducible assumption))
      | (with_reducible refine inv_fst ?_ (by with_reducible assumption)))

theorem State.collArrival_inv (s : State) (x : Collective) (wit : W64) (after : Bool) (hs : s.Inv) : State.Inv (State.collArrival s x wit after) := hs

theorem State.failColl_inv (s : State) (x : Collective) (hs : s.Inv) : State.Inv (State.failColl s x) := by
  unfold State.failColl
  repeat' (first
    | with_reducible assumption
    | extract_lets
    | with_reducible apply State.formFail_inv
    | with_reducible apply State.noteFormFault_inv
    | with_reducible apply State.collArrival_inv
    | (simp only [State.Inv.mk_iff]; with_reducible apply State.Inv.both))

theorem execCollectiveRun_inv (i : Nat) (s : State) (hs : s.Inv) : OutKeeps (execCollectiveRun i s) := by
  unfold execCollectiveRun
  repeat' (first
    | with_reducible assumption
    | extract_lets
    | split
    | with_reducible apply State.wroteLines_inv
    | with_reducible apply State.collElems_inv
    | with_reducible apply State.collArrival_inv
    | with_reducible apply State.failColl_inv
    | with_reducible apply OutKeeps.next
    | (with_reducible refine inv_fst ?_ (by with_reducible assumption)))

theorem execNoticeAppend_inv (i : Nat) (s : State) (hs : s.Inv) : OutKeeps (execNoticeAppend i s) := by
  unfold execNoticeAppend
  repeat' (first
    | with_reducible assumption
    | extract_lets
    | split
    | with_reducible apply State.readFlatVia_inv
    | with_reducible apply State.wroteLines_inv
    | with_reducible apply State.writeAll_inv
    | with_reducible apply State.finishOp_inv
    | with_reducible apply State.faultOp_inv
    | with_reducible apply OutKeeps.next
    | (simp only [State.Inv.mk_iff]; with_reducible apply State.Inv.both)
    | (with_reducible refine Res.Keeps.inv ?_ (by with_reducible assumption))
    | dsimp +zetaDelta only)

/-! ## Machine/Place.lean -/

theorem State.clearKeys_inv (s : State) (lo n : Nat) (hs : s.Inv) : State.Inv (State.clearKeys s lo n) := by
  exact ⟨AL.wf_filter _ _ _ hs.1, hs.2⟩

theorem State.claimShare_inv (s : State) (task inst team k core size dom : Nat) (hs : s.Inv) : State.Inv (State.claimShare s task inst team k core size dom) := by
  unfold State.claimShare
  repeat' (first
    | with_reducible assumption
    | extract_lets
    | intro _
    | with_reducible apply State.clearKeys_inv
    | with_reducible apply inv_foldl
    | (simp only [State.Inv.mk_iff]; with_reducible apply State.Inv.both))

theorem State.dropShares_inv (s : State) (task inst team : Nat) (hs : s.Inv) : State.Inv (State.dropShares s task inst team) := hs

theorem State.unpoison_inv (s : State) (lo n : Nat) (hs : s.Inv) : State.Inv (State.unpoison s lo n) := hs

theorem State.bindBank_inv (s : State) (dom bank : Nat) (hs : s.Inv) : State.Inv (State.bindBank s dom bank) := by
  unfold State.bindBank
  repeat' (first
    | with_reducible assumption
    | extract_lets
    | split
    | with_reducible apply State.unpoison_inv
    | (simp only [State.Inv.mk_iff]; with_reducible apply State.Inv.both)
    | dsimp +zetaDelta only)

theorem State.bindBanks_inv (s : State) (dom a : Nat) (hs : s.Inv) : State.Inv (State.bindBanks s dom a) := by
  unfold State.bindBanks
  repeat' (first
    | with_reducible assumption
    | extract_lets
    | intro _
    | with_reducible apply State.bindBank_inv
    | with_reducible apply inv_foldl)

theorem State.seat_inv (s : State) (core : Nat) (c : Ctx) (hs : s.Inv) : State.Inv (State.seat s core c).1 := by
  unfold State.seat
  repeat' (first
    | with_reducible assumption
    | extract_lets
    | split
    | with_reducible apply State.setCtx_inv
    | with_reducible apply State.markDeck_inv
    | with_reducible apply State.bindBanks_inv)

theorem State.launch_inv (s : State) (g : GInst) (prio : Nat) (wit : W64) (die span core : Nat) (hs : s.Inv) : State.Inv (State.launch s g prio wit die span core) := by
  unfold State.launch
  repeat' (first
    | with_reducible assumption
    | extract_lets
    | intro _
    | with_reducible apply State.onInst_inv
    | with_reducible apply State.claimShare_inv
    | with_reducible apply State.seat_inv
    | with_reducible apply inv_foldl_fst
    | (simp only [State.Inv.mk_iff]; with_reducible apply State.Inv.both))

theorem State.sinkForSave_inv (s : State) (a id : Nat) (hs : s.Inv) : OptKeeps (State.sinkForSave s a id) := by
  unfold State.sinkForSave
  repeat' (first
    | with_reducible assumption
    | extract_lets
    | split
    | with_reducible apply State.onCtx_inv
    | with_reducible apply State.sinkTo_inv
    | with_reducible apply OptKeeps.some
    | with_reducible exact OptKeeps.none
    | (with_reducible refine Res.Keeps.inv ?_ (by with_reducible assumption)))

theorem State.sinkAll_inv (s : State) (a : Nat) (ids : List Nat) (hs : s.Inv) : OptKeeps (State.sinkAll s a ids) := by
  induction ids generalizing s with
  | nil =>
    unfold State.sinkAll
    repeat' (first
      | with_reducible assumption
      | with_reducible apply OptKeeps.some)
  | cons p r ih =>
    unfold State.sinkAll
    repeat' (first
      | with_reducible assumption
      | with_reducible apply ih
      | extract_lets
      | split
      | with_reducible apply State.sinkForSave_inv
      | with_reducible exact OptKeeps.none
      | (with_reducible refine inv_some ?_ (by with_reducible assumption)))

theorem State.rekey_inv (s : State) (cid : Nat) (f : Nat → Nat) (hs : s.Inv) : State.Inv (State.rekey s cid f) := hs

theorem State.saveCtx_inv (s : State) (g : GInst) (a : Nat) (hs : s.Inv) : State.Inv (State.saveCtx s g a) := by
  unfold State.saveCtx
  repeat' (first
    | with_reducible assumption
    | extract_lets
    | split
    | with_reducible apply State.onInst_inv
    | with_reducible apply State.unlock_inv
    | with_reducible apply State.markDeck_inv
    | with_reducible apply State.onCore_inv
    | with_reducible apply State.dropEpis_inv
    | with_reducible apply State.unpoison_inv
    | with_reducible apply State.rekey_inv
    | (simp only [State.Inv.mk_iff]; with_reducible apply State.Inv.both))

theorem State.saveShares_inv (s : State) (g : GInst) (teams : List Nat) (hs : s.Inv) : State.Inv (State.saveShares s g teams) := by
  unfold State.saveShares
  repeat' (first
    | with_reducible assumption
    | extract_lets
    | intro _
    | with_reducible apply State.onInst_inv
    | with_reducible apply State.unpoison_inv
    | with_reducible apply inv_foldl)

theorem State.writeArea_inv (s : State) (g : GInst) (n i : Nat) (c : Ctx) (hs : s.Inv) : State.Inv (State.writeArea s g n i c) := by
  unfold State.writeArea
  repeat' (first
    | with_reducible assumption
    | extract_lets
    | intro _
    | with_reducible apply State.memWrite_inv
    | with_reducible apply State.fwWrite_inv
    | with_reducible apply State.clearKeys_inv
    | with_reducible apply inv_foldl)

theorem State.writeAreas_inv (s : State) (g : GInst) (i : Nat) (areas : List Nat) (images : List Ctx) (hs : s.Inv) : State.Inv (State.writeAreas s g i areas images) := by
  induction areas generalizing s i images with
  | nil => simpa only [State.writeAreas] using hs
  | cons n r ih =>
    cases images with
    | nil => simpa only [State.writeAreas] using hs
    | cons c l => exact ih _ _ _ (State.writeArea_inv _ _ _ _ _ hs)

theorem State.saveInst_inv (s : State) (g : GInst) (hs : s.Inv) : OptKeeps (State.saveInst s g) := by
  unfold State.saveInst
  repeat' (first
    | with_reducible assumption
    | extract_lets
    | intro _
    | split
    | with_reducible apply State.onInst_inv
    | with_reducible apply State.dropShares_inv
    | with_reducible apply State.sinkAll_inv
    | with_reducible apply State.saveCtx_inv
    | with_reducible apply State.saveShares_inv
    | with_reducible apply State.writeAreas_inv
    | with_reducible apply inv_foldl
    | with_reducible apply OptKeeps.some
    | with_reducible exact OptKeeps.none
    | with_reducible apply OptKeeps.bind
    | with_reducible apply OptKeeps.foldl
    | (with_reducible refine inv_some ?_ (by with_reducible assumption))
    | dsimp +zetaDelta only)

theorem State.repoison_inv (s : State) (g : GInst) (kind team k lo : Nat) (hs : s.Inv) : State.Inv (State.repoison s g kind team k lo) := hs

theorem State.restoreShare_inv (s : State) (g : GInst) (die span core : Nat) (x : Nat × Nat × AL Byte) (hs : s.Inv) : State.Inv (State.restoreShare s g die span core x) := by
  unfold State.restoreShare
  repeat' (first
    | with_reducible assumption
    | extract_lets
    | split
    | with_reducible apply State.memWrite_inv
    | with_reducible apply State.clearKeys_inv
    | with_reducible apply State.claimShare_inv
    | with_reducible apply State.repoison_inv)

theorem State.restoreCtx_inv (s : State) (g : GInst) (die span core : Nat) (x : Nat × Ctx) (hs : s.Inv) : State.Inv (State.restoreCtx s g die span core x) := by
  unfold State.restoreCtx
  repeat' (first
    | with_reducible assumption
    | extract_lets
    | with_reducible apply State.onInst_inv
    | with_reducible apply State.unpoison_inv
    | with_reducible apply State.seat_inv
    | with_reducible apply State.rekey_inv
    | with_reducible apply State.repoison_inv
    | (simp only [State.Inv.mk_iff]; with_reducible apply State.Inv.both)
    | dsimp +zetaDelta only)

theorem State.restoreInst_inv (s : State) (g : GInst) (die span core : Nat) (hs : s.Inv) : State.Inv (State.restoreInst s g die span core) := by
  unfold State.restoreInst
  repeat' (first
    | with_reducible assumption
    | extract_lets
    | intro _
    | with_reducible apply State.onInst_inv
    | with_reducible apply State.restoreShare_inv
    | with_reducible apply State.restoreCtx_inv
    | with_reducible apply inv_foldl)

/-! ## Machine/EvSched.lean -/

theorem State.give_inv (s : State) (core a : Nat) (turn : Bool) (n : Nat) (hs : s.Inv) : State.Inv (State.give s core a turn n) := hs

theorem execIssueSelection_inv (core : Nat) (s : State) (hs : s.Inv) : OutKeeps (execIssueSelection core s) := by
  unfold execIssueSelection
  repeat' (first
    | with_reducible assumption
    | extract_lets
    | split
    | with_reducible apply State.give_inv
    | with_reducible apply OutKeeps.next)

theorem execStarvationGrant_inv (core : Nat) (s : State) (hs : s.Inv) : OutKeeps (execStarvationGrant core s) := by
  unfold execStarvationGrant
  repeat' (first
    | with_reducible assumption
    | extract_lets
    | split
    | with_reducible apply State.onCore_inv
    | with_reducible apply OutKeeps.next)

theorem execYieldPassEnd_inv (a : Nat) (s : State) (hs : s.Inv) : OutKeeps (execYieldPassEnd a s) := by
  unfold execYieldPassEnd
  repeat' (first
    | with_reducible assumption
    | extract_lets
    | split
    | with_reducible apply State.setCtx_inv
    | with_reducible apply OutKeeps.next)

theorem execBarrierRelease_inv (task inst : Nat) (gang : Bool) (team b : Nat) (s : State) (hs : s.Inv) : OutKeeps (execBarrierRelease task inst gang team b s) := by
  unfold execBarrierRelease
  repeat' (first
    | with_reducible assumption
    | extract_lets
    | intro _
    | split
    | with_reducible apply State.onCtx_inv
    | with_reducible apply State.onInst_inv
    | with_reducible apply State.steerBy_inv
    | with_reducible apply inv_foldl
    | with_reducible apply OutKeeps.next
    | dsimp +zetaDelta only)

theorem execInstancePlacement_inv (task inst die span core : Nat) (s : State) (hs : s.Inv) : OutKeeps (execInstancePlacement task inst die span core s) := by
  unfold execInstancePlacement
  repeat' (first
    | with_reducible assumption
    | extract_lets
    | split
    | with_reducible apply State.enter_inv
    | with_reducible apply State.launch_inv
    | with_reducible apply OutKeeps.next)

theorem execPriorityAgeing_inv (task inst : Nat) (s : State) (hs : s.Inv) : OutKeeps (execPriorityAgeing task inst s) := by
  unfold execPriorityAgeing
  repeat' (first
    | with_reducible assumption
    | extract_lets
    | split
    | with_reducible apply State.onInst_inv
    | with_reducible apply OutKeeps.next)

theorem State.halt_inv (s : State) (g : GInst) (hs : s.Inv) : State.Inv (State.halt s g) := hs

theorem State.saveEach_inv (s : State) (l : List GInst) (hs : s.Inv) : OptKeeps (State.saveEach s l) := by
  induction l generalizing s with
  | nil =>
    unfold State.saveEach
    repeat' (first
      | with_reducible assumption
      | with_reducible apply OptKeeps.some)
  | cons p r ih =>
    unfold State.saveEach
    repeat' (first
      | with_reducible assumption
      | extract_lets
      | with_reducible apply State.saveInst_inv
      | with_reducible apply OptKeeps.bind)

theorem State.preemptAll_inv (s : State) (l : List GInst) (hs : s.Inv) : State.Inv (State.preemptAll s l) := by
  unfold State.preemptAll
  repeat' (first
    | with_reducible assumption
    | extract_lets
    | intro _
    | split
    | with_reducible apply State.halt_inv
    | with_reducible apply State.saveEach_inv
    | with_reducible apply inv_foldl
    | with_reducible apply OptKeeps.getD)

theorem execPreempt_inv (task inst : Nat) (s : State) (hs : s.Inv) : OutKeeps (execPreempt task inst s) := by
  unfold execPreempt
  repeat' (first
    | with_reducible assumption
    | extract_lets
    | split
    | with_reducible apply State.preemptAll_inv
    | with_reducible apply OutKeeps.next)

theorem execResume_inv (task inst die span core : Nat) (s : State) (hs : s.Inv) : OutKeeps (execResume task inst die span core s) := by
  unfold execResume
  repeat' (first
    | with_reducible assumption
    | extract_lets
    | split
    | with_reducible apply State.restoreInst_inv
    | with_reducible apply OutKeeps.next)

theorem State.without_inv (s : State) (gs : List GInst) (hs : s.Inv) : State.Inv (State.without s gs) := hs

theorem execForcedPreemption_inv (task inst : Nat) (s : State) (hs : s.Inv) : OutKeeps (execForcedPreemption task inst s) := by
  unfold execForcedPreemption
  repeat' (first
    | with_reducible assumption
    | extract_lets
    | split
    | with_reducible apply State.preemptAll_inv
    | with_reducible apply OutKeeps.next)

theorem execScratchShareRelease_inv (task inst team : Nat) (s : State) (hs : s.Inv) : OutKeeps (execScratchShareRelease task inst team s) := by
  unfold execScratchShareRelease
  repeat' (first
    | with_reducible assumption
    | extract_lets
    | split
    | with_reducible apply State.dropShares_inv
    | with_reducible apply OutKeeps.next)

theorem State.dropChunks_inv (s : State) (l : List Nat) (hs : s.Inv) : State.Inv (State.dropChunks s l) := hs

theorem State.addChunk_inv (s : State) (q : Nat) (hs : s.Inv) : State.Inv (State.addChunk s q) := by
  unfold State.addChunk
  repeat' (first
    | with_reducible assumption
    | split
    | with_reducible apply State.onCtx_inv
    | (simp only [State.Inv.mk_iff]; with_reducible apply State.Inv.both))

theorem execDeadlockQueueGrowth_inv (die qu : Nat) (s : State) (hs : s.Inv) : OutKeeps (execDeadlockQueueGrowth die qu s) := by
  unfold execDeadlockQueueGrowth
  repeat' (first
    | with_reducible assumption
    | extract_lets
    | split
    | with_reducible apply State.progress_inv
    | with_reducible apply State.abortInst_inv
    | with_reducible apply State.dropChunks_inv
    | with_reducible apply State.addChunk_inv
    | with_reducible apply OutKeeps.next
    | (simp only [State.Inv.mk_iff]; with_reducible apply State.Inv.both)
    | dsimp +zetaDelta only)

theorem execCodegenPass_inv (core : Nat) (s : State) (hs : s.Inv) : OutKeeps (execCodegenPass core s) := by
  unfold execCodegenPass
  repeat' (first
    | with_reducible assumption
    | extract_lets
    | split
    | with_reducible apply State.onCore_inv
    | dsimp only [Ran.Keeps]
    | with_reducible apply OutKeeps.next
    | (simp only [State.Inv.mk_iff]; with_reducible apply State.Inv.both))

/-! ## Machine/EvTask.lean -/

theorem State.wake_inv (s : State) (id : Nat) (hs : s.Inv) : State.Inv (State.wake s id) := by
  unfold State.wake
  repeat' (first
    | with_reducible assumption
    | split
    | (simp only [State.Inv.mk_iff]; with_reducible apply State.Inv.both))

theorem State.decrement_inv (s : State) (h : BitVec 32 × Nat) (hs : s.Inv) : State.Inv (State.decrement s h) := by
  unfold State.decrement
  repeat' (first
    | with_reducible assumption
    | extract_lets
    | split
    | with_reducible apply State.onTask_inv
    | with_reducible apply State.wake_inv
    | (simp only [State.Inv.mk_iff]; with_reducible apply State.Inv.both))

theorem State.cancelSucc_inv (s : State) (h : BitVec 32 × Nat) (hs : s.Inv) : State.Inv (State.cancelSucc s h) := by
  unfold State.cancelSucc
  repeat' (first
    | with_reducible assumption
    | split
    | with_reducible apply State.onTask_inv
    | (simp only [State.Inv.mk_iff]; with_reducible apply State.Inv.both))

theorem State.signal_inv (s : State) (h : BitVec 32 × Nat) (hs : s.Inv) : State.Inv (State.signal s h) := by
  unfold State.signal
  repeat' (first
    | with_reducible assumption
    | extract_lets
    | split
    | with_reducible apply State.onTask_inv
    | with_reducible apply State.wake_inv
    | (simp only [State.Inv.mk_iff]; with_reducible apply State.Inv.both))

theorem State.stopSaved_inv (s : State) (g : GInst) (hs : s.Inv) : State.Inv (State.stopSaved s g) := by
  unfold State.stopSaved
  repeat' (first
    | with_reducible assumption
    | extract_lets
    | intro _
    | split
    | with_reducible apply State.formFail_inv
    | with_reducible apply State.account_inv
    | with_reducible apply State.failOps_inv
    | with_reducible apply State.clearLatches_inv
    | with_reducible apply inv_foldl
    | (simp only [State.Inv.mk_iff]; with_reducible apply State.Inv.both))

theorem State.dropWaiting_inv (s : State) (id : Nat) (hs : s.Inv) : State.Inv (State.dropWaiting s id) := by
  unfold State.dropWaiting
  repeat' (first
    | with_reducible assumption
    | extract_lets
    | intro _
    | with_reducible apply State.stopSaved_inv
    | with_reducible apply inv_foldl
    | (simp only [State.Inv.mk_iff]; with_reducible apply State.Inv.both))

theorem State.endTask_inv (s : State) (id : Nat) (st : TState) (cls detail : Nat) (hash : W64) (hs : s.Inv) : OptKeeps (State.endTask s id st cls detail hash) := by
  unfold State.endTask
  repeat' (first
    | with_reducible assumption
    | extract_lets
    | intro _
    | split
    | with_reducible apply State.enter_inv
    | with_reducible apply State.decrement_inv
    | with_reducible apply State.cancelSucc_inv
    | with_reducible apply State.signal_inv
    | with_reducible apply State.dropWaiting_inv
    | with_reducible apply inv_foldl
    | with_reducible apply OptKeeps.some
    | with_reducible exact OptKeeps.none
    | dsimp +zetaDelta only)

theorem State.sweepCancels_inv (s : State) (fuel : Nat) (hs : s.Inv) : State.Inv (State.sweepCancels s fuel) := by
  induction fuel generalizing s with
  | zero =>
    unfold State.sweepCancels
    repeat' (first
      | with_reducible assumption)
  | succ n ih =>
    unfold State.sweepCancels
    repeat' (first
      | with_reducible assumption
      | with_reducible apply ih
      | extract_lets
      | intro _
      | split
      | with_reducible apply State.endTask_inv
      | with_reducible exact OptKeeps.none
      | with_reducible apply OptKeeps.findSome
      | (with_reducible refine inv_some ?_ (by with_reducible assumption)))

theorem State.pendEnd_inv (s : State) (id : Nat) (st : TState) (cls detail : Nat) (hash : W64) (hs : s.Inv) : State.Inv (State.pendEnd s id st cls detail hash) := hs

theorem State.failUnplaceable_inv (s : State) (hs : s.Inv) : State.Inv (State.failUnplaceable s) := by
  unfold State.failUnplaceable
  repeat' (first
    | with_reducible assumption
    | extract_lets
    | intro _
    | split
    | with_reducible apply State.endTask_inv
    | with_reducible apply State.pendEnd_inv
    | with_reducible apply inv_foldl
    | with_reducible apply OptKeeps.getD)

theorem State.finish_inv (s : State) (id : Nat) (st : TState) (cls detail : Nat) (hash : W64) (hs : s.Inv) : State.Inv (State.finish s id st cls detail hash) := by
  unfold State.finish
  repeat' (first
    | with_reducible assumption
    | extract_lets
    | split
    | with_reducible apply State.endTask_inv
    | with_reducible apply State.sweepCancels_inv
    | with_reducible apply State.pendEnd_inv
    | with_reducible apply State.failUnplaceable_inv
    | (with_reducible refine inv_some ?_ (by with_reducible assumption)))

theorem State.tailWrite_inv (s : State) (q : Nat) (v : W64) (hs : s.Inv) : State.Inv (State.tailWrite s q v) := by
  unfold State.tailWrite
  repeat' (first
    | with_reducible assumption
    | extract_lets
    | split
    | (simp only [State.Inv.mk_iff]; with_reducible apply State.Inv.both))

theorem execTailWrite_inv (q : Nat) (v : BitVec 64) (s : State) (hs : s.Inv) : OutKeeps (execTailWrite q v s) := by
  unfold execTailWrite
  repeat' (first
    | with_reducible assumption
    | extract_lets
    | with_reducible apply State.tailWrite_inv
    | with_reducible apply OutKeeps.next)

theorem State.refuse_inv (s : State) (q : Nat) (bs : List Byte) (reason : Nat) (hs : s.Inv) : State.Inv (State.refuse s q bs reason) := by
  unfold State.refuse
  repeat' (first
    | with_reducible assumption
    | with_reducible apply State.journal_inv)

theorem State.takeCredits_inv (s : State) (t : Task) (hs : s.Inv) : State.Inv (State.takeCredits s t) := hs

theorem State.accept_inv (s : State) (q : Nat) (x : QueueSt) (bs : List Byte) (wit : W64) (hs : s.Inv) : State.Inv (State.accept s q x bs wit) := by
  unfold State.accept
  repeat' (first
    | with_reducible assumption
    | extract_lets
    | split
    | with_reducible apply State.journal_inv
    | with_reducible apply State.wake_inv
    | with_reducible apply State.sweepCancels_inv
    | with_reducible apply State.failUnplaceable_inv
    | with_reducible apply State.takeCredits_inv
    | (simp only [State.Inv.mk_iff]; with_reducible apply State.Inv.both)
    | dsimp +zetaDelta only)

theorem State.ingress_inv (s : State) (dom : Nat) (hs : s.Inv) : State.Inv (State.ingress s dom).1 := hs

theorem State.launched_inv (s : State) (p : LaunchPkt) (hs : s.Inv) : State.Inv (State.launched s p) := by
  unfold State.launched
  repeat' (first
    | with_reducible assumption
    | extract_lets
    | with_reducible apply State.formLevel_inv
    | with_reducible apply State.returnChunks_inv
    | (simp only [State.Inv.mk_iff]; with_reducible apply State.Inv.both))

theorem execQueueVisit_inv (q : Nat) (s : State) (hs : s.Inv) : OutKeeps (execQueueVisit q s) := by
  unfold execQueueVisit
  repeat' (first
    | with_reducible assumption
    | extract_lets
    | split
    | with_reducible apply State.refuse_inv
    | with_reducible apply State.accept_inv
    | with_reducible apply State.ingress_inv
    | with_reducible apply State.launched_inv
    | with_reducible apply OutKeeps.next
    | (simp only [State.Inv.mk_iff]; with_reducible apply State.Inv.both)
    | dsimp +zetaDelta only)

theorem execLaunchQueueAppend_inv (i : Nat) (s : State) (hs : s.Inv) : OutKeeps (execLaunchQueueAppend i s) := by
  unfold execLaunchQueueAppend
  repeat' (first
    | with_reducible assumption
    | extract_lets
    | intro _
    | split
    | with_reducible apply State.fwWrite_inv
    | with_reducible apply State.returnChunks_inv
    | with_reducible apply State.refuse_inv
    | with_reducible apply State.launched_inv
    | with_reducible apply inv_foldl
    | with_reducible apply OutKeeps.next
    | (simp only [State.Inv.mk_iff]; with_reducible apply State.Inv.both))

theorem execTaskComplete_inv (task : Nat) (s : State) (hs : s.Inv) : OutKeeps (execTaskComplete task s) := by
  unfold execTaskComplete
  repeat' (first
    | with_reducible assumption
    | extract_lets
    | split
    | with_reducible apply State.finish_inv
    | with_reducible apply OutKeeps.next)

theorem State.toPlaced_inv (s : State) (t : Task) (hs : s.Inv) : State.Inv (State.toPlaced s t) := by
  unfold State.toPlaced
  repeat' (first
    | with_reducible assumption
    | split
    | with_reducible apply State.enter_inv)

theorem State.toRunning_inv (s : State) (t : Task) (hs : s.Inv) : State.Inv (State.toRunning s t) := by
  unfold State.toRunning
  repeat' (first
    | with_reducible assumption
    | extract_lets
    | split
    | with_reducible apply State.enter_inv
    | with_reducible apply State.toPlaced_inv)

theorem State.work_inv (s : State) (task kind : Nat) (waits : Bool) (f : State → Task → State) (hs : s.Inv) (hf : ∀ s t, s.Inv → (f s t).Inv) : State.Inv (State.work s task kind waits f) := by
  unfold State.work
  repeat' (first
    | with_reducible assumption
    | with_reducible apply hf
    | extract_lets
    | split
    | with_reducible apply State.toPlaced_inv
    | with_reducible apply State.toRunning_inv)

theorem execCopyTask_inv (task : Nat) (s : State) (hs : s.Inv) : OutKeeps (execCopyTask task s) := by
  unfold execCopyTask
  repeat' (first
    | with_reducible assumption
    | extract_lets
    | intro _
    | split
    | with_reducible apply State.takeSeq_inv
    | with_reducible apply State.formLevel_inv
    | with_reducible apply State.formFail_inv
    | with_reducible apply State.readFlatVia_inv
    | with_reducible apply State.writeFlatVia_inv
    | with_reducible apply State.wroteLines_inv
    | with_reducible apply State.onTask_inv
    | with_reducible apply State.finish_inv
    | with_reducible apply State.work_inv
    | dsimp only [Ran.Keeps]
    | with_reducible apply OutKeeps.next
    | (with_reducible refine Res.Keeps.inv ?_ (by with_reducible assumption))
    | (with_reducible refine inv_fst ?_ (by with_reducible assumption)))

theorem execSignalTask_inv (task : Nat) (s : State) (hs : s.Inv) : OutKeeps (execSignalTask task s) := by
  unfold execSignalTask
  repeat' (first
    | with_reducible assumption
    | extract_lets
    | split
    | with_reducible apply State.finish_inv
    | with_reducible apply OutKeeps.next)

theorem execWaitTask_inv (task : Nat) (s : State) (hs : s.Inv) : OutKeeps (execWaitTask task s) := by
  unfold execWaitTask
  repeat' (first
    | with_reducible assumption
    | extract_lets
    | intro _
    | split
    | with_reducible apply State.trans_inv
    | with_reducible apply State.readHome_inv
    | with_reducible apply State.finish_inv
    | with_reducible apply State.work_inv
    | dsimp only [Ran.Keeps]
    | with_reducible apply OutKeeps.next
    | (with_reducible refine Res.Keeps.inv ?_ (by with_reducible assumption)))

theorem execRecordFenceTask_inv (task : Nat) (s : State) (hs : s.Inv) : OutKeeps (execRecordFenceTask task s) := by
  unfold execRecordFenceTask
  repeat' (first
    | with_reducible assumption
    | extract_lets
    | intro _
    | split
    | with_reducible apply State.finish_inv
    | with_reducible apply State.work_inv
    | with_reducible apply OutKeeps.next
    | (simp only [State.Inv.mk_iff]; with_reducible apply State.Inv.both))

theorem execJournalMark_inv (task : Nat) (s : State) (hs : s.Inv) : OutKeeps (execJournalMark task s) := by
  unfold execJournalMark
  repeat' (first
    | with_reducible assumption
    | extract_lets
    | split
    | with_reducible apply State.finish_inv
    | with_reducible apply OutKeeps.next)

theorem State.clearSpan_inv (s : State) (die span : Nat) (hs : s.Inv) : State.Inv (State.clearSpan s die span) := by
  unfold State.clearSpan
  repeat' (first
    | with_reducible assumption
    | extract_lets
    | intro _
    | with_reducible apply State.clearKeys_inv
    | with_reducible apply inv_foldl
    | (simp only [State.Inv.mk_iff]; with_reducible apply State.Inv.both))

theorem State.testOutcome_inv (s : State) (t : Task) (hs : s.Inv) : State.Inv (State.testOutcome s t) := by
  unfold State.testOutcome
  repeat' (first
    | with_reducible assumption
    | extract_lets
    | intro _
    | split
    | with_reducible apply State.errRecord_inv
    | with_reducible apply State.abortInst_inv
    | with_reducible apply State.finish_inv
    | with_reducible apply inv_foldl
    | (simp only [State.Inv.mk_iff]; with_reducible apply State.Inv.both)
    | dsimp +zetaDelta only)

theorem execSelfTestRun_inv (task : Nat) (s : State) (hs : s.Inv) : OutKeeps (execSelfTestRun task s) := by
  unfold execSelfTestRun
  repeat' (first
    | with_reducible assumption
    | extract_lets
    | split
    | with_reducible apply State.toPlaced_inv
    | with_reducible apply State.toRunning_inv
    | with_reducible apply State.clearSpan_inv
    | with_reducible apply State.testOutcome_inv
    | with_reducible apply OutKeeps.next)

theorem State.newPage_inv (s : State) (hs : s.Inv) : State.Inv (State.newPage s).1 := by
  unfold State.newPage
  repeat' (first
    | with_reducible assumption
    | extract_lets
    | with_reducible apply State.clearKeys_inv
    | (simp only [State.Inv.mk_iff]; with_reducible apply State.Inv.both))

theorem State.setPolicy_inv (s : State) (dom page : Nat) (delivered : Bool) (hs : s.Inv) : State.Inv (State.setPolicy s dom page delivered) := by
  unfold State.setPolicy
  repeat' (first
    | with_reducible assumption
    | extract_lets
    | split
    | with_reducible apply State.putEntry_inv)

theorem State.loadPage_inv (s : State) (dom : Nat) (same : Option Obj) (code : Bool) (ds : List (Nat × Nat × Bool)) (page : Nat) (hs : s.Inv) : State.Inv (State.loadPage s dom same code ds page).1 := by
  unfold State.loadPage
  repeat' (first
    | with_reducible assumption
    | extract_lets
    | split
    | with_reducible apply State.mapPage_inv
    | with_reducible apply State.newPage_inv
    | with_reducible apply State.setPolicy_inv
    | dsimp +zetaDelta only)

theorem State.loadPages_inv (s : State) (dom : Nat) (same : Option Obj) (code : Bool) (ds : List (Nat × Nat × Bool)) (ps : List Nat) (hs : s.Inv) : State.Inv (State.loadPages s dom same code ds ps).1 := by
  unfold State.loadPages
  repeat' (first
    | with_reducible assumption
    | extract_lets
    | intro _
    | with_reducible apply State.loadPage_inv
    | with_reducible apply inv_foldl_fst)

theorem State.placeBytes_inv (s : State) (dom va : Nat) (bs : List Byte) (hs : s.Inv) : State.Inv (State.placeBytes s dom va bs) := by
  unfold State.placeBytes
  repeat' (first
    | with_reducible assumption
    | extract_lets
    | intro _
    | split
    | with_reducible apply State.memWrite_inv
    | with_reducible apply State.clearPoison_inv
    | with_reducible apply State.invalidate_inv
    | with_reducible apply inv_foldl)

theorem State.loadObj_inv (s : State) (dom : Nat) (img : List Byte) (hs : s.Inv) : State.Inv (State.loadObj s dom img).1 := by
  unfold State.loadObj
  repeat' (first
    | with_reducible assumption
    | extract_lets
    | intro _
    | split
    | with_reducible apply State.loadPages_inv
    | with_reducible apply State.placeBytes_inv
    | with_reducible apply inv_foldl
    | (simp only [State.Inv.mk_iff]; with_reducible apply State.Inv.both))

theorem State.readImage_inv (s : State) (t : Task) (va : Nat) (hs : s.Inv) : Res.Keeps (State.readImage s t va) := by
  unfold State.readImage
  repeat' (first
    | with_reducible assumption
    | extract_lets
    | split
    | with_reducible apply State.readFlatVia_inv
    | with_reducible apply Res.keeps_ok
    | with_reducible exact Res.keeps_wait
    | with_reducible exact Res.keeps_fault
    | (with_reducible refine Res.Keeps.inv ?_ (by with_reducible assumption)))

theorem execCodeLoad_inv (task : Nat) (s : State) (hs : s.Inv) : OutKeeps (execCodeLoad task s) := by
  unfold execCodeLoad
  repeat' (first
    | with_reducible assumption
    | extract_lets
    | intro _
    | split
    | with_reducible apply State.writeBack_inv
    | with_reducible apply State.writeFlatVia_inv
    | with_reducible apply State.settleMoves_inv
    | with_reducible apply State.finish_inv
    | with_reducible apply State.work_inv
    | with_reducible apply State.loadObj_inv
    | with_reducible apply State.readImage_inv
    | dsimp only [Ran.Keeps]
    | with_reducible apply OutKeeps.next
    | (with_reducible refine Res.Keeps.inv ?_ (by with_reducible assumption))
    | (with_reducible refine inv_fst ?_ (by with_reducible assumption)))

theorem State.unmapObj_inv (s : State) (o : Obj) (hs : s.Inv) : State.Inv (State.unmapObj s o) := by
  unfold State.unmapObj
  repeat' (first
    | with_reducible assumption
    | extract_lets
    | intro _
    | split
    | with_reducible apply State.poolGive_inv
    | with_reducible apply State.putEntry_inv
    | with_reducible apply inv_foldl)

theorem State.freeCode_inv (s : State) (o : Obj) (hs : s.Inv) : State.Inv (State.freeCode s o) := by
  unfold State.freeCode
  repeat' (first
    | with_reducible assumption
    | extract_lets
    | intro _
    | split
    | with_reducible apply State.poolGive_inv
    | with_reducible apply inv_foldl
    | (simp only [State.Inv.mk_iff]; with_reducible apply State.Inv.both)
    | dsimp +zetaDelta only)

theorem execCodeUnload_inv (task : Nat) (s : State) (hs : s.Inv) : OutKeeps (execCodeUnload task s) := by
  unfold execCodeUnload
  repeat' (first
    | with_reducible assumption
    | extract_lets
    | split
    | with_reducible apply State.onTask_inv
    | with_reducible apply State.settleMoves_inv
    | with_reducible apply State.finish_inv
    | with_reducible apply State.toPlaced_inv
    | with_reducible apply State.toRunning_inv
    | with_reducible apply State.unmapObj_inv
    | with_reducible apply State.freeCode_inv
    | with_reducible apply OutKeeps.next
    | (simp only [State.Inv.mk_iff]; with_reducible apply State.Inv.both))

/-! ## Machine/EvHost.lean -/

theorem State.packageReset_inv (s : State) (hs : s.Inv) : State.Inv (State.packageReset s) := by
  exact ⟨AL.wf_filter _ _ _ hs.1, (by decide : (0 : Nat) < 768)⟩

theorem execPackageReset_inv (s : State) (hs : s.Inv) : OutKeeps (execPackageReset s) := by
  unfold execPackageReset
  repeat' (first
    | with_reducible assumption
    | extract_lets
    | with_reducible apply State.packageReset_inv
    | with_reducible apply OutKeeps.next)

theorem State.setLogs_inv (s : State) (hs : s.Inv) : State.Inv (State.setLogs s) := by
  unfold State.setLogs
  repeat' (first
    | with_reducible assumption
    | extract_lets
    | intro _
    | with_reducible apply State.fwWrite_inv
    | with_reducible apply inv_foldl)

theorem execBoot_inv (s : State) (hs : s.Inv) : OutKeeps (execBoot s) := by
  unfold execBoot
  repeat' (first
    | with_reducible assumption
    | extract_lets
    | split
    | with_reducible apply State.setLogs_inv
    | with_reducible apply OutKeeps.next
    | (simp only [State.Inv.mk_iff]; with_reducible apply State.Inv.both))

theorem execFundamentalReset_inv (s : State) (hs : s.Inv) : OutKeeps (execFundamentalReset s) := by
  unfold execFundamentalReset
  repeat' (first
    | with_reducible assumption
    | extract_lets
    | with_reducible apply OutKeeps.next
    | (simp only [State.Inv.mk_iff]; with_reducible apply State.Inv.both))

theorem execHostLinkReturn_inv (s : State) (hs : s.Inv) : OutKeeps (execHostLinkReturn s) := by
  unfold execHostLinkReturn
  repeat' (first
    | with_reducible assumption
    | extract_lets
    | with_reducible apply OutKeeps.next
    | (simp only [State.Inv.mk_iff]; with_reducible apply State.Inv.both))

theorem execHostLinkTimeout_inv (s : State) (hs : s.Inv) : OutKeeps (execHostLinkTimeout s) := by
  unfold execHostLinkTimeout
  repeat' (first
    | with_reducible assumption
    | extract_lets
    | split
    | with_reducible apply OutKeeps.next
    | (simp only [State.Inv.mk_iff]; with_reducible apply State.Inv.both))

theorem execTamvanLinkDown_inv (port : Nat) (s : State) (hs : s.Inv) : OutKeeps (execTamvanLinkDown port s) := by
  unfold execTamvanLinkDown
  repeat' (first
    | with_reducible assumption
    | extract_lets
    | split
    | with_reducible apply OutKeeps.next
    | (simp only [State.Inv.mk_iff]; with_reducible apply State.Inv.both))

theorem execTamvanLinkUp_inv (port : Nat) (s : State) (hs : s.Inv) : OutKeeps (execTamvanLinkUp port s) := by
  unfold execTamvanLinkUp
  repeat' (first
    | with_reducible assumption
    | extract_lets
    | with_reducible apply OutKeeps.next
    | (simp only [State.Inv.mk_iff]; with_reducible apply State.Inv.both))

theorem execLinkLayerRetry_inv (port : Nat) (s : State) (hs : s.Inv) : OutKeeps (execLinkLayerRetry port s) := by
  unfold execLinkLayerRetry
  repeat' (first
    | with_reducible assumption
    | extract_lets
    | split
    | with_reducible apply OutKeeps.next
    | (simp only [State.Inv.mk_iff]; with_reducible apply State.Inv.both))

theorem execLaneRetrain_inv (port : Nat) (s : State) (hs : s.Inv) : OutKeeps (execLaneRetrain port s) := by
  unfold execLaneRetrain
  repeat' (first
    | with_reducible assumption
    | extract_lets
    | split
    | with_reducible apply State.errRecord_inv
    | with_reducible apply OutKeeps.next
    | (simp only [State.Inv.mk_iff]; with_reducible apply State.Inv.both))

theorem State.chargeShare_inv (s : State) (r : Resid) (n : Nat) (hs : s.Inv) : State.Inv (State.chargeShare s r n) := by
  unfold State.chargeShare
  repeat' (first
    | with_reducible assumption
    | extract_lets
    | split
    | (simp only [State.Inv.mk_iff]; with_reducible apply State.Inv.both))

theorem execEnergyInterval_inv (s : State) (hs : s.Inv) : OutKeeps (execEnergyInterval s) := by
  unfold execEnergyInterval
  repeat' (first
    | with_reducible assumption
    | extract_lets
    | intro _
    | split
    | with_reducible apply State.chargeShare_inv
    | with_reducible apply inv_foldl
    | with_reducible apply OutKeeps.next
    | (simp only [State.Inv.mk_iff]; with_reducible apply State.Inv.both))

theorem execErrorLogCoalesce_inv (s : State) (hs : s.Inv) : OutKeeps (execErrorLogCoalesce s) := by
  unfold execErrorLogCoalesce
  repeat' (first
    | with_reducible assumption
    | extract_lets
    | intro _
    | split
    | with_reducible apply State.errRecord_inv
    | with_reducible apply inv_foldl
    | with_reducible apply OutKeeps.next
    | (simp only [State.Inv.mk_iff]; with_reducible apply State.Inv.both))

theorem State.addWear_inv (s : State) (die : Nat) (hs : s.Inv) : State.Inv (State.addWear s die) := hs

theorem State.derateDie_inv (s : State) (die : Nat) (hs : s.Inv) : State.Inv (State.derateDie s die) := by
  unfold State.derateDie
  repeat' (first
    | with_reducible assumption
    | extract_lets
    | with_reducible apply State.errRecord_inv
    | with_reducible apply State.addWear_inv
    | (simp only [State.Inv.mk_iff]; with_reducible apply State.Inv.both))

theorem State.sampleDie_inv (s : State) (n die : Nat) (hs : s.Inv) : State.Inv (State.sampleDie s n die) := by
  unfold State.sampleDie
  repeat' (first
    | with_reducible assumption
    | extract_lets
    | split
    | with_reducible apply State.addWear_inv
    | with_reducible apply State.derateDie_inv
    | (simp only [State.Inv.mk_iff]; with_reducible apply State.Inv.both)
    | dsimp +zetaDelta only)

theorem execCounterSample_inv (s : State) (hs : s.Inv) : OutKeeps (execCounterSample s) := by
  unfold execCounterSample
  repeat' (first
    | with_reducible assumption
    | extract_lets
    | intro _
    | split
    | with_reducible apply State.sampleDie_inv
    | with_reducible apply inv_foldl
    | with_reducible apply OutKeeps.next
    | (simp only [State.Inv.mk_iff]; with_reducible apply State.Inv.both))

theorem State.answer_inv (s : State) (off : Nat) (bs : List Byte) (hs : s.Inv) : State.Inv (State.answer s off bs) := by
  unfold State.answer
  repeat' (first
    | with_reducible assumption
    | extract_lets
    | with_reducible apply State.outsideWrite_inv
    | (simp only [State.Inv.mk_iff]; with_reducible apply State.Inv.both))

theorem State.result_inv (s : State) (r : Nat) (hs : s.Inv) : State.Inv (State.result s r) := hs

theorem State.mailQueue_inv (s : State) (hs : s.Inv) : State.Inv (State.mailQueue s) := by
  unfold State.mailQueue
  repeat' (first
    | with_reducible assumption
    | extract_lets
    | split
    | with_reducible apply State.answer_inv
    | with_reducible apply State.result_inv
    | (simp only [State.Inv.mk_iff]; with_reducible apply State.Inv.both))

theorem State.startEntry_inv (s : State) (dom level va : Nat) (e : W64) (hs : s.Inv) : State.Inv (State.startEntry s dom level va e) := by
  unfold State.startEntry
  repeat' (first
    | with_reducible assumption
    | extract_lets
    | with_reducible apply State.pathTo_inv
    | with_reducible apply State.rootOf_inv
    | with_reducible apply State.settleMoves_inv
    | with_reducible apply State.outsideWrite_inv
    | (simp only [State.Inv.mk_iff]; with_reducible apply State.Inv.both))

theorem State.endEntry_inv (s : State) (hs : s.Inv) : State.Inv (State.endEntry s) := by
  unfold State.endEntry
  repeat' (first
    | with_reducible assumption
    | extract_lets
    | intro _
    | with_reducible apply State.putEntry_inv
    | with_reducible apply State.result_inv
    | with_reducible apply inv_foldl
    | (simp only [State.Inv.mk_iff]; with_reducible apply State.Inv.both))

theorem State.mailEntry_inv (s : State) (hs : s.Inv) : State.Inv (State.mailEntry s) := by
  unfold State.mailEntry
  repeat' (first
    | with_reducible assumption
    | extract_lets
    | split
    | with_reducible apply State.result_inv
    | with_reducible apply State.startEntry_inv)

theorem State.mailPolicy_inv (s : State) (hs : s.Inv) : State.Inv (State.mailPolicy s) := by
  unfold State.mailPolicy
  repeat' (first
    | with_reducible assumption
    | extract_lets
    | split
    | with_reducible apply State.result_inv
    | (simp only [State.Inv.mk_iff]; with_reducible apply State.Inv.both))

theorem State.mailKey_inv (s : State) (hs : s.Inv) : State.Inv (State.mailKey s) := by
  unfold State.mailKey
  repeat' (first
    | with_reducible assumption
    | extract_lets
    | split
    | with_reducible apply State.result_inv
    | (simp only [State.Inv.mk_iff]; with_reducible apply State.Inv.both))

theorem State.cancelTask_inv (s : State) (t : Task) (hs : s.Inv) : State.Inv (State.cancelTask s t) := by
  unfold State.cancelTask
  repeat' (first
    | with_reducible assumption
    | extract_lets
    | intro _
    | split
    | with_reducible apply State.formFail_inv
    | with_reducible apply State.onTask_inv
    | with_reducible apply State.stopInst_inv
    | with_reducible apply State.dropWaiting_inv
    | with_reducible apply State.finish_inv
    | with_reducible apply inv_foldl
    | (simp only [State.Inv.mk_iff]; with_reducible apply State.Inv.both)
    | dsimp +zetaDelta only)

theorem State.mailCancel_inv (s : State) (hs : s.Inv) : State.Inv (State.mailCancel s) := by
  unfold State.mailCancel
  repeat' (first
    | with_reducible assumption
    | extract_lets
    | split
    | with_reducible apply State.result_inv
    | with_reducible apply State.cancelTask_inv)

theorem State.mailReturn_inv (s : State) (hs : s.Inv) : State.Inv (State.mailReturn s) := by
  unfold State.mailReturn
  repeat' (first
    | with_reducible assumption
    | extract_lets
    | split
    | with_reducible apply State.result_inv
    | (simp only [State.Inv.mk_iff]; with_reducible apply State.Inv.both))

theorem State.mailDerate_inv (s : State) (hs : s.Inv) : State.Inv (State.mailDerate s) := by
  unfold State.mailDerate
  repeat' (first
    | with_reducible assumption
    | extract_lets
    | split
    | with_reducible apply State.derateDie_inv
    | with_reducible apply State.result_inv
    | (simp only [State.Inv.mk_iff]; with_reducible apply State.Inv.both)
    | dsimp +zetaDelta only)

theorem State.mailCounters_inv (s : State) (hs : s.Inv) : State.Inv (State.mailCounters s) := by
  unfold State.mailCounters
  repeat' (first
    | with_reducible assumption
    | extract_lets
    | split
    | with_reducible apply State.answer_inv
    | with_reducible apply State.result_inv
    | dsimp +zetaDelta only)

theorem State.mailEnergy_inv (s : State) (hs : s.Inv) : State.Inv (State.mailEnergy s) := by
  unfold State.mailEnergy
  repeat' (first
    | with_reducible assumption
    | extract_lets
    | split
    | with_reducible apply State.answer_inv
    | with_reducible apply State.result_inv)

theorem State.mailAttest_inv (s : State) (hs : s.Inv) : State.Inv (State.mailAttest s) := by
  unfold State.mailAttest
  repeat' (first
    | with_reducible assumption
    | with_reducible apply State.answer_inv)

theorem State.mailHead_inv (s : State) (hs : s.Inv) : State.Inv (State.mailHead s) := by
  unfold State.mailHead
  repeat' (first
    | with_reducible assumption
    | extract_lets
    | split
    | with_reducible apply State.answer_inv
    | with_reducible apply State.result_inv)

theorem State.mailReset_inv (s : State) (hs : s.Inv) : State.Inv (State.mailReset s) := by
  unfold State.mailReset
  repeat' (first
    | with_reducible assumption
    | split
    | with_reducible apply State.packageReset_inv
    | with_reducible apply State.result_inv)

theorem State.mailFlash_inv (s : State) (hs : s.Inv) : State.Inv (State.mailFlash s) := by
  unfold State.mailFlash
  repeat' (first
    | with_reducible assumption
    | extract_lets
    | split
    | with_reducible apply State.result_inv
    | (simp only [State.Inv.mk_iff]; with_reducible apply State.Inv.both))

theorem State.mailbox_inv (s : State) (n : Nat) (hs : s.Inv) : State.Inv (State.mailbox s n) := by
  unfold State.mailbox
  repeat' (first
    | with_reducible assumption
    | split
    | with_reducible apply State.result_inv
    | with_reducible apply State.mailQueue_inv
    | with_reducible apply State.mailEntry_inv
    | with_reducible apply State.mailPolicy_inv
    | with_reducible apply State.mailKey_inv
    | with_reducible apply State.mailCancel_inv
    | with_reducible apply State.mailReturn_inv
    | with_reducible apply State.mailDerate_inv
    | with_reducible apply State.mailCounters_inv
    | with_reducible apply State.mailEnergy_inv
    | with_reducible apply State.mailAttest_inv
    | with_reducible apply State.mailHead_inv
    | with_reducible apply State.mailReset_inv
    | with_reducible apply State.mailFlash_inv)

theorem State.command_inv (s : State) (n : Nat) (hs : s.Inv) : State.Inv (State.command s n) := by
  unfold State.command
  repeat' (first
    | with_reducible assumption
    | split
    | with_reducible apply State.endEntry_inv
    | with_reducible apply State.mailbox_inv)

theorem State.mcmdWrite_inv (s : State) (v : W64) (hs : s.Inv) : State.Inv (State.mcmdWrite s v) := by
  unfold State.mcmdWrite
  repeat' (first
    | with_reducible assumption
    | split
    | (simp only [State.Inv.mk_iff]; with_reducible apply State.Inv.both))

theorem execUnknownMailboxCommand_inv (code : Nat) (s : State) (hs : s.Inv) : OutKeeps (execUnknownMailboxCommand code s) := by
  unfold execUnknownMailboxCommand
  repeat' (first
    | with_reducible assumption
    | extract_lets
    | split
    | with_reducible apply State.command_inv
    | with_reducible apply OutKeeps.next)

theorem execRegisterWrite_inv (off : Nat) (v : BitVec 64) (s : State) (hs : s.Inv) : OutKeeps (execRegisterWrite off v s) := by
  unfold execRegisterWrite
  repeat' (first
    | with_reducible assumption
    | extract_lets
    | split
    | with_reducible apply State.tailWrite_inv
    | with_reducible apply State.mcmdWrite_inv
    | with_reducible apply OutKeeps.next
    | (simp only [State.Inv.mk_iff]; with_reducible apply State.Inv.both))

theorem execConfigureQueue_inv (s : State) (hs : s.Inv) : OutKeeps (execConfigureQueue s) := by
  unfold execConfigureQueue
  repeat' (first
    | with_reducible assumption
    | extract_lets
    | with_reducible apply State.command_inv
    | with_reducible apply OutKeeps.next)

theorem execChangePageEntry_inv (s : State) (hs : s.Inv) : OutKeeps (execChangePageEntry s) := by
  unfold execChangePageEntry
  repeat' (first
    | with_reducible assumption
    | extract_lets
    | with_reducible apply State.command_inv
    | with_reducible apply OutKeeps.next)

theorem execPlacementPolicy_inv (s : State) (hs : s.Inv) : OutKeeps (execPlacementPolicy s) := by
  unfold execPlacementPolicy
  repeat' (first
    | with_reducible assumption
    | extract_lets
    | with_reducible apply State.command_inv
    | with_reducible apply OutKeeps.next)

theorem execRegisterCodeKey_inv (s : State) (hs : s.Inv) : OutKeeps (execRegisterCodeKey s) := by
  unfold execRegisterCodeKey
  repeat' (first
    | with_reducible assumption
    | extract_lets
    | with_reducible apply State.command_inv
    | with_reducible apply OutKeeps.next)

theorem execCancelTask_inv (s : State) (hs : s.Inv) : OutKeeps (execCancelTask s) := by
  unfold execCancelTask
  repeat' (first
    | with_reducible assumption
    | extract_lets
    | with_reducible apply State.command_inv
    | with_reducible apply OutKeeps.next)

theorem execReturnWithdrawn_inv (s : State) (hs : s.Inv) : OutKeeps (execReturnWithdrawn s) := by
  unfold execReturnWithdrawn
  repeat' (first
    | with_reducible assumption
    | extract_lets
    | with_reducible apply State.command_inv
    | with_reducible apply OutKeeps.next)

theorem execSetDerate_inv (s : State) (hs : s.Inv) : OutKeeps (execSetDerate s) := by
  unfold execSetDerate
  repeat' (first
    | with_reducible assumption
    | extract_lets
    | with_reducible apply State.command_inv
    | with_reducible apply OutKeeps.next)

theorem execReadCounters_inv (s : State) (hs : s.Inv) : OutKeeps (execReadCounters s) := by
  unfold execReadCounters
  repeat' (first
    | with_reducible assumption
    | extract_lets
    | with_reducible apply State.command_inv
    | with_reducible apply OutKeeps.next)

theorem execReadEnergyAccount_inv (s : State) (hs : s.Inv) : OutKeeps (execReadEnergyAccount s) := by
  unfold execReadEnergyAccount
  repeat' (first
    | with_reducible assumption
    | extract_lets
    | with_reducible apply State.command_inv
    | with_reducible apply OutKeeps.next)

theorem execAttestationReport_inv (s : State) (hs : s.Inv) : OutKeeps (execAttestationReport s) := by
  unfold execAttestationReport
  repeat' (first
    | with_reducible assumption
    | extract_lets
    | with_reducible apply State.command_inv
    | with_reducible apply OutKeeps.next)

theorem execReadQueueHead_inv (s : State) (hs : s.Inv) : OutKeeps (execReadQueueHead s) := by
  unfold execReadQueueHead
  repeat' (first
    | with_reducible assumption
    | extract_lets
    | with_reducible apply State.command_inv
    | with_reducible apply OutKeeps.next)

theorem execResetCommand_inv (s : State) (hs : s.Inv) : OutKeeps (execResetCommand s) := by
  unfold execResetCommand
  repeat' (first
    | with_reducible assumption
    | extract_lets
    | with_reducible apply State.command_inv
    | with_reducible apply OutKeeps.next)

theorem execWriteFirmware_inv (s : State) (hs : s.Inv) : OutKeeps (execWriteFirmware s) := by
  unfold execWriteFirmware
  repeat' (first
    | with_reducible assumption
    | extract_lets
    | with_reducible apply State.command_inv
    | with_reducible apply OutKeeps.next)

end Sys2Proof.Machine
end

