-- ==== Sys2Proof/Laws/State.lean ====
section
/-! SUPPORT. What the updates of the state leave of its fields, and that what writes memory keeps its canonical form. -/

namespace Sys2Proof.Machine

/-! ## `setCtx` -/

@[simp] theorem State.setCtx_events (s : State) (a : Nat) (c : Ctx) : (s.setCtx a c).events = s.events := rfl
@[simp] theorem State.setCtx_cur (s : State) (a : Nat) (c : Ctx) : (s.setCtx a c).cur = s.cur := rfl
@[simp] theorem State.setCtx_choices (s : State) (a : Nat) (c : Ctx) : (s.setCtx a c).choices = s.choices := rfl
@[simp] theorem State.setCtx_nextId (s : State) (a : Nat) (c : Ctx) : (s.setCtx a c).nextId = s.nextId := rfl
@[simp] theorem State.setCtx_cores (s : State) (a : Nat) (c : Ctx) : (s.setCtx a c).cores = s.cores := rfl
@[simp] theorem State.setCtx_regmem (s : State) (a : Nat) (c : Ctx) : (s.setCtx a c).regmem = s.regmem := rfl
@[simp] theorem State.setCtx_banks (s : State) (a : Nat) (c : Ctx) : (s.setCtx a c).banks = s.banks := rfl
@[simp] theorem State.setCtx_l1 (s : State) (a : Nat) (c : Ctx) : (s.setCtx a c).l1 = s.l1 := rfl
@[simp] theorem State.setCtx_shares (s : State) (a : Nat) (c : Ctx) : (s.setCtx a c).shares = s.shares := rfl
@[simp] theorem State.setCtx_mem (s : State) (a : Nat) (c : Ctx) : (s.setCtx a c).mem = s.mem := rfl
@[simp] theorem State.setCtx_l2 (s : State) (a : Nat) (c : Ctx) : (s.setCtx a c).l2 = s.l2 := rfl
@[simp] theorem State.setCtx_poison (s : State) (a : Nat) (c : Ctx) : (s.setCtx a c).poison = s.poison := rfl
@[simp] theorem State.setCtx_accs (s : State) (a : Nat) (c : Ctx) : (s.setCtx a c).accs = s.accs := rfl
@[simp] theorem State.setCtx_arrivals (s : State) (a : Nat) (c : Ctx) : (s.setCtx a c).arrivals = s.arrivals := rfl
@[simp] theorem State.setCtx_cycle (s : State) (a : Nat) (c : Ctx) : (s.setCtx a c).cycle = s.cycle := rfl
@[simp] theorem State.setCtx_epoch (s : State) (a : Nat) (c : Ctx) : (s.setCtx a c).epoch = s.epoch := rfl
@[simp] theorem State.setCtx_closed (s : State) (a : Nat) (c : Ctx) : (s.setCtx a c).closed = s.closed := rfl
@[simp] theorem State.setCtx_wheel (s : State) (a : Nat) (c : Ctx) : (s.setCtx a c).wheel = s.wheel := rfl
@[simp] theorem State.setCtx_forms (s : State) (a : Nat) (c : Ctx) : (s.setCtx a c).forms = s.forms := rfl
@[simp] theorem State.setCtx_recs (s : State) (a : Nat) (c : Ctx) : (s.setCtx a c).recs = s.recs := rfl
@[simp] theorem State.setCtx_tasks (s : State) (a : Nat) (c : Ctx) : (s.setCtx a c).tasks = s.tasks := rfl
@[simp] theorem State.setCtx_insts (s : State) (a : Nat) (c : Ctx) : (s.setCtx a c).insts = s.insts := rfl
@[simp] theorem State.setCtx_queues (s : State) (a : Nat) (c : Ctx) : (s.setCtx a c).queues = s.queues := rfl
@[simp] theorem State.setCtx_doms (s : State) (a : Nat) (c : Ctx) : (s.setCtx a c).doms = s.doms := rfl
@[simp] theorem State.setCtx_rotor (s : State) (a : Nat) (c : Ctx) : (s.setCtx a c).rotor = s.rotor := rfl
@[simp] theorem State.setCtx_resid (s : State) (a : Nat) (c : Ctx) : (s.setCtx a c).resid = s.resid := rfl
@[simp] theorem State.setCtx_swFirst (s : State) (a : Nat) (c : Ctx) : (s.setCtx a c).swFirst = s.swFirst := rfl
@[simp] theorem State.setCtx_rev (s : State) (a : Nat) (c : Ctx) : (s.setCtx a c).rev = s.rev := rfl
@[simp] theorem State.setCtx_lastSeq (s : State) (a : Nat) (c : Ctx) : (s.setCtx a c).lastSeq = s.lastSeq := rfl
@[simp] theorem State.setCtx_drops (s : State) (a : Nat) (c : Ctx) : (s.setCtx a c).drops = s.drops := rfl
@[simp] theorem State.setCtx_latches (s : State) (a : Nat) (c : Ctx) : (s.setCtx a c).latches = s.latches := rfl
@[simp] theorem State.setCtx_grads (s : State) (a : Nat) (c : Ctx) : (s.setCtx a c).grads = s.grads := rfl
@[simp] theorem State.setCtx_lines (s : State) (a : Nat) (c : Ctx) : (s.setCtx a c).lines = s.lines := rfl
@[simp] theorem State.setCtx_colls (s : State) (a : Nat) (c : Ctx) : (s.setCtx a c).colls = s.colls := rfl
@[simp] theorem State.setCtx_notices (s : State) (a : Nat) (c : Ctx) : (s.setCtx a c).notices = s.notices := rfl
@[simp] theorem State.setCtx_visit (s : State) (a : Nat) (c : Ctx) : (s.setCtx a c).visit = s.visit := rfl
@[simp] theorem State.setCtx_credits (s : State) (a : Nat) (c : Ctx) : (s.setCtx a c).credits = s.credits := rfl
@[simp] theorem State.setCtx_launchQ (s : State) (a : Nat) (c : Ctx) : (s.setCtx a c).launchQ = s.launchQ := rfl
@[simp] theorem State.setCtx_objs (s : State) (a : Nat) (c : Ctx) : (s.setCtx a c).objs = s.objs := rfl
@[simp] theorem State.setCtx_backing (s : State) (a : Nat) (c : Ctx) : (s.setCtx a c).backing = s.backing := rfl
@[simp] theorem State.setCtx_codegen (s : State) (a : Nat) (c : Ctx) : (s.setCtx a c).codegen = s.codegen := rfl
@[simp] theorem State.setCtx_poolPtr (s : State) (a : Nat) (c : Ctx) : (s.setCtx a c).poolPtr = s.poolPtr := rfl
@[simp] theorem State.setCtx_poolFree (s : State) (a : Nat) (c : Ctx) : (s.setCtx a c).poolFree = s.poolFree := rfl
@[simp] theorem State.setCtx_withdrawn (s : State) (a : Nat) (c : Ctx) : (s.setCtx a c).withdrawn = s.withdrawn := rfl
@[simp] theorem State.setCtx_derate (s : State) (a : Nat) (c : Ctx) : (s.setCtx a c).derate = s.derate := rfl
@[simp] theorem State.setCtx_narrow (s : State) (a : Nat) (c : Ctx) : (s.setCtx a c).narrow = s.narrow := rfl
@[simp] theorem State.setCtx_thresh (s : State) (a : Nat) (c : Ctx) : (s.setCtx a c).thresh = s.thresh := rfl
@[simp] theorem State.setCtx_dramCnt (s : State) (a : Nat) (c : Ctx) : (s.setCtx a c).dramCnt = s.dramCnt := rfl
@[simp] theorem State.setCtx_sramCnt (s : State) (a : Nat) (c : Ctx) : (s.setCtx a c).sramCnt = s.sramCnt := rfl
@[simp] theorem State.setCtx_retries (s : State) (a : Nat) (c : Ctx) : (s.setCtx a c).retries = s.retries := rfl
@[simp] theorem State.setCtx_retrains (s : State) (a : Nat) (c : Ctx) : (s.setCtx a c).retrains = s.retrains := rfl
@[simp] theorem State.setCtx_eye (s : State) (a : Nat) (c : Ctx) : (s.setCtx a c).eye = s.eye := rfl
@[simp] theorem State.setCtx_hours (s : State) (a : Nat) (c : Ctx) : (s.setCtx a c).hours = s.hours := rfl
@[simp] theorem State.setCtx_conf (s : State) (a : Nat) (c : Ctx) : (s.setCtx a c).conf = s.conf := rfl
@[simp] theorem State.setCtx_limit (s : State) (a : Nat) (c : Ctx) : (s.setCtx a c).limit = s.limit := rfl
@[simp] theorem State.setCtx_driftOf (s : State) (a : Nat) (c : Ctx) : (s.setCtx a c).driftOf = s.driftOf := rfl
@[simp] theorem State.setCtx_samples (s : State) (a : Nat) (c : Ctx) : (s.setCtx a c).samples = s.samples := rfl
@[simp] theorem State.setCtx_shareNum (s : State) (a : Nat) (c : Ctx) : (s.setCtx a c).shareNum = s.shareNum := rfl
@[simp] theorem State.setCtx_errNum (s : State) (a : Nat) (c : Ctx) : (s.setCtx a c).errNum = s.errNum := rfl
@[simp] theorem State.setCtx_sampleNum (s : State) (a : Nat) (c : Ctx) : (s.setCtx a c).sampleNum = s.sampleNum := rfl
@[simp] theorem State.setCtx_errs (s : State) (a : Nat) (c : Ctx) : (s.setCtx a c).errs = s.errs := rfl
@[simp] theorem State.setCtx_chunks (s : State) (a : Nat) (c : Ctx) : (s.setCtx a c).chunks = s.chunks := rfl
@[simp] theorem State.setCtx_worked (s : State) (a : Nat) (c : Ctx) : (s.setCtx a c).worked = s.worked := rfl
@[simp] theorem State.setCtx_tests (s : State) (a : Nat) (c : Ctx) : (s.setCtx a c).tests = s.tests := rfl
@[simp] theorem State.setCtx_ready (s : State) (a : Nat) (c : Ctx) : (s.setCtx a c).ready = s.ready := rfl
@[simp] theorem State.setCtx_recovery (s : State) (a : Nat) (c : Ctx) : (s.setCtx a c).recovery = s.recovery := rfl
@[simp] theorem State.setCtx_marg (s : State) (a : Nat) (c : Ctx) : (s.setCtx a c).marg = s.marg := rfl
@[simp] theorem State.setCtx_mresult (s : State) (a : Nat) (c : Ctx) : (s.setCtx a c).mresult = s.mresult := rfl
@[simp] theorem State.setCtx_mcmd (s : State) (a : Nat) (c : Ctx) : (s.setCtx a c).mcmd = s.mcmd := rfl
@[simp] theorem State.setCtx_hostUp (s : State) (a : Nat) (c : Ctx) : (s.setCtx a c).hostUp = s.hostUp := rfl
@[simp] theorem State.setCtx_hostDown (s : State) (a : Nat) (c : Ctx) : (s.setCtx a c).hostDown = s.hostDown := rfl
@[simp] theorem State.setCtx_hostSince (s : State) (a : Nat) (c : Ctx) : (s.setCtx a c).hostSince = s.hostSince := rfl
@[simp] theorem State.setCtx_portsDown (s : State) (a : Nat) (c : Ctx) : (s.setCtx a c).portsDown = s.portsDown := rfl
@[simp] theorem State.setCtx_flash (s : State) (a : Nat) (c : Ctx) : (s.setCtx a c).flash = s.flash := rfl
@[simp] theorem State.setCtx_wear (s : State) (a : Nat) (c : Ctx) : (s.setCtx a c).wear = s.wear := rfl
@[simp] theorem State.setCtx_image (s : State) (a : Nat) (c : Ctx) : (s.setCtx a c).image = s.image := rfl
@[simp] theorem State.setCtx_debugger (s : State) (a : Nat) (c : Ctx) : (s.setCtx a c).debugger = s.debugger := rfl

/-! ## `onTask` -/

@[simp] theorem State.onTask_events (s : State) (i : Nat) (f : Task → Task) : (s.onTask i f).events = s.events := rfl
@[simp] theorem State.onTask_cur (s : State) (i : Nat) (f : Task → Task) : (s.onTask i f).cur = s.cur := rfl
@[simp] theorem State.onTask_choices (s : State) (i : Nat) (f : Task → Task) : (s.onTask i f).choices = s.choices := rfl
@[simp] theorem State.onTask_nextId (s : State) (i : Nat) (f : Task → Task) : (s.onTask i f).nextId = s.nextId := rfl
@[simp] theorem State.onTask_ctxs (s : State) (i : Nat) (f : Task → Task) : (s.onTask i f).ctxs = s.ctxs := rfl
@[simp] theorem State.onTask_cores (s : State) (i : Nat) (f : Task → Task) : (s.onTask i f).cores = s.cores := rfl
@[simp] theorem State.onTask_regmem (s : State) (i : Nat) (f : Task → Task) : (s.onTask i f).regmem = s.regmem := rfl
@[simp] theorem State.onTask_banks (s : State) (i : Nat) (f : Task → Task) : (s.onTask i f).banks = s.banks := rfl
@[simp] theorem State.onTask_l1 (s : State) (i : Nat) (f : Task → Task) : (s.onTask i f).l1 = s.l1 := rfl
@[simp] theorem State.onTask_shares (s : State) (i : Nat) (f : Task → Task) : (s.onTask i f).shares = s.shares := rfl
@[simp] theorem State.onTask_mem (s : State) (i : Nat) (f : Task → Task) : (s.onTask i f).mem = s.mem := rfl
@[simp] theorem State.onTask_l2 (s : State) (i : Nat) (f : Task → Task) : (s.onTask i f).l2 = s.l2 := rfl
@[simp] theorem State.onTask_poison (s : State) (i : Nat) (f : Task → Task) : (s.onTask i f).poison = s.poison := rfl
@[simp] theorem State.onTask_accs (s : State) (i : Nat) (f : Task → Task) : (s.onTask i f).accs = s.accs := rfl
@[simp] theorem State.onTask_arrivals (s : State) (i : Nat) (f : Task → Task) : (s.onTask i f).arrivals = s.arrivals := rfl
@[simp] theorem State.onTask_cycle (s : State) (i : Nat) (f : Task → Task) : (s.onTask i f).cycle = s.cycle := rfl
@[simp] theorem State.onTask_epoch (s : State) (i : Nat) (f : Task → Task) : (s.onTask i f).epoch = s.epoch := rfl
@[simp] theorem State.onTask_closed (s : State) (i : Nat) (f : Task → Task) : (s.onTask i f).closed = s.closed := rfl
@[simp] theorem State.onTask_wheel (s : State) (i : Nat) (f : Task → Task) : (s.onTask i f).wheel = s.wheel := rfl
@[simp] theorem State.onTask_forms (s : State) (i : Nat) (f : Task → Task) : (s.onTask i f).forms = s.forms := rfl
@[simp] theorem State.onTask_recs (s : State) (i : Nat) (f : Task → Task) : (s.onTask i f).recs = s.recs := rfl
@[simp] theorem State.onTask_insts (s : State) (i : Nat) (f : Task → Task) : (s.onTask i f).insts = s.insts := rfl
@[simp] theorem State.onTask_queues (s : State) (i : Nat) (f : Task → Task) : (s.onTask i f).queues = s.queues := rfl
@[simp] theorem State.onTask_doms (s : State) (i : Nat) (f : Task → Task) : (s.onTask i f).doms = s.doms := rfl
@[simp] theorem State.onTask_rotor (s : State) (i : Nat) (f : Task → Task) : (s.onTask i f).rotor = s.rotor := rfl
@[simp] theorem State.onTask_resid (s : State) (i : Nat) (f : Task → Task) : (s.onTask i f).resid = s.resid := rfl
@[simp] theorem State.onTask_swFirst (s : State) (i : Nat) (f : Task → Task) : (s.onTask i f).swFirst = s.swFirst := rfl
@[simp] theorem State.onTask_rev (s : State) (i : Nat) (f : Task → Task) : (s.onTask i f).rev = s.rev := rfl
@[simp] theorem State.onTask_lastSeq (s : State) (i : Nat) (f : Task → Task) : (s.onTask i f).lastSeq = s.lastSeq := rfl
@[simp] theorem State.onTask_drops (s : State) (i : Nat) (f : Task → Task) : (s.onTask i f).drops = s.drops := rfl
@[simp] theorem State.onTask_latches (s : State) (i : Nat) (f : Task → Task) : (s.onTask i f).latches = s.latches := rfl
@[simp] theorem State.onTask_grads (s : State) (i : Nat) (f : Task → Task) : (s.onTask i f).grads = s.grads := rfl
@[simp] theorem State.onTask_lines (s : State) (i : Nat) (f : Task → Task) : (s.onTask i f).lines = s.lines := rfl
@[simp] theorem State.onTask_colls (s : State) (i : Nat) (f : Task → Task) : (s.onTask i f).colls = s.colls := rfl
@[simp] theorem State.onTask_notices (s : State) (i : Nat) (f : Task → Task) : (s.onTask i f).notices = s.notices := rfl
@[simp] theorem State.onTask_visit (s : State) (i : Nat) (f : Task → Task) : (s.onTask i f).visit = s.visit := rfl
@[simp] theorem State.onTask_credits (s : State) (i : Nat) (f : Task → Task) : (s.onTask i f).credits = s.credits := rfl
@[simp] theorem State.onTask_launchQ (s : State) (i : Nat) (f : Task → Task) : (s.onTask i f).launchQ = s.launchQ := rfl
@[simp] theorem State.onTask_objs (s : State) (i : Nat) (f : Task → Task) : (s.onTask i f).objs = s.objs := rfl
@[simp] theorem State.onTask_backing (s : State) (i : Nat) (f : Task → Task) : (s.onTask i f).backing = s.backing := rfl
@[simp] theorem State.onTask_codegen (s : State) (i : Nat) (f : Task → Task) : (s.onTask i f).codegen = s.codegen := rfl
@[simp] theorem State.onTask_poolPtr (s : State) (i : Nat) (f : Task → Task) : (s.onTask i f).poolPtr = s.poolPtr := rfl
@[simp] theorem State.onTask_poolFree (s : State) (i : Nat) (f : Task → Task) : (s.onTask i f).poolFree = s.poolFree := rfl
@[simp] theorem State.onTask_withdrawn (s : State) (i : Nat) (f : Task → Task) : (s.onTask i f).withdrawn = s.withdrawn := rfl
@[simp] theorem State.onTask_derate (s : State) (i : Nat) (f : Task → Task) : (s.onTask i f).derate = s.derate := rfl
@[simp] theorem State.onTask_narrow (s : State) (i : Nat) (f : Task → Task) : (s.onTask i f).narrow = s.narrow := rfl
@[simp] theorem State.onTask_thresh (s : State) (i : Nat) (f : Task → Task) : (s.onTask i f).thresh = s.thresh := rfl
@[simp] theorem State.onTask_dramCnt (s : State) (i : Nat) (f : Task → Task) : (s.onTask i f).dramCnt = s.dramCnt := rfl
@[simp] theorem State.onTask_sramCnt (s : State) (i : Nat) (f : Task → Task) : (s.onTask i f).sramCnt = s.sramCnt := rfl
@[simp] theorem State.onTask_retries (s : State) (i : Nat) (f : Task → Task) : (s.onTask i f).retries = s.retries := rfl
@[simp] theorem State.onTask_retrains (s : State) (i : Nat) (f : Task → Task) : (s.onTask i f).retrains = s.retrains := rfl
@[simp] theorem State.onTask_eye (s : State) (i : Nat) (f : Task → Task) : (s.onTask i f).eye = s.eye := rfl
@[simp] theorem State.onTask_hours (s : State) (i : Nat) (f : Task → Task) : (s.onTask i f).hours = s.hours := rfl
@[simp] theorem State.onTask_conf (s : State) (i : Nat) (f : Task → Task) : (s.onTask i f).conf = s.conf := rfl
@[simp] theorem State.onTask_limit (s : State) (i : Nat) (f : Task → Task) : (s.onTask i f).limit = s.limit := rfl
@[simp] theorem State.onTask_driftOf (s : State) (i : Nat) (f : Task → Task) : (s.onTask i f).driftOf = s.driftOf := rfl
@[simp] theorem State.onTask_samples (s : State) (i : Nat) (f : Task → Task) : (s.onTask i f).samples = s.samples := rfl
@[simp] theorem State.onTask_shareNum (s : State) (i : Nat) (f : Task → Task) : (s.onTask i f).shareNum = s.shareNum := rfl
@[simp] theorem State.onTask_errNum (s : State) (i : Nat) (f : Task → Task) : (s.onTask i f).errNum = s.errNum := rfl
@[simp] theorem State.onTask_sampleNum (s : State) (i : Nat) (f : Task → Task) : (s.onTask i f).sampleNum = s.sampleNum := rfl
@[simp] theorem State.onTask_errs (s : State) (i : Nat) (f : Task → Task) : (s.onTask i f).errs = s.errs := rfl
@[simp] theorem State.onTask_chunks (s : State) (i : Nat) (f : Task → Task) : (s.onTask i f).chunks = s.chunks := rfl
@[simp] theorem State.onTask_worked (s : State) (i : Nat) (f : Task → Task) : (s.onTask i f).worked = s.worked := rfl
@[simp] theorem State.onTask_tests (s : State) (i : Nat) (f : Task → Task) : (s.onTask i f).tests = s.tests := rfl
@[simp] theorem State.onTask_ready (s : State) (i : Nat) (f : Task → Task) : (s.onTask i f).ready = s.ready := rfl
@[simp] theorem State.onTask_recovery (s : State) (i : Nat) (f : Task → Task) : (s.onTask i f).recovery = s.recovery := rfl
@[simp] theorem State.onTask_marg (s : State) (i : Nat) (f : Task → Task) : (s.onTask i f).marg = s.marg := rfl
@[simp] theorem State.onTask_mresult (s : State) (i : Nat) (f : Task → Task) : (s.onTask i f).mresult = s.mresult := rfl
@[simp] theorem State.onTask_mcmd (s : State) (i : Nat) (f : Task → Task) : (s.onTask i f).mcmd = s.mcmd := rfl
@[simp] theorem State.onTask_hostUp (s : State) (i : Nat) (f : Task → Task) : (s.onTask i f).hostUp = s.hostUp := rfl
@[simp] theorem State.onTask_hostDown (s : State) (i : Nat) (f : Task → Task) : (s.onTask i f).hostDown = s.hostDown := rfl
@[simp] theorem State.onTask_hostSince (s : State) (i : Nat) (f : Task → Task) : (s.onTask i f).hostSince = s.hostSince := rfl
@[simp] theorem State.onTask_portsDown (s : State) (i : Nat) (f : Task → Task) : (s.onTask i f).portsDown = s.portsDown := rfl
@[simp] theorem State.onTask_flash (s : State) (i : Nat) (f : Task → Task) : (s.onTask i f).flash = s.flash := rfl
@[simp] theorem State.onTask_wear (s : State) (i : Nat) (f : Task → Task) : (s.onTask i f).wear = s.wear := rfl
@[simp] theorem State.onTask_image (s : State) (i : Nat) (f : Task → Task) : (s.onTask i f).image = s.image := rfl
@[simp] theorem State.onTask_debugger (s : State) (i : Nat) (f : Task → Task) : (s.onTask i f).debugger = s.debugger := rfl

/-! ## `onInst` -/

@[simp] theorem State.onInst_events (s : State) (t n : Nat) (f : GInst → GInst) : (s.onInst t n f).events = s.events := rfl
@[simp] theorem State.onInst_cur (s : State) (t n : Nat) (f : GInst → GInst) : (s.onInst t n f).cur = s.cur := rfl
@[simp] theorem State.onInst_choices (s : State) (t n : Nat) (f : GInst → GInst) : (s.onInst t n f).choices = s.choices := rfl
@[simp] theorem State.onInst_nextId (s : State) (t n : Nat) (f : GInst → GInst) : (s.onInst t n f).nextId = s.nextId := rfl
@[simp] theorem State.onInst_ctxs (s : State) (t n : Nat) (f : GInst → GInst) : (s.onInst t n f).ctxs = s.ctxs := rfl
@[simp] theorem State.onInst_cores (s : State) (t n : Nat) (f : GInst → GInst) : (s.onInst t n f).cores = s.cores := rfl
@[simp] theorem State.onInst_regmem (s : State) (t n : Nat) (f : GInst → GInst) : (s.onInst t n f).regmem = s.regmem := rfl
@[simp] theorem State.onInst_banks (s : State) (t n : Nat) (f : GInst → GInst) : (s.onInst t n f).banks = s.banks := rfl
@[simp] theorem State.onInst_l1 (s : State) (t n : Nat) (f : GInst → GInst) : (s.onInst t n f).l1 = s.l1 := rfl
@[simp] theorem State.onInst_shares (s : State) (t n : Nat) (f : GInst → GInst) : (s.onInst t n f).shares = s.shares := rfl
@[simp] theorem State.onInst_mem (s : State) (t n : Nat) (f : GInst → GInst) : (s.onInst t n f).mem = s.mem := rfl
@[simp] theorem State.onInst_l2 (s : State) (t n : Nat) (f : GInst → GInst) : (s.onInst t n f).l2 = s.l2 := rfl
@[simp] theorem State.onInst_poison (s : State) (t n : Nat) (f : GInst → GInst) : (s.onInst t n f).poison = s.poison := rfl
@[simp] theorem State.onInst_accs (s : State) (t n : Nat) (f : GInst → GInst) : (s.onInst t n f).accs = s.accs := rfl
@[simp] theorem State.onInst_arrivals (s : State) (t n : Nat) (f : GInst → GInst) : (s.onInst t n f).arrivals = s.arrivals := rfl
@[simp] theorem State.onInst_cycle (s : State) (t n : Nat) (f : GInst → GInst) : (s.onInst t n f).cycle = s.cycle := rfl
@[simp] theorem State.onInst_epoch (s : State) (t n : Nat) (f : GInst → GInst) : (s.onInst t n f).epoch = s.epoch := rfl
@[simp] theorem State.onInst_closed (s : State) (t n : Nat) (f : GInst → GInst) : (s.onInst t n f).closed = s.closed := rfl
@[simp] theorem State.onInst_wheel (s : State) (t n : Nat) (f : GInst → GInst) : (s.onInst t n f).wheel = s.wheel := rfl
@[simp] theorem State.onInst_forms (s : State) (t n : Nat) (f : GInst → GInst) : (s.onInst t n f).forms = s.forms := rfl
@[simp] theorem State.onInst_recs (s : State) (t n : Nat) (f : GInst → GInst) : (s.onInst t n f).recs = s.recs := rfl
@[simp] theorem State.onInst_tasks (s : State) (t n : Nat) (f : GInst → GInst) : (s.onInst t n f).tasks = s.tasks := rfl
@[simp] theorem State.onInst_queues (s : State) (t n : Nat) (f : GInst → GInst) : (s.onInst t n f).queues = s.queues := rfl
@[simp] theorem State.onInst_doms (s : State) (t n : Nat) (f : GInst → GInst) : (s.onInst t n f).doms = s.doms := rfl
@[simp] theorem State.onInst_rotor (s : State) (t n : Nat) (f : GInst → GInst) : (s.onInst t n f).rotor = s.rotor := rfl
@[simp] theorem State.onInst_resid (s : State) (t n : Nat) (f : GInst → GInst) : (s.onInst t n f).resid = s.resid := rfl
@[simp] theorem State.onInst_swFirst (s : State) (t n : Nat) (f : GInst → GInst) : (s.onInst t n f).swFirst = s.swFirst := rfl
@[simp] theorem State.onInst_rev (s : State) (t n : Nat) (f : GInst → GInst) : (s.onInst t n f).rev = s.rev := rfl
@[simp] theorem State.onInst_lastSeq (s : State) (t n : Nat) (f : GInst → GInst) : (s.onInst t n f).lastSeq = s.lastSeq := rfl
@[simp] theorem State.onInst_drops (s : State) (t n : Nat) (f : GInst → GInst) : (s.onInst t n f).drops = s.drops := rfl
@[simp] theorem State.onInst_latches (s : State) (t n : Nat) (f : GInst → GInst) : (s.onInst t n f).latches = s.latches := rfl
@[simp] theorem State.onInst_grads (s : State) (t n : Nat) (f : GInst → GInst) : (s.onInst t n f).grads = s.grads := rfl
@[simp] theorem State.onInst_lines (s : State) (t n : Nat) (f : GInst → GInst) : (s.onInst t n f).lines = s.lines := rfl
@[simp] theorem State.onInst_colls (s : State) (t n : Nat) (f : GInst → GInst) : (s.onInst t n f).colls = s.colls := rfl
@[simp] theorem State.onInst_notices (s : State) (t n : Nat) (f : GInst → GInst) : (s.onInst t n f).notices = s.notices := rfl
@[simp] theorem State.onInst_visit (s : State) (t n : Nat) (f : GInst → GInst) : (s.onInst t n f).visit = s.visit := rfl
@[simp] theorem State.onInst_credits (s : State) (t n : Nat) (f : GInst → GInst) : (s.onInst t n f).credits = s.credits := rfl
@[simp] theorem State.onInst_launchQ (s : State) (t n : Nat) (f : GInst → GInst) : (s.onInst t n f).launchQ = s.launchQ := rfl
@[simp] theorem State.onInst_objs (s : State) (t n : Nat) (f : GInst → GInst) : (s.onInst t n f).objs = s.objs := rfl
@[simp] theorem State.onInst_backing (s : State) (t n : Nat) (f : GInst → GInst) : (s.onInst t n f).backing = s.backing := rfl
@[simp] theorem State.onInst_codegen (s : State) (t n : Nat) (f : GInst → GInst) : (s.onInst t n f).codegen = s.codegen := rfl
@[simp] theorem State.onInst_poolPtr (s : State) (t n : Nat) (f : GInst → GInst) : (s.onInst t n f).poolPtr = s.poolPtr := rfl
@[simp] theorem State.onInst_poolFree (s : State) (t n : Nat) (f : GInst → GInst) : (s.onInst t n f).poolFree = s.poolFree := rfl
@[simp] theorem State.onInst_withdrawn (s : State) (t n : Nat) (f : GInst → GInst) : (s.onInst t n f).withdrawn = s.withdrawn := rfl
@[simp] theorem State.onInst_derate (s : State) (t n : Nat) (f : GInst → GInst) : (s.onInst t n f).derate = s.derate := rfl
@[simp] theorem State.onInst_narrow (s : State) (t n : Nat) (f : GInst → GInst) : (s.onInst t n f).narrow = s.narrow := rfl
@[simp] theorem State.onInst_thresh (s : State) (t n : Nat) (f : GInst → GInst) : (s.onInst t n f).thresh = s.thresh := rfl
@[simp] theorem State.onInst_dramCnt (s : State) (t n : Nat) (f : GInst → GInst) : (s.onInst t n f).dramCnt = s.dramCnt := rfl
@[simp] theorem State.onInst_sramCnt (s : State) (t n : Nat) (f : GInst → GInst) : (s.onInst t n f).sramCnt = s.sramCnt := rfl
@[simp] theorem State.onInst_retries (s : State) (t n : Nat) (f : GInst → GInst) : (s.onInst t n f).retries = s.retries := rfl
@[simp] theorem State.onInst_retrains (s : State) (t n : Nat) (f : GInst → GInst) : (s.onInst t n f).retrains = s.retrains := rfl
@[simp] theorem State.onInst_eye (s : State) (t n : Nat) (f : GInst → GInst) : (s.onInst t n f).eye = s.eye := rfl
@[simp] theorem State.onInst_hours (s : State) (t n : Nat) (f : GInst → GInst) : (s.onInst t n f).hours = s.hours := rfl
@[simp] theorem State.onInst_conf (s : State) (t n : Nat) (f : GInst → GInst) : (s.onInst t n f).conf = s.conf := rfl
@[simp] theorem State.onInst_limit (s : State) (t n : Nat) (f : GInst → GInst) : (s.onInst t n f).limit = s.limit := rfl
@[simp] theorem State.onInst_driftOf (s : State) (t n : Nat) (f : GInst → GInst) : (s.onInst t n f).driftOf = s.driftOf := rfl
@[simp] theorem State.onInst_samples (s : State) (t n : Nat) (f : GInst → GInst) : (s.onInst t n f).samples = s.samples := rfl
@[simp] theorem State.onInst_shareNum (s : State) (t n : Nat) (f : GInst → GInst) : (s.onInst t n f).shareNum = s.shareNum := rfl
@[simp] theorem State.onInst_errNum (s : State) (t n : Nat) (f : GInst → GInst) : (s.onInst t n f).errNum = s.errNum := rfl
@[simp] theorem State.onInst_sampleNum (s : State) (t n : Nat) (f : GInst → GInst) : (s.onInst t n f).sampleNum = s.sampleNum := rfl
@[simp] theorem State.onInst_errs (s : State) (t n : Nat) (f : GInst → GInst) : (s.onInst t n f).errs = s.errs := rfl
@[simp] theorem State.onInst_chunks (s : State) (t n : Nat) (f : GInst → GInst) : (s.onInst t n f).chunks = s.chunks := rfl
@[simp] theorem State.onInst_worked (s : State) (t n : Nat) (f : GInst → GInst) : (s.onInst t n f).worked = s.worked := rfl
@[simp] theorem State.onInst_tests (s : State) (t n : Nat) (f : GInst → GInst) : (s.onInst t n f).tests = s.tests := rfl
@[simp] theorem State.onInst_ready (s : State) (t n : Nat) (f : GInst → GInst) : (s.onInst t n f).ready = s.ready := rfl
@[simp] theorem State.onInst_recovery (s : State) (t n : Nat) (f : GInst → GInst) : (s.onInst t n f).recovery = s.recovery := rfl
@[simp] theorem State.onInst_marg (s : State) (t n : Nat) (f : GInst → GInst) : (s.onInst t n f).marg = s.marg := rfl
@[simp] theorem State.onInst_mresult (s : State) (t n : Nat) (f : GInst → GInst) : (s.onInst t n f).mresult = s.mresult := rfl
@[simp] theorem State.onInst_mcmd (s : State) (t n : Nat) (f : GInst → GInst) : (s.onInst t n f).mcmd = s.mcmd := rfl
@[simp] theorem State.onInst_hostUp (s : State) (t n : Nat) (f : GInst → GInst) : (s.onInst t n f).hostUp = s.hostUp := rfl
@[simp] theorem State.onInst_hostDown (s : State) (t n : Nat) (f : GInst → GInst) : (s.onInst t n f).hostDown = s.hostDown := rfl
@[simp] theorem State.onInst_hostSince (s : State) (t n : Nat) (f : GInst → GInst) : (s.onInst t n f).hostSince = s.hostSince := rfl
@[simp] theorem State.onInst_portsDown (s : State) (t n : Nat) (f : GInst → GInst) : (s.onInst t n f).portsDown = s.portsDown := rfl
@[simp] theorem State.onInst_flash (s : State) (t n : Nat) (f : GInst → GInst) : (s.onInst t n f).flash = s.flash := rfl
@[simp] theorem State.onInst_wear (s : State) (t n : Nat) (f : GInst → GInst) : (s.onInst t n f).wear = s.wear := rfl
@[simp] theorem State.onInst_image (s : State) (t n : Nat) (f : GInst → GInst) : (s.onInst t n f).image = s.image := rfl
@[simp] theorem State.onInst_debugger (s : State) (t n : Nat) (f : GInst → GInst) : (s.onInst t n f).debugger = s.debugger := rfl

/-! ## `progress` -/

@[simp] theorem State.progress_events (s : State) (d : Nat) : (s.progress d).events = s.events := rfl
@[simp] theorem State.progress_cur (s : State) (d : Nat) : (s.progress d).cur = s.cur := rfl
@[simp] theorem State.progress_choices (s : State) (d : Nat) : (s.progress d).choices = s.choices := rfl
@[simp] theorem State.progress_nextId (s : State) (d : Nat) : (s.progress d).nextId = s.nextId := rfl
@[simp] theorem State.progress_ctxs (s : State) (d : Nat) : (s.progress d).ctxs = s.ctxs := rfl
@[simp] theorem State.progress_cores (s : State) (d : Nat) : (s.progress d).cores = s.cores := rfl
@[simp] theorem State.progress_regmem (s : State) (d : Nat) : (s.progress d).regmem = s.regmem := rfl
@[simp] theorem State.progress_banks (s : State) (d : Nat) : (s.progress d).banks = s.banks := rfl
@[simp] theorem State.progress_l1 (s : State) (d : Nat) : (s.progress d).l1 = s.l1 := rfl
@[simp] theorem State.progress_shares (s : State) (d : Nat) : (s.progress d).shares = s.shares := rfl
@[simp] theorem State.progress_mem (s : State) (d : Nat) : (s.progress d).mem = s.mem := rfl
@[simp] theorem State.progress_l2 (s : State) (d : Nat) : (s.progress d).l2 = s.l2 := rfl
@[simp] theorem State.progress_poison (s : State) (d : Nat) : (s.progress d).poison = s.poison := rfl
@[simp] theorem State.progress_accs (s : State) (d : Nat) : (s.progress d).accs = s.accs := rfl
@[simp] theorem State.progress_arrivals (s : State) (d : Nat) : (s.progress d).arrivals = s.arrivals := rfl
@[simp] theorem State.progress_cycle (s : State) (d : Nat) : (s.progress d).cycle = s.cycle := rfl
@[simp] theorem State.progress_epoch (s : State) (d : Nat) : (s.progress d).epoch = s.epoch := rfl
@[simp] theorem State.progress_closed (s : State) (d : Nat) : (s.progress d).closed = s.closed := rfl
@[simp] theorem State.progress_wheel (s : State) (d : Nat) : (s.progress d).wheel = s.wheel := rfl
@[simp] theorem State.progress_forms (s : State) (d : Nat) : (s.progress d).forms = s.forms := rfl
@[simp] theorem State.progress_recs (s : State) (d : Nat) : (s.progress d).recs = s.recs := rfl
@[simp] theorem State.progress_tasks (s : State) (d : Nat) : (s.progress d).tasks = s.tasks := rfl
@[simp] theorem State.progress_insts (s : State) (d : Nat) : (s.progress d).insts = s.insts := rfl
@[simp] theorem State.progress_queues (s : State) (d : Nat) : (s.progress d).queues = s.queues := rfl
@[simp] theorem State.progress_doms (s : State) (d : Nat) : (s.progress d).doms = s.doms := rfl
@[simp] theorem State.progress_rotor (s : State) (d : Nat) : (s.progress d).rotor = s.rotor := rfl
@[simp] theorem State.progress_resid (s : State) (d : Nat) : (s.progress d).resid = s.resid := rfl
@[simp] theorem State.progress_swFirst (s : State) (d : Nat) : (s.progress d).swFirst = s.swFirst := rfl
@[simp] theorem State.progress_rev (s : State) (d : Nat) : (s.progress d).rev = s.rev := rfl
@[simp] theorem State.progress_lastSeq (s : State) (d : Nat) : (s.progress d).lastSeq = s.lastSeq := rfl
@[simp] theorem State.progress_drops (s : State) (d : Nat) : (s.progress d).drops = s.drops := rfl
@[simp] theorem State.progress_latches (s : State) (d : Nat) : (s.progress d).latches = s.latches := rfl
@[simp] theorem State.progress_grads (s : State) (d : Nat) : (s.progress d).grads = s.grads := rfl
@[simp] theorem State.progress_lines (s : State) (d : Nat) : (s.progress d).lines = s.lines := rfl
@[simp] theorem State.progress_colls (s : State) (d : Nat) : (s.progress d).colls = s.colls := rfl
@[simp] theorem State.progress_notices (s : State) (d : Nat) : (s.progress d).notices = s.notices := rfl
@[simp] theorem State.progress_visit (s : State) (d : Nat) : (s.progress d).visit = s.visit := rfl
@[simp] theorem State.progress_credits (s : State) (d : Nat) : (s.progress d).credits = s.credits := rfl
@[simp] theorem State.progress_launchQ (s : State) (d : Nat) : (s.progress d).launchQ = s.launchQ := rfl
@[simp] theorem State.progress_objs (s : State) (d : Nat) : (s.progress d).objs = s.objs := rfl
@[simp] theorem State.progress_backing (s : State) (d : Nat) : (s.progress d).backing = s.backing := rfl
@[simp] theorem State.progress_codegen (s : State) (d : Nat) : (s.progress d).codegen = s.codegen := rfl
@[simp] theorem State.progress_poolPtr (s : State) (d : Nat) : (s.progress d).poolPtr = s.poolPtr := rfl
@[simp] theorem State.progress_poolFree (s : State) (d : Nat) : (s.progress d).poolFree = s.poolFree := rfl
@[simp] theorem State.progress_withdrawn (s : State) (d : Nat) : (s.progress d).withdrawn = s.withdrawn := rfl
@[simp] theorem State.progress_derate (s : State) (d : Nat) : (s.progress d).derate = s.derate := rfl
@[simp] theorem State.progress_narrow (s : State) (d : Nat) : (s.progress d).narrow = s.narrow := rfl
@[simp] theorem State.progress_thresh (s : State) (d : Nat) : (s.progress d).thresh = s.thresh := rfl
@[simp] theorem State.progress_dramCnt (s : State) (d : Nat) : (s.progress d).dramCnt = s.dramCnt := rfl
@[simp] theorem State.progress_sramCnt (s : State) (d : Nat) : (s.progress d).sramCnt = s.sramCnt := rfl
@[simp] theorem State.progress_retries (s : State) (d : Nat) : (s.progress d).retries = s.retries := rfl
@[simp] theorem State.progress_retrains (s : State) (d : Nat) : (s.progress d).retrains = s.retrains := rfl
@[simp] theorem State.progress_eye (s : State) (d : Nat) : (s.progress d).eye = s.eye := rfl
@[simp] theorem State.progress_hours (s : State) (d : Nat) : (s.progress d).hours = s.hours := rfl
@[simp] theorem State.progress_conf (s : State) (d : Nat) : (s.progress d).conf = s.conf := rfl
@[simp] theorem State.progress_limit (s : State) (d : Nat) : (s.progress d).limit = s.limit := rfl
@[simp] theorem State.progress_driftOf (s : State) (d : Nat) : (s.progress d).driftOf = s.driftOf := rfl
@[simp] theorem State.progress_samples (s : State) (d : Nat) : (s.progress d).samples = s.samples := rfl
@[simp] theorem State.progress_shareNum (s : State) (d : Nat) : (s.progress d).shareNum = s.shareNum := rfl
@[simp] theorem State.progress_errNum (s : State) (d : Nat) : (s.progress d).errNum = s.errNum := rfl
@[simp] theorem State.progress_sampleNum (s : State) (d : Nat) : (s.progress d).sampleNum = s.sampleNum := rfl
@[simp] theorem State.progress_errs (s : State) (d : Nat) : (s.progress d).errs = s.errs := rfl
@[simp] theorem State.progress_chunks (s : State) (d : Nat) : (s.progress d).chunks = s.chunks := rfl
@[simp] theorem State.progress_tests (s : State) (d : Nat) : (s.progress d).tests = s.tests := rfl
@[simp] theorem State.progress_ready (s : State) (d : Nat) : (s.progress d).ready = s.ready := rfl
@[simp] theorem State.progress_recovery (s : State) (d : Nat) : (s.progress d).recovery = s.recovery := rfl
@[simp] theorem State.progress_marg (s : State) (d : Nat) : (s.progress d).marg = s.marg := rfl
@[simp] theorem State.progress_mresult (s : State) (d : Nat) : (s.progress d).mresult = s.mresult := rfl
@[simp] theorem State.progress_mcmd (s : State) (d : Nat) : (s.progress d).mcmd = s.mcmd := rfl
@[simp] theorem State.progress_hostUp (s : State) (d : Nat) : (s.progress d).hostUp = s.hostUp := rfl
@[simp] theorem State.progress_hostDown (s : State) (d : Nat) : (s.progress d).hostDown = s.hostDown := rfl
@[simp] theorem State.progress_hostSince (s : State) (d : Nat) : (s.progress d).hostSince = s.hostSince := rfl
@[simp] theorem State.progress_portsDown (s : State) (d : Nat) : (s.progress d).portsDown = s.portsDown := rfl
@[simp] theorem State.progress_flash (s : State) (d : Nat) : (s.progress d).flash = s.flash := rfl
@[simp] theorem State.progress_wear (s : State) (d : Nat) : (s.progress d).wear = s.wear := rfl
@[simp] theorem State.progress_image (s : State) (d : Nat) : (s.progress d).image = s.image := rfl
@[simp] theorem State.progress_debugger (s : State) (d : Nat) : (s.progress d).debugger = s.debugger := rfl

/-! ## `onAcc` -/

@[simp] theorem State.onAcc_events (s : State) (i : Nat) (f : Access → Access) : (s.onAcc i f).events = s.events := rfl
@[simp] theorem State.onAcc_cur (s : State) (i : Nat) (f : Access → Access) : (s.onAcc i f).cur = s.cur := rfl
@[simp] theorem State.onAcc_choices (s : State) (i : Nat) (f : Access → Access) : (s.onAcc i f).choices = s.choices := rfl
@[simp] theorem State.onAcc_nextId (s : State) (i : Nat) (f : Access → Access) : (s.onAcc i f).nextId = s.nextId := rfl
@[simp] theorem State.onAcc_ctxs (s : State) (i : Nat) (f : Access → Access) : (s.onAcc i f).ctxs = s.ctxs := rfl
@[simp] theorem State.onAcc_cores (s : State) (i : Nat) (f : Access → Access) : (s.onAcc i f).cores = s.cores := rfl
@[simp] theorem State.onAcc_regmem (s : State) (i : Nat) (f : Access → Access) : (s.onAcc i f).regmem = s.regmem := rfl
@[simp] theorem State.onAcc_banks (s : State) (i : Nat) (f : Access → Access) : (s.onAcc i f).banks = s.banks := rfl
@[simp] theorem State.onAcc_l1 (s : State) (i : Nat) (f : Access → Access) : (s.onAcc i f).l1 = s.l1 := rfl
@[simp] theorem State.onAcc_shares (s : State) (i : Nat) (f : Access → Access) : (s.onAcc i f).shares = s.shares := rfl
@[simp] theorem State.onAcc_mem (s : State) (i : Nat) (f : Access → Access) : (s.onAcc i f).mem = s.mem := rfl
@[simp] theorem State.onAcc_l2 (s : State) (i : Nat) (f : Access → Access) : (s.onAcc i f).l2 = s.l2 := rfl
@[simp] theorem State.onAcc_poison (s : State) (i : Nat) (f : Access → Access) : (s.onAcc i f).poison = s.poison := rfl
@[simp] theorem State.onAcc_arrivals (s : State) (i : Nat) (f : Access → Access) : (s.onAcc i f).arrivals = s.arrivals := rfl
@[simp] theorem State.onAcc_cycle (s : State) (i : Nat) (f : Access → Access) : (s.onAcc i f).cycle = s.cycle := rfl
@[simp] theorem State.onAcc_epoch (s : State) (i : Nat) (f : Access → Access) : (s.onAcc i f).epoch = s.epoch := rfl
@[simp] theorem State.onAcc_closed (s : State) (i : Nat) (f : Access → Access) : (s.onAcc i f).closed = s.closed := rfl
@[simp] theorem State.onAcc_wheel (s : State) (i : Nat) (f : Access → Access) : (s.onAcc i f).wheel = s.wheel := rfl
@[simp] theorem State.onAcc_forms (s : State) (i : Nat) (f : Access → Access) : (s.onAcc i f).forms = s.forms := rfl
@[simp] theorem State.onAcc_recs (s : State) (i : Nat) (f : Access → Access) : (s.onAcc i f).recs = s.recs := rfl
@[simp] theorem State.onAcc_tasks (s : State) (i : Nat) (f : Access → Access) : (s.onAcc i f).tasks = s.tasks := rfl
@[simp] theorem State.onAcc_insts (s : State) (i : Nat) (f : Access → Access) : (s.onAcc i f).insts = s.insts := rfl
@[simp] theorem State.onAcc_queues (s : State) (i : Nat) (f : Access → Access) : (s.onAcc i f).queues = s.queues := rfl
@[simp] theorem State.onAcc_doms (s : State) (i : Nat) (f : Access → Access) : (s.onAcc i f).doms = s.doms := rfl
@[simp] theorem State.onAcc_rotor (s : State) (i : Nat) (f : Access → Access) : (s.onAcc i f).rotor = s.rotor := rfl
@[simp] theorem State.onAcc_resid (s : State) (i : Nat) (f : Access → Access) : (s.onAcc i f).resid = s.resid := rfl
@[simp] theorem State.onAcc_swFirst (s : State) (i : Nat) (f : Access → Access) : (s.onAcc i f).swFirst = s.swFirst := rfl
@[simp] theorem State.onAcc_rev (s : State) (i : Nat) (f : Access → Access) : (s.onAcc i f).rev = s.rev := rfl
@[simp] theorem State.onAcc_lastSeq (s : State) (i : Nat) (f : Access → Access) : (s.onAcc i f).lastSeq = s.lastSeq := rfl
@[simp] theorem State.onAcc_drops (s : State) (i : Nat) (f : Access → Access) : (s.onAcc i f).drops = s.drops := rfl
@[simp] theorem State.onAcc_latches (s : State) (i : Nat) (f : Access → Access) : (s.onAcc i f).latches = s.latches := rfl
@[simp] theorem State.onAcc_grads (s : State) (i : Nat) (f : Access → Access) : (s.onAcc i f).grads = s.grads := rfl
@[simp] theorem State.onAcc_lines (s : State) (i : Nat) (f : Access → Access) : (s.onAcc i f).lines = s.lines := rfl
@[simp] theorem State.onAcc_colls (s : State) (i : Nat) (f : Access → Access) : (s.onAcc i f).colls = s.colls := rfl
@[simp] theorem State.onAcc_notices (s : State) (i : Nat) (f : Access → Access) : (s.onAcc i f).notices = s.notices := rfl
@[simp] theorem State.onAcc_visit (s : State) (i : Nat) (f : Access → Access) : (s.onAcc i f).visit = s.visit := rfl
@[simp] theorem State.onAcc_credits (s : State) (i : Nat) (f : Access → Access) : (s.onAcc i f).credits = s.credits := rfl
@[simp] theorem State.onAcc_launchQ (s : State) (i : Nat) (f : Access → Access) : (s.onAcc i f).launchQ = s.launchQ := rfl
@[simp] theorem State.onAcc_objs (s : State) (i : Nat) (f : Access → Access) : (s.onAcc i f).objs = s.objs := rfl
@[simp] theorem State.onAcc_backing (s : State) (i : Nat) (f : Access → Access) : (s.onAcc i f).backing = s.backing := rfl
@[simp] theorem State.onAcc_codegen (s : State) (i : Nat) (f : Access → Access) : (s.onAcc i f).codegen = s.codegen := rfl
@[simp] theorem State.onAcc_poolPtr (s : State) (i : Nat) (f : Access → Access) : (s.onAcc i f).poolPtr = s.poolPtr := rfl
@[simp] theorem State.onAcc_poolFree (s : State) (i : Nat) (f : Access → Access) : (s.onAcc i f).poolFree = s.poolFree := rfl
@[simp] theorem State.onAcc_withdrawn (s : State) (i : Nat) (f : Access → Access) : (s.onAcc i f).withdrawn = s.withdrawn := rfl
@[simp] theorem State.onAcc_derate (s : State) (i : Nat) (f : Access → Access) : (s.onAcc i f).derate = s.derate := rfl
@[simp] theorem State.onAcc_narrow (s : State) (i : Nat) (f : Access → Access) : (s.onAcc i f).narrow = s.narrow := rfl
@[simp] theorem State.onAcc_thresh (s : State) (i : Nat) (f : Access → Access) : (s.onAcc i f).thresh = s.thresh := rfl
@[simp] theorem State.onAcc_dramCnt (s : State) (i : Nat) (f : Access → Access) : (s.onAcc i f).dramCnt = s.dramCnt := rfl
@[simp] theorem State.onAcc_sramCnt (s : State) (i : Nat) (f : Access → Access) : (s.onAcc i f).sramCnt = s.sramCnt := rfl
@[simp] theorem State.onAcc_retries (s : State) (i : Nat) (f : Access → Access) : (s.onAcc i f).retries = s.retries := rfl
@[simp] theorem State.onAcc_retrains (s : State) (i : Nat) (f : Access → Access) : (s.onAcc i f).retrains = s.retrains := rfl
@[simp] theorem State.onAcc_eye (s : State) (i : Nat) (f : Access → Access) : (s.onAcc i f).eye = s.eye := rfl
@[simp] theorem State.onAcc_hours (s : State) (i : Nat) (f : Access → Access) : (s.onAcc i f).hours = s.hours := rfl
@[simp] theorem State.onAcc_conf (s : State) (i : Nat) (f : Access → Access) : (s.onAcc i f).conf = s.conf := rfl
@[simp] theorem State.onAcc_limit (s : State) (i : Nat) (f : Access → Access) : (s.onAcc i f).limit = s.limit := rfl
@[simp] theorem State.onAcc_driftOf (s : State) (i : Nat) (f : Access → Access) : (s.onAcc i f).driftOf = s.driftOf := rfl
@[simp] theorem State.onAcc_samples (s : State) (i : Nat) (f : Access → Access) : (s.onAcc i f).samples = s.samples := rfl
@[simp] theorem State.onAcc_shareNum (s : State) (i : Nat) (f : Access → Access) : (s.onAcc i f).shareNum = s.shareNum := rfl
@[simp] theorem State.onAcc_errNum (s : State) (i : Nat) (f : Access → Access) : (s.onAcc i f).errNum = s.errNum := rfl
@[simp] theorem State.onAcc_sampleNum (s : State) (i : Nat) (f : Access → Access) : (s.onAcc i f).sampleNum = s.sampleNum := rfl
@[simp] theorem State.onAcc_errs (s : State) (i : Nat) (f : Access → Access) : (s.onAcc i f).errs = s.errs := rfl
@[simp] theorem State.onAcc_chunks (s : State) (i : Nat) (f : Access → Access) : (s.onAcc i f).chunks = s.chunks := rfl
@[simp] theorem State.onAcc_worked (s : State) (i : Nat) (f : Access → Access) : (s.onAcc i f).worked = s.worked := rfl
@[simp] theorem State.onAcc_tests (s : State) (i : Nat) (f : Access → Access) : (s.onAcc i f).tests = s.tests := rfl
@[simp] theorem State.onAcc_ready (s : State) (i : Nat) (f : Access → Access) : (s.onAcc i f).ready = s.ready := rfl
@[simp] theorem State.onAcc_recovery (s : State) (i : Nat) (f : Access → Access) : (s.onAcc i f).recovery = s.recovery := rfl
@[simp] theorem State.onAcc_marg (s : State) (i : Nat) (f : Access → Access) : (s.onAcc i f).marg = s.marg := rfl
@[simp] theorem State.onAcc_mresult (s : State) (i : Nat) (f : Access → Access) : (s.onAcc i f).mresult = s.mresult := rfl
@[simp] theorem State.onAcc_mcmd (s : State) (i : Nat) (f : Access → Access) : (s.onAcc i f).mcmd = s.mcmd := rfl
@[simp] theorem State.onAcc_hostUp (s : State) (i : Nat) (f : Access → Access) : (s.onAcc i f).hostUp = s.hostUp := rfl
@[simp] theorem State.onAcc_hostDown (s : State) (i : Nat) (f : Access → Access) : (s.onAcc i f).hostDown = s.hostDown := rfl
@[simp] theorem State.onAcc_hostSince (s : State) (i : Nat) (f : Access → Access) : (s.onAcc i f).hostSince = s.hostSince := rfl
@[simp] theorem State.onAcc_portsDown (s : State) (i : Nat) (f : Access → Access) : (s.onAcc i f).portsDown = s.portsDown := rfl
@[simp] theorem State.onAcc_flash (s : State) (i : Nat) (f : Access → Access) : (s.onAcc i f).flash = s.flash := rfl
@[simp] theorem State.onAcc_wear (s : State) (i : Nat) (f : Access → Access) : (s.onAcc i f).wear = s.wear := rfl
@[simp] theorem State.onAcc_image (s : State) (i : Nat) (f : Access → Access) : (s.onAcc i f).image = s.image := rfl
@[simp] theorem State.onAcc_debugger (s : State) (i : Nat) (f : Access → Access) : (s.onAcc i f).debugger = s.debugger := rfl

/-! ## `dropAccess` -/

@[simp] theorem State.dropAccess_events (s : State) (i : Nat) : (s.dropAccess i).events = s.events := rfl
@[simp] theorem State.dropAccess_cur (s : State) (i : Nat) : (s.dropAccess i).cur = s.cur := rfl
@[simp] theorem State.dropAccess_choices (s : State) (i : Nat) : (s.dropAccess i).choices = s.choices := rfl
@[simp] theorem State.dropAccess_nextId (s : State) (i : Nat) : (s.dropAccess i).nextId = s.nextId := rfl
@[simp] theorem State.dropAccess_ctxs (s : State) (i : Nat) : (s.dropAccess i).ctxs = s.ctxs := rfl
@[simp] theorem State.dropAccess_cores (s : State) (i : Nat) : (s.dropAccess i).cores = s.cores := rfl
@[simp] theorem State.dropAccess_regmem (s : State) (i : Nat) : (s.dropAccess i).regmem = s.regmem := rfl
@[simp] theorem State.dropAccess_banks (s : State) (i : Nat) : (s.dropAccess i).banks = s.banks := rfl
@[simp] theorem State.dropAccess_l1 (s : State) (i : Nat) : (s.dropAccess i).l1 = s.l1 := rfl
@[simp] theorem State.dropAccess_shares (s : State) (i : Nat) : (s.dropAccess i).shares = s.shares := rfl
@[simp] theorem State.dropAccess_mem (s : State) (i : Nat) : (s.dropAccess i).mem = s.mem := rfl
@[simp] theorem State.dropAccess_l2 (s : State) (i : Nat) : (s.dropAccess i).l2 = s.l2 := rfl
@[simp] theorem State.dropAccess_poison (s : State) (i : Nat) : (s.dropAccess i).poison = s.poison := rfl
@[simp] theorem State.dropAccess_arrivals (s : State) (i : Nat) : (s.dropAccess i).arrivals = s.arrivals := rfl
@[simp] theorem State.dropAccess_cycle (s : State) (i : Nat) : (s.dropAccess i).cycle = s.cycle := rfl
@[simp] theorem State.dropAccess_epoch (s : State) (i : Nat) : (s.dropAccess i).epoch = s.epoch := rfl
@[simp] theorem State.dropAccess_closed (s : State) (i : Nat) : (s.dropAccess i).closed = s.closed := rfl
@[simp] theorem State.dropAccess_wheel (s : State) (i : Nat) : (s.dropAccess i).wheel = s.wheel := rfl
@[simp] theorem State.dropAccess_forms (s : State) (i : Nat) : (s.dropAccess i).forms = s.forms := rfl
@[simp] theorem State.dropAccess_recs (s : State) (i : Nat) : (s.dropAccess i).recs = s.recs := rfl
@[simp] theorem State.dropAccess_tasks (s : State) (i : Nat) : (s.dropAccess i).tasks = s.tasks := rfl
@[simp] theorem State.dropAccess_insts (s : State) (i : Nat) : (s.dropAccess i).insts = s.insts := rfl
@[simp] theorem State.dropAccess_queues (s : State) (i : Nat) : (s.dropAccess i).queues = s.queues := rfl
@[simp] theorem State.dropAccess_doms (s : State) (i : Nat) : (s.dropAccess i).doms = s.doms := rfl
@[simp] theorem State.dropAccess_rotor (s : State) (i : Nat) : (s.dropAccess i).rotor = s.rotor := rfl
@[simp] theorem State.dropAccess_resid (s : State) (i : Nat) : (s.dropAccess i).resid = s.resid := rfl
@[simp] theorem State.dropAccess_swFirst (s : State) (i : Nat) : (s.dropAccess i).swFirst = s.swFirst := rfl
@[simp] theorem State.dropAccess_rev (s : State) (i : Nat) : (s.dropAccess i).rev = s.rev := rfl
@[simp] theorem State.dropAccess_lastSeq (s : State) (i : Nat) : (s.dropAccess i).lastSeq = s.lastSeq := rfl
@[simp] theorem State.dropAccess_drops (s : State) (i : Nat) : (s.dropAccess i).drops = s.drops := rfl
@[simp] theorem State.dropAccess_latches (s : State) (i : Nat) : (s.dropAccess i).latches = s.latches := rfl
@[simp] theorem State.dropAccess_grads (s : State) (i : Nat) : (s.dropAccess i).grads = s.grads := rfl
@[simp] theorem State.dropAccess_lines (s : State) (i : Nat) : (s.dropAccess i).lines = s.lines := rfl
@[simp] theorem State.dropAccess_colls (s : State) (i : Nat) : (s.dropAccess i).colls = s.colls := rfl
@[simp] theorem State.dropAccess_notices (s : State) (i : Nat) : (s.dropAccess i).notices = s.notices := rfl
@[simp] theorem State.dropAccess_visit (s : State) (i : Nat) : (s.dropAccess i).visit = s.visit := rfl
@[simp] theorem State.dropAccess_credits (s : State) (i : Nat) : (s.dropAccess i).credits = s.credits := rfl
@[simp] theorem State.dropAccess_launchQ (s : State) (i : Nat) : (s.dropAccess i).launchQ = s.launchQ := rfl
@[simp] theorem State.dropAccess_objs (s : State) (i : Nat) : (s.dropAccess i).objs = s.objs := rfl
@[simp] theorem State.dropAccess_backing (s : State) (i : Nat) : (s.dropAccess i).backing = s.backing := rfl
@[simp] theorem State.dropAccess_codegen (s : State) (i : Nat) : (s.dropAccess i).codegen = s.codegen := rfl
@[simp] theorem State.dropAccess_poolPtr (s : State) (i : Nat) : (s.dropAccess i).poolPtr = s.poolPtr := rfl
@[simp] theorem State.dropAccess_poolFree (s : State) (i : Nat) : (s.dropAccess i).poolFree = s.poolFree := rfl
@[simp] theorem State.dropAccess_withdrawn (s : State) (i : Nat) : (s.dropAccess i).withdrawn = s.withdrawn := rfl
@[simp] theorem State.dropAccess_derate (s : State) (i : Nat) : (s.dropAccess i).derate = s.derate := rfl
@[simp] theorem State.dropAccess_narrow (s : State) (i : Nat) : (s.dropAccess i).narrow = s.narrow := rfl
@[simp] theorem State.dropAccess_thresh (s : State) (i : Nat) : (s.dropAccess i).thresh = s.thresh := rfl
@[simp] theorem State.dropAccess_dramCnt (s : State) (i : Nat) : (s.dropAccess i).dramCnt = s.dramCnt := rfl
@[simp] theorem State.dropAccess_sramCnt (s : State) (i : Nat) : (s.dropAccess i).sramCnt = s.sramCnt := rfl
@[simp] theorem State.dropAccess_retries (s : State) (i : Nat) : (s.dropAccess i).retries = s.retries := rfl
@[simp] theorem State.dropAccess_retrains (s : State) (i : Nat) : (s.dropAccess i).retrains = s.retrains := rfl
@[simp] theorem State.dropAccess_eye (s : State) (i : Nat) : (s.dropAccess i).eye = s.eye := rfl
@[simp] theorem State.dropAccess_hours (s : State) (i : Nat) : (s.dropAccess i).hours = s.hours := rfl
@[simp] theorem State.dropAccess_conf (s : State) (i : Nat) : (s.dropAccess i).conf = s.conf := rfl
@[simp] theorem State.dropAccess_limit (s : State) (i : Nat) : (s.dropAccess i).limit = s.limit := rfl
@[simp] theorem State.dropAccess_driftOf (s : State) (i : Nat) : (s.dropAccess i).driftOf = s.driftOf := rfl
@[simp] theorem State.dropAccess_samples (s : State) (i : Nat) : (s.dropAccess i).samples = s.samples := rfl
@[simp] theorem State.dropAccess_shareNum (s : State) (i : Nat) : (s.dropAccess i).shareNum = s.shareNum := rfl
@[simp] theorem State.dropAccess_errNum (s : State) (i : Nat) : (s.dropAccess i).errNum = s.errNum := rfl
@[simp] theorem State.dropAccess_sampleNum (s : State) (i : Nat) : (s.dropAccess i).sampleNum = s.sampleNum := rfl
@[simp] theorem State.dropAccess_errs (s : State) (i : Nat) : (s.dropAccess i).errs = s.errs := rfl
@[simp] theorem State.dropAccess_chunks (s : State) (i : Nat) : (s.dropAccess i).chunks = s.chunks := rfl
@[simp] theorem State.dropAccess_worked (s : State) (i : Nat) : (s.dropAccess i).worked = s.worked := rfl
@[simp] theorem State.dropAccess_tests (s : State) (i : Nat) : (s.dropAccess i).tests = s.tests := rfl
@[simp] theorem State.dropAccess_ready (s : State) (i : Nat) : (s.dropAccess i).ready = s.ready := rfl
@[simp] theorem State.dropAccess_recovery (s : State) (i : Nat) : (s.dropAccess i).recovery = s.recovery := rfl
@[simp] theorem State.dropAccess_marg (s : State) (i : Nat) : (s.dropAccess i).marg = s.marg := rfl
@[simp] theorem State.dropAccess_mresult (s : State) (i : Nat) : (s.dropAccess i).mresult = s.mresult := rfl
@[simp] theorem State.dropAccess_mcmd (s : State) (i : Nat) : (s.dropAccess i).mcmd = s.mcmd := rfl
@[simp] theorem State.dropAccess_hostUp (s : State) (i : Nat) : (s.dropAccess i).hostUp = s.hostUp := rfl
@[simp] theorem State.dropAccess_hostDown (s : State) (i : Nat) : (s.dropAccess i).hostDown = s.hostDown := rfl
@[simp] theorem State.dropAccess_hostSince (s : State) (i : Nat) : (s.dropAccess i).hostSince = s.hostSince := rfl
@[simp] theorem State.dropAccess_portsDown (s : State) (i : Nat) : (s.dropAccess i).portsDown = s.portsDown := rfl
@[simp] theorem State.dropAccess_flash (s : State) (i : Nat) : (s.dropAccess i).flash = s.flash := rfl
@[simp] theorem State.dropAccess_wear (s : State) (i : Nat) : (s.dropAccess i).wear = s.wear := rfl
@[simp] theorem State.dropAccess_image (s : State) (i : Nat) : (s.dropAccess i).image = s.image := rfl
@[simp] theorem State.dropAccess_debugger (s : State) (i : Nat) : (s.dropAccess i).debugger = s.debugger := rfl

/-! ## `clearLatches` -/

@[simp] theorem State.clearLatches_events (s : State) (t n : Nat) : (s.clearLatches t n).events = s.events := rfl
@[simp] theorem State.clearLatches_cur (s : State) (t n : Nat) : (s.clearLatches t n).cur = s.cur := rfl
@[simp] theorem State.clearLatches_choices (s : State) (t n : Nat) : (s.clearLatches t n).choices = s.choices := rfl
@[simp] theorem State.clearLatches_nextId (s : State) (t n : Nat) : (s.clearLatches t n).nextId = s.nextId := rfl
@[simp] theorem State.clearLatches_ctxs (s : State) (t n : Nat) : (s.clearLatches t n).ctxs = s.ctxs := rfl
@[simp] theorem State.clearLatches_cores (s : State) (t n : Nat) : (s.clearLatches t n).cores = s.cores := rfl
@[simp] theorem State.clearLatches_regmem (s : State) (t n : Nat) : (s.clearLatches t n).regmem = s.regmem := rfl
@[simp] theorem State.clearLatches_banks (s : State) (t n : Nat) : (s.clearLatches t n).banks = s.banks := rfl
@[simp] theorem State.clearLatches_l1 (s : State) (t n : Nat) : (s.clearLatches t n).l1 = s.l1 := rfl
@[simp] theorem State.clearLatches_shares (s : State) (t n : Nat) : (s.clearLatches t n).shares = s.shares := rfl
@[simp] theorem State.clearLatches_mem (s : State) (t n : Nat) : (s.clearLatches t n).mem = s.mem := rfl
@[simp] theorem State.clearLatches_l2 (s : State) (t n : Nat) : (s.clearLatches t n).l2 = s.l2 := rfl
@[simp] theorem State.clearLatches_poison (s : State) (t n : Nat) : (s.clearLatches t n).poison = s.poison := rfl
@[simp] theorem State.clearLatches_accs (s : State) (t n : Nat) : (s.clearLatches t n).accs = s.accs := rfl
@[simp] theorem State.clearLatches_arrivals (s : State) (t n : Nat) : (s.clearLatches t n).arrivals = s.arrivals := rfl
@[simp] theorem State.clearLatches_cycle (s : State) (t n : Nat) : (s.clearLatches t n).cycle = s.cycle := rfl
@[simp] theorem State.clearLatches_epoch (s : State) (t n : Nat) : (s.clearLatches t n).epoch = s.epoch := rfl
@[simp] theorem State.clearLatches_closed (s : State) (t n : Nat) : (s.clearLatches t n).closed = s.closed := rfl
@[simp] theorem State.clearLatches_wheel (s : State) (t n : Nat) : (s.clearLatches t n).wheel = s.wheel := rfl
@[simp] theorem State.clearLatches_forms (s : State) (t n : Nat) : (s.clearLatches t n).forms = s.forms := rfl
@[simp] theorem State.clearLatches_recs (s : State) (t n : Nat) : (s.clearLatches t n).recs = s.recs := rfl
@[simp] theorem State.clearLatches_tasks (s : State) (t n : Nat) : (s.clearLatches t n).tasks = s.tasks := rfl
@[simp] theorem State.clearLatches_insts (s : State) (t n : Nat) : (s.clearLatches t n).insts = s.insts := rfl
@[simp] theorem State.clearLatches_queues (s : State) (t n : Nat) : (s.clearLatches t n).queues = s.queues := rfl
@[simp] theorem State.clearLatches_doms (s : State) (t n : Nat) : (s.clearLatches t n).doms = s.doms := rfl
@[simp] theorem State.clearLatches_rotor (s : State) (t n : Nat) : (s.clearLatches t n).rotor = s.rotor := rfl
@[simp] theorem State.clearLatches_resid (s : State) (t n : Nat) : (s.clearLatches t n).resid = s.resid := rfl
@[simp] theorem State.clearLatches_swFirst (s : State) (t n : Nat) : (s.clearLatches t n).swFirst = s.swFirst := rfl
@[simp] theorem State.clearLatches_rev (s : State) (t n : Nat) : (s.clearLatches t n).rev = s.rev := rfl
@[simp] theorem State.clearLatches_lastSeq (s : State) (t n : Nat) : (s.clearLatches t n).lastSeq = s.lastSeq := rfl
@[simp] theorem State.clearLatches_drops (s : State) (t n : Nat) : (s.clearLatches t n).drops = s.drops := rfl
@[simp] theorem State.clearLatches_grads (s : State) (t n : Nat) : (s.clearLatches t n).grads = s.grads := rfl
@[simp] theorem State.clearLatches_lines (s : State) (t n : Nat) : (s.clearLatches t n).lines = s.lines := rfl
@[simp] theorem State.clearLatches_colls (s : State) (t n : Nat) : (s.clearLatches t n).colls = s.colls := rfl
@[simp] theorem State.clearLatches_notices (s : State) (t n : Nat) : (s.clearLatches t n).notices = s.notices := rfl
@[simp] theorem State.clearLatches_visit (s : State) (t n : Nat) : (s.clearLatches t n).visit = s.visit := rfl
@[simp] theorem State.clearLatches_credits (s : State) (t n : Nat) : (s.clearLatches t n).credits = s.credits := rfl
@[simp] theorem State.clearLatches_launchQ (s : State) (t n : Nat) : (s.clearLatches t n).launchQ = s.launchQ := rfl
@[simp] theorem State.clearLatches_objs (s : State) (t n : Nat) : (s.clearLatches t n).objs = s.objs := rfl
@[simp] theorem State.clearLatches_backing (s : State) (t n : Nat) : (s.clearLatches t n).backing = s.backing := rfl
@[simp] theorem State.clearLatches_codegen (s : State) (t n : Nat) : (s.clearLatches t n).codegen = s.codegen := rfl
@[simp] theorem State.clearLatches_poolPtr (s : State) (t n : Nat) : (s.clearLatches t n).poolPtr = s.poolPtr := rfl
@[simp] theorem State.clearLatches_poolFree (s : State) (t n : Nat) : (s.clearLatches t n).poolFree = s.poolFree := rfl
@[simp] theorem State.clearLatches_withdrawn (s : State) (t n : Nat) : (s.clearLatches t n).withdrawn = s.withdrawn := rfl
@[simp] theorem State.clearLatches_derate (s : State) (t n : Nat) : (s.clearLatches t n).derate = s.derate := rfl
@[simp] theorem State.clearLatches_narrow (s : State) (t n : Nat) : (s.clearLatches t n).narrow = s.narrow := rfl
@[simp] theorem State.clearLatches_thresh (s : State) (t n : Nat) : (s.clearLatches t n).thresh = s.thresh := rfl
@[simp] theorem State.clearLatches_dramCnt (s : State) (t n : Nat) : (s.clearLatches t n).dramCnt = s.dramCnt := rfl
@[simp] theorem State.clearLatches_sramCnt (s : State) (t n : Nat) : (s.clearLatches t n).sramCnt = s.sramCnt := rfl
@[simp] theorem State.clearLatches_retries (s : State) (t n : Nat) : (s.clearLatches t n).retries = s.retries := rfl
@[simp] theorem State.clearLatches_retrains (s : State) (t n : Nat) : (s.clearLatches t n).retrains = s.retrains := rfl
@[simp] theorem State.clearLatches_eye (s : State) (t n : Nat) : (s.clearLatches t n).eye = s.eye := rfl
@[simp] theorem State.clearLatches_hours (s : State) (t n : Nat) : (s.clearLatches t n).hours = s.hours := rfl
@[simp] theorem State.clearLatches_conf (s : State) (t n : Nat) : (s.clearLatches t n).conf = s.conf := rfl
@[simp] theorem State.clearLatches_limit (s : State) (t n : Nat) : (s.clearLatches t n).limit = s.limit := rfl
@[simp] theorem State.clearLatches_driftOf (s : State) (t n : Nat) : (s.clearLatches t n).driftOf = s.driftOf := rfl
@[simp] theorem State.clearLatches_samples (s : State) (t n : Nat) : (s.clearLatches t n).samples = s.samples := rfl
@[simp] theorem State.clearLatches_shareNum (s : State) (t n : Nat) : (s.clearLatches t n).shareNum = s.shareNum := rfl
@[simp] theorem State.clearLatches_errNum (s : State) (t n : Nat) : (s.clearLatches t n).errNum = s.errNum := rfl
@[simp] theorem State.clearLatches_sampleNum (s : State) (t n : Nat) : (s.clearLatches t n).sampleNum = s.sampleNum := rfl
@[simp] theorem State.clearLatches_errs (s : State) (t n : Nat) : (s.clearLatches t n).errs = s.errs := rfl
@[simp] theorem State.clearLatches_chunks (s : State) (t n : Nat) : (s.clearLatches t n).chunks = s.chunks := rfl
@[simp] theorem State.clearLatches_worked (s : State) (t n : Nat) : (s.clearLatches t n).worked = s.worked := rfl
@[simp] theorem State.clearLatches_tests (s : State) (t n : Nat) : (s.clearLatches t n).tests = s.tests := rfl
@[simp] theorem State.clearLatches_ready (s : State) (t n : Nat) : (s.clearLatches t n).ready = s.ready := rfl
@[simp] theorem State.clearLatches_recovery (s : State) (t n : Nat) : (s.clearLatches t n).recovery = s.recovery := rfl
@[simp] theorem State.clearLatches_marg (s : State) (t n : Nat) : (s.clearLatches t n).marg = s.marg := rfl
@[simp] theorem State.clearLatches_mresult (s : State) (t n : Nat) : (s.clearLatches t n).mresult = s.mresult := rfl
@[simp] theorem State.clearLatches_mcmd (s : State) (t n : Nat) : (s.clearLatches t n).mcmd = s.mcmd := rfl
@[simp] theorem State.clearLatches_hostUp (s : State) (t n : Nat) : (s.clearLatches t n).hostUp = s.hostUp := rfl
@[simp] theorem State.clearLatches_hostDown (s : State) (t n : Nat) : (s.clearLatches t n).hostDown = s.hostDown := rfl
@[simp] theorem State.clearLatches_hostSince (s : State) (t n : Nat) : (s.clearLatches t n).hostSince = s.hostSince := rfl
@[simp] theorem State.clearLatches_portsDown (s : State) (t n : Nat) : (s.clearLatches t n).portsDown = s.portsDown := rfl
@[simp] theorem State.clearLatches_flash (s : State) (t n : Nat) : (s.clearLatches t n).flash = s.flash := rfl
@[simp] theorem State.clearLatches_wear (s : State) (t n : Nat) : (s.clearLatches t n).wear = s.wear := rfl
@[simp] theorem State.clearLatches_image (s : State) (t n : Nat) : (s.clearLatches t n).image = s.image := rfl
@[simp] theorem State.clearLatches_debugger (s : State) (t n : Nat) : (s.clearLatches t n).debugger = s.debugger := rfl

/-! ## `unlock` -/

@[simp] theorem State.unlock_events (s : State) (i : Nat) : (s.unlock i).events = s.events := rfl
@[simp] theorem State.unlock_cur (s : State) (i : Nat) : (s.unlock i).cur = s.cur := rfl
@[simp] theorem State.unlock_choices (s : State) (i : Nat) : (s.unlock i).choices = s.choices := rfl
@[simp] theorem State.unlock_nextId (s : State) (i : Nat) : (s.unlock i).nextId = s.nextId := rfl
@[simp] theorem State.unlock_ctxs (s : State) (i : Nat) : (s.unlock i).ctxs = s.ctxs := rfl
@[simp] theorem State.unlock_cores (s : State) (i : Nat) : (s.unlock i).cores = s.cores := rfl
@[simp] theorem State.unlock_regmem (s : State) (i : Nat) : (s.unlock i).regmem = s.regmem := rfl
@[simp] theorem State.unlock_banks (s : State) (i : Nat) : (s.unlock i).banks = s.banks := rfl
@[simp] theorem State.unlock_l1 (s : State) (i : Nat) : (s.unlock i).l1 = s.l1 := rfl
@[simp] theorem State.unlock_shares (s : State) (i : Nat) : (s.unlock i).shares = s.shares := rfl
@[simp] theorem State.unlock_mem (s : State) (i : Nat) : (s.unlock i).mem = s.mem := rfl
@[simp] theorem State.unlock_poison (s : State) (i : Nat) : (s.unlock i).poison = s.poison := rfl
@[simp] theorem State.unlock_accs (s : State) (i : Nat) : (s.unlock i).accs = s.accs := rfl
@[simp] theorem State.unlock_arrivals (s : State) (i : Nat) : (s.unlock i).arrivals = s.arrivals := rfl
@[simp] theorem State.unlock_cycle (s : State) (i : Nat) : (s.unlock i).cycle = s.cycle := rfl
@[simp] theorem State.unlock_epoch (s : State) (i : Nat) : (s.unlock i).epoch = s.epoch := rfl
@[simp] theorem State.unlock_closed (s : State) (i : Nat) : (s.unlock i).closed = s.closed := rfl
@[simp] theorem State.unlock_wheel (s : State) (i : Nat) : (s.unlock i).wheel = s.wheel := rfl
@[simp] theorem State.unlock_forms (s : State) (i : Nat) : (s.unlock i).forms = s.forms := rfl
@[simp] theorem State.unlock_recs (s : State) (i : Nat) : (s.unlock i).recs = s.recs := rfl
@[simp] theorem State.unlock_tasks (s : State) (i : Nat) : (s.unlock i).tasks = s.tasks := rfl
@[simp] theorem State.unlock_insts (s : State) (i : Nat) : (s.unlock i).insts = s.insts := rfl
@[simp] theorem State.unlock_queues (s : State) (i : Nat) : (s.unlock i).queues = s.queues := rfl
@[simp] theorem State.unlock_doms (s : State) (i : Nat) : (s.unlock i).doms = s.doms := rfl
@[simp] theorem State.unlock_rotor (s : State) (i : Nat) : (s.unlock i).rotor = s.rotor := rfl
@[simp] theorem State.unlock_resid (s : State) (i : Nat) : (s.unlock i).resid = s.resid := rfl
@[simp] theorem State.unlock_swFirst (s : State) (i : Nat) : (s.unlock i).swFirst = s.swFirst := rfl
@[simp] theorem State.unlock_rev (s : State) (i : Nat) : (s.unlock i).rev = s.rev := rfl
@[simp] theorem State.unlock_lastSeq (s : State) (i : Nat) : (s.unlock i).lastSeq = s.lastSeq := rfl
@[simp] theorem State.unlock_drops (s : State) (i : Nat) : (s.unlock i).drops = s.drops := rfl
@[simp] theorem State.unlock_latches (s : State) (i : Nat) : (s.unlock i).latches = s.latches := rfl
@[simp] theorem State.unlock_grads (s : State) (i : Nat) : (s.unlock i).grads = s.grads := rfl
@[simp] theorem State.unlock_lines (s : State) (i : Nat) : (s.unlock i).lines = s.lines := rfl
@[simp] theorem State.unlock_colls (s : State) (i : Nat) : (s.unlock i).colls = s.colls := rfl
@[simp] theorem State.unlock_notices (s : State) (i : Nat) : (s.unlock i).notices = s.notices := rfl
@[simp] theorem State.unlock_visit (s : State) (i : Nat) : (s.unlock i).visit = s.visit := rfl
@[simp] theorem State.unlock_credits (s : State) (i : Nat) : (s.unlock i).credits = s.credits := rfl
@[simp] theorem State.unlock_launchQ (s : State) (i : Nat) : (s.unlock i).launchQ = s.launchQ := rfl
@[simp] theorem State.unlock_objs (s : State) (i : Nat) : (s.unlock i).objs = s.objs := rfl
@[simp] theorem State.unlock_backing (s : State) (i : Nat) : (s.unlock i).backing = s.backing := rfl
@[simp] theorem State.unlock_codegen (s : State) (i : Nat) : (s.unlock i).codegen = s.codegen := rfl
@[simp] theorem State.unlock_poolPtr (s : State) (i : Nat) : (s.unlock i).poolPtr = s.poolPtr := rfl
@[simp] theorem State.unlock_poolFree (s : State) (i : Nat) : (s.unlock i).poolFree = s.poolFree := rfl
@[simp] theorem State.unlock_withdrawn (s : State) (i : Nat) : (s.unlock i).withdrawn = s.withdrawn := rfl
@[simp] theorem State.unlock_derate (s : State) (i : Nat) : (s.unlock i).derate = s.derate := rfl
@[simp] theorem State.unlock_narrow (s : State) (i : Nat) : (s.unlock i).narrow = s.narrow := rfl
@[simp] theorem State.unlock_thresh (s : State) (i : Nat) : (s.unlock i).thresh = s.thresh := rfl
@[simp] theorem State.unlock_dramCnt (s : State) (i : Nat) : (s.unlock i).dramCnt = s.dramCnt := rfl
@[simp] theorem State.unlock_sramCnt (s : State) (i : Nat) : (s.unlock i).sramCnt = s.sramCnt := rfl
@[simp] theorem State.unlock_retries (s : State) (i : Nat) : (s.unlock i).retries = s.retries := rfl
@[simp] theorem State.unlock_retrains (s : State) (i : Nat) : (s.unlock i).retrains = s.retrains := rfl
@[simp] theorem State.unlock_eye (s : State) (i : Nat) : (s.unlock i).eye = s.eye := rfl
@[simp] theorem State.unlock_hours (s : State) (i : Nat) : (s.unlock i).hours = s.hours := rfl
@[simp] theorem State.unlock_conf (s : State) (i : Nat) : (s.unlock i).conf = s.conf := rfl
@[simp] theorem State.unlock_limit (s : State) (i : Nat) : (s.unlock i).limit = s.limit := rfl
@[simp] theorem State.unlock_driftOf (s : State) (i : Nat) : (s.unlock i).driftOf = s.driftOf := rfl
@[simp] theorem State.unlock_samples (s : State) (i : Nat) : (s.unlock i).samples = s.samples := rfl
@[simp] theorem State.unlock_shareNum (s : State) (i : Nat) : (s.unlock i).shareNum = s.shareNum := rfl
@[simp] theorem State.unlock_errNum (s : State) (i : Nat) : (s.unlock i).errNum = s.errNum := rfl
@[simp] theorem State.unlock_sampleNum (s : State) (i : Nat) : (s.unlock i).sampleNum = s.sampleNum := rfl
@[simp] theorem State.unlock_errs (s : State) (i : Nat) : (s.unlock i).errs = s.errs := rfl
@[simp] theorem State.unlock_chunks (s : State) (i : Nat) : (s.unlock i).chunks = s.chunks := rfl
@[simp] theorem State.unlock_worked (s : State) (i : Nat) : (s.unlock i).worked = s.worked := rfl
@[simp] theorem State.unlock_tests (s : State) (i : Nat) : (s.unlock i).tests = s.tests := rfl
@[simp] theorem State.unlock_ready (s : State) (i : Nat) : (s.unlock i).ready = s.ready := rfl
@[simp] theorem State.unlock_recovery (s : State) (i : Nat) : (s.unlock i).recovery = s.recovery := rfl
@[simp] theorem State.unlock_marg (s : State) (i : Nat) : (s.unlock i).marg = s.marg := rfl
@[simp] theorem State.unlock_mresult (s : State) (i : Nat) : (s.unlock i).mresult = s.mresult := rfl
@[simp] theorem State.unlock_mcmd (s : State) (i : Nat) : (s.unlock i).mcmd = s.mcmd := rfl
@[simp] theorem State.unlock_hostUp (s : State) (i : Nat) : (s.unlock i).hostUp = s.hostUp := rfl
@[simp] theorem State.unlock_hostDown (s : State) (i : Nat) : (s.unlock i).hostDown = s.hostDown := rfl
@[simp] theorem State.unlock_hostSince (s : State) (i : Nat) : (s.unlock i).hostSince = s.hostSince := rfl
@[simp] theorem State.unlock_portsDown (s : State) (i : Nat) : (s.unlock i).portsDown = s.portsDown := rfl
@[simp] theorem State.unlock_flash (s : State) (i : Nat) : (s.unlock i).flash = s.flash := rfl
@[simp] theorem State.unlock_wear (s : State) (i : Nat) : (s.unlock i).wear = s.wear := rfl
@[simp] theorem State.unlock_image (s : State) (i : Nat) : (s.unlock i).image = s.image := rfl
@[simp] theorem State.unlock_debugger (s : State) (i : Nat) : (s.unlock i).debugger = s.debugger := rfl

/-! ## `account` -/

@[simp] theorem State.account_events (s : State) (c : Ctx) : (s.account c).events = s.events := rfl
@[simp] theorem State.account_cur (s : State) (c : Ctx) : (s.account c).cur = s.cur := rfl
@[simp] theorem State.account_choices (s : State) (c : Ctx) : (s.account c).choices = s.choices := rfl
@[simp] theorem State.account_nextId (s : State) (c : Ctx) : (s.account c).nextId = s.nextId := rfl
@[simp] theorem State.account_ctxs (s : State) (c : Ctx) : (s.account c).ctxs = s.ctxs := rfl
@[simp] theorem State.account_cores (s : State) (c : Ctx) : (s.account c).cores = s.cores := rfl
@[simp] theorem State.account_regmem (s : State) (c : Ctx) : (s.account c).regmem = s.regmem := rfl
@[simp] theorem State.account_banks (s : State) (c : Ctx) : (s.account c).banks = s.banks := rfl
@[simp] theorem State.account_l1 (s : State) (c : Ctx) : (s.account c).l1 = s.l1 := rfl
@[simp] theorem State.account_shares (s : State) (c : Ctx) : (s.account c).shares = s.shares := rfl
@[simp] theorem State.account_mem (s : State) (c : Ctx) : (s.account c).mem = s.mem := rfl
@[simp] theorem State.account_l2 (s : State) (c : Ctx) : (s.account c).l2 = s.l2 := rfl
@[simp] theorem State.account_poison (s : State) (c : Ctx) : (s.account c).poison = s.poison := rfl
@[simp] theorem State.account_accs (s : State) (c : Ctx) : (s.account c).accs = s.accs := rfl
@[simp] theorem State.account_arrivals (s : State) (c : Ctx) : (s.account c).arrivals = s.arrivals := rfl
@[simp] theorem State.account_cycle (s : State) (c : Ctx) : (s.account c).cycle = s.cycle := rfl
@[simp] theorem State.account_epoch (s : State) (c : Ctx) : (s.account c).epoch = s.epoch := rfl
@[simp] theorem State.account_closed (s : State) (c : Ctx) : (s.account c).closed = s.closed := rfl
@[simp] theorem State.account_wheel (s : State) (c : Ctx) : (s.account c).wheel = s.wheel := rfl
@[simp] theorem State.account_forms (s : State) (c : Ctx) : (s.account c).forms = s.forms := rfl
@[simp] theorem State.account_recs (s : State) (c : Ctx) : (s.account c).recs = s.recs := rfl
@[simp] theorem State.account_tasks (s : State) (c : Ctx) : (s.account c).tasks = s.tasks := rfl
@[simp] theorem State.account_insts (s : State) (c : Ctx) : (s.account c).insts = s.insts := rfl
@[simp] theorem State.account_queues (s : State) (c : Ctx) : (s.account c).queues = s.queues := rfl
@[simp] theorem State.account_rotor (s : State) (c : Ctx) : (s.account c).rotor = s.rotor := rfl
@[simp] theorem State.account_resid (s : State) (c : Ctx) : (s.account c).resid = s.resid := rfl
@[simp] theorem State.account_swFirst (s : State) (c : Ctx) : (s.account c).swFirst = s.swFirst := rfl
@[simp] theorem State.account_rev (s : State) (c : Ctx) : (s.account c).rev = s.rev := rfl
@[simp] theorem State.account_lastSeq (s : State) (c : Ctx) : (s.account c).lastSeq = s.lastSeq := rfl
@[simp] theorem State.account_drops (s : State) (c : Ctx) : (s.account c).drops = s.drops := rfl
@[simp] theorem State.account_latches (s : State) (c : Ctx) : (s.account c).latches = s.latches := rfl
@[simp] theorem State.account_grads (s : State) (c : Ctx) : (s.account c).grads = s.grads := rfl
@[simp] theorem State.account_lines (s : State) (c : Ctx) : (s.account c).lines = s.lines := rfl
@[simp] theorem State.account_colls (s : State) (c : Ctx) : (s.account c).colls = s.colls := rfl
@[simp] theorem State.account_notices (s : State) (c : Ctx) : (s.account c).notices = s.notices := rfl
@[simp] theorem State.account_visit (s : State) (c : Ctx) : (s.account c).visit = s.visit := rfl
@[simp] theorem State.account_credits (s : State) (c : Ctx) : (s.account c).credits = s.credits := rfl
@[simp] theorem State.account_launchQ (s : State) (c : Ctx) : (s.account c).launchQ = s.launchQ := rfl
@[simp] theorem State.account_objs (s : State) (c : Ctx) : (s.account c).objs = s.objs := rfl
@[simp] theorem State.account_backing (s : State) (c : Ctx) : (s.account c).backing = s.backing := rfl
@[simp] theorem State.account_codegen (s : State) (c : Ctx) : (s.account c).codegen = s.codegen := rfl
@[simp] theorem State.account_poolPtr (s : State) (c : Ctx) : (s.account c).poolPtr = s.poolPtr := rfl
@[simp] theorem State.account_poolFree (s : State) (c : Ctx) : (s.account c).poolFree = s.poolFree := rfl
@[simp] theorem State.account_withdrawn (s : State) (c : Ctx) : (s.account c).withdrawn = s.withdrawn := rfl
@[simp] theorem State.account_derate (s : State) (c : Ctx) : (s.account c).derate = s.derate := rfl
@[simp] theorem State.account_narrow (s : State) (c : Ctx) : (s.account c).narrow = s.narrow := rfl
@[simp] theorem State.account_thresh (s : State) (c : Ctx) : (s.account c).thresh = s.thresh := rfl
@[simp] theorem State.account_dramCnt (s : State) (c : Ctx) : (s.account c).dramCnt = s.dramCnt := rfl
@[simp] theorem State.account_sramCnt (s : State) (c : Ctx) : (s.account c).sramCnt = s.sramCnt := rfl
@[simp] theorem State.account_retries (s : State) (c : Ctx) : (s.account c).retries = s.retries := rfl
@[simp] theorem State.account_retrains (s : State) (c : Ctx) : (s.account c).retrains = s.retrains := rfl
@[simp] theorem State.account_eye (s : State) (c : Ctx) : (s.account c).eye = s.eye := rfl
@[simp] theorem State.account_hours (s : State) (c : Ctx) : (s.account c).hours = s.hours := rfl
@[simp] theorem State.account_conf (s : State) (c : Ctx) : (s.account c).conf = s.conf := rfl
@[simp] theorem State.account_limit (s : State) (c : Ctx) : (s.account c).limit = s.limit := rfl
@[simp] theorem State.account_driftOf (s : State) (c : Ctx) : (s.account c).driftOf = s.driftOf := rfl
@[simp] theorem State.account_samples (s : State) (c : Ctx) : (s.account c).samples = s.samples := rfl
@[simp] theorem State.account_shareNum (s : State) (c : Ctx) : (s.account c).shareNum = s.shareNum := rfl
@[simp] theorem State.account_errNum (s : State) (c : Ctx) : (s.account c).errNum = s.errNum := rfl
@[simp] theorem State.account_sampleNum (s : State) (c : Ctx) : (s.account c).sampleNum = s.sampleNum := rfl
@[simp] theorem State.account_errs (s : State) (c : Ctx) : (s.account c).errs = s.errs := rfl
@[simp] theorem State.account_chunks (s : State) (c : Ctx) : (s.account c).chunks = s.chunks := rfl
@[simp] theorem State.account_worked (s : State) (c : Ctx) : (s.account c).worked = s.worked := rfl
@[simp] theorem State.account_tests (s : State) (c : Ctx) : (s.account c).tests = s.tests := rfl
@[simp] theorem State.account_ready (s : State) (c : Ctx) : (s.account c).ready = s.ready := rfl
@[simp] theorem State.account_recovery (s : State) (c : Ctx) : (s.account c).recovery = s.recovery := rfl
@[simp] theorem State.account_marg (s : State) (c : Ctx) : (s.account c).marg = s.marg := rfl
@[simp] theorem State.account_mresult (s : State) (c : Ctx) : (s.account c).mresult = s.mresult := rfl
@[simp] theorem State.account_mcmd (s : State) (c : Ctx) : (s.account c).mcmd = s.mcmd := rfl
@[simp] theorem State.account_hostUp (s : State) (c : Ctx) : (s.account c).hostUp = s.hostUp := rfl
@[simp] theorem State.account_hostDown (s : State) (c : Ctx) : (s.account c).hostDown = s.hostDown := rfl
@[simp] theorem State.account_hostSince (s : State) (c : Ctx) : (s.account c).hostSince = s.hostSince := rfl
@[simp] theorem State.account_portsDown (s : State) (c : Ctx) : (s.account c).portsDown = s.portsDown := rfl
@[simp] theorem State.account_flash (s : State) (c : Ctx) : (s.account c).flash = s.flash := rfl
@[simp] theorem State.account_wear (s : State) (c : Ctx) : (s.account c).wear = s.wear := rfl
@[simp] theorem State.account_image (s : State) (c : Ctx) : (s.account c).image = s.image := rfl
@[simp] theorem State.account_debugger (s : State) (c : Ctx) : (s.account c).debugger = s.debugger := rfl

/-! ## `l2Set` -/

@[simp] theorem State.l2Set_events (s : State) (t : Tag) (f : L2Line → L2Line) : (s.l2Set t f).events = s.events := rfl
@[simp] theorem State.l2Set_cur (s : State) (t : Tag) (f : L2Line → L2Line) : (s.l2Set t f).cur = s.cur := rfl
@[simp] theorem State.l2Set_choices (s : State) (t : Tag) (f : L2Line → L2Line) : (s.l2Set t f).choices = s.choices := rfl
@[simp] theorem State.l2Set_nextId (s : State) (t : Tag) (f : L2Line → L2Line) : (s.l2Set t f).nextId = s.nextId := rfl
@[simp] theorem State.l2Set_ctxs (s : State) (t : Tag) (f : L2Line → L2Line) : (s.l2Set t f).ctxs = s.ctxs := rfl
@[simp] theorem State.l2Set_cores (s : State) (t : Tag) (f : L2Line → L2Line) : (s.l2Set t f).cores = s.cores := rfl
@[simp] theorem State.l2Set_regmem (s : State) (t : Tag) (f : L2Line → L2Line) : (s.l2Set t f).regmem = s.regmem := rfl
@[simp] theorem State.l2Set_banks (s : State) (t : Tag) (f : L2Line → L2Line) : (s.l2Set t f).banks = s.banks := rfl
@[simp] theorem State.l2Set_l1 (s : State) (t : Tag) (f : L2Line → L2Line) : (s.l2Set t f).l1 = s.l1 := rfl
@[simp] theorem State.l2Set_shares (s : State) (t : Tag) (f : L2Line → L2Line) : (s.l2Set t f).shares = s.shares := rfl
@[simp] theorem State.l2Set_mem (s : State) (t : Tag) (f : L2Line → L2Line) : (s.l2Set t f).mem = s.mem := rfl
@[simp] theorem State.l2Set_poison (s : State) (t : Tag) (f : L2Line → L2Line) : (s.l2Set t f).poison = s.poison := rfl
@[simp] theorem State.l2Set_accs (s : State) (t : Tag) (f : L2Line → L2Line) : (s.l2Set t f).accs = s.accs := rfl
@[simp] theorem State.l2Set_arrivals (s : State) (t : Tag) (f : L2Line → L2Line) : (s.l2Set t f).arrivals = s.arrivals := rfl
@[simp] theorem State.l2Set_cycle (s : State) (t : Tag) (f : L2Line → L2Line) : (s.l2Set t f).cycle = s.cycle := rfl
@[simp] theorem State.l2Set_epoch (s : State) (t : Tag) (f : L2Line → L2Line) : (s.l2Set t f).epoch = s.epoch := rfl
@[simp] theorem State.l2Set_closed (s : State) (t : Tag) (f : L2Line → L2Line) : (s.l2Set t f).closed = s.closed := rfl
@[simp] theorem State.l2Set_wheel (s : State) (t : Tag) (f : L2Line → L2Line) : (s.l2Set t f).wheel = s.wheel := rfl
@[simp] theorem State.l2Set_forms (s : State) (t : Tag) (f : L2Line → L2Line) : (s.l2Set t f).forms = s.forms := rfl
@[simp] theorem State.l2Set_recs (s : State) (t : Tag) (f : L2Line → L2Line) : (s.l2Set t f).recs = s.recs := rfl
@[simp] theorem State.l2Set_tasks (s : State) (t : Tag) (f : L2Line → L2Line) : (s.l2Set t f).tasks = s.tasks := rfl
@[simp] theorem State.l2Set_insts (s : State) (t : Tag) (f : L2Line → L2Line) : (s.l2Set t f).insts = s.insts := rfl
@[simp] theorem State.l2Set_queues (s : State) (t : Tag) (f : L2Line → L2Line) : (s.l2Set t f).queues = s.queues := rfl
@[simp] theorem State.l2Set_doms (s : State) (t : Tag) (f : L2Line → L2Line) : (s.l2Set t f).doms = s.doms := rfl
@[simp] theorem State.l2Set_rotor (s : State) (t : Tag) (f : L2Line → L2Line) : (s.l2Set t f).rotor = s.rotor := rfl
@[simp] theorem State.l2Set_resid (s : State) (t : Tag) (f : L2Line → L2Line) : (s.l2Set t f).resid = s.resid := rfl
@[simp] theorem State.l2Set_swFirst (s : State) (t : Tag) (f : L2Line → L2Line) : (s.l2Set t f).swFirst = s.swFirst := rfl
@[simp] theorem State.l2Set_rev (s : State) (t : Tag) (f : L2Line → L2Line) : (s.l2Set t f).rev = s.rev := rfl
@[simp] theorem State.l2Set_lastSeq (s : State) (t : Tag) (f : L2Line → L2Line) : (s.l2Set t f).lastSeq = s.lastSeq := rfl
@[simp] theorem State.l2Set_drops (s : State) (t : Tag) (f : L2Line → L2Line) : (s.l2Set t f).drops = s.drops := rfl
@[simp] theorem State.l2Set_latches (s : State) (t : Tag) (f : L2Line → L2Line) : (s.l2Set t f).latches = s.latches := rfl
@[simp] theorem State.l2Set_grads (s : State) (t : Tag) (f : L2Line → L2Line) : (s.l2Set t f).grads = s.grads := rfl
@[simp] theorem State.l2Set_lines (s : State) (t : Tag) (f : L2Line → L2Line) : (s.l2Set t f).lines = s.lines := rfl
@[simp] theorem State.l2Set_colls (s : State) (t : Tag) (f : L2Line → L2Line) : (s.l2Set t f).colls = s.colls := rfl
@[simp] theorem State.l2Set_notices (s : State) (t : Tag) (f : L2Line → L2Line) : (s.l2Set t f).notices = s.notices := rfl
@[simp] theorem State.l2Set_visit (s : State) (t : Tag) (f : L2Line → L2Line) : (s.l2Set t f).visit = s.visit := rfl
@[simp] theorem State.l2Set_credits (s : State) (t : Tag) (f : L2Line → L2Line) : (s.l2Set t f).credits = s.credits := rfl
@[simp] theorem State.l2Set_launchQ (s : State) (t : Tag) (f : L2Line → L2Line) : (s.l2Set t f).launchQ = s.launchQ := rfl
@[simp] theorem State.l2Set_objs (s : State) (t : Tag) (f : L2Line → L2Line) : (s.l2Set t f).objs = s.objs := rfl
@[simp] theorem State.l2Set_backing (s : State) (t : Tag) (f : L2Line → L2Line) : (s.l2Set t f).backing = s.backing := rfl
@[simp] theorem State.l2Set_codegen (s : State) (t : Tag) (f : L2Line → L2Line) : (s.l2Set t f).codegen = s.codegen := rfl
@[simp] theorem State.l2Set_poolPtr (s : State) (t : Tag) (f : L2Line → L2Line) : (s.l2Set t f).poolPtr = s.poolPtr := rfl
@[simp] theorem State.l2Set_poolFree (s : State) (t : Tag) (f : L2Line → L2Line) : (s.l2Set t f).poolFree = s.poolFree := rfl
@[simp] theorem State.l2Set_withdrawn (s : State) (t : Tag) (f : L2Line → L2Line) : (s.l2Set t f).withdrawn = s.withdrawn := rfl
@[simp] theorem State.l2Set_derate (s : State) (t : Tag) (f : L2Line → L2Line) : (s.l2Set t f).derate = s.derate := rfl
@[simp] theorem State.l2Set_narrow (s : State) (t : Tag) (f : L2Line → L2Line) : (s.l2Set t f).narrow = s.narrow := rfl
@[simp] theorem State.l2Set_thresh (s : State) (t : Tag) (f : L2Line → L2Line) : (s.l2Set t f).thresh = s.thresh := rfl
@[simp] theorem State.l2Set_dramCnt (s : State) (t : Tag) (f : L2Line → L2Line) : (s.l2Set t f).dramCnt = s.dramCnt := rfl
@[simp] theorem State.l2Set_sramCnt (s : State) (t : Tag) (f : L2Line → L2Line) : (s.l2Set t f).sramCnt = s.sramCnt := rfl
@[simp] theorem State.l2Set_retries (s : State) (t : Tag) (f : L2Line → L2Line) : (s.l2Set t f).retries = s.retries := rfl
@[simp] theorem State.l2Set_retrains (s : State) (t : Tag) (f : L2Line → L2Line) : (s.l2Set t f).retrains = s.retrains := rfl
@[simp] theorem State.l2Set_eye (s : State) (t : Tag) (f : L2Line → L2Line) : (s.l2Set t f).eye = s.eye := rfl
@[simp] theorem State.l2Set_hours (s : State) (t : Tag) (f : L2Line → L2Line) : (s.l2Set t f).hours = s.hours := rfl
@[simp] theorem State.l2Set_conf (s : State) (t : Tag) (f : L2Line → L2Line) : (s.l2Set t f).conf = s.conf := rfl
@[simp] theorem State.l2Set_limit (s : State) (t : Tag) (f : L2Line → L2Line) : (s.l2Set t f).limit = s.limit := rfl
@[simp] theorem State.l2Set_driftOf (s : State) (t : Tag) (f : L2Line → L2Line) : (s.l2Set t f).driftOf = s.driftOf := rfl
@[simp] theorem State.l2Set_samples (s : State) (t : Tag) (f : L2Line → L2Line) : (s.l2Set t f).samples = s.samples := rfl
@[simp] theorem State.l2Set_shareNum (s : State) (t : Tag) (f : L2Line → L2Line) : (s.l2Set t f).shareNum = s.shareNum := rfl
@[simp] theorem State.l2Set_errNum (s : State) (t : Tag) (f : L2Line → L2Line) : (s.l2Set t f).errNum = s.errNum := rfl
@[simp] theorem State.l2Set_sampleNum (s : State) (t : Tag) (f : L2Line → L2Line) : (s.l2Set t f).sampleNum = s.sampleNum := rfl
@[simp] theorem State.l2Set_errs (s : State) (t : Tag) (f : L2Line → L2Line) : (s.l2Set t f).errs = s.errs := rfl
@[simp] theorem State.l2Set_chunks (s : State) (t : Tag) (f : L2Line → L2Line) : (s.l2Set t f).chunks = s.chunks := rfl
@[simp] theorem State.l2Set_worked (s : State) (t : Tag) (f : L2Line → L2Line) : (s.l2Set t f).worked = s.worked := rfl
@[simp] theorem State.l2Set_tests (s : State) (t : Tag) (f : L2Line → L2Line) : (s.l2Set t f).tests = s.tests := rfl
@[simp] theorem State.l2Set_ready (s : State) (t : Tag) (f : L2Line → L2Line) : (s.l2Set t f).ready = s.ready := rfl
@[simp] theorem State.l2Set_recovery (s : State) (t : Tag) (f : L2Line → L2Line) : (s.l2Set t f).recovery = s.recovery := rfl
@[simp] theorem State.l2Set_marg (s : State) (t : Tag) (f : L2Line → L2Line) : (s.l2Set t f).marg = s.marg := rfl
@[simp] theorem State.l2Set_mresult (s : State) (t : Tag) (f : L2Line → L2Line) : (s.l2Set t f).mresult = s.mresult := rfl
@[simp] theorem State.l2Set_mcmd (s : State) (t : Tag) (f : L2Line → L2Line) : (s.l2Set t f).mcmd = s.mcmd := rfl
@[simp] theorem State.l2Set_hostUp (s : State) (t : Tag) (f : L2Line → L2Line) : (s.l2Set t f).hostUp = s.hostUp := rfl
@[simp] theorem State.l2Set_hostDown (s : State) (t : Tag) (f : L2Line → L2Line) : (s.l2Set t f).hostDown = s.hostDown := rfl
@[simp] theorem State.l2Set_hostSince (s : State) (t : Tag) (f : L2Line → L2Line) : (s.l2Set t f).hostSince = s.hostSince := rfl
@[simp] theorem State.l2Set_portsDown (s : State) (t : Tag) (f : L2Line → L2Line) : (s.l2Set t f).portsDown = s.portsDown := rfl
@[simp] theorem State.l2Set_flash (s : State) (t : Tag) (f : L2Line → L2Line) : (s.l2Set t f).flash = s.flash := rfl
@[simp] theorem State.l2Set_wear (s : State) (t : Tag) (f : L2Line → L2Line) : (s.l2Set t f).wear = s.wear := rfl
@[simp] theorem State.l2Set_image (s : State) (t : Tag) (f : L2Line → L2Line) : (s.l2Set t f).image = s.image := rfl
@[simp] theorem State.l2Set_debugger (s : State) (t : Tag) (f : L2Line → L2Line) : (s.l2Set t f).debugger = s.debugger := rfl

/-! ## `l1Keep` -/

@[simp] theorem State.l1Keep_events (s : State) (t : Tag) (ks : List Nat) : (s.l1Keep t ks).events = s.events := rfl
@[simp] theorem State.l1Keep_cur (s : State) (t : Tag) (ks : List Nat) : (s.l1Keep t ks).cur = s.cur := rfl
@[simp] theorem State.l1Keep_choices (s : State) (t : Tag) (ks : List Nat) : (s.l1Keep t ks).choices = s.choices := rfl
@[simp] theorem State.l1Keep_nextId (s : State) (t : Tag) (ks : List Nat) : (s.l1Keep t ks).nextId = s.nextId := rfl
@[simp] theorem State.l1Keep_ctxs (s : State) (t : Tag) (ks : List Nat) : (s.l1Keep t ks).ctxs = s.ctxs := rfl
@[simp] theorem State.l1Keep_cores (s : State) (t : Tag) (ks : List Nat) : (s.l1Keep t ks).cores = s.cores := rfl
@[simp] theorem State.l1Keep_regmem (s : State) (t : Tag) (ks : List Nat) : (s.l1Keep t ks).regmem = s.regmem := rfl
@[simp] theorem State.l1Keep_banks (s : State) (t : Tag) (ks : List Nat) : (s.l1Keep t ks).banks = s.banks := rfl
@[simp] theorem State.l1Keep_shares (s : State) (t : Tag) (ks : List Nat) : (s.l1Keep t ks).shares = s.shares := rfl
@[simp] theorem State.l1Keep_mem (s : State) (t : Tag) (ks : List Nat) : (s.l1Keep t ks).mem = s.mem := rfl
@[simp] theorem State.l1Keep_l2 (s : State) (t : Tag) (ks : List Nat) : (s.l1Keep t ks).l2 = s.l2 := rfl
@[simp] theorem State.l1Keep_poison (s : State) (t : Tag) (ks : List Nat) : (s.l1Keep t ks).poison = s.poison := rfl
@[simp] theorem State.l1Keep_accs (s : State) (t : Tag) (ks : List Nat) : (s.l1Keep t ks).accs = s.accs := rfl
@[simp] theorem State.l1Keep_arrivals (s : State) (t : Tag) (ks : List Nat) : (s.l1Keep t ks).arrivals = s.arrivals := rfl
@[simp] theorem State.l1Keep_cycle (s : State) (t : Tag) (ks : List Nat) : (s.l1Keep t ks).cycle = s.cycle := rfl
@[simp] theorem State.l1Keep_epoch (s : State) (t : Tag) (ks : List Nat) : (s.l1Keep t ks).epoch = s.epoch := rfl
@[simp] theorem State.l1Keep_closed (s : State) (t : Tag) (ks : List Nat) : (s.l1Keep t ks).closed = s.closed := rfl
@[simp] theorem State.l1Keep_wheel (s : State) (t : Tag) (ks : List Nat) : (s.l1Keep t ks).wheel = s.wheel := rfl
@[simp] theorem State.l1Keep_forms (s : State) (t : Tag) (ks : List Nat) : (s.l1Keep t ks).forms = s.forms := rfl
@[simp] theorem State.l1Keep_recs (s : State) (t : Tag) (ks : List Nat) : (s.l1Keep t ks).recs = s.recs := rfl
@[simp] theorem State.l1Keep_tasks (s : State) (t : Tag) (ks : List Nat) : (s.l1Keep t ks).tasks = s.tasks := rfl
@[simp] theorem State.l1Keep_insts (s : State) (t : Tag) (ks : List Nat) : (s.l1Keep t ks).insts = s.insts := rfl
@[simp] theorem State.l1Keep_queues (s : State) (t : Tag) (ks : List Nat) : (s.l1Keep t ks).queues = s.queues := rfl
@[simp] theorem State.l1Keep_doms (s : State) (t : Tag) (ks : List Nat) : (s.l1Keep t ks).doms = s.doms := rfl
@[simp] theorem State.l1Keep_rotor (s : State) (t : Tag) (ks : List Nat) : (s.l1Keep t ks).rotor = s.rotor := rfl
@[simp] theorem State.l1Keep_resid (s : State) (t : Tag) (ks : List Nat) : (s.l1Keep t ks).resid = s.resid := rfl
@[simp] theorem State.l1Keep_swFirst (s : State) (t : Tag) (ks : List Nat) : (s.l1Keep t ks).swFirst = s.swFirst := rfl
@[simp] theorem State.l1Keep_rev (s : State) (t : Tag) (ks : List Nat) : (s.l1Keep t ks).rev = s.rev := rfl
@[simp] theorem State.l1Keep_lastSeq (s : State) (t : Tag) (ks : List Nat) : (s.l1Keep t ks).lastSeq = s.lastSeq := rfl
@[simp] theorem State.l1Keep_drops (s : State) (t : Tag) (ks : List Nat) : (s.l1Keep t ks).drops = s.drops := rfl
@[simp] theorem State.l1Keep_latches (s : State) (t : Tag) (ks : List Nat) : (s.l1Keep t ks).latches = s.latches := rfl
@[simp] theorem State.l1Keep_grads (s : State) (t : Tag) (ks : List Nat) : (s.l1Keep t ks).grads = s.grads := rfl
@[simp] theorem State.l1Keep_lines (s : State) (t : Tag) (ks : List Nat) : (s.l1Keep t ks).lines = s.lines := rfl
@[simp] theorem State.l1Keep_colls (s : State) (t : Tag) (ks : List Nat) : (s.l1Keep t ks).colls = s.colls := rfl
@[simp] theorem State.l1Keep_notices (s : State) (t : Tag) (ks : List Nat) : (s.l1Keep t ks).notices = s.notices := rfl
@[simp] theorem State.l1Keep_visit (s : State) (t : Tag) (ks : List Nat) : (s.l1Keep t ks).visit = s.visit := rfl
@[simp] theorem State.l1Keep_credits (s : State) (t : Tag) (ks : List Nat) : (s.l1Keep t ks).credits = s.credits := rfl
@[simp] theorem State.l1Keep_launchQ (s : State) (t : Tag) (ks : List Nat) : (s.l1Keep t ks).launchQ = s.launchQ := rfl
@[simp] theorem State.l1Keep_objs (s : State) (t : Tag) (ks : List Nat) : (s.l1Keep t ks).objs = s.objs := rfl
@[simp] theorem State.l1Keep_backing (s : State) (t : Tag) (ks : List Nat) : (s.l1Keep t ks).backing = s.backing := rfl
@[simp] theorem State.l1Keep_codegen (s : State) (t : Tag) (ks : List Nat) : (s.l1Keep t ks).codegen = s.codegen := rfl
@[simp] theorem State.l1Keep_poolPtr (s : State) (t : Tag) (ks : List Nat) : (s.l1Keep t ks).poolPtr = s.poolPtr := rfl
@[simp] theorem State.l1Keep_poolFree (s : State) (t : Tag) (ks : List Nat) : (s.l1Keep t ks).poolFree = s.poolFree := rfl
@[simp] theorem State.l1Keep_withdrawn (s : State) (t : Tag) (ks : List Nat) : (s.l1Keep t ks).withdrawn = s.withdrawn := rfl
@[simp] theorem State.l1Keep_derate (s : State) (t : Tag) (ks : List Nat) : (s.l1Keep t ks).derate = s.derate := rfl
@[simp] theorem State.l1Keep_narrow (s : State) (t : Tag) (ks : List Nat) : (s.l1Keep t ks).narrow = s.narrow := rfl
@[simp] theorem State.l1Keep_thresh (s : State) (t : Tag) (ks : List Nat) : (s.l1Keep t ks).thresh = s.thresh := rfl
@[simp] theorem State.l1Keep_dramCnt (s : State) (t : Tag) (ks : List Nat) : (s.l1Keep t ks).dramCnt = s.dramCnt := rfl
@[simp] theorem State.l1Keep_sramCnt (s : State) (t : Tag) (ks : List Nat) : (s.l1Keep t ks).sramCnt = s.sramCnt := rfl
@[simp] theorem State.l1Keep_retries (s : State) (t : Tag) (ks : List Nat) : (s.l1Keep t ks).retries = s.retries := rfl
@[simp] theorem State.l1Keep_retrains (s : State) (t : Tag) (ks : List Nat) : (s.l1Keep t ks).retrains = s.retrains := rfl
@[simp] theorem State.l1Keep_eye (s : State) (t : Tag) (ks : List Nat) : (s.l1Keep t ks).eye = s.eye := rfl
@[simp] theorem State.l1Keep_hours (s : State) (t : Tag) (ks : List Nat) : (s.l1Keep t ks).hours = s.hours := rfl
@[simp] theorem State.l1Keep_conf (s : State) (t : Tag) (ks : List Nat) : (s.l1Keep t ks).conf = s.conf := rfl
@[simp] theorem State.l1Keep_limit (s : State) (t : Tag) (ks : List Nat) : (s.l1Keep t ks).limit = s.limit := rfl
@[simp] theorem State.l1Keep_driftOf (s : State) (t : Tag) (ks : List Nat) : (s.l1Keep t ks).driftOf = s.driftOf := rfl
@[simp] theorem State.l1Keep_samples (s : State) (t : Tag) (ks : List Nat) : (s.l1Keep t ks).samples = s.samples := rfl
@[simp] theorem State.l1Keep_shareNum (s : State) (t : Tag) (ks : List Nat) : (s.l1Keep t ks).shareNum = s.shareNum := rfl
@[simp] theorem State.l1Keep_errNum (s : State) (t : Tag) (ks : List Nat) : (s.l1Keep t ks).errNum = s.errNum := rfl
@[simp] theorem State.l1Keep_sampleNum (s : State) (t : Tag) (ks : List Nat) : (s.l1Keep t ks).sampleNum = s.sampleNum := rfl
@[simp] theorem State.l1Keep_errs (s : State) (t : Tag) (ks : List Nat) : (s.l1Keep t ks).errs = s.errs := rfl
@[simp] theorem State.l1Keep_chunks (s : State) (t : Tag) (ks : List Nat) : (s.l1Keep t ks).chunks = s.chunks := rfl
@[simp] theorem State.l1Keep_worked (s : State) (t : Tag) (ks : List Nat) : (s.l1Keep t ks).worked = s.worked := rfl
@[simp] theorem State.l1Keep_tests (s : State) (t : Tag) (ks : List Nat) : (s.l1Keep t ks).tests = s.tests := rfl
@[simp] theorem State.l1Keep_ready (s : State) (t : Tag) (ks : List Nat) : (s.l1Keep t ks).ready = s.ready := rfl
@[simp] theorem State.l1Keep_recovery (s : State) (t : Tag) (ks : List Nat) : (s.l1Keep t ks).recovery = s.recovery := rfl
@[simp] theorem State.l1Keep_marg (s : State) (t : Tag) (ks : List Nat) : (s.l1Keep t ks).marg = s.marg := rfl
@[simp] theorem State.l1Keep_mresult (s : State) (t : Tag) (ks : List Nat) : (s.l1Keep t ks).mresult = s.mresult := rfl
@[simp] theorem State.l1Keep_mcmd (s : State) (t : Tag) (ks : List Nat) : (s.l1Keep t ks).mcmd = s.mcmd := rfl
@[simp] theorem State.l1Keep_hostUp (s : State) (t : Tag) (ks : List Nat) : (s.l1Keep t ks).hostUp = s.hostUp := rfl
@[simp] theorem State.l1Keep_hostDown (s : State) (t : Tag) (ks : List Nat) : (s.l1Keep t ks).hostDown = s.hostDown := rfl
@[simp] theorem State.l1Keep_hostSince (s : State) (t : Tag) (ks : List Nat) : (s.l1Keep t ks).hostSince = s.hostSince := rfl
@[simp] theorem State.l1Keep_portsDown (s : State) (t : Tag) (ks : List Nat) : (s.l1Keep t ks).portsDown = s.portsDown := rfl
@[simp] theorem State.l1Keep_flash (s : State) (t : Tag) (ks : List Nat) : (s.l1Keep t ks).flash = s.flash := rfl
@[simp] theorem State.l1Keep_wear (s : State) (t : Tag) (ks : List Nat) : (s.l1Keep t ks).wear = s.wear := rfl
@[simp] theorem State.l1Keep_image (s : State) (t : Tag) (ks : List Nat) : (s.l1Keep t ks).image = s.image := rfl
@[simp] theorem State.l1Keep_debugger (s : State) (t : Tag) (ks : List Nat) : (s.l1Keep t ks).debugger = s.debugger := rfl

/-! ## `memWrite` -/

@[simp] theorem State.memWrite_events (s : State) (ws : List (Nat × Byte)) : (s.memWrite ws).events = s.events := rfl
@[simp] theorem State.memWrite_cur (s : State) (ws : List (Nat × Byte)) : (s.memWrite ws).cur = s.cur := rfl
@[simp] theorem State.memWrite_choices (s : State) (ws : List (Nat × Byte)) : (s.memWrite ws).choices = s.choices := rfl
@[simp] theorem State.memWrite_nextId (s : State) (ws : List (Nat × Byte)) : (s.memWrite ws).nextId = s.nextId := rfl
@[simp] theorem State.memWrite_ctxs (s : State) (ws : List (Nat × Byte)) : (s.memWrite ws).ctxs = s.ctxs := rfl
@[simp] theorem State.memWrite_cores (s : State) (ws : List (Nat × Byte)) : (s.memWrite ws).cores = s.cores := rfl
@[simp] theorem State.memWrite_regmem (s : State) (ws : List (Nat × Byte)) : (s.memWrite ws).regmem = s.regmem := rfl
@[simp] theorem State.memWrite_banks (s : State) (ws : List (Nat × Byte)) : (s.memWrite ws).banks = s.banks := rfl
@[simp] theorem State.memWrite_shares (s : State) (ws : List (Nat × Byte)) : (s.memWrite ws).shares = s.shares := rfl
@[simp] theorem State.memWrite_poison (s : State) (ws : List (Nat × Byte)) : (s.memWrite ws).poison = s.poison := rfl
@[simp] theorem State.memWrite_accs (s : State) (ws : List (Nat × Byte)) : (s.memWrite ws).accs = s.accs := rfl
@[simp] theorem State.memWrite_arrivals (s : State) (ws : List (Nat × Byte)) : (s.memWrite ws).arrivals = s.arrivals := rfl
@[simp] theorem State.memWrite_cycle (s : State) (ws : List (Nat × Byte)) : (s.memWrite ws).cycle = s.cycle := rfl
@[simp] theorem State.memWrite_epoch (s : State) (ws : List (Nat × Byte)) : (s.memWrite ws).epoch = s.epoch := rfl
@[simp] theorem State.memWrite_closed (s : State) (ws : List (Nat × Byte)) : (s.memWrite ws).closed = s.closed := rfl
@[simp] theorem State.memWrite_wheel (s : State) (ws : List (Nat × Byte)) : (s.memWrite ws).wheel = s.wheel := rfl
@[simp] theorem State.memWrite_forms (s : State) (ws : List (Nat × Byte)) : (s.memWrite ws).forms = s.forms := rfl
@[simp] theorem State.memWrite_recs (s : State) (ws : List (Nat × Byte)) : (s.memWrite ws).recs = s.recs := rfl
@[simp] theorem State.memWrite_tasks (s : State) (ws : List (Nat × Byte)) : (s.memWrite ws).tasks = s.tasks := rfl
@[simp] theorem State.memWrite_insts (s : State) (ws : List (Nat × Byte)) : (s.memWrite ws).insts = s.insts := rfl
@[simp] theorem State.memWrite_queues (s : State) (ws : List (Nat × Byte)) : (s.memWrite ws).queues = s.queues := rfl
@[simp] theorem State.memWrite_doms (s : State) (ws : List (Nat × Byte)) : (s.memWrite ws).doms = s.doms := rfl
@[simp] theorem State.memWrite_rotor (s : State) (ws : List (Nat × Byte)) : (s.memWrite ws).rotor = s.rotor := rfl
@[simp] theorem State.memWrite_resid (s : State) (ws : List (Nat × Byte)) : (s.memWrite ws).resid = s.resid := rfl
@[simp] theorem State.memWrite_swFirst (s : State) (ws : List (Nat × Byte)) : (s.memWrite ws).swFirst = s.swFirst := rfl
@[simp] theorem State.memWrite_rev (s : State) (ws : List (Nat × Byte)) : (s.memWrite ws).rev = s.rev := rfl
@[simp] theorem State.memWrite_lastSeq (s : State) (ws : List (Nat × Byte)) : (s.memWrite ws).lastSeq = s.lastSeq := rfl
@[simp] theorem State.memWrite_drops (s : State) (ws : List (Nat × Byte)) : (s.memWrite ws).drops = s.drops := rfl
@[simp] theorem State.memWrite_latches (s : State) (ws : List (Nat × Byte)) : (s.memWrite ws).latches = s.latches := rfl
@[simp] theorem State.memWrite_grads (s : State) (ws : List (Nat × Byte)) : (s.memWrite ws).grads = s.grads := rfl
@[simp] theorem State.memWrite_lines (s : State) (ws : List (Nat × Byte)) : (s.memWrite ws).lines = s.lines := rfl
@[simp] theorem State.memWrite_colls (s : State) (ws : List (Nat × Byte)) : (s.memWrite ws).colls = s.colls := rfl
@[simp] theorem State.memWrite_notices (s : State) (ws : List (Nat × Byte)) : (s.memWrite ws).notices = s.notices := rfl
@[simp] theorem State.memWrite_visit (s : State) (ws : List (Nat × Byte)) : (s.memWrite ws).visit = s.visit := rfl
@[simp] theorem State.memWrite_credits (s : State) (ws : List (Nat × Byte)) : (s.memWrite ws).credits = s.credits := rfl
@[simp] theorem State.memWrite_launchQ (s : State) (ws : List (Nat × Byte)) : (s.memWrite ws).launchQ = s.launchQ := rfl
@[simp] theorem State.memWrite_objs (s : State) (ws : List (Nat × Byte)) : (s.memWrite ws).objs = s.objs := rfl
@[simp] theorem State.memWrite_backing (s : State) (ws : List (Nat × Byte)) : (s.memWrite ws).backing = s.backing := rfl
@[simp] theorem State.memWrite_codegen (s : State) (ws : List (Nat × Byte)) : (s.memWrite ws).codegen = s.codegen := rfl
@[simp] theorem State.memWrite_poolPtr (s : State) (ws : List (Nat × Byte)) : (s.memWrite ws).poolPtr = s.poolPtr := rfl
@[simp] theorem State.memWrite_poolFree (s : State) (ws : List (Nat × Byte)) : (s.memWrite ws).poolFree = s.poolFree := rfl
@[simp] theorem State.memWrite_withdrawn (s : State) (ws : List (Nat × Byte)) : (s.memWrite ws).withdrawn = s.withdrawn := rfl
@[simp] theorem State.memWrite_derate (s : State) (ws : List (Nat × Byte)) : (s.memWrite ws).derate = s.derate := rfl
@[simp] theorem State.memWrite_narrow (s : State) (ws : List (Nat × Byte)) : (s.memWrite ws).narrow = s.narrow := rfl
@[simp] theorem State.memWrite_thresh (s : State) (ws : List (Nat × Byte)) : (s.memWrite ws).thresh = s.thresh := rfl
@[simp] theorem State.memWrite_dramCnt (s : State) (ws : List (Nat × Byte)) : (s.memWrite ws).dramCnt = s.dramCnt := rfl
@[simp] theorem State.memWrite_sramCnt (s : State) (ws : List (Nat × Byte)) : (s.memWrite ws).sramCnt = s.sramCnt := rfl
@[simp] theorem State.memWrite_retries (s : State) (ws : List (Nat × Byte)) : (s.memWrite ws).retries = s.retries := rfl
@[simp] theorem State.memWrite_retrains (s : State) (ws : List (Nat × Byte)) : (s.memWrite ws).retrains = s.retrains := rfl
@[simp] theorem State.memWrite_eye (s : State) (ws : List (Nat × Byte)) : (s.memWrite ws).eye = s.eye := rfl
@[simp] theorem State.memWrite_hours (s : State) (ws : List (Nat × Byte)) : (s.memWrite ws).hours = s.hours := rfl
@[simp] theorem State.memWrite_conf (s : State) (ws : List (Nat × Byte)) : (s.memWrite ws).conf = s.conf := rfl
@[simp] theorem State.memWrite_limit (s : State) (ws : List (Nat × Byte)) : (s.memWrite ws).limit = s.limit := rfl
@[simp] theorem State.memWrite_driftOf (s : State) (ws : List (Nat × Byte)) : (s.memWrite ws).driftOf = s.driftOf := rfl
@[simp] theorem State.memWrite_samples (s : State) (ws : List (Nat × Byte)) : (s.memWrite ws).samples = s.samples := rfl
@[simp] theorem State.memWrite_shareNum (s : State) (ws : List (Nat × Byte)) : (s.memWrite ws).shareNum = s.shareNum := rfl
@[simp] theorem State.memWrite_errNum (s : State) (ws : List (Nat × Byte)) : (s.memWrite ws).errNum = s.errNum := rfl
@[simp] theorem State.memWrite_sampleNum (s : State) (ws : List (Nat × Byte)) : (s.memWrite ws).sampleNum = s.sampleNum := rfl
@[simp] theorem State.memWrite_errs (s : State) (ws : List (Nat × Byte)) : (s.memWrite ws).errs = s.errs := rfl
@[simp] theorem State.memWrite_chunks (s : State) (ws : List (Nat × Byte)) : (s.memWrite ws).chunks = s.chunks := rfl
@[simp] theorem State.memWrite_worked (s : State) (ws : List (Nat × Byte)) : (s.memWrite ws).worked = s.worked := rfl
@[simp] theorem State.memWrite_tests (s : State) (ws : List (Nat × Byte)) : (s.memWrite ws).tests = s.tests := rfl
@[simp] theorem State.memWrite_ready (s : State) (ws : List (Nat × Byte)) : (s.memWrite ws).ready = s.ready := rfl
@[simp] theorem State.memWrite_recovery (s : State) (ws : List (Nat × Byte)) : (s.memWrite ws).recovery = s.recovery := rfl
@[simp] theorem State.memWrite_marg (s : State) (ws : List (Nat × Byte)) : (s.memWrite ws).marg = s.marg := rfl
@[simp] theorem State.memWrite_mresult (s : State) (ws : List (Nat × Byte)) : (s.memWrite ws).mresult = s.mresult := rfl
@[simp] theorem State.memWrite_mcmd (s : State) (ws : List (Nat × Byte)) : (s.memWrite ws).mcmd = s.mcmd := rfl
@[simp] theorem State.memWrite_hostUp (s : State) (ws : List (Nat × Byte)) : (s.memWrite ws).hostUp = s.hostUp := rfl
@[simp] theorem State.memWrite_hostDown (s : State) (ws : List (Nat × Byte)) : (s.memWrite ws).hostDown = s.hostDown := rfl
@[simp] theorem State.memWrite_hostSince (s : State) (ws : List (Nat × Byte)) : (s.memWrite ws).hostSince = s.hostSince := rfl
@[simp] theorem State.memWrite_portsDown (s : State) (ws : List (Nat × Byte)) : (s.memWrite ws).portsDown = s.portsDown := rfl
@[simp] theorem State.memWrite_flash (s : State) (ws : List (Nat × Byte)) : (s.memWrite ws).flash = s.flash := rfl
@[simp] theorem State.memWrite_wear (s : State) (ws : List (Nat × Byte)) : (s.memWrite ws).wear = s.wear := rfl
@[simp] theorem State.memWrite_image (s : State) (ws : List (Nat × Byte)) : (s.memWrite ws).image = s.image := rfl
@[simp] theorem State.memWrite_debugger (s : State) (ws : List (Nat × Byte)) : (s.memWrite ws).debugger = s.debugger := rfl

/-! ## `clearKeys` -/

@[simp] theorem State.clearKeys_events (s : State) (lo n : Nat) : (s.clearKeys lo n).events = s.events := rfl
@[simp] theorem State.clearKeys_cur (s : State) (lo n : Nat) : (s.clearKeys lo n).cur = s.cur := rfl
@[simp] theorem State.clearKeys_choices (s : State) (lo n : Nat) : (s.clearKeys lo n).choices = s.choices := rfl
@[simp] theorem State.clearKeys_nextId (s : State) (lo n : Nat) : (s.clearKeys lo n).nextId = s.nextId := rfl
@[simp] theorem State.clearKeys_ctxs (s : State) (lo n : Nat) : (s.clearKeys lo n).ctxs = s.ctxs := rfl
@[simp] theorem State.clearKeys_cores (s : State) (lo n : Nat) : (s.clearKeys lo n).cores = s.cores := rfl
@[simp] theorem State.clearKeys_regmem (s : State) (lo n : Nat) : (s.clearKeys lo n).regmem = s.regmem := rfl
@[simp] theorem State.clearKeys_banks (s : State) (lo n : Nat) : (s.clearKeys lo n).banks = s.banks := rfl
@[simp] theorem State.clearKeys_shares (s : State) (lo n : Nat) : (s.clearKeys lo n).shares = s.shares := rfl
@[simp] theorem State.clearKeys_accs (s : State) (lo n : Nat) : (s.clearKeys lo n).accs = s.accs := rfl
@[simp] theorem State.clearKeys_arrivals (s : State) (lo n : Nat) : (s.clearKeys lo n).arrivals = s.arrivals := rfl
@[simp] theorem State.clearKeys_cycle (s : State) (lo n : Nat) : (s.clearKeys lo n).cycle = s.cycle := rfl
@[simp] theorem State.clearKeys_epoch (s : State) (lo n : Nat) : (s.clearKeys lo n).epoch = s.epoch := rfl
@[simp] theorem State.clearKeys_closed (s : State) (lo n : Nat) : (s.clearKeys lo n).closed = s.closed := rfl
@[simp] theorem State.clearKeys_wheel (s : State) (lo n : Nat) : (s.clearKeys lo n).wheel = s.wheel := rfl
@[simp] theorem State.clearKeys_forms (s : State) (lo n : Nat) : (s.clearKeys lo n).forms = s.forms := rfl
@[simp] theorem State.clearKeys_recs (s : State) (lo n : Nat) : (s.clearKeys lo n).recs = s.recs := rfl
@[simp] theorem State.clearKeys_tasks (s : State) (lo n : Nat) : (s.clearKeys lo n).tasks = s.tasks := rfl
@[simp] theorem State.clearKeys_insts (s : State) (lo n : Nat) : (s.clearKeys lo n).insts = s.insts := rfl
@[simp] theorem State.clearKeys_queues (s : State) (lo n : Nat) : (s.clearKeys lo n).queues = s.queues := rfl
@[simp] theorem State.clearKeys_doms (s : State) (lo n : Nat) : (s.clearKeys lo n).doms = s.doms := rfl
@[simp] theorem State.clearKeys_rotor (s : State) (lo n : Nat) : (s.clearKeys lo n).rotor = s.rotor := rfl
@[simp] theorem State.clearKeys_l1 (s : State) (lo n : Nat) : (s.clearKeys lo n).l1 = s.l1 := rfl
@[simp] theorem State.clearKeys_resid (s : State) (lo n : Nat) : (s.clearKeys lo n).resid = s.resid := rfl
@[simp] theorem State.clearKeys_l2 (s : State) (lo n : Nat) : (s.clearKeys lo n).l2 = s.l2 := rfl
@[simp] theorem State.clearKeys_swFirst (s : State) (lo n : Nat) : (s.clearKeys lo n).swFirst = s.swFirst := rfl
@[simp] theorem State.clearKeys_rev (s : State) (lo n : Nat) : (s.clearKeys lo n).rev = s.rev := rfl
@[simp] theorem State.clearKeys_lastSeq (s : State) (lo n : Nat) : (s.clearKeys lo n).lastSeq = s.lastSeq := rfl
@[simp] theorem State.clearKeys_drops (s : State) (lo n : Nat) : (s.clearKeys lo n).drops = s.drops := rfl
@[simp] theorem State.clearKeys_latches (s : State) (lo n : Nat) : (s.clearKeys lo n).latches = s.latches := rfl
@[simp] theorem State.clearKeys_grads (s : State) (lo n : Nat) : (s.clearKeys lo n).grads = s.grads := rfl
@[simp] theorem State.clearKeys_lines (s : State) (lo n : Nat) : (s.clearKeys lo n).lines = s.lines := rfl
@[simp] theorem State.clearKeys_colls (s : State) (lo n : Nat) : (s.clearKeys lo n).colls = s.colls := rfl
@[simp] theorem State.clearKeys_notices (s : State) (lo n : Nat) : (s.clearKeys lo n).notices = s.notices := rfl
@[simp] theorem State.clearKeys_visit (s : State) (lo n : Nat) : (s.clearKeys lo n).visit = s.visit := rfl
@[simp] theorem State.clearKeys_credits (s : State) (lo n : Nat) : (s.clearKeys lo n).credits = s.credits := rfl
@[simp] theorem State.clearKeys_launchQ (s : State) (lo n : Nat) : (s.clearKeys lo n).launchQ = s.launchQ := rfl
@[simp] theorem State.clearKeys_objs (s : State) (lo n : Nat) : (s.clearKeys lo n).objs = s.objs := rfl
@[simp] theorem State.clearKeys_backing (s : State) (lo n : Nat) : (s.clearKeys lo n).backing = s.backing := rfl
@[simp] theorem State.clearKeys_codegen (s : State) (lo n : Nat) : (s.clearKeys lo n).codegen = s.codegen := rfl
@[simp] theorem State.clearKeys_poolPtr (s : State) (lo n : Nat) : (s.clearKeys lo n).poolPtr = s.poolPtr := rfl
@[simp] theorem State.clearKeys_poolFree (s : State) (lo n : Nat) : (s.clearKeys lo n).poolFree = s.poolFree := rfl
@[simp] theorem State.clearKeys_withdrawn (s : State) (lo n : Nat) : (s.clearKeys lo n).withdrawn = s.withdrawn := rfl
@[simp] theorem State.clearKeys_derate (s : State) (lo n : Nat) : (s.clearKeys lo n).derate = s.derate := rfl
@[simp] theorem State.clearKeys_narrow (s : State) (lo n : Nat) : (s.clearKeys lo n).narrow = s.narrow := rfl
@[simp] theorem State.clearKeys_thresh (s : State) (lo n : Nat) : (s.clearKeys lo n).thresh = s.thresh := rfl
@[simp] theorem State.clearKeys_dramCnt (s : State) (lo n : Nat) : (s.clearKeys lo n).dramCnt = s.dramCnt := rfl
@[simp] theorem State.clearKeys_sramCnt (s : State) (lo n : Nat) : (s.clearKeys lo n).sramCnt = s.sramCnt := rfl
@[simp] theorem State.clearKeys_retries (s : State) (lo n : Nat) : (s.clearKeys lo n).retries = s.retries := rfl
@[simp] theorem State.clearKeys_retrains (s : State) (lo n : Nat) : (s.clearKeys lo n).retrains = s.retrains := rfl
@[simp] theorem State.clearKeys_eye (s : State) (lo n : Nat) : (s.clearKeys lo n).eye = s.eye := rfl
@[simp] theorem State.clearKeys_hours (s : State) (lo n : Nat) : (s.clearKeys lo n).hours = s.hours := rfl
@[simp] theorem State.clearKeys_conf (s : State) (lo n : Nat) : (s.clearKeys lo n).conf = s.conf := rfl
@[simp] theorem State.clearKeys_limit (s : State) (lo n : Nat) : (s.clearKeys lo n).limit = s.limit := rfl
@[simp] theorem State.clearKeys_driftOf (s : State) (lo n : Nat) : (s.clearKeys lo n).driftOf = s.driftOf := rfl
@[simp] theorem State.clearKeys_samples (s : State) (lo n : Nat) : (s.clearKeys lo n).samples = s.samples := rfl
@[simp] theorem State.clearKeys_shareNum (s : State) (lo n : Nat) : (s.clearKeys lo n).shareNum = s.shareNum := rfl
@[simp] theorem State.clearKeys_errNum (s : State) (lo n : Nat) : (s.clearKeys lo n).errNum = s.errNum := rfl
@[simp] theorem State.clearKeys_sampleNum (s : State) (lo n : Nat) : (s.clearKeys lo n).sampleNum = s.sampleNum := rfl
@[simp] theorem State.clearKeys_errs (s : State) (lo n : Nat) : (s.clearKeys lo n).errs = s.errs := rfl
@[simp] theorem State.clearKeys_chunks (s : State) (lo n : Nat) : (s.clearKeys lo n).chunks = s.chunks := rfl
@[simp] theorem State.clearKeys_worked (s : State) (lo n : Nat) : (s.clearKeys lo n).worked = s.worked := rfl
@[simp] theorem State.clearKeys_tests (s : State) (lo n : Nat) : (s.clearKeys lo n).tests = s.tests := rfl
@[simp] theorem State.clearKeys_ready (s : State) (lo n : Nat) : (s.clearKeys lo n).ready = s.ready := rfl
@[simp] theorem State.clearKeys_recovery (s : State) (lo n : Nat) : (s.clearKeys lo n).recovery = s.recovery := rfl
@[simp] theorem State.clearKeys_marg (s : State) (lo n : Nat) : (s.clearKeys lo n).marg = s.marg := rfl
@[simp] theorem State.clearKeys_mresult (s : State) (lo n : Nat) : (s.clearKeys lo n).mresult = s.mresult := rfl
@[simp] theorem State.clearKeys_mcmd (s : State) (lo n : Nat) : (s.clearKeys lo n).mcmd = s.mcmd := rfl
@[simp] theorem State.clearKeys_hostUp (s : State) (lo n : Nat) : (s.clearKeys lo n).hostUp = s.hostUp := rfl
@[simp] theorem State.clearKeys_hostDown (s : State) (lo n : Nat) : (s.clearKeys lo n).hostDown = s.hostDown := rfl
@[simp] theorem State.clearKeys_hostSince (s : State) (lo n : Nat) : (s.clearKeys lo n).hostSince = s.hostSince := rfl
@[simp] theorem State.clearKeys_portsDown (s : State) (lo n : Nat) : (s.clearKeys lo n).portsDown = s.portsDown := rfl
@[simp] theorem State.clearKeys_flash (s : State) (lo n : Nat) : (s.clearKeys lo n).flash = s.flash := rfl
@[simp] theorem State.clearKeys_wear (s : State) (lo n : Nat) : (s.clearKeys lo n).wear = s.wear := rfl
@[simp] theorem State.clearKeys_image (s : State) (lo n : Nat) : (s.clearKeys lo n).image = s.image := rfl
@[simp] theorem State.clearKeys_debugger (s : State) (lo n : Nat) : (s.clearKeys lo n).debugger = s.debugger := rfl

/-! ## `onCore` -/

@[simp] theorem State.onCore_events (s : State) (k : Nat) (f : CoreSt → CoreSt) : (s.onCore k f).events = s.events := rfl
@[simp] theorem State.onCore_cur (s : State) (k : Nat) (f : CoreSt → CoreSt) : (s.onCore k f).cur = s.cur := rfl
@[simp] theorem State.onCore_choices (s : State) (k : Nat) (f : CoreSt → CoreSt) : (s.onCore k f).choices = s.choices := rfl
@[simp] theorem State.onCore_nextId (s : State) (k : Nat) (f : CoreSt → CoreSt) : (s.onCore k f).nextId = s.nextId := rfl
@[simp] theorem State.onCore_rotor (s : State) (k : Nat) (f : CoreSt → CoreSt) : (s.onCore k f).rotor = s.rotor := rfl
@[simp] theorem State.onCore_ctxs (s : State) (k : Nat) (f : CoreSt → CoreSt) : (s.onCore k f).ctxs = s.ctxs := rfl
@[simp] theorem State.onCore_regmem (s : State) (k : Nat) (f : CoreSt → CoreSt) : (s.onCore k f).regmem = s.regmem := rfl
@[simp] theorem State.onCore_banks (s : State) (k : Nat) (f : CoreSt → CoreSt) : (s.onCore k f).banks = s.banks := rfl
@[simp] theorem State.onCore_l1 (s : State) (k : Nat) (f : CoreSt → CoreSt) : (s.onCore k f).l1 = s.l1 := rfl
@[simp] theorem State.onCore_shares (s : State) (k : Nat) (f : CoreSt → CoreSt) : (s.onCore k f).shares = s.shares := rfl
@[simp] theorem State.onCore_resid (s : State) (k : Nat) (f : CoreSt → CoreSt) : (s.onCore k f).resid = s.resid := rfl
@[simp] theorem State.onCore_mem (s : State) (k : Nat) (f : CoreSt → CoreSt) : (s.onCore k f).mem = s.mem := rfl
@[simp] theorem State.onCore_l2 (s : State) (k : Nat) (f : CoreSt → CoreSt) : (s.onCore k f).l2 = s.l2 := rfl
@[simp] theorem State.onCore_poison (s : State) (k : Nat) (f : CoreSt → CoreSt) : (s.onCore k f).poison = s.poison := rfl
@[simp] theorem State.onCore_accs (s : State) (k : Nat) (f : CoreSt → CoreSt) : (s.onCore k f).accs = s.accs := rfl
@[simp] theorem State.onCore_arrivals (s : State) (k : Nat) (f : CoreSt → CoreSt) : (s.onCore k f).arrivals = s.arrivals := rfl
@[simp] theorem State.onCore_swFirst (s : State) (k : Nat) (f : CoreSt → CoreSt) : (s.onCore k f).swFirst = s.swFirst := rfl
@[simp] theorem State.onCore_cycle (s : State) (k : Nat) (f : CoreSt → CoreSt) : (s.onCore k f).cycle = s.cycle := rfl
@[simp] theorem State.onCore_epoch (s : State) (k : Nat) (f : CoreSt → CoreSt) : (s.onCore k f).epoch = s.epoch := rfl
@[simp] theorem State.onCore_closed (s : State) (k : Nat) (f : CoreSt → CoreSt) : (s.onCore k f).closed = s.closed := rfl
@[simp] theorem State.onCore_wheel (s : State) (k : Nat) (f : CoreSt → CoreSt) : (s.onCore k f).wheel = s.wheel := rfl
@[simp] theorem State.onCore_rev (s : State) (k : Nat) (f : CoreSt → CoreSt) : (s.onCore k f).rev = s.rev := rfl
@[simp] theorem State.onCore_lastSeq (s : State) (k : Nat) (f : CoreSt → CoreSt) : (s.onCore k f).lastSeq = s.lastSeq := rfl
@[simp] theorem State.onCore_forms (s : State) (k : Nat) (f : CoreSt → CoreSt) : (s.onCore k f).forms = s.forms := rfl
@[simp] theorem State.onCore_recs (s : State) (k : Nat) (f : CoreSt → CoreSt) : (s.onCore k f).recs = s.recs := rfl
@[simp] theorem State.onCore_drops (s : State) (k : Nat) (f : CoreSt → CoreSt) : (s.onCore k f).drops = s.drops := rfl
@[simp] theorem State.onCore_latches (s : State) (k : Nat) (f : CoreSt → CoreSt) : (s.onCore k f).latches = s.latches := rfl
@[simp] theorem State.onCore_grads (s : State) (k : Nat) (f : CoreSt → CoreSt) : (s.onCore k f).grads = s.grads := rfl
@[simp] theorem State.onCore_lines (s : State) (k : Nat) (f : CoreSt → CoreSt) : (s.onCore k f).lines = s.lines := rfl
@[simp] theorem State.onCore_colls (s : State) (k : Nat) (f : CoreSt → CoreSt) : (s.onCore k f).colls = s.colls := rfl
@[simp] theorem State.onCore_notices (s : State) (k : Nat) (f : CoreSt → CoreSt) : (s.onCore k f).notices = s.notices := rfl
@[simp] theorem State.onCore_queues (s : State) (k : Nat) (f : CoreSt → CoreSt) : (s.onCore k f).queues = s.queues := rfl
@[simp] theorem State.onCore_visit (s : State) (k : Nat) (f : CoreSt → CoreSt) : (s.onCore k f).visit = s.visit := rfl
@[simp] theorem State.onCore_tasks (s : State) (k : Nat) (f : CoreSt → CoreSt) : (s.onCore k f).tasks = s.tasks := rfl
@[simp] theorem State.onCore_insts (s : State) (k : Nat) (f : CoreSt → CoreSt) : (s.onCore k f).insts = s.insts := rfl
@[simp] theorem State.onCore_credits (s : State) (k : Nat) (f : CoreSt → CoreSt) : (s.onCore k f).credits = s.credits := rfl
@[simp] theorem State.onCore_launchQ (s : State) (k : Nat) (f : CoreSt → CoreSt) : (s.onCore k f).launchQ = s.launchQ := rfl
@[simp] theorem State.onCore_objs (s : State) (k : Nat) (f : CoreSt → CoreSt) : (s.onCore k f).objs = s.objs := rfl
@[simp] theorem State.onCore_doms (s : State) (k : Nat) (f : CoreSt → CoreSt) : (s.onCore k f).doms = s.doms := rfl
@[simp] theorem State.onCore_backing (s : State) (k : Nat) (f : CoreSt → CoreSt) : (s.onCore k f).backing = s.backing := rfl
@[simp] theorem State.onCore_codegen (s : State) (k : Nat) (f : CoreSt → CoreSt) : (s.onCore k f).codegen = s.codegen := rfl
@[simp] theorem State.onCore_poolPtr (s : State) (k : Nat) (f : CoreSt → CoreSt) : (s.onCore k f).poolPtr = s.poolPtr := rfl
@[simp] theorem State.onCore_poolFree (s : State) (k : Nat) (f : CoreSt → CoreSt) : (s.onCore k f).poolFree = s.poolFree := rfl
@[simp] theorem State.onCore_withdrawn (s : State) (k : Nat) (f : CoreSt → CoreSt) : (s.onCore k f).withdrawn = s.withdrawn := rfl
@[simp] theorem State.onCore_derate (s : State) (k : Nat) (f : CoreSt → CoreSt) : (s.onCore k f).derate = s.derate := rfl
@[simp] theorem State.onCore_narrow (s : State) (k : Nat) (f : CoreSt → CoreSt) : (s.onCore k f).narrow = s.narrow := rfl
@[simp] theorem State.onCore_thresh (s : State) (k : Nat) (f : CoreSt → CoreSt) : (s.onCore k f).thresh = s.thresh := rfl
@[simp] theorem State.onCore_dramCnt (s : State) (k : Nat) (f : CoreSt → CoreSt) : (s.onCore k f).dramCnt = s.dramCnt := rfl
@[simp] theorem State.onCore_sramCnt (s : State) (k : Nat) (f : CoreSt → CoreSt) : (s.onCore k f).sramCnt = s.sramCnt := rfl
@[simp] theorem State.onCore_retries (s : State) (k : Nat) (f : CoreSt → CoreSt) : (s.onCore k f).retries = s.retries := rfl
@[simp] theorem State.onCore_retrains (s : State) (k : Nat) (f : CoreSt → CoreSt) : (s.onCore k f).retrains = s.retrains := rfl
@[simp] theorem State.onCore_eye (s : State) (k : Nat) (f : CoreSt → CoreSt) : (s.onCore k f).eye = s.eye := rfl
@[simp] theorem State.onCore_hours (s : State) (k : Nat) (f : CoreSt → CoreSt) : (s.onCore k f).hours = s.hours := rfl
@[simp] theorem State.onCore_conf (s : State) (k : Nat) (f : CoreSt → CoreSt) : (s.onCore k f).conf = s.conf := rfl
@[simp] theorem State.onCore_limit (s : State) (k : Nat) (f : CoreSt → CoreSt) : (s.onCore k f).limit = s.limit := rfl
@[simp] theorem State.onCore_driftOf (s : State) (k : Nat) (f : CoreSt → CoreSt) : (s.onCore k f).driftOf = s.driftOf := rfl
@[simp] theorem State.onCore_samples (s : State) (k : Nat) (f : CoreSt → CoreSt) : (s.onCore k f).samples = s.samples := rfl
@[simp] theorem State.onCore_shareNum (s : State) (k : Nat) (f : CoreSt → CoreSt) : (s.onCore k f).shareNum = s.shareNum := rfl
@[simp] theorem State.onCore_errNum (s : State) (k : Nat) (f : CoreSt → CoreSt) : (s.onCore k f).errNum = s.errNum := rfl
@[simp] theorem State.onCore_sampleNum (s : State) (k : Nat) (f : CoreSt → CoreSt) : (s.onCore k f).sampleNum = s.sampleNum := rfl
@[simp] theorem State.onCore_errs (s : State) (k : Nat) (f : CoreSt → CoreSt) : (s.onCore k f).errs = s.errs := rfl
@[simp] theorem State.onCore_chunks (s : State) (k : Nat) (f : CoreSt → CoreSt) : (s.onCore k f).chunks = s.chunks := rfl
@[simp] theorem State.onCore_worked (s : State) (k : Nat) (f : CoreSt → CoreSt) : (s.onCore k f).worked = s.worked := rfl
@[simp] theorem State.onCore_tests (s : State) (k : Nat) (f : CoreSt → CoreSt) : (s.onCore k f).tests = s.tests := rfl
@[simp] theorem State.onCore_ready (s : State) (k : Nat) (f : CoreSt → CoreSt) : (s.onCore k f).ready = s.ready := rfl
@[simp] theorem State.onCore_recovery (s : State) (k : Nat) (f : CoreSt → CoreSt) : (s.onCore k f).recovery = s.recovery := rfl
@[simp] theorem State.onCore_marg (s : State) (k : Nat) (f : CoreSt → CoreSt) : (s.onCore k f).marg = s.marg := rfl
@[simp] theorem State.onCore_mresult (s : State) (k : Nat) (f : CoreSt → CoreSt) : (s.onCore k f).mresult = s.mresult := rfl
@[simp] theorem State.onCore_mcmd (s : State) (k : Nat) (f : CoreSt → CoreSt) : (s.onCore k f).mcmd = s.mcmd := rfl
@[simp] theorem State.onCore_hostUp (s : State) (k : Nat) (f : CoreSt → CoreSt) : (s.onCore k f).hostUp = s.hostUp := rfl
@[simp] theorem State.onCore_hostDown (s : State) (k : Nat) (f : CoreSt → CoreSt) : (s.onCore k f).hostDown = s.hostDown := rfl
@[simp] theorem State.onCore_hostSince (s : State) (k : Nat) (f : CoreSt → CoreSt) : (s.onCore k f).hostSince = s.hostSince := rfl
@[simp] theorem State.onCore_portsDown (s : State) (k : Nat) (f : CoreSt → CoreSt) : (s.onCore k f).portsDown = s.portsDown := rfl
@[simp] theorem State.onCore_flash (s : State) (k : Nat) (f : CoreSt → CoreSt) : (s.onCore k f).flash = s.flash := rfl
@[simp] theorem State.onCore_wear (s : State) (k : Nat) (f : CoreSt → CoreSt) : (s.onCore k f).wear = s.wear := rfl
@[simp] theorem State.onCore_image (s : State) (k : Nat) (f : CoreSt → CoreSt) : (s.onCore k f).image = s.image := rfl
@[simp] theorem State.onCore_debugger (s : State) (k : Nat) (f : CoreSt → CoreSt) : (s.onCore k f).debugger = s.debugger := rfl

/-! ## `onCtx` -/

@[simp] theorem State.onCtx_events (s : State) (a : Nat) (f : Ctx → Ctx) : (s.onCtx a f).events = s.events := by
  unfold State.onCtx; split <;> rfl
@[simp] theorem State.onCtx_cur (s : State) (a : Nat) (f : Ctx → Ctx) : (s.onCtx a f).cur = s.cur := by
  unfold State.onCtx; split <;> rfl
@[simp] theorem State.onCtx_choices (s : State) (a : Nat) (f : Ctx → Ctx) : (s.onCtx a f).choices = s.choices := by
  unfold State.onCtx; split <;> rfl
@[simp] theorem State.onCtx_nextId (s : State) (a : Nat) (f : Ctx → Ctx) : (s.onCtx a f).nextId = s.nextId := by
  unfold State.onCtx; split <;> rfl
@[simp] theorem State.onCtx_cores (s : State) (a : Nat) (f : Ctx → Ctx) : (s.onCtx a f).cores = s.cores := by
  unfold State.onCtx; split <;> rfl
@[simp] theorem State.onCtx_regmem (s : State) (a : Nat) (f : Ctx → Ctx) : (s.onCtx a f).regmem = s.regmem := by
  unfold State.onCtx; split <;> rfl
@[simp] theorem State.onCtx_banks (s : State) (a : Nat) (f : Ctx → Ctx) : (s.onCtx a f).banks = s.banks := by
  unfold State.onCtx; split <;> rfl
@[simp] theorem State.onCtx_l1 (s : State) (a : Nat) (f : Ctx → Ctx) : (s.onCtx a f).l1 = s.l1 := by
  unfold State.onCtx; split <;> rfl
@[simp] theorem State.onCtx_shares (s : State) (a : Nat) (f : Ctx → Ctx) : (s.onCtx a f).shares = s.shares := by
  unfold State.onCtx; split <;> rfl
@[simp] theorem State.onCtx_mem (s : State) (a : Nat) (f : Ctx → Ctx) : (s.onCtx a f).mem = s.mem := by
  unfold State.onCtx; split <;> rfl
@[simp] theorem State.onCtx_l2 (s : State) (a : Nat) (f : Ctx → Ctx) : (s.onCtx a f).l2 = s.l2 := by
  unfold State.onCtx; split <;> rfl
@[simp] theorem State.onCtx_poison (s : State) (a : Nat) (f : Ctx → Ctx) : (s.onCtx a f).poison = s.poison := by
  unfold State.onCtx; split <;> rfl
@[simp] theorem State.onCtx_accs (s : State) (a : Nat) (f : Ctx → Ctx) : (s.onCtx a f).accs = s.accs := by
  unfold State.onCtx; split <;> rfl
@[simp] theorem State.onCtx_arrivals (s : State) (a : Nat) (f : Ctx → Ctx) : (s.onCtx a f).arrivals = s.arrivals := by
  unfold State.onCtx; split <;> rfl
@[simp] theorem State.onCtx_cycle (s : State) (a : Nat) (f : Ctx → Ctx) : (s.onCtx a f).cycle = s.cycle := by
  unfold State.onCtx; split <;> rfl
@[simp] theorem State.onCtx_epoch (s : State) (a : Nat) (f : Ctx → Ctx) : (s.onCtx a f).epoch = s.epoch := by
  unfold State.onCtx; split <;> rfl
@[simp] theorem State.onCtx_closed (s : State) (a : Nat) (f : Ctx → Ctx) : (s.onCtx a f).closed = s.closed := by
  unfold State.onCtx; split <;> rfl
@[simp] theorem State.onCtx_wheel (s : State) (a : Nat) (f : Ctx → Ctx) : (s.onCtx a f).wheel = s.wheel := by
  unfold State.onCtx; split <;> rfl
@[simp] theorem State.onCtx_forms (s : State) (a : Nat) (f : Ctx → Ctx) : (s.onCtx a f).forms = s.forms := by
  unfold State.onCtx; split <;> rfl
@[simp] theorem State.onCtx_recs (s : State) (a : Nat) (f : Ctx → Ctx) : (s.onCtx a f).recs = s.recs := by
  unfold State.onCtx; split <;> rfl
@[simp] theorem State.onCtx_tasks (s : State) (a : Nat) (f : Ctx → Ctx) : (s.onCtx a f).tasks = s.tasks := by
  unfold State.onCtx; split <;> rfl
@[simp] theorem State.onCtx_insts (s : State) (a : Nat) (f : Ctx → Ctx) : (s.onCtx a f).insts = s.insts := by
  unfold State.onCtx; split <;> rfl
@[simp] theorem State.onCtx_queues (s : State) (a : Nat) (f : Ctx → Ctx) : (s.onCtx a f).queues = s.queues := by
  unfold State.onCtx; split <;> rfl
@[simp] theorem State.onCtx_doms (s : State) (a : Nat) (f : Ctx → Ctx) : (s.onCtx a f).doms = s.doms := by
  unfold State.onCtx; split <;> rfl
@[simp] theorem State.onCtx_rotor (s : State) (a : Nat) (f : Ctx → Ctx) : (s.onCtx a f).rotor = s.rotor := by
  unfold State.onCtx; split <;> rfl
@[simp] theorem State.onCtx_resid (s : State) (a : Nat) (f : Ctx → Ctx) : (s.onCtx a f).resid = s.resid := by
  unfold State.onCtx; split <;> rfl
@[simp] theorem State.onCtx_swFirst (s : State) (a : Nat) (f : Ctx → Ctx) : (s.onCtx a f).swFirst = s.swFirst := by
  unfold State.onCtx; split <;> rfl
@[simp] theorem State.onCtx_rev (s : State) (a : Nat) (f : Ctx → Ctx) : (s.onCtx a f).rev = s.rev := by
  unfold State.onCtx; split <;> rfl
@[simp] theorem State.onCtx_lastSeq (s : State) (a : Nat) (f : Ctx → Ctx) : (s.onCtx a f).lastSeq = s.lastSeq := by
  unfold State.onCtx; split <;> rfl
@[simp] theorem State.onCtx_drops (s : State) (a : Nat) (f : Ctx → Ctx) : (s.onCtx a f).drops = s.drops := by
  unfold State.onCtx; split <;> rfl
@[simp] theorem State.onCtx_latches (s : State) (a : Nat) (f : Ctx → Ctx) : (s.onCtx a f).latches = s.latches := by
  unfold State.onCtx; split <;> rfl
@[simp] theorem State.onCtx_grads (s : State) (a : Nat) (f : Ctx → Ctx) : (s.onCtx a f).grads = s.grads := by
  unfold State.onCtx; split <;> rfl
@[simp] theorem State.onCtx_lines (s : State) (a : Nat) (f : Ctx → Ctx) : (s.onCtx a f).lines = s.lines := by
  unfold State.onCtx; split <;> rfl
@[simp] theorem State.onCtx_colls (s : State) (a : Nat) (f : Ctx → Ctx) : (s.onCtx a f).colls = s.colls := by
  unfold State.onCtx; split <;> rfl
@[simp] theorem State.onCtx_notices (s : State) (a : Nat) (f : Ctx → Ctx) : (s.onCtx a f).notices = s.notices := by
  unfold State.onCtx; split <;> rfl
@[simp] theorem State.onCtx_visit (s : State) (a : Nat) (f : Ctx → Ctx) : (s.onCtx a f).visit = s.visit := by
  unfold State.onCtx; split <;> rfl
@[simp] theorem State.onCtx_credits (s : State) (a : Nat) (f : Ctx → Ctx) : (s.onCtx a f).credits = s.credits := by
  unfold State.onCtx; split <;> rfl
@[simp] theorem State.onCtx_launchQ (s : State) (a : Nat) (f : Ctx → Ctx) : (s.onCtx a f).launchQ = s.launchQ := by
  unfold State.onCtx; split <;> rfl
@[simp] theorem State.onCtx_objs (s : State) (a : Nat) (f : Ctx → Ctx) : (s.onCtx a f).objs = s.objs := by
  unfold State.onCtx; split <;> rfl
@[simp] theorem State.onCtx_backing (s : State) (a : Nat) (f : Ctx → Ctx) : (s.onCtx a f).backing = s.backing := by
  unfold State.onCtx; split <;> rfl
@[simp] theorem State.onCtx_codegen (s : State) (a : Nat) (f : Ctx → Ctx) : (s.onCtx a f).codegen = s.codegen := by
  unfold State.onCtx; split <;> rfl
@[simp] theorem State.onCtx_poolPtr (s : State) (a : Nat) (f : Ctx → Ctx) : (s.onCtx a f).poolPtr = s.poolPtr := by
  unfold State.onCtx; split <;> rfl
@[simp] theorem State.onCtx_poolFree (s : State) (a : Nat) (f : Ctx → Ctx) : (s.onCtx a f).poolFree = s.poolFree := by
  unfold State.onCtx; split <;> rfl
@[simp] theorem State.onCtx_withdrawn (s : State) (a : Nat) (f : Ctx → Ctx) : (s.onCtx a f).withdrawn = s.withdrawn := by
  unfold State.onCtx; split <;> rfl
@[simp] theorem State.onCtx_derate (s : State) (a : Nat) (f : Ctx → Ctx) : (s.onCtx a f).derate = s.derate := by
  unfold State.onCtx; split <;> rfl
@[simp] theorem State.onCtx_narrow (s : State) (a : Nat) (f : Ctx → Ctx) : (s.onCtx a f).narrow = s.narrow := by
  unfold State.onCtx; split <;> rfl
@[simp] theorem State.onCtx_thresh (s : State) (a : Nat) (f : Ctx → Ctx) : (s.onCtx a f).thresh = s.thresh := by
  unfold State.onCtx; split <;> rfl
@[simp] theorem State.onCtx_dramCnt (s : State) (a : Nat) (f : Ctx → Ctx) : (s.onCtx a f).dramCnt = s.dramCnt := by
  unfold State.onCtx; split <;> rfl
@[simp] theorem State.onCtx_sramCnt (s : State) (a : Nat) (f : Ctx → Ctx) : (s.onCtx a f).sramCnt = s.sramCnt := by
  unfold State.onCtx; split <;> rfl
@[simp] theorem State.onCtx_retries (s : State) (a : Nat) (f : Ctx → Ctx) : (s.onCtx a f).retries = s.retries := by
  unfold State.onCtx; split <;> rfl
@[simp] theorem State.onCtx_retrains (s : State) (a : Nat) (f : Ctx → Ctx) : (s.onCtx a f).retrains = s.retrains := by
  unfold State.onCtx; split <;> rfl
@[simp] theorem State.onCtx_eye (s : State) (a : Nat) (f : Ctx → Ctx) : (s.onCtx a f).eye = s.eye := by
  unfold State.onCtx; split <;> rfl
@[simp] theorem State.onCtx_hours (s : State) (a : Nat) (f : Ctx → Ctx) : (s.onCtx a f).hours = s.hours := by
  unfold State.onCtx; split <;> rfl
@[simp] theorem State.onCtx_conf (s : State) (a : Nat) (f : Ctx → Ctx) : (s.onCtx a f).conf = s.conf := by
  unfold State.onCtx; split <;> rfl
@[simp] theorem State.onCtx_limit (s : State) (a : Nat) (f : Ctx → Ctx) : (s.onCtx a f).limit = s.limit := by
  unfold State.onCtx; split <;> rfl
@[simp] theorem State.onCtx_driftOf (s : State) (a : Nat) (f : Ctx → Ctx) : (s.onCtx a f).driftOf = s.driftOf := by
  unfold State.onCtx; split <;> rfl
@[simp] theorem State.onCtx_samples (s : State) (a : Nat) (f : Ctx → Ctx) : (s.onCtx a f).samples = s.samples := by
  unfold State.onCtx; split <;> rfl
@[simp] theorem State.onCtx_shareNum (s : State) (a : Nat) (f : Ctx → Ctx) : (s.onCtx a f).shareNum = s.shareNum := by
  unfold State.onCtx; split <;> rfl
@[simp] theorem State.onCtx_errNum (s : State) (a : Nat) (f : Ctx → Ctx) : (s.onCtx a f).errNum = s.errNum := by
  unfold State.onCtx; split <;> rfl
@[simp] theorem State.onCtx_sampleNum (s : State) (a : Nat) (f : Ctx → Ctx) : (s.onCtx a f).sampleNum = s.sampleNum := by
  unfold State.onCtx; split <;> rfl
@[simp] theorem State.onCtx_errs (s : State) (a : Nat) (f : Ctx → Ctx) : (s.onCtx a f).errs = s.errs := by
  unfold State.onCtx; split <;> rfl
@[simp] theorem State.onCtx_chunks (s : State) (a : Nat) (f : Ctx → Ctx) : (s.onCtx a f).chunks = s.chunks := by
  unfold State.onCtx; split <;> rfl
@[simp] theorem State.onCtx_worked (s : State) (a : Nat) (f : Ctx → Ctx) : (s.onCtx a f).worked = s.worked := by
  unfold State.onCtx; split <;> rfl
@[simp] theorem State.onCtx_tests (s : State) (a : Nat) (f : Ctx → Ctx) : (s.onCtx a f).tests = s.tests := by
  unfold State.onCtx; split <;> rfl
@[simp] theorem State.onCtx_ready (s : State) (a : Nat) (f : Ctx → Ctx) : (s.onCtx a f).ready = s.ready := by
  unfold State.onCtx; split <;> rfl
@[simp] theorem State.onCtx_recovery (s : State) (a : Nat) (f : Ctx → Ctx) : (s.onCtx a f).recovery = s.recovery := by
  unfold State.onCtx; split <;> rfl
@[simp] theorem State.onCtx_marg (s : State) (a : Nat) (f : Ctx → Ctx) : (s.onCtx a f).marg = s.marg := by
  unfold State.onCtx; split <;> rfl
@[simp] theorem State.onCtx_mresult (s : State) (a : Nat) (f : Ctx → Ctx) : (s.onCtx a f).mresult = s.mresult := by
  unfold State.onCtx; split <;> rfl
@[simp] theorem State.onCtx_mcmd (s : State) (a : Nat) (f : Ctx → Ctx) : (s.onCtx a f).mcmd = s.mcmd := by
  unfold State.onCtx; split <;> rfl
@[simp] theorem State.onCtx_hostUp (s : State) (a : Nat) (f : Ctx → Ctx) : (s.onCtx a f).hostUp = s.hostUp := by
  unfold State.onCtx; split <;> rfl
@[simp] theorem State.onCtx_hostDown (s : State) (a : Nat) (f : Ctx → Ctx) : (s.onCtx a f).hostDown = s.hostDown := by
  unfold State.onCtx; split <;> rfl
@[simp] theorem State.onCtx_hostSince (s : State) (a : Nat) (f : Ctx → Ctx) : (s.onCtx a f).hostSince = s.hostSince := by
  unfold State.onCtx; split <;> rfl
@[simp] theorem State.onCtx_portsDown (s : State) (a : Nat) (f : Ctx → Ctx) : (s.onCtx a f).portsDown = s.portsDown := by
  unfold State.onCtx; split <;> rfl
@[simp] theorem State.onCtx_flash (s : State) (a : Nat) (f : Ctx → Ctx) : (s.onCtx a f).flash = s.flash := by
  unfold State.onCtx; split <;> rfl
@[simp] theorem State.onCtx_wear (s : State) (a : Nat) (f : Ctx → Ctx) : (s.onCtx a f).wear = s.wear := by
  unfold State.onCtx; split <;> rfl
@[simp] theorem State.onCtx_image (s : State) (a : Nat) (f : Ctx → Ctx) : (s.onCtx a f).image = s.image := by
  unfold State.onCtx; split <;> rfl
@[simp] theorem State.onCtx_debugger (s : State) (a : Nat) (f : Ctx → Ctx) : (s.onCtx a f).debugger = s.debugger := by
  unfold State.onCtx; split <;> rfl

@[simp] theorem State.setCtx_ctx (s : State) (a : Nat) (c : Ctx) : (s.setCtx a c).ctx a = some c := AL.find_put_same _ _ _
theorem State.setCtx_ctx_ne (s : State) (a b : Nat) (c : Ctx) (h : b ≠ a) : (s.setCtx a c).ctx b = s.ctx b := AL.find_put_ne _ _ h

/-! ## The canonical form of memory -/

theorem Memory.wf_reset : Memory.wf State.reset.mem = true := by decide
/-- Writes keep it. -/
theorem State.memWrite_wf (s : State) (ws : List (Nat × Byte)) (h : Memory.wf s.mem = true) : Memory.wf (s.memWrite ws).mem = true :=
  AL.wf_foldl_set _ _ _ _ _ h
/-- Storage that is given back keeps it. -/
theorem State.clearKeys_wf (s : State) (lo n : Nat) (h : Memory.wf s.mem = true) : Memory.wf (s.clearKeys lo n).mem = true :=
  AL.wf_filter _ _ _ h
/-- A package reset keeps it. -/
theorem State.packageReset_wf (s : State) (h : Memory.wf s.mem = true) : Memory.wf s.packageReset.mem = true :=
  AL.wf_filter _ _ _ h
/-- A line written back keeps it. -/
theorem State.writeBack_wf (s : State) (t : Tag) (h : Memory.wf s.mem = true) : Memory.wf (s.writeBack t).mem = true := by
  unfold State.writeBack
  split
  · exact h
  · split
    · exact h
    · exact AL.wf_foldl_set _ _ _ _ _ h

/-! ## One byte of memory -/

/-- The byte last written to an address is what it reads as. -/
theorem State.memWrite_same (s : State) (k : Nat) (b : Byte) : (s.memWrite [(k, b)]).memByte k = b := AL.get_set_same _ _ _ _
/-- A write leaves every other address alone. -/
theorem State.memWrite_ne (s : State) (k j : Nat) (b : Byte) (h : j ≠ k) : (s.memWrite [(k, b)]).memByte j = s.memByte j :=
  AL.get_set_ne _ _ _ h

end Sys2Proof.Machine
end

