-- ==== Sys2Proof/Tests/Slice0.lean ====
section
/-! SUPPORT. The model's own tests: ill-formed terms that WellFormed refuses, words of every family written out from the
encoding tables of 05 to 10 and decoded, and for every statement of Certificates/Slice0 a state and operands that meet its
hypotheses. -/

namespace Sys2Proof.Tests

open Sys2Proof Sys2Proof.Machine

/-! ## Ill-formed terms: one for each check of WellFormed, which refuses it -/

/-- The plain qualifiers of an M form taken in leaf 1. -/
def q0 : MQual := ⟨1, 0, 0, 0, 0, 0⟩
def a0 : MAddr := ⟨1, .base⟩

theorem test_wf_mask : (Instr.add 0 5 6 (.imm 7)).wf = false ∧ (Instr.add 1 5 6 (.imm 7)).wf = true := by decide
theorem test_wf_dst : (Instr.add 1 58 6 (.imm 7)).wf = false ∧ (Instr.add 1 57 6 (.imm 7)).wf = true := by decide
theorem test_wf_qd : (Instr.ceq 1 0 6 (.imm 7)).wf = false ∧ (Instr.qand 1 0 1 2).wf = false := by decide
theorem test_wf_vreg : (Instr.vadd 1 0 768 0 0 0).wf = false ∧ (Instr.vadd 1 0 767 0 0 0).wf = true := by decide
theorem test_wf_vsrc : (Instr.vadd 1 0 0 832 0 0).wf = false ∧ (Instr.vadd 1 0 0 831 0 0).wf = true := by decide
theorem test_wf_vcmp : (Instr.vceq 1 0 0 1 2 0).wf = false ∧ (Instr.vcltn 1 4 1 1 2 0).wf = false := by decide
theorem test_wf_tyInt : (Instr.vand 1 4 0 1 2 0).wf = false ∧ (Instr.vlnadd 1 1 0 1 2 0).wf = false := by decide
theorem test_wf_tyFloat : (Instr.vfma 1 3 0 1 2 0).wf = false ∧ (Instr.vexp 1 0 0 1 0).wf = false := by decide
theorem test_wf_vsplat : (Instr.vsplat 1 0 0 1 767 0).wf = false ∧ (Instr.vsplat 1 0 0 1 768 0).wf = true := by decide
theorem test_wf_branch : (Instr.br 14 0 0 0 0 .fall .fall .fall .fall).wf = false := by decide
theorem test_wf_fop : (Instr.fadd 1 5 6 (.imm 7)).wf = false ∧ (Instr.fclt 1 1 6 (.imm 7)).wf = false := by decide
theorem test_wf_sset : (Instr.sset 1 0 1).wf = false ∧ (Instr.sset 1 18 1).wf = false ∧ (Instr.sset 1 16 1).wf = true := by decide
theorem test_wf_addr : (Instr.ld q0 false 3 5 ⟨58, .post16 8⟩).wf = false ∧ (Instr.ld q0 false 3 5 ⟨58, .off16 8⟩).wf = true := by decide
theorem test_wf_ord : (Instr.ld { q0 with ord := 3 } false 3 5 a0).wf = false ∧ (Instr.st { q0 with ord := 1 } 3 5 a0).wf = false := by
  decide
theorem test_wf_scope : (Instr.ld { q0 with scope := 1 } false 3 5 a0).wf = false ∧ (Instr.st { q0 with scope := 6 } 3 5 a0).wf = false :=
  by decide
theorem test_wf_evict : (Instr.stp { q0 with evict := 1 } 3 5 a0).wf = false ∧ (Instr.vgathp { q0 with evict := 4 } 1 a0).wf = false := by
  decide
theorem test_wf_pred : (Instr.st { q0 with pred := 1 } 3 5 a0).wf = false ∧ (Instr.swarr { q0 with pred := 2 } 1 a0).wf = false := by
  decide
theorem test_wf_gather : (Instr.vgathp q0 767 a0).wf = false ∧ (Instr.vscatp q0 767 a0).wf = false ∧
    (Instr.vgathp q0 766 a0).wf = true := by decide
theorem test_wf_atomic : (Instr.aadd q0 1 5 a0).wf = false ∧ (Instr.afadd q0 3 5 a0).wf = false ∧
    (Instr.aadd { q0 with ord := 2, scope := 1 } 3 5 a0).wf = false ∧ (Instr.aadd { q0 with ord := 2, scope := 4 } 3 5 a0).wf = true := by
  decide
theorem test_wf_witness : (Instr.swpoll { q0 with wit := 1 } 5 a0).wf = false ∧ (Instr.pref { q0 with wit := 1 } a0).wf = false ∧
    (Instr.pref { q0 with scope := 2 } a0).wf = false := by decide
theorem test_wf_plain : (Instr.rcfence { q0 with ord := 1 } 5).wf = false ∧ (Instr.btw q0 768 a0).wf = false := by decide
theorem test_wf_block : (Instr.tget 1 61 0).wf = false ∧ (Instr.tget 1 60 0).wf = true ∧ (Instr.acopy 1 59 0).wf = false := by decide
theorem test_wf_tile : (Instr.tdrop 1 0).wf = false ∧ (Instr.trot 1 17).wf = false ∧ (Instr.tact 1 6).wf = false ∧
    (Instr.coll 1 4 0 0).wf = false := by decide
theorem test_wf_ttov : (Instr.ttov 1 705 0 63).wf = false ∧ (Instr.ttov 1 704 0 63).wf = true ∧ (Instr.ttov 1 0 0 64).wf = false := by
  decide
theorem test_wf_epi : (Instr.mfw 1 0x30 false).wf = false ∧ (Instr.mfw 1 4 false).wf = false ∧ (Instr.mfw 1 0x23 true).wf = true := by
  decide

/-! ## What the decoder refuses, by name (R124, R125, R130) -/

/-- An `ADD` in leaf 1 with the wheel bits of a bundle without literals. -/
theorem test_refuse_reserved : decodeBundle (BitVec.ofNat 256 (3 * 2 ^ 252)) [] = .reserved 3 := by decide
theorem test_refuse_empty : decodeBundle 0 [] = .illegal 0x40 {} := by decide
theorem test_refuse_unit : decodeUnit 0xFFFF = .bad ∧ decodeUnit 0xC000 = .bad := by decide
/-- A slot with mask 0 and other bits set. -/
theorem test_refuse_mask : (match decodeBundle (BitVec.ofNat 256 (2 ^ 252 + (5 * 2 ^ 14) * 2 ^ 173)) [] with
    | .ok .. => false
    | _ => true) = true := by decide

/-! ## Decoding: a word of every form, its fields written out from the spec's tables -/

/-- Whether a word with its literal units decodes to one form alone. -/
def decodesTo (w : Nat) (lits : List Unit16) (i : Instr) : Bool := decodeBundle (BitVec.ofNat 256 w) lits == .ok false i.alone

/-- A bundle with only a C slot: class, sub-operation, operands (Tables 5-1, 5-3, 5-16, 6-1). -/
def cWord (cls sub opnd : Nat) (lits : List Unit16) (i : Instr) : Bool :=
  decodesTo (2 ^ 252 + (cls * 2 ^ 36 + sub * 2 ^ 32 + opnd) * 2 ^ 204) lits i

/-- A bundle with only an S slot on all leaves (Tables 5-5, 5-17). -/
def sWord (op sd sa sb mode : Nat) (lits : List Unit16) (i : Instr) : Bool :=
  decodesTo (2 ^ 252 + (31 * 2 ^ 26 + op * 2 ^ 20 + sd * 2 ^ 14 + sa * 2 ^ 8 + sb * 2 ^ 2 + mode) * 2 ^ 173) lits i

/-- A bundle with only an M slot on all leaves (Tables 5-2, 5-6, 5-18). -/
def mWord (wheel op vr base ord scope evict wit pred mode : Nat) (lits : List Unit16) (i : Instr) : Bool :=
  decodesTo (2 ^ 252 + wheel * 2 ^ 250 + (31 * 2 ^ 40 + op * 2 ^ 34 + vr * 2 ^ 24 + base * 2 ^ 18 + ord * 2 ^ 16 + scope * 2 ^ 13 +
    evict * 2 ^ 10 + wit * 2 ^ 6 + pred * 2 ^ 2 + mode) * 2 ^ 128) lits i

/-- A bundle with only a V slot on all leaves under p9 (Tables 5-7, 5-19). -/
def vWord (fam ty vd va vb : Nat) (i : Instr) : Bool :=
  decodesTo (2 ^ 252 + (31 * 2 ^ 42 + fam * 2 ^ 37 + ty * 2 ^ 34 + vd * 2 ^ 24 + va * 2 ^ 14 + vb * 2 ^ 4 + 9) * 2 ^ 81) [] i

/-- A bundle with only an X slot on all leaves (Table 5-8, R143). -/
def xWord (op vd va pat size : Nat) (i : Instr) : Bool :=
  decodesTo (2 ^ 252 + (31 * 2 ^ 31 + op * 2 ^ 27 + vd * 2 ^ 17 + va * 2 ^ 7 + pat * 2 ^ 4 + size) * 2 ^ 45) [] i

/-- A bundle with only a T slot on all leaves (Tables 5-9, 5-20, 9-4, 10-3). -/
def tWord (op a sp e w f : Nat) (i : Instr) : Bool :=
  decodesTo (2 ^ 252 + 31 * 2 ^ 40 + op * 2 ^ 32 + a * 2 ^ 24 + sp * 2 ^ 18 + e * 2 ^ 10 + w * 2 ^ 6 + f) [] i

theorem test_decode_c_0 : [
    cWord 1 5 (2 * 2 ^ 26 + 35 * 2 ^ 20 + 4 * 2 ^ 14 + 5 * 2 ^ 8 + 0x6C) [0x10, 0, 7, 0x20, 1] (.br 5 2 35 4 5 (.direct 0x10) (.indirect 7) (.call 0x10020) .fall),
    cWord 2 0 (3 * 2 ^ 20 + 9) [0x14] (.loop 3 9 0x14),
    cWord 2 1 10 [0x1A] (.loops 0 10 0x1A),
    cWord 2 2 0 [] (.lbreak),
    cWord 3 0 0x12345678 [0x9ABC] (.fmtw 0x12345678 0x9ABC),
    cWord 3 1 11 [] (.fmts 11),
    cWord 4 0 0 [] (.twait),
    cWord 4 1 (5 * 8 + 4 + 2) [] (.sbar 5 true 2),
    cWord 4 2 0 [] (.yield)].all id = true := by decide

theorem test_decode_c_1 : [
    cWord 4 3 6 [] (.wwait 6),
    cWord 5 0 0xFFFF [] (.trap 0xFFFF),
    cWord 5 1 7 [] (.brk 7),
    cWord 5 2 0 [] (.tret),
    cWord 5 3 0 [] (.exit),
    cWord 5 4 0 [] (.statf),
    cWord 6 0 0 [0x2B, 0x8000] (.jmp 0x8000002B),
    cWord 6 1 0 [1, 2] (.call 0x20001),
    cWord 6 2 0 [] (.ret)].all id = true := by decide

theorem test_decode_s_0 : [
    sWord 0 5 6 7 0 [] (.add 31 5 6 (.reg 7)),
    sWord 1 5 6 63 1 [] (.sub 31 5 6 (.imm 63)),
    sWord 2 57 63 0 2 [0x8000] (.mul 31 57 63 (.lit16 0x8000)),
    sWord 3 1 0 0 3 [0xFFFF, 0x7FFF] (.mulh 31 1 0 (.lit32 0x7FFFFFFF)),
    sWord 4 5 6 7 0 [] (.mulhn 31 5 6 (.reg 7)),
    sWord 5 5 6 63 1 [] (.div 31 5 6 (.imm 63)),
    sWord 6 57 63 0 2 [0x8000] (.divn 31 57 63 (.lit16 0x8000)),
    sWord 7 1 0 0 3 [0xFFFF, 0x7FFF] (.rem 31 1 0 (.lit32 0x7FFFFFFF)),
    sWord 8 5 6 7 0 [] (.remn 31 5 6 (.reg 7)),
    sWord 9 5 6 63 1 [] (.and 31 5 6 (.imm 63)),
    sWord 10 57 63 0 2 [0x8000] (.or 31 57 63 (.lit16 0x8000)),
    sWord 11 1 0 0 3 [0xFFFF, 0x7FFF] (.xor 31 1 0 (.lit32 0x7FFFFFFF)),
    sWord 12 5 6 7 0 [] (.andn 31 5 6 (.reg 7)),
    sWord 13 5 6 63 1 [] (.shl 31 5 6 (.imm 63))].all id = true := by decide

theorem test_decode_s_1 : [
    sWord 14 57 63 0 2 [0x8000] (.shr 31 57 63 (.lit16 0x8000)),
    sWord 15 1 0 0 3 [0xFFFF, 0x7FFF] (.sar 31 1 0 (.lit32 0x7FFFFFFF)),
    sWord 16 5 6 7 0 [] (.min 31 5 6 (.reg 7)),
    sWord 17 5 6 63 1 [] (.minn 31 5 6 (.imm 63)),
    sWord 18 57 63 0 2 [0x8000] (.max 31 57 63 (.lit16 0x8000)),
    sWord 19 1 0 0 3 [0xFFFF, 0x7FFF] (.maxn 31 1 0 (.lit32 0x7FFFFFFF)),
    sWord 20 5 6 0 0 [] (.clz 31 5 6),
    sWord 21 5 6 0 0 [] (.popc 31 5 6),
    sWord 22 5 6 0 2 [0x0FC3] (.bfx 31 5 6 (.lit16 0x0FC3)),
    sWord 23 5 6 9 1 [] (.bfxn 31 5 6 (.imm 9)),
    sWord 24 5 6 7 0 [] (.bfi 31 5 6 (.reg 7)),
    sWord 25 5 0 0 3 [1, 2] (.li 31 5 (.lit32 0x20001)),
    sWord 26 20 21 35 1 [] (.sel 31 20 35 21),
    sWord 27 31 6 7 0 [] (.ceq 31 31 6 (.reg 7))].all id = true := by decide

theorem test_decode_s_2 : [
    sWord 28 30 6 7 1 [] (.cne 31 30 6 (.imm 7)),
    sWord 29 29 6 7 0 [] (.clt 31 29 6 (.reg 7)),
    sWord 30 28 6 7 1 [] (.cltn 31 28 6 (.imm 7)),
    sWord 31 27 6 7 0 [] (.cle 31 27 6 (.reg 7)),
    sWord 32 26 6 7 1 [] (.clen 31 26 6 (.imm 7)),
    sWord 33 3 34 5 0 [] (.qand 31 3 34 5),
    sWord 34 4 34 5 0 [] (.qor 31 4 34 5),
    sWord 35 5 34 5 0 [] (.qxor 31 5 34 5),
    sWord 36 5 0 0 0 [] (.qget 31 5),
    sWord 37 0 6 0 0 [] (.qset 31 6),
    sWord 38 5 0 17 1 [] (.sget 31 5 17),
    sWord 39 0 6 16 1 [] (.sset 31 16 6),
    sWord 40 5 6 7 0 [] (.fadd 31 5 6 (.reg 7)),
    sWord 41 5 6 0 3 [0, 0x3F80] (.fsub 31 5 6 (.lit32 0x3F800000))].all id = true := by decide

theorem test_decode_s_3 : [
    sWord 42 5 6 7 0 [] (.fmul 31 5 6 (.reg 7)),
    sWord 43 5 6 0 3 [0, 0x3F80] (.ffma 31 5 6 (.lit32 0x3F800000)),
    sWord 44 5 6 7 0 [] (.fmin 31 5 6 (.reg 7)),
    sWord 45 5 6 0 3 [0, 0x3F80] (.fmax 31 5 6 (.lit32 0x3F800000)),
    sWord 46 9 6 0 2 [0x3F80] (.fclt 31 9 6 (.lit16 0x3F80)),
    sWord 47 9 6 7 0 [] (.fceq 31 9 6 (.reg 7)),
    sWord 48 5 6 0 0 [] (.ftoi 31 5 6),
    sWord 49 5 6 0 0 [] (.itof 31 5 6),
    sWord 50 1 2 3 0 [] (.wjoin 31 1 2 3),
    sWord 51 5 2 0 0 [] (.wtos 31 5 2),
    sWord 52 3 6 0 0 [] (.stow 31 3 6)].all id = true := by decide

theorem test_decode_m_0 : [
    mWord 0 0 (256 + 3 * 64 + 5) 9 1 0 7 2 0 1 [0xFFFF] (.ld ⟨31, 1, 0, 7, 2, 0⟩ true 3 5 ⟨9, .off16 0xFFFF⟩ ),
    mWord 1 1 (2 * 64 + 14) 1 2 4 7 2 0 0 [] (.st ⟨31, 2, 4, 7, 2, 0⟩ 2 14 ⟨1, .base⟩ ),
    mWord 0 2 (64 + 5) 9 0 0 0 1 0 2 [4] (.ldp ⟨31, 0, 0, 0, 1, 0⟩ false 1 5 ⟨9, .post16 4⟩ ),
    mWord 0 3 (5) 9 0 2 0 1 0 3 [1, 2] (.stp ⟨31, 0, 2, 0, 1, 0⟩ 0 5 ⟨9, .off32 0x20001⟩ ),
    mWord 0 4 (767) 9 1 0 3 1 5 0 [] (.vld ⟨31, 1, 0, 3, 1, 5⟩ 767 ⟨9, .base⟩ ),
    mWord 0 5 (700) 9 0 5 3 1 5 0 [] (.vst ⟨31, 0, 5, 3, 1, 5⟩ 700 ⟨9, .base⟩ ),
    mWord 0 6 (1) 9 0 0 0 1 5 0 [] (.vldp ⟨31, 0, 0, 0, 1, 5⟩ 1 ⟨9, .base⟩ ),
    mWord 0 7 (2) 9 0 2 0 1 5 0 [] (.vstp ⟨31, 0, 2, 0, 1, 5⟩ 2 ⟨9, .base⟩ ),
    mWord 0 8 (766) 9 0 0 3 1 5 0 [] (.vgathp ⟨31, 0, 0, 3, 1, 5⟩ 766 ⟨9, .base⟩ ),
    mWord 0 9 (4) 9 0 2 3 1 5 0 [] (.vscatp ⟨31, 0, 2, 3, 1, 5⟩ 4 ⟨9, .base⟩ ),
    mWord 0 10 (3 * 64 + 5) 9 0 5 6 1 0 0 [] (.aadd ⟨31, 0, 5, 6, 1, 0⟩ 3 5 ⟨9, .base⟩ )].all id = true := by decide

theorem test_decode_m_1 : [
    mWord 0 11 (2 * 64 + 5) 9 0 2 0 1 1 0 [] (.amin ⟨31, 0, 2, 0, 1, 1⟩ 2 5 ⟨9, .base⟩ ),
    mWord 0 12 (3 * 64 + 5) 9 0 5 6 1 0 0 [] (.aminn ⟨31, 0, 5, 6, 1, 0⟩ 3 5 ⟨9, .base⟩ ),
    mWord 0 13 (2 * 64 + 5) 9 0 2 0 1 1 0 [] (.amax ⟨31, 0, 2, 0, 1, 1⟩ 2 5 ⟨9, .base⟩ ),
    mWord 0 14 (3 * 64 + 5) 9 0 5 6 1 0 0 [] (.amaxn ⟨31, 0, 5, 6, 1, 0⟩ 3 5 ⟨9, .base⟩ ),
    mWord 0 15 (2 * 64 + 5) 9 0 2 0 1 1 0 [] (.aswp ⟨31, 0, 2, 0, 1, 1⟩ 2 5 ⟨9, .base⟩ ),
    mWord 0 16 (3 * 64 + 5) 9 0 5 6 1 0 0 [] (.acas ⟨31, 0, 5, 6, 1, 0⟩ 3 5 ⟨9, .base⟩ ),
    mWord 0 17 (2 * 64 + 5) 9 0 2 0 1 1 0 [] (.afadd ⟨31, 0, 2, 0, 1, 1⟩ 2 5 ⟨9, .base⟩ ),
    mWord 0 18 (5) 0 0 0 0 3 0 0 [] (.wcheck ⟨31, 0, 0, 0, 3, 0⟩ 5 ),
    mWord 0 19 (0) 0 0 4 0 3 0 0 [] (.wall ⟨31, 0, 4, 0, 3, 0⟩ ),
    mWord 0 20 (5) 9 0 5 0 3 0 0 [] (.swinit ⟨31, 0, 5, 0, 3, 0⟩ 5 ⟨9, .base⟩ ),
    mWord 0 21 (5) 9 0 0 0 3 1 0 [] (.swarr ⟨31, 0, 0, 0, 3, 1⟩ 5 ⟨9, .base⟩ )].all id = true := by decide

theorem test_decode_m_2 : [
    mWord 0 22 (5) 9 0 0 0 3 1 0 [] (.swwait ⟨31, 0, 0, 0, 3, 1⟩ 5 ⟨9, .base⟩ ),
    mWord 0 23 (5) 9 0 0 0 0 1 0 [] (.swpoll ⟨31, 0, 0, 0, 0, 1⟩ 5 ⟨9, .base⟩ ),
    mWord 0 24 (5) 9 0 0 0 0 0 0 [] (.llock ⟨31, 0, 0, 0, 0, 0⟩ 5 ⟨9, .base⟩ ),
    mWord 0 25 (0) 9 0 0 0 0 0 0 [] (.lunlock ⟨31, 0, 0, 0, 0, 0⟩ ⟨9, .base⟩ ),
    mWord 0 26 (5) 0 0 0 0 3 0 0 [] (.rcfence ⟨31, 0, 0, 0, 3, 0⟩ 5 ),
    mWord 0 27 (7) 9 0 0 6 3 0 0 [] (.xpld ⟨31, 0, 0, 6, 3, 0⟩ 7 ⟨9, .base⟩ ),
    mWord 0 28 (5) 9 0 0 0 3 0 0 [] (.launch ⟨31, 0, 0, 0, 3, 0⟩ 5 ⟨9, .base⟩ ),
    mWord 0 29 (0) 9 0 1 6 0 0 0 [] (.pref ⟨31, 0, 1, 6, 0, 0⟩ ⟨9, .base⟩ ),
    mWord 0 30 (9) 9 0 0 0 0 0 1 [511] (.btw ⟨31, 0, 0, 0, 0, 0⟩ 9 ⟨9, .off16 511⟩ )].all id = true := by decide

theorem test_decode_v_0 : [
    vWord 0 4 767 100 831 (.vadd 31 4 767 100 831 9),
    vWord 1 5 767 101 831 (.vsub 31 5 767 101 831 9),
    vWord 2 6 767 102 831 (.vmul 31 6 767 102 831 9),
    vWord 3 7 767 103 831 (.vfma 31 7 767 103 831 9),
    vWord 4 4 767 104 831 (.vmin 31 4 767 104 831 9),
    vWord 5 5 767 105 831 (.vmax 31 5 767 105 831 9),
    vWord 6 2 767 106 831 (.vminn 31 2 767 106 831 9),
    vWord 7 2 767 107 831 (.vmaxn 31 2 767 107 831 9),
    vWord 8 3 1 2 0 (.vabs 31 3 1 2 9),
    vWord 9 7 1 2 0 (.vneg 31 7 1 2 9),
    vWord 10 0 1 2 3 (.vand 31 0 1 2 3 9)].all id = true := by decide

theorem test_decode_v_1 : [
    vWord 11 1 1 2 3 (.vor 31 1 1 2 3 9),
    vWord 12 2 1 2 3 (.vxor 31 2 1 2 3 9),
    vWord 13 3 1 2 3 (.vshl 31 3 1 2 3 9),
    vWord 14 0 1 2 3 (.vshr 31 0 1 2 3 9),
    vWord 15 1 1 2 3 (.vsar 31 1 1 2 3 9),
    vWord 16 0 15 2 3 (.vceq 31 0 15 2 3 9),
    vWord 17 1 15 2 3 (.vclt 31 1 15 2 3 9),
    vWord 18 2 15 2 3 (.vcle 31 2 15 2 3 9),
    vWord 19 3 15 2 3 (.vcltn 31 3 15 2 3 9),
    vWord 20 6 1 2 3 (.vsel 31 6 1 2 3 9),
    vWord 21 5 1 2 6 (.vcvt 31 5 1 2 6 9)].all id = true := by decide

theorem test_decode_v_2 : [
    vWord 22 4 1 2 0 (.vrsum 31 4 1 2 9),
    vWord 23 4 1 2 0 (.vrmax 31 4 1 2 9),
    vWord 24 3 1 2 57 (.vcmpr 31 3 1 2 57 9),
    vWord 25 3 1 2 57 (.vexpd 31 3 1 2 57 9),
    vWord 26 4 1 2 0 (.vlog 31 4 1 2 9),
    vWord 27 7 1 2 0 (.vexp 31 7 1 2 9),
    vWord 28 7 1 2 0 (.vmov 31 7 1 2 9),
    vWord 29 1 1 2 800 (.vsplat 31 1 1 2 800 9),
    vWord 30 2 31 2 0 (.vany 31 2 31 2 9),
    vWord 31 2 1 2 3 (.vlnadd 31 2 1 2 3 9)].all id = true := by decide

theorem test_decode_x_0 : [
    xWord 0 10 770 7 1 (.xperm 31 10 770 7 0),
    xWord 1 10 770 0 2 (.xrev 31 10 770 1),
    xWord 2 10 770 0 4 (.xzip 31 10 770 2),
    xWord 3 10 770 0 8 (.xunzip 31 10 770 3),
    xWord 4 10 770 5 1 (.xbcast 31 10 770 5 0),
    xWord 5 10 770 3 8 (.xslide 31 10 770 3 3),
    xWord 6 10 770 2 4 (.xtrn 31 10 770 2 2)].all id = true := by decide

theorem test_decode_t_0 : [
    tWord 0 0 0 0 0 0 (.tdup 31),
    tWord 1 255 0 0 0 0 (.tdrop 31 255),
    tWord 2 0 0 0 0 0 (.tswap 31),
    tWord 3 200 0 0 0 0 (.tpick 31 200),
    tWord 4 16 0 0 0 0 (.trot 31 16),
    tWord 5 0 15 0 0 0 (.tzero 31 15),
    tWord 6 9 15 0 0 0 (.tinfo 31 15 9),
    tWord 7 0 15 0 0 0 (.tshape 31 15),
    tWord 8 255 0 0 0 0 (.tscale 31 255),
    tWord 9 0 61 0 3 0 (.tlds 31 61 3),
    tWord 10 0 62 0 3 0 (.tsts 31 62 3),
    tWord 11 0 15 191 0 3 (.tfromv 31 767 15),
    tWord 12 1 15 191 0 2 (.ttov 31 766 15 1),
    tWord 13 0 0 0 0 32 (.mwl 31 true)].all id = true := by decide

theorem test_decode_t_1 : [
    tWord 14 0 0 35 0 0 (.mfw 31 0x23 false),
    tWord 15 0 0 35 0 32 (.mfwa 31 0x23 true),
    tWord 16 0 0 35 0 0 (.mbk 31 0x23 false),
    tWord 17 0 0 35 0 32 (.mbka 31 0x23 true),
    tWord 18 0 0 0 0 0 (.mwrel 31 false),
    tWord 19 0 0 0 0 0 (.tadd 31),
    tWord 20 0 0 0 0 0 (.tsub 31),
    tWord 21 0 0 0 0 0 (.tmul 31),
    tWord 22 0 0 0 0 0 (.tmax 31),
    tWord 23 0 0 0 0 0 (.tmin 31),
    tWord 24 0 0 0 0 0 (.tfma 31),
    tWord 25 254 0 37 0 0 (.tcvt 31 254 0x25),
    tWord 26 5 0 0 0 0 (.tact 31 5),
    tWord 27 0 0 0 0 0 (.trsum 31)].all id = true := by decide

theorem test_decode_t_2 : [
    tWord 28 0 0 0 0 0 (.tcsum 31),
    tWord 29 0 0 0 0 0 (.txp 31),
    tWord 30 0 60 0 3 0 (.tget 31 60 3),
    tWord 31 0 60 0 3 0 (.tsend 31 60 3),
    tWord 32 0 58 0 3 0 (.tsendq 31 58 3),
    tWord 33 0 58 0 3 0 (.acopy 31 58 3),
    tWord 34 0 58 0 3 0 (.acopyw 31 58 3),
    tWord 35 0 62 0 3 0 (.stash 31 62 3),
    tWord 36 0 61 0 3 0 (.restore 31 61 3),
    tWord 37 0 63 0 0 0 (.recomp 31 63),
    tWord 38 0 60 0 3 0 (.grad 31 60 3),
    tWord 39 0 60 3 4 0 (.coll 31 3 60 4)].all id = true := by decide

/-! ## Witnesses: states and operands that meet the hypotheses of the statements -/


/-- One running context on slot 0 of a package after reset, at a segment in its loop buffer: a reference to bundle 0, whose
entry bit is set, and the segment end; a stack limit of 8, and s1 = 256. -/
def half0 : Half := ⟨0, (2 : BitVec 64) <<< 4 ||| 1, [encodeRef 0 0, encodeSegEnd], 0⟩
def ctx0 : Ctx := { Ctx.blank with halves := [half0], bt := [(0, BitVec.ofNat 256 (2 ^ 252 + 2 ^ 251))], tlimit := 8, s := [(1, 256)] }
def on (c : Ctx) : State := { State.reset with ctxs := [(0, c)] }

/-- A state meets the hypotheses of a statement about a form: it issues, the condition holds, its results have room. -/
def meetsIn (s : State) (lits : Nat) (sl : Slot) (reads : List Nat) (new : Env → List Pend) (ok : Env → Bool) : Bool :=
  match s.issuing lits with
  | some e => ok e && e.room sl reads (new e)
  | none => false
def meets (c : Ctx) (lits : Nat) (sl : Slot) (new : List Pend) (ok : Env → Bool) : Bool := meetsIn (on c) lits sl [] (fun _ => new) ok
def resOk {α : Type} (r : Res α) (p : α → Bool) : Bool :=
  match r with
  | .ok _ x => p x
  | _ => false
def resWait {α : Type} (r : Res α) : Bool :=
  match r with
  | .wait => true
  | _ => false
def resFault {α : Type} (r : Res α) : Bool :=
  match r with
  | .fault _ => true
  | _ => false

def entry0 : Entry := ⟨1, 4, 4, 6, 0⟩
def tile0 (t : Tier) : Tile := ⟨64, some (List.replicate 64 0), t⟩
def op0 (st : OpStatus) : TOp :=
  ⟨0, .tadd 31, ⟨0, 0⟩, 0, 0, [], [], none, [], 0, none, 0, 1, [], [], st, [], none, none, 0, [], 0, 0, false, 0, [], 0, false⟩
def cap0 : Capture := ⟨[], ⟨0, 0⟩, none, [], [], 0, 0, none, none⟩

theorem witness_ScalarArithmetic : meets ctx0 1 .s [Pend.make (.s 5) 12 0] (fun _ => true) = true := by decide
theorem witness_ScalarBits : meets ctx0 2 .s [Pend.make (.s 57) 1 0] (fun _ => true) = true := by decide
theorem witness_ScalarConditions : meets ctx0 0 .s ((List.range 31).map fun i => Pend.make (.q (i + 1)) 1 0) (fun _ => true) = true := by
  decide
theorem witness_ScalarFloat : meets ctx0 2 .s [Pend.make (.s 1) 4 0] (fun _ => true) = true := by decide
theorem witness_ScalarMoves : meets ctx0 0 .s [] (fun e => !e.c.inFooting) = true := by decide
theorem witness_SpecialRegisters :
    meets { ctx0 with tiles := [(1, tile0 (.footing 0))] } 0 .s [] (fun e => e.c.inFooting) = true := by decide
theorem witness_JumpForms :
    meets { ctx0 with lk := CodePos.toWord ⟨0, 0⟩ } 0 .c []
      (fun e => e.c.lk.extractLsb' 60 4 == 0 && resOk (e.s.target e.a (CodePos.ofWord e.c.lk)) id) = true ∧
    meets { ctx0 with lk := CodePos.toWord ⟨0, 1⟩ } 0 .c []
      (fun e => resOk (e.s.target e.a (CodePos.ofWord e.c.lk)) not) = true ∧
    meets { ctx0 with lk := CodePos.toWord ⟨128, 0⟩ } 0 .c [] (fun e => resFault (e.s.target e.a (CodePos.ofWord e.c.lk))) = true ∧
    meetsIn { on { ctx0 with lk := CodePos.toWord ⟨128, 0⟩ } with backing := [(0, 0, 0, 0x1F)] } 0 .c [] (fun _ => [])
      (fun e => resWait (e.s.target e.a (CodePos.ofWord e.c.lk))) = true := by decide
theorem witness_BranchTree :
    meets ctx0 2 .c [] (fun e => e.c.test 0 && resOk (e.s.target e.a (directTarget e 0)) id) = true ∧
    meets ctx0 0 .c [] (fun e => !e.c.test 5) = true ∧
    meets ctx0 0 .c [] (fun e => e.c.readS 0 == 0 && resOk (e.s.target e.a (CodePos.ofWord (e.c.readS 0))) id) = true ∧
    meets ctx0 2 .c [] (fun e => resOk (e.s.target e.a (directTarget e 1)) not) = true := by decide
def half1 : Half := ⟨0, (3 : BitVec 64) <<< 4 ||| 1, [encodeRef 0 0, encodeRef 0 0, encodeSegEnd], 0⟩
def ctx1 : Ctx := { ctx0 with halves := [half1] }
theorem witness_LoopForms :
    meets ctx1 1 .c [] (fun e => decide (e.c.loops.length < 6) && resOk (e.s.chain e.a 0 e.half) (· == some half1) &&
      half1.item 1 == some (.ref 0 0) && decide (e.groupEnd ≤ 1)) = true ∧
    meets { ctx1 with loops := List.replicate 6 ⟨1, 0, ⟨0, 0⟩, ⟨0, 1⟩⟩ } 1 .c [] (fun e => decide (6 ≤ e.c.loops.length)) = true ∧
    meets ctx1 1 .c [] (fun e => resOk (e.s.chain e.a 1 e.half) (· == none)) = true ∧
    meets ctx1 1 .c [] (fun e => resOk (e.s.chain e.a 0 e.half) (· == some half1) && half1.item 2 == some .segEnd) = true ∧
    meets { ctx1 with loops := [⟨2, 0, ⟨0, 0⟩, ⟨0, 1⟩⟩] } 0 .c []
      (fun e => e.c.loops.head?.isSome && resOk (e.s.segment e.a 0) (· == half1)) = true ∧
    meets ctx1 0 .c [] (fun e => e.c.loops.isEmpty) = true ∧
    meetsIn { on { ctx1 with halves := [⟨0, (3 : BitVec 64) <<< 4 ||| ((1 : BitVec 64) <<< 14), half1.units, 0⟩] } with
        backing := [(0, 0, 0, 0x1F)] } 1 .c [] (fun _ => [])
      (fun e => resWait (e.s.chain e.a 1 e.half)) = true := by decide
theorem witness_FormatWrites :
    meets ctx0 1 .c [Pend.make .fmt 5 0] (fun _ => !fmtIllegal 0) = true ∧ meets ctx0 1 .c [] (fun _ => fmtIllegal 0x3000000000000) = true := by
  decide
theorem witness_WaitForms :
    meets ctx0 0 .c [] (fun e => e.c.window.isEmpty && e.c.statq.isEmpty && e.s.accs.isEmpty &&
      e.s.witCheck e.a 0 0 == .satisfied) = true ∧
    meets { ctx0 with window := [op0 .waiting] } 0 .c [] (fun e => !e.c.opsDone) = true ∧
    meets { ctx0 with w := [(1, mkWit 1 4 0 0 0 1)] } 0 .c [] (fun e => e.s.witCheck e.a 0 (e.c.readW 1) != .satisfied) = true ∧
    meets { ctx0 with arrived := some (false, 1, 0), released := some 0 } 0 .c [] (fun e => e.c.released == some 0) = true ∧
    meets { ctx0 with arrived := some (false, 1, 0) } 0 .c [] (fun e => e.c.released == none && e.c.arrived.isSome) = true ∧
    meets ctx0 0 .c [] (fun e => e.c.released == none && e.c.arrived == none) = true ∧
    meets { ctx0 with statq := [⟨⟨0, 0⟩, 0, 1, 1⟩] } 0 .c [] (fun e => !e.c.statq.isEmpty) = true := by decide
theorem witness_TrapAndExitForms :
    meets ctx0 0 .c [] (fun e => e.s.debugger.isEmpty && e.c.pend.isEmpty && e.c.capture == none) = true ∧
    meetsIn { on ctx0 with debugger := [0] } 0 .c [] (fun _ => []) (fun e => e.s.debugger.contains e.c.pd.toNat) = true ∧
    meets { ctx0 with window := [op0 .waiting] } 0 .c [] (fun e => !e.c.opsDone) = true ∧
    meets { ctx0 with capture := some cap0 } 0 .c [] (fun e => e.c.capture.isSome && e.c.pend.isEmpty && e.c.opsDone && !e.tretWaits) =
      true := by decide
theorem witness_WaitForms_witness :
    meets { ctx0 with w := [(1, mkWit 2 4 0 0 0 0)] } 0 .c [] (fun e => e.s.witCheck e.a 0 (e.c.readW 1) == .waiting) = true ∧
    meets { ctx0 with w := [(1, mkWit 1 4 9 0 0 1)] } 0 .c [] (fun e => match e.s.witCheck e.a 0 (e.c.readW 1) with
      | .fault _ => true
      | _ => false) = true := by decide
theorem witness_ScalarAccesses :
    meets ctx0 0 .m [Pend.make (.s 5) 40 0] (fun e => decide ((addrOf e.c ⟨1, .base⟩ 8).toNat < 2 ^ 57) &&
      (addrOf e.c ⟨1, .base⟩ 8).toNat % 8 == 0 && (e.s.witFault e.a 0 0).isNone && decide (e.s.outstanding e.a 0 < 2 ^ 19)) = true ∧
    meets { ctx0 with scratch := 512 } 1 .m [Pend.make (.s 1) 1 0, Pend.make (.s 5) 6 0] (fun e =>
      (spFail e.c (addrOf e.c ⟨1, .post16 1⟩ 8) 8).isNone && isOwn e.c 256) = true := by decide
set_option maxRecDepth 8000 in
theorem witness_VectorAccesses :
    meets { ctx0 with scratch := 512 } 0 .m [Pend.make (.v 767) 48 0] (fun e =>
      (addrOf e.c ⟨1, .base⟩ 256).toNat % 256 == 0 && (spFail e.c (addrOf e.c ⟨1, .base⟩ 256) 256).isNone &&
      (e.gatherAddrs ⟨31, 0, 0, 3, 0, 0⟩ 766 256).all fun x => (spCheck e x.2 8 8).isNone) = true := by decide
theorem witness_AtomicForms :
    meets { ctx0 with scratch := 512 } 0 .m [Pend.make (.s 5) 48 0, Pend.make (.w 1) 1 0] (fun e =>
      (addrOf e.c ⟨1, .base⟩ 8).toNat % 8 == 0 && (spFail e.c (addrOf e.c ⟨1, .base⟩ 8) 8).isNone &&
      decide (e.s.outstanding e.a 0 < 2 ^ 19)) = true ∧ (2 ^ 64 - 1 < 2 ^ (8 * 8)) := by decide
theorem witness_SyncForms :
    meets { ctx0 with scratch := 512 } 0 .m [Pend.make (.s 5) 2 0, Pend.make (.w 1) 2 0] (fun e =>
      (addrOf e.c ⟨1, .base⟩ 32).toNat % 32 == 0 && (spFail e.c (addrOf e.c ⟨1, .base⟩ 32) 32).isNone &&
      resOk (syncWord e true 256) (fun kb => fieldAt kb.2 8 4 == 0) && e.c.readS 1 != 0) = true ∧
    meets { ctx0 with scratch := 512 } 0 .m [] (fun e =>
      resOk (syncWord e true 256) (fun kb => (BitVec.ofNat 32 (fieldAt kb.2 8 4)) == (e.c.readS 5).truncate 32) && e.c.swRel == none) =
      true := by decide
theorem witness_OtherMemoryForms :
    meets ctx0 0 .m [Pend.make (.xp 7) 48 0] (fun e => (addrOf e.c ⟨1, .base⟩ 256).toNat % 256 == 0 &&
      decide ((addrOf e.c ⟨1, .base⟩ 1).toNat < 512) && (e.s.witFault e.a 0 0).isNone && e.s.witCheck e.a 0 0 == .satisfied) = true := by
  decide
theorem witness_AddressTraps :
    meets { ctx0 with s := [(1, 2 ^ 57)] } 0 .m [Pend.make (.s 5) 40 0] (fun e => decide (2 ^ 57 ≤ (addrOf e.c ⟨1, .base⟩ 8).toNat)) = true ∧
    meets { ctx0 with s := [(1, 2 ^ 57 - 1)] } 0 .m [Pend.make (.s 5) 40 0] (fun e =>
      decide ((addrOf e.c ⟨1, .base⟩ 8).toNat < 2 ^ 57) && (addrOf e.c ⟨1, .base⟩ 8).toNat % 8 != 0) = true ∧
    meets { ctx0 with scratch := 256 } 0 .m [Pend.make (.s 5) 14 0] (fun e => (spFail e.c (addrOf e.c ⟨1, .base⟩ 8) 8).isSome) = true ∧
    meets { ctx0 with scratch := 512, s := [(1, 257)] } 0 .m [Pend.make (.s 5) 6 0] (fun e =>
      (spFail e.c (addrOf e.c ⟨1, .base⟩ 8) 8).isNone && (addrOf e.c ⟨1, .base⟩ 8).toNat % 8 != 0) = true := by decide
theorem witness_VectorIntegers : meets ctx0 0 .v [vecPend 767 2 0 0] (fun _ => true) = true := by decide
theorem witness_VectorFloats :
    meets ctx0 0 .v [vecPend 0 5 0 0] (fun e => fmtNfmt e.c.fmt == 0) = true ∧
    meets { ctx0 with fmt := 0x25 } 0 .v [vecPend 0 5 0 0] (fun e => fmtNfmt e.c.fmt != 0) = true := by decide
set_option maxRecDepth 8000 in
theorem witness_VectorCompares :
    meets ctx0 0 .v [Pend.make (.p 15) 2 0] (fun e => (e.preds 8 32 0).head? == some true && (e.elems 8 32 769).head? == some 256) = true ∧
    meets ctx0 0 .v [condPend 31 2 false] (fun e => (e.elems 8 32 0).head? == some 0) = true := by decide
set_option maxRecDepth 8000 in
theorem witness_VectorOthers :
    meets ctx0 0 .v [vecPend 767 6 0 0, Pend.make (.s 57) 6 0] (fun _ => true) = true ∧
    meets ctx0 0 .v [vecPend 767 8 0 0] (fun e => (e.preds 8 32 1).all (· == false)) = true := by decide
theorem witness_CrossbarForms :
    meets { ctx0 with xp := [(1, 0, 15)] } 0 .x [vecPend 767 3 0 0] (fun e => (e.c.readXp 1).2.getLsbD 3) = true ∧
    meets ctx0 0 .x [vecPend 767 3 0 0] (fun e => !(e.c.readXp 1).2.getLsbD 3) = true := by decide
def ctxT : Ctx := { ctx0 with stack := [entry0, entry0, entry0], tiles := [(1, tile0 .deck)], nextTile := 2, plane0 := some entry0, deckq := 64, s := [(1, 0x60183)] }
theorem witness_TileReferences :
    meets ctxT 0 .t [Pend.make (.s 5) 2 0] (fun e =>
      let t := e.tin 1 1 0
      decide (e.c.window.length < 32) && decide (3 ≤ e.c.stack.length) && tileFmtOk (shapeEntry (t.par 0)).fmt &&
        (shapeEntry (t.par 0)).bytes == (t.at 0).bytes && (t.at 0).scale == 0 && weightFmt 5) = true := by decide
theorem witness_TileOperations :
    meets ctxT 0 .t [] (fun e =>
      let t := e.tin 0 0 0
      (t.at 0).fmt == (t.at 1).fmt && (t.at 0).rows == (t.at 2).rows && decide ((t.at 0).cols ≤ 128) && decide (3 < (t.at 2).fmt.toNat)) =
      true := by decide
theorem witness_TrestleForms :
    meets ctxT 0 .t [] (fun e =>
      let t := e.tin 0 0 0
      t.c.plane0 == some entry0 && (t.at 0).fmt == entry0.fmt && (t.at 0).cols == entry0.rows && (t.at 1).fmt == 6 &&
        (t.at 1).rows == (t.at 0).rows && (t.at 1).cols == entry0.cols) = true := by decide
theorem witness_TileTrapOrder :
    meets ctx0 0 .t [] (fun e => e.c.stack.isEmpty) = true ∧
    meets { ctxT with tlimit := 3 } 0 .t [] (fun e => e.c.stack.length == e.c.tlimit) = true ∧
    meets { ctxT with stack := [{ entry0 with fmt := 5 }, entry0] } 0 .t [] (fun e =>
      let t := e.tin 0 0 0
      (t.at 0).fmt != (t.at 1).fmt) = true ∧
    meets { ctxT with stack := [{ entry0 with rows := 5 }, entry0] } 0 .t [] (fun e =>
      let t := e.tin 0 0 0
      (t.at 0).fmt == (t.at 1).fmt && (t.at 0).rows != (t.at 1).rows) = true ∧
    meets { ctxT with s := [(1, 0x70000)] } 0 .t [] (fun e => !tileFmtOk (shapeEntry ((e.tin 1 1 0).par 0)).fmt) = true ∧
    meets { ctxT with s := [(1, 0x40060000)] } 0 .t [] (fun e =>
      tileFmtOk (shapeEntry ((e.tin 1 1 0).par 0)).fmt && decide (2 ^ 30 ≤ ((e.tin 1 1 0).par 0).toNat)) = true := by decide
theorem witness_TileLoadsAndStores :
    meets { ctxT with scratch := 512, s := [(1, 256), (2, 0x60183), (3, 16)] } 0 .t [Pend.make (.w 1) 1 0] (fun e =>
      let t := e.tin 1 3 0
      tileFmtOk (shapeEntry (t.par 1)).fmt && ((List.range 4).all fun i => (spFail t.c (t.par 0 + BitVec.ofNat 64 i * t.par 2) 16).isNone) &&
        e.c.opsDone && (AL.find e.c.tiles 1).any fun x => x.tier == .deck && x.img.isSome) = true ∧
    meets { ctxT with window := [op0 .waiting] } 0 .t [Pend.make (.w 1) 1 0] (fun e => !e.c.opsDone) = true := by decide
/-- Device memory with page tables of domain 0 that map its first 64 KiB at 0x10000 and its records at address 0. -/
def mapped (c : Ctx) : State := { on c with
  mem := [(0x1000, 1), (0x1001, 0x20), (0x2000, 1), (0x2001, 0x30), (0x3000, 1), (0x3001, 0x40), (0x4000, 1), (0x4001, 0x50),
    (0x5000, 0x1F), (0x5002, 1)]
  doms := [(0, { root := 0x1000, recBase := 0 })] }
/-- A record of 128 bytes: FP32, rank 1, extent 512, three contributions expected, no optimizer. -/
def recBody : List Byte :=
  natLe 8 0x1000 ++ natLe 4 512 ++ natLe 24 0 ++ natLe 28 4 ++ natLe 1 6 ++ natLe 1 1 ++ natLe 10 0 ++ natLe 4 3 ++ natLe 40 0 ++ natLe 4 1
def rec0 : List Byte := recBody ++ natLe 4 (recSum (recBody ++ natLe 4 0))
set_option maxRecDepth 8000 in
theorem witness_TensorForms : recDefect rec0 = false ∧
    meetsIn { on { ctxT with s := [(1, 5)] } with recs := [⟨0, 0, 5, rec0⟩] } 0 .t [] (fun _ => []) (fun e =>
      let t := e.tin 1 4 0
      twId (t.par 0) == 5 && t.s.drops.isEmpty && (t.s.cached (dieOf t.a) 0 5).map (·.bytes) == some rec0 &&
        (t.s.latchFault t.c 5 false).isNone && (t.s.latchFault t.c 5 true).isNone && twRead (t.par 0)) = true := by decide

theorem witness_IssueEvents :
    (on ctx0).ctx 0 = some ctx0 ∧ ctx0.opFaulted = false ∧ half0.mbz = true ∧ half0.item 0 = some (.ref 0 0) ∧
    ((on ctx0).env 0 half0 (half0.after 1)).isSome = true ∧
    decodeBundle (ctx0.bundle 0) [] = .ok true {} ∧
    Half.item ⟨0, (4 : BitVec 64) <<< 4 ||| 1, [encodeRepeat 3, 0, encodeRef 0 0, encodeSegEnd], 0⟩ 0 = some (.group 4 0 0 0) ∧
    Half.last ⟨0, (2 : BitVec 64) <<< 4, half0.units, 0⟩ = false ∧ resOk ((mapped ctx0).fetchSeg 0 0) (fun _ => true) = true := by decide
def addWord : BundleWord := BitVec.ofNat 256 (2 ^ 252 + (31 * 2 ^ 26 + 5 * 2 ^ 14 + 6 * 2 ^ 8 + 7 * 2 ^ 2) * 2 ^ 173)
theorem witness_StepRunsDecoded :
    (on { ctx0 with bt := [(0, addWord)] }).poisoned (btKey 0 0) 32 = false ∧
    decodeBundle addWord [] = .ok false { s := some (.add 31 5 6 (.reg 7)) } ∧
    (reqOf (.add 31 5 6 (.reg 7))).isSome = true := by decide
theorem witness_ResultLanding :
    ((on { ctx0 with pend := [Pend.make (.s 1) 0 0, Pend.make (.s 57) 1 0] }).ctx 0).any (fun c => match c.pend with
      | p :: r => p.left == 0 && p.ready && r.all fun q => q.left != 0
      | [] => false) = true := by decide
theorem witness_IssueSelection :
    ((on ctx0).readyOn 0).map (·.1) = [0] ∧ starving ((on ctx0).readyOn 0) = none ∧ byPriority 3 ((on ctx0).readyOn 0) = some 0 ∧
    starving ((on { ctx0 with waitCount := 4096 }).readyOn 0) = some 0 ∧
    ((on { ctx0 with yieldPass := true, yieldAt := 0 }).readyOn 0).length = 0 := by decide

def kernel0 : Kernel := ⟨⟨0, 0⟩, [1], 1, 1, 512, 0, 8, 8⟩
def inst0 (st : InstStatus) (eff since : Nat) (ms : List Member) : GInst :=
  ⟨1, 0, 0, kernel0, 0, st, 0, eff, since, 0, 0, 0, ms, [], [], [], 0, [], [], [], [], []⟩
def task0 (kind : Nat) (st : TState) (count : Nat) (payload : List Byte) : Task :=
  ⟨1, 0, 7, kind, 0, 0, false, [], payload, 0, 0, st, 0, 0, 0, 0, count, false, 0, 0, false, none⟩
def withInst (c : Ctx) (g : GInst) : State := { on c with insts := [g], tasks := [task0 1 .accepted 0 []], ready := true }
theorem witness_BarrierRelease :
    let s := withInst { ctx0 with task := 1, arrived := some (false, 3, 0) } (inst0 .placed 0 0 [⟨0, 0, 0, 0, false⟩])
    (s.inst 1 0).map (·.status) = some .placed ∧ ((s.ctxOf 0 0).bind fun c => c.standsAt false 3) = some 0 ∧
      ((s.ctxOf 0 0).bind fun c => c.standsAt false 2) = none := by decide
theorem witness_SyncWords : (List.replicate 32 (0 : Byte)).length = 32 ∧ (0 : Nat) < 2 ^ 32 := by decide
def acc0 (k : AKind) (ord level : Nat) (stamp : Option Nat) : Access :=
  ⟨3, 0, 0, 0, k, true, 0, [(0, 0, 8)], 8, false, ord, 0, 0, 0, 0, 0, 0, none, none, ⟨0, 0⟩, 0, 0, level, false, stamp, 0, 0, false, false, 0, 0⟩
def withAcc (x : Access) : State :=
  { mapped { ctx0 with scratch := 512 } with accs := [x], shares := [⟨0, 0, 0, 0, 0, 0, 512, 0, true⟩], cycle := 4096 }
set_option maxRecDepth 8000 in
theorem witness_AccessEvents :
    (withAcc (acc0 .load 0 0 none)).mayTry (acc0 .load 0 0 none) = true ∧
    resOk ((withAcc (acc0 .load 0 0 none)).performRead (acc0 .load 0 0 none)) (fun _ => true) = true ∧
    resOk ((withAcc (acc0 .store 0 0 none)).performWrite (acc0 .store 0 0 none)) (fun _ => true) = true ∧
    (withAcc { acc0 .load 0 0 none with sp := false, va := 2 ^ 40, parts := [(2 ^ 40, 0, 8)] }).accFault
      { acc0 .load 0 0 none with sp := false, va := 2 ^ 40, parts := [(2 ^ 40, 0, 8)] } ≠ none ∧
    (withAcc (acc0 .store 0 3 none)).acc 3 = some (acc0 .store 0 3 none) ∧
    (withAcc { acc0 .load 0 0 none with wit := mkWit 3 4 0 0 0 0 }).witFailed (mkWit 3 4 0 0 0 0) = true ∧
    (withAcc (acc0 .swarr 0 0 none)).arrivals = [] ∧ (withAcc (acc0 .load 2 0 none)).before (acc0 .load 2 0 none) = [] ∧
    (withAcc (acc0 .load 2 0 (some 0))).mayTry (acc0 .load 2 0 (some 0)) = true := by decide
theorem witness_ClockEvents : ({ State.reset with epoch := 1 } : State).canClose 0 4 = true := by decide
set_option maxRecDepth 8000 in
theorem witness_TranslationEvents :
    (mapped ctx0).walk 0 0x1234 = .leaf ⟨0x10000, true, true, true, 0, 0, false⟩ ∧
    (({ State.reset with backing := [(0, 0, 0, 0x1F)] } : State).backing.find? fun b =>
      b.1 == 0 && b.2.2.1 / 2 ^ levelLo b.2.1 == 0x1234 / 2 ^ levelLo b.2.1) = some (0, 0, 0, 0x1F) := by decide
set_option maxRecDepth 8000 in
theorem witness_RecordEvents :
    resOk ((mapped ctx0).readFlat 0 .read [] ((mapped ctx0).recAddr 0 5) 128) (·.length == 128) = true ∧
    (mapped ctx0).cached 0 0 5 = none ∧ (mapped ctx0).witSat 0 = true ∧ (mapped ctx0).witFailed 0 = false := by decide
theorem witness_MemoryWrites : Memory.wf (mapped ctx0).mem = true := by decide
theorem witness_OutsideAndErrors : (0x100 + [1, 2].length ≤ 2 ^ 39) ∧ State.reset.hostUp = true ∧ 15 ∉ State.reset.portsDown := by decide
/-! ## The tile engines, the tiers, the update units and the collectives -/

/-- A context that has one operation in its window and a produced tile in its deck; its core's engines are free. -/
def ctxW (o : TOp) : Ctx := { ctxT with window := [o] }
def opFwd (st : OpStatus) : TOp := { op0 st with form := .txp 31, binds := [entry0], results := [⟨3, 4, 4, 6, 0⟩] }
def opTtov (st : OpStatus) : TOp := { op0 st with form := .ttov 31 0 0 0 }
def isDone (r : Ran) : Bool :=
  match r with
  | .done .. => true
  | _ => false
def isFault (r : Ran) : Bool :=
  match r with
  | .fault .. => true
  | _ => false
set_option maxRecDepth 8000 in
theorem witness_TileEngineEvents :
    (let s := on (ctxW (op0 .waiting))
     (s.ctx 0).isSome && ((ctxW (op0 .waiting)).op 0 == some (op0 .waiting)) && (engineOf (op0 .waiting).form == .vt) &&
       (s.coreSt 0).epi.isEmpty && s.claims 0 0 .vt 0 && s.freeUnit 0 .vt == some 0 && !s.witFailed 0) = true ∧
    hasEpilogue (.mfw 31 1 false) = true ∧ hasEpilogue (.ttov 31 0 0 0) = false ∧ engineOf (.ttov 31 0 0 0) ≠ .update ∧
    isDone (runOp (on (ctxW (opTtov (.running 0)))) 0 (ctxW (opTtov (.running 0))) (opTtov (.running 0)) 0) = true ∧
    isDone (runCompute (on (ctxW (opFwd .epilogue))) (ctxW (opFwd .epilogue)) (opFwd .epilogue)) = true := by decide
theorem witness_TileResults :
    let x : TArg := ⟨⟨1, 2, 2, 0, 0⟩, [1, 2, 3, 4]⟩
    x.xs.length = x.e.rows * x.e.cols ∧ (1 : Nat) < x.e.rows ∧ 0 < x.e.cols ∧ x.e.fmt.toNat ≤ 3 ∧ x.ints[3]? = some 4 ∧
    (opFwd .epilogue).results.head? = some ⟨3, 4, 4, 6, 0⟩ ∧ (((ctxW (opFwd .epilogue)).args [entry0]).any fun l => l.length == 1) = true := by
  decide

def contrib0 : Contribution := ⟨0, 5, [0], List.replicate 32 0, 0, 0, 0, 0, 1, 0, ⟨0, 0⟩, rec0⟩
/-- The record with its order bit set, and a line of the tensor that it describes. -/
def recOrd : List Byte := rec0.take 73 ++ [1] ++ (rec0.drop 74)
def line0 : GradLine := ⟨0, 5, [0], rec0, clearBlocks, 3, 0, [], [], 0, 0, ⟨0, 0⟩, false⟩
set_option maxRecDepth 8000 in
theorem witness_UpdateUnitEvents :
    ({ State.reset with grads := [contrib0] } : State).grads[0]? = some contrib0 ∧
    (TRec.parse 5 rec0).ordered = false ∧ (TRec.parse 5 recOrd).ordered = true ∧ 0 < (TRec.parse 5 rec0).expect ∧
    line0.tag = contrib0.tag ∧ 15 < 0 + 16 ∧ (TRec.parse 5 rec0).expect ≤ line0.count ∧
    resOk ((mapped ctx0).readFlatVia true none 0 [] (linePieces 3 0 64)) (·.length == 64) = true := by decide
def coll0 : Collective := ⟨0, 0, 6, 2, [0x100], [0x200], 0x300, 0, 0, 0, 1, 0, 0, 0, false⟩
def notice0 : Notice := ⟨0, 0x400, 7, 64, 0, 2, 5, 0, 0, 0⟩

def taskR : Task := { task0 1 .accepted 0 [] with preds := 0 }
def ready0 (g : GInst) : State := { mapped ctx0 with ctxs := [], insts := [g], tasks := [taskR], ready := true }
set_option maxRecDepth 8000 in
theorem witness_SchedulingEvents :
    (let s := ready0 (inst0 .ready 0 0 [])
     (s.inst 1 0 == some (inst0 .ready 0 0 [])) && (s.task 1).isSome && s.waiting (inst0 .ready 0 0 []) &&
       s.fitsAt (inst0 .ready 0 0 []) 0 0 0 && s.turnOf (inst0 .ready 0 0 []) 0) = true ∧
    (let g := inst0 .saved 0 0 []
     let s := ready0 g
     s.waiting g && s.fitsAt g 0 0 0 && s.turnOf g 0) = true ∧
    (let g := inst0 .placed 0 0 [⟨0, 0, 0, 0, false⟩]
     let s := withInst { ctx0 with task := 1 } g
     ((s.halt g).saveInst g).isSome && s.arrivals.isEmpty) = true ∧
    (let g := inst0 .placed 0 0 [⟨0, 0, 0, 0, true⟩]
     let s : State := { withInst { ctx0 with task := 2 } g with ctxs := [] }
     g.members.any (fun m => m.team == 0) && g.members.all (·.exited) && s.ctxs.isEmpty && s.accs.isEmpty) = true ∧
    smallestFull [⟨3, 1, 4, 64, 2⟩, ⟨4, 1, 4, 64, 1⟩] = some ⟨4, 1, 4, 64, 1⟩ ∧
    (∀ h ∈ ctx0.halves, h.gen = State.reset.codegen) := by decide

/-- Queue 3 of 256 units at 0x8000 of host memory with one packet of two units: a signal task. -/
def ring0 : State := { State.reset with
  ready := true, queues := [(3, ⟨0x8000, 8, 0, true, 0, 2⟩)]
  mem := [(physKey 0 0 0x8000, 2), (physKey 0 0 0x8001, 3), (physKey 0 0 0x8004, 7), (physKey 0 0 0x800C, 8)] }
def pkt0 : LaunchPkt := ⟨3, List.replicate 32 0, 0, 0, 0, 1, none⟩
set_option maxRecDepth 8000 in
theorem witness_TaskEvents :
    (let q : QueueSt := ⟨0x8000, 8, 0, true, 0, 2⟩
     ring0.queue 3 == some q && ring0.hostUp && ring0.nextVisit == some 3 && fieldAt (ring0.ringUnits q 0 1) 0 1 == 2 &&
       q.pending == 2 && ring0.refusal q (ring0.ringUnits q 0 2) none == none &&
       ring0.refusal { q with dom := 64 } (List.replicate 32 0) none == some 1) = true ∧
    (let s := { ring0 with launchQ := [pkt0] }
     s.launchQ[0]? == some pkt0 && decide (2 + pkt0.bytes.length / 16 ≤ 2 ^ 8)) = true ∧
    (let s := ready0 (inst0 .retired 0 0 [])
     (s.task 1 == some taskR) && !taskR.state.ended && s.allVisible (s.cidsOf 1) && s.ctxs.isEmpty) = true := by decide

def work (kind count : Nat) (payload : List Byte) : State :=
  { mapped ctx0 with tasks := [{ task0 kind .running count payload with preds := 0 }] }
def copyDone : Task := { task0 2 .running 1 (natLe 16 0 ++ natLe 16 64) with next := 64, preds := 0 }
def obj0 : Obj := ⟨0, 9, 0, [kernel0], [], [], none⟩
set_option maxRecDepth 8000 in
theorem witness_KeystoneWork :
    ((work 4 0 (natLe 16 0)).task 1).any (·.ready) = true ∧
    (fieldAt copyDone.payload 16 8 ≤ copyDone.next ∧ copyDone.count ≠ 0 ∧ (work 2 0 []).accs = []) ∧
    (work 3 0 (natLe 8 0x100)).witSat 0 = true ∧
    resOk ((work 4 0 (natLe 16 0)).trans true (flatTag 0 0) 0 .read true) (fun l => !(mapped ctx0).poisoned (l.key 0) 32) = true ∧
    (work 5 0 (natLe 8 5)).drops = [] ∧
    resOk ((work 8 0 (natLe 16 0)).readImage (task0 8 .running 0 (natLe 16 0)) 0)
      (fun img => (work 8 0 (natLe 16 0)).loadStatus 0 img == 0x61) = true ∧
    (match (work 8 0 (natLe 16 0)).writeFlatVia true 0 [(0, 16)] ((work 8 0 (natLe 16 0)).loadResult 0 0x61) with
      | (_, none) => true
      | _ => false) = true ∧
    (match (work 8 0 (natLe 16 0)).writeFlatVia true 0 [(0, 16)] ((work 8 0 (natLe 16 0)).loadResult 1 0) with
      | (_, none) => true
      | _ => false) = true ∧
    (({ work 9 0 (natLe 8 9) with objs := [obj0] } : State).objOf 0 9 = some obj0 ∧
      ∀ x ∈ (work 9 0 (natLe 8 9)).tasks, x.kind ≠ 1) := by decide

theorem witness_PackageEvents :
    State.reset.ready = false ∧ State.reset.recovery = false ∧ ({ State.reset with hostUp := false } : State).hostUp = false ∧
    (3 : Nat) ∉ State.reset.portsDown ∧ State.reset.cycle % 1050000 = 0 ∧
    (({ State.reset with resid := [⟨0, 0, 0, 5⟩] } : State).resid = [⟨0, 0, 0, 5⟩] ∧ State.reset.cycle % 1050000000 = 0 ∧
      State.reset.belowLife 0 (AL.get 0 State.reset.thresh 0) = false) := by decide

/-- The package after boot, with an argument area at 0x9000. -/
def booted (bs : List (Nat × Byte)) : State := { ring0 with
  marg := 0x9000, mem := ring0.mem ++ bs.map fun b => (physKey 0 0 (0x9000 + b.1), b.2), withdrawn := [(0, 3)] }
set_option maxRecDepth 8000 in
theorem witness_MailboxAndRegisters :
    (let s := booted []
     let ok := fun (n : Nat) => s.marg.toNat % 64 == 0 && decide (s.marg.toNat + areaLen n ≤ 2 ^ 39) && s.areaZero n
     s.hostUp && s.ready && !s.recovery && [2, 3, 4, 5, 6, 7, 8, 9, 10, 11, 13].all ok && s.arg 0 1 == 0 && s.arg 1 1 == 0 &&
       s.pathRoom 0 0 0 && s.objs.isEmpty && (AL.find s.hours 0).all fun h => decide (s.arg 4 4 ≤ h.toNat)) = true ∧
    (let s := booted [(9, 0x10), (16, 8), (18, 1)]
     s.areaZero 1 && s.arg 18 1 == 1 && s.arg 16 1 == 8 && s.arg 8 8 == 0x1000 && s.arg 28 12 == 0 && s.tasks.isEmpty) = true ∧
    (let s := booted [(1, 1)]
     s.areaZero 7 && s.arg 1 1 == 1) = true ∧
    (let s := booted [(0, 0x45), (1, 0x53), (2, 0x45), (3, 0x52)]
     s.areaZero 12 && s.arg 0 8 == 0x52455345) = true ∧
    (let s := booted [(0, 3)]
     s.areaZero 11 && (s.queue (s.arg 0 1)).isSome && (s.queue 3).any fun x => decide (x.tail < 2 ^ 32)) = true ∧
    (let s := { booted [(0, 3), (4, 7)] with tasks := [{ task0 3 .running 0 [] with queue := 3 }] }
     s.areaZero 5 && (s.tasks.find? fun t => t.queue == s.arg 0 1 && t.tag == BitVec.ofNat 32 (s.arg 4 4) && !t.state.ended).isSome) =
      true := by decide

set_option maxRecDepth 8000 in
theorem witness_TrapEntryAndReturn :
    (on { ctx0 with capture := some cap0 }).ctx 0 = some { ctx0 with capture := some cap0 } ∧ ctx0.capture = none ∧
    (let c := { ctx0 with tvec := 0x100000 }
     c.tvec ≠ 0 ∧ c.tvec.extractLsb' 60 4 = 0 ∧ c.trapbuf = 0) ∧
    (0x1000000000000000 : W64).extractLsb' 60 4 ≠ 0 ∧
    (let s := on { ctx0 with tvec := 0x400, halves := [half0, { half0 with seg := 128 }] }
     match s.target 0 (CodePos.ofWord 0x400) with
     | .ok s1 true => s1.ctx 0 == s.ctx 0
     | _ => false) = true := by decide

set_option maxRecDepth 8000 in
theorem witness_FormFrame :
    (match (on ctx0).issuing 0, exec (.add 31 5 6 (.imm 7)) (on ctx0) with
      | some e, .next t => (t.ctx e.a).any fun d => d.tick == e.c.tick + 1
      | _, _ => false) = true ∧
    (reqOf (.add 31 5 6 (.imm 7))).any (fun r => r.slot != .c) = true := by decide
/-- A state that issues, with the given results in flight. -/
def inFlight (l : List Pend) : State := on { ctx0 with pend := l }
/-- A form meets the hypotheses of a collision clause in a state that issues. -/
def collides (i : Instr) (s : State) (ok : Env → SlotReq → Eff → List Pend → Bool) : Bool :=
  match s.issuing 0, reqOf i with
  | some e, some r =>
    r.mask.getLsbD 0 && !(r.eff e).illegal && ok e r (r.eff e) ((r.base e).toList ++ (r.eff e).pends)
  | _, _ => false
set_option maxRecDepth 8000 in
theorem witness_Leaves_hit :
    meets ctx0 0 .s [] (fun e => e.room .s [] []) = true ∧
    collides (.add 31 5 6 (.imm 7)) (inFlight [Pend.make (.s 5) 1 0, Pend.make (.s 5) 2 0]) (fun e _ _ new =>
      new.any fun p => e.c.pend.any fun q => p.reg == q.reg && p.left == q.left) = true := by decide
set_option maxRecDepth 8000 in
theorem witness_Leaves_results :
    collides (.add 31 5 6 (.imm 7)) (inFlight ((List.range 64).map fun i => Pend.make (.s 6) (i + 20) 0)) (fun e r f new =>
      collisions e.c.pend [⟨r.slot, true, f, new⟩] == 0 && decide (f.vreads.length ≤ 4) && decide (64 < e.c.pend.length + new.length) &&
        new.all fun p => !p.isV) = true := by decide
set_option maxRecDepth 8000 in
theorem witness_Leaves_writes :
    collides (.vadd 31 0 10 11 12 0) (inFlight [Pend.make (.v 1) 2 0, Pend.make (.v 2) 2 0]) (fun e r f new =>
      collisions e.c.pend [⟨r.slot, true, f, new⟩] == 0 && decide (f.vreads.length ≤ 4) &&
        new.any fun p => p.isV && decide (2 < vWrites (e.c.pend ++ new) p.left)) = true := by decide
set_option maxRecDepth 8000 in
theorem witness_Leaves_reads :
    (match (on ctx0).issuing 0, reqOf (.vscatp ⟨31, 0, 0, 0, 0, 0⟩ 1 ⟨1, .base⟩), reqOf (.vfma 31 4 10 11 12 0) with
      | some e, some x, some y => x.slot == .m && y.slot == .v && !(x.eff e).illegal && !(y.eff e).illegal &&
          collisions e.c.pend ([x, y].map (doneOf e 1 false)) == 0 && decide (4 < (x.eff e).vreads.length + (y.eff e).vreads.length)
      | _, _, _ => false) = true := by decide
def seen0 : Access := { acc0 .store 0 0 none with sp := false, va := 256 }
set_option maxRecDepth 8000 in
theorem witness_SyncForms_held :
    meetsIn { on ctx0 with accs := [seen0] } 0 .m [] (fun _ => []) (fun e => e.c.swKey == none &&
      seen0.cid == e.c.cid && seen0.meets (e.access .swpoll ⟨31, 0, 0, 0, 0, 0⟩ false 256 32)) = true ∧
    meets { ctx0 with scratch := 512, swKey := some 256, swRel := some 5 } 0 .m [] (fun e =>
      resOk (syncHeld e true 256 256) (fun kb => kb.2.length == 32) && e.c.swRel == some 5) = true := by decide
set_option maxRecDepth 8000 in
theorem witness_AddressTraps_elements :
    meets { ctx0 with scratch := 256, s := [(1, 0)] } 0 .m [] (fun e =>
      match e.gatherAddrs ⟨31, 0, 0, 3, 0, 0⟩ 767 (addrOf e.c ⟨1, .base⟩ 8) with
      | x :: _ => (spFail e.c x.2 8).isNone && x.2.toNat % 8 == 0
      | [] => false) = true ∧
    meets { ctx0 with scratch := 0, s := [(1, 2 ^ 20)] } 0 .m [] (fun e =>
      match e.gatherAddrs ⟨31, 0, 0, 3, 0, 0⟩ 767 (addrOf e.c ⟨1, .base⟩ 8) with
      | x :: _ => (spFail e.c x.2 8).isSome
      | [] => false) = true ∧
    meets { ctx0 with scratch := 256, s := [(1, 4)] } 0 .m [] (fun e =>
      match e.gatherAddrs ⟨31, 0, 0, 3, 0, 0⟩ 767 (addrOf e.c ⟨1, .base⟩ 8) with
      | x :: _ => (spFail e.c x.2 8).isNone && x.2.toNat % 8 != 0
      | [] => false) = true ∧
    meets { ctx0 with s := [(1, 512)] } 0 .m [] (fun e => decide (512 ≤ (addrOf e.c ⟨1, .base⟩ 1).toNat)) = true ∧
    meets { ctx0 with w := [(1, mkWit 1 4 9 0 0 1)] } 0 .m [] (fun e => (e.s.witFault e.a 0 (e.c.readW 1)).isSome) = true := by decide
set_option maxRecDepth 8000 in
theorem witness_VectorOthers_tree :
    meets ctx0 0 .v [vecPend 767 8 0 0] (fun e =>
      (treeRoot (sumNode e 4) 6 (List.zipWith (fun q (u : FVal × Bool) =>
        if q then some (u.1, [(if u.1.isNan then ev 1 else 0) ||| flushEv [u]]) else none) (e.preds 4 64 0) (e.vals 4 64 0))).isSome) = true ∧
    meets { ctx0 with fmt := 0 } 0 .v [] (fun e => fmtNfmt e.c.fmt == 0) = true := by decide
theorem witness_TileLoads_held :
    meets { ctxT with tiles := [(1, tile0 .pier)] } 0 .t [] (fun e => e.c.opsDone &&
      (AL.find e.c.tiles 1).any fun x => x.tier != .deck) = true := by decide
/-- The core of a context that has the issue of the present cycle. -/
def turned (s : State) : State := s.onCore 0 fun x => { x with chosen := some 0, issued := some (0, 1) }
def issuesIn (s : State) : Bool :=
  match ({ s with cur := 0 } : State).env 0 half0 (half0.after 1) with
  | some e => s.hasIssued (issueIn e (slotReqs {})) 0
  | none => false
theorem witness_IssueEvents_turn :
    ((turned (on ctx0)).coreSt 0).chosen = some 0 ∧ ((turned (on ctx0)).coreSt 0).issued = some ((turned (on ctx0)).cycle, 1) ∧
    issuesIn (turned (on ctx0)) = true ∧ (turned (on ctx0)).hasTurn 0 = true ∧ (on ctx0).hasTurn 0 = false ∧
    issuesIn (turned (on { ctx0 with statq := [⟨⟨0, 0⟩, 0, 1, 1⟩] })) = true := by decide
theorem witness_StepRunsDecoded_turn :
    (match exec (.add 31 5 6 (.reg 7)) (turned (on { ctx0 with bt := [(0, addWord)] })) with
      | .next t => (turned (on ctx0)).hasIssued t 0
      | _ => false) = true := by decide
theorem witness_IssueSelection_used :
    (let s := on ctx0
     (s.coreSt 0).chosen == none && s.netSteps 0 == 0) = true ∧
    ((turned (on ctx0)).coreSt 0).chosen.any (fun b => (turned (on ctx0)).hasTurn b && (turned (on ctx0)).readyNow b) = true ∧
    ((on ctx0).onCore 0 fun x => { x with chosen := none, issued := some (0, 1) }).hasTurn 0 = false ∧
    ((on { ctx0 with yieldPass := true, yieldAt := 0 }).readyNow 0) = false ∧
    (({ on ctx0 with ctxs := [(0, ctx0), (1, { ctx0 with cid := 1, yieldPass := true })] } : State).seenIssue 0 0 [1]).ctx 1 =
      some { ctx0 with cid := 1, yieldPass := true, yieldSeen := [0], waitCount := 1, waitAt := 1 } := by decide
def arr0 (after : Bool) (va : Nat) : Arrival := ⟨7, 0, false, va, 0, 5, 0, 769, 2, 0, after, 0, 0, ⟨0, 0⟩, none, 0⟩
def form0 (level : Nat) : FormRec := { agent := 769, dom := 0, seq := 2, wscope := 5, level := level, failed := false, epoch := 0, cid := 0 }
set_option maxRecDepth 8000 in
theorem witness_SyncWords_arrival :
    (let s : State := { mapped ctx0 with arrivals := [arr0 true 0], forms := [form0 0] }
     s.arrivals.find? (fun y => y.id == 7) == some (arr0 true 0) && s.forms.any (fun f => f.isForm 769 0 2 && decide (f.level < scopeLevel f.wscope))) = true ∧
    resOk ((mapped ctx0).arriveAt true 0 false 0 5 [0] 0 none) (fun _ => true) = true ∧
    resFault ((mapped ctx0).arriveAt true 0 false (2 ^ 40) 5 [0] 0 none) = true ∧
    resWait (({ mapped ctx0 with backing := [(0, 0, 2 ^ 40, 0x1F)] } : State).arriveAt true 0 false (2 ^ 40) 5 [0] 0 none) = true := by decide
theorem witness_ClockEvents_due : (State.reset.epoch + 1) * 1024 > State.reset.cycle ∧ State.reset.resid = [] ∧
    (({ State.reset with cycle := 1024 } : State).epoch + 1) * 1024 ≤ ({ State.reset with cycle := 1024 } : State).cycle := by decide
/-- The mapped memory after the walk that a miss of its first line makes. -/
def walked : State :=
  match exec (.pageWalk 0 0) (mapped ctx0) with
  | .next t => t
  | _ => State.reset
def glob0 (k : AKind) : Access := { acc0 k 0 0 none with sp := false, parts := [(0, 0, 8)], lanes := 0xFF }
set_option maxRecDepth 8000 in
theorem witness_MemoryWrites_access :
    resOk (walked.translate (flatTag 0 0) 0 .write false) (fun l => l.target == 0 && (l.key 0 == physKey 0 0 0x10000)) = true ∧
    resOk (walked.performWrite (glob0 .store)) (fun w => w.level == 3) = true ∧
    resOk (walked.readGlobal (glob0 .load) .read false) (fun bs => bs.length == 8) = true ∧
    resOk (walked.homeReady (flatTag 0 0) [0] [(⟨0x10000, true, true, true, 0, 0, false⟩, 0, 8)]) (fun _ => true) = true ∧
    walked.poisonOf (flatTag 0 0) [(⟨0x10000, true, true, true, 0, 0, false⟩, 0, 8)] = none := by decide
def drop0 (sat : Bool) (wit : W64) (task : Nat) : Drop := ⟨0, 5, wit, 0, 2, 0, task, 0, ⟨0, 0⟩, 0, sat⟩
set_option maxRecDepth 8000 in
theorem witness_RecordEvents_drop :
    ({ mapped ctx0 with drops := [drop0 true 0 1] } : State).drops[0]? = some (drop0 true 0 1) ∧
    (mapped ctx0).witSat (drop0 false 0 0).wit = true ∧
    (mapped ctx0).witFailed (mkWit 3 4 0 0 0 0) = true ∧
    ((mapped ctx0).witFailed (mkWit 2 4 0 0 0 0) = false ∧ (mapped ctx0).witSat (mkWit 2 4 0 0 0 0) = false) := by decide
theorem witness_AccessEvents_poison :
    (let x := acc0 .load 0 0 none
     let s := { withAcc x with poison := [0] }
     (s.accFault x).any fun f => f.cause == 0x50) = true ∧
    (withAcc (acc0 .load 2 0 none)).ctxOf 0 0 ≠ none := by decide
/-- A context with room for one granule in the deck: tile 1 lies in the pier, tile 2 in the deck. -/
def ctxX : Ctx := { ctxT with
  stack := [entry0, { entry0 with tile := 2 }], tiles := [(1, tile0 .pier), (2, tile0 .deck)], plane0 := none, deckq := 1, pierq := 4096 }
def deckT : Ctx := { ctxT with pierq := 4096 }
set_option maxRecDepth 8000 in
theorem witness_TierEvents :
    (let s := on deckT
     s.copyFree 0 && (s.boundRise 0).isNone && !s.copyReady 0 && (s.firstOf 0 Ctx.risingTiles).isNone && (s.wantsRoom deckT).isNone &&
       (AL.find deckT.tiles 1 == some (tile0 .deck)) && deckT.victim [] == some 1 && decide (deckT.pierUsed + 1 ≤ deckT.pierG) &&
       (s.ctx (0 * 4 + 0)).isSome) = true ∧
    (let c := { ctxT with tiles := [(1, tile0 .pier)], trise := 0 }
     let s := on c
     s.copyFree 0 && (s.boundRise 0).isNone && !s.copyReady 0 && (s.firstOf 0 Ctx.risingTiles).isNone && c.lastIn .pier [] == some 1 &&
       (s.rise 0 1).isSome && resOk (s.tileBytes c 1 (tile0 .pier)) (fun _ => true) && decide (c.deckUsed + 1 ≤ c.deckG)) = true ∧
    (let c := { ctxT with tiles := [(1, tile0 .pier)], trise := 8 }
     (on c).copyFree 0 && ((on c).boundRise 0).isNone && c.risingTiles.contains 1 && ((on c).rise 0 1).isSome) = true := by decide
set_option maxRecDepth 8000 in
theorem witness_TierEvents_bound :
    (let c := { ctxT with tiles := [(1, tile0 .pier)], window := [{ op0 .waiting with binds := [entry0] }] }
     (on c).copyFree 0 && ((on c).boundRise 0).any fun r => r.agent == 0 && r.tile == 1) = true ∧
    (let c := { ctxX with window := [{ op0 .waiting with binds := [entry0] }] }
     decide (c.deckG < c.deckUsed + 1) && c.victim (c.riseKeep 1) == some 2 && c.tileImg 2 == some (List.replicate 64 (0 : Byte)) &&
       decide (c.deckUsed - 1 + 1 ≤ c.deckG) && decide ((c.setTier 1 .none (some (List.replicate 64 (0 : Byte)))).pierUsed + 1 ≤ c.pierG)) = true ∧
    (let c := { ctxX with window := [{ op0 .waiting with binds := [entry0, { entry0 with tile := 2 }] }] }
     decide (c.deckG < c.deckUsed + 1) && c.victim (c.riseKeep 1) == none) = true ∧
    (on { ctxT with window := [{ op0 (.running 0) with form := .acopy 31 0 0 }] }).copyFree 0 = false := by decide
set_option maxRecDepth 8000 in
theorem witness_TierEvents_unwind :
    (let o := op0 (.faulted ⟨1, 0, 0, 0, 0⟩)
     let c := { ctxT with window := [o], tvec := 0x400, halves := [half0, { half0 with seg := 128 }] }
     c.stopped == false && c.refault.isNone && c.window.dropWhile c.outOfWay == [o] && (on c).olderAccFault c o == none &&
       ((on c).ctx 0).isSome &&
       (let s0 := (((on c).setCtx 0 (c.cancelOps [o] 1)).putAllBack 0 o).onCtx 0 Ctx.retireTiles
        (s0.takeTrap 0 (unwindRec s0 c o ⟨1, 0, 0, 0, 0⟩ none 1) [o.asReplay] false |>.ctx 0).any (fun d => d.capture.isSome))) = true := by decide
def opBox (f : Instr) (st : OpStatus) : TOp :=
  { op0 st with form := f, params := [5, 0, 0, 0, 0x2000, 7], record := rec0, binds := [entry0], results := [⟨3, 4, 4, 6, 0⟩] }
def tgetOp : TOp := opBox (.tget 31 0 0) (.running 0)
def sendqOp : TOp := opBox (.tsendq 31 0 0) (.running 0)
def isWait (r : Ran) : Bool :=
  match r with
  | .wait .. => true
  | _ => false
def isSent (r : Ran) : Bool :=
  match r with
  | .sent .. => true
  | _ => false
set_option maxRecDepth 8000 in
theorem witness_TileEngineEvents_ends :
    isFault (runOp (on (ctxW tgetOp)) 0 (ctxW tgetOp) tgetOp 0) = true ∧
    isWait (runOp { on (ctxW tgetOp) with backing := [(0, 0, 0, 0x1F)] } 0 (ctxW tgetOp) tgetOp 0) = true ∧
    isSent (runOp (mapped (ctxW sendqOp)) 0 (ctxW sendqOp) sendqOp 0) = true ∧
    (let s := (on (ctxW (op0 .epilogue))).onCore 0 fun x => { x with epi := [(0, 0)] }
     (s.coreSt 0).epi == [(0, 0)] && s.freeUnit 0 .vt == some 0) = true ∧
    (let s := (on (ctxW (op0 (.running 0)))).onCore 0 fun x => { x with epi := [(0, 1), (0, 2), (0, 3), (0, 4)] }
     decide (s.depthOf (epiQueue 0) 4 64 ≤ (s.coreSt 0).epi.length)) = true ∧
    isDone (runCompute (on (ctxW (opFwd (.serving 0)))) (ctxW (opFwd (.serving 0))) (opFwd (.serving 0))) = true ∧
    (on (ctxW { op0 .waiting with wit := mkWit 3 4 0 0 0 0 })).witFailed (mkWit 3 4 0 0 0 0) = true := by decide
def contribAt (k : Nat) : Contribution := { contrib0 with idx := k, record := recOrd }
set_option maxRecDepth 8000 in
theorem witness_UpdateUnitEvents_order :
    (let l := { line0 with record := recOrd, count := 1, next := 1 }
     let r := TRec.parse 5 recOrd
     r.ordered && decide (l.count < r.expect) && decide ((contribAt 1).idx = l.next) && decide (r.expect ≤ (contribAt 9).idx) &&
       decide (l.next < (contribAt 2).idx ∧ (contribAt 2).idx < l.next + 16 ∧ (contribAt 2).idx < r.expect) &&
       decide ((contribAt 0).idx < l.next)) = true ∧
    State.reset.outstanding (773 + line0.tag.home) 0 < 2 ^ 19 := by decide
def recBig : List Byte := recOrd.take 76 ++ [32] ++ recOrd.drop 77
def lineM : GradLine := { line0 with record := rec0.take 88 ++ [6] ++ rec0.drop 89 }
/-- The tensor's line with a master record of number 6 in every die's cache. -/
def full0 : State := { mapped ctx0 with lines := [lineM], recs := (List.range 4).map fun d => ⟨d, 0, 6, rec0⟩ }
def lineChain (s : State) (l : GradLine) (die : Nat) : Nat :=
  let r := TRec.parse l.tensor l.record
  let cells := l.cells r
  let cs := cells.map (·.2)
  match s.readFlatVia true none l.dom [] (linePieces 3 r.hyper 64) with
  | .ok s1 hb =>
    match s1.lineRecords die l.dom r (Hyper.ofBytes hb) with
    | (s2, some (rs, copy)) =>
      match s2.readBoxes l.dom rs cs with
      | .ok s3 olds =>
        let all := l.blocks.flatMap fun b => (⟨b.x, b.m, b.st⟩ : AccVal).finish
        let res := lineResults r (Hyper.ofBytes hb) (cells.map fun c => (all[c.1]?).getD (0, 0)) olds
        match s3.writeBoxes l.dom
          (((rs.zip [res.map (·.1.1), res.map (·.2.1.1), res.map (·.2.2.1)]).map fun x => (x.1, imageOf 4 (x.2.map (·.toNat)))) ++
            copy.toList.map fun c => (c, imageOf 2 (res.map fun v => (NFmt.bf16.finish 0 0 false [f32Val v.1.1] (f32Val v.1.1)).1))) cs with
        | (_, none) => 0
        | _ => 4
      | _ => 3
    | _ => 2
  | _ => 1
set_option maxRecDepth 20000 in
theorem witness_UpdateUnitEvents_line : full0.lines[0]? = some lineM ∧ (TRec.parse 5 lineM.record).expect ≤ lineM.count ∧
    lineM.tag.home / 24 < 4 ∧ ∀ d < 4, lineChain full0 lineM d = 0 := by
  refine ⟨by decide, by decide, ?_, by decide⟩
  simp only [Tag.home]; omega
theorem witness_UpdateUnitEvents_early : (TRec.parse 5 recBig).ordered = true ∧
    (contribAt 20).idx < (TRec.parse 5 recBig).expect ∧ line0.next + 16 ≤ (contribAt 20).idx := by decide
def collS : State := { mapped (ctxW { op0 (.running 0) with seq := some 2 }) with colls := [coll0], notices := [notice0] }
def collEnd (r : State × Option (Option MFault)) : Nat :=
  match r.2 with
  | none => 0
  | some none => 1
  | some (some _) => 2
set_option maxRecDepth 8000 in
theorem witness_CollectiveEvents :
    (let s := collS
     s.colls[0]? == some coll0 && !s.witFailed 0 && s.witSat 0 && collEnd (s.collElems coll0 2 0) == 0 &&
       collEnd (s.collElems { coll0 with dsts := [2 ^ 40] } 2 0) == 2 &&
       collEnd (({ s with backing := [(0, 0, 2 ^ 40, 0x1F)] } : State).collElems { coll0 with dsts := [2 ^ 40] } 2 0) == 1 &&
       resOk (s.readSources coll0 0 [0x100]) (fun vs => collEnd (s.writeDests coll0 0 (combine 0 6 vs) [0x200]) == 0)) = true := by decide
set_option maxRecDepth 8000 in
theorem witness_CollectiveEvents_notice :
    (let s := collS
     (s.notices[0]? == some notice0) && ((s.ctx (s.slotOfCid 0)).bind (fun c => c.window.find? fun o => o.seq == some 2)).isSome &&
       s.forms.isEmpty && resOk (s.readFlatVia false none 0 [notice0.floor] (linePieces 3 0x400 32)) (fun h =>
         resOk (s.writeAll 0 (noticeWrites h notice0)) (fun _ => true))) = true := by decide
def big : GInst :=
  { inst0 .ready 4 0 [] with num := 1, prio := 4, kernel := { kernel0 with perTeam := 4, scratch := 2 ^ 23 } }
def small : GInst := inst0 .placed 0 0 [⟨0, 0, 0, 0, false⟩]
/-- An instance of priority 4 that waits: one team of 4 contexts with whole scratchpads, for which one span is left, where an
instance of priority 0 holds a share. -/
def forced : State :=
  { withInst { ctx0 with task := 1 } small with
    insts := [small, big], cycle := 2100000, withdrawn := (List.range 11).map fun k => (0, k + 1)
    doms := [(0, { root := 0, recBase := 0, dies := 1 })], shares := [⟨1, 0, 0, 0, 0, 0, 512, 0, true⟩] }
set_option maxRecDepth 20000 in
theorem witness_SchedulingEvents_forced :
    forced.waiting big = true ∧ big.eff = 4 ∧ big.since + 2100000 ≤ forced.cycle ∧ forced.fits big = false ∧
    forced.victims big = some [small] ∧ forced.areasFor [small] = true := by decide
set_option maxRecDepth 8000 in
theorem witness_SchedulingEvents_preempt :
    (let s := withInst { ctx0 with task := 1 } small
     s.areasFor [small] && ((s.halt small).saveInst small).any fun u => (u.inst 1 0).isSome) = true ∧
    (inst0 .ready 0 0 []).status ≠ .placed ∧ (withInst ctx0 (inst0 .ready 0 0 [])).arrivals = [] := by decide
/-- A die whose one context has a full statistics queue and is being saved, and whose first core's epilogue queue, with an
operation of that context in it, has so many chunks. -/
def stuck (k : Nat) : State :=
  { withInst { ctx0 with task := 1, stopped := true, statq := List.replicate 16 ⟨⟨0, 0⟩, 0, 1, 1⟩ } small with
    cycle := 256, chunks := [(1024, k)], cores := [(0, { epi := [(0, 0)] })] }
theorem smallestFull_isSome (l : List HwQueue) (h : l ≠ []) : (smallestFull l).isSome = true := by
  unfold smallestFull
  have : ∀ (l : List HwQueue) (m : HwQueue), (l.foldl (fun (m : Option HwQueue) q => match m with
    | none => some q
    | some x => if q.before x then some q else some x) (some m)).isSome = true := by
    intro l
    induction l with
    | nil => intro m; rfl
    | cons a r ih => intro m; simp only [List.foldl_cons]; split <;> exact ih _
  cases l with
  | nil => exact absurd rfl h
  | cons a r => exact this r a
theorem stuck_full (k : Nat) (l : List Nat) :
    ∃ x, smallestFull ((((stuck k).dropChunks l).hwQueues 0).filter ((stuck k).dropChunks l).queueFull) = some x := by
  apply Option.isSome_iff_exists.1
  apply smallestFull_isSome
  have hc : ((stuck k).dropChunks l).ctx 0 = (stuck k).ctx 0 := rfl
  have hs : ((stuck k).ctx 0).map (·.statChunks) = some 0 := rfl
  have hd : ((stuck k).dropChunks l).depthOf 0 16 16 = 16 := by simp [State.depthOf, State.chunksOf, hc, hs]
  have : (⟨0, 16, 16, 16, seqUnit 0⟩ : HwQueue) ∈ ((stuck k).dropChunks l).hwQueues 0 := by
    simp only [State.hwQueues, List.mem_append]
    refine .inl (.inl (.inl (.inl (List.mem_map.2
      ⟨(0, { ctx0 with task := 1, stopped := true, statq := List.replicate 16 ⟨⟨0, 0⟩, 0, 1, 1⟩ }), ?_, ?_⟩))))
    · exact List.mem_filter.2 ⟨List.mem_cons_self .., rfl⟩
    · have h0 : slotOf 0 = 0 := rfl
      simp only [State.statQueue, h0, hd]
      split <;> rfl
  exact List.ne_nil_of_mem (List.mem_filter.2 ⟨this, by simp [State.queueFull, hd]⟩)
set_option maxRecDepth 8000 in
theorem witness_SchedulingEvents_growth : (stuck 0).stalled 0 = true ∧ (stuck 256).stalled 0 = true ∧
    (∀ k l, ∃ x, smallestFull ((((stuck k).dropChunks l).hwQueues 0).filter ((stuck k).dropChunks l).queueFull) = some x) ∧
    (let s1 := (stuck 256).dropChunks [5120]
     256 ≤ s1.chunkSum (s1.dieQueues 0) ∧ s1.mostChunks 0 = some small ∧ 1024 ∈ s1.dieQueues 0) := by
  refine ⟨by decide, by decide, stuck_full, ?_, by decide, ?_⟩
  · refine le_trans (b := ((stuck 256).dropChunks [5120]).chunksOf 1024) (by decide) ?_
    apply List.single_le_sum (fun _ _ => Nat.zero_le _)
    refine List.mem_map.2 ⟨1024, List.mem_map.2 ⟨⟨1024, 1, 4, 64, coreUnit 0 6 0⟩, ?_, rfl⟩, rfl⟩
    simp only [State.hwQueues, List.mem_append]
    refine .inl (.inl (.inl (.inr (List.mem_map.2 ⟨0, by decide, by decide⟩))))
  · refine List.mem_map.2 ⟨⟨1024, 1, 4, 64, coreUnit 0 6 0⟩, ?_, rfl⟩
    simp only [State.hwQueues, List.mem_append]
    refine .inl (.inl (.inl (.inr (List.mem_map.2 ⟨0, by decide, by decide⟩))))
set_option maxRecDepth 8000 in
theorem witness_TaskEvents_ends :
    (ring0.launchQ.find? fun p => p.queue == 3 && p.place == some 0) = none ∧
    (let q : QueueSt := ⟨0x8000, 8, 0, true, 0, 2⟩
     let s : State := { ring0 with mem := [(physKey 0 0 0x8000, 17), (physKey 0 0 0x8001, 3)] }
     fieldAt (s.ringUnits q 0 1) 0 1 == 17 && s.refusal q (s.ringUnits q 0 1) none == some 2 && decide (1 ≤ q.pending) &&
       decide (({ q with tail := 1 } : QueueSt).pending < 2) && q.enable && q.dom == pkt0.dom &&
       decide (2 ^ 8 < (257 % 2 ^ 32 + 2 ^ 32 - q.head) % 2 ^ 32)) = true ∧
    (taskR.kind = 1 ∧ taskR.ending = none ∧ taskR.cancel = false ∧ taskR.state.ended = false) ∧
    ({ taskR with ending := some (.completed, 0, 0, 0) } : Task).ending = some (.completed, 0, 0, 0) := by decide
set_option maxRecDepth 8000 in
theorem witness_PackageEvents_clocks :
    (let s : State := { State.reset with hostUp := false, cycle := 1050000000 }
     decide (s.hostSince + 1050000000 ≤ s.cycle) && s.cycle % 1050000 == 0 && s.cycle % 1050000000 == 0) = true ∧
    State.reset.cycle < State.reset.hostSince + 1050000000 ∧ (1 : Nat) % 1050000 ≠ 0 ∧
    (∃ e ∈ (on ctx0).ctxs, e.2.cid = ctx0.cid ∧ e.2.status ≠ .exited) ∧
    (let s : State := { ready0 { inst0 .saved 0 0 [] with images := [ctx0] } with ctxs := [] }
     s.ctxs.isEmpty && s.insts.any fun g => g.images.any fun c => c.cid == ctx0.cid) = true ∧
    (State.reset.insts = [] ∧ State.reset.ctxs = []) := by decide
theorem witness_PackageEvents_life : (Config.predictedHours 0 0).toNat < AL.get 0 ({ State.reset with thresh := [(0, 2 ^ 32)] } : State).thresh 0 ∧
    ({ State.reset with thresh := [(0, 2 ^ 32)] } : State).belowLife 0 (2 ^ 32) = false ∧
    ¬ (Config.predictedHours 0 0).toNat < AL.get 0 State.reset.thresh 0 := by
  refine ⟨?_, by decide, Nat.not_lt_zero _⟩
  exact (Config.predictedHours 0 0).isLt
def withTrapbuf (v : W64) : Ctx := { ctx0 with tvec := 0x400, trapbuf := v, halves := [half0, { half0 with seg := 128 }] }
def trap0 : TrapRec := ⟨{ cause := 1, unit := 0 }, ⟨0, 0⟩, ⟨0, 0⟩, 0, 0, 0, 0, 0⟩
set_option maxRecDepth 8000 in
theorem witness_TrapEntryAndReturn_record :
    resOk (walked.writeRecord 0 (withTrapbuf 0x40) trap0) (fun _ => true) = true ∧
    resFault ((on ctx0).writeRecord 0 (withTrapbuf 0x40) trap0) = true ∧
    resWait (({ on ctx0 with backing := [(0, 0, 0, 0x1F)] } : State).writeRecord 0 (withTrapbuf 0x40) trap0) = true ∧
    resOk (walked.translate (flatTag 0 0x40) 0x40 .write false) (fun l => l.target == 0) = true ∧
    (match (on (withTrapbuf 0)).target 0 (CodePos.ofWord 0x400) with
     | .ok s1 true => s1.ctx 0 == some (withTrapbuf 0)
     | _ => false) = true ∧
    (match ({ on ctx0 with backing := [(0, 0, 0, 0x1F)] } : State).target 0 (CodePos.ofWord 0x800) with
     | .wait => true
     | _ => false) = true ∧
    (match (on { ctx0 with halves := [half0, { half0 with seg := 128 }] }).target 0 (CodePos.ofWord 0x409) with
     | .ok _ false => true
     | _ => false) = true ∧
    resFault ((on ctx0).target 0 (CodePos.ofWord 0x400)) = true := by decide
set_option maxRecDepth 8000 in
theorem witness_Mailbox_commands :
    (let s : State := { booted [] with mcmd := some (3, false) }
     s.mcmd == some (BitVec.ofNat 64 3, false) && decide (s.marg.toNat + areaLen 3 ≤ s.hostReach) && !s.recovery) = true ∧
    (let s : State := { booted [] with mcmd := some (3, false), recovery := true, marg := 0x40000000 }
     s.recovery && decide (s.hostReach < s.marg.toNat + areaLen 13)) = true ∧
    ({ booted [] with mcmd := some (2, true) } : State).mcmd = some (2, true) ∧
    ({ booted [] with mcmd := some (14, false) } : State).mcmd = some (BitVec.ofNat 64 14, false) ∧
    (booted []).mcmd = none ∧ State.reset.ready = false ∧ (booted [(1, 1)]).areaZero 3 = true ∧ (booted [(1, 1)]).areaZero 5 = false := by
  decide
/-- Each answer to a witness, in the order of its checks: the package has counted 9 epochs, and slot 0 has taken number 4. -/
def witS : State := { on ctx0 with epoch := 9, lastSeq := [(0, 4)], forms := [⟨0, 0, 4, 9, 4, 0, false, 0⟩, ⟨0, 0, 2, 8, 4, 0, true, 0⟩] }
theorem witness_OtherMemoryForms_checks :
    witS.witCheck 0 0 (mkWit 3 4 0 9 0 4) = .fault 0x33 ∧ witS.witCheck 0 0 0 = .satisfied ∧
    witS.witCheck 0 0 (mkWit 1 6 0 9 0 4) = .fault 0x34 ∧ witS.witCheck 0 0 (mkWit 2 3 0 9 0 0) = .fault 0x34 ∧
    witS.witCheck 0 0 (mkWit 1 4 1 9 0 4) = .fault 0x32 ∧ witS.witCheck 4 0 (mkWit 1 1 0 9 0 4) = .fault 0x31 ∧
    witS.witCheck 0 0 (mkWit 1 4 0 10 0 4) = .fault 0x30 ∧ witS.witCheck 0 0 (mkWit 1 4 0 9 0 5) = .fault 0x34 ∧
    witS.witCheck 0 0 (mkWit 1 4 0 9 0 2) = .fault 0x33 ∧ witS.witCheck 0 0 (mkWit 1 4 0 9 0 0) = .satisfied ∧
    ({ witS with forms := witS.forms.take 1 } : State).witCheck 0 0 (mkWit 1 4 0 9 0 4) = .waiting := by decide
theorem witness_ScalarConditions_merge :
    witMerge 0 (mkWit 1 2 0 0 0 4) = mkWit 1 2 0 0 0 4 ∧ witMerge (mkWit 3 0 0 0 0 4) 0 = mkWit 3 1 0 0 0 4 ∧
    witMerge (mkWit 1 0 0 0 7 4) (mkWit 1 0 0 1 7 5) = mkWit 1 0 0 1 7 5 ∧
    witMerge (mkWit 1 2 0 3 7 4) (mkWit 1 1 0 2 8 5) = mkWit 2 4 0 3 0 0 ∧
    witMerge (mkWit 1 0 0 0 7 4) (mkWit 1 1 1 0 7 4) = mkWit 3 1 0 0 7 4 := by decide
def fullQ : Ctx :=
  { ctx0 with statq := List.replicate 16 ⟨⟨0, 0⟩, 0, 1, 1⟩, pend := [{ Pend.make (.s 1) 0 0 with stats := [(1, 1)] }] }
theorem witness_ResultLanding_full : fullQ.status = .running ∧ fullQ.statDepth < fullQ.statq.length + 1 ∧ fullQ.statDepth < 4096 ∧
    (match exec (.resultLanding 0) (on fullQ) with
      | .next t => (t.ctx 0).any fun d => d.pend.length == 1
      | _ => false) = true := by decide
theorem witness_TileLoads_clean : (on ctxT).poisoned (rKey 0 767) 256 = false ∧
    ctxT.deckUsed + granules (shapeEntry (ctxT.readS 1)).bytes ≤ ctxT.deckG := by decide
theorem witness_VectorOthers_logs : (1 : Nat) * 2 ^ 23 = (2 ^ 23 + 0) * 2 ^ 0 ∧
    (0x4000_0000 / 2 ^ 30 % 2 = 1 ∧ 0x4000_0000 % 2 ^ 30 = 0) ∧ (0x7FFF_FFFF / 2 ^ 30 % 2 = 1 ∧ 0x7FFF_FFFF % 2 ^ 30 ≠ 0) ∧
    vlnadd 0x2000_0000 0xA000_0000 = (0x4000_0000, 0) ∧ (vlnadd 0x1FFF_FFFF 0x1FFF_FFFF).2 = ev 10 := by decide
/-- A load waits for the first line of the mapped memory, which misses. -/
def missed : State := { mapped ctx0 with accs := [glob0 .load] }
set_option maxRecDepth 8000 in
theorem witness_TranslationAndRecords_walk :
    (match missed.walk 0 0 with
      | .leaf l => !missed.linkDown l && missed.wantsLine 0 0 l && (missed.l2Line (flatTag 0 0)).isNone && !(mapped ctx0).wantsLine 0 0 l
      | _ => false) = true ∧
    ((walked.l2Line (flatTag 0 0)).bind fun x => AL.find x.maps 0).isSome = false := by decide
theorem witness_OutsideAndErrors_units : unitOk (seqUnit 767) = true ∧ unitOk (unitPath 4 0 0 14 3) = true ∧
    unitOk (unitPath 5 0 0 0 0) = false ∧ unitOk (unitPath 0 12 0 0 0) = false := by decide
theorem witness_TileEngineEvents_retire :
    (let o := { op0 .done with stats := [(1, 1)] }
     o.status = .done ∧ o.stats ≠ [] ∧ fullQ.statDepth < fullQ.statq.length + o.stats.length ∧
       ctx0.statq.length + o.stats.length ≤ ctx0.statDepth) := by decide
/-- Tile 2 lies in the deck, which has room for one granule; tile 1, in the pier, is what an operation waits for. -/
def ctxS : Ctx := { ctxX with stack := [{ entry0 with tile := 2 }], window := [{ op0 .waiting with binds := [entry0] }] }
set_option maxRecDepth 8000 in
theorem witness_TierEvents_sinks :
    (on ctxS).wantsRoom ctxS = some { op0 .waiting with binds := [entry0] } ∧ (on ctxS).sinkKeep 0 ctxS = some [1] ∧
    (on ctxS).copyFree 0 = true ∧ ctxS.victim [1] = some 2 ∧
    (let c := { ctxX with stack := [{ entry0 with tile := 2 }] }
     (on c).wantsRoom c = none ∧ c.awaited = none ∧ ∀ w ∈ c.risingTiles, c.inDeck w = true ∨ c.lacksRoom w = false) := by decide
/-- An older operation binds tile 2, which a rise for a younger one leaves in the deck. -/
def ctxO : Ctx := { ctxX with
  stack := [], window := [{ op0 .waiting with binds := [{ entry0 with tile := 2 }] }, { op0 .waiting with tseq := 99, binds := [entry0] }] }
theorem witness_TierEvents_older :
    (ctxO.binder 1).map (·.tseq) = some 99 ∧ (ctxO.older 99).length = 1 ∧ (ctxO.older 99).all ctxO.waits = true ∧
    (ctxO.boundBy (ctxO.before 1)).contains 2 = true ∧ ctxO.victim (ctxO.riseKeep 1) = none := by decide
set_option maxRecDepth 8000 in
theorem witness_UpdateUnitEvents_bad :
    (let s := { full0 with lines := [{ lineM with bad := true }] }
     s.lines[0]? = some { lineM with bad := true }) ∧ lineM.bad = false ∧ (on ctx0).statFits (on ctx0) = true ∧
      (on ctx0).statFits (on { ctx0 with statq := List.replicate 17 ⟨⟨0, 0⟩, 0, 1, 1⟩ }) = false := by decide
/-- The product of two small integer tiles, forward and against the transpose, with an accumulator whose first element is -1. -/
def tileX : TArg := ⟨⟨1, 2, 3, 0, 0⟩, [1, 2, 3, 4, 5, 255]⟩
def tileW : TArg := ⟨⟨2, 3, 2, 0, 0⟩, [7, 8, 9, 10, 11, 12]⟩
def tileG : TArg := ⟨⟨1, 2, 2, 0, 0⟩, [1, 2, 3, 4]⟩
def tileC : TArg := ⟨⟨3, 2, 2, 3, 0⟩, [0xFFFF_FFFF, 0, 0, 0]⟩
theorem witness_TileResults_products :
    ((tileRun (.mfw 31 0 false) 0 tileC.e [tileX] (some tileW)).map (·.1) = [58, 64, 62, 70]) ∧
    ((tileRun (.mfwa 31 0 false) 0 tileC.e [tileX, tileC] (some tileW)).map (·.1) = [57, 64, 62, 70]) ∧
    ((tileRun (.mbk 31 0 true) 0 ⟨4, 2, 3, 3, 0⟩ [tileG] (some tileW)).map (·.1) = [23, 29, 35, 53, 67, 81]) ∧
    tileX.xs.length = tileX.e.rows * tileX.e.cols ∧ tileW.xs.length = tileW.e.rows * tileW.e.cols ∧ fmtIntout 0 = 0 ∧
    tileX.e.cols = tileW.e.rows ∧ tileG.e.cols = tileW.e.cols ∧ tileC.ints[0]? = some (-1) := by decide
def rowsOp (f : Instr) : TOp :=
  { op0 (.running 0) with form := f, params := [256, 16, 16], binds := [entry0], results := [⟨3, 4, 4, 6, 0⟩], seq := some 2 }
set_option maxRecDepth 8000 in
theorem witness_TileResults_copies :
    isDone (runOp (on (ctxW (rowsOp (.tlds 31 0 0)))) 0 (ctxW (rowsOp (.tlds 31 0 0))) (rowsOp (.tlds 31 0 0)) 0) = true ∧
    (ctxW (rowsOp (.tsts 31 0 0))).tileImg 1 = some (List.replicate 64 0) ∧ (64 : Nat) = entry0.rows * entry0.rowBytes ∧
    (let o := tgetOp
     let s := mapped (ctxW o)
     resOk (s.readBox false (readCore 0 (o.par 0)) 0 o.tensor (s.opWits (ctxW o) o) o.cells) (fun b => b.length == o.cells.length * o.tensor.eb) &&
       (s.writeOp (ctxW o) o (List.replicate 64 0)).2.stop.isNone && s.oldCopies none (o.tensor.tag 0 [0, 0, 0, 0, 0, 0, 0]) [] o.tensor.raw == [] &&
       o.tensor.inBounds [0, 0, 0, 0, 0, 0, 0] && !o.tensor.inBounds [512, 0, 0, 0, 0, 0, 0]) = true := by decide
def noList : List Byte := natLe 16 0
set_option maxRecDepth 8000 in
theorem witness_KeystoneWork_unload :
    (let s : State := { work 9 0 (natLe 8 9) with tasks := (work 9 0 (natLe 8 9)).tasks ++ [{ task0 1 .accepted 0 (natLe 8 0 ++ natLe 4 0x90000) with id := 2 }] }
     s.tasks.any fun x => x.kind == 1 && x.dom == 0 && fieldAt x.payload 8 4 / 65536 == 9 && !x.state.ended) = true ∧
    ((work 8 0 noList).placeStop 0 []) = none ∧ (work 8 0 noList).placeStop 0 [(⟨0, 0, 0, 0⟩ : LoadEntry)] = none := by decide
theorem witness_Mailbox_base :
    (let s := booted [(8, 1), (16, 8), (18, 1)]
     s.arg 8 8 % 4096 ≠ 0 ∧ s.arg 16 1 = 8 ∧ s.arg 8 8 + 16 * 2 ^ s.arg 16 1 ≤ 2 ^ 39) := by decide
theorem witness_NextPosition :
    meets { ctx0 with rep := some ⟨1, 3, 0⟩ } 0 .s [] (fun e => decide (e.repK + 1 < e.repN)) = true ∧
    meets ctx0 0 .s [] (fun e => decide (e.repN ≤ e.repK + 1)) = true ∧
    ((1 : W64).toNat + 1 < (3 : W64).toNat ∧ (3 : W64).toNat ≤ (2 : W64).toNat + 1 ∧ (⟨0, 1⟩ : CodePos) ≠ ⟨0, 0⟩) := by decide
/-- A repeat group of four repetitions that steps `VD`, and the same context one repetition on, and at a segment that ends. -/
def halfG : Half := ⟨0, (4 : BitVec 64) <<< 4 ||| 1, [encodeRepeat 3, (1 : BitVec 16) <<< 12, encodeRef 0 0, encodeSegEnd], 0⟩
def ctxG : Ctx := { ctx0 with halves := [halfG] }
def halfE : Half := ⟨0, (1 : BitVec 64) <<< 14 ||| (2 : BitVec 64) <<< 4, half0.units, 0⟩
set_option maxRecDepth 8000 in
theorem witness_IssueEvents_group :
    halfG.mbz = true ∧ halfG.item 0 = some (.group 4 ((1 : BitVec 16) <<< 12) 0 0) ∧
    ((on { ctxG with rep := some ⟨1, 4, (1 : BitVec 16) <<< 12⟩ }).env 0 halfG (halfG.after 3)).any (fun e =>
      e.repK == 1 && e.repN == 4 && (stepWord (e.c.bundle 0) ((1 : BitVec 16) <<< 12) 1).2) = true ∧
    decodeBundle (stepWord (ctxG.bundle 0) ((1 : BitVec 16) <<< 12) 1).1 [] = .ok true {} ∧
    ([0, 1].map fun k => (encode (.vadd 31 0 1023 10 11 0)).map fun w => (stepWord w.1 ((1 : BitVec 16) <<< 12) k).2) =
      [some true, some false] := by decide
set_option maxRecDepth 8000 in
theorem witness_IssueEvents_segments :
    (half0.last = true ∧ half0.item 1 = some .segEnd ∧ halfE.last = false ∧ halfE.mbz = true ∧ halfE.item 1 = some .segEnd ∧
      halfE.nextSeg = 128) ∧
    (on { ctx0 with pc := ⟨0, 1⟩ }).mayIssue { ctx0 with pc := ⟨0, 1⟩ } = true ∧ ctx0.dueBad = false ∧
    ((on { ctx0 with pc := ⟨0, 1⟩ }).env 0 half0 (half0.after 2)).isSome = true ∧
    ({ on ctx0 with poison := [lbKey 0 0 * 2] } : State).poisoned (lbKey 0 0) 8 = true ∧ (on ctx0).poisoned (lbKey 0 0) 8 = false ∧
    (match (on { ctx0 with pc := ⟨256, 0⟩ }).segment 0 256 with
      | .fault _ => ((on { ctx0 with pc := ⟨256, 0⟩ }).env 0 ⟨256, 0, [], 0⟩ ⟨256, 0⟩).isSome
      | _ => false) = true ∧
    (match (mapped { ctx0 with halves := [halfE] }).fetchSeg 0 128 with
      | .ok _ _ => true
      | _ => false) = true := by decide
/-- The two contexts of a gang, on the spans 0 and 1, at its barrier 2, where the second arrived last. -/
def gangS : State :=
  let c := fun (k : Nat) => { ctx0 with task := 1, cid := k, arrived := some (true, 2, 0) }
  { withInst ctx0 { inst0 .placed 0 0 [⟨0, 0, 0, 0, false⟩, ⟨1, 0, 16, 1, false⟩] with first := [(2, 0)], last := [(2, 1)] } with
    ctxs := [(0, c 0), (16, c 1)] }
theorem witness_BarrierRelease_gang :
    ((gangS.ctxOf 0 0).bind fun c => c.standsAt true 2) = some 0 ∧ ((gangS.ctxOf 16 1).bind fun c => c.standsAt true 2) = some 0 ∧
    ((gangS.inst 1 0).bind fun g => AL.find g.last 2) = some 1 ∧ spanOf 16 ≠ spanOf 0 ∧ gangS.netSteps (spanOf 16) < 5 ∧
    -5 < gangS.netSteps (spanOf 0) := by decide
theorem witness_IssueSelection_grant :
    (((on ctx0).onCore 0 fun x => { x with grant := some 0 }).coreSt 0).grant = some 0 ∧
    (((on ctx0).onCore 0 fun x => { x with last := some 0, issued := some (0, 1) }).coreSt 0).last = some 0 ∧
    (1 * 1050 / 1050 = 0 * 1050 / 1050 + 1) ∧ starving ((on ctx0).readyOn 0) = none := by decide
theorem witness_ResultLanding_bad :
    (let p : Pend := { Pend.make (.s 1) 0 0 with bad := true }
     p.stats = [] ∧ p.bad = true ∧ p.reg ≠ .none ∧ ctx0.status = .running ∧ p.left = 0 ∧ p.ready = true) := by decide
theorem witness_TileReferences_room :
    meets { ctxT with deckq := 1, pierq := 4096 } 0 .t [] (fun e =>
      let t := e.tin 1 1 0
      tileFmtOk (shapeEntry (t.par 0)).fmt && !e.c.roomFor (shapeEntry (t.par 0)).bytes && decide (e.c.stack.length + 1 ≤ e.c.tlimit) &&
        (spillFault e.c (({ out := [shapeEntry (t.par 0)], fresh := some (shapeEntry (t.par 0)).bytes } : TPlan).numbered e.c.nextTile)).isNone) =
      true := by decide
/-- A context at a bundle whose T slot gets the box of record 5, held for that record. -/
def heldGet : Ctx := { ctx0 with
  held := true, s := [(40, 5)], bt := [(0, ((encode (.tget 31 40 3)).map (·.1)).getD 0)] }
set_option maxRecDepth 8000 in
theorem witness_RecordEvents_held :
    heldGet.formT = some (.tget 31 40 3) ∧ tensorReg (.tget 31 40 3) = some 40 ∧ twId (heldGet.readS 40) = 5 ∧
    (mapped heldGet).cached 0 0 5 = none ∧ (mapped heldGet).accs = [] ∧
    resOk ((mapped heldGet).readFlat 0 .read ((mapped heldGet).floorOf heldGet) ((mapped heldGet).recAddr 0 5) 128) (·.length == 128) = true ∧
    ctx0.held = false := by decide
theorem witness_OutsideAndErrors_boundary :
    ({ State.reset with cycle := 1050000 } : State).errNum < ({ State.reset with cycle := 1050000 } : State).cycle / 1050000 ∧
    ((seqUnit 5).extractLsb' 19 4).toNat = 0 ∧ State.reset.ctx (unitCore (seqUnit 5) * 4 + unitIndex (seqUnit 5) % 4) = none := by decide
theorem witness_TileEngineEvents_poison :
    (let s : State := { on (ctxW (op0 .waiting)) with poison := [opKey 0 0 * 2] }
     s.poisoned (opKey 0 0) 8 && engineOf (op0 .waiting).form == .vt) = true ∧
    (on (ctxW (op0 .waiting))).poisoned (opKey 0 0) 8 = false ∧
    (let o := { op0 .waiting with form := .tzero 31 1, results := [{ entry0 with tile := 3 }] }
     let c := { ctxT with window := [o] }
     (c.op 0 == some o) && !c.olderFaulted o && decide (c.deckUsed + (entry0.bytes + 2047) / 2048 ≤ c.deckG) &&
       decide (({ c with deckq := 1 } : Ctx).deckG < c.deckUsed + (entry0.bytes + 2047) / 2048)) = true ∧
    (let o := { op0 .waiting with results := [entry0] }
     let c := { ctxW o with tiles := [(1, ⟨64, none, .deck⟩)] }
     (AL.find c.tiles 1).any (fun x => x.img == none) && (c.op 0).isSome) = true := by decide
set_option maxRecDepth 8000 in
theorem witness_TierEvents_make :
    (let c := { heldGet with bt := [(0, ((encode (.tzero 31 1)).map (·.1)).getD 0)], s := [(1, 0x60183)], deckq := 1, tiles := [(1, tile0 .deck)] }
     (on c).wantsRoom c == none && c.awaited == none && c.toMake == some 1 && decide (c.deckG < c.deckUsed + 1)) = true ∧
    (let c := { ctxT with deckq := 1, tiles := [(1, tile0 .deck), (2, tile0 .pier)], pierq := 2048 }
     c.victim [] == some 1 && decide (c.pierG < c.pierUsed + 1)) = true ∧
    (let o := op0 (.faulted ⟨1, 0, 0, 0, 0⟩)
     let c := { ctxT with window := [o], stopped := true }
     c.refault.isNone && c.window.dropWhile c.outOfWay == [o]) = true := by decide
theorem witness_SchedulingEvents_queues :
    (stuck 256).mostChunks 0 = some small ∧ (stuck 0).mostChunks 0 = none := by decide
theorem witness_PackageEvents_boundary :
    (let s : State := { State.reset with cycle := 1050000000 }
     decide (s.shareNum < s.cycle / 1050000) && decide (s.sampleNum < s.cycle / 1050000000)) = true ∧
    State.reset.cycle / 1050000 ≤ State.reset.shareNum ∧ State.reset.cycle / 1050000000 ≤ State.reset.sampleNum := by decide
theorem witness_TrapAndExitForms_waits :
    meetsIn { on { ctx0 with capture := some { cap0 with replay := [op0 .waiting] }, tvec := 0x800 } with backing := [(0, 0, 0, 0x1F)] }
      0 .c [] (fun _ => []) (fun e => e.tretWaits && e.c.window.isEmpty && e.c.pend.isEmpty) = true := by decide
theorem witness_LoopForms_bad :
    (⟨0, (3 : BitVec 64) <<< 4 ||| 1, [encodeRef 0 0, encodeRef 0 0 ||| 1, encodeSegEnd], 0⟩ : Half).item 1 = some (.bad 1 (some 0)) := by decide
/-! The arithmetic of the tile engines: 04 R94, 09 R266 to R270 by hand, and the example of R269. -/
def tileF : TArg := ⟨⟨1, 2, 2, 6, 0⟩, [0x3F80_0000, 0x4000_0000, 0x4040_0000, 0x4080_0000]⟩
def tileB : TArg := ⟨⟨1, 1, 1, 5, 0⟩, [0x4180]⟩
set_option maxRecDepth 8000 in
theorem witness_TileArithmetic :
    (tileRun (.tadd 31) 0 tileF.e [tileF, tileF] none).map (·.1) = [0x4000_0000, 0x4080_0000, 0x40C0_0000, 0x4100_0000] ∧
    (tileRun (.tcsum 31) 0 ⟨0, 1, 2, 6, 0⟩ [tileF] none).map (·.1) = [0x4080_0000, 0x40C0_0000] ∧
    (tileRun (.tcvt 31 5 0) 0 ⟨0, 2, 2, 5, 0⟩ [tileF] none).map (·.1) = [0x3F80, 0x4000, 0x4040, 0x4080] ∧
    ([0, 1, 5] : List (BitVec 8)).map (fun f => (tileRun (.tact 31 f) 0 tileB.e [tileB] none).map (·.1)) =
      [[0x3D80], [0x4080], [0x4080]] ∧
    (tileRun (.mfw 31 2 false) 0 tileF.e [tileF, { tileF with e := { tileF.e with rows := 1 } }] (some tileF)).map (·.1) =
      [0x4100_0000, 0x4140_0000, 0x4180_0000, 0x41C0_0000] ∧
    (tileRun (.mfw 31 0 false) 0x200000 ⟨0, 2, 2, 2, 0⟩ [tileX] (some tileW)).map (·.1) = [58, 64, 62, 70] := by decide
/-! The example of Table 4-5, and a box in the scratchpad. -/
def f32s (l : List Nat) : List FVal := l.map fun u => (NFmt.f32.decode u 0 false).1
def copyOp (f : Instr) : TOp := { opBox f (.running 0) with params := [5, 0, 0, 0, 256, 0] }
set_option maxRecDepth 8000 in
theorem witness_TransferData :
    (stashBlock 4 (f32s [0x3F80_0000, 0xBE99_999A, 0x3F33_3333, 0x4039_999A])).1 = [0x80, 0, 0x92, 0x61] ++ List.replicate 14 0 ∧
    ((restoreBlock 4 NFmt.f32 ([0x80, 0, 0x92, 0x61] ++ List.replicate 14 0)).map (·.1)).take 5 =
      [0x3F80_0000, 0xBF00_0000, 0x3F00_0000, 0x4040_0000, 0] ∧
    (let o := copyOp (.acopy 31 0 0)
     let c := { ctxW o with scratch := 512 }
     (resOk ((mapped c).readBox false (readCore 0 (o.par 0)) 0 o.tensor ((mapped c).opWits c o) o.cells) (fun b => b.length == 4) &&
       isDone (runOp (mapped c) 0 c o 0))) = true ∧
    (let o := copyOp (.acopyw 31 0 0)
     let c := { ctxW o with scratch := 512 }
     ((mapped c).spPoison ((mapped c).spPhys c 256) (o.cells.length * o.tensor.eb)).isNone && isDone (runOp (mapped c) 0 c o 0)) = true ∧
    (let o := copyOp (.tsendq 31 0 0)
     isSent (runOp (mapped (ctxW o)) 0 (ctxW o) o 0)) = true := by decide
/-- A gradient of 1 in an empty block: x = 1 and m = 2^44; and one step of each optimizer on w = 1, gv = 2, with lr = 1. -/
def hyper0 : Hyper := ⟨0x3F80_0000, 0, 0, 0, 0, 0x3F80_0000, 0x3F80_0000, 0, 0⟩
set_option maxRecDepth 8000 in
theorem witness_UpdateArithmetic :
    (let r := AccVal.clear.contribute (.fin false 1 0 :: List.replicate 31 (.fin false 0 0))
     r.x = 1 ∧ r.m.take 2 = [2 ^ 44, 0] ∧ (r.finish.map (·.1)).take 2 = [0x3F80_0000, 0]) ∧
    (applyBlocks clearBlocks { contrib0 with data := 0x3F80_0000 :: List.replicate 511 0 }).1.head?.map (·.x) = some 1 ∧
    ([0, 1].map fun k => (lineResults { TRec.parse 5 rec0 with opt := k } hyper0 [(0x4000_0000, 0)]
      [[0x3F80_0000], [0], [0]]).map fun v => (v.1.1, v.2.1.1)) = [[(0x4000_0000, 0)], [(0xBF80_0000, 0x4000_0000)]] := by decide
/-- A statistics buffer at 0x40 of the mapped page, for four records from 0x100, and a record to write there. -/
def statX : Access := { acc0 (.stat ⟨⟨0, 0⟩, 5, 7, 9⟩ 0) 1 0 none with sp := false, va := 0x40, size := 24 }
def statS : State := { walked with mem := walked.mem ++ [(0x10041, 1), (0x10048, 4)] }
set_option maxRecDepth 8000 in
theorem witness_MemoryWrites_record :
    resOk (statS.performWrite statX) (fun w => w.acc.parts == [(0x100, 0, 16), (0x4C, 0, 4)]) = true ∧
    resOk (walked.performWrite statX) (fun w => w.acc.parts == [(0x54, 0, 4)]) = true ∧
    (match statS.performWrite statX with
      | .ok t _ => t.homeRead (flatTag 0 0x100) ((List.range 16).map (0x10100 + ·)) == natLe 8 0 ++ [5, 7] ++ natLe 2 0 ++ natLe 4 9
      | _ => false) = true ∧
    ((on { ctx0 with statq := [⟨⟨0, 0⟩, 5, 7, 9⟩], statbuf := 0x40 }).drainStat 0).accs.length = 1 := by decide
theorem witness_RoundingComputes :
    ((0x25 : BitVec 6).getLsbD 5 = true ∧ (0x25 : BitVec 6).extractLsb' 0 3 ≠ 0) ∧ (NFmt.ofB8 0x21).signed = true ∧ (NFmt.ofB8 0x31).signed = false ∧
    NFmt.f32.round 0 false (.fin false 1 (-200)) = ⟨.fin false 0 0, 160⟩ ∧
    NFmt.f32.round 0 false (.fin true 1 200) = ⟨.inf true, 132⟩ ∧
    NFmt.f32.round 0 false (.fin false (2 ^ 24 + 1) 0) = ⟨.fin false (2 ^ 23) 1, 128⟩ ∧
    (NFmt.ofB8 0x31).round 0 true (.fin true 1 0) = ⟨.fin false 0 0, 128⟩ := by decide
theorem witness_DecodeEncode : (Instr.add 31 5 6 (.imm 7)).slot.isSome = true ∧ (Instr.add 31 5 6 (.imm 7)).wf = true := by decide
theorem witness_StepKeepsInvariant : Memory.wf State.reset.mem = true ∧ State.reset.wheel < 768 ∧
    (match step { State.reset with events := [.wheelAdvance] } with
      | .next t => t.wheel
      | _ => 0) = 1 := by decide

end Sys2Proof.Tests
end

/-! ## The scalar registers of a launched context (02 R63, Table 2-14) -/

namespace Sys2Proof

variable {α : Type}

/-- Writes to other keys leave the read of a key. -/
theorem AL.get_foldl_set_ne [DecidableEq α] (d : α) {β : Type} (ws : List β) (key : β → Nat) (val : β → α) (m : AL α) {j : Nat}
    (h : ∀ w ∈ ws, j ≠ key w) : AL.get d (ws.foldl (fun m w => AL.set d m (key w) (val w)) m) j = AL.get d m j := by
  induction ws generalizing m with
  | nil => rfl
  | cons w r ih =>
    rw [List.forall_mem_cons] at h
    rw [List.foldl_cons, ih _ h.2, AL.get_set_ne d m _ h.1]

/-- Where no key is written twice, each key written reads as its value. -/
theorem AL.get_foldl_set_mem [DecidableEq α] (d : α) {β : Type} (ws : List β) (key : β → Nat) (val : β → α) (m : AL α) {e : β}
    (h : ws.Pairwise (fun x y => key x ≠ key y)) (he : e ∈ ws) :
    AL.get d (ws.foldl (fun m w => AL.set d m (key w) (val w)) m) (key e) = val e := by
  induction ws generalizing m with
  | nil => cases he
  | cons w r ih =>
    obtain ⟨hw, hr⟩ := List.pairwise_cons.mp h
    rw [List.foldl_cons]
    rcases List.mem_cons.mp he with rfl | he
    · rw [AL.get_foldl_set_ne d r key val _ hw, AL.get_set_same]
    · exact ih _ hr he

end Sys2Proof

namespace Sys2Proof.Machine

/-- The rows of Table 2-14: each register that a launch writes, with its contents. -/
def launchTable (g : GInst) (die span : Nat) (p : Nat × Nat) : List (Nat × Nat) :=
  [(1, g.args.toNat), (2, g.num), (3, p.1), (4, p.2), (5, span + p.1), (6, die), (7, g.kernel.perTeam), (8, g.kernel.teams)]

/-- The registers of a launch are the rows of the table, written in turn to a file that reads zero. -/
theorem launchRegs_eq_foldl (g : GInst) (die span : Nat) (p : Nat × Nat) :
    launchRegs g die span p = (launchTable g die span p).foldl (fun m e => AL.set 0 m e.1 (BitVec.ofNat 64 e.2)) [] := rfl

/-- The table has one row per register. -/
theorem launchTable_pairwise (g : GInst) (die span : Nat) (p : Nat × Nat) :
    (launchTable g die span p).Pairwise (fun x y => x.1 ≠ y.1) := by
  simp [launchTable]

/-- The table's registers are s1 to s8. -/
theorem launchTable_range (g : GInst) (die span : Nat) (p : Nat × Nat) : ∀ e ∈ launchTable g die span p, 1 ≤ e.1 ∧ e.1 ≤ 8 := by
  simp [launchTable]

/-- A register of the table reads as its row says. -/
theorem get_launchRegs_mem {g : GInst} {die span : Nat} {p : Nat × Nat} {n v : Nat} (h : (n, v) ∈ launchTable g die span p) :
    AL.get 0 (launchRegs g die span p) n = BitVec.ofNat 64 v := by
  rw [launchRegs_eq_foldl]
  exact AL.get_foldl_set_mem 0 _ Prod.fst (fun e => BitVec.ofNat 64 e.2) [] (launchTable_pairwise g die span p) h

/-- A register outside the table reads zero. -/
theorem get_launchRegs_other (g : GInst) (die span : Nat) (p : Nat × Nat) {n : Nat} (h : n = 0 ∨ 8 < n) :
    AL.get 0 (launchRegs g die span p) n = 0 := by
  rw [launchRegs_eq_foldl]
  refine AL.get_foldl_set_ne 0 _ Prod.fst (fun e => BitVec.ofNat 64 e.2) [] fun e he => ?_
  obtain ⟨hlow, hhigh⟩ := launchTable_range g die span p e he
  omega

/-- Without an open loop, every loop index register reads zero. -/
theorem Ctx.li_of_loops_nil {c : Ctx} (h : c.loops = []) (k : Nat) : c.li k = 0 := by
  simp [Ctx.li, h]

section
variable (s : State) (g : GInst) (prio : Nat) (wit : W64) (cid die span : Nat) (p : Nat × Nat)

/-- A launched context reads the register of a row of Table 2-14 as that row says. -/
theorem readS_newCtx_mem {n v : Nat} (h : (n, v) ∈ launchTable g die span p) :
    (s.newCtx g prio wit cid die span p).readS n = BitVec.ofNat 64 v := by
  obtain ⟨hlow, hhigh⟩ := launchTable_range g die span p _ h
  have hzero : n ≠ 0 := by omega
  have hli : ¬n ≥ 58 := by omega
  rw [Ctx.readS, if_neg hzero, if_neg hli]
  exact get_launchRegs_mem h

/-- A launched context reads zero from s0, from the registers above s8 and from the loop index registers. -/
theorem readS_newCtx_other {n : Nat} (h : n = 0 ∨ 8 < n) : (s.newCtx g prio wit cid die span p).readS n = 0 := by
  unfold Ctx.readS
  split
  · rfl
  · split
    · exact Ctx.li_of_loops_nil rfl _
    · exact get_launchRegs_other g die span p h

end

/-- Settles O56: s1 to s8 are the rows of Table 2-14, each written once, and no other register is written. -/
theorem launchRegisters : Obligations.LaunchRegisters := by
  unfold Obligations.LaunchRegisters
  intro s g prio cid die span wit team num n
  have row {k v : Nat} (h : (k, v) ∈ launchTable g die span (team, num)) := readS_newCtx_mem s g prio wit cid die span _ h
  have hargs : BitVec.ofNat 64 g.args.toNat = g.args := by simp
  refine ⟨(row ?_).trans hargs, row ?_, row ?_, row ?_, row ?_, row ?_, row ?_, row ?_,
    readS_newCtx_other s g prio wit cid die span (team, num)⟩ <;> simp [launchTable]

end Sys2Proof.Machine

/-! ## Where issue goes next (05 R126, 06 R146, R154) -/

namespace Sys2Proof.Machine

section
variable (p seq endp body : CodePos) (c k : W64) (ls : List LoopEntry)

/-- Off the innermost loop's end, R154 looks at no loop. -/
theorem loopEnd_elsewhere (h : endp ≠ p) : loopEnd p seq (⟨c, k, body, endp⟩ :: ls) = (seq, ⟨c, k, body, endp⟩ :: ls) := by
  simp [loopEnd, h]

/-- The branch of R154 for an iteration left. -/
theorem loopEnd_next_iteration (h : k.toNat + 1 < c.toNat) :
    loopEnd endp seq (⟨c, k, body, endp⟩ :: ls) = (body, ⟨c, k + 1, body, endp⟩ :: ls) := by
  have hlt : k + 1 < c := by bv_omega
  rw [loopEnd, if_pos (beq_self_eq_true endp), if_pos hlt]

/-- The branch of R154 for a finished loop. The index must not wrap, or `index + 1 < count` would hold again. -/
theorem loopEnd_closes (h : c.toNat ≤ k.toNat + 1) (hk : k.toNat + 1 < 2 ^ 64) :
    loopEnd endp seq (⟨c, k, body, endp⟩ :: ls) = loopEnd endp seq ls := by
  have hlt : ¬k + 1 < c := by bv_omega
  rw [loopEnd, if_pos (beq_self_eq_true endp), if_neg hlt]

end

section
variable (p seq endp after : CodePos) (ls : List LoopEntry)

/-- A loop opened with count 0 is left out. -/
theorem nextPos_open_zero : nextPos p seq (.open 0 endp after) ls = (after, ls) := by simp [nextPos]

/-- A loop opened with another count starts at its first iteration, with its body next. -/
theorem nextPos_open {c : W64} (h : c ≠ 0) : nextPos p seq (.open c endp after) ls = (seq, ⟨c, 0, seq, endp⟩ :: ls) :=
  if_neg h

end

section
variable (e : Env) (new : List Pend) (energy : Nat) (np : CodePos × List LoopEntry) (x : Ctx)

/-- Before its last repetition a repeated bundle keeps its position and the loop stack, and counts the repetition. -/
theorem commitCtx_repetition_left (h : e.repK + 1 < e.repN) :
    (commitCtx e new energy np x).pc = x.pc ∧ (commitCtx e new energy np x).loops = x.loops ∧
      (commitCtx e new energy np x).rep = x.rep.map fun r => { r with k := r.k + 1 } := by
  simp [commitCtx, h]

/-- After its last repetition a bundle makes its step and leaves its repeat group. -/
theorem commitCtx_last_repetition (h : e.repN ≤ e.repK + 1) :
    (commitCtx e new energy np x).pc = np.1 ∧ (commitCtx e new energy np x).loops = np.2 ∧
      (commitCtx e new energy np x).rep = none := by
  simp [commitCtx, Nat.not_lt.mpr h]

end

/-! ### The stepped fields of a repetition -/

section
variable {n : Nat} (x : BitVec n) (st : BitVec 3) (k : Nat)

/-- The field as stored and k times its step (R126), cut to its width. -/
theorem stepField_fst : (stepField x st k).1 = BitVec.ofInt n (x.toNat + st.toInt * k) := by
  simp [stepField, Int.mul_comm]

/-- The range check is made before the cut. -/
theorem stepField_snd_iff : (stepField x st k).2 = true ↔ 0 ≤ x.toNat + st.toInt * k ∧ x.toNat + st.toInt * k < (2 : Int) ^ n := by
  simp [stepField, Int.mul_comm]

end

theorem toNat_low_six (x : BitVec 10) : (x.extractLsb' 0 6).toNat = x.toNat % 64 := by simp

/-- The M opcodes whose `VR` names a scalar register. -/
theorem vrScalar_iff (op : BitVec 6) : vrScalar op = true ↔
    op.toNat < 4 ∨ (10 ≤ op.toNat ∧ op.toNat ≤ 18) ∨ (20 ≤ op.toNat ∧ op.toNat ≤ 24) ∨ op.toNat = 26 ∨ op.toNat = 28 := by
  simp [vrScalar, or_assoc]

section
variable (m : MF) (st : BitVec 3) (k : Nat)

/-- A scalar `VR` is stepped in its low six bits, and its other bits stand; a vector `VR` is stepped whole. -/
theorem stepVr_fst : (stepVr m st k).1 =
    if vrScalar m.op = true then m.vr.extractLsb' 6 4 ++ BitVec.ofInt 6 ((m.vr.toNat % 64 : Nat) + st.toInt * k)
    else BitVec.ofInt 10 (m.vr.toNat + st.toInt * k) := by
  unfold stepVr
  split
  · simp only [stepField_fst, toNat_low_six]
  · exact stepField_fst m.vr st k

/-- A scalar `VR` must stay in its six bits, a vector `VR` in its ten. -/
theorem stepVr_snd_iff : (stepVr m st k).2 = true ↔
    if vrScalar m.op = true then
      0 ≤ ((m.vr.toNat % 64 : Nat) + st.toInt * k : Int) ∧ ((m.vr.toNat % 64 : Nat) + st.toInt * k : Int) < 2 ^ 6
    else 0 ≤ m.vr.toNat + st.toInt * k ∧ m.vr.toNat + st.toInt * k < 2 ^ 10 := by
  unfold stepVr
  split
  · simp only [stepField_snd_iff, toNat_low_six]
  · exact stepField_snd_iff m.vr st k

end

/-! ### The bundle word of a repetition -/

/-- A field of a field is a field of the word. -/
theorem extract_extract {w : Nat} (x : BitVec w) (s s' : Nat) {n n' : Nat} (h : s' + n ≤ n') :
    (x.extractLsb' s n').extractLsb' s' n = x.extractLsb' (s + s') n := by
  ext i hi
  have hin : s' + i < n' := by omega
  simp [BitVec.getElem_extractLsb', hin, Nat.add_assoc]

/-- A bundle word with other M, V and T slots in it. -/
def replaceSlots (w : BundleWord) (m : MF) (v : VF) (t : TF) : BundleWord :=
  w.extractLsb' 173 83 ++ m.pack ++ v.pack ++ w.extractLsb' 45 36 ++ t.pack

section
variable (w : BundleWord) (m : MF) (v : VF) (t : TF)

/-- Bits above the M slot stand. -/
theorem replaceSlots_bits_above {i n : Nat} (hi : 173 ≤ i) (hn : i + n ≤ 256) :
    (replaceSlots w m v t).extractLsb' i n = w.extractLsb' i n := by
  have hpos : 173 + (i - 45 - 36 - 47 - 45) = i := by omega
  rw [replaceSlots, extract_above _ t.pack i n (by omega), extract_above _ (w.extractLsb' 45 36) _ n (by omega),
    extract_above _ v.pack _ n (by omega), extract_above _ m.pack _ n (by omega), extract_extract w _ _ (by omega), hpos]

@[simp] theorem replaceSlots_header : (replaceSlots w m v t).header = w.header := replaceSlots_bits_above w m v t (by decide) (by decide)

@[simp] theorem replaceSlots_slotC : (replaceSlots w m v t).slotC = w.slotC :=
  congrArg CF.unpack (replaceSlots_bits_above w m v t (by decide) (by decide))

@[simp] theorem replaceSlots_slotS : (replaceSlots w m v t).slotS = w.slotS :=
  congrArg SF.unpack (replaceSlots_bits_above w m v t (by decide) (by decide))

@[simp] theorem replaceSlots_slotM : (replaceSlots w m v t).slotM = m := by
  have hbits : (replaceSlots w m v t).extractLsb' 128 45 = m.pack :=
    extract_past _ _ _ _ _ (by decide) (extract_past _ _ _ _ _ (by decide) (extract_past _ _ _ _ _ (by decide) (extract_right _ _)))
  rw [BundleWord.slotM, hbits, MF.unpack_pack]

@[simp] theorem replaceSlots_slotV : (replaceSlots w m v t).slotV = v := by
  have hbits : (replaceSlots w m v t).extractLsb' 81 47 = v.pack :=
    extract_past _ _ _ _ _ (by decide) (extract_past _ _ _ _ _ (by decide) (extract_right _ _))
  rw [BundleWord.slotV, hbits, VF.unpack_pack]

@[simp] theorem replaceSlots_slotX : (replaceSlots w m v t).slotX = w.slotX :=
  congrArg XF.unpack (extract_past _ _ _ _ _ (by decide) (extract_right _ _))

@[simp] theorem replaceSlots_slotT : (replaceSlots w m v t).slotT = t := by
  have hbits : (replaceSlots w m v t).extractLsb' 0 45 = t.pack := extract_right _ _
  rw [BundleWord.slotT, hbits, TF.unpack_pack]

end

section
variable (w : BundleWord) (st : Unit16) (k : Nat)

/-- The stepped V slot of a repetition. -/
def stepSlotV : VF :=
  if w.slotV.mask = 0 then w.slotV else { w.slotV with
    vd := (stepField w.slotV.vd (st.extractLsb' 12 3) k).1, va := (stepField w.slotV.va (st.extractLsb' 9 3) k).1
    vb := (stepField w.slotV.vb (st.extractLsb' 6 3) k).1 }

/-- The stepped M slot of a repetition. -/
def stepSlotM : MF := if w.slotM.mask = 0 then w.slotM else { w.slotM with vr := (stepVr w.slotM (st.extractLsb' 3 3) k).1 }

/-- The stepped T slot of a repetition. -/
def stepSlotT : TF :=
  if w.slotT.mask = 0 then w.slotT else { w.slotT with a := (stepField w.slotT.a (st.extractLsb' 0 3) k).1 }

/-- A repetition's bundle word differs from the stored one in the M, V and T slots alone. -/
theorem stepWord_fst : (stepWord w st k).1 = replaceSlots w (stepSlotM w st k) (stepSlotV w st k) (stepSlotT w st k) := rfl

/-- A repetition is legal when each stepped field of a non-empty slot stays in its range. -/
theorem stepWord_snd_iff : (stepWord w st k).2 = true ↔
    (w.slotV.mask ≠ 0 → (stepField w.slotV.vd (st.extractLsb' 12 3) k).2 = true ∧
      (stepField w.slotV.va (st.extractLsb' 9 3) k).2 = true ∧ (stepField w.slotV.vb (st.extractLsb' 6 3) k).2 = true) ∧
    (w.slotM.mask ≠ 0 → (stepVr w.slotM (st.extractLsb' 3 3) k).2 = true) ∧
    (w.slotT.mask ≠ 0 → (stepField w.slotT.a (st.extractLsb' 0 3) k).2 = true) := by
  simp only [stepWord, Bool.and_eq_true, Bool.or_eq_true, beq_iff_eq, and_assoc, ne_eq, ← or_iff_not_imp_left]

end

/-- Settles O7: the next position by the loop-end step's cases, the commit by whether a repetition is left, and the bundle
of a repetition as the stored word with its M, V and T slots replaced. -/
theorem nextPosition : Obligations.NextPosition := by
  unfold Obligations.NextPosition
  intro p q seq endp after body ls c k
  refine ⟨rfl, nextPos_open_zero p seq endp after ls, nextPos_open p seq endp after ls, fun _ => rfl, rfl,
    loopEnd_elsewhere p seq endp body c k ls, loopEnd_next_iteration seq endp body c k ls,
    loopEnd_closes seq endp body c k ls, ?_, ?_⟩
  · intro e new energy np x
    exact ⟨commitCtx_repetition_left e new energy np x, commitCtx_last_repetition e new energy np x⟩
  · intro w st k
    simp only [stepWord_fst, stepWord_snd_iff, ← vrScalar_iff]
    refine ⟨replaceSlots_header .., replaceSlots_slotC .., replaceSlots_slotS .., replaceSlots_slotX .., ?_, ?_, ?_, ?_⟩
    · simp only [replaceSlots_slotV, stepSlotV, stepField_fst]
    · simp only [replaceSlots_slotM, stepSlotM, stepVr_fst]
    · simp only [replaceSlots_slotT, stepSlotT, stepField_fst]
    · simp only [stepField_snd_iff, stepVr_snd_iff]

end Sys2Proof.Machine

/-! ## The decoder undoes the encoder (05 R112 to R125) -/

namespace Sys2Proof

/-- A form of the C slot has an encoding; so has a form of each other slot. -/
theorem encodeC_of_slot {i : Instr} (h : i.slot = some .c) : ∃ f ls, encodeC i = some (f, ls) := by
  cases i
  all_goals first
    | exact ⟨_, _, rfl⟩
    | cases h

theorem encodeS_of_slot {i : Instr} (h : i.slot = some .s) : ∃ f ls, encodeS i = some (f, ls) := by
  cases i
  all_goals first
    | exact ⟨_, _, rfl⟩
    | cases h

theorem encodeM_of_slot {i : Instr} (h : i.slot = some .m) : ∃ f ls, encodeM i = some (f, ls) := by
  cases i
  all_goals first
    | exact ⟨_, _, rfl⟩
    | cases h

theorem encodeV_of_slot {i : Instr} (h : i.slot = some .v) : ∃ f, encodeV i = some f := by
  cases i
  all_goals first
    | exact ⟨_, rfl⟩
    | cases h

theorem encodeX_of_slot {i : Instr} (h : i.slot = some .x) : ∃ f, encodeX i = some f := by
  cases i
  all_goals first
    | exact ⟨_, rfl⟩
    | cases h

theorem encodeT_of_slot {i : Instr} (h : i.slot = some .t) : ∃ f, encodeT i = some f := by
  cases i
  all_goals first
    | exact ⟨_, rfl⟩
    | cases h

/-- A slot with a form answers what its decoding does. -/
theorem slotOr_some {p : Prop} [Decidable p] {zero : Bool} {d : Option Instr} {i : Instr} (hp : ¬p) (hd : d = some i) :
    slotOr p zero d = some (some i) := by
  simp [slotOr, hp, hd]

/-- An empty slot answers that it is empty, whatever its decoding would be. -/
theorem slotOr_empty (d : Option Instr) : slotOr true true d = some none := rfl

section
variable {i : Instr} (hw : i.wf = true)
include hw

/-- The bundle of one form has words, and they decode to it: one lemma for each slot, whose fields the encoder gives. -/
theorem decode_encodeSlots_c (h : i.slot = some .c) :
    ∃ w ls, encodeSlots false { c := some i } = some (w, ls) ∧ decodeBundle w ls = .ok false { c := some i } := by
  obtain ⟨f, l, he⟩ := encodeC_of_slot h
  obtain ⟨hl, hc⟩ := litsC_encodeC i f l he
  refine ⟨_, _, by simp only [encodeSlots, he]; rfl, ?_⟩
  exact decodeBundle_pack false f emptyS emptyM emptyV emptyX emptyT l [] [] { c := some i } hl rfl rfl
    (slotOr_some hc (decodeC_encodeC i f l he hw)) (slotOr_empty _) (slotOr_empty _) (slotOr_empty _) (slotOr_empty _) (slotOr_empty _)

theorem decode_encodeSlots_s (h : i.slot = some .s) :
    ∃ w ls, encodeSlots false { s := some i } = some (w, ls) ∧ decodeBundle w ls = .ok false { s := some i } := by
  obtain ⟨f, l, he⟩ := encodeS_of_slot h
  obtain ⟨hl, hm⟩ := litsS_encodeS i f l he hw
  refine ⟨_, _, by simp only [encodeSlots, he]; rfl, ?_⟩
  exact decodeBundle_pack false emptyC f emptyM emptyV emptyX emptyT [] l [] { s := some i } rfl (by rw [if_neg hm, hl]) rfl
    (slotOr_empty _) (slotOr_some hm (decodeS_encodeS i f l he hw)) (slotOr_empty _) (slotOr_empty _) (slotOr_empty _) (slotOr_empty _)

theorem decode_encodeSlots_m (h : i.slot = some .m) :
    ∃ w ls, encodeSlots false { m := some i } = some (w, ls) ∧ decodeBundle w ls = .ok false { m := some i } := by
  obtain ⟨f, l, he⟩ := encodeM_of_slot h
  obtain ⟨hl, hm⟩ := litsM_encodeM i f l he hw
  refine ⟨_, _, by simp only [encodeSlots, he]; rfl, ?_⟩
  exact decodeBundle_pack false emptyC emptyS f emptyV emptyX emptyT [] [] l { m := some i } rfl rfl (by rw [if_neg hm, hl])
    (slotOr_empty _) (slotOr_empty _) (slotOr_some hm (decodeM_encodeM i f l he hw)) (slotOr_empty _) (slotOr_empty _) (slotOr_empty _)

theorem decode_encodeSlots_v (h : i.slot = some .v) :
    ∃ w ls, encodeSlots false { v := some i } = some (w, ls) ∧ decodeBundle w ls = .ok false { v := some i } := by
  obtain ⟨f, he⟩ := encodeV_of_slot h
  refine ⟨_, _, by simp only [encodeSlots, he]; rfl, ?_⟩
  exact decodeBundle_pack false emptyC emptyS emptyM f emptyX emptyT [] [] [] { v := some i } rfl rfl rfl
    (slotOr_empty _) (slotOr_empty _) (slotOr_empty _) (slotOr_some (mask_encodeV i f he hw) (decodeV_encodeV i f he hw)) (slotOr_empty _) (slotOr_empty _)

theorem decode_encodeSlots_x (h : i.slot = some .x) :
    ∃ w ls, encodeSlots false { x := some i } = some (w, ls) ∧ decodeBundle w ls = .ok false { x := some i } := by
  obtain ⟨f, he⟩ := encodeX_of_slot h
  refine ⟨_, _, by simp only [encodeSlots, he]; rfl, ?_⟩
  exact decodeBundle_pack false emptyC emptyS emptyM emptyV f emptyT [] [] [] { x := some i } rfl rfl rfl
    (slotOr_empty _) (slotOr_empty _) (slotOr_empty _) (slotOr_empty _) (slotOr_some (mask_encodeX i f he hw) (decodeX_encodeX i f he hw)) (slotOr_empty _)

theorem decode_encodeSlots_t (h : i.slot = some .t) :
    ∃ w ls, encodeSlots false { t := some i } = some (w, ls) ∧ decodeBundle w ls = .ok false { t := some i } := by
  obtain ⟨f, he⟩ := encodeT_of_slot h
  refine ⟨_, _, by simp only [encodeSlots, he]; rfl, ?_⟩
  exact decodeBundle_pack false emptyC emptyS emptyM emptyV emptyX f [] [] [] { t := some i } rfl rfl rfl
    (slotOr_empty _) (slotOr_empty _) (slotOr_empty _) (slotOr_empty _) (slotOr_empty _) (slotOr_some (mask_encodeT i f he hw) (decodeT_encodeT i f he hw))

end

/-- Settles O58: by the slot of the form, whose fields decode to it while every other slot is empty. -/
theorem decodeEncode : Obligations.DecodeEncode := by
  unfold Obligations.DecodeEncode
  intro i hs hw
  obtain ⟨sl, h⟩ := Option.isSome_iff_exists.mp hs
  simp only [encode, Instr.alone, h, Option.isSome_some, if_true]
  cases sl with
  | c => exact decode_encodeSlots_c hw h
  | s => exact decode_encodeSlots_s hw h
  | m => exact decode_encodeSlots_m hw h
  | v => exact decode_encodeSlots_v hw h
  | x => exact decode_encodeSlots_x hw h
  | t => exact decode_encodeSlots_t hw h

end Sys2Proof

/-! ## The invariant along a step (07 R199) -/

namespace Sys2Proof.Machine

/-- Every instruction keeps the invariant: each arm of the dispatch is one meaning, whose own lemma says so. -/
theorem exec_inv (i : Instr) (s : State) (hs : s.Inv) : OutKeeps (exec i s) := by
  cases i
  case bundleIssue => exact execBundleIssue_inv (hs := hs) ..
  case repeatPrefix => exact execRepeatPrefix_inv (hs := hs) ..
  case resultLanding => exact execResultLanding_inv (hs := hs) ..
  case loadValueArrival => exact execLoadValueArrival_inv (hs := hs) ..
  case issueSelection => exact execIssueSelection_inv (hs := hs) ..
  case starvationGrant => exact execStarvationGrant_inv (hs := hs) ..
  case yieldPassEnd => exact execYieldPassEnd_inv (hs := hs) ..
  case heldBundleRelease => exact execHeldBundleRelease_inv (hs := hs) ..
  case segmentPrefetch => exact execSegmentPrefetch_inv (hs := hs) ..
  case pageWalk => exact execPageWalk_inv (hs := hs) ..
  case transparentFaultResolve => exact execTransparentFaultResolve_inv (hs := hs) ..
  case deliveredFault => exact execDeliveredFault_inv (hs := hs) ..
  case witnessFailureDelivery => exact execWitnessFailureDelivery_inv (hs := hs) ..
  case storeVisible => exact execStoreVisible_inv (hs := hs) ..
  case epochClose => exact execEpochClose_inv (hs := hs) ..
  case scStamp => exact execScStamp_inv (hs := hs) ..
  case scPerform => exact execScPerform_inv (hs := hs) ..
  case syncArrive => exact execSyncArrive_inv (hs := hs) ..
  case barrierRelease => exact execBarrierRelease_inv (hs := hs) ..
  case tileEngineClaim => exact execTileEngineClaim_inv (hs := hs) ..
  case tileOpComplete => exact execTileOpComplete_inv (hs := hs) ..
  case epilogueServe => exact execEpilogueServe_inv (hs := hs) ..
  case tileSink => exact execTileSink_inv (hs := hs) ..
  case tileRise => exact execTileRise_inv (hs := hs) ..
  case bankVacate => exact execBankVacate_inv (hs := hs) ..
  case unwind => exact execUnwind_inv (hs := hs) ..
  case gradContribution => exact execGradContribution_inv (hs := hs) ..
  case updateLineComplete => exact execUpdateLineComplete_inv (hs := hs) ..
  case collectiveRun => exact execCollectiveRun_inv (hs := hs) ..
  case recordFill => exact execRecordFill_inv (hs := hs) ..
  case recordDropComplete => exact execRecordDropComplete_inv (hs := hs) ..
  case noticeAppend => exact execNoticeAppend_inv (hs := hs) ..
  case tailWrite => exact execTailWrite_inv (hs := hs) ..
  case queueVisit => exact execQueueVisit_inv (hs := hs) ..
  case launchQueueAppend => exact execLaunchQueueAppend_inv (hs := hs) ..
  case instancePlacement => exact execInstancePlacement_inv (hs := hs) ..
  case priorityAgeing => exact execPriorityAgeing_inv (hs := hs) ..
  case forcedPreemption => exact execForcedPreemption_inv (hs := hs) ..
  case preempt => exact execPreempt_inv (hs := hs) ..
  case resume => exact execResume_inv (hs := hs) ..
  case scratchShareRelease => exact execScratchShareRelease_inv (hs := hs) ..
  case taskComplete => exact execTaskComplete_inv (hs := hs) ..
  case copyTask => exact execCopyTask_inv (hs := hs) ..
  case signalTask => exact execSignalTask_inv (hs := hs) ..
  case waitTask => exact execWaitTask_inv (hs := hs) ..
  case recordFenceTask => exact execRecordFenceTask_inv (hs := hs) ..
  case journalMark => exact execJournalMark_inv (hs := hs) ..
  case selfTestRun => exact execSelfTestRun_inv (hs := hs) ..
  case codeLoad => exact execCodeLoad_inv (hs := hs) ..
  case codeUnload => exact execCodeUnload_inv (hs := hs) ..
  case codegenPass => exact execCodegenPass_inv (hs := hs) ..
  case deadlockQueueGrowth => exact execDeadlockQueueGrowth_inv (hs := hs) ..
  case correctedError => exact execCorrectedError_inv (hs := hs) ..
  case uncorrectableError => exact execUncorrectableError_inv (hs := hs) ..
  case laneRetrain => exact execLaneRetrain_inv (hs := hs) ..
  case unknownMailboxCommand => exact execUnknownMailboxCommand_inv (hs := hs) ..
  case registerWrite => exact execRegisterWrite_inv (hs := hs) ..
  case br => exact execBr_inv (hs := hs) ..
  case loop => exact execLoop_inv (hs := hs) ..
  case loops => exact execLoops_inv (hs := hs) ..
  case fmtw => exact execFmtw_inv (hs := hs) ..
  case fmts => exact execFmts_inv (hs := hs) ..
  case sbar => exact execSbar_inv (hs := hs) ..
  case wwait => exact execWwait_inv (hs := hs) ..
  case trap => exact execTrap_inv (hs := hs) ..
  case brk => exact execBrk_inv (hs := hs) ..
  case jmp => exact execJmp_inv (hs := hs) ..
  case call => exact execCall_inv (hs := hs) ..
  case add => exact execAdd_inv (hs := hs) ..
  case sub => exact execSub_inv (hs := hs) ..
  case mul => exact execMul_inv (hs := hs) ..
  case mulh => exact execMulh_inv (hs := hs) ..
  case mulhn => exact execMulhn_inv (hs := hs) ..
  case div => exact execDiv_inv (hs := hs) ..
  case divn => exact execDivn_inv (hs := hs) ..
  case rem => exact execRem_inv (hs := hs) ..
  case remn => exact execRemn_inv (hs := hs) ..
  case and => exact execAnd_inv (hs := hs) ..
  case or => exact execOr_inv (hs := hs) ..
  case xor => exact execXor_inv (hs := hs) ..
  case andn => exact execAndn_inv (hs := hs) ..
  case shl => exact execShl_inv (hs := hs) ..
  case shr => exact execShr_inv (hs := hs) ..
  case sar => exact execSar_inv (hs := hs) ..
  case min => exact execMin_inv (hs := hs) ..
  case minn => exact execMinn_inv (hs := hs) ..
  case max => exact execMax_inv (hs := hs) ..
  case maxn => exact execMaxn_inv (hs := hs) ..
  case clz => exact execClz_inv (hs := hs) ..
  case popc => exact execPopc_inv (hs := hs) ..
  case bfx => exact execBfx_inv (hs := hs) ..
  case bfxn => exact execBfxn_inv (hs := hs) ..
  case bfi => exact execBfi_inv (hs := hs) ..
  case li => exact execLi_inv (hs := hs) ..
  case sel => exact execSel_inv (hs := hs) ..
  case ceq => exact execCeq_inv (hs := hs) ..
  case cne => exact execCne_inv (hs := hs) ..
  case clt => exact execClt_inv (hs := hs) ..
  case cltn => exact execCltn_inv (hs := hs) ..
  case cle => exact execCle_inv (hs := hs) ..
  case clen => exact execClen_inv (hs := hs) ..
  case qand => exact execQand_inv (hs := hs) ..
  case qor => exact execQor_inv (hs := hs) ..
  case qxor => exact execQxor_inv (hs := hs) ..
  case qget => exact execQget_inv (hs := hs) ..
  case qset => exact execQset_inv (hs := hs) ..
  case sget => exact execSget_inv (hs := hs) ..
  case sset => exact execSset_inv (hs := hs) ..
  case fadd => exact execFadd_inv (hs := hs) ..
  case fsub => exact execFsub_inv (hs := hs) ..
  case fmul => exact execFmul_inv (hs := hs) ..
  case ffma => exact execFfma_inv (hs := hs) ..
  case fmin => exact execFmin_inv (hs := hs) ..
  case fmax => exact execFmax_inv (hs := hs) ..
  case fclt => exact execFclt_inv (hs := hs) ..
  case fceq => exact execFceq_inv (hs := hs) ..
  case ftoi => exact execFtoi_inv (hs := hs) ..
  case itof => exact execItof_inv (hs := hs) ..
  case wjoin => exact execWjoin_inv (hs := hs) ..
  case wtos => exact execWtos_inv (hs := hs) ..
  case stow => exact execStow_inv (hs := hs) ..
  case ld => exact execLd_inv (hs := hs) ..
  case st => exact execSt_inv (hs := hs) ..
  case ldp => exact execLdp_inv (hs := hs) ..
  case stp => exact execStp_inv (hs := hs) ..
  case vld => exact execVld_inv (hs := hs) ..
  case vst => exact execVst_inv (hs := hs) ..
  case vldp => exact execVldp_inv (hs := hs) ..
  case vstp => exact execVstp_inv (hs := hs) ..
  case vgathp => exact execVgathp_inv (hs := hs) ..
  case vscatp => exact execVscatp_inv (hs := hs) ..
  case aadd => exact execAadd_inv (hs := hs) ..
  case amin => exact execAmin_inv (hs := hs) ..
  case aminn => exact execAminn_inv (hs := hs) ..
  case amax => exact execAmax_inv (hs := hs) ..
  case amaxn => exact execAmaxn_inv (hs := hs) ..
  case aswp => exact execAswp_inv (hs := hs) ..
  case acas => exact execAcas_inv (hs := hs) ..
  case afadd => exact execAfadd_inv (hs := hs) ..
  case wcheck => exact execWcheck_inv (hs := hs) ..
  case wall => exact execWall_inv (hs := hs) ..
  case swinit => exact execSwinit_inv (hs := hs) ..
  case swarr => exact execSwarr_inv (hs := hs) ..
  case swwait => exact execSwwait_inv (hs := hs) ..
  case swpoll => exact execSwpoll_inv (hs := hs) ..
  case llock => exact execLlock_inv (hs := hs) ..
  case lunlock => exact execLunlock_inv (hs := hs) ..
  case rcfence => exact execRcfence_inv (hs := hs) ..
  case xpld => exact execXpld_inv (hs := hs) ..
  case launch => exact execLaunch_inv (hs := hs) ..
  case pref => exact execPref_inv (hs := hs) ..
  case btw => exact execBtw_inv (hs := hs) ..
  case vadd => exact execVadd_inv (hs := hs) ..
  case vsub => exact execVsub_inv (hs := hs) ..
  case vmul => exact execVmul_inv (hs := hs) ..
  case vfma => exact execVfma_inv (hs := hs) ..
  case vmin => exact execVmin_inv (hs := hs) ..
  case vmax => exact execVmax_inv (hs := hs) ..
  case vminn => exact execVminn_inv (hs := hs) ..
  case vmaxn => exact execVmaxn_inv (hs := hs) ..
  case vand => exact execVand_inv (hs := hs) ..
  case vor => exact execVor_inv (hs := hs) ..
  case vxor => exact execVxor_inv (hs := hs) ..
  case vshl => exact execVshl_inv (hs := hs) ..
  case vshr => exact execVshr_inv (hs := hs) ..
  case vsar => exact execVsar_inv (hs := hs) ..
  case vsel => exact execVsel_inv (hs := hs) ..
  case vsplat => exact execVsplat_inv (hs := hs) ..
  case vlnadd => exact execVlnadd_inv (hs := hs) ..
  case vabs => exact execVabs_inv (hs := hs) ..
  case vneg => exact execVneg_inv (hs := hs) ..
  case vrsum => exact execVrsum_inv (hs := hs) ..
  case vrmax => exact execVrmax_inv (hs := hs) ..
  case vlog => exact execVlog_inv (hs := hs) ..
  case vexp => exact execVexp_inv (hs := hs) ..
  case vmov => exact execVmov_inv (hs := hs) ..
  case vceq => exact execVceq_inv (hs := hs) ..
  case vclt => exact execVclt_inv (hs := hs) ..
  case vcle => exact execVcle_inv (hs := hs) ..
  case vcltn => exact execVcltn_inv (hs := hs) ..
  case vcvt => exact execVcvt_inv (hs := hs) ..
  case vcmpr => exact execVcmpr_inv (hs := hs) ..
  case vexpd => exact execVexpd_inv (hs := hs) ..
  case vany => exact execVany_inv (hs := hs) ..
  case xperm => exact execXperm_inv (hs := hs) ..
  case xbcast => exact execXbcast_inv (hs := hs) ..
  case xslide => exact execXslide_inv (hs := hs) ..
  case xtrn => exact execXtrn_inv (hs := hs) ..
  case xrev => exact execXrev_inv (hs := hs) ..
  case xzip => exact execXzip_inv (hs := hs) ..
  case xunzip => exact execXunzip_inv (hs := hs) ..
  case tdup => exact execTdup_inv (hs := hs) ..
  case tdrop => exact execTdrop_inv (hs := hs) ..
  case tswap => exact execTswap_inv (hs := hs) ..
  case tpick => exact execTpick_inv (hs := hs) ..
  case trot => exact execTrot_inv (hs := hs) ..
  case tzero => exact execTzero_inv (hs := hs) ..
  case tinfo => exact execTinfo_inv (hs := hs) ..
  case tshape => exact execTshape_inv (hs := hs) ..
  case tscale => exact execTscale_inv (hs := hs) ..
  case tlds => exact execTlds_inv (hs := hs) ..
  case tsts => exact execTsts_inv (hs := hs) ..
  case tfromv => exact execTfromv_inv (hs := hs) ..
  case ttov => exact execTtov_inv (hs := hs) ..
  case mwl => exact execMwl_inv (hs := hs) ..
  case mfw => exact execMfw_inv (hs := hs) ..
  case mfwa => exact execMfwa_inv (hs := hs) ..
  case mbk => exact execMbk_inv (hs := hs) ..
  case mbka => exact execMbka_inv (hs := hs) ..
  case mwrel => exact execMwrel_inv (hs := hs) ..
  case tadd => exact execTadd_inv (hs := hs) ..
  case tsub => exact execTsub_inv (hs := hs) ..
  case tmul => exact execTmul_inv (hs := hs) ..
  case tmax => exact execTmax_inv (hs := hs) ..
  case tmin => exact execTmin_inv (hs := hs) ..
  case tfma => exact execTfma_inv (hs := hs) ..
  case tcvt => exact execTcvt_inv (hs := hs) ..
  case tact => exact execTact_inv (hs := hs) ..
  case trsum => exact execTrsum_inv (hs := hs) ..
  case tcsum => exact execTcsum_inv (hs := hs) ..
  case txp => exact execTxp_inv (hs := hs) ..
  case tget => exact execTget_inv (hs := hs) ..
  case tsend => exact execTsend_inv (hs := hs) ..
  case tsendq => exact execTsendq_inv (hs := hs) ..
  case acopy => exact execAcopy_inv (hs := hs) ..
  case acopyw => exact execAcopyw_inv (hs := hs) ..
  case stash => exact execStash_inv (hs := hs) ..
  case restore => exact execRestore_inv (hs := hs) ..
  case recomp => exact execRecomp_inv (hs := hs) ..
  case grad => exact execGrad_inv (hs := hs) ..
  case coll => exact execColl_inv (hs := hs) ..
  case hostMemoryAccess => exact execHostMemoryAccess_inv (hs := hs) ..
  case peerMemoryAccess => exact execPeerMemoryAccess_inv (hs := hs) ..
  case tamvanLinkDown => exact execTamvanLinkDown_inv (hs := hs) ..
  case tamvanLinkUp => exact execTamvanLinkUp_inv (hs := hs) ..
  case linkLayerRetry => exact execLinkLayerRetry_inv (hs := hs) ..
  case epochTick => exact execEpochTick_inv (hs := hs) ..
  case lineAgingSweep => exact execLineAgingSweep_inv (hs := hs) ..
  case wheelAdvance => exact execWheelAdvance_inv (hs := hs) ..
  case energyInterval => exact execEnergyInterval_inv (hs := hs) ..
  case errorLogCoalesce => exact execErrorLogCoalesce_inv (hs := hs) ..
  case counterSample => exact execCounterSample_inv (hs := hs) ..
  case fundamentalReset => exact execFundamentalReset_inv (hs := hs) ..
  case hostLinkReturn => exact execHostLinkReturn_inv (hs := hs) ..
  case hostLinkTimeout => exact execHostLinkTimeout_inv (hs := hs) ..
  case packageReset => exact execPackageReset_inv (hs := hs) ..
  case boot => exact execBoot_inv (hs := hs) ..
  case configureQueue => exact execConfigureQueue_inv (hs := hs) ..
  case changePageEntry => exact execChangePageEntry_inv (hs := hs) ..
  case placementPolicy => exact execPlacementPolicy_inv (hs := hs) ..
  case registerCodeKey => exact execRegisterCodeKey_inv (hs := hs) ..
  case cancelTask => exact execCancelTask_inv (hs := hs) ..
  case returnWithdrawn => exact execReturnWithdrawn_inv (hs := hs) ..
  case setDerate => exact execSetDerate_inv (hs := hs) ..
  case readCounters => exact execReadCounters_inv (hs := hs) ..
  case readEnergyAccount => exact execReadEnergyAccount_inv (hs := hs) ..
  case attestationReport => exact execAttestationReport_inv (hs := hs) ..
  case readQueueHead => exact execReadQueueHead_inv (hs := hs) ..
  case resetCommand => exact execResetCommand_inv (hs := hs) ..
  case writeFirmware => exact execWriteFirmware_inv (hs := hs) ..
  case lbreak => exact execLbreak_inv (hs := hs) ..
  case twait => exact execTwait_inv (hs := hs) ..
  case yield => exact execYield_inv (hs := hs) ..
  case tret => exact execTret_inv (hs := hs) ..
  case exit => exact execExit_inv (hs := hs) ..
  case statf => exact execStatf_inv (hs := hs) ..
  case ret => exact execRet_inv (hs := hs) ..

/-- Settles O59: a step takes the next instruction of the schedule or of the policy, and every instruction keeps the
invariant. -/
theorem stepKeepsInvariant : Obligations.StepKeepsInvariant := by
  unfold Obligations.StepKeepsInvariant
  intro s t hs h
  unfold step at h
  split at h
  case h_1 i r _ => exact (exec_inv i { s with events := r } hs).all t h
  case h_2 => exact (exec_inv s.autoEvent { s with rotor := s.rotor + 1 } hs).all t h

end Sys2Proof.Machine

/-! ## The forms of the S slot -/

namespace Sys2Proof.Machine

/-- A scalar result by its register: s0 discards it. -/
theorem scalarPend_toNat (sd : BitVec 6) (lat : Nat) (v : W64) :
    scalarPend sd.toNat lat v = if sd = 0 then [] else [Pend.make (.s sd.toNat) lat (v.zeroExtend 2048)] := by
  have hzero : sd.toNat = 0 ↔ sd = 0 := by rw [BitVec.toNat_eq]; simp
  simp only [scalarPend, hzero]

/-- A form of one scalar result commits with that result. -/
theorem commits_sReq {i : Instr} {lits lat w : Nat} {m : Mask} {sd : BitVec 6} {v v' : Env → W64}
    (hx : ∀ s, exec i s = issueForm lits (sReq m sd.toNat lat w v) s) (hv : ∀ e, v e = v' e) :
    Commits i lits .s (m.getLsbD 0) (fun e => if sd = 0 then [] else
      [Pend.make (.s sd.toNat) lat ((v' e).zeroExtend 2048)]) (fun _ => w) := by
  refine commits_of _ hx rfl (by decide) rfl fun e _ => ⟨⟨rfl, rfl, rfl, .inl rfl, rfl, ?_, rfl, rfl, rfl, rfl⟩, rfl⟩
  simp only [← hv, ← scalarPend_toNat]
  rfl

/-! ### The arithmetic of 06 R170 to R172 over the integers -/

section
variable (x y : W64)

theorem add_eq_ofNat : x + y = BitVec.ofNat 64 (x.toNat + y.toNat) := by
  rw [BitVec.ofNat_add, BitVec.ofNat_toNat, BitVec.ofNat_toNat]; simp

theorem mul_eq_ofNat : x * y = BitVec.ofNat 64 (x.toNat * y.toNat) := by
  rw [BitVec.ofNat_mul]; simp

theorem sub_eq_ofInt : x - y = BitVec.ofInt 64 (x.toInt - y.toInt) := by
  apply BitVec.eq_of_toInt_eq
  simp [BitVec.toInt_sub, BitVec.toInt_ofInt]

/-- The high half of the 128-bit product of two sign-extended words. -/
theorem mulHS_eq : mulHS x y = BitVec.ofInt 64 (x.toInt * y.toInt / 2 ^ 64) := by
  have hprod : x.signExtend 128 * y.signExtend 128 = BitVec.ofInt 128 (x.toInt * y.toInt) :=
    (BitVec.ofInt_mul _ _).symm
  rw [mulHS, hprod]
  apply BitVec.eq_of_toNat_eq
  simp [BitVec.toNat_ofInt, Nat.shiftRight_eq_div_pow]
  omega

theorem mulHU_eq : mulHU x y = BitVec.ofNat 64 (x.toNat * y.toNat / 2 ^ 64) := by
  apply BitVec.eq_of_toNat_eq
  have hlt : x.toNat * y.toNat < 2 ^ 64 * 2 ^ 64 := Nat.mul_lt_mul'' x.isLt y.isLt
  simp only [mulHU, BitVec.toNat_setWidth, BitVec.truncate_eq_setWidth, BitVec.toNat_ushiftRight,
    BitVec.toNat_mul, BitVec.toNat_ofNat, Nat.shiftRight_eq_div_pow]
  rw [Nat.mod_eq_of_lt (x.isLt.trans (by decide)), Nat.mod_eq_of_lt (y.isLt.trans (by decide)), Nat.mod_eq_of_lt (hlt.trans_eq (by decide))]

theorem divS_eq : divS x y = if y = 0 then BitVec.allOnes 64 else BitVec.ofInt 64 (x.toInt.tdiv y.toInt) := by
  unfold divS
  split
  · rfl
  · apply BitVec.eq_of_toInt_eq
    rw [BitVec.toInt_sdiv, BitVec.toInt_ofInt]

theorem divU_eq : divU x y = if y = 0 then BitVec.allOnes 64 else BitVec.ofNat 64 (x.toNat / y.toNat) := by
  unfold divU
  split
  · rfl
  · exact BitVec.udiv_def

theorem remS_eq : remS x y = if y = 0 then x else BitVec.ofInt 64 (x.toInt.tmod y.toInt) := by
  unfold remS
  split
  · rfl
  · apply BitVec.eq_of_toInt_eq
    rw [← BitVec.toInt_srem, BitVec.ofInt_toInt]

theorem remU_eq : remU x y = if y = 0 then x else BitVec.ofNat 64 (x.toNat % y.toNat) := by
  unfold remU
  split
  · rfl
  · exact BitVec.umod_def

theorem shCount_eq : shCount y = y.toNat % 64 := by simp [shCount]

theorem bfPos_eq : bfPos y = y.toNat % 64 := by simp [bfPos]

theorem bfWidth_eq : bfWidth y = y.toNat / 64 % 64 + 1 := by simp [bfWidth, Nat.shiftRight_eq_div_pow]

theorem shiftLeft_eq_ofNat (n : Nat) : x <<< n = BitVec.ofNat 64 (x.toNat * 2 ^ n) := by
  apply BitVec.eq_of_toNat_eq
  simp [Nat.shiftLeft_eq]

theorem ushiftRight_eq_ofNat (n : Nat) : x >>> n = BitVec.ofNat 64 (x.toNat / 2 ^ n) := by
  apply BitVec.eq_of_toNat_eq
  rw [BitVec.toNat_ushiftRight, BitVec.toNat_ofNat, Nat.shiftRight_eq_div_pow,
    Nat.mod_eq_of_lt (lt_of_le_of_lt (Nat.div_le_self _ _) x.isLt)]

theorem sshiftRight_eq_ofInt (n : Nat) : x.sshiftRight n = BitVec.ofInt 64 (x.toInt / 2 ^ n) := by
  simp [BitVec.sshiftRight, Int.shiftRight_eq_div_pow]

theorem clz64_eq : clz64 x = BitVec.ofNat 64 (if x = 0 then 64 else 63 - Nat.log2 x.toNat) := by
  have hzero : x.toNat = 0 ↔ x = 0 := by simp [BitVec.toNat_eq]
  unfold clz64 bitLen
  by_cases h : x = 0
  · simp [h]
  · rw [if_neg (by rwa [hzero]), if_neg h, Nat.add_comm, Nat.sub_add_eq]

theorem popc64_eq : popc64 x = BitVec.ofNat 64 (∑ i ∈ Finset.range 64, (x.getLsbD i).toNat) := by
  have hcount (l : List Nat) : (l.filter fun i => x.getLsbD i).length = (l.map fun i => (x.getLsbD i).toNat).sum := by
    induction l with
    | nil => rfl
    | cons i l ih => cases h : x.getLsbD i <;> simp [h, ih, Nat.add_comm]
  rw [popc64, hcount]
  rfl

theorem bfField_eq : bfField x y = x.toNat / 2 ^ (y.toNat % 64) % 2 ^ (y.toNat / 64 % 64 + 1) := by
  rw [bfField, bfPos_eq, bfWidth_eq, Nat.shiftRight_eq_div_pow]

theorem bfSigned_eq (f w : Nat) (hf : f = bfField x y) (hw : w = bfWidth y) :
    bfSigned x y = BitVec.ofInt 64 (if f < 2 ^ (w - 1) then (f : Int) else (f : Int) - 2 ^ w) := by
  have hmod : bfField x y % 2 ^ bfWidth y = bfField x y := Nat.mod_mod _ _
  subst hf hw
  simp only [bfSigned, sextNat, hmod, Nat.cast_pow, Nat.cast_ofNat]

/-- The mask of a field, as shifted ones. -/
theorem fieldMask_eq (pos wid : Nat) : BitVec.ofNat 64 ((2 ^ wid - 1) * 2 ^ pos) =
    (BitVec.allOnes 64 <<< pos) &&& ~~~(BitVec.allOnes 64 <<< (pos + wid)) := by
  ext i hi
  rw [← BitVec.getLsbD_eq_getElem, BitVec.getLsbD_ofNat, Nat.testBit_mul_two_pow, Nat.testBit_two_pow_sub_one]
  simp only [BitVec.getElem_and, BitVec.getElem_not, BitVec.getElem_shiftLeft, BitVec.getElem_allOnes, Bool.and_true, decide_eq_true hi, Bool.true_and]
  by_cases hlow : pos ≤ i
  · have hiff : i - pos < wid ↔ i < pos + wid := by omega
    simp [hlow, hiff]
  · have hlt : i < pos := by omega
    simp [hlow, hlt]

end

/-- Settles O1: each form has one scalar result, and each value is the sum, product, quotient, field or choice named. -/
theorem scalarArithmetic : Obligations.ScalarArithmetic := by
  unfold Obligations.ScalarArithmetic
  constructor
  · intro m sd sa b
    refine ⟨?_, ?_, ?_, ?_, ?_, ?_, ?_, ?_, ?_⟩
    · exact commits_sReq (fun _ => rfl) fun _ => add_eq_ofNat _ _
    · exact commits_sReq (fun _ => rfl) fun _ => sub_eq_ofInt _ _
    · exact commits_sReq (fun _ => rfl) fun _ => mul_eq_ofNat _ _
    · exact commits_sReq (fun _ => rfl) fun _ => mulHS_eq _ _
    · exact commits_sReq (fun _ => rfl) fun _ => mulHU_eq _ _
    · exact commits_sReq (fun _ => rfl) fun _ => divS_eq _ _
    · exact commits_sReq (fun _ => rfl) fun _ => divU_eq _ _
    · exact commits_sReq (fun _ => rfl) fun _ => remS_eq _ _
    · exact commits_sReq (fun _ => rfl) fun _ => remU_eq _ _
  · intro m sd sa t b
    refine ⟨?_, ?_, ?_, ?_, ?_, ?_, ?_, ?_, ?_, ?_, ?_, ?_, ?_, ?_, ?_, ?_, ?_, ?_⟩
    · exact commits_sReq (fun _ => rfl) fun _ => rfl
    · exact commits_sReq (fun _ => rfl) fun _ => rfl
    · exact commits_sReq (fun _ => rfl) fun _ => rfl
    · exact commits_sReq (fun _ => rfl) fun _ => rfl
    · exact commits_sReq (fun _ => rfl) fun _ => by rw [shCount_eq, shiftLeft_eq_ofNat]
    · exact commits_sReq (fun _ => rfl) fun _ => by rw [shCount_eq, ushiftRight_eq_ofNat]
    · exact commits_sReq (fun _ => rfl) fun _ => by rw [shCount_eq, sshiftRight_eq_ofInt]
    · exact commits_sReq (fun _ => rfl) fun _ => by simp only [BitVec.slt_iff_toInt_lt]
    · exact commits_sReq (fun _ => rfl) fun _ => by simp only [BitVec.ult_iff_toNat_lt]
    · exact commits_sReq (fun _ => rfl) fun _ => by simp only [BitVec.slt_iff_toInt_lt]
    · exact commits_sReq (fun _ => rfl) fun _ => by simp only [BitVec.ult_iff_toNat_lt]
    · exact commits_sReq (fun _ => rfl) fun _ => clz64_eq _
    · exact commits_sReq (fun _ => rfl) fun _ => popc64_eq _
    · exact commits_sReq (fun _ => rfl) fun _ => by rw [bfField_eq]
    · exact commits_sReq (fun _ => rfl) fun _ => bfSigned_eq _ _ _ _ (bfField_eq _ _).symm (bfWidth_eq _).symm
    · exact commits_sReq (fun _ => rfl) fun _ => by simp only [bfInsert, bfPos_eq, bfWidth_eq, fieldMask_eq]
    · exact commits_sReq (fun _ => rfl) fun _ => rfl
    · exact commits_sReq (fun _ => rfl) fun _ => rfl

end Sys2Proof.Machine

namespace Sys2Proof.Machine

/-! ### Conditions and special registers (06 R174 to R176) -/

/-- A form of one condition bit commits with that bit. -/
theorem commits_qReq {i : Instr} {lits : Nat} {m : Mask} {qd : BitVec 5} {v v' : Env → Bool}
    (hx : ∀ s, exec i s = issueForm lits (qReq m qd.toNat v) s) (hv : ∀ e, v e = v' e) :
    Commits i lits .s (m.getLsbD 0) (fun e => [Pend.make (.q qd.toNat) 1 ((BitVec.ofBool (v' e)).zeroExtend 2048)]) (fun _ => 1) := by
  refine commits_of _ hx rfl (by decide) rfl fun e _ => ⟨⟨rfl, rfl, rfl, .inl rfl, rfl, ?_, rfl, rfl, rfl, rfl⟩, rfl⟩
  simp only [← hv]
  rfl

/-- A form of the S slot that starts results and does nothing else commits with them. -/
theorem commits_pends_s {i : Instr} {lits w : Nat} {m : Mask} {new new' : Env → List Pend}
    (hx : ∀ s, exec i s = issueForm lits { slot := .s, mask := m, eff := fun e => { pends := new e, energy := w } } s)
    (hn : ∀ e, new' e = new e) : Commits i lits .s (m.getLsbD 0) new' (fun _ => w) :=
  commits_of _ hx rfl (by decide) rfl fun e _ => ⟨⟨rfl, rfl, rfl, .inl rfl, rfl, hn e, rfl, rfl, rfl, rfl⟩, rfl⟩

section
variable (x y : W64)

theorem bne_eq_decide_ne : (x != y) = decide (x ≠ y) := by simp [bne, beq_eq_decide]
theorem slt_eq_decide : x.slt y = decide (x.toInt < y.toInt) := rfl
theorem sle_eq_decide : x.sle y = decide (x.toInt ≤ y.toInt) := rfl
theorem ult_eq_decide : x.ult y = decide (x.toNat < y.toNat) := rfl
theorem ule_eq_decide : x.ule y = decide (x.toNat ≤ y.toNat) := rfl

end

/-- What `SSET` asks of its bundle where its register takes a write. -/
theorem reqSset_fault_none {m : Mask} {i sa : BitVec 6} {e : Env} (h11 : i.toNat ≠ 11) (h12 : i.toNat ≠ 12)
    (hf : i.toNat = 9 ∨ i.toNat = 10 → e.c.inFooting = false) : ((reqSset m i sa).eff e).fault = none := by
  have hspill : ¬((i.toNat = 9 ∨ i.toNat = 10) ∧ e.c.inFooting = true) := fun h => by simp [hf h.1] at h
  simp only [reqSset, h11, h12, or_self, if_false, hspill]

theorem sset_commits (m : Mask) (i sa : BitVec 6) :
    Commits (.sset m i sa) 0 .s (m.getLsbD 0) (fun _ => []) (fun _ => 1)
      (ok := fun e => i.toNat ≠ 11 ∧ i.toNat ≠ 12 ∧ (i.toNat = 9 ∨ i.toNat = 10 → e.c.inFooting = false))
      (post := fun e s => s.onCtx e.a (specialSet i.toNat (e.c.readS sa.toNat))) :=
  commits_of (reqSset m i sa) (fun _ => rfl) rfl (by decide) rfl fun e ⟨h11, h12, hf⟩ =>
    ⟨⟨rfl, reqSset_fault_none h11 h12 hf, rfl, .inl rfl, rfl, rfl, rfl, rfl, rfl, rfl⟩, rfl⟩

/-! ### Witnesses (06 R178, 07 R187) -/

/-- The fields of a witness (Table 7-4). -/
def WitIs (w : W64) (form scope dom epoch agent seq : Nat) : Prop :=
  witForm w = form ∧ witScope w = scope ∧ witDom w = dom ∧ witEpoch w = epoch ∧ witAgent w = agent ∧ witSeq w = seq

section
variable (w x y : W64)

theorem witForm_eq_div : witForm w = w.toNat / 2 ^ 62 := by
  simp only [witForm, BitVec.extractLsb'_toNat, Nat.shiftRight_eq_div_pow]
  have := w.isLt
  omega
theorem witScope_eq_div : witScope w = w.toNat / 2 ^ 59 % 2 ^ 3 := by
  simp only [witScope, BitVec.extractLsb'_toNat, Nat.shiftRight_eq_div_pow]
theorem witDom_eq_div : witDom w = w.toNat / 2 ^ 53 % 2 ^ 6 := by
  simp only [witDom, BitVec.extractLsb'_toNat, Nat.shiftRight_eq_div_pow]
theorem witEpoch_eq_div : witEpoch w = w.toNat / 2 ^ 31 % 2 ^ 22 := by
  simp only [witEpoch, BitVec.extractLsb'_toNat, Nat.shiftRight_eq_div_pow]
theorem witAgent_eq_div : witAgent w = w.toNat / 2 ^ 21 % 2 ^ 10 := by
  simp only [witAgent, BitVec.extractLsb'_toNat, Nat.shiftRight_eq_div_pow]
theorem witSeq_eq_mod : witSeq w = w.toNat % 2 ^ 21 := by simp [witSeq]

theorem witScope_lt : witScope w < 2 ^ 3 := BitVec.isLt _
theorem witDom_lt : witDom w < 2 ^ 6 := BitVec.isLt _
theorem witEpoch_lt : witEpoch w < 2 ^ 22 := BitVec.isLt _
theorem witAgent_lt : witAgent w < 2 ^ 10 := BitVec.isLt _
theorem witSeq_lt : witSeq w < 2 ^ 21 := BitVec.isLt _

theorem toNat_of_eq_ofNat {n v : Nat} {b : BitVec n} (h : b = BitVec.ofNat n v) (hv : v < 2 ^ n) : b.toNat = v := by
  rw [h, BitVec.toNat_ofNat, Nat.mod_eq_of_lt hv]

/-- The fields that a witness is made of are its fields, where each fits. -/
theorem witIs_mkWit {form scope dom epoch agent seq : Nat} (hf : form < 2 ^ 2) (hs : scope < 2 ^ 3) (hd : dom < 2 ^ 6)
    (he : epoch < 2 ^ 22) (ha : agent < 2 ^ 10) (hq : seq < 2 ^ 21) :
    WitIs (mkWit form scope dom epoch agent seq) form scope dom epoch agent seq := by
  refine ⟨?_, ?_, ?_, ?_, ?_, ?_⟩
  · exact toNat_of_eq_ofNat (extract_past _ _ _ _ _ (by decide) (extract_past _ _ _ _ _ (by decide) (extract_past _ _ _ _ _ (by decide) (extract_past _ _ _ _ _ (by decide) (extract_high _ _))))) hf
  · exact toNat_of_eq_ofNat (extract_past _ _ _ _ _ (by decide) (extract_past _ _ _ _ _ (by decide) (extract_past _ _ _ _ _ (by decide) (extract_past _ _ _ _ _ (by decide) (extract_right _ _))))) hs
  · exact toNat_of_eq_ofNat (extract_past _ _ _ _ _ (by decide) (extract_past _ _ _ _ _ (by decide) (extract_past _ _ _ _ _ (by decide) (extract_right _ _)))) hd
  · exact toNat_of_eq_ofNat (extract_past _ _ _ _ _ (by decide) (extract_past _ _ _ _ _ (by decide) (extract_right _ _))) he
  · exact toNat_of_eq_ofNat (extract_past _ _ _ _ _ (by decide) (extract_right _ _)) ha
  · exact toNat_of_eq_ofNat (extract_right _ _) hq

/-- A failed witness keeps the fields of its cause, with a scope of 1 at least. -/
theorem witIs_failWit : WitIs (failWit w) 3 (max (witScope w) 1) (witDom w) (witEpoch w) (witAgent w) (witSeq w) :=
  witIs_mkWit (by decide) (max_lt (witScope_lt w) (by decide)) (witDom_lt w) (witEpoch_lt w) (witAgent_lt w) (witSeq_lt w)

/-- The distance forward from one value to another in a field of n bits. -/
theorem sub_in_field (n u v : Nat) : (((u % 2 ^ n + 2 ^ n - v % 2 ^ n) % 2 ^ n : Nat) : Int) = ((u : Int) - v) % 2 ^ n := by
  have hv : v % 2 ^ n < 2 ^ n := Nat.mod_lt _ (Nat.two_pow_pos n)
  rw [Int.natCast_mod, Nat.cast_sub (by omega)]
  push_cast
  rw [add_sub_right_comm, Int.add_emod_right, ← Int.sub_emod]

/-- Later in a field of n bits is a distance forward of less than half the field's values. -/
theorem laterIn_iff {n u v : Nat} :
    laterIn n u v = true ↔ 1 ≤ ((u : Int) - v) % 2 ^ n ∧ ((u : Int) - v) % 2 ^ n < 2 ^ (n - 1) := by
  simp only [laterIn, Bool.and_eq_true, decide_eq_true_eq, ← sub_in_field]
  norm_cast

theorem normWit_of_ne {w : W64} (h0 : witForm w ≠ 0) (h3 : witForm w ≠ 3) : normWit w = w := by simp [normWit, h0, h3]
theorem normWit_of_failed {w : W64} (h : witForm w = 3) : normWit w = failWit w := by simp [normWit, h]

/-- A merge with a null witness is the other one, as the K4 writes it. -/
theorem witMerge_null_left {x y : W64} (hx : witForm x = 0) : witMerge x y = normWit y := by simp [witMerge, hx]
theorem witMerge_null_right {x y : W64} (hx : witForm x ≠ 0) (hy : witForm y = 0) : witMerge x y = normWit x := by simp [witMerge, hx, hy]

/-- A failed witness, the left one first, is the merge. -/
theorem witMerge_failed_left {x y : W64} (hx : witForm x = 3) (hy : witForm y ≠ 0) : witMerge x y = failWit x := by
  simp [witMerge, hx, hy, normWit]
theorem witMerge_failed_right {x y : W64} (hx0 : witForm x ≠ 0) (hx3 : witForm x ≠ 3) (hy : witForm y = 3) :
    witMerge x y = failWit y := by
  simp [witMerge, hx0, hx3, hy, normWit]

/-- Witnesses of two domains merge to a failed one. -/
theorem witMerge_domains {x y : W64} (hx0 : witForm x ≠ 0) (hx3 : witForm x ≠ 3) (hy0 : witForm y ≠ 0) (hy3 : witForm y ≠ 3)
    (hd : witDom x ≠ witDom y) : witMerge x y = failWit x := by
  simp [witMerge, hx0, hx3, hy0, hy3, hd]

/-- Two witnesses of one agent merge to the later one of it. -/
theorem witMerge_agent {x y : W64} (hd : witDom x = witDom y) (h : witForm x = 1 ∧ witForm y = 1 ∧ witAgent x = witAgent y) :
    witMerge x y = mkWit 1 (max (witScope x) (witScope y)) (witDom x)
      (if laterIn 22 (witEpoch y) (witEpoch x) then witEpoch y else witEpoch x) (witAgent x)
      (if laterIn 21 (witSeq y) (witSeq x) then witSeq y else witSeq x) := by
  simp [witMerge, hd, h]

/-- Other witnesses of one domain merge to one of an epoch. -/
theorem witMerge_epoch {x y : W64} (hx0 : witForm x ≠ 0) (hx3 : witForm x ≠ 3) (hy0 : witForm y ≠ 0) (hy3 : witForm y ≠ 3)
    (hd : witDom x = witDom y) (h : ¬(witForm x = 1 ∧ witForm y = 1 ∧ witAgent x = witAgent y)) :
    witMerge x y = mkWit 2 (max (max (witScope x) (witScope y)) 4) (witDom x)
      (if laterIn 22 (witEpoch y) (witEpoch x) then witEpoch y else witEpoch x) 0 0 := by
  simp only [witMerge, hx0, hx3, hy0, hy3, hd, if_false, ne_eq, not_true_eq_false, if_neg h]

theorem witMerge_agent_is {x y : W64} (hd : witDom x = witDom y) (h : witForm x = 1 ∧ witForm y = 1 ∧ witAgent x = witAgent y)
    {ep sq : Nat} (he : ep = if laterIn 22 (witEpoch y) (witEpoch x) then witEpoch y else witEpoch x)
    (hq : sq = if laterIn 21 (witSeq y) (witSeq x) then witSeq y else witSeq x) :
    WitIs (witMerge x y) 1 (max (witScope x) (witScope y)) (witDom x) ep (witAgent x) sq := by
  rw [witMerge_agent hd h, ← he, ← hq]
  have hep : ep < 2 ^ 22 := by rw [he]; split <;> exact witEpoch_lt _
  have hsq : sq < 2 ^ 21 := by rw [hq]; split <;> exact witSeq_lt _
  exact witIs_mkWit (by decide) (max_lt (witScope_lt x) (witScope_lt y)) (witDom_lt x) hep (witAgent_lt x) hsq

theorem witMerge_epoch_is {x y : W64} (hx0 : witForm x ≠ 0) (hx3 : witForm x ≠ 3) (hy0 : witForm y ≠ 0) (hy3 : witForm y ≠ 3)
    (hd : witDom x = witDom y) (h : ¬(witForm x = 1 ∧ witForm y = 1 ∧ witAgent x = witAgent y))
    {ep : Nat} (he : ep = if laterIn 22 (witEpoch y) (witEpoch x) then witEpoch y else witEpoch x) :
    WitIs (witMerge x y) 2 (max (max (witScope x) (witScope y)) 4) (witDom x) ep 0 0 := by
  rw [witMerge_epoch hx0 hx3 hy0 hy3 hd h, ← he]
  have hep : ep < 2 ^ 22 := by rw [he]; split <;> exact witEpoch_lt _
  exact witIs_mkWit (by decide) (max_lt (max_lt (witScope_lt x) (witScope_lt y)) (by decide)) (witDom_lt x) hep (by decide) (by decide)

end

/-- Settles O2: each form has its one result, and the merge of two witnesses is told by their forms, domains and agents. -/
theorem scalarConditions : Obligations.ScalarConditions := by
  unfold Obligations.ScalarConditions
  constructor
  · intro m qd sd sa ta tb b
    refine ⟨?_, ?_, ?_, ?_, ?_, ?_, ?_, ?_, ?_, ?_, ?_⟩
    · exact commits_qReq (fun _ => rfl) fun _ => beq_eq_decide _ _
    · exact commits_qReq (fun _ => rfl) fun _ => bne_eq_decide_ne _ _
    · exact commits_qReq (fun _ => rfl) fun _ => slt_eq_decide _ _
    · exact commits_qReq (fun _ => rfl) fun _ => ult_eq_decide _ _
    · exact commits_qReq (fun _ => rfl) fun _ => sle_eq_decide _ _
    · exact commits_qReq (fun _ => rfl) fun _ => ule_eq_decide _ _
    · exact commits_qReq (fun _ => rfl) fun _ => rfl
    · exact commits_qReq (fun _ => rfl) fun _ => rfl
    · exact commits_qReq (fun _ => rfl) fun _ => rfl
    · exact commits_pends_s (fun _ => rfl) fun _ => rfl
    · exact commits_pends_s (fun _ => rfl) fun _ => rfl
  · intro m sd sa i wd wa wb
    refine ⟨?_, sset_commits m i sa, ?_, ?_, ?_, ?_⟩
    · exact commits_pends_s (fun _ => rfl) fun _ => rfl
    · exact commits_pends_s (fun _ => rfl) fun _ => rfl
    · exact commits_pends_s (fun _ => rfl) fun _ => rfl
    · exact commits_pends_s (fun _ => rfl) fun _ => rfl
    · intro x y
      simp only [← witForm_eq_div, ← witScope_eq_div, ← witDom_eq_div, ← witEpoch_eq_div, ← witAgent_eq_div, ← witSeq_eq_mod,
        ← laterIn_iff (n := 22), ← laterIn_iff (n := 21)]
      refine ⟨fun hx hy => ?_, fun hx hy0 => ⟨fun hy3 => ?_, fun hy => ?_⟩, fun hx0 hy => ⟨fun hx3 => ?_, fun hx => ?_⟩,
        fun hx0 hy0 => ⟨fun hx => ?_, fun hx3 hy => ?_, fun hx3 hy3 => ⟨fun hd => ?_, fun hd => ⟨fun h => ?_, fun h => ?_⟩⟩⟩⟩
      · rw [witMerge_null_left hx, normWit, if_pos hy]
      · rw [witMerge_null_left hx, normWit_of_ne hy0 hy3]
      · rw [witMerge_null_left hx, normWit_of_failed hy]; exact witIs_failWit y
      · rw [witMerge_null_right hx0 hy, normWit_of_ne hx0 hx3]
      · rw [witMerge_null_right hx0 hy, normWit_of_failed hx]; exact witIs_failWit x
      · rw [witMerge_failed_left hx hy0]; exact witIs_failWit x
      · rw [witMerge_failed_right hx0 hx3 hy]; exact witIs_failWit y
      · rw [witMerge_domains hx0 hx3 hy0 hy3 hd]; exact witIs_failWit x
      · exact witMerge_agent_is hd h rfl rfl
      · exact witMerge_epoch_is hx0 hx3 hy0 hy3 hd h rfl

end Sys2Proof.Machine

namespace Sys2Proof.Machine

/-! ### A floating form on s0 (04 R109, 06 R177) -/

/-- A context that runs at a reference to an empty bundle: s1 is a NaN of FP32 and the statistics mask asks for event 1. -/
def nanCtx : Ctx :=
  { Ctx.blank with halves := [⟨0, (2 : BitVec 64) <<< 4 ||| 1, [encodeRef 0 0, encodeSegEnd], 0⟩], s := [(1, 0x7FC00000)]
                   fmt := 1 <<< 33 }

/-- The package in which that context alone runs, on slot 0. -/
def nanState : State := { State.reset with ctxs := [(0, nanCtx)] }

/-- How many results the context on slot 0 has in flight after a step. -/
def inFlight (o : Host.Outcome State Fault Refusal) : Option Nat :=
  match o with
  | .next t => (t.ctx 0).map fun c => c.pend.length
  | _ => none

/-- Adding a NaN into s0 leaves a result in flight that lands in no register and posts event 1. -/
theorem inFlight_fadd_s0 : inFlight (exec (.fadd 31 0 1 (.reg 1)) nanState) = some 1 := by decide

/-- The form issues there, with room for no result at all; and a commit without results leaves none in flight. -/
theorem nanState_issuing : (nanState.issuing 0).any (fun e => e.room .s [] [] && inFlight (.next (e.commits .s [] 2)) == some 0) = true := by
  decide

/-- Refutes O3: on s0 the statement starts no result, but the model keeps one that posts the form's events. -/
theorem not_scalarFloat : ¬ Obligations.ScalarFloat := by
  unfold Obligations.ScalarFloat
  intro h
  obtain ⟨e, he, hroom⟩ := (Option.any_eq_true _ _).mp nanState_issuing
  rw [Bool.and_eq_true, beq_iff_eq] at hroom
  have hcommits := (h 31 0 0 1 (.reg 1)).1 nanState e he rfl trivial hroom.1
  have hcount := inFlight_fadd_s0
  rw [hcommits] at hcount
  exact absurd (hroom.2.symm.trans hcount) (by decide)

end Sys2Proof.Machine

namespace Sys2Proof.Machine

/-! ### Special registers (02 R52 to R54) and the format register (03 R85, 06 R156) -/

/-- A write of a special register leaves what the other indexes read. -/
theorem specialGet_specialSet_ne (a : Nat) (c : Ctx) (v : W64) {i j : Nat} (h : i ≠ j) :
    specialGet a (specialSet i v c) j = specialGet a c j := by
  unfold specialSet
  split
  case h_11 => rfl
  all_goals
    unfold specialGet
    split <;> first
      | rfl
      | exact absurd rfl h

/-- An index that takes no write leaves the context as it is. -/
theorem specialSet_readOnly (v : W64) (c : Ctx) {i : Nat} (h : i ∈ [0, 3, 4, 7, 8, 11, 12, 17] ∨ 17 < i) : specialSet i v c = c := by
  unfold specialSet
  split
  case h_11 => rfl
  all_goals exact absurd h (by decide)

section
variable (a : Nat) (c : Ctx) (v : W64)

/-- A second discard of the same bits changes nothing. -/
theorem and_and_self_right (x m : W64) : x &&& m &&& m = x &&& m := by rw [BitVec.and_assoc, BitVec.and_self]

theorem specialGet_swctx : specialGet a (specialSet 2 v c) 2 = (v &&& ~~~(0x3FF : W64)) ||| BitVec.ofNat 64 a :=
  congrArg (· ||| BitVec.ofNat 64 a) (and_and_self_right v _)

theorem specialGet_tlimit : (specialGet a (specialSet 5 v c) 5).toNat = min 4096 (max v.toNat (max c.stack.length 1)) :=
  Nat.mod_eq_of_lt (lt_of_le_of_lt (min_le_left _ _) (by decide))

theorem specialGet_trise : (specialGet a (specialSet 6 v c) 6).toNat = min 32 v.toNat :=
  Nat.mod_eq_of_lt (lt_of_le_of_lt (min_le_left _ _) (by decide))

end

/-- A field of a word is zero when its number is. -/
theorem extract_ne_zero_iff {w : Nat} (x : BitVec w) (s n : Nat) : x.extractLsb' s n ≠ 0 ↔ x.toNat / 2 ^ s % 2 ^ n ≠ 0 := by
  rw [not_iff_not, BitVec.toNat_eq, BitVec.extractLsb'_toNat, Nat.shiftRight_eq_div_pow]
  rfl

/-- A value of `nfmt` that names a format: none, or a binary8 code with P not 0. -/
theorem nfmt_bad_iff : ∀ n : BitVec 6, (n == 0 || n.getLsbD 5 && n.extractLsb' 0 3 != 0) = false ↔
    n.toNat ≠ 0 ∧ (n.toNat / 2 ^ 5 = 0 ∨ n.toNat % 2 ^ 3 = 0) := by decide

/-- The values of `fmt` that R85 refuses, by their fields. -/
theorem fmtIllegal_iff (v : W64) : fmtIllegal v = true ↔ v.toNat / 2 ^ 24 % 2 ^ 8 ≠ 0 ∨ v.toNat / 2 ^ 48 ≠ 0 ∨ 4 ≤ v.toNat % 2 ^ 3 ∨
    5 ≤ v.toNat / 2 ^ 21 % 2 ^ 3 ∨
      (v.toNat / 2 ^ 4 % 2 ^ 6 ≠ 0 ∧ (v.toNat / 2 ^ 4 % 2 ^ 6 / 2 ^ 5 = 0 ∨ v.toNat / 2 ^ 4 % 2 ^ 6 % 2 ^ 3 = 0)) := by
  have htop : v.toNat / 2 ^ 48 % 2 ^ 16 = v.toNat / 2 ^ 48 := Nat.mod_eq_of_lt (by have := v.isLt; omega)
  have hnfmt : (fmtNfmt v).toNat = v.toNat / 2 ^ 4 % 2 ^ 6 := by
    rw [fmtNfmt, BitVec.extractLsb'_toNat, Nat.shiftRight_eq_div_pow]
  have hvrnd : fmtVrnd v = v.toNat % 2 ^ 3 := by simp [fmtVrnd]
  have hintout : fmtIntout v = v.toNat / 2 ^ 21 % 2 ^ 3 := by
    rw [fmtIntout, BitVec.extractLsb'_toNat, Nat.shiftRight_eq_div_pow]
  simp only [fmtIllegal, Bool.or_eq_true, bne_iff_ne, decide_eq_true_eq, Bool.not_eq_true', nfmt_bad_iff, extract_ne_zero_iff, htop,
    hnfmt, hvrnd, hintout, ge_iff_le]
  tauto

/-- A write of `fmt` by a form of the C slot: it lands at t + 5, or makes the bundle illegal. -/
theorem fmt_writes {i : Instr} {lits : Nat} {v v' : Env → W64} (hx : ∀ s, exec i s = issueForm lits (cReq fun e => fmtEff (v e)) s)
    (hv : ∀ e, v e = v' e) :
    Commits i lits .c true (fun e => [Pend.make .fmt 5 ((v' e).zeroExtend 2048)]) (fun _ => 1)
      (ok := fun e => fmtIllegal (v' e) = false) ∧
    ∀ (s : State) (e : Env), s.issuing lits = some e → fmtIllegal (v' e) = true → exec i s = .next (bundleFault e 0x01 0 0x20) := by
  obtain rfl : v = v' := funext hv
  constructor
  · refine commits_c _ hx rfl fun e hok => ⟨⟨hok, rfl, rfl, .inl rfl, rfl, rfl, rfl, rfl, rfl, rfl⟩, rfl, ?_, ?_⟩
    · exact fun _ h => NextReq.noConfusion h
    · exact fun h => NextReq.noConfusion h
  · intro s e he hbad
    have hillegal : ((cReq fun e => fmtEff (v e)).eff e).illegal = true := hbad
    rw [hx, issueForm_of_issuing _ he, issueIn_single _ _ (issuing_mTook he) (.inl rfl), if_pos hillegal]
    rfl

/-- The value that `FMTW` writes. -/
theorem fmtw_value (low : BitVec 32) (mask : BitVec 16) :
    ((0 : BitVec 16) ++ mask ++ low : W64) = BitVec.ofNat 64 (mask.toNat * 2 ^ 32 + low.toNat) := by
  apply BitVec.eq_of_toNat_eq
  have hlt : mask.toNat * 2 ^ 32 + low.toNat < 2 ^ 64 := by
    have := mask.isLt
    have := low.isLt
    omega
  rw [BitVec.toNat_append, BitVec.toNat_append, BitVec.toNat_ofNat, Nat.mod_eq_of_lt hlt, Nat.shiftLeft_eq, Nat.shiftLeft_eq,
    ← Nat.shiftLeft_eq _ 32, ← Nat.shiftLeft_add_eq_or_of_lt low.isLt]
  simp [Nat.shiftLeft_eq]

/-- A fault of `SSET` at issue. -/
theorem sset_traps {m : Mask} {i sa : BitVec 6} {ok : Env → Prop} {info : Env → TrapInfo}
    (h : ∀ e, ok e → ((reqSset m i sa).eff e).fault = some (info e)) :
    Traps (.sset m i sa) 0 .s (m.getLsbD 0) (fun _ => []) [] ok info :=
  traps_of (reqSset m i sa) (fun _ => rfl) rfl .inr fun e hok => ⟨rfl, h e hok, rfl, rfl, rfl⟩

/-- Settles O4: the two faults of `SSET`, what each index reads after a write, and the two writes of `fmt`. -/
theorem specialRegisters : Obligations.SpecialRegisters := by
  unfold Obligations.SpecialRegisters
  refine ⟨fun m i sa => ⟨sset_traps fun e h => if_pos h, sset_traps fun e h => ?_⟩, fun a c v => ?_, fun low mask sa => ?_⟩
  · have hne : ¬(i.toNat = 11 ∨ i.toNat = 12) := by obtain ⟨h, -⟩ := h; omega
    exact (if_neg hne).trans (if_pos h)
  · refine ⟨rfl, specialGet_swctx a c v, specialGet_tlimit a c v, specialGet_trise a c v, rfl, rfl, rfl, rfl, rfl, rfl, ?_, ?_⟩
    · exact fun _ _ h => specialGet_specialSet_ne a c v h
    · exact fun _ h => specialSet_readOnly v c h
  · exact ⟨fmt_writes (fun _ => rfl) fun _ => fmtw_value low mask, fmt_writes (fun _ => rfl) fun _ => rfl, fmtIllegal_iff⟩

end Sys2Proof.Machine

namespace Sys2Proof.Machine

/-! ### Jumps and branch trees (05 R115, R123, 06 R148, R150) -/

/-- A form of the C slot of weight 1 that starts no result, where its request is a jump to a target and where it is anything
else that commits, traps or holds: what has to be shown of its request. -/
theorem commits_c_plain {i : Instr} {lits : Nat} {r : SlotReq} {ok : Env → Prop} {act post : Env → State → State} {nx : Env → NextReq}
    (hx : ∀ s, exec i s = issueForm lits r s) (hs : r.slot = .c) (hb : ∀ e, r.base e = none)
    (h : ∀ e, ok e → r.eff e = { act := act e, post := post e, next := nx e, energy := 1 })
    (hn : ∀ e, (∀ t, nx e ≠ .traps t) ∧ nx e ≠ .exits) :
    Commits i lits .c true (fun _ => []) (fun _ => 1) (ok := ok) (act := act) (post := post) (nx := nx) := by
  refine commits_c r hx hs fun e hok => ?_
  rw [h e hok, hb e]
  exact ⟨⟨rfl, rfl, rfl, .inl rfl, rfl, rfl, rfl, rfl, rfl, rfl⟩, rfl, hn e⟩

theorem traps_c_plain {i : Instr} {lits : Nat} {r : SlotReq} {ok : Env → Prop} {info : Env → TrapInfo}
    (hx : ∀ s, exec i s = issueForm lits r s) (hs : r.slot = .c) (hb : ∀ e, r.base e = none)
    (h : ∀ e, ok e → (r.eff e).fault = some (info e) ∧ (r.eff e).illegal = false ∧ (r.eff e).vreads = [] ∧ (r.eff e).pends = [] ∧
      (r.eff e).olds = []) :
    Traps i lits .c true (fun _ => []) [] ok info := by
  refine traps_of r hx hs (fun _ => .inl hs) fun e hok => ?_
  obtain ⟨hf, hi, hv, hp, ho⟩ := h e hok
  exact ⟨hi, hf, hv, by rw [hb e, hp]; rfl, ho⟩

theorem holds_c_plain {i : Instr} {lits : Nat} {r : SlotReq} {ok : Env → Prop} {onHold : Env → State → State}
    (hx : ∀ s, exec i s = issueForm lits r s) (hs : r.slot = .c) (hb : ∀ e, r.base e = none)
    (h : ∀ e, ok e → (r.eff e).hold = true ∧ (r.eff e).onHold = onHold e ∧ (r.eff e).fault = none ∧ (r.eff e).illegal = false ∧
      (r.eff e).vreads = [] ∧ (r.eff e).pends = [] ∧ (r.eff e).olds = []) :
    Holds i lits ok onHold := by
  refine holds_of r hx hs fun e hok => ?_
  obtain ⟨hh, hon, hf, hi, hv, hp, ho⟩ := h e hok
  exact ⟨hi, hf, hh, hv, by rw [hb e, hp]; rfl, hon, ho⟩

section
variable {e : Env} {w : W64} {b : Eff} {s1 : State} {f : MFault}

/-- The cases of a form that goes to a target (R123). -/
theorem goTo_legal (htop : w.extractLsb' 60 4 = 0) (ht : e.s.target e.a (CodePos.ofWord w) = .ok s1 true) :
    goTo e w b = { b with next := .jump (CodePos.ofWord w), act := e.fetched (CodePos.ofWord w) } := by
  simp only [goTo, htop, ht, ne_eq, not_true_eq_false, if_false]
  rfl

theorem goTo_illegal (h : w.extractLsb' 60 4 ≠ 0 ∨ ∃ s1, e.s.target e.a (CodePos.ofWord w) = .ok s1 false) :
    goTo e w b = { b with fault := some (issueFault e.a 0x05 w 0) } := by
  unfold goTo
  by_cases htop : w.extractLsb' 60 4 = 0
  · obtain ⟨s1, ht⟩ := h.resolve_left (not_not_intro htop)
    simp only [htop, ht, ne_eq, not_true_eq_false, if_false]
  · simp only [htop, ne_eq, not_false_eq_true, if_true]

theorem goTo_fault (htop : w.extractLsb' 60 4 = 0) (ht : e.s.target e.a (CodePos.ofWord w) = .fault f) :
    goTo e w b = { b with fault := some (memFault f) } := by
  simp only [goTo, htop, ht, ne_eq, not_true_eq_false, if_false]

theorem goTo_wait (htop : w.extractLsb' 60 4 = 0) (ht : e.s.target e.a (CodePos.ofWord w) = .wait) :
    goTo e w b = { b with hold := true } := by
  simp only [goTo, htop, ht, ne_eq, not_true_eq_false, if_false]

end

/-! A form whose request, where sel holds, is to go to a target. -/
section
variable {i : Instr} {lits : Nat} {r : SlotReq} {w : Env → W64} {post : Env → State → State} {sel : Env → Prop}
  (hx : ∀ s, exec i s = issueForm lits r s) (hs : r.slot = .c) (hb : ∀ e, r.base e = none)
  (he : ∀ e, sel e → r.eff e = { goTo e (w e) { post := post e } with energy := 1 })
include hx hs hb he

theorem goTo_commits {ok : Env → Prop} (hok : ∀ e, ok e → sel e ∧ (w e).extractLsb' 60 4 = 0 ∧
    ∃ s1, e.s.target e.a (CodePos.ofWord (w e)) = .ok s1 true) :
    Commits i lits .c true (fun _ => []) (fun _ => 1) (ok := ok) (act := fun e s => e.fetched (CodePos.ofWord (w e)) s) (post := post)
      (nx := fun e => .jump (CodePos.ofWord (w e))) := by
  refine commits_c_plain hx hs hb (fun e h => ?_) fun e => ⟨fun _ h => NextReq.noConfusion h, fun h => NextReq.noConfusion h⟩
  obtain ⟨hsel, htop, s1, ht⟩ := hok e h
  rw [he e hsel, goTo_legal htop ht]

theorem goTo_traps {ok : Env → Prop} (hok : ∀ e, ok e → sel e ∧ ((w e).extractLsb' 60 4 ≠ 0 ∨
    ∃ s1, e.s.target e.a (CodePos.ofWord (w e)) = .ok s1 false)) :
    Traps i lits .c true (fun _ => []) [] ok (fun e => { cause := 0x05, aux := w e, faddr := 0, unit := seqUnit e.a }) := by
  refine traps_c_plain hx hs hb fun e h => ?_
  obtain ⟨hsel, hbad⟩ := hok e h
  rw [he e hsel, goTo_illegal hbad]
  exact ⟨rfl, rfl, rfl, rfl, rfl⟩

theorem goTo_faults {f : MFault} {ok : Env → Prop} (hok : ∀ e, ok e → sel e ∧ (w e).extractLsb' 60 4 = 0 ∧
    e.s.target e.a (CodePos.ofWord (w e)) = .fault f) :
    Traps i lits .c true (fun _ => []) [] ok (fun _ => memFault f) := by
  refine traps_c_plain hx hs hb fun e h => ?_
  obtain ⟨hsel, htop, ht⟩ := hok e h
  rw [he e hsel, goTo_fault htop ht]
  exact ⟨rfl, rfl, rfl, rfl, rfl⟩

theorem goTo_holds {ok : Env → Prop} (hok : ∀ e, ok e → sel e ∧ (w e).extractLsb' 60 4 = 0 ∧
    e.s.target e.a (CodePos.ofWord (w e)) = .wait) : Holds i lits ok := by
  refine holds_c_plain hx hs hb fun e h => ?_
  obtain ⟨hsel, htop, ht⟩ := hok e h
  rw [he e hsel, goTo_wait htop ht]
  exact ⟨rfl, rfl, rfl, rfl, rfl, rfl, rfl⟩

end

/-- A direct target as a word, in steps of 128 bytes from its bundle's segment. -/
theorem directTarget_toWord (e : Env) (d : BitVec 32) (hal : e.half.seg % 128 = 0) :
    (directTarget e d).toWord = BitVec.ofInt 64 ((e.half.seg / 128 + (d.extractLsb' 10 22).toInt) % 2 ^ 50 * 2 ^ 10 +
      (d.extractLsb' 0 10).toNat) := by
  have hunit : (d.extractLsb' 0 10).toNat < 1024 := BitVec.isLt _
  generalize hn : (d.extractLsb' 0 10).toNat = n at hunit
  generalize ho : (d.extractLsb' 10 22).toInt = o
  generalize hseg : e.half.seg = g at hal
  have hnat : (((((g : Int) + o * 128) % ((2 ^ 57 : Nat) : Int)).toNat / 128 % 2 ^ 50 * 1024 + n % 1024 : Nat) : Int) =
      ((g : Int) / 128 + o) % 2 ^ 50 * 2 ^ 10 + n := by omega
  rw [← hnat, BitVec.ofInt_natCast]
  simp only [directTarget, CodePos.toWord, hn, ho, hseg]

/-- A tree takes one of its five leaves. -/
theorem treeLeaf_pos (shape : Nat) (a b c d : Bool) : 1 ≤ treeLeaf shape a b c d := by
  unfold treeLeaf
  repeat' split
  all_goals decide

/-- The leaf of a tree by its number: the fifth falls through (R148). -/
def takenLeaf (l1 l2 l3 l4 : Leaf) (n : Nat) : Leaf := (([l1, l2, l3, l4] : List Leaf)[n - 1]?).getD .fall

/-- What a branch tree asks of its bundle is what its taken leaf does. -/
theorem reqBr_eff (sh : BitVec 4) (ta tb tc td : BitVec 6) (l1 l2 l3 l4 : Leaf) (e : Env) :
    (reqBr sh ta tb tc td l1 l2 l3 l4).eff e =
      { leafEff e (takenLeaf l1 l2 l3 l4 (treeLeaf sh.toNat (e.c.test ta) (e.c.test tb) (e.c.test tc) (e.c.test td))) with energy := 1 } := by
  have hpos := treeLeaf_pos sh.toNat (e.c.test ta) (e.c.test tb) (e.c.test tc) (e.c.test td)
  simp only [reqBr]
  generalize treeLeaf sh.toNat (e.c.test ta) (e.c.test tb) (e.c.test tc) (e.c.test td) = n at hpos
  match n, hpos with
  | 1, _ | 2, _ | 3, _ | 4, _ | _ + 5, _ => rfl

/-- Settles O5: `JMP`, `CALL`, `RET` and each leaf of a tree but a fall-through go to a target, with its four cases. -/
theorem jumpsAndBranches : Obligations.JumpsAndBranches := by
  unfold Obligations.JumpsAndBranches
  constructor
  · intro d
    have four {i : Instr} {lits : Nat} {r : SlotReq} {w : Env → W64} {post : Env → State → State}
        (hx : ∀ s, exec i s = issueForm lits r s) (hr : r = cReq fun e => goTo e (w e) { post := post e }) := by
      have hs : r.slot = .c := by rw [hr]; rfl
      have hb : ∀ e, r.base e = none := fun e => by rw [hr]; rfl
      have he : ∀ e, True → r.eff e = { goTo e (w e) { post := post e } with energy := 1 } := fun e _ => by rw [hr]; rfl
      exact And.intro (goTo_commits hx hs hb he fun e h => ⟨trivial, h⟩) (And.intro (goTo_traps hx hs hb he fun e h => ⟨trivial, h⟩)
        (And.intro (fun f => goTo_faults (f := f) hx hs hb he fun e h => ⟨trivial, h⟩) (goTo_holds hx hs hb he fun e h => ⟨trivial, h⟩)))
    exact ⟨fun e hal _ => directTarget_toWord e d hal, four (fun _ => rfl) rfl, four (fun _ => rfl) rfl, four (fun _ => rfl) rfl⟩
  · intro sh ta tb tc td l1 l2 l3 l4
    have hx (s : State) : exec (.br sh ta tb tc td l1 l2 l3 l4) s =
      issueForm (leafLits l1 + leafLits l2 + leafLits l3 + leafLits l4) (reqBr sh ta tb tc td l1 l2 l3 l4) s := rfl
    have four {l : Leaf} {w : Env → W64} {post : Env → State → State} {sel : Env → Prop}
        (hl : ∀ e, leafEff e l = goTo e (w e) { post := post e })
        (hsel : ∀ e, sel e → takenLeaf l1 l2 l3 l4 (treeLeaf sh.toNat (e.c.test ta) (e.c.test tb) (e.c.test tc) (e.c.test td)) = l) := by
      have he (e : Env) (h : sel e) : (reqBr sh ta tb tc td l1 l2 l3 l4).eff e = { goTo e (w e) { post := post e } with energy := 1 } := by
        rw [reqBr_eff, hsel e h, hl]
      exact And.intro (goTo_commits hx rfl (fun _ => rfl) he fun e h => h) (And.intro (goTo_traps hx rfl (fun _ => rfl) he fun e h => h)
        (And.intro (fun f => goTo_faults (f := f) hx rfl (fun _ => rfl) he fun e h => h) (goTo_holds hx rfl (fun _ => rfl) he fun e h => h)))
    refine ⟨commits_c_plain hx rfl (fun _ => rfl) (fun e h => ?_) fun e => ⟨fun _ h => NextReq.noConfusion h, fun h => NextReq.noConfusion h⟩,
      fun d => four (fun _ => rfl) fun e h => h, fun r => four (fun _ => rfl) fun e h => h, fun d => four (fun _ => rfl) fun e h => h⟩
    exact (reqBr_eff ..).trans (congrArg (fun l => { leafEff e l with energy := 1 }) h)

end Sys2Proof.Machine

namespace Sys2Proof.Machine

/-! ### Loops (06 R152 to R155) -/

/-- The next position of a form that opens or leaves a loop is no trap and no exit. -/
theorem open_plain (c : W64) (endp after : CodePos) :
    (∀ t, NextReq.open c endp after ≠ .traps t) ∧ NextReq.open c endp after ≠ .exits :=
  ⟨fun _ h => NextReq.noConfusion h, fun h => NextReq.noConfusion h⟩
theorem breakTo_plain (p : CodePos) : (∀ t, NextReq.breakTo p ≠ .traps t) ∧ NextReq.breakTo p ≠ .exits :=
  ⟨fun _ h => NextReq.noConfusion h, fun h => NextReq.noConfusion h⟩

/-- The units at which a loop may end: a bundle reference, a repeat group, or a defective reference (log 30). -/
def Role.endsLoop : Role → Prop
  | .ref _ _ => True
  | .group _ _ _ _ => True
  | .bad _ (some _) => True
  | _ => False

section
variable {e : Env} {chain : BitVec 12} {n : W64} {u : BitVec 10} {s1 : State} {h : Half}

theorem loopEff_overflow (hfull : 6 ≤ e.c.loops.length) : loopEff e chain n u = { fault := some (issueFault e.a 0x07 0 0) } := if_pos hfull

section
variable (hroom : ¬6 ≤ e.c.loops.length)
include hroom

theorem loopEff_wait (hc : e.s.chain e.a chain.toNat e.half = .wait) : loopEff e chain n u = { hold := true } := by
  unfold loopEff
  rw [if_neg hroom, hc]

theorem loopEff_chain_ends (hc : e.s.chain e.a chain.toNat e.half = .ok s1 none) :
    loopEff e chain n u = { fault := some (issueFault e.a 0x05 (CodePos.toWord ⟨e.half.seg, u.toNat⟩) 0) } := by
  unfold loopEff
  rw [if_neg hroom, hc]

theorem loopEff_before_end (hc : e.s.chain e.a chain.toNat e.half = .ok s1 (some h)) (hu : chain = 0 ∧ u.toNat < e.groupEnd) :
    loopEff e chain n u = { fault := some (issueFault e.a 0x05 (CodePos.toWord ⟨h.seg, u.toNat⟩) 0) } := by
  unfold loopEff
  rw [if_neg hroom, hc]
  exact if_pos hu

theorem loopEff_no_end (hc : e.s.chain e.a chain.toNat e.half = .ok s1 (some h))
    (hr : h.item u.toNat = none ∨ (∃ l, h.item u.toNat = some (.bad l none)) ∨ h.item u.toNat = some .segEnd) :
    loopEff e chain n u = { fault := some (issueFault e.a 0x05 (CodePos.toWord ⟨h.seg, u.toNat⟩) 0) } := by
  unfold loopEff
  rw [if_neg hroom, hc]
  rcases hr with hr | ⟨l, hr⟩ | hr <;> simp only [hr, ite_self]

theorem loopEff_opens {r : Role} (hc : e.s.chain e.a chain.toNat e.half = .ok s1 (some h)) (hr : h.item u.toNat = some r)
    (hend : r.endsLoop) (hu : ¬(chain = 0 ∧ u.toNat < e.groupEnd)) :
    loopEff e chain n u = { next := .open n ⟨h.seg, u.toNat⟩ (h.after (u.toNat + r.len)) } := by
  unfold loopEff
  rw [if_neg hroom, hc]
  simp only [if_neg hu, hr]
  match r, hend with
  | .ref .., _ | .group .., _ | .bad _ (some _), _ => rfl

end

/-- The cases of `LBREAK` (R155). -/
theorem reqLbreak_eff_closes {l : LoopEntry} (hl : e.c.loops.head? = some l) (hseg : e.s.segment e.a l.endp.seg = .ok s1 h) :
    reqLbreak.eff e =
      { act := e.fetched l.endp, next := .breakTo (h.after (l.endp.unit + ((h.item l.endp.unit).map Role.len).getD 1)), energy := 1 } := by
  obtain ⟨ls, hls⟩ := List.head?_eq_some_iff.mp hl
  simp only [reqLbreak, cReq, hls, hseg]
  rfl

theorem reqLbreak_eff_underflow (hl : e.c.loops = []) :
    reqLbreak.eff e = { fault := some (issueFault e.a 0x08 0 0), energy := 1 } := by
  simp only [reqLbreak, cReq, hl]

end

/-! A form that opens a loop of a count. -/
section
variable {i : Instr} {lits : Nat} {chain : BitVec 12} {u : BitVec 10} {cnt cnt' : Env → W64}
  (hx : ∀ s, exec i s = issueForm lits (cReq fun e => loopEff e chain (cnt e) u) s)
include hx

theorem loop_commits (hcnt : ∀ e, cnt e = cnt' e) (h : Half) (r : Role) : Commits i lits .c true (fun _ => []) (fun _ => 1)
    (ok := fun e => ¬ 6 ≤ e.c.loops.length ∧ (∃ s1, e.s.chain e.a chain.toNat e.half = .ok s1 (some h)) ∧ h.item u.toNat = some r ∧
      r.endsLoop ∧ ¬ (chain = 0 ∧ u.toNat < e.groupEnd))
    (nx := fun e => .open (cnt' e) ⟨h.seg, u.toNat⟩ (h.after (u.toNat + r.len))) := by
  refine commits_c_plain hx rfl (fun _ => rfl) (fun e hok => ?_) fun e => open_plain _ _ _
  obtain ⟨hroom, ⟨s1, hc⟩, hr, hend, hu⟩ := hok
  simp only [cReq, loopEff_opens hroom hc hr hend hu, hcnt]

theorem loop_traps {ok : Env → Prop} {w : Env → W64} {cause : Nat}
    (h : ∀ e, ok e → loopEff e chain (cnt e) u = { fault := some (issueFault e.a cause (w e) 0) }) :
    Traps i lits .c true (fun _ => []) [] ok (fun e => { cause := cause, aux := w e, faddr := 0, unit := seqUnit e.a }) := by
  refine traps_c_plain hx rfl (fun _ => rfl) fun e hok => ?_
  simp only [cReq, h e hok]
  exact ⟨rfl, trivial, trivial, trivial, trivial⟩

theorem loop_holds : Holds i lits (fun e => ¬ 6 ≤ e.c.loops.length ∧ e.s.chain e.a chain.toNat e.half = .wait) := by
  refine holds_c_plain hx rfl (fun _ => rfl) fun e hok => ?_
  simp only [cReq, loopEff_wait hok.1 hok.2, true_and]

end

/-- Settles O6: by the cases of the opening of a loop and of `LBREAK`. -/
theorem loopForms : Obligations.LoopForms := by
  unfold Obligations.LoopForms
  intro chain n sa u
  have opens {i : Instr} {lits : Nat} {cnt cnt' : Env → W64} (hx : ∀ s, exec i s = issueForm lits (cReq fun e => loopEff e chain (cnt e) u) s)
      (hcnt : ∀ e, cnt e = cnt' e) :=
    And.intro (loop_commits hx hcnt) (And.intro (loop_traps (w := fun _ => 0) hx fun e hfull => loopEff_overflow hfull)
      (And.intro (loop_traps (ok := fun e => ¬ 6 ≤ e.c.loops.length ∧ ∃ s1, e.s.chain e.a chain.toNat e.half = .ok s1 none) hx
        fun e ⟨hroom, s1, hc⟩ => loopEff_chain_ends hroom hc)
      (And.intro (fun h : Half => loop_traps (ok := fun e => ¬ 6 ≤ e.c.loops.length ∧
          (∃ s1, e.s.chain e.a chain.toNat e.half = .ok s1 (some h)) ∧ ((chain = 0 ∧ u.toNat < e.groupEnd) ∨ h.item u.toNat = none ∨
            (∃ l, h.item u.toNat = some (.bad l none)) ∨ h.item u.toNat = some .segEnd)) hx
        fun e ⟨hroom, ⟨s1, hc⟩, hbad⟩ => hbad.elim (loopEff_before_end hroom hc) (loopEff_no_end hroom hc)) (loop_holds hx))))
  refine ⟨opens (fun _ => rfl) fun _ => ?_, opens (fun _ => rfl) fun _ => rfl, fun l h => ?_, ?_⟩
  · exact (BitVec.ofNat_toNat 64 n).symm
  · exact commits_c_plain (fun _ => rfl) rfl (fun _ => rfl) (fun e ⟨hl, s1, hseg⟩ => reqLbreak_eff_closes hl hseg) fun _ => breakTo_plain _
  · refine traps_c_plain (r := reqLbreak) (fun _ => rfl) rfl (fun _ => rfl) fun e hl => ?_
    rw [reqLbreak_eff_underflow hl]
    exact ⟨rfl, rfl, rfl, rfl, rfl⟩

end Sys2Proof.Machine

namespace Sys2Proof.Machine

/-! ### Waits (06 R157 to R162, R167) -/

theorem sequential_plain : (∀ t, NextReq.sequential ≠ .traps t) ∧ NextReq.sequential ≠ .exits :=
  ⟨fun _ h => NextReq.noConfusion h, fun h => NextReq.noConfusion h⟩

/-- An operation is out of the way when it is complete, or belongs to an interrupted stream and has a fault. -/
theorem Ctx.outOfWay_iff (c : Ctx) (o : TOp) : c.outOfWay o = true ↔ o.status = .done ∨ (o.hasFault = true ∧ c.foreign o = true) := by
  simp [Ctx.outOfWay]

theorem Ctx.opsDone_iff (c : Ctx) : c.opsDone = true ↔ ∀ o ∈ c.window, o.status = .done ∨ (o.hasFault = true ∧ c.foreign o = true) := by
  simp only [Ctx.opsDone, List.all_eq_true, Ctx.outOfWay_iff]

/-- Whether an access is the store of a statistics record. -/
def AKind.isStat (k : AKind) : Bool :=
  match k with
  | .stat _ _ => true
  | _ => false

theorem AKind.isStat_iff (k : AKind) : k.isStat = true ↔ ∃ r n, k = .stat r n := by
  cases k <;> simp [AKind.isStat]

theorem reqStatf_hold (e : Env) : (reqStatf.eff e).hold =
    (!e.c.statq.isEmpty || e.s.accs.any fun x => x.cid == e.c.cid && x.level == 0 && !x.kept && x.kind.isStat) := rfl

/-- `STATF` is not held once no record is left and each is performed. -/
theorem reqStatf_hold_iff (e : Env) : (reqStatf.eff e).hold = false ↔ e.c.statq = [] ∧
    ∀ x ∈ e.s.accs, x.cid = e.c.cid → x.level = 0 → x.kept = false → ∀ r n, x.kind ≠ .stat r n := by
  simp only [reqStatf_hold, Bool.or_eq_false_iff, Bool.not_eq_false', List.isEmpty_iff, List.any_eq_false, Bool.and_eq_true, beq_iff_eq,
    Bool.not_eq_true', AKind.isStat_iff, not_and, not_exists, and_imp, ne_eq]

section
variable {e : Env} {w : BitVec 4}

/-- The answers of the check of a witness at `WWAIT` (R159). -/
theorem reqWwait_satisfied (h : e.s.witCheck e.a e.c.pd.toNat (e.c.readW w.toNat) = .satisfied) :
    (reqWwait w).eff e = { energy := 1 } := by
  simp only [reqWwait, cReq, h]
theorem reqWwait_waiting (h : e.s.witCheck e.a e.c.pd.toNat (e.c.readW w.toNat) = .waiting) :
    (reqWwait w).eff e = { hold := true, energy := 1 } := by
  simp only [reqWwait, cReq, h]
theorem reqWwait_fault {k : Nat} (h : e.s.witCheck e.a e.c.pd.toNat (e.c.readW w.toNat) = .fault k) :
    (reqWwait w).eff e = { fault := some (issueFault e.a k (e.c.readW w.toNat) 0), energy := 1 } := by
  simp only [reqWwait, cReq, h, witTrap]

end

section
variable {e : Env} {w : BitVec 4} {gang : Bool} {b : BitVec 2}

/-- `SBAR` once it is released, while it has arrived, and as it arrives (R160). -/
theorem reqSbar_released {m : W64} (h : e.c.released = some m) : (reqSbar w gang b).eff e =
    { pends := witPend w.toNat 1 m, act := fun s => s.onCtx e.a fun c => { c with released := none, arrived := none }, energy := 1 } := by
  simp only [reqSbar, cReq, h]
theorem reqSbar_hold (h : e.c.released = none) : ∃ f, (reqSbar w gang b).eff e = { hold := true, onHold := f, energy := 1 } := by
  simp only [reqSbar, cReq, h]
  exact ⟨_, rfl⟩
theorem reqSbar_arrived (h : e.c.released = none) (ha : e.c.arrived.isSome = true) : ((reqSbar w gang b).eff e).onHold = id := by
  obtain ⟨x, hx⟩ := Option.isSome_iff_exists.mp ha
  simp only [reqSbar, cReq, h, hx]
  rfl
theorem reqSbar_arrives (h : e.c.released = none) (ha : e.c.arrived = none) : ((reqSbar w gang b).eff e).onHold = fun s =>
    let s1 := s.onCtx e.a fun c => { c with arrived := some (gang, b.toNat, c.readW w.toNat) }
    if gang then s1.onInst e.c.task e.c.inst fun g =>
      { g with
        first := if (AL.find g.first b.toNat).isSome then g.first else AL.put g.first b.toNat e.c.cid
        last := AL.put g.last b.toNat e.c.cid }
    else s1 := by
  simp only [reqSbar, cReq, h, ha]

end

/-- A held `SBAR` begins its wait as said. -/
theorem sbar_holds {w : BitVec 4} {gang : Bool} {b : BitVec 2} {ok : Env → Prop} {onHold : Env → State → State}
    (h : ∀ e, ok e → e.c.released = none ∧ ((reqSbar w gang b).eff e).onHold = onHold e) : Holds (.sbar w gang b) 0 ok onHold := by
  refine holds_c_plain (r := reqSbar w gang b) (fun _ => rfl) rfl (fun _ => rfl) fun e hok => ?_
  obtain ⟨hr, hon⟩ := h e hok
  obtain ⟨f, hf⟩ := reqSbar_hold (w := w) (gang := gang) (b := b) hr
  rw [hf] at hon ⊢
  exact ⟨rfl, hon, rfl, rfl, rfl, rfl, rfl⟩

/-- Settles O8: each wait form by whether what it waits for has come. -/
theorem waitForms : Obligations.WaitForms := by
  unfold Obligations.WaitForms
  intro w gang b wv
  refine ⟨?_, ?_, ?_, ?_, ?_, ?_, ?_, ?_, ?_, ?_, ?_, ?_⟩
  · refine commits_c_plain (r := reqTwait) (fun _ => rfl) rfl (fun _ => rfl) (fun e h => ?_) fun _ => sequential_plain
    simp only [reqTwait, cReq, (Ctx.opsDone_iff e.c).mpr h]
    rfl
  · refine holds_c_plain (r := reqTwait) (fun _ => rfl) rfl (fun _ => rfl) fun e h => ⟨?_, rfl, rfl, rfl, rfl, rfl, rfl⟩
    simpa [reqTwait, cReq, ← Ctx.opsDone_iff] using h
  · exact commits_c_plain (fun _ => rfl) rfl (fun _ => rfl) (fun e h => reqWwait_satisfied h) fun _ => sequential_plain
  · refine holds_c_plain (r := reqWwait w) (fun _ => rfl) rfl (fun _ => rfl) fun e h => ?_
    rw [reqWwait_waiting h]
    exact ⟨rfl, rfl, rfl, rfl, rfl, rfl, rfl⟩
  · refine fun k => traps_c_plain (r := reqWwait w) (fun _ => rfl) rfl (fun _ => rfl) fun e h => ?_
    rw [reqWwait_fault h]
    exact ⟨rfl, rfl, rfl, rfl, rfl⟩
  · refine commits_c (reqSbar w gang b) (fun _ => rfl) rfl fun e h => ?_
    rw [reqSbar_released h]
    exact ⟨⟨rfl, rfl, rfl, .inl rfl, rfl, rfl, rfl, rfl, rfl, rfl⟩, rfl, sequential_plain⟩
  · exact sbar_holds fun e h => ⟨h.1, reqSbar_arrived h.1 h.2⟩
  · exact sbar_holds fun e h => ⟨h.1, reqSbar_arrives h.1 h.2⟩
  · exact sbar_holds fun e h => ⟨h.1, reqSbar_arrives h.1 h.2⟩
  · refine commits_c reqStatf (fun _ => rfl) rfl fun e h => ?_
    exact ⟨⟨rfl, rfl, (reqStatf_hold_iff e).mpr h, .inl rfl, rfl, rfl, rfl, rfl, rfl, rfl⟩, rfl, sequential_plain⟩
  · refine holds_c_plain (r := reqStatf) (fun _ => rfl) rfl (fun _ => rfl) fun e h => ⟨?_, rfl, rfl, rfl, rfl, rfl, rfl⟩
    exact (Bool.not_eq_false _).mp fun hh => h ((reqStatf_hold_iff e).mp hh)
  · exact commits_c_plain (r := reqYield) (fun _ => rfl) rfl (fun _ => rfl) (fun e _ => rfl) fun _ => sequential_plain

end Sys2Proof.Machine

namespace Sys2Proof.Machine

/-! ### Traps, exit and return (06 R163, R165, R166) -/

/-- A slot that starts and reads nothing meets a port bound only where too many results are in flight already. -/
theorem portOver_idle_iff {old : List Pend} {d : Done} (hp : d.pends = []) (hv : d.eff.vreads = []) :
    portOver old [d] = none ↔ (old.filter Pend.real).length ≤ 64 := by
  simp [portOver, hp, hv]

/-- A form of the C slot whose request is legal, has no fault and starts nothing, once its results have room: it holds its bundle
or commits it. -/
theorem issueIn_c_room {e : Env} {r : SlotReq} (hm : e.mTook = false) (hs : r.slot = .c) (hi : (r.eff e).illegal = false)
    (hf : (r.eff e).fault = none) (hq : (r.eff e).takesSeq = false) (hv : (r.eff e).vreads = [])
    (hp : (r.base e).toList ++ (r.eff e).pends = []) (hroom : e.room .c [] [] = true)
    (ho : (r.eff e).olds = [] ∨ e.c.pend = [] ∧ ((r.eff e).olds.filter Pend.real).length ≤ 64) :
    issueIn e [r] = if (r.eff e).hold then ((r.eff e).onHold e.s).onCtx e.a fun c => { c with held := true }
      else commitBundle e [r.done e] := by
  have hpends : (r.done e).pends = [] := hp
  have hb : e.regPoison [r.done e] = none := by
    apply Env.room_regPoison (sl := r.slot) (new := [])
    rw [hv, hs]; exact hroom
  have hcol (old : List Pend) : collisions old [r.done e] = 0 := by
    simp [collisions, hpends, collisions.dup]
  have hlen : (e.c.pend.filter Pend.real).length ≤ 64 := by
    rw [Env.room, Bool.and_eq_true, Bool.and_eq_true, Option.isNone_iff_eq_none] at hroom
    exact (portOver_idle_iff rfl rfl).mp hroom.1.2
  have hport : portOver (e.c.pend ++ (r.eff e).olds) [r.done e] = none := by
    refine (portOver_idle_iff hpends hv).mpr ?_
    rcases ho with ho | ⟨hpend, hle⟩
    · rwa [ho, List.append_nil]
    · rwa [hpend, List.nil_append]
  rw [issueIn_single e r hm (.inl hs), hcol, hport, issueLegal_single e r hb]
  simp only [hi, hf, hq, ne_eq, not_true_eq_false, if_false, Bool.false_eq_true, Bool.false_and]

/-- The commit of a C form alone that starts no result: what its next position adds. -/
theorem commitBundle_c {e : Env} {r : SlotReq} {f : Eff} (hs : r.slot = .c) (he : r.eff e = f) (hp : (r.base e).toList ++ f.pends = []) :
    commitBundle e [r.done e] =
      let s4 := e.commits .c [] f.energy f.act f.post f.next
      match f.next with
      | .traps info =>
        match s4.ctx e.a with
        | none => s4
        | some c4 =>
          let i2 : TrapInfo := { info with slots := 0x20, unit := seqUnit e.a }
          (s4.setCtx e.a { c4 with pendTrap := some (i2, e.pos, e.c.tick) }).takeTrap e.a
            ⟨i2, e.pos, c4.pc, e.c.tick, s4.keptFlags c4, 0, 0, 0⟩ [] false
      | .exits => s4.exitCtx e.a
      | _ => s4 := by
  subst he
  simp only [commitBundle, Env.commits, SlotReq.done, hs, hp, List.find?_cons, beq_self_eq_true, List.foldl_cons, List.foldl_nil, if_true,
    List.map_cons, List.map_nil, List.sum_cons, List.sum_nil, Nat.add_zero, List.flatMap_cons, List.flatMap_nil, List.append_nil,
    List.reverse_cons, List.reverse_nil, List.nil_append, List.any_cons, List.any_nil, Bool.or_false, Option.map_some, Option.getD_some] <;> rfl

/-- An issue of a C form alone at an issue point: the outcome is what the issue of its bundle gives. -/
theorem exec_c {i : Instr} {lits : Nat} {r : SlotReq} {s : State} {e : Env} {t : State} (hx : exec i s = issueForm lits r s)
    (he : s.issuing lits = some e) (h : issueIn e [r] = t) : exec i s = .next t := by
  rw [hx, issueForm_of_issuing _ he, h]

theorem exit_finished_iff (c : Ctx) : (c.window.all fun o => c.outOfWay o || exitSkips o.form) = true ↔
    ∀ o ∈ c.window, o.status = .done ∨ (o.hasFault = true ∧ c.foreign o = true) ∨ exitSkips o.form = true := by
  simp only [List.all_eq_true, Bool.or_eq_true, Ctx.outOfWay_iff, or_assoc]

theorem reqExit_hold_iff (e : Env) : (reqExit.eff e).hold = false ↔ (∀ p ∈ e.c.pend, p.ready = true) ∧
    ∀ o ∈ e.c.window, o.status = .done ∨ (o.hasFault = true ∧ e.c.foreign o = true) ∨ exitSkips o.form = true := by
  simp only [reqExit, cReq, Bool.or_eq_false_iff, Bool.not_eq_false', exit_finished_iff]
  rw [List.all_eq_true]

theorem reqTret_hold_iff (e : Env) : (reqTret.eff e).hold = false ↔
    (∀ o ∈ e.c.window, o.status = .done ∨ e.c.foreign o = true) ∧ e.tretWaits = false := by
  simp [reqTret, cReq]

theorem reqTret_illegal_iff (e : Env) : (reqTret.eff e).illegal = true ↔ e.c.capture = none ∨ ∃ p ∈ e.c.pend, p.real = true := by
  simp [reqTret, cReq]

/-- The captured results that `TRET` replays are as many as the capture holds. -/
theorem reqTret_olds_length {e : Env} {k : Capture} (hk : e.c.capture = some k) :
    ((reqTret.eff e).olds.filter Pend.real).length = (k.pend.filter Pend.real).length := by
  have hreal : (Pend.real ∘ fun p : Pend => { p with left := p.left + 1 }) = Pend.real := rfl
  simp [reqTret, cReq, hk, List.filter_map, hreal]

section
variable {s : State} {e : Env} (he : s.issuing 0 = some e) (hroom : e.room .c [] [] = true)
include he hroom

/-- A form that traps after its commit. -/
theorem trap_after_commit {i : Instr} {r : SlotReq} {info : TrapInfo} (hx : exec i s = issueForm 0 r s) (hs : r.slot = .c)
    (hb : r.base e = none) (hr : r.eff e = { next := .traps info, energy := 1 }) :
    exec i s = .next (match (e.commits .c [] 1).ctx e.a with
      | none => e.commits .c [] 1
      | some c4 => ((e.commits .c [] 1).setCtx e.a { c4 with
          pendTrap := some ({ info with slots := 0x20, unit := seqUnit e.a }, e.pos, e.c.tick) }).takeTrap e.a
          ⟨{ info with slots := 0x20, unit := seqUnit e.a }, e.pos, c4.pc, e.c.tick, (e.commits .c [] 1).keptFlags c4, 0, 0, 0⟩ [] false) := by
  have hp : (r.base e).toList ++ (r.eff e).pends = [] := by rw [hb, hr]; rfl
  apply exec_c hx he
  rw [issueIn_c_room (issuing_mTook he) hs (by rw [hr]) (by rw [hr]) (by rw [hr]) (by rw [hr]) hp hroom (.inl (by rw [hr]))]
  rw [commitBundle_c hs hr (by rw [← hr, hp])]
  rw [hr]
  rfl

theorem exec_exit_done (h : (reqExit.eff e).hold = false) : exec .exit s = .next ((e.commits .c [] 1 (nx := .exits)).exitCtx e.a) := by
  apply exec_c (r := reqExit) rfl he
  rw [issueIn_c_room (issuing_mTook he) rfl rfl rfl rfl rfl rfl hroom (.inl rfl), h, commitBundle_c rfl rfl rfl]
  rfl

theorem exec_exit_held (h : (reqExit.eff e).hold = true) : exec .exit s = .next (e.s.onCtx e.a fun c => { c with held := true }) := by
  apply exec_c (r := reqExit) rfl he
  rw [issueIn_c_room (issuing_mTook he) rfl rfl rfl rfl rfl rfl hroom (.inl rfl), h]
  rfl

/-- `TRET` in a handler with no result in flight issues as its hold says. -/
theorem issueIn_tret {k : Capture} (hk : e.c.capture = some k) (hlen : (k.pend.filter Pend.real).length ≤ 64) (hpend : e.c.pend = []) :
    issueIn e [reqTret] = if (reqTret.eff e).hold then e.s.onCtx e.a fun c => { c with held := true }
      else e.commits .c [] 1 (post := fun s => s.finishReturn e.a) (nx := .returns) := by
  have hlegal : (reqTret.eff e).illegal = false := by
    rw [Bool.eq_false_iff, ne_eq, reqTret_illegal_iff]
    simp [hk, hpend]
  rw [issueIn_c_room (issuing_mTook he) rfl hlegal rfl rfl rfl rfl hroom (.inr ⟨hpend, by rwa [reqTret_olds_length hk]⟩),
    commitBundle_c rfl rfl rfl]
  rfl

end

/-- `BRK` with and without a debugger of its domain. -/
theorem reqBrk_debugger {e : Env} (n : BitVec 16) (h : e.c.pd.toNat ∈ e.s.debugger) : (reqBrk n).eff e = { energy := 1 } := by
  simp [reqBrk, cReq, h]
theorem reqBrk_traps {e : Env} (n : BitVec 16) (h : e.c.pd.toNat ∉ e.s.debugger) :
    (reqBrk n).eff e = { next := .traps { cause := 0x41, aux := n.zeroExtend 64, slots := 0x20 }, energy := 1 } := by
  simp [reqBrk, cReq, h]

/-- Settles O9: each form by what its request asks: a trap after the commit, a hold until all is done, or the end. -/
theorem trapAndExitForms : Obligations.TrapAndExitForms := by
  unfold Obligations.TrapAndExitForms
  intro n s e he hroom
  have haux : n.zeroExtend 64 = BitVec.ofNat 64 n.toNat := (BitVec.ofNat_toNat 64 n).symm
  refine ⟨?_, fun h => ?_, fun h => ?_, fun hp hw => ?_, fun h => ?_, fun k hk hlen hpend => ⟨fun hown hwait => ?_, fun h => ?_⟩, fun h => ?_⟩
  · rw [trap_after_commit he hroom (r := reqTrap n) rfl rfl rfl rfl]
    simp only [haux] <;> rfl
  · rw [trap_after_commit he hroom (r := reqBrk n) rfl rfl rfl (reqBrk_traps n h)]
    simp only [haux] <;> rfl
  · have hb := reqBrk_debugger n h
    apply exec_c (r := reqBrk n) rfl he
    rw [issueIn_c_room (issuing_mTook he) rfl (by rw [hb]) (by rw [hb]) (by rw [hb]) (by rw [hb]) (by rw [hb]; rfl) hroom (.inl (by rw [hb])),
      commitBundle_c rfl hb rfl, hb]
    rfl
  · exact exec_exit_done he hroom ((reqExit_hold_iff e).mpr ⟨hp, hw⟩)
  · exact exec_exit_held he hroom ((Bool.not_eq_false _).mp fun hh => h ((reqExit_hold_iff e).mp hh))
  · have hhold := (reqTret_hold_iff e).mpr ⟨hown, hwait⟩
    exact exec_c (r := reqTret) rfl he ((issueIn_tret he hroom hk hlen hpend).trans (by rw [hhold]; rfl))
  · have hhold : (reqTret.eff e).hold = true := by
      refine (Bool.not_eq_false _).mp fun hh => ?_
      obtain ⟨hown, hwait⟩ := (reqTret_hold_iff e).mp hh
      rcases h with h | h
      · exact h hown
      · rw [hwait] at h; exact Bool.noConfusion h
    exact exec_c (r := reqTret) rfl he ((issueIn_tret he hroom hk hlen hpend).trans (by rw [hhold]; rfl))
  · refine exec_c (r := reqTret) rfl he ?_
    rw [issueIn_single e reqTret (issuing_mTook he) (.inl rfl), if_pos ((reqTret_illegal_iff e).mpr h)]
    rfl

end Sys2Proof.Machine

namespace Sys2Proof.Machine

/-! ### Operands and addresses (06 R168, R177, 07 R182) -/

/-- A sign-extended offset, scaled or not, moves an address by as much. -/
theorem add_offset_scaled {w : Nat} (b : W64) (l : BitVec w) (size : Nat) :
    b + l.signExtend 64 * BitVec.ofNat 64 size = BitVec.ofInt 64 (b.toInt + l.toInt * size) := by
  rw [BitVec.ofInt_add, BitVec.ofInt_mul, BitVec.ofInt_toInt, BitVec.ofInt_natCast]
  rfl
theorem add_offset {w : Nat} (b : W64) (l : BitVec w) : b + l.signExtend 64 = BitVec.ofInt 64 (b.toInt + l.toInt) := by
  rw [BitVec.ofInt_add, BitVec.ofInt_toInt]
  rfl

/-- A BF16 literal is the high half of its FP32 pattern. -/
theorem bf16_shifted (l : BitVec 16) : (l ++ (0 : BitVec 16) : BitVec 32) = BitVec.ofNat 32 (l.toNat * 2 ^ 16) := by
  apply BitVec.eq_of_toNat_eq
  have hlt : l.toNat * 2 ^ 16 < 2 ^ 32 := by have := l.isLt; omega
  rw [BitVec.toNat_append, BitVec.toNat_ofNat, Nat.mod_eq_of_lt hlt, Nat.shiftLeft_eq]
  exact Nat.or_zero _

/-- Only address mode 10 updates its base. -/
theorem basePend_none (c : Ctx) (r : BitVec 6) (size : Nat) {mode : AMode} (h : ∀ l, mode ≠ .post16 l) : basePend c ⟨r, mode⟩ size = none := by
  cases mode with
  | post16 l => exact absurd rfl (h l)
  | base | off16 | off32 => rfl

/-- Settles O10: each operand form and each address mode by itself. -/
theorem operandForms : Obligations.OperandForms := by
  unfold Obligations.OperandForms
  intro c r l16 l32 size
  refine ⟨rfl, ?_, ?_, ?_, bf16_shifted l16, rfl, rfl, rfl, add_offset_scaled _ _ _, rfl, add_offset _ _, fun hr => ?_, rfl,
    fun mode h => basePend_none c r size h⟩
  · exact BitVec.toNat_setWidth_of_le (by decide)
  · exact BitVec.toInt_signExtend_of_le (by decide)
  · exact BitVec.toInt_signExtend_of_le (by decide)
  · rw [← add_offset_scaled]
    exact if_neg hr

end Sys2Proof.Machine

/-! ## The forms of the M slot -/

namespace Sys2Proof.Machine

/-! ### The checks of Table 7-3 at issue -/

/-- The first of two checks passes when both do. -/
theorem orElseFault_none {a b : Option TrapInfo} (ha : a = none) (hb : b = none) : orElseFault a b = none := by rw [ha, hb]; rfl
theorem orElseFault_first {a b : Option TrapInfo} {f : TrapInfo} (ha : a = some f) : orElseFault a b = some f := by rw [ha]; rfl
theorem orElseFault_second {a b : Option TrapInfo} (ha : a = none) : orElseFault a b = b := by rw [ha]; rfl

section
variable {e : Env} {w : W64}

/-- The top seven bits of a virtual address are clear below 2^57. -/
theorem addr_top_iff : w.extractLsb' 57 7 ≠ 0 ↔ 2 ^ 57 ≤ w.toNat := by
  rw [extract_ne_zero_iff]
  have := w.isLt
  omega

section
variable {align aux : Nat}

theorem globalCheck_none (hlt : w.toNat < 2 ^ 57) (hal : w.toNat % align = 0) : globalCheck e w align aux = none := by
  have htop : ¬w.extractLsb' 57 7 ≠ 0 := by rw [addr_top_iff]; omega
  rw [globalCheck, if_neg htop, if_neg (not_not_intro hal)]
theorem globalCheck_top (h : 2 ^ 57 ≤ w.toNat) :
    globalCheck e w align aux = some (issueFault e.a 0x21 (BitVec.ofNat 64 aux) w.toNat) := if_pos (addr_top_iff.mpr h)
theorem globalCheck_align (hlt : w.toNat < 2 ^ 57) (hal : w.toNat % align ≠ 0) :
    globalCheck e w align aux = some (issueFault e.a 0x22 (BitVec.ofNat 64 align) w.toNat) := by
  have htop : ¬w.extractLsb' 57 7 ≠ 0 := by rw [addr_top_iff]; omega
  rw [globalCheck, if_neg htop, if_pos hal]

end

section
variable {n align : Nat}

theorem spCheck_none (hin : spFail e.c w n = none) (hal : w.toNat % align = 0) : spCheck e w n align = none := by
  simp only [spCheck, hin, hal, ne_eq, not_true_eq_false, if_false]
theorem spCheck_range (h : spFail e.c w n ≠ none) : spCheck e w n align = some (issueFault e.a 0x23 0 w.toNat) := by
  obtain ⟨x, hx⟩ := Option.ne_none_iff_exists'.mp h
  simp only [spCheck, hx]
theorem spCheck_align (hin : spFail e.c w n = none) (hal : w.toNat % align ≠ 0) :
    spCheck e w n align = some (issueFault e.a 0x22 (BitVec.ofNat 64 align) w.toNat) := by
  simp only [spCheck, hin, hal, ne_eq, not_false_eq_true, if_true]

end

section
variable {v : W64} {a k : Nat}

theorem witInput_none (h : e.s.witFault e.a e.c.pd.toNat v = none) : witInput e v a = none := by rw [witInput, h]; rfl
theorem witInput_fault (h : e.s.witFault e.a e.c.pd.toNat v = some k) : witInput e v a = some (issueFault e.a k v a) := by
  rw [witInput, h]; rfl

end

/-- The check of a form whose predicate field selects the scratchpad passes. -/
theorem placeCheck_none {sp : Bool} {n align aux : Nat} (hin : if sp then spFail e.c w n = none else w.toNat < 2 ^ 57)
    (hal : w.toNat % align = 0) : (if sp then spCheck e w n align else globalCheck e w align aux) = none := by
  cases sp with
  | true => exact spCheck_none hin hal
  | false => exact globalCheck_none hin hal

end

/-- A form of the M slot commits when its fault is none and its sequence number has room; the rest is as its request says. -/
theorem commits_m {i : Instr} {lits size w : Nat} {q : MQual} {a : MAddr} {eff : Env → W64 → Eff} {new : Env → List Pend} {reads : List Nat}
    {ok : Env → Prop} {act : Env → State → State} (hx : ∀ s, exec i s = issueForm lits (mReq q a size eff) s)
    (hf : ∀ e, ok e → (eff e (addrOf e.c a size)).fault = none)
    (hq : ∀ e, ok e → (eff e (addrOf e.c a size)).takesSeq = false ∨ e.seqRoom)
    (h : ∀ e, { eff e (addrOf e.c a size) with fault := none, takesSeq := false } =
      { vreads := reads, pends := (eff e (addrOf e.c a size)).pends, act := act e, energy := w })
    (hn : ∀ e, new e = (basePend e.c a size).toList ++ (eff e (addrOf e.c a size)).pends) :
    Commits i lits .m (q.mask.getLsbD 0) new (fun _ => w) (reads := reads) (ok := ok) (act := act) := by
  refine commits_of _ hx rfl (by decide) rfl fun e hok => ?_
  have hfields := h e
  simp only [Eff.mk.injEq, true_and] at hfields
  obtain ⟨hill, hreads, hhold, -, hact, hpost, -, henergy, holds⟩ := hfields
  exact ⟨⟨hill, hf e hok, hhold, hq e hok, hreads, hn e, henergy, hact, hpost, holds⟩, rfl⟩

/-- Settles O11: the loads and the stores of global memory and of the scratchpad, each past its checks. -/
theorem scalarAccesses : Obligations.ScalarAccesses := by
  unfold Obligations.ScalarAccesses
  intro q sx sz r a
  refine ⟨?_, ?_, ?_, ?_⟩
  · refine commits_m (fun _ => rfl) (fun e ⟨⟨hlt, hal⟩, hwit⟩ => ?_) (fun _ _ => .inl rfl) (fun _ => rfl) fun _ => rfl
    exact orElseFault_none (globalCheck_none hlt hal) (witInput_none hwit)
  · refine commits_m (fun _ => rfl) (fun e ⟨⟨hin, hal⟩, hwit⟩ => ?_) (fun _ _ => .inl rfl) (fun _ => rfl) fun _ => rfl
    exact orElseFault_none (spCheck_none hin hal) (witInput_none hwit)
  · exact commits_m (fun _ => rfl) (fun e ⟨⟨hlt, hal⟩, _⟩ => globalCheck_none hlt hal) (fun _ hok => .inr hok.2) (fun _ => rfl) fun _ => rfl
  · exact commits_m (fun _ => rfl) (fun e ⟨⟨hin, hal⟩, _⟩ => spCheck_none hin hal) (fun _ hok => .inr hok.2) (fun _ => rfl) fun _ => rfl

/-! ### Gathers and scatters (07 R195) -/

/-- A gather or scatter passes its checks when each of its elements and its base do. -/
theorem gatherCheck_none {e : Env} {n : Nat} {w : W64} {l : List (Nat × W64)} (hl : ∀ x ∈ l, spCheck e x.2 n n = none)
    (hal : w.toNat % n = 0) : e.gatherCheck n w l = none := by
  have hfind : l.findSome? (fun x => spCheck e x.2 n n) = none := List.findSome?_eq_none_iff.mpr hl
  simp only [Env.gatherCheck, hfind, hal, ne_eq, not_true_eq_false, if_false]

/-- The latency of a gather, by whether every element is the context's own. -/
theorem gather_latency (c : Ctx) (l : List (Nat × W64)) : (if l.all (fun x => isOwn c x.2.toNat) then 8 else 16) =
    if ∀ x ∈ l, isOwn c x.2.toNat = true then 8 else 16 := by
  simp only [List.all_eq_true]

/-- Settles O12: vector loads and stores, a gather and a scatter, each past its checks. -/
theorem vectorAccesses : Obligations.VectorAccesses := by
  unfold Obligations.VectorAccesses
  intro q vr a
  refine ⟨?_, ?_, ?_, ?_, ?_, ?_⟩
  · refine commits_m (fun _ => rfl) (fun e ⟨⟨hlt, hal⟩, hwit⟩ => ?_) (fun _ _ => .inl rfl) (fun _ => rfl) fun _ => rfl
    exact orElseFault_none (globalCheck_none hlt hal) (witInput_none hwit)
  · refine commits_m (fun _ => rfl) (fun e ⟨⟨hin, hal⟩, hwit⟩ => ?_) (fun _ _ => .inl rfl) (fun _ => rfl) fun _ => rfl
    exact orElseFault_none (spCheck_none hin hal) (witInput_none hwit)
  · exact commits_m (fun _ => rfl) (fun e ⟨⟨hlt, hal⟩, _⟩ => globalCheck_none hlt hal) (fun _ hok => .inr hok.2) (fun _ => rfl) fun _ => rfl
  · exact commits_m (fun _ => rfl) (fun e ⟨⟨hin, hal⟩, _⟩ => spCheck_none hin hal) (fun _ hok => .inr hok.2) (fun _ => rfl) fun _ => rfl
  · refine commits_m (fun _ => rfl) (fun e ⟨⟨hl, hal⟩, hwit⟩ => ?_) (fun _ _ => .inl rfl) (fun _ => rfl) fun e => ?_
    · exact orElseFault_none (gatherCheck_none hl hal) (witInput_none hwit)
    · simp only [← gather_latency]
  · exact commits_m (fun _ => rfl) (fun e ⟨⟨hl, hal⟩, _⟩ => gatherCheck_none hl hal) (fun _ hok => .inr hok.2) (fun _ => rfl) fun _ => rfl

end Sys2Proof.Machine

namespace Sys2Proof.Machine

/-! ### Atomics (07 R196 to R198) -/

/-- An integer pattern as a signed number. -/
theorem sextNat_of_lt {n y : Nat} (hy : y < 2 ^ n) : sextNat n y = if y < 2 ^ (n - 1) then (y : Int) else (y : Int) - 2 ^ n := by
  simp only [sextNat, Nat.mod_eq_of_lt hy, Nat.cast_pow, Nat.cast_ofNat]

/-- Whether an FP32 pattern is a subnormal. -/
def f32Subnormal (y : Nat) : Bool := y / 2 ^ 23 % 256 == 0 && y % 2 ^ 23 != 0

theorem f32Subnormal_iff (y : Nat) : f32Subnormal y = true ↔ y / 2 ^ 23 % 256 = 0 ∧ y % 2 ^ 23 ≠ 0 := by simp [f32Subnormal]

/-- The input rule of R83 for FP32: a subnormal reads as a zero of its sign when it is flushed. -/
theorem f32_decode_flushed {y : Nat} (hy : y < 2 ^ 32) (h : f32Subnormal y = true) :
    NFmt.f32.decode y 0 true = (.fin (decide (2 ^ 31 ≤ y)) 0 0, true) := by
  obtain ⟨he, hf⟩ := (f32Subnormal_iff y).mp h
  have hsign : y / 2 ^ 31 % 2 = 1 ↔ 2 ^ 31 ≤ y := by omega
  norm_num at he hf hsign hy
  simp [NFmt.decode, NFmt.f32, NFmt.fields, Nat.shiftRight_eq_div_pow, Nat.mod_eq_of_lt hy, he, hf, hsign, Bool.beq_eq_decide_eq]

theorem f32_decode_kept {y : Nat} {flush : Bool} (hy : y < 2 ^ 32) (h : flush = true → f32Subnormal y = false) :
    NFmt.f32.decode y 0 flush = ((NFmt.f32.decode y 0 false).1, false) := by
  have hsub : (NFmt.f32.fields y).2.2.2 = f32Subnormal y := by
    simp only [NFmt.fields, NFmt.f32, f32Subnormal, Nat.shiftRight_eq_div_pow]
    norm_num
    split <;> simp [*]
  have hmod : y % 2 ^ NFmt.f32.bits = y := Nat.mod_eq_of_lt hy
  have hflush : ((NFmt.f32.fields y).2.2.2 && flush) = false := by
    rw [hsub]; cases flush <;> simp [h]
  unfold NFmt.decode
  simp only [hmod, hflush, Bool.and_false, Bool.false_eq_true, if_false]
  repeat' split
  all_goals rfl

/-- What an FP32 input reads as, and whether it is flushed. -/
theorem f32_decode_fst {y : Nat} (hy : y < 2 ^ 32) (flush : Bool) : (NFmt.f32.decode y 0 flush).1 =
    if flush = true ∧ y / 2 ^ 23 % 256 = 0 ∧ y % 2 ^ 23 ≠ 0 then .fin (decide (2 ^ 31 ≤ y)) 0 0 else (NFmt.f32.decode y 0 false).1 := by
  simp only [← f32Subnormal_iff]
  split
  case isTrue h => rw [h.1, f32_decode_flushed hy h.2]
  case isFalse h => rw [f32_decode_kept hy fun hf => (Bool.not_eq_true _).mp fun hs => h ⟨hf, hs⟩]

theorem f32_decode_snd {y : Nat} (hy : y < 2 ^ 32) (flush : Bool) : (NFmt.f32.decode y 0 flush).2 = true ↔
    flush = true ∧ y / 2 ^ 23 % 256 = 0 ∧ y % 2 ^ 23 ≠ 0 := by
  rw [← f32Subnormal_iff]
  by_cases h : flush = true ∧ f32Subnormal y = true
  · rw [h.1, f32_decode_flushed hy h.2]; simpa using h.2
  · rw [f32_decode_kept hy fun hf => (Bool.not_eq_true _).mp fun hs => h ⟨hf, hs⟩]; simpa using h

/-- A scale of 2^0 changes nothing. -/
theorem FVal.scale_zero (x : FVal) : x.scale 0 = x := by
  cases x <;> simp [FVal.scale]

/-- A rounded result at scale 0, with the events of its inputs. -/
theorem finish_zero (F : NFmt) (mode : Nat) (sat : Bool) (ins : List FVal) (x : FVal) :
    F.finish 0 mode sat ins x = (F.encode (F.round mode sat x).val, opEvents ins (F.round mode sat x)) := by
  rw [NFmt.finish, neg_zero, FVal.scale_zero]

/-- The events of an operation on two inputs (log 23). -/
theorem opEvents_pair (a b : FVal) (r : Rnd) :
    opEvents [a, b] r = r.ev ||| (if a = .nan ∨ b = .nan then 2 ^ 1 else if r.val = .nan then 2 ^ 0 else 0) := by
  simp only [opEvents, List.any_cons, List.any_nil, FVal.isNan, Bool.or_false, Bool.or_eq_true, beq_iff_eq, ev]
  split
  · rfl
  · split
    · rfl
    · simp

theorem natMin_eq_ite (x v : Nat) : Nat.min x v = if v < x then v else x := by
  simp only [Nat.min_eq_min, Nat.min_def]
  split <;> split <;> omega
theorem natMax_eq_ite (x v : Nat) : Nat.max x v = if x < v then v else x := by
  simp only [Nat.max_eq_max, Nat.max_def]
  split <;> split <;> omega

section
variable {q : MQual} {sz : BitVec 2} {r : BitVec 6} {a : MAddr}

/-- An atomic commits past its address check. -/
theorem atomic_commits {i : Instr} {op : Nat} (hx : ∀ s, exec i s = issueForm (addrLits a.mode) (atomicReq op q sz r a) s) :
    Commits i (addrLits a.mode) .m (q.mask.getLsbD 0)
      (fun e => (basePend e.c a (2 ^ sz.toNat)).toList ++
        ((if r = 0 ∧ op = 7 ∧ fmtStatmask e.c.fmt ≠ 0 then
            [waitPend e .none (if q.pred.toNat == 1 then (if isOwn e.c (addrOf e.c a (2 ^ sz.toNat)).toNat then 8 else 16) else 48) 0]
          else waitScalar e r.toNat (if q.pred.toNat == 1 then (if isOwn e.c (addrOf e.c a (2 ^ sz.toNat)).toNat then 8 else 16) else 48)) ++
          witPend q.wit.toNat 1 (e.outWit q.scope.toNat e.nextSeqNum)))
      (fun _ => if q.pred.toNat == 1 then 4 else 24)
      (ok := fun e => (if q.pred.toNat == 1 then spFail e.c (addrOf e.c a (2 ^ sz.toNat)) (2 ^ sz.toNat) = none
          else (addrOf e.c a (2 ^ sz.toNat)).toNat < 2 ^ 57) ∧ (addrOf e.c a (2 ^ sz.toNat)).toNat % 2 ^ sz.toNat = 0 ∧ e.seqRoom)
      (act := fun e s => s.startSeq { e.access (.atomic op) q (q.pred.toNat == 1) (addrOf e.c a (2 ^ sz.toNat)).toNat (2 ^ sz.toNat) with
        data := (e.c.readS r.toNat).zeroExtend 2048, data2 := e.c.readS (r.toNat + 1)
        dest := if r = 0 then none else some (.s r.toNat) }) := by
  have hzero : r.toNat = 0 ↔ r = 0 := by rw [BitVec.toNat_eq]; simp
  refine commits_m hx (fun e ⟨hin, hal, _⟩ => ?_) (fun _ hok => .inr hok.2.2) (fun _ => rfl) fun e => ?_
  · exact placeCheck_none hin hal
  · simp only [waitAtomic, hzero]
    rfl

end

/-- Settles O13: the forms by their one request, and each operation's value in turn. -/
theorem atomicForms : Obligations.AtomicForms := by
  unfold Obligations.AtomicForms
  constructor
  · intro q sz r a
    exact ⟨atomic_commits fun _ => rfl, atomic_commits fun _ => rfl, atomic_commits fun _ => rfl, atomic_commits fun _ => rfl,
      atomic_commits fun _ => rfl, atomic_commits fun _ => rfl, atomic_commits fun _ => rfl, atomic_commits fun _ => rfl⟩
  · intro n x v u fmt hn hx hv hu
    have hv' := Nat.mod_eq_of_lt hv
    have hu' := Nat.mod_eq_of_lt hu
    simp only [atomicNew, hv', hu', sextNat_of_lt hx, sextNat_of_lt hv, finish_zero, opEvents_pair]
    refine ⟨trivial, trivial, ?_, trivial, ?_, trivial, trivial, ?_⟩
    · rw [natMin_eq_ite]
    · rw [natMax_eq_ite]
    · rintro rfl
      simp only [f32_decode_fst hx (fmtFlush fmt), f32_decode_fst hv (fmtFlush fmt), Bool.or_eq_true, f32_decode_snd hx, f32_decode_snd hv]
      exact ⟨rfl, rfl⟩

end Sys2Proof.Machine

namespace Sys2Proof.Machine

/-! ### The faults of the M slot at issue (07 R183) -/

/-- A form of the M slot traps with the fault of its request; the rest is as its request says. -/
theorem traps_m {i : Instr} {lits size : Nat} {q : MQual} {a : MAddr} {eff : Env → W64 → Eff} {new : Env → List Pend} {reads : List Nat}
    {ok : Env → Prop} {info : Env → TrapInfo} (hx : ∀ s, exec i s = issueForm lits (mReq q a size eff) s)
    (hf : ∀ e, ok e → (eff e (addrOf e.c a size)).fault = some (info e))
    (h : ∀ e, ok e → (eff e (addrOf e.c a size)).illegal = false ∧ (eff e (addrOf e.c a size)).vreads = reads ∧
      (eff e (addrOf e.c a size)).olds = [] ∧ new e = (basePend e.c a size).toList ++ (eff e (addrOf e.c a size)).pends) :
    Traps i lits .m (q.mask.getLsbD 0) new reads ok info :=
  traps_of _ hx rfl .inr fun e hok =>
    have ⟨hill, hreads, holds, hn⟩ := h e hok
    ⟨hill, hf e hok, hreads, hn, holds⟩

/-- The address check of a form whose predicate field may select the scratchpad. -/
def placeCheck (e : Env) (sp : Bool) (w : W64) (n aux : Nat) : Option TrapInfo := if sp then spCheck e w n n else globalCheck e w n aux

/-! A form of the M slot whose fault is, where its address check fails, the fault of that check. -/
section
variable {i : Instr} {lits size aux : Nat} {sp : Bool} {q : MQual} {a : MAddr} {eff : Env → W64 → Eff} {new : Env → List Pend} {reads : List Nat}
  (hx : ∀ s, exec i s = issueForm lits (mReq q a size eff) s)
  (hf : ∀ e t, placeCheck e sp (addrOf e.c a size) size aux = some t → (eff e (addrOf e.c a size)).fault = some t)
  (h : ∀ e, (∃ t, placeCheck e sp (addrOf e.c a size) size aux = some t) → (eff e (addrOf e.c a size)).illegal = false ∧
    (eff e (addrOf e.c a size)).vreads = reads ∧ (eff e (addrOf e.c a size)).olds = [] ∧ (eff e (addrOf e.c a size)).pends = new e)
include hx hf h

theorem traps_placeCheck {ok : Env → Prop} {info : Env → TrapInfo}
    (hp : ∀ e, ok e → placeCheck e sp (addrOf e.c a size) size aux = some (info e)) :
    Traps i lits .m (q.mask.getLsbD 0) (fun e => (basePend e.c a size).toList ++ new e) reads ok info := by
  refine traps_m hx (fun e hok => hf e _ (hp e hok)) fun e hok => ?_
  obtain ⟨hill, hreads, holds, hpends⟩ := h e ⟨_, hp e hok⟩
  exact ⟨hill, hreads, holds, by rw [hpends]⟩

/-- An address out of range, and a misaligned one. -/
theorem traps_address :
    (if sp then Traps i lits .m (q.mask.getLsbD 0) (fun e => (basePend e.c a size).toList ++ new e) reads
        (fun e => spFail e.c (addrOf e.c a size) size ≠ none)
        (fun e => { cause := 0x23, aux := BitVec.ofNat 64 0, faddr := BitVec.ofNat 64 (addrOf e.c a size).toNat, unit := seqUnit e.a })
      else Traps i lits .m (q.mask.getLsbD 0) (fun e => (basePend e.c a size).toList ++ new e) reads
        (fun e => 2 ^ 57 ≤ (addrOf e.c a size).toNat)
        (fun e => { cause := 0x21, aux := BitVec.ofNat 64 aux, faddr := BitVec.ofNat 64 (addrOf e.c a size).toNat, unit := seqUnit e.a })) ∧
    Traps i lits .m (q.mask.getLsbD 0) (fun e => (basePend e.c a size).toList ++ new e) reads
      (fun e => (if sp then spFail e.c (addrOf e.c a size) size = none else (addrOf e.c a size).toNat < 2 ^ 57) ∧
        (addrOf e.c a size).toNat % size ≠ 0)
      (fun e => { cause := 0x22, aux := BitVec.ofNat 64 size, faddr := BitVec.ofNat 64 (addrOf e.c a size).toNat, unit := seqUnit e.a }) := by
  cases sp with
  | true => exact ⟨traps_placeCheck hx hf h fun e hbad => spCheck_range hbad, traps_placeCheck hx hf h fun e hbad => spCheck_align hbad.1 hbad.2⟩
  | false => exact ⟨traps_placeCheck hx hf h fun e hbad => globalCheck_top hbad, traps_placeCheck hx hf h fun e hbad => globalCheck_align hbad.1 hbad.2⟩

end

/-- A load whose address check passes and whose witness input is bad. -/
theorem traps_witness {i : Instr} {lits size aux k : Nat} {sp : Bool} {q : MQual} {a : MAddr} {eff : Env → W64 → Eff} {new : Env → List Pend}
    (hx : ∀ s, exec i s = issueForm lits (mReq q a size eff) s)
    (hf : ∀ e, (eff e (addrOf e.c a size)).fault = orElseFault (placeCheck e sp (addrOf e.c a size) size aux)
      (witInput e (e.c.readW q.wit.toNat) (addrOf e.c a size).toNat))
    (h : ∀ e, (eff e (addrOf e.c a size)).illegal = false ∧ (eff e (addrOf e.c a size)).vreads = [] ∧
      (eff e (addrOf e.c a size)).olds = [] ∧ (eff e (addrOf e.c a size)).pends = new e) :
    Traps i lits .m (q.mask.getLsbD 0) (fun e => (basePend e.c a size).toList ++ new e) []
      (fun e => ((if sp then spFail e.c (addrOf e.c a size) size = none else (addrOf e.c a size).toNat < 2 ^ 57) ∧
        (addrOf e.c a size).toNat % size = 0) ∧ e.s.witFault e.a e.c.pd.toNat (e.c.readW q.wit.toNat) = some k)
      (fun e => { cause := k, aux := e.c.readW q.wit.toNat, faddr := BitVec.ofNat 64 (addrOf e.c a size).toNat, unit := seqUnit e.a }) := by
  refine traps_m hx (fun e ⟨⟨hin, hal⟩, hwit⟩ => ?_) fun e _ => ?_
  · have hpass : placeCheck e sp (addrOf e.c a size) size aux = none := placeCheck_none hin hal
    rw [hf, orElseFault_second hpass, witInput_fault hwit]
    rfl
  · obtain ⟨hill, hreads, holds, hpends⟩ := h e
    exact ⟨hill, hreads, holds, by rw [hpends]⟩

/-! A gather or a scatter. -/
section
variable {e : Env} {n : Nat} {w : W64} {l : List (Nat × W64)}

/-- The first element that fails its check is the fault of a gather or scatter. -/
theorem gatherCheck_element {pre post : List (Nat × W64)} {k : Nat} {x : W64} {t : TrapInfo} (hl : l = pre ++ (k, x) :: post)
    (hpre : ∀ y ∈ pre, spFail e.c y.2 n = none ∧ y.2.toNat % n = 0) (hx : spCheck e x n n = some t) : e.gatherCheck n w l = some t := by
  have hnone : pre.findSome? (fun y => spCheck e y.2 n n) = none :=
    List.findSome?_eq_none_iff.mpr fun y hy => spCheck_none (hpre y hy).1 (hpre y hy).2
  have hfind : l.findSome? (fun y => spCheck e y.2 n n) = some t := by
    rw [hl, List.findSome?_append, hnone, List.findSome?_cons, hx]
    rfl
  simp only [Env.gatherCheck, hfind]

theorem gatherCheck_base (hl : ∀ y ∈ l, spFail e.c y.2 n = none ∧ y.2.toNat % n = 0) (hal : w.toNat % n ≠ 0) :
    e.gatherCheck n w l = some (issueFault e.a 0x22 (BitVec.ofNat 64 n) w.toNat) := by
  have hfind : l.findSome? (fun y => spCheck e y.2 n n) = none :=
    List.findSome?_eq_none_iff.mpr fun y hy => spCheck_none (hl y hy).1 (hl y hy).2
  simp only [Env.gatherCheck, hfind, hal, ne_eq, not_false_eq_true, if_true]

theorem issueFault_word (a cause : Nat) (aux x : W64) :
    issueFault a cause aux x.toNat = { cause := cause, aux := aux, faddr := x, unit := seqUnit a } := by
  rw [issueFault, BitVec.ofNat_toNat, BitVec.setWidth_eq]

end

/-- The three faults of a gather or scatter: an element out of the share, a misaligned element, a misaligned base. -/
theorem traps_elements {i : Instr} {q : MQual} {a : MAddr} {vr : BitVec 10} {eff : Env → W64 → Eff} {reads : List Nat} {new : Env → List Pend}
    (hx : ∀ s, exec i s = issueForm (addrLits a.mode) (mReq q a (2 ^ q.evict.toNat) eff) s)
    (hf : ∀ e t, e.gatherCheck (2 ^ q.evict.toNat) (addrOf e.c a (2 ^ q.evict.toNat))
      (e.gatherAddrs q vr.toNat (addrOf e.c a (2 ^ q.evict.toNat))) = some t → (eff e (addrOf e.c a (2 ^ q.evict.toNat))).fault = some t)
    (h : ∀ e, (eff e (addrOf e.c a (2 ^ q.evict.toNat))).illegal = false ∧ (eff e (addrOf e.c a (2 ^ q.evict.toNat))).vreads = reads ∧
      (eff e (addrOf e.c a (2 ^ q.evict.toNat))).olds = [] ∧ (eff e (addrOf e.c a (2 ^ q.evict.toNat))).pends = new e) :
    let g := 2 ^ q.evict.toNat
    let L := fun (e : Env) => e.gatherAddrs q vr.toNat (addrOf e.c a g)
    let E := fun (bad : Env → W64 → Prop) (cause aux : Nat) => ∀ (pre post : List (Nat × W64)) (k : Nat) (x : W64),
      Traps i (addrLits a.mode) .m (q.mask.getLsbD 0) (fun e => (basePend e.c a g).toList ++ new e) reads
        (fun e => L e = pre ++ (k, x) :: post ∧ (∀ y ∈ pre, spFail e.c y.2 g = none ∧ y.2.toNat % g = 0) ∧ bad e x)
        (fun e => { cause := cause, aux := BitVec.ofNat 64 aux, faddr := x, unit := seqUnit e.a })
    E (fun e x => spFail e.c x g ≠ none) 0x23 0 ∧
    E (fun e x => spFail e.c x g = none ∧ x.toNat % g ≠ 0) 0x22 g ∧
    Traps i (addrLits a.mode) .m (q.mask.getLsbD 0) (fun e => (basePend e.c a g).toList ++ new e) reads
      (fun e => (∀ y ∈ L e, spFail e.c y.2 g = none ∧ y.2.toNat % g = 0) ∧ (addrOf e.c a g).toNat % g ≠ 0)
      (fun e => { cause := 0x22, aux := BitVec.ofNat 64 g, faddr := BitVec.ofNat 64 (addrOf e.c a g).toNat, unit := seqUnit e.a }) := by
  intro g L E
  have hrest (e : Env) : (eff e (addrOf e.c a g)).illegal = false ∧ (eff e (addrOf e.c a g)).vreads = reads ∧
      (eff e (addrOf e.c a g)).olds = [] ∧ (basePend e.c a g).toList ++ new e = (basePend e.c a g).toList ++ (eff e (addrOf e.c a g)).pends := by
    obtain ⟨hill, hreads, holds, hpends⟩ := h e
    exact ⟨hill, hreads, holds, by rw [hpends]⟩
  refine ⟨fun pre post k x => ?_, fun pre post k x => ?_, ?_⟩
  · refine traps_m hx (fun e ⟨hl, hpre, hbad⟩ => hf e _ (gatherCheck_element hl hpre ?_)) fun e _ => hrest e
    rw [spCheck_range hbad, issueFault_word]
    rfl
  · refine traps_m hx (fun e ⟨hl, hpre, hbad⟩ => hf e _ (gatherCheck_element hl hpre ?_)) fun e _ => hrest e
    rw [spCheck_align hbad.1 hbad.2, issueFault_word]
  · exact traps_m hx (fun e ⟨hl, hbad⟩ => hf e _ (gatherCheck_base hl hbad)) fun e _ => hrest e

/-- An access of k bytes lies in the share of R58. -/
theorem spFail_none_iff (c : Ctx) (x : W64) (k : Nat) : spFail c x k = none ↔
    x.toNat < 2 ^ 25 ∧ x.toNat / 2 ^ 23 < c.perTeam ∧ x.toNat % 2 ^ 23 + k ≤ c.scratch - c.pierq.toNat := by
  have hlimit : c.spLimit = c.scratch - c.pierq.toNat := rfl
  simp only [spFail, ge_iff_le]
  by_cases htop : 2 ^ 25 ≤ x.toNat
  · rw [if_pos htop]
    exact iff_of_false nofun (by omega)
  by_cases hteam : c.perTeam ≤ x.toNat / 2 ^ 23
  · rw [if_neg htop, if_pos hteam]
    exact iff_of_false nofun (by omega)
  by_cases hlen : x.toNat % 2 ^ 23 + k ≤ c.spLimit
  · rw [if_neg htop, if_neg hteam, if_pos hlen]
    exact iff_of_true rfl (by omega)
  · rw [if_neg htop, if_neg hteam, if_neg hlen]
    exact iff_of_false nofun (by omega)

theorem waitAtomic_eq (e : Env) (op : Nat) (r : BitVec 6) (lat : Nat) : waitAtomic e op r.toNat lat =
    if r = 0 ∧ op = 7 ∧ fmtStatmask e.c.fmt ≠ 0 then [waitPend e .none lat 0] else waitScalar e r.toNat lat := by
  have hzero : r.toNat = 0 ↔ r = 0 := by rw [BitVec.toNat_eq]; simp
  simp only [waitAtomic, hzero]

/-- `SWWAIT` looks at its address first. -/
theorem reqSwwait_fault {e : Env} {q : MQual} {r : BitVec 6} {a : MAddr} {t : TrapInfo}
    (h : placeCheck e (q.pred.toNat == 1) (addrOf e.c a 32) 32 0 = some t) : (reqSwwait q r a).eff e = { fault := some t } := by
  have hcheck : syncCheck e (q.pred.toNat == 1) (addrOf e.c a 32) 0 = some t := h
  simp only [reqSwwait, mReq, hcheck]

/-- Settles O16: each form's address faults, the faults of a gather or scatter, and a bad witness input after them. -/
theorem addressTraps : Obligations.AddressTraps := by
  unfold Obligations.AddressTraps
  intro q sx sz r xp vr a
  have atomic {i : Instr} {op : Nat} (hx : ∀ s, exec i s = issueForm (addrLits a.mode) (atomicReq op q sz r a) s) :=
    traps_address (sp := q.pred.toNat == 1) (aux := 1) (reads := []) (new := fun e =>
      (if r = 0 ∧ op = 7 ∧ fmtStatmask e.c.fmt ≠ 0 then
        [waitPend e .none (if q.pred.toNat == 1 then (if isOwn e.c (addrOf e.c a (2 ^ sz.toNat)).toNat then 8 else 16) else 48) 0]
      else waitScalar e r.toNat (if q.pred.toNat == 1 then (if isOwn e.c (addrOf e.c a (2 ^ sz.toNat)).toNat then 8 else 16) else 48)) ++
        witPend q.wit.toNat 1 (e.outWit q.scope.toNat e.nextSeqNum)) hx (fun _ _ h => h)
      fun e _ => ⟨rfl, rfl, rfl, congrArg (· ++ _) (waitAtomic_eq e op r _)⟩
  refine ⟨⟨?_, ?_⟩, ?_, ⟨?_, ?_⟩, ?_, ⟨?_, ?_⟩, ⟨?_, ?_⟩, ?_, ?_, ?_, ?_, ?_, atomic fun _ => rfl, atomic fun _ => rfl,
    atomic fun _ => rfl, atomic fun _ => rfl, atomic fun _ => rfl, atomic fun _ => rfl, atomic fun _ => rfl, atomic fun _ => rfl,
    ?_, ?_, ?_, ?_, ⟨?_, ?_⟩, ⟨?_, ?_⟩, ?_, ?_, ?_, ?_, spFail_none_iff⟩
  · exact traps_address (sp := false) (fun _ => rfl) (fun _ _ h => orElseFault_first h) fun _ _ => ⟨rfl, rfl, rfl, rfl⟩
  · exact fun k => traps_witness (sp := false) (fun _ => rfl) (fun _ => rfl) fun _ => ⟨rfl, rfl, rfl, rfl⟩
  · exact traps_address (sp := false) (fun _ => rfl) (fun _ _ h => h) fun _ _ => ⟨rfl, rfl, rfl, rfl⟩
  · exact traps_address (sp := true) (fun _ => rfl) (fun _ _ h => orElseFault_first h) fun _ _ => ⟨rfl, rfl, rfl, rfl⟩
  · exact fun k => traps_witness (sp := true) (fun _ => rfl) (fun _ => rfl) fun _ => ⟨rfl, rfl, rfl, rfl⟩
  · exact traps_address (sp := true) (fun _ => rfl) (fun _ _ h => h) fun _ _ => ⟨rfl, rfl, rfl, rfl⟩
  · exact traps_address (sp := false) (fun _ => rfl) (fun _ _ h => orElseFault_first h) fun _ _ => ⟨rfl, rfl, rfl, rfl⟩
  · exact fun k => traps_witness (sp := false) (fun _ => rfl) (fun _ => rfl) fun _ => ⟨rfl, rfl, rfl, rfl⟩
  · exact traps_address (sp := true) (fun _ => rfl) (fun _ _ h => orElseFault_first h) fun _ _ => ⟨rfl, rfl, rfl, rfl⟩
  · exact fun k => traps_witness (sp := true) (fun _ => rfl) (fun _ => rfl) fun _ => ⟨rfl, rfl, rfl, rfl⟩
  · exact traps_address (sp := false) (fun _ => rfl) (fun _ _ h => h) fun _ _ => ⟨rfl, rfl, rfl, rfl⟩
  · exact traps_address (sp := true) (fun _ => rfl) (fun _ _ h => h) fun _ _ => ⟨rfl, rfl, rfl, rfl⟩
  · refine traps_elements (fun _ => rfl) (fun _ _ h => orElseFault_first h) fun e => ⟨rfl, rfl, rfl, ?_⟩
    simp only [← gather_latency]
  · refine fun k => traps_m (fun _ => rfl) (fun e ⟨⟨hl, hal⟩, hwit⟩ => ?_) fun e _ => ⟨rfl, rfl, rfl, ?_⟩
    · have hpass := gatherCheck_none (fun x hx => spCheck_none (hl x hx).1 (hl x hx).2) hal
      exact (orElseFault_second hpass).trans (witInput_fault hwit)
    · simp only [← gather_latency]
  · exact traps_elements (fun _ => rfl) (fun _ _ h => h) fun _ => ⟨rfl, rfl, rfl, rfl⟩
  · exact traps_address (sp := q.pred.toNat == 1) (fun _ => rfl) (fun _ _ h => h) fun _ _ => ⟨rfl, rfl, rfl, rfl⟩
  · exact traps_address (sp := q.pred.toNat == 1) (fun _ => rfl) (fun _ _ h => h) fun _ _ => ⟨rfl, rfl, rfl, rfl⟩
  · refine traps_address (sp := q.pred.toNat == 1) (fun _ => rfl) (fun e t h => ?_) fun e ⟨t, h⟩ => ?_
    · exact congrArg Eff.fault (reqSwwait_fault (r := r) h)
    · have heff := reqSwwait_fault (r := r) h
      exact ⟨congrArg Eff.illegal heff, congrArg Eff.vreads heff, congrArg Eff.olds heff, congrArg Eff.pends heff⟩
  · exact traps_address (sp := q.pred.toNat == 1) (fun _ => rfl) (fun _ _ h => h) fun _ _ => ⟨rfl, rfl, rfl, rfl⟩
  · exact traps_address (sp := false) (fun _ => rfl) (fun _ _ h => orElseFault_first h) fun _ _ => ⟨rfl, rfl, rfl, rfl⟩
  · exact fun k => traps_witness (sp := false) (fun _ => rfl) (fun _ => rfl) fun _ => ⟨rfl, rfl, rfl, rfl⟩
  · exact traps_address (sp := false) (fun _ => rfl) (fun _ _ h => orElseFault_first h) fun _ _ => ⟨rfl, rfl, rfl, rfl⟩
  · exact fun k => traps_witness (sp := false) (fun _ => rfl) (fun _ => rfl) fun _ => ⟨rfl, rfl, rfl, rfl⟩
  · exact traps_m (fun _ => rfl) (fun e h => globalCheck_top h) fun _ _ => ⟨rfl, rfl, rfl, rfl⟩
  · exact traps_m (fun _ => rfl) (fun e h => globalCheck_top h) fun _ _ => ⟨rfl, rfl, rfl, rfl⟩
  · exact fun k => traps_of (reqRcfence q r) (fun _ => rfl) rfl .inr fun e h => ⟨rfl, witInput_fault h.2, rfl, rfl, rfl⟩
  · exact traps_m (fun _ => rfl) (fun e h => if_pos h) fun _ _ => ⟨rfl, rfl, rfl, (List.append_nil _).symm⟩

end Sys2Proof.Machine

namespace Sys2Proof.Machine

/-! ### Sync words (07 R202 to R208) -/

/-- An earlier access of the context to a place is still to be performed (13 R311). -/
theorem Env.behind_iff (e : Env) (x : Access) : e.behind x = true ↔
    ∃ y ∈ e.s.accs, y.cid = e.c.cid ∧ y.level = 0 ∧ y.kept = false ∧ y.meets x = true := by
  simp only [Env.behind, List.any_eq_true, Bool.and_eq_true, beq_iff_eq, Bool.not_eq_true', and_assoc]

/-- A form of another slot than C whose request holds leaves its context held. -/
theorem exec_hold {i : Instr} {lits : Nat} (r : SlotReq) {sl : Slot} {onHold : State → State} {s : State} {e : Env}
    (hx : ∀ s, exec i s = issueForm lits r s) (he : s.issuing lits = some e) (hs : r.slot = sl) (ht : r.mask.getLsbD 0 = true)
    (hr : e.room sl [] (r.base e).toList = true) (heff : r.eff e = { hold := true, onHold := onHold }) :
    exec i s = .next ((onHold e.s).onCtx e.a fun c => { c with held := true }) := by
  subst hs
  rw [hx, issueForm_of_issuing _ he, issueIn_hold e r (issuing_mTook he) (.inr ht)] <;> rw [heff]
  exact (congrArg (e.room r.slot []) (List.append_nil _)).trans hr

section
variable {q : MQual} {r : BitVec 6} {a : MAddr} {e : Env}

/-- The word that `SWWAIT` sees: that of its hold, or as it translates now (07 R207). -/
def swWord (e : Env) (sp : Bool) (w : Nat) : Res (Nat × List Byte) :=
  match e.c.swKey with
  | some k => syncHeld e sp w k
  | none => syncWord e sp w

/-- Whether `SWWAIT` waits for an earlier access of its context. -/
def swEarly (e : Env) (q : MQual) (a : MAddr) : Prop :=
  e.c.swKey = none ∧ ∃ y ∈ e.s.accs, y.cid = e.c.cid ∧ y.level = 0 ∧ y.kept = false ∧
    y.meets (e.access .swpoll q (q.pred.toNat == 1) (addrOf e.c a 32).toNat 32) = true

theorem swEarly_iff : swEarly e q a ↔
    (e.c.swKey.isNone && e.behind (e.access .swpoll q (q.pred.toNat == 1) (addrOf e.c a 32).toNat 32)) = true := by
  rw [Bool.and_eq_true, Option.isNone_iff_eq_none, Env.behind_iff, swEarly]

/-- What `SWWAIT` does with the word that it sees (07 R207). -/
def swEff (e : Env) (q : MQual) (r : BitVec 6) : Res (Nat × List Byte) → Eff
  | .fault f => { fault := some (if f.cause = 0x50 then memFault f else { memFault f with unit := seqUnit e.a }) }
  | .wait => { hold := true }
  | .ok s1 kb =>
    if e.c.swRel.isNone && BitVec.ofNat 32 (fieldAt kb.2 8 4) == (e.c.readS r.toNat).truncate 32 then
      { hold := true
        onHold := fun s => (s.withReads s1).onCtx e.a fun c =>
          { c with swWait := some (kb.1, (e.c.readS r.toNat).truncate 32), swKey := some kb.1 } }
    else
      { pends := scalarPend r.toNat 2 ((BitVec.ofNat 32 (fieldAt kb.2 8 4)).zeroExtend 64) ++
          witPend q.wit.toNat 2 (match e.c.swRel with
            | some m => m
            | none => mkWit 2 4 e.c.pd.toNat (e.s.epoch % 2 ^ 22) 0 0)
        act := fun s => (s.withReads s1).onCtx e.a fun c => { c with swWait := none, swRel := none, swKey := none }
        energy := 16 }

section
variable (hp : placeCheck e (q.pred.toNat == 1) (addrOf e.c a 32) 32 0 = none)
include hp

theorem reqSwwait_early (h : swEarly e q a) : (reqSwwait q r a).eff e = { hold := true } := by
  have hcheck : syncCheck e (q.pred.toNat == 1) (addrOf e.c a 32) 0 = none := hp
  simp only [reqSwwait, mReq, hcheck, swEarly_iff.mp h, if_true]

/-- Past the accesses before it, `SWWAIT` does what its word says. -/
theorem reqSwwait_past (h : ¬swEarly e q a) {x : Res (Nat × List Byte)} (hw : swWord e (q.pred.toNat == 1) (addrOf e.c a 32).toNat = x) :
    (reqSwwait q r a).eff e = swEff e q r x := by
  have hcheck : syncCheck e (q.pred.toNat == 1) (addrOf e.c a 32) 0 = none := hp
  rw [swEarly_iff] at h
  simp only [reqSwwait, mReq, hcheck, h, Bool.false_eq_true, if_false, ← hw]
  rfl

end

section
variable {s1 : State} {k : Nat} {bs : List Byte}

/-- The word's generation equals the operand and nothing has released the context. -/
theorem swEff_equal (hrel : e.c.swRel = none) (hgen : BitVec.ofNat 32 (fieldAt bs 8 4) = (e.c.readS r.toNat).truncate 32) :
    swEff e q r (.ok s1 (k, bs)) =
      { hold := true
        onHold := fun s => (s.withReads s1).onCtx e.a fun c => { c with swWait := some (k, (e.c.readS r.toNat).truncate 32), swKey := some k } } := by
  simp only [swEff, hrel, hgen, Option.isNone_none, beq_self_eq_true, Bool.and_self, if_true]

theorem swEff_passes {wit : W64} (hrel : e.c.swRel = some wit ∨ (e.c.swRel = none ∧
      BitVec.ofNat 32 (fieldAt bs 8 4) ≠ (e.c.readS r.toNat).truncate 32 ∧ wit = mkWit 2 4 e.c.pd.toNat (e.s.epoch % 2 ^ 22) 0 0)) :
    swEff e q r (.ok s1 (k, bs)) =
      { pends := scalarPend r.toNat 2 ((BitVec.ofNat 32 (fieldAt bs 8 4)).zeroExtend 64) ++ witPend q.wit.toNat 2 wit
        act := fun s => (s.withReads s1).onCtx e.a fun c => { c with swWait := none, swRel := none, swKey := none }
        energy := 16 } := by
  rcases hrel with hrel | ⟨hrel, hgen, rfl⟩
  · simp only [swEff, hrel, Option.isNone_some, Bool.false_and, Bool.false_eq_true, if_false]
  · simp only [swEff, hrel, beq_false_of_ne hgen, Bool.and_false, Bool.false_eq_true, if_false]

end

end

/-- Settles O14: the accesses that start, and the four ways of `SWWAIT`: behind an access, without its word, held, and past. -/
theorem syncForms : Obligations.SyncForms := by
  unfold Obligations.SyncForms
  intro q r a gen want wit k bs s1 A B sp fits early word
  have hpass {e : Env} {aux : Nat} (h : fits e) : placeCheck e sp (A e) 32 aux = none := placeCheck_none h.1 h.2
  refine ⟨?_, ?_, ?_, ?_, fun s e he ht hr hfits => ⟨fun hearly => ?_, fun hearly hword => ?_, ?_⟩⟩
  · exact commits_m (fun _ => rfl) (fun e hok => hpass hok.1) (fun _ hok => .inr hok.2) (fun _ => rfl) fun _ => rfl
  · exact commits_m (fun _ => rfl) (fun e hok => hpass hok.1) (fun _ hok => .inr hok.2) (fun _ => rfl) fun _ => (List.append_nil _).symm
  · exact commits_m (fun _ => rfl) (fun e hok => hpass hok) (fun _ _ => .inl rfl) (fun _ => rfl) fun _ => rfl
  · refine commits_of (reqSwwait q r a) (fun _ => rfl) rfl (by decide) rfl fun e ⟨hfits, hearly, hword, hgen, hrel⟩ => ?_
    subst hgen
    rw [reqSwwait_past (hpass hfits) hearly hword, swEff_passes hrel]
    exact ⟨⟨rfl, rfl, rfl, .inl rfl, rfl, rfl, rfl, rfl, rfl, rfl⟩, rfl⟩
  · exact exec_hold (reqSwwait q r a) (fun _ => rfl) he rfl ht hr (reqSwwait_early (hpass hfits) hearly)
  · exact exec_hold (reqSwwait q r a) (fun _ => rfl) he rfl ht hr (reqSwwait_past (hpass hfits) hearly hword)
  · rintro hearly hword rfl hrel hgen
    rw [hgen]
    exact exec_hold (reqSwwait q r a) (fun _ => rfl) he rfl ht hr ((reqSwwait_past (hpass hfits) hearly hword).trans (swEff_equal hrel hgen))

end Sys2Proof.Machine

namespace Sys2Proof.Machine

/-! ### The answer to a witness (13 R313, R314) -/

/-- What the directory answers where its checks give a cause or none. -/
def State.witAnswer (s : State) (w : W64) : Option Nat → WitAns
  | some c => .fault c
  | none => if s.witSat w then .satisfied else .waiting

theorem State.witCheck_eq (s : State) (place pd : Nat) (w : W64) : s.witCheck place pd w = s.witAnswer w (s.witFault place pd w) := rfl

/-- One check of a chain: where it fails the answer is its own, and else the rest decides. -/
theorem check_of {α β : Type} {f : α → β} {y x : β} {a b : α} {bad c rest : Prop} [Decidable c] (hbad : bad ↔ c)
    (hy : y = f (if c then a else b)) (ha : bad → f a = x) (hrest : ¬bad → y = f b → rest) : (bad → y = x) ∧ (¬bad → rest) := by
  refine ⟨fun h => ?_, fun h => hrest h ?_⟩
  · rw [hy, if_pos (hbad.mp h), ha h]
  · rw [hy, if_neg (mt hbad.mpr h)]

/-- The definition as a function, so that the kernel compares bodies and never evaluates an epoch of 22 bits. -/
theorem State.epochClosed_eq : State.epochClosed = fun s dom scope e => match s.epochAbs e with
    | none => true
    | some n => decide (n < s.closedOf dom scope) := rfl

theorem State.epochClosed_eq_true (s : State) (dom scope e : Nat) : s.epochClosed dom scope e = true ↔
    ∀ n, s.epochAbs e = some n → n < s.closedOf dom scope := by
  rw [State.epochClosed_eq]
  beta_reduce
  generalize s.epochAbs e = o
  cases o <;> simp

section
variable (s : State) (w : W64)

/-- The epochs from package reset that the epoch field of a witness may name. -/
def State.namesEpoch (n : Nat) : Prop := n ≤ s.epoch ∧ s.epoch < n + 2 ^ 22 ∧ n % 2 ^ 22 = witEpoch w

theorem State.namesEpoch_iff (n : Nat) : s.namesEpoch w n ↔ s.epochAbs (witEpoch w) = some n := by
  have he := witEpoch_lt w
  have hage : s.epochAge (witEpoch w) = (s.epoch % 2 ^ 22 + 2 ^ 22 - witEpoch w % 2 ^ 22) % 2 ^ 22 := rfl
  rw [State.namesEpoch, State.epochAbs]
  by_cases h : s.epochAge (witEpoch w) ≤ s.epoch
  · rw [if_pos h, Option.some.injEq]; omega
  · rw [if_neg h]; exact iff_of_false (by omega) nofun

theorem State.epochClosed_iff (dom scope : Nat) : s.epochClosed dom scope (witEpoch w) = true ↔
    ∀ n, s.namesEpoch w n → n < s.closedOf dom scope := by
  simp only [State.namesEpoch_iff, State.epochClosed_eq_true]

theorem State.covers_iff (f : FormRec) : s.covers w f = true ↔ f.dom = witDom w ∧
    (if witForm w = 1 then witSeq w ≠ 0 ∧ f.agent = witAgent w ∧ (f.seq % 2 ^ 21 = witSeq w ∨
        1 ≤ ((witSeq w : Int) - f.seq) % 2 ^ 21 ∧ ((witSeq w : Int) - f.seq) % 2 ^ 21 < 2 ^ (21 - 1))
      else ∃ n, s.namesEpoch w n ∧ f.epoch ≤ n) := by
  have hseq : witSeq w % 2 ^ 21 = witSeq w := Nat.mod_eq_of_lt (witSeq_lt w)
  rw [State.covers, Bool.and_eq_true, beq_iff_eq]
  refine and_congr_right fun _ => ?_
  split
  · simp only [Bool.and_eq_true, bne_iff_ne, beq_iff_eq, seqCovers, Bool.or_eq_true, laterIn_iff, hseq, and_assoc]
  · simp only [State.namesEpoch_iff]
    cases s.epochAbs (witEpoch w) <;> simp

theorem inScope_eq_false_iff {scope agent place : Nat} (hplace : place < 768) : inScope scope agent place = false ↔
    agent < 768 ∧ ((scope = 1 ∧ agent / 4 ≠ place / 4) ∨ (scope = 2 ∧ agent / 16 ≠ place / 16) ∨ (scope = 3 ∧ agent / 192 ≠ place / 192)) := by
  have hslot (n : Nat) (h : n < 768) : n % 1024 = n := Nat.mod_eq_of_lt (by omega)
  by_cases hagent : agent ≥ 768
  · simp [inScope, hagent]
  · unfold inScope
    rw [if_neg hagent]
    have ha := hslot agent (by omega)
    have hp := hslot place hplace
    split <;> simp only [coreOf, spanOf, dieOf, slotOf, ha, hp, beq_eq_false_iff_ne, reduceCtorEq] <;> simp_all

/-- A witness whose form is at fault: failed itself, or covering a form that has failed. -/
theorem State.witFailed_iff (h0 : witForm w ≠ 0) (h3 : witForm w ≠ 3) : s.witFailed w = true ↔ ∃ f ∈ s.forms, f.failed = true ∧ s.covers w f = true := by
  simp [State.witFailed, h0, h3]

theorem State.witSat_iff (h0 : witForm w ≠ 0) (h3 : witForm w ≠ 3) (hfail : s.witFailed w = false) : s.witSat w = true ↔
    if witForm w = 1 then witSeq w = 0 ∨ s.epochClosed (witDom w) (max (witScope w) 4) (witEpoch w) = true ∨
        ∀ f ∈ s.forms, s.covers w f = true → scopeLevel (witScope w) ≤ f.level
      else s.epochClosed (witDom w) (witScope w) (witEpoch w) = true := by
  have hform : witForm w = 1 ∨ witForm w = 2 := by have : witForm w < 2 ^ 2 := BitVec.isLt _; omega
  rcases hform with h | h
  · simp [State.witSat, h, hfail, imp_iff_not_or, or_assoc]
  · simp [State.witSat, h, hfail]

end

/-- The checks of Table 13-3 in their order, and then satisfaction. -/
theorem witCheck_checks (s : State) (place pd : Nat) (w : W64) (hplace : place < 768) :
    let later := fun (n u v : Nat) => 1 ≤ ((u : Int) - v) % 2 ^ n ∧ ((u : Int) - v) % 2 ^ n < 2 ^ (n - 1)
    let covers := fun (f : FormRec) => f.dom = witDom w ∧
      (if witForm w = 1 then witSeq w ≠ 0 ∧ f.agent = witAgent w ∧ (f.seq % 2 ^ 21 = witSeq w ∨ later 21 (witSeq w) f.seq)
       else ∃ n, s.namesEpoch w n ∧ f.epoch ≤ n)
    let closed := fun (sc : Nat) => ∀ n, s.namesEpoch w n → n < s.closedOf (witDom w) sc
    let check := fun (bad : Prop) (x : WitAns) (rest : Prop) => (bad → s.witCheck place pd w = x) ∧ (¬ bad → rest)
    check (witForm w = 3) (.fault 0x33) <| check (witForm w = 0) .satisfied <|
    check (witScope w = 0 ∨ witScope w = 6 ∨ witScope w = 7 ∨ (witForm w = 2 ∧ witScope w < 4)) (.fault 0x34) <|
    check (witDom w ≠ pd) (.fault 0x32) <|
    check (witForm w = 1 ∧ witAgent w < 768 ∧ ((witScope w = 1 ∧ witAgent w / 4 ≠ place / 4) ∨
      (witScope w = 2 ∧ witAgent w / 16 ≠ place / 16) ∨ (witScope w = 3 ∧ witAgent w / 192 ≠ place / 192))) (.fault 0x31) <|
    check (later 22 (witEpoch w) s.epoch ∨ 2050781 < ((s.epoch : Int) - witEpoch w) % 2 ^ 22) (.fault 0x30) <|
    check (witForm w = 1 ∧ witSeq w ≠ 0 ∧ (s.lastOf (witAgent w) (witDom w) = 0 ∨
      later 21 (witSeq w) (s.lastOf (witAgent w) (witDom w)))) (.fault 0x34) <|
    check (∃ f ∈ s.forms, f.failed = true ∧ covers f) (.fault 0x33) <|
    check (if witForm w = 1 then witSeq w = 0 ∨ closed (max (witScope w) 4) ∨ ∀ f ∈ s.forms, covers f → scopeLevel (witScope w) ≤ f.level
        else closed (witScope w))
      .satisfied (s.witCheck place pd w = .waiting) := by
  intro later covers closed check
  have hscope := witScope_lt w
  have hage : ((s.epochAge (witEpoch w) : Nat) : Int) = ((s.epoch : Int) - witEpoch w) % 2 ^ 22 := sub_in_field 22 _ _
  have hcovers (f : FormRec) : s.covers w f = true ↔ covers f := s.covers_iff w f
  have hclosed (sc : Nat) : s.epochClosed (witDom w) sc (witEpoch w) = true ↔ closed sc := s.epochClosed_iff w _ sc
  refine check_of (f := s.witAnswer w) Iff.rfl rfl (fun _ => rfl) fun h3 hw => check_of Iff.rfl hw (fun h0 => ?_) fun h0 hw =>
    check_of (by omega) hw (fun _ => rfl) fun _ hw => check_of Iff.rfl hw (fun _ => rfl) fun _ hw => check_of ?_ hw (fun _ => rfl) fun _ hw =>
    check_of (or_congr laterIn_iff.symm (by omega)) hw (fun _ => rfl) fun _ hw => check_of ?_ hw (fun _ => rfl) fun _ hw =>
    check_of ?_ hw (fun _ => rfl) fun hgood hw =>
    check_of (f := id) (c := s.witSat w = true) (a := .satisfied) (b := .waiting) (y := s.witCheck place pd w) ?_ hw (fun _ => rfl) fun _ hw => hw
  · simp [State.witAnswer, State.witSat, h0]
  · rw [Bool.not_eq_true', inScope_eq_false_iff hplace]
  · rw [laterIn_iff]
  · rw [s.witFailed_iff w h0 h3]
    simp only [hcovers]
  · have hfail : s.witFailed w = false := by
      rw [← Bool.not_eq_true, s.witFailed_iff w h0 h3]
      simpa only [hcovers] using hgood
    rw [s.witSat_iff w h0 h3 hfail]
    simp only [hcovers, hclosed]

/-- Settles O15: each form by its request, and the checks of Table 13-3. -/
theorem otherMemoryForms : Obligations.OtherMemoryForms := by
  unfold Obligations.OtherMemoryForms
  intro q r xp vr a taken lits B A W good dst
  refine ⟨fun k => ?_, ?_, ?_, ?_, ?_, ?_, ?_, ?_, ?_, ?_⟩
  · refine commits_of (reqWcheck q r) (fun _ => rfl) rfl (by decide) rfl fun e hok => ?_
    subst hok
    exact ⟨⟨rfl, rfl, rfl, .inl rfl, rfl, rfl, rfl, rfl, rfl, rfl⟩, rfl⟩
  · exact commits_of (reqWall q) (fun _ => rfl) rfl (by decide) rfl fun e _ => ⟨⟨rfl, rfl, rfl, .inl rfl, rfl, rfl, rfl, rfl, rfl, rfl⟩, rfl⟩
  · exact commits_m (fun _ => rfl) (fun e hlt => globalCheck_none hlt (Nat.mod_one _)) (fun _ _ => .inl rfl) (fun _ => rfl) fun _ => rfl
  · exact commits_m (fun _ => rfl) (fun e hlt => globalCheck_none hlt (Nat.mod_one _)) (fun _ _ => .inl rfl) (fun _ => rfl)
      fun _ => (List.append_nil _).symm
  · exact commits_of (reqRcfence q r) (fun _ => rfl) rfl (by decide) rfl fun e ⟨hgood, hroom⟩ =>
      ⟨⟨rfl, witInput_none hgood, rfl, .inr hroom, rfl, rfl, rfl, rfl, rfl, rfl⟩, rfl⟩
  · exact commits_m (fun _ => rfl) (fun e ⟨hlt, hal, hgood⟩ => orElseFault_none (globalCheck_none hlt hal) (witInput_none hgood))
      (fun _ _ => .inl rfl) (fun _ => rfl) fun _ => rfl
  · exact commits_m (fun _ => rfl) (fun e ⟨hlt, hal, hgood, _⟩ => orElseFault_none (globalCheck_none hlt hal) (witInput_none hgood))
      (fun _ ⟨_, _, _, hroom⟩ => .inr hroom) (fun _ => rfl) fun _ => (List.append_nil _).symm
  · exact commits_m (fun _ => rfl) (fun _ _ => rfl) (fun _ _ => .inl rfl) (fun _ => rfl) fun _ => (List.append_nil _).symm
  · exact commits_m (fun _ => rfl) (fun e hlt => if_neg (Nat.not_le.mpr hlt)) (fun _ _ => .inl rfl) (fun _ => rfl)
      fun _ => (List.append_nil _).symm
  · intro s place pd w hplace
    have h := witCheck_checks s place pd w hplace
    simp only [State.namesEpoch, witForm_eq_div, witScope_eq_div, witDom_eq_div, witEpoch_eq_div, witAgent_eq_div, witSeq_eq_mod] at h
    exact h

end Sys2Proof.Machine

/-! ## The forms of the V slot -/

namespace Sys2Proof.Machine

/-! ### The element-wise forms on the integer types (08 R215 to R221) -/

/-- Operations that agree on every pair of elements give the same elements. -/
theorem zipWith_congr_of_forall {α β γ : Type} {f g : α → β → γ} {l : List α} {l' : List β} (h : ∀ x ∈ l, ∀ y ∈ l', f x y = g x y) :
    List.zipWith f l l' = List.zipWith g l l' := by
  refine List.ext_getElem (by simp) fun i h1 h2 => ?_
  simp only [List.getElem_zipWith]
  exact h _ (List.getElem_mem _) _ (List.getElem_mem _)

theorem map_fst_zero {α : Type} (l : List α) : (l.map fun r => (r, 0)).map (·.1) = l := by simp [Function.comp_def]
theorem map_snd_zero {α : Type} (l : List α) : (l.map fun r => (r, 0)).map (·.2) = List.replicate l.length 0 := by simp [Function.comp_def]

section
variable {e : Env} {size n field x : Nat}

theorem elems_length : (e.elems size n field).length = n := by simp [Env.elems, lanesOf]
theorem lt_of_mem_elems (h : x ∈ e.elems size n field) : x < 2 ^ (8 * size) := by
  simp only [Env.elems, lanesOf, List.mem_map] at h
  obtain ⟨i, -, rfl⟩ := h
  exact Nat.mod_lt _ (Nat.two_pow_pos _)

end

section
variable {w x y : Nat}

theorem wrapNat_sextNat (hx : x < 2 ^ w) : wrapNat w (sextNat w x) = x := by
  rw [sextNat_of_lt hx, wrapNat]
  split
  · rw [← Int.natCast_mod, Int.toNat_natCast, Nat.mod_eq_of_lt hx]
  · push_cast
    rw [Int.sub_emod_right]
    norm_cast
    exact Nat.mod_eq_of_lt hx

theorem sextNat_modEq (hx : x < 2 ^ w) : sextNat w x % 2 ^ w = (x : Int) % 2 ^ w := by
  rw [sextNat_of_lt hx]
  split
  · rfl
  · rw [Int.sub_emod_right]

theorem onSigned_sub (hx : x < 2 ^ w) (hy : y < 2 ^ w) : onSigned (· - ·) w x y = (x + (2 ^ w - y)) % 2 ^ w := by
  have hwrap : ((x + (2 ^ w - y) : Nat) : Int) % 2 ^ w = ((x : Int) - y) % 2 ^ w := by
    push_cast [Nat.cast_sub hy.le]
    rw [show (x : Int) + (2 ^ w - y) = x - y + 2 ^ w by ring, Int.add_emod_right]
  rw [onSigned, wrapNat]
  push_cast
  rw [Int.sub_emod, sextNat_modEq hx, sextNat_modEq hy, ← Int.sub_emod, ← hwrap]
  norm_cast

theorem onSigned_min (hx : x < 2 ^ w) (hy : y < 2 ^ w) : onSigned min w x y = if sextNat w x ≤ sextNat w y then x else y := by
  rw [onSigned, min_def]
  split
  · exact wrapNat_sextNat hx
  · exact wrapNat_sextNat hy

theorem onSigned_max (hx : x < 2 ^ w) (hy : y < 2 ^ w) : onSigned max w x y = if sextNat w x ≤ sextNat w y then y else x := by
  rw [onSigned, max_def]
  split
  · exact wrapNat_sextNat hy
  · exact wrapNat_sextNat hx

end

section
variable {m : Mask} {ty : BitVec 3} {vd va vb : BitVec 10} {p : BitVec 4}

/-- A form on an integer type reads no format. -/
theorem f8Illegal_int (e : Env) (hty : ty.toNat < 4) : f8Illegal e ty.toNat = false := by
  have h7 : (ty.toNat == 7) = false := beq_false_of_ne (by omega)
  rw [f8Illegal, h7, Bool.false_and]

/-- The elements of an operand of the form's type. -/
def elemsOfType (e : Env) (ty : BitVec 3) (field : BitVec 10) : List Nat := e.elems (vecSize ty.toNat) (256 / vecSize ty.toNat) field.toNat

/-- The governing bits of a form of a type. -/
def predsOfType (e : Env) (ty : BitVec 3) (p : BitVec 4) : List Bool := e.preds (vecSize ty.toNat) (256 / vecSize ty.toNat) p.toNat

/-- A merged integer result posts no event. -/
theorem vecResult_int {e : Env} {lat : Nat} {zs : List Nat} (h : zs.length = 256 / vecSize ty.toNat) :
    vecResult e vd.toNat (vecSize ty.toNat) lat (predsOfType e ty p) (zs.map fun r => (r, 0)) =
      (vecPend vd.toNat lat (lanesFor (vecSize ty.toNat) (predsOfType e ty p)) (vecOf (vecSize ty.toNat) zs)).withEvents e engVector
        (maskedEvents (predsOfType e ty p) (List.replicate (256 / vecSize ty.toNat) 0)) := by
  rw [vecResult, map_fst_zero, map_snd_zero, h]

/-- An element-wise form commits the elements that its operation gives on an integer type. -/
theorem commits_int {i : Instr} {r : SlotReq} {reads : List Nat} {zs zs' : Env → List Nat} (hx : ∀ s, exec i s = issueForm 0 r s)
    (hs : r.slot = .v) (hm : r.mask = m) (hb : r.base = fun _ => none) (hty : ty.toNat < 4)
    (heff : ∀ e, r.eff e = { illegal := f8Illegal e ty.toNat, vreads := reads, energy := 8
                             pends := [vecResult e vd.toNat (vecSize ty.toNat) 2 (predsOfType e ty p) ((zs e).map fun r => (r, 0))] })
    (hzs : ∀ e, zs e = zs' e) (hlen : ∀ e, (zs e).length = 256 / vecSize ty.toNat) :
    Commits i 0 .v (m.getLsbD 0)
      (fun e => [(vecPend vd.toNat 2 (lanesFor (vecSize ty.toNat) (predsOfType e ty p)) (vecOf (vecSize ty.toNat) (zs' e))).withEvents e engVector
        (maskedEvents (predsOfType e ty p) (List.replicate (256 / vecSize ty.toNat) 0))]) (fun _ => 8) (reads := reads) := by
  refine commits_of r hx hs (by decide) hm fun e _ => ?_
  rw [heff, vecResult_int (hlen e), hzs, hb]
  exact ⟨⟨f8Illegal_int e hty, rfl, rfl, .inl rfl, rfl, rfl, rfl, rfl, rfl, rfl⟩, rfl⟩

theorem zipWith_elemsOfType {e : Env} {α : Type} {f g : Nat → Nat → α}
    (h : ∀ x y, x < 2 ^ (8 * vecSize ty.toNat) → y < 2 ^ (8 * vecSize ty.toNat) → f x y = g x y) :
    List.zipWith f (elemsOfType e ty va) (elemsOfType e ty vb) = List.zipWith g (elemsOfType e ty va) (elemsOfType e ty vb) :=
  zipWith_congr_of_forall fun x hx y hy => h x y (lt_of_mem_elems hx) (lt_of_mem_elems hy)
theorem length_zipWith_elemsOfType {e : Env} {α : Type} {f : Nat → Nat → α} :
    (List.zipWith f (elemsOfType e ty va) (elemsOfType e ty vb)).length = 256 / vecSize ty.toNat := by
  rw [List.length_zipWith, elemsOfType, elemsOfType, elems_length, elems_length, Nat.min_self]

section
variable {iop : Nat → Nat → Nat → Nat} {e : Env}

theorem vBin_eff_int {fop : Nat → FVal → FVal → FVal} (hty : ty.toNat < 4) : (vBin m ty vd va vb p iop fop).eff e =
    { illegal := f8Illegal e ty.toNat, vreads := vRead va.toNat ++ vRead vb.toNat, energy := 8
      pends := [vecResult e vd.toNat (vecSize ty.toNat) 2 (predsOfType e ty p)
        ((List.zipWith (iop (8 * vecSize ty.toNat)) (elemsOfType e ty va) (elemsOfType e ty vb)).map fun r => (r, 0))] } := by
  simp only [vBin, hty, if_true, predsOfType, elemsOfType]
theorem vPick_eff_int {fop : FVal → FVal → FVal} (hty : ty.toNat < 4) : (vPick m ty vd va vb p iop fop).eff e =
    { illegal := f8Illegal e ty.toNat, vreads := vRead va.toNat ++ vRead vb.toNat, energy := 8
      pends := [vecResult e vd.toNat (vecSize ty.toNat) 2 (predsOfType e ty p)
        ((List.zipWith (iop (8 * vecSize ty.toNat)) (elemsOfType e ty va) (elemsOfType e ty vb)).map fun r => (r, 0))] } := by
  simp only [vPick, hty, if_true, predsOfType, elemsOfType]
theorem vUn_eff_int {iop : Nat → Nat → Nat} {fop : FVal → FVal} (hty : ty.toNat < 4) : (vUn m ty vd va p iop fop).eff e =
    { illegal := f8Illegal e ty.toNat, vreads := vRead va.toNat, energy := 8
      pends := [vecResult e vd.toNat (vecSize ty.toNat) 2 (predsOfType e ty p)
        (((elemsOfType e ty va).map (iop (8 * vecSize ty.toNat))).map fun r => (r, 0))] } := by
  simp only [vUn, hty, if_true, predsOfType, elemsOfType, List.map_map, Function.comp_def]

end

end

/-- Settles O17: each operation on the elements of its width. -/
theorem vectorIntegers : Obligations.VectorIntegers := by
  unfold Obligations.VectorIntegers
  intro m ty vd va vb p hty size w n sg X Y lanes R2 R1
  have hsg {x : Nat} (hx : x < 2 ^ w) : sextNat w x = sg x := sextNat_of_lt hx
  have bin {i : Instr} {iop fop} {f : Nat → Nat → Nat} (hx : ∀ s, exec i s = issueForm 0 (vBin m ty vd va vb p iop fop) s)
      (hop : ∀ x y, x < 2 ^ w → y < 2 ^ w → iop w x y = f x y) : R2 i f :=
    commits_int hx rfl rfl rfl hty (fun _ => vBin_eff_int hty) (fun _ => zipWith_elemsOfType hop) fun _ => length_zipWith_elemsOfType
  have pick {i : Instr} {iop fop} {f : Nat → Nat → Nat} (hx : ∀ s, exec i s = issueForm 0 (vPick m ty vd va vb p iop fop) s)
      (hop : ∀ x y, x < 2 ^ w → y < 2 ^ w → iop w x y = f x y) : R2 i f :=
    commits_int hx rfl rfl rfl hty (fun _ => vPick_eff_int hty) (fun _ => zipWith_elemsOfType hop) fun _ => length_zipWith_elemsOfType
  have un {i : Instr} {iop fop} {f : Nat → Nat} (hx : ∀ s, exec i s = issueForm 0 (vUn m ty vd va p iop fop) s)
      (hop : ∀ x, x < 2 ^ w → iop w x = f x) : R1 i f :=
    commits_int hx rfl rfl rfl hty (fun _ => vUn_eff_int hty) (fun _ => List.map_congr_left fun x hx => hop x (lt_of_mem_elems hx))
      fun _ => (List.length_map _).trans elems_length
  refine ⟨bin (fun _ => rfl) ?_, bin (fun _ => rfl) ?_, bin (fun _ => rfl) ?_, pick (fun _ => rfl) ?_, pick (fun _ => rfl) ?_,
    bin (fun _ => rfl) ?_, bin (fun _ => rfl) ?_, bin (fun _ => rfl) ?_, bin (fun _ => rfl) ?_, bin (fun _ => rfl) ?_,
    bin (fun _ => rfl) ?_, bin (fun _ => rfl) ?_, bin (fun _ => rfl) ?_, un (fun _ => rfl) ?_, un (fun _ => rfl) ?_⟩
  · exact fun _ _ _ _ => rfl
  · exact fun x y hx hy => onSigned_sub hx hy
  · exact fun _ _ _ _ => rfl
  · exact fun x y hx hy => by rw [onSigned_min hx hy, hsg hx, hsg hy]
  · exact fun x y hx hy => by rw [onSigned_max hx hy, hsg hx, hsg hy]
  · exact fun x y _ _ => min_def x y
  · exact fun x y _ _ => max_def x y
  · exact fun _ _ _ _ => rfl
  · exact fun _ _ _ _ => rfl
  · exact fun _ _ _ _ => rfl
  · exact fun x y _ _ => congrArg (· % 2 ^ w) (Nat.shiftLeft_eq _ _)
  · exact fun x y _ _ => Nat.shiftRight_eq_div_pow _ _
  · exact fun x y hx _ => by rw [wrapNat, hsg hx]; push_cast; rfl
  · exact fun x hx => by rw [wrapNat, hsg hx]; push_cast; rfl
  · exact fun _ _ => rfl

end Sys2Proof.Machine

namespace Sys2Proof.Machine

/-! ### The element-wise forms on the floating types (08 R218, R220, R221) -/

/-- A form that is illegal at issue is the bundle's illegal trap, with its own slot as offender. -/
theorem exec_illegal {i : Instr} {lits : Nat} (r : SlotReq) {s : State} {e : Env} (hx : ∀ s, exec i s = issueForm lits r s)
    (he : s.issuing lits = some e) (ht : r.mask.getLsbD 0 = true) (h : (r.eff e).illegal = true) :
    exec i s = .next (bundleFault e 0x01 0 (maskBit r.slot.bit true)) := by
  rw [hx, issueForm_of_issuing _ he, issueIn_single e r (issuing_mTook he) (.inr ht), if_pos h]

section
variable {m : Mask} {ty : BitVec 3} {vd va vb : BitVec 10} {p : BitVec 4}

theorem f8Illegal_false {e : Env} {t : Nat} (h : t = 7 → fmtNfmt e.c.fmt ≠ 0) : f8Illegal e t = false := by
  simpa [f8Illegal] using h
theorem f8Illegal_true {e : Env} {t : Nat} (h : t = 7) (h0 : fmtNfmt e.c.fmt = 0) : f8Illegal e t = true := by simp [f8Illegal, h, h0]

/-- The decoded elements of an operand of the form's type. -/
def valsOfType (e : Env) (ty : BitVec 3) (field : BitVec 10) : List (FVal × Bool) := e.vals ty.toNat (256 / vecSize ty.toNat) field.toNat

/-- A form of a type commits its results where the type may be used. -/
theorem commits_float {i : Instr} (r : SlotReq) {reads : List Nat} {new : Env → List Pend} {w : Nat} (hx : ∀ s, exec i s = issueForm 0 r s)
    (hs : r.slot = .v) (hm : r.mask = m) (hb : r.base = fun _ => none)
    (heff : ∀ e, r.eff e = { illegal := f8Illegal e ty.toNat, vreads := reads, energy := w, pends := new e }) :
    Commits i 0 .v (m.getLsbD 0) new (fun _ => w) (reads := reads) (ok := fun e => ty.toNat = 7 → fmtNfmt e.c.fmt ≠ 0) := by
  refine commits_of r hx hs (by decide) hm fun e hok => ?_
  rw [heff, hb]
  exact ⟨⟨f8Illegal_false hok, rfl, rfl, .inl rfl, rfl, rfl, rfl, rfl, rfl, rfl⟩, rfl⟩

section
variable {e : Env} (hty : 4 ≤ ty.toNat)
include hty

theorem vBin_eff_float {iop : Nat → Nat → Nat → Nat} {fop : Nat → FVal → FVal → FVal} : (vBin m ty vd va vb p iop fop).eff e =
    { illegal := f8Illegal e ty.toNat, vreads := vRead va.toNat ++ vRead vb.toNat, energy := 16
      pends := [vecResult e vd.toNat (vecSize ty.toNat) 4 (predsOfType e ty p)
        (List.zipWith (fun x y => vecRound e ty.toNat [x, y] (fop (fmtVrnd e.c.fmt) x.1 y.1)) (valsOfType e ty va) (valsOfType e ty vb))] } := by
  have hint : ¬ty.toNat < 4 := by omega
  simp only [vBin, hint, if_false, predsOfType, valsOfType]
theorem vPick_eff_float {iop : Nat → Nat → Nat → Nat} {fop : FVal → FVal → FVal} : (vPick m ty vd va vb p iop fop).eff e =
    { illegal := f8Illegal e ty.toNat, vreads := vRead va.toNat ++ vRead vb.toNat, energy := 16
      pends := [vecResult e vd.toNat (vecSize ty.toNat) 4 (predsOfType e ty p)
        (List.zipWith (fun x y => ((vecFmt e.c.fmt ty.toNat).encode ((fop x.1 y.1).scale (-(vecScale e.c.fmt ty.toNat))),
          cmpEvents x.1 y.1)) (valsOfType e ty va) (valsOfType e ty vb))] } := by
  have hint : ¬ty.toNat < 4 := by omega
  simp only [vPick, hint, if_false, predsOfType, valsOfType]
theorem vUn_eff_float {iop : Nat → Nat → Nat} {fop : FVal → FVal} : (vUn m ty vd va p iop fop).eff e =
    { illegal := f8Illegal e ty.toNat, vreads := vRead va.toNat, energy := 16
      pends := [vecResult e vd.toNat (vecSize ty.toNat) 2 (predsOfType e ty p)
        ((valsOfType e ty va).map fun x => vecRound e ty.toNat [x] (fop x.1))] } := by
  have hint : ¬ty.toNat < 4 := by omega
  simp only [vUn, hint, if_false, predsOfType, valsOfType]

end

end

section
variable {x y : FVal}

/-! The smaller and the larger of two values (R71). -/

theorem min_max_of_nan (h : x.isNan = true ∨ y.isNan = true) : FVal.min x y = .nan ∧ FVal.max x y = .nan := by
  rw [← Bool.or_eq_true] at h
  exact ⟨if_pos h, if_pos h⟩

section
variable (hx : x.isNan = false) (hy : y.isNan = false)
include hx hy

theorem min_max_of_lt (h : FVal.cmp x y = .lt) : FVal.min x y = x ∧ FVal.max x y = y := by simp [FVal.min, FVal.max, hx, hy, h]
theorem min_max_of_gt (h : FVal.cmp x y = .gt) : FVal.min x y = y ∧ FVal.max x y = x := by simp [FVal.min, FVal.max, hx, hy, h]
theorem min_max_of_neg_zero (h : FVal.cmp x y = .eq) (hsx : x.sign = true) (hsy : y.sign = false) : FVal.min x y = x ∧ FVal.max x y = y := by
  simp [FVal.min, FVal.max, hx, hy, h, hsx, hsy]
theorem min_max_of_zero_neg (h : FVal.cmp x y = .eq) (hsx : x.sign = false) (hsy : y.sign = true) : FVal.min x y = y ∧ FVal.max x y = x := by
  simp [FVal.min, FVal.max, hx, hy, h, hsx, hsy]

end

end

/-- Settles O18: each operation's rounded elements, the order of minimum and maximum, and type 7 without a format. -/
theorem vectorFloats : Obligations.VectorFloats := by
  unfold Obligations.VectorFloats
  intro m ty vd va vb p hty size n ok X Y D ps md R2 R1 P2
  have bin {i : Instr} {iop f} (hx : ∀ s, exec i s = issueForm 0 (vBin m ty vd va vb p iop f) s) : R2 i f :=
    commits_float _ hx rfl rfl rfl fun _ => vBin_eff_float hty
  have pick {i : Instr} {iop f} (hx : ∀ s, exec i s = issueForm 0 (vPick m ty vd va vb p iop f) s) : P2 i f :=
    commits_float _ hx rfl rfl rfl fun _ => vPick_eff_float hty
  have un {i : Instr} {iop f} (hx : ∀ s, exec i s = issueForm 0 (vUn m ty vd va p iop f) s) : R1 i f :=
    commits_float _ hx rfl rfl rfl fun _ => vUn_eff_float hty
  refine ⟨bin fun _ => rfl, bin fun _ => rfl, ?_, pick fun _ => rfl, pick fun _ => rfl, fun x y => ⟨min_max_of_nan, fun hx hy =>
    ⟨min_max_of_lt hx hy, min_max_of_gt hx hy, min_max_of_neg_zero hx hy, min_max_of_zero_neg hx hy⟩⟩, un fun _ => rfl, un fun _ => rfl, ?_, ?_⟩
  · exact commits_float (reqVmul m ty vd va vb p) (fun _ => rfl) rfl rfl rfl fun _ => vBin_eff_float hty
  · exact commits_float (reqVfma m ty vd va vb p) (fun _ => rfl) rfl rfl rfl fun _ => rfl
  · intro s e he ht h7 h0 i hi
    have hill := f8Illegal_true h7 h0
    simp only [List.mem_cons, List.not_mem_nil, or_false] at hi
    rcases hi with rfl | rfl | rfl | rfl | rfl | rfl | rfl | rfl
    · exact exec_illegal (reqVadd m ty vd va vb p) (fun _ => rfl) he ht hill
    · exact exec_illegal (reqVsub m ty vd va vb p) (fun _ => rfl) he ht hill
    · exact exec_illegal (reqVmul m ty vd va vb p) (fun _ => rfl) he ht hill
    · exact exec_illegal (reqVmin m ty vd va vb p) (fun _ => rfl) he ht hill
    · exact exec_illegal (reqVmax m ty vd va vb p) (fun _ => rfl) he ht hill
    · exact exec_illegal (reqVabs m ty vd va p) (fun _ => rfl) he ht hill
    · exact exec_illegal (reqVneg m ty vd va p) (fun _ => rfl) he ht hill
    · exact exec_illegal (reqVfma m ty vd va vb p) (fun _ => rfl) he ht hill

end Sys2Proof.Machine

namespace Sys2Proof.Machine

/-! ### Compares and `VANY` (08 R222, R223) -/

section
variable {m : Mask} {ty : BitVec 3} {pd : BitVec 4} {qd : BitVec 5} {va vb : BitVec 10} {p : BitVec 4}

/-- The merged result of a compare with its events. -/
def cmpResult (e : Env) (ty : BitVec 3) (pd p : BitVec 4) (lat : Nat) (l : List (Bool × Nat)) : Pend :=
  ({ reg := .p pd.toNat, left := lat, val := (lanesFor (vecSize ty.toNat) (l.map (·.1))).zeroExtend 2048
     lanes := lanesFor (vecSize ty.toNat) (predsOfType e ty p) } : Pend).withEvents e engVector
    (maskedEvents (predsOfType e ty p) (l.map (·.2)))

section
variable {e : Env} {iop : Nat → Nat → Nat → Bool} {fop : FVal → FVal → Bool}

theorem vCmp_eff_int (hty : ty.toNat < 4) : (vCmp m ty pd va vb p iop fop).eff e =
    { illegal := f8Illegal e ty.toNat, vreads := vRead va.toNat ++ vRead vb.toNat, energy := 8
      pends := [cmpResult e ty pd p 2
        ((List.zipWith (iop (8 * vecSize ty.toNat)) (elemsOfType e ty va) (elemsOfType e ty vb)).map fun r => (r, 0))] } := by
  simp only [vCmp, hty, if_true, cmpResult, predsOfType, elemsOfType]
theorem vCmp_eff_float (hty : 4 ≤ ty.toNat) : (vCmp m ty pd va vb p iop fop).eff e =
    { illegal := f8Illegal e ty.toNat, vreads := vRead va.toNat ++ vRead vb.toNat, energy := 16
      pends := [cmpResult e ty pd p 4 (List.zipWith (fun x y => (fop x.1 y.1, cmpEvents x.1 y.1 ||| flushEv [x, y]))
        (valsOfType e ty va) (valsOfType e ty vb))] } := by
  have hint : ¬ty.toNat < 4 := by omega
  simp only [vCmp, hint, if_false, cmpResult, predsOfType, valsOfType]

end

/-- A compare on an integer type, its operation given on elements of the width. -/
theorem vCmp_commits_int {i : Instr} {iop : Nat → Nat → Nat → Bool} {fop : FVal → FVal → Bool} {f : Nat → Nat → Bool}
    (hx : ∀ s, exec i s = issueForm 0 (vCmp m ty pd va vb p iop fop) s) (hty : ty.toNat < 4)
    (hop : ∀ x y, x < 2 ^ (8 * vecSize ty.toNat) → y < 2 ^ (8 * vecSize ty.toNat) → iop (8 * vecSize ty.toNat) x y = f x y) :
    Commits i 0 .v (m.getLsbD 0)
      (fun e => [cmpResult e ty pd p 2 (List.zipWith (fun x y => (f x y, 0)) (elemsOfType e ty va) (elemsOfType e ty vb))])
      (fun _ => 8) (reads := vRead va.toNat ++ vRead vb.toNat) := by
  refine commits_of _ hx rfl (by decide) rfl fun e _ => ?_
  rw [vCmp_eff_int hty, zipWith_elemsOfType hop, List.map_zipWith]
  exact ⟨⟨f8Illegal_int e hty, rfl, rfl, .inl rfl, rfl, rfl, rfl, rfl, rfl, rfl⟩, rfl⟩

/-- Some packed element has a bit set when one that the predicate governs has. -/
theorem any_packElems_iff (ps : List Bool) (l : List Nat) : (packElems ps l).any (· != 0) = true ↔
    ∃ (k x : Nat), ps[k]? = some true ∧ l[k]? = some x ∧ x ≠ 0 := by
  simp only [packElems, List.any_filterMap, List.any_eq_true, List.mem_iff_getElem?, List.getElem?_zip_eq_some]
  constructor
  · rintro ⟨⟨b, x⟩, ⟨k, hb, hx⟩, h⟩
    cases b with
    | false => cases h
    | true => exact ⟨k, x, hb, hx, by simpa using h⟩
  · rintro ⟨k, x, hb, hx, h⟩
    exact ⟨(true, x), ⟨k, hb, hx⟩, by simpa using h⟩

end

/-- Settles O19: the compares on the integer and the floating types, `VANY`, and type 7 without a format. -/
theorem vectorCompares : Obligations.VectorCompares := by
  unfold Obligations.VectorCompares
  intro m ty pd qd va vb p size w n sg ps put ints floats
  have hsg {x : Nat} (hx : x < 2 ^ w) : sextNat w x = sg x := sextNat_of_lt hx
  refine ⟨fun hty => ⟨?_, ?_, ?_, ?_⟩, fun hty => ⟨?_, ?_, ?_⟩, fun b => ?_, fun s e he ht h7 h0 i hi => ?_⟩
  · exact vCmp_commits_int (fun _ => rfl) hty fun x y _ _ => Bool.beq_eq_decide_eq x y
  · exact vCmp_commits_int (fun _ => rfl) hty fun x y hx hy => by rw [hsg hx, hsg hy]
  · exact vCmp_commits_int (fun _ => rfl) hty fun x y hx hy => by rw [hsg hx, hsg hy]
  · exact vCmp_commits_int (fun _ => rfl) hty fun _ _ _ _ => rfl
  · exact commits_float (reqVceq m ty pd va vb p) (fun _ => rfl) rfl rfl rfl fun _ => vCmp_eff_float hty
  · exact commits_float (reqVclt m ty pd va vb p) (fun _ => rfl) rfl rfl rfl fun _ => vCmp_eff_float hty
  · exact commits_float (reqVcle m ty pd va vb p) (fun _ => rfl) rfl rfl rfl fun _ => vCmp_eff_float hty
  · refine commits_of (reqVany m ty qd va p) (fun _ => rfl) rfl (by decide) rfl fun e hok => ?_
    have hany : (packElems (ps e) (e.elems size n va.toNat)).any (· != 0) = b := by
      rw [Bool.eq_iff_iff, any_packElems_iff, hok]
    subst hany
    exact ⟨⟨rfl, rfl, rfl, .inl rfl, rfl, rfl, rfl, rfl, rfl, rfl⟩, rfl⟩
  · have hill := f8Illegal_true h7 h0
    simp only [List.mem_cons, List.not_mem_nil, or_false] at hi
    rcases hi with rfl | rfl | rfl
    · exact exec_illegal (reqVceq m ty pd va vb p) (fun _ => rfl) he ht hill
    · exact exec_illegal (reqVclt m ty pd va vb p) (fun _ => rfl) he ht hill
    · exact exec_illegal (reqVcle m ty pd va vb p) (fun _ => rfl) he ht hill

end Sys2Proof.Machine

namespace Sys2Proof.Machine

/-! ### The tree of a reduction (04 R95) -/

section
variable {α : Type}

/-- One node of the tree: an absent operand gives the other. -/
def treeNode (op : α → α → α) : Option α → Option α → Option α
  | none, y => y
  | some x, none => some x
  | some x, some y => some (op x y)

/-- What is left of a list of operands when they are taken in order. -/
def foldPresent (op : α → α → α) (l : List (Option α)) : Option α := l.foldl (treeNode op) none

section
variable {op : α → α → α}

@[simp] theorem treeNode_none_left (y : Option α) : treeNode op none y = y := rfl
@[simp] theorem treeNode_none_right (x : Option α) : treeNode op x none = x := by cases x <;> rfl

theorem treeLevel_pair (a b : Option α) (r : List (Option α)) : treeLevel op (a :: b :: r) = treeNode op a b :: treeLevel op r := by
  cases a <;> cases b <;> rfl

theorem treeLevel_length (l : List (Option α)) : (treeLevel op l).length = (l.length + 1) / 2 := by
  induction l using List.twoStepInduction with
  | nil => simp [treeLevel]
  | singleton a => simp [treeLevel]
  | cons_cons a b r ih _ =>
    rw [treeLevel_pair, List.length_cons, ih, List.length_cons, List.length_cons]
    omega

theorem treeRoot_none {n : Nat} {l : List (Option α)} (h : ∀ x ∈ l, x = none) : treeRoot op n l = none := by
  have hlevel (l : List (Option α)) (h : ∀ x ∈ l, x = none) : ∀ x ∈ treeLevel op l, x = none := by
    induction l using List.twoStepInduction with
    | nil => exact nofun
    | singleton a => exact h
    | cons_cons a b r ih _ =>
      obtain ⟨rfl, rfl, hr⟩ := by simpa using h
      rw [treeLevel_pair]
      simpa using ih hr
  induction n generalizing l with
  | zero =>
    cases l with
    | nil => rfl
    | cons a r => rw [h a (by simp)]; rfl
  | succ n ih => exact ih (hlevel l h)

section
variable (hassoc : ∀ a b c, op (op a b) c = op a (op b c))
include hassoc

theorem treeNode_assoc (a b c : Option α) : treeNode op (treeNode op a b) c = treeNode op a (treeNode op b c) := by
  cases a <;> cases b <;> cases c <;> simp [treeNode, hassoc]

theorem foldl_treeLevel (l : List (Option α)) (x : Option α) : (treeLevel op l).foldl (treeNode op) x = l.foldl (treeNode op) x := by
  induction l using List.twoStepInduction generalizing x with
  | nil => rfl
  | singleton a => rfl
  | cons_cons a b r ih _ => rw [treeLevel_pair, List.foldl_cons, ih, List.foldl_cons, List.foldl_cons, treeNode_assoc hassoc]

/-- An associative operation gives over the tree what it gives in order. -/
theorem treeRoot_eq_foldPresent {n : Nat} {l : List (Option α)} (hl : l.length ≤ 2 ^ n) : treeRoot op n l = foldPresent op l := by
  induction n generalizing l with
  | zero =>
    match l with
    | [] => rfl
    | [none] => rfl
    | [some a] => rfl
    | a :: b :: r => simp at hl
  | succ n ih =>
    have hlen : (treeLevel op l).length ≤ 2 ^ n := by
      rw [treeLevel_length]
      omega
    rw [treeRoot, ih hlen, foldPresent, foldl_treeLevel hassoc, foldPresent]

end

theorem foldl_some (l : List (Option α)) (x : α) : l.foldl (treeNode op) (some x) = some (l.reduceOption.foldl op x) := by
  induction l generalizing x with
  | nil => rfl
  | cons a r ih =>
    cases a with
    | none => rw [List.foldl_cons, treeNode_none_right, ih, List.reduceOption_cons_of_none]
    | some y => exact ih (op x y)

theorem foldPresent_eq (l : List (Option α)) : foldPresent op l = l.reduceOption.head?.map fun x => l.reduceOption.tail.foldl op x := by
  induction l with
  | nil => rfl
  | cons a r ih =>
    cases a with
    | none => rw [List.reduceOption_cons_of_none, ← ih]; rfl
    | some x => exact foldl_some r x

end

end

section
variable {ps : List Bool} {us : List Nat}

/-- The operands of a reduction that are there: the governed elements. -/
theorem reduceOption_governed (ps : List Bool) (us : List Nat) :
    (List.zipWith (fun q u => if q then some u else none) ps us).reduceOption = packElems ps us := by
  rw [packElems, List.reduceOption, ← List.map_uncurry_zip_eq_zipWith, List.filterMap_map]
  rfl

theorem forall_governed_none {α β : Type} {f : α → β} {us : List α} (h : true ∉ ps) :
    ∀ x ∈ List.zipWith (fun q u => if q then some (f u) else none) ps us, x = none := by
  induction ps generalizing us with
  | nil => simp
  | cons q ps ih =>
    cases us with
    | nil => simp
    | cons u us =>
      obtain ⟨hq, hps⟩ := by simpa using h
      subst hq
      simpa using ih hps

end

/-- A sum modulo 2^w, reduced at each step. -/
theorem foldl_add_mod {M : Nat} (l : List Nat) (x : Nat) (hx : x < M) : l.foldl (fun a b => (a + b) % M) x = (x + l.sum) % M := by
  induction l generalizing x with
  | nil => simp [Nat.mod_eq_of_lt hx]
  | cons y l ih => rw [List.foldl_cons, ih _ (Nat.mod_lt _ (by omega)), List.sum_cons, Nat.mod_add_mod, Nat.add_assoc]

theorem add_mod_assoc (M a b c : Nat) : ((a + b) % M + c) % M = (a + (b + c) % M) % M := by
  rw [Nat.mod_add_mod, Nat.add_mod_mod, Nat.add_assoc]

theorem wrapNat_sextNat_mod (w a : Nat) : wrapNat w (sextNat w a) = a % 2 ^ w := by
  have hmod : sextNat w a = sextNat w (a % 2 ^ w) := by simp only [sextNat, Nat.mod_mod]
  rw [hmod, wrapNat_sextNat (Nat.mod_lt _ (Nat.two_pow_pos w))]

theorem onSigned_max_assoc (w a b c : Nat) : onSigned max w (onSigned max w a b) c = onSigned max w a (onSigned max w b c) := by
  have hround (x : Nat) : sextNat w (wrapNat w (sextNat w x)) = sextNat w x := by
    rw [wrapNat_sextNat_mod]
    simp only [sextNat, Nat.mod_mod]
  have hmax (x y : Nat) : sextNat w (wrapNat w (max (sextNat w x) (sextNat w y))) = max (sextNat w x) (sextNat w y) := by
    rcases max_choice (sextNat w x) (sextNat w y) with h | h <;> rw [h, hround]
  simp only [onSigned, hmax, max_assoc]

theorem foldl_onSigned_max {w : Nat} {sg : Nat → Int} (hsg : ∀ x, x < 2 ^ w → sextNat w x = sg x) (l : List Nat) (x : Nat) (hx : x < 2 ^ w)
    (hl : ∀ y ∈ l, y < 2 ^ w) : l.foldl (onSigned max w) x = l.foldl (fun y z => if sg y ≤ sg z then z else y) x := by
  induction l generalizing x with
  | nil => rfl
  | cons y l ih =>
    have hy : y < 2 ^ w := hl y (by simp)
    rw [List.foldl_cons, List.foldl_cons, onSigned_max hx hy, hsg x hx, hsg y hy]
    exact ih _ (by split <;> assumption) fun z hz => hl z (by simp [hz])

end Sys2Proof.Machine

namespace Sys2Proof.Machine

/-! ### The log-number path (03 R80, 04 R96 to R99) -/

section
variable {u v : Nat}

theorem lnIsNan_iff : lnIsNan u = true ↔ u / 2 ^ 30 % 2 = 1 ∧ u % 2 ^ 30 ≠ 0 := by
  simp [lnIsNan, Nat.shiftRight_eq_div_pow]
theorem lnIsZero_iff : lnIsZero u = true ↔ u / 2 ^ 30 % 2 = 1 ∧ u % 2 ^ 30 = 0 := by
  simp [lnIsZero, Nat.shiftRight_eq_div_pow]

/-- The sign bit of a log-number word. -/
theorem lnSign_eq (hu : u < 2 ^ 32) : (u / 2 ^ 31 % 2 == 1) = decide (2 ^ 31 ≤ u) := by
  rw [Bool.beq_eq_decide_eq, decide_eq_decide]
  omega

/-- The log of a log-number word. -/
theorem sextNat_log (u : Nat) : sextNat 30 u = if u % 2 ^ 30 < 2 ^ 29 then ((u % 2 ^ 30 : Nat) : Int) else ((u % 2 ^ 30 : Nat) : Int) - 2 ^ 30 := rfl

theorem lnWord_eq (s : Bool) (l : Int) : lnWord s l = (if s then 2 ^ 31 else 0) + (l % 2 ^ 30).toNat := rfl

end

theorem log2_mul_two_pow {k : Nat} (hk : k ≠ 0) (a : Nat) : Nat.log2 (k * 2 ^ a) = Nat.log2 k + a := by
  simp only [Nat.log2_eq_log_two]
  induction a with
  | zero => simp
  | succ a ih => rw [Nat.pow_succ, ← Nat.mul_assoc, Nat.log_mul_base Nat.one_lt_two (by positivity), ih, Nat.add_assoc]

/-- The log of a magnitude that is 2^23 + j at some exponent (04 R97). -/
theorem vlogL_eq {k j a b : Nat} (x : Int) (hj : j < 2 ^ 23) (h : k * 2 ^ a = (2 ^ 23 + j) * 2 ^ b) :
    vlogL k x = (x + b - a + 23) * 2 ^ 21 + interp tableTL (j / 2 ^ 15) (j % 2 ^ 15) 15 := by
  have hk : k ≠ 0 := by
    rintro rfl
    have : 0 < (2 ^ 23 + j) * 2 ^ b := by positivity
    omega
  have hlog : Nat.log2 k + a = 23 + b := by
    have hj2 : Nat.log2 (2 ^ 23 + j) = 23 := by
      rw [Nat.log2_eq_log_two]
      exact Nat.log_eq_of_pow_le_of_lt_pow (by omega) (by omega)
    rw [← log2_mul_two_pow hk, h, log2_mul_two_pow (by omega), hj2]
  have hmant : shiftNat k (x - floorLog2 k x + 23) = 2 ^ 23 + j := by
    have hexp : x - floorLog2 k x + 23 = (a : Int) - b := by rw [floorLog2]; omega
    rw [hexp, shiftNat, pow2, pow2]
    rcases le_or_gt b a with hba | hab
    · rw [if_pos (by omega), show ((a : Int) - b).toNat = a - b by omega]
      refine Nat.eq_of_mul_eq_mul_right (Nat.two_pow_pos b) ?_
      rw [Nat.mul_assoc, ← Nat.pow_add, Nat.sub_add_cancel hba, h]
    · rw [if_neg (by omega), show (-((a : Int) - b)).toNat = b - a by omega]
      refine Nat.div_eq_of_eq_mul_left (Nat.two_pow_pos _) (Nat.eq_of_mul_eq_mul_right (Nat.two_pow_pos a) ?_)
      rw [Nat.mul_assoc, ← Nat.pow_add, Nat.sub_add_cancel hab.le, h]
  have hE : floorLog2 k x = x + b - a + 23 := by rw [floorLog2]; omega
  simp only [vlogL, hmant, Nat.add_sub_cancel_left]
  rw [hE]

theorem vlog_fin {k j a b : Nat} (sg : Bool) (x : Int) (hj : j < 2 ^ 23) (h : k * 2 ^ a = (2 ^ 23 + j) * 2 ^ b) :
    vlog (.fin sg k x) = (lnWord sg ((x + b - a + 23) * 2 ^ 21 + interp tableTL (j / 2 ^ 15) (j % 2 ^ 15) 15), 0) := by
  have hk : k ≠ 0 := by
    rintro rfl
    have : 0 < (2 ^ 23 + j) * 2 ^ b := by positivity
    omega
  rw [vlog, if_neg hk, vlogL_eq x hj h]

/-- The exact value of a log (04 R98). -/
theorem expValue_eq (s : Bool) (l : Int) : expValue s l =
    .fin s (2 ^ 23 + (interp tableTE ((l % 2 ^ 21).toNat / 2 ^ 13) ((l % 2 ^ 21).toNat % 2 ^ 13) 13).toNat) (l / 2 ^ 21 - 23) := by
  have hj : l - l / 2 ^ 21 * 2 ^ 21 = l % 2 ^ 21 := by omega
  simp only [expValue, hj]

section
variable {u : Nat} (F : NFmt) (x : Int) (md : Nat) (sat : Bool)

theorem vexp_nan (h : lnIsNan u = true) : vexp u F x md sat = (F.encode .nan, ev 1) := by rw [vexp, if_pos h]
theorem vexp_zero (hu : u < 2 ^ 32) (h : lnIsZero u = true) : vexp u F x md sat = F.finish x md sat [] (.fin (decide (2 ^ 31 ≤ u)) 0 0) := by
  have hnan : ¬lnIsNan u = true := by rw [lnIsNan_iff]; rw [lnIsZero_iff] at h; omega
  rw [vexp, if_neg hnan, if_pos h, Nat.shiftRight_eq_div_pow, lnSign_eq hu]
theorem vexp_value (hu : u < 2 ^ 32) (hn : ¬lnIsNan u = true) (hz : ¬lnIsZero u = true) :
    vexp u F x md sat = F.finish x md sat [] (expValue (decide (2 ^ 31 ≤ u)) (sextNat 30 u)) := by
  rw [vexp, if_neg hn, if_neg hz, Nat.shiftRight_eq_div_pow, lnSign_eq hu]

end

/-- A zero rounds to the zero of its format. -/
theorem finish_of_zero (F : NFmt) (x : Int) (md : Nat) (sat sg : Bool) (hint : F.isInt = false) :
    F.finish x md sat [] (.fin sg 0 0) = (if F.b8 then 0 else if sg then 2 ^ (F.w + F.mb) else 0, 0) := by
  cases hb : F.b8 <;> simp [NFmt.finish, FVal.scale, NFmt.round, NFmt.encode, opEvents, hint, hb]

section
variable {u v : Nat}

/-! The sum of two log-number words (04 R99). -/

theorem vlnadd_nan (h : lnIsNan u = true ∨ lnIsNan v = true) : vlnadd u v = (0x7FFF_FFFF, ev 1) := by
  rw [← Bool.or_eq_true] at h
  rw [vlnadd, if_pos h]; rfl

section
variable (hu : ¬lnIsNan u = true) (hv : ¬lnIsNan v = true)
include hu hv

theorem vlnadd_zero_left (h : lnIsZero u = true) : vlnadd u v = (if lnIsZero v = true then 0x4000_0000 else v, 0) := by
  simp only [vlnadd, hu, hv, h, Bool.or_self, Bool.false_eq_true, if_false, if_true]; rfl
theorem vlnadd_zero_right (h : ¬lnIsZero u = true) (h' : lnIsZero v = true) : vlnadd u v = (u, 0) := by
  simp only [vlnadd, hu, hv, h, h', Bool.or_self, Bool.false_eq_true, if_false, if_true]

end

end

/-- The sum of two words that are neither zero nor NaN: the larger log and its sign, the distance of the logs, and whether
the signs agree. -/
def lnSum (same s : Bool) (la : Int) (d : Nat) : Nat × Nat :=
  let l := la + (if 2 ^ 26 ≤ d then 0 else interp (if same = true then tableTGP else tableTGM) (d / 2 ^ 18) (d % 2 ^ 18) 18)
  if same = false ∧ d = 0 then (0x4000_0000, 0)
  else if 2 ^ 29 - 1 < l then (lnWord s (2 ^ 29 - 1), ev 10)
  else if l < -(2 ^ 29) then (0x4000_0000, ev 10)
  else (lnWord s l, 0)

theorem vlnadd_value {u v : Nat} (hu : u < 2 ^ 32) (hv : v < 2 ^ 32) (hun : ¬lnIsNan u = true) (hvn : ¬lnIsNan v = true)
    (huz : ¬lnIsZero u = true) (hvz : ¬lnIsZero v = true) :
    vlnadd u v = lnSum (decide (2 ^ 31 ≤ u) == decide (2 ^ 31 ≤ v))
      (decide (2 ^ 31 ≤ if sextNat 30 u < sextNat 30 v then v else u))
      (sextNat 30 (if sextNat 30 u < sextNat 30 v then v else u)) (sextNat 30 u - sextNat 30 v).natAbs := by
  have hsu := lnSign_eq hu
  have hsv := lnSign_eq hv
  by_cases hswap : sextNat 30 u < sextNat 30 v
  · have hd : (sextNat 30 v - sextNat 30 u).toNat = (sextNat 30 u - sextNat 30 v).natAbs := by omega
    have hsame : (decide (2 ^ 31 ≤ v) == decide (2 ^ 31 ≤ u)) = (decide (2 ^ 31 ≤ u) == decide (2 ^ 31 ≤ v)) := Bool.beq_comm
    simp only [vlnadd, hun, hvn, huz, hvz, hswap, hsu, hsv, hd, Bool.or_self, Bool.false_eq_true, if_false, if_true, decide_true, bne, hsame,
      lnSum, lnZero, Bool.and_eq_true, Bool.not_eq_true', beq_iff_eq, gt_iff_lt, ge_iff_le]
  · have hd : (sextNat 30 u - sextNat 30 v).toNat = (sextNat 30 u - sextNat 30 v).natAbs := by omega
    simp only [vlnadd, hun, hvn, huz, hvz, hswap, hsu, hsv, hd, Bool.or_self, Bool.false_eq_true, if_false, decide_false, bne,
      lnSum, lnZero, Bool.and_eq_true, Bool.not_eq_true', beq_iff_eq, gt_iff_lt, ge_iff_le]

end Sys2Proof.Machine

namespace Sys2Proof.Machine

/-! ### Selection, moves, conversions and reductions (08 R224 to R230) -/

theorem packElems_eq (ps : List Bool) (l : List Nat) : packElems ps l = ((ps.zip l).filter (·.1)).map (·.2) := by
  rw [packElems]
  induction ps.zip l with
  | nil => rfl
  | cons x r ih => obtain ⟨b, u⟩ := x; cases b <;> simp_all

theorem length_filter_id (ps : List Bool) : (ps.filter id).length = ps.count true := by
  rw [List.count, List.countP_eq_length_filter]
  congr 2
  funext b
  cases b <;> rfl

/-- A form commits when its request asks no more than its results. -/
theorem commits_v {i : Instr} {m : Mask} (r : SlotReq) {reads : List Nat} {new : Env → List Pend} {w : Nat} {ok : Env → Prop}
    (hx : ∀ s, exec i s = issueForm 0 r s) (hs : r.slot = .v) (hm : r.mask = m) (hb : r.base = fun _ => none)
    (heff : ∀ e, ok e → r.eff e = { vreads := reads, energy := w, pends := new e }) :
    Commits i 0 .v (m.getLsbD 0) new (fun _ => w) (reads := reads) (ok := ok) := by
  refine commits_of r hx hs (by decide) hm fun e hok => ?_
  rw [heff e hok, hb]
  exact ⟨⟨rfl, rfl, rfl, .inl rfl, rfl, rfl, rfl, rfl, rfl, rfl⟩, rfl⟩

section
variable {m : Mask} {ty : BitVec 3} {vd va : BitVec 10} {p : BitVec 4} {e : Env} {iop : Nat → Nat → Nat → Nat}
  {node : Env → Nat → RNode → RNode → RNode} {ident : Env → Nat → Nat}

/-- The operands of a reduction on a floating type, with the events of reading them. -/
def redOperands (e : Env) (ty : BitVec 3) (va : BitVec 10) (p : BitVec 4) : List (Option RNode) :=
  List.zipWith (fun q (u : FVal × Bool) => if q then some (u.1, [(if u.1.isNan then ev 1 else 0) ||| flushEv [u]]) else none)
    (predsOfType e ty p) (valsOfType e ty va)

/-- The one element that a reduction leaves, with its events. -/
def redResult (e : Env) (ty : BitVec 3) (vd : BitVec 10) (r : Nat × List Nat) : Pend :=
  (vecPend vd.toNat 8 (BitVec.allOnes 256) (vecOf (vecSize ty.toNat) [r.1])).withEvents e engVector r.2

theorem elems_fit_tree (hty : ty.toNat < 4) : 256 / vecSize ty.toNat ≤ 2 ^ treeLevels (vecSize ty.toNat) := by
  revert ty
  decide

theorem vRed_eff_int (hty : ty.toNat < 4) (hassoc : ∀ w a b c, iop w (iop w a b) c = iop w a (iop w b c)) :
    (vRed m ty vd va p iop node ident).eff e =
      { vreads := vRead va.toNat, energy := 16
        pends := [redResult e ty vd (((packElems (predsOfType e ty p) (elemsOfType e ty va)).head?.map fun x =>
          (packElems (predsOfType e ty p) (elemsOfType e ty va)).tail.foldl (iop (8 * vecSize ty.toNat)) x).getD (ident e ty.toNat), [])] } := by
  have hlen : (List.zipWith (fun q u => if q = true then some u else none) (predsOfType e ty p) (elemsOfType e ty va)).length ≤
      2 ^ treeLevels (vecSize ty.toNat) := by
    refine le_trans ?_ (elems_fit_tree hty)
    rw [List.length_zipWith, elemsOfType, elems_length]
    exact Nat.min_le_right _ _
  have hroot := treeRoot_eq_foldPresent (hassoc (8 * vecSize ty.toNat)) hlen
  rw [foldPresent_eq, reduceOption_governed] at hroot
  simp only [vRed, hty, if_true, f8Illegal_int e hty]
  rw [← hroot]
  rfl

theorem vRed_eff_some (hty : 4 ≤ ty.toNat) (hok : ty.toNat = 7 → fmtNfmt e.c.fmt ≠ 0) {x : RNode}
    (h : treeRoot (node e ty.toNat) (treeLevels (vecSize ty.toNat)) (redOperands e ty va p) = some x) :
    (vRed m ty vd va p iop node ident).eff e =
      { vreads := vRead va.toNat, energy := 16
        pends := [redResult e ty vd ((vecFmt e.c.fmt ty.toNat).encode (x.1.scale (-(vecScale e.c.fmt ty.toNat))), x.2)] } := by
  have hint : ¬ty.toNat < 4 := by omega
  unfold redOperands predsOfType valsOfType at h
  simp only [vRed, hint, if_false, f8Illegal_false hok, h]
  rfl

theorem vRed_eff_none (hty : 4 ≤ ty.toNat) (hok : ty.toNat = 7 → fmtNfmt e.c.fmt ≠ 0) (h : true ∉ predsOfType e ty p) :
    (vRed m ty vd va p iop node ident).eff e =
      { vreads := vRead va.toNat, energy := 16, pends := [redResult e ty vd (ident e ty.toNat, [])] } := by
  have hint : ¬ty.toNat < 4 := by omega
  have hroot : treeRoot (node e ty.toNat) (treeLevels (vecSize ty.toNat)) (redOperands e ty va p) = none :=
    treeRoot_none (forall_governed_none h)
  unfold redOperands predsOfType valsOfType at hroot
  simp only [vRed, hint, if_false, f8Illegal_false hok, hroot]
  rfl

/-- The elements that a predicate governs fit the width. -/
theorem lt_of_mem_packElems {x : Nat} (h : x ∈ packElems (predsOfType e ty p) (elemsOfType e ty va)) : x < 2 ^ (8 * vecSize ty.toNat) := by
  rw [packElems_eq, List.mem_map] at h
  obtain ⟨⟨b, u⟩, hu, rfl⟩ := h
  exact lt_of_mem_elems (List.of_mem_zip (List.mem_filter.mp hu).1).2

theorem maxIdent_int (hty : ty.toNat < 4) : maxIdent e ty.toNat = 2 ^ (8 * vecSize ty.toNat - 1) := if_pos hty
theorem maxIdent_float (hty : 4 ≤ ty.toNat) : maxIdent e ty.toNat =
    if ty = 7 then (if (fmtNfmt e.c.fmt).getLsbD 4 then 0 else 0xFF) else (vecFmt e.c.fmt ty.toNat).encode (.inf true) := by
  have hint : ¬ty.toNat < 4 := by omega
  have h7 : ty.toNat = 7 ↔ ty = 7 := by rw [BitVec.toNat_eq]; rfl
  rw [maxIdent, if_neg hint]
  simp only [h7]

end

/-- The largest of a list of elements, as signed numbers. -/
theorem foldl_max_top {w : Nat} {sg : Nat → Int} (hsg : ∀ x, x < 2 ^ w → sextNat w x = sg x) {l : List Nat} (hl : ∀ x ∈ l, x < 2 ^ w) (d : Nat) :
    (l.head?.map fun x => l.tail.foldl (onSigned max w) x).getD d =
      match (generalizing := false) l with
      | [] => d
      | x :: r => r.foldl (fun y z => if sg y ≤ sg z then z else y) x := by
  cases l with
  | nil => rfl
  | cons x r => exact foldl_onSigned_max hsg r x (hl x (by simp)) fun y hy => hl y (by simp [hy])

theorem foldl_sum {M : Nat} {l : List Nat} (hl : ∀ x ∈ l, x < M) :
    (l.head?.map fun x => l.tail.foldl (fun a b => (a + b) % M) x).getD 0 = l.sum % M := by
  cases l with
  | nil => simp
  | cons x r => exact foldl_add_mod r x (hl x (by simp))

theorem sumNode_eq {e : Env} {ty : Nat} {x y : RNode} (hx : x.1.isNan = false) (hy : y.1.isNan = false) :
    let r := (vecFmt e.c.fmt ty).round (fmtVrnd e.c.fmt) (vecSat e.c.fmt ty)
      ((FVal.add (fmtVrnd e.c.fmt) x.1 y.1).scale (-(vecScale e.c.fmt ty)))
    sumNode e ty x y = (r.val.scale (vecScale e.c.fmt ty), x.2 ++ y.2 ++ [opEvents [x.1, y.1] r]) := by
  simp only [sumNode, hx, hy, Bool.or_self, Bool.false_eq_true, if_false]

/-! A sum of two words that are neither zero nor NaN. -/
section
variable {same s : Bool} {la : Int} {d : Nat}

/-- The log of the sum before it is clamped. -/
def lnSumLog (same : Bool) (la : Int) (d : Nat) : Int :=
  la + (if 2 ^ 26 ≤ d then 0 else interp (if same = true then tableTGP else tableTGM) (d / 2 ^ 18) (d % 2 ^ 18) 18)

theorem lnSum_cancel (hs : same = false) (hd : d = 0) : lnSum same s la d = (0x4000_0000, 0) := if_pos ⟨hs, hd⟩

section
variable (h : ¬(same = false ∧ d = 0))
include h

theorem lnSum_over (hl : 2 ^ 29 - 1 < lnSumLog same la d) : lnSum same s la d = (lnWord s (2 ^ 29 - 1), ev 10) :=
  (if_neg h).trans (if_pos hl)
theorem lnSum_under (hl : lnSumLog same la d < -(2 ^ 29)) : lnSum same s la d = (0x4000_0000, ev 10) :=
  (if_neg h).trans ((if_neg (by unfold lnSumLog at hl; omega)).trans (if_pos hl))
theorem lnSum_in (hl : -(2 ^ 29) ≤ lnSumLog same la d) (hl' : lnSumLog same la d ≤ 2 ^ 29 - 1) :
    lnSum same s la d = (lnWord s (lnSumLog same la d), 0) :=
  (if_neg h).trans ((if_neg (Int.not_lt.mpr hl')).trans (if_neg (Int.not_lt.mpr hl)))

end

end

/-- Settles O20: the moves, the conversions, the reductions over their tree, and the log-number path. -/
theorem vectorOthers : Obligations.VectorOthers := by
  unfold Obligations.VectorOthers
  intro m ty st vd va vb sc p size n ps A ok7 R
  refine ⟨?_, ?_, ?_, ?_, ?_, ?_, fun hty => ?_, fun hty x => ?_, fun hty x => ?_, fun hty => ?_, fun hty => ⟨?_, ?_⟩, fun hty => ?_,
    fun hty => ?_, fun hty => ?_, fun s e he ht h0 => ⟨fun h7 i hi => ?_, fun h7 => ?_⟩, fun e x y hx hy => ⟨sumNode_eq hx hy, rfl⟩,
    fun sg k j a b x hj h => ⟨rfl, rfl, rfl, vlog_fin sg x hj h⟩, fun u v hu hv => ?_⟩
  · exact commits_v (reqVsel m ty vd va vb p) (fun _ => rfl) rfl rfl rfl fun _ _ => rfl
  · exact commits_v (reqVmov m ty vd va p) (fun _ => rfl) rfl rfl rfl fun _ _ => rfl
  · exact commits_v (reqVsplat m ty vd va vb p) (fun _ => rfl) rfl rfl rfl fun _ _ => rfl
  · refine commits_v (reqVcmpr m ty vd va sc p) (fun _ => rfl) rfl rfl rfl fun e _ => ?_
    simp only [reqVcmpr, packElems_eq, List.length_map]
    rfl
  · refine commits_v (reqVexpd m ty vd va sc p) (fun _ => rfl) rfl rfl rfl fun e _ => ?_
    simp only [reqVexpd, length_filter_id]
    rfl
  · refine commits_v (reqVcvt m ty vd va st p) (fun _ => rfl) rfl rfl rfl fun e ⟨hs, hd⟩ => ?_
    simp only [reqVcvt, f8Illegal_false hs, f8Illegal_false hd, Bool.or_self]
    rfl
  · refine commits_v (reqVrsum m ty vd va p) (fun _ => rfl) rfl rfl rfl fun e _ => ?_
    rw [reqVrsum, vRed_eff_int hty fun w => add_mod_assoc (2 ^ w), foldl_sum fun x => lt_of_mem_packElems]
    rfl
  · exact commits_v (reqVrsum m ty vd va p) (fun _ => rfl) rfl rfl rfl fun e ⟨hok, hroot⟩ => vRed_eff_some hty hok hroot
  · exact commits_v (reqVrmax m ty vd va p) (fun _ => rfl) rfl rfl rfl fun e ⟨hok, hroot⟩ => vRed_eff_some hty hok hroot
  · refine commits_v (reqVrmax m ty vd va p) (fun _ => rfl) rfl rfl rfl fun e _ => ?_
    rw [reqVrmax, vRed_eff_int hty onSigned_max_assoc, maxIdent_int hty, foldl_max_top (fun x => sextNat_of_lt) fun x => lt_of_mem_packElems]
    rfl
  · exact commits_v (reqVrsum m ty vd va p) (fun _ => rfl) rfl rfl rfl fun e ⟨hok, hnone⟩ => vRed_eff_none hty hok hnone
  · refine commits_v (reqVrmax m ty vd va p) (fun _ => rfl) rfl rfl rfl fun e ⟨hok, hnone⟩ => ?_
    rw [reqVrmax, vRed_eff_none hty hok hnone, maxIdent_float hty]
    rfl
  · exact commits_float (reqVlog m ty vd va p) (fun _ => rfl) rfl rfl rfl fun _ => rfl
  · exact commits_float (reqVexp m ty vd va p) (fun _ => rfl) rfl rfl rfl fun _ => rfl
  · subst hty
    exact commits_v (reqVlnadd m 2 vd va vb p) (fun _ => rfl) rfl rfl rfl fun _ _ => rfl
  · have hill := f8Illegal_true h7 h0
    simp only [List.mem_cons, List.not_mem_nil, or_false] at hi
    rcases hi with rfl | rfl | rfl | rfl | rfl
    · exact exec_illegal (reqVcvt m ty vd va st p) (fun _ => rfl) he ht (Bool.or_eq_true_iff.mpr (.inr hill))
    · exact exec_illegal (reqVrsum m ty vd va p) (fun _ => rfl) he ht hill
    · exact exec_illegal (reqVrmax m ty vd va p) (fun _ => rfl) he ht hill
    · exact exec_illegal (reqVlog m ty vd va p) (fun _ => rfl) he ht hill
    · exact exec_illegal (reqVexp m ty vd va p) (fun _ => rfl) he ht hill
  · exact exec_illegal (reqVcvt m ty vd va st p) (fun _ => rfl) he ht (Bool.or_eq_true_iff.mpr (.inl (f8Illegal_true h7 h0)))
  · intro zero nan L neg word top d l
    have hnan (w : Nat) : nan w ↔ lnIsNan w = true := lnIsNan_iff.symm
    have hzero (w : Nat) : zero w ↔ lnIsZero w = true := lnIsZero_iff.symm
    refine ⟨fun h => ?_, fun hun hvn => ⟨fun huz hvz => ?_, fun huz hvz => ?_, fun huz hvz => ?_, fun huz hvz => ?_⟩,
      fun F x md sat => ⟨fun h => ?_, fun h => ?_, fun hn hz => ?_⟩, fun x md sat sg => ⟨?_, ?_, ?_, fun c => ?_⟩⟩
    · exact vlnadd_nan (by simpa only [hnan] using h)
    · rw [hnan] at hun hvn; rw [hzero] at huz hvz
      rw [vlnadd_zero_left hun hvn huz, if_pos hvz]
    · rw [hnan] at hun hvn; rw [hzero] at huz hvz
      rw [vlnadd_zero_left hun hvn huz, if_neg hvz]
    · rw [hnan] at hun hvn; rw [hzero] at huz hvz
      exact vlnadd_zero_right hun hvn huz hvz
    · rw [hnan] at hun hvn; rw [hzero] at huz hvz
      have hsum : vlnadd u v = lnSum (neg u == neg v) (neg top) (L top) d := vlnadd_value hu hv hun hvn huz hvz
      rw [hsum]
      refine ⟨fun hne hd => lnSum_cancel (by simpa using hne) hd, fun h => ⟨fun hl => ?_, fun hl => ?_, fun hl hl' => ?_⟩⟩
      all_goals have hne : ¬((neg u == neg v) = false ∧ d = 0) := by simpa [or_iff_not_imp_left] using h
      all_goals have hlog : lnSumLog (neg u == neg v) (L top) d = l := by simp only [lnSumLog, beq_iff_eq]; rfl
      · exact lnSum_over hne (hlog ▸ hl)
      · exact lnSum_under hne (hlog ▸ hl)
      · rw [lnSum_in hne (hlog ▸ hl) (hlog ▸ hl'), hlog]
        rfl
    · exact vexp_nan F x md sat ((hnan u).mp h)
    · exact vexp_zero F x md sat hu ((hzero u).mp h)
    · rw [hnan] at hn; rw [hzero] at hz
      rw [vexp_value F x md sat hu hn hz, expValue_eq]
      rfl
    · exact finish_of_zero NFmt.f32 x md sat sg rfl
    · exact finish_of_zero NFmt.f16 x md sat sg rfl
    · exact finish_of_zero NFmt.bf16 x md sat sg rfl
    · exact finish_of_zero (NFmt.ofB8 c) x md sat sg rfl

end Sys2Proof.Machine

/-! ## The forms of the X slot (08 R231 to R233) -/

namespace Sys2Proof.Machine

theorem lanesNat_lt (s : Nat) (l : List Nat) : lanesNat s l < 2 ^ (8 * s * l.length) := by
  induction l with
  | nil => simp [lanesNat]
  | cons x r ih =>
    have hx : x % 2 ^ (8 * s) < 2 ^ (8 * s) := Nat.mod_lt _ (Nat.two_pow_pos _)
    calc lanesNat s (x :: r) < 2 ^ (8 * s) * (lanesNat s r + 1) := by rw [lanesNat, Nat.mul_add]; omega
      _ ≤ 2 ^ (8 * s) * 2 ^ (8 * s * r.length) := Nat.mul_le_mul_left _ ih
      _ = 2 ^ (8 * s * (x :: r).length) := by rw [← Nat.pow_add, List.length_cons, Nat.mul_succ, Nat.add_comm]

/-- Element i of the value of a list of elements. -/
theorem lanesNat_element (s i : Nat) (l : List Nat) : lanesNat s l / 2 ^ (8 * s * i) % 2 ^ (8 * s) = l.getD i 0 % 2 ^ (8 * s) := by
  induction l generalizing i with
  | nil => simp [lanesNat]
  | cons x r ih =>
    cases i with
    | zero => simp [lanesNat]
    | succ i =>
      have hx : x % 2 ^ (8 * s) < 2 ^ (8 * s) := Nat.mod_lt _ (Nat.two_pow_pos _)
      have hdiv : lanesNat s (x :: r) / 2 ^ (8 * s) = lanesNat s r := by
        rw [lanesNat, Nat.add_mul_div_left _ _ (Nat.two_pow_pos _), Nat.div_eq_of_lt hx, Nat.zero_add]
      rw [Nat.mul_succ, Nat.add_comm, Nat.pow_add, ← Nat.div_div_eq_div_mul, hdiv, ih, List.getD_cons_succ]

theorem lane_eq_div (v : Vec) (i s : Nat) : lane v i s = v.toNat / 2 ^ (8 * s * i) % 2 ^ (8 * s) := by rw [lane, Nat.shiftRight_eq_div_pow]

/-- An element of a register made of a list of elements. -/
theorem lane_vecOf {s i : Nat} {l : List Nat} (h : s * l.length ≤ 256) : lane (vecOf s l) i s = l.getD i 0 % 2 ^ (8 * s) := by
  have hlt : lanesNat s l < 2 ^ 2048 :=
    lt_of_lt_of_le (lanesNat_lt s l) (Nat.pow_le_pow_right (by decide) (by rw [Nat.mul_assoc]; omega))
  rw [lane_eq_div, vecOf, BitVec.toNat_ofNat, Nat.mod_eq_of_lt hlt, lanesNat_element]

/-- A crossbar move: element i of the result is the source element that it names. -/
theorem lane_moved {s i : Nat} (v : Vec) (src : Nat → Nat) (hi : i < 256 / s) :
    lane (vecOf s ((List.range (256 / s)).map fun i => lane v (src i) s)) i s = lane v (src i) s := by
  have hlen : s * ((List.range (256 / s)).map fun i => lane v (src i) s).length ≤ 256 := by
    rw [List.length_map, List.length_range]
    exact Nat.mul_div_le 256 s
  have hget : ((List.range (256 / s)).map fun i => lane v (src i) s).getD i 0 = lane v (src i) s := by
    simp [List.getD_eq_getElem?_getD, hi]
  rw [lane_vecOf hlen, hget, lane_eq_div, Nat.mod_mod]

/-- Two moves that undo each other keep every element. -/
theorem lane_moved_back {s i : Nat} (v : Vec) (there back : Nat → Nat) (hi : i < 256 / s) (hb : back i < 256 / s) (h : there (back i) = i) :
    lane (vecOf s ((List.range (256 / s)).map fun i =>
      lane (vecOf s ((List.range (256 / s)).map fun i => lane v (there i) s)) (back i) s)) i s = lane v i s := by
  rw [lane_moved _ back hi, lane_moved v there hb, h]

/-- The elements of a register are in pairs. -/
theorem elements_even (sz : BitVec 2) : ∃ k, 256 / 2 ^ sz.toNat = 2 * k := by
  have hcases : sz.toNat = 0 ∨ sz.toNat = 1 ∨ sz.toNat = 2 ∨ sz.toNat = 3 := by have := sz.isLt; omega
  rcases hcases with h | h | h | h <;> rw [h]
  exacts [⟨128, rfl⟩, ⟨64, rfl⟩, ⟨32, rfl⟩, ⟨16, rfl⟩]

/-- A crossbar form without a check of its own commits its one result. -/
theorem commits_x {i : Instr} {m : Mask} (r : SlotReq) {reads : List Nat} {new : Env → List Pend} (hx : ∀ s, exec i s = issueForm 0 r s)
    (hs : r.slot = .x) (hm : r.mask = m) (hb : r.base = fun _ => none) (heff : ∀ e, r.eff e = { vreads := reads, energy := 8, pends := new e }) :
    Commits i 0 .x (m.getLsbD 0) new (fun _ => 8) (reads := reads) := by
  refine commits_of r hx hs (by decide) hm fun e _ => ?_
  rw [heff e, hb]
  exact ⟨⟨rfl, rfl, rfl, .inl rfl, rfl, rfl, rfl, rfl, rfl, rfl⟩, rfl⟩

/-- Settles O21: each form's move, the pattern's check, and the moves that undo each other. -/
theorem crossbarForms : Obligations.CrossbarForms := by
  unfold Obligations.CrossbarForms
  constructor
  · intro m vd va k sz
    refine ⟨?_, ?_, ?_, ?_, ?_, ?_, ?_, ?_⟩
    · exact commits_x (reqXrev m vd va sz) (fun _ => rfl) rfl rfl rfl fun _ => rfl
    · exact commits_x (reqXzip m vd va sz) (fun _ => rfl) rfl rfl rfl fun _ => rfl
    · exact commits_x (reqXunzip m vd va sz) (fun _ => rfl) rfl rfl rfl fun _ => rfl
    · exact commits_x (reqXbcast m vd va k sz) (fun _ => rfl) rfl rfl rfl fun _ => rfl
    · exact commits_x (reqXslide m vd va k sz) (fun _ => rfl) rfl rfl rfl fun _ => rfl
    · exact commits_x (reqXtrn m vd va k sz) (fun _ => rfl) rfl rfl rfl fun _ => rfl
    · exact commits_of (reqXperm m vd va k sz) (fun _ => rfl) rfl (by decide) rfl fun e hok =>
        ⟨⟨rfl, if_pos hok, rfl, .inl rfl, rfl, rfl, rfl, rfl, rfl, rfl⟩, rfl⟩
    · exact traps_of (reqXperm m vd va k sz) (fun _ => rfl) rfl .inr fun e hok =>
        ⟨rfl, if_neg (by rw [hok]; decide), rfl, rfl, rfl⟩
  · intro sz v i s n move rev zip unzip hi
    obtain ⟨k, hk⟩ : ∃ k, n = 2 * k := elements_even sz
    refine ⟨?_, ?_, ?_⟩
    · exact lane_moved_back v (fun i => n - 1 - i) (fun i => n - 1 - i) hi (by omega) (by omega)
    · refine lane_moved_back v (fun i => if i % 2 = 0 then i / 2 else n / 2 + i / 2) (fun i => if i < n / 2 then 2 * i else 2 * (i - n / 2) + 1) hi ?_ ?_
      · split <;> omega
      · split <;> split <;> omega
    · refine lane_moved_back v (fun i => if i < n / 2 then 2 * i else 2 * (i - n / 2) + 1) (fun i => if i % 2 = 0 then i / 2 else n / 2 + i / 2) hi ?_ ?_
      · split <;> omega
      · split <;> split <;> omega

end Sys2Proof.Machine

/-! ## The forms of the T slot -/

namespace Sys2Proof.Machine

/-! ### The checks of a tile form at issue (09 R236, R254) -/

@[simp] theorem firstFault_nil : firstFault [] = none := rfl
@[simp] theorem firstFault_none_cons (l : List (Option TFault)) : firstFault (none :: l) = firstFault l := rfl
@[simp] theorem firstFault_some_cons (f : TFault) (l : List (Option TFault)) : firstFault (some f :: l) = some f := rfl

theorem require_holds {ok : Bool} {f : TFault} (h : ok = true) : require ok f = none := if_pos h
theorem require_fails {ok : Bool} {f : TFault} (h : ok = false) : require ok f = some f := if_neg (by rw [h]; decide)

/-- The bits above a shape word are clear. -/
theorem shape_high_iff (w : W64) : w.extractLsb' 30 34 = 0 ↔ w.toNat < 2 ^ 30 := by
  have h := extract_ne_zero_iff w 30 34
  have := w.isLt
  rw [← not_iff_not]
  refine h.trans ?_
  omega

section
variable {w : W64}

theorem wordFmt_none (h : tileFmtOk (shapeEntry w).fmt = true) : wordFmt w = none := require_holds h
theorem wordFmt_some (h : tileFmtOk (shapeEntry w).fmt = false) : wordFmt w = some (fmtFault 0x20) := require_fails h
theorem wordShape_none (hlt : w.toNat < 2 ^ 30) (hrow : (shapeEntry w).rowBytes ≤ 512) : wordShape w = none := by
  refine require_holds ?_
  rw [(shape_high_iff w).mpr hlt, decide_eq_true hrow]
  rfl
theorem wordShape_some (h : 2 ^ 30 ≤ w.toNat) : wordShape w = some (shapeFault 0x20) := by
  refine require_fails ?_
  have hne : ¬w.extractLsb' 30 34 = 0 := by rw [shape_high_iff]; omega
  rw [beq_false_of_ne hne, Bool.false_and]

end

theorem scaleOk_iff (k : Int) : scaleOk k = true ↔ -128 ≤ k ∧ k ≤ 127 := by simp [scaleOk]

/-- A tile form issues when its plan has no fault of its own and is, its faults apart, the one named. -/
theorem tileCommits_plan {i : Instr} {m : Mask} {sp n w : Nat} {ok : TIn → Prop} {p : TIn → TPlan} (plan : TIn → TPlan)
    (hx : ∀ s, exec i s = issueForm 0 (tReq m i sp n w plan) s) (h : ∀ t : TIn, t.replay = false → ok t → plan t = p t)
    (hp : ∀ t, (p t).fault = none ∧ (p t).late = none ∧ (p t).hold = false) : TileCommits i m sp n w ok p := by
  refine tileCommits_of plan hx fun t hr hok _ => ⟨?_, (hp t).2.2⟩
  obtain ⟨hf, hl, -⟩ := hp t
  rw [h t hr hok]
  generalize p t = x at hf hl
  obtain ⟨⟩ := x
  simp only at hf hl
  rw [hf, hl]

/-- A tile form whose plan holds, or whose tile finds no room, past its other checks. -/
theorem exec_tile_hold {i : Instr} {m : Mask} {sp n w : Nat} {plan : TIn → TPlan} {s : State} {e : Env} {new : List Pend}
    (hx : ∀ s, exec i s = issueForm 0 (tReq m i sp n w plan) s) (he : s.issuing 0 = some e) (ht : m.getLsbD 0 = true)
    (hpends : ((tReq m i sp n w plan).eff e).pends = new) (hr : e.room .t [] new = true)
    (hhold : (plan (e.tin sp n w)).hold = true ∨
      (tileFault (e.tin sp n w) ((plan (e.tin sp n w)).numbered e.c.nextTile) = none ∧
        (plan (e.tin sp n w)).made.all (fun b => e.c.roomFor b.length) = false))
    (hon : (plan (e.tin sp n w)).onHold = id) :
    exec i s = .next (e.s.onCtx e.a fun c => { c with held := true }) := by
  subst hpends
  have hheld : ((tReq m i sp n w plan).eff e).hold = true := by
    rcases hhold with h | ⟨-, h⟩ <;> simp [tReq, tEff, h]
  have hfault : ((tReq m i sp n w plan).eff e).fault = none := by
    rcases hhold with h | ⟨h, -⟩
    · simp [tReq, tEff, h]
    · have h' : tileFault (e.tin sp n w) ((plan (e.tin sp n w)).numbered (e.tin sp n w).c.nextTile) = none := h
      simp [tReq, tEff, h']
  have honHold : ((tReq m i sp n w plan).eff e).onHold = id := hon
  have hroom : e.room (tReq m i sp n w plan).slot ((tReq m i sp n w plan).eff e).vreads
      (((tReq m i sp n w plan).base e).toList ++ ((tReq m i sp n w plan).eff e).pends) = true := by
    rw [show ((tReq m i sp n w plan).base e).toList = [] from rfl, List.nil_append]
    exact hr
  rw [hx, issueForm_of_issuing _ he, issueIn_hold e _ (issuing_mTook he) (.inr ht) rfl rfl hroom hfault hheld, honHold]
  rfl

/-- Settles O22: each form by its plan, and `TZERO` held for room. -/
theorem tileReferences : Obligations.TileReferences := by
  unfold Obligations.TileReferences
  intro m n d k sp sd pl top move word wordOk
  have hword {t : TIn} (h : wordOk t) : firstFault [wordFmt (t.par 0), wordShape (t.par 0)] = none := by
    obtain ⟨hf, hlt, hrow⟩ := h
    rw [wordFmt_none hf, wordShape_none hlt hrow]
    rfl
  refine ⟨?_, ?_, ?_, ?_, ?_, ?_, fun s e he ht hr => ?_, ?_, ?_, ?_, ?_, ?_⟩
  · exact tileCommits_plan planTdup (fun _ => rfl) (fun _ _ _ => rfl) fun _ => ⟨rfl, rfl, rfl⟩
  · exact tileCommits_plan (planTdrop n) (fun _ => rfl) (fun _ _ _ => rfl) fun _ => ⟨rfl, rfl, rfl⟩
  · exact tileCommits_plan planTswap (fun _ => rfl) (fun _ _ _ => rfl) fun _ => ⟨rfl, rfl, rfl⟩
  · exact tileCommits_plan (planTpick d) (fun _ => rfl) (fun _ _ _ => rfl) fun _ => ⟨rfl, rfl, rfl⟩
  · exact tileCommits_plan (planTrot n) (fun _ => rfl) (fun _ _ _ => rfl) fun _ => ⟨rfl, rfl, rfl⟩
  · refine tileCommits_plan planTzero (fun _ => rfl) (fun t _ hok => ?_) fun _ => ⟨rfl, rfl, rfl⟩
    rw [planTzero, hword hok]
  · intro t hok hwin hlen hspill hroom
    refine exec_tile_hold (plan := planTzero) (fun _ => rfl) he ht (new := []) rfl hr (.inr ⟨?_, ?_⟩) rfl
    · exact tileFault_none (Nat.zero_le _) hlen (hword hok) hspill nofun rfl
    · have hmade : (planTzero t).made = some (List.replicate (word t).bytes 0) := rfl
      rw [hmade, Option.all_some, List.length_replicate]
      exact hroom
  · refine tileCommits_plan (planTinfo sd d) (fun _ => rfl) (fun t hr _ => ?_) fun _ => ⟨rfl, rfl, rfl⟩
    rw [planTinfo, hr]
    rfl
  · refine tileCommits_plan planTshape (fun _ => rfl) (fun t _ ⟨hok, hbytes⟩ => ?_) fun _ => ⟨rfl, rfl, rfl⟩
    obtain ⟨hf, hlt, hrow⟩ := hok
    have hsame : require (({ shapeEntry (t.par 0) with tile := (t.at 0).tile } : Entry).bytes == (t.at 0).bytes) (shapeFault 0x20) = none :=
      require_holds (beq_iff_eq.mpr hbytes)
    simp only [planTshape, wordFmt_none hf, wordShape_none hlt hrow, hsame]
    rfl
  · refine tileCommits_plan (planTscale k) (fun _ => rfl) (fun t _ hok => ?_) fun _ => ⟨rfl, rfl, rfl⟩
    simp only [planTscale, require_holds ((scaleOk_iff _).mpr hok)]
    rfl
  · refine tileCommits_plan (planMwl pl) (fun _ => rfl) (fun t _ ⟨hf, hcols⟩ => ?_) fun _ => ⟨rfl, rfl, rfl⟩
    simp only [planMwl, require_holds hf, require_holds (decide_eq_true hcols)]
    rfl
  · exact tileCommits_plan (planMwrel pl) (fun _ => rfl) (fun _ _ _ => rfl) fun _ => ⟨rfl, rfl, rfl⟩

end Sys2Proof.Machine

namespace Sys2Proof.Machine

/-! ### The vector-tile engines and the transpose engine (09 R266 to R271) -/

section
variable {x y : Entry}

theorem tileInt_iff (f : BitVec 6) : tileInt f = true ↔ f.toNat ≤ 3 := decide_eq_true_iff
theorem sameFmt_iff : sameFmt x y = true ↔ x.fmt = y.fmt := beq_iff_eq
theorem sameShape_iff : sameShape x y = true ↔ x.rows = y.rows ∧ x.cols = y.cols := by simp [sameShape]
theorem sameScale_iff : sameScale x y = true ↔ (y.fmt.toNat ≤ 3 → x.scale = y.scale) := by
  simp [sameScale, tileInt, imp_iff_not_or]

end

theorem tileInt_false {f : BitVec 6} (h : ¬f.toNat ≤ 3) : tileInt f = false := decide_eq_false h

section
variable {t : TIn} {n : Nat} {r : Entry}

/-- The plan of a form of a vector-tile engine past its own checks. -/
theorem vtPlan_none {faults : List (Option TFault)} (h : firstFault faults = none) : vtPlan t n faults r =
    { need := n, pops := n, binds := t.c.stack.take n, out := [r], fresh := some (r.rows * r.cols * tileSize r.fmt)
      energy := 16 * ((r.rows * r.cols * tileSize r.fmt + 255) / 256) } := by
  rw [vtPlan, h]
  rfl

/-- The checks of a binary form pass when its operands agree and its scale is in range. -/
theorem binPlan_faults_none {scale : Int} (hf : (t.at 0).fmt = (t.at 1).fmt) (hr : (t.at 0).rows = (t.at 1).rows)
    (hc : (t.at 0).cols = (t.at 1).cols) (hs : (t.at 1).fmt.toNat ≤ 3 → (t.at 0).scale = (t.at 1).scale) (hk : -128 ≤ scale ∧ scale ≤ 127) :
    firstFault [match2 t sameFmt fmtFault, match2 t sameScale fmtFault, require (scaleOk scale) (fmtFault 0x21),
      match2 t sameShape shapeFault] = none := by
  rw [match2, match2, match2, require_holds (sameFmt_iff.mpr hf), require_holds (sameScale_iff.mpr hs), require_holds ((scaleOk_iff _).mpr hk),
    require_holds (sameShape_iff.mpr ⟨hr, hc⟩)]
  rfl

end

/-- Settles O23: each form by its plan past its checks. -/
theorem tileOperations : Obligations.TileOperations := by
  unfold Obligations.TileOperations
  intro m k f8 f int R alike bin sums
  have hbin (i : Instr) (hx : ∀ s, exec i s = issueForm 0 (tReq m i 0 0 0 (binPlan false)) s) : bin i := by
    refine tileCommits_plan (binPlan false) hx (fun t _ ⟨⟨hf, hr, hc⟩, hs, hk⟩ => ?_) fun _ => ⟨rfl, rfl, rfl⟩
    exact vtPlan_none (binPlan_faults_none hf hr hc hs hk)
  refine ⟨hbin _ fun _ => rfl, hbin _ fun _ => rfl, hbin _ fun _ => rfl, hbin _ fun _ => rfl, ?_, ?_, ?_, ?_, ?_, ?_, ?_⟩
  · refine tileCommits_plan planTmul (fun _ => rfl) (fun t _ ⟨⟨hf, hr, hc⟩, hs, hk⟩ => ?_) fun _ => ⟨rfl, rfl, rfl⟩
    have hscale : (if (true && tileInt (t.at 1).fmt) = true then (t.at 1).scale + (t.at 0).scale else (t.at 1).scale) =
        if int (t.at 1) then (t.at 1).scale + (t.at 0).scale else (t.at 1).scale := by
      simp only [Bool.true_and, tileInt_iff]
      rfl
    simp only [planTmul, binPlan, hscale]
    exact vtPlan_none (binPlan_faults_none hf hr hc hs hk)
  · refine tileCommits_plan planTfma (fun _ => rfl) (fun t _ ⟨⟨hf0, hs0⟩, ⟨hf1, hs1⟩, hint⟩ => vtPlan_none ?_) fun _ => ⟨rfl, rfl, rfl⟩
    rw [require_holds (sameFmt_iff.mpr hf0), require_holds (sameFmt_iff.mpr hf1), require_holds (sameShape_iff.mpr hs0),
      require_holds (sameShape_iff.mpr hs1), tileInt_false hint]
    rfl
  · refine tileCommits_plan (planTcvt k f) (fun _ => rfl) (fun t _ ⟨hf, hc⟩ => vtPlan_none ?_) fun _ => ⟨rfl, rfl, rfl⟩
    have hrow : (⟨0, (t.at 0).rows, (t.at 0).cols, f, k.toInt⟩ : Entry).rowBytes ≤ 512 := hc
    rw [require_holds hf, require_holds (decide_eq_true hrow)]
    rfl
  · refine tileCommits_plan planTact (fun _ => rfl) (fun t _ hint => vtPlan_none ?_) fun _ => ⟨rfl, rfl, rfl⟩
    rw [tileInt_false hint]
    rfl
  · refine tileCommits_plan planTrsum (fun _ => rfl) (fun t _ _ => ?_) fun _ => ⟨rfl, rfl, rfl⟩
    simp only [planTrsum, tileInt_iff]
    exact vtPlan_none rfl
  · refine tileCommits_plan planTcsum (fun _ => rfl) (fun t _ hc => ?_) fun _ => ⟨rfl, rfl, rfl⟩
    simp only [planTcsum, tileInt_iff, require_holds (decide_eq_true hc)]
    exact vtPlan_none rfl
  · refine tileCommits_plan planTxp (fun _ => rfl) (fun t _ hc => vtPlan_none ?_) fun _ => ⟨rfl, rfl, rfl⟩
    rw [require_holds (decide_eq_true hc)]
    rfl

end Sys2Proof.Machine

namespace Sys2Proof.Machine

/-! ### The trestle forms (09 R263 to R265) -/

theorem epiBias_iff (ep : BitVec 8) : epiBias ep = true ↔ ep.toNat % 16 = 2 ∨ ep.toNat % 16 = 3 := by simp [epiBias, epiOp]

/-- A streamed tile of one of the two formats of 8-bit integers. -/
theorem fmt_le_one_iff (f : BitVec 6) : (f == 0 || f == 1) = true ↔ f.toNat ≤ 1 := by
  revert f
  decide

section
variable {fwd acc : Bool} {ep : BitVec 8} {pl : Bool} {w : Entry} {t : TIn}

/-- The streamed operand may be multiplied with the plane's tile. -/
def streamOk (t : TIn) (w : Entry) : Prop := (t.at 0).fmt = w.fmt ∨ (w.fmt.toNat ≤ 3 ∧ (t.at 0).fmt.toNat ≤ 1)

theorem streamOk_iff : ((t.at 0).fmt == w.fmt || (tileInt w.fmt && ((t.at 0).fmt == 0 || (t.at 0).fmt == 1))) = true ↔ streamOk t w := by
  rw [Bool.or_eq_true, Bool.and_eq_true, beq_iff_eq, tileInt_iff, fmt_le_one_iff, streamOk]

/-- A popped accumulator or bias of a format and scale: those of the sums on integers, FP32 else. -/
theorem addend_iff {b : Entry} {f : BitVec 6} {k : Int} :
    (if tileInt w.fmt = true then b.fmt == f && b.scale == k else b.fmt == 6) = true ↔
      if w.fmt.toNat ≤ 3 then b.fmt = f ∧ b.scale = k else b.fmt = 6 := by
  by_cases h : w.fmt.toNat ≤ 3 <;> simp [tileInt, h]

theorem epilogue_ok_iff : (!(tileInt w.fmt && epiOut ep != 0)) = true ↔ ¬(w.fmt.toNat ≤ 3 ∧ ep.toNat / 16 ≠ 0) := by
  simp [tileInt, epiOut, imp_iff_not_or]

theorem sumScale_eq (x w : Entry) : sumScale x w = if w.fmt.toNat ≤ 3 then x.scale + w.scale else 0 := by simp only [sumScale, tileInt_iff]
theorem sumFmt_eq (w : Entry) (f : W64) : sumFmt w f = if w.fmt.toNat ≤ 3 then intoutFmt f else 6 := by simp only [sumFmt, tileInt_iff]

/-- A check that is asked for only where a flag is set. -/
theorem require_flag {flag ok : Bool} {f : TFault} (h : flag = true → ok = true) : require (!flag || ok) f = none :=
  require_holds (by cases flag <;> simp_all)

end

/-- The result of a trestle form before its tile has a number. -/
def trestleResult (ep : BitVec 8) (t : TIn) (w : Entry) (cols : Nat) : Entry :=
  ⟨0, (t.at 0).rows, cols, if ep.toNat / 16 = 1 then 5 else if ep.toNat / 16 = 2 then 4 else sumFmt w t.fmt,
    if ep.toNat / 16 = 0 then sumScale (t.at 0) w else 0⟩

/-- The number of entries that a trestle form pops. -/
def trestlePops (acc : Bool) (ep : BitVec 8) : Nat := 1 + (if acc then 1 else 0) + (if epiBias ep then 1 else 0)

/-- The plan of a trestle form past its own checks. -/
theorem trestlePlan_none {fwd acc : Bool} {ep : BitVec 8} {pl : Bool} {w : Entry} {t : TIn}
    (hw : (if pl then t.c.plane1 else t.c.plane0) = some w) (hstream : streamOk t w) (hdepth : (t.at 0).cols = if fwd then w.rows else w.cols)
    (hacc : acc = true → (if w.fmt.toNat ≤ 3 then (t.at 1).fmt = 3 ∧ (t.at 1).scale = sumScale (t.at 0) w else (t.at 1).fmt = 6) ∧
      (t.at 1).rows = (t.at 0).rows ∧ (t.at 1).cols = if fwd then w.cols else w.rows)
    (hbias : epiBias ep = true → (if w.fmt.toNat ≤ 3 then (t.at (trestlePops acc ep - 1)).fmt = sumFmt w t.fmt ∧
        (t.at (trestlePops acc ep - 1)).scale = sumScale (t.at 0) w else (t.at (trestlePops acc ep - 1)).fmt = 6) ∧
      (t.at (trestlePops acc ep - 1)).rows = 1 ∧ (t.at (trestlePops acc ep - 1)).cols = if fwd then w.cols else w.rows)
    (hscale : -128 ≤ sumScale (t.at 0) w ∧ sumScale (t.at 0) w ≤ 127) (hepi : ¬(w.fmt.toNat ≤ 3 ∧ ep.toNat / 16 ≠ 0)) :
    trestlePlan fwd acc ep pl t =
      let r := trestleResult ep t w (if fwd then w.cols else w.rows)
      { need := trestlePops acc ep, pops := trestlePops acc ep, binds := t.c.stack.take (trestlePops acc ep), plane := some w, out := [r]
        fresh := some (r.rows * r.cols * tileSize r.fmt)
        energy := 512 * (t.at 0).rows + (if ep = 0 then 0 else 16 * ((r.rows * r.cols * tileSize r.fmt + 255) / 256)) } := by
  have hindex (h : epiBias ep = true) : trestlePops acc ep - 1 = if acc = true then 2 else 1 := by
    rw [trestlePops, if_pos h]; cases acc <;> rfl
  have hb (h : epiBias ep = true) := hbias h
  simp only [trestlePlan, hw]
  rw [require_holds (streamOk_iff.mpr hstream), require_flag fun h => addend_iff.mpr (hacc h).1,
    require_flag fun h => addend_iff.mpr (hindex h ▸ (hbias h).1), require_holds ((scaleOk_iff _).mpr hscale),
    require_holds (epilogue_ok_iff.mpr hepi), require_holds (beq_iff_eq.mpr hdepth),
    require_flag fun h => by simpa using (hacc h).2, require_flag fun h => by simpa using hindex h ▸ (hbias h).2]
  rfl

/-- Settles O24: one plan for the four forms. -/
theorem trestleForms : Obligations.TrestleForms := by
  unfold Obligations.TrestleForms
  intro m ep pl w out bias R
  have hbias : bias ↔ epiBias ep = true := (epiBias_iff ep).symm
  have key (i : Instr) (fwd acc : Bool) (hx : ∀ s, exec i s = issueForm 0 (tReq m i 0 0 0 (trestlePlan fwd acc ep pl)) s) : R i fwd acc := by
    have hpops : 1 + (if acc = true then 1 else 0) + (if bias then 1 else 0) = trestlePops acc ep := by
      simp only [trestlePops, hbias]
    simp only [R, hpops]
    refine tileCommits_plan _ hx (fun t _ ⟨hw, hstream, hdepth, hacc, hb, hlo, hhi, hepi⟩ => ?_) fun _ => ⟨rfl, rfl, rfl⟩
    simp only [← sumScale_eq, ← sumFmt_eq] at hacc hb hlo hhi ⊢
    exact trestlePlan_none hw hstream hdepth hacc (fun h => hb (hbias.mpr h)) ⟨hlo, hhi⟩ hepi
  exact ⟨key _ _ _ fun _ => rfl, key _ _ _ fun _ => rfl, key _ _ _ fun _ => rfl, key _ _ _ fun _ => rfl⟩

end Sys2Proof.Machine

namespace Sys2Proof.Machine

/-! ### What a tile form meets at issue, in order (09 R254) -/

section
variable {t : TIn} {p : TPlan}

theorem tileFault_underflow (h : t.c.stack.length < p.need) : tileFault t p = some (0x10, BitVec.ofNat 64 p.need, 0) := if_pos h
theorem tileFault_overflow (hn : p.need ≤ t.c.stack.length) (h : t.c.tlimit < t.c.stack.length - p.pops + p.out.length) :
    tileFault t p = some (0x11, BitVec.ofNat 64 (t.c.stack.length - p.pops + p.out.length), 0) :=
  (if_neg (Nat.not_lt.mpr hn)).trans (if_pos h)
theorem tileFault_own {f : TFault} (hn : p.need ≤ t.c.stack.length) (hl : t.c.stack.length - p.pops + p.out.length ≤ t.c.tlimit)
    (hf : p.fault = some f) : tileFault t p = some f := by
  refine (if_neg (Nat.not_lt.mpr hn)).trans ((if_neg (Nat.not_lt.mpr hl)).trans ?_)
  rw [hf]
  rfl

@[simp] theorem TPlan.numbered_out_length (p : TPlan) (n : Nat) : (p.numbered n).out.length = p.out.length := List.length_map _

end

/-- A tile form of a plan that starts no result traps with the fault that its checks meet. -/
theorem tileTraps_of {i : Instr} {m : Mask} {sp n w : Nat} {bad : TIn → Prop} {f : TIn → TFault} (plan : TIn → TPlan)
    (hx : ∀ s, exec i s = issueForm 0 (tReq m i sp n w plan) s)
    (hp : ∀ t, (plan t).hold = false ∧ (plan t).pends = [] ∧ (plan t).outWit = none)
    (h : ∀ t k, bad t → tileFault t ((plan t).numbered k) = some (f t)) : TileTraps i m sp n w bad f := by
  refine traps_of (tReq m i sp n w plan) hx rfl .inr fun e ⟨hbad, hwin⟩ => ?_
  obtain ⟨hhold, hpends, hwit⟩ := hp (e.tin sp n w)
  have hfull : decide (e.c.window.length ≥ windowSize) = false := decide_eq_false (Nat.not_le.mpr hwin)
  refine ⟨rfl, ?_, rfl, ?_, rfl⟩
  · simp only [tReq, tEff, hhold, hfull, Bool.or_self, Bool.false_eq_true, if_false, h _ _ hbad, Option.map_some]
  · simp only [tReq, tEff, hpends, hwit]
    rfl

/-- The stack is not deep enough. -/
theorem tileTraps_under {i : Instr} {m : Mask} {sp n w need : Nat} (plan : TIn → TPlan) (hx : ∀ s, exec i s = issueForm 0 (tReq m i sp n w plan) s)
    (hp : ∀ t, (plan t).hold = false ∧ (plan t).pends = [] ∧ (plan t).outWit = none) (hneed : ∀ t, (plan t).need = need) :
    TileTraps i m sp n w (fun t => t.c.stack.length < need) fun _ => (0x10, BitVec.ofNat 64 need, 0) :=
  tileTraps_of plan hx hp fun t k hbad => by
    have hk : ((plan t).numbered k).need = need := hneed t
    rw [tileFault_underflow (hk ▸ hbad), hk]

/-- A form that pushes one entry and pops none grows the stack past its limit. -/
theorem tileTraps_over {i : Instr} {m : Mask} {sp n w need : Nat} (plan : TIn → TPlan) (hx : ∀ s, exec i s = issueForm 0 (tReq m i sp n w plan) s)
    (hp : ∀ t, (plan t).hold = false ∧ (plan t).pends = [] ∧ (plan t).outWit = none) (hneed : ∀ t, (plan t).need = need)
    (hpush : ∀ t, (plan t).pops = 0 ∧ (plan t).out.length = 1) :
    TileTraps i m sp n w (fun t => need ≤ t.c.stack.length ∧ (t.c.tlimit : Int) < t.c.stack.length + 1)
      fun t => (0x11, BitVec.ofInt 64 (t.c.stack.length + 1), 0) :=
  tileTraps_of plan hx hp fun t k ⟨hn, hl⟩ => by
    obtain ⟨hpops, hout⟩ := hpush t
    have hafter : t.c.stack.length - ((plan t).numbered k).pops + ((plan t).numbered k).out.length = t.c.stack.length + 1 := by
      rw [TPlan.numbered_out_length, hout, show ((plan t).numbered k).pops = 0 from hpops, Nat.sub_zero]
    rw [tileFault_overflow (by rw [show ((plan t).numbered k).need = need from hneed t]; exact hn) (by omega), hafter]
    rfl

section
variable {mul : Bool} {t : TIn}

theorem binPlan_format (h : (t.at 0).fmt ≠ (t.at 1).fmt) : (binPlan mul t).fault = some (fmtFault 0) := by
  have hf : sameFmt (t.at 0) (t.at 1) = false := beq_false_of_ne h
  simp only [binPlan, vtPlan, match2, require_fails hf, firstFault_some_cons]
theorem binPlan_shape (hf : (t.at 0).fmt = (t.at 1).fmt) (hfloat : 3 < (t.at 1).fmt.toNat) (hscale : -128 ≤ (t.at 1).scale ∧ (t.at 1).scale ≤ 127)
    (h : (t.at 0).rows ≠ (t.at 1).rows ∨ (t.at 0).cols ≠ (t.at 1).cols) : (binPlan mul t).fault = some (shapeFault 0) := by
  have hint : tileInt (t.at 1).fmt = false := tileInt_false (Nat.not_le.mpr hfloat)
  have hshape : sameShape (t.at 0) (t.at 1) = false := by
    rw [← Bool.not_eq_true, sameShape_iff]
    exact fun hs => h.elim (absurd hs.1) (absurd hs.2)
  simp only [binPlan, vtPlan, match2, hint, Bool.and_false, Bool.false_eq_true, if_false, require_holds (sameFmt_iff.mpr hf),
    require_holds (sameScale_iff.mpr fun hle => absurd hle (Nat.not_le.mpr hfloat)), require_holds ((scaleOk_iff _).mpr hscale), require_fails hshape,
    firstFault_none_cons, firstFault_some_cons]

end

/-- Settles O25: depth, limit, formats and shapes, each met before what follows it. -/
theorem tileTrapOrder : Obligations.TileTrapOrder := by
  unfold Obligations.TileTrapOrder
  intro m n d sp len under over' bin
  have hbin (i : Instr) (mul : Bool) (hx : ∀ s, exec i s = issueForm 0 (tReq m i 0 0 0 (binPlan mul)) s) : bin i := by
    have hafter {t : TIn} (k : Nat) (h2 : 2 ≤ len t) (h : len t ≤ t.c.tlimit) :
        t.c.stack.length - ((binPlan mul t).numbered k).pops + ((binPlan mul t).numbered k).out.length ≤ t.c.tlimit := by
      rw [TPlan.numbered_out_length]
      change len t - 2 + 1 ≤ t.c.tlimit
      omega
    refine ⟨tileTraps_under (binPlan mul) hx (fun _ => ⟨rfl, rfl, rfl⟩) fun _ => rfl, ?_, ?_⟩
    · exact tileTraps_of (binPlan mul) hx (fun _ => ⟨rfl, rfl, rfl⟩) fun t k ⟨h2, hl, hf⟩ => tileFault_own h2 (hafter k h2 hl) (binPlan_format hf)
    · exact tileTraps_of (binPlan mul) hx (fun _ => ⟨rfl, rfl, rfl⟩) fun t k ⟨h2, hl, hf, hfloat, hlo, hhi, hs⟩ =>
        tileFault_own h2 (hafter k h2 hl) (binPlan_shape hf hfloat ⟨hlo, hhi⟩ hs)
  refine ⟨?_, ?_, ?_, ?_, ?_, ?_, ?_, ?_, ?_, hbin _ false fun _ => rfl, hbin _ false fun _ => rfl, hbin _ true fun _ => rfl,
    hbin _ false fun _ => rfl, hbin _ false fun _ => rfl, ?_, ?_⟩
  · exact tileTraps_under planTdup (fun _ => rfl) (fun _ => ⟨rfl, rfl, rfl⟩) fun _ => rfl
  · exact tileTraps_over planTdup (fun _ => rfl) (fun _ => ⟨rfl, rfl, rfl⟩) (fun _ => rfl) fun _ => ⟨rfl, rfl⟩
  · exact tileTraps_under (planTdrop n) (fun _ => rfl) (fun _ => ⟨rfl, rfl, rfl⟩) fun _ => rfl
  · exact tileTraps_under planTswap (fun _ => rfl) (fun _ => ⟨rfl, rfl, rfl⟩) fun _ => rfl
  · exact tileTraps_under (planTpick d) (fun _ => rfl) (fun _ => ⟨rfl, rfl, rfl⟩) fun _ => rfl
  · exact tileTraps_over (planTpick d) (fun _ => rfl) (fun _ => ⟨rfl, rfl, rfl⟩) (fun _ => rfl) fun _ => ⟨rfl, rfl⟩
  · exact tileTraps_under (planTrot n) (fun _ => rfl) (fun _ => ⟨rfl, rfl, rfl⟩) fun _ => rfl
  · exact tileTraps_under planTfma (fun _ => rfl) (fun _ => ⟨rfl, rfl, rfl⟩) fun _ => rfl
  · exact tileTraps_under planTxp (fun _ => rfl) (fun _ => ⟨rfl, rfl, rfl⟩) fun _ => rfl
  · refine tileTraps_of planTzero (fun _ => rfl) (fun _ => ⟨rfl, rfl, rfl⟩) fun t k ⟨hl, hf⟩ => tileFault_own (Nat.zero_le _) hl ?_
    change firstFault [wordFmt (t.par 0), wordShape (t.par 0)] = _
    rw [wordFmt_some hf]
    rfl
  · refine tileTraps_of planTzero (fun _ => rfl) (fun _ => ⟨rfl, rfl, rfl⟩) fun t k ⟨hl, hf, hbig⟩ => tileFault_own (Nat.zero_le _) hl ?_
    change firstFault [wordFmt (t.par 0), wordShape (t.par 0)] = _
    rw [wordFmt_none hf, wordShape_some hbig]
    rfl

end Sys2Proof.Machine

namespace Sys2Proof.Machine

/-! ### Tiles from and to the scratchpad and the vector registers (09 R249, R259 to R262) -/

/-- Every row of a transfer lies in the share, and its address and pitch are aligned to the elements. -/
theorem rowsFault_none {c : Ctx} {a p : W64} {x : Entry} (hrows : ∀ i < x.rows, spFail c (a + BitVec.ofNat 64 i * p) x.rowBytes = none)
    (ha : a.toNat % tileSize x.fmt = 0) (hp : p.toNat % tileSize x.fmt = 0) : rowsFault c a p x = none := by
  have hfail : rowsFail c a p x.rows x.rowBytes = none :=
    List.findSome?_eq_none_iff.mpr fun i hi => hrows i (List.mem_range.mp hi)
  simp only [rowsFault, hfail, ha, hp, ne_eq, not_true_eq_false, or_self, if_false]

/-- Whether the top tile lies in the deck with its image there, as `TTOV` needs it. -/
def topInDeck (c : Ctx) : Bool :=
  match c.stack with
  | [] => true
  | e :: _ => ((AL.find c.tiles e.tile).map fun x => x.tier == .deck && x.img.isSome).getD false

theorem topInDeck_iff (c : Ctx) : topInDeck c = true ↔ ∀ x, c.stack.head? = some x →
    ∃ y, AL.find c.tiles x.tile = some y ∧ y.tier = .deck ∧ y.img.isSome := by
  unfold topInDeck
  cases c.stack with
  | nil => simp
  | cons x r =>
    simp only [List.head?_cons, Option.some.injEq, forall_eq']
    cases AL.find c.tiles x.tile <;> simp

section
variable {t : TIn} (hr : t.replay = false)
include hr

theorem planTfromv_none {v : BitVec 10} {m : Nat} (hm : m = ((shapeEntry (t.par 0)).bytes + 255) / 256)
    (hword : wordFmt (t.par 0) = none ∧ wordShape (t.par 0) = none) (h64 : m ≤ 64) (hv : v.toNat + m ≤ 768)
    (hpoison : ∀ k < m, t.s.poisoned (rKey t.a (v.toNat + k)) 256 = false) :
    planTfromv v t = { out := [shapeEntry (t.par 0)], fresh := some (shapeEntry (t.par 0)).bytes
                       image := ((List.range m).flatMap fun k => bytesOfVec (t.s.readV t.a (v.toNat + k))).take (shapeEntry (t.par 0)).bytes
                       energy := 32 * m } := by
  have hunits : units256 (shapeEntry (t.par 0)).bytes = m := hm.symm
  have hmin : Nat.min m 64 = m := Nat.min_eq_left h64
  have hfind : ((List.range m).map (v.toNat + ·)).find? (fun n => t.s.poisoned (rKey t.a n) 256) = none := by
    rw [List.find?_eq_none]
    simpa using hpoison
  simp only [planTfromv, hr, Bool.false_eq_true, if_false, hunits, hmin, hfind, hword.1, hword.2, decide_eq_true h64, decide_eq_true hv]
  rfl

theorem planTtov_eq (v : BitVec 10) (n : BitVec 8) : planTtov v n t =
    { need := 1, binds := t.c.stack.take 1, energy := 32 * (n.toNat + 1), hold := !(t.c.opsDone && topInDeck t.c)
      fault := if t.s.poisoned (tileKey t.c.cid (t.at 0).tile) 8 = true then some (0x50, 0, t.s.deckBankOf t.a t.c (t.at 0).tile) else none
      pends := (List.range (n.toNat + 1)).map fun k => Pend.make (.v (v.toNat + k)) (8 + k)
        (vecOfBytes (sliceBytes ((t.c.tileImg (t.at 0).tile).getD []) (256 * ((t.par 0).toNat + k)) 256)) } := by
  simp only [planTtov, hr, Bool.not_false, Bool.true_and, Bool.false_eq_true, if_false]
  rfl

end

/-- Settles O26: each transfer by its plan past its checks, and the two that are held. -/
theorem tileLoadsAndStores : Obligations.TileLoadsAndStores := by
  unfold Obligations.TileLoadsAndStores
  intro m sp w v n units wordOk done inDeck rowsOk img
  have hdone (c : Ctx) : c.opsDone = true ↔ done c := Ctx.opsDone_iff c
  have hdeck (c : Ctx) : topInDeck c = true ↔ inDeck c := topInDeck_iff c
  refine ⟨?_, ?_, ?_, ?_, fun s e he ht => ⟨fun hr hnot => ?_, fun hr hnot => ?_⟩⟩
  · refine tileCommits_plan planTlds (fun _ => rfl) (fun t _ ⟨⟨hf, hlt, hrow⟩, hrows, ha, hp⟩ => ?_) fun _ => ⟨rfl, rfl, rfl⟩
    simp only [planTlds, wordFmt_none hf, wordShape_none hlt hrow, rowsFault_none hrows ha hp]
    rfl
  · refine tileCommits_plan (planTsts w) (fun _ => rfl) (fun t hr ⟨hd, hrows, ha, hp⟩ => ?_) fun _ => ⟨rfl, rfl, rfl⟩
    simp only [planTsts, hr, (hdone t.c).mpr hd, rowsFault_none hrows ha hp]
    rfl
  · exact tileCommits_plan (planTfromv v) (fun _ => rfl) (fun t hr ⟨⟨hf, hlt, hrow⟩, h64, hv, hpoison⟩ =>
      planTfromv_none hr rfl ⟨wordFmt_none hf, wordShape_none hlt hrow⟩ h64 hv hpoison) fun _ => ⟨rfl, rfl, rfl⟩
  · exact tileCommits_plan (planTtov v n) (fun _ => rfl) (fun t hr ⟨hd, hk, hpoison⟩ => by
      rw [planTtov_eq hr, (hdone t.c).mpr hd, (hdeck t.c).mpr hk, hpoison]; rfl) fun _ => ⟨rfl, rfl, rfl⟩
  · refine exec_tile_hold (plan := planTsts w) (fun _ => rfl) he ht (List.nil_append _) hr (.inl ?_) rfl
    have hno : e.c.opsDone = false := (Bool.not_eq_true _).mp (mt (hdone e.c).mp hnot)
    change (!false && !e.c.opsDone) = true
    rw [hno]
    rfl
  · refine exec_tile_hold (plan := planTtov v n) (fun _ => rfl) he ht (List.append_nil _) hr (.inl ?_) rfl
    rw [planTtov_eq rfl, Bool.not_eq_true', ← Bool.not_eq_true]
    change ¬(e.c.opsDone && topInDeck e.c) = true
    rw [Bool.and_eq_true, hdone, hdeck, not_and_or]
    exact hnot

end Sys2Proof.Machine

namespace Sys2Proof.Machine

/-! ### A tensor form whose cached record is poisoned (10 R274, 19 R381) -/

/-- A record of FP32 and rank 1 with one element at address 0, below its checksum. -/
def unitRecBody : List Byte :=
  natLe 8 0 ++ natLe 4 1 ++ natLe 52 0 ++ natLe 1 6 ++ natLe 1 1 ++ natLe 54 0 ++ natLe 4 1

/-- The record with its checksum: 128 bytes. -/
def unitRec : List Byte := unitRecBody ++ natLe 4 (recSum unitRecBody)

/-- A context that runs at a reference to an empty bundle; s1 names tensor 5. -/
def namingCtx : Ctx :=
  { Ctx.blank with halves := [⟨0, (2 : BitVec 64) <<< 4 ||| 1, [encodeRef 0 0, encodeSegEnd], 0⟩], s := [(1, 5)] }

/-- The package in which that context alone runs, on slot 0: the record of tensor 5 is in its die's cache, and an
uncorrectable error has poisoned it there. -/
def poisonedRecState : State :=
  { State.reset with ctxs := [(0, namingCtx)], recs := [⟨0, 0, 5, unitRec⟩], poison := [2 * recKey 0 0 5] }

/-- How many provenance latches are set after a step. -/
def latchesSet (o : Host.Outcome State Fault Refusal) : Option Nat :=
  match o with
  | .next t => some t.latches.length
  | _ => none

/-- The plan that the statement gives `RECOMP`. -/
def recompPlan (t : TIn) : TPlan :=
  { now := true, record := unitRec
    also := fun s => (s.setLatch t.c (twId (t.par 0)) true).touchRec (dieOf t.a) t.c.pd.toNat (twId (t.par 0)) }

set_option maxRecDepth 8000 in
/-- The record is well formed. -/
theorem recDefect_unitRec : recDefect unitRec = false := by decide

/-- Reading the poisoned record is a machine event: no latch is set. -/
theorem latchesSet_recomp : latchesSet (exec (.recomp 31 1) poisonedRecState) = some 0 := by decide

/-- The form issues there, naming a record that is cached; and a commit sets one latch. -/
theorem poisonedRecState_issuing : (poisonedRecState.issuing 0).any (fun e =>
    let t := e.tin 1 1 0
    e.room .t [] [] && twId (t.par 0) == 5 && t.s.drops.isEmpty && decide ((t.par 0).toNat < 2 ^ 20) &&
      ((t.s.cached (dieOf t.a) t.c.pd.toNat 5).map (·.bytes) == some unitRec) && (t.s.latchFault t.c 5 true).isNone &&
      e.c.window.isEmpty && e.c.stack.isEmpty && (spillFault e.c ((recompPlan t).numbered e.c.nextTile)).isNone &&
      latchesSet (.next (e.commits .t [] (recompPlan t).energy (fun s => e.enters (.recomp 31 1) t (recompPlan t) s))) == some 1) = true := by
  decide

/-- What the statement asks of `RECOMP` of the record: that it is named, cached and well formed, and the latch allows it. -/
def RecompOk (t : TIn) : Prop :=
  (twId (t.par 0) ≠ 0 ∧ (∀ d ∈ t.s.drops, d.cid ≠ t.c.cid) ∧
    (t.s.cached (dieOf t.a) t.c.pd.toNat (twId (t.par 0))).map (·.bytes) = some unitRec ∧ recDefect unitRec = false) ∧
  (t.par 0).toNat < 2 ^ 20 ∧ t.s.latchFault t.c (twId (t.par 0)) true = none

/-- At an issue point with nothing in the window and nothing on the stack, a `RECOMP` that the statement lets commit
commits. -/
theorem exec_recomp_of_tileCommits (h : TileCommits (.recomp 31 1) 31 1 1 0 RecompOk recompPlan) (s : State) (e : Env)
    (he : s.issuing 0 = some e) (hok : RecompOk (e.tin 1 1 0)) (hwindow : e.c.window = []) (hstack : e.c.stack = [])
    (hspill : spillFault e.c ((recompPlan (e.tin 1 1 0)).numbered e.c.nextTile) = none) (hroom : e.room .t [] [] = true) :
    exec (.recomp 31 1) s =
      .next (e.commits .t [] (recompPlan (e.tin 1 1 0)).energy (fun s => e.enters (.recomp 31 1) (e.tin 1 1 0) (recompPlan (e.tin 1 1 0)) s)) := by
  refine h s e he rfl ⟨hok, ?_, Nat.zero_le _, ?_, hspill, ?_, ?_, rfl⟩ hroom
  · rw [hwindow]; decide
  · rw [hstack]; exact Nat.zero_le _
  · intro hinput
    exact absurd hinput Bool.false_ne_true
  · intro hout
    exact absurd hout Bool.false_ne_true

/-- Refutes O27: a cached record that is poisoned is a machine event, and the statement names a record without that. -/
theorem not_tensorForms : ¬ Obligations.TensorForms := by
  unfold Obligations.TensorForms
  intro h
  obtain ⟨e, he, hwit⟩ := (Option.any_eq_true _ _).mp poisonedRecState_issuing
  simp only [Bool.and_eq_true, beq_iff_eq, List.isEmpty_iff, decide_eq_true_eq, Option.isNone_iff_eq_none] at hwit
  obtain ⟨⟨⟨⟨⟨⟨⟨⟨⟨hroom, hid⟩, hdrops⟩, hword⟩, hcached⟩, hlatch⟩, hwindow⟩, hstack⟩, hspill⟩, hcount⟩ := hwit
  obtain ⟨-, -, -, -, -, -, -, hrecomp, -, -⟩ := h 31 1 0 0 unitRec
  replace hrecomp : TileCommits (.recomp 31 1) 31 1 1 0 RecompOk recompPlan := hrecomp
  have hok : RecompOk (e.tin 1 1 0) := by
    refine ⟨⟨?_, ?_, ?_, recDefect_unitRec⟩, hword, ?_⟩
    · rw [hid]; decide
    · rw [hdrops]; simp
    · rw [hid]; exact hcached
    · rw [hid]; exact hlatch
  have hexec := exec_recomp_of_tileCommits hrecomp poisonedRecState e he hok hwindow hstack hspill hroom
  have hnone := latchesSet_recomp
  rw [hexec, hcount] at hnone
  exact absurd hnone (by decide)

end Sys2Proof.Machine

namespace Sys2Proof.Machine

/-! ### Results that a request must not collide with (05 R133) -/

/-- Task 1, whose one instance is placed with the context of `launchedCtx` in it. -/
def launchedTask : Task :=
  { id := 1, queue := 0, tag := 0, kind := 1, prio := 0, preds := 0, held := false, succs := [], payload := [], dom := 0
    wit := 0, state := .running, cls := 0, detail := 0, hash := 0, next := 0, count := 1, storeFault := false
    formFault := 0, cause := 0, cancel := false, ending := none }

def launchedInst : GInst :=
  { task := 1, num := 0, dom := 0, kernel := ⟨⟨0, 0⟩, [], 1, 1, 0, 0, 0, 0⟩, args := 0, status := .placed, prio := 0
    eff := 0, since := 0, die := 0, span := 0, core := 0, members := [⟨0, 0, 0, 1, false⟩], images := [], vregs := []
    shares := [], saveWit := 0, bad := [], steps := [], areas := [], first := [], last := [] }

/-- A context of that instance, which runs at a reference to an empty bundle and has no trap handler. -/
def launchedCtx : Ctx :=
  { Ctx.blank with cid := 1, task := 1, halves := [⟨0, (2 : BitVec 64) <<< 4 ||| 1, [encodeRef 0 0, encodeSegEnd], 0⟩] }

/-- The package in which that context alone runs, on slot 0. -/
def launchedState : State :=
  { State.reset with ctxs := [(0, launchedCtx)], insts := [launchedInst], tasks := [launchedTask] }

/-- A request of the M slot that reads five vector registers and starts a result, and that must not collide with that
same result. -/
def crowdedReq : SlotReq :=
  { slot := .m, eff := fun _ => { vreads := [0, 1, 2, 3, 4], pends := [Pend.make (.s 1) 2 0], olds := [Pend.make (.s 1) 2 0] } }

/-- A request of the V slot that asks for nothing. -/
def emptyReq : SlotReq := { slot := .v, eff := fun _ => {} }

/-- The first cause that task 1 has met. -/
def raisedCause (s : State) : Option Nat := (s.task 1).map (·.cause)

/-- The two requests together are a collision (cause 0x03), whatever they read; the results in flight alone show none. -/
theorem launchedState_crowded : (launchedState.issuing 0).any (fun e =>
    collisions e.c.pend ([crowdedReq, emptyReq].map (doneOf e 1 false)) == 0 &&
      raisedCause (issueIn e [crowdedReq, emptyReq]) == some 3) = true := by decide

set_option maxRecDepth 8000 in
/-- A port fault (cause 0x04) is noted as one, whatever slots it names. -/
theorem launchedState_portFault : (launchedState.issuing 0).all (fun e =>
    (List.range 256).all fun m => raisedCause (bundleFault e 4 0 (BitVec.ofNat 8 m)) == some 4) = true := by decide

/-- Refutes O54: its clause on a fifth read speaks of every request, also of one that names results that it must not
collide with, and such a request is refused for the collision first. -/
theorem not_leavesAndCollisions : ¬ Obligations.LeavesAndCollisions := by
  unfold Obligations.LeavesAndCollisions
  intro h
  obtain ⟨e, he, hcrowded⟩ := (Option.any_eq_true _ _).mp launchedState_crowded
  rw [Bool.and_eq_true, beq_iff_eq, beq_iff_eq] at hcrowded
  obtain ⟨-, -, -, hreads, -, -⟩ := h (.add 31 1 2 (.reg 3)) _ _ [] launchedState e rfl rfl (by decide) he
  obtain ⟨m, hm⟩ := hreads crowdedReq emptyReq rfl rfl rfl rfl rfl rfl hcrowded.1 (Nat.lt_succ_self 4)
  have hport := (Option.all_eq_true _ _).mp launchedState_portFault e he
  have hcause := beq_iff_eq.mp (List.all_eq_true.mp hport m.toNat (List.mem_range.mpr m.isLt))
  rw [BitVec.ofNat_toNat, BitVec.setWidth_eq, ← hm, hcrowded.2] at hcause
  exact absurd hcause (by decide)

end Sys2Proof.Machine

namespace Sys2Proof.Machine

/-! ### Worked words (05, Tables 5-1 to 5-12) -/

/-- Settles O57, by decoding the words. -/
theorem decodeWords : Obligations.DecodeWords := by
  unfold Obligations.DecodeWords
  refine ⟨?_, ?_, ?_, ?_, ?_, ?_, ?_, ?_, ?_, ?_, ?_⟩
  all_goals decide

/-! ### After a reset, and at a launch (02 R63, R64, 21 R400, R403) -/

/-- Settles O55: the fields of the reset state and of a launched context, and the rows of Table 2-14 with
`launchRegisters`. -/
theorem resetAndLaunch : Obligations.ResetAndLaunch := by
  unfold Obligations.ResetAndLaunch
  refine ⟨⟨rfl, rfl, rfl, rfl, rfl, fun _ => rfl, rfl, rfl, rfl, rfl, rfl, rfl, ?_, ?_, ?_, ?_⟩, ?_⟩
  · exact ⟨rfl, by decide⟩
  · decide
  · decide
  · decide
  · intro s g prio cid die span wit team num n
    obtain ⟨h1, h2, h3, h4, h5, h6, h7, h8, hother⟩ := launchRegisters s g prio cid die span wit team num n
    refine ⟨rfl, rfl, rfl, rfl, rfl, ⟨rfl, rfl, rfl, rfl, rfl, rfl, rfl, rfl, rfl⟩, h1, h2, h3, h4, h5, h6, h7, h8, hother, ?_, ?_,
      rfl, rfl⟩
    · intro hn
      exact ⟨if_neg hn, by rw [Ctx.readQ, if_neg hn]; exact BitVec.getLsbD_zero⟩
    · exact ite_self 0

end Sys2Proof.Machine

namespace Sys2Proof.Machine

/-! ### One context of the package -/

/-- A change of a context that is there. -/
theorem State.onCtx_of_ctx {s : State} {a : Nat} {c : Ctx} (h : s.ctx a = some c) (f : Ctx → Ctx) :
    s.onCtx a f = s.setCtx a (f c) := by
  simp only [State.onCtx, h]

theorem State.onCtx_of_none {s : State} {a : Nat} (h : s.ctx a = none) (f : Ctx → Ctx) : s.onCtx a f = s := by
  simp only [State.onCtx, h]

/-- A changed context reads as changed. -/
@[simp] theorem State.onCtx_ctx (s : State) (a : Nat) (f : Ctx → Ctx) : (s.onCtx a f).ctx a = (s.ctx a).map f := by
  cases h : s.ctx a with
  | none => rw [State.onCtx_of_none h, h]; rfl
  | some c => rw [State.onCtx_of_ctx h, State.setCtx_ctx]; rfl

/-- Every other context is as it was. -/
theorem State.onCtx_ctx_ne (s : State) {a b : Nat} (f : Ctx → Ctx) (h : b ≠ a) : (s.onCtx a f).ctx b = s.ctx b := by
  cases ha : s.ctx a with
  | none => rw [State.onCtx_of_none ha]
  | some c => rw [State.onCtx_of_ctx ha, State.setCtx_ctx_ne _ _ _ _ h]

/-- Poison that is cleared is all that a clearing of poison changes. -/
theorem State.clearPoison_eq (s : State) (ks : List Nat) : ∃ l, s.clearPoison ks = { s with poison := l } := by
  unfold State.clearPoison
  split
  · exact ⟨s.poison, rfl⟩
  · exact ⟨_, rfl⟩

/-! ### Results that land (05 R132, 08 R217) -/

/-- Posted statistics change the statistics queue and its count of lost records alone. -/
theorem Ctx.post_eq (c : Ctx) (pos : CodePos) (eng : BitVec 8) (st : List (Nat × Nat)) :
    ∃ q n, c.post pos eng st = { c with statq := q, lost := n } := by
  unfold Ctx.post
  induction st generalizing c with
  | nil => exact ⟨c.statq, c.lost, rfl⟩
  | cons e st ih =>
    have hone : ∃ q n, c.postOne pos eng e = { c with statq := q, lost := n } := by
      unfold Ctx.postOne
      split
      · exact ⟨c.statq, c.lost, rfl⟩
      · split
        · exact ⟨_, c.lost, rfl⟩
        · exact ⟨c.statq, _, rfl⟩
    obtain ⟨q, n, hpost⟩ := hone
    obtain ⟨q', n', htail⟩ := ih { c with statq := q, lost := n }
    exact ⟨q', n', by rw [List.foldl_cons, hpost, htail]⟩

/-- A context with one result landed in its registers, before that posts its statistics. -/
def Ctx.landed (c : Ctx) (p : Pend) : Ctx :=
  match p.reg with
  | .s n => { c with s := AL.set 0 c.s n (p.val.truncate 64) }
  | .p n => { c with p := AL.set 0 c.p n ((AL.get 0 c.p n &&& ~~~p.lanes) ||| (p.val.truncate 256 &&& p.lanes)) }
  | .q n => { c with q := if p.val.getLsbD 0 then c.q ||| (1#32 <<< n) else c.q &&& ~~~(1#32 <<< n) }
  | .w n => { c with w := AL.set 0 c.w n (p.val.truncate 64) }
  | .xp n => { c with xp := AL.set (0, 0) c.xp n (p.val, p.xmask) }
  | .fmt => { c with fmt := p.val.truncate 64 }
  | .v _ => c
  | .none => c

theorem Ctx.land_eq_landed (c : Ctx) (p : Pend) : c.land p = (c.landed p).post p.pos p.eng p.stats := rfl

section
variable (c : Ctx) (p : Pend) (n : Nat)

theorem Ctx.landed_readS (h : p.reg = .s n) (hn : 0 < n) (h58 : n < 58) : (c.landed p).readS n = p.val.truncate 64 := by
  simp [Ctx.landed, h, Ctx.readS, Nat.ne_of_gt hn, Nat.not_le.mpr h58]

theorem Ctx.landed_readW (h : p.reg = .w n) (hn : 0 < n) : (c.landed p).readW n = p.val.truncate 64 := by
  simp [Ctx.landed, h, Ctx.readW, Nat.ne_of_gt hn]

theorem Ctx.landed_readP (h : p.reg = .p n) (hn : 0 < n) {i : Nat} (hi : i < 256) : ((c.landed p).readP n).getLsbD i =
    if p.lanes.getLsbD i then p.val.getLsbD i else (c.readP n).getLsbD i := by
  simp only [Ctx.landed, h, Ctx.readP, Nat.ne_of_gt hn, if_false, AL.get_set_same, BitVec.truncate_eq_setWidth,
    BitVec.getLsbD_or, BitVec.getLsbD_and, BitVec.getLsbD_not, hi, decide_true, Bool.true_and,
    BitVec.getLsbD_setWidth]
  cases p.lanes.getLsbD i <;> simp

theorem Ctx.landed_readQ (h : p.reg = .q n) (hn : 0 < n) (h32 : n < 32) : (c.landed p).readQ n = p.val.getLsbD 0 := by
  simp only [Ctx.landed, h, Ctx.readQ, Nat.ne_of_gt hn, if_false]
  split
  · next hb => rw [hb]; simp [h32]
  · next hb => rw [Bool.eq_false_of_not_eq_true hb]; simp [h32]

theorem Ctx.landed_readXp (h : p.reg = .xp n) : (c.landed p).readXp n = (p.val, p.xmask) := by
  simp [Ctx.landed, h, Ctx.readXp]

theorem Ctx.landed_fmt (h : p.reg = .fmt) : (c.landed p).fmt = p.val.truncate 64 := by
  simp [Ctx.landed, h]

/-- A register of a file changes only by a result for that register. -/
theorem Ctx.landed_readS_other (h : p.reg ≠ .s n) : (c.landed p).readS n = c.readS n := by
  unfold Ctx.landed
  split
  case h_1 k hk =>
    have hne : n ≠ k := fun e => h (e ▸ hk)
    simp only [Ctx.readS, Ctx.li, AL.get_set_ne _ _ _ hne]
  all_goals rfl

theorem Ctx.landed_readW_other (h : p.reg ≠ .w n) : (c.landed p).readW n = c.readW n := by
  unfold Ctx.landed
  split
  case h_4 k hk =>
    have hne : n ≠ k := fun e => h (e ▸ hk)
    simp only [Ctx.readW, AL.get_set_ne _ _ _ hne]
  all_goals rfl

theorem Ctx.landed_readP_other (h : p.reg ≠ .p n) : (c.landed p).readP n = c.readP n := by
  unfold Ctx.landed
  split
  case h_2 k hk =>
    have hne : n ≠ k := fun e => h (e ▸ hk)
    simp only [Ctx.readP, AL.get_set_ne _ _ _ hne]
  all_goals rfl

theorem Ctx.landed_readQ_other (h : p.reg ≠ .q n) : (c.landed p).readQ n = c.readQ n := by
  unfold Ctx.landed
  split
  case h_3 k hk =>
    have hne : n ≠ k := fun e => h (e ▸ hk)
    have hbit : (1#32 <<< k).getLsbD n = false := by
      simp only [BitVec.getLsbD_shiftLeft, BitVec.getLsbD_one]
      simp
      omega
    have hsame : ∀ q : BitVec 32, (q = c.q ||| 1#32 <<< k ∨ q = c.q &&& ~~~(1#32 <<< k)) → q.getLsbD n = c.q.getLsbD n := by
      rintro q (rfl | rfl)
      · rw [BitVec.getLsbD_or, hbit, Bool.or_false]
      · rw [BitVec.getLsbD_and, BitVec.getLsbD_not, hbit]
        cases hc : c.q.getLsbD n with
        | false => rfl
        | true => simp [BitVec.lt_of_getLsbD hc]
    simp only [Ctx.readQ]
    split
    · rfl
    · exact hsame _ (by split <;> simp)
  all_goals rfl

theorem Ctx.landed_readXp_other (h : p.reg ≠ .xp n) : (c.landed p).readXp n = c.readXp n := by
  unfold Ctx.landed
  split
  case h_5 k hk =>
    have hne : n ≠ k := fun e => h (e ▸ hk)
    simp only [Ctx.readXp, AL.get_set_ne _ _ _ hne]
  all_goals rfl

theorem Ctx.landed_fmt_other (h : p.reg ≠ .fmt) : (c.landed p).fmt = c.fmt := by
  unfold Ctx.landed
  split
  case h_6 hk => exact absurd hk h
  all_goals rfl

/-- A landed result leaves what issues next, what is in flight and the statistics queue. -/
theorem Ctx.landed_rest : (c.landed p).pc = c.pc ∧ (c.landed p).pend = c.pend ∧ (c.landed p).statq = c.statq := by
  unfold Ctx.landed
  split <;> exact ⟨rfl, rfl, rfl⟩

end

/-- The package with a vector result in the register memory: its word is poisoned no more. -/
def State.landedV (s : State) (a : Nat) (p : Pend) : State :=
  match p.reg with
  | .v n =>
    { s.clearPoison (laneKeys (rKey a n) p.lanes) with
      regmem := AL.set 0 s.regmem (vKey a n) (mergeLanes p.lanes (s.readV a n) p.val) }
  | _ => s

theorem State.landOne_eq_landedV (s : State) (a : Nat) (p : Pend) :
    s.landOne a p = (s.landedV a p).onCtx a fun c => c.land p := rfl

section
variable (s : State) (a : Nat) (p : Pend)

/-- A result in the register memory changes the register memory and the poison alone. -/
theorem State.landedV_eq : ∃ r l, s.landedV a p = { s with regmem := r, poison := l } := by
  unfold State.landedV
  split
  · next n _ =>
    obtain ⟨l, hl⟩ := s.clearPoison_eq (laneKeys (rKey a n) p.lanes)
    exact ⟨_, l, by rw [hl]⟩
  · exact ⟨s.regmem, s.poison, rfl⟩

theorem State.landOne_ctx {c : Ctx} (h : s.ctx a = some c) : (s.landOne a p).ctx a = some (c.land p) := by
  obtain ⟨r, l, hv⟩ := s.landedV_eq a p
  rw [State.landOne_eq_landedV, hv, State.onCtx_ctx]
  exact congrArg (Option.map _) h

theorem State.landOne_ctx_ne {b : Nat} (h : b ≠ a) : (s.landOne a p).ctx b = s.ctx b := by
  obtain ⟨r, l, hv⟩ := s.landedV_eq a p
  rw [State.landOne_eq_landedV, hv, State.onCtx_ctx_ne _ _ h]
  rfl

theorem State.landOne_mem : (s.landOne a p).mem = s.mem := by
  obtain ⟨r, l, hv⟩ := s.landedV_eq a p
  rw [State.landOne_eq_landedV, State.onCtx_mem, hv]

/-- The vector registers of a slot lie at keys of their own. -/
theorem vKey_ne {n k : Nat} (h : n ≠ k) : vKey a n ≠ vKey a k := by
  unfold vKey
  omega

theorem State.landOne_readV {n : Nat} (h : p.reg = .v n) :
    (s.landOne a p).readV a n = mergeLanes p.lanes (s.readV a n) p.val := by
  simp [State.landOne_eq_landedV, State.readV, State.landedV, h]

theorem State.landOne_readV_other {n : Nat} (h : p.reg ≠ .v n) : (s.landOne a p).readV a n = s.readV a n := by
  rw [State.landOne_eq_landedV, State.readV, State.onCtx_regmem, State.landedV]
  split
  · next k hk => exact AL.get_set_ne _ _ _ (vKey_ne a fun e => h (e ▸ hk))
  · rfl

end

/-- One result is due and the others are not: the due results are that one. -/
theorem Ctx.due_single {c : Ctx} {p : Pend} {rest : List Pend} (h : c.pend = p :: rest) (hleft : p.left = 0)
    (hready : p.ready = true) (hrest : ∀ q ∈ rest, q.left ≠ 0) : c.due = [p] := by
  have hnone : rest.filter Pend.isDue = [] := List.filter_eq_nil_iff.mpr fun q hq => by simp [Pend.isDue, hrest q hq]
  rw [Ctx.due, h, List.filter_cons_of_pos (by simp [Pend.isDue, hleft, hready]), hnone]

section
variable {s : State} {a : Nat} {c : Ctx} {p : Pend} {rest : List Pend}
  (hc : s.ctx a = some c) (hdue : c.due = [p]) (hready : p.ready = true)
include hc hdue hready

/-- `RESULT_LANDING` while the statistics queue has no room for what a due result posts. -/
theorem exec_resultLanding_wait (hroom : c.statRoom p.stats.length = false) : exec (.resultLanding a) s = .next s := by
  have hr : c.dueReady = false := by simp [Ctx.dueReady, Ctx.duePosts, hdue, hready, hroom]
  show execResultLanding a s = _
  simp [execResultLanding, hc, hr]

/-- `RESULT_LANDING` of a due result that lies in a poisoned entry. -/
theorem exec_resultLanding_bad (hroom : c.statRoom p.stats.length = true) (hbad : p.bad = true) (hreal : p.reg ≠ .none)
    (hrun : c.status = .running) : exec (.resultLanding a) s = .next (s.machineEvent a c.pc 0 none 0 0 (seqUnit a)) := by
  have hr : c.dueReady = true := by simp [Ctx.dueReady, Ctx.duePosts, hdue, hready, hroom]
  have hb : c.dueBad = true := by simp [Ctx.dueBad, hdue, hbad, Pend.real, hreal]
  show execResultLanding a s = _
  simp [execResultLanding, hc, hr, hb, hrun]

/-- `RESULT_LANDING` of a due result that has its value and room for what it posts. -/
theorem exec_resultLanding_lands (hroom : c.statRoom p.stats.length = true) (hbad : p.bad = false) :
    exec (.resultLanding a) s =
      .next ((s.landOne a p).onCtx a fun c => { c with pend := c.pend.filter fun p => !p.isDue }) := by
  have hr : c.dueReady = true := by simp [Ctx.dueReady, Ctx.duePosts, hdue, hready, hroom]
  have hb : c.dueBad = false := by simp [Ctx.dueBad, hdue, hbad]
  have hland : s.landDue a = (s.landOne a p).onCtx a fun c => { c with pend := c.pend.filter fun p => !p.isDue } := by
    simp [State.landDue, hc, hdue]
  show execResultLanding a s = _
  simp [execResultLanding, hc, hr, hb, hland]

end

/-- Settles O30: one due result lands through `Ctx.land` and `State.landOne`, whose registers the lemmas above read. -/
theorem resultLanding : Obligations.ResultLanding := by
  unfold Obligations.ResultLanding
  intro s a n c p rest hc hpend hleft hready hrest
  have hdue := Ctx.due_single hpend hleft hready hrest
  refine ⟨?_, ?_, ?_⟩
  · intro hstats hrun hfull hsmall
    refine exec_resultLanding_wait hc hdue hready ?_
    have h1 : ¬ c.statq.length + p.stats.length ≤ c.statDepth := Nat.not_le.mpr hfull
    have h2 : ¬ 4096 ≤ c.statDepth := Nat.not_le.mpr hsmall
    simp [Ctx.statRoom, hstats, hrun, h1, h2]
  · intro hstats hbad hreal hrun
    exact exec_resultLanding_bad hc hdue hready (by simp [Ctx.statRoom, hstats]) hbad hreal hrun
  · intro hbad hroom
    have hroom' : c.statRoom p.stats.length = true := by
      rcases hroom with h | h <;> simp [Ctx.statRoom, h]
    have hfilter : rest.filter (fun p => !p.isDue) = rest :=
      List.filter_eq_self.mpr fun q hq => by simp [Pend.isDue, hrest q hq]
    have hgone : (p :: rest).filter (fun p => !p.isDue) = rest := by
      rw [List.filter_cons_of_neg (by simp [Pend.isDue, hleft, hready]), hfilter]
    obtain ⟨q, l, hpost⟩ := (c.landed p).post_eq p.pos p.eng p.stats
    obtain ⟨hpc, hpends, hstatq⟩ := c.landed_rest p
    have hland : c.land p = { c.landed p with statq := q, lost := l } := by rw [Ctx.land_eq_landed, hpost]
    have hq : p.stats = [] → q = c.statq := fun h => by
      have hsame : (c.landed p).post p.pos p.eng p.stats = c.landed p := by rw [h]; rfl
      rw [← hstatq, ← hsame, hpost]
    have hctx : ((s.landOne a p).onCtx a fun c => { c with pend := c.pend.filter fun p => !p.isDue }).ctx a =
        some { c.landed p with statq := q, lost := l, pend := rest } := by
      rw [State.onCtx_ctx, State.landOne_ctx s a p hc, hland, Option.map_some]
      simp only [hpends, hpend, hgone]
    have hreadV : ∀ k, ((s.landOne a p).onCtx a fun c => { c with pend := c.pend.filter fun p => !p.isDue }).readV a k =
        (s.landOne a p).readV a k := fun k => by rw [State.readV, State.onCtx_regmem]; rfl
    refine ⟨_, _, exec_resultLanding_lands hc hdue hready hroom' hbad, hctx, rfl, ?_, hpc, ?_,
      c.landed_readS p n, c.landed_readS_other p n, c.landed_readW p n, c.landed_readW_other p n, c.landed_readQ p n,
      c.landed_readQ_other p n, fun h hn i hi => c.landed_readP p n h hn hi, c.landed_readP_other p n, ?_, ?_,
      c.landed_readXp p n, c.landed_readXp_other p n, c.landed_fmt p, c.landed_fmt_other p, hq⟩
    · rw [State.onCtx_mem, State.landOne_mem]
    · intro b hb
      rw [State.onCtx_ctx_ne _ _ hb, State.landOne_ctx_ne s a p hb]
    · intro h
      rw [hreadV, State.landOne_readV s a p h]
    · intro h
      rw [hreadV, State.landOne_readV_other s a p h]

end Sys2Proof.Machine

namespace Sys2Proof.Machine

/-! ### Tables under a map of their values -/

theorem AL.find_cons {α : Type} (e : Nat × α) (m : AL α) (k : Nat) :
    AL.find (e :: m) k = if e.1 = k then some e.2 else AL.find m k := by
  rw [AL.find, List.map_cons, AL.get]
  rfl

theorem AL.find_map {α : Type} (m : AL α) (f : Nat → α → α) (k : Nat) :
    AL.find (m.map fun e => (e.1, f e.1 e.2)) k = (AL.find m k).map (f k) := by
  induction m with
  | nil => rfl
  | cons e m ih =>
    rw [List.map_cons, AL.find_cons, AL.find_cons, ih]
    by_cases h : e.1 = k
    · simp [h]
    · simp [h]

/-! ### The choice of the context that issues (16 R340, R341, R345) -/

/-- A context of a slot that stands in a list of contexts. -/
def Among (l : List (Nat × Ctx)) (a : Nat) : Prop := ∃ c, (a, c) ∈ l

/-- A context of a list whose count of waiting cycles has reached its bound. -/
def Waits (l : List (Nat × Ctx)) (a : Nat) : Prop := ∃ c, (a, c) ∈ l ∧ 4096 ≤ c.waitCount

theorem any_fst_iff (l : List (Nat × Ctx)) (a : Nat) : (l.any fun e => e.1 == a) = true ↔ Among l a := by
  simp [Among]

theorem starving_none_iff (l : List (Nat × Ctx)) : starving l = none ↔ ∀ b, ¬ Waits l b := by
  simp only [starving, Option.map_eq_none_iff, List.find?_eq_none, decide_eq_true_eq, Waits, Prod.forall, not_exists, not_and]

theorem waits_of_starving {l : List (Nat × Ctx)} {a : Nat} (h : starving l = some a) : Waits l a := by
  simp only [starving, Option.map_eq_some_iff] at h
  obtain ⟨e, he, rfl⟩ := h
  exact ⟨e.2, List.mem_of_find?_eq_some he, by simpa using List.find?_some he⟩

/-- A filter of an option by standing in a list. -/
theorem filter_among_some {o : Option Nat} {l : List (Nat × Ctx)} {a : Nat} (h : o = some a) (ha : Among l a) :
    o.filter (fun b => l.any fun e => e.1 == b) = some a := by
  rw [h]
  exact Option.filter_some_pos ((any_fst_iff l a).mpr ha)

theorem filter_among_none {o : Option Nat} {l : List (Nat × Ctx)} (h : ∀ b, o = some b → ¬ Among l b) :
    o.filter (fun b => l.any fun e => e.1 == b) = none := by
  rw [Option.filter_eq_none_iff]
  intro b hb
  rw [any_fst_iff]
  exact h b hb

section
variable (s : State) (core : Nat)

/-- The clock of the core's span, derated as its die is (R391). -/
theorem State.spanMHz_eq : s.spanMHz (core / 4) =
    match AL.get 0 s.derate (core / 48) with
    | 0 => (1050 + 42 * s.netSteps (core / 4)).toNat
    | 1 => min (1050 + 42 * s.netSteps (core / 4)).toNat 950
    | _ => min (1050 + 42 * s.netSteps (core / 4)).toNat 840 := by
  have hdie : core / 4 / 12 = core / 48 := by omega
  simp only [State.spanMHz, State.clockOf, hdie]
  rcases AL.get 0 s.derate (core / 48) with _ | _ | n <;> rfl

/-- The context that was given the issue last keeps it while no cycle of the clock has passed in which none issued. -/
theorem State.lastIssued_eq_some_iff (b : Nat) : s.lastIssued core = some b ↔
    (s.coreSt core).last = some b ∧ (s.coreSt core).chosen = none ∧
      ∃ t k, (s.coreSt core).issued = some (t, k) ∧
        (t = s.cycle ∨ s.clockCycles core s.cycle = s.clockCycles core t + k) := by
  unfold State.lastIssued
  dsimp only
  cases hi : (s.coreSt core).issued with
  | none => simp
  | some x =>
    obtain ⟨t, k⟩ := x
    have hc : (s.coreSt core).chosen = none ↔ (s.coreSt core).chosen.isSome = false := by simp
    simp only [Option.some.injEq, Prod.mk.injEq]
    rw [hc]
    constructor
    · intro h
      split at h
      · cases h
      · next hn =>
        simp only [Bool.or_eq_true, Bool.and_eq_true, bne_iff_ne, not_or, not_and, not_not] at hn
        refine ⟨h, Bool.eq_false_of_not_eq_true hn.1, t, k, ⟨rfl, rfl⟩, ?_⟩
        by_cases ht : t = s.cycle
        · exact .inl ht
        · exact .inr (hn.2 ht)
    · rintro ⟨hlast, hchosen, t', k', ⟨rfl, rfl⟩, ht⟩
      rw [if_neg ?_, hlast]
      simp only [hchosen, Bool.false_or, Bool.and_eq_true, bne_iff_ne, not_and, not_not]
      intro hne
      exact ht.resolve_left hne

section
variable {s core} {a : Nat}

theorem State.pick_grant (h : (s.coreSt core).grant = some a) (ha : Among (s.readyOn core) a) :
    s.pick core = some (a, false) := by
  simp only [State.pick, filter_among_some h ha]

variable (hgrant : ∀ b, (s.coreSt core).grant = some b → ¬ Among (s.readyOn core) b)
include hgrant

theorem State.pick_starving (h : starving (s.readyOn core) = some a) : s.pick core = some (a, false) := by
  simp only [State.pick, filter_among_none hgrant, h]

theorem State.pick_last (h : starving (s.readyOn core) = none) (hlast : s.lastIssued core = some a)
    (ha : Among (s.readyOn core) a) : s.pick core = some (a, false) := by
  simp only [State.pick, filter_among_none hgrant, h, filter_among_some hlast ha]

theorem State.pick_byPriority (h : starving (s.readyOn core) = none)
    (hlast : ∀ b, s.lastIssued core = some b → ¬ Among (s.readyOn core) b)
    (hprio : byPriority (s.coreSt core).turn (s.readyOn core) = some a) : s.pick core = some (a, true) := by
  simp only [State.pick, filter_among_none hgrant, h, filter_among_none hlast, hprio]

end

/-- How many issues the core has given in this cycle, the one that is still to be made apart. -/
def State.givenNow : Nat :=
  if (s.coreSt core).chosen.any (fun b => s.hasTurn b) then (s.coreSt core).given s.cycle - 1 else (s.coreSt core).given s.cycle

/-- Whether the core gives the issue of the cycle (once more). -/
def State.MayGive : Prop :=
  (∀ b, (s.coreSt core).chosen = some b → s.hasTurn b = true → s.readyNow b = false) ∧ s.givenNow core < s.issueRate core

/-- `ISSUE_SELECTION` while the context that has the issue is still to issue, or the cycle has no issue left. -/
theorem exec_issueSelection_keeps
    (h : (∃ b, (s.coreSt core).chosen = some b ∧ s.hasTurn b = true ∧ s.readyNow b = true) ∨
      ((∀ b, (s.coreSt core).chosen = some b → s.hasTurn b = false) ∧ s.issueRate core ≤ s.givenNow core)) :
    exec (.issueSelection core) s = .next s := by
  show execIssueSelection core s = _
  rcases h with ⟨b, hb, hturn, hready⟩ | ⟨hnone, hrate⟩
  · simp [execIssueSelection, hb, hturn, hready]
  · have hopen : (s.coreSt core).chosen.any (fun a => s.hasTurn a) = false := by
      rw [Option.any_eq_false]
      intro b hb
      simp [hnone b hb]
    rw [State.givenNow, hopen, if_neg Bool.false_ne_true] at hrate
    simp [execIssueSelection, hopen, hrate]

variable {s core} in
/-- `ISSUE_SELECTION` gives the issue to the context that is picked. -/
theorem exec_issueSelection_gives {a : Nat} {turn : Bool} (hfree : s.MayGive core) (hpick : s.pick core = some (a, turn)) :
    exec (.issueSelection core) s = .next (s.give core a turn (s.givenNow core)) := by
  obtain ⟨hdone, hrate⟩ := hfree
  have hkeep : ¬ (((s.coreSt core).chosen.any fun a => s.hasTurn a) && (s.coreSt core).chosen.any fun a => s.readyNow a) = true := by
    cases hb : (s.coreSt core).chosen with
    | none => simp
    | some b =>
      simp only [Option.any_some, Bool.and_eq_true, not_and, Bool.not_eq_true]
      exact hdone b hb
  have hm : ¬ s.issueRate core ≤ s.givenNow core := Nat.not_le.mpr hrate
  show execIssueSelection core s = _
  unfold execIssueSelection
  simp only [hkeep]
  rw [State.givenNow] at hm ⊢
  simp only [if_neg hm, hpick, Bool.false_eq_true, if_false]

/-- A ready context of a core has the issue once the core has given it. -/
theorem State.give_hasTurn {a : Nat} (n : Nat) (h : Among (s.readyOn core) a) : (s.give core a false n).hasTurn a = true := by
  obtain ⟨c, hc⟩ := h
  have hcore : coreOf a = core := by
    have := (List.mem_filter.mp hc).2
    simp only [Bool.and_eq_true, beq_iff_eq] at this
    exact this.1
  simp [State.hasTurn, State.give, State.onCore, State.coreSt, hcore]

/-- A context that is being saved, whose banks are vacated or that `YIELD` passes over is not ready. -/
theorem State.readyNow_false {a : Nat} {c : Ctx} (hc : s.ctx a = some c)
    (h : c.stopped = true ∨ c.vacating = true ∨ c.yieldPass = true) : s.readyNow a = false := by
  have hcur : ({ s with cur := a } : State).ctx a = some c := hc
  have hstays : c.stopped = true ∨ c.vacating = true → (({ s with cur := a } : State).issueAt a).ctx a = some c := by
    intro hstop
    have hcannot : c.cannotIssue = true := by
      rcases hstop with h | h <;> simp [Ctx.cannotIssue, h]
    simp only [State.issueAt, hcur, hcannot, if_true]
  unfold State.readyNow
  rw [hc]
  rcases h with h | h | h
  · simp [hstays (.inl h)]
  · simp [hstays (.inr h)]
  · simp [h]

/-- `YIELD_PASS_END` once every other ready context of the core has issued, or 64 cycles have passed. -/
theorem exec_yieldPassEnd {a : Nat} {c : Ctx} (hc : s.ctx a = some c) (hpass : c.yieldPass = true)
    (h : c.yieldAt + 64 ≤ s.cycle ∨ ∀ b d, (b, d) ∈ s.readyOn (coreOf a) → b ≠ a → d.cid ∈ c.yieldSeen) :
    exec (.yieldPassEnd a) s = .next (s.setCtx a { c with yieldPass := false, yieldSeen := [] }) := by
  have hcond : (decide (c.yieldAt + 64 ≤ s.cycle) ||
      ((s.readyOn (coreOf a)).filter fun e => e.1 != a).all fun e => c.yieldSeen.contains e.2.cid) = true := by
    rw [Bool.or_eq_true, decide_eq_true_eq]
    refine h.imp_right fun hall => ?_
    rw [List.all_eq_true]
    intro e he
    obtain ⟨hmem, hne⟩ := List.mem_filter.mp he
    exact List.contains_iff_mem.mpr (hall e.1 e.2 hmem (by simpa using hne))
  show execYieldPassEnd a s = _
  unfold execYieldPassEnd
  simp only [hc, hpass, hcond, Bool.true_and, if_true]

/-- The contexts of a core after one of it has issued. -/
theorem State.seenIssue_ctx (a cid b : Nat) (ready : List Nat) : (s.seenIssue a cid ready).ctx b =
    (s.ctx b).map fun c => if coreOf b == coreOf a && b != a then c.sawIssue cid s.cycle (ready.contains b) else c := by
  have hmap : (s.seenIssue a cid ready).ctxs = s.ctxs.map fun e =>
      (e.1, if coreOf e.1 == coreOf a && e.1 != a then e.2.sawIssue cid s.cycle (ready.contains e.1) else e.2) :=
    List.map_congr_left fun e _ => by split <;> rfl
  unfold State.ctx
  rw [hmap]
  exact AL.find_map s.ctxs
    (fun k c => if coreOf k == coreOf a && k != a then c.sawIssue cid s.cycle (ready.contains k) else c) b

end

/-- Settles O31: each clause is `ISSUE_SELECTION` with the pick it names, or a step of the lemmas above. -/
theorem issueSelection : Obligations.IssueSelection := by
  unfold Obligations.IssueSelection
  intro s core a l x given open_ n own mhz rate free ready waits ungranted ended keeps
  have hmhz : s.spanMHz (core / 4) = mhz := s.spanMHz_eq core
  have hrate : s.issueRate core = rate := by
    show (s.cycle + 1) * s.spanMHz (core / 4) / 1050 - s.cycle * s.spanMHz (core / 4) / 1050 = rate
    rw [hmhz]
  have hgiven : s.givenNow core = n := rfl
  have hfree : free → s.MayGive core := fun h => ⟨h.1, by rw [hgiven, hrate]; exact h.2⟩
  have hkeeps : ∀ b, s.lastIssued core = some b ↔ keeps b := fun b => by
    simp only [State.lastIssued_eq_some_iff, State.clockCycles, hmhz]
    exact Iff.rfl
  refine ⟨?_, ?_, ?_, ?_, ?_, ?_, s.give_hasTurn core n, starving_none_iff l, ?_, ?_, ?_, ?_⟩
  · intro h hgrant ha
    exact exec_issueSelection_gives (hfree h) (State.pick_grant hgrant ha)
  · intro h hgrant hstar
    exact ⟨waits_of_starving hstar, exec_issueSelection_gives (hfree h) (State.pick_starving hgrant hstar)⟩
  · intro h hgrant hstar hlast ha
    exact exec_issueSelection_gives (hfree h) (State.pick_last hgrant hstar ((hkeeps a).mpr hlast) ha)
  · intro h hgrant hstar hlast hprio
    exact exec_issueSelection_gives (hfree h)
      (State.pick_byPriority hgrant hstar (fun b hb => hlast b ((hkeeps b).mp hb)) hprio)
  · intro hclosed hn
    refine exec_issueSelection_keeps s core (.inr ⟨fun b hb => ?_, by rw [hgiven, hrate]; exact hn⟩)
    exact Bool.eq_false_of_not_eq_true fun hturn => hclosed ⟨b, hb, hturn⟩
  · intro hchosen hturn hready
    exact exec_issueSelection_keeps s core (.inl ⟨a, hchosen, hturn, hready⟩)
  · intro hstar
    show execStarvationGrant core s = _
    simp only [execStarvationGrant, show starving (s.readyOn core) = some a from hstar]
  · intro c hc h
    exact s.readyNow_false hc h
  · intro c hc hpass h
    exact exec_yieldPassEnd s hc hpass h
  · intro b cid c hc t could
    have ht : t.ctx b = some (if coreOf b == coreOf a && b != a then
        c.sawIssue cid s.cycle (((s.readyOn (coreOf a)).map (·.1)).contains b) else c) := by
      rw [State.seenIssue_ctx, hc, Option.map_some]
    have hcould : ((s.readyOn (coreOf a)).map (·.1)).contains b = true ↔ could := by
      simp [could]
    refine ⟨fun hother => ?_, fun hcore hne => ⟨_, ht, ?_⟩⟩
    · rw [ht, if_neg ?_]
      rcases hother with h | h <;> simp [h]
    · rw [if_pos (by simp [hcore, hne])]
      refine ⟨fun hready hw => ?_, fun h => ?_, rfl⟩
      · simp only [Ctx.sawIssue, hcould.mpr hready, Bool.true_and, bne_iff_ne, ne_eq, hw, not_false_eq_true, if_true,
          and_self]
      · rcases h with h | h
        · have hno := Bool.eq_false_of_not_eq_true (mt hcould.mp h)
          simp only [Ctx.sawIssue, hno, Bool.false_and, Bool.false_eq_true, if_false]
        · simp [Ctx.sawIssue, h]

end Sys2Proof.Machine

namespace Sys2Proof.Machine

/-! ### One gang instance of the package -/

/-- A changed instance reads as changed, when the change keeps its task and its number. -/
theorem State.onInst_inst (s : State) (task num : Nat) (f : GInst → GInst) (h : ∀ g, (f g).task = g.task ∧ (f g).num = g.num) :
    (s.onInst task num f).inst task num = (s.inst task num).map f := by
  unfold State.inst State.onInst
  simp only
  induction s.insts with
  | nil => rfl
  | cons g l ih =>
    rw [List.map_cons]
    cases hg : (g.task == task && g.num == num) with
    | true =>
      have hf : ((f g).task == task && (f g).num == num) = true := by rw [(h g).1, (h g).2, hg]
      simp [hg, hf]
    | false => simpa [hg] using ih

theorem State.onInst_inst_of {s : State} {task num : Nat} {g : GInst} (hg : s.inst task num = some g) (f : GInst → GInst)
    (h : ∀ g, (f g).task = g.task ∧ (f g).num = g.num) : (s.onInst task num f).inst task num = some (f g) := by
  rw [s.onInst_inst task num f h, hg, Option.map_some]

@[simp] theorem State.onInst_ctx (s : State) (task num a : Nat) (f : GInst → GInst) : (s.onInst task num f).ctx a = s.ctx a := rfl

/-! ### Barriers (06 R160, 16 R345) -/

theorem AL.find_del_same {α : Type} (m : AL α) (k : Nat) : AL.find (AL.del m k) k = none := by
  refine AL.get_of_absent none _ k fun e he => ?_
  obtain ⟨x, hx, rfl⟩ := List.mem_map.mp he
  exact AL.absent_del m k x hx

theorem AL.find_del_ne {α : Type} (m : AL α) {j k : Nat} (h : j ≠ k) : AL.find (AL.del m k) j = AL.find m j := by
  have hmap : (AL.del m k).map (fun e => (e.1, some e.2)) = AL.del (m.map fun e => (e.1, some e.2)) k := by
    simp [AL.del, List.filter_map, Function.comp_def]
  rw [AL.find, hmap, AL.get_del_ne none _ h]
  rfl

/-- The clock step of a gang barrier's release is to be made: the spans differ and both stay within −5 to +5. -/
def State.MaySteer (s : State) (gain lose : Nat) : Prop := gain ≠ lose ∧ s.netSteps gain < 5 ∧ -5 < s.netSteps lose

/-- The steps of an instance once one has moved from a span to another. -/
def movedStep (steps : AL Int) (gain lose : Nat) : AL Int :=
  AL.set 0 (AL.set 0 steps gain (AL.get 0 steps gain + 1)) lose
    (AL.get 0 (AL.set 0 steps gain (AL.get 0 steps gain + 1)) lose - 1)

theorem movedStep_gain (steps : AL Int) {gain lose : Nat} (h : gain ≠ lose) :
    AL.get 0 (movedStep steps gain lose) gain = AL.get 0 steps gain + 1 := by
  rw [movedStep, AL.get_set_ne _ _ _ h, AL.get_set_same]

theorem movedStep_lose (steps : AL Int) {gain lose : Nat} (h : gain ≠ lose) :
    AL.get 0 (movedStep steps gain lose) lose = AL.get 0 steps lose - 1 := by
  rw [movedStep, AL.get_set_same, AL.get_set_ne _ _ _ h.symm]

theorem movedStep_other (steps : AL Int) {gain lose x : Nat} (hg : x ≠ gain) (hl : x ≠ lose) :
    AL.get 0 (movedStep steps gain lose) x = AL.get 0 steps x := by
  rw [movedStep, AL.get_set_ne _ _ _ hl, AL.get_set_ne _ _ _ hg]

section
variable (s : State) (task inst gain lose : Nat)

theorem State.steer_of_not_may (h : ¬ s.MaySteer gain lose) : s.steer task inst gain lose = s := by
  rw [State.steer, if_pos]
  simp only [State.MaySteer, not_and, not_lt] at h
  by_cases hne : gain = lose
  · exact .inl hne
  · by_cases hg : s.netSteps gain < 5
    · exact .inr (.inr (h hne hg))
    · exact .inr (.inl (not_lt.mp hg))

theorem State.steer_of_may (h : s.MaySteer gain lose) : s.steer task inst gain lose =
    if Config.powerAllows s.choices then
      ({ s with choices := s.choices + 1 } : State).onInst task inst fun g => { g with steps := movedStep g.steps gain lose }
    else { s with choices := s.choices + 1 } := by
  obtain ⟨hne, hg, hl⟩ := h
  rw [State.steer, if_neg]
  · rfl
  · rintro (h | h | h)
    · exact hne h
    · exact absurd hg (not_lt.mpr h)
    · exact absurd hl (not_lt.mpr h)

theorem State.steer_ctx (a : Nat) : (s.steer task inst gain lose).ctx a = s.ctx a := by
  by_cases h : s.MaySteer gain lose
  · rw [s.steer_of_may task inst gain lose h]
    split <;> rfl
  · rw [s.steer_of_not_may task inst gain lose h]

theorem State.steer_choices [Decidable (s.MaySteer gain lose)] :
    (s.steer task inst gain lose).choices = s.choices + if s.MaySteer gain lose then 1 else 0 := by
  by_cases h : s.MaySteer gain lose
  · rw [s.steer_of_may task inst gain lose h, if_pos h]
    split <;> rfl
  · rw [s.steer_of_not_may task inst gain lose h, if_neg h, Nat.add_zero]

/-- A clock step that is made moves one step of its instance. -/
theorem State.steer_inst_moved {g : GInst} (hg : s.inst task inst = some g) (h : s.MaySteer gain lose)
    (hp : Config.powerAllows s.choices = true) :
    (s.steer task inst gain lose).inst task inst = some { g with steps := movedStep g.steps gain lose } := by
  rw [s.steer_of_may task inst gain lose h, if_pos hp]
  exact State.onInst_inst_of hg (fun g => { g with steps := movedStep g.steps gain lose }) fun _ => ⟨rfl, rfl⟩

theorem State.steer_inst_kept {g : GInst} (hg : s.inst task inst = some g)
    (h : ¬ (s.MaySteer gain lose ∧ Config.powerAllows s.choices = true)) :
    (s.steer task inst gain lose).inst task inst = some g := by
  by_cases hm : s.MaySteer gain lose
  · rw [s.steer_of_may task inst gain lose hm, if_neg fun hp => h ⟨hm, hp⟩]
    exact hg
  · rw [s.steer_of_not_may task inst gain lose hm]
    exact hg

/-- A clock step leaves the contexts, and of an instance all but its steps. -/
theorem State.steer_frame {g : GInst} (hg : s.inst task inst = some g) : (∀ a, (s.steer task inst gain lose).ctx a = s.ctx a) ∧
    ∃ steps, (s.steer task inst gain lose).inst task inst = some { g with steps := steps } := by
  refine ⟨s.steer_ctx task inst gain lose, ?_⟩
  by_cases h : s.MaySteer gain lose ∧ Config.powerAllows s.choices = true
  · exact ⟨_, s.steer_inst_moved task inst gain lose hg h.1 h.2⟩
  · exact ⟨g.steps, s.steer_inst_kept task inst gain lose hg h⟩

end

/-- An instance forgets the first and the last arriver at a barrier. -/
def GInst.forget (b : Nat) (g : GInst) : GInst := { g with first := AL.del g.first b, last := AL.del g.last b }

/-- What the release of a gang barrier makes of the package: the clock step of its first and last arrivers, if both are
still known. -/
def State.steered (s : State) (task inst : Nat) (g : GInst) (b : Nat) : State :=
  match AL.find g.first b, AL.find g.last b with
  | some f, some l => s.steerBy task inst l f
  | _, _ => s

theorem State.steered_frame (s : State) {task inst : Nat} {g : GInst} (hg : s.inst task inst = some g) (b : Nat) :
    (∀ a, (s.steered task inst g b).ctx a = s.ctx a) ∧
      ∃ steps, (s.steered task inst g b).inst task inst = some { g with steps := steps } := by
  have hsame : (∀ a, s.ctx a = s.ctx a) ∧ ∃ steps, s.inst task inst = some { g with steps := steps } :=
    ⟨fun _ => rfl, g.steps, hg⟩
  unfold State.steered
  split
  · unfold State.steerBy
    split
    · exact s.steer_frame task inst _ _ hg
    · exact hsame
  · exact hsame

/-- The arrivers of the barrier are known, and so are the spans on which they are. -/
theorem State.steered_of_members (s : State) {task inst : Nat} {g : GInst} (hg : s.inst task inst = some g) {b lc fc : Nat}
    {lm fm : Member} (hl : AL.find g.last b = some lc) (hf : AL.find g.first b = some fc)
    (hlm : (g.members.find? fun m => m.cid == lc) = some lm) (hfm : (g.members.find? fun m => m.cid == fc) = some fm) :
    s.steered task inst g b = s.steer task inst (spanOf lm.agent) (spanOf fm.agent) := by
  simp only [State.steered, hl, hf, State.steerBy, State.spanOfCid, hg, Option.bind_some, hlm, hfm, Option.map_some]

/-- The members of an instance that meet at a barrier of a team or of the whole instance. -/
def GInst.meet (g : GInst) (gang : Bool) (team : Nat) : List Member := g.members.filter fun m => gang || m.team == team

/-- The witness with which a member stands at a barrier; an exited one stands with none. -/
def State.memberStands (s : State) (gang : Bool) (b : Nat) (m : Member) : Option W64 :=
  if m.exited then some 0 else (s.ctxOf m.agent m.cid).bind fun c => c.standsAt gang b

/-- The members that wait are released with the witness merged over all members in order. -/
def State.freed (s : State) (gang : Bool) (b : Nat) (ms : List Member) : State :=
  ms.foldl (fun (s' : State) x => if x.exited then s' else s'.onCtx x.agent fun c => c.letGo gang b
    (ms.foldl (fun w m => witMerge w ((s.memberStands gang b m).getD 0)) 0)) s

theorem State.freed_frame (s : State) (gang : Bool) (b : Nat) (ms : List Member) :
    (s.freed gang b ms).insts = s.insts ∧ (s.freed gang b ms).choices = s.choices := by
  unfold State.freed
  generalize ms.foldl (fun w m => witMerge w ((s.memberStands gang b m).getD 0)) 0 = w
  refine List.foldlRecOn (motive := fun u : State => u.insts = s.insts ∧ u.choices = s.choices) ms _ ⟨rfl, rfl⟩ fun u hu x _ => ?_
  obtain ⟨hinsts, hchoices⟩ := hu
  by_cases hx : x.exited = true
  · rw [if_pos hx]
    exact ⟨hinsts, hchoices⟩
  · rw [if_neg hx]
    exact ⟨(State.onCtx_insts _ _ _).trans hinsts, (State.onCtx_choices _ _ _).trans hchoices⟩

section
variable {s : State} {task inst : Nat} {g : GInst} (hg : s.inst task inst = some g) (gang : Bool) (team b : Nat)
include hg

/-- `BARRIER_RELEASE` while a member is neither at the barrier nor gone. -/
theorem exec_barrierRelease_waits (h : ∃ m ∈ g.meet gang team, s.memberStands gang b m = none) :
    exec (.barrierRelease task inst gang team b) s = .next s := by
  obtain ⟨m, hm, hnone⟩ := h
  have hany : ((g.meet gang team).map (s.memberStands gang b)).any Option.isNone = true := by
    rw [List.any_map, List.any_eq_true]
    exact ⟨m, hm, by simp [hnone]⟩
  have hcond : (g.status != .placed || (g.meet gang team).all (·.exited) ||
      ((g.meet gang team).map (s.memberStands gang b)).any Option.isNone) = true := by
    rw [hany, Bool.or_true]
  show execBarrierRelease task inst gang team b s = _
  simp only [execBarrierRelease, hg]
  exact if_pos hcond

variable (hplaced : g.status = .placed) (hone : ∃ m ∈ g.meet gang team, m.exited = false)
  (hall : ∀ m ∈ g.meet gang team, (s.memberStands gang b m).isSome)
include hplaced hone hall

/-- `BARRIER_RELEASE` once every member has arrived or has exited. -/
theorem exec_barrierRelease : exec (.barrierRelease task inst gang team b) s =
    if !gang then .next (s.freed gang b (g.meet gang team))
    else .next (((s.freed gang b (g.meet gang team)).steered task inst g b).onInst task inst (GInst.forget b)) := by
  have hany : ((g.meet gang team).map (s.memberStands gang b)).any Option.isNone = false := by
    rw [List.any_map, List.any_eq_false]
    intro m hm
    simpa [Option.isSome_iff_ne_none] using hall m hm
  have hexited : (g.meet gang team).all (·.exited) = false := by
    obtain ⟨m, hm, hx⟩ := hone
    rw [List.all_eq_false]
    exact ⟨m, hm, by simp [hx]⟩
  have hcond : (g.status != .placed || (g.meet gang team).all (·.exited) ||
      ((g.meet gang team).map (s.memberStands gang b)).any Option.isNone) = false := by
    rw [hany, hexited, hplaced]
    rfl
  have hmerge : ((g.meet gang team).map (s.memberStands gang b)).foldl (fun w x => witMerge w (x.getD 0)) 0 =
      (g.meet gang team).foldl (fun w m => witMerge w ((s.memberStands gang b m).getD 0)) 0 := List.foldl_map
  show execBarrierRelease task inst gang team b s = _
  simp only [execBarrierRelease, hg]
  refine (if_neg (by rw [← Bool.not_eq_true] at hcond; exact hcond)).trans ?_
  simp only [State.freed, ← hmerge]
  rfl

end

/-- A context that waits at a barrier stands there with its witness, and is released. -/
theorem Ctx.standsAt_arrived {c : Ctx} {gang : Bool} {b : Nat} {w : W64} (m : W64) (ha : c.arrived = some (gang, b, w))
    (hr : c.released = none) : c.standsAt gang b = some w ∧ c.letGo gang b m = { c with released := some m } := by
  constructor
  · simp [Ctx.standsAt, ha, hr]
  · simp [Ctx.letGo, ha, hr]

/-- Settles O32: the release is `exec_barrierRelease`; its clock step is that of `State.steer`. -/
theorem barrierRelease : Obligations.BarrierRelease := by
  unfold Obligations.BarrierRelease
  intro s task inst team b gang g hg hplaced
  refine ⟨fun hone hall => ⟨fun hteam => ?_, fun hgang => ?_⟩, exec_barrierRelease_waits hg gang team b,
    fun c w m ha hr => Ctx.standsAt_arrived m ha hr⟩
  · rw [exec_barrierRelease hg gang team b hplaced hone hall, hteam]
    rfl
  · obtain ⟨hinsts, hchoices⟩ := s.freed_frame gang b (g.meet gang team)
    have hexec := exec_barrierRelease hg gang team b hplaced hone hall
    rw [hgang, Bool.not_true, if_neg Bool.false_ne_true, ← hgang] at hexec
    generalize hfreed : s.freed gang b (g.meet gang team) = freed at hinsts hchoices hexec
    have hg1 : freed.inst task inst = some g := by rw [State.inst, hinsts]; exact hg
    obtain ⟨hctx, steps, hinst⟩ := freed.steered_frame hg1 b
    refine ⟨_, hexec, fun a => (hctx a).trans (congrArg (fun t : State => t.ctx a) hfreed.symm), _,
      State.onInst_inst_of hinst (GInst.forget b) fun _ => ⟨rfl, rfl⟩, rfl, AL.find_del_same _ _, AL.find_del_same _ _,
      fun k hk => ⟨AL.find_del_ne _ hk, AL.find_del_ne _ hk⟩, ?_⟩
    intro lc fc lm fm hl hf hlm hfm net gain lose may
    have hnet : ∀ x, freed.netSteps x = net x := fun x => by rw [State.netSteps, hinsts]
    have hmay : freed.MaySteer gain lose ↔ may := by rw [State.MaySteer, hnet, hnet]
    have hsteer := freed.steered_of_members hg1 hl hf hlm hfm
    rw [hsteer] at hinst
    refine ⟨fun hm hp => ?_, fun hno => ?_, ?_⟩
    · rw [freed.steer_inst_moved task inst gain lose hg1 (hmay.mpr hm) (by rw [hchoices]; exact hp)] at hinst
      have hsteps : movedStep g.steps gain lose = steps := congrArg GInst.steps (Option.some.inj hinst)
      show AL.get 0 steps gain = _ ∧ AL.get 0 steps lose = _ ∧ ∀ x, x ≠ gain → x ≠ lose → AL.get 0 steps x = _
      rw [← hsteps]
      exact ⟨movedStep_gain _ hm.1, movedStep_lose _ hm.1, fun x hx hy => movedStep_other _ hx hy⟩
    · rw [freed.steer_inst_kept task inst gain lose hg1 (by rw [hchoices, hmay]; exact hno)] at hinst
      exact (congrArg GInst.steps (Option.some.inj hinst)).symm
    · show (freed.steered task inst g b).choices = _
      have : Decidable (freed.MaySteer gain lose) := Classical.propDecidable _
      rw [hsteer, State.steer_choices, hchoices]
      by_cases hm : may
      · rw [if_pos (hmay.mpr hm), if_pos hm]
      · rw [if_neg (mt hmay.mp hm), if_neg hm]

end Sys2Proof.Machine

namespace Sys2Proof.Machine

/-! ### Bytes and fields of lists of bytes (01 R4) -/

@[simp] theorem length_natLe (n v : Nat) : (natLe n v).length = n := by
  induction n generalizing v with
  | zero => rfl
  | succ n ih => rw [natLe, List.length_cons, ih]

theorem leNat_natLe (n v : Nat) : leNat (natLe n v) = v % 256 ^ n := by
  induction n generalizing v with
  | zero => simp [natLe, leNat, Nat.mod_one]
  | succ n ih =>
    rw [natLe, leNat, ih, Nat.pow_succ', Nat.mod_mul, BitVec.toNat_ofNat]

theorem leNat_lt (bs : List Byte) : leNat bs < 256 ^ bs.length := by
  induction bs with
  | nil => exact Nat.one_pos
  | cons b r ih =>
    have hb : b.toNat < 256 := b.isLt
    rw [leNat, List.length_cons, Nat.pow_succ']
    omega

/-- The bytes of a slice, one by one. -/
theorem sliceBytes_eq_map (bs : List Byte) (o n : Nat) : sliceBytes bs o n = (List.range n).map fun i => bs[o + i]?.getD 0 := by
  refine List.ext_getElem ?_ fun i h1 h2 => ?_
  · simp only [sliceBytes, List.length_append, List.length_replicate, List.length_map, List.length_range, List.length_take]
    omega
  · have hi : i < n := by simpa using h2
    rw [List.getElem_map, List.getElem_range]
    simp only [sliceBytes, List.getElem_append]
    split
    · next h =>
      rw [List.getElem_take, List.getElem_drop, List.getElem?_eq_getElem, Option.getD_some]
    · next h =>
      have hlen : bs.length ≤ o + i := by
        simp only [List.length_take, List.length_drop, not_lt] at h
        omega
      rw [List.getElem_replicate, List.getElem?_eq_none hlen, Option.getD_none]

@[simp] theorem length_sliceBytes (bs : List Byte) (o n : Nat) : (sliceBytes bs o n).length = n := by
  simp [sliceBytes_eq_map]

/-- A slice depends on its own bytes alone. -/
theorem sliceBytes_congr {a b : List Byte} {o p n : Nat} (h : ∀ i < n, a[o + i]? = b[p + i]?) :
    sliceBytes a o n = sliceBytes b p n := by
  rw [sliceBytes_eq_map, sliceBytes_eq_map]
  exact List.map_congr_left fun i hi => by rw [h i (List.mem_range.mp hi)]

theorem sliceBytes_append_left {a b : List Byte} {o n : Nat} (h : o + n ≤ a.length) :
    sliceBytes (a ++ b) o n = sliceBytes a o n :=
  sliceBytes_congr fun i hi => List.getElem?_append_left (by omega)

theorem sliceBytes_append_right {a b : List Byte} {o n : Nat} (h : a.length ≤ o) :
    sliceBytes (a ++ b) o n = sliceBytes b (o - a.length) n :=
  sliceBytes_congr fun i _ => by
    rw [List.getElem?_append_right (by omega), Nat.sub_add_comm h]

theorem sliceBytes_all {bs : List Byte} {n : Nat} (h : bs.length = n) : sliceBytes bs 0 n = bs := by
  simp [sliceBytes, ← h]

theorem fieldAt_lt (bs : List Byte) (o n : Nat) : fieldAt bs o n < 256 ^ n := by
  have h := leNat_lt (sliceBytes bs o n)
  rwa [length_sliceBytes] at h

theorem fieldAt_append_left {a b : List Byte} {o n : Nat} (h : o + n ≤ a.length) : fieldAt (a ++ b) o n = fieldAt a o n := by
  rw [fieldAt, sliceBytes_append_left h, fieldAt]

theorem fieldAt_append_right {a b : List Byte} {o n : Nat} (h : a.length ≤ o) :
    fieldAt (a ++ b) o n = fieldAt b (o - a.length) n := by
  rw [fieldAt, sliceBytes_append_right h, fieldAt]

@[simp] theorem fieldAt_natLe (n v : Nat) : fieldAt (natLe n v) 0 n = v % 256 ^ n := by
  rw [fieldAt, sliceBytes_all (length_natLe n v), leNat_natLe]

/-- The field that a list of bytes begins with. -/
theorem fieldAt_natLe_append (n v : Nat) (b : List Byte) : fieldAt (natLe n v ++ b) 0 n = v % 256 ^ n := by
  rw [fieldAt_append_left (by simp), fieldAt_natLe]

/-- A field beyond the one that a list of bytes begins with. -/
theorem fieldAt_natLe_append_right {n v o k : Nat} {b : List Byte} (h : n ≤ o) :
    fieldAt (natLe n v ++ b) o k = fieldAt b (o - n) k := by
  rw [fieldAt_append_right (by simpa using h), length_natLe]

/-- Bytes written over a list within its length. -/
theorem putBytes_eq {bs new : List Byte} {off : Nat} (h : off + new.length ≤ bs.length) :
    putBytes bs off new = bs.take off ++ (new ++ bs.drop (off + new.length)) := by
  rw [putBytes, List.append_assoc, List.take_of_length_le]
  simp only [List.length_append, List.length_take, List.length_drop]
  omega

theorem length_putBytes {bs new : List Byte} {off : Nat} (h : off + new.length ≤ bs.length) :
    (putBytes bs off new).length = bs.length := by
  rw [putBytes_eq h]
  simp only [List.length_append, List.length_take, List.length_drop]
  omega

section
variable {bs new : List Byte} {off o n : Nat} (hfit : off + new.length ≤ bs.length)
include hfit

/-- A field that lies in what was written over a list. -/
theorem fieldAt_putBytes_in (hlow : off ≤ o) (hhigh : o + n ≤ off + new.length) :
    fieldAt (putBytes bs off new) o n = fieldAt new (o - off) n := by
  have htake : (bs.take off).length = off := by rw [List.length_take]; omega
  rw [putBytes_eq hfit, fieldAt_append_right (by omega), htake, fieldAt_append_left (by omega)]

theorem fieldAt_putBytes_below (h : o + n ≤ off) : fieldAt (putBytes bs off new) o n = fieldAt bs o n := by
  rw [putBytes_eq hfit, fieldAt_append_left (by rw [List.length_take]; omega), fieldAt, fieldAt]
  exact congrArg leNat (sliceBytes_congr fun i hi => List.getElem?_take_of_lt (by omega))

theorem fieldAt_putBytes_above (h : off + new.length ≤ o) : fieldAt (putBytes bs off new) o n = fieldAt bs o n := by
  have htake : (bs.take off).length = off := by rw [List.length_take]; omega
  rw [putBytes_eq hfit, fieldAt_append_right (by omega), htake, fieldAt_append_right (by omega), fieldAt, fieldAt]
  refine congrArg leNat (sliceBytes_congr fun i _ => ?_)
  rw [List.getElem?_drop]
  congr 1
  omega

end

end Sys2Proof.Machine

namespace Sys2Proof.Machine

/-! ### Sync words (07 R204 to R206) -/

/-- The bytes of a sync word from 4 to 23: count, generation, flags and witness. -/
def syncTail (count gen flag : Nat) (w : W64) : List Byte := natLe 4 count ++ (natLe 4 gen ++ (natLe 4 flag ++ natLe 8 w.toNat))

theorem length_syncTail (count gen flag : Nat) (w : W64) : (syncTail count gen flag w).length = 20 := by
  simp [syncTail]

section
variable (bs : List Byte) (b : Nat) (m : W64)

/-- What an arrival writes where the count reaches the target. -/
theorem arriveWord_reaches (h : fieldAt bs 0 4 ≤ fieldAt bs 4 4 + b) : arriveWord bs b m =
    (putBytes bs 4 (syncTail (min (fieldAt bs 4 4 + b - fieldAt bs 0 4) (2 ^ 32 - 1)) ((fieldAt bs 8 4 + 1) % 2 ^ 32)
      (if fieldAt bs 0 4 ≤ fieldAt bs 4 4 + b - fieldAt bs 0 4 ∨ 2 ^ 32 ≤ fieldAt bs 4 4 + b - fieldAt bs 0 4 then 1
       else fieldAt bs 12 4 % 2) 0),
      some (witMerge (BitVec.ofNat 64 (fieldAt bs 16 8)) m)) := by
  have hover : (fieldAt bs 4 4 + b - fieldAt bs 0 4 ≥ fieldAt bs 0 4 ∨ fieldAt bs 4 4 + b - fieldAt bs 0 4 > 2 ^ 32 - 1) ↔
      (fieldAt bs 0 4 ≤ fieldAt bs 4 4 + b - fieldAt bs 0 4 ∨ 2 ^ 32 ≤ fieldAt bs 4 4 + b - fieldAt bs 0 4) := by omega
  simp only [arriveWord, ge_iff_le, h, if_true, syncTail, List.append_assoc]
  rw [if_congr hover rfl rfl]

/-- What an arrival writes where the count stays below the target. -/
theorem arriveWord_stays (h : fieldAt bs 4 4 + b < fieldAt bs 0 4) : arriveWord bs b m =
    (putBytes bs 4 (syncTail (fieldAt bs 4 4 + b) (fieldAt bs 8 4) (fieldAt bs 12 4 % 2)
      (witMerge (BitVec.ofNat 64 (fieldAt bs 16 8)) m)), none) := by
  simp only [arriveWord, ge_iff_le, Nat.not_le.mpr h, if_false, syncTail, List.append_assoc]

end

section
variable {bs : List Byte} (hlen : bs.length = 32) (count gen flag : Nat) (w : W64)
include hlen

/-- The fields of a sync word whose bytes from 4 to 23 are rewritten. -/
theorem putBytes_syncTail_fields :
    (putBytes bs 4 (syncTail count gen flag w)).length = 32 ∧
    fieldAt (putBytes bs 4 (syncTail count gen flag w)) 0 4 = fieldAt bs 0 4 ∧
    fieldAt (putBytes bs 4 (syncTail count gen flag w)) 24 8 = fieldAt bs 24 8 ∧
    fieldAt (putBytes bs 4 (syncTail count gen flag w)) 4 4 = count % 2 ^ 32 ∧
    fieldAt (putBytes bs 4 (syncTail count gen flag w)) 8 4 = gen % 2 ^ 32 ∧
    fieldAt (putBytes bs 4 (syncTail count gen flag w)) 12 4 = flag % 2 ^ 32 ∧
    fieldAt (putBytes bs 4 (syncTail count gen flag w)) 16 8 = w.toNat := by
  have htail := length_syncTail count gen flag w
  have hfit : 4 + (syncTail count gen flag w).length ≤ bs.length := by omega
  refine ⟨(length_putBytes hfit).trans hlen, fieldAt_putBytes_below hfit (by omega), fieldAt_putBytes_above hfit (by omega), ?_, ?_, ?_, ?_⟩
  all_goals rw [fieldAt_putBytes_in hfit (by omega) (by omega), syncTail]
  · exact fieldAt_natLe_append 4 count _
  · rw [fieldAt_natLe_append_right (by omega)]
    exact fieldAt_natLe_append 4 gen _
  · rw [fieldAt_natLe_append_right (by omega), fieldAt_natLe_append_right (by omega)]
    exact fieldAt_natLe_append 4 flag _
  · rw [fieldAt_natLe_append_right (by omega), fieldAt_natLe_append_right (by omega), fieldAt_natLe_append_right (by omega),
      fieldAt_natLe]
    exact Nat.mod_eq_of_lt w.isLt

end

/-- The fields of the word that `SWINIT` writes (R205). -/
theorem initWord_fields (sv : W64) : (initWord sv).length = 32 ∧ fieldAt (initWord sv) 0 4 = sv.toNat % 2 ^ 32 ∧
    fieldAt (initWord sv) 4 4 = 0 ∧ fieldAt (initWord sv) 8 4 = sv.toNat / 2 ^ 32 ∧ fieldAt (initWord sv) 12 4 = 0 ∧
    fieldAt (initWord sv) 16 8 = 0 ∧ fieldAt (initWord sv) 24 8 = 0 := by
  have hsv : sv.toNat < 2 ^ 64 := sv.isLt
  simp only [initWord, List.append_assoc]
  refine ⟨by simp, ?_, ?_, ?_, ?_, ?_, ?_⟩
  · rw [fieldAt_natLe_append]
    omega
  · rw [fieldAt_natLe_append_right (by omega), fieldAt_natLe_append, Nat.zero_mod]
  · rw [fieldAt_natLe_append_right (by omega), fieldAt_natLe_append_right (by omega), fieldAt_natLe_append]
    omega
  · rw [fieldAt_natLe_append_right (by omega), fieldAt_natLe_append_right (by omega), fieldAt_natLe_append_right (by omega),
      fieldAt_natLe_append, Nat.zero_mod]
  · rw [fieldAt_natLe_append_right (by omega), fieldAt_natLe_append_right (by omega), fieldAt_natLe_append_right (by omega),
      fieldAt_natLe_append_right (by omega), fieldAt_natLe_append, Nat.zero_mod]
  · rw [fieldAt_natLe_append_right (by omega), fieldAt_natLe_append_right (by omega), fieldAt_natLe_append_right (by omega),
      fieldAt_natLe_append_right (by omega), fieldAt_natLe_append_right (by omega), fieldAt_natLe, Nat.zero_mod]

/-- Whether an engine's arrival may be made: the bytes that it counts are visible (R287). -/
def State.ArrivalSeen (s : State) (r : Arrival) : Prop :=
  r.after = false ∨ ∀ f ∈ s.forms, f.isForm r.agent r.dom r.seq = true → scopeLevel f.wscope ≤ f.level

theorem State.arrivalSeen_iff (s : State) (r : Arrival) :
    (!r.after || s.forms.all fun f => !(f.isForm r.agent r.dom r.seq) || decide (f.level ≥ scopeLevel f.wscope)) = true ↔
      s.ArrivalSeen r := by
  simp only [Bool.or_eq_true, Bool.not_eq_true', List.all_eq_true, decide_eq_true_eq, ge_iff_le, State.ArrivalSeen,
    ← Bool.not_eq_true, ← imp_iff_not_or]

section
variable {s : State} {i : Nat} {r : Arrival} (hr : s.arrivals.find? (fun y => y.id == i) = some r)
include hr

theorem exec_syncArrive_unseen (h : ¬ s.ArrivalSeen r) : exec (.syncArrive i) s = .next s := by
  rw [← State.arrivalSeen_iff, Bool.not_eq_true] at h
  show execSyncArrive i s = _
  simp only [execSyncArrive, hr, h, Bool.not_false, if_true]

/-- An engine's arrival whose bytes are visible: made, waiting for its translation, or failed. -/
theorem exec_syncArrive_seen (h : s.ArrivalSeen r) : exec (.syncArrive i) s =
    match ({ s with arrivals := s.arrivals.filter fun y => y.id != i } : State).arriveAt true r.dom r.sp r.va r.bytes [r.floor]
      r.wit r.src with
    | .ok s2 _ => .next (if r.sp then s2 else s2.wroteLines r.agent r.cid r.dom 1 none r.pos [flatTag r.dom r.va])
    | .wait => .next s
    | .fault _ => .next (s.whenPosted
        (({ s with arrivals := s.arrivals.filter fun y => y.id != i } : State).arrivalFails r)) := by
  rw [← State.arrivalSeen_iff] at h
  show execSyncArrive i s = _
  simp only [execSyncArrive, hr, h, Bool.not_true, Bool.false_eq_true, if_false] <;> rfl

end

/-- Settles O33: the fields of the words that an arrival and `SWINIT` write, and the cases of `SYNC_ARRIVE`. -/
theorem syncWords : Obligations.SyncWords := by
  unfold Obligations.SyncWords
  refine ⟨?_, ?_⟩
  · intro bs b m sv hlen hb f r merged left
    obtain ⟨hl0, hf0, hf4, hf8, hf12, hf16, hf24⟩ := initWord_fields sv
    have hcount : fieldAt bs 4 4 < 2 ^ 32 := fieldAt_lt bs 4 4
    have htarget : fieldAt bs 0 4 < 2 ^ 32 := fieldAt_lt bs 0 4
    have hgen : fieldAt bs 8 4 < 2 ^ 32 := fieldAt_lt bs 8 4
    by_cases h : fieldAt bs 4 4 + b < fieldAt bs 0 4
    · have hr : r = _ := arriveWord_stays bs b m h
      obtain ⟨h32, h0, h24, h4, h8, h12, h16⟩ := putBytes_syncTail_fields hlen (fieldAt bs 4 4 + b) (fieldAt bs 8 4)
        (fieldAt bs 12 4 % 2) merged
      refine ⟨by rw [hr]; exact h32, by rw [hr]; exact h0, by rw [hr]; exact h24, fun _ => ?_, fun hno => absurd h (Nat.not_lt.mpr hno),
        hl0, hf0, hf4, hf8, hf12, hf16, hf24⟩
      rw [hr]
      refine ⟨rfl, h4.trans (Nat.mod_eq_of_lt (by omega)), h8.trans (Nat.mod_eq_of_lt hgen), h16, h12.trans (Nat.mod_eq_of_lt (by omega))⟩
    · have h' := Nat.not_lt.mp h
      have hr : r = _ := arriveWord_reaches bs b m h'
      obtain ⟨h32, h0, h24, h4, h8, h12, h16⟩ := putBytes_syncTail_fields hlen (min left (2 ^ 32 - 1))
        ((fieldAt bs 8 4 + 1) % 2 ^ 32) (if fieldAt bs 0 4 ≤ left ∨ 2 ^ 32 ≤ left then 1 else fieldAt bs 12 4 % 2) 0
      refine ⟨by rw [hr]; exact h32, by rw [hr]; exact h0, by rw [hr]; exact h24, fun hno => absurd hno h, fun _ => ?_,
        hl0, hf0, hf4, hf8, hf12, hf16, hf24⟩
      rw [hr]
      refine ⟨rfl, h4.trans (Nat.mod_eq_of_lt (by omega)), h8.trans (Nat.mod_mod _ _), h16, h12.trans (Nat.mod_eq_of_lt ?_)⟩
      split <;> omega
  · intro s i r hr s1 seen
    have hexec := exec_syncArrive_seen hr
    refine ⟨exec_syncArrive_unseen hr, fun h s2 harrive => ?_, fun h harrive => ?_, fun h f harrive => ?_, fun hseq => ?_⟩
    · rw [hexec h, harrive]
    · rw [hexec h, harrive]
    · rw [hexec h, harrive]
    · simp only [State.arrivalFails, hseq, if_false]
      rfl

end Sys2Proof.Machine

namespace Sys2Proof.Machine

/-! ### Steps of an access that has been issued (07 R184, R191, R199, 13 R309) -/

section
variable {s : State} {i : Nat} {x : Access} (hx : s.acc i = some x)
include hx

theorem exec_loadValueArrival :
    exec (.loadValueArrival i) s = .next (if s.mayTry x && x.ord != 2 then s.landRead x else s) := by
  show execLoadValueArrival i s = _
  simp only [execLoadValueArrival, hx]

theorem exec_storeVisible_performed :
    exec (.storeVisible i 3) s = .next (if s.mayTry x && x.ord != 2 then s.landWrite x else s) := by
  show execStoreVisible i 3 s = _
  simp only [execStoreVisible, hx, if_true]

theorem exec_storeVisible_inMemory (h : x.level = 3) :
    exec (.storeVisible i 4) s = .next ((x.lines.foldl (fun s t => s.writeBack t) s).settle x 4) := by
  show execStoreVisible i 4 s = _
  simp [execStoreVisible, hx, h]

theorem exec_storeVisible_everywhere (h : x.level = 4) : exec (.storeVisible i 5) s = .next (s.settle x 5) := by
  show execStoreVisible i 5 s = _
  simp [execStoreVisible, hx, h]

theorem exec_deliveredFault (h : s.mayTry x = true) {f : MFault} (hf : s.accFault x = some f) :
    exec (.deliveredFault i) s = .next (if f.cause = 0x50 then s.machineAcc x f else s.trapAccess x (memFault f) true) := by
  show execDeliveredFault i s = _
  simp only [execDeliveredFault, hx, h, Bool.not_true, Bool.false_eq_true, if_false, hf]

theorem exec_deliveredFault_notYet (h : s.mayTry x = false) : exec (.deliveredFault i) s = .next s := by
  show execDeliveredFault i s = _
  simp only [execDeliveredFault, hx, h, Bool.not_false, if_true]

theorem exec_witnessFailureDelivery (hlevel : x.level = 0) (hkept : x.kept = false) (hsat : x.sat = false) (hkind : x.kind ≠ .swarr)
    (hw : s.witFailed x.wit = true) : exec (.witnessFailureDelivery i) s =
      .next (s.trapAccess x { cause := 0x33, aux := x.wit, unit := seqUnit x.agent } false) := by
  show execWitnessFailureDelivery i s = _
  simp only [execWitnessFailureDelivery, hx]
  rw [if_pos]
  rw [hlevel, hkept, hsat, hw]
  rfl

theorem exec_witnessFailureDelivery_kept (h : x.kept = true) : exec (.witnessFailureDelivery i) s = .next s := by
  show execWitnessFailureDelivery i s = _
  simp [execWitnessFailureDelivery, hx, h]

theorem exec_syncArrive_access (hkind : x.kind = .swarr) (hnone : s.arrivals.find? (fun r => r.id == i) = none) :
    exec (.syncArrive i) s = .next (if s.mayTry x then s.landArrive x else s) := by
  show execSyncArrive i s = _
  simp only [execSyncArrive, hnone, hx, hkind]

/-- An ordered access whose earlier accesses of its context are visible, or stamped, takes its stamp. -/
theorem exec_scStamp (hord : x.ord = 2) (hlevel : x.level = 0) (hkept : x.kept = false) (hstamp : x.stamp = none)
    (hbefore : ∀ y ∈ s.before x, y.cid = x.cid →
      (y.seq.isSome → 4 ≤ y.level) ∧ (y.ord = 2 → y.level = 0 → y.stamp.isSome))
    {c : Ctx} (hc : s.ctxOf x.agent x.cid = some c) {first st : Nat}
    (hfirst : first = s.wheelTime + (x.agent % 768 + 768 - s.wheelTime % 768) % 768)
    (hst : st = if first < c.scLast then c.scLast + 767 else first) :
    exec (.scStamp i) s =
      .next ((s.onAcc i fun y => { y with stamp := some st }).onCtx x.agent fun c => { c with scLast := st + 1 }) := by
  have hseen : ((s.before x).all fun y => !(y.cid == x.cid && y.seq.isSome && decide (y.level < 4))) = true := by
    rw [List.all_eq_true]
    intro y hy
    simp only [Bool.not_eq_true', Bool.and_eq_false_iff, beq_eq_false_iff_ne, decide_eq_false_iff_not, not_lt, ne_eq]
    by_cases hcid : y.cid = x.cid
    · cases hq : y.seq.isSome with
      | false => exact .inl (.inr rfl)
      | true => exact .inr ((hbefore y hy hcid).1 hq)
    · exact .inl (.inl hcid)
  have hstamped : ((s.before x).all fun y => !(y.cid == x.cid && y.ord == 2 && y.stamp.isNone && y.level == 0)) = true := by
    rw [List.all_eq_true]
    intro y hy
    by_cases h : y.cid = x.cid ∧ y.ord = 2 ∧ y.level = 0
    · have hsome := (hbefore y hy h.1).2 h.2.1 h.2.2
      simp [hsome]
    · simp only [not_and] at h
      by_cases hcid : y.cid = x.cid
      · by_cases hord : y.ord = 2
        · simp [h hcid hord]
        · simp [hord]
      · simp [hcid]
  show execScStamp i s = _
  simp only [execScStamp, hx]
  rw [if_pos ⟨hord, hlevel, by rw [hkept]; rfl, by rw [hstamp]; rfl, hseen, hstamped⟩]
  simp only [hc, Option.map_some, Option.getD_some, ← hfirst, ← hst]

/-- An ordered access is performed in the order of the stamps, 2,048 cycles after its own. -/
theorem exec_scPerform {st : Nat} (hstamp : x.stamp = some st) (hmay : s.mayTry x = true)
    (hfirst : ∀ y ∈ s.accs, y.level = 0 → y.kept = false → ∀ u, y.stamp = some u → st ≤ u) (htime : st + 2048 ≤ s.wheelTime) :
    (x.kind = .load → exec (.scPerform i) s = .next (s.landRead x)) ∧
      (x.kind ≠ .load → exec (.scPerform i) s = .next (s.landWrite x)) := by
  have hall : (s.accs.all fun y => y.level != 0 || y.kept || (match y.stamp with
      | some u => decide (st ≤ u)
      | none => true)) = true := by
    rw [List.all_eq_true]
    intro y hy
    by_cases hlevel : y.level = 0
    · cases hkept : y.kept with
      | true => simp
      | false =>
        cases hu : y.stamp with
        | none => simp
        | some u => simp [hfirst y hy hlevel hkept u hu]
    · simp [hlevel]
  have hcond : (s.mayTry x && (s.accs.all fun y => y.level != 0 || y.kept || (match y.stamp with
      | some u => decide (st ≤ u)
      | none => true)) && decide (st + 2048 ≤ s.wheelTime)) = true := by
    rw [hmay, hall, decide_eq_true htime]
    rfl
  have hexec : exec (.scPerform i) s = match x.kind with
      | .load => .next (s.landRead x)
      | _ => .next (s.landWrite x) := by
    show execScPerform i s = _
    simp only [execScPerform, hx, hstamp]
    exact if_pos hcond
  refine ⟨fun hk => by rw [hexec, hk], fun hk => ?_⟩
  rw [hexec]
  split
  · next h => exact absurd h hk
  · rfl

theorem exec_scPerform_notYet (h : s.mayTry x = false) : exec (.scPerform i) s = .next s := by
  show execScPerform i s = _
  cases hst : x.stamp with
  | none => simp only [execScPerform, hx, hst]
  | some st =>
    simp only [execScPerform, hx, hst, h, Bool.false_and, Bool.false_eq_true, if_false]

end

/-- An access kept over a trap may not be attempted. -/
theorem State.mayTry_kept (s : State) {x : Access} (h : x.kept = true) : s.mayTry x = false := by
  simp [State.mayTry, h]

/-- A read that is performed lands its value. -/
theorem State.landRead_ok {s s1 : State} {x : Access} {v : Vec × BitVec 4} (h : s.performRead x = .ok s1 v) :
    s.landRead x = ((s1.progress (dieOf x.agent)).fillAcc x v.1 v.2 []).dropAccess x.id := by
  simp only [State.landRead, h]

/-- A write that is performed lands what it answers and has its level. -/
theorem State.landWrite_ok {s s1 : State} {x : Access} {w : Wrote} (hinit : x.kind ≠ .swinit) (hlaunch : x.kind ≠ .launch)
    (h : s.performWrite x = .ok s1 w) : s.landWrite x = (s1.fillAcc x w.val 0 (x.stats w.evs)).settle w.acc w.level := by
  unfold State.landWrite
  split
  · next hk => exact absurd hk hinit
  · next hk => exact absurd hk hlaunch
  · simp only [h]

/-- Settles O34: each clause is one of the steps above. -/
theorem accessEvents : Obligations.AccessEvents := by
  unfold Obligations.AccessEvents
  intro s i x hx may
  refine ⟨?_, ?_, exec_storeVisible_inMemory hx, exec_storeVisible_everywhere hx, ?_, ?_, exec_witnessFailureDelivery hx, ?_, ?_, ?_, ?_⟩
  · intro hmay hord s1 v h
    rw [exec_loadValueArrival hx, if_pos (by rw [hmay, Bool.true_and, bne_iff_ne]; exact hord), State.landRead_ok h]
  · intro hmay hord hinit hlaunch s1 w h
    rw [exec_storeVisible_performed hx, if_pos (by rw [hmay, Bool.true_and, bne_iff_ne]; exact hord),
      State.landWrite_ok hinit hlaunch h]
  · intro hmay f hf hcause
    rw [exec_deliveredFault hx hmay hf, if_neg hcause]
  · intro hmay f hf hcause
    rw [exec_deliveredFault hx hmay hf, if_pos hcause]
  · intro hkind hnone hmay
    rw [exec_syncArrive_access hx hkind hnone, if_pos hmay]
  · intro hkept
    have hno := s.mayTry_kept hkept
    refine ⟨?_, ?_, exec_deliveredFault_notYet hx hno, exec_witnessFailureDelivery_kept hx hkept, exec_scPerform_notYet hx hno⟩
    · rw [exec_loadValueArrival hx, hno, Bool.false_and, if_neg Bool.false_ne_true]
    · rw [exec_storeVisible_performed hx, hno, Bool.false_and, if_neg Bool.false_ne_true]
  · intro hord hlevel hkept hstamp hbefore c hc first st
    exact exec_scStamp hx hord hlevel hkept hstamp hbefore hc rfl rfl
  · intro st hstamp hmay hfirst htime
    exact exec_scPerform hx hstamp hmay hfirst htime

end Sys2Proof.Machine

namespace Sys2Proof.Machine

/-! ### The clocks (01 R6, 07 R199, 13 R312, R315) -/

/-- The epoch tick of the present reference cycle is still to come. -/
def State.TickDue (s : State) : Prop := (s.epoch + 1) * 1024 ≤ s.cycle

/-- The energy shares, the error records or the sample of the present reference cycle are still to come. -/
def State.SharesDue (s : State) : Prop :=
  s.shareNum < s.cycle / 1050000 ∨ s.errNum < s.cycle / 1050000 ∨ s.sampleNum < s.cycle / 1050000000

section
variable (s : State)

theorem State.anyDue_iff : (s.epochDue || s.shareDue || s.errDue || s.sampleDue) = true ↔ s.TickDue ∨ s.SharesDue := by
  have htick : s.epochDue = true ↔ (s.epoch + 1) * 1024 ≤ s.cycle := decide_eq_true_iff
  have hshare : s.shareDue = true ↔ s.shareNum < s.cycle / 1050000 := decide_eq_true_iff
  have herr : s.errDue = true ↔ s.errNum < s.cycle / 1050000 := decide_eq_true_iff
  have hsample : s.sampleDue = true ↔ s.sampleNum < s.cycle / 1050000000 := decide_eq_true_iff
  rw [Bool.or_eq_true, Bool.or_eq_true, Bool.or_eq_true, htick, hshare, herr, hsample, State.TickDue, State.SharesDue,
    or_assoc, or_assoc]

theorem exec_wheelAdvance_waits (h : s.TickDue ∨ s.SharesDue) : exec .wheelAdvance s = .next s := by
  rw [← State.anyDue_iff] at h
  show execWheelAdvance s = _
  simp only [execWheelAdvance, h, if_true]

theorem exec_wheelAdvance (ht : ¬ s.TickDue) (hs : ¬ s.SharesDue) : exec .wheelAdvance s =
    .next (if s.wheel + 1 ≥ 768 then { s.countResid with wheel := 0, rev := s.rev + 1, cycle := s.cycle + 1 }
      else { s.countResid with wheel := s.wheel + 1, cycle := s.cycle + 1 }) := by
  have h : ¬ (s.epochDue || s.shareDue || s.errDue || s.sampleDue) = true := by
    rw [State.anyDue_iff]
    exact not_or.mpr ⟨ht, hs⟩
  show execWheelAdvance s = _
  simp only [execWheelAdvance, if_neg h]

theorem exec_epochTick [Decidable s.TickDue] :
    exec .epochTick s = .next (if s.TickDue then { s with epoch := s.epoch + 1 } else s) := by
  show execEpochTick s = _
  simp only [execEpochTick, State.epochDue, decide_eq_true_eq]
  exact congrArg _ (if_congr Iff.rfl rfl rfl)

theorem exec_epochClose {dom scope : Nat} (hscope : scope = 4 ∨ scope = 5) (hdom : dom < 64)
    (hclose : s.canClose dom scope = true) : exec (.epochClose dom scope) s =
      .next { s with closed := AL.set 0 s.closed (dom * 2 + (scope - 4)) (s.closedOf dom scope + 1) } := by
  show execEpochClose dom scope s = _
  simp only [execEpochClose, if_pos (show (scope = 4 ∨ scope = 5) ∧ dom < 64 ∧ s.canClose dom scope = true from
    ⟨hscope, hdom, hclose⟩)]

end

/-- A count of closed epochs reads as written. -/
theorem State.closedOf_close (s : State) (dom scope n : Nat) :
    ({ s with closed := AL.set 0 s.closed (dom * 2 + (scope - 4)) n } : State).closedOf dom scope = n :=
  AL.get_set_same 0 s.closed (dom * 2 + (scope - 4)) n

/-- A sweep of lines marks those whose stamp is old. -/
theorem aged_of_mem_sweep {α : Type} (stamp : α → Nat) (age : α → α) (aged : α → Bool) (limit : Nat) (ls : List α)
    (haged : ∀ l, aged (age l) = true) :
    ∀ l ∈ ls.map fun l => if stamp l + 2 ^ 20 ≤ limit then age l else l, stamp l + 2 ^ 20 ≤ limit → aged l = true := by
  intro l hl hold
  obtain ⟨m, -, rfl⟩ := List.mem_map.mp hl
  by_cases h : stamp m + 2 ^ 20 ≤ limit
  · rw [if_pos h]
    exact haged m
  · rw [if_neg h] at hold
    exact absurd hold h

/-- Settles O35: the step of each clock. -/
theorem clockEvents : Obligations.ClockEvents := by
  unfold Obligations.ClockEvents
  intro s dom scope due shares
  refine ⟨fun ht hs => ⟨_, exec_wheelAdvance s ht hs, ?_⟩, exec_wheelAdvance_waits s, ?_, fun hscope hdom hclose => ?_, ?_⟩
  · by_cases hwrap : s.wheel + 1 ≥ 768
    · rw [if_pos hwrap]
      refine ⟨rfl, fun hlt => ?_, (if_neg (Nat.not_lt.mpr hwrap)).symm, rfl, rfl, rfl⟩
      show (s.rev + 1) * 768 + 0 = s.rev * 768 + s.wheel + 1
      omega
    · rw [if_neg hwrap]
      exact ⟨rfl, fun _ => (Nat.add_assoc _ _ _).symm, (if_pos (Nat.not_le.mp hwrap)).symm, rfl, rfl, rfl⟩
  · have : Decidable s.TickDue := Nat.decLe _ _
    rw [exec_epochTick]
    exact congrArg _ (if_congr Iff.rfl rfl rfl)
  · exact ⟨_, exec_epochClose s hscope hdom hclose, State.closedOf_close s dom scope _, rfl⟩
  · exact ⟨_, rfl, rfl,
      aged_of_mem_sweep L2Line.stamp (fun l => { l with aged := true }) L2Line.aged (s.epoch + 1) s.l2 fun _ => rfl,
      aged_of_mem_sweep L1Line.stamp (fun l => { l with aged := true }) L1Line.aged (s.epoch + 1) s.l1 fun _ => rfl⟩

end Sys2Proof.Machine

namespace Sys2Proof.Machine

/-! ### Lines of L2 by their tags (13 R315, 17 R357) -/

/-- The tag of a line of L2. -/
def L2Line.tag (l : L2Line) : Tag := ⟨l.dom, l.id, l.coords⟩

theorem L2Line.tag_eq_iff (l : L2Line) (t : Tag) :
    (l.dom == t.dom && l.id == t.id && l.coords == t.coords) = true ↔ l.tag = t := by
  cases t
  simp [L2Line.tag, and_assoc]

/-- The line of a tag is the first one of that tag. -/
theorem State.l2Line_eq (s : State) (t : Tag) : s.l2Line t = s.l2.find? fun l => l.tag == t :=
  congrArg (fun p => s.l2.find? p) (funext fun l => by
    rw [Bool.eq_iff_iff, L2Line.tag_eq_iff, beq_iff_eq])

theorem State.l2Set_eq (s : State) (t : Tag) (f : L2Line → L2Line) :
    s.l2Set t f = { s with l2 := s.l2.map fun l => if l.tag = t then f l else l } := by
  simp only [State.l2Set, L2Line.tag_eq_iff]

/-- Lines changed with their tags kept: the line of a tag is the changed one. -/
theorem find?_tag_map (ls : List L2Line) (f : L2Line → L2Line) (h : ∀ l, (f l).tag = l.tag) (t : Tag) :
    (ls.map f).find? (fun l => l.tag == t) = (ls.find? fun l => l.tag == t).map f := by
  rw [List.find?_map]
  exact congrArg (fun p => (ls.find? p).map f) (funext fun l => by rw [Function.comp, h])

section
variable (s : State) (t u : Tag)

/-- The line of a tag after a change of the line of a tag. -/
theorem State.l2Set_l2Line (f : L2Line → L2Line) (h : ∀ l, (f l).tag = l.tag) :
    (s.l2Set t f).l2Line u = if u = t then (s.l2Line u).map f else s.l2Line u := by
  rw [State.l2Set_eq, State.l2Line_eq, State.l2Line_eq,
    find?_tag_map s.l2 (fun l => if l.tag = t then f l else l) (fun l => by split <;> simp [h])]
  cases hfind : s.l2.find? fun l => l.tag == u with
  | none => simp
  | some l =>
    have htag : l.tag = u := by simpa using List.find?_some hfind
    simp only [Option.map_some, htag]
    split <;> rfl

variable (via : List Byte)

theorem State.newLine_tag : (s.newLine t via).tag = t := rfl

/-- A line that is opened is there, and the line of every other tag is as it was. -/
theorem State.openLine_l2Line :
    (s.openLine t via).l2Line u = if u = t then some ((s.l2Line t).getD (s.newLine t via)) else s.l2Line u := by
  unfold State.openLine
  split
  · next l hl =>
    by_cases h : u = t
    · rw [if_pos h, h, hl, Option.getD_some]
    · rw [if_neg h]
  · next hnone =>
    rw [State.l2Line_eq, List.find?_append, ← State.l2Line_eq]
    by_cases h : u = t
    · subst h
      rw [if_pos rfl, hnone, Option.getD_none]
      simp [State.newLine_tag]
    · rw [if_neg h]
      have hne : (s.newLine t via).tag ≠ u := fun e => h e.symm
      simp [hne]

theorem State.openLine_eq : ∃ ls, s.openLine t via = { s with l2 := ls } := by
  unfold State.openLine
  split
  · exact ⟨s.l2, rfl⟩
  · exact ⟨_, rfl⟩

end

/-! ### Page walks (17 R354 to R357, 21 R398) -/

/-- What the line of an address maps for its page. -/
def State.leafAt (s : State) (dom va : Nat) : Option PLeaf :=
  (s.l2Line (flatTag dom va)).bind fun x => AL.find x.maps (va / 65536)

/-- A line with the leaf of a page filled in. -/
def L2Line.withLeaf (p : Nat) (l : PLeaf) (m : L2Line) : L2Line := { m with maps := AL.put m.maps p l }

/-- The line of an address with the leaf of its page filled in. -/
def State.filled (s : State) (dom va : Nat) (l : PLeaf) : State :=
  (s.openLine (flatTag dom va) []).l2Set (flatTag dom va) (L2Line.withLeaf (va / 65536) l)

section
variable (s : State) (dom va : Nat) (l : PLeaf)

theorem State.filled_eq : ∃ ls, s.filled dom va l = { s with l2 := ls } := by
  obtain ⟨ls, hls⟩ := s.openLine_eq (flatTag dom va) []
  rw [State.filled, hls]
  exact ⟨_, rfl⟩

theorem State.filled_leafAt : (s.filled dom va l).leafAt dom va = some l := by
  rw [State.leafAt, State.filled, State.l2Set_l2Line _ _ _ (L2Line.withLeaf (va / 65536) l) (fun _ => rfl), if_pos rfl, State.openLine_l2Line, if_pos rfl,
    Option.map_some, Option.bind_some]
  exact AL.find_put_same _ _ _

theorem State.filled_other {u : Tag} (h : u ≠ flatTag dom va) : (s.filled dom va l).l2Line u = s.l2Line u := by
  rw [State.filled, State.l2Set_l2Line _ _ _ (L2Line.withLeaf (va / 65536) l) (fun _ => rfl), if_neg h, State.openLine_l2Line, if_neg h]

/-- `PAGE_WALK` outside the addresses, or where the line maps the page. -/
theorem exec_pageWalk_mapped (h : 2 ^ 57 ≤ va ∨ s.leafAt dom va ≠ none) : exec (.pageWalk dom va) s = .next s := by
  have hcond : va ≥ 2 ^ 57 ∨ ((s.l2Line (flatTag dom va)).bind fun m => AL.find m.maps (va / 65536)).isSome :=
    h.imp_right Option.isSome_iff_ne_none.mpr
  show execPageWalk dom va s = _
  simp only [execPageWalk]
  exact if_pos hcond

variable {s dom va l} (hwalk : s.walk dom va = .leaf l)
include hwalk

/-- `PAGE_WALK` where nothing waits for the line, or its link is down. -/
theorem exec_pageWalk_idle (h : s.linkDown l = true ∨ s.wantsLine dom va l = false) : exec (.pageWalk dom va) s = .next s := by
  by_cases hmapped : 2 ^ 57 ≤ va ∨ s.leafAt dom va ≠ none
  · exact exec_pageWalk_mapped s dom va hmapped
  · have hcond : (s.linkDown l || !s.wantsLine dom va l) = true := by
      rcases h with h | h <;> simp [h]
    have hmiss : ¬ (va ≥ 2 ^ 57 ∨ ((s.l2Line (flatTag dom va)).bind fun m => AL.find m.maps (va / 65536)).isSome) :=
      fun e => hmapped (e.imp_right Option.isSome_iff_ne_none.mp)
    show execPageWalk dom va s = _
    simp only [execPageWalk]
    rw [if_neg hmiss, hwalk]
    exact if_pos hcond

/-- `PAGE_WALK` for something that waits for a line that misses, over a link that is up. -/
theorem exec_pageWalk (hva : va < 2 ^ 57) (hmiss : s.leafAt dom va = none) (hlink : s.linkDown l = false)
    (hwant : s.wantsLine dom va l = true) : exec (.pageWalk dom va) s =
      if Config.firmwareMoves s.choices then .next (({ s with choices := s.choices + 1 } : State).moveOut dom va)
      else .next (({ s with choices := s.choices + 1 } : State).filled dom va l) := by
  have hcond : ¬ (va ≥ 2 ^ 57 ∨ ((s.l2Line (flatTag dom va)).bind fun m => AL.find m.maps (va / 65536)).isSome) := by
    rintro (h | h)
    · exact absurd hva (Nat.not_lt.mpr h)
    · exact Option.isSome_iff_ne_none.mp h hmiss
  show execPageWalk dom va s = _
  simp only [execPageWalk]
  rw [if_neg hcond, hwalk]
  simp only [hlink, hwant, Bool.not_true, Bool.or_false, Bool.false_eq_true, if_false]
  rfl

end

end Sys2Proof.Machine

namespace Sys2Proof.Machine

/-! ### Lines written back and dropped (13 R315, 17 R358) -/

/-- The stores that the line of a tag holds. -/
def State.dirtyOf (s : State) (t : Tag) : AL Byte := ((s.l2Line t).map (·.dirty)).getD []

/-- Memory with the stores of a line written. -/
def writtenBack (mem : AL Byte) (dirty : AL Byte) : AL Byte := dirty.foldl (fun m w => AL.set Memory.unlisted m w.1 w.2) mem

theorem State.dirtyOf_of_l2Line {s : State} {t : Tag} {l : L2Line} (h : s.l2Line t = some l) : s.dirtyOf t = l.dirty := by
  rw [State.dirtyOf, h]
  rfl

/-- A fold of changes of a line that keep its tag and its stores. -/
theorem foldl_keeps {β : Type} (ws : List β) (f : L2Line → β → L2Line) (l : L2Line)
    (h : ∀ m w, (f m w).tag = m.tag ∧ (f m w).dirty = m.dirty) :
    (ws.foldl f l).tag = l.tag ∧ (ws.foldl f l).dirty = l.dirty := by
  induction ws generalizing l with
  | nil => exact ⟨rfl, rfl⟩
  | cons w r ih =>
    obtain ⟨htag, hdirty⟩ := ih (f l w)
    exact ⟨htag.trans (h l w).1, hdirty.trans (h l w).2⟩

/-- A line of another tag keeps what it held of a byte that is about to be written. -/
def L2Line.keepOld (s : State) (m : L2Line) (w : Nat × Byte) : L2Line :=
  if mapsKey m.id m.coords m.maps w.1 then m.keep w.1 (s.memByte w.1) else m

theorem L2Line.keepOld_tag (s : State) (m : L2Line) (w : Nat × Byte) :
    (m.keepOld s w).tag = m.tag ∧ (m.keepOld s w).dirty = m.dirty := by
  unfold L2Line.keepOld L2Line.keep
  split
  · split <;> exact ⟨rfl, rfl⟩
  · exact ⟨rfl, rfl⟩

/-- A change of the lines of a tag is gone with those lines. -/
theorem filter_tag_map (ls : List L2Line) (t : Tag) (f : L2Line → L2Line) (h : ∀ l, (f l).tag = l.tag) :
    (ls.map fun l => if l.tag = t then f l else l).filter (fun l => l.tag ≠ t) = ls.filter fun l => l.tag ≠ t := by
  induction ls with
  | nil => rfl
  | cons l ls ih =>
    by_cases hl : l.tag = t
    · simpa [hl, h] using ih
    · simpa [hl] using ih

section
variable (s : State) (t u : Tag)

/-- What a line written back makes of a line of L2. -/
def L2Line.afterWriteBack (l m : L2Line) : L2Line :=
  if m.tag = t then { m with dirty := [], kept := l.dirty.foldl (fun k e => AL.del k e.1) m.kept }
  else l.dirty.foldl (L2Line.keepOld s) m

theorem State.writeBack_clean {l : L2Line} (hl : s.l2Line t = some l) (h : l.dirty = []) : s.writeBack t = s := by
  simp [State.writeBack, hl, h]

theorem State.writeBack_absent (h : s.l2Line t = none) : s.writeBack t = s := by
  simp [State.writeBack, h]

/-- A line that holds stores, written back: its stores are in memory, and the lines of other tags keep what they held. -/
theorem State.writeBack_dirty {l : L2Line} (hl : s.l2Line t = some l) (h : l.dirty ≠ []) :
    (s.writeBack t).l2 = s.l2.map (L2Line.afterWriteBack s t l) ∧ (s.writeBack t).mem = writtenBack s.mem l.dirty ∧
      (s.writeBack t).recs = s.recs := by
  have hempty : l.dirty.isEmpty = false := by simpa using h
  unfold State.writeBack
  simp only [hl, hempty, Bool.false_eq_true, if_false]
  refine ⟨?_, rfl, rfl⟩
  simp only [State.l2Set_eq, List.map_map]
  refine List.map_congr_left fun m _ => ?_
  simp only [Function.comp, L2Line.tag_eq_iff]
  by_cases hm : m.tag = t
  · rw [if_pos hm, L2Line.afterWriteBack, if_pos hm]
    exact if_pos hm
  · rw [if_neg hm, if_neg hm, L2Line.afterWriteBack, if_neg hm]
    rfl

theorem L2Line.afterWriteBack_tag (l m : L2Line) : (L2Line.afterWriteBack s t l m).tag = m.tag := by
  unfold L2Line.afterWriteBack
  split
  · rfl
  · exact (foldl_keeps _ _ _ (L2Line.keepOld_tag s)).1

theorem L2Line.afterWriteBack_dirty (l m : L2Line) :
    (L2Line.afterWriteBack s t l m).dirty = if m.tag = t then [] else m.dirty := by
  unfold L2Line.afterWriteBack
  split
  · rfl
  · exact (foldl_keeps _ _ _ (L2Line.keepOld_tag s)).2

/-- The tags of the lines are as they were, and memory has what the line held. -/
theorem State.writeBack_tags : (s.writeBack t).l2.map L2Line.tag = s.l2.map L2Line.tag := by
  cases hl : s.l2Line t with
  | none => rw [s.writeBack_absent t hl]
  | some l =>
    by_cases h : l.dirty = []
    · rw [s.writeBack_clean t hl h]
    · rw [(s.writeBack_dirty t hl h).1, List.map_map]
      exact List.map_congr_left fun m _ => L2Line.afterWriteBack_tag s t l m

theorem State.writeBack_mem : (s.writeBack t).mem = writtenBack s.mem (s.dirtyOf t) := by
  cases hl : s.l2Line t with
  | none =>
    rw [s.writeBack_absent t hl, State.dirtyOf, hl]
    rfl
  | some l =>
    rw [State.dirtyOf_of_l2Line hl]
    by_cases h : l.dirty = []
    · rw [s.writeBack_clean t hl h, h]
      rfl
    · exact (s.writeBack_dirty t hl h).2.1

theorem State.writeBack_recs : (s.writeBack t).recs = s.recs := by
  cases hl : s.l2Line t with
  | none => rw [s.writeBack_absent t hl]
  | some l =>
    by_cases h : l.dirty = []
    · rw [s.writeBack_clean t hl h]
    · exact (s.writeBack_dirty t hl h).2.2

/-- The line of the tag holds no store any more; every other line holds what it held. -/
theorem State.writeBack_dirtyOf : (s.writeBack t).dirtyOf u = if u = t then [] else s.dirtyOf u := by
  cases hl : s.l2Line t with
  | none =>
    rw [s.writeBack_absent t hl]
    split
    · next h => rw [h, State.dirtyOf, hl]; rfl
    · rfl
  | some l =>
    by_cases h : l.dirty = []
    · rw [s.writeBack_clean t hl h]
      split
      · next hu => rw [hu, State.dirtyOf_of_l2Line hl, h]
      · rfl
    · rw [State.dirtyOf, State.dirtyOf, State.l2Line_eq, State.l2Line_eq, (s.writeBack_dirty t hl h).1,
        find?_tag_map _ _ (L2Line.afterWriteBack_tag s t l)]
      cases hfind : s.l2.find? fun m => m.tag == u with
      | none => simp
      | some m =>
        have htag : m.tag = u := by simpa using List.find?_some hfind
        simp only [Option.map_some, Option.getD_some, L2Line.afterWriteBack_dirty, htag]

/-- A refill writes the line back; beside that it changes the lines of its tag alone. -/
theorem State.refill_frame : (s.refill t).mem = (s.writeBack t).mem ∧ (s.refill t).recs = (s.writeBack t).recs ∧
    (s.refill t).l2.filter (fun l => l.tag ≠ t) = (s.writeBack t).l2.filter fun l => l.tag ≠ t := by
  unfold State.refill
  extract_lets s1
  split
  · exact ⟨rfl, rfl, rfl⟩
  · refine ⟨rfl, rfl, ?_⟩
    rw [State.l2Set_eq]
    exact filter_tag_map s1.l2 t _ fun _ => rfl

/-- A line dropped after it is written back: memory, the records, and the lines that are left. -/
theorem State.dropLine_mem : (s.dropLine t).mem = writtenBack s.mem (s.dirtyOf t) :=
  (s.refill_frame t).1.trans (s.writeBack_mem t)

theorem State.dropLine_recs : (s.dropLine t).recs = s.recs := (s.refill_frame t).2.1.trans (s.writeBack_recs t)

/-- The lines that are left once one is dropped: those written back of every other tag. -/
theorem State.dropLine_l2 : (s.dropLine t).l2 = (s.writeBack t).l2.filter fun l => l.tag ≠ t := by
  rw [← (s.refill_frame t).2.2]
  refine List.filter_congr fun l _ => ?_
  rw [Bool.eq_iff_iff, Bool.not_eq_true', ← Bool.not_eq_true, L2Line.tag_eq_iff, decide_eq_true_iff]

/-- The line of the tag is gone; every other line holds what it held. -/
theorem State.dropLine_dirtyOf : (s.dropLine t).dirtyOf u = if u = t then [] else s.dirtyOf u := by
  rw [← State.writeBack_dirtyOf, State.dirtyOf, State.l2Line_eq, State.dropLine_l2]
  by_cases h : u = t
  · subst h
    have hnone : ((s.writeBack u).l2.filter fun l => l.tag ≠ u).find? (fun l => l.tag == u) = none := by
      rw [List.find?_eq_none]
      intro l hl
      have := (List.mem_filter.mp hl).2
      simpa using this
    rw [hnone, s.writeBack_dirtyOf, if_pos rfl]
    rfl
  · rw [List.find?_filter, State.dirtyOf, State.l2Line_eq]
    refine congrArg (fun p => ((List.find? p (s.writeBack t).l2).map (·.dirty)).getD []) (funext fun l => ?_)
    by_cases hl : l.tag = u
    · simp [hl, h]
    · simp [hl]

theorem State.dropLine_tags : (s.dropLine t).l2.map L2Line.tag = (s.l2.map L2Line.tag).filter (· ≠ t) := by
  rw [State.dropLine_l2, ← State.writeBack_tags s t, List.filter_map]
  rfl

end

/-- Lines dropped one after another leave memory as the same lines written back. -/
theorem foldl_dropLine_mem (ts : List Tag) (s u : State) (hmem : s.mem = u.mem) (hdirty : ∀ t, s.dirtyOf t = u.dirtyOf t) :
    (ts.foldl (fun s t => s.dropLine t) s).mem = (ts.foldl (fun s t => s.writeBack t) u).mem := by
  induction ts generalizing s u with
  | nil => exact hmem
  | cons t ts ih =>
    refine ih (s.dropLine t) (u.writeBack t) ?_ fun v => ?_
    · rw [State.dropLine_mem, State.writeBack_mem, hmem, hdirty]
    · rw [State.dropLine_dirtyOf, State.writeBack_dirtyOf, hdirty]

theorem foldl_dropLine_recs (ts : List Tag) (s : State) : (ts.foldl (fun s t => s.dropLine t) s).recs = s.recs := by
  induction ts generalizing s with
  | nil => rfl
  | cons t ts ih => rw [List.foldl_cons, ih, State.dropLine_recs]

/-- Of the lines' tags, those that are not dropped are left. -/
theorem foldl_dropLine_tags (ts : List Tag) (s : State) :
    ((ts.foldl (fun s t => s.dropLine t) s).l2.map L2Line.tag) = (s.l2.map L2Line.tag).filter fun t => t ∉ ts := by
  induction ts generalizing s with
  | nil => simp
  | cons t ts ih =>
    rw [List.foldl_cons, ih, State.dropLine_tags, List.filter_filter]
    exact List.filter_congr fun u _ => by simp [Bool.and_comm]

/-! ### The drop of a record (07 R210, 14 R325) -/

/-- What a drop takes: the record of an identifier, or with identifier 0 every record of the domain. -/
def hits (dom id d i : Nat) : Bool := d == dom && i != 0 && (id == 0 || i == id)

/-- The tags of the lines that a drop takes from every L2. -/
def State.droppedTags (s : State) (dom id : Nat) : List Tag := (s.l2.filter fun l => hits dom id l.dom l.id).map L2Line.tag

theorem hits_iff (dom id d i : Nat) : hits dom id d i = true ↔ d = dom ∧ i ≠ 0 ∧ (id = 0 ∨ i = id) := by
  simp [hits, and_assoc]

/-- A line that a drop does not take. -/
theorem not_hits {dom id d i : Nat} (h : hits dom id d i = false) (hd : d = dom) (hi : i ≠ 0) : id ≠ 0 ∧ i ≠ id := by
  have hno : ¬ hits dom id d i = true := by rw [h]; exact Bool.false_ne_true
  rw [hits_iff] at hno
  exact ⟨fun e => hno ⟨hd, hi, .inl e⟩, fun e => hno ⟨hd, hi, .inr e⟩⟩

section
variable (s : State) (dom id : Nat)

theorem State.dropRecord_eq : s.dropRecord dom id =
    { (s.droppedTags dom id).foldl (fun s t => s.dropLine t) s with
      recs := ((s.droppedTags dom id).foldl (fun s t => s.dropLine t) s).recs.filter fun r => !hits dom id r.dom r.id
      l1 := ((s.droppedTags dom id).foldl (fun s t => s.dropLine t) s).l1.filter fun l => !hits dom id l.dom l.id } := rfl

theorem State.dropRecord_mem :
    (s.dropRecord dom id).mem = ((s.droppedTags dom id).foldl (fun s t => s.writeBack t) s).mem :=
  foldl_dropLine_mem _ s s rfl fun _ => rfl

/-- No die's cache keeps a record that is dropped. -/
theorem State.dropRecord_cached {k d i : Nat} (h : hits dom id d i = true) : (s.dropRecord dom id).cached k d i = none := by
  rw [State.dropRecord_eq, State.cached, List.find?_eq_none]
  intro r hr hkey
  have hkept := (List.mem_filter.mp hr).2
  simp only [Bool.and_eq_true, beq_iff_eq] at hkey
  rw [hkey.1.2, hkey.2, h] at hkept
  exact Bool.false_ne_true hkept

theorem State.dropRecord_l1 {x : L1Line} (hx : x ∈ (s.dropRecord dom id).l1) : hits dom id x.dom x.id = false := by
  rw [State.dropRecord_eq] at hx
  simpa using (List.mem_filter.mp hx).2

theorem State.dropRecord_l2 {x : L2Line} (hx : x ∈ (s.dropRecord dom id).l2) : hits dom id x.dom x.id = false := by
  have htag : x.tag ∈ (s.l2.map L2Line.tag).filter fun t => t ∉ s.droppedTags dom id := by
    rw [← foldl_dropLine_tags]
    exact List.mem_map_of_mem hx
  obtain ⟨hin, hout⟩ := List.mem_filter.mp htag
  obtain ⟨l, hl, hsame⟩ := List.mem_map.mp hin
  have hdom : l.dom = x.dom := congrArg Tag.dom hsame
  have hid : l.id = x.id := congrArg Tag.id hsame
  refine Bool.eq_false_of_not_eq_true fun hhit => of_decide_eq_true hout ?_
  exact List.mem_map.mpr ⟨l, List.mem_filter.mpr ⟨hl, by rw [hdom, hid]; exact hhit⟩, hsame⟩

end

/-! ### Record fills (10 R274, 14 R327) -/

section
variable {s : State} {die dom id : Nat}

/-- A held form of a running context that names a record, and whose context's stores to the record are performed, waits
for it. -/
theorem State.recordFor_eq_some {c : Ctx} {f : Instr} {r : Nat} (hheld : c.held = true) (hrun : c.status = .running)
    (hform : c.formT = some f) (hreg : tensorReg f = some r) (hid : twId (c.readS r) = id)
    (hstores : ∀ x ∈ s.accs, x.cid = c.cid → x.level = 0 → x.isStore = true → x.sp = false →
      ∀ p ∈ x.parts, s.recAddr c.pd.toNat id + 128 ≤ p.1 ∨ p.1 + p.2.2 ≤ s.recAddr c.pd.toNat id) :
    s.recordFor c = some id := by
  have hall : (s.accs.all fun x => !(x.cid == c.cid && x.level == 0 && x.isStore && !x.sp &&
      x.parts.any fun p => decide (p.1 < s.recAddr c.pd.toNat id + 128) && decide (s.recAddr c.pd.toNat id < p.1 + p.2.2))) =
      true := by
    rw [List.all_eq_true]
    intro x hx
    rw [Bool.not_eq_true', Bool.eq_false_iff]
    intro hbad
    simp only [Bool.and_eq_true, beq_iff_eq, Bool.not_eq_true', List.any_eq_true, decide_eq_true_eq] at hbad
    obtain ⟨⟨⟨⟨hcid, hlevel⟩, hstore⟩, hsp⟩, p, hp, hlow, hhigh⟩ := hbad
    have := hstores x hx hcid hlevel hstore hsp p hp
    omega
  have hno : ¬ (!c.held || c.status != .running) = true := by simp [hheld, hrun]
  unfold State.recordFor
  rw [if_neg hno, hform, Option.bind_some, hreg, Option.map_some, hid]
  exact Option.filter_some_pos hall

theorem exec_recordFill_idle (h : ∀ e ∈ s.ctxs, dieOf e.1 = die → e.2.pd.toNat = dom → e.2.held = false) :
    exec (.recordFill die dom id) s = .next s := by
  have hany : (s.ctxs.any fun e => dieOf e.1 == die && e.2.pd.toNat == dom && s.recordFor e.2 == some id) = false := by
    rw [List.any_eq_false]
    intro e he hwait
    simp only [Bool.and_eq_true, beq_iff_eq] at hwait
    obtain ⟨⟨hdie, hdom⟩, hfor⟩ := hwait
    have hnone : s.recordFor e.2 = none := if_pos (by rw [h e he hdie hdom]; rfl)
    rw [hnone] at hfor
    cases hfor
  show execRecordFill die dom id s = _
  unfold execRecordFill
  rw [hany]
  split <;> rfl

theorem exec_recordFill {a : Nat} {c : Ctx} (hc : (a, c) ∈ s.ctxs) (hdie : dieOf a = die) (hdom : c.pd.toNat = dom)
    (hfor : s.recordFor c = some id) (hlow : 0 < id) (hhigh : id < 2 ^ 20) (h4 : die < 4) :
    exec (.recordFill die dom id) s = .next (s.fillRecord die dom id) := by
  have hany : (s.ctxs.any fun e => dieOf e.1 == die && e.2.pd.toNat == dom && s.recordFor e.2 == some id) = true := by
    rw [List.any_eq_true]
    exact ⟨(a, c), hc, by simp [hdie, hdom, hfor]⟩
  have hvalid : ¬ (id = 0 ∨ id ≥ 2 ^ 20 ∨ die ≥ 4) := by omega
  show execRecordFill die dom id s = _
  unfold execRecordFill
  rw [if_neg hvalid, hany, if_pos rfl]

/-- The caches once a record that is not there has been read. -/
theorem State.fillRecord_frame {s1 : State} {bs : List Byte} (hnone : s.cached die dom id = none)
    (hread : s.readFlat dom .read (s.ctxs.flatMap fun e => if dieOf e.1 == die && e.2.pd.toNat == dom then s.floorOf e.2 else [])
      (s.recAddr dom id) 128 = .ok s1 bs) :
    (s.fillRecord die dom id).cached die dom id = some ⟨die, dom, id, bs⟩ ∧ (s.fillRecord die dom id).mem = s1.mem ∧
      ∀ k e j, k ≠ die → (s.fillRecord die dom id).cached k e j = s1.cached k e j := by
  have hfill : s.fillRecord die dom id = { s1.clearKey (recKey die dom id) with
      recs := ((⟨die, dom, id, bs⟩ : RecEntry) :: s1.recs.filter fun x => x.die == die).take 256 ++
        s1.recs.filter fun x => !(x.die == die) } := by
    unfold State.fillRecord
    rw [hnone, if_neg (by rw [Option.isSome_none]; exact Bool.false_ne_true)]
    dsimp only
    rw [hread]
  rw [hfill]
  refine ⟨?_, rfl, fun k e j hk => ?_⟩
  · simp [State.cached]
  · have hfirst : (((⟨die, dom, id, bs⟩ : RecEntry) :: s1.recs.filter fun x => x.die == die).take 256).find?
        (fun r => r.die == k && r.dom == e && r.id == j) = none := by
      rw [List.find?_eq_none]
      intro r hr
      have hmine : r.die = die := by
        rcases List.mem_cons.mp (List.mem_of_mem_take hr) with rfl | hr
        · rfl
        · simpa using (List.mem_filter.mp hr).2
      simp [hmine, hk.symm]
    rw [State.cached, List.find?_append, hfirst, Option.none_or, List.find?_filter, State.cached]
    refine congrArg (fun p => List.find? p s1.recs) (funext fun r => ?_)
    rw [Bool.eq_iff_iff, decide_eq_true_iff]
    by_cases hr : r.die = k
    · simp [hr, hk]
    · simp [hr]

end

/-! ### Drops (07 R191, R210) -/

section
variable {s : State} {i : Nat} {d : Drop} (hd : s.drops[i]? = some d)
include hd

theorem exec_recordDropComplete (h : d.sat = true ∨ (s.witFailed d.wit = false ∧ s.witSat d.wit = true)) :
    exec (.recordDropComplete i) s = .next
      (if d.task = 0 then (({ s with drops := s.drops.eraseIdx i } : State).dropRecord d.dom d.id).formLevel d.agent d.dom d.seq 5
       else (({ s with drops := s.drops.eraseIdx i } : State).dropRecord d.dom d.id).onTask d.task fun t =>
        { t with count := t.count + 1 }) := by
  have hok : (!d.sat && s.witFailed d.wit) = false := by
    rcases h with h | h <;> simp [h]
  have hsat : s.dropSat d = true := by
    rcases h with h | h <;> simp [State.dropSat, h]
  show execRecordDropComplete i s = _
  simp only [execRecordDropComplete, hd, hok, hsat, Bool.false_eq_true, if_false, if_true]

theorem exec_recordDropComplete_fails (hsat : d.sat = false) (hw : s.witFailed d.wit = true) :
    exec (.recordDropComplete i) s = .next (s.dropFails d) := by
  show execRecordDropComplete i s = _
  simp only [execRecordDropComplete, hd, hsat, hw, Bool.not_false, Bool.and_true, if_true]

theorem exec_recordDropComplete_waits (hsat : d.sat = false) (hfail : s.witFailed d.wit = false) (hw : s.witSat d.wit = false)
    (hown : s.ownSat d.dom (fun f => f.isForm d.agent d.dom d.seq) d.wit = false) :
    exec (.recordDropComplete i) s = .next s := by
  have hno : s.dropSat d = false := by simp [State.dropSat, hsat, hw, hown]
  show execRecordDropComplete i s = _
  simp only [execRecordDropComplete, hd, hfail, hno, Bool.and_false, Bool.false_eq_true, if_false]

end

/-- Settles O36: the steps of translation, of record fills and of drops. -/
theorem translationAndRecords : Obligations.TranslationAndRecords := by
  unfold Obligations.TranslationAndRecords
  refine ⟨fun s dom va l => ⟨⟨?_, exec_pageWalk_mapped s dom va, exec_pageWalk_idle⟩, ?_⟩, ?_⟩
  · intro hva hwalk hmiss hlink hwant
    have hexec := exec_pageWalk hwalk hva hmiss hlink hwant
    refine ⟨fun hstays => ?_, fun hmoves => by rw [hexec, if_pos hmoves]⟩
    obtain ⟨ls, hls⟩ := ({ s with choices := s.choices + 1 } : State).filled_eq dom va l
    refine ⟨_, by rw [hexec, hstays, if_neg Bool.false_ne_true], by rw [hls], State.filled_leafAt _ dom va l, fun u hu => ?_⟩
    exact State.filled_other _ dom va l hu
  · intro b hb
    show execTransparentFaultResolve dom va s = _
    simp only [execTransparentFaultResolve, hb]
  · intro s s1 die dom id i bs d
    refine ⟨?_, exec_recordFill_idle, ?_, exec_recordDropComplete_fails, exec_recordDropComplete_waits⟩
    · intro a c f r hc hdie hdom hheld hrun hform hreg hid hstores hlow hhigh h4 hnone hread
      subst hdom
      exact ⟨_, exec_recordFill hc hdie rfl (State.recordFor_eq_some hheld hrun hform hreg hid hstores) hlow hhigh h4,
        State.fillRecord_frame hnone hread⟩
    · intro hd hsat s0 u lines
      have hexec := exec_recordDropComplete hd hsat
      refine ⟨fun k hid => s0.dropRecord_cached _ _ ((hits_iff ..).mpr ⟨rfl, hid, .inr rfl⟩),
        fun k j hid hj => s0.dropRecord_cached _ _ ((hits_iff ..).mpr ⟨rfl, hj, .inl hid⟩),
        fun x hx hdom hid => not_hits (s0.dropRecord_l1 _ _ hx) hdom hid,
        fun x hx hdom hid => not_hits (s0.dropRecord_l2 _ _ hx) hdom hid, s0.dropRecord_mem d.dom d.id, fun htask => ?_, fun htask => ?_⟩
      · rw [hexec, if_pos htask]
      · rw [hexec, if_neg htask]

end Sys2Proof.Machine

namespace Sys2Proof

variable {α : Type}

theorem AL.find_eq_none {m : AL α} {k : Nat} (h : AL.find m k = none) : ∀ e ∈ m, e.1 ≠ k := by
  induction m with
  | nil => simp
  | cons e m ih =>
    rw [Machine.AL.find_cons] at h
    split at h
    · cases h
    · next hne => exact List.forall_mem_cons.mpr ⟨by simpa using hne, ih h⟩

theorem AL.find_isSome_mem {m : AL α} {k : Nat} {v : α} (h : AL.find m k = some v) : ∃ e ∈ m, e.1 = k := by
  by_contra hno
  have habsent : ∀ e ∈ m.map (fun e => (e.1, some e.2)), e.1 ≠ k := by
    rintro e he rfl
    obtain ⟨d, hd, rfl⟩ := List.mem_map.mp he
    exact hno ⟨d, hd, rfl⟩
  rw [AL.find, AL.get_of_absent none _ k habsent] at h
  cases h

/-- Entries put under other keys leave what a key finds. -/
theorem AL.find_foldl_put_ne (ws : List (Nat × α)) (m : AL α) {j : Nat} (h : ∀ w ∈ ws, j ≠ w.1) :
    AL.find (ws.foldl (fun m w => AL.put m w.1 w.2) m) j = AL.find m j := by
  induction ws generalizing m with
  | nil => rfl
  | cons w r ih =>
    rw [List.forall_mem_cons] at h
    rw [List.foldl_cons, ih _ h.2, AL.find_put_ne m _ h.1]

/-- Where no key is put twice, each key finds what was put. -/
theorem AL.find_foldl_put_mem (ws : List (Nat × α)) (m : AL α) {e : Nat × α}
    (h : ws.Pairwise fun x y => x.1 ≠ y.1) (he : e ∈ ws) :
    AL.find (ws.foldl (fun m w => AL.put m w.1 w.2) m) e.1 = some e.2 := by
  induction ws generalizing m with
  | nil => cases he
  | cons w r ih =>
    obtain ⟨hw, hr⟩ := List.pairwise_cons.mp h
    rw [List.foldl_cons]
    rcases List.mem_cons.mp he with rfl | he
    · rw [AL.find_foldl_put_ne r _ hw, AL.find_put_same]
    · exact ih _ hr he

/-- Every entry of a key has the value that the key finds. -/
def AL.agrees (m : AL α) (k : Nat) : Prop := ∀ e ∈ m, e.1 = k → AL.find m k = some e.2

theorem AL.agrees_put_same (m : AL α) (k : Nat) (v : α) : (AL.put m k v).agrees k := by
  intro e he hk
  rw [AL.find_put_same]
  rcases AL.mem_ins he with rfl | he
  · rfl
  · exact absurd hk (AL.absent_del m k e he)

theorem AL.agrees_put_ne {m : AL α} {j k : Nat} (v : α) (h : j ≠ k) (hm : m.agrees j) : (AL.put m k v).agrees j := by
  intro e he hj
  rw [AL.find_put_ne m v h]
  rcases AL.mem_ins he with rfl | he
  · exact absurd hj.symm h
  · exact hm e (List.mem_of_mem_filter he) hj

/-- After entries are put, the entries of each key that was put agree. -/
theorem AL.agrees_foldl_put (ws : List (Nat × α)) (m : AL α) {j : Nat} (h : m.agrees j ∨ ∃ w ∈ ws, w.1 = j) :
    AL.agrees (ws.foldl (fun m w => AL.put m w.1 w.2) m) j := by
  induction ws generalizing m with
  | nil => simpa using h
  | cons w r ih =>
    refine ih _ ?_
    by_cases hw : w.1 = j
    · exact .inl (hw ▸ AL.agrees_put_same m w.1 w.2)
    · rcases h with h | ⟨e, he, hj⟩
      · exact .inl (AL.agrees_put_ne w.2 (Ne.symm hw) h)
      · rcases List.mem_cons.mp he with rfl | he
        · exact absurd hj hw
        · exact .inr ⟨e, he, hj⟩

end Sys2Proof

namespace Sys2Proof.Machine

/-! ### Bytes written to memory (02 R57) -/

/-- A byte with its index: its place in the list. -/
theorem mem_zipIdxBytes {k : Nat} {bs : List Byte} {e : Nat × Byte} :
    e ∈ zipIdxBytes k bs ↔ k ≤ e.1 ∧ bs[e.1 - k]? = some e.2 := by
  induction bs generalizing k with
  | nil => simp [zipIdxBytes]
  | cons b r ih =>
    rw [zipIdxBytes, List.mem_cons, ih]
    obtain ⟨j, v⟩ := e
    rcases Nat.lt_trichotomy j k with h | rfl | h
    · have h1 : ¬ k ≤ j := by omega
      have h2 : ¬ k + 1 ≤ j := by omega
      simp [h1, h2, h.ne]
    · simp [eq_comm]
    · obtain ⟨d, rfl⟩ := Nat.exists_eq_add_of_lt h
      have hsub : k + d + 1 - k = d + 1 := by omega
      have hsub' : k + d + 1 - (k + 1) = d := by omega
      have hne : k + d + 1 ≠ k := by omega
      have hle : k + 1 ≤ k + d + 1 := by omega
      have hle' : k ≤ k + d + 1 := by omega
      simp only [Prod.mk.injEq, hne, hsub, hsub', hle, hle', List.getElem?_cons_succ, false_and, true_and, false_or]

theorem pairwise_zipIdxBytes (k : Nat) (bs : List Byte) : (zipIdxBytes k bs).Pairwise fun x y => x.1 ≠ y.1 := by
  induction bs generalizing k with
  | nil => exact List.Pairwise.nil
  | cons b r ih =>
    refine List.pairwise_cons.mpr ⟨fun e he => ?_, ih (k + 1)⟩
    have := (mem_zipIdxBytes.mp he).1
    omega

section
variable (s : State)

theorem State.memByte_memWrite_ne {ws : List (Nat × Byte)} {j : Nat} (h : ∀ w ∈ ws, j ≠ w.1) :
    (s.memWrite ws).memByte j = s.memByte j := AL.get_foldl_set_ne _ ws Prod.fst Prod.snd s.mem h

theorem State.memByte_memWrite_mem {ws : List (Nat × Byte)} {e : Nat × Byte} (h : ws.Pairwise fun x y => x.1 ≠ y.1)
    (he : e ∈ ws) : (s.memWrite ws).memByte e.1 = e.2 := AL.get_foldl_set_mem _ ws Prod.fst Prod.snd s.mem h he

theorem State.memBytes_memWrite (k : Nat) (bs : List Byte) : (s.memWrite (zipIdxBytes k bs)).memBytes k bs.length = bs := by
  refine List.ext_getElem (by simp [State.memBytes]) fun i _ h2 => ?_
  have hmem : (k + i, bs[i]) ∈ zipIdxBytes k bs :=
    mem_zipIdxBytes.mpr ⟨Nat.le_add_right .., by rw [Nat.add_sub_cancel_left, List.getElem?_eq_getElem h2]⟩
  simpa [State.memBytes] using s.memByte_memWrite_mem (pairwise_zipIdxBytes k bs) hmem

theorem State.memByte_memWrite_outside {k j : Nat} {bs : List Byte} (h : j < k ∨ k + bs.length ≤ j) :
    (s.memWrite (zipIdxBytes k bs)).memByte j = s.memByte j := by
  refine s.memByte_memWrite_ne fun e he => ?_
  obtain ⟨hlow, hget⟩ := mem_zipIdxBytes.mp he
  have hlt : e.1 - k < bs.length := (List.getElem?_eq_some_iff.mp hget).1
  omega

end

/-! ### The bytes of a store (07 R192, R194) -/

/-- The bytes that a store at a key changes: those of its true lanes. -/
abbrev Access.Stored (x : Access) (k n j : Nat) : Prop := k ≤ j ∧ j < k + n ∧ x.lanes.getLsbD (j - k) = true

/-- What a store at a key writes at a byte. -/
def Access.byteAt (x : Access) (k j : Nat) : Byte := x.data.extractLsb' (8 * (j - k)) 8

section
variable (x : Access) (k n : Nat)

theorem Access.mem_writes {e : Nat × Byte} : e ∈ x.writes k 0 n ↔ x.Stored k n e.1 ∧ e.2 = x.byteAt k e.1 := by
  obtain ⟨j, v⟩ := e
  simp only [Access.writes, Access.Stored, Access.byteAt, List.mem_filterMap, List.mem_range, Nat.zero_add]
  constructor
  · rintro ⟨i, hi, hsome⟩
    split at hsome
    · next hl =>
      obtain ⟨rfl, rfl⟩ := Prod.mk.injEq .. ▸ Option.some.inj hsome
      simp [hl, hi]
    · cases hsome
  · rintro ⟨⟨hlow, hhigh, hl⟩, rfl⟩
    refine ⟨j - k, by omega, ?_⟩
    rw [if_pos hl, Nat.add_sub_cancel' hlow]

theorem Access.pairwise_writes : (x.writes k 0 n).Pairwise fun a b => a.1 ≠ b.1 := by
  refine List.pairwise_filterMap.mpr (List.pairwise_lt_range.imp fun {i i'} hlt b hb b' hb' => ?_)
  split at hb
  · split at hb'
    · cases hb
      cases hb'
      simpa using hlt.ne
    · cases hb'
  · cases hb

variable (s : State)

/-- Memory after the bytes of a store are written to it. -/
theorem Access.memByte_writes (j : Nat) :
    (s.memWrite (x.writes k 0 n)).memByte j = if x.Stored k n j then x.byteAt k j else s.memByte j := by
  split
  · next h => exact s.memByte_memWrite_mem (x.pairwise_writes k n) ((x.mem_writes k n (e := (j, x.byteAt k j))).mpr ⟨h, rfl⟩)
  · next h =>
    refine s.memByte_memWrite_ne fun w hw hj => h ?_
    rw [hj]
    exact ((x.mem_writes k n).mp hw).1

/-- A line with bytes of a store in it. -/
def L2Line.putAll (ws : List (Nat × Byte)) (m : L2Line) : L2Line :=
  { m with dirty := ws.foldl (fun d w => AL.put d w.1 w.2) m.dirty }

theorem L2Line.byte_putAll_writes (m : L2Line) (j : Nat) :
    (m.putAll (x.writes k 0 n)).byte s j = if x.Stored k n j then x.byteAt k j else m.byte s j := by
  split
  · next h =>
    have hfind : AL.find (m.putAll (x.writes k 0 n)).dirty j = some (x.byteAt k j) :=
      AL.find_foldl_put_mem _ m.dirty (x.pairwise_writes k n) ((x.mem_writes k n (e := (j, x.byteAt k j))).mpr ⟨h, rfl⟩)
    rw [L2Line.byte, hfind]
  · next h =>
    have hfind : AL.find (m.putAll (x.writes k 0 n)).dirty j = AL.find m.dirty j := by
      refine AL.find_foldl_put_ne _ m.dirty fun w hw hj => h ?_
      rw [hj]
      exact ((x.mem_writes k n).mp hw).1
    rw [L2Line.byte, hfind, L2Line.byte]
    rfl

end

/-! ### What a line shows, and what it writes back (07 R191, 13 R308) -/

/-- The byte that the home of a tag shows. -/
def State.homeByte (s : State) (t : Tag) (j : Nat) : Byte := ((s.l2Line t).map fun l => l.byte s j).getD (s.memByte j)

theorem State.homeRead_single (s : State) (t : Tag) (j : Nat) : s.homeRead t [j] = [s.homeByte t j] := by
  unfold State.homeRead State.homeByte
  split
  · next l h => rw [h]; rfl
  · next h => rw [h]; rfl

/-- What the home shows depends on its line and on memory. -/
theorem State.homeByte_congr {s s' : State} {t : Tag} (hmem : s'.mem = s.mem) (hline : s'.l2Line t = s.l2Line t) (j : Nat) :
    s'.homeByte t j = s.homeByte t j := by
  simp only [State.homeByte, hline, L2Line.byte, State.memByte, hmem]

/-- A key whose entries agree, written back. -/
theorem get_writtenBack {mem dirty : AL Byte} {j : Nat} {v : Byte} (hagree : ∀ e ∈ dirty, e.1 = j → e.2 = v)
    (h : AL.get Memory.unlisted mem j = v ∨ ∃ e ∈ dirty, e.1 = j) : AL.get Memory.unlisted (writtenBack mem dirty) j = v := by
  induction dirty generalizing mem with
  | nil => simpa [writtenBack] using h
  | cons w r ih =>
    obtain ⟨hw, hr⟩ := List.forall_mem_cons.mp hagree
    refine ih hr ?_
    by_cases hj : w.1 = j
    · refine .inl ?_
      rw [← hj, AL.get_set_same, hw hj]
    · rcases h with h | ⟨e, he, hej⟩
      · exact .inl (by rw [AL.get_set_ne _ _ _ (Ne.symm hj), h])
      · rcases List.mem_cons.mp he with rfl | he
        · exact absurd hej hj
        · exact .inr ⟨e, he, hej⟩

/-- What a line holds of a byte is in memory once it is written back. -/
theorem State.memByte_writeBack_find {s : State} {t : Tag} {l : L2Line} {j : Nat} {v : Byte} (hl : s.l2Line t = some l)
    (hfind : AL.find l.dirty j = some v) (hagree : l.dirty.agrees j) : (s.writeBack t).memByte j = v := by
  rw [State.memByte, State.writeBack_mem, State.dirtyOf_of_l2Line hl]
  refine get_writtenBack (fun e he hej => ?_) (.inr (AL.find_isSome_mem hfind))
  exact Option.some.inj ((hagree e he hej).symm.trans hfind)

/-- A byte of which the line holds no store is as it was. -/
theorem State.memByte_writeBack_none {s : State} {t : Tag} {j : Nat} (h : ∀ m, s.l2Line t = some m → AL.find m.dirty j = none) :
    (s.writeBack t).memByte j = s.memByte j := by
  rw [State.memByte, State.writeBack_mem]
  cases hl : s.l2Line t with
  | none =>
    rw [State.dirtyOf, hl]
    rfl
  | some l =>
    rw [State.dirtyOf_of_l2Line hl]
    exact AL.get_foldl_set_ne _ l.dirty Prod.fst Prod.snd s.mem fun w hw hj => AL.find_eq_none (h l hl) w hw hj.symm

/-! ### Translations that succeed (17 R357) -/

section
variable {s s0 : State} {dom va : Nat} {p : Perm} {dev : Bool} {l : PLeaf}

/-- A translation that succeeds: the line of the address maps its page, or is filled with the leaf of a walk. -/
theorem State.translate_ok (h : s.translate (flatTag dom va) va p dev = .ok s0 l) :
    (s0 = s ∧ ∃ m, s.l2Line (flatTag dom va) = some m) ∨ s0 = s.filled dom va l := by
  unfold State.translate at h
  split at h
  · cases h
  · dsimp only at h
    split at h
    · next f hhit =>
      split at h
      · unfold MFault.res at h
        split at h <;> cases h
      · cases h
        refine .inl ⟨rfl, ?_⟩
        cases hl : s.l2Line (flatTag dom va) with
        | none => rw [hl] at hhit; cases hhit
        | some m => exact ⟨m, rfl⟩
    · split at h
      · unfold MFault.res at h
        split at h <;> cases h
      · cases h
      · split at h
        · unfold MFault.res at h
          split at h <;> cases h
        · split at h
          · next r hr =>
            unfold State.linkRes at hr
            split at hr
            · cases hr
            · split at hr <;> cases hr <;> cases h
          · cases h
            exact .inr rfl

variable (h : s.translate (flatTag dom va) va p dev = .ok s0 l)
include h

theorem State.translate_mem : s0.mem = s.mem := by
  rcases State.translate_ok h with ⟨rfl, -⟩ | rfl
  · rfl
  · obtain ⟨ls, hls⟩ := s.filled_eq dom va l
    rw [hls]

theorem State.translate_line : ∃ m, s0.l2Line (flatTag dom va) = some m := by
  rcases State.translate_ok h with ⟨rfl, hm⟩ | rfl
  · exact hm
  · rw [State.filled, State.l2Set_l2Line _ _ _ (L2Line.withLeaf (va / 65536) l) (fun _ => rfl), if_pos rfl,
      State.openLine_l2Line, if_pos rfl]
    exact ⟨_, rfl⟩

/-- A translation leaves what every home shows. -/
theorem State.translate_homeByte (u : Tag) (j : Nat) : s0.homeByte u j = s.homeByte u j := by
  have hmem := State.translate_mem h
  rcases State.translate_ok h with ⟨rfl, -⟩ | rfl
  · rfl
  · by_cases hu : u = flatTag dom va
    · subst hu
      rw [State.homeByte, State.filled, State.l2Set_l2Line _ _ _ (L2Line.withLeaf (va / 65536) l) (fun _ => rfl), if_pos rfl,
        State.openLine_l2Line, if_pos rfl, ← State.filled, State.homeByte]
      cases hl : s.l2Line (flatTag dom va) with
      | none => simp [L2Line.byte, L2Line.withLeaf, State.newLine, State.memByte, hmem, AL.find, AL.get]
      | some m => simp [L2Line.byte, L2Line.withLeaf, State.memByte, hmem]
    · exact State.homeByte_congr hmem (s.filled_other dom va l hu) j

end

/-! ### Stores and loads performed (07 R191 to R194) -/

section
variable {s s0 : State} {x : Access} {l : PLeaf}

/-- A store of the scratchpad is performed. -/
theorem State.performWrite_sp {k : Nat} (hkind : x.kind = .store) (hsp : x.sp = true) (hparts : x.parts = [(k, 0, x.size)]) :
    s.performWrite x = .ok ((s.clearPoison ((x.writes k 0 x.size).map (·.1))).memWrite (x.writes k 0 x.size)) ⟨5, 0, 0, x⟩ := by
  simp [State.performWrite, hkind, hsp, hparts]

/-- A store of global memory is performed under its leaf. -/
theorem State.performWrite_global (hkind : x.kind = .store) (hsp : x.sp = false)
    (h : s.translate (flatTag x.dom x.va) x.va .write false = .ok s0 l) :
    s.performWrite x = .ok ((s0.writeHome (flatTag x.dom x.va) l (x.writes (l.key x.va) 0 x.size)).setPrio (flatTag x.dom x.va) x.evict)
      ⟨l.level, 0, 0, x⟩ := by
  simp [State.performWrite, hkind, hsp, h]

variable (s) (t u : Tag) (ws : List (Nat × Byte)) (n : Nat)

/-- A line with its priority set. -/
def L2Line.withPrio (m : L2Line) : L2Line := { m with prio := n }

/-- A store in device memory: memory is as it was, and the line of the tag holds its bytes. -/
theorem State.writeHome_device (h : l.target = 0) : ((s.writeHome t l ws).setPrio t n).mem = s.mem ∧
    ((s.writeHome t l ws).setPrio t n).l2Line u =
      if u = t then (s.l2Line u).map fun m => (m.putAll ws).withPrio n else s.l2Line u := by
  obtain ⟨q, hq⟩ := s.clearPoison_eq (ws.map (·.1))
  unfold State.writeHome
  simp only [hq, h, if_true]
  refine ⟨rfl, ?_⟩
  have hold : ((({ s with poison := q } : State).l1Keep t (ws.map (·.1))).l2Set t (L2Line.putAll ws)).l2Line u =
      if u = t then (s.l2Line u).map (L2Line.putAll ws) else s.l2Line u := by
    rw [State.l2Set_l2Line _ _ _ (L2Line.putAll ws) fun _ => rfl]
    rfl
  refine (State.l2Set_l2Line _ t u (L2Line.withPrio n) fun _ => rfl).trans ?_
  refine (congrArg (fun o => if u = t then Option.map (L2Line.withPrio n) o else o) hold).trans ?_
  by_cases hu : u = t
  · simp only [if_pos hu, Option.map_map]
    rfl
  · simp only [if_neg hu]

/-- A store in host memory or behind a port: memory has it at once. -/
theorem State.writeHome_beyond (h : l.target ≠ 0) : ((s.writeHome t l ws).setPrio t n).mem = (s.memWrite ws).mem := by
  obtain ⟨q, hq⟩ := s.clearPoison_eq (ws.map (·.1))
  unfold State.writeHome
  simp only [hq, if_neg h]
  rfl

/-- A single piece of a read at the home. -/
theorem State.readGlobal_fresh {s1 : State} (hord : x.ord = 1)
    (h : s.translate (flatTag x.dom x.va) x.va .read false = .ok s0 l)
    (hready : s0.homeReady (flatTag x.dom x.va) (s.accWits x) [(l, x.va, x.size)] = .ok s1 ())
    (hclean : s1.poisonOf (flatTag x.dom x.va) [(l, x.va, x.size)] = none) :
    ∃ s2, s.readGlobal x .read false =
      .ok s2 (s1.homeRead (flatTag x.dom x.va) ((List.range x.size).map fun i => l.key x.va + i)) := by
  have hleaves : s.leaves false (flatTag x.dom x.va) .read false [(x.va, x.size)] = .ok s0 [(l, x.va, x.size)] := by
    simp [State.leaves, State.trans, h]
  have hread : s0.readHome (flatTag x.dom x.va) (s.accWits x) [(l, x.va, x.size)] =
      .ok s1 (s1.homeRead (flatTag x.dom x.va) ((List.range x.size).map fun i => l.key x.va + i)) := by
    simp [State.readHome, hready, hclean, leafKeys, PLeaf.keys]
  simp only [State.readGlobal, hord, State.readPast, hleaves, hread]
  exact ⟨_, rfl⟩

end

/-- A value of fewer than eight bytes, sign-extended. -/
theorem signExtendTo_eq {n v : Nat} (hlow : 0 < n) (hhigh : n ≤ 8) (hv : v < 2 ^ (8 * n)) :
    signExtendTo n v = if 2 ^ (8 * n - 1) ≤ v then 2 ^ 64 - 2 ^ (8 * n) + v else v := by
  have hle : (2 : Nat) ^ (8 * n) ≤ 2 ^ 64 := Nat.pow_le_pow_right Nat.two_pos (by omega)
  simp only [signExtendTo, wrapNat, sextNat, Nat.mod_eq_of_lt hv]
  generalize hm : (2 : Nat) ^ (8 * n) = m at *
  generalize (2 : Nat) ^ (8 * n - 1) = k
  by_cases h : k ≤ v
  · rw [if_neg (Nat.not_lt.mpr h), if_pos h]
    omega
  · rw [if_pos (Nat.lt_of_not_le h), if_neg h]
    omega

/-! ### Statistics records (04 R110, R111) -/

theorem natLe_one_byte (b : Byte) : natLe 1 b.toNat = [b] := by
  simp [natLe]

section
variable {s s1 s2 : State} {x : Access} {r : StatRec} {lost : Nat} {hdr : List Byte}
  (hkind : x.kind = .stat r lost) (hread : s.readFlat x.dom .read (s.accWits x) x.va 32 = .ok s1 hdr)
include hkind hread

/-- A statistics record is performed when its writes can be made. -/
theorem State.performWrite_stat (h : s1.writeAll x.dom (statWrites hdr x.va r lost) = .ok s2 ()) :
    ∃ w, s.performWrite x = .ok s2 w := by
  simp only [State.performWrite, hkind, hread, h]
  exact ⟨_, rfl⟩

end

/-- The records of a context's queue, with more behind them. -/
def Ctx.QueuesOn (c d : Ctx) : Prop := ∃ l, d.statq = c.statq ++ l

theorem Ctx.QueuesOn.trans {c d e : Ctx} (h : c.QueuesOn d) (h' : d.QueuesOn e) : c.QueuesOn e := by
  obtain ⟨l, hl⟩ := h
  obtain ⟨l', hl'⟩ := h'
  exact ⟨l ++ l', by rw [hl', hl, List.append_assoc]⟩

theorem Ctx.queuesOn_post (c : Ctx) (pos : CodePos) (eng : BitVec 8) (st : List (Nat × Nat)) : c.QueuesOn (c.post pos eng st) := by
  induction st generalizing c with
  | nil => exact ⟨[], (List.append_nil _).symm⟩
  | cons e st ih =>
    refine Ctx.QueuesOn.trans ?_ (ih (c.postOne pos eng e))
    unfold Ctx.postOne
    split
    · exact ⟨[], (List.append_nil _).symm⟩
    · split
      · exact ⟨_, rfl⟩
      · exact ⟨[], (List.append_nil _).symm⟩

/-- Operations that retire post behind the records of the queue. -/
theorem Ctx.queuesOn_retireOps (c : Ctx) (w : List TOp) : c.QueuesOn (retireOps c w) := by
  induction w generalizing c with
  | nil => exact ⟨[], (List.append_nil _).symm⟩
  | cons o w ih =>
    rw [retireOps]
    split
    · exact (c.queuesOn_post o.pos o.eng o.stats).trans (ih _)
    · exact ⟨[], (List.append_nil _).symm⟩

theorem Ctx.queuesOn_retireTiles (c : Ctx) : c.QueuesOn c.retireTiles := c.queuesOn_retireOps c.window

theorem Ctx.statReturn_statq (c : Ctx) : c.statReturn.statq = c.statq := by
  unfold Ctx.statReturn
  split <;> rfl

/-- Draining a record: the queue loses its first record, and the context stores it where it has a buffer. -/
theorem State.drainStat_eq {s : State} {a : Nat} {c : Ctx} {r : StatRec} {q : List StatRec} (hc : s.ctx a = some c)
    (hq : c.statq = r :: q) : (∃ d l, (s.drainStat a).ctx a = some d ∧ d.statq = q ++ l) ∧
    (c.statbuf = 0 → (s.drainStat a).accs = s.accs) ∧
    (c.statbuf ≠ 0 → ∃ y, (s.drainStat a).accs = s.accs ++ [y] ∧ y.kind = .stat r c.lost ∧ y.va = c.statbuf.toNat ∧
      y.dom = c.pd.toNat ∧ y.cid = c.cid ∧ y.sp = false ∧ y.scope = 1 ∧ y.level = 0) := by
  obtain ⟨l, hl⟩ := Ctx.queuesOn_retireTiles (Ctx.statReturn { c with statq := q, lost := 0 })
  rw [Ctx.statReturn_statq] at hl
  have hctx : (s.setCtx a (Ctx.statReturn { c with statq := q, lost := 0 }).retireTiles).ctx a = _ := State.setCtx_ctx _ _ _
  simp only [State.drainStat, hc, hq]
  split
  · next h => exact ⟨⟨_, l, hctx, hl⟩, fun _ => rfl, fun hne => absurd h hne⟩
  · next h => exact ⟨⟨_, l, hctx, hl⟩, fun h0 => absurd h0 h, fun _ => ⟨_, rfl, rfl, rfl, rfl, rfl, rfl, rfl, rfl⟩⟩

section
variable {s s0 : State} {x : Access} {l : PLeaf} (htr : s.translate (flatTag x.dom x.va) x.va .write false = .ok s0 l)
include htr

/-- A store of global memory in device memory: its home shows it at once, and memory has it once the line is written back. -/
theorem State.store_device (htarget : l.target = 0) (s1 : State) (t : Tag) (k0 : Nat) (ht : t = flatTag x.dom x.va)
    (hs1 : s1 = (s0.writeHome t l (x.writes k0 0 x.size)).setPrio t x.evict) :
    (∀ j, s1.memByte j = s.memByte j) ∧
    (∀ u j, s1.homeRead u [j] = if u = t ∧ x.Stored k0 x.size j then [x.byteAt k0 j] else s.homeRead u [j]) ∧
    (∀ j, x.Stored k0 x.size j → (s1.writeBack t).memByte j = x.byteAt k0 j) ∧
    (∀ j, (∀ m, s1.l2Line t = some m → AL.find m.dirty j = none) → (s1.writeBack t).memByte j = s.memByte j) := by
  subst ht
  have hmem0 := (s0.writeHome_device (flatTag x.dom x.va) (flatTag x.dom x.va) (x.writes k0 0 x.size) x.evict htarget).1
  have hline := fun u => (s0.writeHome_device (flatTag x.dom x.va) u (x.writes k0 0 x.size) x.evict htarget).2
  rw [← hs1] at hmem0
  rw [← hs1] at hline
  obtain ⟨m, hm⟩ := State.translate_line htr
  have hmem : s1.mem = s.mem := hmem0.trans (State.translate_mem htr)
  have hbytes : ∀ j, s1.memByte j = s.memByte j := fun j => by rw [State.memByte, hmem, State.memByte]
  have hown : s1.l2Line (flatTag x.dom x.va) = some ((m.putAll (x.writes k0 0 x.size)).withPrio x.evict) := by
    rw [hline, if_pos rfl, hm, Option.map_some]
  refine ⟨hbytes, fun u j => ?_, fun j hj => ?_, fun j hj => (State.memByte_writeBack_none hj).trans (hbytes j)⟩
  · rw [State.homeRead_single, State.homeRead_single, ← State.translate_homeByte htr]
    by_cases hu : u = flatTag x.dom x.va
    · subst hu
      have hbyte : s1.homeByte (flatTag x.dom x.va) j = (m.putAll (x.writes k0 0 x.size)).byte s0 j := by
        simp only [State.homeByte, hown, Option.map_some, Option.getD_some, L2Line.byte, L2Line.withPrio, State.memByte, hmem0]
      rw [hbyte, L2Line.byte_putAll_writes]
      by_cases hj : x.Stored k0 x.size j
      · rw [if_pos hj, if_pos ⟨rfl, hj⟩]
      · rw [if_neg hj, if_neg fun h => hj h.2, State.homeByte, hm, Option.map_some, Option.getD_some]
    · rw [if_neg fun h => hu h.1, State.homeByte_congr hmem0 ((hline u).trans (if_neg hu))]
  · refine State.memByte_writeBack_find hown ?_ ?_
    · exact AL.find_foldl_put_mem _ m.dirty (x.pairwise_writes k0 x.size) ((x.mem_writes k0 x.size (e := (j, x.byteAt k0 j))).mpr ⟨hj, rfl⟩)
    · exact AL.agrees_foldl_put _ m.dirty
        (.inr ⟨(j, x.byteAt k0 j), (x.mem_writes k0 x.size).mpr ⟨hj, rfl⟩, rfl⟩)

/-- A store of global memory beyond device memory: memory has it at once. -/
theorem State.store_beyond (htarget : l.target ≠ 0) (k0 j : Nat) :
    ((s0.writeHome (flatTag x.dom x.va) l (x.writes k0 0 x.size)).setPrio (flatTag x.dom x.va) x.evict).memByte j =
      if x.Stored k0 x.size j then x.byteAt k0 j else s.memByte j := by
  have hmem := s0.writeHome_beyond (flatTag x.dom x.va) (x.writes k0 0 x.size) x.evict htarget
  have h0 : s0.memByte j = s.memByte j := by rw [State.memByte, State.translate_mem htr, State.memByte]
  rw [State.memByte, hmem, ← State.memByte, x.memByte_writes, h0]

end

/-- A load of global memory gives the bytes read, the lowest address first, extended as it says. -/
theorem State.performRead_load {s s1 : State} {x : Access} {bs : List Byte} (hkind : x.kind = .load) (hsp : x.sp = false)
    (h : s.readGlobal x .read false = .ok s1 bs) :
    s.performRead x = .ok s1 (BitVec.ofNat 2048 (if x.sx then signExtendTo x.size (leNat bs) else leNat bs), 0) := by
  simp [State.performRead, hkind, hsp, h]

/-- The first of a list of writes is made, then the others. -/
theorem State.writeAll_cons {s s1 : State} {dom va : Nat} {bs : List Byte} (h : s.writeFlat dom va bs = .ok s1 ())
    (r : List (Nat × List Byte)) : s.writeAll dom ((va, bs) :: r) = s1.writeAll dom r := by
  rw [State.writeAll, h]

section
variable {r : StatRec} {lost : Nat} {hdr : List Byte}

/-- What the writes of a record are where the buffer has room. -/
theorem statWrites_room {va : Nat}
    (h : fieldAt hdr 0 8 % 16 = 0 ∧ (fieldAt hdr 12 4 + 2 ^ 32 - fieldAt hdr 16 4) % 2 ^ 32 < fieldAt hdr 8 4) :
    statWrites hdr va r lost =
      (fieldAt hdr 0 8 + 16 * (fieldAt hdr 12 4 % fieldAt hdr 8 4),
        natLe 8 r.pos.toWord.toNat ++ [r.eng] ++ natLe 1 r.code ++ [0, 0] ++ natLe 4 r.count) ::
      (va + 12, natLe 4 ((fieldAt hdr 12 4 + 1) % 2 ^ 32)) ::
      if lost = 0 then [] else [(va + 20, natLe 4 (min (fieldAt hdr 20 4 + lost) (2 ^ 32 - 1)))] := by
  have hno : ¬ (fieldAt hdr 0 8 % 16 ≠ 0 ∨ (fieldAt hdr 12 4 + 2 ^ 32 - fieldAt hdr 16 4) % 2 ^ 32 ≥ fieldAt hdr 8 4) := by
    omega
  simp only [statWrites]
  rw [if_neg hno, natLe_one_byte]
  rfl

/-- What the writes of a record are where the buffer has no room: it is counted in lost. -/
theorem statWrites_full {va : Nat}
    (h : ¬ (fieldAt hdr 0 8 % 16 = 0 ∧ (fieldAt hdr 12 4 + 2 ^ 32 - fieldAt hdr 16 4) % 2 ^ 32 < fieldAt hdr 8 4)) :
    statWrites hdr va r lost = [(va + 20, natLe 4 (min (fieldAt hdr 20 4 + (lost + 1)) (2 ^ 32 - 1)))] := by
  have hyes : fieldAt hdr 0 8 % 16 ≠ 0 ∨ (fieldAt hdr 12 4 + 2 ^ 32 - fieldAt hdr 16 4) % 2 ^ 32 ≥ fieldAt hdr 8 4 := by
    omega
  simp only [statWrites]
  rw [if_pos hyes]

end

/-- Settles O37: memory, the stores and loads that are performed, and the records of statistics. -/
theorem memoryWrites : Obligations.MemoryWrites := by
  unfold Obligations.MemoryWrites
  refine ⟨fun s k bs => ⟨s.memBytes_memWrite k bs, fun j hj => s.memByte_memWrite_outside hj,
    fun h => AL.wf_foldl_set _ _ _ _ _ h, rfl, rfl, rfl⟩, fun s s0 x l k => ?_⟩
  intro t byte stored
  refine ⟨fun hkind hsp hparts => ?_, fun hkind hsp htr => ?_, fun hkind hsp _ s1 bs hread => ?_, ?_,
    fun a c r q hc hq => State.drainStat_eq hc hq, fun hord htr s1 hready hclean => State.readGlobal_fresh s hord htr hready hclean⟩
  · refine ⟨_, _, State.performWrite_sp hkind hsp hparts, rfl, rfl, fun j => ?_⟩
    obtain ⟨q, hq⟩ := s.clearPoison_eq ((x.writes k 0 x.size).map (·.1))
    rw [hq]
    exact x.memByte_writes k x.size _ j
  · intro k0
    refine ⟨_, _, State.performWrite_global hkind hsp htr, rfl, fun htarget => ?_, fun htarget => ?_⟩
    · exact ⟨by rw [PLeaf.level, if_pos htarget], State.store_device htr htarget _ t k0 rfl rfl⟩
    · exact ⟨by rw [PLeaf.level, if_neg htarget], fun j => State.store_beyond htr htarget k0 j⟩
  · refine ⟨_, State.performRead_load hkind hsp hread, fun hsx => by rw [hsx]; rfl, fun hsx hlow hhigh hlen => ?_⟩
    have hlt := leNat_lt bs
    rw [hlen, show 256 = 2 ^ 8 from rfl, ← pow_mul] at hlt
    rw [hsx, if_pos rfl, signExtendTo_eq hlow hhigh hlt]
  · intro r lost s1 s2 s3 s4 hdr hkind hread f wr room record lose
    refine ⟨fun hroom hrec hwr => ⟨fun hlost => ?_, fun hlost hlose => ?_⟩, fun hroom hlose => ?_⟩
    · refine State.performWrite_stat hkind hread ?_
      rw [statWrites_room hroom, if_pos hlost]
      exact (State.writeAll_cons hrec _).trans (State.writeAll_cons hwr _)
    · refine State.performWrite_stat hkind hread ?_
      rw [statWrites_room hroom, if_neg hlost]
      exact (State.writeAll_cons hrec _).trans ((State.writeAll_cons hwr _).trans (State.writeAll_cons hlose _))
    · refine State.performWrite_stat hkind hread ?_
      rw [statWrites_full hroom]
      exact State.writeAll_cons hlose _

end Sys2Proof.Machine

namespace Sys2Proof.Machine

/-! ### Units of the package (02 R46, Tables 2-6 and 2-7) -/

/-- The first unit of the keystone: die 4, class 15, kind 0, index 0. -/
def firstKeystoneUnit : BitVec 32 := unitPath 4 0 0 15 0

/-- The keystone's units have class 15 and are units of the package. -/
theorem unitOk_firstKeystoneUnit : unitOk firstKeystoneUnit = true ∧ firstKeystoneUnit.extractLsb' 19 4 = 15 := by decide

/-- Refutes O38: its clause on the units of the package bounds their class by 14, and a unit of the keystone, which is
one, has class 15. -/
theorem not_outsideAndErrors : ¬ Obligations.OutsideAndErrors := by
  unfold Obligations.OutsideAndErrors
  intro h
  obtain ⟨-, -, -, -, -, hunits, -⟩ := h.2 State.reset firstKeystoneUnit 0 0 0 0 0 0 0
  obtain ⟨hok, hclass⟩ := unitOk_firstKeystoneUnit
  have hle := (hunits hok).2.1
  rw [hclass] at hle
  exact absurd hle (by decide)

end Sys2Proof.Machine

namespace Sys2Proof.Machine

/-! ### Operations taken by engines (09 R247, R248, R258, R265) -/

theorem Ctx.op_tseq {c : Ctx} {q : Nat} {o : TOp} (h : c.op q = some o) : o.tseq = q := by
  simpa using List.find?_some h

section
variable {s : State} {a q : Nat} {c : Ctx} {o : TOp} (hc : s.ctx a = some c) (ho : c.op q = some o) (hwait : o.status = .waiting)
include hc ho hwait

/-- What `TILE_ENGINE_CLAIM` does for an operation that waits for an engine. -/
theorem exec_tileEngineClaim (hk : engineOf o.form ≠ .none) : exec (.tileEngineClaim a q) s =
    if s.poisoned (opKey c.cid q) 8 then .next (s.failOp a q)
    else if !o.sat && s.witFailed o.wit then
      (if c.status != .running then .next (s.failOp a q)
       else .next (s.onCtx a fun c => c.faulted q { cause := 0x33, aux := o.wit, unit := s.opUnit a c o 0 o.stashVa }))
    else if engineOf o.form == .vt && !(s.coreSt (coreOf a)).epi.isEmpty then .next s
    else match s.freeUnit (coreOf a) (engineOf o.form) with
      | none => .next s
      | some u =>
        if !s.claims a q (engineOf o.form) u then .next s
        else if (o.binds ++ o.plane.toList).any fun e => s.poisoned (tileKey c.cid e.tile) 8 then .next (s.poisonedOp a c o)
        else .next ((s.onCore (coreOf a) fun x => x.served (engineOf o.form) u a).onCtx a fun c =>
          (c.placeResults o).onOp q fun o => { o with status := .running u }) := by
  have hstatus : (o.status != .waiting) = false := by simp [hwait]
  have hengine : (engineOf o.form == EngClass.none) = false := by simpa using hk
  show execTileEngineClaim a q s = _
  simp only [execTileEngineClaim, hc, ho, hstatus, hengine, Bool.false_eq_true, if_false] <;> rfl

/-- A free engine takes the operation it picks. -/
theorem exec_tileEngineClaim_takes {u : Nat} (hk : engineOf o.form ≠ .none) (hsat : o.sat = true ∨ s.witFailed o.wit = false)
    (hepi : engineOf o.form = .vt → (s.coreSt (coreOf a)).epi = []) (hfree : s.freeUnit (coreOf a) (engineOf o.form) = some u)
    (hclaims : s.claims a q (engineOf o.form) u = true) (hclean : s.poisoned (opKey c.cid q) 8 = false)
    (htiles : ∀ e ∈ o.binds ++ o.plane.toList, s.poisoned (tileKey c.cid e.tile) 8 = false) :
    exec (.tileEngineClaim a q) s = .next ((s.onCore (coreOf a) fun x => x.served (engineOf o.form) u a).onCtx a fun c =>
      (c.placeResults o).onOp q fun o => { o with status := .running u }) := by
  have hwit : (!o.sat && s.witFailed o.wit) = false := by
    rcases hsat with h | h <;> simp [h]
  have hepilogue : (engineOf o.form == .vt && !(s.coreSt (coreOf a)).epi.isEmpty) = false := by
    by_cases hvt : engineOf o.form = .vt
    · simp [hepi hvt]
    · simp [hvt]
  have hbinds : ((o.binds ++ o.plane.toList).any fun e => s.poisoned (tileKey c.cid e.tile) 8) = false :=
    List.any_eq_false.mpr fun e he => by simp [htiles e he]
  rw [exec_tileEngineClaim hc ho hwait hk, hclean, hwit, hepilogue, hfree]
  simp only [hclaims, hbinds, Bool.not_true, Bool.false_eq_true, if_false]

/-- A replayed `TZERO` whose older operations have no fault makes its tile once the deck has room. -/
theorem exec_tileEngineClaim_zero {e : Entry} (hk : engineOf o.form = .none) (hres : o.results = [e])
    (hold : c.olderFaulted o = false) : exec (.tileEngineClaim a q) s =
      .next (if c.deckUsed + (e.bytes + 2047) / 2048 ≤ c.deckG
        then (s.onCtx a fun c => c.placeResults o).finishOp a q (some (List.replicate e.bytes 0)) [] 0 else s) := by
  have hstatus : (o.status != .waiting) = false := by simp [hwait]
  have hengine : (engineOf o.form == EngClass.none) = true := by simp [hk]
  show execTileEngineClaim a q s = _
  simp only [execTileEngineClaim, hc, ho, hstatus, hengine, Bool.false_eq_true, if_false, if_true, State.makeTile, hres,
    List.head?_cons, hold, Ctx.roomFor, granules, Bool.false_or, Ctx.op_tseq ho]
  by_cases h : c.deckUsed + (e.bytes + 2047) / 2048 ≤ c.deckG <;> simp [h]

end

/-- A tile of a faulted operation that is not yet produced leaves its place. -/
theorem Ctx.find_unplaceResults {d : Ctx} {q : Nat} {o : TOp} {e : Entry} {x : Tile} (ho : d.op q = some o) (he : e ∈ o.results)
    (hx : AL.find d.tiles e.tile = some x) (himg : x.img = none) :
    AL.find (d.unplaceResults q).tiles e.tile = some { x with tier := .none } := by
  have hany : (o.results.any fun r => r.tile == e.tile) = true := List.any_eq_true.mpr ⟨e, he, beq_self_eq_true _⟩
  have hmap := AL.find_map d.tiles
    (fun k y => if (o.results.any fun r => r.tile == k) && y.img.isNone then { y with tier := .none } else y) e.tile
  have hcond : ((o.results.any fun r => r.tile == e.tile) && x.img.isNone) = true := by simp [hany, himg]
  rw [hx, Option.map_some, if_pos hcond] at hmap
  rw [Ctx.unplaceResults, ho]
  refine Eq.trans (congrArg (fun l => AL.find l e.tile) (List.map_congr_left fun p _ => ?_)) hmap
  split <;> rfl

section
variable {s : State} {a q u : Nat} {c : Ctx} {o : TOp} (hc : s.ctx a = some c) (ho : c.op q = some o)
include hc ho

/-- An operation that is done on its engine waits for its epilogue, while its core's queue has room. -/
theorem exec_tileOpComplete_epilogue (hrun : o.status = .running u) (hepi : hasEpilogue o.form = true) :
    exec (.tileOpComplete a q) s =
      if (s.coreSt (coreOf a)).epi.length ≥ s.depthOf (epiQueue (coreOf a)) 4 64 then .next s
      else .next ((s.onCtx a fun c => c.onOp q fun o => { o with status := .epilogue }).onCore (coreOf a) fun x =>
        { x with epi := x.epi ++ [(a, q)] }) := by
  show execTileOpComplete a q s = _
  simp only [execTileOpComplete, hc, ho, hrun, hepi, if_true]

theorem exec_tileOpComplete_run (hrun : o.status = .running u) (hepi : hasEpilogue o.form = false) :
    exec (.tileOpComplete a q) s = .next (s.ran a c o u (runOp s a c o u)) := by
  show execTileOpComplete a q s = _
  simp only [execTileOpComplete, hc, ho, hrun, hepi, Bool.false_eq_true, if_false]

theorem exec_tileOpComplete_serving (hrun : o.status = .serving u) :
    exec (.tileOpComplete a q) s = .next (s.ran a c o u (runCompute s c o)) := by
  show execTileOpComplete a q s = _
  simp only [execTileOpComplete, hc, ho, hrun]

end

/-- Whether a complete operation at the head of the window may retire: it posts nothing, or the queue takes its records. -/
theorem retireOps_waits {d : Ctx} {o : TOp} {w : List TOp} (h : (o.status == .done && d.statRoom o.stats.length) = false) :
    (retireOps d (o :: w)).window = o :: w := by
  rw [retireOps, h]
  rfl

/-- Settles O39: the steps of the tile engines. -/
theorem tileEngineEvents : Obligations.TileEngineEvents := by
  unfold Obligations.TileEngineEvents
  intro s s1 s2 a q u n c o img st f hc ho core
  have hq := Ctx.op_tseq ho
  refine ⟨fun hwait => exec_tileEngineClaim_takes hc ho hwait, fun hwait hk hsat hfail hrun hclean => ?_, fun hwait hk hpoison => ?_,
    fun m sp e _ hform hwait hres hold => ⟨fun hno => ?_, fun hroom => ?_⟩, fun d e x hd => Ctx.find_unplaceResults hd,
    fun hrun hepi hroom => ?_, fun hrun hepi hfull => ?_, fun hrun hepi hdone => ?_, fun hrun hepi hdone => ?_,
    fun hrun hepi hdone => ?_, fun hrun hepi hdone => ?_, fun r hr hfree => ?_, fun hrun hdone => ?_,
    fun d w => ⟨fun hno => ?_, fun hdone hroom => ?_, fun hdone hne hstatus hfull hdepth => ?_⟩⟩
  · rw [exec_tileEngineClaim hc ho hwait hk, hclean, hsat, hfail, hrun, if_neg Bool.false_ne_true,
      if_pos (by rfl : (!false && true) = true), bne_self_eq_false, if_neg Bool.false_ne_true,
      State.onCtx_of_ctx hc, State.onCtx_of_ctx hc]
    rfl
  · rw [exec_tileEngineClaim hc ho hwait hk, if_pos hpoison]
  · rw [exec_tileEngineClaim_zero hc ho hwait (by rw [hform]; rfl) hres hold, if_neg (Nat.not_le.mpr hno)]
  · rw [exec_tileEngineClaim_zero hc ho hwait (by rw [hform]; rfl) hres hold, if_pos hroom]
  · rw [exec_tileOpComplete_epilogue hc ho hrun hepi, if_neg (Nat.not_le.mpr hroom)]
  · rw [exec_tileOpComplete_epilogue hc ho hrun hepi, if_pos hfull]
  · rw [exec_tileOpComplete_run hc ho hrun hepi, hdone, ← hq]
    rfl
  · rw [exec_tileOpComplete_run hc ho hrun hepi, hdone, ← hq]
    rfl
  · rw [exec_tileOpComplete_run hc ho hrun hepi, hdone, ← hq]
    rfl
  · rw [exec_tileOpComplete_run hc ho hrun hepi, hdone, ← hq]
    rfl
  · show execEpilogueServe core s = _
    simp only [execEpilogueServe, hr, hfree, hc]
  · rw [exec_tileOpComplete_serving hc ho hrun, hdone, ← hq]
    rfl
  · exact retireOps_waits (by simp [hno])
  · have hroom' : d.statRoom o.stats.length = true := by
      rcases hroom with h | h <;> simp [Ctx.statRoom, h]
    rw [retireOps, hdone, hroom']
    rfl
  · have hlen : o.stats.length ≠ 0 := by simpa using hne
    refine retireOps_waits ?_
    simp [Ctx.statRoom, hlen, hstatus, hfull, hdepth]

end Sys2Proof.Machine

namespace Sys2Proof.Machine

/-! ### Results that land leave the repeat group and the bundle table (05 R126, R129, R132) -/

theorem Ctx.land_rest (c : Ctx) (p : Pend) : (c.land p).rep = c.rep ∧ (c.land p).bt = c.bt := by
  obtain ⟨q, l, h⟩ := (c.landed p).post_eq p.pos p.eng p.stats
  rw [Ctx.land_eq_landed, h]
  show (c.landed p).rep = c.rep ∧ (c.landed p).bt = c.bt
  cases hreg : p.reg <;> simp [Ctx.landed, hreg]

theorem foldl_landOne_rest (l : List Pend) {s : State} {a : Nat} {c : Ctx} (h : s.ctx a = some c) :
    ∃ d, (l.foldl (fun s p => s.landOne a p) s).ctx a = some d ∧ d.rep = c.rep ∧ d.bt = c.bt := by
  induction l generalizing s c with
  | nil => exact ⟨c, h, rfl, rfl⟩
  | cons p l ih =>
    obtain ⟨d, hd, hrep, hbt⟩ := ih (s.landOne_ctx a p h)
    exact ⟨d, hd, hrep.trans (c.land_rest p).1, hbt.trans (c.land_rest p).2⟩

theorem State.landDue_rest {s : State} {a : Nat} {c : Ctx} (hc : s.ctx a = some c) :
    ∃ d, (s.landDue a).ctx a = some d ∧ d.rep = c.rep ∧ d.bt = c.bt := by
  obtain ⟨d, hd, hrest⟩ := foldl_landOne_rest c.due hc
  refine ⟨{ d with pend := d.pend.filter fun p => !p.isDue }, ?_, hrest⟩
  simp only [State.landDue, hc]
  rw [State.onCtx_of_ctx hd, State.setCtx_ctx]

/-- The environment of a bundle stands in the repetition of its context's group. -/
theorem State.env_rep {s : State} {a : Nat} {c : Ctx} {h : Half} {next : CodePos} {e : Env} {g : Rep} (hc : s.ctx a = some c)
    (hrep : c.rep = some g) (he : s.env a h next = some e) : e.repK = g.k ∧ e.repN = g.n ∧ e.c.rep = some g := by
  obtain ⟨d, hd, hdrep, -⟩ := State.landDue_rest hc
  rw [hrep] at hdrep
  simp only [State.env, hc, hd, hdrep] at he
  split at he
  · cases he
  · cases he
    exact ⟨rfl, rfl, hdrep⟩

/-- The environment of a bundle has its context's bundle table. -/
theorem State.env_bundle {s : State} {a : Nat} {c : Ctx} {h : Half} {next : CodePos} {e : Env} (hc : s.ctx a = some c)
    (he : s.env a h next = some e) (idx : Nat) : e.c.bundle idx = c.bundle idx := by
  obtain ⟨d, hd, -, hbt⟩ := State.landDue_rest hc
  simp only [State.env, hc, hd] at he
  split at he
  · cases he
  · cases he
    rw [Ctx.bundle, hbt, Ctx.bundle]

/-- What an environment says of its context: it may issue, its due results are not poisoned, and it is not stopped. -/
theorem State.env_issuable {s : State} {a : Nat} {c : Ctx} {h : Half} {next : CodePos} {e : Env} (hc : s.ctx a = some c)
    (he : s.env a h next = some e) : s.mayIssue c = true ∧ c.dueBad = false ∧ c.stopped = false ∧ c.vacating = false := by
  simp only [State.env, hc] at he
  split at he
  · cases he
  · next hno => simpa [and_assoc, and_comm, and_left_comm] using hno

/-! ### The issue of a context in its core's cycle (06 R146, 16 R340) -/

/-- The form of each slot runs as a bundle of its own. -/
theorem exec_of_reqOf {i : Instr} {r : SlotReq} (h : reqOf i = some r) : ∃ k, ∀ s, exec i s = issueForm k r s := by
  cases i <;> cases h <;> exact ⟨_, fun _ => rfl⟩

section
variable (s : State) (a : Nat) (c : Ctx)

/-- A state after an issue in which the context has issued a bundle or taken a trap. -/
def Moved (s1 : State) : Prop := ∀ d, s1.ctx a = some d → d.issues ≠ c.issues ∨ d.capture ≠ c.capture ∨ d.status ≠ c.status

/-- The context has the issue of its core's cycle. -/
def State.Turn : Prop := (s.coreSt (coreOf a)).chosen = some a ∧ ∃ n, (s.coreSt (coreOf a)).issued = some (s.cycle, n)

/-- A state after a bundle has used its core's issue and the other contexts have seen it. -/
def State.usedIssue (s1 : State) : State :=
  (s1.onCore (coreOf a) fun x => { x with chosen := none }).seenIssue a c.cid ((s.readyOn (coreOf a)).map (·.1))

theorem State.hasTurn_iff : s.hasTurn a = true ↔ s.Turn a := by
  simp only [State.hasTurn, State.Turn, Bool.and_eq_true, beq_iff_eq]
  refine and_congr_right fun _ => ?_
  cases (s.coreSt (coreOf a)).issued with
  | none => simp
  | some t => simp [Prod.ext_iff]

variable {s a c} (hc : s.ctx a = some c)
include hc

theorem State.hasIssued_iff (s1 : State) : s.hasIssued s1 a = true ↔ Moved a c s1 := by
  simp only [State.hasIssued, hc, Moved]
  cases s1.ctx a with
  | none => simp
  | some d => simp [or_assoc]

/-- What `BUNDLE_ISSUE` makes of what the context's issue gives. -/
theorem exec_bundleIssue {s1 : State} (h : ({ s with cur := a } : State).issueAt a = s1) :
    (Moved a c s1 → s.Turn a → exec (.bundleIssue a) s = .next (s.usedIssue a c s1)) ∧
    (Moved a c s1 → ¬ s.Turn a → exec (.bundleIssue a) s = .next s) ∧ (¬ Moved a c s1 → exec (.bundleIssue a) s = .next s1) := by
  have hexec : exec (.bundleIssue a) s = execBundleIssue a s := rfl
  rw [hexec]
  simp only [execBundleIssue, h, ← State.hasIssued_iff hc, ← State.hasTurn_iff, hc]
  refine ⟨fun hmoved hturn => ?_, fun hmoved hturn => ?_, fun hmoved => ?_⟩
  · simp only [hmoved, hturn, Bool.not_true, Bool.false_eq_true, if_false, if_true]
    rfl
  · simp only [hmoved, hturn, Bool.not_true, Bool.false_eq_true, if_false]
  · simp only [hmoved, Bool.not_false, if_true]

theorem exec_heldBundleRelease (hheld : c.held = true) : exec (.heldBundleRelease a) s = exec (.bundleIssue a) s := by
  show execHeldBundleRelease a s = execBundleIssue a s
  simp only [execHeldBundleRelease, hc, hheld, if_true]

/-- A held bundle is looked at again as a bundle issues. -/
theorem gives_of_issueAt {s1 : State} (h : ({ s with cur := a } : State).issueAt a = s1) :
    (Moved a c s1 → s.Turn a → exec (.bundleIssue a) s = .next (s.usedIssue a c s1) ∧
      (c.held = true → exec (.heldBundleRelease a) s = .next (s.usedIssue a c s1))) ∧
    (Moved a c s1 → ¬ s.Turn a → exec (.bundleIssue a) s = .next s ∧
      (c.held = true → exec (.heldBundleRelease a) s = .next s)) ∧
    (¬ Moved a c s1 → exec (.bundleIssue a) s = .next s1 ∧ (c.held = true → exec (.heldBundleRelease a) s = .next s1)) := by
  obtain ⟨hissues, hidle, hstays⟩ := exec_bundleIssue hc h
  exact ⟨fun hm ht => ⟨hissues hm ht, fun hh => (exec_heldBundleRelease hc hh).trans (hissues hm ht)⟩,
    fun hm ht => ⟨hidle hm ht, fun hh => (exec_heldBundleRelease hc hh).trans (hidle hm ht)⟩,
    fun hm => ⟨hstays hm, fun hh => (exec_heldBundleRelease hc hh).trans (hstays hm)⟩⟩

end

/-! ### What issues at a position (05 R126 to R128) -/

section
variable {u : State} {a : Nat} {c : Ctx} (hc : u.ctx a = some c) (hrun : c.status = .running) (hop : c.opFaulted = false)
  (hpend : c.pendTrap = none)
include hc hrun hop hpend

/-- The issue of a context that may issue, by the segment of its position. -/
theorem State.issueAt_eq (hmay : u.mayIssue c = true ∧ c.dueBad = false ∧ c.stopped = false ∧ c.vacating = false) :
    u.issueAt a = match u.segment a c.pc.seg with
      | .wait => u
      | .fault f =>
        (match u.env a ⟨c.pc.seg, 0, [], 0⟩ c.pc with
         | none => u
         | some e => trapAt e (memFault f))
      | .ok s1 h =>
        match s1.ctx a with
        | none => s1
        | some c1 =>
          if s1.poisoned (lbKey a h.seg) 8 then s1.machineEvent a c.pc 0 none 0 0 (seqUnit a)
          else s1.issueItem a c1 h ((h.item c.pc.unit).getD (badRole (h.units.drop c.pc.unit))) := by
  obtain ⟨hissue, hbad, hstop, hvac⟩ := hmay
  have hcan : c.cannotIssue = false := by simp [Ctx.cannotIssue, hrun, hop, hstop, hvac]
  simp only [State.issueAt, hc, hcan, hpend, hissue, hbad, Bool.not_true, Bool.false_eq_true, if_false] <;> rfl

/-- The fault of a segment that cannot be fetched. -/
theorem State.issueAt_fault {f : MFault} {e : Env}
    (hmay : u.mayIssue c = true ∧ c.dueBad = false ∧ c.stopped = false ∧ c.vacating = false)
    (hseg : u.segment a c.pc.seg = .fault f) (he : u.env a ⟨c.pc.seg, 0, [], 0⟩ c.pc = some e) :
    u.issueAt a = trapAt e (memFault f) := by
  rw [State.issueAt_eq hc hrun hop hpend hmay, hseg]
  dsimp only
  rw [he]

section
variable {h : Half} (hh : (c.halves.find? fun x => x.seg == c.pc.seg) = some h)
include hh

omit hrun hop hpend in
theorem State.segment_held : u.segment a c.pc.seg = .ok u h := by
  simp only [State.segment, hc, hh]

/-- The issue of a context whose segment is in its loop buffer. -/
theorem State.issueAt_held (hmay : u.mayIssue c = true ∧ c.dueBad = false ∧ c.stopped = false ∧ c.vacating = false) :
    u.issueAt a = if u.poisoned (lbKey a h.seg) 8 then u.machineEvent a c.pc 0 none 0 0 (seqUnit a)
      else u.issueItem a c h ((h.item c.pc.unit).getD (badRole (h.units.drop c.pc.unit))) := by
  rw [State.issueAt_eq hc hrun hop hpend hmay, State.segment_held hc hh]
  simp only [hc]

variable (hclean : u.poisoned (lbKey a h.seg) 8 = false)
include hclean

theorem State.issueAt_item {r : Role} (hmay : u.mayIssue c = true ∧ c.dueBad = false ∧ c.stopped = false ∧ c.vacating = false)
    (hitem : h.item c.pc.unit = some r) : u.issueAt a = u.issueItem a c h r := by
  rw [State.issueAt_held hc hrun hop hpend hh hmay, hclean, hitem]
  rfl

/-- A bundle reference issues the bundle it names. -/
theorem State.issueAt_ref {idx l : Nat} {e : Env} {entry : Bool} {z : Slots} (hmbz : h.mbz = true)
    (hitem : h.item c.pc.unit = some (.ref idx l)) (hbt : u.poisoned (btKey a idx) 32 = false)
    (he : u.env a h (h.after (c.pc.unit + (1 + l))) = some e)
    (hdec : decodeBundle (e.c.bundle idx) ((h.units.drop (c.pc.unit + 1)).take l) = .ok entry z) :
    u.issueAt a = issueIn e (slotReqs z) := by
  rw [State.issueAt_item hc hrun hop hpend hh hclean (State.env_issuable hc he) hitem]
  simp only [State.issueItem, hbt, hmbz, State.bundleEnv, Role.len, he, issueWord, hdec, Bool.false_eq_true, if_false, if_true]

end

end

/-! ### What the answer to a witness depends on (13 R313) -/

section
variable {s s' : State} (hepoch : s'.epoch = s.epoch)
include hepoch

theorem State.epochAbs_congr (n : Nat) : s'.epochAbs n = s.epochAbs n := by
  rw [State.epochAbs, State.epochAbs, State.epochAge, State.epochAge, hepoch]

theorem State.covers_congr (w : W64) (f : FormRec) : s'.covers w f = s.covers w f := by
  simp only [State.covers, State.epochAbs_congr hepoch]

variable (hforms : s'.forms = s.forms)
include hforms

theorem State.witFailed_congr (w : W64) : s'.witFailed w = s.witFailed w := by
  simp only [State.witFailed, State.covers_congr hepoch, hforms]

variable (hclosed : s'.closed = s.closed)
include hclosed

omit hforms in
theorem State.epochClosed_congr (d sc n : Nat) : s'.epochClosed d sc n = s.epochClosed d sc n := by
  rw [Bool.eq_iff_iff, State.epochClosed_eq_true, State.epochClosed_eq_true, State.epochAbs_congr hepoch]
  simp only [State.closedOf, hclosed]

theorem State.witSat_congr (w : W64) : s'.witSat w = s.witSat w := by
  simp only [State.witSat, State.witFailed_congr hepoch hforms, State.covers_congr hepoch,
    State.epochClosed_congr hepoch hclosed, hforms]

end

/-- Whether a context may issue depends on the witness of its floor, on the clock and on the accesses. -/
theorem State.mayIssue_congr {s s' : State} (hepoch : s'.epoch = s.epoch) (hforms : s'.forms = s.forms)
    (hclosed : s'.closed = s.closed) (hshare : s'.shareNum = s.shareNum) (hcycle : s'.cycle = s.cycle) (haccs : s'.accs = s.accs)
    (c : Ctx) : s'.mayIssue c = s.mayIssue c := by
  simp only [State.mayIssue, State.shareDue, State.lateAccess, State.witSat_congr hepoch hforms hclosed, hshare, hcycle, haccs]

/-- The slot that the package looks at has no part in whether a context may issue. -/
theorem State.cur_mayIssue (s : State) (a : Nat) (c : Ctx) : ({ s with cur := a } : State).mayIssue c = s.mayIssue c := 
  State.mayIssue_congr (s := s) (s' := { s with cur := a }) rfl rfl rfl rfl rfl rfl c

/-- A context in a repetition of a group. -/
def Ctx.inGroup (c : Ctx) (g : Rep) : Ctx := { c with rep := some g }

/-- An open group leaves whether its context may issue. -/
theorem State.inGroup_mayIssue (s : State) (a : Nat) (c : Ctx) (g : Rep) :
    (s.setCtx a (c.inGroup g)).mayIssue (c.inGroup g) = s.mayIssue c := by
  have hstate : (s.setCtx a (c.inGroup g)).mayIssue (c.inGroup g) = s.mayIssue (c.inGroup g) :=
    State.mayIssue_congr (s := s) (s' := s.setCtx a (c.inGroup g)) rfl rfl rfl rfl rfl rfl (c.inGroup g)
  have hready : (c.inGroup g).dueReady = c.dueReady := rfl
  have hlate : s.lateAccess (c.inGroup g) = s.lateAccess c := rfl
  have hfloor : (c.inGroup g).floor = c.floor ∧ (c.inGroup g).floorWait = c.floorWait := ⟨rfl, rfl⟩
  rw [hstate, State.mayIssue, State.mayIssue, hready, hlate, hfloor.1, hfloor.2]

/-! ### Repeat groups and segment ends (05 R126 to R128) -/

/-- The slot mask of a repetition's defects: a stepped field out of its range, a C slot. -/
theorem groupMask (ok : Bool) (cls : BitVec 4) :
    (0#8 ||| maskBit 7 (!ok) ||| maskBit 5 (cls != 0)) = (if ok then 0 else 0x80) ||| (if cls = 0 then 0 else 0x20) := by
  revert ok cls
  decide

section
variable {u : State} {a : Nat} {c : Ctx} {h : Half} {n idx l : Nat} {st : Unit16} {g : Rep} {e : Env} {q : CodePos}
  (hc : u.ctx a = some c)
include hc

theorem State.openGroup_eq : u.openGroup a n st = u.setCtx a (c.inGroup (c.rep.getD ⟨0, n, st⟩)) := by
  rw [State.openGroup, State.onCtx_of_ctx hc]
  rfl

variable (he : (u.setCtx a (c.inGroup g)).env a h q = some e)
include he

omit hc in
/-- The repetition in which a group's bundle issues. -/
theorem State.env_inGroup : e.repK = g.k ∧ e.repN = g.n ∧ e.c.rep = some g := State.env_rep (State.setCtx_ctx _ _ _) rfl he

omit hc in
theorem State.env_inGroup_issuable : u.mayIssue c = true ∧ c.dueBad = false ∧ c.stopped = false ∧ c.vacating = false := by
  have h := State.env_issuable (State.setCtx_ctx _ _ _) he
  rw [State.inGroup_mayIssue] at h
  exact h

end

/-- Repetition k of a group issues its bundle with each stepped field advanced by k times its step. -/
theorem State.issueItem_group {u : State} {a : Nat} {c : Ctx} {h : Half} {n idx l : Nat} {st : Unit16} {g : Rep} {e : Env}
    (hc : u.ctx a = some c) (hg : g = c.rep.getD ⟨0, n, st⟩)
    (he : (u.setCtx a (c.inGroup g)).env a h (h.after (c.pc.unit + (3 + l))) = some e)
    {w : BundleWord × Bool} {extra : BitVec 8} {entry : Bool} {z : Slots} (hmbz : h.mbz = true)
    (hbt : u.poisoned (btKey a idx) 32 = false) (hw : w = stepWord (e.c.bundle idx) g.steps g.k)
    (hextra : extra = (if w.2 then 0 else 0x80) ||| (if (e.c.bundle idx).slotC.cls = 0 then 0 else 0x20))
    (hdec : decodeBundle w.1 ((h.units.drop (c.pc.unit + 3)).take l) = .ok entry z) :
    u.issueItem a c h (.group n st idx l) =
      if extra = 0 then issueIn e (slotReqs z) else bundleFault e 0x01 0 (extra ||| lateIllegal e z) := by
  obtain ⟨hk, -, hrep⟩ := State.env_inGroup he
  have hsteps : (e.c.rep.map (·.steps)).getD st = g.steps := by rw [hrep]; rfl
  simp only [State.issueItem, hbt, hmbz, State.bundleEnv, Role.len, State.openGroup_eq hc, ← hg, he, hsteps, hk, ← hw,
    Bool.false_eq_true, if_false, if_true]
  rw [← groupMask] at hextra
  simp only [issueWord, hdec, hextra]
  rfl

section
variable {u : State} {a : Nat} {c : Ctx} {h : Half}

/-- At the segment end issue passes to the next segment. -/
theorem State.issueItem_segEnd (hlast : h.last = false) (hmbz : h.mbz = true) :
    u.issueItem a c h .segEnd = u.onCtx a fun c => { c with pc := ⟨h.nextSeg, 0⟩ } := by
  simp only [State.issueItem, hlast, hmbz, Bool.not_true, Bool.or_self, Bool.false_eq_true, if_false]

/-- The end of the last segment, or of a defective one, is an illegal item. -/
theorem State.issueItem_lastEnd {e : Env} (hend : h.last = true ∨ h.mbz = false)
    (he : u.env a h (h.after (c.pc.unit + 1)) = some e) : u.issueItem a c h .segEnd = bundleFault e 0x01 0 0x80 := by
  have hor : (h.last || !h.mbz) = true := by rcases hend with h' | h' <;> simp [h']
  simp only [State.issueItem, hor, if_true, State.bundleEnv, he]

end

/-- Passing a segment end issues no bundle. -/
theorem not_moved_pc {u : State} {a : Nat} {c : Ctx} (hc : u.ctx a = some c) (q : CodePos) :
    ¬ Moved a c (u.onCtx a fun c => { c with pc := q }) := fun h => by
  have h1 := h { c with pc := q } (by rw [State.onCtx_of_ctx hc, State.setCtx_ctx])
  simp at h1

/-- A repeat prefix opens its group, with the count less one in its field. -/
theorem exec_repeatPrefix {s : State} {a : Nat} {c : Ctx} {h : Half} {n : BitVec 8} {k idx l : Nat} {st : Unit16}
    (hc : s.ctx a = some c) (hrun : c.status = .running) (hh : (c.halves.find? fun x => x.seg == c.pc.seg) = some h)
    (hcur : s.cur = a) (hitem : h.item c.pc.unit = some (.group k st idx l)) :
    exec (.repeatPrefix n) s = .next (s.onCtx a fun c => { c with rep := some (c.rep.getD ⟨0, n.toNat + 1, st⟩) }) := by
  subst hcur
  have hstatus : (c.status != .running) = false := by rw [hrun]; rfl
  show execRepeatPrefix n s = _
  simp only [execRepeatPrefix, hc, hstatus, State.segment_held hc hh, hitem, Bool.false_eq_true, if_false]
  rfl

/-- The segment prefetch brings the next segment into the other half. -/
theorem exec_segmentPrefetch {s s1 : State} {a : Nat} {c : Ctx} {h x : Half} (hc : s.ctx a = some c)
    (hh : (c.halves.find? fun x => x.seg == c.pc.seg) = some h) (hlast : h.last = false) (hnew : ∀ y ∈ c.halves, y.seg ≠ h.nextSeg)
    (hfetch : s.fetchSeg c.pd.toNat h.nextSeg = .ok s1 x) :
    exec (.segmentPrefetch a) s = .next ((s1.clearKey (lbKey a h.nextSeg)).onCtx a fun c => { c with halves := [h, x] }) := by
  have hno : (h.last || c.halves.any fun x => x.seg == h.nextSeg) = false := by
    simp only [hlast, Bool.false_or, List.any_eq_false, beq_iff_eq]
    exact hnew
  show execSegmentPrefetch a s = _
  simp only [execSegmentPrefetch, hc, hh, hno, hfetch, Bool.false_eq_true, if_false]

section
variable (h : Half)

theorem Half.nextSeg_eq : h.nextSeg = h.hdr.toNat / 2 ^ 14 * 128 := by
  have hlt := h.hdr.isLt
  rw [Half.nextSeg, BitVec.extractLsb'_toNat, Nat.shiftRight_eq_div_pow, Nat.mod_eq_of_lt (by omega)]

theorem Half.last_iff : h.last = true ↔ h.hdr.toNat % 2 = 1 := by
  rw [Half.last, BitVec.getLsbD, Nat.testBit_zero, decide_eq_true_iff]

theorem Half.after_eq (n : Nat) :
    h.after n = if h.item n = some .segEnd ∧ h.last = false then ⟨h.nextSeg, 0⟩ else ⟨h.seg, n⟩ := by
  unfold Half.after
  split
  · next hitem => cases hlast : h.last <;> simp [hitem]
  · next hne => rw [if_neg fun hand => hne hand.1]

end

/-- Settles O28: the issue of a context at its position. -/
theorem issueEvents : Obligations.IssueEvents := by
  unfold Obligations.IssueEvents
  intro s a c hc hrun hop hpend x turn u gives issuable
  have hu : u.ctx a = some c := hc
  have gives_of {s1 : State} (h : u.issueAt a = s1) : gives s1 := gives_of_issueAt hc h
  have may_of (h : issuable) : u.mayIssue c = true ∧ c.dueBad = false ∧ c.stopped = false ∧ c.vacating = false :=
    ⟨(s.cur_mayIssue a c).trans h.1, h.2⟩
  refine ⟨fun h hh => ⟨fun hmay hbad => gives_of ?_, fun hclean => ⟨?_, ?_, ?_⟩,
    fun n k idx l st hcur hitem => exec_repeatPrefix hc hrun hh hcur hitem,
    fun x s1 hlast hnew hfetch => exec_segmentPrefetch hc hh hlast hnew hfetch, h.nextSeg_eq, h.last_iff, h.after_eq⟩,
    fun f e hmay hseg he => gives_of (State.issueAt_fault hu hrun hop hpend (may_of hmay) hseg he)⟩
  · rw [State.issueAt_held hu hrun hop hpend hh (may_of hmay), if_pos hbad]
  · intro idx l e entry z hmbz hitem hbt he hdec
    exact gives_of (State.issueAt_ref hu hrun hop hpend hh hclean hmbz hitem hbt he hdec)
  · intro n idx l st e hmbz hitem hbt g he w extra
    have he' : (u.setCtx a (c.inGroup g)).env a h (h.after (c.pc.unit + (3 + l))) = some e := by
      rw [State.onCtx_of_ctx hu] at he
      exact he
    obtain ⟨hk, hn, -⟩ := State.env_inGroup he'
    refine ⟨hk, hn, fun entry z hdec => ?_⟩
    have hissue : u.issueAt a = if extra = 0 then issueIn e (slotReqs z) else bundleFault e 0x01 0 (extra ||| lateIllegal e z) :=
      (State.issueAt_item hu hrun hop hpend hh hclean (State.env_inGroup_issuable he') hitem).trans
        (State.issueItem_group hu rfl he' hmbz hbt rfl rfl hdec)
    exact ⟨fun h0 => gives_of (hissue.trans (if_pos h0)), fun h0 => gives_of (hissue.trans (if_neg h0))⟩
  · intro hitem hmay
    have hissue := State.issueAt_item hu hrun hop hpend hh hclean (may_of hmay) hitem
    refine ⟨fun hlast hmbz => ?_, fun hend e he => gives_of (hissue.trans (State.issueItem_lastEnd hend he))⟩
    exact (exec_bundleIssue hc (hissue.trans (State.issueItem_segEnd hlast hmbz))).2.2 (not_moved_pc hu _)

/-! ### The bundle of a form and the form by itself (05 R121, R130) -/

section
variable {s : State} {c : Ctx} (hc : s.ctx s.cur = some c) (hrun : c.status = .running)
include hc hrun

/-- A form by itself at a position whose item is known. -/
theorem State.issuing_item {h : Half} {x : Role} (hh : (c.halves.find? fun y => y.seg == c.pc.seg) = some h)
    (hitem : h.item c.pc.unit = some x) (k : Nat) : s.issuing k = s.env s.cur h (h.after (c.pc.unit + x.len)) := by
  have hstatus : (c.status != .running) = false := by rw [hrun]; rfl
  simp only [State.issuing, hc, hstatus, hh, Option.getD_some, hitem, Bool.false_eq_true, if_false]

theorem issueForm_eq (k : Nat) (r : SlotReq) : issueForm k r s = .next (match s.issuing k with
    | none => if s.mayIssue c && c.dueBad && !c.stopped && !c.vacating
      then s.machineEvent s.cur c.pc 0 none 0 0 (seqUnit s.cur) else s
    | some e => issueIn e [r]) := by
  have hstatus : (c.status != .running) = false := by rw [hrun]; rfl
  simp only [issueForm, hc, hstatus, Bool.false_eq_true, if_false]
  cases s.issuing k <;> rfl

/-- The issue of the bundle of one form is that form by itself. -/
theorem issueForm_of_bundle {h : Half} {idx l : Nat} {entry : Bool} {z : Slots} {r : SlotReq} (hop : c.opFaulted = false)
    (hpend : c.pendTrap = none) (hh : (c.halves.find? fun x => x.seg == c.pc.seg) = some h) (hmbz : h.mbz = true)
    (hitem : h.item c.pc.unit = some (.ref idx l)) (hclean : s.poisoned (lbKey s.cur h.seg) 8 = false)
    (hbt : s.poisoned (btKey s.cur idx) 32 = false)
    (hdec : decodeBundle (c.bundle idx) ((h.units.drop (c.pc.unit + 1)).take l) = .ok entry z) (hz : slotReqs z = [r]) (k : Nat) :
    issueForm k r s = .next (s.issueAt s.cur) := by
  rw [issueForm_eq hc hrun, State.issuing_item hc hrun hh hitem]
  refine congrArg Host.Outcome.next ?_
  cases he : s.env s.cur h (h.after (c.pc.unit + Role.len (.ref idx l))) with
  | some e =>
    exact (congrArg (issueIn e) hz).symm.trans (State.issueAt_ref hc hrun hop hpend hh hclean hmbz hitem hbt he
      ((congrArg (decodeBundle · _) (State.env_bundle hc he idx)).trans hdec)).symm
  | none =>
    by_cases hmay : s.mayIssue c = true ∧ c.dueBad = false ∧ c.stopped = false ∧ c.vacating = false
    · rw [State.issueAt_item hc hrun hop hpend hh hclean hmay hitem]
      simp only [hmay, State.issueItem, hbt, State.bundleEnv, he, Bool.and_false, Bool.false_and, Bool.false_eq_true, if_false]
    · simp only [State.issueAt, hc, Ctx.cannotIssue, hrun, hop, hpend]
      by_cases hstop : c.stopped = true ∨ c.vacating = true
      · rcases hstop with h | h <;> simp [h]
      · have hgo : c.stopped = false ∧ c.vacating = false := by simpa using hstop
        by_cases hissue : s.mayIssue c = true
        · have hbad : c.dueBad = true := by simpa [hissue, hgo] using hmay
          simp [hgo, hissue, hbad]
        · simp [hgo, hissue]

end

/-- Settles O29: a step takes the next event, and the bundle of one form is that form. -/
theorem stepRunsDecoded : Obligations.StepRunsDecoded := by
  unfold Obligations.StepRunsDecoded
  refine ⟨fun s i l h => by rw [step, h], fun s h => by rw [step, h], ?_⟩
  intro s c h idx l entry z i r hc hrun hop hpend hh hmbz hitem hclean hbt hdec hreq hz
  obtain ⟨k, hk⟩ := exec_of_reqOf hreq
  obtain ⟨hissues, hidle, hstays⟩ := exec_bundleIssue (s1 := s.issueAt s.cur) hc rfl
  refine ⟨s.issueAt s.cur, (hk s).trans (issueForm_of_bundle hc hrun hop hpend hh hmbz hitem hclean hbt hdec hz k), ?_, ?_, ?_⟩
  · exact fun hissued hturn => hissues ((State.hasIssued_iff hc _).mp hissued) ((s.hasTurn_iff _).mp hturn)
  · exact fun hissued hturn => hidle ((State.hasIssued_iff hc _).mp hissued) fun ht =>
      Bool.false_ne_true (hturn.symm.trans ((s.hasTurn_iff _).mpr ht))
  · exact fun hissued => hstays fun hm => Bool.false_ne_true (hissued.symm.trans ((State.hasIssued_iff hc _).mpr hm))

end Sys2Proof.Machine

namespace Sys2Proof.Machine

/-! ### What a sink leaves where it is (09 R242) -/

section
variable (s : State) (core : Nat) (c : Ctx)

theorem State.sinkKeep_wants {p : TOp} (h : s.wantsRoom c = some p) :
    s.sinkKeep core c = some (c.boundBy (c.older p.tseq) ++ p.operands.map (·.tile)) := by
  simp only [State.sinkKeep, h]

theorem State.sinkKeep_awaits {w : Nat} (h : s.wantsRoom c = none) (hw : c.awaited = some w) (hdeck : c.inDeck w = false)
    (hroom : c.lacksRoom w = true) : s.sinkKeep core c = some (c.riseKeep w) := by
  have hfilter : (c.awaited.filter fun id => !c.inDeck id && c.lacksRoom id) = some w := by
    simp [hw, Option.filter, hdeck, hroom]
  simp only [State.sinkKeep, h, hfilter]

/-- A held `TTOV` needs no room. -/
def Ctx.AwaitsNoRoom : Prop := ∀ w, c.awaited = some w → c.inDeck w = true ∨ c.lacksRoom w = false

theorem Ctx.AwaitsNoRoom.filter {c : Ctx} (h : c.AwaitsNoRoom) :
    (c.awaited.filter fun id => !c.inDeck id && c.lacksRoom id) = none := by
  cases hw : c.awaited with
  | none => rfl
  | some w => rcases h w hw with h | h <;> simp [Option.filter, h]

theorem State.sinkKeep_makes {k : Nat} (h : s.wantsRoom c = none) (hno : c.AwaitsNoRoom) (hk : c.toMake = some k)
    (hroom : c.deckG < c.deckUsed + k) : s.sinkKeep core c = some (c.boundBy c.window) := by
  have hmake : (c.toMake.any fun g => decide (c.deckUsed + g > c.deckG)) = true := by simp [hk, hroom]
  simp only [State.sinkKeep, h, hno.filter, hmake, if_true]

theorem State.sinkKeep_none (h : s.wantsRoom c = none) (hno : c.AwaitsNoRoom) (hk : ∀ k, c.toMake = some k → c.deckUsed + k ≤ c.deckG)
    (hidle : ¬ (s.copyReady core = false ∧ s.firstOf core Ctx.risingTiles = none ∧ c.anticipates = true) ∨
      ∀ w ∈ c.risingTiles, c.inDeck w = true ∨ c.lacksRoom w = false) : s.sinkKeep core c = none := by
  have hmake : (c.toMake.any fun g => decide (c.deckUsed + g > c.deckG)) = false := by
    cases hto : c.toMake with
    | none => rfl
    | some k => simpa using hk k hto
  simp only [State.sinkKeep, h, hno.filter, hmake, Bool.false_eq_true, if_false]
  rcases hidle with hbusy | hrising
  · rw [if_pos]
    by_contra hcond
    exact hbusy (by simpa [and_assoc, and_comm, and_left_comm] using hcond)
  · have hfind : (c.risingTiles.find? fun id => (c.tileImg id).isSome && !c.inDeck id && c.lacksRoom id) = none := by
      rw [List.find?_eq_none]
      intro w hw
      rcases hrising w hw with h | h <;> simp [h]
    rw [hfind, Option.map_none, ite_self]

end

/-! ### The tiles that may leave a tier (09 R242, R243) -/

section
variable {c : Ctx} {tier : Tier} {k : List Nat} {id : Nat}

/-- A tile of a tier that is produced, that nothing running uses and that is not to be kept. -/
def Ctx.MayLeave (c : Ctx) (tier : Tier) (keep : List Nat) (id : Nat) : Prop :=
  id ∉ keep ∧ c.inUse id = false ∧ ∃ t, AL.find c.tiles id = some t ∧ t.tier = tier ∧ t.img.isSome = true

theorem Ctx.mayLeave_of (h : ((match AL.find c.tiles id with
    | some t => t.tier == tier && t.img.isSome
    | none => false) && !c.inUse id && !k.contains id) = true) : c.MayLeave tier k id := by
  simp only [Bool.and_eq_true, Bool.not_eq_true', List.contains_eq_mem, decide_eq_false_iff_not] at h
  obtain ⟨⟨htile, huse⟩, hkeep⟩ := h
  cases hfind : AL.find c.tiles id with
  | none => rw [hfind] at htile; cases htile
  | some t =>
    rw [hfind] at htile
    have := (Bool.and_eq_true _ _).mp htile
    exact ⟨hkeep, huse, t, hfind, by simpa using this.1, this.2⟩

theorem Ctx.mayLeave_of_lastIn (h : c.lastIn tier k = some id) : c.MayLeave tier k id := by
  have hp := List.find?_some h
  exact Ctx.mayLeave_of hp

theorem Ctx.mayLeave_of_movable (h : id ∈ c.movable tier k) : c.MayLeave tier k id := by
  have hp := (List.mem_filter.mp h).2
  exact Ctx.mayLeave_of hp

end

/-! ### Sinks (09 R242) -/

section
variable {c : Ctx} {keep : List Nat} {v : Nat} {t : Tile}

theorem Ctx.sinkNext_none (h : c.victim keep = none) : c.sinkNext keep = none := by
  rw [Ctx.sinkNext, h, Option.map_none]

/-- The latest tile of the deck sinks where the pier takes it, or the footing takes one that the pier can never hold. -/
def Ctx.SinksDirectly (c : Ctx) (g : Nat) : Prop :=
  c.pierUsed + g ≤ c.pierG ∨ ((c.pierG = 0 ∨ c.pierG < g) ∧ (c.freeRun g).isSome = true)

variable (hv : c.victim keep = some v) (ht : AL.find c.tiles v = some t)
include hv ht

theorem Ctx.sinkNext_direct (h : c.SinksDirectly (granules t.bytes)) : c.sinkNext keep = some v := by
  simp only [Ctx.sinkNext, hv, Option.map_some, ht, Option.getD_some]
  exact congrArg some (if_pos h)

/-- Else the first tile of the pier, then of the deck, that finds a place. -/
theorem Ctx.sinkNext_other {id : Nat} {front back : List Nat} (h : ¬ c.SinksDirectly (granules t.bytes))
    (hlist : c.movable .pier keep ++ c.movable .deck keep = front ++ id :: back) (hsink : c.canSink id = true)
    (hfront : ∀ w ∈ front, c.canSink w = false) : c.sinkNext keep = some id := by
  have hnone : front.find? c.canSink = none := List.find?_eq_none.mpr fun w hw => by simp [hfront w hw]
  simp only [Ctx.sinkNext, hv, Option.map_some, ht, Option.getD_some, hlist, List.find?_append, hnone, List.find?_cons_of_pos hsink,
    Option.none_or]
  exact congrArg some (if_neg h)

end

section
variable {s : State} {a id : Nat} {c : Ctx} (hc : s.ctx a = some c)
include hc

theorem exec_tileSink_idle (h : s.copyFree (coreOf a) ≠ true ∨ s.sinkKeep (coreOf a) c = none) : exec (.tileSink a id) s = .next s := by
  show execTileSink a id s = _
  simp only [execTileSink, hc]
  rcases h with h | h
  · simp [h]
  · rw [h]
    split <;> rfl

variable {keep : List Nat} {t : Tile} {img : List Byte} (hfree : s.copyFree (coreOf a) = true)
  (hbound : s.boundRise (coreOf a) = none) (hkeep : s.sinkKeep (coreOf a) c = some keep) (ht : AL.find c.tiles id = some t)
  (himg : t.img = some img)
include hfree hbound hkeep ht himg

theorem exec_tileSink_pier (htier : t.tier = .deck) (hv : c.victim keep = some id) (hroom : c.pierUsed + granules t.bytes ≤ c.pierG) :
    exec (.tileSink a id) s = .next (s.onCtx a fun c => c.setTier id .pier (some img)) := by
  have hnext : (c.sinkNext keep != some id) = false := by simp [Ctx.sinkNext_direct hv ht (.inl hroom)]
  show execTileSink a id s = _
  simp only [execTileSink, hc, hfree, hbound, hkeep, ht, himg, htier, hnext, hroom, Option.isSome_none, Bool.not_true,
    Bool.or_self, Bool.false_eq_true, if_false, if_true]

theorem exec_tileSink_footing (hnext : c.sinkNext keep = some id)
    (htier : t.tier = .pier ∨ (t.tier = .deck ∧ c.pierG < c.pierUsed + granules t.bytes ∧ c.stuck keep = false)) :
    exec (.tileSink a id) s = .next (s.toFooting a c id img) := by
  have hnext' : (c.sinkNext keep != some id) = false := by simp [hnext]
  show execTileSink a id s = _
  rcases htier with htier | ⟨htier, hfull, hstuck⟩
  · simp only [execTileSink, hc, hfree, hbound, hkeep, ht, himg, htier, hnext', Option.isSome_none, Bool.not_true,
      Bool.or_self, Bool.false_eq_true, if_false]
  · simp only [execTileSink, hc, hfree, hbound, hkeep, ht, himg, htier, hnext', Nat.not_le.mpr hfull, hstuck, Option.isSome_none,
      Bool.not_true, Bool.or_self, Bool.false_eq_true, if_false]

end

/-! ### Rises (09 R242, R243, R394) -/

section
variable {s s2 : State} {a id : Nat}

theorem exec_tileRise_busy (h : s.copyFree (coreOf a) ≠ true) : exec (.tileRise a id) s = .next s := by
  show execTileRise a id s = _
  simp [execTileRise, h]

theorem exec_tileRise_bound (hfree : s.copyFree (coreOf a) = true) (h : s.boundRise (coreOf a) = some ⟨a, id, s2⟩) :
    exec (.tileRise a id) s = .next (s2.onCore (coreOf a) fun x => x.served .copy 0 a) := by
  show execTileRise a id s = _
  simp only [execTileRise, hfree, h, beq_self_eq_true, Bool.and_self, Bool.not_true, Bool.false_eq_true, if_false, if_true]

theorem exec_tileRise_anticipates {c : Ctx} (hc : s.ctx a = some c) (hfree : s.copyFree (coreOf a) = true)
    (hbound : s.boundRise (coreOf a) = none) (hready : s.copyReady (coreOf a) = false) (hid : id ∈ c.risingTiles)
    (hrise : s.rise a id = some s2) : exec (.tileRise a id) s = .next s2 := by
  have hmem : c.risingTiles.contains id = true := by simpa using hid
  show execTileRise a id s = _
  simp only [execTileRise, hfree, hbound, hc, hready, hmem, hrise, Bool.not_true, Bool.or_self, Bool.false_eq_true, if_false,
    Option.getD_some]

variable {s1 : State} {c : Ctx} {t : Tile} {img : List Byte} (hc : s.ctx a = some c) (ht : AL.find c.tiles id = some t)
  (himg : t.img.isSome = true) (htier : t.tier ≠ .deck) (hbytes : s.tileBytes c id t = .ok s1 img)
include hc ht himg htier

/-- What a rise needs before it reads the tile: an answer to the room that it takes. -/
theorem State.rise_of_riseFor_none (h : s.riseFor c id (granules t.bytes) = none) : s.rise a id = none := by
  have hcond : (t.img.isNone || t.tier == .deck) = false := by simp [htier, Option.isNone_eq_false_iff, himg]
  simp only [State.rise, hc, ht, hcond, h, Bool.false_eq_true, if_false]

include hbytes

theorem State.rise_room (h : s.riseFor c id (granules t.bytes) = some none) :
    s.rise a id = some (s1.onCtx a fun c => c.setTier id .deck (some img)) := by
  have hcond : (t.img.isNone || t.tier == .deck) = false := by simp [htier, Option.isNone_eq_false_iff, himg]
  simp only [State.rise, hc, ht, hcond, h, hbytes, Bool.false_eq_true, if_false]

theorem State.rise_exchange {v : Nat} {vi : List Byte} (h : s.riseFor c id (granules t.bytes) = some (some v))
    (hvi : c.tileImg v = some vi) (hpier : (c.setTier id .none (some img)).pierUsed + granules vi.length ≤ c.pierG) :
    s.rise a id = some (s1.onCtx a fun c => (c.setTier v .pier (some vi)).setTier id .deck (some img)) := by
  have hcond : (t.img.isNone || t.tier == .deck) = false := by simp [htier, Option.isNone_eq_false_iff, himg]
  simp only [State.rise, hc, ht, hcond, h, hbytes, hvi, Option.getD_some, hpier, Bool.false_eq_true, if_false, if_true]

end

section
variable {s : State} {c : Ctx} {id g : Nat}

theorem State.riseFor_room (h : c.deckUsed + (g + s.riseOwed c id) ≤ c.deckG) : s.riseFor c id g = some none := by
  rw [← Nat.add_assoc] at h
  simp only [State.riseFor, h, decide_true, if_true]

variable (h : c.deckG < c.deckUsed + (g + s.riseOwed c id))
include h

theorem State.riseFor_none (hv : c.victim (c.riseKeep id) = none) : s.riseFor c id g = none := by
  rw [← Nat.add_assoc] at h
  simp only [State.riseFor, Nat.not_le.mpr h, hv, decide_false, Bool.false_eq_true, if_false]

theorem State.riseFor_exchange {v : Nat} {vi : List Byte} (hv : c.victim (c.riseKeep id) = some v) (hvi : c.tileImg v = some vi)
    (hfits : c.deckUsed - granules vi.length + (g + s.riseOwed c id) ≤ c.deckG) : s.riseFor c id g = some (some v) := by
  rw [← Nat.add_assoc] at h hfits
  simp only [State.riseFor, Nat.not_le.mpr h, hv, hvi, Option.getD_some, hfits, decide_true, decide_false, Bool.false_eq_true,
    if_false, if_true]

end

/-- The granules that a rise leaves free. -/
theorem State.riseOwed_eq (s : State) (c : Ctx) (id : Nat) : s.riseOwed c id =
    s.granulesOwed c (c.before id) + (if c.binder id = none ∧ c.awaited ≠ some id then c.toMake.getD 0 else 0) := by
  rw [State.riseOwed]
  refine congrArg _ (if_congr ?_ rfl rfl)
  simp

/-- What an operation binds that stands before the rise's own stays in the deck. -/
theorem Ctx.victim_ne_bound {c : Ctx} {id : Nat} {x : TOp} {e : Entry} (hx : x ∈ c.before id) (hwait : c.waits x = true)
    (he : e ∈ x.binds ++ x.plane.toList) : c.victim (c.riseKeep id) ≠ some e.tile := fun hv => by
  refine (Ctx.mayLeave_of_lastIn hv).1 (List.mem_append_left _ (List.mem_cons_of_mem _ ?_))
  exact List.mem_flatMap.mpr ⟨x, List.mem_filter.mpr ⟨hx, hwait⟩, List.mem_map_of_mem he⟩

/-! ### Banks and unwinding (02 R44, 09 R250, 19 R378) -/

/-- The banks of a slot being bound are vacated, and its context may issue. -/
theorem exec_bankVacate {s : State} {core slot : Nat} (h : (s.ctx (core * 4 + slot)).isSome = true) :
    ∃ u d, exec (.bankVacate core slot) s = .next u ∧ u.mem = s.mem ∧ u.ctx (core * 4 + slot) = some d ∧ d.vacating = false ∧
      ∀ b ∈ u.banks, core * 64 + 3 * slot ≤ b.1 → b.1 < core * 64 + 3 * slot + 3 → b.2.deck = none := by
  obtain ⟨c, hc⟩ := Option.isSome_iff_exists.mp h
  have hexec : exec (.bankVacate core slot) s = execBankVacate core slot s := rfl
  rw [hexec]
  simp only [execBankVacate, hc, Option.isNone_some, Bool.false_eq_true, if_false]
  refine ⟨_, { c with vacating := false }, rfl, by rw [State.onCtx_mem], ?_, rfl, fun b hb hlow hhigh => ?_⟩
  · exact (State.onCtx_ctx _ _ _).trans (congrArg (Option.map _) hc)
  · rw [State.onCtx_banks] at hb
    obtain ⟨d, -, rfl⟩ := List.mem_map.mp hb
    by_cases hin : (decide (core * 64 + 3 * slot ≤ d.1) && decide (d.1 < core * 64 + 3 * slot + 3)) = true
    · rw [if_pos hin]
    · rw [if_neg hin] at hlow hhigh
      exact absurd (by simp [hlow, hhigh]) hin

section
variable {s : State} {a : Nat} {c : Ctx} {o : TOp} {l : List TOp} {info : TrapInfo}

/-- The operations that an unwinding cancels: the faulting one and the younger ones that a handler has not completed. -/
def goneOps (o : TOp) (l : List TOp) : List TOp := o :: l.filter fun x => !(x.handler && x.status == .done)

/-- The state in which the operations of an unwinding are cancelled. -/
def State.cancelled (s : State) (a : Nat) (c : Ctx) (o : TOp) (l : List TOp) : State :=
  ((s.setCtx a (c.cancelOps (goneOps o l) (o :: l).length)).putAllBack a o).onCtx a Ctx.retireTiles

variable (hc : s.ctx a = some c) (hexit : c.status ≠ .exited) (href : c.refault = none)
  (hdrop : c.window.dropWhile c.outOfWay = o :: l) (hfault : o.status = .faulted info)
include hc hexit href hdrop hfault

/-- An operation that has faulted is unwound once it is the oldest. -/
theorem exec_unwind : exec (.unwind a) s = .next (if c.stopped
    then (s.cancelled a c o l).onCtx a fun c => { c with refault := some (info, (goneOps o l).map TOp.asReplay) }
    else s.unwindTrap (s.cancelled a c o l) a c o info ((goneOps o l).map TOp.asReplay)) := by
  have hstatus : (c.status == .exited) = false := by simpa using hexit
  show execUnwind a s = _
  simp only [execUnwind, hc, hstatus, hdrop, href, hfault, Bool.false_eq_true, if_false, Option.map_none, Option.getD_none,
    List.append_nil]
  rfl

omit hc hexit hdrop hfault in
/-- An unwinding traps when no older access has a known fault. -/
theorem State.unwindTrap_eq {s0 u : State} {replay : List TOp} (hold : s.olderAccFault c o = none)
    (hu : u = s0.takeTrap a (unwindRec s0 c o info none replay.length) replay false)
    (htaken : ∀ d, u.ctx a = some d → d.cid ≠ c.cid ∨ d.capture.isSome = true) : s.unwindTrap s0 a c o info replay = u := by
  simp only [State.unwindTrap, href, Option.isSome_none, Bool.false_and, Bool.false_eq_true, if_false, hold, State.keepOlder, ← hu,
    State.unwound]
  cases hd : u.ctx a with
  | none => rfl
  | some d =>
    dsimp only
    rw [if_pos]
    rcases htaken d hd with h | h <;> simp [h]

end

section
variable (c : Ctx) (o : TOp) (l : List TOp) (v : Nat)

/-- Operations cancelled: the window, the stack and the planes as before the first of them, and their charges. -/
theorem Ctx.cancelOps_eq : (∀ x ∈ (c.cancelOps (o :: l) v).window, ∀ y ∈ o :: l, x.tseq ≠ y.tseq) ∧
    (c.cancelOps (o :: l) v).stack = o.stack0 ∧ (c.cancelOps (o :: l) v).plane0 = o.plane0 ∧
    (c.cancelOps (o :: l) v).plane1 = o.plane1 ∧
    (c.esat = false → (c.cancelOps (o :: l) v).ecount = c.ecount - (((o :: l).map fun x => x.energy).sum)) := by
  refine ⟨fun x hx y hy heq => ?_, rfl, rfl, rfl, fun hsat => ?_⟩
  · have hx' := (List.mem_filter.mp hx).2
    have hany : ((o :: l).any fun y => y.tseq == x.tseq) = true := List.any_eq_true.mpr ⟨y, hy, by simp [heq]⟩
    rw [hany] at hx'
    cases hx'
  · show (c.refund ((o :: l).map fun x => x.energy).sum).ecount = _
    rw [Ctx.refund, hsat]
    rfl

end

/-- Settles O43: the steps that move tiles between the tiers, and unwinding. -/
theorem tierEvents : Obligations.TierEvents := by
  unfold Obligations.TierEvents
  intro s s1 s2 a id v core slot c t img o l info keep hc g free sinks idle
  refine ⟨fun p => s.sinkKeep_wants _ c, fun w => s.sinkKeep_awaits _ c, fun k => s.sinkKeep_makes _ c, s.sinkKeep_none _ c,
    fun h => exec_tileSink_idle hc (.inr h), fun h ht himg htier hv hroom => ?_, fun h ht himg hnext htier => ?_, Ctx.sinkNext_none,
    fun hv ht => ⟨Ctx.sinkNext_direct hv ht, fun front back => Ctx.sinkNext_other hv ht⟩, fun tier k h => ?_,
    fun h => ⟨exec_tileSink_idle hc (.inl h), exec_tileRise_busy h⟩, exec_tileRise_bound, exec_tileRise_anticipates hc,
    fun ht himg htier hbytes => ?_, fun p hp => ?_, exec_bankVacate, fun hexit href hdrop hfault => ?_, c.cancelOps_eq o l v⟩
  · exact exec_tileSink_pier hc h.1 h.2.1 h.2.2 ht himg htier hv hroom
  · exact exec_tileSink_footing hc h.1 h.2.1 h.2.2 ht himg hnext htier
  · exact h.elim Ctx.mayLeave_of_lastIn Ctx.mayLeave_of_movable
  · intro need
    have hneed : need = granules t.bytes + s.riseOwed c id := by
      rw [State.riseOwed_eq, ← Nat.add_assoc]
      rfl
    rw [hneed]
    exact ⟨fun hroom => State.rise_room hc ht himg htier hbytes (State.riseFor_room hroom),
      fun hfull hv => State.rise_of_riseFor_none hc ht himg htier (State.riseFor_none hfull hv),
      fun vi hfull hv hvi hfits hpier =>
        State.rise_exchange hc ht himg htier hbytes (State.riseFor_exchange hfull hv hvi hfits) hvi hpier⟩
  · have hbefore : c.before id = c.older p.tseq := by rw [Ctx.before, hp]
    exact ⟨hbefore, fun x hx hwait e he => Ctx.victim_ne_bound (hbefore ▸ hx) hwait he⟩
  · intro gone replay s0 u
    have hexec := exec_unwind hc hexit href hdrop hfault
    refine ⟨fun hstop => by rw [hexec, if_pos hstop]; rfl, fun hstop hold htaken => ?_⟩
    rw [hexec, hstop, if_neg Bool.false_ne_true]
    exact congrArg Host.Outcome.next (State.unwindTrap_eq href hold rfl htaken)

end Sys2Proof.Machine

namespace Sys2Proof.Machine

/-! ### Steps that post records (16 R342) -/

theorem State.whenPosted_self (s : State) : s.whenPosted s = s := by
  rw [State.whenPosted, ite_self]

theorem State.statFits_of_depth {s u : State} (h : ∀ e ∈ u.ctxs, e.2.statq.length ≤ e.2.statDepth) : s.statFits u = true := by
  rw [State.statFits, List.all_eq_true]
  intro e he
  simp [h e he]

/-! ### Contributions (04 R104 to R106) -/

/-- The line that a contribution reaches: the one in progress, or a new one. -/
def State.lineFor (s : State) (x : Contribution) : GradLine :=
  (s.line x.tag).getD ⟨x.dom, x.tensor, x.coords, x.record, clearBlocks, 0, 0, [], [], x.fmt, x.cid, x.pos, false⟩

/-- The state in which a contribution has left its queue and is accepted. -/
def State.tookGrad (s : State) (i : Nat) (x : Contribution) : State :=
  (({ s with grads := s.grads.eraseIdx i } : State).returnChunks (gradQueue x.tag.home)
    ((s.grads.eraseIdx i).filter fun y => y.tag.home == x.tag.home).length 32).accepted x

section
variable {s : State} {i : Nat} {x : Contribution} {l : GradLine} (hx : s.grads[i]? = some x) (hl : l = s.lineFor x)
include hx hl

/-- What becomes of a contribution that reaches its line. -/
theorem State.takeGrad_eq : s.takeGrad i =
    if l.count ≥ (TRec.parse x.tensor l.record).expect then s
    else if !(TRec.parse x.tensor l.record).ordered then (s.tookGrad i x).applyGrad l x
    else if x.idx ≥ (TRec.parse x.tensor l.record).expect ∨ x.idx < l.next ∨ (l.reorder.any fun y => y.idx == x.idx) then
      ((s.tookGrad i x).settleGrad x).postGrad x [ev 12]
    else if x.idx ≥ l.next + 16 then s
    else if x.idx = l.next then State.drainReorder 16 ((s.tookGrad i x).applyGrad l x) x.tag
    else (s.tookGrad i x).putLine { l with reorder := l.reorder ++ [x] } := by
  subst hl
  simp only [State.takeGrad, hx]
  rfl

/-- A contribution to a complete line waits. -/
theorem State.takeGrad_complete (h : (TRec.parse x.tensor l.record).expect ≤ l.count) : s.takeGrad i = s := by
  rw [State.takeGrad_eq hx hl, if_pos h]

variable (hcount : l.count < (TRec.parse x.tensor l.record).expect)
include hcount

theorem State.takeGrad_unordered (h : (TRec.parse x.tensor l.record).ordered = false) :
    s.takeGrad i = (s.tookGrad i x).applyGrad l x := by
  rw [State.takeGrad_eq hx hl, if_neg (Nat.not_le.mpr hcount), h]
  rfl

variable (hord : (TRec.parse x.tensor l.record).ordered = true)
include hord

/-- One out of range or repeated is discarded with event 12. -/
theorem State.takeGrad_discards (h : (TRec.parse x.tensor l.record).expect ≤ x.idx ∨ x.idx < l.next ∨ ∃ y ∈ l.reorder, y.idx = x.idx) :
    s.takeGrad i = ((s.tookGrad i x).settleGrad x).postGrad x [ev 12] := by
  have hcond : x.idx ≥ (TRec.parse x.tensor l.record).expect ∨ x.idx < l.next ∨ (l.reorder.any fun y => y.idx == x.idx) :=
    h.imp_right (Or.imp_right fun ⟨y, hy, he⟩ => List.any_eq_true.mpr ⟨y, hy, by simpa using he⟩)
  rw [State.takeGrad_eq hx hl, if_neg (Nat.not_le.mpr hcount), hord, if_neg (by simp), if_pos hcond]

variable (hidx : x.idx < (TRec.parse x.tensor l.record).expect) (hnew : ∀ y ∈ l.reorder, y.idx ≠ x.idx) (hlow : l.next ≤ x.idx)
include hidx hnew hlow

/-- One in range that is no repetition: too far ahead, in turn, or early. -/
theorem State.takeGrad_ordered : s.takeGrad i =
    if x.idx ≥ l.next + 16 then s
    else if x.idx = l.next then State.drainReorder 16 ((s.tookGrad i x).applyGrad l x) x.tag
    else (s.tookGrad i x).putLine { l with reorder := l.reorder ++ [x] } := by
  have hno : ¬ (x.idx ≥ (TRec.parse x.tensor l.record).expect ∨ x.idx < l.next ∨ (l.reorder.any fun y => y.idx == x.idx)) := by
    rintro (h | h | h)
    · omega
    · omega
    · obtain ⟨y, hy, he⟩ := List.any_eq_true.mp h
      exact hnew y hy (by simpa using he)
  rw [State.takeGrad_eq hx hl, if_neg (Nat.not_le.mpr hcount), hord, if_neg (by simp), if_neg hno]

end

/-! ### The lines of the update units (04 R103) -/

theorem State.putLine_line (s : State) (l : GradLine) : (s.putLine l).line l.tag = some l := by
  unfold State.putLine State.line
  split
  · next h =>
    obtain ⟨m, hm⟩ : ∃ m, s.lines.find? (fun m => m.tag == l.tag) = some m := Option.isSome_iff_exists.mp (by simpa using h)
    have htag : m.tag = l.tag := by simpa using List.find?_some hm
    have hpred : ((fun m : GradLine => m.tag == l.tag) ∘ fun m : GradLine => if m.tag == l.tag then l else m) = fun m => m.tag == l.tag := by
      funext m
      by_cases hm : m.tag = l.tag <;> simp [hm]
    simp only [List.find?_map, hpred, hm, Option.map_some, htag, beq_self_eq_true, if_true]
  · next h =>
    have hnone : s.lines.find? (fun m => m.tag == l.tag) = none := by simpa using h
    simp [List.find?_append, hnone]

theorem State.postTo_rest (s : State) (agent cid : Nat) (pos : CodePos) (eng : BitVec 8) (st : List (Nat × Nat)) :
    (s.postTo agent cid pos eng st).lines = s.lines ∧ (s.postTo agent cid pos eng st).mem = s.mem ∧
      (s.postTo agent cid pos eng st).arrivals = s.arrivals := by
  unfold State.postTo
  split
  · exact ⟨State.onCtx_lines .., State.onCtx_mem .., State.onCtx_arrivals ..⟩
  · exact ⟨rfl, rfl, rfl⟩

theorem State.settleGrad_lines (s : State) (x : Contribution) : (s.settleGrad x).lines = s.lines := by
  unfold State.settleGrad
  extract_lets mine
  split <;> rfl

/-- A line with a contribution applied. -/
def GradLine.applied (l : GradLine) (x : Contribution) : GradLine :=
  { l with
    blocks := (applyBlocks l.blocks x).1, count := l.count + 1, next := x.idx + 1, used := x.idx :: l.used, fmt := x.fmt
    cid := x.cid, pos := x.pos, reorder := l.reorder.filter fun y => y.idx != x.idx }

theorem State.applyGrad_line (s : State) (l : GradLine) (x : Contribution) :
    (s.applyGrad l x).line l.tag = some (l.applied x) := by
  have h := (s.progress (x.tag.home / 24)).putLine_line (l.applied x)
  unfold State.applyGrad
  simp only [State.line, State.postGrad, (State.postTo_rest ..).1, State.settleGrad_lines]
  exact h

/-! ### The completion of a line (04 R107, R108) -/

/-- A line that leaves its unit and arrives at its completion word with 2,048 bytes. -/
theorem State.retireLine_frame (s : State) (l : GradLine) (r : TRec) (wit : W64) (q : Nat) :
    (({ s with lines := s.lines.filter fun m => m.tag != l.tag } : State).lineArrival l r wit q).mem = s.mem ∧
    (({ s with lines := s.lines.filter fun m => m.tag != l.tag } : State).lineArrival l r wit q).line l.tag = none ∧
    ∃ y ∈ (({ s with lines := s.lines.filter fun m => m.tag != l.tag } : State).lineArrival l r wit q).arrivals,
      y.dom = l.dom ∧ y.sp = false ∧ y.va = r.syncw ∧ y.bytes = 2048 ∧ y.agent = 773 + l.tag.home := by
  refine ⟨rfl, ?_, _, List.mem_append_right _ (List.mem_singleton.mpr rfl), rfl, rfl, rfl, rfl, rfl⟩
  refine List.find?_eq_none.mpr fun m hm => ?_
  simpa using (List.mem_filter.mp hm).2

theorem State.wroteLines_mem (s : State) (agent cid dom scope : Nat) (seq : Option Nat) (pos : CodePos) (tags : List Tag) :
    (s.wroteLines agent cid dom scope seq pos tags).mem = s.mem := by
  unfold State.wroteLines
  extract_lets lvl x s1
  have hmem : s1.mem = s.mem := by
    unfold s1
    split <;> rfl
  split <;> exact hmem

section
variable {s s1 s2 s3 s4 : State} {i : Nat} {l : GradLine} {hb : List Byte} {rs : List TRec} {copy : Option TRec}
  {olds : List (List (BitVec 32))}

/-- The element values of a line and their optimizer's results. -/
def GradLine.results (l : GradLine) (r : TRec) (h : Hyper) (olds : List (List (BitVec 32))) : List (Ev32 × Ev32 × Ev32) :=
  lineResults r h ((l.cells r).map fun c => ((l.blocks.flatMap fun b => (⟨b.x, b.m, b.st⟩ : AccVal).finish)[c.1]?).getD (0, 0)) olds

/-- The boxes that a completion writes: the master and the states, and the copy when there is one. -/
def lineWrites (rs : List TRec) (copy : Option TRec) (res : List (Ev32 × Ev32 × Ev32)) : List (TRec × List Byte) :=
  ((rs.zip [res.map (·.1.1), res.map (·.2.1.1), res.map (·.2.2.1)]).map fun x => (x.1, imageOf 4 (x.2.map (·.toNat)))) ++
    copy.toList.map fun c => (c, imageOf 2 (res.map fun v => (copyElem v.1.1).1))

variable (hl : s.lines[i]? = some l) (hcount : (TRec.parse l.tensor l.record).expect ≤ l.count)
  (hroom : s.outstanding (773 + l.tag.home) l.dom < 2 ^ 19)
include hl hcount hroom

theorem State.completeLine_bad (hbad : l.bad = true) : s.completeLine i = s.failLine l (TRec.parse l.tensor l.record) := by
  have hgo : ¬ (l.count < (TRec.parse l.tensor l.record).expect ∨ s.outstanding (773 + l.tag.home) l.dom ≥ 2 ^ 19) := by omega
  simp only [State.completeLine, hl]
  rw [if_neg hgo, if_pos hbad]

/-- A complete line is written, leaves its unit and arrives at its completion word. -/
theorem State.completeLine_writes (hbad : l.bad = false)
    (hhyper : s.readFlatVia true none l.dom [] (linePieces 3 (TRec.parse l.tensor l.record).hyper 64) = .ok s1 hb)
    (hrecs : s1.lineRecords (l.tag.home / 24) l.dom (TRec.parse l.tensor l.record) (Hyper.ofBytes hb) = (s2, some (rs, copy)))
    (hread : s2.readBoxes l.dom rs ((l.cells (TRec.parse l.tensor l.record)).map (·.2)) = .ok s3 olds)
    (hwrite : s3.writeBoxes l.dom
      (lineWrites rs copy (l.results (TRec.parse l.tensor l.record) (Hyper.ofBytes hb) olds))
      ((l.cells (TRec.parse l.tensor l.record)).map (·.2)) = (s4, none)) :
    ∃ t, s.completeLine i = t ∧ t.mem = s4.mem ∧ t.line l.tag = none ∧
      ∃ y ∈ t.arrivals, y.dom = l.dom ∧ y.sp = false ∧ y.va = (TRec.parse l.tensor l.record).syncw ∧ y.bytes = 2048 ∧
        y.agent = 773 + l.tag.home := by
  have hgo : ¬ (l.count < (TRec.parse l.tensor l.record).expect ∨ s.outstanding (773 + l.tag.home) l.dom ≥ 2 ^ 19) := by omega
  unfold lineWrites GradLine.results at hwrite
  refine ⟨_, rfl, ?_⟩
  simp only [State.completeLine, hl]
  rw [if_neg hgo, hbad, if_neg Bool.false_ne_true, hhyper]
  simp only [hrecs, hread, hwrite]
  obtain ⟨hmem, hline, hy⟩ := State.retireLine_frame _ l _ _ _
  exact ⟨hmem.trans ((State.postTo_rest ..).2.1.trans (State.wroteLines_mem ..)), hline, hy⟩

end

/-- Settles O44: the steps of the update units. -/
theorem updateUnitEvents : Obligations.UpdateUnitEvents := by
  unfold Obligations.UpdateUnitEvents
  intro s i x l
  refine ⟨?_, fun u => ⟨fun h => if_pos h, fun h => if_neg (by simp [h])⟩, fun u => State.statFits_of_depth, fun htag =>
    ⟨l.applied x, s.applyGrad_line l x, rfl, rfl, rfl⟩, ?_, fun hl hbad hcount hroom => ?_⟩
  · intro hx hl r s0 s1
    refine ⟨fun hcount => ?_, fun hcount => ⟨fun hord => ?_, fun hord hidx hnew hfar => ?_, fun hord hbad => ?_,
      fun hord hidx hnew hlow hnear => ?_, fun hord hidx hnew hturn => ?_⟩⟩
    · show Host.Outcome.next (s.whenPosted (s.takeGrad i)) = _
      rw [State.takeGrad_complete hx hl hcount, State.whenPosted_self]
    · exact congrArg (fun u => Host.Outcome.next (s.whenPosted u)) (State.takeGrad_unordered hx hl hcount hord)
    · show Host.Outcome.next (s.whenPosted (s.takeGrad i)) = _
      rw [State.takeGrad_ordered hx hl hcount hord hidx hnew (by omega), if_pos hfar, State.whenPosted_self]
    · exact congrArg (fun u => Host.Outcome.next (s.whenPosted u)) (State.takeGrad_discards hx hl hcount hord hbad)
    · have hexec := State.takeGrad_ordered hx hl hcount hord hidx hnew (by omega)
      rw [if_neg (by omega), if_neg (by omega)] at hexec
      exact congrArg (fun u => Host.Outcome.next (s.whenPosted u)) hexec
    · have hexec := State.takeGrad_ordered hx hl hcount hord hidx hnew (by omega)
      rw [if_neg (by omega), if_pos hturn] at hexec
      exact congrArg (fun u => Host.Outcome.next (s.whenPosted u)) hexec
  · intro s1 s2 s3 s4 hb rs copy olds hl r cells cs all res hcount hroom hbad hhyper hrecs hread hwrite
    obtain ⟨t, ht, hrest⟩ := State.completeLine_writes hl hcount hroom hbad hhyper hrecs hread hwrite
    exact ⟨t, congrArg (fun u => Host.Outcome.next (s.whenPosted u)) ht, hrest⟩
  · exact congrArg (fun u => Host.Outcome.next (s.whenPosted u)) (State.completeLine_bad hl hcount hroom hbad)

end Sys2Proof.Machine

namespace Sys2Proof.Machine

/-! ### Collectives (10 R299 to R301) -/

section
variable {s s2 : State} {i : Nat} {x : Collective} (hx : s.colls[i]? = some x)
include hx

/-- A collective without sources, or whose witness has failed, writes nothing and its form fails. -/
theorem exec_collectiveRun_fails (h : x.srcs = [] ∨ (x.sat = false ∧ s.witFailed x.wit = true)) :
    exec (.collectiveRun i) s = .next (s.failColl x) := by
  have hcond : (x.srcs.isEmpty || (!x.sat && s.witFailed x.wit)) = true := by
    rcases h with h | ⟨h, hw⟩
    · simp [h]
    · simp [h, hw]
  show execCollectiveRun i s = _
  simp only [execCollectiveRun, hx, hcond, if_true]

variable (hsrcs : x.srcs ≠ []) (hsat : x.sat = true ∨ (s.witFailed x.wit = false ∧ s.witSat x.wit = true))
include hsrcs hsat

/-- A collective whose witness is satisfied takes its elements. -/
theorem exec_collectiveRun : exec (.collectiveRun i) s = match s.collElems x x.n 0 with
    | (_, some none) => .next s
    | (s2, some (some _)) => .next (s2.failColl x)
    | (s2, none) =>
      .next ((s2.wroteLines (769 + x.engine) x.cid x.dom 5 (some x.seq) ⟨0, 0⟩ x.tags).collArrival x x.witness true) := by
  have hgo : (x.srcs.isEmpty || (!x.sat && s.witFailed x.wit)) = false := by
    rcases hsat with h | ⟨h, -⟩ <;> simp [h, hsrcs]
  have hready : (x.sat || s.witSat x.wit) = true := by
    rcases hsat with h | ⟨-, h⟩ <;> simp [h]
  show execCollectiveRun i s = _
  simp only [execCollectiveRun, hx, hgo, hready, Bool.not_true, Bool.false_eq_true, if_false] <;> rfl

end

/-- An element of a collective: its sources are read, combined and written to every destination. -/
theorem State.collElems_succ {s s1 s2 : State} {x : Collective} {e k : Nat} {vs : List Nat}
    (hread : s.readSources x e (if x.op = 3 then x.srcs.take 1 else x.srcs) = .ok s1 vs)
    (hwrite : s1.writeDests x e (combine x.op x.fmt vs) x.dsts = (s2, none)) :
    s.collElems x (k + 1) e = s2.collElems x k (e + 1) := by
  rw [State.collElems, hread]
  simp only [hwrite]

/-- The sum of two integers of a collective. -/
theorem combine_sum (k i : Nat) : combine 0 3 [k, i] = ((sextNat 32 k + sextNat 32 i) % 2 ^ 32).toNat := rfl

/-- A notice is appended once the bytes of its form are visible, and the operation is complete. -/
theorem exec_noticeAppend {s s1 s2 : State} {i : Nat} {n : Notice} {o : TOp} {hdr : List Byte} (hn : s.notices[i]? = some n)
    (ho : (s.ctx (s.slotOfCid n.cid)).bind (fun c => c.window.find? fun o => o.seq == some n.seq) = some o)
    (hseen : ∀ f ∈ s.forms, f.isForm n.agent n.dom n.seq = true → scopeLevel n.scope ≤ f.level)
    (hread : ({ s with notices := s.notices.eraseIdx i } : State).readFlatVia false none n.dom [n.floor] (linePieces 3 n.header 32) =
      .ok s1 hdr)
    (hwrite : s1.writeAll n.dom (noticeWrites hdr n) = .ok s2 ()) :
    exec (.noticeAppend i) s = .next ((s2.wroteLines n.agent n.cid n.dom 5 none o.pos ((noticeWrites hdr n).map fun w =>
      flatTag n.dom w.1)).finishOp (s.slotOfCid n.cid) o.tseq none [] 0) := by
  have hall : (s.forms.all fun f => !(f.isForm n.agent n.dom n.seq) || decide (f.level ≥ scopeLevel n.scope)) = true := by
    rw [List.all_eq_true]
    intro f hf
    cases hform : f.isForm n.agent n.dom n.seq with
    | false => rfl
    | true => simpa using hseen f hf hform
  show execNoticeAppend i s = _
  simp only [execNoticeAppend, hn, ho, hall, hread, hwrite, Bool.not_true, Bool.false_eq_true, if_false]

/-- Settles O46: the steps of collectives and notices. -/
theorem collectiveEvents : Obligations.CollectiveEvents := by
  unfold Obligations.CollectiveEvents
  intro s s1 s2 i e k x vs n o hdr
  refine ⟨fun hx => ⟨fun hsrcs hsat => ⟨fun h => ?_, fun f h => ?_, fun h => ?_⟩, exec_collectiveRun_fails hx⟩, rfl,
    State.collElems_succ, ⟨rfl, combine_sum k i⟩, exec_noticeAppend⟩ <;> rw [exec_collectiveRun hx hsrcs hsat, h]

end Sys2Proof.Machine

namespace Sys2Proof.Machine

/-! ### Placement, ageing and resumption (16 R338, R347) -/

section
variable {s : State} {g : GInst} {task inst die span core : Nat} (hg : s.inst task inst = some g)
include hg

theorem exec_instancePlacement {t : Task} (ht : s.task task = some t) (hready : s.ready = true) (hstatus : g.status = .ready)
    (hwait : s.waiting g = true) (hfits : s.fitsAt g die span core = true) (hturn : s.turnOf g die = true) :
    exec (.instancePlacement task inst die span core) s = .next (if t.state = .accepted
      then (s.launch g t.prio t.wit die span core).enter task .placed 0 0 t.hash else s.launch g t.prio t.wit die span core) := by
  show execInstancePlacement task inst die span core s = _
  simp only [execInstancePlacement, hg, ht, hready, hstatus, hwait, hfits, hturn, beq_self_eq_true, Bool.and_self, if_true,
    beq_iff_eq]

theorem exec_priorityAgeing (hwait : s.waiting g = true) (heff : g.eff < 4) (hsince : g.since + 2100000 ≤ s.cycle) :
    exec (.priorityAgeing task inst) s =
      .next (s.onInst task inst fun g => { g with eff := g.eff + 1, since := g.since + 2100000 }) := by
  have hcond : (s.waiting g && decide (g.eff < 4) && decide (g.since + ms2 ≤ s.cycle)) = true := by simp [hwait, heff, ms2, hsince]
  show execPriorityAgeing task inst s = _
  simp only [execPriorityAgeing, hg, hcond, if_true]
  rfl

theorem exec_resume (hready : s.ready = true) (hstatus : g.status = .saved) (hwait : s.waiting g = true)
    (hfits : s.fitsAt g die span core = true) (hturn : s.turnOf g die = true) :
    exec (.resume task inst die span core) s = .next (s.restoreInst g die span core) := by
  show execResume task inst die span core s = _
  simp only [execResume, hg, hready, hstatus, hwait, hfits, hturn, beq_self_eq_true, Bool.and_self, if_true]

/-! ### Pre-emption (16 R338, R346) -/

theorem exec_preempt (hstatus : g.status = .placed) (hareas : s.areasFor [g] = true) :
    exec (.preempt task inst) s = .next (((s.halt g).saveInst g).getD (s.halt g)) := by
  show execPreempt task inst s = _
  simp only [execPreempt, hg, hstatus, beq_self_eq_true, if_true, State.preemptAll, hareas, List.foldl_cons, List.foldl_nil,
    State.saveEach]
  cases (s.halt g).saveInst g <;> rfl

theorem exec_preempt_idle (h : g.status ≠ .placed ∨ s.areasFor [g] = false) : exec (.preempt task inst) s = .next s := by
  show execPreempt task inst s = _
  simp only [execPreempt, hg, State.preemptAll]
  rcases h with h | h <;> simp [h]

theorem exec_forcedPreemption {v : List GInst} (hwait : s.waiting g = true) (heff : g.eff = 4) (hsince : g.since + 2100000 ≤ s.cycle)
    (hfits : s.fits g = false) (hv : s.victims g = some v) (hareas : s.areasFor v = true) :
    exec (.forcedPreemption task inst) s = .next ((State.saveEach (v.foldl State.halt s) v).getD (v.foldl State.halt s)) := by
  have hcond : (s.waiting g && g.eff == 4 && decide (g.since + ms2 ≤ s.cycle) && !s.fits g) = true := by
    simp [hwait, heff, ms2, hsince, hfits]
  show execForcedPreemption task inst s = _
  simp only [execForcedPreemption, hg, hcond, if_true, hv, State.preemptAll, hareas]

end

/-- The contexts of a halted instance are stopped. -/
theorem State.halt_stopped (s : State) (g : GInst) {a : Nat} {c : Ctx} (hc : (s.halt g).ctx a = some c) (htask : c.task = g.task)
    (hinst : c.inst = g.num) : c.stopped = true := by
  have hmap := AL.find_map s.ctxs (fun _ c => if c.task == g.task && c.inst == g.num then { c with stopped := true } else c) a
  have hctxs : (s.halt g).ctxs = s.ctxs.map fun e =>
      (e.1, if e.2.task == g.task && e.2.inst == g.num then { e.2 with stopped := true } else e.2) :=
    List.map_congr_left fun e _ => by split <;> rfl
  rw [← hctxs] at hmap
  obtain ⟨d, -, rfl⟩ := Option.map_eq_some_iff.mp (hmap.symm.trans hc)
  by_cases h : (d.task == g.task && d.inst == g.num) = true
  · rw [if_pos h]
  · rw [if_neg h] at htask hinst
    exact absurd (by simp [htask, hinst]) h

/-! ### The save of an instance (16 R346) -/

theorem State.fwWrite_insts (s : State) (pa : Nat) (bs : List Byte) : (s.fwWrite pa bs).insts = s.insts := by
  obtain ⟨l, hl⟩ := s.clearPoison_eq ((List.range bs.length).map fun i => physKey 0 0 (pa + i))
  rw [State.fwWrite, hl]
  rfl

theorem foldl_fwWrite_insts (l : List (Nat × List Byte)) (base : Nat) (s : State) :
    (l.foldl (fun (s : State) p => s.fwWrite (base + p.1) p.2) s).insts = s.insts := by
  induction l generalizing s with
  | nil => rfl
  | cons p l ih => exact (ih _).trans (s.fwWrite_insts _ _)

theorem State.writeArea_insts (s : State) (g : GInst) (n i : Nat) (c : Ctx) : (s.writeArea g n i c).insts = s.insts := by
  unfold State.writeArea
  extract_lets base regs share s1 s2
  rw [State.memWrite_insts]
  exact foldl_fwWrite_insts _ _ s1

/-- The images go to device memory; the instances are as they were. -/
theorem State.writeAreas_insts (s : State) (g : GInst) (i : Nat) (areas : List Nat) (images : List Ctx) :
    (s.writeAreas g i areas images).insts = s.insts := by
  induction areas generalizing s i images with
  | nil => cases images <;> rfl
  | cons n r ih =>
    cases images with
    | nil => rfl
    | cons c l => exact (ih _ _ _).trans (s.writeArea_insts g n i c)

theorem writtenAreas_insts (s : State) (task num : Nat) (areas : List Nat) : (match s.inst task num with
    | some g => s.writeAreas g 0 areas g.images
    | none => s).insts = s.insts := by
  split
  · exact State.writeAreas_insts ..
  · rfl

/-- An instance found after a change of it is a changed one. -/
theorem State.inst_of_onInst {s : State} {task num : Nat} {f : GInst → GInst} {h : GInst}
    (hh : (s.onInst task num f).inst task num = some h) : ∃ k, h = f k := by
  have hkey := List.find?_some hh
  obtain ⟨k, -, rfl⟩ := List.mem_map.mp (List.mem_of_find?_eq_some hh)
  by_cases hk : (k.task == task && k.num == num) = true
  · exact ⟨k, if_pos hk⟩
  · rw [if_neg hk] at hkey
    exact absurd hkey hk

/-- A saved instance has the witness of its save. -/
theorem State.saveInst_saved {s u : State} {g h : GInst} (hu : s.saveInst g = some u) (hh : u.inst g.task g.num = some h) :
    h.status = .saved ∧ h.saveWit = mkWit 1 5 h.dom (s.epoch % 2 ^ 22) 0 0 := by
  unfold State.saveInst at hu
  extract_lets ms areas sunk at hu
  split at hu
  · cases hu
  · generalize sunk = o at hu
    cases o with
    | none => cases hu
    | some s1 =>
      have hinsts := (writtenAreas_insts _ g.task g.num areas).symm.trans (congrArg State.insts (Option.some.inj hu))
      rw [State.inst, ← hinsts] at hh
      obtain ⟨k, rfl⟩ := State.inst_of_onInst hh
      exact ⟨rfl, rfl⟩

/-! ### The instances that are pre-empted for one (16 R338) -/

section
variable {α : Type} {n : Nat} {l v w : List α}

theorem mem_choose_iff : v ∈ choose n l ↔ v.Sublist l ∧ v.length = n := by
  induction l generalizing n v with
  | nil =>
    cases n with
    | zero => simp [choose]
    | succ n =>
      simp only [choose, List.not_mem_nil, List.sublist_nil, false_iff, not_and]
      rintro rfl
      simp
  | cons x r ih =>
    cases n with
    | zero =>
      simp only [choose, List.mem_singleton, List.length_eq_zero_iff]
      exact ⟨fun h => ⟨h ▸ List.nil_sublist _, h⟩, And.right⟩
    | succ n =>
      simp only [choose, List.mem_append, List.mem_map, ih]
      constructor
      · rintro (⟨w, ⟨hw, hlen⟩, rfl⟩ | ⟨hv, hlen⟩)
        · exact ⟨hw.cons_cons x, by simp [hlen]⟩
        · exact ⟨hv.cons x, hlen⟩
      · rintro ⟨hv, hlen⟩
        rcases List.sublist_cons_iff.mp hv with hv | ⟨w, rfl, hw⟩
        · exact .inr ⟨hv, hlen⟩
        · exact .inl ⟨w, ⟨hw, by simpa using hlen⟩, rfl⟩

/-- The first of the sublists of a length that has a property: where another one first differs from it, it has the earlier
element. -/
theorem find?_choose_first {P : List α → Bool} (hv : (choose n l).find? P = some v) (hw : w.Sublist l) (hlen : w.length = n)
    (hP : P w = true) {k : Nat} {x y : α} (htake : w.take k = v.take k) (hx : v[k]? = some x) (hy : w[k]? = some y) (hne : x ≠ y) :
    [x, y].Sublist l := by
  induction l generalizing n v w P k with
  | nil =>
    rw [List.sublist_nil.mp hw] at hy
    simp at hy
  | cons z r ih =>
    cases n with
    | zero =>
      rw [List.length_eq_zero_iff.mp hlen] at hy
      simp at hy
    | succ n =>
      rw [choose, List.find?_append, List.find?_map] at hv
      cases hfirst : (choose n r).find? (P ∘ (z :: ·)) with
      | some v' =>
        rw [hfirst] at hv
        obtain rfl : z :: v' = v := by simpa using hv
        rcases w with _ | ⟨b, w'⟩
        · simp at hy
        · cases k with
          | zero =>
            obtain rfl : z = x := by simpa using hx
            obtain rfl : b = y := by simpa using hy
            have hw' : (b :: w').Sublist r := (List.sublist_cons_iff.mp hw).resolve_right (by rintro ⟨t, ht, -⟩; simp at ht; exact hne ht.1.symm)
            exact (List.singleton_sublist.mpr (hw'.subset List.mem_cons_self)).cons_cons z
          | succ k =>
            obtain ⟨rfl, htake'⟩ : b = z ∧ w'.take k = v'.take k := by simpa using htake
            have hw' : w'.Sublist r := hw.of_cons_cons
            exact (ih hfirst hw' (by simpa using hlen) hP htake' (by simpa using hx) (by simpa using hy)).cons b
      | none =>
        rw [hfirst] at hv
        have hrest : (choose (n + 1) r).find? P = some v := by simpa using hv
        have hw' : w.Sublist r := by
          refine (List.sublist_cons_iff.mp hw).resolve_right ?_
          rintro ⟨t, rfl, ht⟩
          have hmem : t ∈ choose n r := mem_choose_iff.mpr ⟨ht, by simpa using hlen⟩
          exact (List.find?_eq_none.mp hfirst) t hmem hP
        exact (ih hrest hw' hlen hP htake hx hy).cons z

end

/-- The placed instances of lower packet priority, the latest accepted first. -/
def State.preemptable (s : State) (g : GInst) : List GInst :=
  (s.insts.filter fun h => h.status == .placed && decide (h.prio < g.prio)).reverse

section
variable {s : State} {g : GInst}

/-- No fewer instances make room, and of as many those that are pre-empted are the first of the order. -/
theorem State.victims_some {v : List GInst} (h : s.victims g = some v) : v.Sublist (s.preemptable g) ∧ (s.without v).fits g = true ∧
    ∀ w, w.Sublist (s.preemptable g) → (s.without w).fits g = true → v.length ≤ w.length ∧
      ∀ k x y, w.length = v.length → w.take k = v.take k → v[k]? = some x → w[k]? = some y → x ≠ y →
        [x, y].Sublist (s.preemptable g) := by
  obtain ⟨front, n, back, hrange, hfind, hfront⟩ := List.findSome?_eq_some_iff.mp h
  obtain ⟨hsub, hlen⟩ := mem_choose_iff.mp (List.mem_of_find?_eq_some hfind)
  refine ⟨hsub, List.find?_some (p := fun v => (s.without v).fits g) hfind, fun w hw hP => ⟨?_, fun k x y hwlen htake hx hy hne =>
    find?_choose_first hfind hw (hwlen.trans hlen) hP htake hx hy hne⟩⟩
  by_contra hlt
  have hsorted := hrange ▸ List.pairwise_lt_range (n := (s.preemptable g).length + 1)
  have hmem : w.length ∈ front ++ n :: back := hrange ▸ List.mem_range.mpr (Nat.lt_succ_of_le hw.length_le)
  rcases List.mem_append.mp hmem with hm | hm
  · have hnone := List.find?_eq_none.mp (hfront _ hm) w (mem_choose_iff.mpr ⟨hw, rfl⟩)
    exact hnone hP
  · have hle : n ≤ w.length := by
      rcases List.mem_cons.mp hm with rfl | hm
      · exact Nat.le_refl _
      · exact Nat.le_of_lt (List.rel_of_pairwise_cons (List.pairwise_append.mp hsorted).2.1 hm)
    omega

theorem State.victims_none (h : s.victims g = none) {w : List GInst} (hw : w.Sublist (s.preemptable g)) :
    (s.without w).fits g = false := by
  have hall := List.findSome?_eq_none_iff.mp h w.length (List.mem_range.mpr (Nat.lt_succ_of_le hw.length_le))
  simpa using List.find?_eq_none.mp hall w (mem_choose_iff.mpr ⟨hw, rfl⟩)

end

/-! ### Shares and queues (16 R342 to R344, R348) -/

theorem exec_scratchShareRelease {s : State} {g : GInst} {task inst team : Nat} (hg : s.inst task inst = some g)
    (hsome : ∃ m ∈ g.members, m.team = team) (hexit : ∀ m ∈ g.members, m.team = team → m.exited = true)
    (hctx : ∀ e ∈ s.ctxs, e.2.task = task → e.2.inst = inst → e.2.team = team →
      holdsSlot e.1 = false ∧ ∀ o ∈ e.2.window, o.status = .done ∨ usesShare o.form = false)
    (haccs : ∀ x ∈ s.accs, x.sp = true → x.cid ∉ (g.members.filter fun m => m.team == team).map (·.cid))
    (harr : ∀ r ∈ s.arrivals, r.sp = true → r.cid ∉ (g.members.filter fun m => m.team == team).map (·.cid)) :
    exec (.scratchShareRelease task inst team) s = .next (s.dropShares task inst team) := by
  have hsome' : (g.members.filter fun m => m.team == team) ≠ [] := by
    obtain ⟨m, hm, ht⟩ := hsome
    exact List.ne_nil_of_mem (List.mem_filter.mpr ⟨hm, by simpa using ht⟩)
  have hexit' : (g.members.filter fun m => m.team == team).all (·.exited) = true :=
    List.all_eq_true.mpr fun m hm => hexit m (List.mem_filter.mp hm).1 (by simpa using (List.mem_filter.mp hm).2)
  have hctx' : s.ctxs.all (fun e => !(e.2.task == task && e.2.inst == inst && e.2.team == team) ||
      (!holdsSlot e.1 && e.2.window.all fun o => o.status == .done || !usesShare o.form)) = true := by
    simp only [List.all_eq_true, Bool.or_eq_true, Bool.not_eq_true', Bool.and_eq_true, Bool.and_eq_false_iff, beq_iff_eq,
      beq_eq_false_iff_ne]
    intro e he
    by_cases hm : e.2.task = task ∧ e.2.inst = inst ∧ e.2.team = team
    · exact .inr (hctx e he hm.1 hm.2.1 hm.2.2)
    · exact .inl (by rwa [← not_and_or, ← not_and_or, and_assoc])
  show execScratchShareRelease task inst team s = _
  simp only [execScratchShareRelease, hg]
  refine if_pos ?_
  simp only [Bool.and_eq_true]
  refine ⟨⟨⟨⟨by simpa using hsome', hexit'⟩, hctx'⟩, ?_⟩, ?_⟩
  · exact List.all_eq_true.mpr fun x hx => by simpa [Classical.or_iff_not_imp_left] using haccs x hx
  · exact List.all_eq_true.mpr fun r hr => by simpa [Classical.or_iff_not_imp_left] using harr r hr

theorem State.stalled_iff (s : State) (die : Nat) : s.stalled die = true ↔
    AL.get 0 s.worked die + 256 ≤ s.cycle ∧ ∀ e ∈ s.ctxs, dieOf e.1 = die → s.readyNow e.1 = false := by
  simp only [State.stalled, Bool.and_eq_true, decide_eq_true_iff, List.all_eq_true, Bool.or_eq_true, bne_iff_ne, ne_eq,
    Bool.not_eq_true', ← imp_iff_not_or]

/-- Queues in the order of their bytes held, then of their units. -/
def HwQueue.NoLater (x y : HwQueue) : Prop :=
  x.held * x.size ≤ y.held * y.size ∧ (x.held * x.size = y.held * y.size → x.unit.toNat ≤ y.unit.toNat)

theorem HwQueue.noLater_of_before {x y : HwQueue} (h : x.before y = true) : x.NoLater y := by
  simp only [HwQueue.before, Bool.or_eq_true, decide_eq_true_iff, Bool.and_eq_true, beq_iff_eq] at h
  unfold HwQueue.NoLater
  rcases h with h | ⟨h, h' | ⟨h', -⟩⟩
  · omega
  · omega
  · rw [h']; omega

theorem HwQueue.noLater_of_not_before {x y : HwQueue} (h : x.before y = false) : y.NoLater x := by
  have h' : ¬ x.before y = true := by simp [h]
  simp only [HwQueue.before, Bool.or_eq_true, decide_eq_true_iff, Bool.and_eq_true, beq_iff_eq] at h'
  unfold HwQueue.NoLater
  omega

theorem HwQueue.NoLater.trans {x y z : HwQueue} (h : x.NoLater y) (h' : y.NoLater z) : x.NoLater z := by
  unfold HwQueue.NoLater at *
  omega

/-- Keep the better of the best so far and the next one. -/
def keepBetter {α : Type} (better : α → α → Bool) (m : Option α) (q : α) : Option α :=
  match m with
  | none => some q
  | some x => if better q x then some q else some x

section
variable {α : Type} {R : α → α → Prop} {better : α → α → Bool} (hyes : ∀ x y, better x y = true → R x y)
  (hno : ∀ x y, better x y = false → R y x) (hrefl : ∀ x, R x x) (htrans : ∀ x y z, R x y → R y z → R x z)
include hyes hno hrefl htrans

theorem foldl_keepBetter {l : List α} {a b : α} (h : l.foldl (keepBetter better) (some a) = some b) :
    (b = a ∨ b ∈ l) ∧ R b a ∧ ∀ y ∈ l, R b y := by
  induction l generalizing a with
  | nil =>
    obtain rfl : a = b := by simpa using h
    exact ⟨.inl rfl, hrefl _, by simp⟩
  | cons q l ih =>
    simp only [List.foldl_cons, keepBetter] at h
    cases hq : better q a with
    | true =>
      rw [hq, if_pos rfl] at h
      obtain ⟨hmem, hb, hall⟩ := ih h
      exact ⟨.inr (List.mem_cons.mpr hmem), htrans _ _ _ hb (hyes _ _ hq), List.forall_mem_cons.mpr ⟨hb, hall⟩⟩
    | false =>
      rw [hq, if_neg Bool.false_ne_true] at h
      obtain ⟨hmem, hb, hall⟩ := ih h
      exact ⟨hmem.imp_right (List.mem_cons_of_mem _), hb, List.forall_mem_cons.mpr ⟨htrans _ _ _ hb (hno _ _ hq), hall⟩⟩

theorem foldl_keepBetter_none {l : List α} {b : α} (h : l.foldl (keepBetter better) none = some b) : b ∈ l ∧ ∀ y ∈ l, R b y := by
  cases l with
  | nil => cases h
  | cons q l =>
    obtain ⟨hmem, hq, hall⟩ := foldl_keepBetter hyes hno hrefl htrans (l := l) h
    exact ⟨List.mem_cons.mpr hmem, List.forall_mem_cons.mpr ⟨hq, hall⟩⟩

end

theorem smallestFull_eq (l : List HwQueue) : smallestFull l = l.foldl (keepBetter HwQueue.before) none := by
  rw [smallestFull]
  congr 1
  funext m q
  cases m <;> rfl

theorem smallestFull_some {l : List HwQueue} {x : HwQueue} (h : smallestFull l = some x) : x ∈ l ∧ ∀ y ∈ l, x.NoLater y :=
  foldl_keepBetter_none (better := HwQueue.before) (fun _ _ => HwQueue.noLater_of_before) (fun _ _ => HwQueue.noLater_of_not_before)
    (fun _ => ⟨Nat.le_refl _, fun _ => Nat.le_refl _⟩) (fun _ _ _ => HwQueue.NoLater.trans) (smallestFull_eq l ▸ h)

/-- The chunks that the queues of an instance hold of a die's. -/
def State.chunksHeld (s : State) (die : Nat) (h : GInst) : Nat :=
  s.chunkSum ((s.instQueues die h).filter (s.dieQueues die).contains)

/-- Whether the queues of an instance hold more chunks of a die's than another's do. -/
def State.holdsMore (s : State) (die : Nat) (g x : GInst) : Bool := decide (s.chunksHeld die x < s.chunksHeld die g)

theorem State.mostChunks_eq (s : State) (die : Nat) : s.mostChunks die =
    (s.insts.filter fun g => g.status == .placed && s.chunksHeld die g != 0).foldl (keepBetter (s.holdsMore die)) none := by
  refine congrArg (fun f => List.foldl f none _) ?_
  funext m g
  cases m with
  | none => rfl
  | some x => exact if_congr decide_eq_true_iff.symm rfl rfl

theorem State.mostChunks_some {s : State} {die : Nat} {h : GInst} (hm : s.mostChunks die = some h) : h ∈ s.insts ∧ h.status = .placed ∧
    0 < s.chunksHeld die h ∧ ∀ k ∈ s.insts, k.status = .placed → s.chunksHeld die k ≤ s.chunksHeld die h := by
  obtain ⟨hmem, hall⟩ := foldl_keepBetter_none (R := fun x y => s.chunksHeld die y ≤ s.chunksHeld die x) (better := s.holdsMore die)
    (fun x y hb => Nat.le_of_lt (of_decide_eq_true hb)) (fun x y hb => Nat.le_of_not_lt (of_decide_eq_false hb))
    (fun _ => Nat.le_refl _) (fun _ _ _ h h' => Nat.le_trans h' h) (s.mostChunks_eq die ▸ hm)
  obtain ⟨hin, hcond⟩ := List.mem_filter.mp hmem
  obtain ⟨hplaced, hsome⟩ : h.status = .placed ∧ s.chunksHeld die h ≠ 0 := by simpa using hcond
  refine ⟨hin, hplaced, Nat.pos_of_ne_zero hsome, fun k hk hkp => ?_⟩
  by_cases hk0 : s.chunksHeld die k = 0
  · omega
  · exact hall k (List.mem_filter.mpr ⟨hk, by simp [hkp, hk0]⟩)

section
variable {s s0 : State} {die qu : Nat} {x : HwQueue}

theorem exec_growth_idle (h : s.stalled die = false) :
    exec (.deadlockQueueGrowth die qu) s = .next { s with choices := s.choices + 1 } := by
  show execDeadlockQueueGrowth die qu s = _
  simp only [execDeadlockQueueGrowth, h, Bool.not_false, if_true]

/-- The loose queues of a die at their base depth have returned their chunks. -/
def State.looseReturned (s : State) (die : Nat) : State :=
  s.dropChunks (((s.looseQueues die).filter fun q => decide (q.1.held ≤ q.1.base)).map (·.1.num))

variable (h0 : s.looseReturned die = s0) (hx : smallestFull ((s0.hwQueues die).filter s0.queueFull) = some x) (hqu : x.num = qu)
  (hst : s.stalled die = true)
include h0 hx hqu hst

theorem exec_growth_chunk (hroom : s0.chunkSum (s0.dieQueues die) < 256) : exec (.deadlockQueueGrowth die qu) s =
    .next (({ s0.addChunk qu with choices := s.choices + 1 } : State).progress die) := by
  subst h0
  rw [State.looseReturned] at hx hroom ⊢
  show execDeadlockQueueGrowth die qu s = _
  simp only [execDeadlockQueueGrowth, hst, Bool.not_true, Bool.false_eq_true, if_false, hx, hqu, bne_self_eq_false, hroom, if_true]

theorem exec_growth_abort {h : GInst} (hroom : 256 ≤ s0.chunkSum (s0.dieQueues die)) (hh : s0.mostChunks die = some h) :
    exec (.deadlockQueueGrowth die qu) s = .next ((({ s0 with choices := s.choices + 1 } : State).abortInst h.task h.num none
      ⟨{ cause := 0x50, aux := 1, unit := h.firstUnit }, ⟨0, 0⟩, ⟨0, 0⟩, 0, 0, 0, 0, 0⟩).dropChunks (s0.instQueues die h)) := by
  subst h0
  rw [State.looseReturned] at hx hroom hh ⊢
  show execDeadlockQueueGrowth die qu s = _
  simp only [execDeadlockQueueGrowth, hst, Bool.not_true, Bool.false_eq_true, if_false, hx, hqu, bne_self_eq_false,
    Nat.not_lt.mpr hroom, hh]

end

theorem State.otherQueue_level (s : State) (num base size : Nat) (unit : BitVec 32) (work : List Nat) :
    let q := s.otherQueue num base size unit work
    (work = [] → q.held = 0) ∧ q.held ≤ s.depthOf q.num q.base q.size := by
  refine ⟨fun h => ?_, ?_⟩
  · subst h; rfl
  · simp only [State.otherQueue]
    split
    · exact Nat.zero_le _
    · exact Nat.min_le_right _ _

theorem State.mem_looseQueues {s : State} {die : Nat} {q : HwQueue} {w : List Nat} (h : (q, w) ∈ s.looseQueues die) :
    ∃ num base size unit, q = s.otherQueue num base size unit w := by
  simp only [State.looseQueues, List.mem_append, List.mem_map, Prod.mk.injEq] at h
  obtain (⟨_, -, rfl, rfl⟩ | ⟨_, -, rfl, rfl⟩) | ⟨_, -, rfl, rfl⟩ := h <;> exact ⟨_, _, _, _, rfl⟩

theorem State.looseQueue_mem_instQueues {s : State} {die : Nat} {g : GInst} {q : HwQueue} {w : List Nat}
    (h : (q, w) ∈ s.looseQueues die) (hw : ∃ e ∈ s.membersOf g, e.2.cid ∈ w) : q.num ∈ s.instQueues die g := by
  obtain ⟨e, he, hcid⟩ := hw
  refine List.mem_append_right _ (List.mem_map.mpr ⟨(q, w), List.mem_filter.mpr ⟨h, List.any_eq_true.mpr ⟨e.2.cid, hcid, ?_⟩⟩, rfl⟩)
  exact List.contains_iff_mem.mpr (List.mem_map.mpr ⟨e, he, rfl⟩)

theorem State.chunksOf_returnChunks (s : State) {q n base : Nat} (hq : 1024 ≤ q) (h : n ≤ base) :
    (s.returnChunks q n base).chunksOf q = 0 := by
  have hnone : (s.chunks.filter fun e => e.1 != q).find? (fun e => e.1 == q) = none :=
    List.find?_eq_none.mpr fun e he => by simpa using (List.mem_filter.mp he).2
  simp only [State.returnChunks, if_pos h, State.chunksOf, if_neg (Nat.not_lt.mpr hq), hnone, Option.map_none, Option.getD_none]

/-- A table whose entries under some keys are changed. -/
theorem AL.find_map_if {α : Type} (m : AL α) (p : Nat → Bool) (f : α → α) (k : Nat) :
    AL.find (m.map fun e => if p e.1 then (e.1, f e.2) else e) k = (AL.find m k).map fun v => if p k then f v else v := by
  rw [← AL.find_map m (fun k v => if p k then f v else v) k]
  exact congrArg (AL.find · k) (List.map_congr_left fun e _ => by split <;> rfl)

theorem exec_codegenPass {s : State} {core : Nat}
    (h : ∀ e ∈ s.ctxs, coreOf e.1 = core → e.2.status = .running → ∀ f ∈ e.2.halves, f.gen = s.codegen) :
    ∃ u, exec (.codegenPass core) s = .next u ∧ u.codegen = s.codegen ∧ u.mem = s.mem ∧
      ∀ a c, u.ctx a = some c → coreOf a = core → c.codegen = s.codegen := by
  have hall : (s.ctxs.filter fun e => coreOf e.1 == core && e.2.status == .running).all
      (fun e => e.2.halves.all fun f => f.gen == s.codegen) = true := by
    simp only [List.all_eq_true, List.mem_filter, Bool.and_eq_true, beq_iff_eq]
    exact fun e he => h e he.1 he.2.1 he.2.2
  refine ⟨_, if_pos hall, rfl, rfl, fun a c hc hcore => ?_⟩
  obtain ⟨d, -, rfl⟩ := Option.map_eq_some_iff.mp
    ((AL.find_map_if s.ctxs (fun k => coreOf k == core) (fun c => { c with codegen := s.codegen }) a).symm.trans hc)
  rw [hcore, beq_self_eq_true, if_pos rfl]

theorem exec_growth_stat {s s0 : State} {die qu : Nat} {x : HwQueue} {c : Ctx} (h0 : s.looseReturned die = s0)
    (hx : smallestFull ((s0.hwQueues die).filter s0.queueFull) = some x) (hqu : x.num = qu) (hst : s.stalled die = true)
    (hroom : s0.chunkSum (s0.dieQueues die) < 256) (hlow : qu < 1024) (hc : s.ctx qu = some c) :
    ∃ t, exec (.deadlockQueueGrowth die qu) s = .next t ∧
      t.ctx qu = some ({ c with statChunks := c.statChunks + 1 } : Ctx).retireTiles := by
  refine ⟨_, exec_growth_chunk h0 hx hqu hst hroom, ?_⟩
  have hc0 : s0.ctx qu = some c := h0 ▸ hc
  show (s0.addChunk qu).ctx qu = _
  rw [State.addChunk, if_pos hlow]
  exact (State.onCtx_ctx _ _ _).trans (congrArg (Option.map _) hc0)

theorem exec_growth_more {s s0 : State} {die qu : Nat} {x : HwQueue} (h0 : s.looseReturned die = s0)
    (hx : smallestFull ((s0.hwQueues die).filter s0.queueFull) = some x) (hqu : x.num = qu) (hst : s.stalled die = true)
    (hroom : s0.chunkSum (s0.dieQueues die) < 256) (hhigh : 1024 ≤ qu) : exec (.deadlockQueueGrowth die qu) s = .next { s0 with
      chunks := (qu, s0.chunksOf qu + 1) :: s0.chunks.filter fun e => e.1 != qu
      worked := AL.put s.worked die s.cycle, choices := s.choices + 1 } := by
  rw [exec_growth_chunk h0 hx hqu hst hroom, State.addChunk, if_neg (Nat.not_lt.mpr hhigh)]
  subst h0
  rfl

/-- Settles O47: placement, ageing, pre-emption, release, growth and generations, one lemma each. -/
theorem schedulingEvents : Obligations.SchedulingEvents := by
  unfold Obligations.SchedulingEvents
  intro s g t die span core team qu task inst hg
  refine ⟨exec_instancePlacement hg, exec_priorityAgeing hg, fun hp ha => ⟨exec_preempt hg hp ha, fun a c hc ht hi => s.halt_stopped g hc ht hi,
    fun u h hu hh => State.saveInst_saved (s := s.halt g) hu hh⟩, exec_preempt_idle hg, exec_resume hg, fun v => exec_forcedPreemption hg, ?_, ?_,
    s.stalled_iff die, exec_growth_idle, ?_, fun q w h => ?_, fun h q w => State.looseQueue_mem_instQueues, ?_,
    fun l x => smallestFull_some, fun q n base => s.chunksOf_returnChunks, exec_codegenPass⟩
  · exact ⟨fun v => State.victims_some, fun h w => State.victims_none h⟩
  · exact exec_scratchShareRelease hg
  · intro s0 qs x h hx hqu hst
    exact ⟨exec_growth_more rfl hx hqu hst, fun hroom hlow c => exec_growth_stat rfl hx hqu hst hroom hlow,
      exec_growth_abort rfl hx hqu hst⟩
  · obtain ⟨num, base, size, unit, rfl⟩ := State.mem_looseQueues h
    exact s.otherQueue_level num base size unit w
  · exact fun h => State.mostChunks_some

end Sys2Proof.Machine

/-! # O48: queues and tasks (16 R333 to R336, R349, R350) -/

namespace Sys2Proof.Machine

/-! ### Tail writes (16 R333) -/

section
variable {s : State} {q : Nat} {v : BitVec 64} {x : QueueSt} (hq : s.queue q = some x)
include hq

theorem exec_tailWrite (hup : s.hostUp = true) (hlow : 8 ≤ x.lsize) (hhigh : x.lsize ≤ 20)
    (hfit : (v.toNat % 2 ^ 32 + 2 ^ 32 - x.head) % 2 ^ 32 ≤ 2 ^ x.lsize) :
    exec (.tailWrite q v) s = .next { s with queues := AL.put s.queues q { x with tail := v.toNat % 2 ^ 32 } } := by
  show Host.Outcome.next (s.tailWrite q v) = _
  have hcond : (s.hostUp && decide (8 ≤ x.lsize) && decide (x.lsize ≤ 20) &&
      decide (({ x with tail := v.toNat % 2 ^ 32 } : QueueSt).pending ≤ 2 ^ x.lsize)) = true := by
    simp only [Bool.and_eq_true, decide_eq_true_iff]
    exact ⟨⟨⟨hup, hlow⟩, hhigh⟩, hfit⟩
  simp only [State.tailWrite, hq, hcond, if_true]

theorem exec_tailWrite_over (hover : 2 ^ x.lsize < (v.toNat % 2 ^ 32 + 2 ^ 32 - x.head) % 2 ^ 32) :
    exec (.tailWrite q v) s = .next s := by
  show Host.Outcome.next (s.tailWrite q v) = _
  have hcond : decide (({ x with tail := v.toNat % 2 ^ 32 } : QueueSt).pending ≤ 2 ^ x.lsize) = false :=
    decide_eq_false (Nat.not_le.mpr hover)
  simp only [State.tailWrite, hq, hcond, Bool.and_false, Bool.false_eq_true, if_false]

end

/-! ### A visit of a queue (16 R334, R335) -/

/-- The head of a queue moves past the packet that a visit took. -/
def State.headTo (u : State) (q head : Nat) : State :=
  match u.queue q with
  | some y => { u with queues := AL.put u.queues q { y with head := head } }
  | none => u

/-- The units of the packet at a queue's head: its length byte, or one where that is out of range. -/
def visitUnits (len : Nat) : Nat := if 2 ≤ len ∧ len ≤ 16 then len else 1

section
variable {s : State} {q n : Nat} {x : QueueSt} (hq : s.queue q = some x) (hready : s.ready = true) (hnext : s.nextVisit = some q)
  (hn : visitUnits (fieldAt (s.ringUnits x x.head 1) 0 1) = n)
include hq hready hnext hn

theorem exec_queueVisit_uncovered (h : x.pending < n) : exec (.queueVisit q) s = .next { s with visit := (q + 1) % 64 } := by
  subst hn
  rw [visitUnits] at h
  show execQueueVisit q s = _
  simp only [execQueueVisit, hq, hready, hnext, Bool.not_true, bne_self_eq_false, Bool.or_self, Bool.false_eq_true, if_false, h, if_true]

variable (hcover : n ≤ x.pending) (hvia : (s.launchQ.find? fun p => p.queue == q && p.place == some x.head) = none)
include hcover hvia

theorem exec_queueVisit_refused {r : Nat} (h : s.refusal x (s.ringUnits x x.head n) none = some r) : exec (.queueVisit q) s =
    .next ((({ s with visit := (q + 1) % 64 } : State).refuse q (s.ringUnits x x.head n) r).headTo q ((x.head + n) % 2 ^ 32)) := by
  subst hn
  rw [visitUnits] at h hcover ⊢
  show execQueueVisit q s = _
  simp only [execQueueVisit, hq, hready, hnext, Bool.not_true, bne_self_eq_false, Bool.or_self, Bool.false_eq_true, if_false,
    Nat.not_lt.mpr hcover, hvia, Option.map_none, h]
  rfl

theorem exec_queueVisit_accepted (h : s.refusal x (s.ringUnits x x.head n) none = none) : exec (.queueVisit q) s =
    let i := ({ s with visit := (q + 1) % 64 } : State).ingress x.dom
    .next ((i.1.accept q x (s.ringUnits x x.head n) i.2).headTo q ((x.head + n) % 2 ^ 32)) := by
  subst hn
  rw [visitUnits] at h hcover ⊢
  show execQueueVisit q s = _
  simp only [execQueueVisit, hq, hready, hnext, Bool.not_true, bne_self_eq_false, Bool.or_self, Bool.false_eq_true, if_false,
    Nat.not_lt.mpr hcover, hvia, Option.map_none, h]
  rfl

end

/-- A length out of range takes one unit, and is refused for it where the kind is one of R335's. -/
theorem State.refusal_length (s : State) (x : QueueSt) {bs : List Byte} (h : fieldAt bs 0 1 < 2 ∨ 16 < fieldAt bs 0 1) :
    s.refusal x bs none = some (if 1 ≤ fieldAt bs 1 1 ∧ fieldAt bs 1 1 ≤ 9 then 2 else 1) := by
  unfold State.refusal
  extract_lets len kind succ plen p hs
  by_cases hk : 1 ≤ kind ∧ kind ≤ 9
  · have hlen : len < 2 ∨ len > 16 ∨ succ > 8 ∨ 16 + plen + 8 * succ > 16 * len := h.imp_right .inl
    rw [if_neg (by omega), if_pos hlen, if_pos hk]
  · rw [if_pos (by omega), if_neg hk]

/-! ### The launch queue (16 R349, R350) -/

@[simp] theorem State.returnChunks_queues (s : State) (q n base : Nat) : (s.returnChunks q n base).queues = s.queues := by
  rw [State.returnChunks]
  split <;> rfl

@[simp] theorem State.returnChunks_launchQ (s : State) (q n base : Nat) : (s.returnChunks q n base).launchQ = s.launchQ := by
  rw [State.returnChunks]
  split <;> rfl

theorem exec_launchQueueAppend {s : State} {i : Nat} {p : LaunchPkt} {x : QueueSt} (hp : s.launchQ[i]? = some p) (hplace : p.place = none)
    (hfirst : ∀ y ∈ s.launchQ.take i, y.place = none → y.queue = p.queue → y.agent ≠ p.agent) (hq : s.queue p.queue = some x)
    (henable : x.enable = true) (hdom : x.dom = p.dom) (hfit : x.pending + p.bytes.length / 16 ≤ 2 ^ x.lsize) :
    ∃ u, exec (.launchQueueAppend i) s = .next u ∧
      u.queue p.queue = some { x with tail := (x.tail + p.bytes.length / 16) % 2 ^ 32 } ∧
      u.launchQ = s.launchQ.map fun y => if y == p then { y with place := some x.tail } else y := by
  have hany : ((s.launchQ.take i).any fun y => y.place.isNone && y.queue == p.queue && y.agent == p.agent) = false := by
    simpa [List.any_eq_false] using hfirst
  have hcond : (x.enable && x.dom == p.dom) = true := by simp [henable, hdom]
  have hbranch : exec (.launchQueueAppend i) s = execLaunchQueueAppend i s := rfl
  simp only [execLaunchQueueAppend, hp, hplace, Option.isSome_none, hany, Bool.or_self, Bool.false_eq_true, if_false, hq,
    Option.getD_some, hcond, if_true, Nat.not_lt.mpr hfit] at hbranch
  exact ⟨_, hbranch, (congrArg (AL.find · p.queue) (State.returnChunks_queues _ _ _ _)).trans (AL.find_put_same s.queues _ _), State.returnChunks_launchQ ..⟩

/-! ### The end of a task (16 R336) -/

section
variable {s : State} {task : Nat} {t : Task} (ht : s.task task = some t) (hended : t.state.ended = false)
include ht hended

theorem exec_taskComplete_ending {st : TState} {cls detail : Nat} {hash : W64} (h : t.ending = some (st, cls, detail, hash)) :
    exec (.taskComplete task) s = .next (s.finish task st cls detail hash) := by
  show execTaskComplete task s = _
  simp only [execTaskComplete, ht, hended, Bool.false_eq_true, if_false, h]

theorem exec_taskComplete (hending : t.ending = none) (hcancel : ¬(t.cancel = true ∧ t.state = .accepted)) (hkind : t.kind = 1)
    (hinsts : ∀ g ∈ s.insts, g.task = task → g.status = .retired ∨ g.status = .aborted) (hctxs : ∀ e ∈ s.ctxs, e.2.task ≠ task)
    (hvis : s.allVisible (s.cidsOf task) = true) : exec (.taskComplete task) s = .next (
      if t.cause ≠ 0 then s.finish task .failed 1 t.cause t.hash
      else if t.cancel = true then s.finish task .cancelled 5 t.detail t.hash
      else if t.formFault ≠ 0 then s.finish task .completed 3 t.formFault t.hash
      else s.finish task .completed (if t.storeFault then 2 else 0) 0 t.hash) := by
  have hc : (t.cancel && t.state == .accepted) = false := by simpa using hcancel
  have hdone : ((s.insts.filter fun g => g.task == task).all (fun g => g.status == .retired || g.status == .aborted) &&
      s.ctxs.all (fun e => e.2.task != task) && s.allVisible (s.cidsOf task)) = true := by
    simp only [Bool.and_eq_true, List.all_eq_true, List.mem_filter, Bool.or_eq_true, beq_iff_eq, bne_iff_ne]
    exact ⟨⟨fun g hg => hinsts g hg.1 hg.2, hctxs⟩, hvis⟩
  show execTaskComplete task s = _
  simp only [execTaskComplete, ht, hended, Bool.false_eq_true, if_false, hending, hc, hkind, bne_self_eq_false, hdone, if_true]
  split_ifs <;> rfl

end

/-- Settles O48: the tail, the visit, the launch queue and the end of a task, one lemma each. -/
theorem taskEvents : Obligations.TaskEvents := by
  unfold Obligations.TaskEvents
  intro s q i r v x p t
  refine ⟨exec_tailWrite, exec_tailWrite_over, ?_, exec_launchQueueAppend, fun task => exec_taskComplete, fun task st cls detail hash ht he =>
    exec_taskComplete_ending ht he⟩
  intro len n bs s0 done hq hready hnext
  refine ⟨exec_queueVisit_uncovered hq hready hnext rfl, fun hcover hvia => ⟨exec_queueVisit_refused hq hready hnext rfl hcover hvia,
    exec_queueVisit_accepted hq hready hnext rfl hcover hvia⟩, fun hlen => ?_⟩
  have hn : n = 1 := if_neg (by omega)
  refine ⟨hn, s.refusal_length x ?_⟩
  show fieldAt (s.ringUnits x x.head n) 0 1 < 2 ∨ 16 < fieldAt (s.ringUnits x x.head n) 0 1
  rwa [hn]

end Sys2Proof.Machine

/-! # O49: the keystone's own work (16 R337, 17 R360 to R364, 19 R385, R389) -/

namespace Sys2Proof.Machine

theorem State.toRunning_running (s : State) {t : Task} (h : t.state = .running) : s.toRunning t = s := by
  rw [State.toRunning, h]
  rfl

section
variable {s s2 s3 : State} {t : Task} (ht : s.task t.id = some t) (hready : t.ready = true)
include ht hready

/-- The work of a task that runs already is done in the state as it is. -/
theorem State.work_running {kind : Nat} {waits : Bool} {f : State → Task → State} (hkind : t.kind = kind) (hrun : t.state = .running) :
    s.work t.id kind waits f = f s t := by
  simp only [State.work, ht, hkind, hready, hrun, bne_self_eq_false, Bool.not_true, Bool.or_self, Bool.and_false, Bool.false_and,
    Bool.false_eq_true, if_false, s.toRunning_running hrun]

theorem exec_copyTask_complete (hkind : t.kind = 2) (hrun : t.state = .running) (hcount : t.count ≠ 0)
    (hall : fieldAt t.payload 16 8 ≤ t.next) (haccs : ∀ x ∈ s.accs, x.cid ≠ t.id) : exec (.copyTask t.id) s =
    .next ((s.formLevel t.copyForm.1 t.dom t.copyForm.2 5).finish t.id .completed 0 0 t.hash) := by
  have hvis : (s.accs.all fun x => x.cid != t.id) = true := by simpa using haccs
  show execCopyTask t.id s = _
  rw [execCopyTask, State.work_running ht hready hkind hrun]
  simp only [if_neg hcount, if_neg (Nat.not_lt.mpr hall), hvis, if_true]

theorem exec_signalTask (hkind : t.kind = 3) (hwit : s.witSat t.wit = true) :
    exec (.signalTask t.id) s = .next (s.finish t.id .completed 0 0 t.hash) := by
  show execSignalTask t.id s = _
  simp only [execSignalTask, ht, hkind, hready, hwit, beq_self_eq_true, Bool.and_self, if_true]

theorem exec_waitTask {l : PLeaf} {bs : List Byte} (hkind : t.kind = 4) (hrun : t.state = .running)
    (htrans : s.trans true (flatTag t.dom (fieldAt t.payload 0 8)) (fieldAt t.payload 0 8) .read true = .ok s2 l)
    (hread : s2.readHome (flatTag t.dom (fieldAt t.payload 0 8)) [t.wit] [(l, fieldAt t.payload 0 8, 32)] = .ok s3 bs) :
    exec (.waitTask t.id) s = .next (if fieldAt bs 8 4 ≠ fieldAt t.payload 8 4
      then s3.finish t.id .completed 0 0 t.hash else s3) := by
  show execWaitTask t.id s = _
  rw [execWaitTask, State.work_running ht hready hkind hrun]
  simp only [htrans, hread]

theorem exec_recordFenceTask_dropped (hkind : t.kind = 5) (hrun : t.state = .running) (hcount : t.count ≠ 0) :
    exec (.recordFenceTask t.id) s = .next (s.finish t.id .completed 0 0 t.hash) := by
  show execRecordFenceTask t.id s = _
  rw [execRecordFenceTask, State.work_running ht hready hkind hrun]
  simp only [if_pos hcount]

theorem exec_recordFenceTask_drop (hkind : t.kind = 5) (hrun : t.state = .running) (hcount : t.count = 0)
    (hdrops : ∀ d ∈ s.drops, d.task ≠ t.id) : exec (.recordFenceTask t.id) s = .next { s with drops :=
      s.drops ++ [⟨t.dom, fieldAt t.payload 0 8 % 2 ^ 20, t.wit, 1024, 0, 0, t.id, 0, ⟨0, 0⟩, 0, true⟩] } := by
  have hnone : (s.drops.any fun d => d.task == t.id) = false := by simpa [List.any_eq_false] using hdrops
  show execRecordFenceTask t.id s = _
  rw [execRecordFenceTask, State.work_running ht hready hkind hrun]
  simp only [hcount, ne_eq, not_true_eq_false, if_false, hnone, Bool.false_eq_true]

theorem exec_journalMark (hkind : t.kind = 7) : exec (.journalMark t.id) s =
    .next (s.finish t.id .completed 0 0 (BitVec.ofNat 64 (fieldAt t.payload 0 8))) := by
  show execJournalMark t.id s = _
  simp only [execJournalMark, ht, hkind, hready, beq_self_eq_true, Bool.and_self, if_true]

theorem exec_selfTestRun (hkind : t.kind = 6) (hrun : t.state = .running) : exec (.selfTestRun t.id) s =
    .next ((s.clearSpan t.testSpan.1 t.testSpan.2).testOutcome t) := by
  have hstate : (t.state == .accepted) = false := by rw [hrun]; rfl
  show execSelfTestRun t.id s = _
  simp only [execSelfTestRun, ht, hkind, hready, hstate, bne_self_eq_false, Bool.not_true, Bool.or_self, Bool.false_eq_true, if_false,
    s.toRunning_running hrun]

/-! ### Code objects -/

section
variable {img : List Byte} (hkind : t.kind = 8) (hrun : t.state = .running)
  (himg : s.readImage t (fieldAt t.payload 0 8) = .ok s2 img)
include hkind hrun himg

theorem exec_codeLoad_refused (hst : s2.settleMoves.loadStatus t.dom img ≠ 0)
    (hwrite : s2.settleMoves.writeFlatVia true t.dom [(fieldAt t.payload 8 8, 16)]
      (s2.settleMoves.loadResult 0 (s2.settleMoves.loadStatus t.dom img)) = (s3, none)) : exec (.codeLoad t.id) s =
    .next ((s3.writeBack (flatTag t.dom (fieldAt t.payload 8 8))).finish t.id .completed 0 0 t.hash) := by
  show execCodeLoad t.id s = _
  rw [execCodeLoad, State.work_running ht hready hkind hrun]
  simp only [himg, if_neg hst, hwrite]

theorem exec_codeLoad_loaded (hst : s2.settleMoves.loadStatus t.dom img = 0)
    (hstop : s2.settleMoves.placeStop t.dom (loadList img) = none)
    (hwrite : (s2.settleMoves.loadObj t.dom img).1.writeFlatVia true t.dom [(fieldAt t.payload 8 8, 16)]
      ((s2.settleMoves.loadObj t.dom img).1.loadResult (s2.settleMoves.loadObj t.dom img).2 0) = (s3, none)) :
    exec (.codeLoad t.id) s =
      .next ((s3.writeBack (flatTag t.dom (fieldAt t.payload 8 8))).finish t.id .completed 0 0 t.hash) := by
  show execCodeLoad t.id s = _
  rw [execCodeLoad, State.work_running ht hready hkind hrun]
  simp only [himg, hst, if_true, hstop, hwrite]

theorem exec_codeLoad_stopped (hst : s2.settleMoves.loadStatus t.dom img = 0)
    (hstop : s2.settleMoves.placeStop t.dom (loadList img) = some true) :
    exec (.codeLoad t.id) s = .next (s.finish t.id .failed 7 8 t.hash) := by
  show execCodeLoad t.id s = _
  rw [execCodeLoad, State.work_running ht hready hkind hrun]
  simp only [himg, hst, if_true, hstop]

end

/-- Whether a launch uses the object that an unload names (17 R364). -/
def State.launchUses (s : State) (t x : Task) : Prop :=
  x.kind = 1 ∧ x.dom = t.dom ∧ fieldAt x.payload 8 4 / 65536 = fieldAt t.payload 0 2 ∧
    (x.state.ended = false ∨ ∃ g ∈ s.insts, g.task = x.id ∧ (g.status = .placed ∨ g.status = .saved))

section
omit ht hready

theorem State.launchUses_iff (s : State) (t x : Task) : (x.kind == 1 && x.dom == t.dom &&
    fieldAt x.payload 8 4 / 65536 == fieldAt t.payload 0 2 &&
    (!x.state.ended || s.insts.any fun g => g.task == x.id && (g.status == .placed || g.status == .saved))) = true ↔
    s.launchUses t x := by
  simp only [State.launchUses, Bool.and_eq_true, Bool.or_eq_true, beq_iff_eq, Bool.not_eq_true', List.any_eq_true, and_assoc]

end

theorem exec_codeUnload_used (hkind : t.kind = 9) (hcount : t.count = 0) (huse : ∃ x ∈ s.tasks, s.launchUses t x) :
    exec (.codeUnload t.id) s = .next (s.toPlaced t) := by
  have hany := List.any_eq_true.mpr (huse.imp fun x hx => ⟨hx.1, (s.launchUses_iff t x).mpr hx.2⟩)
  show execCodeUnload t.id s = _
  simp only [execCodeUnload, ht, hkind, hready, hcount, hany, bne_self_eq_false, Bool.not_true, Bool.or_self, Bool.false_eq_true,
    if_false, beq_self_eq_true, Bool.and_self, if_true]

theorem exec_codeUnload_unused {o : Obj} (hkind : t.kind = 9) (hcount : t.count = 0) (hrun : t.state = .running)
    (huse : ∀ x ∈ s.tasks, ¬s.launchUses t x) (hobj : s.objOf t.dom (fieldAt t.payload 0 2) = some o) :
    exec (.codeUnload t.id) s = .next (
      let u := ({ s.settleMoves with codegen := s.codegen + 1 } : State).unmapObj o
      ({ u with objs := u.objs.map fun x => if x == o then { x with gone := some (s.codegen + 1) } else x } : State).onTask
        t.id fun t => { t with count := (s.codegen + 1).toNat + 1 }) := by
  have hany := List.any_eq_false.mpr fun x hx h => huse x hx ((s.launchUses_iff t x).mp h)
  show execCodeUnload t.id s = _
  simp only [execCodeUnload, ht, hkind, hready, hcount, hany, bne_self_eq_false, Bool.not_true, Bool.or_self, Bool.false_eq_true,
    if_false, Bool.and_false, s.toRunning_running hrun, hobj, if_true]

end

/-- Settles O49: one lemma for each kind of the keystone's work and each of its ends. -/
theorem keystoneWork : Obligations.KeystoneWork := by
  unfold Obligations.KeystoneWork
  intro s s2 s3 t l o img bs task va ht hready
  refine ⟨exec_copyTask_complete ht hready, exec_signalTask ht hready, exec_waitTask ht hready, exec_recordFenceTask_dropped ht hready,
    exec_recordFenceTask_drop ht hready, exec_journalMark ht hready, exec_selfTestRun ht hready, fun hkind hrun himg => ?_,
    fun hkind hcount => ?_⟩
  · exact ⟨exec_codeLoad_refused ht hready hkind hrun himg, exec_codeLoad_loaded ht hready hkind hrun himg,
      exec_codeLoad_stopped ht hready hkind hrun himg⟩
  · exact ⟨exec_codeUnload_used ht hready hkind hcount, fun hrun huse hobj => exec_codeUnload_unused ht hready hkind hcount hrun huse hobj⟩

end Sys2Proof.Machine

/-! # O50: resets, boot, links and intervals (17 R367, R371, 19 R390, R391, 21 R396 to R401) -/

namespace Sys2Proof.Machine

/-! ### Boot and the links -/

theorem exec_boot {s : State} (hready : s.ready = false) (hrec : s.recovery = false) : exec .boot s = .next (if firmwareOk s.flash = true
    then { s.setLogs with ready := true, image := s.flash } else { s with recovery := true }) := by
  show execBoot s = _
  simp only [execBoot, hready, hrec, Bool.or_self, Bool.false_eq_true, if_false]
  split <;> rfl

theorem exec_boot_done {s : State} (h : s.ready = true ∨ s.recovery = true) : exec .boot s = .next s :=
  if_pos (by simpa using h)

theorem firmwareOk_iff (img : List Byte) : firmwareOk img = true ↔
    BitVec.ofNat 256 (leNat (sha256 (Config.firmwareKey img))) = Config.fusedKeyHash ∧
    Config.slhVerify (Config.firmwareKey img) (Config.firmwareBody img) (Config.firmwareSignature img) = true ∧
    Config.fusedMinVersion.toNat ≤ (Config.firmwareVersion img).toNat := by
  simp only [firmwareOk, Bool.and_eq_true, beq_iff_eq, decide_eq_true_iff, and_assoc]

theorem exec_hostLinkTimeout {s : State} (hup : s.hostUp = false) (hlong : s.hostSince + 1050000000 ≤ s.cycle) :
    exec .hostLinkTimeout s = .next { s with hostDown := 1 } :=
  congrArg Host.Outcome.next <| if_neg <| by
    rw [Bool.or_eq_true, decide_eq_true_iff, hup]
    exact not_or.mpr ⟨Bool.false_ne_true, Nat.not_lt.mpr hlong⟩

theorem exec_hostLinkTimeout_early {s : State} (h : s.hostUp = true ∨ s.cycle < s.hostSince + 1050000000) :
    exec .hostLinkTimeout s = .next s :=
  congrArg Host.Outcome.next <| if_pos <| by
    rw [Bool.or_eq_true, decide_eq_true_iff]
    exact h

theorem exec_tamvanLinkDown {s : State} {port : Nat} (hport : port < 16) (hup : port ∉ s.portsDown) :
    exec (.tamvanLinkDown port) s = .next { s with portsDown := s.portsDown ++ [port] } :=
  congrArg Host.Outcome.next (if_pos ⟨hport, by simpa using hup⟩)

theorem exec_tamvanLinkDown_idle {s : State} {port : Nat} (h : 16 ≤ port ∨ port ∈ s.portsDown) :
    exec (.tamvanLinkDown port) s = .next s :=
  congrArg Host.Outcome.next (if_neg (by simpa [Classical.or_iff_not_imp_left] using h))

/-! ### The energy interval (17 R367, R371) -/

theorem exec_energyInterval {s : State} (hdue : s.shareNum < s.cycle / 1050000) : exec .energyInterval s =
    let total := fun (core : Nat) => ((s.resid.filter fun r => r.core == core).map (·.cycles)).sum
    let charged := s.resid.foldl (fun (u : State) r =>
      u.chargeShare r (Config.staticEnergy r.core * r.cycles / total r.core)) s
    .next { charged with resid := [], shareNum := s.shareNum + 1 } := by
  have hd : s.shareDue = true := decide_eq_true hdue
  show execEnergyInterval s = _
  simp only [execEnergyInterval, hd, Bool.not_true, Bool.false_eq_true, if_false]

theorem exec_energyInterval_early {s : State} (h : s.cycle / 1050000 ≤ s.shareNum) : exec .energyInterval s = .next s := by
  have hd : s.shareDue = false := decide_eq_false (Nat.not_lt.mpr h)
  show execEnergyInterval s = _
  simp only [execEnergyInterval, hd, Bool.not_false, if_true]

section
variable {s : State} {r : Resid}

theorem State.chargeShare_here (n : Nat) (h : ∃ e ∈ s.ctxs, e.2.cid = r.cid ∧ e.2.status ≠ .exited) :
    s.chargeShare r n = { s with ctxs := s.ctxs.map fun e =>
      if e.2.cid == r.cid && e.2.status != .exited then (e.1, e.2.charge n) else e } :=
  if_pos (by simpa [List.any_eq_true] using h)

/-- No resident context is the one charged. -/
theorem not_any_charged (hgone : ∀ e ∈ s.ctxs, e.2.cid = r.cid → e.2.status = .exited) :
    (s.ctxs.any fun e => e.2.cid == r.cid && e.2.status != .exited) = false := by
  simpa [List.any_eq_false] using hgone

theorem State.chargeShare_saved (n : Nat) (hgone : ∀ e ∈ s.ctxs, e.2.cid = r.cid → e.2.status = .exited)
    (hsaved : ∃ g ∈ s.insts, ∃ c ∈ g.images, c.cid = r.cid ∧ c.status ≠ .exited) :
    let share := fun (c : Ctx) => if c.cid == r.cid && c.status != .exited then c.charge n else c
    s.chargeShare r n = { s with insts := s.insts.map fun g => ({ g with images := g.images.map share } : GInst) } := by
  have hany : (s.insts.any fun g => g.images.any fun c => c.cid == r.cid && c.status != .exited) = true := by
    simpa [List.any_eq_true] using hsaved
  simp only [State.chargeShare, not_any_charged hgone, hany, Bool.false_eq_true, if_false, if_true]

theorem State.chargeShare_account (n : Nat) (hgone : ∀ e ∈ s.ctxs, e.2.cid = r.cid → e.2.status = .exited)
    (hnone : ∀ g ∈ s.insts, ∀ c ∈ g.images, c.cid = r.cid → c.status = .exited) :
    let account : Domain := { s.domOf r.dom with energy := (s.domOf r.dom).energy + BitVec.ofNat 64 n }
    s.chargeShare r n = { s with doms := AL.put s.doms r.dom account } := by
  have hany : (s.insts.any fun g => g.images.any fun c => c.cid == r.cid && c.status != .exited) = false := by
    simpa [List.any_eq_false] using hnone
  simp only [State.chargeShare, not_any_charged hgone, hany, Bool.false_eq_true, if_false]

end

/-! ### The counter sample (19 R390, R391) -/

theorem exec_counterSample {s : State} (hdue : s.sampleNum < s.cycle / 1050000000) : exec .counterSample s = .next (
    let u := [0, 1, 2, 3, 4].foldl (fun (u : State) d => u.sampleDie s.samples d)
      { s with samples := s.samples + 1, sampleNum := s.sampleNum + 1 }
    { u with eye := (List.range 16).foldl (fun m p => AL.put m p (Config.eyeMargin s.samples p)) u.eye }) := by
  have hd : s.sampleDue = true := decide_eq_true hdue
  have hdies : List.range 5 = [0, 1, 2, 3, 4] := by decide
  show execCounterSample s = _
  simp only [execCounterSample, hd, Bool.not_true, Bool.false_eq_true, if_false, hdies]

theorem exec_counterSample_early {s : State} (h : s.cycle / 1050000000 ≤ s.sampleNum) : exec .counterSample s = .next s := by
  have hd : s.sampleDue = false := decide_eq_false (Nat.not_lt.mpr h)
  show execCounterSample s = _
  simp only [execCounterSample, hd, Bool.not_false, if_true]

/-- The state with a die's predictions of a sample. -/
def State.predicted (s : State) (n die : Nat) : State := { s with
  hours := AL.put s.hours die (Config.predictedHours n die)
  conf := AL.put s.conf die (BitVec.ofNat 8 (Nat.min (Config.confidence n die).toNat 100))
  limit := AL.put s.limit die (BitVec.ofNat 8 ((Config.limiting n die).toNat % 7))
  driftOf := AL.put s.driftOf die (Config.drift n die) }

/-- An entry of the wear history for a die at a derate. -/
def State.wearEntry (s : State) (die k : Nat) : Wear :=
  ⟨s.cycle, die, AL.get 0 s.hours die, AL.get 0 s.conf die, AL.get 0 s.limit die, k⟩

/-- The wear history after a sample, which grows once an hour. -/
def State.hourlyWear (s : State) (n die : Nat) : List Wear :=
  if n % 3600 = 0 then s.wear ++ [(s.predicted n die).wearEntry die (AL.get 0 s.derate die)] else s.wear

theorem State.hourly_eq (s : State) (n die : Nat) : (if n % 3600 = 0 then (s.predicted n die).addWear die else s.predicted n die) =
    { s.predicted n die with wear := s.hourlyWear n die } := by
  rw [State.hourlyWear]
  split <;> rfl

theorem State.belowLife_predicted (s : State) (n die : Nat) (l : List Wear) (thresh : Nat) :
    ({ s.predicted n die with wear := l } : State).belowLife die thresh = decide ((Config.predictedHours n die).toNat < thresh) := by
  have hfind : AL.find ({ s.predicted n die with wear := l } : State).hours die = some (Config.predictedHours n die) := AL.find_put_same ..
  simp only [State.belowLife, hfind]

theorem State.sampleDie_eq (s : State) (n die : Nat) : s.sampleDie n die =
    if decide ((Config.predictedHours n die).toNat < AL.get 0 s.thresh die) && !s.belowLife die (AL.get 0 s.thresh die) &&
      decide (die < 4) then ({ s.predicted n die with wear := s.hourlyWear n die } : State).derateDie die
    else { s.predicted n die with wear := s.hourlyWear n die } := by
  have hbelow := s.belowLife_predicted n die (s.hourlyWear n die) (AL.get 0 s.thresh die)
  rw [← s.hourly_eq n die] at hbelow ⊢
  rw [← hbelow]
  unfold State.sampleDie
  extract_lets was s1 s2
  have hthresh : AL.get 0 s2.thresh die = AL.get 0 s.thresh die := by
    show AL.get 0 (if n % 3600 = 0 then s1.addWear die else s1).thresh die = _
    split <;> rfl
  rw [hthresh]
  rfl

theorem State.derateDie_eq (s : State) (die : Nat) : s.derateDie die = ({ s with
    derate := AL.set 0 s.derate die (Nat.min (AL.get 0 s.derate die + 1) 2)
    wear := s.wear ++ [s.wearEntry die (Nat.min (AL.get 0 s.derate die + 1) 2)] } : State).errRecord 7 (unitPath die 0 0 0 0) 0 1 0 0 := by
  rw [State.derateDie, State.addWear, AL.get_set_same]
  rfl

/-- Settles O50: resets, boot, the links, the energy interval and the counter sample, one lemma each. -/
theorem packageEvents : Obligations.PackageEvents := by
  unfold Obligations.PackageEvents
  intro s port n die r img
  refine ⟨rfl, exec_boot, exec_boot_done, firmwareOk_iff img, rfl, rfl, exec_hostLinkTimeout, exec_hostLinkTimeout_early,
    exec_tamvanLinkDown, exec_tamvanLinkDown_idle, rfl, exec_energyInterval, exec_energyInterval_early, State.chargeShare_here n,
    State.chargeShare_saved n, State.chargeShare_account n, exec_counterSample, exec_counterSample_early, ?_, rfl⟩
  intro u entry k hourly below
  constructor
  · intro hdie hbelow hwas slower
    have hcond : (decide ((Config.predictedHours n die).toNat < AL.get 0 s.thresh die) && !s.belowLife die (AL.get 0 s.thresh die) &&
        decide (die < 4)) = true := by
      rw [hwas, decide_eq_true hbelow, decide_eq_true hdie]; rfl
    rw [s.sampleDie_eq n die, if_pos hcond, State.derateDie_eq]
    rfl
  · intro h
    have hcond : ¬ (decide ((Config.predictedHours n die).toNat < AL.get 0 s.thresh die) &&
        !s.belowLife die (AL.get 0 s.thresh die) && decide (die < 4)) = true := by
      simp only [Bool.and_eq_true, decide_eq_true_iff, Bool.not_eq_true']
      rintro ⟨⟨hb, hw⟩, hd⟩
      rcases h with h | h | h
      · omega
      · exact h hb
      · rw [h] at hw; cases hw
    rw [s.sampleDie_eq n die, if_neg hcond]
    rfl

end Sys2Proof.Machine

/-! # O51: the mailbox and the registers (21 R403 to R406) -/

namespace Sys2Proof.Machine

/-! ### Commands -/

/-- A command that the mailbox takes: written, its area aligned, within reach and zero where nothing is named. -/
def State.MailOk (s : State) (n : Nat) : Prop := s.mcmd = some (BitVec.ofNat 64 n, false) ∧ s.marg.toNat % 64 = 0 ∧
  s.marg.toNat + areaLen n ≤ s.hostReach ∧ s.areaZero n = true ∧ (s.recovery = false ∨ n = 13)

/-- The work of each command of Table 21-6. -/
def State.mailWork (s : State) (n : Nat) : State :=
  match n with
  | 1 => s.mailQueue
  | 2 => s.mailEntry
  | 3 => s.mailPolicy
  | 4 => s.mailKey
  | 5 => s.mailCancel
  | 6 => s.mailReturn
  | 7 => s.mailDerate
  | 8 => s.mailCounters
  | 9 => s.mailEnergy
  | 10 => s.mailAttest
  | 11 => s.mailHead
  | 12 => s.mailReset
  | _ => s.mailFlash

/-- The checks of the mailbox, in their order. -/
theorem State.mailbox_eq (s : State) (n : Nat) : s.mailbox n = if s.recovery && n != 13 then s.result 2
    else if n = 0 ∨ n > 13 then s.result 1
    else if s.marg.toNat % 64 ≠ 0 ∨ s.marg.toNat + areaLen n > s.hostReach ∨ !s.areaZero n then s.result 1
    else s.mailWork n := rfl

section
variable {s : State} {n : Nat}

/-- The value written to mcmd for a command. -/
theorem toNat_commandCode (hn : n ≤ 13) : (BitVec.ofNat 64 n).toNat = n := by
  rw [BitVec.toNat_ofNat]
  omega

theorem State.command_written (hn : n ≤ 13) (h : s.mcmd = some (BitVec.ofNat 64 n, false)) : s.command n = s.mailbox n := by
  simp only [State.command, h, toNat_commandCode hn, if_true, Bool.false_eq_true, if_false]

theorem State.command_ok (hn : n ≠ 0 ∧ n ≤ 13) (h : s.MailOk n) : s.command n = s.mailWork n := by
  obtain ⟨hcmd, halign, hreach, hzero, hrec⟩ := h
  have hcond : (s.recovery && n != 13) = false := by rcases hrec with h | h <;> simp [h]
  have hbad : ¬(s.marg.toNat % 64 ≠ 0 ∨ s.marg.toNat + areaLen n > s.hostReach ∨ !s.areaZero n) := by
    simp [halign, hzero, Nat.not_lt.mpr hreach]
  rw [State.command_written hn.2 hcmd, State.mailbox_eq, hcond, if_neg Bool.false_ne_true, if_neg (by omega), if_neg hbad]

theorem State.command_other (h : ∀ b, s.mcmd ≠ some (BitVec.ofNat 64 n, b)) : s.command n = s := by
  unfold State.command
  split
  · rename_i v ends hcmd
    refine if_neg fun hv => h ends ?_
    rw [hcmd, ← hv, BitVec.ofNat_toNat, BitVec.setWidth_eq]
  · rfl

theorem State.command_recovery (hn : n ≤ 13 ∧ n ≠ 13) (h : s.mcmd = some (BitVec.ofNat 64 n, false)) (hrec : s.recovery = true) :
    s.command n = s.result 2 := by
  have hcond : (s.recovery && n != 13) = true := by
    rw [hrec, Bool.true_and, bne_iff_ne]; exact hn.2
  rw [State.command_written hn.1 h, State.mailbox_eq, if_pos hcond]

theorem State.command_refused (hn : n ≠ 0 ∧ n ≤ 13) (h : s.mcmd = some (BitVec.ofNat 64 n, false)) (hrec : s.recovery = false ∨ n = 13)
    (hbad : s.marg.toNat % 64 ≠ 0 ∨ s.hostReach < s.marg.toNat + areaLen n ∨ s.areaZero n = false) : s.command n = s.result 1 := by
  have hcond : (s.recovery && n != 13) = false := by rcases hrec with h | h <;> simp [h]
  rw [State.command_written hn.2 h, State.mailbox_eq, hcond, if_neg Bool.false_ne_true, if_neg (by omega),
    if_pos (hbad.imp_right (Or.imp_right fun hz => by rw [hz]; rfl))]

theorem exec_unknownMailboxCommand {code : Nat} {w : BitVec 64} (hcode : code = 0 ∨ 13 < code) (h : s.mcmd = some (w, false))
    (hw : w.toNat = code) : exec (.unknownMailboxCommand code) s =
    .next { s with mresult := if s.recovery then 2 else 1, mcmd := none } := by
  have hcommand : s.command code = s.mailbox code := by
    simp only [State.command, h, hw, if_true, Bool.false_eq_true, if_false]
  have h13 : (code != 13) = true := by simp only [bne_iff_ne]; omega
  show Host.Outcome.next (if 1 ≤ code ∧ code ≤ 13 then s else s.command code) = _
  rw [if_neg (by omega), hcommand, State.mailbox_eq, h13, Bool.and_true, if_pos (show code = 0 ∨ code > 13 from hcode)]
  by_cases hrec : s.recovery = true
  · rw [if_pos hrec, if_pos hrec]; rfl
  · rw [if_neg hrec, if_neg hrec]; rfl

end

/-! ### What a write from outside leaves -/

theorem State.fwWrite_rest (s : State) (pa : Nat) (bs : List Byte) : ∃ p m l l', s.fwWrite pa bs = { s with poison := p, mem := m, l1 := l, l2 := l' } := by
  obtain ⟨l, hl⟩ := s.clearPoison_eq ((List.range bs.length).map fun i => physKey 0 0 (pa + i))
  exact ⟨l, _, _, _, by rw [State.fwWrite, hl]; rfl⟩

theorem State.outsideWrite_rest (s : State) (pa : Nat) (bs : List Byte) :
    ∃ p m l l', s.outsideWrite pa bs = { s with poison := p, mem := m, l1 := l, l2 := l' } := by
  obtain ⟨p, m, l, l', h⟩ := s.fwWrite_rest pa bs
  exact ⟨p, m, l, _, by rw [State.outsideWrite, h]⟩

theorem State.memBytes_outsideWrite (s : State) (pa : Nat) (bs : List Byte) :
    (s.outsideWrite pa bs).memBytes (physKey 0 0 pa) bs.length = bs := by
  obtain ⟨l, hl⟩ := s.clearPoison_eq ((List.range bs.length).map fun i => physKey 0 0 (pa + i))
  have h := ({ s with poison := l } : State).memBytes_memWrite (physKey 0 0 pa) bs
  rw [← hl] at h
  exact h

theorem State.memBytes_append (s : State) {k : Nat} {bs cs : List Byte} (h : s.memBytes k (bs ++ cs).length = bs ++ cs) :
    s.memBytes k bs.length = bs := by
  have htake := congrArg (List.take bs.length) h
  rw [List.take_left] at htake
  refine Eq.trans ?_ htake
  rw [State.memBytes, State.memBytes, ← List.map_take, List.take_range, List.length_append, Nat.min_eq_left (Nat.le_add_right ..)]

/-! ### The commands (21 R405, R406) -/

section
variable {s : State} (hok : s.MailOk 1) (hq : s.arg 0 1 ≤ 63) (hdom : s.arg 17 1 ≤ 63) (hzero : s.arg 19 1 = 0) (hzero' : s.arg 28 12 = 0)
  (hidle : ∀ t ∈ s.tasks, t.queue = s.arg 0 1 → t.state.ended = true)
include hok hq hdom hzero hzero' hidle

/-- A queue whose state is well formed is put in place, disabled where its base or size does not serve. -/
theorem exec_configureQueue {x : QueueSt} (hen : s.arg 18 1 ≤ 1)
    (hsize : s.arg 16 1 < 8 ∨ 20 < s.arg 16 1 ∨ s.arg 8 8 + 16 * 2 ^ s.arg 16 1 ≤ 2 ^ 39)
    (hx : (⟨s.arg 8 8, s.arg 16 1, s.arg 17 1, s.arg 18 1 == 1 && s.arg 8 8 % 4096 == 0 && decide (8 ≤ s.arg 16 1) &&
      decide (s.arg 16 1 ≤ 20), s.arg 24 4, s.arg 24 4⟩ : QueueSt) = x) :
    exec .configureQueue s = .next (({ s with
      queues := AL.put s.queues (s.arg 0 1) x
      launchQ := s.launchQ.map fun p => if p.queue == s.arg 0 1 then { p with place := none } else p } : State).answer 40 x.bytes) := by
  have hbusy : (s.tasks.any fun t => t.queue == s.arg 0 1 && !t.state.ended) = false := by simpa [List.any_eq_false] using hidle
  have hbad : ¬(s.arg 0 1 > 63 ∨ s.arg 17 1 > 63 ∨ s.arg 18 1 > 1 ∨ s.arg 19 1 ≠ 0 ∨ s.arg 28 12 ≠ 0 ∨
      (8 ≤ s.arg 16 1 ∧ s.arg 16 1 ≤ 20 ∧ s.arg 8 8 + 16 * 2 ^ s.arg 16 1 > 2 ^ 39)) := by omega
  subst hx
  show Host.Outcome.next (s.command 1) = _
  rw [State.command_ok (by decide) hok]
  simp only [State.mailWork, State.mailQueue, if_neg hbad, hbusy, Bool.false_eq_true, false_and, if_false]

end

theorem State.result_eq (s : State) (r : Nat) : s.result r = { s with mresult := BitVec.ofNat 8 r, mcmd := none } := rfl

theorem exec_changePageEntry {s : State} (hok : s.MailOk 2) (hdom : s.arg 0 1 ≤ 63) (hlevel : s.arg 1 1 ≤ 4) (hva : s.arg 8 8 < 2 ^ 57)
    (hleaf : s.arg 16 8 % 2 = 0 ∨ (s.arg 1 1 ≤ 2 ∧ s.arg 16 8 / 2 % 2 = 1)) (hroom : s.pathRoom (s.arg 0 1) (s.arg 1 1) (s.arg 8 8) = true) :
    exec .changePageEntry s = .next (s.startEntry (s.arg 0 1) (s.arg 1 1) (s.arg 8 8) (BitVec.ofNat 64 (s.arg 16 8))) := by
  have hbit : ∀ i < 64, (BitVec.ofNat 64 (s.arg 16 8)).getLsbD i = decide (s.arg 16 8 / 2 ^ i % 2 = 1) := fun i hi => by
    rw [BitVec.getLsbD_ofNat, Nat.testBit_eq_decide_div_mod_eq, decide_eq_true hi, Bool.true_and]
  have hbad : ¬(s.arg 0 1 > 63 ∨ s.arg 1 1 > 4 ∨ s.arg 8 8 ≥ 2 ^ 57 ∨ ((BitVec.ofNat 64 (s.arg 16 8)).getLsbD 0 &&
      (decide (s.arg 1 1 > 2) || !(BitVec.ofNat 64 (s.arg 16 8)).getLsbD 1))) := by
    rw [hbit 0 (by decide), hbit 1 (by decide)]
    simp only [Bool.and_eq_true, Bool.or_eq_true, Bool.not_eq_true', decide_eq_true_iff, decide_eq_false_iff_not]
    omega
  show Host.Outcome.next (s.command 2) = _
  rw [State.command_ok (by decide) hok]
  simp only [State.mailWork, State.mailEntry, if_neg hbad, hroom, Bool.not_true, Bool.false_eq_true, if_false]

theorem State.startEntry_spec (s : State) (dom level va : Nat) (e : W64) (hcmd : s.mcmd = some (2, false)) :
    let p := (s.settleMoves.rootOf dom).1.pathTo dom va level (s.settleMoves.rootOf dom).2 walkLevels
    (s.startEntry dom level va e).mcmd = some (2, true) ∧ (s.startEntry dom level va e).backing = p.1.backing ++ [(dom, level, va, e)] ∧
      (s.startEntry dom level va e).memBytes (physKey 0 0 (s.marg.toNat + 24)) 8 = natLe 8 (p.1.entryAt p.2).toNat := by
  intro p
  refine ⟨congrArg (Option.map _) hcmd, ?_, ?_⟩
  · obtain ⟨_, _, _, _, h⟩ := p.1.outsideWrite_rest (s.marg.toNat + 24) (natLe 8 (p.1.entryAt p.2).toNat)
    show (p.1.outsideWrite _ _).backing ++ _ = _
    rw [h]
  · have h := p.1.memBytes_outsideWrite (s.marg.toNat + 24) (natLe 8 (p.1.entryAt p.2).toNat)
    rwa [length_natLe] at h

theorem exec_changePageEntry_end {s : State} (h : s.mcmd = some (2, true)) : exec .changePageEntry s = .next s.endEntry := by
  show Host.Outcome.next (s.command 2) = _
  rw [State.command, h]
  rfl

section
variable {s : State}

theorem exec_placementPolicy (hok : s.MailOk 3) (hdom : s.arg 0 1 ≤ 63) (hdies : s.arg 1 1 ≤ 15) (hexcl : s.arg 2 1 ≤ 3) :
    exec .placementPolicy s = .next (({ s with
      doms := AL.put s.doms (s.arg 0 1) { s.domOf (s.arg 0 1) with dies := BitVec.ofNat 4 (s.arg 1 1), excl := BitVec.ofNat 2 (s.arg 2 1) }
    } : State).result 0) := by
  show Host.Outcome.next (s.command 3) = _
  rw [State.command_ok (by decide) hok]
  exact congrArg Host.Outcome.next (if_neg (by omega))

theorem exec_registerCodeKey (hok : s.MailOk 4) (hdom : s.arg 0 1 ≤ 63) (hobjs : ∀ o ∈ s.objs, o.dom = s.arg 0 1 → o.gone ≠ none) :
    exec .registerCodeKey s = .next (({ s with
      doms := AL.put s.doms (s.arg 0 1) { s.domOf (s.arg 0 1) with key := some (s.area 8 32) } } : State).result 0) := by
  have hnone : (s.objs.any fun o => o.dom == s.arg 0 1 && o.gone.isNone) = false := by simpa [List.any_eq_false] using hobjs
  show Host.Outcome.next (s.command 4) = _
  rw [State.command_ok (by decide) hok]
  simp only [State.mailWork, State.mailKey, if_neg (Nat.not_lt.mpr hdom), hnone, Bool.false_eq_true, if_false]

theorem exec_cancelTask {t : Task} (hok : s.MailOk 5) (hq : s.arg 0 1 ≤ 63)
    (ht : (s.tasks.find? fun t => t.queue == s.arg 0 1 && t.tag == BitVec.ofNat 32 (s.arg 4 4) && !t.state.ended) = some t) :
    exec .cancelTask s = .next ((s.cancelTask t).result 0) := by
  show Host.Outcome.next (s.command 5) = _
  rw [State.command_ok (by decide) hok]
  simp only [State.mailWork, State.mailCancel, if_neg (Nat.not_lt.mpr hq), ht]

theorem exec_cancelTask_none (hok : s.MailOk 5) (hq : s.arg 0 1 ≤ 63)
    (hnone : ∀ t ∈ s.tasks, t.queue = s.arg 0 1 → t.tag = BitVec.ofNat 32 (s.arg 4 4) → t.state.ended = true) :
    exec .cancelTask s = .next (s.result 3) := by
  have ht : (s.tasks.find? fun t => t.queue == s.arg 0 1 && t.tag == BitVec.ofNat 32 (s.arg 4 4) && !t.state.ended) = none := by
    simpa [List.find?_eq_none] using hnone
  show Host.Outcome.next (s.command 5) = _
  rw [State.command_ok (by decide) hok]
  simp only [State.mailWork, State.mailCancel, if_neg (Nat.not_lt.mpr hq), ht]

theorem exec_returnWithdrawn (hok : s.MailOk 6) (hdie : s.arg 0 1 ≤ 3) (hspan : s.arg 1 1 ≤ 11 ∨ s.arg 1 1 = 255) :
    exec .returnWithdrawn s = .next (({ s with withdrawn := s.withdrawn.filter fun w =>
      !(w.1 == s.arg 0 1 && (s.arg 1 1 == 255 || w.2 == s.arg 1 1)) } : State).result 0) := by
  show Host.Outcome.next (s.command 6) = _
  rw [State.command_ok (by decide) hok]
  exact congrArg Host.Outcome.next (if_neg (by omega))

theorem exec_setDerate_end (hok : s.MailOk 7) (hdie : s.arg 0 1 ≤ 3) (hact : s.arg 1 1 = 1) :
    exec .setDerate s = .next (({ s with derate := AL.set 0 s.derate (s.arg 0 1) 0 } : State).result 0) := by
  show Host.Outcome.next (s.command 7) = _
  rw [State.command_ok (by decide) hok]
  exact congrArg Host.Outcome.next ((if_neg (by omega)).trans (if_pos hact))

theorem exec_setDerate_threshold (hok : s.MailOk 7) (hdie : s.arg 0 1 ≤ 3) (hact : s.arg 1 1 = 0) :
    exec .setDerate s = .next (
      (if s.belowLife (s.arg 0 1) (s.arg 4 4) && !s.belowLife (s.arg 0 1) (AL.get 0 s.thresh (s.arg 0 1))
        then ({ s with thresh := AL.set 0 s.thresh (s.arg 0 1) (s.arg 4 4) } : State).derateDie (s.arg 0 1)
        else { s with thresh := AL.set 0 s.thresh (s.arg 0 1) (s.arg 4 4) }).result 0) := by
  show Host.Outcome.next (s.command 7) = _
  rw [State.command_ok (by decide) hok]
  exact congrArg Host.Outcome.next ((if_neg (by omega)).trans (if_neg (by omega)))

/-- A read of counters of some group. -/
theorem exec_readCounters (hok : s.MailOk 8) (hunit : s.arg 0 1 ≤ 4) (hgrp : s.arg 1 1 ≤ 3)
    (hcount : s.arg 1 1 = 0 ∨ (1 ≤ s.arg 8 4 ∧ s.arg 8 4 ≤ 240)) : exec .readCounters s = .next (
    let l := (List.range (s.arg 8 4)).map (s.arg 4 4 + ·)
    match s.arg 1 1 with
    | 0 => s.answer 64 (natLe 4 (AL.get 0 s.hours (s.arg 0 1)).toNat ++ natLe 1 (AL.get 0 s.conf (s.arg 0 1)).toNat ++
        natLe 1 (AL.get 0 s.limit (s.arg 0 1)).toNat ++ natLe 2 (AL.get 0 s.driftOf (s.arg 0 1)).toNat ++ natLe 4 (s.clockOf (s.arg 0 1)))
    | 1 =>
      if s.arg 0 1 = 4 ∨ s.arg 4 4 + s.arg 8 4 > 2 ^ 19 then s.result 1
      else s.answer 64 (l.flatMap fun i => natLe 4 (AL.get 0 s.dramCnt (unitPath (s.arg 0 1) 0 0 12 i).toNat))
    | 2 =>
      if s.arg 4 4 + s.arg 8 4 > 2 ^ 32 then s.result 1 else s.answer 64 (l.flatMap fun i => natLe 4 (AL.get 0 s.sramCnt i))
    | _ =>
      if s.arg 0 1 ≠ 4 ∨ s.arg 4 4 + s.arg 8 4 > 16 then s.result 1
      else s.answer 64 (l.flatMap fun p => natLe 1 (AL.get 0 s.eye p).toNat ++ natLe 1 0 ++ natLe 2 (AL.get 0 s.retrains p) ++
        natLe 4 (AL.get 0 s.retries p))) := by
  show Host.Outcome.next (s.command 8) = _
  rw [State.command_ok (by decide) hok]
  exact congrArg Host.Outcome.next (if_neg (by omega))

theorem exec_readCounters_prediction (hok : s.MailOk 8) (hunit : s.arg 0 1 ≤ 4) (hgrp : s.arg 1 1 = 0) : exec .readCounters s = .next
    (s.answer 64 (natLe 4 (AL.get 0 s.hours (s.arg 0 1)).toNat ++ natLe 1 (AL.get 0 s.conf (s.arg 0 1)).toNat ++
      natLe 1 (AL.get 0 s.limit (s.arg 0 1)).toNat ++ natLe 2 (AL.get 0 s.driftOf (s.arg 0 1)).toNat ++ natLe 4 (s.clockOf (s.arg 0 1)))) := by
  rw [exec_readCounters hok hunit (by omega) (.inl hgrp), hgrp]
  rfl

theorem exec_readCounters_dram (hok : s.MailOk 8) (hunit : s.arg 0 1 ≤ 3) (hgrp : s.arg 1 1 = 1) (hlow : 1 ≤ s.arg 8 4)
    (hhigh : s.arg 8 4 ≤ 240) (hrange : s.arg 4 4 + s.arg 8 4 ≤ 2 ^ 19) : exec .readCounters s = .next (s.answer 64
      (((List.range (s.arg 8 4)).map (s.arg 4 4 + ·)).flatMap fun i => natLe 4 (AL.get 0 s.dramCnt (unitPath (s.arg 0 1) 0 0 12 i).toNat))) := by
  rw [exec_readCounters hok (by omega) (by omega) (.inr ⟨hlow, hhigh⟩), hgrp]
  exact congrArg Host.Outcome.next (if_neg (by omega))

theorem exec_readCounters_sram (hok : s.MailOk 8) (hunit : s.arg 0 1 ≤ 4) (hgrp : s.arg 1 1 = 2) (hlow : 1 ≤ s.arg 8 4)
    (hhigh : s.arg 8 4 ≤ 240) (hrange : s.arg 4 4 + s.arg 8 4 ≤ 2 ^ 32) : exec .readCounters s = .next (s.answer 64
      (((List.range (s.arg 8 4)).map (s.arg 4 4 + ·)).flatMap fun i => natLe 4 (AL.get 0 s.sramCnt i))) := by
  rw [exec_readCounters hok hunit (by omega) (.inr ⟨hlow, hhigh⟩), hgrp]
  exact congrArg Host.Outcome.next (if_neg (by omega))

theorem exec_readCounters_ports (hok : s.MailOk 8) (hunit : s.arg 0 1 = 4) (hgrp : s.arg 1 1 = 3) (hlow : 1 ≤ s.arg 8 4)
    (hrange : s.arg 4 4 + s.arg 8 4 ≤ 16) : exec .readCounters s = .next (s.answer 64
      (((List.range (s.arg 8 4)).map (s.arg 4 4 + ·)).flatMap fun p => natLe 1 (AL.get 0 s.eye p).toNat ++ natLe 1 0 ++
        natLe 2 (AL.get 0 s.retrains p) ++ natLe 4 (AL.get 0 s.retries p))) := by
  rw [exec_readCounters hok (by omega) (by omega) (.inr ⟨hlow, by omega⟩), hgrp]
  exact congrArg Host.Outcome.next (if_neg (by omega))

theorem exec_readEnergyAccount (hok : s.MailOk 9) (hdom : s.arg 0 1 ≤ 63) : exec .readEnergyAccount s =
    .next (s.answer 8 (natLe 8 (s.domOf (s.arg 0 1)).energy.toNat ++ natLe 8 (s.domOf (s.arg 0 1)).sat)) := by
  show Host.Outcome.next (s.command 9) = _
  rw [State.command_ok (by decide) hok]
  exact congrArg Host.Outcome.next (if_neg (by omega))

theorem exec_attestationReport (hok : s.MailOk 10) : exec .attestationReport s =
    .next (s.answer 64 (s.reportBody ++ sliceBytes (Config.deviceSign s.reportBody) 0 7856)) :=
  congrArg Host.Outcome.next (State.command_ok (by decide) hok)

theorem exec_readQueueHead {x : QueueSt} (hok : s.MailOk 11) (hq : s.arg 0 1 ≤ 63) (hx : s.queue (s.arg 0 1) = some x) :
    exec .readQueueHead s = .next (s.answer 8 (natLe 4 x.head ++ natLe 4 x.tail)) := by
  show Host.Outcome.next (s.command 11) = _
  rw [State.command_ok (by decide) hok]
  simp only [State.mailWork, State.mailHead, if_neg (Nat.not_lt.mpr hq), hx, Option.getD_some]

theorem exec_resetCommand (hok : s.MailOk 12) (hword : s.arg 0 8 = 0x52455345) : exec .resetCommand s = .next s.packageReset := by
  show Host.Outcome.next (s.command 12) = _
  rw [State.command_ok (by decide) hok, State.mailWork, State.mailReset, if_pos hword]

theorem exec_writeFirmware (hok : s.MailOk 13) (hreach : s.arg 0 8 + s.arg 8 8 ≤ s.hostReach) : exec .writeFirmware s = .next (
    if firmwareOk (s.freshBytes (s.arg 0 8) (s.arg 8 8)) = true
      then ({ s with flash := s.freshBytes (s.arg 0 8) (s.arg 8 8) } : State).result 0 else s.result 2) := by
  show Host.Outcome.next (s.command 13) = _
  rw [State.command_ok (by decide) hok]
  show Host.Outcome.next s.mailFlash = _
  rw [State.mailFlash]
  exact congrArg Host.Outcome.next (if_neg (Nat.not_lt.mpr hreach))

end

/-! ### The register window (21 R403) -/

section
variable {s : State} {off : Nat} {v : BitVec 64}

theorem exec_registerWrite_closed (h : s.hostUp = false ∨ (s.ready = false ∧ s.recovery = false)) :
    exec (.registerWrite off v) s = .next s := by
  refine if_pos ?_
  rcases h with h | ⟨h, h'⟩
  · rw [h]; rfl
  · rw [h, h', Bool.not_false, Bool.and_self, Bool.or_true]

variable (hup : s.hostUp = true) (hopen : s.ready = true ∨ s.recovery = true)
include hup hopen

/-- A write to an open window goes to the register of its offset. -/
theorem exec_registerWrite_open : exec (.registerWrite off v) s =
    if off = 0x400 then .next (s.mcmdWrite v)
    else if off = 0x408 then .next { s with marg := v }
    else if 0x100 ≤ off ∧ off < 0x300 ∧ off % 8 = 0 then .next (s.tailWrite ((off - 0x100) / 8) v)
    else .next s := by
  refine if_neg ?_
  rw [hup]
  rcases hopen with h | h <;> simp [h]

theorem exec_registerWrite_mcmd (hfree : s.mcmd = none) :
    exec (.registerWrite 0x400 v) s = .next { s with mcmd := some (v, false) } := by
  rw [exec_registerWrite_open hup hopen, if_pos rfl, State.mcmdWrite, hfree]
  rfl

theorem exec_registerWrite_busy (hbusy : s.mcmd ≠ none) : exec (.registerWrite 0x400 v) s = .next s := by
  rw [exec_registerWrite_open hup hopen, if_pos rfl, State.mcmdWrite, if_pos (Option.isSome_iff_ne_none.mpr hbusy)]

theorem exec_registerWrite_marg : exec (.registerWrite 0x408 v) s = .next { s with marg := v } := by
  rw [exec_registerWrite_open hup hopen]
  rfl

theorem exec_registerWrite_tail (hoff : off < 64) : exec (.registerWrite (0x100 + 8 * off) v) s = .next (s.tailWrite off v) := by
  have hq : (0x100 + 8 * off - 0x100) / 8 = off := by omega
  rw [exec_registerWrite_open hup hopen, if_neg (by omega), if_neg (by omega), if_pos (by omega), hq]

theorem exec_registerWrite_reserved (hoff : off < 0x100 ∨ 0x300 ≤ off ∨ off % 8 ≠ 0) (hcmd : off ≠ 0x400) (harg : off ≠ 0x408) :
    exec (.registerWrite off v) s = .next s := by
  rw [exec_registerWrite_open hup hopen, if_neg hcmd, if_neg harg, if_neg (by omega)]

end

theorem State.registerRead_mstat (s : State) :
    (s.registerRead 0x410).toNat = s.mresult.toNat * 256 + (if s.mcmd = none then 0 else 1) := by
  have hbusy : (if s.mcmd.isSome then 1 else 0) = if s.mcmd = none then 0 else 1 := by cases s.mcmd <;> rfl
  have hword : s.registerRead 0x410 = BitVec.ofNat 64 (s.mresult.toNat * 256 + if s.mcmd.isSome then 1 else 0) := rfl
  have hlt := s.mresult.isLt
  rw [hword, BitVec.toNat_ofNat, hbusy]
  split <;> omega

theorem State.registerRead_status (s : State) :
    (s.registerRead 8).getLsbD 0 = s.ready ∧ (s.registerRead 8).getLsbD 1 = s.recovery := by
  have hdead : ∃ m, ((List.range 4).map fun d => if s.withdrawn.contains (d, 255) then 2 ^ (4 + d) else 0).sum = 4 * m := by
    have hdvd := List.dvd_sum (a := 4) (l := (List.range 4).map fun d => if s.withdrawn.contains (d, 255) then 2 ^ (4 + d) else 0) ?_
    · exact hdvd
    · intro x hx
      obtain ⟨d, -, rfl⟩ := List.mem_map.mp hx
      split
      · exact Dvd.dvd.trans (by decide : 4 ∣ 2 ^ 4) (pow_dvd_pow 2 (Nat.le_add_right 4 d))
      · exact dvd_zero 4
  obtain ⟨m, hm⟩ := hdead
  have hword : s.registerRead 8 = BitVec.ofNat 64 ((if s.ready then 1 else 0) + (if s.recovery then 2 else 0) +
      (if s.derate.isEmpty then 0 else 4) + 4 * m) := hm ▸ rfl
  rw [hword, BitVec.getLsbD_ofNat, BitVec.getLsbD_ofNat, Nat.testBit_eq_decide_div_mod_eq, Nat.testBit_eq_decide_div_mod_eq]
  cases s.ready <;> cases s.recovery <;> cases s.derate.isEmpty <;> simp <;> omega

theorem State.registerRead_tail {s : State} {off : Nat} {x : QueueSt} (hoff : off < 64) (hq : s.queue off = some x) (htail : x.tail < 2 ^ 32) :
    (s.registerRead (0x100 + 8 * off)).toNat = x.tail := by
  have hnum : (0x100 + 8 * off - 0x100) / 8 = off := by omega
  rw [State.registerRead, if_neg (by omega), if_neg (by omega), if_neg (by omega), if_neg (by omega), if_neg (by omega), if_pos (by omega),
    hnum, hq]
  show (BitVec.ofNat 64 x.tail).toNat = _
  rw [BitVec.toNat_ofNat, Nat.mod_eq_of_lt (by omega)]

/-! ### The obligation -/

theorem State.answer_queues (s : State) (off : Nat) (bs : List Byte) : (s.answer off bs).queues = s.queues := by
  obtain ⟨_, _, _, _, h⟩ := s.outsideWrite_rest (s.marg.toNat + off) bs
  show (s.outsideWrite _ _).queues = _
  rw [h]

theorem State.answer_mem (s : State) (off : Nat) (bs : List Byte) :
    (s.answer off bs).mem = (s.outsideWrite (s.marg.toNat + off) bs).mem := rfl

theorem State.memBytes_of_mem {s u : State} (h : u.mem = s.mem) (k n : Nat) : u.memBytes k n = s.memBytes k n := by
  simp only [State.memBytes, State.memByte, h]

theorem State.memBytes_answer_queue (s : State) (x : QueueSt) :
    (s.answer 40 x.bytes).memBytes (physKey 0 0 (s.marg.toNat + 40)) 8 = natLe 8 (x.base / 4096 * 4096) := by
  have hbytes : x.bytes = natLe 8 (x.base / 4096 * 4096) ++ (natLe 1 x.lsize ++ natLe 1 x.dom ++ natLe 1 (if x.enable then 1 else 0) ++
      natLe 1 0 ++ natLe 4 x.head ++ natLe 4 x.tail ++ natLe 12 0) := by
    simp only [QueueSt.bytes, List.append_assoc]
  have h := s.memBytes_outsideWrite (s.marg.toNat + 40) x.bytes
  rw [hbytes] at h
  have h8 := State.memBytes_append _ h
  rw [length_natLe, ← hbytes] at h8
  exact (State.memBytes_of_mem (s.answer_mem 40 x.bytes) _ _).trans h8

/-- The commands of the mailbox and their instructions. -/
def mailCommands : List (Nat × Instr) := [(1, .configureQueue), (2, .changePageEntry), (3, .placementPolicy), (4, .registerCodeKey),
  (5, .cancelTask), (6, .returnWithdrawn), (7, .setDerate), (8, .readCounters), (9, .readEnergyAccount),
  (10, .attestationReport), (11, .readQueueHead), (12, .resetCommand), (13, .writeFirmware)]

theorem exec_mailCommand (s : State) : ∀ c ∈ mailCommands, exec c.2 s = .next (s.command c.1) := by
  simp only [mailCommands, List.forall_mem_cons]
  exact ⟨rfl, rfl, rfl, rfl, rfl, rfl, rfl, rfl, rfl, rfl, rfl, rfl, rfl, fun _ h => absurd h List.not_mem_nil⟩

theorem mailCommand_number : ∀ c ∈ mailCommands, c.1 ≠ 0 ∧ c.1 ≤ 13 := by
  simp only [mailCommands, List.forall_mem_cons]
  exact ⟨by decide, by decide, by decide, by decide, by decide, by decide, by decide, by decide, by decide, by decide, by decide,
    by decide, by decide, fun _ h => absurd h List.not_mem_nil⟩

/-- Settles O51: each command of the mailbox and each register, one lemma each. -/
theorem mailboxAndRegisters : Obligations.MailboxAndRegisters := by
  unfold Obligations.MailboxAndRegisters
  intro s off code v w cmds ok result answer q b1 d
  have hcommand : ∀ c ∈ cmds, exec c.2 s = .next (s.command c.1) := exec_mailCommand s
  refine ⟨?_, ?_, ?_, exec_changePageEntry_end, exec_placementPolicy, exec_registerCodeKey, fun t => exec_cancelTask, exec_cancelTask_none,
    exec_returnWithdrawn, exec_setDerate_end, ?_, ?_, exec_readEnergyAccount, exec_attestationReport, fun x => exec_readQueueHead,
    exec_resetCommand, exec_writeFirmware, ?_, ?_, fun hcode h hw => exec_unknownMailboxCommand hcode h hw, rfl, fun hup hopen =>
      ⟨exec_registerWrite_mcmd hup hopen, exec_registerWrite_busy hup hopen, exec_registerWrite_marg hup hopen,
        exec_registerWrite_tail hup hopen, exec_registerWrite_reserved hup hopen⟩,
    exec_registerWrite_closed, ⟨rfl, rfl, s.registerRead_mstat, s.registerRead_status⟩, fun x => State.registerRead_tail⟩
  · intro hok hq hdom hen hz hz' hbase hlow hhigh hfit hidle
    have hx : (⟨s.arg 8 8, s.arg 16 1, s.arg 17 1, s.arg 18 1 == 1 && s.arg 8 8 % 4096 == 0 && decide (8 ≤ s.arg 16 1) &&
        decide (s.arg 16 1 ≤ 20), s.arg 24 4, s.arg 24 4⟩ : QueueSt) = ⟨s.arg 8 8, s.arg 16 1, s.arg 17 1, true, s.arg 24 4, s.arg 24 4⟩ := by
      simp only [hen, hbase, hlow, hhigh, decide_true, beq_self_eq_true, Bool.and_self]
    refine ⟨_, exec_configureQueue hok hq hdom hz hz' hidle (by omega) (.inr (.inr hfit)) hx, rfl, rfl, ?_⟩
    exact (congrArg (AL.find · q) (State.answer_queues ..)).trans (AL.find_put_same s.queues _ _)
  · intro hok hq hdom hen hz hz' hbase hfit hidle
    refine ⟨_, _, exec_configureQueue hok hq hdom hz hz' hidle hen hfit rfl, rfl, rfl,
      (congrArg (AL.find · q) (State.answer_queues ..)).trans (AL.find_put_same s.queues _ _), ?_, State.memBytes_answer_queue _ _⟩
    simp only [beq_eq_false_iff_ne.mpr hbase, Bool.and_false, Bool.false_and]
  · intro hok hdom hlevel hva hleaf hroom r p
    exact ⟨_, exec_changePageEntry hok hdom hlevel hva hleaf hroom, s.startEntry_spec _ _ _ _ hok.1⟩
  · intro h u hok hdie hact
    refine ⟨fun hb hw => ?_, fun hb => ?_⟩
    · rw [exec_setDerate_threshold hok hdie hact, if_pos (by rw [hb, hw]; rfl)]
      rfl
    · rw [exec_setDerate_threshold hok hdie hact, if_neg ?_]
      · rfl
      · rcases hb with hb | hb <;> rw [hb] <;> simp
  · intro first n l hok
    exact ⟨exec_readCounters_prediction hok, exec_readCounters_dram hok, exec_readCounters_sram hok, exec_readCounters_ports hok⟩
  · intro c hc h
    rw [hcommand c hc, State.command_other h]
  · intro c hc h
    have hn := mailCommand_number c hc
    refine ⟨fun hrec h13 => ?_, fun hrec hbad => ?_⟩
    · rw [hcommand c hc, State.command_recovery ⟨hn.2, h13⟩ h hrec]
      rfl
    · rw [hcommand c hc, State.command_refused hn h hrec hbad]
      rfl

end Sys2Proof.Machine

/-! # O52: trap entry and return (05 R138, 06 R163, R165, 19 R374 to R378) -/

namespace Sys2Proof.Machine

/-! ### Taking a trap -/

/-- The context that a trap sends to its handler. -/
def Ctx.toHandler (c : Ctx) (handler : CodePos) (cap : Capture) : Ctx := { c with
  capture := some cap, pend := [], loops := [], rep := none, pc := handler, held := false, pendTrap := none
  late := false, arrived := none, released := none, swWait := none, swRel := none, swKey := none, refault := none }

/-- The trap record is written, or there is no buffer for it. -/
def State.Recorded (s : State) (a : Nat) (c : Ctx) (r : TrapRec) (s0 : State) : Prop :=
  (c.trapbuf = 0 ∧ s0 = s) ∨ (c.trapbuf ≠ 0 ∧ s.writeRecord a c r = .ok s0 ())

section
variable {s s0 s1 : State} {a : Nat} {c : Ctx} {r : TrapRec} {l : List TOp} {again : Bool} {f : MFault} (hc : s.ctx a = some c)
include hc

theorem State.takeTrap_abort (h : (c.capture.isSome && !again) = true ∨ c.tvec = 0) :
    s.takeTrap a r l again = (s.failOps c.pd.toNat l).abortInst c.task c.inst (some a) r := by
  simp only [State.takeTrap, hc]
  rcases h with h | h
  · rw [if_pos h]
  · rw [if_pos h, ite_self]

variable (hcap : (c.capture.isSome && !again) = false) (htvec : c.tvec ≠ 0)
include hcap htvec

theorem State.takeTrap_unwritten (hbuf : c.trapbuf ≠ 0) (h : s.writeRecord a c r = .fault f) :
    s.takeTrap a r l again = (s.failOps c.pd.toNat l).abortInst c.task c.inst (some a) r := by
  simp only [State.takeTrap, hc, hcap, Bool.false_eq_true, if_false, if_neg htvec, if_neg hbuf, h]

theorem State.takeTrap_waits (hbuf : c.trapbuf ≠ 0) (h : s.writeRecord a c r = .wait) : s.takeTrap a r l again = s := by
  simp only [State.takeTrap, hc, hcap, Bool.false_eq_true, if_false, if_neg htvec, if_neg hbuf, h]

variable (hw : s.Recorded a c r s0)
include hw

/-- The instance aborts with a cause of the handler's, its record written. -/
def State.handlerFails (s0 : State) (a : Nat) (c : Ctx) (r : TrapRec) (l : List TOp) (cause : Nat) (aux : W64) (fa : Nat) (u : BitVec 32) :
    State :=
  (s0.failOps c.pd.toNat l).abortInst c.task c.inst (some a)
    { r with info := { cause := cause, aux := aux, faddr := BitVec.ofNat 64 fa, slots := r.info.slots, unit := u } }

theorem State.takeTrap_recorded : s.takeTrap a r l again =
    if c.tvec.extractLsb' 60 4 ≠ 0 then s0.handlerFails a c r l 5 c.tvec 0 (seqUnit a)
    else match s0.target a (CodePos.ofWord c.tvec) with
      | .fault f => s0.handlerFails a c r l f.cause (BitVec.ofNat 64 f.aux) f.faddr f.unit
      | .wait => s
      | .ok _ false => s0.handlerFails a c r l 5 c.tvec 0 (seqUnit a)
      | .ok s2 true => s2.onCtx a fun d => d.toHandler (CodePos.ofWord c.tvec) (match d.capture with
        | some k => { k with replay := l, pend := k.pend ++ d.pend }
        | none => ⟨d.pend, r.resume, d.rep, d.loops, l, s2.nextId, d.nextTile, d.arrived, d.released⟩) := by
  simp only [State.takeTrap, hc, hcap, Bool.false_eq_true, if_false, if_neg htvec]
  rcases hw with ⟨hbuf, rfl⟩ | ⟨hbuf, hw⟩
  · simp only [if_pos hbuf]
    rfl
  · simp only [if_neg hbuf, hw]
    rfl

theorem State.takeTrap_mode (hmode : c.tvec.extractLsb' 60 4 ≠ 0) :
    s.takeTrap a r l again = s0.handlerFails a c r l 5 c.tvec 0 (seqUnit a) := by
  rw [State.takeTrap_recorded hc hcap htvec hw, if_pos hmode]

variable (hmode : c.tvec.extractLsb' 60 4 = 0)
include hmode

theorem State.takeTrap_illegal (h : s0.target a (CodePos.ofWord c.tvec) = .ok s1 false) :
    s.takeTrap a r l again = s0.handlerFails a c r l 5 c.tvec 0 (seqUnit a) := by
  rw [State.takeTrap_recorded hc hcap htvec hw, if_neg (not_not.mpr hmode), h]

theorem State.takeTrap_unreached (h : s0.target a (CodePos.ofWord c.tvec) = .fault f) :
    s.takeTrap a r l again = s0.handlerFails a c r l f.cause (BitVec.ofNat 64 f.aux) f.faddr f.unit := by
  rw [State.takeTrap_recorded hc hcap htvec hw, if_neg (not_not.mpr hmode), h]

theorem State.takeTrap_handlerWaits (h : s0.target a (CodePos.ofWord c.tvec) = .wait) : s.takeTrap a r l again = s := by
  rw [State.takeTrap_recorded hc hcap htvec hw, if_neg (not_not.mpr hmode), h]

variable (ht : s0.target a (CodePos.ofWord c.tvec) = .ok s1 true) (hc1 : s1.ctx a = some c)
include ht hc1

theorem State.takeTrap_first (hnone : c.capture = none) : s.takeTrap a r l again = s1.setCtx a
    (c.toHandler (CodePos.ofWord c.tvec) ⟨c.pend, r.resume, c.rep, c.loops, l, s1.nextId, c.nextTile, c.arrived, c.released⟩) := by
  rw [State.takeTrap_recorded hc hcap htvec hw, if_neg (not_not.mpr hmode), ht]
  dsimp only
  rw [State.onCtx_of_ctx hc1, hnone]

theorem State.takeTrap_again {k : Capture} (hsome : c.capture = some k) : s.takeTrap a r l again = s1.setCtx a
    (c.toHandler (CodePos.ofWord c.tvec) { k with replay := l, pend := k.pend ++ c.pend }) := by
  rw [State.takeTrap_recorded hc hcap htvec hw, if_neg (not_not.mpr hmode), ht]
  dsimp only
  rw [State.onCtx_of_ctx hc1, hsome]

end

/-! ### The trap record (19 R377, Table 19-2) -/

/-- The engine access of lines written changes neither memory nor the lines. -/
theorem State.wroteLines_rest (s : State) (agent cid dom scope : Nat) (pos : CodePos) (tags : List Tag) :
    ∃ n l, s.wroteLines agent cid dom scope none pos tags = { s with nextId := n, accs := l } := by
  unfold State.wroteLines
  dsimp only
  split
  · exact ⟨_, _, rfl⟩
  · exact ⟨_, _, rfl⟩

theorem State.writeHome_line (s : State) (t : Tag) {l : PLeaf} (ws : List (Nat × Byte)) (h : l.target = 0) :
    (s.writeHome t l ws).l2Line t = (s.l2Line t).map (L2Line.putAll ws) := by
  obtain ⟨q, hq⟩ := s.clearPoison_eq (ws.map (·.1))
  unfold State.writeHome
  simp only [hq, h, if_true]
  refine (State.l2Set_l2Line _ t t (L2Line.putAll ws) fun _ => rfl).trans ?_
  rw [if_pos rfl]
  rfl

theorem State.writeHome_memory (s : State) (t : Tag) {l : PLeaf} (ws : List (Nat × Byte)) (h : l.target ≠ 0) :
    (s.writeHome t l ws).mem = (s.memWrite ws).mem := by
  obtain ⟨q, hq⟩ := s.clearPoison_eq (ws.map (·.1))
  unfold State.writeHome
  simp only [hq, if_neg h]
  rfl

/-- A byte of a list is one of its writes. -/
theorem getElem?_mem_zipIdxBytes {bs : List Byte} {k i : Nat} {b : Byte} (h : bs[i]? = some b) : (k + i, b) ∈ zipIdxBytes k bs :=
  mem_zipIdxBytes.mpr ⟨Nat.le_add_right .., by rw [Nat.add_sub_cancel_left]; exact h⟩

theorem L2Line.byte_of_dirty {m : L2Line} {s : State} {k : Nat} {b : Byte} (h : AL.find m.dirty k = some b) : m.byte s k = b := by
  rw [L2Line.byte, h]

theorem State.homeRead_of_line {s : State} {t : Tag} {m : L2Line} (h : s.l2Line t = some m) (ks : List Nat) :
    s.homeRead t ks = ks.map (m.byte s) := by
  simp only [State.homeRead, h]

/-- A byte written at the home of a tag in device memory is read there. -/
theorem State.homeRead_writeHome (s : State) {t : Tag} {l : PLeaf} {m : L2Line} {ws : List (Nat × Byte)} {e : Nat × Byte}
    (hm : s.l2Line t = some m) (ht : l.target = 0) (hws : ws.Pairwise fun x y => x.1 ≠ y.1) (he : e ∈ ws) :
    (s.writeHome t l ws).homeRead t [e.1] = [e.2] := by
  have hline := s.writeHome_line t ws ht
  rw [hm] at hline
  have hfind := AL.find_foldl_put_mem ws m.dirty hws he
  rw [State.homeRead_of_line hline, List.map_singleton, L2Line.byte_of_dirty (m := m.putAll ws) hfind]

theorem State.memByte_writeHome (s : State) (t : Tag) {l : PLeaf} {ws : List (Nat × Byte)} {e : Nat × Byte}
    (ht : l.target ≠ 0) (hws : ws.Pairwise fun x y => x.1 ≠ y.1) (he : e ∈ ws) : (s.writeHome t l ws).memByte e.1 = e.2 := by
  rw [State.memByte, s.writeHome_memory t ws ht]
  exact s.memByte_memWrite_mem hws he

section
variable (v : State) (n : Nat) (xs : List Access)

theorem State.homeRead_accs (t : Tag) (ks : List Nat) : ({ v with nextId := n, accs := xs } : State).homeRead t ks = v.homeRead t ks := rfl

theorem State.memByte_accs (k : Nat) : ({ v with nextId := n, accs := xs } : State).memByte k = v.memByte k := rfl

end

theorem State.writeRecord_bytes {s s0 : State} {a : Nat} {c : Ctx} {r : TrapRec} {leaf : PLeaf}
    (h : s.translate (flatTag c.pd.toNat c.trapbuf.toNat) c.trapbuf.toNat .write false = .ok s0 leaf) :
    let k0 := physKey leaf.target leaf.port (leaf.pa + c.trapbuf.toNat % 65536)
    ∃ u, s.writeRecord a c r = .ok u () ∧ ∀ i b, (r.bytes ++ natLe 8 0)[i]? = some b →
      (leaf.target = 0 → u.homeRead (flatTag c.pd.toNat c.trapbuf.toNat) [k0 + i] = [b]) ∧
      (leaf.target ≠ 0 → u.memByte (k0 + i) = b) := by
  intro k0
  generalize hv : s0.writeHome (flatTag c.pd.toNat c.trapbuf.toNat) leaf (zipIdxBytes k0 (r.bytes ++ natLe 8 0)) = v
  obtain ⟨n, xs, hrest⟩ := v.wroteLines_rest a c.cid c.pd.toNat 1 r.bundle [flatTag c.pd.toNat c.trapbuf.toNat]
  have hwrite : s.writeFlat c.pd.toNat c.trapbuf.toNat (r.bytes ++ natLe 8 0) = .ok v () := by
    rw [State.writeFlat, h, ← hv]
    rfl
  refine ⟨_, by rw [State.writeRecord, hwrite], fun i b hb => ?_⟩
  have hmem : (k0 + i, b) ∈ zipIdxBytes k0 (r.bytes ++ natLe 8 0) := getElem?_mem_zipIdxBytes hb
  refine ⟨fun ht => ?_, fun ht => ?_⟩
  · obtain ⟨m, hm⟩ := State.translate_line h
    rw [hrest, State.homeRead_accs, ← hv]
    exact s0.homeRead_writeHome hm ht (pairwise_zipIdxBytes ..) hmem
  · rw [hrest, State.memByte_accs, ← hv]
    exact s0.memByte_writeHome _ ht (pairwise_zipIdxBytes ..) hmem

/-- A field of a record that a word of n bytes fills whole. -/
theorem toNat_mod_bytes {w : Nat} (x : BitVec w) {n : Nat} (h : 2 ^ w = 256 ^ n) : x.toNat % 256 ^ n = x.toNat :=
  Nat.mod_eq_of_lt (h ▸ x.isLt)

theorem TrapRec.fields (r : TrapRec) : let record := r.bytes ++ natLe 8 0
    record.length = 64 ∧ fieldAt record 0 2 = r.info.cause % 2 ^ 16 ∧ fieldAt record 2 1 = r.flags % 256 ∧
    fieldAt record 3 1 = r.info.slots.toNat ∧ fieldAt record 4 1 = r.cancelled % 256 ∧ fieldAt record 5 1 = r.rep % 256 ∧
    fieldAt record 6 2 = 0 ∧ fieldAt record 8 8 = r.bundle.toWord.toNat ∧ fieldAt record 16 8 = r.resume.toWord.toNat ∧
    fieldAt record 24 4 = r.tseq % 2 ^ 32 ∧ fieldAt record 28 4 = r.info.unit.toNat ∧
    fieldAt record 32 8 = r.info.faddr.toNat ∧ fieldAt record 40 8 = r.info.aux.toNat ∧ fieldAt record 48 8 = r.tick.toNat ∧
    fieldAt record 56 8 = 0 := by
  intro record
  have hbytes : record = natLe 2 r.info.cause ++ (natLe 1 r.flags ++ (natLe 1 r.info.slots.toNat ++ (natLe 1 r.cancelled ++
      (natLe 1 r.rep ++ (natLe 2 0 ++ (natLe 8 r.bundle.toWord.toNat ++ (natLe 8 r.resume.toWord.toNat ++ (natLe 4 r.tseq ++
      (natLe 4 r.info.unit.toNat ++ (natLe 8 r.info.faddr.toNat ++ (natLe 8 r.info.aux.toNat ++ (natLe 8 r.tick.toNat ++
      natLe 8 0)))))))))))) := by
    simp only [record, TrapRec.bytes, List.append_assoc]
  have hslots : r.info.slots.toNat % 256 ^ 1 = r.info.slots.toNat := toNat_mod_bytes _ rfl
  have hword : ∀ w : W64, w.toNat % 256 ^ 8 = w.toNat := fun w => toNat_mod_bytes w rfl
  have hunit : r.info.unit.toNat % 256 ^ 4 = r.info.unit.toNat := toNat_mod_bytes _ rfl
  rw [hbytes]
  simp (disch := decide) only [fieldAt_natLe_append_right, Nat.reduceSub, fieldAt_natLe_append, fieldAt_natLe,
    Nat.pow_one, Nat.reducePow, Nat.zero_mod, true_and, and_true]
  exact ⟨by simp only [List.length_append, length_natLe], hslots, hword _, hword _, hunit, hword _, hword _, hword _⟩

theorem bundleFault_eq (e : Env) {cause aux : Nat} {slots : BitVec 8} (h : cause ≠ 0x50) : bundleFault e cause aux slots =
    e.s.takeTrap e.a ⟨{ cause := cause, aux := BitVec.ofNat 64 aux, slots := slots, unit := seqUnit e.a }, e.pos, e.pos, e.c.tick,
      (if e.c.rep.isSome then 8 else 0) ||| e.s.keptFlags e.c, 0, 0, if e.c.rep.isSome then e.repK else 0⟩ [] false :=
  if_neg h

/-! ### The return from a trap (06 R165) -/

theorem Access.letOn_cid (x : Access) : x.letOn.cid = x.cid := by
  rw [Access.letOn]
  split <;> rfl

theorem Access.letOn_kept (x : Access) : x.letOn.kept = false := by
  rw [Access.letOn]
  split
  · rfl
  · next h => exact Bool.eq_false_iff.mpr h

/-- The accesses that a return from a trap lets on are kept no longer. -/
theorem kept_of_letOn {accs : List Access} {cid : Nat} {x : Access} (hx : x ∈ accs.map fun y => if y.cid == cid then y.letOn else y)
    (hcid : x.cid = cid) : x.kept = false := by
  obtain ⟨y, -, rfl⟩ := List.mem_map.mp hx
  by_cases hy : (y.cid == cid) = true
  · rw [if_pos hy]; exact y.letOn_kept
  · rw [if_neg hy] at hcid
    exact absurd (beq_iff_eq.mpr hcid) hy

/-- The interrupted stream as a return from its trap restores it. -/
def Ctx.resumed (c : Ctx) (k : Capture) : Ctx := { c with
  capture := none, pend := k.pend ++ c.pend, loops := k.loops, rep := k.rep, pc := k.resume
  arrived := k.arrived, released := k.released, swWait := none, swRel := none, swKey := none }

theorem State.returnTrap_eq {s : State} {a : Nat} {c : Ctx} {k : Capture} (hc : s.ctx a = some c) (hk : c.capture = some k) :
    s.returnTrap a = { s.setCtx a (c.resumed k) with accs := s.accs.map fun x => if x.cid == c.cid then x.letOn else x } := by
  simp only [State.returnTrap, hc, hk]
  rfl

/-- Settles O52: the ways that a trap can end, its record and the return from it, one lemma each. -/
theorem trapEntryAndReturn : Obligations.TrapEntryAndReturn := by
  unfold Obligations.TrapEntryAndReturn
  intro s s0 s1 a c r l k leaf f lost hpos enter cap written record hc
  refine ⟨fun htvec hmode hw ht hc1 => ⟨fun hnone => ?_, fun hsome => ?_⟩, fun h => State.takeTrap_abort hc ?_, fun htvec hnone hbuf => ?_, ?_,
    State.writeRecord_bytes, r.fields, fun e cause aux slots => bundleFault_eq e, fun hk => ?_⟩
  · exact State.takeTrap_first hc (by rw [hnone]; rfl) htvec hw hmode ht hc1 hnone
  · exact State.takeTrap_again hc (Bool.and_false _) htvec hw hmode ht hc1 hsome
  · rwa [Bool.not_false, Bool.and_true]
  · have hcap : (c.capture.isSome && !false) = false := by rw [hnone]; rfl
    exact ⟨State.takeTrap_unwritten hc hcap htvec hbuf, State.takeTrap_waits hc hcap htvec hbuf⟩
  · intro failed htvec hnone hw
    have hcap : (c.capture.isSome && !false) = false := by rw [hnone]; rfl
    exact ⟨State.takeTrap_mode hc hcap htvec hw, State.takeTrap_illegal hc hcap htvec hw, State.takeTrap_unreached hc hcap htvec hw,
      State.takeTrap_handlerWaits hc hcap htvec hw⟩
  · refine ⟨_, _, State.returnTrap_eq hc hk, (State.setCtx_ctx ..), rfl, rfl, rfl, rfl, rfl, rfl, rfl, rfl, rfl, rfl, rfl, rfl, rfl, rfl,
      rfl, rfl, rfl, rfl, rfl, rfl, rfl, fun x hx hcid => kept_of_letOn hx hcid⟩

end Sys2Proof.Machine

/-! # Finite values as rationals (03 R69 to R71) -/

namespace Sys2Proof.Machine

/-- The rational that a finite value stands for. -/
def ratVal (s : Bool) (m : Nat) (e : Int) : ℚ := (if s then -1 else 1 : ℚ) * m * (2 : ℚ) ^ e

@[simp] theorem ratVal_zero (s : Bool) (e : Int) : ratVal s 0 e = 0 := by simp [ratVal]

theorem two_zpow_pos (e : Int) : (0 : ℚ) < 2 ^ e := zpow_pos (by decide) e

theorem cast_pow2 {k : Int} (h : 0 ≤ k) : (pow2 k : ℚ) = 2 ^ k := by
  rw [pow2, Nat.cast_pow, Nat.cast_ofNat, ← zpow_natCast, Int.toNat_of_nonneg h]

/-- A magnitude moved to a lower exponent. -/
theorem cast_mul_pow2 (m : Nat) {e q : Int} (h : q ≤ e) : ((m * pow2 (e - q) : Nat) : ℚ) * 2 ^ q = m * 2 ^ e := by
  rw [Nat.cast_mul, cast_pow2 (by omega), mul_assoc, ← zpow_add₀ two_ne_zero, sub_add_cancel]

theorem cast_signedMant (s : Bool) (m : Nat) {e q : Int} (h : q ≤ e) : (signedMant s m e q : ℚ) * 2 ^ q = ratVal s m e := by
  have hm := cast_mul_pow2 m h
  cases s
  · simpa [signedMant, ratVal] using hm
  · simpa [signedMant, ratVal] using hm

/-- The value of an integer on a grid. -/
theorem ratVal_ofInt (v : Int) (q : Int) : ratVal (decide (v < 0)) v.natAbs q = (v : ℚ) * 2 ^ q := by
  rw [ratVal]
  congr 1
  rw [Nat.cast_natAbs]
  by_cases h : v < 0
  · rw [abs_of_neg h]; simp [h]
  · rw [abs_of_nonneg (not_lt.mp h)]; simp [h]

theorem floorLog2_eq {m : Nat} (hm : m ≠ 0) (e : Int) : Int.log 2 ((m : ℚ) * 2 ^ e) = floorLog2 m e := by
  have hpos : (0 : ℚ) < m * 2 ^ e := mul_pos (by exact_mod_cast Nat.pos_of_ne_zero hm) (two_zpow_pos e)
  have hlow : ((2 : ℕ) : ℚ) ^ floorLog2 m e ≤ m * 2 ^ e := by
    rw [floorLog2, Nat.cast_ofNat, zpow_add₀ two_ne_zero, zpow_natCast]
    exact mul_le_mul_of_nonneg_right (by exact_mod_cast Nat.log2_self_le hm) (two_zpow_pos e).le
  have hhigh : (m : ℚ) * 2 ^ e < ((2 : ℕ) : ℚ) ^ (floorLog2 m e + 1) := by
    rw [floorLog2, Nat.cast_ofNat, add_right_comm, zpow_add₀ two_ne_zero]
    refine mul_lt_mul_of_pos_right ?_ (two_zpow_pos e)
    exact_mod_cast Nat.lt_log2_self
  have h1 := (Int.zpow_le_iff_le_log (by decide) hpos).mp hlow
  have h2 := (Int.lt_zpow_iff_log_lt (by decide) hpos).mp hhigh
  omega

theorem magLt_iff (m n : Nat) (e f : Int) : magLt m e n f = true ↔ (m : ℚ) * 2 ^ e < n * 2 ^ f := by
  have hm := cast_mul_pow2 m (min_le_left e f)
  have hn := cast_mul_pow2 n (min_le_right e f)
  rw [← hm, ← hn, mul_lt_mul_iff_left₀ (two_zpow_pos _), Nat.cast_lt, magLt, decide_eq_true_iff]

/-! ### Sums, products and comparisons -/

theorem add_fin_fin (mode m n : Nat) (s t : Bool) (e f : Int) : ∃ u k j,
    FVal.add mode (.fin s m e) (.fin t n f) = .fin u k j ∧ ratVal u k j = ratVal s m e + ratVal t n f ∧
    (k = 0 → u = if m = 0 ∧ n = 0 ∧ s = t then s else decide (mode = 3)) := by
  by_cases hm : m = 0
  · subst hm
    by_cases hn : n = 0
    · subst hn
      refine ⟨if s = t then s else mode == 3, 0, 0, rfl, by simp, fun _ => ?_⟩
      simp only [true_and]
      rfl
    · exact ⟨t, n, f, by simp [FVal.add, hn], by simp, fun h => absurd h hn⟩
  · by_cases hn : n = 0
    · subst hn
      exact ⟨s, m, e, by simp [FVal.add, hm], by simp, fun h => absurd h hm⟩
    · have hs := cast_signedMant s m (min_le_left e f)
      have ht := cast_signedMant t n (min_le_right e f)
      have hsum : ratVal s m e + ratVal t n f =
          ((signedMant s m e (min e f) + signedMant t n f (min e f) : Int) : ℚ) * 2 ^ min e f := by
        rw [Int.cast_add, add_mul, hs, ht]
      by_cases hv : signedMant s m e (min e f) + signedMant t n f (min e f) = 0
      · refine ⟨mode == 3, 0, 0, by simp [FVal.add, hm, hn, hv], by rw [hsum, hv]; simp, fun _ => ?_⟩
        rw [if_neg fun h => hm h.1]
        rfl
      · refine ⟨_, _, min e f, by simp only [FVal.add, hm, hn, decide_false, Bool.false_eq_true, if_false, Bool.and_self, if_neg hv]; rfl,
          ?_, fun h => absurd (Int.natAbs_eq_zero.mp h) hv⟩
        rw [ratVal_ofInt, hsum]

theorem mul_fin_fin (m n : Nat) (s t : Bool) (e f : Int) : ∃ k j,
    FVal.mul (.fin s m e) (.fin t n f) = .fin (s != t) k j ∧ ratVal (s != t) k j = ratVal s m e * ratVal t n f := by
  refine ⟨m * n, e + f, rfl, ?_⟩
  simp only [ratVal, Nat.cast_mul, zpow_add₀ (two_ne_zero (α := ℚ))]
  cases s <;> cases t <;> simp <;> ring

theorem cmp_fin_fin (m n : Nat) (s t : Bool) (e f : Int) :
    (FVal.cmp (.fin s m e) (.fin t n f) = .lt ↔ ratVal s m e < ratVal t n f) ∧
    (FVal.cmp (.fin s m e) (.fin t n f) = .eq ↔ ratVal s m e = ratVal t n f) := by
  have hs := cast_signedMant s m (min_le_left e f)
  have ht := cast_signedMant t n (min_le_right e f)
  have hpos := two_zpow_pos (min e f)
  rw [← hs, ← ht, mul_lt_mul_iff_left₀ hpos, mul_left_inj' hpos.ne', Int.cast_lt, Int.cast_inj]
  simp only [FVal.cmp]
  split
  · next h => simp [h, h.ne]
  · next h =>
    split
    · next h' => simp [h']
    · next h' => simp [h, h']

end Sys2Proof.Machine

/-! # Rounding to a grid (03 R81) -/

namespace Sys2Proof.Machine

/-- The multiple of the grid that a mode chooses: k is the multiple below, low what is left of one step. -/
def chosenMultiple (mode : Nat) (s even : Bool) (k : Nat) (low : ℚ) : Nat :=
  if low = 0 ∨ mode = 1 ∨ (mode = 2 ∧ s = true) ∨ (mode = 3 ∧ s = false) then k
  else if mode = 2 ∨ mode = 3 ∨ 1 / 2 < low ∨ (low = 1 / 2 ∧ even = false) then k + 1 else k

/-- The multiple of a grid below a magnitude, and what is left, on a grid that the magnitude lies on. -/
theorem floor_grid_exact (m : Nat) {e q : Int} (h : q ≤ e) : (m : ℚ) * 2 ^ e / 2 ^ q = ((m * pow2 (e - q) : Nat) : ℚ) := by
  rw [← cast_mul_pow2 m h, mul_div_assoc, div_self (two_zpow_pos q).ne', mul_one]

theorem div_grid (m : Nat) {e q : Int} (h : e ≤ q) : (m : ℚ) * 2 ^ e / 2 ^ q = m / (pow2 (q - e) : ℚ) := by
  rw [cast_pow2 (by omega), zpow_sub₀ two_ne_zero, div_div_eq_mul_div]

theorem pow2_pos (k : Int) : 0 < pow2 k := Nat.pow_pos (by decide)

section
variable (m : Nat) {d : Nat} (hd : 0 < d)
include hd

omit hd in
theorem floor_quotient : ⌊(m : ℚ) / (d : ℚ)⌋₊ = m / d := Nat.floor_div_eq_div m d

theorem quotient_low : (m : ℚ) / d - ((m / d : Nat) : ℚ) = ((m % d : Nat) : ℚ) / d := by
  have hdq : (d : ℚ) ≠ 0 := by exact_mod_cast hd.ne'
  have hm : (m : ℚ) = d * ((m / d : Nat) : ℚ) + ((m % d : Nat) : ℚ) := by exact_mod_cast (Nat.div_add_mod m d).symm
  field_simp
  linarith

end

section
variable (r : Nat) {d : Nat} (hd : 0 < d)
include hd

theorem low_eq_zero : (r : ℚ) / d = 0 ↔ r = 0 := by
  have hdq : (d : ℚ) ≠ 0 := by exact_mod_cast hd.ne'
  simp [hdq]

theorem half_lt_low : 1 / 2 < (r : ℚ) / d ↔ d < 2 * r := by
  have hdq : (0 : ℚ) < d := by exact_mod_cast hd
  rw [div_lt_div_iff₀ two_pos hdq, one_mul, mul_comm]
  exact_mod_cast Iff.rfl

theorem low_eq_half : (r : ℚ) / d = 1 / 2 ↔ 2 * r = d := by
  have hdq : (d : ℚ) ≠ 0 := by exact_mod_cast hd.ne'
  rw [div_eq_div_iff hdq two_ne_zero, one_mul, mul_comm]
  exact_mod_cast Iff.rfl

end

/-- The choice of the grid's multiple, over the rationals. -/
theorem NFmt.pick_eq (F : NFmt) (mode : Nat) (s : Bool) (m : Nat) (e q : Int) :
    let x := (m : ℚ) * 2 ^ e / 2 ^ q
    F.pick mode s m e q = (chosenMultiple mode s (!F.odd ⌊x⌋₊ q) ⌊x⌋₊ (x - ⌊x⌋₊), decide (x - ⌊x⌋₊ ≠ 0)) := by
  intro x
  unfold NFmt.pick
  by_cases hq : q ≤ e
  · have hx : x = ((m * pow2 (e - q) : Nat) : ℚ) := floor_grid_exact m hq
    rw [if_pos hq, hx, Nat.floor_natCast, sub_self, chosenMultiple, if_pos (.inl rfl)]
    simp
  · have hd := pow2_pos (q - e)
    have hx : x = (m : ℚ) / (pow2 (q - e) : ℚ) := div_grid m (by omega)
    have hfloor : ⌊x⌋₊ = m / pow2 (q - e) := by rw [hx, floor_quotient m]
    have hlow : x - ⌊x⌋₊ = ((m % pow2 (q - e) : Nat) : ℚ) / (pow2 (q - e) : ℚ) := by rw [hfloor, hx, quotient_low m hd]
    rw [if_neg hq, hlow, hfloor]
    generalize pow2 (q - e) = d at hd ⊢
    dsimp only
    simp only [chosenMultiple, low_eq_zero _ hd, half_lt_low _ hd, low_eq_half _ hd, ne_eq]
    by_cases hr : m % d = 0
    · simp [hr]
    · simp only [hr, if_false, false_or, not_false_eq_true, decide_true]
      refine Prod.ext ?_ rfl
      match mode with
      | 0 => grind
      | 1 => rfl
      | 2 => cases s <;> simp
      | 3 => cases s <;> simp
      | n + 4 => grind

/-- Whether a multiple of a floating format's grid counts as even (03 R81). -/
def NFmt.evenOn (F : NFmt) (k : Nat) (q : Int) : Bool :=
  if F.mb = 0 then decide (k = 0 ∨ (Int.log 2 ((k : ℚ) * 2 ^ q) + F.bias) % 2 = 0) else decide (k % 2 = 0)

theorem not_mod_two (n : Nat) : (!(n % 2 == 1)) = decide (n % 2 = 0) := by
  rcases Nat.mod_two_eq_zero_or_one n with h | h <;> simp [h]

theorem NFmt.evenOn_eq {F : NFmt} (hint : F.isInt = false) (k : Nat) (q : Int) : F.evenOn k q = !F.odd k q := by
  unfold NFmt.evenOn NFmt.odd
  by_cases hmb : F.mb = 0
  · by_cases hk : k = 0
    · simp [hmb, hint, hk]
    · rw [if_pos hmb, floorLog2_eq hk, hint, hmb]
      rcases Int.emod_two_eq_zero_or_one (floorLog2 k q + F.bias) with h | h <;> simp [hk, h]
  · rw [if_neg hmb, hint, if_pos (by simp; omega), not_mod_two]

theorem NFmt.grid_eq {F : NFmt} (hint : F.isInt = false) {m : Nat} (hm : m ≠ 0) (e : Int) :
    F.grid m e = max (Int.log 2 ((m : ℚ) * 2 ^ e)) (1 - F.bias) - (F.mb : Int) := by
  rw [floorLog2_eq hm, NFmt.grid, hint, if_neg Bool.false_ne_true]

section
variable {F : NFmt} (hint : F.isInt = false) (mode m : Nat) (sat s : Bool) (e : Int)
include hint

/-- A nonzero value rounded into a floating format, in the order of 03 R81 and R82. -/
theorem NFmt.round_fin (hm : m ≠ 0) : F.round mode sat (.fin s m e) =
    let r := F.pick mode s m e (F.grid m e)
    if r.1 = 0 then ⟨.fin (if F.b8 then false else s) 0 0, (if r.2 then 128 else 0) ||| 32⟩
    else if !F.signed && s then (if sat then ⟨.fin false 0 0, 128⟩ else ⟨.nan, 0⟩)
    else if magLt F.maxFin.1 F.maxFin.2 r.1 (F.grid m e) then F.overflow mode sat s
    else ⟨.fin s r.1 (F.grid m e), if r.2 then 128 else 0⟩ := by
  simp only [NFmt.round, if_neg hm, hint, Bool.false_eq_true, if_false]
  split
  · rfl
  · rfl

theorem NFmt.round_zero : F.round mode sat (.fin s 0 e) = ⟨.fin (if F.b8 then false else s) 0 0, 0⟩ := by
  simp only [NFmt.round, if_true, hint, Bool.false_or]

theorem NFmt.round_nan : F.round mode sat .nan = ⟨.nan, 0⟩ := by
  simp only [NFmt.round, hint, Bool.false_eq_true, if_false]

theorem NFmt.round_inf : F.round mode sat (.inf s) =
    (if F.signed = false ∧ s = true then (if sat then ⟨.fin false 0 0, 0⟩ else ⟨.nan, 0⟩)
      else if sat then ⟨.fin s F.maxFin.1 F.maxFin.2, 8⟩ else if F.hasInf then ⟨.inf s, 0⟩ else ⟨.nan, 0⟩) := by
  simp only [NFmt.round, hint, Bool.false_eq_true, if_false, NFmt.infRule, Bool.and_eq_true, Bool.not_eq_true']
  rfl

end

theorem NFmt.overflow_eq (F : NFmt) (mode : Nat) (sat s : Bool) : F.overflow mode sat s =
    if sat = true ∨ mode = 1 ∨ (mode = 2 ∧ s = true) ∨ (mode = 3 ∧ s = false) then ⟨.fin s F.maxFin.1 F.maxFin.2, 136⟩
      else if F.hasInf then ⟨.inf s, 132⟩ else ⟨.nan, 0⟩ := by
  simp only [NFmt.overflow, Bool.or_eq_true, Bool.and_eq_true, beq_iff_eq, Bool.not_eq_true', or_assoc]
  rfl

/-! ### A nonzero value rounded into a floating format -/

section
variable {F : NFmt} (hint : F.isInt = false) {mode m n : Nat} {sat s : Bool} {e q : Int} (hm : m ≠ 0) {x low : ℚ} {k : Nat}
  (hq : max (Int.log 2 ((m : ℚ) * 2 ^ e)) (1 - F.bias) - (F.mb : Int) = q) (hx : (m : ℚ) * 2 ^ e / 2 ^ q = x) (hk : ⌊x⌋₊ = k)
  (hlow : x - k = low) (hn : chosenMultiple mode s (F.evenOn k q) k low = n)
include hint hm hq hx hk hlow hn

theorem NFmt.round_eq : F.round mode sat (.fin s m e) =
    if n = 0 then ⟨.fin (if F.b8 then false else s) 0 0, (if low = 0 then 0 else 128) ||| 32⟩
    else if !F.signed && s then (if sat then ⟨.fin false 0 0, 128⟩ else ⟨.nan, 0⟩)
    else if magLt F.maxFin.1 F.maxFin.2 n q then F.overflow mode sat s
    else ⟨.fin s n q, if low = 0 then 0 else 128⟩ := by
  have hp := F.pick_eq mode s m e q
  simp only [hx, hk, hlow, ← NFmt.evenOn_eq hint, hn] at hp
  rw [NFmt.round_fin hint mode m sat s e hm, NFmt.grid_eq hint hm, hq, hp]
  by_cases h : low = 0 <;> simp [h]

omit hint hq hk in
/-- Something is lost where a nonzero value rounds to zero. -/
theorem low_ne_zero_of_zero (h0 : n = 0) : low ≠ 0 := by
  intro hl
  have hk0 : k = 0 := by
    rw [← hn, chosenMultiple, if_pos (.inl hl)] at h0
    exact h0
  have hx0 : x = 0 := by rw [sub_eq_iff_eq_add.mp hlow, hl, hk0]; simp
  have hpos : (0 : ℚ) < m * 2 ^ e / 2 ^ q :=
    div_pos (mul_pos (by exact_mod_cast Nat.pos_of_ne_zero hm) (two_zpow_pos e)) (two_zpow_pos q)
  rw [hx, hx0] at hpos
  exact lt_irrefl _ hpos

theorem NFmt.round_to_zero (h0 : n = 0) : F.round mode sat (.fin s m e) = ⟨.fin (if F.b8 then false else s) 0 0, 160⟩ := by
  rw [NFmt.round_eq hint hm hq hx hk hlow hn, if_pos h0, if_neg (low_ne_zero_of_zero hm hx hlow hn h0)]
  rfl

theorem NFmt.round_negative (h0 : n ≠ 0) (hsigned : F.signed = false) (hs : s = true) :
    F.round mode sat (.fin s m e) = if sat then ⟨.fin false 0 0, 128⟩ else ⟨.nan, 0⟩ := by
  rw [NFmt.round_eq hint hm hq hx hk hlow hn, if_neg h0, if_pos (by rw [hsigned, hs]; rfl)]

variable (h0 : n ≠ 0) (hs : F.signed = true ∨ s = false)
include h0 hs

theorem NFmt.round_beyond (hM : (F.maxFin.1 : ℚ) * 2 ^ F.maxFin.2 < n * 2 ^ q) : F.round mode sat (.fin s m e) =
    if sat = true ∨ mode = 1 ∨ (mode = 2 ∧ s = true) ∨ (mode = 3 ∧ s = false) then ⟨.fin s F.maxFin.1 F.maxFin.2, 136⟩
      else if F.hasInf then ⟨.inf s, 132⟩ else ⟨.nan, 0⟩ := by
  rw [NFmt.round_eq hint hm hq hx hk hlow hn, if_neg h0, if_neg (by rcases hs with h | h <;> simp [h]), if_pos ((magLt_iff ..).mpr hM),
    NFmt.overflow_eq]

theorem NFmt.round_within (hM : n * 2 ^ q ≤ (F.maxFin.1 : ℚ) * 2 ^ F.maxFin.2) :
    F.round mode sat (.fin s m e) = ⟨.fin s n q, if low = 0 then 0 else 128⟩ := by
  rw [NFmt.round_eq hint hm hq hx hk hlow hn, if_neg h0, if_neg (by rcases hs with h | h <;> simp [h]),
    if_neg (fun h => not_lt.mpr hM ((magLt_iff ..).mp h))]

end

end Sys2Proof.Machine

/-! # Patterns and values of the floating formats (03 R69, R72, R73, R89) -/

namespace Sys2Proof.Machine

/-- What the floating formats of Tables 3-2 and 3-3 have in common. -/
def NFmt.Floating (F : NFmt) : Prop :=
  F.isInt = false ∧ F.bits = F.w + F.mb + (if F.signed then 1 else 0) ∧ 1 ≤ F.w ∧
    (F.b8 = true → F.bits = 8) ∧ (F.b8 = false → F.signed = true ∧ F.hasInf = true ∧ 1 ≤ F.mb ∧ 2 ≤ F.w)

theorem ofB8_floating (code : BitVec 6) (hp : code.extractLsb' 0 3 ≠ 0) : (NFmt.ofB8 code).Floating := by
  have hall : ∀ code : BitVec 6, code.extractLsb' 0 3 ≠ 0 → (NFmt.ofB8 code).isInt = false ∧
      (NFmt.ofB8 code).bits = (NFmt.ofB8 code).w + (NFmt.ofB8 code).mb + (if (NFmt.ofB8 code).signed then 1 else 0) ∧
      1 ≤ (NFmt.ofB8 code).w := by decide
  obtain ⟨hint, hbits, hw⟩ := hall code hp
  exact ⟨hint, hbits, hw, fun _ => rfl, fun h => nomatch h⟩

theorem f32_floating : NFmt.f32.Floating := by unfold NFmt.Floating; decide
theorem bf16_floating : NFmt.bf16.Floating := by unfold NFmt.Floating; decide
theorem f16_floating : NFmt.f16.Floating := by unfold NFmt.Floating; decide

/-! ### Magnitude codes -/

/-- The magnitude of a code of exponent and significand fields, in units of the smallest subnormal. -/
def codeUnits (mb c : Nat) : Nat := if c / 2 ^ mb = 0 then c % 2 ^ mb else (c % 2 ^ mb + 2 ^ mb) * 2 ^ (c / 2 ^ mb - 1)

theorem codeUnits_lt_top (mb c : Nat) : codeUnits mb c < 2 ^ mb * 2 ^ (c / 2 ^ mb) := by
  have hf := Nat.mod_lt c (Nat.two_pow_pos mb)
  unfold codeUnits
  split
  · next h => rw [h]; simpa using hf
  · next h =>
    obtain ⟨E, hE⟩ := Nat.exists_eq_succ_of_ne_zero h
    rw [hE, Nat.succ_sub_one, Nat.pow_succ', ← Nat.mul_assoc]
    exact Nat.mul_lt_mul_of_pos_right (by omega) (Nat.two_pow_pos _)

theorem codeUnits_ge {mb c : Nat} (h : c / 2 ^ mb ≠ 0) : 2 ^ mb * 2 ^ (c / 2 ^ mb - 1) ≤ codeUnits mb c := by
  rw [codeUnits, if_neg h]
  exact Nat.mul_le_mul_right _ (Nat.le_add_left ..)

/-- Larger codes have larger magnitudes. -/
theorem codeUnits_lt {mb c d : Nat} (h : c < d) : codeUnits mb c < codeUnits mb d := by
  have hle : c / 2 ^ mb ≤ d / 2 ^ mb := Nat.div_le_div_right h.le
  rcases hle.eq_or_lt with heq | hlt
  · have hmod : c % 2 ^ mb < d % 2 ^ mb := by
      have hc := Nat.div_add_mod c (2 ^ mb)
      have hd := Nat.div_add_mod d (2 ^ mb)
      rw [heq] at hc
      exact Nat.lt_of_add_lt_add_left (hc.trans_lt (h.trans_eq hd.symm))
    unfold codeUnits
    rw [heq]
    split
    · exact hmod
    · exact Nat.mul_lt_mul_of_pos_right (by omega) (Nat.two_pow_pos _)
  · calc codeUnits mb c < 2 ^ mb * 2 ^ (c / 2 ^ mb) := codeUnits_lt_top mb c
      _ ≤ 2 ^ mb * 2 ^ (d / 2 ^ mb - 1) := Nat.mul_le_mul_left _ (Nat.pow_le_pow_right (by decide) (Nat.le_sub_one_of_lt hlt))
      _ ≤ codeUnits mb d := codeUnits_ge (Nat.ne_zero_of_lt hlt)

theorem codeUnits_le_iff {mb c d : Nat} : codeUnits mb c ≤ codeUnits mb d ↔ c ≤ d :=
  ⟨fun h => not_lt.mp fun h' => not_lt.mpr h (codeUnits_lt h'), fun h => h.eq_or_lt.elim (fun h => h ▸ le_rfl) fun h => (codeUnits_lt h).le⟩

/-! ### Decoding a finite pattern -/

/-- The value of a magnitude code of a format. -/
def NFmt.codeVal (F : NFmt) (s : Bool) (c : Nat) (e : Int) : FVal :=
  if c / 2 ^ F.mb = 0 then .fin s (c % 2 ^ F.mb) (1 - F.bias - F.mb + e)
  else .fin s (c % 2 ^ F.mb + 2 ^ F.mb) (((c / 2 ^ F.mb : Nat) : Int) - F.bias - F.mb + e)

/-- The magnitude of a code's value. -/
theorem NFmt.codeVal_units (F : NFmt) (s : Bool) (c : Nat) : ∃ m e, F.codeVal s c 0 = .fin s m e ∧
    (m : ℚ) * 2 ^ e = codeUnits F.mb c * 2 ^ (1 - F.bias - F.mb : Int) := by
  unfold NFmt.codeVal codeUnits
  split
  · exact ⟨_, _, rfl, by rw [add_zero]⟩
  · next h =>
    refine ⟨_, _, rfl, ?_⟩
    obtain ⟨E, hE⟩ := Nat.exists_eq_succ_of_ne_zero h
    have hexp : (((c / 2 ^ F.mb : Nat) : Int) - F.bias - F.mb + 0) = (E : Int) + (1 - F.bias - F.mb) := by rw [hE]; push_cast; ring
    rw [hexp, hE, Nat.succ_sub_one, zpow_add₀ two_ne_zero, zpow_natCast, Nat.cast_mul, Nat.cast_pow, Nat.cast_ofNat, mul_assoc]

/-- Whether a pattern of a format is no finite value but a zero, NaN or infinity of its own. -/
def NFmt.special (F : NFmt) (u : Nat) : Bool :=
  if F.b8 then decide (u = 0) || (F.signed && decide (u = 0x80)) || (F.signed && F.hasInf && decide (u = 0x7F ∨ u = 0xFF)) ||
    (!F.signed && decide (u = 0xFF)) || (!F.signed && F.hasInf && decide (u = 0xFE)) else decide (u / 2 ^ F.mb % 2 ^ F.w = 2 ^ F.w - 1)

section
variable {F : NFmt} (hF : F.Floating) {u : Nat} (hu : u < 2 ^ F.bits) (e : Int) (flush : Bool)
include hF hu

theorem NFmt.decode_finite (h : F.special u = false) : F.decode u e flush =
    let r := F.fields u
    if r.2.2.2 && flush then (.fin (if F.b8 then false else r.1) 0 0, true) else (.fin r.1 r.2.1 (r.2.2.1 + e), false) := by
  obtain ⟨hint, -, -, -, -⟩ := hF
  unfold NFmt.decode
  rw [Nat.mod_eq_of_lt hu]
  unfold NFmt.special at h
  cases hb : F.b8 with
  | false =>
    simp only [hb, Bool.false_eq_true, if_false, decide_eq_false_iff_not] at h
    simp [hint, Nat.shiftRight_eq_div_pow, h]
  | true =>
    simp only [hb, if_true, Bool.or_eq_false_iff, Bool.and_eq_false_iff, decide_eq_false_iff_not, Bool.not_eq_false'] at h
    cases hs : F.signed <;> cases hi : F.hasInf <;> simp_all

/-- The sign of a pattern of a signed format. -/
def NFmt.signOf (F : NFmt) (u : Nat) : Bool := F.signed && decide (u / 2 ^ (F.w + F.mb) % 2 = 1)

omit hF hu in
theorem NFmt.fields_sign (F : NFmt) (u : Nat) : (F.fields u).1 = F.signOf u := by
  unfold NFmt.fields NFmt.signOf
  dsimp only
  rw [apply_ite Prod.fst, ite_self, Nat.shiftRight_eq_div_pow]
  rcases Nat.mod_two_eq_zero_or_one (u / 2 ^ (F.w + F.mb)) with h | h <;> rw [h] <;> rfl

theorem NFmt.decode_normal (h : F.special u = false) (hE : u / 2 ^ F.mb % 2 ^ F.w ≠ 0) : F.decode u e flush =
    (.fin (F.signOf u) (u % 2 ^ F.mb + 2 ^ F.mb) (((u / 2 ^ F.mb % 2 ^ F.w : Nat) : Int) - F.bias - F.mb + e), false) := by
  rw [NFmt.decode_finite hF hu e flush h, ← NFmt.fields_sign]
  simp [NFmt.fields, Nat.shiftRight_eq_div_pow, hE]

theorem NFmt.decode_subnormal (h : F.special u = false) (hE : u / 2 ^ F.mb % 2 ^ F.w = 0) : F.decode u e flush =
    if u % 2 ^ F.mb ≠ 0 ∧ flush = true then (.fin (if F.b8 then false else F.signOf u) 0 0, true)
      else (.fin (F.signOf u) (u % 2 ^ F.mb) (1 - F.bias - F.mb + e), false) := by
  rw [NFmt.decode_finite hF hu e flush h, ← NFmt.fields_sign]
  simp [NFmt.fields, Nat.shiftRight_eq_div_pow, hE]

theorem NFmt.decode_special (hb : F.b8 = false) (h : F.special u = true) :
    F.decode u e flush = (if u % 2 ^ F.mb = 0 then .inf (F.signOf u) else .nan, false) := by
  obtain ⟨hint, -, -, -, hwide⟩ := hF
  obtain ⟨hs, -, -, -⟩ := hwide hb
  have hall : u / 2 ^ F.mb % 2 ^ F.w = 2 ^ F.w - 1 := by simpa [NFmt.special, hb] using h
  unfold NFmt.decode
  rw [Nat.mod_eq_of_lt hu]
  simp only [hint, hb, Bool.false_eq_true, if_false, Bool.false_and, Bool.not_false, Nat.shiftRight_eq_div_pow, hall, beq_self_eq_true,
    Bool.and_self, if_true, beq_iff_eq, NFmt.signOf, hs, Bool.true_and, Prod.mk.injEq, and_true]
  split
  · rcases Nat.mod_two_eq_zero_or_one (u / 2 ^ (F.w + F.mb)) with h | h <;> rw [h] <;> rfl
  · rfl

theorem NFmt.decode_special_b8 (hb : F.b8 = true) (h : F.special u = true) : F.decode u e flush =
    (if u = 0 then .fin false 0 0
      else if (F.signed = true ∧ u = 0x80) ∨ (F.signed = false ∧ u = 0xFF) then .nan else .inf (F.signOf u), false) := by
  obtain ⟨hint, hbits, -, h8, -⟩ := hF
  have hsum : F.w + F.mb = if F.signed then 7 else 8 := by
    have := h8 hb
    cases hs : F.signed <;> simp only [hs, if_true, Bool.false_eq_true, if_false] at hbits ⊢ <;> omega
  unfold NFmt.decode NFmt.signOf
  rw [Nat.mod_eq_of_lt hu, hsum]
  simp only [NFmt.special, hb, if_true, Bool.or_eq_true, Bool.and_eq_true, decide_eq_true_iff, Bool.not_eq_true'] at h
  rcases h with (((rfl | ⟨hs, rfl⟩) | ⟨⟨hs, hi⟩, rfl | rfl⟩) | ⟨hs, rfl⟩) | ⟨⟨hs, hi⟩, rfl⟩ <;> simp [*]

end

/-! ### Encoding a finite value -/

/-- A magnitude on a format's grid: n steps of 2^q, with n full from the exponent of the smallest normal number on. -/
def NFmt.OnGrid (F : NFmt) (n : Nat) (q : Int) : Prop :=
  1 - F.bias - F.mb ≤ q ∧ n ≤ 2 ^ (F.mb + 1) ∧ (1 - F.bias - F.mb < q → 2 ^ F.mb ≤ n)

/-- The code of n steps of 2^q. -/
def NFmt.codeOf (F : NFmt) (n : Nat) (q : Int) : Nat :=
  if n < 2 ^ F.mb then n
  else if n < 2 ^ (F.mb + 1) then (q + F.bias + F.mb).toNat * 2 ^ F.mb + (n - 2 ^ F.mb)
  else (q + F.bias + F.mb + 1).toNat * 2 ^ F.mb

/-- The sign bit of a format's encoding. -/
def NFmt.signBit (F : NFmt) (s : Bool) : Nat := if F.signed && s then 2 ^ (F.w + F.mb) else 0

theorem pow2_zero : pow2 0 = 1 := rfl

theorem shiftNat_self (m : Nat) {e : Int} (h : e = 0) : shiftNat m e = m := by
  subst h
  rw [shiftNat, if_pos le_rfl, pow2_zero, Nat.mul_one]

theorem log2_of_between {n k : Nat} (hlow : 2 ^ k ≤ n) (hhigh : n < 2 ^ (k + 1)) : Nat.log2 n = k :=
  (Nat.log2_eq_iff (Nat.ne_zero_of_lt (lt_of_lt_of_le (Nat.two_pow_pos k) hlow))).mpr ⟨hlow, hhigh⟩

section
variable {F : NFmt} (hint : F.isInt = false) {n : Nat} {q : Int} (hgrid : F.OnGrid n q) (hn : n ≠ 0)
include hint hgrid hn

theorem NFmt.encode_fin (s : Bool) : F.encode (.fin s n q) = F.signBit s + F.codeOf n q := by
  obtain ⟨hlow, hhigh, hfull⟩ := hgrid
  unfold NFmt.encode NFmt.codeOf
  simp only [hint, Bool.false_eq_true, if_false, if_neg hn]
  rw [← NFmt.signBit]
  by_cases hsub : n < 2 ^ F.mb
  · have hq : q = 1 - F.bias - F.mb := by
      by_contra hne
      exact absurd (hfull (lt_of_le_of_ne hlow (Ne.symm hne))) (not_le.mpr hsub)
    have hlog : floorLog2 n q < F.mb + q := by
      have := (Nat.log2_lt hn).mpr hsub
      rw [floorLog2]; omega
    rw [if_pos hsub, if_pos (by omega), shiftNat_self n (by omega)]
  · rw [if_neg hsub]
    by_cases hnorm : n < 2 ^ (F.mb + 1)
    · have hlog : floorLog2 n q = F.mb + q := by rw [floorLog2, log2_of_between (not_lt.mp hsub) hnorm]
      have hexp : (floorLog2 n q + F.bias).toNat = (q + F.bias + F.mb).toNat := congrArg Int.toNat (by omega)
      rw [if_pos hnorm, if_neg (by omega), shiftNat_self n (by omega), hexp, Nat.add_assoc]
    · have hn2 : n = 2 ^ (F.mb + 1) := le_antisymm hhigh (not_lt.mp hnorm)
      have hlog : floorLog2 n q = F.mb + 1 + q := by rw [floorLog2, hn2, Nat.log2_two_pow]; push_cast; ring
      have hshift : shiftNat n (q - (floorLog2 n q - F.mb)) = 2 ^ F.mb := by
        have hneg : q - (floorLog2 n q - F.mb) = -1 := by omega
        rw [hneg, shiftNat, if_neg (by decide), hn2, Nat.pow_succ]
        exact Nat.mul_div_cancel _ (by decide)
      have hexp : (floorLog2 n q + F.bias).toNat = (q + F.bias + F.mb + 1).toNat := congrArg Int.toNat (by omega)
      rw [if_neg hnorm, if_neg (by omega), hshift, Nat.sub_self, Nat.add_zero, hexp]

omit hint hn in
/-- The code of a magnitude on the grid is the one whose value it is. -/
theorem NFmt.codeUnits_codeOf : (codeUnits F.mb (F.codeOf n q) : ℚ) * 2 ^ (1 - F.bias - F.mb : Int) = n * 2 ^ q := by
  obtain ⟨hlow, hhigh, hfull⟩ := hgrid
  obtain ⟨j, hj⟩ : ∃ j : Nat, q = j + (1 - F.bias - F.mb) := ⟨(q - (1 - F.bias - F.mb)).toNat, by omega⟩
  have hunits : codeUnits F.mb (F.codeOf n q) = n * 2 ^ j := by
    have hpos := Nat.two_pow_pos F.mb
    unfold NFmt.codeOf codeUnits
    by_cases hsub : n < 2 ^ F.mb
    · have hj0 : j = 0 := by
        by_contra hne
        exact absurd (hfull (by omega)) (not_le.mpr hsub)
      rw [if_pos hsub, if_pos (Nat.div_eq_of_lt hsub), Nat.mod_eq_of_lt hsub, hj0, Nat.pow_zero, Nat.mul_one]
    · rw [if_neg hsub]
      by_cases hnorm : n < 2 ^ (F.mb + 1)
      · have hexp : (q + F.bias + F.mb).toNat = j + 1 := by omega
        have hf : n - 2 ^ F.mb < 2 ^ F.mb := by rw [Nat.pow_succ] at hnorm; omega
        have hdiv : ((j + 1) * 2 ^ F.mb + (n - 2 ^ F.mb)) / 2 ^ F.mb = j + 1 := by
          rw [Nat.add_comm, Nat.add_mul_div_right _ _ hpos, Nat.div_eq_of_lt hf, Nat.zero_add]
        have hmod : ((j + 1) * 2 ^ F.mb + (n - 2 ^ F.mb)) % 2 ^ F.mb = n - 2 ^ F.mb := by
          rw [Nat.add_comm, Nat.add_mul_mod_self_right, Nat.mod_eq_of_lt hf]
        rw [if_pos hnorm, hexp, hdiv, hmod, if_neg (Nat.succ_ne_zero j), Nat.sub_add_cancel (not_lt.mp hsub), Nat.succ_sub_one]
      · have hn2 : n = 2 ^ (F.mb + 1) := le_antisymm hhigh (not_lt.mp hnorm)
        have hexp : (q + F.bias + F.mb + 1).toNat = j + 2 := by omega
        rw [if_neg hnorm, hexp, Nat.mul_div_cancel _ hpos, Nat.mul_mod_left, if_neg (by omega), Nat.zero_add, hn2, ← Nat.pow_add, ← Nat.pow_add]
        congr 1
        omega
  rw [hunits, hj, zpow_add₀ two_ne_zero, zpow_natCast, Nat.cast_mul, Nat.cast_pow, Nat.cast_ofNat, mul_assoc]

end

end Sys2Proof.Machine

/-! # Codes of a floating format (03 R72, R73, R81, R89) -/

namespace Sys2Proof.Machine

/-! ### The multiple that a rounding chooses lies on the grid -/

theorem chosenMultiple_le (mode : Nat) (s even : Bool) (k : Nat) (low : ℚ) :
    k ≤ chosenMultiple mode s even k low ∧ chosenMultiple mode s even k low ≤ k + 1 := by
  unfold chosenMultiple
  split_ifs <;> omega

theorem NFmt.onGrid_chosen {F : NFmt} {m : Nat} (hm : m ≠ 0) (e : Int) {q : Int}
    (hq : max (Int.log 2 ((m : ℚ) * 2 ^ e)) (1 - F.bias) - (F.mb : Int) = q) {n : Nat}
    (hlow : ⌊(m : ℚ) * 2 ^ e / 2 ^ q⌋₊ ≤ n) (hhigh : n ≤ ⌊(m : ℚ) * 2 ^ e / 2 ^ q⌋₊ + 1) : F.OnGrid n q := by
  have hx : (0 : ℚ) < m * 2 ^ e := mul_pos (by exact_mod_cast Nat.pos_of_ne_zero hm) (two_zpow_pos e)
  have hlt := Int.lt_zpow_succ_log_self (b := 2) (by decide) ((m : ℚ) * 2 ^ e)
  have hge := Int.zpow_log_le_self (b := 2) (by decide) hx
  rw [Nat.cast_ofNat] at hlt hge
  refine ⟨by omega, ?_, fun hfull => ?_⟩
  · have hquot : (m : ℚ) * 2 ^ e / 2 ^ q < ((2 ^ (F.mb + 1) : Nat) : ℚ) := by
      rw [div_lt_iff₀ (two_zpow_pos q), Nat.cast_pow, Nat.cast_ofNat, ← zpow_natCast, ← zpow_add₀ two_ne_zero]
      refine hlt.trans_le (zpow_le_zpow_right₀ (by norm_num) ?_)
      push_cast
      omega
    have hfloor := (Nat.floor_lt (div_pos hx (two_zpow_pos q)).le).mpr hquot
    omega
  · refine le_trans ?_ hlow
    refine Nat.le_floor ?_
    rw [le_div_iff₀ (two_zpow_pos q), Nat.cast_pow, Nat.cast_ofNat, ← zpow_natCast, ← zpow_add₀ two_ne_zero]
    refine le_trans (zpow_le_zpow_right₀ (by norm_num) ?_) hge
    omega

/-! ### The largest finite value -/

section
variable {F : NFmt} (hF : F.Floating)
include hF

theorem NFmt.Floating.b8_width (hb : F.b8 = true) : F.w + F.mb = if F.signed then 7 else 8 := by
  obtain ⟨-, hbits, -, h8, -⟩ := hF
  have := h8 hb
  cases hs : F.signed <;> simp only [hs, if_true, Bool.false_eq_true, if_false] at hbits ⊢ <;> omega

theorem NFmt.maxCode_lt : F.maxCode < 2 ^ (F.w + F.mb) := by
  unfold NFmt.maxCode
  cases hb : F.b8 with
  | true =>
    rw [hF.b8_width hb, if_pos rfl]
    cases F.signed <;> cases F.hasInf <;> decide
  | false =>
    have hpos := Nat.two_pow_pos (F.w + F.mb)
    have hle : (2 ^ F.w - 1) * 2 ^ F.mb ≤ 2 ^ (F.w + F.mb) := by
      rw [Nat.pow_add]
      exact Nat.mul_le_mul_right _ (Nat.sub_le ..)
    rw [if_neg Bool.false_ne_true]
    exact lt_of_le_of_lt (Nat.sub_le_sub_right hle 1) (Nat.sub_one_lt hpos.ne')

end

/-- A code below the sign bit has its exponent field whole. -/
theorem div_lt_of_code {w mb c : Nat} (h : c < 2 ^ (w + mb)) : c / 2 ^ mb < 2 ^ w :=
  Nat.div_lt_of_lt_mul (by rwa [← Nat.pow_add, Nat.add_comm])

theorem NFmt.maxFin_units {F : NFmt} (hF : F.Floating) :
    (F.maxFin.1 : ℚ) * 2 ^ F.maxFin.2 = codeUnits F.mb F.maxCode * 2 ^ (1 - F.bias - F.mb : Int) := by
  obtain ⟨m, e, hval, hunits⟩ := F.codeVal_units false F.maxCode
  have hfields : FVal.fin false F.maxFin.1 F.maxFin.2 = F.codeVal false F.maxCode 0 := by
    have hE := Nat.mod_eq_of_lt (div_lt_of_code (NFmt.maxCode_lt hF))
    unfold NFmt.maxFin NFmt.fields NFmt.codeVal
    simp only [Nat.shiftRight_eq_div_pow, hE, add_zero]
    split <;> rfl
  rw [hval] at hfields
  cases hfields
  exact hunits

/-! ### Finite codes -/

section
variable {F : NFmt} (hF : F.Floating) {s : Bool} (hs : F.signed = true ∨ s = false) {c : Nat} (hc : c < 2 ^ (F.w + F.mb))
include hF hs hc

/-- A code with its sign is a pattern of the format. -/
theorem NFmt.signed_lt : F.signBit s + c < 2 ^ F.bits := by
  obtain ⟨-, hbits, -, -, -⟩ := hF
  unfold NFmt.signBit
  rw [hbits]
  cases hsg : F.signed
  · simpa using hc
  · cases s <;> simp [Nat.pow_succ] <;> omega

omit hF hs in
theorem NFmt.signed_mod : (F.signBit s + c) / 2 ^ F.mb % 2 ^ F.w = c / 2 ^ F.mb ∧ (F.signBit s + c) % 2 ^ F.mb = c % 2 ^ F.mb := by
  have hE := div_lt_of_code hc
  have hbit : ∃ b, F.signBit s = b * 2 ^ F.w * 2 ^ F.mb := by
    unfold NFmt.signBit
    split
    · exact ⟨1, by rw [Nat.one_mul, Nat.pow_add]⟩
    · exact ⟨0, by simp⟩
  obtain ⟨b, hb⟩ := hbit
  rw [hb, Nat.add_comm, Nat.add_mul_div_right _ _ (Nat.two_pow_pos _), Nat.add_mul_mod_self_right, Nat.add_mul_mod_self_right,
    Nat.mod_eq_of_lt hE]
  exact ⟨rfl, rfl⟩

omit hF in
theorem NFmt.signOf_signed : F.signOf (F.signBit s + c) = s := by
  have hpos := Nat.two_pow_pos (F.w + F.mb)
  unfold NFmt.signOf NFmt.signBit
  cases hsg : F.signed
  · rcases hs with h | h
    · rw [hsg] at h; cases h
    · simp [h]
  · cases s
    · simp [Nat.div_eq_of_lt hc]
    · have hdiv : (2 ^ (F.w + F.mb) + c) / 2 ^ (F.w + F.mb) = 1 := by
        rw [Nat.add_comm, Nat.add_div_right _ hpos, Nat.div_eq_of_lt hc]
      simp [hdiv]

theorem NFmt.decode_code (hfin : F.special (F.signBit s + c) = false) (e : Int) :
    F.decode (F.signBit s + c) e false = (F.codeVal s c e, false) := by
  have hu := NFmt.signed_lt hF hs hc
  obtain ⟨hdiv, hmod⟩ := NFmt.signed_mod (F := F) (s := s) hc
  have hsign := NFmt.signOf_signed hs hc
  unfold NFmt.codeVal
  by_cases hE : c / 2 ^ F.mb = 0
  · rw [NFmt.decode_subnormal hF hu e false hfin (hdiv.trans hE), if_neg (by simp), hmod, hsign, if_pos hE]
  · rw [NFmt.decode_normal hF hu e false hfin (hdiv ▸ hE), hmod, hsign, hdiv, if_neg hE]

/-- No code from 1 to the largest finite one is special. -/
theorem NFmt.special_code (h0 : c ≠ 0) (hmax : c ≤ F.maxCode) : F.special (F.signBit s + c) = false := by
  have hmod := (NFmt.signed_mod (F := F) (s := s) hc).1
  unfold NFmt.special NFmt.maxCode at *
  cases hb : F.b8 with
  | false =>
    rw [if_neg (by simp), hmod, decide_eq_false_iff_not]
    rw [hb, if_neg Bool.false_ne_true] at hmax
    have hlt : c < (2 ^ F.w - 1) * 2 ^ F.mb := by omega
    exact (Nat.div_lt_of_lt_mul (by rwa [Nat.mul_comm])).ne
  | true =>
    have hw := hF.b8_width hb
    rw [hb, if_pos rfl] at hmax
    unfold NFmt.signBit
    rw [hw]
    rcases hs with hs | rfl
    · rw [hs] at hmax ⊢
      cases hi : F.hasInf <;> cases s <;> simp [hi] at hmax ⊢ <;> omega
    · cases hsg : F.signed <;> cases hi : F.hasInf <;> simp [hsg, hi] at hmax ⊢ <;> omega

end

/-! ### A rounded value is one of the format -/

theorem NFmt.decode_encode_within {F : NFmt} (hF : F.Floating) {s : Bool} (hs : F.signed = true ∨ s = false) {n : Nat} {q : Int}
    (hgrid : F.OnGrid n q) (hn : n ≠ 0) (hM : (n : ℚ) * 2 ^ q ≤ (F.maxFin.1 : ℚ) * 2 ^ F.maxFin.2) :
    ∃ m' e', (F.decode (F.encode (.fin s n q)) 0 false).1 = .fin s m' e' ∧ (m' : ℚ) * 2 ^ e' = n * 2 ^ q := by
  have hunits := NFmt.codeUnits_codeOf hgrid
  have hmax : F.codeOf n q ≤ F.maxCode := by
    rw [← hunits, NFmt.maxFin_units hF, mul_le_mul_iff_left₀ (two_zpow_pos _), Nat.cast_le] at hM
    exact codeUnits_le_iff.mp hM
  have h0 : F.codeOf n q ≠ 0 := by
    intro h
    rw [h] at hunits
    have hzero : codeUnits F.mb 0 = 0 := by simp [codeUnits]
    rw [hzero, Nat.cast_zero, zero_mul] at hunits
    exact (mul_pos (by exact_mod_cast Nat.pos_of_ne_zero hn) (two_zpow_pos q)).ne hunits
  have hc := lt_of_le_of_lt hmax (NFmt.maxCode_lt hF)
  obtain ⟨m', e', hval, hm'⟩ := F.codeVal_units s (F.codeOf n q)
  refine ⟨m', e', ?_, hm'.trans hunits⟩
  rw [NFmt.encode_fin hF.1 hgrid hn, NFmt.decode_code hF hs hc (NFmt.special_code hF hs hc h0 hmax)]
  exact hval

/-! ### Encoding what was decoded -/

theorem codeUnits_injective {mb c d : Nat} (h : codeUnits mb c = codeUnits mb d) : c = d :=
  le_antisymm (codeUnits_le_iff.mp h.le) (codeUnits_le_iff.mp h.ge)

/-- The value of a code encodes to it, with its sign. -/
theorem NFmt.encode_codeVal {F : NFmt} (hF : F.Floating) (s : Bool) {c : Nat} (h0 : c ≠ 0) :
    F.encode (F.codeVal s c 0) = F.signBit s + c := by
  obtain ⟨m, e, hval, hunits⟩ := F.codeVal_units s c
  have hcode : F.OnGrid m e ∧ m ≠ 0 := by
    have hf := Nat.mod_lt c (Nat.two_pow_pos F.mb)
    have hpos := Nat.two_pow_pos F.mb
    unfold NFmt.codeVal at hval
    unfold NFmt.OnGrid
    rw [Nat.pow_succ]
    split at hval
    · next hE =>
      cases hval
      refine ⟨⟨by omega, by omega, fun h => absurd h (by omega)⟩, fun hm => h0 ?_⟩
      rw [← Nat.div_add_mod c (2 ^ F.mb), hE, hm, Nat.mul_zero]
    · next hE =>
      cases hval
      refine ⟨⟨?_, by omega, fun _ => Nat.le_add_left ..⟩, by omega⟩
      have : 1 ≤ c / 2 ^ F.mb := Nat.one_le_iff_ne_zero.mpr hE
      omega
  have hsame := (NFmt.codeUnits_codeOf hcode.1).trans hunits
  rw [mul_left_inj' (two_zpow_pos _).ne', Nat.cast_inj] at hsame
  rw [hval, NFmt.encode_fin hF.1 hcode.1 hcode.2, codeUnits_injective hsame]

/-- A pattern is its sign bit and its code. -/
theorem NFmt.pattern_split {F : NFmt} (hF : F.Floating) {u : Nat} (hu : u < 2 ^ F.bits) :
    u = F.signBit (F.signOf u) + u % 2 ^ (F.w + F.mb) ∧ (F.signed = true ∨ F.signOf u = false) := by
  obtain ⟨-, hbits, -, -, -⟩ := hF
  rw [hbits] at hu
  have hsplit := Nat.div_add_mod u (2 ^ (F.w + F.mb))
  unfold NFmt.signBit NFmt.signOf
  cases hsg : F.signed
  · rw [hsg] at hu
    exact ⟨by simpa using (Nat.mod_eq_of_lt hu).symm, .inr rfl⟩
  · rw [hsg, if_pos rfl, Nat.pow_succ] at hu
    have hlt : u / 2 ^ (F.w + F.mb) < 2 := Nat.div_lt_of_lt_mul hu
    refine ⟨?_, .inl rfl⟩
    rcases Nat.lt_succ_iff_lt_or_eq.mp hlt with h | h
    · have h0 : u / 2 ^ (F.w + F.mb) = 0 := Nat.lt_one_iff.mp h
      rw [h0, Nat.mul_zero] at hsplit
      simp [h0, hsplit]
    · rw [h, Nat.mul_one] at hsplit
      simp [h, hsplit]

theorem NFmt.encode_inf_wide {F : NFmt} (hint : F.isInt = false) (hb : F.b8 = false) (s : Bool) :
    F.encode (.inf s) = (if s then 2 ^ (F.w + F.mb) else 0) + (2 ^ F.w - 1) * 2 ^ F.mb := by
  simp [NFmt.encode, hint, hb]

/-- A zero of a format with signed zeros encodes to its sign. -/
theorem NFmt.encode_zero_wide {F : NFmt} (hF : F.Floating) (hb : F.b8 = false) (s : Bool) (e : Int) :
    F.encode (.fin s 0 e) = F.signBit s := by
  obtain ⟨hint, -, -, -, hwide⟩ := hF
  simp [NFmt.encode, NFmt.signBit, hint, hb, (hwide hb).1]

/-- A binary8 pattern whose code is 0 is special. -/
theorem NFmt.special_zero_b8 {F : NFmt} (hF : F.Floating) (hb : F.b8 = true) (s : Bool) : F.special (F.signBit s) = true := by
  have hw := hF.b8_width hb
  unfold NFmt.special NFmt.signBit
  rw [hw, hb]
  cases F.signed <;> cases s <;> simp

section
variable {F : NFmt} (hF : F.Floating) {s : Bool} (hs : F.signed = true ∨ s = false) {c : Nat} (hc : c < 2 ^ (F.w + F.mb))
include hF hs hc

theorem NFmt.encode_decode_finite (hsp : F.special (F.signBit s + c) = false) :
    F.encode (F.decode (F.signBit s + c) 0 false).1 = F.signBit s + c := by
  rw [NFmt.decode_code hF hs hc hsp]
  by_cases h0 : c = 0
  · subst h0
    cases hb : F.b8 with
    | false =>
      have hval : F.codeVal s 0 0 = .fin s 0 (1 - F.bias - F.mb + 0) := by simp [NFmt.codeVal]
      rw [hval, NFmt.encode_zero_wide hF hb, Nat.add_zero]
    | true =>
      rw [Nat.add_zero, NFmt.special_zero_b8 hF hb s] at hsp
      cases hsp
  · exact NFmt.encode_codeVal hF s h0

theorem NFmt.encode_decode_wide (hb : F.b8 = false) (hsp : F.special (F.signBit s + c) = true)
    (hnan : (F.decode (F.signBit s + c) 0 false).1 ≠ .nan) : F.encode (F.decode (F.signBit s + c) 0 false).1 = F.signBit s + c := by
  obtain ⟨hdiv, hmod⟩ := NFmt.signed_mod (F := F) (s := s) hc
  have hE : c / 2 ^ F.mb = 2 ^ F.w - 1 := by
    unfold NFmt.special at hsp
    rw [hb, if_neg Bool.false_ne_true, decide_eq_true_iff, hdiv] at hsp
    exact hsp
  rw [NFmt.decode_special hF (NFmt.signed_lt hF hs hc) 0 false hb hsp, NFmt.signOf_signed hs hc, hmod] at hnan ⊢
  by_cases hf : c % 2 ^ F.mb = 0
  · have hcode := Nat.div_add_mod c (2 ^ F.mb)
    rw [hE, hf, Nat.add_zero, Nat.mul_comm] at hcode
    simp only [hf, if_true]
    rw [NFmt.encode_inf_wide hF.1 hb, hcode, NFmt.signBit, (hF.2.2.2.2 hb).1, Bool.true_and]
  · simp only [hf, if_false, ne_eq, not_true_eq_false] at hnan

end

theorem NFmt.encode_decode_b8 {F : NFmt} (hF : F.Floating) (hb : F.b8 = true) {u : Nat} (hu : u < 2 ^ F.bits)
    (hsp : F.special u = true) (hnan : (F.decode u 0 false).1 ≠ .nan) : F.encode (F.decode u 0 false).1 = u := by
  have hint := hF.1
  have hw := hF.b8_width hb
  rw [NFmt.decode_special_b8 hF hu 0 false hb hsp] at hnan ⊢
  unfold NFmt.signOf at *
  rw [hw] at *
  simp only [NFmt.special, hb, if_true, Bool.or_eq_true, Bool.and_eq_true, decide_eq_true_iff, Bool.not_eq_true'] at hsp
  rcases hsp with (((rfl | ⟨hs, rfl⟩) | ⟨⟨hs, hi⟩, rfl | rfl⟩) | ⟨hs, rfl⟩) | ⟨⟨hs, hi⟩, rfl⟩ <;> simp_all [NFmt.encode]

theorem NFmt.encode_decode {F : NFmt} (hF : F.Floating) {u : Nat} (hu : u < 2 ^ F.bits) (hnan : (F.decode u 0 false).1 ≠ .nan) :
    F.encode (F.decode u 0 false).1 = u := by
  obtain ⟨hsplit, hs⟩ := NFmt.pattern_split hF hu
  have hc := Nat.mod_lt u (Nat.two_pow_pos (F.w + F.mb))
  cases hsp : F.special u with
  | false =>
    rw [hsplit] at hsp
    have h := NFmt.encode_decode_finite hF hs hc hsp
    rwa [← hsplit] at h
  | true =>
    cases hb : F.b8 with
    | false =>
      rw [hsplit] at hsp hnan
      have h := NFmt.encode_decode_wide hF hs hc hb hsp hnan
      rwa [← hsplit] at h
    | true => exact NFmt.encode_decode_b8 hF hb hu hsp hnan

end Sys2Proof.Machine

/-! # O60: what the arithmetic computes (03 R69 to R89, 04 R109) -/

namespace Sys2Proof.Machine

/-! ### Integer destinations (03 R88) -/

/-- The smallest and the largest integer of a width. -/
def intLow (bits : Nat) (signed : Bool) : Int := if signed then -2 ^ (bits - 1) else 0
def intHigh (bits : Nat) (signed : Bool) : Int := if signed then 2 ^ (bits - 1) - 1 else 2 ^ bits - 1

/-- An integer brought into the range of a width. -/
def intClamp (bits : Nat) (signed : Bool) (v : Int) : Int := max (intLow bits signed) (min v (intHigh bits signed))

section
variable (bits : Nat) (signed : Bool)

theorem int_minInt : (NFmt.int bits signed).minInt = intLow bits signed := by
  cases signed <;> simp [NFmt.minInt, NFmt.int, intLow]

theorem int_maxInt : (NFmt.int bits signed).maxInt = intHigh bits signed := by
  cases signed <;> simp [NFmt.maxInt, NFmt.int, intHigh]

theorem intLow_le_intHigh : intLow bits signed ≤ intHigh bits signed := by
  have h1 : (0 : Int) < 2 ^ (bits - 1) := by positivity
  have h2 : (0 : Int) < 2 ^ bits := by positivity
  unfold intLow intHigh
  cases signed <;> simp only [if_true, Bool.false_eq_true, if_false] <;> omega

theorem intClamp_mem (v : Int) : intLow bits signed ≤ intClamp bits signed v ∧ intClamp bits signed v ≤ intHigh bits signed := by
  have h := intLow_le_intHigh bits signed
  unfold intClamp
  omega

theorem int_encode (c : Int) : (NFmt.int bits signed).encode (.fin (decide (c < 0)) c.natAbs 0) = (c % 2 ^ bits).toNat := by
  have hc : (if decide (c < 0) = true then -(shiftNat c.natAbs 0 : Int) else (shiftNat c.natAbs 0 : Int)) = c := by
    rw [shiftNat_self _ rfl]
    simp only [decide_eq_true_iff]
    split <;> omega
  show wrapNat bits _ = _
  rw [hc, wrapNat]
  simp

theorem int_decode {u : Nat} (hu : u < 2 ^ bits) (j : Int) (flush : Bool) :
    let d : Int := if signed = true ∧ 2 ^ (bits - 1) ≤ u then (u : Int) - 2 ^ bits else u
    (NFmt.int bits signed).decode u j flush = (.fin (decide (d < 0)) d.natAbs j, false) := by
  have hd : (if signed = true then sextNat bits u else (u : Int)) = if signed = true ∧ 2 ^ (bits - 1) ≤ u then (u : Int) - 2 ^ bits else u := by
    unfold sextNat
    rw [Nat.mod_eq_of_lt hu]
    by_cases h : 2 ^ (bits - 1) ≤ u
    · simp [h, not_lt.mpr h]
    · simp [h, not_le.mp h]
  intro d
  show (FVal.ofInt (if signed = true then sextNat bits (u % 2 ^ bits) else ((u % 2 ^ bits : Nat) : Int)) j, false) = _
  rw [Nat.mod_eq_of_lt hu, hd]
  rfl

/-- A finite value rounded into an integer format. -/
theorem int_round (mode m : Nat) (sat s : Bool) (e : Int) :
    let x := (m : ℚ) * 2 ^ e
    let k := ⌊x⌋₊
    let n := chosenMultiple mode s (decide (k % 2 = 0)) k (x - k)
    let v : Int := if s then -n else n
    let c := intClamp bits signed v
    (NFmt.int bits signed).round mode sat (.fin s m e) = ⟨.fin (decide (c < 0)) c.natAbs 0,
      (if c = v then 0 else 16) ||| (if x = k ∧ c = v then 0 else 128) ||| (if n = 0 ∧ m ≠ 0 then 32 else 0)⟩ := by
  intro x k n v c
  have hodd : (!(NFmt.int bits signed).odd k 0) = decide (k % 2 = 0) := not_mod_two k
  have hp := (NFmt.int bits signed).pick_eq mode s m e 0
  rw [zpow_zero, div_one] at hp
  replace hp : (NFmt.int bits signed).pick mode s m e 0 = (n, decide (x - k ≠ 0)) := by
    rw [hp]
    exact Prod.ext (congrArg (chosenMultiple mode s · k (x - k)) hodd) rfl
  by_cases hm : m = 0
  · have hx : x = 0 := by simp only [x, hm, Nat.cast_zero, zero_mul]
    have hk : k = 0 := by simp only [k, hx, Nat.floor_zero]
    have hn : n = 0 := by simp only [n, hx, hk, Nat.cast_zero, sub_self, chosenMultiple, true_or, if_true]
    have hv : v = 0 := by simp only [v, hn, Nat.cast_zero, neg_zero, ite_self]
    have hc : c = 0 := by
      have h1 : (0 : Int) < 2 ^ (bits - 1) := by positivity
      have h2 : (0 : Int) < 2 ^ bits := by positivity
      simp only [c, hv, intClamp, intLow, intHigh]
      cases signed <;> simp only [if_true, Bool.false_eq_true, if_false] <;> omega
    simp [NFmt.round, hm, hx, hk, hv, hc, NFmt.int]
  · have hround : (NFmt.int bits signed).round mode sat (.fin s m e) =
        (let r := (NFmt.int bits signed).pick mode s m e 0
         let d := (NFmt.int bits signed).clamp (if s then -(r.1 : Int) else (r.1 : Int)) r.2
         ⟨d.val, d.ev ||| if r.1 = 0 then 32 else 0⟩) := by
      simp only [NFmt.round, if_neg hm]
      rfl
    have hclamp : ∀ ix, (NFmt.int bits signed).clamp v ix =
        ⟨.fin (decide (c < 0)) c.natAbs 0, (if c = v then 0 else 16) ||| (if ix || c ≠ v then 128 else 0)⟩ := by
      intro ix
      unfold NFmt.clamp
      rw [int_minInt, int_maxInt]
      rfl
    have hix : (if (decide (x - k ≠ 0) || decide (c ≠ v)) = true then 128 else 0) = if x = k ∧ c = v then 0 else 128 := by
      by_cases hx : x = k <;> by_cases hc : c = v <;> simp [hx, hc, sub_eq_zero]
    rw [hround, hp]
    dsimp only
    rw [hclamp, hix]
    simp only [hm, ne_eq, not_false_eq_true, and_true]

theorem int_round_nan (mode : Nat) (sat : Bool) : (NFmt.int bits signed).round mode sat .nan = ⟨.fin false 0 0, 16⟩ := rfl

theorem int_round_inf (mode : Nat) (sat s : Bool) : (NFmt.int bits signed).round mode sat (.inf s) =
    ⟨.fin (decide ((if s then intLow bits signed else intHigh bits signed) < 0))
      (if s then intLow bits signed else intHigh bits signed).natAbs 0, 16⟩ := by
  rw [← int_minInt, ← int_maxInt]
  rfl

end

/-! ### The formats of Tables 3-2 and 3-3 -/

theorem f32_maxFin : NFmt.f32.maxFin = (2 ^ 24 - 1, 104) := by
  norm_num [NFmt.maxFin, NFmt.fields, NFmt.maxCode, NFmt.f32, Nat.shiftRight_eq_div_pow]
theorem bf16_maxFin : NFmt.bf16.maxFin = (2 ^ 8 - 1, 120) := by
  norm_num [NFmt.maxFin, NFmt.fields, NFmt.maxCode, NFmt.bf16, Nat.shiftRight_eq_div_pow]
theorem f16_maxFin : NFmt.f16.maxFin = (2 ^ 11 - 1, 5) := by
  norm_num [NFmt.maxFin, NFmt.fields, NFmt.maxCode, NFmt.f16, Nat.shiftRight_eq_div_pow]

/-- The largest finite code of a binary8 format decodes to its largest finite value. -/
theorem ofB8_decode_max (code : BitVec 6) (hp : code.extractLsb' 0 3 ≠ 0) :
    let F := NFmt.ofB8 code
    (F.decode (if F.signed then (if F.hasInf then 0x7E else 0x7F) else if F.hasInf then 0xFD else 0xFE) 0 false).1 =
      .fin false F.maxFin.1 F.maxFin.2 := by
  have hall : ∀ code : BitVec 6, code.extractLsb' 0 3 ≠ 0 →
      ((NFmt.ofB8 code).decode (if (NFmt.ofB8 code).signed then (if (NFmt.ofB8 code).hasInf then 0x7E else 0x7F)
        else if (NFmt.ofB8 code).hasInf then 0xFD else 0xFE) 0 false).1 =
      .fin false (NFmt.ofB8 code).maxFin.1 (NFmt.ofB8 code).maxFin.2 := by decide
  exact hall code hp

theorem opEvents_eq (ins : List FVal) (r : Rnd) :
    opEvents ins r = r.ev ||| (if .nan ∈ ins then 2 else if r.val = .nan then 1 else 0) := by
  have hany : ins.any FVal.isNan = decide (FVal.nan ∈ ins) := by
    rw [Bool.eq_iff_iff]
    simp [FVal.isNan]
  unfold opEvents
  rw [hany]
  by_cases h : FVal.nan ∈ ins
  · simp only [h, decide_true, if_true]; rfl
  · by_cases hv : r.val = .nan
    · simp only [h, decide_false, Bool.false_eq_true, if_false, hv, beq_self_eq_true, if_true]; rfl
    · simp [h, hv]

theorem floating_cases {F : NFmt} (h : F = NFmt.f32 ∨ F = NFmt.bf16 ∨ F = NFmt.f16 ∨
    ∃ code : BitVec 6, code.getLsbD 5 = true ∧ code.extractLsb' 0 3 ≠ 0 ∧ F = NFmt.ofB8 code) : F.Floating := by
  rcases h with rfl | rfl | rfl | ⟨code, -, hp, rfl⟩
  · exact f32_floating
  · exact bf16_floating
  · exact f16_floating
  · exact ofB8_floating code hp

/-- The largest finite value of Table 3-2. -/
theorem maxFin_wide {F : NFmt} (h : F = NFmt.f32 ∨ F = NFmt.bf16 ∨ F = NFmt.f16 ∨
    ∃ code : BitVec 6, code.getLsbD 5 = true ∧ code.extractLsb' 0 3 ≠ 0 ∧ F = NFmt.ofB8 code) (hb : F.b8 = false) :
    (F.maxFin.1 : ℚ) * 2 ^ F.maxFin.2 = (2 - (2 : ℚ) ^ (-(F.mb : Int))) * 2 ^ F.bias := by
  rcases h with rfl | rfl | rfl | ⟨code, -, -, rfl⟩
  · rw [f32_maxFin]; norm_num [NFmt.f32]
  · rw [bf16_maxFin]; norm_num [NFmt.bf16]
  · rw [f16_maxFin]; norm_num [NFmt.f16]
  · cases hb

theorem maxFin_b8 {F : NFmt} (h : F = NFmt.f32 ∨ F = NFmt.bf16 ∨ F = NFmt.f16 ∨
    ∃ code : BitVec 6, code.getLsbD 5 = true ∧ code.extractLsb' 0 3 ≠ 0 ∧ F = NFmt.ofB8 code) (hb : F.b8 = true) :
    (F.decode (if F.signed then (if F.hasInf then 0x7E else 0x7F) else if F.hasInf then 0xFD else 0xFE) 0 false).1 =
      .fin false F.maxFin.1 F.maxFin.2 := by
  rcases h with rfl | rfl | rfl | ⟨code, -, hp, rfl⟩
  · cases hb
  · cases hb
  · cases hb
  · exact ofB8_decode_max code hp

theorem NFmt.finish_eq (F : NFmt) (e : Int) (mode : Nat) (sat : Bool) (ins : List FVal) (x : FVal) :
    let r := F.round mode sat (x.scale (-e))
    F.finish e mode sat ins x = (F.encode r.val, r.ev ||| (if .nan ∈ ins then 2 else if r.val = .nan then 1 else 0)) :=
  Prod.ext rfl (opEvents_eq ins _)

/-- The rules for NaN and infinities (03 R71). -/
theorem special_values (mode : Nat) (x y z : FVal) (s t : Bool) (m : Nat) (e : Int) :
    FVal.sub mode x y = FVal.add mode x y.neg ∧ FVal.fma mode x y z = FVal.add mode (FVal.mul x y) z ∧
    FVal.add mode .nan x = .nan ∧ FVal.add mode x .nan = .nan ∧ FVal.mul .nan x = .nan ∧ FVal.mul x .nan = .nan ∧
    FVal.add mode (.inf s) (.inf t) = (if s = t then .inf s else .nan) ∧ FVal.add mode (.inf s) (.fin t m e) = .inf s ∧
    FVal.add mode (.fin t m e) (.inf s) = .inf s ∧ FVal.mul (.inf s) (.inf t) = .inf (s != t) ∧
    FVal.mul (.inf s) (.fin t m e) = (if m = 0 then .nan else .inf (s != t)) ∧
    FVal.mul (.fin s m e) (.inf t) = (if m = 0 then .nan else .inf (s != t)) := by
  refine ⟨rfl, rfl, rfl, ?_, rfl, ?_, rfl, rfl, rfl, rfl, rfl, rfl⟩
  · cases x <;> rfl
  · cases x <;> rfl

/-- Settles O60: exact sums and products, the rounding to a grid, and the patterns of the formats. -/
theorem roundingComputes : Obligations.RoundingComputes := by
  unfold Obligations.RoundingComputes
  intro val pick
  refine ⟨add_fin_fin, mul_fin_fin, special_values, cmp_fin_fin, fun F hcase => ?_, ?_, ?_, NFmt.finish_eq, fun s m e k => ⟨rfl, rfl, rfl⟩⟩
  · intro M
    have hF := floating_cases hcase
    refine ⟨maxFin_wide hcase, maxFin_b8 hcase, ?_, fun mode sat s e => ⟨NFmt.round_zero hF.1 mode sat s e,
      NFmt.round_nan hF.1 mode sat, NFmt.round_inf hF.1 mode sat s⟩, ?_⟩
    · intro mode m sat s e hm x q k low even n r
      have hchosen := chosenMultiple_le mode s even k low
      refine ⟨NFmt.round_to_zero hF.1 hm rfl rfl rfl rfl rfl, NFmt.round_negative hF.1 hm rfl rfl rfl rfl rfl,
        NFmt.round_beyond hF.1 hm rfl rfl rfl rfl rfl, fun h0 hs hM => ?_⟩
      have hr : r = ⟨.fin s n q, if low = 0 then 0 else 128⟩ := NFmt.round_within hF.1 hm rfl rfl rfl rfl rfl h0 hs hM
      refine ⟨hr, ?_⟩
      rw [hr]
      exact NFmt.decode_encode_within hF hs (NFmt.onGrid_chosen hm e rfl hchosen.1 hchosen.2) h0 hM
    · intro u e flush hu sgn E f special
      exact ⟨NFmt.decode_normal hF hu e flush, NFmt.decode_subnormal hF hu e flush, NFmt.decode_special hF hu e flush,
        NFmt.decode_special_b8 hF hu e flush, NFmt.encode_decode hF hu⟩
  · exact ⟨rfl, rfl, rfl, by decide⟩
  · intro bits mode m signed sat s e hbits F lo hi x k n v c
    exact ⟨int_round bits signed mode m sat s e, rfl, int_round_inf bits signed mode sat s, ⟨(intClamp_mem bits signed v).1,
      (intClamp_mem bits signed v).2, int_encode bits signed c⟩, fun u j flush hu => int_decode bits signed hu j flush⟩

end Sys2Proof.Machine

/-! # O45: what an update unit computes (04 R103, R104, R107, R108) -/

namespace Sys2Proof.Machine

/-! ### Rounding to the nearest even integer (03 R90) -/

/-- The nearest integer of a rational that is not negative, the even one of two. -/
def nearNat (q : ℚ) : Nat := let k := ⌊q⌋₊; if 1 / 2 < q - k ∨ (q - k = 1 / 2 ∧ k % 2 = 1) then k + 1 else k

/-- The nearest integer of a rational, its magnitude rounded. -/
def nearInt (q : ℚ) : Int := if q < 0 then -(nearNat (-q) : Int) else (nearNat q : Int)

theorem nearNat_natCast (n : Nat) : nearNat n = n := by
  have h : ¬ ((1 / 2 : ℚ) < 0 ∨ ((0 : ℚ) = 1 / 2 ∧ n % 2 = 1)) := by norm_num
  simp only [nearNat, Nat.floor_natCast, sub_self, if_neg h]

theorem rneDiv_eq (n : Nat) {d : Nat} (hd : 0 < d) : rneDiv n d = nearNat ((n : ℚ) / d) := by
  have hlow := quotient_low n hd
  unfold nearNat
  dsimp only
  rw [floor_quotient n, hlow]
  simp only [half_lt_low _ hd, low_eq_half _ hd, rneDiv, gt_iff_lt, Bool.or_eq_true, decide_eq_true_iff, Bool.and_eq_true, beq_iff_eq]

theorem rneMag_eq (m : Nat) (e : Int) : rneMag m e = nearNat ((m : ℚ) * 2 ^ e) := by
  unfold rneMag
  by_cases h : 0 ≤ e
  · have hcast : (m : ℚ) * 2 ^ e = ((m * pow2 e : Nat) : ℚ) := by rw [Nat.cast_mul, cast_pow2 h]
    rw [if_pos h, hcast, nearNat_natCast]
  · have hcast : (m : ℚ) * 2 ^ e = (m : ℚ) / (pow2 (-e) : ℚ) := by
      rw [cast_pow2 (by omega), zpow_neg, div_inv_eq_mul]
    rw [if_neg h, hcast, rneDiv_eq m (pow2_pos _)]

theorem rneInt_eq (s : Bool) (m : Nat) (e : Int) : rneInt s m e = nearInt ((if s then -1 else 1 : ℚ) * m * 2 ^ e) := by
  have hpos : (0 : ℚ) ≤ m * 2 ^ e := mul_nonneg (Nat.cast_nonneg m) (two_zpow_pos e).le
  unfold rneInt nearInt
  rw [rneMag_eq]
  cases s with
  | false => simp [not_lt.mpr hpos]
  | true =>
    have hneg : ((-1 : ℚ) * m * 2 ^ e) = -(m * 2 ^ e) := by ring
    simp only [if_true, hneg, neg_neg, Left.neg_neg_iff]
    rcases hpos.eq_or_lt with h0 | h0
    · rw [← h0]
      have hz : nearNat 0 = 0 := by exact_mod_cast nearNat_natCast 0
      simp [hz]
    · rw [if_pos h0]

theorem shrRne_eq (m : Int) (n : Nat) : shrRne m n = nearInt ((m : ℚ) / 2 ^ n) := by
  have hpos : (0 : ℚ) < 2 ^ n := by positivity
  have habs : ((m.natAbs : Nat) : ℚ) = |(m : ℚ)| := by rw [Nat.cast_natAbs, Int.cast_abs]
  have hneg : (m : ℚ) / 2 ^ n < 0 ↔ m < 0 := by rw [div_lt_iff₀ hpos, zero_mul, Int.cast_lt_zero]
  unfold shrRne nearInt
  rw [rneDiv_eq _ (Nat.two_pow_pos n), habs, Nat.cast_pow, Nat.cast_ofNat]
  by_cases h : m < 0
  · rw [if_pos (hneg.mpr h), abs_of_neg (Int.cast_lt_zero.mpr h), neg_div]
    exact if_pos h
  · rw [if_neg (mt hneg.mp h), abs_of_nonneg (Int.cast_nonneg (not_lt.mp h))]
    exact if_neg h

/-! ### The largest finite magnitude of a list -/

theorem lt_zpow_iff_floorLog2 {m : Nat} (hm : m ≠ 0) (e t : Int) : (m : ℚ) * 2 ^ e < 2 ^ t ↔ floorLog2 m e < t := by
  have hpos : (0 : ℚ) < m * 2 ^ e := mul_pos (by exact_mod_cast Nat.pos_of_ne_zero hm) (two_zpow_pos e)
  have h := Int.lt_zpow_iff_log_lt (b := 2) (by decide) (x := t) hpos
  rwa [floorLog2_eq hm, Nat.cast_ofNat] at h

theorem zpow_le_iff_floorLog2 {m : Nat} (hm : m ≠ 0) (e t : Int) : (2 : ℚ) ^ t ≤ m * 2 ^ e ↔ t ≤ floorLog2 m e := by
  rw [← not_lt, lt_zpow_iff_floorLog2 hm, not_lt]

/-- What one more element does to the largest exponent so far. -/
def logStep (acc : Option Int) (x : FVal) : Option Int :=
  match x with
  | .fin _ m e => if m = 0 then acc else
      match acc with
      | none => some (floorLog2 m e)
      | some a => some (max a (floorLog2 m e))
  | _ => acc

theorem maxLog_concat (l : List FVal) (x : FVal) : maxLog (l ++ [x]) = logStep (maxLog l) x := by
  rw [maxLog, List.foldl_append]
  cases x <;> rfl

/-- The exponent that maxLog gives is an element's, and no element's is larger. -/
theorem maxLog_spec (l : List FVal) :
    (∀ s m e, .fin s m e ∈ l → m ≠ 0 → ∃ a, maxLog l = some a ∧ floorLog2 m e ≤ a) ∧
    (∀ a, maxLog l = some a → ∃ s m e, .fin s m e ∈ l ∧ m ≠ 0 ∧ floorLog2 m e = a) := by
  induction l using List.reverseRecOn with
  | nil => exact ⟨by simp, fun a h => nomatch h⟩
  | append_singleton l x ih =>
    obtain ⟨hub, hex⟩ := ih
    rw [maxLog_concat]
    have hold : logStep (maxLog l) x = maxLog l → (∀ s m e, x = .fin s m e → m = 0) →
        (∀ s m e, .fin s m e ∈ l ++ [x] → m ≠ 0 → ∃ a, logStep (maxLog l) x = some a ∧ floorLog2 m e ≤ a) ∧
        (∀ a, logStep (maxLog l) x = some a → ∃ s m e, .fin s m e ∈ l ++ [x] ∧ m ≠ 0 ∧ floorLog2 m e = a) := by
      intro heq hx
      rw [heq]
      refine ⟨fun s m e hmem hm => ?_, fun a ha => ?_⟩
      · rcases List.mem_append.mp hmem with h | h
        · exact hub s m e h hm
        · exact absurd (hx s m e (List.mem_singleton.mp h).symm) hm
      · obtain ⟨s, m, e, hmem, h⟩ := hex a ha
        exact ⟨s, m, e, List.mem_append_left _ hmem, h⟩
    cases x with
    | nan => exact hold rfl fun _ _ _ h => nomatch h
    | inf s => exact hold rfl fun _ _ _ h => nomatch h
    | fin s m e =>
      by_cases hm : m = 0
      · exact hold (if_pos hm) fun _ _ _ h => by cases h; exact hm
      · have hlast : FVal.fin s m e ∈ l ++ [.fin s m e] := List.mem_append_right _ (List.mem_singleton_self _)
        have hstep : logStep (maxLog l) (.fin s m e) = some (match maxLog l with
            | none => floorLog2 m e
            | some a => max a (floorLog2 m e)) := by
          refine (if_neg hm).trans ?_
          cases maxLog l <;> rfl
        rw [hstep]
        cases hl : maxLog l with
        | none =>
          refine ⟨fun s' m' e' hmem hm' => ⟨_, rfl, ?_⟩, fun a ha => ⟨s, m, e, hlast, hm, Option.some.inj ha⟩⟩
          rcases List.mem_append.mp hmem with h | h
          · obtain ⟨a, ha, -⟩ := hub s' m' e' h hm'
            rw [hl] at ha
            cases ha
          · cases List.mem_singleton.mp h
            exact le_rfl
        | some b =>
          refine ⟨fun s' m' e' hmem hm' => ⟨_, rfl, ?_⟩, fun a ha => ?_⟩
          · rcases List.mem_append.mp hmem with h | h
            · obtain ⟨a, ha, hle⟩ := hub s' m' e' h hm'
              rw [hl] at ha
              cases ha
              exact hle.trans (le_max_left _ _)
            · cases List.mem_singleton.mp h
              exact le_max_right _ _
          · cases ha
            rcases max_choice b (floorLog2 m e) with h | h
            · obtain ⟨s', m', e', hmem, hm', hb⟩ := hex b hl
              exact ⟨s', m', e', List.mem_append_left _ hmem, hm', hb.trans h.symm⟩
            · exact ⟨s, m, e, hlast, hm, h.symm⟩

/-! ### A contribution to a block (04 R104) -/

/-- The state that a non-finite element brings. -/
theorem joinState_eq (t v : Nat) : joinState t v = if t = 0 then v else if v = 0 ∨ v = t then t else 3 := by
  unfold joinState
  split_ifs <;> grind

/-- A mantissa moved to a block's new exponent. -/
def shiftedMant (x top m : Int) : Int := if x < top then nearInt (m / (2 : ℚ) ^ (top - x)) else m

/-- A mantissa with what an element adds to it. -/
def addedMant (x top : Int) (m : Int) (v : FVal) : Int := shiftedMant x top m + (match v with
  | .fin s n e => nearInt ((if s then -1 else 1) * n * 2 ^ (e + 45 - top))
  | _ => 0)

section
variable {b : AccVal} {g : List FVal} {top : Int} (hx : b.x ≤ top) (hbound : ∀ s (n : Nat) e, .fin s n e ∈ g → (n : ℚ) * 2 ^ e < 2 ^ top)
  (hreach : top = b.x ∨ ∃ s, ∃ n : Nat, ∃ e, .fin s n e ∈ g ∧ (2 : ℚ) ^ (top - 1) ≤ n * 2 ^ e)
include hx hbound hreach

/-- The exponent of the block is raised to that of its largest element. -/
theorem maxLog_raises : (maxLog g = none → top = b.x) ∧
    ∀ a, maxLog g = some a → (b.x < a + 1 → top = a + 1) ∧ (a + 1 ≤ b.x → top = b.x) := by
  obtain ⟨hub, hex⟩ := maxLog_spec g
  have hnz : ∀ s (n : Nat) e, FVal.fin s n e ∈ g → (2 : ℚ) ^ (top - 1) ≤ n * 2 ^ e → n ≠ 0 := by
    rintro s n e - hle rfl
    rw [Nat.cast_zero, zero_mul] at hle
    exact absurd (two_zpow_pos (top - 1)) (not_lt.mpr hle)
  have hreach' : top = b.x ∨ ∃ a, maxLog g = some a ∧ top - 1 ≤ a := by
    refine hreach.imp_right fun ⟨s, n, e, hmem, hle⟩ => ?_
    have hn := hnz s n e hmem hle
    obtain ⟨a, ha, hle'⟩ := hub s n e hmem hn
    exact ⟨a, ha, ((zpow_le_iff_floorLog2 hn e _).mp hle).trans hle'⟩
  refine ⟨fun hnone => hreach'.resolve_right fun ⟨a, ha, _⟩ => ?_, fun a ha => ?_⟩
  · rw [hnone] at ha
    cases ha
  · obtain ⟨s, n, e, hmem, hn, hlog⟩ := hex a ha
    have hlt := (lt_zpow_iff_floorLog2 hn e top).mp (hbound s n e hmem)
    have hr : top = b.x ∨ top - 1 ≤ a := hreach'.imp_right fun ⟨a', ha', hle⟩ => by
      rw [ha] at ha'
      cases ha'
      exact hle
    omega

/-- The block as it stands before the element's mantissas are added. -/
theorem contribute_raised (st : List Nat) : (match maxLog g with
    | none => (⟨b.x, b.m, st⟩ : AccVal)
    | some a => if a + 1 > b.x then ⟨a + 1, b.m.map fun m => shrRne m (a + 1 - b.x).toNat, st⟩ else ⟨b.x, b.m, st⟩) =
    ⟨top, b.m.map (shiftedMant b.x top), st⟩ := by
  obtain ⟨hnone, hsome⟩ := maxLog_raises hx hbound hreach
  have hsame : top = b.x → b.m.map (shiftedMant b.x top) = b.m := by
    rintro rfl
    exact (List.map_congr_left fun m _ => if_neg (lt_irrefl _)).trans (List.map_id _)
  cases hl : maxLog g with
  | none =>
    have ht := hnone hl
    rw [hsame ht, ht]
  | some a =>
    obtain ⟨hup, hstay⟩ := hsome a hl
    dsimp only
    split
    · next h =>
      have ht := hup h
      have hshift : (fun m => shrRne m (a + 1 - b.x).toNat) = shiftedMant b.x top := by
        funext m
        have hpow : (2 : ℚ) ^ (top - b.x) = 2 ^ (a + 1 - b.x).toNat := by
          rw [← zpow_natCast]
          congr 1
          omega
        rw [shrRne_eq, shiftedMant, if_pos (by omega), hpow]
      rw [hshift, ht]
    · next h => rw [hsame (hstay (by omega)), hstay (by omega)]

/-- What a contribution makes of a block. -/
theorem contribute_eq :
    let st := List.zipWith (fun a y => joinState a (stateOf y)) b.st g
    let m := List.zipWith (addedMant b.x top) b.m g
    b.contribute g = if (m.any fun (v : Int) => decide (v.natAbs > 2 ^ 45)) then ⟨top + 1, m.map fun v => shrRne v 1, st⟩ else ⟨top, m, st⟩ := by
  intro st m
  unfold AccVal.contribute
  extract_lets up m'
  have hup : up = ⟨top, b.m.map (shiftedMant b.x top), st⟩ := contribute_raised hx hbound hreach st
  have hm : m' = m := by
    show List.zipWith _ up.m g = _
    rw [hup]
    show List.zipWith _ (b.m.map (shiftedMant b.x top)) g = _
    rw [List.zipWith_map_left]
    congr 1
    funext a y
    cases y with
    | fin s n e => exact congrArg (shiftedMant b.x top a + ·) (rneInt_eq s n _)
    | inf s => exact (Int.add_zero _).symm
    | nan => exact (Int.add_zero _).symm
  rw [hm, hup]

end

/-- The parts of a block after a contribution. -/
theorem contribute_parts {b : AccVal} {g : List FVal} {top : Int} (hm : b.m.length = g.length) (hst : b.st.length = g.length)
    (hx : b.x ≤ top) (hbound : ∀ s (n : Nat) e, .fin s n e ∈ g → (n : ℚ) * 2 ^ e < 2 ^ top)
    (hreach : top = b.x ∨ ∃ s, ∃ n : Nat, ∃ e, .fin s n e ∈ g ∧ (2 : ℚ) ^ (top - 1) ≤ n * 2 ^ e) :
    let past := (List.zipWith (addedMant b.x top) b.m g).any fun v => decide (2 ^ 45 < v.natAbs)
    let r := b.contribute g
    r.x = (if past then top + 1 else top) ∧ r.m.length = g.length ∧ r.st.length = g.length ∧
    ∀ (j : Nat) (m : Int) (t : Nat) (v : FVal), b.m[j]? = some m → b.st[j]? = some t → g[j]? = some v →
      r.m[j]? = some (if past then nearInt ((addedMant b.x top m v : ℚ) / 2) else addedMant b.x top m v) ∧
      r.st[j]? = some (joinState t (stateOf v)) := by
  intro past r
  have hr : r = if past then ⟨top + 1, (List.zipWith (addedMant b.x top) b.m g).map fun v => shrRne v 1,
      List.zipWith (fun a y => joinState a (stateOf y)) b.st g⟩ else ⟨top, List.zipWith (addedMant b.x top) b.m g,
      List.zipWith (fun a y => joinState a (stateOf y)) b.st g⟩ := contribute_eq hx hbound hreach
  have hget : ∀ (j : Nat) (m : Int) (v : FVal), b.m[j]? = some m → g[j]? = some v →
      (List.zipWith (addedMant b.x top) b.m g)[j]? = some (addedMant b.x top m v) := fun j m v h h' => by
    rw [List.getElem?_zipWith, h, h']
  have hgetst : ∀ (j : Nat) (t : Nat) (v : FVal), b.st[j]? = some t → g[j]? = some v →
      (List.zipWith (fun a y => joinState a (stateOf y)) b.st g)[j]? = some (joinState t (stateOf v)) := fun j t v h h' => by
    rw [List.getElem?_zipWith, h, h']
  rw [hr]
  cases past with
  | true =>
    refine ⟨rfl, by simp [hm], by simp [hst], fun j m t v hjm hjt hjv => ⟨?_, hgetst j t v hjt hjv⟩⟩
    show (List.map _ _)[j]? = _
    rw [List.getElem?_map, hget j m v hjm hjv, Option.map_some, shrRne_eq, pow_one]
    rfl
  | false => exact ⟨rfl, by simp [hm], by simp [hst], fun j m t v hjm hjt hjv => ⟨hget j m v hjm hjv, hgetst j t v hjt hjv⟩⟩

/-! ### The blocks of a line -/

theorem chunksFuel_getElem? {α : Type} {n : Nat} (hn : 0 < n) (fuel : Nat) (l : List α) (hfuel : l.length ≤ fuel) (b : Nat)
    (hb : b * n < l.length) : (chunksFuel n fuel l)[b]? = some ((l.drop (n * b)).take n) := by
  induction fuel generalizing l b with
  | zero => omega
  | succ f ih =>
    cases l with
    | nil => simp at hb
    | cons x r =>
      cases b with
      | zero => simp [chunksFuel]
      | succ b =>
        have hlen : ((x :: r).drop n).length = (x :: r).length - n := List.length_drop
        have hmul : (b + 1) * n = b * n + n := Nat.succ_mul b n
        rw [chunksFuel, List.getElem?_cons_succ, ih _ (by rw [hlen]; simp only [List.length_cons] at hfuel ⊢; omega) b (by rw [hlen]; omega),
          List.drop_drop, Nat.mul_succ, Nat.add_comm]

theorem chunks_getElem? {α : Type} {n : Nat} (hn : 0 < n) (l : List α) {b : Nat} (hb : b * n < l.length) :
    (chunks n l)[b]? = some ((l.drop (n * b)).take n) := chunksFuel_getElem? hn _ l le_rfl b hb

theorem applyBlocks_getElem? {bs : List AccBlock} {x : Contribution} {b : Nat} {a : AccBlock} (hbs : bs.length = 16)
    (hdata : x.data.length = 512) (ha : bs[b]? = some a) :
    let g := ((x.data.drop (32 * b)).take 32).map fun u => (NFmt.f32.decode u.toNat x.scale (fmtFlush x.fmt)).1
    let r := AccVal.contribute ⟨a.x, a.m, a.st⟩ g
    (applyBlocks bs x).1[b]? = some ⟨r.x, r.m, r.st⟩ := by
  intro g r
  have hb : b < 16 := by
    obtain ⟨h, -⟩ := List.getElem?_eq_some_iff.mp ha
    omega
  have hchunk := chunks_getElem? (n := 32) (by decide) (x.data.map fun u => NFmt.f32.decode u.toNat x.scale (fmtFlush x.fmt)) (b := b)
    (by rw [List.length_map, hdata]; omega)
  rw [← List.map_drop, ← List.map_take] at hchunk
  unfold applyBlocks
  dsimp only
  rw [List.getElem?_zipWith, ha, hchunk]
  dsimp only
  rw [List.map_map]
  rfl

/-! ### Conversion to FP32 and the optimizers (04 R107, R108) -/

/-- What a rounding into FP32 gives is a pattern of 32 bits. -/
theorem f32_encode_round_lt (s : Bool) (m : Nat) (e : Int) : NFmt.f32.encode (NFmt.f32.round 0 false (.fin s m e)).val < 2 ^ 32 := by
  by_cases hm : m = 0
  · subst hm
    rw [NFmt.round_zero rfl]
    cases s <;> decide
  · generalize hq : max (Int.log 2 ((m : ℚ) * 2 ^ e)) (1 - NFmt.f32.bias) - (NFmt.f32.mb : Int) = q
    generalize hx : (m : ℚ) * 2 ^ e / 2 ^ q = x
    generalize hk : ⌊x⌋₊ = k
    generalize hlow : x - k = low
    generalize hn : chosenMultiple 0 s (NFmt.f32.evenOn k q) k low = n
    by_cases h0 : n = 0
    · rw [NFmt.round_to_zero rfl hm hq hx hk hlow hn h0]
      cases s <;> decide
    · rcases le_or_gt ((n : ℚ) * 2 ^ q) ((NFmt.f32.maxFin.1 : ℚ) * 2 ^ NFmt.f32.maxFin.2) with hM | hM
      · have hchosen := chosenMultiple_le 0 s (NFmt.f32.evenOn k q) k low
        rw [hn, ← hk, ← hx] at hchosen
        have hgrid := NFmt.onGrid_chosen hm e hq hchosen.1 hchosen.2
        rw [NFmt.round_within rfl hm hq hx hk hlow hn h0 (.inl rfl) hM, NFmt.encode_fin rfl hgrid h0]
        rw [← NFmt.codeUnits_codeOf hgrid, NFmt.maxFin_units f32_floating, mul_le_mul_iff_left₀ (two_zpow_pos _), Nat.cast_le] at hM
        exact NFmt.signed_lt f32_floating (.inl rfl) (lt_of_le_of_lt (codeUnits_le_iff.mp hM) (NFmt.maxCode_lt f32_floating))
      · have hr := NFmt.round_beyond (sat := false) rfl hm hq hx hk hlow hn h0 (.inl rfl) hM
        rw [if_neg (by simp)] at hr
        rw [hr]
        cases s <;> decide

/-- The word that a rounding into FP32 delivers. -/
theorem round32_word (ins : List FVal) (x : FVal) :
    (round32 ins x).1 = BitVec.ofNat 32 (NFmt.f32.encode (NFmt.f32.round 0 false x).val) := by
  show BitVec.ofNat 32 (NFmt.f32.encode (NFmt.f32.round 0 false (x.scale (-0))).val) = _
  rw [neg_zero, FVal.scale_zero]

theorem finish_getElem? {b : AccVal} {j t : Nat} {m : Int} (hm : b.m[j]? = some m) (ht : b.st[j]? = some t) :
    ∃ v, b.finish[j]? = some v ∧
      (t = 0 → v.1.toNat = NFmt.f32.encode (NFmt.f32.round 0 false (.fin (decide (m < 0)) m.natAbs (b.x - 45))).val) ∧
      (t = 1 → v.1 = 0x7F80_0000) ∧ (t = 2 → v.1 = 0xFF80_0000) ∧ (t = 3 → v.1 = 0x7FC0_0000) := by
  unfold AccVal.finish
  rw [List.getElem?_zipWith, hm, ht]
  refine ⟨_, rfl, ?_, ?_, ?_, ?_⟩
  · rintro rfl
    show (round32 [] _).1.toNat = _
    rw [round32_word, BitVec.toNat_ofNat]
    exact Nat.mod_eq_of_lt (f32_encode_round_lt _ _ _)
  · rintro rfl; rfl
  · rintro rfl; rfl
  · rintro rfl; rfl

/-- An operation of an optimizer: its result rounded into FP32. -/
def rounded32 (f : FVal → FVal → FVal) (x y : BitVec 32) : BitVec 32 :=
  BitVec.ofNat 32 (NFmt.f32.encode (NFmt.f32.round 0 false
    (f (NFmt.f32.decode x.toNat 0 false).1 (NFmt.f32.decode y.toNat 0 false).1)).val)

section
variable (a b : Ev32)

theorem fmul_word : (fmul a b).1 = rounded32 FVal.mul a.1 b.1 := round32_word ..
theorem fadd_word : (fadd a b).1 = rounded32 (FVal.add 0) a.1 b.1 := round32_word ..
theorem fsub_word : (fsub a b).1 = rounded32 (FVal.sub 0) a.1 b.1 := round32_word ..
theorem fsqrt_word : (fsqrt a).1 = sqrt32 a.1 := rfl
theorem fdiv_word : (fdiv a b).1 = div32 a.1 b.1 := rfl

end

theorem lineResults_getElem? (r : TRec) (h : Hyper) {gs : List Ev32} (olds : List (List (BitVec 32))) {j : Nat} {q : Ev32}
    (hq : gs[j]? = some q) : (lineResults r h gs olds)[j]? =
    let at' := fun (k : Nat) => ((((olds[k]?).bind fun l => l[j]?).getD 0, 0) : Ev32)
    some (optimizeEv r.opt h (at' 0) q (at' 1) (at' 2)) := by
  unfold lineResults
  rw [List.getElem?_map, List.getElem?_zipIdx, hq, Nat.zero_add]
  rfl

/-- Settles O45: a contribution to a block and to a line, the conversion of a line, and the optimizers. -/
theorem updateArithmetic : Obligations.UpdateArithmetic := by
  unfold Obligations.UpdateArithmetic
  intro near rint state
  refine ⟨?_, fun bs x b a => applyBlocks_getElem?, fun b j m t => finish_getElem?, ?_⟩
  · intro b g top hm hst hx hbound hreach add past r
    obtain ⟨hrx, hrm, hrst, hget⟩ := contribute_parts hm hst hx hbound hreach
    refine ⟨hrx, hrm, hrst, fun j m t v hjm hjt hjv => ?_⟩
    obtain ⟨h1, h2⟩ := hget j m t v hjm hjt hjv
    refine ⟨h1, h2.trans ?_⟩
    rw [joinState_eq]
    cases v <;> rfl
  · intro r h gs olds j q hq value rnd mul add sub old w bm bv gv
    refine ⟨_, lineResults_getElem? r h olds hq, fun ho => ?_, fun ho => ?_, fun ho => ?_⟩
    · rw [ho]
      exact ⟨rfl, rfl, rfl⟩
    · rw [ho]
      simp only [optimizeEv, fmul_word, fadd_word, fsub_word]
      exact ⟨rfl, rfl, rfl⟩
    · rw [ho]
      simp only [optimizeEv, fmul_word, fadd_word, fsub_word, fsqrt_word, fdiv_word]
      exact ⟨rfl, rfl, rfl⟩

end Sys2Proof.Machine

/-! # O42: the bytes that the transfers move (04 R100, R101, 10 R285, R286, R290, R291) -/

namespace Sys2Proof.Machine

/-! ### The digits of a packed block -/

/-- Digits packed from the lowest, b being their base. -/
def packed (b : Nat) (ds : List Nat) : Nat := ds.foldr (fun d acc => d + b * acc) 0

theorem packed_lt {b : Nat} {ds : List Nat} (h : ∀ d ∈ ds, d < b) : packed b ds < b ^ ds.length := by
  induction ds with
  | nil => simp [packed]
  | cons d ds ih =>
    have hd := h d List.mem_cons_self
    have hr := ih fun x hx => h x (List.mem_cons_of_mem _ hx)
    calc packed b (d :: ds) = d + b * packed b ds := rfl
      _ < b * (packed b ds + 1) := by rw [Nat.mul_add]; omega
      _ ≤ b * b ^ ds.length := Nat.mul_le_mul_left _ hr
      _ = b ^ (d :: ds).length := by rw [List.length_cons, Nat.pow_succ']

theorem packed_digit {b : Nat} {ds : List Nat} (h : ∀ d ∈ ds, d < b) {j d : Nat} (hj : ds[j]? = some d) :
    packed b ds / b ^ j % b = d := by
  induction ds generalizing j with
  | nil => cases hj
  | cons x ds ih =>
    have hx := h x List.mem_cons_self
    cases j with
    | zero =>
      cases hj
      rw [pow_zero, Nat.div_one]
      exact (Nat.add_mul_mod_self_left ..).trans (Nat.mod_eq_of_lt hx)
    | succ j =>
      have hdiv : packed b (x :: ds) / b = packed b ds := by
        rw [show packed b (x :: ds) = x + b * packed b ds from rfl, Nat.add_mul_div_left _ _ (by omega), Nat.div_eq_of_lt hx, Nat.zero_add]
      rw [Nat.pow_succ', ← Nat.div_div_eq_div_mul, hdiv]
      exact ih (fun y hy => h y (List.mem_cons_of_mem _ hy)) hj

/-! ### The stash block (04 R101) -/

/-- The pattern of k bits of a stash element. -/
def stashBits (k : Nat) (e : Bool × Nat) : Nat := (if e.1 then 2 ^ (k - 1) else 0) + e.2

theorem stashMax_concat (q : Int) (l : List FVal) (x : FVal) : stashMax q (l ++ [x]) =
    match x with
    | .fin _ m e => Nat.max (stashMax q l) (rneMag m (e - q))
    | _ => stashMax q l := by
  rw [stashMax, List.foldl_append]
  cases x <;> rfl

theorem stashMax_gt_iff (q : Int) (t : Nat) (l : List FVal) : t < stashMax q l ↔ ∃ s m e, .fin s m e ∈ l ∧ t < rneMag m (e - q) := by
  induction l using List.reverseRecOn with
  | nil => simp [stashMax]
  | append_singleton l x ih =>
    rw [stashMax_concat]
    cases x with
    | nan => simp [ih]
    | inf s => simp [ih]
    | fin s m e =>
      refine (lt_max_iff (b := stashMax q l)).trans ?_
      rw [ih]
      constructor
      · rintro (⟨s', m', e', hmem, h⟩ | h)
        · exact ⟨s', m', e', List.mem_append_left _ hmem, h⟩
        · exact ⟨s, m, e, by simp, h⟩
      · rintro ⟨s', m', e', hmem, h⟩
        rcases List.mem_append.mp hmem with hm | hm
        · exact .inl ⟨s', m', e', hm, h⟩
        · cases List.mem_singleton.mp hm
          exact .inr h

theorem maxLog_eq_none_iff (l : List FVal) : maxLog l = none ↔ ∀ s m e, .fin s m e ∈ l → m = 0 := by
  obtain ⟨hub, hex⟩ := maxLog_spec l
  constructor
  · intro h s m e hmem
    by_contra hm
    obtain ⟨a, ha, -⟩ := hub s m e hmem hm
    rw [h] at ha
    cases ha
  · intro h
    cases hl : maxLog l with
    | none => rfl
    | some a =>
      obtain ⟨s, m, e, hmem, hm, -⟩ := hex a hl
      exact absurd (h s m e hmem) hm

/-- The exponent of a block before it is raised. -/
def stashExp (xs : List FVal) : Int :=
  match maxLog xs with
  | none => -125
  | some a => max (a + 1) (-125)

theorem stashExp_eq {xs : List FVal} {s0 : Int} (hlow : -125 ≤ s0) (hub : ∀ s (n : Nat) e, .fin s n e ∈ xs → (n : ℚ) * 2 ^ e < 2 ^ s0)
    (hmin : s0 = -125 ∨ ∃ s, ∃ n : Nat, ∃ e, .fin s n e ∈ xs ∧ (2 : ℚ) ^ (s0 - 1) ≤ n * 2 ^ e) : stashExp xs = s0 := by
  obtain ⟨hle, hex⟩ := maxLog_spec xs
  have hlog : s0 ≠ -125 → ∃ a, maxLog xs = some a ∧ s0 - 1 ≤ a := by
    intro hne
    obtain ⟨s, n, e, hmem, hn⟩ := hmin.resolve_left hne
    have hn0 : n ≠ 0 := by
      rintro rfl
      rw [Nat.cast_zero, zero_mul] at hn
      exact absurd (two_zpow_pos (s0 - 1)) (not_lt.mpr hn)
    obtain ⟨a, ha, hfl⟩ := hle s n e hmem hn0
    exact ⟨a, ha, ((zpow_le_iff_floorLog2 hn0 _ _).mp hn).trans hfl⟩
  unfold stashExp
  cases hl : maxLog xs with
  | none =>
    by_contra hne
    obtain ⟨a, ha, -⟩ := hlog (Ne.symm hne)
    rw [hl] at ha
    cases ha
  | some a =>
    obtain ⟨s, m, e, hmem, hm, rfl⟩ := hex a hl
    have hlt := (lt_zpow_iff_floorLog2 hm _ _).mp (hub s m e hmem)
    by_cases hne : s0 = -125
    · dsimp only; omega
    · obtain ⟨b, hb, hsb⟩ := hlog hne
      rw [hl] at hb
      cases hb
      dsimp only; omega

theorem nearNat_le {q : ℚ} {n : Nat} (h : q ≤ n) (h0 : 0 ≤ q) : nearNat q ≤ n := by
  have hfl : ⌊q⌋₊ ≤ n := Nat.floor_le_of_le h
  rcases hfl.lt_or_eq with hlt | heq
  · unfold nearNat
    dsimp only
    split_ifs <;> omega
  · have : q = n := le_antisymm h (by rw [← heq]; exact Nat.floor_le h0)
    rw [this, nearNat_natCast]

/-- The flags of a block. -/
def stashFlags (xs : List FVal) : Nat :=
  (if FVal.nan ∈ xs then 1 else 0) + (if FVal.inf false ∈ xs then 2 else 0) + (if FVal.inf true ∈ xs then 4 else 0)

theorem stashFlags_lt (xs : List FVal) : stashFlags xs < 8 := by
  unfold stashFlags
  split_ifs <;> omega

theorem any_beq_iff (xs : List FVal) (v : FVal) : xs.any (· == v) = decide (v ∈ xs) := by
  rw [Bool.eq_iff_iff, List.any_eq_true, decide_eq_true_iff]
  constructor
  · rintro ⟨x, hx, he⟩
    exact (beq_iff_eq.mp he) ▸ hx
  · exact fun h => ⟨v, h, beq_self_eq_true v⟩

theorem maxLog_none_flags_iff (xs : List FVal) : (maxLog xs = none ∧ stashFlags xs = 0) ↔ ∀ x ∈ xs, ∃ s e, x = .fin s 0 e := by
  have hflags : stashFlags xs = 0 ↔ FVal.nan ∉ xs ∧ FVal.inf false ∉ xs ∧ FVal.inf true ∉ xs := by
    unfold stashFlags
    split_ifs <;> simp_all
  rw [hflags, maxLog_eq_none_iff]
  constructor
  · rintro ⟨hfin, hnan, hpos, hneg⟩ x hx
    cases x with
    | nan => exact absurd hx hnan
    | inf s => cases s with
      | false => exact absurd hx hpos
      | true => exact absurd hx hneg
    | fin s m e => exact ⟨s, e, by rw [hfin s m e hx]⟩
  · intro h
    refine ⟨fun s m e hmem => ?_, fun hx => ?_, fun hx => ?_, fun hx => ?_⟩
    · obtain ⟨s', e', heq⟩ := h _ hmem
      cases heq
      rfl
    all_goals
      obtain ⟨s', e', heq⟩ := h _ hx
      cases heq

/-- The exponent of a block: raised by one where the largest magnitude would not fit. -/
def stashShared (k : Nat) (xs : List FVal) : Int :=
  if stashMax (stashExp xs - (k : Int) + 1) xs > 2 ^ (k - 1) - 1 then stashExp xs + 1 else stashExp xs

section
variable {xs : List FVal} (k : Nat) (hlen : xs.length = 32)
include hlen

theorem pad_block : xs ++ List.replicate (32 - xs.length) (FVal.fin false 0 0) = xs := by rw [hlen]; exact List.append_nil xs

theorem stashBlock_zero (hz : ∀ x ∈ xs, ∃ s e, x = .fin s 0 e) : (stashBlock k xs).1 = List.replicate (2 + 4 * k) 0 := by
  unfold stashBlock
  simp only [pad_block hlen, any_beq_iff, decide_eq_true_iff]
  exact congrArg Prod.fst (if_pos (by simpa [stashFlags] using (maxLog_none_flags_iff xs).mpr hz))

theorem stashBlock_packed (hz : ¬ ∀ x ∈ xs, ∃ s e, x = .fin s 0 e) : (stashBlock k xs).1 =
    natLe 2 (stashFlags xs * 256 ||| (stashShared k xs + 126).toNat) ++
      natLe (4 * k) (packed (2 ^ k) (xs.map fun x => stashBits k (stashElem k (stashShared k xs - (k : Int) + 1) x))) := by
  unfold stashBlock
  simp only [pad_block hlen, any_beq_iff, decide_eq_true_iff]
  refine (congrArg Prod.fst (if_neg (mt (fun h => (maxLog_none_flags_iff xs).mp ?_) hz))).trans ?_
  · simpa [stashFlags] using h
  · rw [packed, List.foldr_map, List.foldr_map]
    rfl

end

/-! ### The elements of a block -/

/-- The magnitude of an element on the grid 2^q, a non-finite one the largest. -/
def stashMag (k : Nat) (q : Int) (x : FVal) : Nat :=
  match x with
  | .fin _ n e => nearNat ((n : ℚ) * 2 ^ (e - q))
  | _ => 2 ^ (k - 1) - 1

theorem stashBits_eq (k : Nat) (q : Int) (x : FVal) : stashBits k (stashElem k q x) = stashMag k q x + (match x with
    | .fin sg _ _ => if sg = true ∧ stashMag k q x ≠ 0 then 2 ^ (k - 1) else 0
    | .inf sg => if sg then 2 ^ (k - 1) else 0
    | .nan => 0) := by
  cases x with
  | nan => simp [stashBits, stashElem, stashMag]
  | inf s => exact Nat.add_comm ..
  | fin s n e =>
    simp only [stashBits, stashElem, stashMag, rneMag_eq, Bool.and_eq_true, bne_iff_ne]
    exact Nat.add_comm ..

theorem stashBits_lt {k : Nat} {q : Int} {x : FVal} (hk : 1 ≤ k) (h : stashMag k q x ≤ 2 ^ (k - 1) - 1) :
    stashBits k (stashElem k q x) < 2 ^ k := by
  have hpos := Nat.two_pow_pos (k - 1)
  have htwo : 2 ^ k = 2 * 2 ^ (k - 1) := by rw [← Nat.pow_succ']; congr 1; omega
  rw [stashBits_eq]
  have hsign : (match x with
    | .fin sg _ _ => if sg = true ∧ stashMag k q x ≠ 0 then 2 ^ (k - 1) else 0
    | .inf sg => if sg then 2 ^ (k - 1) else 0
    | .nan => 0) ≤ 2 ^ (k - 1) := by
    cases x with
    | nan => exact Nat.zero_le _
    | inf s => dsimp only; split_ifs <;> omega
    | fin s n e => dsimp only; split_ifs <;> omega
  omega

/-- Where the largest magnitude would not fit, it fits at twice the grid. -/
theorem stashMag_le {k : Nat} {xs : List FVal} {x : FVal} (hk : 2 ≤ k) (hx : x ∈ xs)
    (hub : ∀ s (n : Nat) e, .fin s n e ∈ xs → (n : ℚ) * 2 ^ e < 2 ^ stashExp xs) :
    stashMag k (stashShared k xs - (k : Int) + 1) x ≤ 2 ^ (k - 1) - 1 := by
  cases x with
  | nan => exact le_rfl
  | inf s => exact le_rfl
  | fin s n e =>
    unfold stashShared
    split_ifs with hw
    · have hgrid : (n : ℚ) * 2 ^ (e - (stashExp xs + 1 - (k : Int) + 1)) ≤ ((2 ^ (k - 2) : Nat) : ℚ) := by
        have hexp : e - (stashExp xs + 1 - (k : Int) + 1) = e + -(stashExp xs) + ((k - 2 : Nat) : Int) := by omega
        have hone : (n : ℚ) * 2 ^ e * 2 ^ (-(stashExp xs)) ≤ 1 := by
          rw [zpow_neg, ← div_eq_mul_inv, div_le_one (two_zpow_pos _)]
          exact (hub s n e hx).le
        rw [hexp, zpow_add₀ two_ne_zero, zpow_add₀ two_ne_zero, zpow_natCast, ← mul_assoc, ← mul_assoc, Nat.cast_pow, Nat.cast_ofNat]
        exact mul_le_of_le_one_left (by positivity) hone
      have hnear : nearNat ((n : ℚ) * 2 ^ (e - (stashExp xs + 1 - (k : Int) + 1))) ≤ 2 ^ (k - 2) :=
        nearNat_le hgrid (mul_nonneg (Nat.cast_nonneg n) (two_zpow_pos _).le)
      have htwo : 2 ^ (k - 1) = 2 * 2 ^ (k - 2) := by rw [← Nat.pow_succ']; congr 1; omega
      have hpos := Nat.two_pow_pos (k - 2)
      exact hnear.trans (by omega)
    · by_contra hgt
      refine hw ((stashMax_gt_iff _ _ xs).mpr ⟨s, n, e, hx, ?_⟩)
      rw [rneMag_eq]
      exact not_le.mp hgt

/-- Clause 1: what a block of 32 elements holds (R101). -/
theorem stashBlock_spec {k : Nat} {xs : List FVal} {s0 : Int} (hlen : xs.length = 32) (hk : 2 ≤ k)
    (hz : ¬ ∀ x ∈ xs, ∃ s e, x = .fin s 0 e) (hexp : stashExp xs = s0) (hlow : -125 ≤ s0)
    (hub : ∀ s (n : Nat) e, .fin s n e ∈ xs → (n : ℚ) * 2 ^ e < 2 ^ s0) (htop : stashShared k xs ≤ 129) :
    let blk := (stashBlock k xs).1
    blk.length = 2 + 4 * k ∧ (leNat (blk.take 2) : Int) = stashFlags xs * 256 + (stashShared k xs + 126) ∧
    ∀ j x, xs[j]? = some x →
      leNat (blk.drop 2) / 2 ^ (k * j) % 2 ^ k = stashBits k (stashElem k (stashShared k xs - (k : Int) + 1) x) := by
  intro blk
  subst hexp
  have hdigits : ∀ d ∈ xs.map fun x => stashBits k (stashElem k (stashShared k xs - (k : Int) + 1) x), d < 2 ^ k := by
    intro d hd
    obtain ⟨x, hx, rfl⟩ := List.mem_map.mp hd
    exact stashBits_lt (by omega) (stashMag_le hk hx hub)
  have hblk : blk = _ := stashBlock_packed k hlen hz
  have htake : blk.take 2 = natLe 2 (stashFlags xs * 256 ||| (stashShared k xs + 126).toNat) := by
    rw [hblk, List.take_append_of_le_length (by simp), List.take_of_length_le (by simp)]
  have hdrop : blk.drop 2 = natLe (4 * k) (packed (2 ^ k) (xs.map fun x =>
      stashBits k (stashElem k (stashShared k xs - (k : Int) + 1) x))) := by
    rw [hblk, List.drop_append_of_le_length (by simp), List.drop_of_length_le (by simp), List.nil_append]
  refine ⟨by rw [hblk]; simp, ?_, fun j x hj => ?_⟩
  · have hshared : -125 ≤ stashShared k xs := by unfold stashShared; split_ifs <;> omega
    have hor : stashFlags xs * 256 ||| (stashShared k xs + 126).toNat = stashFlags xs * 256 + (stashShared k xs + 126).toNat := by
      rw [Nat.mul_comm]
      exact (Nat.two_pow_add_eq_or_of_lt (i := 8) (by omega) _).symm
    have hflags := stashFlags_lt xs
    rw [htake, leNat_natLe, hor, Nat.mod_eq_of_lt (by omega)]
    push_cast
    omega
  · have hpacked := packed_lt hdigits
    rw [List.length_map, hlen, ← pow_mul, show k * 32 = 8 * (4 * k) by omega, pow_mul, show 2 ^ 8 = 256 from rfl] at hpacked
    rw [hdrop, leNat_natLe, Nat.mod_eq_of_lt hpacked, pow_mul]
    exact packed_digit hdigits (by rw [List.getElem?_map, hj]; rfl)

theorem stashShared_eq (k : Nat) {xs : List FVal} {s0 : Int} (hexp : stashExp xs = s0) : stashShared k xs =
    if (xs.any fun x => match x with
      | .fin _ n e => decide (2 ^ (k - 1) - 1 < nearNat ((n : ℚ) * 2 ^ (e - (s0 - k + 1))))
      | _ => false) then s0 + 1 else s0 := by
  have hwide : 2 ^ (k - 1) - 1 < stashMax (s0 - (k : Int) + 1) xs ↔ (xs.any fun x => match x with
      | .fin _ n e => decide (2 ^ (k - 1) - 1 < nearNat ((n : ℚ) * 2 ^ (e - (s0 - k + 1))))
      | _ => false) = true := by
    rw [stashMax_gt_iff, List.any_eq_true]
    constructor
    · rintro ⟨s, m, e, hmem, h⟩
      rw [rneMag_eq] at h
      exact ⟨_, hmem, decide_eq_true h⟩
    · rintro ⟨x, hmem, h⟩
      cases x with
      | nan => exact nomatch h
      | inf s => exact nomatch h
      | fin s m e => exact ⟨s, m, e, hmem, by rw [rneMag_eq]; exact of_decide_eq_true h⟩
  unfold stashShared
  rw [hexp]
  simp only [gt_iff_lt, hwide]

/-! ### Restoring a block -/

theorem restoreBlock_getElem? (k : Nat) (F : NFmt) (blk : List Byte) {j : Nat} (hj : j < 32) : (restoreBlock k F blk)[j]? = some
    (if leNat (blk.take 1) = 0 then (0, 0)
    else
      let e := leNat (blk.drop 2) / 2 ^ (k * j) % 2 ^ k
      let r := F.round 0 true (.fin (decide (e / 2 ^ (k - 1) = 1)) (e % 2 ^ (k - 1)) ((leNat (blk.take 1) : Int) - 126 - k + 1))
      (F.encode r.val, r.ev)) := by
  have hX : fieldAt blk 0 1 = leNat (blk.take 1) := by cases blk <;> rfl
  have hexp (X : Nat) : (X : Int) - 125 - k = X - 126 - k + 1 := by ring
  rw [restoreBlock, List.getElem?_map, List.getElem?_range hj]
  simp only [hX, Nat.shiftRight_eq_div_pow, hexp, Option.map_some]
  rfl

/-! ### A list in pieces -/

theorem length_chunksFuel {α : Type} {n : Nat} (hn : 0 < n) (fuel : Nat) (l : List α) (hfuel : l.length ≤ fuel) :
    (chunksFuel n fuel l).length = (l.length + (n - 1)) / n := by
  induction fuel generalizing l with
  | zero =>
    have h0 : l.length = 0 := by omega
    rw [h0, Nat.zero_add, Nat.div_eq_of_lt (by omega)]
    rfl
  | succ f ih =>
    cases l with
    | nil => rw [List.length_nil, Nat.zero_add, Nat.div_eq_of_lt (by omega)]; rfl
    | cons x r =>
      have hdrop : ((x :: r).drop n).length = (x :: r).length - n := List.length_drop
      have hpos : 0 < (x :: r).length := Nat.succ_pos _
      rw [chunksFuel, List.length_cons, ih _ (by omega), hdrop]
      by_cases hle : (x :: r).length ≤ n
      · rw [Nat.sub_eq_zero_of_le hle, Nat.zero_add, Nat.div_eq_of_lt (by omega)]
        refine (Nat.div_eq_of_lt_le (by omega) ?_).symm
        omega
      · rw [← Nat.add_div_right _ hn]
        congr 1
        omega

theorem chunks_eq_range {α : Type} (l : List α) :
    chunks 32 l = (List.range ((l.length + 31) / 32)).map fun b => (l.drop (32 * b)).take 32 := by
  refine List.ext_getElem? fun b => ?_
  rw [List.getElem?_map]
  by_cases hb : b < (l.length + 31) / 32
  · rw [chunks_getElem? (by decide) l (by omega), List.getElem?_range hb]
    rfl
  · have hlen : (chunks 32 l).length = (l.length + 31) / 32 := length_chunksFuel (by decide) _ l le_rfl
    rw [List.getElem?_eq_none (by omega), List.getElem?_eq_none (by rw [List.length_range]; omega)]
    rfl

/-! ### The engines that move bytes -/

section
variable {s s1 : State} {a u q : Nat} {c : Ctx} {o : TOp} {m : Mask} {sp : BitVec 6} {n : BitVec 4}

theorem State.sendImage_written {bs : List Byte} {k : State → Ran} (h : s.writeOp c o bs = (s1, ⟨q, none⟩)) :
    s.sendImage c o bs k = k (s1.engineWrote c o (boxTags o.tensor c.pd.toNat o.cells)) := by
  simp only [State.sendImage, h]

theorem TOp.arrives_zero (h : o.par 5 = 0) : o.arrives s = .done s none [] := if_pos h

theorem TOp.arrives_word (h : o.par 5 ≠ 0) : o.arrives s = .sent s := if_neg h

theorem runOp_stash {x : TArg} {rest : List TArg} (hf : o.form = .stash m sp n) (hargs : c.args o.binds = some (x :: rest))
    (hprog : o.prog = 0) :
    let vs := x.xs.map fun u => ((tileFmt x.e.fmt).decode u x.e.scale (fmtFlush o.fmt)).1
    let blocks := (List.range ((vs.length + 31) / 32)).map fun b => (stashBlock (2 * o.tensor.smode + 2) ((vs.drop (32 * b)).take 32)).1
    s.writeBlocks o.tensor.spol c.pd.toNat o.stashVa blocks = (s1, ⟨q, none⟩) →
    ∃ evs, runOp s a c o u = .done (s1.engineWrote c o ((linePieces ((blocks.map (·.length)).sum / 2048 + 3) o.stashVa
      (blocks.map (·.length)).sum).map fun p => flatTag c.pd.toNat p.1)) none evs := by
  intro vs blocks hw
  have hvs : vs = (x.vals o.fmt).map (·.1) := by rw [TArg.vals, List.map_map]; rfl
  have hblocks : blocks = ((chunks 32 (x.vals o.fmt)).map fun l => stashBlock (stashK o.tensor.smode) (l.map (·.1))).map (·.1) := by
    rw [chunks_eq_range, List.map_map, List.map_map]
    simp only [blocks, hvs, List.length_map, ← List.map_drop, ← List.map_take]
    rfl
  have hsum : (((chunks 32 (x.vals o.fmt)).map fun l => stashBlock (stashK o.tensor.smode) (l.map (·.1))).map fun b => b.1.length).sum =
      (blocks.map (·.length)).sum := by rw [hblocks, List.map_map (l := List.map _ _)]; rfl
  rw [runOp.eq_def, hf]
  dsimp only
  unfold runStash
  simp only [hargs, hprog, List.take_zero, List.map_nil, List.sum_nil, Nat.add_zero, List.drop_zero, hsum, ← hblocks, hw]
  exact ⟨_, rfl⟩

theorem runOp_restore {e : Entry} {bs : List (List Byte)} (hf : o.form = .restore m sp n) (he : o.results.head? = some e)
    (hr : s.readBlocks o.tensor.spol c.pd.toNat o.stashVa o.tensor.bbytes (s.opWits c o) ((e.rows * e.cols + 31) / 32) = .ok s1 bs) :
    let xs := (bs.flatMap (restoreBlock (stashK o.tensor.smode) (tileFmt o.tensor.fmt))).take (e.rows * e.cols)
    runOp s a c o u = .done s1 (some (imageOf o.tensor.eb (xs.map (·.1)))) (statsOf (fmtStatmask o.fmt) (xs.map (·.2))) := by
  rw [runOp.eq_def, hf]
  dsimp only
  unfold runRestore
  simp only [he, hr]

theorem runOp_acopy {bs : List Byte} (hf : o.form = .acopy m sp n)
    (hr : s.readBox false (readCore a (o.par 0)) c.pd.toNat o.tensor (s.opWits c o) o.cells = .ok s1 bs) :
    runOp s a c o u = o.arrives ((s1.clearPoison ((List.range bs.length).map (s1.spPhys c (o.par 4).toNat + ·))).memWrite
      (zipIdxBytes (s1.spPhys c (o.par 4).toNat) bs)) := by
  rw [runOp.eq_def, hf]
  dsimp only
  unfold runAcopy
  simp only [hr]

theorem runOp_acopyw (hf : o.form = .acopyw m sp n)
    (hp : s.spPoison (s.spPhys c (o.par 4).toNat) (o.cells.length * o.tensor.eb) = none)
    (hw : s.writeOp c o (s.memBytes (s.spPhys c (o.par 4).toNat) (o.cells.length * o.tensor.eb)) = (s1, ⟨q, none⟩)) :
    runOp s a c o u = o.arrives (s1.engineWrote c o (boxTags o.tensor c.pd.toNat o.cells)) := by
  rw [runOp.eq_def, hf]
  dsimp only
  unfold runAcopyw
  simp only [hp, State.sendImage_written hw]

end

theorem State.memByte_write_cleared (s : State) (ks : List Nat) (k : Nat) (bs : List Byte) :
    let t := (s.clearPoison ks).memWrite (zipIdxBytes k bs)
    (∀ i, i < bs.length → bs[i]? = some (t.memByte (k + i))) ∧ ∀ i, i < k ∨ k + bs.length ≤ i → t.memByte i = s.memByte i := by
  obtain ⟨l, hl⟩ := s.clearPoison_eq ks
  intro t
  refine ⟨fun i hi => ?_, fun i hi => ?_⟩
  · have hget : bs[i]? = some bs[i] := List.getElem?_eq_getElem hi
    exact hget.trans (congrArg some (State.memByte_memWrite_mem (s.clearPoison ks) (pairwise_zipIdxBytes k bs) (getElem?_mem_zipIdxBytes hget)).symm)
  · refine (State.memByte_memWrite_outside (s.clearPoison ks) hi).trans ?_
    rw [hl]
    rfl

/-- Settles O42: a block of `STASH` has its header and its elements by stashBlock_spec, the other clauses are what the engine
of each form does with what it has read. -/
theorem transferData : Obligations.TransferData := by
  refine ⟨fun k xs s0 hlen hk => ?_, fun k F blk j X hj hX => ?_, fun s s1 dom va b bs ws n k => ?_,
    fun s s1 a u q c o m sp n => ⟨fun x rest hf hargs hprog => ?_, fun e bs hf he hr => ?_, fun bs hf hr => ?_, fun hf => ?_,
      fun hf hw => ?_⟩⟩
  · intro zero top mag wide sh flags blk
    refine ⟨fun hz => stashBlock_zero k hlen hz, fun hz hlow hub hmin htop => ?_⟩
    have hexp := stashExp_eq hlow hub hmin
    have hsh : stashShared k xs = sh := stashShared_eq k hexp
    obtain ⟨hlength, hhead, hbits⟩ := stashBlock_spec hlen (by omega) hz hexp hlow hub (hsh ▸ htop)
    rw [hsh] at hhead hbits
    refine ⟨hlength, ?_, fun j x hj => (hbits j x hj).trans ?_⟩
    · rw [hhead]
      simp only [flags, stashFlags]
      push_cast
      rfl
    · rw [stashBits_eq]
      cases x <;> rfl
  · subst hX
    rw [restoreBlock_getElem? k F blk hj]
    refine ⟨fun h => ?_, fun h => ?_⟩
    · rw [if_pos h]
      rfl
    · rw [if_neg h]
      rfl
  · refine ⟨rfl, rfl, fun hw t d hrest => ?_, fun hr t hrest => ?_⟩
    · simp only [State.writeBlocks, Bool.false_eq_true, if_false, hw, hrest]
    · simp only [State.readBlocks, Bool.false_eq_true, if_false, hr, hrest]
  · exact runOp_stash hf hargs hprog
  · exact runOp_restore hf he hr
  · refine ⟨_, fun h => (runOp_acopy hf hr).trans (TOp.arrives_zero h), fun h => (runOp_acopy hf hr).trans (TOp.arrives_word h), ?_⟩
    exact s1.memByte_write_cleared _ _ bs
  · intro at' len hp hw t
    refine (runOp_acopyw hf hp hw).trans ?_
    rfl
  · refine Eq.trans ?_ (State.sendImage_written hw)
    rw [runOp.eq_def, hf]
    rfl

end Sys2Proof.Machine

/-! # O40: what the engines compute and move (04 R92, R93, 09 R261 to R271, 10 R281 to R284) -/

namespace Sys2Proof.Machine

/-! ### Rows and columns of a tile -/

section
variable {α β γ : Type}

theorem getElem?_flatMap_const {L : List α} {f : α → List β} {n i j : Nat} (h : ∀ x ∈ L, (f x).length = n) (hj : j < n) :
    (L.flatMap f)[i * n + j]? = L[i]?.bind fun x => (f x)[j]? := by
  induction L generalizing i with
  | nil => rfl
  | cons x L ih =>
    have hx := h x List.mem_cons_self
    rw [List.flatMap_cons]
    cases i with
    | zero =>
      rw [Nat.zero_mul, Nat.zero_add, List.getElem?_append_left (by omega)]
      rfl
    | succ i =>
      rw [List.getElem?_append_right (by rw [hx, Nat.succ_mul]; omega), hx,
        show (i + 1) * n + j - n = i * n + j by rw [Nat.succ_mul]; omega, ih fun y hy => h y (List.mem_cons_of_mem _ hy)]
      rfl

theorem length_flatMap_const {L : List α} {f : α → List β} {n : Nat} (h : ∀ x ∈ L, (f x).length = n) :
    (L.flatMap f).length = L.length * n := by
  rw [List.length_flatMap, List.map_congr_left h, List.map_const', List.sum_replicate, smul_eq_mul]

/-- The product of the rows of two lists, by position. -/
theorem getElem?_product {L : List α} {M : List β} (g : α × Nat → β × Nat → γ) {i j : Nat} {a : α} {b : β} (hi : L[i]? = some a)
    (hj : M[j]? = some b) : (L.zipIdx.flatMap fun x => M.zipIdx.map (g x))[i * M.length + j]? = some (g (a, i) (b, j)) := by
  rw [getElem?_flatMap_const (n := M.length) (fun x _ => by simp) (List.getElem?_eq_some_iff.mp hj).1, List.getElem?_zipIdx, hi]
  simp [hj]

theorem rowsOf_eq {n r : Nat} {l : List α} (hn : 0 < n) (hl : l.length = r * n) :
    rowsOf n l = (List.range r).map fun i => (l.drop (i * n)).take n := by
  have hlen : (rowsOf n l).length = r := by
    rw [rowsOf, chunks, length_chunksFuel hn _ l le_rfl, hl, Nat.add_comm, Nat.add_mul_div_right _ _ hn, Nat.div_eq_of_lt (by omega),
      Nat.zero_add]
  refine List.ext_getElem? fun b => ?_
  by_cases hb : b < r
  · have hlt : b * n < l.length := by rw [hl]; exact Nat.mul_lt_mul_of_pos_right hb hn
    rw [rowsOf, chunks_getElem? hn l hlt, List.getElem?_map, List.getElem?_range hb, Nat.mul_comm]
    rfl
  · rw [List.getElem?_eq_none (by omega), List.getElem?_eq_none (by simp only [List.length_map, List.length_range]; omega)]

theorem rowsOf_getElem? {n r i : Nat} {l : List α} (hn : 0 < n) (hl : l.length = r * n) (hi : i < r) :
    (rowsOf n l)[i]? = some ((l.drop (i * n)).take n) := by
  rw [rowsOf_eq hn hl, List.getElem?_map, List.getElem?_range hi]
  rfl

theorem length_rowsOf {n r : Nat} {l : List α} (hn : 0 < n) (hl : l.length = r * n) : (rowsOf n l).length = r := by
  rw [rowsOf_eq hn hl, List.length_map, List.length_range]

theorem columnsOf_getElem? {n j : Nat} (rows : List (List α)) (hj : j < n) :
    (columnsOf n rows)[j]? = some (rows.filterMap (·[j]?)) := by
  induction n generalizing rows j with
  | zero => exact absurd hj (Nat.not_lt_zero _)
  | succ n ih =>
    cases j with
    | zero => exact congrArg some (List.filterMap_congr fun l _ => List.head?_eq_getElem?)
    | succ j =>
      rw [columnsOf, List.getElem?_cons_succ, ih _ (by omega), List.filterMap_map]
      exact congrArg some (List.filterMap_congr fun l _ => by simp)

theorem length_columnsOf (n : Nat) (rows : List (List α)) : (columnsOf n rows).length = n := by
  induction n generalizing rows with
  | zero => rfl
  | succ n ih => rw [columnsOf, List.length_cons, ih]

theorem columnsOf_rowsOf_getElem? {n r j : Nat} {l : List α} (hl : l.length = r * n) (hj : j < n) :
    (columnsOf n (rowsOf n l))[j]? = some ((List.range r).filterMap fun k => l[k * n + j]?) := by
  rw [columnsOf_getElem? _ hj, rowsOf_eq (by omega) hl, List.filterMap_map]
  refine congrArg some (List.filterMap_congr fun k _ => ?_)
  simp [hj]

end

/-! ### Sums modulo a power of two -/

theorem wrapNat_eq (n : Nat) (v : Int) : wrapNat n v = (v % 2 ^ n).toNat := by
  rw [wrapNat]
  push_cast
  rfl

theorem wrapNat_lt (n : Nat) (v : Int) : wrapNat n v < 2 ^ n := by
  have hpos : (0 : Int) < ((2 ^ n : Nat) : Int) := by exact_mod_cast Nat.two_pow_pos n
  have hmod := Int.emod_lt_of_pos v hpos
  unfold wrapNat
  omega

theorem wrapNat_intDot (a : Int) (xs ws : List Int) :
    wrapNat 32 (intDot a xs ws) = ((a + (List.zipWith (· * ·) xs ws).sum) % 2 ^ 32).toNat := by
  rw [intDot, wrapNat_sextNat (wrapNat_lt ..), wrapNat_eq, ← List.sum_eq_foldl]

/-! ### The trestle (R92, R93, R264) -/

section
variable {fwd acc : Bool} {f : W64} {x w : TArg} {cin : Option TArg} {i j : Nat}

/-- The lines of a weight tile that a row meets: its columns, or its rows. -/
def weightLines {α : Type} (fwd : Bool) (w : Entry) (l : List α) : List (List α) :=
  if fwd then columnsOf w.cols (rowsOf w.cols l) else rowsOf w.cols l

theorem length_weightLines {α : Type} {l : List α} (hc : 0 < w.e.cols) (hl : l.length = w.e.rows * w.e.cols) :
    (weightLines fwd w.e l).length = if fwd then w.e.cols else w.e.rows := by
  cases fwd with
  | true => exact length_columnsOf ..
  | false => exact length_rowsOf hc hl

@[simp] theorem TArg.length_ints (x : TArg) : x.ints.length = x.xs.length := by
  unfold TArg.ints
  split_ifs <;> simp

@[simp] theorem TArg.length_vals (x : TArg) (f : W64) : (x.vals f).length = x.xs.length := List.length_map ..

/-- The accumulator's elements, none where the form has no accumulator. -/
def trestleStarts {α : Type} (acc : Bool) (cin : Option TArg) (elems : TArg → List α) : List α :=
  match cin with
  | some a => if acc then elems a else []
  | none => []

/-- An integer sum as its element (R93). -/
def sumWord (f : W64) (a : Int) : Nat × Nat :=
  if fmtIntout f = 0 then (wrapNat 32 a, 0)
  else (tileFmt (intoutFmt f)).finish 0 (fmtTrnd f) (fmtIntout f != 4 || fmtSat f) [] (FVal.ofInt a (fmtNscale f))

/-- A floating sum as its element, with its events (R92). -/
def sumFloat (pairs : Bool) (c : FVal × Bool) (xs ws : List (FVal × Bool)) : Nat × Nat :=
  let r := trestleDot pairs c.1 (xs.map (·.1)) (ws.map (·.1))
  (NFmt.f32.encode r.1, r.2 ||| (if c.2 || xs.any (·.2) || ws.any (·.2) then ev 6 else 0))

theorem trestleSums_eq_int (hw : tileInt w.e.fmt = true) : trestleSums fwd acc f x w cin =
    (rowsOf x.e.cols x.ints).zipIdx.flatMap fun xi => (weightLines fwd w.e w.ints).zipIdx.map fun wj =>
      sumWord f (intDot ((trestleStarts acc cin TArg.ints)[xi.2 * (if fwd then w.e.cols else w.e.rows) + wj.2]?.getD 0) xi.1 wj.1) :=
  if_pos hw

theorem trestleSums_eq_float (hw : ¬ tileInt w.e.fmt = true) : trestleSums fwd acc f x w cin =
    (rowsOf x.e.cols (x.vals f)).zipIdx.flatMap fun xi => (weightLines fwd w.e (w.vals f)).zipIdx.map fun wj =>
      sumFloat (w.e.fmt.getLsbD 5) ((trestleStarts acc cin (·.vals f))[xi.2 * (if fwd then w.e.cols else w.e.rows) + wj.2]?.getD
        (.fin false 0 0, false)) xi.1 wj.1 := if_neg hw

section
variable (hc : 0 < w.e.cols) (hl : w.xs.length = w.e.rows * w.e.cols)
include hc hl

theorem trestleSums_int {row line : List Int} (hw : tileInt w.e.fmt = true) (hrow : (rowsOf x.e.cols x.ints)[i]? = some row)
    (hline : (weightLines fwd w.e w.ints)[j]? = some line) :
    (trestleSums fwd acc f x w cin)[i * (if fwd then w.e.cols else w.e.rows) + j]? =
      some (sumWord f (intDot ((trestleStarts acc cin TArg.ints)[i * (if fwd then w.e.cols else w.e.rows) + j]?.getD 0) row line)) := by
  rw [trestleSums_eq_int hw, ← length_weightLines (fwd := fwd) hc (w.length_ints.trans hl)]
  exact getElem?_product _ hrow hline

theorem trestleSums_float {row line : List (FVal × Bool)} (hw : ¬ tileInt w.e.fmt = true)
    (hrow : (rowsOf x.e.cols (x.vals f))[i]? = some row) (hline : (weightLines fwd w.e (w.vals f))[j]? = some line) :
    (trestleSums fwd acc f x w cin)[i * (if fwd then w.e.cols else w.e.rows) + j]? =
      some (sumFloat (w.e.fmt.getLsbD 5) ((trestleStarts acc cin (·.vals f))[i * (if fwd then w.e.cols else w.e.rows) + j]?.getD
        (.fin false 0 0, false)) row line) := by
  rw [trestleSums_eq_float hw, ← length_weightLines (fwd := fwd) hc ((w.length_vals f).trans hl)]
  exact getElem?_product _ hrow hline

end

end

theorem sumWord_intDot {f : W64} (hf : fmtIntout f = 0) (a : Int) (xs ws : List Int) :
    sumWord f (intDot a xs ws) = (((a + (List.zipWith (· * ·) xs ws).sum) % 2 ^ 32).toNat, 0) := by
  rw [sumWord, if_pos hf, wrapNat_intDot]

/-! ### The sum of a trestle element in index order (R92) -/

theorem trestleStep_fst (acc : FVal × Nat) (p : Term) :
    (trestleStep acc p).1 = (NFmt.f32.round 0 false (FVal.add 0 acc.1 p.val)).val := rfl

theorem pairProducts_append {l r : List Term} (h : l.length % 2 = 0) : pairProducts (l ++ r) = pairProducts l ++ pairProducts r := by
  induction l using pairProducts.induct with
  | case1 a b l ih =>
    rw [List.cons_append, List.cons_append, pairProducts, pairProducts, ih (by simp only [List.length_cons] at h; omega)]
    rfl
  | case2 a => simp at h
  | case3 => rfl

section
variable {c a b a' b' : FVal} {us vs : List FVal} (hlen : us.length = vs.length)
include hlen

theorem trestleDot_concat : (trestleDot false c (us ++ [a]) (vs ++ [b])).1 =
    (NFmt.f32.round 0 false (FVal.add 0 (trestleDot false c us vs).1 (FVal.mul a b))).val := by
  simp only [trestleDot, Bool.false_eq_true, if_false, List.zipWith_append hlen, List.foldl_append]
  rfl

theorem trestleDot_pair (heven : us.length % 2 = 0) : (trestleDot true c (us ++ [a, a']) (vs ++ [b, b'])).1 =
    (NFmt.f32.round 0 false (FVal.add 0 (trestleDot true c us vs).1
      (NFmt.f32.round 0 false (FVal.add 0 (FVal.mul a b) (FVal.mul a' b'))).val)).val := by
  have hz : (List.zipWith productTerm us vs).length % 2 = 0 := by rw [List.length_zipWith, ← hlen, Nat.min_self, heven]
  simp only [trestleDot, if_true, List.zipWith_append hlen, pairProducts_append hz, List.foldl_append]
  rfl

theorem trestleDot_odd (heven : us.length % 2 = 0) : (trestleDot true c (us ++ [a]) (vs ++ [b])).1 =
    (NFmt.f32.round 0 false (FVal.add 0 (trestleDot true c us vs).1 (NFmt.f32.round 0 false (FVal.mul a b)).val)).val := by
  have hz : (List.zipWith productTerm us vs).length % 2 = 0 := by rw [List.length_zipWith, ← hlen, Nat.min_self, heven]
  simp only [trestleDot, if_true, List.zipWith_append hlen, pairProducts_append hz, List.foldl_append]
  rfl

end

/-! ### The vector-tile engines and the transpose engine -/

section
variable {f : W64} {r : Entry} {x y : TArg} {m : Mask}

/-- A binary form on integer tiles, element by element (R266). -/
theorem binRun_int {k : Nat} {a b : Int} (i : Instr) (hx : tileInt x.e.fmt = true) (ha : x.ints[k]? = some a) (hb : y.ints[k]? = some b) :
    (binRun i f x y)[k]? = some ((binInt i a b % 2 ^ (8 * tileSize x.e.fmt)).toNat, 0) := by
  rw [binRun, if_pos hx, List.getElem?_zipWith, ha, hb, ← wrapNat_eq]

theorem tile_pos_lt {l : List Nat} {rows cols k j : Nat} (hl : l.length = rows * cols) (hk : k < rows) (hj : j < cols) :
    k * cols + j < l.length := by
  rw [hl]
  calc k * cols + j < (k + 1) * cols := by rw [Nat.succ_mul]; omega
    _ ≤ rows * cols := Nat.mul_le_mul_right _ hk

/-- Column j of a tile, as elements. -/
theorem column_eq_map {l : List Nat} {rows cols j : Nat} (hl : l.length = rows * cols) (hj : j < cols) :
    ((List.range rows).filterMap fun k => l[k * cols + j]?) = (List.range rows).map fun k => l[k * cols + j]?.getD 0 := by
  rw [← List.filterMap_eq_map]
  refine List.filterMap_congr fun k hk => ?_
  have hget := List.getElem?_eq_getElem (tile_pos_lt hl (List.mem_range.mp hk) hj)
  rw [Function.comp_apply, hget, Option.getD_some]

theorem columns_eq_map {l : List Nat} {rows cols : Nat} (hl : l.length = rows * cols) :
    columnsOf cols (rowsOf cols l) = (List.range cols).map fun j => (List.range rows).map fun k => l[k * cols + j]?.getD 0 := by
  refine List.ext_getElem? fun j => ?_
  by_cases hj : j < cols
  · rw [columnsOf_rowsOf_getElem? hl hj, column_eq_map hl hj, List.getElem?_map, List.getElem?_range hj]
    rfl
  · rw [List.getElem?_eq_none (by rw [length_columnsOf]; omega),
      List.getElem?_eq_none (by rw [List.length_map, List.length_range]; omega)]

/-- A transpose moves element (i, j) to (j, i) (R271). -/
theorem txp_getElem? {i j : Nat} (hl : x.xs.length = x.e.rows * x.e.cols) (hi : i < x.e.rows) (hj : j < x.e.cols) :
    (tileRun (.txp m) f r [x] none)[j * x.e.rows + i]? = (x.xs[i * x.e.cols + j]?).map fun u => (u, 0) := by
  have hget : x.xs[i * x.e.cols + j]? = some (x.xs[i * x.e.cols + j]?.getD 0) := by
    rw [List.getElem?_eq_getElem (tile_pos_lt hl hi hj)]
    rfl
  rw [hget]
  show ((columnsOf x.e.cols (rowsOf x.e.cols x.xs)).flatten.map fun u => (u, 0))[j * x.e.rows + i]? = _
  rw [columns_eq_map hl, ← List.flatMap_def, List.getElem?_map,
    getElem?_flatMap_const (fun _ _ => by rw [List.length_map, List.length_range]) hi, List.getElem?_range hj]
  simp [hi]

/-- Row sums of integers (R94, R270). -/
theorem trsum_int {i : Nat} (hx : tileInt x.e.fmt = true) (hl : x.xs.length = x.e.rows * x.e.cols) (hc : 0 < x.e.cols)
    (hi : i < x.e.rows) : (tileRun (.trsum m) f r [x] none)[i]? =
      some ((((x.ints.drop (i * x.e.cols)).take x.e.cols).sum % 2 ^ 32).toNat, 0) := by
  show (sumRun f x true)[i]? = _
  unfold sumRun
  rw [if_pos hx, if_pos rfl, List.getElem?_map, rowsOf_getElem? hc (x.length_ints.trans hl) hi, Option.map_some, wrapNat_eq,
    ← List.sum_eq_foldl]

end

theorem runCompute_one {s : State} {c : Ctx} {o : TOp} {r : Entry} {x : TArg} (hr : o.results.head? = some r)
    (ha : c.args o.binds = some [x]) (hp : o.plane = none) :
    runCompute s c o = .done s (some (imageOf (tileSize r.fmt) ((tileRun o.form o.fmt r [x] none).map (·.1))))
      (statsOf (fmtStatmask o.fmt) ((tileRun o.form o.fmt r [x] none).map (·.2))) := by
  simp only [runCompute, hr, ha, hp, Option.toList_none]
  rfl

/-! ### Rows of the scratchpad (R261, R262) -/

theorem rowAddr_eq (a p : W64) (i : Nat) : rowAddr a p i = (a.toNat + i * p.toNat) % 2 ^ 64 := by
  rw [rowAddr, BitVec.toNat_add, BitVec.toNat_mul, BitVec.toNat_ofNat, Nat.add_mod_mod, ← Nat.add_mod_mod, Nat.mul_mod, Nat.mod_mod,
    ← Nat.mul_mod, Nat.add_mod_mod]

/-- Two states that place the contexts' scratchpads alike. -/
def State.samePlaces (s t : State) : Prop := ∀ c a, t.spPhys c a = s.spPhys c a

theorem State.samePlaces_write (s : State) (ks : List Nat) (ws : List (Nat × Byte)) : s.samePlaces ((s.clearPoison ks).memWrite ws) := by
  obtain ⟨l, hl⟩ := s.clearPoison_eq ks
  rw [hl]
  exact fun _ _ => rfl

/-- What `TSTS` has written after its first n rows: row i of nb bytes of an image at place p i. -/
def State.putRows (s : State) (c : Ctx) (addr : Nat → Nat) (img : List Byte) (nb n : Nat) : State :=
  (List.range n).foldl (fun (s : State) i =>
    let k := s.spPhys c (addr i)
    (s.clearPoison ((List.range nb).map (k + ·))).memWrite (zipIdxBytes k (sliceBytes img (i * nb) nb))) s

theorem sliceBytes_getElem? {img : List Byte} {off n j : Nat} (hj : j < n) (h : off + n ≤ img.length) :
    (sliceBytes img off n)[j]? = img[off + j]? := by
  have hlen : ((img.drop off).take n).length = n := by rw [List.length_take, List.length_drop]; omega
  unfold sliceBytes
  dsimp only
  rw [List.getElem?_append_left (by omega), List.getElem?_take_of_lt hj, List.getElem?_drop]

theorem State.putRows_spec (s : State) (c : Ctx) (addr : Nat → Nat) {img : List Byte} {nb : Nat} (n : Nat) (h : n * nb ≤ img.length) :
    let row := fun i => s.spPhys c (addr i)
    let outside := fun (k i : Nat) => k < row i ∨ row i + nb ≤ k
    let t := s.putRows c addr img nb n
    s.samePlaces t ∧ (∀ k, (∀ i < n, outside k i) → t.memByte k = s.memByte k) ∧
      ∀ i < n, ∀ j < nb, (∀ q, i < q → q < n → outside (row i + j) q) → img[i * nb + j]? = some (t.memByte (row i + j)) := by
  intro row outside
  induction n with
  | zero => exact ⟨fun _ _ => rfl, fun _ _ => rfl, fun i hi => absurd hi (Nat.not_lt_zero i)⟩
  | succ n ih =>
    obtain ⟨honly, hout, hin⟩ := ih (by rw [Nat.succ_mul] at h; omega)
    intro t
    have hrow : (s.putRows c addr img nb n).spPhys c (addr n) = row n := honly c _
    have ht : t = ((s.putRows c addr img nb n).clearPoison ((List.range nb).map (row n + ·))).memWrite
        (zipIdxBytes (row n) (sliceBytes img (n * nb) nb)) := by
      rw [← hrow]
      exact (congrArg _ List.range_succ).trans List.foldl_append
    obtain ⟨hnew, hold⟩ := (s.putRows c addr img nb n).memByte_write_cleared ((List.range nb).map (row n + ·)) (row n)
      (sliceBytes img (n * nb) nb)
    rw [length_sliceBytes, ← ht] at hnew hold
    refine ⟨ht ▸ fun c a => (State.samePlaces_write _ _ _ c a).trans (honly c a), fun k hk => ?_, fun i hi j hj hlater => ?_⟩
    · exact (hold k (hk n (Nat.lt_succ_self n))).trans (hout k fun i hi => hk i (Nat.lt_succ_of_lt hi))
    · rcases Nat.lt_succ_iff_lt_or_eq.mp hi with hlt | rfl
      · rw [hold _ (hlater n hlt (Nat.lt_succ_self n))]
        exact hin i hlt j hj fun q hiq hq => hlater q hiq (Nat.lt_succ_of_lt hq)
      · rw [← hnew j hj, sliceBytes_getElem? hj (by rw [Nat.succ_mul] at h; exact h)]

theorem State.memByte_opVisible (s : State) (c : Ctx) (o : TOp) (k : Nat) : (s.opVisible c o).memByte k = s.memByte k := by
  unfold State.opVisible
  split <;> rfl

section
variable {s : State} {a u : Nat} {c : Ctx} {o : TOp} {m : Mask} {sp : BitVec 6} {n : BitVec 4}

theorem runOp_tsts {e : Entry} {img : List Byte} (hf : o.form = .tsts m sp n) (he : o.binds.head? = some e)
    (hi : c.tileImg e.tile = some img) :
    runOp s a c o u = .done ((s.putRows c (rowAddr (o.par 0) (o.par 1)) img e.rowBytes e.rows).opVisible c o) none [] := by
  have himg : o.image0 c = img := by rw [TOp.image0, he, Option.bind_some, hi]; rfl
  rw [runOp.eq_def, hf]
  dsimp only
  unfold runTsts
  simp only [he, himg]
  rfl

theorem runOp_tlds {r : Entry} (hf : o.form = .tlds m sp n) (hr : o.results.head? = some r)
    (hp : ∀ i < r.rows, s.poisoned (s.spPhys c (rowAddr (o.par 0) (o.par 2) i)) r.rowBytes = false) :
    runOp s a c o u = .done s
      (some ((List.range r.rows).flatMap fun i => s.memBytes (s.spPhys c (rowAddr (o.par 0) (o.par 2) i)) r.rowBytes)) [] := by
  have hfind : ((List.range r.rows).map fun i => s.spPhys c (rowAddr (o.par 0) (o.par 2) i)).find?
      (fun k => s.poisoned k r.rowBytes) = none := by
    rw [List.find?_eq_none]
    intro k hk
    obtain ⟨i, hi, rfl⟩ := List.mem_map.mp hk
    rw [hp i (List.mem_range.mp hi)]
    exact Bool.false_ne_true
  rw [runOp.eq_def, hf]
  dsimp only
  unfold runTlds
  simp only [hr, hfind, List.flatMap_map]

theorem runOp_tget {s1 : State} {bs : List Byte} (hf : o.form = .tget m sp n)
    (hr : s.readBox false (readCore a (o.par 0)) c.pd.toNat o.tensor (s.opWits c o) o.cells = .ok s1 bs) :
    runOp s a c o u = .done s1 (some bs) [] := by
  rw [runOp.eq_def, hf]
  dsimp only
  unfold runTget
  simp only [hr]

theorem runOp_tsend {s1 : State} {k : Nat} (hf : o.form = .tsend m sp n) (hw : s.writeOp c o (o.image0 c) = (s1, ⟨k, none⟩)) :
    runOp s a c o u = .done (s1.engineWrote c o (boxTags o.tensor c.pd.toNat o.cells)) none [] := by
  refine Eq.trans ?_ (State.sendImage_written (k := fun s1 => .done s1 none []) hw)
  rw [runOp.eq_def, hf]
  rfl

end

/-! ### The elements of a box (R281) -/

section
variable {s s1 s2 : State} {tr : Bool} {core : Option Nat} {dom : Nat} {t : TRec} {ws : List W64} {co : List Int} {cs : List (List Int)}
  {picks : List (Tag × Option (List Byte))}

theorem State.pickCopy_none (h : s.oldCopies core (t.tag dom co) ws t.raw = []) :
    s.pickCopy core (t.tag dom co) ws t.raw = (s, none) := by
  rw [State.pickCopy, h]
  rfl

/-- An element of coordinates that are not negative, read under the form's own record. -/
theorem State.readCells_own {b bs : List Byte} (hp : ∀ q ∈ picks, q.2 = none) (hco : ∀ v ∈ co, (0 : Int) ≤ v)
    (hold : s.oldCopies core (t.tag dom co) ws t.raw = []) (hr : s.readElem tr core dom t ws none co = .ok s1 b)
    (hrest : s1.readCells tr core dom t ws (if picks.any (fun q => q.1 == t.tag dom co) then picks else (t.tag dom co, none) :: picks) cs =
      .ok s2 bs) : s.readCells tr core dom t ws picks (co :: cs) = .ok s2 (b ++ bs) := by
  have hneg : co.any (fun x => decide (x < 0)) = false := by
    rw [List.any_eq_false]
    exact fun v hv => by simpa using hco v hv
  rw [State.readCells]
  cases hfind : picks.find? fun p => p.1 == t.tag dom co with
  | none => simp only [hneg, Bool.false_eq_true, if_false, State.pickCopy_none hold, hr, Bool.false_or, hrest]
  | some p =>
    simp only [hneg, Bool.false_eq_true, if_false, hp p (List.mem_of_find?_eq_some hfind), hr, Bool.false_or, hrest]

theorem State.readElem_in (hin : t.inBounds co = true) : s.readElem tr core dom t ws none co =
    (s.asCopy core (t.tag dom co) t.raw).readVia tr core (t.tag dom co) ws (pagePieces (t.addr co) t.eb) := if_pos hin

theorem State.readElem_out (hout : t.inBounds co = false) : s.readElem tr core dom t ws none co = .ok s (List.replicate t.eb 0) :=
  if_neg (Bool.not_eq_true _ ▸ hout)

theorem State.writeCells_in {bs : List Byte} {d : Written} (hin : t.inBounds co = true)
    (hw : (s.asCopy none (t.tag dom co) t.raw).writeVia tr (t.tag dom co) (t.addr co) (bs.take t.eb) = .ok s1 ())
    (hrest : s1.writeCells tr dom t none cs (bs.drop t.eb) = (s2, d)) :
    s.writeCells tr dom t none (co :: cs) bs = (s2, ⟨d.done + 1, d.stop⟩) := by
  rw [State.writeCells]
  simp only [hin, if_true, hw, hrest]

theorem State.writeCells_out {bs : List Byte} {d : Written} (hout : t.inBounds co = false)
    (hrest : s.writeCells tr dom t none cs (bs.drop t.eb) = (s2, d)) :
    s.writeCells tr dom t none (co :: cs) bs = (s2, ⟨d.done + 1, d.stop⟩) := by
  rw [State.writeCells]
  simp only [hout, Bool.false_eq_true, if_false, hrest]

end

/-! ### The four trestle forms -/

section
variable {fmt : W64} {r : Entry} {x y p : TArg} {m : Mask} {pl fwd acc : Bool} {cin : Option TArg} {i j n : Nat}

theorem tileRun_mfw : tileRun (.mfw m 0 pl) fmt r [x] (some p) = trestleSums true false fmt x p none := rfl

theorem tileRun_mfwa : tileRun (.mfwa m 0 pl) fmt r [x, y] (some p) = trestleSums true true fmt x p (some y) := rfl

theorem tileRun_mbk : tileRun (.mbk m 0 pl) fmt r [x] (some p) = trestleSums false false fmt x p none := rfl

theorem tileRun_mbka : tileRun (.mbka m 0 pl) fmt r [x, y] (some p) = trestleSums false true fmt x p (some y) := rfl

variable (hn : n = if fwd then p.e.cols else p.e.rows) (hc : 0 < p.e.cols) (hl : p.xs.length = p.e.rows * p.e.cols)
include hn hc hl

theorem trestleSums_wrapped {row line : List Int} {a : Int} (hp : p.e.fmt.toNat ≤ 3) (hf : fmtIntout fmt = 0)
    (hrow : (rowsOf x.e.cols x.ints)[i]? = some row) (hline : (weightLines fwd p.e p.ints)[j]? = some line)
    (ha : (trestleStarts acc cin TArg.ints)[i * n + j]?.getD 0 = a) :
    (trestleSums fwd acc fmt x p cin)[i * n + j]? = some (((a + (List.zipWith (· * ·) row line).sum) % 2 ^ 32).toNat, 0) := by
  subst hn
  rw [trestleSums_int hc hl (decide_eq_true hp) hrow hline, sumWord_intDot hf, ha]

theorem trestleSums_rounded {row line : List (FVal × Bool)} {a : FVal} (hp : 3 < p.e.fmt.toNat)
    (hrow : (rowsOf x.e.cols (x.vals fmt))[i]? = some row) (hline : (weightLines fwd p.e (p.vals fmt))[j]? = some line)
    (ha : ((trestleStarts acc cin (·.vals fmt))[i * n + j]?.getD (.fin false 0 0, false)).1 = a) :
    ((trestleSums fwd acc fmt x p cin)[i * n + j]?).map (·.1) =
      some (NFmt.f32.encode (trestleDot (p.e.fmt.getLsbD 5) a (row.map (·.1)) (line.map (·.1))).1) := by
  subst hn
  have hint : ¬ tileInt p.e.fmt = true := by rw [tileInt, decide_eq_true_iff]; omega
  rw [trestleSums_float hc hl hint hrow hline, Option.map_some, sumFloat, ha]

end

/-- Settles O40: the sums of a trestle form are trestleSums_int and trestleSums_float, the engines' forms go by element, and
the rows and boxes are moved one after the other. -/
theorem tileResults : Obligations.TileResults := by
  intro m fmt r x y i j w
  refine ⟨fun p pl hp hf hxc hpr hpc hi hx hpl => ?_, fun p pl hp hxc hpr hpc hi hx hpl => ?_,
    fun c a b a' b' us vs hlen => ⟨trestleDot_concat hlen, fun h => ⟨trestleDot_pair hlen h, trestleDot_odd hlen h⟩⟩,
    txp_getElem?, fun hx k a b ha hb => ?_, fun hx hl hc hi => trsum_int (decide_eq_true hx) hl hc hi,
    fun s c o hr ha hp => runCompute_one hr ha hp, fun s a u c o sp n => ?_,
    fun s s1 s2 tr core dom t ws co cs b bs d picks hpicks hco hold => ?_⟩
  · intro row dot
    have hrow : (rowsOf x.e.cols x.ints)[i]? = some row := rowsOf_getElem? hxc (x.length_ints.trans hx) hi
    have hstart {l : List Int} {q : Nat} {a : Int} (ha : l[q]? = some a) : l[q]?.getD 0 = a := by rw [ha]; rfl
    refine ⟨fun _ hj => ?_, fun _ hj => ?_⟩
    · intro col
      have hline : (weightLines true p.e p.ints)[j]? = some col := columnsOf_rowsOf_getElem? (p.length_ints.trans hpl) hj
      rw [tileRun_mfw, tileRun_mfwa]
      refine ⟨?_, fun a ha => trestleSums_wrapped rfl hpc hpl hp hf hrow hline (hstart ha)⟩
      rw [← zero_add (dot _)]
      exact trestleSums_wrapped rfl hpc hpl hp hf hrow hline rfl
    · intro line
      have hline : (weightLines false p.e p.ints)[j]? = some line := rowsOf_getElem? hpc (p.length_ints.trans hpl) hj
      rw [tileRun_mbk, tileRun_mbka]
      refine ⟨?_, fun a ha => trestleSums_wrapped rfl hpc hpl hp hf hrow hline (hstart ha)⟩
      rw [← zero_add (dot _)]
      exact trestleSums_wrapped rfl hpc hpl hp hf hrow hline rfl
  · intro row dot
    have hrow : (rowsOf x.e.cols (x.vals fmt))[i]? = some row := rowsOf_getElem? hxc ((x.length_vals fmt).trans hx) hi
    have hstart {l : List (FVal × Bool)} {q : Nat} {a : FVal × Bool} (ha : l[q]? = some a) :
        (l[q]?.getD (.fin false 0 0, false)).1 = a.1 := by rw [ha]; rfl
    refine ⟨fun _ hj => ?_, fun _ hj => ?_⟩
    · intro col
      have hline : (weightLines true p.e (p.vals fmt))[j]? = some col := columnsOf_rowsOf_getElem? ((p.length_vals fmt).trans hpl) hj
      rw [tileRun_mfw, tileRun_mfwa]
      exact ⟨trestleSums_rounded rfl hpc hpl hp hrow hline rfl, fun a ha => trestleSums_rounded rfl hpc hpl hp hrow hline (hstart ha)⟩
    · intro line
      have hline : (weightLines false p.e (p.vals fmt))[j]? = some line := rowsOf_getElem? hpc ((p.length_vals fmt).trans hpl) hj
      rw [tileRun_mbk, tileRun_mbka]
      exact ⟨trestleSums_rounded rfl hpc hpl hp hrow hline rfl, fun a ha => trestleSums_rounded rfl hpc hpl hp hrow hline (hstart ha)⟩
  · have hint : tileInt x.e.fmt = true := decide_eq_true hx
    refine ⟨binRun_int _ hint ha hb, binRun_int _ hint ha hb, binRun_int _ hint ha hb, (binRun_int _ hint ha hb).trans ?_,
      (binRun_int _ hint ha hb).trans ?_⟩
    · rw [← max_def]
      rfl
    · rw [← min_def]
      rfl
  · intro row
    have hrow (k i : Nat) : s.spPhys c (rowAddr (o.par 0) (o.par k) i) = row k i := congrArg _ (rowAddr_eq ..)
    refine ⟨fun hf hr hp => ?_, fun e img hf he himg hlen => ?_, fun s1 bs hf hr => runOp_tget hf hr, fun s1 k hf hw => runOp_tsend hf hw⟩
    · refine ⟨_, runOp_tlds hf hr fun i hi => by rw [hrow]; exact hp i hi, ?_, fun i hi j hj => ?_⟩
      · rw [length_flatMap_const (fun _ _ => by rw [State.memBytes, List.length_map, List.length_range]), List.length_range]
      · rw [getElem?_flatMap_const (fun _ _ => by rw [State.memBytes, List.length_map, List.length_range]) hj, List.getElem?_range hi,
          Option.bind_some, hrow]
        simp [State.memBytes, hj]
    · intro outside
      obtain ⟨-, hout, hin⟩ := s.putRows_spec c (rowAddr (o.par 0) (o.par 1)) (nb := e.rowBytes) e.rows hlen.ge
      simp only [hrow] at hout hin
      refine ⟨_, runOp_tsts hf he himg, fun k hk => ?_, fun i hi j hj hlater => ?_⟩
      · rw [State.memByte_opVisible]
        exact hout k hk
      · rw [State.memByte_opVisible]
        exact hin i hi j hj hlater
  · intro more
    refine ⟨fun hin hr hrest => State.readCells_own hpicks hco hold ((State.readElem_in hin).trans hr) hrest,
      fun hout hrest => State.readCells_own hpicks hco hold (State.readElem_out hout) hrest,
      fun hin hw hrest => State.writeCells_in hin hw hrest, fun hout hrest => State.writeCells_out hout hrest⟩

end Sys2Proof.Machine

/-! # O41: what the vector-tile engines and the epilogue compute (09 R265 to R270) -/

namespace Sys2Proof.Machine

/-! ### Element by element (R266, R267) -/

section
variable {f : W64} {r : Entry} {a b c : TArg} {m : Mask} {k u v t : Nat}

/-- The value of an element of an operand, with whether it was flushed (R83). -/
def TArg.value (x : TArg) (f : W64) (u : Nat) : FVal × Bool := (tileFmt x.e.fmt).decode u x.e.scale (fmtFlush f)

theorem TArg.vals_getElem? (h : a.xs[k]? = some u) : (a.vals f)[k]? = some (a.value f u) := by
  rw [TArg.vals, List.getElem?_map, h]
  rfl

theorem not_tileInt {fmt : BitVec 6} (h : 3 < fmt.toNat) : ¬ tileInt fmt = true := by
  rw [tileInt, decide_eq_true_iff]
  omega

/-- A binary form on floating tiles, element by element. -/
theorem binRun_float (i : Instr) (ha : 3 < a.e.fmt.toNat) (hu : a.xs[k]? = some u) (hv : b.xs[k]? = some v) :
    (binRun i f a b)[k]? =
      let r := (tileFmt a.e.fmt).finish a.e.scale (fmtTrnd f) (tileSat f a.e.fmt) [(a.value f u).1, (b.value f v).1]
        (binVal i (fmtTrnd f) (a.value f u).1 (b.value f v).1)
      some (r.1, r.2 ||| flushEv [a.value f u, b.value f v]) := by
  unfold binRun
  rw [if_neg (not_tileInt ha), List.getElem?_zipWith, TArg.vals_getElem? hu, TArg.vals_getElem? hv]

theorem fmaRun_getElem? (hu : a.xs[k]? = some u) (hv : b.xs[k]? = some v) (ht : c.xs[k]? = some t) :
    ∃ q, (fmaRun f a b c)[k]? = some q ∧ q.1 = ((tileFmt a.e.fmt).finish a.e.scale (fmtTrnd f) (tileSat f a.e.fmt)
      [(a.value f u).1, (b.value f v).1, (c.value f t).1]
      (FVal.fma (fmtTrnd f) (a.value f u).1 (b.value f v).1 (c.value f t).1)).1 := by
  have hzip : (List.zip (b.vals f) (c.vals f))[k]? = some (b.value f v, c.value f t) := by
    rw [List.getElem?_zip_eq_some]
    exact ⟨TArg.vals_getElem? hv, TArg.vals_getElem? ht⟩
  unfold fmaRun
  rw [List.getElem?_zipWith, TArg.vals_getElem? hu, hzip]
  exact ⟨_, rfl, rfl⟩

end

/-! ### `TACT` (R269) -/

theorem tactElem_fst (f : Nat) (F : NFmt) (e : Int) (mode : Nat) (sat flush : Bool) (u : Nat) : (tactElem f F e mode sat flush u).1 =
    F.encode (F.round mode sat ((tactVal f (F.decode u e flush).1).1.scale (-e))).val := rfl

/-- The result of a clamped exponent: +0 below the range (R269). -/
def clampedPower (s : Bool) (l : Int) : FVal := if l < -2 ^ 29 then .fin false 0 0 else expValue s (min l (2 ^ 29 - 1))

theorem clampL_power (s : Bool) (l : Int) : (match (clampL l).1 with
    | none => FVal.fin false 0 0
    | some k => expValue s k) = clampedPower s l := by
  unfold clampL clampedPower
  by_cases hhigh : l > 2 ^ 29 - 1
  · rw [if_pos hhigh, if_neg (by omega), min_eq_right (by omega)]
  · rw [if_neg hhigh]
    by_cases hlow : l < -(2 ^ 29)
    · rw [if_pos hlow, if_pos hlow]
    · rw [if_neg hlow, if_neg hlow, min_eq_left (by omega)]

/-- The value of a case that clamps its exponent. -/
theorem clamp_fst (s : Bool) (l : Int) : ((match (clampL l).1 with
    | none => (FVal.fin false 0 0, (clampL l).2)
    | some k => (expValue s k, (clampL l).2) : FVal × Nat)).1 = clampedPower s l := by
  rw [← clampL_power]
  cases (clampL l).1 <;> rfl

/-- The log path's exponent of a magnitude. -/
def tactLog (n : Nat) (e : Int) : Int := sextNat 30 (wrapNat 30 (vlogL n e))

theorem tactLog_eq {n : Nat} (hn : n ≠ 0) (s : Bool) (e : Int) {low : Nat} (h : low = (vlog (.fin s n e)).1 % 2 ^ 30) :
    tactLog n e = if low < 2 ^ 29 then (low : Int) else (low : Int) - 2 ^ 30 := by
  have hlt := wrapNat_lt 30 (vlogL n e)
  have hlow : low = wrapNat 30 (vlogL n e) := by
    have hw : (vlog (.fin s n e)).1 = lnWord s (vlogL n e) := congrArg Prod.fst (if_neg hn)
    rw [h, hw, lnWord]
    split_ifs <;> omega
  rw [tactLog, sextNat_log, Nat.mod_eq_of_lt hlt, hlow]

section
variable {s : Bool} {n : Nat} {e : Int}

/-- `exp` of a finite value: its exponent is the nearest integer of x · 2^21. -/
theorem tactVal_exp : (tactVal 4 (.fin s n e)).1 = clampedPower false (rneInt s n (e + 21)) := clamp_fst ..

variable (hn : n ≠ 0)
include hn

theorem tactVal_recip : (tactVal 0 (.fin s n e)).1 = clampedPower s (-tactLog n e) := by
  unfold tactVal
  dsimp only
  rw [if_neg (by decide), if_neg hn, if_neg (by simp)]
  exact clamp_fst ..

theorem tactVal_square : (tactVal 3 (.fin s n e)).1 = clampedPower false (2 * tactLog n e) := by
  unfold tactVal
  dsimp only
  rw [if_neg (by decide), if_neg hn, if_neg (by simp)]
  exact clamp_fst ..

theorem tactVal_root : (tactVal 1 (.fin s n e)).1 = if s then .nan else expValue false (tactLog n e / 2) := by
  unfold tactVal
  dsimp only
  rw [if_neg (by decide), if_neg hn]
  cases s <;> rfl

theorem tactVal_rootRecip : (tactVal 2 (.fin s n e)).1 = if s then .nan else expValue false (-(tactLog n e / 2)) := by
  unfold tactVal
  dsimp only
  rw [if_neg (by decide), if_neg hn]
  cases s <;> rfl

theorem tactVal_log : (tactVal 5 (.fin s n e)).1 = if s then .nan else FVal.ofInt (tactLog n e) (-21) := by
  unfold tactVal
  dsimp only
  rw [if_neg (by decide), if_neg hn]
  cases s <;> rfl

end

theorem rneInt_signed (s : Bool) (n : Nat) (e : Int) : rneInt s n e =
    if s then -(nearNat ((n : ℚ) * 2 ^ e) : Int) else (nearNat ((n : ℚ) * 2 ^ e) : Int) := by
  rw [rneInt, rneMag_eq]

/-! ### Sums of rows and columns (R94, R270) -/

theorem seqSum_fst (mode : Nat) (xs : List FVal) : (seqSum mode xs).1 = match xs with
    | [] => .fin false 0 0
    | x :: t => t.foldl (fun acc y => (NFmt.f32.round mode false (FVal.add mode acc y)).val) (NFmt.f32.round mode false x).val := by
  cases xs with
  | nil => rfl
  | cons x t =>
    have hfold (l : List FVal) (acc : FVal × Nat) : (l.foldl (fun acc y =>
        let z := NFmt.f32.round mode false (FVal.add mode acc.1 y)
        (z.val, acc.2 ||| accEvents acc.1 [y] z)) acc).1 =
        l.foldl (fun acc y => (NFmt.f32.round mode false (FVal.add mode acc y)).val) acc.1 := by
      induction l generalizing acc with
      | nil => rfl
      | cons y l ih => exact ih _
    exact hfold t _

section
variable {f : W64} {a : TArg} {i j : Nat} (hl : a.xs.length = a.e.rows * a.e.cols)

theorem column_map {α β : Type} (l : List α) (g : α → β) (rows cols : Nat) :
    ((List.range rows).filterMap fun k => (l.map g)[k * cols + j]?) = ((List.range rows).filterMap fun k => l[k * cols + j]?).map g := by
  rw [List.map_filterMap]
  exact List.filterMap_congr fun k _ => List.getElem?_map

include hl

theorem sumRun_row (ha : 3 < a.e.fmt.toNat) (hi : i < a.e.rows) (hc : 0 < a.e.cols) : ((sumRun f a true)[i]?).map (·.1) =
    some (NFmt.f32.encode (seqSum (fmtTrnd f) (((a.xs.drop (i * a.e.cols)).take a.e.cols).map fun u => (a.value f u).1)).1) := by
  unfold sumRun
  rw [if_neg (not_tileInt ha), if_pos rfl, List.getElem?_map, rowsOf_getElem? hc ((a.length_vals f).trans hl) hi, TArg.vals,
    ← List.map_drop, ← List.map_take]
  simp only [Option.map_some, List.map_map]
  rfl

theorem sumRun_column (ha : 3 < a.e.fmt.toNat) (hj : j < a.e.cols) : ((sumRun f a false)[j]?).map (·.1) =
    some (NFmt.f32.encode (seqSum (fmtTrnd f)
      (((List.range a.e.rows).filterMap fun q => a.xs[q * a.e.cols + j]?).map fun u => (a.value f u).1)).1) := by
  unfold sumRun
  rw [if_neg (not_tileInt ha), if_neg Bool.false_ne_true, List.getElem?_map,
    columnsOf_rowsOf_getElem? ((a.length_vals f).trans hl) hj, TArg.vals, column_map]
  simp only [Option.map_some, List.map_map]
  rfl

theorem sumRun_column_int (ha : a.e.fmt.toNat ≤ 3) (hj : j < a.e.cols) : (sumRun f a false)[j]? =
    some ((((List.range a.e.rows).filterMap fun q => a.ints[q * a.e.cols + j]?).sum % 2 ^ 32).toNat, 0) := by
  have hint : tileInt a.e.fmt = true := decide_eq_true ha
  unfold sumRun
  rw [if_pos hint, if_neg Bool.false_ne_true, List.getElem?_map,
    columnsOf_rowsOf_getElem? (a.length_ints.trans hl) hj, Option.map_some, wrapNat_eq, ← List.sum_eq_foldl]

end

/-! ### The epilogue of a trestle form (R265) -/

/-- The value of an element after the epilogue's operation, of a sum z and a bias y. -/
def epiValue (ep : BitVec 8) (mode : Nat) (z y : FVal) : FVal :=
  let s := if epiBias ep then FVal.add mode z y else z
  if epiRelu ep then FVal.max s (.fin false 0 0) else s

theorem epilogue_getElem? (ep : BitVec 8) (f : W64) (src r : Entry) (bias : Option TArg) {xs : List (Nat × Nat)} {k u : Nat}
    (hk : (xs[k]?).map (·.1) = some u) : ((epilogue ep f src r bias xs)[k]?).map (·.1) = some ((tileFmt r.fmt).encode
      ((tileFmt r.fmt).round (fmtTrnd f) (fmtSat f) ((epiValue ep (fmtTrnd f) ((tileFmt src.fmt).decode u src.scale (fmtFlush f)).1
        (((bias.map (·.vals f)).getD [])[k % r.cols]?.getD (.fin false 0 0, false)).1).scale (-r.scale))).val) := by
  obtain ⟨c, hc, rfl⟩ := Option.map_eq_some_iff.mp hk
  unfold epilogue
  rw [List.getElem?_map, List.getElem?_zipIdx, hc]
  cases bias <;> simp only [Option.map_some, Nat.zero_add] <;> rfl

/-- A trestle form of an epilogue field, its plain result and whether it pops an accumulator. -/
def trestleForm (fwd acc : Bool) (m : Mask) (ep : BitVec 8) (pl : Bool) : Instr :=
  match fwd, acc with
  | true, false => .mfw m ep pl
  | true, true => .mfwa m ep pl
  | false, false => .mbk m ep pl
  | false, true => .mbka m ep pl

section
variable {fwd acc : Bool} {m : Mask} {ep : BitVec 8} {pl : Bool} {f : W64} {r : Entry} {x w : TArg} {rest : List TArg}

theorem tileRun_trestle : tileRun (trestleForm fwd acc m ep pl) f r (x :: rest) (some w) = trestleRun fwd acc ep f r (x :: rest) w := by
  cases fwd <;> cases acc <;> rfl

theorem trestleRun_plain : trestleRun fwd acc 0 f r (x :: rest) w = trestleSums fwd acc f x w (if acc then rest.head? else none) := rfl

theorem trestleRun_epilogue (h : ep ≠ 0) : trestleRun fwd acc ep f r (x :: rest) w =
    epilogue ep f ⟨0, r.rows, r.cols, sumFmt w.e f, sumScale x.e w.e⟩ r (if epiBias ep then rest.getLast? else none)
      (trestleRun fwd acc 0 f r (x :: rest) w) := if_neg h

end

/-! ### The format of an integer sum (R93) -/

section
variable {fwd acc : Bool} {f raw : W64} {x w : TArg} {cin : Option TArg} {k u : Nat}

/-- The raw sums of a trestle form on integers. -/
def trestleDots (fwd acc : Bool) (x w : TArg) (cin : Option TArg) : List Int :=
  (rowsOf x.e.cols x.ints).zipIdx.flatMap fun xi => (weightLines fwd w.e w.ints).zipIdx.map fun wj =>
    intDot ((trestleStarts acc cin TArg.ints)[xi.2 * (if fwd then w.e.cols else w.e.rows) + wj.2]?.getD 0) xi.1 wj.1

theorem trestleSums_eq_map (hw : tileInt w.e.fmt = true) :
    trestleSums fwd acc f x w cin = (trestleDots fwd acc x w cin).map (sumWord f) := by
  rw [trestleSums_eq_int hw, trestleDots, List.map_flatMap]
  simp only [List.map_map]
  rfl

theorem sextNat_wrapNat_intDot (a : Int) (xs ws : List Int) : sextNat 32 (wrapNat 32 (intDot a xs ws)) = intDot a xs ws := by
  unfold intDot
  rw [wrapNat_sextNat (wrapNat_lt ..)]

theorem trestleDots_signed {d : Int} (h : d ∈ trestleDots fwd acc x w cin) : sextNat 32 (wrapNat 32 d) = d := by
  obtain ⟨xi, -, hd⟩ := List.mem_flatMap.mp h
  obtain ⟨wj, -, rfl⟩ := List.mem_map.mp hd
  exact sextNat_wrapNat_intDot ..

/-- The rounding that `intout` asks for, from the element that `intout` 0 gives. -/
theorem trestleSums_intout (hw : tileInt w.e.fmt = true) (hraw : fmtIntout raw = 0) (hf : fmtIntout f ≠ 0)
    (hu : (trestleSums fwd acc raw x w cin)[k]? = some (u, 0)) : (trestleSums fwd acc f x w cin)[k]? =
      some ((tileFmt (intoutFmt f)).finish 0 (fmtTrnd f) (fmtIntout f != 4 || fmtSat f) [] (FVal.ofInt (sextNat 32 u) (fmtNscale f))) := by
  rw [trestleSums_eq_map hw, List.getElem?_map] at hu ⊢
  obtain ⟨d, hd, hword⟩ := Option.map_eq_some_iff.mp hu
  rw [sumWord, if_pos hraw] at hword
  cases hword
  rw [hd, Option.map_some, sumWord, if_neg hf, trestleDots_signed (List.mem_of_getElem? hd)]

theorem sextNat_word (h : u < 2 ^ 32) : sextNat 32 u = if u < 2 ^ 31 then (u : Int) else (u : Int) - 2 ^ 32 := by
  unfold sextNat
  rw [Nat.mod_eq_of_lt h]
  rfl

theorem trestleSums_raw_lt (hw : tileInt w.e.fmt = true) (hraw : fmtIntout raw = 0)
    (hu : (trestleSums fwd acc raw x w cin)[k]? = some (u, 0)) : u < 2 ^ 32 := by
  rw [trestleSums_eq_map hw, List.getElem?_map] at hu
  obtain ⟨d, -, hword⟩ := Option.map_eq_some_iff.mp hu
  rw [sumWord, if_pos hraw] at hword
  cases hword
  exact wrapNat_lt ..

theorem intoutFmt_eq (h : fmtIntout f ≤ 4) : intoutFmt f = if fmtIntout f = 4 then 6 else if fmtIntout f = 0 then 3
    else if fmtIntout f = 1 then 2 else if fmtIntout f = 2 then 0 else 1 := by
  unfold intoutFmt
  have hcases : fmtIntout f = 0 ∨ fmtIntout f = 1 ∨ fmtIntout f = 2 ∨ fmtIntout f = 3 ∨ fmtIntout f = 4 := by omega
  rcases hcases with h | h | h | h | h <;> rw [h] <;> rfl

theorem sumFmt_cases (h : fmtIntout f ≤ 4) : sumFmt w.e f = if decide (w.e.fmt.toNat ≤ 3) = false ∨ fmtIntout f = 4 then 6
    else if fmtIntout f = 0 then 3 else if fmtIntout f = 1 then 2 else if fmtIntout f = 2 then 0 else 1 := by
  unfold sumFmt
  rw [intoutFmt_eq h]
  by_cases hw : w.e.fmt.toNat ≤ 3
  · simp [tileInt, hw]
  · simp [tileInt, hw]

end

theorem trestleForm_of_eq {g : BitVec 8 → Bool → Instr} {m : Mask}
    (hg : g = Instr.mfw m ∨ g = Instr.mfwa m ∨ g = Instr.mbk m ∨ g = Instr.mbka m) :
    ∃ fwd acc, ∀ ep pl, g ep pl = trestleForm fwd acc m ep pl := by
  rcases hg with rfl | rfl | rfl | rfl
  · exact ⟨true, false, fun _ _ => rfl⟩
  · exact ⟨true, true, fun _ _ => rfl⟩
  · exact ⟨false, false, fun _ _ => rfl⟩
  · exact ⟨false, true, fun _ _ => rfl⟩

/-- Settles O41: each form goes element by element through its engine's value (binRun_float, fmaRun_getElem?, the tactVal
lemmas, sumRun_row, epilogue_getElem?, trestleSums_intout). -/
theorem tileArithmetic : Obligations.TileArithmetic := by
  intro m fmt r a b c w k i j u v t F md value near flushed sat8
  refine ⟨fun ha hb hc hu hv ht => ?_, fun q f g hu => ?_, fun hl hi hj => ?_,
    fun g pl ep x rest hfmt hg => ?_⟩
  · intro x y z put
    exact ⟨binRun_float _ ha hu hv, binRun_float _ ha hu hv, binRun_float _ ha hu hv, binRun_float _ ha hu hv,
      binRun_float _ ha hu hv, fmaRun_getElem? hu hv ht⟩
  · intro x
    refine ⟨?_, fun ha hf => ?_⟩
    · intro z
      show (a.xs.map _)[k]? = _
      rw [List.getElem?_map, hu]
      simp only [Option.map_some, convertBits, z, flushed, List.any_cons, List.any_nil, Bool.or_false]
      rfl
    · intro gives power clamp
      have hpower (s : Bool) (l : Int) : power s l = expValue s l := (expValue_eq s l).symm
      have hclamp (s : Bool) (l : Int) : clamp s l = clampedPower s l := by
        unfold clamp clampedPower
        rw [hpower]
      have hgives {q : FVal} (h : (tactVal f.toNat x.1).1 = q) : gives q := by
        show ((a.xs.map _)[k]?).map _ = _
        rw [List.getElem?_map, hu, ← h]
        rfl
      refine ⟨fun hx => hgives (by rw [hx]; rfl), fun s hx => ?_, fun s e hx => ?_, fun s n e hn hx => ?_⟩
      · refine ⟨fun h => hgives (by rw [hx, h]; rfl), fun h => hgives ?_, fun h => hgives (by rw [hx, h]; rfl),
          fun h => hgives (by rw [hx, h]; rfl), fun h => hgives (by rw [hx, h]; rfl)⟩
        rcases h with h | h <;> rw [hx, h] <;> rfl
      · refine ⟨fun h => hgives (by rw [hx, h]; rfl), fun h => hgives ?_, fun h => hgives (by rw [hx, h]; rfl),
          fun h => hgives ?_, fun h => hgives (by rw [hx, h]; rfl)⟩
        · rcases h with h | h <;> rw [hx, h] <;> rfl
        · rw [hx, h, tactVal_exp, rneInt_signed, Nat.cast_zero, zero_mul, hpower]
          have hz : nearNat 0 = 0 := by exact_mod_cast nearNat_natCast 0
          rw [hz]
          cases s <;> rfl
      · intro low l h'
        have hl : tactLog n e = l := tactLog_eq hn s e (by rw [← hx])
        refine ⟨fun h => hgives ?_, fun h => hgives ?_, fun h => hgives ?_, fun h => hgives ?_, fun h => hgives ?_, fun h => hgives ?_⟩
        · rw [hx, h, tactVal_recip hn, hl, hclamp]
        · rw [hx, h, tactVal_root hn, hl, hpower]
        · rw [hx, h, tactVal_rootRecip hn, hl, hpower]
        · rw [hx, h, tactVal_square hn, hl, hclamp]
        · rw [hx, h, tactVal_exp, rneInt_signed, hclamp]
          rfl
        · rw [hx, h, tactVal_log hn, hl]
          rfl
  · intro row col rnd sum
    have hsum (l : List Nat) : sum l = (seqSum md (l.map fun u => (a.value fmt u).1)).1 := by
      rw [seqSum_fst]
      rfl
    refine ⟨fun ha => ?_, fun ha => sumRun_column_int hl ha hj⟩
    rw [hsum, hsum]
    exact ⟨sumRun_row hl ha hi (by omega), sumRun_column hl ha hj⟩
  · intro int code scale op z gives
    obtain ⟨fwd, acc, hform⟩ := trestleForm_of_eq hg
    have hcode : sumFmt w.e fmt = code := sumFmt_cases hfmt
    have hscale : sumScale x.e w.e = scale := rfl
    refine ⟨fun hep hk => ?_, fun raw hint hraw hf hk => ?_⟩
    · rw [hform, tileRun_trestle] at hk
      have hrun (q : FVal) (h : epiValue ep md z.1 ((((if epiBias ep then rest.getLast? else none).map (·.vals fmt)).getD
          [])[k % r.cols]?.getD (.fin false 0 0, false)).1 = q) : gives q := by
        show ((tileRun (g ep pl) fmt r (x :: rest) (some w))[k]?).map (·.1) = _
        rw [hform, tileRun_trestle, trestleRun_epilogue hep, epilogue_getElem? ep fmt _ r _ hk, ← h]
        simp only [hcode, hscale]
        rfl
      have hbias : epiBias ep = (op == 2 || op == 3) := rfl
      have hrelu : epiRelu ep = (op == 1 || op == 3) := rfl
      refine ⟨fun h => hrun _ (by simp only [epiValue, hbias, hrelu, h]; rfl), fun h => hrun _ (by simp only [epiValue, hbias, hrelu, h]; rfl),
        fun hlast hv => ?_⟩
      have hb : (((some b).map (·.vals fmt)).getD [])[k % r.cols]?.getD (.fin false 0 0, false) = value b v := by
        show ((b.vals fmt)[k % r.cols]?).getD _ = _
        rw [TArg.vals_getElem? hv]
        rfl
      intro y
      exact ⟨fun h => hrun _ (by
          simp only [epiValue, hbias, hrelu, h, hlast]
          exact congrArg (fun q => FVal.add md z.1 q.1) hb),
        fun h => hrun _ (by
          simp only [epiValue, hbias, hrelu, h, hlast]
          exact congrArg (fun q => FVal.max (FVal.add md z.1 q.1) (.fin false 0 0)) hb)⟩
    · intro s
      rw [hform, tileRun_trestle, trestleRun_plain] at hk ⊢
      have hs : sextNat 32 u = s := sextNat_word (trestleSums_raw_lt hint hraw hk)
      have hout : intoutFmt fmt = code := by
        rw [← hcode, sumFmt]
        exact (if_pos hint).symm
      rw [trestleSums_intout hint hraw hf hk, hs, hout]
      rfl

end Sys2Proof.Machine

/-! # A trap at issue keeps the tick of its context (05 R130, 19 R374) -/

namespace Sys2Proof.Machine

/-- A state whose context at a slot, if any, has the tick that it had. -/
def State.TickKept (a : Nat) (s t : State) : Prop := ∀ d, t.ctx a = some d → ∃ c, s.ctx a = some c ∧ d.tick = c.tick

theorem State.TickKept.refl (a : Nat) (s : State) : s.TickKept a s := fun d h => ⟨d, h, rfl⟩

theorem State.TickKept.trans {a : Nat} {s t u : State} (h : State.TickKept a s t) (h' : State.TickKept a t u) : State.TickKept a s u := by
  intro d hd
  obtain ⟨c, hc, htick⟩ := h' d hd
  obtain ⟨b, hb, htick'⟩ := h c hc
  exact ⟨b, hb, htick.trans htick'⟩

theorem State.TickKept.of_ctxs {a : Nat} {s t : State} (h : t.ctxs = s.ctxs) : State.TickKept a s t := by
  intro d hd
  rw [State.ctx, h] at hd
  exact ⟨d, hd, rfl⟩

theorem State.TickKept.onCtx (a : Nat) (s : State) (b : Nat) {f : Ctx → Ctx} (hf : ∀ c, (f c).tick = c.tick) :
    State.TickKept a s (s.onCtx b f) := by
  intro d hd
  by_cases hab : a = b
  · subst hab
    rw [State.onCtx_ctx] at hd
    obtain ⟨c, hc, rfl⟩ := Option.map_eq_some_iff.mp hd
    exact ⟨c, hc, hf c⟩
  · rw [State.onCtx_ctx_ne s f hab] at hd
    exact ⟨d, hd, rfl⟩

theorem State.TickKept.foldl {α : Type} (a : Nat) {f : State → α → State} (hf : ∀ s x, State.TickKept a s (f s x)) (l : List α) (s : State) :
    State.TickKept a s (l.foldl f s) := by
  induction l generalizing s with
  | nil => exact .refl a s
  | cons x l ih => exact (hf s x).trans (ih _)

/-! ### Reads and writes of memory leave the contexts -/

section
variable {s t : State} {dom : Nat}

theorem State.translate_ctxs {va : Nat} {p : Perm} {dev : Bool} {l : PLeaf} (h : s.translate (flatTag dom va) va p dev = .ok t l) :
    t.ctxs = s.ctxs := by
  rcases State.translate_ok h with ⟨rfl, -⟩ | rfl
  · rfl
  · obtain ⟨ls, hls⟩ := s.filled_eq dom va l
    rw [hls]

theorem State.writeBack_ctxs (s : State) (t : Tag) : (s.writeBack t).ctxs = s.ctxs := by
  unfold State.writeBack
  split
  · rfl
  · split <;> rfl

theorem State.refill_ctxs (s : State) (t : Tag) : (s.refill t).ctxs = s.ctxs := by
  unfold State.refill
  dsimp only
  split
  · exact s.writeBack_ctxs t
  · exact s.writeBack_ctxs t

theorem State.linkRes_not_ok {α : Type} {l : PLeaf} {va : Nat} {p : Perm} {unit : BitVec 32} {x : α} :
    s.linkRes l va p unit ≠ some (.ok t x) := by
  intro h
  unfold State.linkRes at h
  split at h
  · cases h
  · split at h <;> cases h

theorem State.homeReady_ctxs {tag : Tag} {ws : List W64} {ls : List (PLeaf × Nat × Nat)} {x : Unit} (h : s.homeReady tag ws ls = .ok t x) :
    t.ctxs = s.ctxs := by
  unfold State.homeReady at h
  split at h
  · cases h
    rfl
  · split at h
    · split at h
      · next r hr =>
        obtain ⟨e, -, he⟩ := List.exists_of_findSome?_eq_some hr
        exact absurd (h ▸ he) State.linkRes_not_ok
      · cases h
        exact s.refill_ctxs tag
    · split at h
      · cases h
        rfl
      · cases h
        split
        · rfl
        · exact State.refill_ctxs _ tag

theorem State.readHome_ctxs {tag : Tag} {ws : List W64} {ls : List (PLeaf × Nat × Nat)} {x : List Byte}
    (h : s.readHome tag ws ls = .ok t x) : t.ctxs = s.ctxs := by
  unfold State.readHome at h
  split at h
  · cases h
  · cases h
  · next s1 _ hready =>
    split at h
    · cases h
    · cases h
      exact State.homeReady_ctxs hready

theorem State.readPast_ctxs {va n : Nat} {p : Perm} {ws : List W64} {x : List Byte}
    (h : s.readPast false none (flatTag dom va) ws p false [(va, n)] = .ok t x) : t.ctxs = s.ctxs := by
  unfold State.readPast at h
  split at h
  · cases h
  · cases h
  · next s1 ls hleaves =>
    have hs1 : s1.ctxs = s.ctxs := by
      simp only [State.leaves, State.trans, Bool.false_eq_true, if_false] at hleaves
      split at hleaves
      · cases hleaves
      · cases hleaves
      · next s0 l htr =>
        cases hleaves
        exact State.translate_ctxs htr
    split at h
    · cases h
    · cases h
    · next s2 bs hread =>
      cases h
      exact (State.readHome_ctxs hread).trans hs1

theorem State.readFlatPieces_ctxs {p : Perm} {ws : List W64} {ps : List (Nat × Nat)} {x : List Byte}
    (h : s.readFlatPieces dom p ws ps = .ok t x) : t.ctxs = s.ctxs := by
  induction ps generalizing s x with
  | nil =>
    cases h
    rfl
  | cons e ps ih =>
    unfold State.readFlatPieces at h
    split at h
    · cases h
    · cases h
    · next s1 b hread =>
      split at h
      · cases h
      · cases h
      · next s2 bs hrest =>
        cases h
        exact (ih hrest).trans (State.readPast_ctxs hread)

theorem State.fetchSeg_ctxs {seg : Nat} {x : Half} (h : s.fetchSeg dom seg = .ok t x) : t.ctxs = s.ctxs := by
  unfold State.fetchSeg at h
  split at h
  · cases h
  · cases h
  · next s1 hdr hread =>
    dsimp only at h
    split at h
    · cases h
    · cases h
    · next s2 bs hread' =>
      cases h
      exact (State.readFlatPieces_ctxs hread').trans (State.readFlatPieces_ctxs hread)

theorem State.writeHome_ctxs (s : State) (tag : Tag) (l : PLeaf) (ws : List (Nat × Byte)) : (s.writeHome tag l ws).ctxs = s.ctxs := by
  obtain ⟨q, hq⟩ := s.clearPoison_eq (ws.map (·.1))
  unfold State.writeHome
  rw [hq]
  dsimp only
  split <;> rfl

theorem State.writeRecord_ctxs {a : Nat} {c : Ctx} {r : TrapRec} {x : Unit} (h : s.writeRecord a c r = .ok t x) : t.ctxs = s.ctxs := by
  unfold State.writeRecord at h
  split at h
  · next s1 _ hwrite =>
    cases h
    unfold State.writeFlat at hwrite
    split at hwrite
    · cases hwrite
    · cases hwrite
    · next s0 l htr =>
      cases hwrite
      obtain ⟨n, xs, hrest⟩ := (s0.writeHome (flatTag c.pd.toNat c.trapbuf.toNat) l
        (zipIdxBytes (l.key c.trapbuf.toNat) (r.bytes ++ natLe 8 0))).wroteLines_rest a c.cid c.pd.toNat 1 r.bundle
          [flatTag c.pd.toNat c.trapbuf.toNat]
      rw [hrest]
      exact (State.writeHome_ctxs _ _ _ _).trans (State.translate_ctxs htr)
  · cases h
  · cases h

end

/-! ### A segment that is read, and an instance that aborts -/

section
variable {s t : State} (a : Nat)

theorem State.segment_tickKept {b seg : Nat} {x : Half} (h : s.segment b seg = .ok t x) : State.TickKept a s t := by
  unfold State.segment at h
  split at h
  · cases h
  · split at h
    · cases h
      exact .refl a s
    · split at h
      · cases h
      · cases h
      · next s1 half hfetch =>
        cases h
        exact (State.TickKept.of_ctxs (State.fetchSeg_ctxs hfetch)).trans
          (State.TickKept.trans (.of_ctxs rfl) (.onCtx a _ b fun _ => rfl))

theorem State.target_tickKept {b : Nat} {p : CodePos} {x : Bool} (h : s.target b p = .ok t x) : State.TickKept a s t := by
  unfold State.target at h
  split at h
  · cases h
  · cases h
  · next s1 half hseg =>
    split at h
    · cases h
    · cases h
      exact State.segment_tickKept a hseg

theorem State.pin_tickKept (s : State) : State.TickKept a s s.pin := by
  intro d hd
  have hpin : s.pin.ctx a = (s.ctx a).map _ := AL.find_map s.ctxs (fun _ c => { c with
    floorWait := c.floorWait && !s.witSat c.floor
    window := c.window.map fun o => { o with sat := s.opSat c o } }) a
  rw [hpin] at hd
  obtain ⟨c, hc, rfl⟩ := Option.map_eq_some_iff.mp hd
  exact ⟨c, hc, rfl⟩

theorem State.formFail_tickKept (s : State) (agent dom seq : Nat) : State.TickKept a s (s.formFail agent dom seq) :=
  (s.pin_tickKept a).trans (.of_ctxs rfl)

theorem State.failOps_tickKept (s : State) (pd : Nat) (ops : List TOp) : State.TickKept a s (s.failOps pd ops) := by
  refine State.TickKept.foldl a (fun s o => ?_) ops s
  split
  · exact s.formFail_tickKept a _ _ _
  · exact .refl a s

theorem foldl_ctxs {α : Type} {f : State → α → State} (hf : ∀ s x, (f s x).ctxs = s.ctxs) (l : List α) (s : State) :
    (l.foldl f s).ctxs = s.ctxs := by
  induction l generalizing s with
  | nil => rfl
  | cons x l ih => exact (ih (f s x)).trans (hf s x)

theorem State.markDeck_ctxs (s : State) (core : Nat) : (s.markDeck core).ctxs = s.ctxs := by
  unfold State.markDeck
  refine foldl_ctxs ?_ _ s
  exact fun _ _ => rfl

theorem State.retireCtx_tickKept (s : State) (b : Nat) : State.TickKept a s (s.retireCtx b) := by
  unfold State.retireCtx
  split
  · exact .refl a s
  · next c hc =>
    have hctxs (u : State) (k : Nat) : State.TickKept a u { u with ctxs := AL.del u.ctxs k } := by
      intro d hd
      by_cases hk : a = k
      · subst hk
        exact absurd ((AL.find_del_same u.ctxs a).symm.trans hd) (by simp)
      · exact ⟨d, (AL.find_del_ne u.ctxs hk).symm.trans hd, rfl⟩
    refine State.TickKept.trans (.of_ctxs ?_) (hctxs _ b)
    have hlast : ((s.markDeck (coreOf b)).countLast (b, c)).ctxs = s.ctxs := by
      rw [← s.markDeck_ctxs (coreOf b)]
      unfold State.countLast
      split <;> rfl
    split
    · exact hlast
    · exact hlast

theorem State.dropEarly_tickKept (s : State) (cids : List Nat) : State.TickKept a s (s.dropEarly cids) :=
  State.TickKept.trans (.of_ctxs rfl) (.foldl a (fun s _ => s.formFail_tickKept a _ _ _) _ _)

theorem State.returnChunks_ctxs (s : State) (q n base : Nat) : (s.returnChunks q n base).ctxs = s.ctxs := by
  unfold State.returnChunks
  split <;> rfl

theorem State.dropEpis_ctxs (s : State) (core : Nat) (keys : List Nat) : (s.dropEpis core keys).ctxs = s.ctxs :=
  State.returnChunks_ctxs ..

/-- An instance's members have left their slots, their forms failed. -/
def State.emptied (s : State) (g : GInst) : State :=
  (s.membersOf g).foldl (fun (s : State) (e : Nat × Ctx) => (s.failOps g.dom (e.2.window ++ e.2.keptOps)).retireCtx e.1) s

/-- Nothing that contexts which are gone had started is kept. -/
def State.unkept (s : State) (cids : List Nat) : State :=
  { s with
    accs := s.accs.map fun (x : Access) => if cids.contains x.cid then { x with kept := false } else x
    grads := s.grads.filter fun (x : Contribution) => !cids.contains x.cid }

theorem State.stopInst_tickKept (s : State) (g : GInst) : State.TickKept a s (s.stopInst g) := by
  have hempty : State.TickKept a s (s.emptied g) :=
    .foldl a (fun u e => (u.failOps_tickKept a _ _).trans (State.retireCtx_tickKept a _ _)) (s.membersOf g) s
  have hearly (u : State) (cids : List Nat) : State.TickKept a u ((u.unkept cids).dropEarly cids).settleGrads :=
    State.TickKept.trans (.of_ctxs rfl) (((u.unkept cids).dropEarly_tickKept a cids).trans (.of_ctxs rfl))
  have hepis (u : State) (l keys : List Nat) : State.TickKept a u (l.foldl (fun (s : State) k => s.dropEpis k keys) u) :=
    .of_ctxs (foldl_ctxs (fun u k => u.dropEpis_ctxs k keys) l u)
  have hend (u : State) (f : GInst → GInst) : State.TickKept a u ((u.onInst g.task g.num f).clearLatches g.task g.num) := .of_ctxs rfl
  exact (hempty.trans (hearly _ _)).trans ((hepis _ _ _).trans (hend _ _))

theorem State.ringAppend_ctxs (s : State) (hdr size : Nat) (bs : List Byte) : (s.ringAppend hdr size bs).ctxs = s.ctxs := by
  have hwrite (u : State) (pa : Nat) (cs : List Byte) : (u.fwWrite pa cs).ctxs = u.ctxs := by
    obtain ⟨_, _, _, _, h⟩ := u.fwWrite_rest pa cs
    rw [h]
  exact (hwrite _ _ _).trans (hwrite _ _ _)

/-- The record of an instance's abort, at the trap buffer of the context that raised it. -/
def State.abortNoted (s : State) (raiser : Option Nat) (r : TrapRec) : State :=
  match raiser.bind s.ctx with
  | none => s
  | some c =>
    if c.trapbuf = 0 then s
    else match s.writeRecord (raiser.getD 0) c r with
      | .ok s' _ => s'
      | .wait => s.recordLater (raiser.getD 0) c r
      | .fault _ => s

theorem State.abortNoted_ctxs (s : State) (raiser : Option Nat) (r : TrapRec) : (s.abortNoted raiser r).ctxs = s.ctxs := by
  unfold State.abortNoted
  split
  · rfl
  · split
    · rfl
    · split
      · next hwrite => exact State.writeRecord_ctxs hwrite
      · rfl
      · rfl

theorem State.abortInst_tickKept (s : State) (task num : Nat) (raiser : Option Nat) (r : TrapRec) :
    State.TickKept a s (s.abortInst task num raiser r) := by
  cases hg : s.inst task num with
  | none =>
    rw [State.abortInst, hg]
    exact .refl a s
  | some g =>
    have hring (u : State) (hdr size : Nat) (bs : List Byte) : State.TickKept a u (u.ringAppend hdr size bs) :=
      .of_ctxs (u.ringAppend_ctxs hdr size bs)
    have hend (u : State) (f : Task → Task) : State.TickKept a u (u.onTask task f) := .of_ctxs rfl
    rw [State.abortInst, hg]
    exact (State.TickKept.of_ctxs (s.abortNoted_ctxs raiser { r with flags := r.flags ||| 4 })).trans
      ((hring _ _ _ _).trans ((State.stopInst_tickKept a _ g).trans (hend _ _)))

/-! ### Taking a trap -/

theorem State.takeTrap_tickKept (s : State) (b : Nat) (r : TrapRec) (replay : List TOp) (again : Bool) :
    State.TickKept a s (s.takeTrap b r replay again) := by
  have hlost (u : State) (pd task num : Nat) (q : TrapRec) : State.TickKept a u ((u.failOps pd replay).abortInst task num (some b) q) :=
    (u.failOps_tickKept a pd replay).trans (State.abortInst_tickKept a _ _ _ _ _)
  unfold State.takeTrap
  split
  · exact .refl a s
  · next c hc =>
    dsimp only
    split
    · exact hlost _ _ _ _ _
    · split
      · exact hlost _ _ _ _ _
      · split
        · exact .refl a s
        · exact hlost _ _ _ _ _
        · next s1 hwritten =>
          have hs1 : State.TickKept a s s1 := by
            split at hwritten
            · cases hwritten
              exact .refl a s
            · split at hwritten
              · next hwrite =>
                cases hwritten
                exact .of_ctxs (State.writeRecord_ctxs hwrite)
              · cases hwritten
              · cases hwritten
          split
          · exact hs1.trans (hlost _ _ _ _ _)
          · split
            · exact hs1.trans (hlost _ _ _ _ _)
            · exact .refl a s
            · exact hs1.trans (hlost _ _ _ _ _)
            · next s2 htarget =>
              exact (hs1.trans (State.target_tickKept a htarget)).trans (.onCtx a _ b fun _ => rfl)

/-- A trap at issue keeps the ticks of every context that stays. -/
theorem trapAt_tickKept (e : Env) (info : TrapInfo) : State.TickKept a e.s (trapAt e info) := by
  unfold trapAt
  dsimp only
  split
  · exact State.abortInst_tickKept a _ _ _ _ _
  · exact State.takeTrap_tickKept a _ _ _ _ _

end

end Sys2Proof.Machine

/-! # O53: what a form leaves unchanged when its bundle commits (05 R130, R137, 06 R146) -/

namespace Sys2Proof.Machine

/-- An effect that does nothing beside its results. -/
structure Eff.Quiet (f : Eff) : Prop where
  act : f.act = id
  post : f.post = id
  onHold : f.onHold = id

/-- An effect that only starts accesses, or fills lines. -/
structure State.Kept (s u : State) : Prop where
  mem : u.mem = s.mem
  regmem : u.regmem = s.regmem
  insts : u.insts = s.insts
  arrivals : u.arrivals = s.arrivals
  tasks : u.tasks = s.tasks
  cycle : u.cycle = s.cycle
  ctxs : u.ctxs = s.ctxs

structure Eff.Starts (f : Eff) : Prop where
  act : ∀ s : State, s.Kept (f.act s)
  post : f.post = id
  onHold : f.onHold = id

structure TPlan.Frames (p : TPlan) : Prop where
  also : ∀ s : State, s.Kept (p.also s)
  onHold : p.onHold = id

theorem quiet_of_reqOf {i : Instr} {r : SlotReq} (h : reqOf i = some r) (hs : r.slot = .s ∨ r.slot = .v ∨ r.slot = .x)
    (hset : ∀ m n sa, i ≠ .sset m n sa) (e : Env) : (r.eff e).Quiet := by
  cases i
  case sset m n sa => exact absurd rfl (hset m n sa)
  all_goals
    cases h <;> rcases hs with hs | hs | hs <;> cases hs <;> exact ⟨rfl, rfl, rfl⟩

theorem starts_of_reqOf {i : Instr} {r : SlotReq} (h : reqOf i = some r) (hs : r.slot = .m)
    (hbtw : ∀ q v a, i ≠ .btw q v a) (hwait : ∀ q v a, i ≠ .swwait q v a) (hpref : ∀ q a, i ≠ .pref q a) (e : Env) : (r.eff e).Starts := by
  cases i
  case btw q v a => exact absurd rfl (hbtw q v a)
  case swwait q v a => exact absurd rfl (hwait q v a)
  case pref q a => exact absurd rfl (hpref q a)
  all_goals
    cases h <;> cases hs <;> exact ⟨fun s => ⟨rfl, rfl, rfl, rfl, rfl, rfl, rfl⟩, rfl, rfl⟩

theorem TPlan.Frames.plain {p : TPlan} (halso : p.also = id) (hhold : p.onHold = id) : p.Frames :=
  ⟨fun s => by rw [halso]; exact ⟨rfl, rfl, rfl, rfl, rfl, rfl, rfl⟩, hhold⟩

theorem trestlePlan_frames (fwd acc : Bool) (ep : BitVec 8) (pl : Bool) (t : TIn) : (trestlePlan fwd acc ep pl t).Frames := by
  unfold trestlePlan
  dsimp only
  split <;> exact .plain rfl rfl

theorem State.Kept.trans {s t u : State} (h : s.Kept t) (h' : t.Kept u) : s.Kept u :=
  ⟨h'.mem.trans h.mem, h'.regmem.trans h.regmem, h'.insts.trans h.insts, h'.arrivals.trans h.arrivals, h'.tasks.trans h.tasks,
    h'.cycle.trans h.cycle, h'.ctxs.trans h.ctxs⟩

theorem State.touchRec_kept (s : State) (die dom id : Nat) : s.Kept (s.touchRec die dom id) := by
  unfold State.touchRec
  split <;> exact ⟨rfl, rfl, rfl, rfl, rfl, rfl, rfl⟩

theorem State.setLatch_kept (s : State) (c : Ctx) (id : Nat) (recomp : Bool) : s.Kept (s.setLatch c id recomp) := by
  unfold State.setLatch
  split <;> exact ⟨rfl, rfl, rfl, rfl, rfl, rfl, rfl⟩

/-- A form that names a tensor touches its record in the cache, beside what it does itself. -/
theorem recPlan_frames {t : TIn} {base : TPlan} {k : TRec → TPlan} (halso : base.also = id) (hhold : base.onHold = id)
    (hk : ∀ r, (k r).Frames) : (recPlan t base k).Frames := by
  unfold recPlan
  dsimp only
  split
  · exact .plain halso hhold
  · split
    · exact .plain halso hhold
    · split
      · exact .plain halso hhold
      · split
        · exact .plain halso hhold
        · exact ⟨fun s => ((hk _).also s).trans (State.touchRec_kept _ _ _ _), (hk _).onHold⟩

theorem recPlan_frames_plain {t : TIn} {base : TPlan} {k : TRec → TPlan} (halso : base.also = id) (hhold : base.onHold = id)
    (hk : ∀ r, (k r).also = id ∧ (k r).onHold = id) : (recPlan t base k).Frames :=
  recPlan_frames halso hhold fun r => .plain (hk r).1 (hk r).2

theorem tile_of_reqOf {i : Instr} {r : SlotReq} (h : reqOf i = some r) (hs : r.slot = .t) :
    ∃ m f sp n w plan, r = tReq m f sp n w plan ∧ ∀ t, (plan t).Frames := by
  cases i
  case mfw => cases h; exact ⟨_, _, _, _, _, _, rfl, trestlePlan_frames _ _ _ _⟩
  case mfwa => cases h; exact ⟨_, _, _, _, _, _, rfl, trestlePlan_frames _ _ _ _⟩
  case mbk => cases h; exact ⟨_, _, _, _, _, _, rfl, trestlePlan_frames _ _ _ _⟩
  case mbka => cases h; exact ⟨_, _, _, _, _, _, rfl, trestlePlan_frames _ _ _ _⟩
  case tget => cases h; exact ⟨_, _, _, _, _, _, rfl, fun _ => recPlan_frames_plain rfl rfl fun _ => ⟨rfl, rfl⟩⟩
  case tsend =>
    cases h
    refine ⟨_, _, _, _, _, _, rfl, fun _ => ?_⟩
    unfold planTsend
    exact recPlan_frames_plain rfl rfl fun _ => ⟨rfl, rfl⟩
  case tsendq =>
    cases h
    refine ⟨_, _, _, _, _, _, rfl, fun _ => ?_⟩
    unfold planTsendq
    exact recPlan_frames_plain rfl rfl fun _ => ⟨rfl, rfl⟩
  case acopy => cases h; exact ⟨_, _, _, _, _, _, rfl, fun _ => recPlan_frames_plain rfl rfl fun _ => ⟨rfl, rfl⟩⟩
  case acopyw =>
    cases h
    refine ⟨_, _, _, _, _, _, rfl, fun _ => ?_⟩
    unfold planAcopyw
    exact recPlan_frames_plain rfl rfl fun _ => ⟨rfl, rfl⟩
  case stash =>
    cases h
    refine ⟨_, _, _, _, _, _, rfl, fun _ => ?_⟩
    unfold planStash
    exact recPlan_frames_plain rfl rfl fun _ => ⟨rfl, rfl⟩
  case grad =>
    cases h
    refine ⟨_, _, _, _, _, _, rfl, fun _ => ?_⟩
    unfold planGrad
    exact recPlan_frames_plain rfl rfl fun _ => ⟨rfl, rfl⟩
  case restore =>
    cases h
    refine ⟨_, _, _, _, _, _, rfl, fun _ => ?_⟩
    unfold planRestore
    exact recPlan_frames rfl rfl fun _ => ⟨fun s => s.setLatch_kept _ _ _, rfl⟩
  case recomp =>
    cases h
    refine ⟨_, _, _, _, _, _, rfl, fun _ => ?_⟩
    unfold planRecomp
    exact recPlan_frames rfl rfl fun _ => ⟨fun s => s.setLatch_kept _ _ _, rfl⟩
  all_goals
    cases h <;> cases hs <;> exact ⟨_, _, _, _, _, _, rfl, fun t => .plain rfl rfl⟩

theorem State.prefetch_kept (s : State) (core dom scope prio : Nat) (w : W64) : s.Kept (s.prefetch core dom scope prio w) := by
  have hfill (u : State) (t : Tag) : u.Kept (u.l1Fill core t) := by
    unfold State.l1Fill
    split
    · exact ⟨rfl, rfl, rfl, rfl, rfl, rfl, rfl⟩
    · split <;> exact ⟨rfl, rfl, rfl, rfl, rfl, rfl, rfl⟩
  have hprio (u : State) (t : Tag) : u.Kept (u.setPrio t prio) := ⟨rfl, rfl, rfl, rfl, rfl, rfl, rfl⟩
  unfold State.prefetch
  dsimp only
  split
  · next s1 l htr =>
    have hs1 : s.Kept s1 := by
      rcases State.translate_ok htr with ⟨rfl, -⟩ | rfl
      · exact ⟨rfl, rfl, rfl, rfl, rfl, rfl, rfl⟩
      · obtain ⟨ls, hls⟩ := s.filled_eq dom w.toNat l
        rw [hls]
        exact ⟨rfl, rfl, rfl, rfl, rfl, rfl, rfl⟩
    split
    · exact ⟨rfl, rfl, rfl, rfl, rfl, rfl, rfl⟩
    · split
      · exact (hs1.trans (hprio s1 _)).trans (hfill _ _)
      · exact hs1.trans (hprio s1 _)
  · exact ⟨rfl, rfl, rfl, rfl, rfl, rfl, rfl⟩

/-! ### What a form leaves of its context -/

/-- The registers, what is in flight, and the special registers of a context. -/
structure Ctx.RegsKept (c d : Ctx) : Prop where
  s : d.s = c.s
  p : d.p = c.p
  q : d.q = c.q
  w : d.w = c.w
  xp : d.xp = c.xp
  fmt : d.fmt = c.fmt
  capture : d.capture = c.capture
  status : d.status = c.status
  pd : d.pd = c.pd
  deckq : d.deckq = c.deckq
  pierq : d.pierq = c.pierq

/-- The special registers that `SSET` may write. -/
structure Ctx.SpecialsKept (c d : Ctx) : Prop where
  swctx : d.swctx = c.swctx
  tlimit : d.tlimit = c.tlimit
  trise : d.trise = c.trise
  spillbase : d.spillbase = c.spillbase
  spilllen : d.spilllen = c.spilllen
  lk : d.lk = c.lk
  tvec : d.tvec = c.tvec
  trapbuf : d.trapbuf = c.trapbuf
  statbuf : d.statbuf = c.statbuf

/-- The tile stack and what goes with it, but for the window and the tiles. -/
structure Ctx.StackKept (c d : Ctx) : Prop where
  stack : d.stack = c.stack
  plane0 : d.plane0 = c.plane0
  plane1 : d.plane1 = c.plane1
  tseq : d.tseq = c.tseq
  nextTile : d.nextTile = c.nextTile

/-- Operations have retired: the oldest, which were complete, with the tiles that only they named. -/
structure Ctx.Retired (c d : Ctx) : Prop where
  tiles : ∀ x ∈ d.tiles, x ∈ c.tiles
  window : ∃ n, (∀ o ∈ c.window.take n, o.status = .done) ∧ d.window = c.window.drop n

theorem Ctx.RegsKept.trans {c d e : Ctx} (h : c.RegsKept d) (h' : d.RegsKept e) : c.RegsKept e :=
  ⟨h'.s.trans h.s, h'.p.trans h.p, h'.q.trans h.q, h'.w.trans h.w, h'.xp.trans h.xp, h'.fmt.trans h.fmt, h'.capture.trans h.capture,
    h'.status.trans h.status, h'.pd.trans h.pd, h'.deckq.trans h.deckq, h'.pierq.trans h.pierq⟩

theorem Ctx.SpecialsKept.trans {c d e : Ctx} (h : c.SpecialsKept d) (h' : d.SpecialsKept e) : c.SpecialsKept e :=
  ⟨h'.swctx.trans h.swctx, h'.tlimit.trans h.tlimit, h'.trise.trans h.trise, h'.spillbase.trans h.spillbase,
    h'.spilllen.trans h.spilllen, h'.lk.trans h.lk, h'.tvec.trans h.tvec, h'.trapbuf.trans h.trapbuf, h'.statbuf.trans h.statbuf⟩

theorem Ctx.StackKept.trans {c d e : Ctx} (h : c.StackKept d) (h' : d.StackKept e) : c.StackKept e :=
  ⟨h'.stack.trans h.stack, h'.plane0.trans h.plane0, h'.plane1.trans h.plane1, h'.tseq.trans h.tseq, h'.nextTile.trans h.nextTile⟩

/-- What a slot's effect leaves of its context before the commit. -/
structure Ctx.ActKept (tile : Bool) (c d : Ctx) : Prop where
  regs : c.RegsKept d
  specials : c.SpecialsKept d
  pend : d.pend = c.pend
  stack : tile = false → c.StackKept d
  window : tile = false → d.window = c.window
  tiles : tile = false → d.tiles = c.tiles
  statq : tile = false → d.statq = c.statq

theorem Ctx.ActKept.refl (tile : Bool) (c : Ctx) : Ctx.ActKept tile c c :=
  ⟨⟨rfl, rfl, rfl, rfl, rfl, rfl, rfl, rfl, rfl, rfl, rfl⟩, ⟨rfl, rfl, rfl, rfl, rfl, rfl, rfl, rfl, rfl⟩, rfl,
    fun _ => ⟨rfl, rfl, rfl, rfl, rfl⟩, fun _ => rfl, fun _ => rfl, fun _ => rfl⟩

/-- Operations that retire change the window, the tiles and the statistics queue alone. -/
theorem retireOps_eq (c : Ctx) (w : List TOp) : ∃ k q n, (∀ o ∈ w.take k, o.status = .done) ∧
    retireOps c w = { c with window := w.drop k, statq := q, lost := n } := by
  induction w generalizing c with
  | nil => exact ⟨0, c.statq, c.lost, by simp, rfl⟩
  | cons o w ih =>
    rw [retireOps]
    split
    · next hdone =>
      obtain ⟨q, n, hpost⟩ := c.post_eq o.pos o.eng o.stats
      obtain ⟨k, q', n', hk, hrest⟩ := ih (c.post o.pos o.eng o.stats)
      refine ⟨k + 1, q', n', fun x hx => ?_, by rw [hrest, hpost]; rfl⟩
      rcases List.mem_cons.mp hx with rfl | hx
      · simp only [Bool.and_eq_true, beq_iff_eq] at hdone
        exact hdone.1
      · exact hk x hx
    · exact ⟨0, c.statq, c.lost, by simp, rfl⟩

theorem Ctx.retireTiles_eq (c : Ctx) : ∃ k q n ts, (∀ o ∈ c.window.take k, o.status = .done) ∧ (∀ x ∈ ts, x ∈ c.tiles) ∧
    c.retireTiles = { c with window := c.window.drop k, statq := q, lost := n, tiles := ts } := by
  obtain ⟨k, q, n, hk, h⟩ := retireOps_eq c c.window
  refine ⟨k, q, n, c.retireTiles.tiles, hk, fun x hx => ?_, ?_⟩
  · rw [Ctx.retireTiles, h] at hx
    exact (List.mem_filter.mp hx).1
  · rw [Ctx.retireTiles, h]
    rfl

theorem Ctx.pushOp_actKept (c : Ctx) (p : TPlan) (mk : TPlan → Ctx → TOp) : Ctx.ActKept true c (c.pushOp p mk) := by
  unfold Ctx.pushOp
  dsimp only
  generalize hc1 : ({ c with window := _, stack := _, recent := _, plane0 := _, plane1 := _, nextTile := _, tiles := _ } : Ctx) = c1
  obtain ⟨k, q, n, ts, -, -, h⟩ := c1.retireTiles_eq
  rw [h, ← hc1]
  exact ⟨⟨rfl, rfl, rfl, rfl, rfl, rfl, rfl, rfl, rfl, rfl, rfl⟩, ⟨rfl, rfl, rfl, rfl, rfl, rfl, rfl, rfl, rfl⟩, rfl,
    (nomatch ·), (nomatch ·), (nomatch ·), (nomatch ·)⟩

/-! ### What a form leaves of the package -/

/-- Two states alike in all that a form's effect leaves but memory: the other contexts are as they were. -/
structure State.SameRest (a : Nat) (s u : State) : Prop where
  regmem : u.regmem = s.regmem
  insts : u.insts = s.insts
  arrivals : u.arrivals = s.arrivals
  tasks : u.tasks = s.tasks
  cycle : u.cycle = s.cycle
  others : ∀ b, b ≠ a → u.ctx b = s.ctx b

theorem State.SameRest.trans {a : Nat} {s u v : State} (h : State.SameRest a s u) (h' : State.SameRest a u v) : State.SameRest a s v :=
  ⟨h'.regmem.trans h.regmem, h'.insts.trans h.insts, h'.arrivals.trans h.arrivals, h'.tasks.trans h.tasks, h'.cycle.trans h.cycle,
    fun b hb => (h'.others b hb).trans (h.others b hb)⟩

theorem State.Kept.ctx {s u : State} (h : s.Kept u) (b : Nat) : u.ctx b = s.ctx b := by
  rw [State.ctx, h.ctxs, State.ctx]

theorem State.Kept.sameRest {s u : State} (h : s.Kept u) (a : Nat) : State.SameRest a s u :=
  ⟨h.regmem, h.insts, h.arrivals, h.tasks, h.cycle, fun b _ => h.ctx b⟩

theorem State.setCtx_sameRest (a : Nat) (s : State) (c : Ctx) : State.SameRest a s (s.setCtx a c) :=
  ⟨rfl, rfl, rfl, rfl, rfl, fun _ hb => State.setCtx_ctx_ne _ _ _ _ hb⟩

theorem State.onCtx_sameRest (a : Nat) (s : State) (f : Ctx → Ctx) : State.SameRest a s (s.onCtx a f) := by
  unfold State.onCtx
  split
  · exact s.setCtx_sameRest a _
  · exact ⟨rfl, rfl, rfl, rfl, rfl, fun _ _ => rfl⟩

/-- What a slot's effects leave, of the package and of the context that issues. -/
structure Eff.Frames (a : Nat) (tile : Bool) (f : Eff) : Prop where
  rest : ∀ s, State.SameRest a s (f.act s)
  own : ∀ s c, s.ctx a = some c → ∃ d, (f.act s).ctx a = some d ∧ Ctx.ActKept tile c d
  hold : ∀ s, State.TickKept a s (f.onHold s)

theorem Eff.Frames.of_kept {a : Nat} {tile : Bool} {f : Eff} (hact : ∀ s : State, s.Kept (f.act s)) (hhold : f.onHold = id) :
    f.Frames a tile :=
  ⟨fun s => (hact s).sameRest a, fun s c hc => ⟨c, ((hact s).ctx a).trans hc, .refl tile c⟩, fun s => by rw [hhold]; exact .refl a s⟩

theorem Eff.Quiet.frames {f : Eff} (h : f.Quiet) (a : Nat) (tile : Bool) : f.Frames a tile :=
  .of_kept (fun s => by rw [h.act]; exact ⟨rfl, rfl, rfl, rfl, rfl, rfl, rfl⟩) h.onHold

/-- A form whose effect changes its context after what it starts. -/
theorem Eff.Frames.of_onCtx {a : Nat} {tile : Bool} {f : Eff} {g : State → State} {k : Ctx → Ctx} (hact : ∀ s, f.act s = (g s).onCtx a k)
    (hrest : ∀ s, State.SameRest a s (g s)) (hctx : ∀ s, (g s).ctx a = s.ctx a) (hk : ∀ c, Ctx.ActKept tile c (k c))
    (hhold : ∀ s, State.TickKept a s (f.onHold s)) : f.Frames a tile := by
  refine ⟨fun s => ?_, fun s c hc => ⟨k c, ?_, hk c⟩, hhold⟩
  · rw [hact]
    exact (hrest s).trans (State.onCtx_sameRest a _ k)
  · rw [hact, State.onCtx_ctx, hctx, hc]
    rfl

theorem reqBtw_frames (q : MQual) (vr : BitVec 10) (addr : MAddr) (e : Env) (a : Nat) (ha : a = e.a) :
    ((reqBtw q vr addr).eff e).Frames a false := by
  subst ha
  have hclear (s : State) (ks : List Nat) : s.Kept (s.clearPoison ks) := by
    obtain ⟨l, hl⟩ := s.clearPoison_eq ks
    rw [hl]
    exact ⟨rfl, rfl, rfl, rfl, rfl, rfl, rfl⟩
  exact .of_onCtx (fun _ => rfl) (fun s => (hclear s _).sameRest e.a) (fun s => (hclear s _).ctx e.a)
    (fun c => ⟨⟨rfl, rfl, rfl, rfl, rfl, rfl, rfl, rfl, rfl, rfl, rfl⟩, ⟨rfl, rfl, rfl, rfl, rfl, rfl, rfl, rfl, rfl⟩, rfl,
      fun _ => ⟨rfl, rfl, rfl, rfl, rfl⟩, fun _ => rfl, fun _ => rfl, fun _ => rfl⟩) fun s => .refl e.a s

theorem reqSwwait_frames (q : MQual) (sv : BitVec 6) (addr : MAddr) (e : Env) : ((reqSwwait q sv addr).eff e).Frames e.a false := by
  have hnone (f : Eff) (hact : f.act = id) (hhold : f.onHold = id) : f.Frames e.a false :=
    .of_kept (fun s => by rw [hact]; exact ⟨rfl, rfl, rfl, rfl, rfl, rfl, rfl⟩) hhold
  have hreads (s s1 : State) : State.SameRest e.a s (s.withReads s1) := ⟨rfl, rfl, rfl, rfl, rfl, fun _ _ => rfl⟩
  have hkept (c : Ctx) (x y z) : Ctx.ActKept false c { c with swWait := x, swRel := y, swKey := z } :=
    ⟨⟨rfl, rfl, rfl, rfl, rfl, rfl, rfl, rfl, rfl, rfl, rfl⟩, ⟨rfl, rfl, rfl, rfl, rfl, rfl, rfl, rfl, rfl⟩, rfl,
      fun _ => ⟨rfl, rfl, rfl, rfl, rfl⟩, fun _ => rfl, fun _ => rfl, fun _ => rfl⟩
  unfold reqSwwait mReq
  dsimp only
  split
  · exact hnone _ rfl rfl
  · split
    · exact hnone _ rfl rfl
    · split
      · exact hnone _ rfl rfl
      · exact hnone _ rfl rfl
      · next s1 kb _ =>
        split
        · exact ⟨fun s => ⟨rfl, rfl, rfl, rfl, rfl, fun _ _ => rfl⟩, fun s c hc => ⟨c, hc, .refl false c⟩,
            fun s => State.TickKept.trans (.of_ctxs rfl) (.onCtx e.a (s.withReads s1) e.a fun _ => rfl)⟩
        · exact .of_onCtx (g := fun s => s.withReads s1) (fun _ => rfl) (fun s => hreads s s1) (fun _ => rfl)
            (fun c => hkept c none none none) fun s => .refl e.a s

theorem reqSwwait_post (q : MQual) (sv : BitVec 6) (addr : MAddr) (e : Env) : ((reqSwwait q sv addr).eff e).post = id := by
  unfold reqSwwait mReq
  dsimp only
  split
  · rfl
  · split
    · rfl
    · split
      · rfl
      · rfl
      · split <;> rfl

/-- The sequence number that a tile form takes. -/
def Env.took (e : Env) (p : TPlan) (s : State) : State × Option Nat :=
  match p.outWit with
  | some x => let r := s.takeSeq e.a e.c.pd.toNat x.2 e.c.cid; (r.1, some r.2)
  | none => (s, none)

/-- The context with a tile form's operation in its window. -/
def Env.entered (e : Env) (form : Instr) (t : TIn) (p : TPlan) (q : Option Nat) (c : Ctx) : Ctx :=
  { c.pushOp p fun p c => mkOp t form p c.tseq e.pos e.c.tick q e.a c with tseq := (c.tseq + 1) % 2 ^ 32 }

theorem tEff_act (e : Env) (form : Instr) (t : TIn) (p : TPlan) (s : State) :
    (tEff e form t p).act s = p.also ((e.took p s).1.onCtx e.a (e.entered form t p (e.took p s).2)) := rfl

theorem Env.took_kept (e : Env) (p : TPlan) (s : State) : s.Kept (e.took p s).1 := by
  unfold Env.took
  split <;> exact ⟨rfl, rfl, rfl, rfl, rfl, rfl, rfl⟩

theorem Env.entered_actKept (e : Env) (form : Instr) (t : TIn) (p : TPlan) (q : Option Nat) (c : Ctx) :
    Ctx.ActKept true c (e.entered form t p q c) := by
  obtain ⟨hregs, hspecials, hpend, -, -, -, -⟩ := c.pushOp_actKept p fun p c => mkOp t form p c.tseq e.pos e.c.tick q e.a c
  exact ⟨⟨hregs.s, hregs.p, hregs.q, hregs.w, hregs.xp, hregs.fmt, hregs.capture, hregs.status, hregs.pd, hregs.deckq, hregs.pierq⟩,
    ⟨hspecials.swctx, hspecials.tlimit, hspecials.trise, hspecials.spillbase, hspecials.spilllen, hspecials.lk, hspecials.tvec,
      hspecials.trapbuf, hspecials.statbuf⟩, hpend, (nomatch ·), (nomatch ·), (nomatch ·), (nomatch ·)⟩

/-- A tile form enters the window: its context's stack, planes, tiles and window are its own to change. -/
theorem tEff_frames (e : Env) (form : Instr) (t : TIn) {p : TPlan} (hp : p.Frames) : (tEff e form t p).Frames e.a true := by
  refine ⟨fun s => ?_, fun s c hc => ?_, fun s => ?_⟩
  · rw [tEff_act]
    exact (((e.took_kept p s).sameRest e.a).trans (State.onCtx_sameRest e.a _ _)).trans ((hp.also _).sameRest e.a)
  · refine ⟨_, ?_, e.entered_actKept form t p (e.took p s).2 c⟩
    rw [tEff_act, (hp.also _).ctx, State.onCtx_ctx, (e.took_kept p s).ctx, hc]
    rfl
  · show State.TickKept e.a s (p.onHold s)
    rw [hp.onHold]
    exact .refl e.a s

theorem tEff_act_mem (e : Env) (form : Instr) (t : TIn) {p : TPlan} (hp : p.Frames) (s : State) :
    ((tEff e form t p).act s).mem = s.mem := by
  rw [tEff_act, (hp.also _).mem, State.onCtx_mem, (e.took_kept p s).mem]

/-- The effects of the forms of the M slot. -/
theorem memory_of_reqOf {i : Instr} {r : SlotReq} (h : reqOf i = some r) (hs : r.slot = .m) (e : Env) :
    (r.eff e).post = id ∧ (r.eff e).Frames e.a false ∧ ((∀ q v a, i ≠ .swwait q v a) → ∀ s, ((r.eff e).act s).mem = s.mem) := by
  by_cases hbtw : ∃ q v a, i = .btw q v a
  · obtain ⟨q, v, a, rfl⟩ := hbtw
    cases h
    refine ⟨rfl, reqBtw_frames q v a e e.a rfl, fun _ s => ?_⟩
    refine (State.onCtx_mem _ _ _).trans ?_
    obtain ⟨l, hl⟩ := s.clearPoison_eq _
    rw [hl]
  · by_cases hwait : ∃ q v a, i = .swwait q v a
    · obtain ⟨q, v, a, rfl⟩ := hwait
      cases h
      exact ⟨reqSwwait_post q v a e, reqSwwait_frames q v a e, fun hne => absurd rfl (hne q v a)⟩
    · by_cases hpref : ∃ q a, i = .pref q a
      · obtain ⟨q, a, rfl⟩ := hpref
        cases h
        exact ⟨rfl, .of_kept (fun s => s.prefetch_kept _ _ _ _ _) rfl, fun _ s => (s.prefetch_kept _ _ _ _ _).mem⟩
      · obtain ⟨hact, hpost, hhold⟩ := starts_of_reqOf h hs (fun q v a hi => hbtw ⟨q, v, a, hi⟩) (fun q v a hi => hwait ⟨q, v, a, hi⟩)
          (fun q a hi => hpref ⟨q, a, hi⟩) e
        exact ⟨hpost, .of_kept hact hhold, fun _ s => (hact s).mem⟩

/-- The frame of every form but those of the C slot. -/
theorem frames_of_reqOf {i : Instr} {r : SlotReq} (h : reqOf i = some r) (hs : r.slot ≠ .c) (e : Env) :
    (r.eff e).Frames e.a (r.slot == .t) := by
  cases hslot : r.slot with
  | c => exact absurd hslot hs
  | s =>
    by_cases hset : ∃ m n sa, i = .sset m n sa
    · obtain ⟨m, n, sa, rfl⟩ := hset
      cases h
      exact .of_kept (fun _ => ⟨rfl, rfl, rfl, rfl, rfl, rfl, rfl⟩) rfl
    · exact (quiet_of_reqOf h (.inl hslot) (fun m n sa hi => hset ⟨m, n, sa, hi⟩) e).frames e.a _
  | v => exact (quiet_of_reqOf h (.inr (.inl hslot)) (fun m n sa hi => by subst hi; cases h; cases hslot) e).frames e.a _
  | x => exact (quiet_of_reqOf h (.inr (.inr hslot)) (fun m n sa hi => by subst hi; cases h; cases hslot) e).frames e.a _
  | t =>
    obtain ⟨m, f, sp, n, w, plan, rfl, hplan⟩ := tile_of_reqOf h hslot
    exact tEff_frames e f _ (hplan _)
  | m => exact (memory_of_reqOf h hslot e).2.1

/-- Only `SSET` has an effect after the commit. -/
theorem post_of_reqOf {i : Instr} {r : SlotReq} (h : reqOf i = some r) (hs : r.slot ≠ .c) (e : Env) :
    (r.eff e).post = id ∨ ∃ m n sa, i = .sset m n sa ∧ (r.eff e).post = fun s => s.onCtx e.a (specialSet n.toNat (e.c.readS sa.toNat)) := by
  cases hslot : r.slot with
  | c => exact absurd hslot hs
  | s =>
    by_cases hset : ∃ m n sa, i = .sset m n sa
    · obtain ⟨m, n, sa, rfl⟩ := hset
      cases h
      exact .inr ⟨m, n, sa, rfl, rfl⟩
    · exact .inl (quiet_of_reqOf h (.inl hslot) (fun m n sa hi => hset ⟨m, n, sa, hi⟩) e).post
  | v => exact .inl (quiet_of_reqOf h (.inr (.inl hslot)) (fun m n sa hi => by subst hi; cases h; cases hslot) e).post
  | x => exact .inl (quiet_of_reqOf h (.inr (.inr hslot)) (fun m n sa hi => by subst hi; cases h; cases hslot) e).post
  | t =>
    obtain ⟨m, f, sp, n, w, plan, rfl, -⟩ := tile_of_reqOf h hslot
    exact .inl rfl
  | m => exact .inl (memory_of_reqOf h hslot e).1

/-- No form but `SWWAIT` changes memory. -/
theorem act_mem_of_reqOf {i : Instr} {r : SlotReq} (h : reqOf i = some r) (hs : r.slot ≠ .c) (hwait : ∀ q v a, i ≠ .swwait q v a)
    (e : Env) (s : State) : ((r.eff e).act s).mem = s.mem := by
  cases hslot : r.slot with
  | c => exact absurd hslot hs
  | s =>
    by_cases hset : ∃ m n sa, i = .sset m n sa
    · obtain ⟨m, n, sa, rfl⟩ := hset
      cases h
      rfl
    · rw [(quiet_of_reqOf h (.inl hslot) (fun m n sa hi => hset ⟨m, n, sa, hi⟩) e).act]
      rfl
  | v =>
    rw [(quiet_of_reqOf h (.inr (.inl hslot)) (fun m n sa hi => by subst hi; cases h; cases hslot) e).act]
    rfl
  | x =>
    rw [(quiet_of_reqOf h (.inr (.inr hslot)) (fun m n sa hi => by subst hi; cases h; cases hslot) e).act]
    rfl
  | t =>
    obtain ⟨m, f, sp, n, w, plan, rfl, hplan⟩ := tile_of_reqOf h hslot
    exact tEff_act_mem e f _ (hplan _) s
  | m => exact (memory_of_reqOf h hslot e).2.2 hwait s

/-! ### A bundle of one form whose slot is not C: it traps, is held, or commits -/

/-- What the one slot of a bundle does, with its effect none where its leaf is not taken (R121). -/
def SlotReq.effIn (r : SlotReq) (e : Env) : Eff := if r.mask.getLsbD 0 then r.eff e else {}

theorem doneOf_other {e : Env} {r : SlotReq} {mT : Bool} (hs : r.slot ≠ .c) (hm : e.mTook = false) (ht : r.slot = .t → mT = false) :
    doneOf e 1 mT r = ⟨r.slot, r.mask.getLsbD 0, r.effIn e, (r.base e).toList ++ (r.effIn e).pends⟩ := by
  have hb : (r.slot == .c) = false := by simp [hs]
  have henv : (if r.slot == .t then { e with mTook := mT } else e) = e := by
    split
    · next h =>
      rw [ht (by simpa using h), ← hm]
    · rfl
  unfold doneOf SlotReq.effIn
  simp only [hb, Bool.false_or, Nat.sub_self, henv]
  cases r.mask.getLsbD 0 <;> rfl

/-- The commit of a bundle whose one slot is not C. -/
theorem commitBundle_other {e : Env} {d : Done} (hs : d.slot ≠ .c) (hidle : d.runs = false → d.eff.act = id ∧ d.eff.post = id) :
    ∃ w, commitBundle e [d] = e.commits d.slot d.pends w d.eff.act d.eff.post := by
  have hb : (d.slot == .c) = false := by simp [hs]
  unfold commitBundle Env.commits
  simp only [hb, List.find?_cons, List.find?_nil, List.foldl_cons, List.foldl_nil, List.map_cons, List.map_nil, List.sum_cons,
    List.sum_nil, Nat.add_zero, List.flatMap_cons, List.flatMap_nil, List.append_nil, List.reverse_cons, List.reverse_nil,
    List.nil_append, List.any_cons, List.any_nil, Bool.or_false, Option.map_none, Option.getD_none]
  cases hr : d.runs with
  | true =>
    simp only [if_true]
    exact ⟨_, rfl⟩
  | false =>
    obtain ⟨hact, hpost⟩ := hidle hr
    simp only [Bool.false_eq_true, if_false, hact, hpost]
    exact ⟨0, rfl⟩

/-- How the issue of a bundle of one form ends, whose slot is not C (R130, R131, R136). -/
inductive Issues (e : Env) (r : SlotReq) (t : State) : Prop where
  | traps (info : TrapInfo) (h : t = trapAt e info)
  | held (f : State → State) (hf : f = id ∨ f = (r.eff e).onHold) (h : t = (f e.s).onCtx e.a fun c => { c with held := true })
  | commits (w : Nat) (h : t = e.commits r.slot ((r.base e).toList ++ (r.effIn e).pends) w (r.effIn e).act (r.effIn e).post)

theorem issueLegal_other {e : Env} {r : SlotReq} {d : Done} (hs : r.slot ≠ .c)
    (hd : d = ⟨r.slot, r.mask.getLsbD 0, r.effIn e, (r.base e).toList ++ (r.effIn e).pends⟩) : Issues e r (issueLegal e [d]) := by
  have hc : cHolds [d] = false := by simp [cHolds, hd, hs]
  have hidle : d.runs = false → d.eff.act = id ∧ d.eff.post = id := by
    intro h
    have heff : d.eff = {} := by
      have hoff : r.mask.getLsbD 0 = false := by rw [hd] at h; exact h
      rw [hd, SlotReq.effIn, hoff]
      rfl
    rw [heff]
    exact ⟨rfl, rfl⟩
  unfold issueLegal
  rw [hc, if_neg Bool.false_ne_true]
  split
  · next s hp =>
    obtain ⟨info, -, rfl⟩ := Option.map_eq_some_iff.mp hp
    exact .traps info rfl
  · split
    · exact .traps _ rfl
    · split
      · next hhold =>
        simp only [List.any_cons, List.any_nil, Bool.or_false, Bool.and_eq_true] at hhold
        refine .held d.eff.onHold (.inr ?_) ?_
        · have hrun : r.mask.getLsbD 0 = true := by rw [hd] at hhold; exact hhold.1
          rw [hd, SlotReq.effIn, hrun]
          rfl
        · simp only [holdBundle, List.foldl_cons, List.foldl_nil, hhold.1, hhold.2, Bool.and_self, if_true]
      · split
        · exact .held id (.inl rfl) rfl
        · obtain ⟨w, hw⟩ := commitBundle_other (e := e) (d := d) (by rw [hd]; exact hs) hidle
          exact .commits w (by rw [hw, hd])

theorem issueIn_other {e : Env} {r : SlotReq} (hs : r.slot ≠ .c) (hm : e.mTook = false) : Issues e r (issueIn e [r]) := by
  have hb : (r.slot == .c) = false := by simp [hs]
  have hfind : [r].find? (fun r => r.slot == .c) = none := by simp [hs]
  have hd := doneOf_other (mT := [r].any fun r => r.slot == .m && r.mask.getLsbD 0 && (r.eff e).takesSeq) hs hm (by
    intro h
    simp [h])
  unfold issueIn
  simp only [hfind, List.map_cons, List.map_nil, Nat.sub_self, hd]
  split
  · exact .traps _ rfl
  · split
    · exact .traps _ rfl
    · split
      · exact .traps _ rfl
      · exact issueLegal_other hs rfl

/-! ### The points of an issue, and what follows its commit -/

/-- Results that land leave all of the package but their context, the register memory and poison. -/
theorem State.landDue_frame (s : State) (a : Nat) : (s.landDue a).mem = s.mem ∧ (s.landDue a).insts = s.insts ∧
    (s.landDue a).arrivals = s.arrivals ∧ (s.landDue a).tasks = s.tasks ∧ (s.landDue a).cycle = s.cycle ∧
    ∀ b, b ≠ a → (s.landDue a).ctx b = s.ctx b := by
  have hfold (l : List Pend) (u : State) : let v := l.foldl (fun s p => s.landOne a p) u
      v.mem = u.mem ∧ v.insts = u.insts ∧ v.arrivals = u.arrivals ∧ v.tasks = u.tasks ∧ v.cycle = u.cycle ∧
      ∀ b, b ≠ a → v.ctx b = u.ctx b := by
    induction l generalizing u with
    | nil => exact ⟨rfl, rfl, rfl, rfl, rfl, fun _ _ => rfl⟩
    | cons p l ih =>
      obtain ⟨h1, h2, h3, h4, h5, h6⟩ := ih (u.landOne a p)
      obtain ⟨r, q, hv⟩ := u.landedV_eq a p
      have hone := State.onCtx_sameRest a (u.landedV a p) fun c => c.land p
      rw [← State.landOne_eq_landedV] at hone
      refine ⟨h1.trans (u.landOne_mem a p), h2.trans (hone.insts.trans ?_), h3.trans (hone.arrivals.trans ?_),
        h4.trans (hone.tasks.trans ?_), h5.trans (hone.cycle.trans ?_), fun b hb => (h6 b hb).trans (u.landOne_ctx_ne a p hb)⟩
      all_goals rw [hv]
  unfold State.landDue
  split
  · exact ⟨rfl, rfl, rfl, rfl, rfl, fun _ _ => rfl⟩
  · next c hc =>
    obtain ⟨h1, h2, h3, h4, h5, h6⟩ := hfold c.due s
    dsimp only
    have hlast := State.onCtx_sameRest a (c.due.foldl (fun s p => s.landOne a p) s)
      fun c1 => { c1 with pend := c1.pend.filter fun p => !p.isDue }
    exact ⟨(State.onCtx_mem _ _ _).trans h1, hlast.insts.trans h2, hlast.arrivals.trans h3, hlast.tasks.trans h4,
      hlast.cycle.trans h5, fun b hb => (hlast.others b hb).trans (h6 b hb)⟩

theorem State.issuing_env {s : State} {lits : Nat} {e : Env} (h : s.issuing lits = some e) :
    e.a = s.cur ∧ e.s = s.landDue s.cur ∧ e.s.ctx e.a = some e.c ∧ e.mTook = false := by
  unfold State.issuing at h
  split at h
  · cases h
  · split at h
    · cases h
    · dsimp only at h
      unfold State.env at h
      split at h
      · cases h
      · split at h
        · cases h
        · dsimp only at h
          split at h
          · cases h
          · next c1 hc1 =>
            cases h
            exact ⟨rfl, rfl, hc1, rfl⟩

/-! ### A record drained, the commit, and a task that runs -/

/-- What draining a record leaves of its context: complete operations that waited for room have retired. -/
structure Ctx.Drained (c d : Ctx) : Prop where
  regs : c.RegsKept d
  specials : c.SpecialsKept d
  pend : d.pend = c.pend
  stack : c.StackKept d
  retired : c.Retired d
  idle : c.statq = [] → d = c

theorem Ctx.Retired.refl (c : Ctx) : c.Retired c := ⟨fun _ h => h, 0, by simp, rfl⟩

theorem Ctx.Drained.refl (c : Ctx) : c.Drained c :=
  ⟨(Ctx.ActKept.refl true c).regs, (Ctx.ActKept.refl true c).specials, rfl, ⟨rfl, rfl, rfl, rfl, rfl⟩, .refl c, fun _ => rfl⟩

theorem Ctx.statReturn_eq (c : Ctx) : ∃ k, c.statReturn = { c with statChunks := k } := by
  unfold Ctx.statReturn
  split
  · exact ⟨0, rfl⟩
  · exact ⟨c.statChunks, rfl⟩

/-- The context with its first record gone, and what waited for room retired. -/
theorem Ctx.drained (c : Ctx) {r : StatRec} {q : List StatRec} (hq : c.statq = r :: q) :
    c.Drained (Ctx.statReturn { c with statq := q, lost := 0 }).retireTiles := by
  obtain ⟨k, hk⟩ := Ctx.statReturn_eq { c with statq := q, lost := 0 }
  obtain ⟨j, q', n, ts, hdone, hts, h⟩ := (Ctx.statReturn { c with statq := q, lost := 0 }).retireTiles_eq
  rw [hk] at hdone hts
  rw [h, hk]
  exact ⟨⟨rfl, rfl, rfl, rfl, rfl, rfl, rfl, rfl, rfl, rfl, rfl⟩, ⟨rfl, rfl, rfl, rfl, rfl, rfl, rfl, rfl, rfl⟩, rfl,
    ⟨rfl, rfl, rfl, rfl, rfl⟩, ⟨hts, j, hdone, rfl⟩, fun h0 => by rw [hq] at h0; cases h0⟩

theorem State.drainStat_frame {s : State} {a : Nat} {c : Ctx} (hc : s.ctx a = some c) : State.SameRest a s (s.drainStat a) ∧
    (s.drainStat a).mem = s.mem ∧ ∃ d, (s.drainStat a).ctx a = some d ∧ c.Drained d := by
  cases hq : c.statq with
  | nil =>
    have heq : s.drainStat a = s := by simp only [State.drainStat, hc, hq]
    rw [heq]
    exact ⟨⟨rfl, rfl, rfl, rfl, rfl, fun _ _ => rfl⟩, rfl, c, hc, .refl c⟩
  | cons r q =>
    have hset := State.setCtx_sameRest a s (Ctx.statReturn { c with statq := q, lost := 0 }).retireTiles
    have hctx := State.setCtx_ctx s a (Ctx.statReturn { c with statq := q, lost := 0 }).retireTiles
    simp only [State.drainStat, hc, hq]
    split
    · exact ⟨hset, rfl, _, hctx, c.drained hq⟩
    · exact ⟨hset.trans ⟨rfl, rfl, rfl, rfl, rfl, fun _ _ => rfl⟩, rfl, _, hctx, c.drained hq⟩

theorem Ctx.charge_eq (c : Ctx) (n : Nat) : ∃ k b, c.charge n = { c with ecount := k, esat := b } := by
  unfold Ctx.charge
  split
  · exact ⟨_, _, rfl⟩
  · exact ⟨_, c.esat, rfl⟩

/-- What a commit leaves of its context. -/
structure Ctx.Committed (new : List Pend) (c d : Ctx) : Prop where
  regs : c.RegsKept d
  specials : c.SpecialsKept d
  pend : d.pend = (c.pend ++ new).map fun p => { p with left := p.left - 1 }
  stack : c.StackKept d
  window : d.window = c.window
  tiles : d.tiles = c.tiles

theorem commitCtx_committed (e : Env) (new : List Pend) (w : Nat) (np : CodePos × List LoopEntry) (c : Ctx) :
    Ctx.Committed new c (commitCtx e new w np c) := by
  obtain ⟨k, b, h⟩ := c.charge_eq w
  unfold commitCtx
  rw [h]
  exact ⟨⟨rfl, rfl, rfl, rfl, rfl, rfl, rfl, rfl, rfl, rfl, rfl⟩, ⟨rfl, rfl, rfl, rfl, rfl, rfl, rfl, rfl, rfl⟩, rfl,
    ⟨rfl, rfl, rfl, rfl, rfl⟩, rfl, rfl⟩

/-- What `SSET` leaves of its context beside the special registers. -/
theorem specialSet_kept (n : Nat) (v : W64) (c : Ctx) : c.RegsKept (specialSet n v c) ∧ (specialSet n v c).pend = c.pend ∧
    c.StackKept (specialSet n v c) ∧ (specialSet n v c).window = c.window ∧ (specialSet n v c).tiles = c.tiles := by
  unfold specialSet
  split <;> exact ⟨⟨rfl, rfl, rfl, rfl, rfl, rfl, rfl, rfl, rfl, rfl, rfl⟩, rfl, ⟨rfl, rfl, rfl, rfl, rfl⟩, rfl, rfl⟩

theorem State.fwWrite_mem (s : State) (pa : Nat) (bs : List Byte) : (s.fwWrite pa bs).mem =
    (zipIdxBytes (physKey 0 0 pa) bs).foldl (fun m w => AL.set Memory.unlisted m w.1 w.2) s.mem := by
  obtain ⟨l, hl⟩ := s.clearPoison_eq ((List.range bs.length).map fun i => physKey 0 0 (pa + i))
  rw [State.fwWrite, hl]
  rfl

theorem State.ringAppend_mem {s u : State} (h : u.mem = s.mem) (hdr size : Nat) (bs : List Byte) :
    (u.ringAppend hdr size bs).mem = (s.ringAppend hdr size bs).mem := by
  have hnat (pa n : Nat) : u.fwNat pa n = s.fwNat pa n := congrArg leNat (State.memBytes_of_mem h _ _)
  simp only [State.ringAppend, State.fwWrite_mem, hnat, h]

theorem State.journal_mem {s u : State} (h : u.mem = s.mem) (hcycle : u.cycle = s.cycle) (queue state : Nat) (tag : BitVec 32)
    (kind status : Nat) (hash : W64) : (u.journal queue state tag kind status hash).mem = (s.journal queue state tag kind status hash).mem := by
  have hnat (pa n : Nat) : u.fwNat pa n = s.fwNat pa n := congrArg leNat (State.memBytes_of_mem h _ _)
  simp only [State.journal, hnat, hcycle]
  exact State.ringAppend_mem h _ _ _

theorem State.enter_mem {s u : State} (h : u.mem = s.mem) (hcycle : u.cycle = s.cycle) (htasks : u.tasks = s.tasks) (id : Nat)
    (st : TState) (cls detail : Nat) (hash : W64) : (u.enter id st cls detail hash).mem = (s.enter id st cls detail hash).mem := by
  have htask : u.task id = s.task id := by rw [State.task, htasks, State.task]
  unfold State.enter
  rw [htask]
  cases s.task id with
  | none => exact h
  | some t =>
    dsimp only
    exact State.journal_mem (s := s.onTask id _) (u := u.onTask id _) h hcycle _ _ _ _ _ _

/-- The journal record of a task that runs depends on memory, the clock and the tasks alone. -/
theorem State.markRunning_mem {s u : State} (h : u.mem = s.mem) (hcycle : u.cycle = s.cycle) (htasks : u.tasks = s.tasks) (id : Nat) :
    (u.markRunning id).mem = (s.markRunning id).mem := by
  have htask : u.task id = s.task id := by rw [State.task, htasks, State.task]
  unfold State.markRunning
  rw [htask]
  cases s.task id with
  | none => exact h
  | some t =>
    dsimp only
    split
    · exact State.enter_mem h hcycle htasks _ _ _ _ _
    · exact h

/-- Two states alike but for memory, the lines, poison and the tasks. -/
structure State.Journaled (s u : State) : Prop where
  regmem : u.regmem = s.regmem
  insts : u.insts = s.insts
  arrivals : u.arrivals = s.arrivals
  ctxs : u.ctxs = s.ctxs

theorem State.fwWrite_journaled (s : State) (pa : Nat) (bs : List Byte) : s.Journaled (s.fwWrite pa bs) := by
  obtain ⟨_, _, _, _, h⟩ := s.fwWrite_rest pa bs
  rw [h]
  exact ⟨rfl, rfl, rfl, rfl⟩

theorem State.Journaled.trans {s t u : State} (h : s.Journaled t) (h' : t.Journaled u) : s.Journaled u :=
  ⟨h'.regmem.trans h.regmem, h'.insts.trans h.insts, h'.arrivals.trans h.arrivals, h'.ctxs.trans h.ctxs⟩

theorem State.journal_journaled (s : State) (queue state : Nat) (tag : BitVec 32) (kind status : Nat) (hash : W64) :
    s.Journaled (s.journal queue state tag kind status hash) :=
  (s.fwWrite_journaled _ _).trans (State.fwWrite_journaled _ _ _)

theorem State.enter_journaled (s : State) (id : Nat) (st : TState) (cls detail : Nat) (hash : W64) :
    s.Journaled (s.enter id st cls detail hash) := by
  have htask (f : Task → Task) : s.Journaled (s.onTask id f) := ⟨rfl, rfl, rfl, rfl⟩
  unfold State.enter
  split
  · exact ⟨rfl, rfl, rfl, rfl⟩
  · exact (htask _).trans (State.journal_journaled _ _ _ _ _ _ _)

theorem State.markRunning_journaled (s : State) (id : Nat) : s.Journaled (s.markRunning id) := by
  unfold State.markRunning
  split
  · split
    · exact s.enter_journaled _ _ _ _ _
    · exact ⟨rfl, rfl, rfl, rfl⟩
  · exact ⟨rfl, rfl, rfl, rfl⟩

/-! ### The commit of a bundle of one form -/

/-- What a commit leaves of the context that issues: after its effect, the drain of a record and the advance, `SSET` writes. -/
structure Ctx.Advanced (sl : Slot) (new : List Pend) (post : Bool) (c d : Ctx) : Prop where
  regs : c.RegsKept d
  specials : post = false → c.SpecialsKept d
  pend : d.pend = (c.pend ++ new).map fun p => { p with left := p.left - 1 }
  stack : sl ≠ .t → c.StackKept d
  retired : sl ≠ .t → c.Retired d
  idle : sl ≠ .t → sl = .m ∨ c.statq = [] → d.tiles = c.tiles ∧ d.window = c.window

/-- The context after the effect and the drain, and then the advance. -/
theorem Ctx.Advanced.of_drained {sl : Slot} {new : List Pend} {c d1 d0 d : Ctx} (hact : Ctx.ActKept (sl == .t) c d1) (hdrain : d1.Drained d0)
    (hm : sl = .m → d0 = d1) (h : Ctx.Committed new d0 d) : Ctx.Advanced sl new false c d := by
  have ht (hs : sl ≠ .t) : (sl == .t) = false := by simpa using hs
  refine ⟨(hact.regs.trans hdrain.regs).trans h.regs, fun _ => (hact.specials.trans hdrain.specials).trans h.specials,
    by rw [h.pend, hdrain.pend, hact.pend], fun hs => ((hact.stack (ht hs)).trans hdrain.stack).trans h.stack, fun hs => ?_,
    fun hs hidle => ?_⟩
  · obtain ⟨n, hdone, hw⟩ := hdrain.retired.window
    rw [hact.window (ht hs)] at hdone hw
    exact ⟨fun x hx => by simpa only [hact.tiles (ht hs)] using hdrain.retired.tiles x (h.tiles ▸ hx), n, hdone, h.window.trans hw⟩
  · have hd : d0 = d1 := hidle.elim hm fun hq => hdrain.idle ((hact.statq (ht hs)).trans hq)
    exact ⟨by rw [h.tiles, hd, hact.tiles (ht hs)], by rw [h.window, hd, hact.window (ht hs)]⟩

theorem Ctx.Advanced.specialSet {sl : Slot} {new : List Pend} {c d : Ctx} (h : Ctx.Advanced sl new false c d) (n : Nat) (v : W64) :
    Ctx.Advanced sl new true c (specialSet n v d) := by
  obtain ⟨hregs, hpend, hstack, hwindow, htiles⟩ := specialSet_kept n v d
  refine ⟨h.regs.trans hregs, (nomatch ·), hpend.trans h.pend, fun hs => (h.stack hs).trans hstack, fun hs => ?_, fun hs hidle => ?_⟩
  · obtain ⟨hsub, k, hdone, hw⟩ := h.retired hs
    exact ⟨fun x hx => hsub x (htiles ▸ hx), k, hdone, hwindow.trans hw⟩
  · rw [htiles, hwindow]
    exact h.idle hs hidle

/-- What the effect of a slot, and the drain of a record where it has no memory form, leave. -/
theorem Eff.Frames.drained {f : Eff} {e : Env} {sl : Slot} (hf : f.Frames e.a (sl == .t)) (hc : e.s.ctx e.a = some e.c) :
    let s0 := if sl == .m then f.act e.s else (f.act e.s).drainStat e.a
    State.SameRest e.a e.s s0 ∧ s0.mem = (f.act e.s).mem ∧
      ∃ d1 d0, s0.ctx e.a = some d0 ∧ Ctx.ActKept (sl == .t) e.c d1 ∧ d1.Drained d0 ∧ (sl = .m → d0 = d1) := by
  obtain ⟨d1, hd1, hact⟩ := hf.own e.s e.c hc
  dsimp only
  split
  · exact ⟨hf.rest e.s, rfl, d1, d1, hd1, hact, .refl d1, fun _ => rfl⟩
  · next hm =>
    obtain ⟨hrest, hmem, d0, hd0, hdrain⟩ := State.drainStat_frame hd1
    exact ⟨(hf.rest e.s).trans hrest, hmem, d1, d0, hd0, hact, hdrain, fun h => absurd (by simp [h]) hm⟩

/-- The commit of a bundle of one form: its effect, the advance of its context, and the task that runs. -/
theorem Env.commits_frame {e : Env} {f : Eff} {sl : Slot} (hf : f.Frames e.a (sl == .t)) (hc : e.s.ctx e.a = some e.c)
    (new : List Pend) (w : Nat) {set : Bool} (hpost : (set = false ∧ f.post = id) ∨
      (set = true ∧ ∃ n v, f.post = fun s => s.onCtx e.a (specialSet n v))) :
    ∃ u d, e.commits sl new w f.act f.post = (u.markRunning e.c.task).progress (dieOf e.a) ∧ State.SameRest e.a e.s u ∧
      u.mem = (f.act e.s).mem ∧ u.ctx e.a = some d ∧ Ctx.Advanced sl new set e.c d := by
  obtain ⟨hrest, hmem, d1, d0, hd0, hact, hdrain, hm⟩ := hf.drained hc
  unfold Env.commits
  dsimp only
  generalize (if sl == .m then f.act e.s else (f.act e.s).drainStat e.a) = s0 at *
  generalize (if e.repK + 1 < e.repN then (e.pos, e.c.loops) else nextPos e.pos e.seqPos .sequential e.c.loops) = np
  have hrest1 := hrest.trans (State.onCtx_sameRest e.a s0 (commitCtx e new (4 + w) np))
  have hmem1 : (s0.onCtx e.a (commitCtx e new (4 + w) np)).mem = (f.act e.s).mem := (State.onCtx_mem _ _ _).trans hmem
  have hctx1 : (s0.onCtx e.a (commitCtx e new (4 + w) np)).ctx e.a = some (commitCtx e new (4 + w) np d0) := by
    rw [State.onCtx_ctx, hd0]
    rfl
  have hadv := Ctx.Advanced.of_drained hact hdrain hm (commitCtx_committed e new (4 + w) np d0)
  generalize s0.onCtx e.a (commitCtx e new (4 + w) np) = s1 at *
  rcases hpost with ⟨rfl, hp⟩ | ⟨rfl, n, v, hp⟩
  · exact ⟨s1, _, by rw [hp]; rfl, hrest1, hmem1, hctx1, hadv⟩
  · refine ⟨s1.onCtx e.a (specialSet n v), _, by rw [hp], hrest1.trans (State.onCtx_sameRest e.a s1 _),
      (State.onCtx_mem _ _ _).trans hmem1, ?_, hadv.specialSet n v⟩
    rw [State.onCtx_ctx, hctx1]
    rfl

theorem State.issuing_lits {s : State} {lits : Nat} {e : Env} (h : s.issuing lits = some e) (k : Nat) : ∃ e', s.issuing k = some e' ∧
    e'.a = e.a ∧ e'.s = e.s ∧ e'.c = e.c ∧ e'.mTook = false := by
  have hsome : ∃ e', s.issuing k = some e' := by
    unfold State.issuing at h ⊢
    split at h
    · cases h
    · split at h
      · cases h
      · next hrun =>
        rw [if_neg hrun]
        dsimp only at h ⊢
        unfold State.env at h ⊢
        split at h
        · cases h
        · split at h
          · cases h
          · next hfree =>
            rw [if_neg hfree]
            dsimp only at h ⊢
            split at h
            · cases h
            · exact ⟨_, rfl⟩
  obtain ⟨e', h'⟩ := hsome
  obtain ⟨ha, hs, hc, -⟩ := State.issuing_env h
  obtain ⟨ha', hs', hc', hm'⟩ := State.issuing_env h'
  refine ⟨e', h', ha'.trans ha.symm, hs'.trans hs.symm, ?_, hm'⟩
  rw [hs', ha', ← hs, ← ha, hc] at hc'
  exact (Option.some.inj hc').symm

/-- A state whose context at an agent has ticked does not keep the tick. -/
theorem State.TickKept.not_succ {a : Nat} {s t : State} {c d : Ctx} (h : State.TickKept a s t) (hc : s.ctx a = some c)
    (hd : t.ctx a = some d) : d.tick ≠ c.tick + 1 := by
  obtain ⟨c', hc', htick⟩ := h d hd
  cases hc.symm.trans hc'
  rw [htick]
  bv_omega

/-- A bundle of one form after which its context has ticked has committed. -/
theorem Issues.commits_of_tick {e : Env} {r : SlotReq} {t : State} {d : Ctx} (h : Issues e r t) (hf : (r.eff e).Frames e.a (r.slot == .t))
    (hc : e.s.ctx e.a = some e.c) (hd : t.ctx e.a = some d) (htick : d.tick = e.c.tick + 1) :
    ∃ w, t = e.commits r.slot ((r.base e).toList ++ (r.effIn e).pends) w (r.effIn e).act (r.effIn e).post := by
  cases h with
  | traps info h => exact absurd htick ((h ▸ trapAt_tickKept e.a e info : State.TickKept e.a e.s t).not_succ hc hd)
  | held f hfun h =>
    have hkept : State.TickKept e.a e.s (f e.s) := by
      rcases hfun with rfl | rfl
      · exact .refl e.a e.s
      · exact hf.hold e.s
    exact absurd htick ((h ▸ hkept.trans (.onCtx e.a _ e.a fun _ => rfl) : State.TickKept e.a e.s t).not_succ hc hd)
  | commits w h => exact ⟨w, h⟩

/-- The frame of a form whose leaf may not be taken. -/
theorem SlotReq.effIn_frames {r : SlotReq} {e : Env} (h : (r.eff e).Frames e.a (r.slot == .t)) : (r.effIn e).Frames e.a (r.slot == .t) := by
  unfold SlotReq.effIn
  split
  · exact h
  · exact .of_kept (fun _ => ⟨rfl, rfl, rfl, rfl, rfl, rfl, rfl⟩) rfl

/-- The effect after the commit of a form whose leaf may not be taken. -/
theorem effIn_post {i : Instr} {r : SlotReq} (h : reqOf i = some r) (hs : r.slot ≠ .c) (e : Env) : ∃ set : Bool,
    ((set = false ∧ (r.effIn e).post = id) ∨ (set = true ∧ ∃ n v, (r.effIn e).post = fun s => s.onCtx e.a (specialSet n v))) ∧
    ((∀ m n sa, i ≠ .sset m n sa) → set = false) := by
  unfold SlotReq.effIn
  split
  · rcases post_of_reqOf h hs e with hp | ⟨m, n, sa, rfl, hp⟩
    · exact ⟨false, .inl ⟨rfl, hp⟩, fun _ => rfl⟩
    · exact ⟨true, .inr ⟨rfl, _, _, hp⟩, fun hne => absurd rfl (hne m n sa)⟩
  · exact ⟨false, .inl ⟨rfl, rfl⟩, fun _ => rfl⟩

theorem effIn_mem {i : Instr} {r : SlotReq} (h : reqOf i = some r) (hs : r.slot ≠ .c) (hwait : ∀ q v a, i ≠ .swwait q v a)
    (e : Env) (s : State) : ((r.effIn e).act s).mem = s.mem := by
  unfold SlotReq.effIn
  split
  · exact act_mem_of_reqOf h hs hwait e s
  · rfl

theorem State.markRunning_eq_self {s : State} {id : Nat} (h : ∀ x, s.task id = some x → x.state ≠ .placed) : s.markRunning id = s := by
  unfold State.markRunning
  split
  · next t ht => exact if_neg (by simpa using h t ht)
  · rfl

/-- Settles O53: a bundle that ticks has committed, and each part of the commit keeps what the frame names. -/
theorem formFrame : Obligations.FormFrame := by
  unfold Obligations.FormFrame
  intro i r lits s t e d hreq hs he hx hd htick
  obtain ⟨k, hk⟩ := exec_of_reqOf hreq
  obtain ⟨e', he', ha, hes, hec, hm⟩ := State.issuing_lits he k
  obtain ⟨hcur, hland, hctx, -⟩ := State.issuing_env he
  rw [hk, issueForm_of_issuing r he'] at hx
  obtain rfl := Host.Outcome.next.inj hx
  rw [← ha, ← hes, ← hec] at hctx
  rw [← ha] at hd
  rw [← hec] at htick
  have hf := frames_of_reqOf hreq hs e'
  obtain ⟨w, hw⟩ := (issueIn_other hs hm).commits_of_tick hf hctx hd htick
  obtain ⟨set, hpost, hset⟩ := effIn_post hreq hs e'
  obtain ⟨u, d', hu, hrest, hmem, hd', hadv⟩ := Env.commits_frame (SlotReq.effIn_frames hf) hctx
    ((r.base e').toList ++ (r.effIn e').pends) w hpost
  obtain ⟨lmem, linsts, larrivals, ltasks, lcycle, lothers⟩ := s.landDue_frame s.cur
  rw [← hland, ← hes] at lmem linsts larrivals ltasks lcycle lothers
  rw [← hcur, ← ha] at lothers
  have hj := u.markRunning_journaled e'.c.task
  rw [hw, hu] at hd ⊢
  have hdd : d' = d := by
    have hsame : (u.markRunning e'.c.task).ctx e'.a = u.ctx e'.a := by rw [State.ctx, hj.ctxs, State.ctx]
    exact Option.some.inj (hd'.symm.trans (hsame.symm.trans hd))
  subst hdd
  rw [hec] at hadv
  have hothers (b : Nat) (hb : b ≠ e'.a) : (u.markRunning e'.c.task).ctx b = s.ctx b := by
    have hsame : (u.markRunning e'.c.task).ctx b = u.ctx b := by rw [State.ctx, hj.ctxs, State.ctx]
    exact hsame.trans ((hrest.others b hb).trans (lothers b hb))
  have hrunmem (hwait : ∀ q sv a, i ≠ .swwait q sv a) :
      (u.markRunning e'.c.task).mem = (s.markRunning e'.c.task).mem :=
    State.markRunning_mem (hmem.trans ((effIn_mem hreq hs hwait e' e'.s).trans lmem)) (hrest.cycle.trans lcycle)
      (hrest.tasks.trans ltasks) _
  rw [hec] at hrunmem hothers hj
  rw [hec]
  rw [ha] at hothers
  obtain ⟨rs, rp, rq, rw', rxp, rfmt, rcapture, rstatus, rpd, rdeckq, rpierq⟩ := hadv.regs
  refine ⟨fun hwait => ⟨fun j => ?_, fun hplaced j => ?_⟩, hj.regmem.trans (hrest.regmem.trans (by rw [hes])), hothers,
    hj.insts.trans (hrest.insts.trans linsts), hj.arrivals.trans (hrest.arrivals.trans larrivals), rs, rp, rq, rw', rxp, rfmt,
    rcapture, rstatus, rpd, rdeckq, rpierq, ⟨_, hadv.pend⟩, fun hne => ?_, fun ht => ?_⟩
  · exact congrArg (fun m => AL.get Memory.unlisted m j) (hrunmem hwait)
  · exact (congrArg (fun m => AL.get Memory.unlisted m j) (hrunmem hwait)).trans (by rw [State.markRunning_eq_self hplaced]; rfl)
  · obtain ⟨h1, h2, h3, h4, h5, h6, h7, h8, h9⟩ := hadv.specials (hset hne)
    exact ⟨h1, h2, h3, h4, h5, h6, h7, h8, h9⟩
  · obtain ⟨h1, h2, h3, h4, h5⟩ := hadv.stack ht
    obtain ⟨hsub, hwin⟩ := hadv.retired ht
    exact ⟨h1, h2, h3, h4, h5, hsub, hwin, hadv.idle ht⟩

end Sys2Proof.Machine
